-- ==== Sys2Proof/Word.lean ====
section
/-! DEFINITION. The word types of the block and the shape of its sparse arrays (spec/00 R6: 32-bit little-endian registers). -/

namespace Sys2Proof

/-- A BAR0 register word (R6). -/
abbrev Word := BitVec 32

/-- A 64-bit quantity: an engine general register, a counter, a token value. -/
abbrev DWord := BitVec 64

/-- A byte of a memory or of a packet. -/
abbrev Byte := BitVec 8

/-- A sparse array: index and value pairs, indices strictly rising, no entry equal to the array's default. -/
abbrev SMap (α : Type) := List (Nat × α)

/-- Bits `[hi:lo]` of a natural number (spec/00, bit ranges). -/
def bitsOf (n hi lo : Nat) : Nat := n / 2 ^ lo % 2 ^ (hi + 1 - lo)

/-- Bit `i` of a natural number. -/
def bitOf (n i : Nat) : Bool := n / 2 ^ i % 2 == 1

/-- Two's-complement reading of the low `w` bits. -/
def signed (w n : Nat) : Int :=
  let m := n % 2 ^ w
  if m < 2 ^ (w - 1) then (m : Int) else (m : Int) - (2 ^ w : Nat)

/-- Two's-complement encoding of an integer in `w` bits. -/
def unsignedOf (w : Nat) (i : Int) : Nat := (i % (2 ^ w : Nat)).toNat

/-- The larger of two bounds holds `x`. -/
def clampN (lo hi x : Nat) : Nat := if x < lo then lo else if hi < x then hi else x

/-- Addition that stops at `cap` (saturating counts). -/
def satAdd (cap a b : Nat) : Nat := if cap < a + b then cap else a + b

end Sys2Proof
end

