-- ==== Sys2Proof/Syntax.lean ====
section
/-! DEFINITION. The commands of the block (rows of spec/opcode_table.json) and the types of their operands. -/

namespace Sys2Proof

/-- Who accesses a register or issues a command: a host H0 to H3, the steward, or an engine context k = 64c + 8e + x
by RGRD or RGWR (spec/00 R6, spec/17 R470-R475). -/
inductive Src where
  | host (h : Fin 4)
  | steward
  | engine (k : Fin 1536)
  deriving DecidableEq, Repr

/-- The twelve modes of Table 03.1 (R53). -/
inductive Mode where
  | off | dormant | boot | monitor | load | standby | run | isolated | drain | test | repair | safeHold
  deriving DecidableEq, Repr

/-- Instructions of the JTAG port: BYPASS, IDCODE, or another by number (spec/18 R486). -/
inductive Jtag where
  | bypass | idcode
  | other (n : Nat)
  deriving DecidableEq, Repr

/-- The commands of the block: one constructor per row of spec/opcode_table.json, with the operands its rule names.
A write row carries its source, the element it names and the word written; an engine instruction row carries its context
and instruction bits [24:0]; an event row carries what it measures or names. -/
inductive Instr where
  /-- R66: VAON falls below 2.50 V or PORST_N is held low; everything, including HBM and the always-on domain, is lost. -/
  | powerOnReset (vaonFell : Bool) (lowNs : Nat)
  /-- R46: The 2 ms internal power-on hold expires; the always-on domain is released and the device enters DORMANT. -/
  | porRelease (straps : BitVec 4)
  /-- R37: VIN has stayed below 2.50 V for 10 us; all 80 domains switch off, the device enters DORMANT and PWR_E_VIN_UV is logged. -/
  | vinUndervoltage (mv : Fin 65536)
  /-- R37: VIN enters the band from 2.50 V to 2.70 V; PWR_W_VIN_LOW is raised once for the excursion. -/
  | vinLowExcursion (mv : Fin 65536)
  /-- R58: PWR_VIN_OK has held 1 for 1 ms with the die below +120 C, so DORMANT changes to BOOT. -/
  | bootEntry (mv : Fin 65536)
  /-- R66: A WARM_RST_N pulse of at least 1 us causes a warm reset with cause 2; the always-on state and HBM content are kept. -/
  | warmReset (lowNs : Nat)
  /-- R66: The steward watchdog expires and causes a warm reset with cause 5. -/
  | stewardWatchdog
  /-- R57: MON_REQ is held low for 1 ms; a monitor session opens, or the mode changes to MONITOR. -/
  | monReq (lowNs : Nat)
  /-- R45: No SLOWCLK edge arrives for 1 us; the always-on domain changes over to the internal RC oscillator. -/
  | slowclkLost
  /-- R45: After 1,024 good SLOWCLK edges the always-on domain returns to SLOWCLK. -/
  | slowclkReturn
  /-- R88: At a SLOWCLK edge Meridian changes between the fast and slow timebases. -/
  | timebaseChangeover
  /-- R48: The 1 ms die sensor reading drives the hot warning, SAFE-HOLD at +125 C and the thermal trip at +130 C. -/
  | dieTempSample (tdie : BitVec 16) (tcase : BitVec 16) (iin : BitVec 16) (pin : BitVec 16)
  /-- R58: Every SAFE-HOLD cause has been absent for 1 s; the device changes to ISOLATED or makes a warm reset with cause 6. -/
  | safeHoldExit
  /-- R39: Every 10 us while the VIN current limit acts, every cluster clock is lowered by 50 MHz. -/
  | currentLimitStep
  /-- R39: Every 100 us after the current has stayed below 24 A, the cluster clocks are restored by one step. -/
  | currentLimitRestore
  /-- R40: A power-stage phase faults and is retired. -/
  | phaseFail (i : Fin 24)
  /-- R44: A PLL achieves lock after its domain comes on. -/
  | pllLock (i : Fin 4)
  /-- R49: A write of a programmed cluster clock; it is range-checked and sets the effective clock. -/
  | pwrEngClkSet (src : Src) (c : Fin 24) (v : BitVec 5)
  /-- R42: A write of a domain request OFF, ON or AUTO; it is refused under the busy conditions. -/
  | pwrDomReq (src : Src) (d : Fin 80) (v : BitVec 2)
  /-- R43: A write of the clock-gate-only bit of a cluster; a power-gated cluster is woken to clock-gated. -/
  | pwrDomCgOnly (src : Src) (c : Fin 24) (v : Bool)
  /-- R41: A cluster has stayed clock-gated for 20 us with no live context and power-gates. -/
  | clusterPowerGate (c : Fin 24)
  /-- R43: A 500 ns wake interval begins, and up to six waiting power-gated clusters start power-up. -/
  | wakeInterval
  /-- R41: A domain reaches its first usable cycle within its wake time. -/
  | domainWakeDone (d : Fin 80)
  /-- R84: The lease holder writes GLB_REQ_OP = 1 to request RUN, which is refused unless the start conditions hold. -/
  | runRequest (src : Src)
  /-- R65: The lease holder requests STANDBY in LOAD; the request is refused unless the HBM-initialised flag is set. -/
  | standbyRequest (src : Src)
  /-- R62: DRAIN is requested with a target; line ingress and TX fetching stop. -/
  | drainRequest (src : Src) (target : BitVec 4)
  /-- R59: The lease holder cancels a DRAIN before it completes and returns to RUN. -/
  | drainCancel (src : Src)
  /-- R62: All queues, pools and the matching store are empty, and the drain goes to its target. -/
  | drainComplete
  /-- R62: A drain has not completed after 10 ms; it is forced and GLB_W_DRAIN_FORCED is raised. -/
  | drainForced
  /-- R63: The save finishes; every domain not listed for STANDBY powers down and the mode becomes STANDBY. -/
  | standbySaveDone
  /-- R64: Sideband activity from an eligible host wakes STANDBY, and the restore begins. -/
  | standbyWakeSideband (h : Fin 4)
  /-- R64: Meridian seconds reach GLB_WAKE_SEC and wake STANDBY. -/
  | standbyWakeTime
  /-- R64: The restore checks its CRC and writes back the saved state; the mode becomes ISOLATED or LOAD. -/
  | standbyRestoreDone (crcOk : Bool)
  /-- R71: The 0.1 ms steward start-up ends; SFDP discovery begins, or the mode changes to LOAD, MONITOR or TEST. -/
  | bootStartupDone
  /-- R71: The SFDP table has been read, and the flash read mode is chosen. -/
  | sfdpDiscoveryDone (has144 : Bool) (density : Nat)
  /-- R71: The primary or secondary manifest has been read and verified; the device moves on to LOAD, or to MONITOR with GLB_E_BOOT. -/
  | manifestReadDone
  /-- R84: A steward-conducted load completes with the start conditions met, and the mode changes to ISOLATED. -/
  | stewardLoadDone
  /-- R439: HBM PHY training ends; on failure MEM_E_TRAIN is raised and the pass does not start. -/
  | hbmTrainDone (ok : Bool)
  /-- R80: The initialiser has written the whole stack, and the HBM-initialised flag is set. -/
  | hbmPassDone
  /-- R66: The lease holder writes 0xA55A to cause a warm reset with cause 3. -/
  | glbResetGo (src : Src) (v : BitVec 16)
  /-- R69: A subsystem reset of line port p is requested. -/
  | subsysResetPort (src : Src) (p : BitVec 6)
  /-- R69: A subsystem reset of engine cluster c is requested. -/
  | subsysResetCluster (src : Src) (c : BitVec 6)
  /-- R69: A subsystem reset of the Graticule unit is requested. -/
  | subsysResetGraticule (src : Src)
  /-- R69: A subsystem reset of the TMS and aging agent is requested. -/
  | subsysResetTms (src : Src)
  /-- R69: A subsystem reset of the authentication lanes is requested. -/
  | subsysResetAuth (src : Src)
  /-- R69: A subsystem reset ends after its stated duration, and GLB_SR_BUSY clears. -/
  | subsysResetDone
  /-- R458: GLB_IMG_OP = 1 starts the load of an image from GLB_IMG_ADDR. -/
  | imageLoad (src : Src) (op : BitVec 2)
  /-- R75: An image has been read and checked for format, mode, signer and signature, and is applied or refused. -/
  | imageLoadDone
  /-- R76: One record of a configuration image is applied as a 32-bit register write, after the previous command's outcome. -/
  | configRecord
  /-- R91: TIM_CMD_OP = 1 requests loading of the staged Meridian value. -/
  | set (src : Src)
  /-- R91: TIM_CMD_OP = 2 requests adding TIM_STEP_NS to Meridian. -/
  | step (src : Src)
  /-- R91: TIM_CMD_OP = 3 requests loading the staged value at the next accepted PPS edge. -/
  | setAtPps (src : Src)
  /-- R91: A pending SET or STEP takes effect at the next fast-timebase tick, and TIM_I_STEP is raised. -/
  | timCommandEffect
  /-- R93: A rising PPS_IN edge is captured, accepted or rejected, and feeds the servo or a pending SET_AT_PPS. -/
  | ppsEdge (sub : Fin 40)
  /-- R93: No edge has been accepted for 1.1 s; TIM_PPS_SEEN clears and TIM_W_PPS_LOST is raised. -/
  | ppsLost
  /-- R96: TIM_HOLD_ELAPSED reaches TIM_HOLD_SEC; TIM_QUAL becomes FREE. -/
  | holdoverEnd
  /-- R96: A write that changes the time source moves LOCKED to HOLDOVER. -/
  | timSrc (src : Src) (v : BitVec 2)
  /-- R96: A write of the PTP lock declaration moves TIM_QUAL to LOCKED or HOLDOVER for source 2. -/
  | timPtpLock (src : Src) (v : Bool)
  /-- R94: A write of the frequency adjustment; it is refused with TIM_E_SRC while the servo owns the frequency. -/
  | timAdjFreq (src : Src) (v : BitVec 32)
  /-- R97: PPS_OUT rises at a Meridian seconds increment, unless it would rise within 500 ms of the last edge. -/
  | ppsOutRise
  /-- R97: PPS_OUT falls after TIM_PPSOUT_MS ms high. -/
  | ppsOutFall
  /-- R102: At a second boundary a requested change of refresh interval T takes effect. -/
  | refwRateChange
  /-- R435: A 410 ns all-bank refresh window begins on the Meridian grid and holds HBM accesses. -/
  | refreshWindow
  /-- R435: The 1 ms stack temperature reading requests a change of refresh interval and checks +85 C and +105 C. -/
  | memTempSample (temp : BitVec 16)
  /-- R110: A whole frame arrives at a port MAC; size, FCS, MAC-control and FIFO admission are decided and counters updated. -/
  | frameReceive (p : Fin 48) (frame : List Byte) (fcsOk : Bool) (pre : BitVec 2) (fecCorr : BitVec 16) (fecUncorr : BitVec 16)
  /-- R129: The first 64 bytes of an express frame have arrived, and it is offered to the pipeline entry. -/
  | expressOffer (p : Fin 48) (first : List Byte)
  /-- R107: A write of port mode, FEC, frame size or enable, refused under the stated conditions. -/
  | prtCfg (src : Src) (p : Fin 48) (v : BitVec 32)
  /-- R113: A write of the preemption configuration; enabling on an up link starts verification. -/
  | prtPreCfg (src : Src) (p : Fin 48) (v : BitVec 32)
  /-- R116: A write of the PRP or HSR mode, role and timers of a port or pair. -/
  | prtRedCfg (src : Src) (p : Fin 48) (v : BitVec 32)
  /-- R124: A W1S write clears all counters of the port. -/
  | prtCntClr (src : Src) (p : Fin 48)
  /-- R113: A port link comes up; PRT_I_LINK_UP is raised and preemption verification starts. -/
  | linkUp (p : Fin 48)
  /-- R322: A port link goes down; PRT_W_LINK_DOWN is raised and its queues discard at their heads. -/
  | linkDown (p : Fin 48)
  /-- R108: Auto-negotiation ends; an SGMII partner at 10 or 100 Mbit/s leaves the link down with PRT_E_SPEED. -/
  | autonegComplete (p : Fin 48) (mbps : Nat)
  /-- R487: A link bring-up fails receiver adaptation with signal detected, which counts toward lane retirement. -/
  | linkBringupFail (p : Fin 48)
  /-- R113: A preemption verify frame is sent every PRT_PRE_VERIFY_MS ms, for up to three attempts. -/
  | verifySend (p : Fin 48)
  /-- R113: A valid verify response arrives; preemption becomes ACTIVE. -/
  | verifyResponse (p : Fin 48)
  /-- R113: PRT_PRE_VERIFY_MS after the third attempt without a response, preemption becomes FAILED. -/
  | verifyFail (p : Fin 48)
  /-- R119: A source's duplicate window becomes invalid after PRT_RED_FORGET_MS of silence. -/
  | windowForget (i : Fin 16384)
  /-- R121: A learned partner entry is freed after 60 s of silence. -/
  | partnerEntryExpire (i : Fin 16384)
  /-- R123: A partner has been heard on one LAN only for PRT_RED_SUPV_MS; PRT_W_LAN_LOSS is raised. -/
  | lanLoss (i : Fin 16384)
  /-- R114: A preemptable frame in progress is preempted at the first permitted octet boundary for a waiting express frame. -/
  | preempt (p : Fin 48) (sent : Nat)
  /-- R304: A replica ends transmission and frees or releases its buffer reference. -/
  | replicaTransmitted (p : Fin 64) (ecc : BitVec 2)
  /-- R16: The entry arbiter grants a waiting packet a pipeline slot. -/
  | pipelineEntry (k : Fin 2) (port : Fin 64)
  /-- R130: A packet takes a free parse lane and starts at its entry word. -/
  | laneAcquire (k : Fin 2) (lane : Fin 64)
  /-- R156: A packet in the restart queue begins its parse again with its packet-local state cleared. -/
  | parseRestart (k : Fin 2) (lane : Fin 64)
  /-- R142: A lane executes one microword: BER, extractors, comparison, window, metadata, key seal and next address. -/
  | microword (k : Fin 2) (lane : Fin 64)
  /-- R137: A word's wait reaches WTT clocks, and the word proceeds with WTO true. -/
  | waitTimeout (k : Fin 2) (lane : Fin 64)
  /-- R139: A parse exceeds its clock limit or 64 clocks after its commit, and ends with drop code 30. -/
  | parseLimit (k : Fin 2) (lane : Fin 64)
  /-- R149: The payload pattern scan completes and sets PM_DONE and its hit results. -/
  | patternScanDone (k : Fin 2) (lane : Fin 64)
  /-- R134: The control-store scrubber reads a word, corrects single-bit errors and marks uncorrectable words bad. -/
  | parCsScrub (k : Fin 2) (w : Fin 4096) (upsets : BitVec 184)
  /-- R161: A write of 1 clears every PAR counter. -/
  | parCntClr (src : Src) (k : Fin 2)
  /-- R163: A rule lookup under the tagged edition completes and yields the action word. -/
  | classify (k : Fin 2) (express : Bool)
  /-- R173: A packet has been parked for 100 us and becomes edition-detached. -/
  | parkDetach (id : Nat)
  /-- R177: A fragment entry expires CLS_FRAG_TMO_MS after its creation. -/
  | fragmentTimeout (i : Fin 4096)
  /-- R169: The rule scrubber checks a rule, corrects single-bit errors and disables uncorrectable rules. -/
  | ruleScrub (bankB : Bool) (i : Fin 20480) (upset : BitVec 2)
  /-- R164: A write of the capacity mode and fragment lifetime; a change of mode is refused outside LOAD with both banks EMPTY. -/
  | clsCfg (src : Src) (v : BitVec 32)
  /-- R186: The STAGE command verifies the pack at CLS_CMD_ADDR and copies it into the staging area. -/
  | clsStage (src : Src)
  /-- R186: The COMMIT command commits the waiting or staged pack with the named edition number. -/
  | clsCommit (src : Src) (ed : BitVec 8)
  /-- R188: The ABORT command ends the STAGE or COMMIT in progress. -/
  | clsAbort (src : Src)
  /-- R186: The DISCARD command drops the waiting pack, or the installing or staged bank. -/
  | clsDiscard (src : Src)
  /-- R186: The pack has been read, checked and copied, and the STAGE reaches its outcome. -/
  | stageComplete (abortNow : Bool)
  /-- R184: A waiting pack begins installing once the non-current bank is EMPTY. -/
  | installStart
  /-- R184: Installation ends and the bank becomes STAGED. -/
  | installDone
  /-- R187: A commit switches editions in one clock; the old bank becomes DRAINING. -/
  | editionSwitch (abortNow : Bool)
  /-- R189: 100 us after a switch, every packet still counted in the draining bank becomes edition-detached. -/
  | editionDrainBound
  /-- R193: A write of 1 clears every CLS counter. -/
  | clsCntClr (src : Src)
  /-- R203: The APPID, LPM or L2 and VLAN lookups decide the packet's destination. -/
  | forwardDecision (k : Fin 2)
  /-- R204: The hardware learner applies an L2 learn request to both copies. -/
  | learnApply
  /-- R213: The TMS SEARCH command looks up a key in a table. -/
  | search (src : Src) (win : Fin 5) (v : BitVec 32)
  /-- R213: The TMS NEXT command walks a table from a cursor and writes up to N records. -/
  | next (src : Src) (win : Fin 5) (v : BitVec 32)
  /-- R214: The TMS INSERT command inserts an entry, relocating others if needed. -/
  | insert (src : Src) (win : Fin 5) (v : BitVec 32)
  /-- R213: The TMS DELETE command removes an entry, optionally conditional on its stamp. -/
  | delete (src : Src) (win : Fin 5) (v : BitVec 32)
  /-- R213: The TMS FLUSH_PORT command removes the entries of a port. -/
  | flushPort (src : Src) (win : Fin 5) (v : BitVec 32)
  /-- R213: The TMS FLUSH_ALL command removes every entry of a table. -/
  | flushAll (src : Src) (win : Fin 5) (v : BitVec 32)
  /-- R213: The TMS AGE_SCAN command removes expired entries. -/
  | ageScan (src : Src) (win : Fin 5) (v : BitVec 32)
  /-- R225: The TMS REHASH command migrates a table in place to a new seed. -/
  | rehash (src : Src) (win : Fin 5) (v : BitVec 32)
  /-- R216: The TMS RESUME command continues an ABORTED command or a live REHASH cursor. -/
  | resume (src : Src) (win : Fin 5) (v : BitVec 32)
  /-- R216: The TMS ABORT command ends the window's command ABORTED or COMPLETED_ABORT_LATE. -/
  | abort (src : Src) (win : Fin 5) (v : BitVec 32)
  /-- R214: At a routine boundary the TMS runs one routine of the current command up to its commit word. -/
  | tmsRoutine (abandonAt : Option (Fin 32)) (abortLate : Bool)
  /-- R217: The journalled moves are completed or dropped before a routine restarts or after a warm reset. -/
  | journalSettle (aonErr : Bool)
  /-- R199: A write of the flow, L2 or load-balance seed, refused after the freeze. -/
  | tblSeed (src : Src) (j : Fin 3) (k : Fin 4) (v : BitVec 32)
  /-- R201: A write of the seed for the next REHASH. -/
  | tblSeedNext (src : Src) (k : Fin 4) (v : BitVec 32)
  /-- R200: The bucket clear after a seed change ends, and TBL_I_FLOW_CLEARED is raised. -/
  | flowClearDone
  /-- R221: TBL_AGE_NOW advances by 1 every TBL_AGE_TICK_MS. -/
  | ageTick
  /-- R222: The aging agent visits a bucket and finds its expired entries. -/
  | ageVisit (l2 : Bool)
  /-- R223: A conditional delete removes an expired entry unless a hit updated its stamp. -/
  | ageDelete
  /-- R233: A write of 1 clears every TBL counter. -/
  | tblCntClr (src : Src)
  /-- R240: The flow lookup reads buckets, stash, cache or record and decides hit or miss. -/
  | flowLookup (k : Fin 2)
  /-- R244: The hardware learner applies a flow insertion request: record written, slot inserted, linked. -/
  | flowInsertApply
  /-- R241: A changed cached hot half is written back to its record every FLW_WB_MS. -/
  | writeBack (r : Fin 67108864)
  /-- R245: A freed record index becomes available again 4 us after it was freed. -/
  | recordQuarantineEnd (r : Fin 67108864)
  /-- R246: The free-list rebuild after a warm reset ends, and FLW_I_REBUILT is raised. -/
  | freeListRebuildDone
  /-- R254: The overflow wheel reaches FL_GO_EXP; the GOOSE alarm is set and FLW_W_GOOSE_TAL is raised. -/
  | gooseTalExpiry (r : Fin 67108864)
  /-- R257: The record command reads a flow record into FLW_RC_DATA. -/
  | recRead (src : Src) (win : Fin 5) (v : BitVec 32)
  /-- R258: The record command writes FLW_RC_DATA into a flow record atomically. -/
  | recWrite (src : Src) (win : Fin 5) (v : BitVec 32)
  /-- R257: The record command allocates a free, zeroed record. -/
  | recAlloc (src : Src) (win : Fin 5) (v : BitVec 32)
  /-- R257: The record command frees an allocated, unlinked record. -/
  | recFree (src : Src) (win : Fin 5) (v : BitVec 32)
  /-- R257: The record command reads a Gazetteer entry. -/
  | gzRead (src : Src) (win : Fin 5) (v : BitVec 32)
  /-- R256: The record command writes a Gazetteer entry, refused on a duplicate MAC. -/
  | gzWrite (src : Src) (win : Fin 5) (v : BitVec 32)
  /-- R236: A write of a key profile, refused above 48 bytes or while records are used. -/
  | flwKprof (src : Src) (j : Fin 16) (hi : Fin 2) (v : BitVec 32)
  /-- R248: A write of a load-balance group register is staged until a reseeding commit. -/
  | flwLbg (src : Src) (g : Fin 1024) (word : Fin 5) (v : BitVec 32)
  /-- R262: A write of 1 clears every FLW counter. -/
  | flwCntClr (src : Src)
  /-- R265: The Graticule unit reads an SV frame's ASDUs, checks them and writes accepted samples into slices. -/
  | sampleDelivery (k : Fin 2)
  /-- R272: A slice opens at its grid instant. -/
  | sliceOpen (g : Fin 512)
  /-- R272: Meridian reaches the grid instant plus SAU_JG_DL_NS; the slice closes with SL_F_DEADLINE. -/
  | sliceDeadline (g : Fin 512)
  /-- R266: A VALID stream has no accepted sample for SAU_ST_LOSS_US and becomes LOST. -/
  | streamLoss (st : Fin 4096)
  /-- R271: A write of a join group's registers; enabling is refused under the conditions of Table 10.3. -/
  | sauJgEn (src : Src) (g : Fin 512) (word : Fin 128) (v : BitVec 32)
  /-- R292: A write of a stream's configuration, refused while the stream is enabled except SAU_ST_EN. -/
  | sauStCfg (src : Src) (st : Fin 4096) (word : Fin 8) (v : BitVec 32)
  /-- R292: A write of a publication's configuration or destination, refused while enabled. -/
  | sauPubCfg (src : Src) (p : Fin 1024) (word : Fin 8) (v : BitVec 32)
  /-- R271: A write of SAU_CFG; a change of SAU_EARLY_US is refused while any group is enabled. -/
  | sauCfg (src : Src) (v : BitVec 32)
  /-- R291: A write of 1 clears every SAU counter. -/
  | sauCntClr (src : Src)
  /-- R284: A timing-wheel entry fires a GOOSE retransmission with the next sqNum. -/
  | gooseRetransmit
  /-- R298: The pool manager arbitrates one cycle's buffer requests in rotation, with spill and escape allotments. -/
  | poolRequest
  /-- R300: A refused protected pipeline packet has been retried for SWC_HOLD_NS and is dropped. -/
  | protectedHoldExpiry (k : Fin 2)
  /-- R304: The replication unit creates a packet's Inset, token, Graticule and egress replicas. -/
  | replicate (k : Fin 2)
  /-- R294: A write of 1 applies a new pool layout, accepted only in LOAD before the first grant. -/
  | swcLayoutApply (src : Src)
  /-- R305: A write of a replication group's high word applies the whole staged entry. -/
  | swcRgMaskH (src : Src) (g : Fin 4096) (v : BitVec 32)
  /-- R316: A write of 1 clears every SWC counter and every SWC_OWN_CNT. -/
  | swcCntClr (src : Src)
  /-- R323: A port whose transmitter can accept a frame selects a queue by reserved, priority and fair queueing rules. -/
  | queueSelect (p : Fin 64) (pre : Bool)
  /-- R322: An entry reaching the head of a queue on a link-down port, or a voided entry, is discarded. -/
  | headDiscard (q : Fin 32768)
  /-- R319: A write of a class-group mapping, refused under the conditions of R319. -/
  | tmgCg (src : Src) (p : Fin 64) (t : Fin 8) (v : BitVec 32)
  /-- R334: A write of a queue's shaper, weight or limit, refused outside the partitions. -/
  | tmgQCfg (src : Src) (q : Fin 32768) (word : Fin 2) (v : BitVec 32)
  /-- R328: A write of a shaper's rate, burst or enable, taking effect at its next refill. -/
  | shaperConfig (src : Src) (gs : Bool) (i : Fin 4096) (word : Fin 2) (v : BitVec 32)
  /-- R330: A 250 ns fine-wheel slot fires up to 64 entries in order. -/
  | fineWheelSlot
  /-- R329: A 1.024 ms overflow slot moves its entries toward the fine wheel and advances TMG_WHEEL_CNT. -/
  | overflowWheelSlot
  /-- R326: The 100 ms sweep brings the F_last of empty queues up to V. -/
  | tagSweep
  /-- R335: A write of 1 clears every TMG counter. -/
  | tmgCntClr (src : Src)
  /-- R346: Engine instruction: rd gets rs1 + rs2. -/
  | add (k : Fin 1536) (w : BitVec 25)
  /-- R346: Engine instruction: rd gets rs1 - rs2. -/
  | sub (k : Fin 1536) (w : BitVec 25)
  /-- R346: Engine instruction: bitwise AND. -/
  | and (k : Fin 1536) (w : BitVec 25)
  /-- R346: Engine instruction: bitwise OR. -/
  | or (k : Fin 1536) (w : BitVec 25)
  /-- R346: Engine instruction: bitwise XOR. -/
  | xor (k : Fin 1536) (w : BitVec 25)
  /-- R346: Engine instruction: logical left shift. -/
  | sll (k : Fin 1536) (w : BitVec 25)
  /-- R346: Engine instruction: logical right shift. -/
  | srl (k : Fin 1536) (w : BitVec 25)
  /-- R346: Engine instruction: arithmetic right shift. -/
  | sra (k : Fin 1536) (w : BitVec 25)
  /-- R346: Engine instruction: signed less-than compare. -/
  | cmplt (k : Fin 1536) (w : BitVec 25)
  /-- R346: Engine instruction: unsigned less-than compare. -/
  | cmpltu (k : Fin 1536) (w : BitVec 25)
  /-- R346: Engine instruction: signed minimum. -/
  | min (k : Fin 1536) (w : BitVec 25)
  /-- R346: Engine instruction: signed maximum. -/
  | max (k : Fin 1536) (w : BitVec 25)
  /-- R346: Engine instruction: unsigned minimum. -/
  | minu (k : Fin 1536) (w : BitVec 25)
  /-- R346: Engine instruction: unsigned maximum. -/
  | maxu (k : Fin 1536) (w : BitVec 25)
  /-- R346: Engine instruction: low 64 bits of the product. -/
  | mul (k : Fin 1536) (w : BitVec 25)
  /-- R346: Engine instruction: high 64 bits, signed. -/
  | mulh (k : Fin 1536) (w : BitVec 25)
  /-- R346: Engine instruction: high 64 bits, unsigned. -/
  | mulhu (k : Fin 1536) (w : BitVec 25)
  /-- R347: Engine instruction: signed quotient with the division rules. -/
  | div (k : Fin 1536) (w : BitVec 25)
  /-- R347: Engine instruction: unsigned quotient. -/
  | divu (k : Fin 1536) (w : BitVec 25)
  /-- R347: Engine instruction: signed remainder. -/
  | rem (k : Fin 1536) (w : BitVec 25)
  /-- R347: Engine instruction: unsigned remainder. -/
  | remu (k : Fin 1536) (w : BitVec 25)
  /-- R346: Engine instruction: count leading zeros. -/
  | clz (k : Fin 1536) (w : BitVec 25)
  /-- R346: Engine instruction: count 1 bits. -/
  | popc (k : Fin 1536) (w : BitVec 25)
  /-- R346: Engine instruction: byte reversal of 8, 4 or 2 bytes. -/
  | bswap (k : Fin 1536) (w : BitVec 25)
  /-- R346: Engine instruction: add a sign-extended immediate. -/
  | addi (k : Fin 1536) (w : BitVec 25)
  /-- R346: Engine instruction: AND with an immediate. -/
  | andi (k : Fin 1536) (w : BitVec 25)
  /-- R346: Engine instruction: OR with an immediate. -/
  | ori (k : Fin 1536) (w : BitVec 25)
  /-- R346: Engine instruction: XOR with an immediate. -/
  | xori (k : Fin 1536) (w : BitVec 25)
  /-- R346: Engine instruction: shift left by an immediate. -/
  | slli (k : Fin 1536) (w : BitVec 25)
  /-- R346: Engine instruction: logical shift right by an immediate. -/
  | srli (k : Fin 1536) (w : BitVec 25)
  /-- R346: Engine instruction: arithmetic shift right by an immediate. -/
  | srai (k : Fin 1536) (w : BitVec 25)
  /-- R346: Engine instruction: signed compare with an immediate. -/
  | cmplti (k : Fin 1536) (w : BitVec 25)
  /-- R346: Engine instruction: load an immediate shifted left by 16. -/
  | immh (k : Fin 1536) (w : BitVec 25)
  /-- R346: Engine instruction: branch and link, PC-relative. -/
  | brl (k : Fin 1536) (w : BitVec 25)
  /-- R346: Engine instruction: jump to a register target and link. -/
  | jrl (k : Fin 1536) (w : BitVec 25)
  /-- R346: Engine instruction: load a byte, sign-extended. -/
  | ldb (k : Fin 1536) (w : BitVec 25)
  /-- R346: Engine instruction: load a byte, zero-extended. -/
  | ldbu (k : Fin 1536) (w : BitVec 25)
  /-- R346: Engine instruction: load 2 bytes, sign-extended. -/
  | ldh (k : Fin 1536) (w : BitVec 25)
  /-- R346: Engine instruction: load 2 bytes, zero-extended. -/
  | ldhu (k : Fin 1536) (w : BitVec 25)
  /-- R346: Engine instruction: load 4 bytes, sign-extended. -/
  | ldw (k : Fin 1536) (w : BitVec 25)
  /-- R346: Engine instruction: load 4 bytes, zero-extended. -/
  | ldwu (k : Fin 1536) (w : BitVec 25)
  /-- R346: Engine instruction: load 8 bytes. -/
  | ldd (k : Fin 1536) (w : BitVec 25)
  /-- R346: Engine instruction: store a byte. -/
  | stb (k : Fin 1536) (w : BitVec 25)
  /-- R346: Engine instruction: store 2 bytes. -/
  | sth (k : Fin 1536) (w : BitVec 25)
  /-- R346: Engine instruction: store 4 bytes. -/
  | stw (k : Fin 1536) (w : BitVec 25)
  /-- R346: Engine instruction: store 8 bytes. -/
  | std (k : Fin 1536) (w : BitVec 25)
  /-- R349: Engine instruction: indivisible fetch and add. -/
  | xadd (k : Fin 1536) (w : BitVec 25)
  /-- R349: Engine instruction: indivisible compare and swap. -/
  | cas (k : Fin 1536) (w : BitVec 25)
  /-- R346: Engine instruction: branch if equal. -/
  | breq (k : Fin 1536) (w : BitVec 25)
  /-- R346: Engine instruction: branch if not equal. -/
  | brne (k : Fin 1536) (w : BitVec 25)
  /-- R346: Engine instruction: branch if less, signed. -/
  | brlt (k : Fin 1536) (w : BitVec 25)
  /-- R346: Engine instruction: branch if greater or equal, signed. -/
  | brge (k : Fin 1536) (w : BitVec 25)
  /-- R346: Engine instruction: branch if less, unsigned. -/
  | brltu (k : Fin 1536) (w : BitVec 25)
  /-- R346: Engine instruction: branch if greater or equal, unsigned. -/
  | brgeu (k : Fin 1536) (w : BitVec 25)
  /-- R346: Engine instruction: load 32 bytes into a vector register. -/
  | vld (k : Fin 1536) (w : BitVec 25)
  /-- R346: Engine instruction: store a vector register. -/
  | vst (k : Fin 1536) (w : BitVec 25)
  /-- R350: Engine instruction: lane-wise vector addition. -/
  | vadd (k : Fin 1536) (w : BitVec 25)
  /-- R350: Engine instruction: lane-wise vector subtraction. -/
  | vsub (k : Fin 1536) (w : BitVec 25)
  /-- R350: Engine instruction: lane-wise vector multiplication. -/
  | vmul (k : Fin 1536) (w : BitVec 25)
  /-- R350: Engine instruction: lane-wise multiply-accumulate. -/
  | vmac (k : Fin 1536) (w : BitVec 25)
  /-- R351: Engine instruction: complex multiplication. -/
  | vcmul (k : Fin 1536) (w : BitVec 25)
  /-- R351: Engine instruction: complex multiply-accumulate. -/
  | vcmac (k : Fin 1536) (w : BitVec 25)
  /-- R351: Engine instruction: sliding DFT step. -/
  | vdfts (k : Fin 1536) (w : BitVec 25)
  /-- R351: Engine instruction: accumulating DFT step. -/
  | vdfta (k : Fin 1536) (w : BitVec 25)
  /-- R350: Engine instruction: vector type conversion with scale. -/
  | vcvt (k : Fin 1536) (w : BitVec 25)
  /-- R350: Engine instruction: sum of the lanes into a general register. -/
  | vred (k : Fin 1536) (w : BitVec 25)
  /-- R346: Engine instruction: squared magnitude of complex lanes. -/
  | vmag2 (k : Fin 1536) (w : BitVec 25)
  /-- R350: Engine instruction: broadcast a general register to every lane. -/
  | vsplat (k : Fin 1536) (w : BitVec 25)
  /-- R350: Engine instruction: move one lane to a general register. -/
  | vmovg (k : Fin 1536) (w : BitVec 25)
  /-- R353: Engine instruction: send or hold a token. -/
  | emit (k : Fin 1536) (w : BitVec 25)
  /-- R354: Engine instruction: yield until a continuation token arrives. -/
  | await (k : Fin 1536) (w : BitVec 25)
  /-- R355: Engine instruction: end the task, send held tokens and settle buffers. -/
  | commit (k : Fin 1536) (w : BitVec 25)
  /-- R356: Engine instruction: request a pool buffer. -/
  | pkalloc (k : Fin 1536) (w : BitVec 25)
  /-- R357: Engine instruction: copy buffer bytes to local memory. -/
  | pkrd (k : Fin 1536) (w : BitVec 25)
  /-- R357: Engine instruction: copy local memory into a buffer. -/
  | pkwr (k : Fin 1536) (w : BitVec 25)
  /-- R358: Engine instruction: inject a packet at port 60. -/
  | pksend (k : Fin 1536) (w : BitVec 25)
  /-- R359: Engine instruction: resume a parked packet. -/
  | pkres (k : Fin 1536) (w : BitVec 25)
  /-- R359: Engine instruction: discard a parked packet. -/
  | pkdisc (k : Fin 1536) (w : BitVec 25)
  /-- R359: Engine instruction: FREE a buffer. -/
  | bfree (k : Fin 1536) (w : BitVec 25)
  /-- R359: Engine instruction: RELEASE a buffer reference. -/
  | brel (k : Fin 1536) (w : BitVec 25)
  /-- R360: Engine instruction: submit an authentication request descriptor. -/
  | auth (k : Fin 1536) (w : BitVec 25)
  /-- R361: Engine instruction: publish a GOOSE state change. -/
  | gpub (k : Fin 1536) (w : BitVec 25)
  /-- R362: Engine instruction: arm a cluster timer. -/
  | tmset (k : Fin 1536) (w : BitVec 25)
  /-- R362: Engine instruction: cancel a cluster timer. -/
  | tmcan (k : Fin 1536) (w : BitVec 25)
  /-- R363: Engine instruction: queue a DMA descriptor. -/
  | dmaq (k : Fin 1536) (w : BitVec 25)
  /-- R363: Engine instruction: wait for a DMA outcome. -/
  | dmaw (k : Fin 1536) (w : BitVec 25)
  /-- R364: Engine instruction: read a BAR0 register. -/
  | rgrd (k : Fin 1536) (w : BitVec 25)
  /-- R364: Engine instruction: write a BAR0 register. -/
  | rgwr (k : Fin 1536) (w : BitVec 25)
  /-- R346: Engine instruction: read a special register. -/
  | mfs (k : Fin 1536) (w : BitVec 25)
  /-- R348: Engine instruction: wait until earlier stores are visible and translated accesses complete. -/
  | fence (k : Fin 1536) (w : BitVec 25)
  /-- R365: Engine instruction: raise the TRAP exception. -/
  | trap (k : Fin 1536) (w : BitVec 25)
  /-- R341: A continuation token reaches the named context's queue, or is discarded as stale or full. -/
  | continuationDelivery (k : Fin 2048)
  /-- R362: A cluster timer reaches its due time and sends its token. -/
  | timerFire (c : Fin 24) (n : Fin 64)
  /-- R338: The engine-memory scrubber reads a word and corrects or reports its error. -/
  | engMemScrub (m : Fin 3) (word : BitVec 23) (upset : BitVec 2)
  /-- R373: A write of 1 clears every ENG counter. -/
  | engCntClr (src : Src)
  /-- R379: A token is offered to the matching store and accepted into an entry or refused. -/
  | tokenArrival (tmpl : Fin 16384) (pos : Fin 4) (tag : BitVec 32) (v : BitVec 64) (pin : Fin 32) (k : Option (Fin 1536))
  /-- R380: A ready entry is dispatched to a cluster, engine and context, pre-empting a lower class if needed. -/
  | dispatch (c : Fin 24)
  /-- R378: An incomplete entry is discarded TT_MATCH_TMO after it opened. -/
  | matchTimeout (n : Nat)
  /-- R384: CYCLE passes TT_BUDGET and the context takes the BUDGET exception. -/
  | budgetExhausted (k : Fin 1536)
  /-- R376: A write of a template enable, with the validity and pin checks. -/
  | tskTtEn (src : Src) (t : Fin 16384) (v : BitVec 32)
  /-- R403: The task command injects a token for a template. -/
  | inject (src : Src) (win : Fin 5) (v : BitVec 32)
  /-- R401: The task command resumes a context held for service. -/
  | ctxResume (src : Src) (win : Fin 5) (v : BitVec 32)
  /-- R403: The task command aborts a live context. -/
  | ctxAbort (src : Src) (win : Fin 5) (v : BitVec 32)
  /-- R403: The task command resumes a transfer suspended on a device-memory fault. -/
  | dmaResume (src : Src) (win : Fin 5) (v : BitVec 32)
  /-- R395: The task command aborts a transfer that has no outcome. -/
  | dmaAbort (src : Src) (win : Fin 5) (v : BitVec 32)
  /-- R386: A write of the Field book configuration; enabling clears the book. -/
  | tskFbEn (src : Src) (v : BitVec 32)
  /-- R408: A write of 1 clears every TSK counter. -/
  | tskCntClr (src : Src)
  /-- R389: MMU_INV_OP = 1 invalidates the TLB entries of an ASID. -/
  | invalidateAsid (src : Src) (a : Fin 256)
  /-- R389: MMU_INV_OP = 2 invalidates a range of pages of an ASID. -/
  | invalidateRange (src : Src) (a : Fin 256)
  /-- R389: MMU_INV_OP = 3 invalidates every unlocked TLB entry. -/
  | invalidateAll (src : Src) (a : Fin 256)
  /-- R389: An invalidation completes in every cluster, and MMU_I_INV_DONE is raised. -/
  | invalidationDone
  /-- R388: A write of an address-space root, refused for an ASID in pinned use. -/
  | mmuRoot (src : Src) (a : Fin 256) (hi : Bool) (v : BitVec 32)
  /-- R410: A write of 1 clears every MMU counter. -/
  | mmuCntClr (src : Src)
  /-- R396: A transfer meets a device-memory fault or an absent host page and is suspended at DD_DONE. -/
  | dmaSuspend (c : Fin 24) (q : Nat) (absent : Option Nat) (host : List (BitVec 8))
  /-- R395: A transfer ends COMPLETED, COMPLETED_ABORT_LATE or ABORTED, and its descriptor is written back. -/
  | dmaOutcome (c : Fin 24) (q : Nat) (host : List (BitVec 8))
  /-- R392: A host answers a page request; success resumes the transfer and failure ends it with cause 10. -/
  | priResponse (c : Fin 24) (q : Nat) (r : Fin 3)
  /-- R392: A page request has no response within MMU_PRI_TMO_MS, and the transfer ends with cause 10. -/
  | priTimeout (c : Fin 24) (q : Nat)
  /-- R401: A held context or suspended transfer waits TSK_FAULT_TMO_MS and is aborted. -/
  | faultHoldTimeout (k : Fin 1536) (q : Option Nat)
  /-- R416: AUT_KEY_OP = 1 loads the staged key into a slot, with the partition and attribute checks. -/
  | keyLoad (src : Src) (i : Fin 16384)
  /-- R416: AUT_KEY_OP = 2 zeroes a slot. -/
  | keyErase (src : Src) (i : Fin 16384)
  /-- R417: An accepted key command commits in one cycle; the counter is reset and staging zeroed. -/
  | keyCommit
  /-- R421: An engine authentication operation ends and its status is returned or sent as a continuation token. -/
  | authComplete (i : Nat)
  /-- R423: An inline verification result is released in queue order, and the packet continues or goes to port 62. -/
  | inlineVerifyResult (k : Fin 2)
  /-- R429: A write of 1 clears every AUT counter. -/
  | autCntClr (src : Src)
  /-- R441: The HBM scrubber reads a block and rewrites single-bit errors unless a write intervened. -/
  | memScrub (blk : BitVec 28) (upsets : BitVec 16)
  /-- R443: A qualifying row is copied to a spare and the remap entry is committed. -/
  | remap
  /-- R446: MEM_RPR_OP = 1 tests the spares and every row with march patterns in REPAIR. -/
  | testAll (src : Src)
  /-- R446: MEM_RPR_OP = 2 burns the unfused remap entries into the repair fuses. -/
  | burn (src : Src)
  /-- R446: A repair operation ends COMPLETED and MEM_I_RPR_DONE is raised. -/
  | repairDone (rows : List (Fin 32 × Fin 16 × Fin 32768)) (spares : List (Fin 32 × Fin 16 × Fin 4))
  /-- R447: MEM_CHK_OP = 1 writes a word with computed check bits. -/
  | writeComputed (src : Src)
  /-- R447: MEM_CHK_OP = 2 writes a word with given check bits. -/
  | writeRaw (src : Src)
  /-- R447: MEM_CHK_OP = 3 reads a word and its check bits without correction. -/
  | readRaw (src : Src)
  /-- R452: A write of 1 clears every MEM counter. -/
  | memCntClr (src : Src)
  /-- R471: A host claims the control lease; it is granted or refused. -/
  | claim (src : Src) (termMs : BitVec 14) (rivals : BitVec 4)
  /-- R471: The holder restarts its lease term. -/
  | renew (src : Src) (termMs : BitVec 14)
  /-- R471: The holder ends the lease, and the epoch advances. -/
  | leaseRelease (src : Src)
  /-- R473: The lease term reaches 0 without renewal; the lease ends and RUN changes to ISOLATED. -/
  | leaseLapse
  /-- R459: A host writes a ring's producer index through BAR2. -/
  | doorbell (src : Src) (r : Fin 4096) (v : BitVec 32)
  /-- R460: A write of a ring enable resets the indices, or stops fetching. -/
  | hstRgEn (src : Src) (r : Fin 4096) (v : BitVec 32)
  /-- R460: A write of ring base, kind or size, refused while the ring is enabled. -/
  | hstRgCfg (src : Src) (r : Fin 4096) (word : Fin 3) (v : BitVec 32)
  /-- R456: The lease holder writes a BAR4 grant, refused when out of range or overlapping. -/
  | hstGr (src : Src) (h : Fin 4) (n : Fin 16) (word : Fin 3) (v : BitVec 32)
  /-- R456: A host access through BAR4 through its grants or the image aperture. -/
  | bar4Access (h : Fin 4) (write : Bool) (off : BitVec 32) (len : Nat) (data : List (BitVec 8))
  /-- R461: A fetched TX descriptor of op SEND reads the frame into a buffer and hands it to a pipeline. -/
  | txSend (r : Fin 4096) (desc : BitVec 256) (frame : List (BitVec 8)) (err : Bool)
  /-- R461: A fetched TX descriptor resumes a parked packet. -/
  | txResume (r : Fin 4096) (desc : BitVec 256)
  /-- R461: A fetched TX descriptor discards a parked packet. -/
  | txDiscard (r : Fin 4096) (desc : BitVec 256)
  /-- R462: A TX completion is written, at hand-over or when its timestamp is known or lost. -/
  | txCompletion (r : Fin 4096)
  /-- R463: A frame is written into a posted RX descriptor with its completion, or dropped. -/
  | rxDelivery (h : Fin 4) (addr : BitVec 64) (buflen : BitVec 16)
  /-- R465: HST_RG_MOD_US after the first unsignalled completion, the ring's MSI-X vector is signalled. -/
  | interruptHoldoff (r : Fin 4096)
  /-- R455: A Function Level Reset of host h disables its rings and ends its lease. -/
  | flr (h : Fin 4)
  /-- R453: A host port's USB4 link and PCIe tunnel come up. -/
  | hostLinkUp (h : Fin 4) (gen3 : Bool)
  /-- R478: A host port's link goes down; fetching stops and its queues discard. -/
  | hostLinkDown (h : Fin 4)
  /-- R466: An ATS Invalidate Request is completed after the affected accesses complete. -/
  | atsInvalidate (h : Fin 4)
  /-- R482: A write of 1 clears every HST counter. -/
  | hstCntClr (src : Src)
  /-- R489: When the programming conditions next hold, the steward burns pending retirement flags into both health copies. -/
  | healthBurn (bad : List Nat)
  /-- R494: A command line arrives on the monitor UART and is checked for length and CRC. -/
  | monitorLine (line : List (BitVec 8)) (early : Nat)
  /-- R495: Monitor command: report part, revision, grade, mode, reset cause and epoch. -/
  | id
  /-- R495: Monitor command: show the mode or request a mode change. -/
  | mode (m : Option (BitVec 4)) (t : BitVec 4)
  /-- R495: Monitor command: warm reset with cause 4. -/
  | reset
  /-- R495: Monitor command: read up to 64 BAR0 registers. -/
  | rd (o : BitVec 24) (n : BitVec 8)
  /-- R495: Monitor command: write a register as the steward. -/
  | wr (o : BitVec 24) (v : BitVec 32)
  /-- R495: Monitor command: list the last event log records. -/
  | evt (n : BitVec 8)
  /-- R495: Monitor command: show the capacity statement. -/
  | cap
  /-- R495: Monitor command: show health status, causes and retirement maps. -/
  | health
  /-- R495: Monitor command LOAD: steward-conducted load from the flash manifest. -/
  | monitorLoad (has144 : Bool) (density : Nat)
  /-- R495: Monitor command: read flash bytes. -/
  | flashRd (a : BitVec 32) (n : BitVec 13)
  /-- R495: Monitor command: erase a 4 KiB flash sector. -/
  | flashEr (a : BitVec 32)
  /-- R495: Monitor command: write data lines to flash. -/
  | flashWr (a : BitVec 32) (data : List (BitVec 8))
  /-- R495: Monitor command: read fuse array words. -/
  | fuseRd (w : BitVec 8) (n : BitVec 8)
  /-- R495: Monitor command: program a fuse word. -/
  | fuseWr (w : BitVec 8) (v : BitVec 32) (bad : BitVec 32)
  /-- R495: Monitor command: seal the owner region. -/
  | fuseSeal (bad : BitVec 32)
  /-- R495: Monitor command: run TEST_ALL in REPAIR. -/
  | hbmTest
  /-- R495: Monitor command: run BURN in REPAIR. -/
  | hbmBurn
  /-- R493: Monitor command: switch the serial rate after the OK line. -/
  | baud (n : Nat)
  /-- R493: Monitor command: measure the rate from the next received 0x55. -/
  | baudAuto
  /-- R493: No valid 0x55 within 10 s; the rate returns to 115,200. -/
  | baudAutoTimeout
  /-- R493: Monitor command: end a session opened alongside traffic. -/
  | exit
  /-- R493: A session alongside traffic ends after 600 s without input. -/
  | monitorSessionTimeout
  /-- R6: A read of a group's first word latches the group for the same source. -/
  | latchRead (src : Src) (a : BitVec 22)
  /-- R8: A read of an RC field returns its value and clears it. -/
  | readClear (src : Src) (a : BitVec 22)
  /-- R8: A W1C write clears the bits written 1, subject to its writer restriction. -/
  | writeOneClear (src : Src) (a : BitVec 22) (v : BitVec 32)
  /-- R8: A write to a register with no row of its own, under its access code and the lease fence. -/
  | registerWrite (src : Src) (a : BitVec 22) (v : BitVec 32)
  /-- R502: A warm reset in progress ends when GLB_MODE_CODE reads BOOT, within 10 us, and GLB_I_RESET is raised with its cause. -/
  | warmResetComplete
  /-- R502: An entry to DORMANT ends when all 80 domains are off and GLB_MODE_CODE reads DORMANT, within 10 us. -/
  | dormantEntryComplete
  /-- R493: During BAUD AUTO a 0x55 character arrives on MON_RXD, and the monitor measures and adopts its rate to within 1 %. -/
  | autobaudCharacter (n : Nat)
  /-- R466: A host writes the function's PCIe configuration space, changing ATS Enable, PRI Enable or Bus Master Enable, and can re-enable page requests after a Response Failure. -/
  | pcieConfigWrite (h : Fin 4) (ats : Bool) (pri : Bool) (bme : Bool)
  /-- R486: An IEEE 1149.1 instruction is shifted in on the JTAG balls and is executed, or is limited to BYPASS and IDCODE when FO_DBG_LOCK is set. -/
  | jtagInstruction (ir : Jtag)
  /-- R453: The host's connection manager requests that a host port enter CL0s, CL1 or CL2, and the router refuses the request. -/
  | linkStateRequest (h : Fin 4) (cl : Fin 3)
  deriving DecidableEq, Repr

end Sys2Proof
end

