-- ==== Sys2Proof/Decode.lean ====
section
/-! DEFINITION. The command a word spells. The spec numbers the commands of the block and gives none of them bits
(spec/opcode_table.json), so no word spells a command. -/

namespace Sys2Proof

/-- The command that a word of `nbits` bits spells: none, for no row has bits. -/
def decodeTableWord (_nbits _w : Nat) : Option Instr := none

end Sys2Proof
end

