-- ==== Sys2Proof/Machine/Sparse.lean ====
section
/-! DEFINITION. Reading and writing the sparse arrays that hold the block's memories and register files: ONE read and ONE write, so that every array keeps one canonical form (indices strictly rising, no entry equal to the default). -/

namespace Sys2Proof

/-- The entry at index `k`, the default `d` where none is listed. -/
def SMap.get {α : Type} (d : α) : SMap α → Nat → α
  | [], _ => d
  | (k', v) :: t, k => if k' = k then v else SMap.get d t k

/-- The array without an entry at `k`. -/
def SMap.erase {α : Type} : SMap α → Nat → SMap α
  | [], _ => []
  | (k', v) :: t, k => if k' = k then SMap.erase t k else (k', v) :: SMap.erase t k

/-- The array with `(k, v)` put before the first larger index. -/
def SMap.ins {α : Type} : SMap α → Nat → α → SMap α
  | [], k, v => [(k, v)]
  | (k', v') :: t, k, v => if k < k' then (k, v) :: (k', v') :: t else (k', v') :: SMap.ins t k v

/-- The array with the value `v` at `k`: writing the default removes the entry. -/
def SMap.put {α : Type} [DecidableEq α] (d : α) (m : SMap α) (k : Nat) (v : α) : SMap α :=
  if v = d then SMap.erase m k else SMap.ins (SMap.erase m k) k v

/-- The array with the value at `k` changed by `f`. -/
def SMap.upd {α : Type} [DecidableEq α] (d : α) (m : SMap α) (k : Nat) (f : α → α) : SMap α :=
  SMap.put d m k (f (SMap.get d m k))

/-- The entry at `k`, if one is listed. -/
def SMap.find {α : Type} : SMap α → Nat → Option α
  | [], _ => none
  | (k', v) :: t, k => if k' = k then some v else SMap.find t k

/-- The array with `v` listed at `k`, whatever `v` is (arrays whose entries are objects: no default). -/
def SMap.set {α : Type} (m : SMap α) (k : Nat) (v : α) : SMap α := SMap.ins (SMap.erase m k) k v

/-- Every index of the list is at least `k`, in strictly rising order. -/
def SMap.rising {α : Type} : Nat → SMap α → Bool
  | _, [] => true
  | k, (k', _) :: t => decide (k ≤ k') && SMap.rising (k' + 1) t

/-- The canonical form: indices strictly rising and no entry equal to what an unlisted index reads as. -/
def SMap.wf {α : Type} [DecidableEq α] (d : α) (m : SMap α) : Bool :=
  SMap.rising 0 m && m.all fun e => decide (e.2 ≠ d)

/-- `n` consecutive entries from `k`. -/
def SMap.slice {α : Type} (d : α) (m : SMap α) (k : Nat) : Nat → List α
  | 0 => []
  | n + 1 => SMap.get d m k :: SMap.slice d m (k + 1) n

/-- Consecutive entries written from `k`. -/
def SMap.fill {α : Type} [DecidableEq α] (d : α) (m : SMap α) (k : Nat) : List α → SMap α
  | [] => m
  | v :: t => SMap.fill d (SMap.put d m k v) (k + 1) t

/-- Little-endian value of a list of bytes. -/
def leNat : List Byte → Nat
  | [] => 0
  | b :: t => b.toNat + 256 * leNat t

/-- `n` little-endian bytes of a value. -/
def leBytes : Nat → Nat → List Byte
  | 0, _ => []
  | n + 1, v => BitVec.ofNat 8 v :: leBytes n (v / 256)

/-- Network-order value of a list of bytes. -/
def beNat (l : List Byte) : Nat := leNat l.reverse

/-- `n` network-order bytes of a value. -/
def beBytes (n v : Nat) : List Byte := (leBytes n v).reverse

end Sys2Proof
end

