-- ==== Sys2Proof/Machine/Crypto.lean ====
section
/-! DEFINITION. SHA-256, HMAC-SHA-256, ECDSA over P-256, AES and GMAC. The spec names these algorithms and gives no
definition of them: PRESUMED, FIPS 180-4, RFC 2104, FIPS 186-5, FIPS 197 and SP 800-38D (notes/assumptions/11.md). -/

namespace Sys2Proof.Machine

open Sys2Proof

/-- Round constants of SHA-256. -/
def sha256K : List (BitVec 32) :=
  [0x428a2f98#32, 0x71374491#32, 0xb5c0fbcf#32, 0xe9b5dba5#32, 0x3956c25b#32, 0x59f111f1#32, 0x923f82a4#32, 0xab1c5ed5#32,
   0xd807aa98#32, 0x12835b01#32, 0x243185be#32, 0x550c7dc3#32, 0x72be5d74#32, 0x80deb1fe#32, 0x9bdc06a7#32, 0xc19bf174#32,
   0xe49b69c1#32, 0xefbe4786#32, 0x0fc19dc6#32, 0x240ca1cc#32, 0x2de92c6f#32, 0x4a7484aa#32, 0x5cb0a9dc#32, 0x76f988da#32,
   0x983e5152#32, 0xa831c66d#32, 0xb00327c8#32, 0xbf597fc7#32, 0xc6e00bf3#32, 0xd5a79147#32, 0x06ca6351#32, 0x14292967#32,
   0x27b70a85#32, 0x2e1b2138#32, 0x4d2c6dfc#32, 0x53380d13#32, 0x650a7354#32, 0x766a0abb#32, 0x81c2c92e#32, 0x92722c85#32,
   0xa2bfe8a1#32, 0xa81a664b#32, 0xc24b8b70#32, 0xc76c51a3#32, 0xd192e819#32, 0xd6990624#32, 0xf40e3585#32, 0x106aa070#32,
   0x19a4c116#32, 0x1e376c08#32, 0x2748774c#32, 0x34b0bcb5#32, 0x391c0cb3#32, 0x4ed8aa4a#32, 0x5b9cca4f#32, 0x682e6ff3#32,
   0x748f82ee#32, 0x78a5636f#32, 0x84c87814#32, 0x8cc70208#32, 0x90befffa#32, 0xa4506ceb#32, 0xbef9a3f7#32, 0xc67178f2#32]

/-- Initial hash value of SHA-256. -/
def sha256H : List (BitVec 32) :=
  [0x6a09e667#32, 0xbb67ae85#32, 0x3c6ef372#32, 0xa54ff53a#32, 0x510e527f#32, 0x9b05688c#32, 0x1f83d9ab#32, 0x5be0cd19#32]

/-- A word of a list. -/
def w32 (l : List (BitVec 32)) (i : Nat) : BitVec 32 := (l[i]?).getD 0#32

/-- The message schedule, newest word first: `n` more words. -/
def sha256Sched : Nat → List (BitVec 32) → List (BitVec 32)
  | 0, l => l
  | n + 1, l =>
    let x := w32 l 1
    let y := w32 l 14
    let s1 := x.rotateRight 17 ^^^ x.rotateRight 19 ^^^ (x >>> 10)
    let s0 := y.rotateRight 7 ^^^ y.rotateRight 18 ^^^ (y >>> 3)
    sha256Sched n ((s1 + w32 l 6 + s0 + w32 l 15) :: l)

/-- One round. -/
def sha256Round (h : List (BitVec 32)) (kw : BitVec 32 × BitVec 32) : List (BitVec 32) :=
  match h with
  | [a, b, c, d, e, f, g, x] =>
    let t1 := x + (e.rotateRight 6 ^^^ e.rotateRight 11 ^^^ e.rotateRight 25) + ((e &&& f) ^^^ (~~~e &&& g)) + kw.1 + kw.2
    let t2 := (a.rotateRight 2 ^^^ a.rotateRight 13 ^^^ a.rotateRight 22) + ((a &&& b) ^^^ (a &&& c) ^^^ (b &&& c))
    [t1 + t2, a, b, c, d + t1, e, f, g]
  | _ => h

/-- `n` big-endian 32-bit words of a byte list. -/
def beWords : Nat → List Byte → List (BitVec 32)
  | 0, _ => []
  | n + 1, l => BitVec.ofNat 32 (beNat (l.take 4)) :: beWords n (l.drop 4)

/-- One block. -/
def sha256Block (h : List (BitVec 32)) (blk : List Byte) : List (BitVec 32) :=
  let w := (sha256Sched 48 (beWords 16 blk).reverse).reverse
  List.zipWith (· + ·) h ((sha256K.zip w).foldl sha256Round h)

/-- Blocks from the front of a padded message. -/
def sha256Go : Nat → List (BitVec 32) → List Byte → List (BitVec 32)
  | 0, h, _ => h
  | n + 1, h, l => sha256Go n (sha256Block h (l.take 64)) (l.drop 64)

/-- SHA-256. -/
def sha256 (m : List Byte) : List Byte :=
  let pad := (119 - m.length % 64) % 64
  let l := m ++ [0x80#8] ++ List.replicate pad 0#8 ++ beBytes 8 (8 * m.length)
  (sha256Go (l.length / 64) sha256H l).flatMap fun w => beBytes 4 w.toNat

/-- HMAC-SHA-256. -/
def hmac256 (key m : List Byte) : List Byte :=
  let k := if 64 < key.length then sha256 key else key
  let k := k ++ List.replicate (64 - k.length) 0#8
  sha256 (k.map (· ^^^ 0x5c#8) ++ sha256 (k.map (· ^^^ 0x36#8) ++ m))

/-! ### P-256 -/

def p256p : Nat := 0xffffffff00000001000000000000000000000000ffffffffffffffffffffffff
def p256n : Nat := 0xffffffff00000000ffffffffffffffffbce6faada7179e84f3b9cac2fc632551
def p256b : Nat := 0x5ac635d8aa3a93e7b3ebbd55769886bc651d06b0cc53b0f63bce3c3e27d2604b
def p256g : Nat × Nat := (0x6b17d1f2e12c4247f8bce6e563a440f277037d812deb33a0f4a13945d898c296,
  0x4fe342e2fe1a7f9b8ee7eb4a7c0f9e162bce33576b315ececbb6406837bf51f5)

/-- `b ^ e` modulo `m` over the low `fuel` bits of `e`. -/
def powMod (m : Nat) : Nat → Nat → Nat → Nat
  | 0, _, _ => 1 % m
  | f + 1, b, e =>
    let r := powMod m f (b * b % m) (e / 2)
    if e % 2 = 1 then b * r % m else r

/-- Inverse modulo a 256-bit prime. -/
def invMod (m a : Nat) : Nat := powMod m 256 (a % m) (m - 2)

/-- Addition of affine points; none is the point at infinity. -/
def ecAdd (a b : Option (Nat × Nat)) : Option (Nat × Nat) :=
  match a, b with
  | none, q => q
  | q, none => q
  | some (x1, y1), some (x2, y2) =>
    let p := p256p
    let go (lam : Nat) : Option (Nat × Nat) :=
      let x3 := (lam * lam + 2 * p - x1 - x2) % p
      some (x3, (lam * ((x1 + p - x3) % p) + p - y1) % p)
    if x1 = x2 then
      (if (y1 + y2) % p = 0 then none else go ((3 * x1 * x1 + p - 3) % p * invMod p (2 * y1) % p))
    else go ((y2 + p - y1) % p * invMod p ((x2 + p - x1) % p) % p)

/-- `k` times a point over the low `fuel` bits of `k`. -/
def ecMul : Nat → Nat → Option (Nat × Nat) → Option (Nat × Nat)
  | 0, _, _ => none
  | f + 1, k, q =>
    let r := ecMul f (k / 2) (ecAdd q q)
    if k % 2 = 1 then ecAdd q r else r

/-- ECDSA verification over P-256 of a SHA-256 digest. -/
def ecdsaOk (x y r s : Nat) (digest : List Byte) : Bool :=
  let n := p256n
  let onCurve := x < p256p && y < p256p && y * y % p256p = (x * x * x + 3 * (p256p - x) + p256b) % p256p
  if !onCurve || r = 0 || n ≤ r || s = 0 || n ≤ s then false else
  let e := beNat digest
  let w := invMod n s
  match ecAdd (ecMul 256 (e * w % n) (some p256g)) (ecMul 256 (r * w % n) (some (x, y))) with
  | some (vx, _) => vx % n = r
  | none => false

/-! ### AES and GMAC -/

/-- Product in GF(2^8) with the AES polynomial, over 8 bits of `b`. -/
def gf8 : Nat → Nat → Nat → Nat
  | 0, _, _ => 0
  | f + 1, a, b =>
    let a2 := if 128 ≤ a then Nat.xor (a * 2 % 256) 0x1b else a * 2
    Nat.xor (if b % 2 = 1 then a else 0) (gf8 f a2 (b / 2))

/-- The AES S-box: inverse in GF(2^8), then the affine map. -/
def sbox (x : Nat) : Nat :=
  let inv := (List.range 7).foldl (fun (a : Nat × Nat) _ => let q := gf8 8 a.2 a.2; (gf8 8 a.1 q, q)) (1, x)
  let v := inv.1
  let rot (k : Nat) : Nat := (v * 2 ^ k) % 256 + v / 2 ^ (8 - k)
  Nat.xor (Nat.xor (Nat.xor (Nat.xor v (rot 1)) (rot 2)) (Nat.xor (rot 3) (rot 4))) 0x63

/-- Four-byte key words, newest first: `n` more, for a key of `nk` words; `i` is the index of the next word. -/
def aesExpand (nk : Nat) : Nat → Nat → List (List Nat) → List (List Nat)
  | 0, _, l => l
  | n + 1, i, l =>
    let t := l.headD []
    let t := if i % nk = 0 then
        match t with
        | [a, b, c, d] =>
          let rc := (List.range (i / nk - 1)).foldl (fun r _ => gf8 8 r 2) 1
          [Nat.xor (sbox b) rc, sbox c, sbox d, sbox a]
        | _ => t
      else if 6 < nk && i % nk = 4 then t.map sbox else t
    let o := (l.drop (nk - 1)).headD []
    aesExpand nk n (i + 1) (List.zipWith Nat.xor o t :: l)

/-- Groups of four. -/
def fours : Nat → List Nat → List (List Nat)
  | 0, _ => []
  | n + 1, l => l.take 4 :: fours n (l.drop 4)

/-- Round keys of a 16- or 32-byte key, 16 bytes each. -/
def aesKeys (key : List Byte) : List (List Nat) :=
  let nk := key.length / 4
  let ws := fours nk (key.map (·.toNat))
  let all := (aesExpand nk (4 * (nk + 7) - nk) nk ws.reverse).reverse.flatten
  (List.range (nk + 7)).map fun i => (all.drop (16 * i)).take 16

/-- Byte `i` of a state. -/
def b16 (l : List Nat) (i : Nat) : Nat := (l[i]?).getD 0

/-- SubBytes and ShiftRows; a state is in column order. -/
def aesSubShift (l : List Nat) : List Nat := (List.range 16).map fun i => sbox (b16 l ((i + 4 * (i % 4)) % 16))

/-- MixColumns. -/
def aesMix (l : List Nat) : List Nat :=
  (List.range 16).map fun i =>
    let c := i / 4 * 4
    let at0 (k : Nat) : Nat := b16 l (c + (i + k) % 4)
    Nat.xor (Nat.xor (gf8 8 (at0 0) 2) (gf8 8 (at0 1) 3)) (Nat.xor (at0 2) (at0 3))

/-- AES encryption of one block. -/
def aes (key blk : List Byte) : List Byte :=
  let ks := aesKeys key
  let ark (l k : List Nat) : List Nat := List.zipWith Nat.xor l k
  let mid := (ks.drop 1).dropLast.foldl (fun l k => ark (aesMix (aesSubShift l)) k) (ark (blk.map (·.toNat)) (ks.headD []))
  (ark (aesSubShift mid) (ks.getLastD [])).map fun n => BitVec.ofNat 8 n

/-- Product in GF(2^128) of GCM over the bits of `y` from the most significant. -/
def gcmMul : Nat → Nat → Nat → Nat → Nat
  | 0, z, _, _ => z
  | f + 1, z, v, y =>
    let z := if bitOf y f then Nat.xor z v else z
    let v := if v % 2 = 1 then Nat.xor (v / 2) (0xe1 * 2 ^ 120) else v / 2
    gcmMul f z v y

/-- GHASH over 16-byte blocks. -/
def ghash (h : Nat) : Nat → Nat → List Byte → Nat
  | 0, y, _ => y
  | n + 1, y, l => ghash h n (gcmMul 128 0 (Nat.xor y (beNat (l.take 16))) h) (l.drop 16)

/-- GMAC with a 12-byte nonce: the 16-byte tag. -/
def gmac (key nonce m : List Byte) : List Byte :=
  let h := beNat (aes key (List.replicate 16 0#8))
  let padded := m ++ List.replicate ((16 - m.length % 16) % 16) 0#8 ++ beBytes 8 (8 * m.length) ++ beBytes 8 0
  let s := ghash h (padded.length / 16) 0 padded
  let j := beNat (aes key (nonce ++ beBytes 4 1))
  beBytes 16 (Nat.xor s j)

end Sys2Proof.Machine
end

