-- ==== Sys2Proof/Machine/Hash.lean ====
section
/-! DEFINITION. The one mixer of every hashed table, of load balancing and of the row scrambler (spec/08 R196). -/

namespace Sys2Proof.Machine

open Sys2Proof

/-- Multipliers of R196. -/
def mixC1 : BitVec 64 := 0x9F4A7C15D1E38B27#64
def mixC2 : BitVec 64 := 0xB5C32E916A0FD74D#64

/-- One word of the key. -/
def mixWord (ab : BitVec 64 × BitVec 64) (w : BitVec 64) : BitVec 64 × BitVec 64 :=
  let a := ((ab.1 ^^^ w).rotateLeft 23) * mixC1
  (a, ((ab.2 + a).rotateLeft 31) * mixC2)

/-- The mixer over words of key under a 128-bit seed: (M0, M1) (R196). -/
def mix (seed : BitVec 128) (ws : List (BitVec 64)) : BitVec 64 × BitVec 64 :=
  let ab := ws.foldl mixWord (seed.extractLsb' 0 64, seed.extractLsb' 64 64 ^^^ BitVec.ofNat 64 ws.length)
  let a := (ab.1 ^^^ (ab.2 >>> 29)) * mixC1
  let b := (ab.2 ^^^ (a >>> 32)) * mixC2
  (a ^^^ b, b ^^^ a.rotateLeft 17)

/-- `n` little-endian 64-bit words of a byte string, the last padded with zero bytes (R196). -/
def keyWords : Nat → List Byte → List (BitVec 64)
  | 0, _ => []
  | n + 1, l => BitVec.ofNat 64 (leNat (l.take 8)) :: keyWords n (l.drop 8)

/-- The mixer over key bytes. -/
def mixBytes (seed : BitVec 128) (l : List Byte) : BitVec 64 × BitVec 64 := mix seed (keyWords ((l.length + 7) / 8) l)

/-- The signature: M1[31:0] with 0 replaced by 1 (R197). -/
def sigOf (m : BitVec 64 × BitVec 64) : Nat := if m.2.toNat % 2 ^ 32 = 0 then 1 else m.2.toNat % 2 ^ 32

/-- The keyed offset between a slot's two buckets: ((sig ^ S1[31:0]) × C2)[63 : 64 - w] (Table 08.2). -/
def altOffset (seed : BitVec 128) (sig w : Nat) : Nat :=
  let x : BitVec 64 := BitVec.ofNat 64 sig ^^^ (seed.extractLsb' 64 32).zeroExtend 64
  (x * mixC2).toNat / 2 ^ (64 - w)

end Sys2Proof.Machine
end

