-- ==== Sys2Proof/Config.lean ====
section
/-! DEFINITION. The values the spec leaves open, as opaque constants without a body: nothing can be proved about them but what holds of every value (notes/assumptions/2.md). -/

namespace Sys2Proof

/-- A fresh free value: the n-th value the machine draws where the spec states none (entropy draws of R81, R175,
R199, R240; choices the spec leaves to the device). The n is State.freeCtr. -/
opaque Config.free : Nat → BitVec 64

/-- Content of an HBM byte that nothing has written since the content was lost (R78): generation of loss, address. -/
opaque Config.hbmJunk : Nat → Nat → BitVec 8

/-- Content of a byte of the standby save area after a save (R63 lists what the area holds and gives no layout): number of
the save, address. -/
opaque Config.saveByte : Nat → Nat → BitVec 8

/-- Check bits of a 64-bit HBM word (R440 gives SEC-DED over 8 check bits and no matrix). -/
opaque Config.hbmCheck : BitVec 64 → BitVec 8

/-- Syndrome of a 64-bit word read with given check bits (R447 gives 8 bits and no matrix). -/
opaque Config.hbmSyndrome : BitVec 64 → BitVec 8 → BitVec 8

/-- Whether VMAC of type 1 rounds its sum once, product included, or rounds the product first (R346 and R351 leave it
open). -/
opaque Config.vmacFused : Bool

/-- Entries of a manifest payload: type, flash offset and length of each image in load order; none for a payload that is no
manifest (R71 names what it lists and gives no layout). -/
opaque Config.manifest : List (BitVec 8) → Option (List (Nat × Nat × Nat))

end Sys2Proof
end

