-- ==== Sys2Proof/Fields.lean ====
section
/-! DEFINITION. The names of the register blocks (Table 01.2), of every register field and 64-bit counter of the register maps of spec/02 to spec/18, of the access codes (R8) and of every event and status code (R10, R499). Their places, widths, reset values and codes stand in Machine/RegMap.lean. -/

namespace Sys2Proof

/-- The register blocks of Table 01.2 (R12). -/
inductive Block where
  | GLB | PWR | FUS | HEA | TIM | PRT | PAR | CLS | TBL | FLW | SAU | SWC | TMG | ENG | TSK | MMU | AUT | MEM | HST
  deriving DecidableEq, Repr

/-- Access codes of Table 00.3 (R8). -/
inductive Access where
  | RW | RO | WO | W1C | W1S | RC | RWF
  deriving DecidableEq, Repr

/-- Where a field lies: block, offset in the block of its element (0, 0), two array dimensions (count and stride
in bytes), most and least significant bit, access code, and whether a warm reset keeps it (R66). -/
structure FieldInfo where
  block : Block
  off   : Nat
  n1    : Nat
  s1    : Nat
  n2    : Nat
  s2    : Nat
  msb   : Nat
  lsb   : Nat
  acc   : Access
  kept  : Bool
  deriving DecidableEq, Repr

/-- One constructor per named register field; its name is the spec's. -/
inductive Field where
  | PWR_GRADE_E
  | PWR_SLOWCLK_INT
  | PWR_DERATE_ACT
  | PWR_CURLIM_ACT
  | PWR_HOT
  | PWR_VIN_OK
  | PWR_PLL_LOCK
  | PWR_IIN_10MA
  | PWR_VIN_MV
  | PWR_PIN_100MW
  | PWR_VAON_MV
  | PWR_TCASE_EST
  | PWR_TDIE_MAX
  | PWR_HOT_THRESH
  | PWR_EVT_VIN_UV
  | PWR_EVT_OVERTEMP
  | PWR_EVT_PHASE
  | PWR_EVT_CURLIM
  | PWR_EVT_HOT
  | PWR_EVT_SLOWCLK
  | PWR_EVT_DERATE
  | PWR_EVT_DOM_REFUSED
  | PWR_PHASE_RETIRED
  | PWR_ENG_CLK_EFF
  | PWR_ENG_CLK_SET
  | PWR_DOM_CG_ONLY
  | PWR_DOM_REQ
  | PWR_DOM_WAKES
  | PWR_DOM_RETIRED
  | PWR_DOM_STATE
  | TIM_QUAL
  | TIM_FAST
  | TIM_PPS_SEEN
  | TIM_CMD_BUSY
  | TIM_HOLD_ELAPSED
  | TIM_SERVO_KP
  | TIM_SERVO_KI
  | TIM_PPSOUT_MS
  | TIM_PTP_LOCK
  | TIM_PPSOUT_EN
  | TIM_STEP_EN
  | TIM_SRC
  | TIM_NOW_FRAC
  | TIM_NOW_NS
  | TIM_NOW_SEC_LO
  | TIM_NOW_SEC_HI
  | TIM_CMD_OP
  | TIM_STEP_NS
  | TIM_ADJ_FREQ
  | TIM_FREQ_EFF
  | TIM_PPS_DELAY
  | TIM_PPS_WIN
  | TIM_HOLD_SEC
  | TIM_STEP_THRESH
  | TIM_PPS_REJ
  | TIM_PPS_CAP_FRAC
  | TIM_PPS_CAP_NS
  | TIM_PPS_CAP_SEC
  | TIM_PPS_ERR
  | TIM_REFW_NEXT
  | TIM_REFW_INT
  | TIM_EVT_TIMEBASE
  | TIM_EVT_STEP
  | TIM_EVT_LOCK
  | TIM_EVT_PPS_LOST
  | TIM_EVT_HOLD_END
  | TIM_EVT_CORR_OVF
  | TIM_EVT_REFW
  | TIM_P_EGR_ADJ
  | TIM_P_ING_ADJ
  | TIM_P1S_EN
  | TIM_P2P_ADD
  | TIM_P_LINKDLY
  | PRT_MAX_FRAME
  | PRT_AN_EN
  | PRT_FEC
  | PRT_MODE
  | PRT_EN
  | PRT_EXPRESS_TC
  | PRT_PRE_VERIFY_MS
  | PRT_PRE_FRAG
  | PRT_PRE_VERIFY_DIS
  | PRT_PRE_EN
  | PRT_RED_SUPV_MS
  | PRT_RED_FORGET_MS
  | PRT_RED_KEEP
  | PRT_RED_ROLE
  | PRT_RED_MODE
  | PRT_RED_SEQ
  | PRT_PRE_STATE
  | PRT_LANE_MEMBER
  | PRT_FEC_LOCK
  | PRT_PCS_LOCK
  | PRT_LINK_UP
  | PRT_EVT_RED_FULL
  | PRT_EVT_LAN_LOSS
  | PRT_EVT_PRE
  | PRT_EVT_SPEED
  | PRT_EVT_CFG
  | PRT_EVT_LINK
  | PRT_CNT_CLR
  | PAR_CS_LOADED
  | PAR_CS_BADWORD
  | PAR_RESTART_Q
  | PAR_LANES_BUSY
  | PAR_DBG_FLAG
  | PAR_CLK_LIMIT
  | PAR_EXPR_EN
  | PAR_EXPR_ETYPE
  | PAR_CS_CORR_CNT
  | PAR_CS_BAD_VALID
  | PAR_CS_BAD_ADDR
  | PAR_OCC_MAX
  | PAR_OCC_MEAN
  | PAR_EVT_LOADED
  | PAR_EVT_PROTECTED
  | PAR_EVT_ENTRY_HOLD
  | PAR_EVT_LIMIT
  | PAR_EVT_CS_CORR
  | PAR_EVT_CS_UNCORR
  | PAR_CNT_CLR
  | PAR_CS_RD
  | CLS_CAP_FULL
  | CLS_PACK_WAIT
  | CLS_RULE_BAD
  | CLS_LIVE_VALID
  | CLS_LIVE_BANK
  | CLS_BANK_A_ST
  | CLS_BANK_B_ST
  | CLS_ED_A
  | CLS_ED_B
  | CLS_CAP_MODE
  | CLS_FRAG_TMO_MS
  | CLS_CMD_ED
  | CLS_CMD_OP
  | CLS_CMD_ADDR
  | CLS_CMD_ERR
  | CLS_CMD_LAST_OP
  | CLS_CMD_OUT
  | CLS_DRAIN_ED
  | CLS_DRAIN_NS
  | CLS_RULE_CORR_CNT
  | CLS_RULE_BAD_VALID
  | CLS_RULE_BAD_BANK
  | CLS_RULE_BAD_IDX
  | CLS_EVT_COMMITTED
  | CLS_EVT_DRAINED
  | CLS_EVT_STAGED
  | CLS_EVT_DETACHED
  | CLS_EVT_FRAG_FULL
  | CLS_EVT_RULE
  | CLS_EVT_PKT_ERR
  | CLS_EVT_CMD_ERR
  | CLS_CNT_CLR
  | TBL_SEED_FROZEN
  | TBL_REHASH_LIVE
  | TBL_REHASH_TGT
  | TBL_SEED_PHASE
  | TBL_JOURNAL_BUSY
  | TBL_PROTECTED
  | TBL_FLOW_CLEARING
  | TBL_LEARN_LVL
  | TBL_STASH_CNT
  | TBL_AGE_EN
  | TBL_AGE_LIM_FLOW
  | TBL_AGE_LIM_L2
  | TBL_AGE_TICK_MS
  | TBL_AGE_RATE
  | TBL_AGE_PASSES
  | TBL_AGE_NOW
  | TBL_STRESS_FAILS
  | TBL_REHASH_RATE
  | TBL_REHASH_CUR_VALID
  | TBL_REHASH_POS
  | TBL_FLUSH_VALID
  | TBL_FLUSH_PORT
  | TBL_FLUSH_POS
  | TBL_RMAC_L
  | TBL_RMAC_H
  | TBL_EVT_REHASH
  | TBL_EVT_STRESS
  | TBL_EVT_LEARN_DROP
  | TBL_EVT_CLEARED
  | TBL_EVT_JOURNAL
  | TBL_EVT_IMAGE
  | TBL_CNT_CLR
  | TBL_CMD_F_SEED
  | TBL_CMD_F_STATIC
  | TBL_CMD_F_IF_STAMP
  | TBL_CMD_F_REPLACE
  | TBL_CMD_TGT
  | TBL_CMD_OP
  | TBL_CMD_ARG
  | TBL_CMD_ADDR
  | TBL_CMD_ERR
  | TBL_CMD_LAST_OP
  | TBL_CMD_OUT
  | TBL_CMD_CNT
  | TBL_CMD_GEN
  | TBL_CMD_LOC
  | TBL_CMD_CUR_LO
  | TBL_CMD_CUR_HI
  | TBL_CMD_KEY
  | TBL_CMD_DATA
  | TBL_VLAN_MEMB_L
  | TBL_VLAN_VALID
  | TBL_VLAN_LEARN
  | TBL_VLAN_FLOOD
  | TBL_VLAN_ROUTE
  | TBL_VLAN_FID
  | TBL_VLAN_MEMB_H
  | TBL_VLAN_UNTAG_L
  | TBL_VLAN_UNTAG_H
  | FLW_REBUILD
  | FLW_REC_USED
  | FLW_HIT_PCT_MIN
  | FLW_HIT_PCT
  | FLW_TEL_IVL_S
  | FLW_WB_MS
  | FLW_TEL_EN
  | FLW_TEL_TMPL
  | FLW_SAMPLE_TMPL
  | FLW_LB_PEND
  | FLW_LB_EPOCH
  | FLW_EVT_REBUILT
  | FLW_EVT_GOOSE
  | FLW_EVT_NEWFLOW
  | FLW_EVT_TOKEN
  | FLW_EVT_CMD
  | FLW_CNT_CLR
  | FLW_CL_LOOKUP
  | FLW_CL_PROF
  | FLW_NA_ACT
  | FLW_NA_KIND
  | FLW_NA_TARGET
  | FLW_NA_DST
  | FLW_NA_AUTH
  | FLW_NA_GAZ
  | FLW_RC_F_KEEPCNT
  | FLW_RC_OP
  | FLW_RC_IDX
  | FLW_RC_ERR
  | FLW_RC_OUT
  | FLW_RC_DATA
  | FLW_LBG_N
  | FLW_LBG_MEMB
  | SAU_GRID_RUN
  | SAU_JG_ON_CNT
  | SAU_TOK_RESV
  | SAU_ACQ_N
  | SAU_EARLY_US
  | SAU_STEP_TOL_NS
  | SAU_UTC_OFFSET
  | SAU_EVT_GRID
  | SAU_EVT_STREAM
  | SAU_EVT_TOKEN
  | SAU_EVT_PUB
  | SAU_EVT_JG
  | SAU_EVT_CFG
  | SAU_CNT_CLR
  | SAU_ST_EN
  | SAU_ST_SYNC_EXACT
  | SAU_ST_NCH
  | SAU_ST_STRIDE
  | SAU_ST_RATE
  | SAU_ST_SYNC_VAL
  | SAU_ST_LOSS_US
  | SAU_ST_CONFREV
  | SAU_ST_AGE_MAX_US
  | SAU_ST_STATE
  | SAU_ST_FAULT
  | SAU_ST_LAST_CNT
  | SAU_ST_GAPS
  | SAU_ST_LATE
  | SAU_ST_STALE
  | SAU_ST_REJ
  | SAU_ST_AGE_LAST
  | SAU_JG_EN
  | SAU_JG_EMPTY
  | SAU_JG_PATCH_EN
  | SAU_JG_HOLD_N
  | SAU_JG_TOK_MAX
  | SAU_JG_RATE
  | SAU_JG_DL_NS
  | SAU_JG_DEPTH_L2
  | SAU_JG_RING_BASE
  | SAU_JG_CLMASK
  | SAU_JG_OPND
  | SAU_JG_TMPL
  | SAU_JG_PATCH_DEPTH_L2
  | SAU_JG_PATCH_WIN_US
  | SAU_JG_PATCH_TMPL
  | SAU_JG_PATCH_BASE
  | SAU_JG_SEQ
  | SAU_JG_OPEN
  | SAU_JG_TOK_OUT
  | SAU_JG_SLOT_B
  | SAU_JG_DL_CLOSES
  | SAU_JG_TOK_REF
  | SAU_JG_M_EN
  | SAU_JG_M_STREAM
  | SAU_PUB_EN
  | SAU_PUB_T_AUTO
  | SAU_PUB_TAL_AUTO
  | SAU_PUB_AUTH
  | SAU_PUB_KEY
  | SAU_PUB_TMPL
  | SAU_PUB_DST_GRP
  | SAU_PUB_DST
  | SAU_PUB_TMAX_MS
  | SAU_PUB_TMIN_US
  | SAU_PUB_STNUM
  | SAU_PUB_SQNUM
  | SAU_PUB_STATE
  | SAU_PUB_LEN
  | SAU_PUB_TX
  | SAU_PUB_TXTS
  | SWC_LAYOUT_LOCKED
  | SWC_LAYOUT_APPLY
  | SWC_POOL_SZ
  | SWC_POOL_CNT
  | SWC_POOL_FREE
  | SWC_POOL_MIN
  | SWC_WM_DROP
  | SWC_CT_POOL
  | SWC_HOLD_NS
  | SWC_OWN_ERR_VALID
  | SWC_OWN_ERR_OP
  | SWC_OWN_ERR_STATE
  | SWC_OWN_ERR_HOLDER
  | SWC_OWN_ERR_ID
  | SWC_OWN_ERR_BUF
  | SWC_EVT_LAYOUT
  | SWC_EVT_ECC
  | SWC_EVT_SHED
  | SWC_EVT_POOL
  | SWC_EVT_ESCAPE
  | SWC_EVT_OWNER
  | SWC_CNT_CLR
  | SWC_INS_EN
  | SWC_INS_TC
  | SWC_INS_DP
  | SWC_INS_DST
  | SWC_INS_TRUNC
  | SWC_INS_ING_L
  | SWC_INS_ING_H
  | SWC_INS_EGR_L
  | SWC_INS_EGR_H
  | SWC_INS_COPIES
  | SWC_INS_SKIP
  | SWC_INS_SHED
  | SWC_RG_MASK_L
  | SWC_RG_PRUNE
  | SWC_RG_MASK_HOST
  | SWC_RG_MASK_H
  | SWC_OWN_CNT
  | TMG_ENTRY_FREE
  | TMG_WHEEL_CNT
  | TMG_WHEEL_LAG_MAX
  | TMG_EVT_WHEEL
  | TMG_EVT_ENTRY
  | TMG_EVT_CFG
  | TMG_CNT_CLR
  | TMG_CG_EN
  | TMG_CG_LOG2N
  | TMG_CG_BASE
  | TMG_GS_EN
  | TMG_GS_RATE
  | TMG_GS_BURST
  | TMG_GS_TOKENS
  | TMG_QS_EN
  | TMG_QS_RATE
  | TMG_QS_BURST
  | TMG_QS_TOKENS
  | TMG_Q_DEPTH
  | TMG_Q_DROPS
  | TMG_Q_SH_EN
  | TMG_Q_SH
  | TMG_Q_WEIGHT
  | TMG_Q_MAX
  | ENG_CL_RETIRED
  | ENG_XR_VALID
  | ENG_XR_CODE
  | ENG_XR_CTX
  | ENG_XR_PC
  | ENG_XR_INSN
  | ENG_XR_ADDR_LO
  | ENG_XR_ADDR_HI
  | ENG_EVT_LOADED
  | ENG_EVT_LEAK
  | ENG_EVT_EMIT
  | ENG_EVT_MEM
  | ENG_EVT_LOAD_ERR
  | ENG_EVT_EXC
  | ENG_CNT_CLR
  | ENG_CL_LOADED
  | ENG_CL_FENCED
  | ENG_CL_TMR_USED
  | ENG_CL_LIVE
  | ENG_CL_IMG_VER
  | ENG_CL_ECC_CORR
  | ENG_CL_ECC_UNC
  | ENG_CL_UTIL
  | ENG_CTX_STATE
  | ENG_CTX_CLASS
  | ENG_CTX_TMPL
  | ENG_CTX_GEN
  | ENG_CTX_PC
  | TSK_FB_STOPPED
  | TSK_READY
  | TSK_FREE
  | TSK_FAULT_TMO_MS
  | TSK_B_MAX
  | TSK_EVT_FB
  | TSK_EVT_FAULT_TMO
  | TSK_EVT_MATCH_TMO
  | TSK_EVT_VIOL
  | TSK_EVT_CMD
  | TSK_CNT_CLR
  | TSK_FB_EN
  | TSK_FB_STOP
  | TSK_FB_CLASS
  | TSK_FB_KIND
  | TSK_FB_TMPL_HI
  | TSK_FB_TMPL_LO
  | TSK_FB_WRAPPED
  | TSK_FB_WPTR
  | TSK_CMD_POS
  | TSK_CMD_OP
  | TSK_CMD_TGT
  | TSK_CMD_AUX
  | TSK_CMD_VAL_LO
  | TSK_CMD_VAL_HI
  | TSK_CMD_ERR
  | TSK_CMD_OUT
  | TSK_TT_EN
  | TSK_TT_VALID
  | TSK_TT_CLASS
  | TSK_TT_CLMASK
  | TSK_TT_HELD
  | TSK_TT_VIOL
  | TSK_FB_WORD
  | MMU_INV_BUSY
  | MMU_FR_LVL
  | MMU_PRI_TMO_MS
  | MMU_FR_HEAD
  | MMU_FR_TAIL
  | MMU_INV_OP
  | MMU_INV_ASID
  | MMU_INV_VA
  | MMU_INV_PAGES
  | MMU_EVT_INV
  | MMU_EVT_PIN
  | MMU_EVT_PRI
  | MMU_EVT_FAULT
  | MMU_CNT_CLR
  | MMU_ROOT_ADDR_L
  | MMU_ROOT_V
  | MMU_ROOT_ADDR_H
  | MMU_TLB_LOCKED
  | MMU_DMA_SUSP
  | MMU_DMA_QUEUED
  | MMU_TLB_MISS
  | MMU_FR_WORD
  | AUT_KEY_BUSY
  | AUT_VQ_LVL
  | AUT_SLOTS_USED
  | AUT_HMAC_BUSY
  | AUT_GMAC_BUSY
  | AUT_PART_CNT
  | AUT_PART_BASE
  | AUT_EVT_KEY
  | AUT_EVT_NONCE
  | AUT_EVT_VERIFY
  | AUT_EVT_WITHHELD
  | AUT_EVT_MEM
  | AUT_CNT_CLR
  | AUT_KEY_OP
  | AUT_KEY_SLOT
  | AUT_KA_ALG
  | AUT_KA_SIGN
  | AUT_KA_VERIFY
  | AUT_KA_TAGLEN
  | AUT_KA_KEYLEN
  | AUT_KEY_SALT
  | AUT_KEY_ERR
  | AUT_KEY_OUT
  | AUT_KEY_DATA
  | AUT_SL_ALG
  | AUT_SL_SIGN
  | AUT_SL_VERIFY
  | AUT_SL_LOCKED
  | AUT_SL_WARNED
  | AUT_SL_TAGLEN
  | AUT_SL_CTR_LO
  | AUT_SL_CTR_HI
  | AUT_SL_VFAIL
  | MEM_INIT_FLAG
  | MEM_INIT_BUSY
  | MEM_TRAINED
  | MEM_SELF_REF
  | MEM_HOT_INSERT
  | MEM_INIT_PCT
  | MEM_STACK_TEMP
  | MEM_REF_UP_C
  | MEM_REF_DN_C
  | MEM_WQ_HI
  | MEM_WQ_LO
  | MEM_WQ_AGE_NS
  | MEM_NR_EN
  | MEM_NR_DIST
  | MEM_NR_LOG2P
  | MEM_SCRUB_EN
  | MEM_SCRUB_HRS
  | MEM_SCRUB_PASSES
  | MEM_SCRUB_PCT
  | MEM_CE_ROW_TH
  | MEM_RMP_FUSED
  | MEM_RMP_FREE
  | MEM_SPARE_FREE
  | MEM_BANK_NOSPARE
  | MEM_RPR_OP
  | MEM_RPR_OUT
  | MEM_RPR_FAILROWS
  | MEM_CORR_CNT
  | MEM_UNC_CNT
  | MEM_UNC_VALID
  | MEM_UNC_READER
  | MEM_UNC_ADDR_H
  | MEM_UNC_ADDR_L
  | MEM_EVT_RPR
  | MEM_EVT_REMAP
  | MEM_EVT_HOT
  | MEM_EVT_NR
  | MEM_EVT_ECC
  | MEM_EVT_INIT
  | MEM_CNT_CLR
  | MEM_CHK_OP
  | MEM_CHK_OUT
  | MEM_CHK_SYND
  | MEM_CHK_CB
  | MEM_CHK_ADDR_LO
  | MEM_CHK_ADDR_HI
  | MEM_CHK_DATA_LO
  | MEM_CHK_DATA_HI
  | MEM_RMP_VALID
  | MEM_RMP_FUSE
  | MEM_RMP_PC
  | MEM_RMP_BANK
  | MEM_RMP_ROW
  | MEM_RMP_SPARE
  | GLB_PART_NUM
  | GLB_SI_REV
  | GLB_SRC_ID
  | GLB_MODE_REDUCED
  | GLB_MODE_CODE
  | GLB_REQ_TARGET
  | GLB_REQ_OP
  | GLB_WAKE_SEC
  | GLB_RESET_GO
  | GLB_RESET_CAUSE
  | GLB_SR_UNIT
  | GLB_SR_BUSY
  | GLB_SR_INDEX
  | GLB_EVT_LEASE
  | GLB_EVT_IMAGE
  | GLB_EVT_ORDER
  | GLB_EVT_MODE
  | GLB_EVT_BOOT
  | GLB_IMG_ERR
  | GLB_IMG_OUT
  | GLB_IMG_OP
  | GLB_IMG_ADDR
  | GLB_LS_HELD
  | GLB_LS_HOLDER
  | GLB_LS_LEFT_MS
  | GLB_LS_EPOCH
  | GLB_LC_OP
  | GLB_LC_TERM_MS
  | GLB_LU_EPOCH
  | GLB_LM_ERR
  | GLB_LM_OUT
  | GLB_LM_EPOCH
  | GLB_EVT_WPTR
  | GLB_EVT_RPTR
  | GLB_EVT_IRQ_EN
  | GLB_EVT_LEVEL
  | GLB_EVT_VEC
  | GLB_PT_PORT_L
  | GLB_PT_ELIG
  | GLB_PT_PREC
  | GLB_PT_PORT_H
  | GLB_PT_CL
  | GLB_PT_Q_CNT
  | GLB_PT_Q_BASE
  | GLB_EVT_WORD
  | HST_LINK_UP
  | HST_GEN3
  | HST_ATS_EN
  | HST_PRI_EN
  | HST_BME
  | HST_FENCED_CNT
  | HST_PART_CNT
  | HST_EVT_LINK
  | HST_EVT_FENCE
  | HST_EVT_PART
  | HST_EVT_RX
  | HST_EVT_DMA
  | HST_CNT_CLR
  | HST_GR_EN
  | HST_GR_RO
  | HST_GR_DEV
  | HST_GR_WIN
  | HST_GR_LEN
  | HST_RXMAP_RING
  | HST_RG_BASE_L
  | HST_RG_BASE_H
  | HST_RG_EN
  | HST_RG_KIND
  | HST_RG_LOG2N
  | HST_RG_VEC
  | HST_RG_MOD_US
  | HST_RG_MOD_CNT
  | HST_RG_CONS
  | HST_RG_PROD
  | HST_RG_ERR
  | HST_RG_DROPS
  | FUS_VENDOR_OK
  | FUS_OWNER_SEALED
  | FUS_OWNER_OK
  | FUS_DBG_LOCK
  | FUS_MON_LOCK
  | FUS_VENDOR_IMG
  | FUS_PROG_COND
  | FUS_RPR_USED
  | FUS_PROG_OP
  | FUS_PROG_OUT
  | FUS_PROG_WORD
  | FUS_PROG_DATA
  | FUS_PROG_ERR
  | FUS_EVT_SEALED
  | FUS_EVT_PROG
  | FUS_EVT_OWNER_CRC
  | FUS_EVT_VENDOR_CRC
  | FUS_SHADOW
  | FUS_ARRAY
  | HEA_REPLACE
  | HEA_FATAL
  | HEA_BURN_PEND
  | HEA_CAP_SEQ
  | HEA_C_PHASE
  | HEA_C_LANE
  | HEA_C_CLUSTER
  | HEA_C_RMP
  | HEA_C_SPARE
  | HEA_C_BURN
  | HEA_TH_SPARE
  | HEA_TH_RMP
  | HEA_TH_PHASE
  | HEA_TH_LANE
  | HEA_TH_CL
  | HEA_EVT_CAP
  | HEA_EVT_REPLACE
  | HEA_EVT_RETIRE
  | HEA_EVT_FATAL
  | HEA_LANE_RET_LO
  | HEA_LANE_RET_HI
  | HEA_CAP_ENGINES
  | HEA_CAP_CLUSTERS
  | HEA_CAP_CLK
  | HEA_CAP_LANES
  | HEA_CAP_GE
  | HEA_CAP_GBPS
  | HEA_CAP_SPARE
  | HEA_CAP_RMP
  | HEA_CAP_NOSPARE
  | HEA_CAP_TIME
  | CLS_INFLIGHT
  | TBL_SEED_WORD
  | FLW_KPROF
  | SWC_INS_WM
  | SWC_ESC1_FREE
  | SWC_ESC0_FREE
  | SWC_ESC1_MIN
  | SWC_ESC0_MIN
  | HEA_LANE_CAL_TH
  | HEA_CL_UNC_TH
  deriving DecidableEq, Repr

/-- The 64-bit counters of Tables 05.3, 06.12, 07.8, 08.10, 09.9, 10.9, 11.7, 12.3, 13.14, 14.14, 14.15, 15.5, 16.8, 17.9 and the cluster and port sets among them. -/
inductive Ctr where
  | PRT_CNT_RX_FRAMES
  | PRT_CNT_RX_OCTETS
  | PRT_CNT_TX_FRAMES
  | PRT_CNT_TX_OCTETS
  | PRT_CNT_FCS_ERR
  | PRT_CNT_SIZE_ERR
  | PRT_CNT_PAUSE_RX
  | PRT_CNT_MACCTL_RX
  | PRT_CNT_ING_DROP
  | PRT_CNT_MODE_DROP
  | PRT_CNT_CT_ERR
  | PRT_CNT_FEC_CORR
  | PRT_CNT_FEC_UNCORR
  | PRT_CNT_PRE_TX_FRAG
  | PRT_CNT_PRE_RX_ERR
  | PRT_CNT_RED_DUP
  | PRT_CNT_RED_OOW
  | PRT_CNT_RED_UNK
  | PRT_CNT_RED_WRONG_LAN
  | PRT_CNT_RED_LSDU
  | PAR_CNT_CLASS
  | PAR_CNT_CODE
  | PAR_CNT_RESTART
  | PAR_CNT_PREEMPT
  | PAR_CNT_PROTECT
  | PAR_CNT_PMT_IGN
  | PAR_CNT_HOLD_CLK
  | PAR_CNT_ENTRY
  | CLS_CNT_LOOKUP
  | CLS_CNT_DEFAULT
  | CLS_CNT_DENY
  | CLS_CNT_RECIRC
  | CLS_CNT_RECIRC_LIMIT
  | CLS_CNT_SLOW
  | CLS_CNT_SLOW_DROP
  | CLS_CNT_DETACHED
  | CLS_CNT_FRAG_HIT
  | CLS_CNT_FRAG_UNRES
  | CLS_CNT_FRAG_FULL
  | CLS_CNT_FRAG_STALE
  | CLS_CNT_FRAG_EXPIRED
  | TBL_CNT_L2_FLOOD
  | TBL_CNT_L2_UNK_DROP
  | TBL_CNT_VLAN_DROP
  | TBL_CNT_APPID_DROP
  | TBL_CNT_LPM_MISS
  | TBL_CNT_LPM_DROP
  | TBL_CNT_TTL_DROP
  | TBL_CNT_LEARN
  | TBL_CNT_LEARN_MOVE
  | TBL_CNT_LEARN_DROP
  | TBL_CNT_INS_FAIL
  | TBL_CNT_RESTART
  | TBL_CNT_PROTECT
  | TBL_CNT_AGE_DEL
  | TBL_CNT_AGE_KEEP
  | FLW_CNT_LOOKUP
  | FLW_CNT_HIT
  | FLW_CNT_CACHE_HIT
  | FLW_CNT_INS_OK
  | FLW_CNT_NEW_FWD
  | FLW_CNT_NEW_DROP
  | FLW_CNT_NEW_SAMPLE
  | FLW_CNT_DENY
  | FLW_CNT_HANDOFF
  | FLW_CNT_HANDOFF_DROP
  | FLW_CNT_NAT_SKIP
  | FLW_CNT_LB_NONE
  | FLW_CNT_GOOSE_GAP
  | FLW_CNT_GOOSE_DUP
  | FLW_CNT_GOOSE_TAL
  | FLW_CNT_TEL_DROP
  | FLW_CNT_REC_EXHAUST
  | SAU_CNT_ACCEPT
  | SAU_CNT_UNSUB
  | SAU_CNT_DUP
  | SAU_CNT_SLICE
  | SAU_CNT_DL_CLOSE
  | SAU_CNT_PATCH
  | SAU_CNT_LATE
  | SAU_CNT_TOK_REF
  | SAU_CNT_PUB
  | SAU_CNT_RETX
  | SAU_CNT_RETX_SKIP
  | SWC_CNT_GRANT
  | SWC_CNT_SPILL
  | SWC_CNT_ESC_GRANT
  | SWC_CNT_POOL_DROP
  | SWC_CNT_ESC_DROP
  | SWC_CNT_OVERRUN
  | SWC_CNT_OVERSIZE
  | SWC_CNT_REPLICA
  | SWC_CNT_REPL_FULL
  | SWC_CNT_RG_EMPTY
  | SWC_CNT_INSET_SKIP
  | SWC_CNT_INSET_SHED
  | SWC_CNT_OWN_ERR
  | SWC_CNT_ECC_CORR
  | SWC_CNT_ECC_UNCORR
  | TMG_CNT_ENQ
  | TMG_CNT_DEQ
  | TMG_CNT_TAIL_DROP
  | TMG_CNT_ENTRY_DROP
  | TMG_CNT_NOQ
  | TMG_CNT_RESV_DROP
  | TMG_CNT_LINKDOWN
  | TMG_CNT_VOID
  | TMG_CNT_WHEEL_LATE
  | ENG_CNT_INSN
  | ENG_CNT_TASK_END
  | ENG_CNT_CTX_SW
  | ENG_CNT_EXC
  | ENG_CNT_EMIT
  | ENG_CNT_EMIT_REF
  | ENG_CNT_CONT_STALE
  | ENG_CNT_CONT_DROP
  | ENG_CNT_TMR_FIRE
  | ENG_CNT_PKSEND
  | ENG_CNT_BUF_LEAK
  | ENG_CNT_ECC_CORR
  | ENG_CNT_ECC_UNCORR
  | TSK_CNT_TOKEN
  | TSK_CNT_REFUSED
  | TSK_CNT_FIRE
  | TSK_CNT_PREEMPT
  | TSK_CNT_MATCH_TMO
  | TSK_CNT_ABORT
  | TSK_CNT_P_VIOL
  | TSK_CNT_HOLD
  | TSK_CNT_FAULT_TMO
  | TSK_CNT_DRAIN_DISC
  | MMU_CNT_WALK
  | MMU_CNT_FAULT
  | MMU_CNT_FR_OVF
  | MMU_CNT_PRI_REQ
  | MMU_CNT_PRI_FAIL
  | MMU_CNT_DMA_DONE
  | MMU_CNT_DMA_LATE
  | MMU_CNT_DMA_ABORT
  | AUT_CNT_SIGN
  | AUT_CNT_VERIFY
  | AUT_CNT_VFY_FAIL
  | AUT_CNT_INLINE
  | AUT_CNT_INLINE_FAIL
  | AUT_CNT_QUEUE_DROP
  | AUT_CNT_REFUSED
  | AUT_CNT_WITHHELD
  | AUT_CNT_ABORTED
  | AUT_CNT_KEY_LOAD
  | MEM_CNT_READ
  | MEM_CNT_WRITE
  | MEM_CNT_RMW
  | MEM_CNT_WQ_FWD
  | MEM_CNT_CORR
  | MEM_CNT_UNCORR
  | MEM_CNT_UNC_DROP
  | MEM_CNT_NR_ISSUED
  | MEM_CNT_NR_OVF
  | MEM_CNT_REMAP
  | HST_CNT_TX_DESC
  | HST_CNT_TX_ERR
  | HST_CNT_RX_FRAMES
  | HST_CNT_RX_NODESC
  | HST_CNT_RX_TRUNC
  | HST_CNT_ATS_INV
  | HST_CNT_PRI_FAIL
  deriving DecidableEq, Repr

/-- Block, offset of element (0, 0), outer count and stride (port, pipeline or host) and inner count (stride 8). -/
structure CtrInfo where
  block : Block
  off   : Nat
  n1    : Nat
  s1    : Nat
  n2    : Nat
  deriving DecidableEq, Repr

/-- One constructor per code of Table 18.7; its name is the spec's. -/
inductive Ev where
  | GLB_E_MODE_REFUSED
  | GLB_E_ORDER
  | GLB_E_IMAGE_SIG
  | GLB_E_IMAGE_KEY
  | GLB_E_IMAGE_FORMAT
  | GLB_E_BOOT
  | GLB_E_RESTORE
  | GLB_E_LEASE_HELD
  | GLB_E_LEASE_ELIG
  | GLB_E_LEASE_MODE
  | GLB_E_IMG_CMD
  | GLB_W_DRAIN_FORCED
  | GLB_W_STRAP
  | GLB_W_LEASE_LAPSED
  | GLB_I_MODE
  | GLB_I_RESET
  | GLB_I_LEASE_GRANT
  | GLB_I_LEASE_END
  | PWR_E_VIN_UV
  | PWR_E_DOM_BUSY
  | PWR_E_DOM_RETIRED
  | PWR_E_OVERTEMP
  | PWR_E_THERMTRIP
  | PWR_E_PHASE_FAIL
  | PWR_E_RAIL_FAULT
  | PWR_E_RANGE
  | PWR_W_HOT
  | PWR_W_VIN_LOW
  | PWR_W_SLOWCLK_LOST
  | PWR_W_CURRENT_HIGH
  | PWR_I_DERATE_ON
  | PWR_I_DERATE_OFF
  | PWR_I_SLOWCLK_OK
  | TIM_E_CMD
  | TIM_E_SRC
  | TIM_E_CORR_OVF
  | TIM_W_PPS_LOST
  | TIM_W_PPS_REJECT
  | TIM_W_HOLDOVER_END
  | TIM_I_LOCKED
  | TIM_I_STEP
  | TIM_I_REFW_RATE
  | TIM_I_TIMEBASE
  | PRT_E_CFG
  | PRT_E_SPEED
  | PRT_E_VERIFY
  | PRT_W_LINK_DOWN
  | PRT_W_LAN_LOSS
  | PRT_W_RED_FULL
  | PRT_I_LINK_UP
  | PRT_I_PRE_ACTIVE
  | PAR_E_CS_UNCORR
  | PAR_E_LIMIT
  | PAR_E_BAD_WORD
  | PAR_W_CS_CORR
  | PAR_W_ENTRY_HOLD
  | PAR_I_CS_LOADED
  | PAR_I_PROTECTED
  | CLS_E_PACK
  | CLS_E_EDITION
  | CLS_E_NOT_STAGED
  | CLS_E_BUSY
  | CLS_E_CAP
  | CLS_E_RECIRC_LIMIT
  | CLS_E_SLOW_FULL
  | CLS_E_RULE_UNCORR
  | CLS_W_FRAG_FULL
  | CLS_W_DETACHED
  | CLS_W_RULE_CORR
  | CLS_I_COMMITTED
  | CLS_I_DRAINED
  | CLS_I_STAGED
  | TBL_E_FULL
  | TBL_E_SIG_CLASH
  | TBL_E_NOT_FOUND
  | TBL_E_EXISTS
  | TBL_E_BUSY
  | TBL_E_ARG
  | TBL_E_SEED
  | TBL_E_REHASH_ACTIVE
  | TBL_E_REHASH_FULL
  | TBL_E_NO_CURSOR
  | TBL_E_STAMP
  | TBL_E_IMAGE
  | TBL_W_HASH_STRESS
  | TBL_W_LEARN_DROP
  | TBL_I_REHASH_DONE
  | TBL_I_FLOW_CLEARED
  | TBL_I_JOURNAL_SETTLED
  | FLW_E_REC_EXHAUST
  | FLW_E_HANDOFF
  | FLW_E_CMD
  | FLW_E_REC_LIVE
  | FLW_E_REC_FREE
  | FLW_E_KPROF
  | FLW_E_GAZ_DUP
  | FLW_E_GOOSE_LIMIT
  | FLW_W_GOOSE_TAL
  | FLW_W_NEWFLOW
  | FLW_W_TEL_DROP
  | FLW_I_REBUILT
  | SAU_E_JG_CFG
  | SAU_E_RESERVE
  | SAU_E_CAPACITY
  | SAU_E_PUB_REFUSED
  | SAU_E_CFG
  | SAU_W_STREAM_LOST
  | SAU_W_STREAM_FAULT
  | SAU_W_TOKEN
  | SAU_W_PUB_SKIP
  | SAU_I_STREAM_VALID
  | SAU_I_GRID_RESET
  | SWC_E_OWNER
  | SWC_E_BUF_RANGE
  | SWC_E_LAYOUT
  | SWC_E_ESCAPE
  | SWC_E_ECC
  | SWC_W_POOL_LOW
  | SWC_W_ECC_CORR
  | SWC_W_INSET_SHED
  | SWC_I_LAYOUT
  | TMG_E_CFG
  | TMG_W_ENTRY_LOW
  | TMG_W_WHEEL_LAG
  | ENG_E_EXCEPTION
  | ENG_E_MEM_UNCORR
  | ENG_E_LOAD_BUSY
  | ENG_E_LOAD_PART
  | ENG_E_ARG
  | ENG_E_TOKQ
  | ENG_E_CONT_FULL
  | ENG_E_TIMER_FULL
  | ENG_E_BUFLIST
  | ENG_E_NOBUF
  | ENG_W_MEM_CORR
  | ENG_W_EMIT_REF
  | ENG_W_BUF_LEAK
  | ENG_I_LOADED
  | TSK_E_FULL
  | TSK_E_TMPL
  | TSK_E_DUP_OPND
  | TSK_E_PERM
  | TSK_E_MODE
  | TSK_E_CMD
  | TSK_E_STALE
  | TSK_E_P_VIOLATION
  | TSK_E_TMPL_BUSY
  | TSK_W_MATCH_TMO
  | TSK_W_FAULT_TMO
  | TSK_W_FB_FULL
  | MMU_E_FAULT
  | MMU_E_RING_OVF
  | MMU_E_DMA_ABORTED
  | MMU_E_DMAQ_FULL
  | MMU_E_DMA_SEQ
  | MMU_E_PIN
  | MMU_E_CMD
  | MMU_W_PRI_TMO
  | MMU_I_INV_DONE
  | AUT_E_NOKEY
  | AUT_E_NONCE
  | AUT_E_PARTITION
  | AUT_E_USE
  | AUT_E_TAGLEN
  | AUT_E_LENGTH
  | AUT_E_ADDR
  | AUT_E_MEM
  | AUT_E_TAG
  | AUT_E_ABORTED
  | AUT_E_QUEUE
  | AUT_E_KEYCMD
  | AUT_W_NONCE
  | AUT_W_VERIFY_FAIL
  | AUT_W_SIGN_WITHHELD
  | AUT_I_KEY_LOADED
  | MEM_E_UNCORR
  | MEM_E_TRAIN
  | MEM_E_NO_SPARE
  | MEM_E_STACK_HOT
  | MEM_E_CMD
  | MEM_E_BURN
  | MEM_W_CORR
  | MEM_W_HOT_REFRESH
  | MEM_W_NR_OVF
  | MEM_W_FUSE_ENTRY
  | MEM_I_INIT_DONE
  | MEM_I_REMAP
  | MEM_I_RPR_DONE
  | HST_E_FENCED
  | HST_E_PARTITION
  | HST_E_DESC
  | HST_E_RING_CFG
  | HST_E_DMA
  | HST_E_GRANT
  | HST_W_LINK_DOWN
  | HST_W_RX_NODESC
  | HST_W_PRI_STOP
  | HST_I_LINK_UP
  | HST_I_FLR
  | HEA_E_CL_RETIRED
  | HEA_E_LANE_RETIRED
  | HEA_E_P_CAPACITY
  | HEA_E_AON_ECC
  | HEA_E_BURN
  | HEA_W_REPLACE
  | HEA_I_CAPACITY
  | FUS_E_VENDOR_CRC
  | FUS_E_OWNER_CRC
  | FUS_E_PROG
  | FUS_E_SEALED
  | FUS_E_OWNER_INVALID
  | FUS_E_COND
  | FUS_I_SEALED
  | MON_E_FRAME
  | MON_E_CMD
  | MON_E_LOCKED
  | MON_W_OVERRUN
  | MON_I_OPEN
  | MON_I_CLOSE
  deriving DecidableEq, Repr

/-- Kinds of Table 00.5. -/
inductive EvKind where
  | error | warning | info
  deriving DecidableEq, Repr

end Sys2Proof
end

