-- ==== Sys2Proof/Machine/RegMap.lean ====
section
/-! DEFINITION. The register maps as data (spec/00 R6-R8, spec/01 R12-R13, the maps of spec/02 to spec/18): the place, width, access code and reset value of every field, the places of the counters, and the codes and status bits of the events (R499 and each chapter's event table). -/

namespace Sys2Proof

/-- First BAR0 byte offset of a block (Table 01.2). PAR is pipeline 0; pipeline 1 is 0x4_0000 above it. -/
def Block.base : Block → Nat
  | .GLB => 0x000000
  | .PWR => 0x010000
  | .FUS => 0x020000
  | .HEA => 0x030000
  | .TIM => 0x040000
  | .PRT => 0x080000
  | .PAR => 0x100000
  | .CLS => 0x180000
  | .TBL => 0x200000
  | .FLW => 0x280000
  | .SAU => 0x300000
  | .SWC => 0x380000
  | .TMG => 0x400000
  | .ENG => 0x480000
  | .TSK => 0x500000
  | .MMU => 0x580000
  | .AUT => 0x600000
  | .MEM => 0x680000
  | .HST => 0x700000

/-- Size in bytes of a block, both pipelines of PAR together (Table 01.2). -/
def Block.size : Block → Nat
  | .GLB | .PWR | .FUS | .HEA => 0x10000
  | .TIM => 0x40000
  | _ => 0x80000

/-- The blocks in address order. -/
def Block.all : List Block := [.GLB, .PWR, .FUS, .HEA, .TIM, .PRT, .PAR, .CLS, .TBL, .FLW, .SAU, .SWC, .TMG, .ENG, .TSK, .MMU, .AUT, .MEM, .HST]

/-- The place, width and access of each field, from its register map. -/
def Field.info : Field → FieldInfo
  | .PWR_GRADE_E => ⟨.PWR, 0x0, 1, 0x0, 1, 0x0, 15, 15, .RO, false⟩
  | .PWR_SLOWCLK_INT => ⟨.PWR, 0x0, 1, 0x0, 1, 0x0, 14, 14, .RO, false⟩
  | .PWR_DERATE_ACT => ⟨.PWR, 0x0, 1, 0x0, 1, 0x0, 13, 13, .RO, false⟩
  | .PWR_CURLIM_ACT => ⟨.PWR, 0x0, 1, 0x0, 1, 0x0, 12, 12, .RO, false⟩
  | .PWR_HOT => ⟨.PWR, 0x0, 1, 0x0, 1, 0x0, 11, 11, .RO, false⟩
  | .PWR_VIN_OK => ⟨.PWR, 0x0, 1, 0x0, 1, 0x0, 10, 10, .RO, false⟩
  | .PWR_PLL_LOCK => ⟨.PWR, 0x0, 1, 0x0, 1, 0x0, 9, 6, .RO, false⟩
  | .PWR_IIN_10MA => ⟨.PWR, 0x10, 1, 0x0, 1, 0x0, 31, 16, .RO, false⟩
  | .PWR_VIN_MV => ⟨.PWR, 0x10, 1, 0x0, 1, 0x0, 15, 0, .RO, false⟩
  | .PWR_PIN_100MW => ⟨.PWR, 0x14, 1, 0x0, 1, 0x0, 31, 16, .RO, false⟩
  | .PWR_VAON_MV => ⟨.PWR, 0x14, 1, 0x0, 1, 0x0, 15, 0, .RO, false⟩
  | .PWR_TCASE_EST => ⟨.PWR, 0x18, 1, 0x0, 1, 0x0, 31, 16, .RO, false⟩
  | .PWR_TDIE_MAX => ⟨.PWR, 0x18, 1, 0x0, 1, 0x0, 15, 0, .RO, false⟩
  | .PWR_HOT_THRESH => ⟨.PWR, 0x20, 1, 0x0, 1, 0x0, 9, 0, .RWF, false⟩
  | .PWR_EVT_VIN_UV => ⟨.PWR, 0x30, 1, 0x0, 1, 0x0, 7, 7, .W1C, true⟩
  | .PWR_EVT_OVERTEMP => ⟨.PWR, 0x30, 1, 0x0, 1, 0x0, 6, 6, .W1C, false⟩
  | .PWR_EVT_PHASE => ⟨.PWR, 0x30, 1, 0x0, 1, 0x0, 5, 5, .W1C, false⟩
  | .PWR_EVT_CURLIM => ⟨.PWR, 0x30, 1, 0x0, 1, 0x0, 4, 4, .W1C, false⟩
  | .PWR_EVT_HOT => ⟨.PWR, 0x30, 1, 0x0, 1, 0x0, 3, 3, .W1C, false⟩
  | .PWR_EVT_SLOWCLK => ⟨.PWR, 0x30, 1, 0x0, 1, 0x0, 2, 2, .W1C, false⟩
  | .PWR_EVT_DERATE => ⟨.PWR, 0x30, 1, 0x0, 1, 0x0, 1, 1, .W1C, false⟩
  | .PWR_EVT_DOM_REFUSED => ⟨.PWR, 0x30, 1, 0x0, 1, 0x0, 0, 0, .W1C, false⟩
  | .PWR_PHASE_RETIRED => ⟨.PWR, 0x40, 1, 0x0, 1, 0x0, 23, 0, .RO, false⟩
  | .PWR_ENG_CLK_EFF => ⟨.PWR, 0x100, 24, 0x4, 1, 0x0, 28, 24, .RO, false⟩
  | .PWR_ENG_CLK_SET => ⟨.PWR, 0x100, 24, 0x4, 1, 0x0, 4, 0, .RWF, false⟩
  | .PWR_DOM_CG_ONLY => ⟨.PWR, 0x200, 80, 0x4, 1, 0x0, 2, 2, .RWF, false⟩
  | .PWR_DOM_REQ => ⟨.PWR, 0x200, 80, 0x4, 1, 0x0, 1, 0, .RWF, false⟩
  | .PWR_DOM_WAKES => ⟨.PWR, 0x400, 80, 0x4, 1, 0x0, 31, 16, .RC, false⟩
  | .PWR_DOM_RETIRED => ⟨.PWR, 0x400, 80, 0x4, 1, 0x0, 3, 3, .RO, false⟩
  | .PWR_DOM_STATE => ⟨.PWR, 0x400, 80, 0x4, 1, 0x0, 2, 0, .RO, false⟩
  | .TIM_QUAL => ⟨.TIM, 0x0, 1, 0x0, 1, 0x0, 18, 16, .RO, false⟩
  | .TIM_FAST => ⟨.TIM, 0x0, 1, 0x0, 1, 0x0, 14, 14, .RO, false⟩
  | .TIM_PPS_SEEN => ⟨.TIM, 0x0, 1, 0x0, 1, 0x0, 13, 13, .RO, false⟩
  | .TIM_CMD_BUSY => ⟨.TIM, 0x0, 1, 0x0, 1, 0x0, 12, 12, .RO, false⟩
  | .TIM_HOLD_ELAPSED => ⟨.TIM, 0x0, 1, 0x0, 1, 0x0, 11, 0, .RO, false⟩
  | .TIM_SERVO_KP => ⟨.TIM, 0x4, 1, 0x0, 1, 0x0, 31, 24, .RWF, false⟩
  | .TIM_SERVO_KI => ⟨.TIM, 0x4, 1, 0x0, 1, 0x0, 23, 16, .RWF, false⟩
  | .TIM_PPSOUT_MS => ⟨.TIM, 0x4, 1, 0x0, 1, 0x0, 15, 8, .RWF, false⟩
  | .TIM_PTP_LOCK => ⟨.TIM, 0x4, 1, 0x0, 1, 0x0, 5, 5, .RWF, false⟩
  | .TIM_PPSOUT_EN => ⟨.TIM, 0x4, 1, 0x0, 1, 0x0, 4, 4, .RWF, false⟩
  | .TIM_STEP_EN => ⟨.TIM, 0x4, 1, 0x0, 1, 0x0, 3, 3, .RWF, false⟩
  | .TIM_SRC => ⟨.TIM, 0x4, 1, 0x0, 1, 0x0, 1, 0, .RWF, false⟩
  | .TIM_NOW_FRAC => ⟨.TIM, 0x10, 1, 0x0, 1, 0x0, 15, 0, .RWF, false⟩
  | .TIM_NOW_NS => ⟨.TIM, 0x14, 1, 0x0, 1, 0x0, 31, 0, .RWF, false⟩
  | .TIM_NOW_SEC_LO => ⟨.TIM, 0x18, 1, 0x0, 1, 0x0, 31, 0, .RWF, false⟩
  | .TIM_NOW_SEC_HI => ⟨.TIM, 0x1C, 1, 0x0, 1, 0x0, 15, 0, .RWF, false⟩
  | .TIM_CMD_OP => ⟨.TIM, 0x20, 1, 0x0, 1, 0x0, 1, 0, .RWF, false⟩
  | .TIM_STEP_NS => ⟨.TIM, 0x24, 1, 0x0, 1, 0x0, 31, 0, .RWF, false⟩
  | .TIM_ADJ_FREQ => ⟨.TIM, 0x30, 1, 0x0, 1, 0x0, 31, 0, .RWF, false⟩
  | .TIM_FREQ_EFF => ⟨.TIM, 0x34, 1, 0x0, 1, 0x0, 31, 0, .RO, true⟩
  | .TIM_PPS_DELAY => ⟨.TIM, 0x40, 1, 0x0, 1, 0x0, 31, 16, .RWF, false⟩
  | .TIM_PPS_WIN => ⟨.TIM, 0x40, 1, 0x0, 1, 0x0, 15, 8, .RWF, false⟩
  | .TIM_HOLD_SEC => ⟨.TIM, 0x44, 1, 0x0, 1, 0x0, 31, 20, .RWF, false⟩
  | .TIM_STEP_THRESH => ⟨.TIM, 0x44, 1, 0x0, 1, 0x0, 19, 0, .RWF, false⟩
  | .TIM_PPS_REJ => ⟨.TIM, 0x50, 1, 0x0, 1, 0x0, 31, 16, .RC, false⟩
  | .TIM_PPS_CAP_FRAC => ⟨.TIM, 0x50, 1, 0x0, 1, 0x0, 15, 0, .RO, false⟩
  | .TIM_PPS_CAP_NS => ⟨.TIM, 0x54, 1, 0x0, 1, 0x0, 31, 0, .RO, false⟩
  | .TIM_PPS_CAP_SEC => ⟨.TIM, 0x58, 1, 0x0, 1, 0x0, 31, 0, .RO, false⟩
  | .TIM_PPS_ERR => ⟨.TIM, 0x5C, 1, 0x0, 1, 0x0, 31, 0, .RO, false⟩
  | .TIM_REFW_NEXT => ⟨.TIM, 0x60, 1, 0x0, 1, 0x0, 1, 1, .RO, true⟩
  | .TIM_REFW_INT => ⟨.TIM, 0x60, 1, 0x0, 1, 0x0, 0, 0, .RO, true⟩
  | .TIM_EVT_TIMEBASE => ⟨.TIM, 0x70, 1, 0x0, 1, 0x0, 6, 6, .W1C, false⟩
  | .TIM_EVT_STEP => ⟨.TIM, 0x70, 1, 0x0, 1, 0x0, 5, 5, .W1C, false⟩
  | .TIM_EVT_LOCK => ⟨.TIM, 0x70, 1, 0x0, 1, 0x0, 4, 4, .W1C, false⟩
  | .TIM_EVT_PPS_LOST => ⟨.TIM, 0x70, 1, 0x0, 1, 0x0, 3, 3, .W1C, false⟩
  | .TIM_EVT_HOLD_END => ⟨.TIM, 0x70, 1, 0x0, 1, 0x0, 2, 2, .W1C, false⟩
  | .TIM_EVT_CORR_OVF => ⟨.TIM, 0x70, 1, 0x0, 1, 0x0, 1, 1, .W1C, false⟩
  | .TIM_EVT_REFW => ⟨.TIM, 0x70, 1, 0x0, 1, 0x0, 0, 0, .W1C, false⟩
  | .TIM_P_EGR_ADJ => ⟨.TIM, 0x1000, 48, 0x10, 1, 0x0, 31, 16, .RWF, false⟩
  | .TIM_P_ING_ADJ => ⟨.TIM, 0x1000, 48, 0x10, 1, 0x0, 15, 0, .RWF, false⟩
  | .TIM_P1S_EN => ⟨.TIM, 0x1004, 48, 0x10, 1, 0x0, 31, 31, .RWF, false⟩
  | .TIM_P2P_ADD => ⟨.TIM, 0x1004, 48, 0x10, 1, 0x0, 30, 30, .RWF, false⟩
  | .TIM_P_LINKDLY => ⟨.TIM, 0x1004, 48, 0x10, 1, 0x0, 23, 0, .RWF, false⟩
  | .PRT_MAX_FRAME => ⟨.PRT, 0x0, 48, 0x2000, 1, 0x0, 31, 18, .RWF, false⟩
  | .PRT_AN_EN => ⟨.PRT, 0x0, 48, 0x2000, 1, 0x0, 7, 7, .RWF, false⟩
  | .PRT_FEC => ⟨.PRT, 0x0, 48, 0x2000, 1, 0x0, 6, 5, .RWF, false⟩
  | .PRT_MODE => ⟨.PRT, 0x0, 48, 0x2000, 1, 0x0, 4, 2, .RWF, false⟩
  | .PRT_EN => ⟨.PRT, 0x0, 48, 0x2000, 1, 0x0, 0, 0, .RWF, false⟩
  | .PRT_EXPRESS_TC => ⟨.PRT, 0x4, 48, 0x2000, 1, 0x0, 31, 24, .RWF, false⟩
  | .PRT_PRE_VERIFY_MS => ⟨.PRT, 0x4, 48, 0x2000, 1, 0x0, 23, 16, .RWF, false⟩
  | .PRT_PRE_FRAG => ⟨.PRT, 0x4, 48, 0x2000, 1, 0x0, 3, 2, .RWF, false⟩
  | .PRT_PRE_VERIFY_DIS => ⟨.PRT, 0x4, 48, 0x2000, 1, 0x0, 1, 1, .RWF, false⟩
  | .PRT_PRE_EN => ⟨.PRT, 0x4, 48, 0x2000, 1, 0x0, 0, 0, .RWF, false⟩
  | .PRT_RED_SUPV_MS => ⟨.PRT, 0x8, 48, 0x2000, 1, 0x0, 31, 20, .RWF, false⟩
  | .PRT_RED_FORGET_MS => ⟨.PRT, 0x8, 48, 0x2000, 1, 0x0, 19, 8, .RWF, false⟩
  | .PRT_RED_KEEP => ⟨.PRT, 0x8, 48, 0x2000, 1, 0x0, 4, 4, .RWF, false⟩
  | .PRT_RED_ROLE => ⟨.PRT, 0x8, 48, 0x2000, 1, 0x0, 3, 3, .RWF, false⟩
  | .PRT_RED_MODE => ⟨.PRT, 0x8, 48, 0x2000, 1, 0x0, 1, 0, .RWF, false⟩
  | .PRT_RED_SEQ => ⟨.PRT, 0xC, 48, 0x2000, 1, 0x0, 15, 0, .RO, false⟩
  | .PRT_PRE_STATE => ⟨.PRT, 0x10, 48, 0x2000, 1, 0x0, 7, 6, .RO, false⟩
  | .PRT_LANE_MEMBER => ⟨.PRT, 0x10, 48, 0x2000, 1, 0x0, 5, 5, .RO, false⟩
  | .PRT_FEC_LOCK => ⟨.PRT, 0x10, 48, 0x2000, 1, 0x0, 4, 4, .RO, false⟩
  | .PRT_PCS_LOCK => ⟨.PRT, 0x10, 48, 0x2000, 1, 0x0, 3, 3, .RO, false⟩
  | .PRT_LINK_UP => ⟨.PRT, 0x10, 48, 0x2000, 1, 0x0, 0, 0, .RO, false⟩
  | .PRT_EVT_RED_FULL => ⟨.PRT, 0x14, 48, 0x2000, 1, 0x0, 5, 5, .W1C, false⟩
  | .PRT_EVT_LAN_LOSS => ⟨.PRT, 0x14, 48, 0x2000, 1, 0x0, 4, 4, .W1C, false⟩
  | .PRT_EVT_PRE => ⟨.PRT, 0x14, 48, 0x2000, 1, 0x0, 3, 3, .W1C, false⟩
  | .PRT_EVT_SPEED => ⟨.PRT, 0x14, 48, 0x2000, 1, 0x0, 2, 2, .W1C, false⟩
  | .PRT_EVT_CFG => ⟨.PRT, 0x14, 48, 0x2000, 1, 0x0, 1, 1, .W1C, false⟩
  | .PRT_EVT_LINK => ⟨.PRT, 0x14, 48, 0x2000, 1, 0x0, 0, 0, .W1C, false⟩
  | .PRT_CNT_CLR => ⟨.PRT, 0x18, 48, 0x2000, 1, 0x0, 0, 0, .W1S, false⟩
  | .PAR_CS_LOADED => ⟨.PAR, 0x0, 2, 0x40000, 1, 0x0, 15, 15, .RO, false⟩
  | .PAR_CS_BADWORD => ⟨.PAR, 0x0, 2, 0x40000, 1, 0x0, 14, 14, .RO, false⟩
  | .PAR_RESTART_Q => ⟨.PAR, 0x0, 2, 0x40000, 1, 0x0, 13, 7, .RO, false⟩
  | .PAR_LANES_BUSY => ⟨.PAR, 0x0, 2, 0x40000, 1, 0x0, 6, 0, .RO, false⟩
  | .PAR_DBG_FLAG => ⟨.PAR, 0x4, 2, 0x40000, 1, 0x0, 12, 12, .RWF, false⟩
  | .PAR_CLK_LIMIT => ⟨.PAR, 0x4, 2, 0x40000, 1, 0x0, 11, 0, .RWF, false⟩
  | .PAR_EXPR_EN => ⟨.PAR, 0x10, 2, 0x40000, 4, 0x4, 31, 31, .RWF, false⟩
  | .PAR_EXPR_ETYPE => ⟨.PAR, 0x10, 2, 0x40000, 4, 0x4, 15, 0, .RWF, false⟩
  | .PAR_CS_CORR_CNT => ⟨.PAR, 0x20, 2, 0x40000, 1, 0x0, 31, 16, .RC, false⟩
  | .PAR_CS_BAD_VALID => ⟨.PAR, 0x20, 2, 0x40000, 1, 0x0, 12, 12, .RO, false⟩
  | .PAR_CS_BAD_ADDR => ⟨.PAR, 0x20, 2, 0x40000, 1, 0x0, 11, 0, .RO, false⟩
  | .PAR_OCC_MAX => ⟨.PAR, 0x24, 2, 0x40000, 1, 0x0, 31, 16, .RC, false⟩
  | .PAR_OCC_MEAN => ⟨.PAR, 0x24, 2, 0x40000, 1, 0x0, 15, 0, .RO, false⟩
  | .PAR_EVT_LOADED => ⟨.PAR, 0x30, 2, 0x40000, 1, 0x0, 5, 5, .W1C, false⟩
  | .PAR_EVT_PROTECTED => ⟨.PAR, 0x30, 2, 0x40000, 1, 0x0, 4, 4, .W1C, false⟩
  | .PAR_EVT_ENTRY_HOLD => ⟨.PAR, 0x30, 2, 0x40000, 1, 0x0, 3, 3, .W1C, false⟩
  | .PAR_EVT_LIMIT => ⟨.PAR, 0x30, 2, 0x40000, 1, 0x0, 2, 2, .W1C, false⟩
  | .PAR_EVT_CS_CORR => ⟨.PAR, 0x30, 2, 0x40000, 1, 0x0, 1, 1, .W1C, false⟩
  | .PAR_EVT_CS_UNCORR => ⟨.PAR, 0x30, 2, 0x40000, 1, 0x0, 0, 0, .W1C, false⟩
  | .PAR_CNT_CLR => ⟨.PAR, 0x34, 2, 0x40000, 1, 0x0, 0, 0, .RWF, false⟩
  | .PAR_CS_RD => ⟨.PAR, 0x10000, 2, 0x40000, 32768, 0x4, 31, 0, .RO, false⟩
  | .CLS_CAP_FULL => ⟨.CLS, 0x0, 1, 0x0, 1, 0x0, 31, 31, .RO, false⟩
  | .CLS_PACK_WAIT => ⟨.CLS, 0x0, 1, 0x0, 1, 0x0, 30, 30, .RO, false⟩
  | .CLS_RULE_BAD => ⟨.CLS, 0x0, 1, 0x0, 1, 0x0, 29, 29, .RO, false⟩
  | .CLS_LIVE_VALID => ⟨.CLS, 0x0, 1, 0x0, 1, 0x0, 28, 28, .RO, false⟩
  | .CLS_LIVE_BANK => ⟨.CLS, 0x0, 1, 0x0, 1, 0x0, 27, 27, .RO, false⟩
  | .CLS_BANK_A_ST => ⟨.CLS, 0x0, 1, 0x0, 1, 0x0, 26, 24, .RO, false⟩
  | .CLS_BANK_B_ST => ⟨.CLS, 0x0, 1, 0x0, 1, 0x0, 23, 21, .RO, false⟩
  | .CLS_ED_A => ⟨.CLS, 0x0, 1, 0x0, 1, 0x0, 15, 8, .RO, false⟩
  | .CLS_ED_B => ⟨.CLS, 0x0, 1, 0x0, 1, 0x0, 7, 0, .RO, false⟩
  | .CLS_CAP_MODE => ⟨.CLS, 0x4, 1, 0x0, 1, 0x0, 8, 8, .RWF, false⟩
  | .CLS_FRAG_TMO_MS => ⟨.CLS, 0x4, 1, 0x0, 1, 0x0, 7, 0, .RWF, false⟩
  | .CLS_CMD_ED => ⟨.CLS, 0x10, 1, 0x0, 1, 0x0, 15, 8, .RWF, false⟩
  | .CLS_CMD_OP => ⟨.CLS, 0x10, 1, 0x0, 1, 0x0, 2, 0, .RWF, false⟩
  | .CLS_CMD_ADDR => ⟨.CLS, 0x14, 1, 0x0, 1, 0x0, 31, 0, .RWF, false⟩
  | .CLS_CMD_ERR => ⟨.CLS, 0x18, 1, 0x0, 1, 0x0, 31, 16, .RO, false⟩
  | .CLS_CMD_LAST_OP => ⟨.CLS, 0x18, 1, 0x0, 1, 0x0, 10, 8, .RO, false⟩
  | .CLS_CMD_OUT => ⟨.CLS, 0x18, 1, 0x0, 1, 0x0, 2, 0, .RO, false⟩
  | .CLS_DRAIN_ED => ⟨.CLS, 0x20, 1, 0x0, 1, 0x0, 27, 20, .RO, false⟩
  | .CLS_DRAIN_NS => ⟨.CLS, 0x20, 1, 0x0, 1, 0x0, 19, 0, .RO, false⟩
  | .CLS_RULE_CORR_CNT => ⟨.CLS, 0x24, 1, 0x0, 1, 0x0, 31, 20, .RC, false⟩
  | .CLS_RULE_BAD_VALID => ⟨.CLS, 0x24, 1, 0x0, 1, 0x0, 16, 16, .RO, false⟩
  | .CLS_RULE_BAD_BANK => ⟨.CLS, 0x24, 1, 0x0, 1, 0x0, 15, 15, .RO, false⟩
  | .CLS_RULE_BAD_IDX => ⟨.CLS, 0x24, 1, 0x0, 1, 0x0, 14, 0, .RO, false⟩
  | .CLS_EVT_COMMITTED => ⟨.CLS, 0x30, 1, 0x0, 1, 0x0, 7, 7, .W1C, false⟩
  | .CLS_EVT_DRAINED => ⟨.CLS, 0x30, 1, 0x0, 1, 0x0, 6, 6, .W1C, false⟩
  | .CLS_EVT_STAGED => ⟨.CLS, 0x30, 1, 0x0, 1, 0x0, 5, 5, .W1C, false⟩
  | .CLS_EVT_DETACHED => ⟨.CLS, 0x30, 1, 0x0, 1, 0x0, 4, 4, .W1C, false⟩
  | .CLS_EVT_FRAG_FULL => ⟨.CLS, 0x30, 1, 0x0, 1, 0x0, 3, 3, .W1C, false⟩
  | .CLS_EVT_RULE => ⟨.CLS, 0x30, 1, 0x0, 1, 0x0, 2, 2, .W1C, false⟩
  | .CLS_EVT_PKT_ERR => ⟨.CLS, 0x30, 1, 0x0, 1, 0x0, 1, 1, .W1C, false⟩
  | .CLS_EVT_CMD_ERR => ⟨.CLS, 0x30, 1, 0x0, 1, 0x0, 0, 0, .W1C, false⟩
  | .CLS_CNT_CLR => ⟨.CLS, 0x34, 1, 0x0, 1, 0x0, 0, 0, .RWF, false⟩
  | .TBL_SEED_FROZEN => ⟨.TBL, 0x0, 1, 0x0, 1, 0x0, 31, 31, .RO, false⟩
  | .TBL_REHASH_LIVE => ⟨.TBL, 0x0, 1, 0x0, 1, 0x0, 30, 30, .RO, true⟩
  | .TBL_REHASH_TGT => ⟨.TBL, 0x0, 1, 0x0, 1, 0x0, 29, 29, .RO, true⟩
  | .TBL_SEED_PHASE => ⟨.TBL, 0x0, 1, 0x0, 1, 0x0, 28, 28, .RO, true⟩
  | .TBL_JOURNAL_BUSY => ⟨.TBL, 0x0, 1, 0x0, 1, 0x0, 27, 27, .RO, false⟩
  | .TBL_PROTECTED => ⟨.TBL, 0x0, 1, 0x0, 1, 0x0, 26, 26, .RO, false⟩
  | .TBL_FLOW_CLEARING => ⟨.TBL, 0x0, 1, 0x0, 1, 0x0, 25, 25, .RO, false⟩
  | .TBL_LEARN_LVL => ⟨.TBL, 0x0, 1, 0x0, 1, 0x0, 24, 16, .RO, false⟩
  | .TBL_STASH_CNT => ⟨.TBL, 0x0, 1, 0x0, 1, 0x0, 6, 0, .RO, false⟩
  | .TBL_AGE_EN => ⟨.TBL, 0x4, 1, 0x0, 1, 0x0, 31, 31, .RWF, false⟩
  | .TBL_AGE_LIM_FLOW => ⟨.TBL, 0x4, 1, 0x0, 1, 0x0, 30, 16, .RWF, false⟩
  | .TBL_AGE_LIM_L2 => ⟨.TBL, 0x4, 1, 0x0, 1, 0x0, 14, 0, .RWF, false⟩
  | .TBL_AGE_TICK_MS => ⟨.TBL, 0x8, 1, 0x0, 1, 0x0, 31, 16, .RWF, false⟩
  | .TBL_AGE_RATE => ⟨.TBL, 0x8, 1, 0x0, 1, 0x0, 5, 0, .RWF, false⟩
  | .TBL_AGE_PASSES => ⟨.TBL, 0xC, 1, 0x0, 1, 0x0, 31, 16, .RC, false⟩
  | .TBL_AGE_NOW => ⟨.TBL, 0xC, 1, 0x0, 1, 0x0, 15, 0, .RO, false⟩
  | .TBL_STRESS_FAILS => ⟨.TBL, 0x10, 1, 0x0, 1, 0x0, 15, 0, .RWF, false⟩
  | .TBL_REHASH_RATE => ⟨.TBL, 0x14, 1, 0x0, 1, 0x0, 12, 0, .RWF, false⟩
  | .TBL_REHASH_CUR_VALID => ⟨.TBL, 0x18, 1, 0x0, 1, 0x0, 31, 31, .RO, true⟩
  | .TBL_REHASH_POS => ⟨.TBL, 0x18, 1, 0x0, 1, 0x0, 22, 0, .RO, true⟩
  | .TBL_FLUSH_VALID => ⟨.TBL, 0x1C, 1, 0x0, 1, 0x0, 31, 31, .RO, true⟩
  | .TBL_FLUSH_PORT => ⟨.TBL, 0x1C, 1, 0x0, 1, 0x0, 29, 24, .RO, true⟩
  | .TBL_FLUSH_POS => ⟨.TBL, 0x1C, 1, 0x0, 1, 0x0, 22, 0, .RO, true⟩
  | .TBL_RMAC_L => ⟨.TBL, 0x20, 1, 0x0, 1, 0x0, 31, 0, .RWF, false⟩
  | .TBL_RMAC_H => ⟨.TBL, 0x24, 1, 0x0, 1, 0x0, 15, 0, .RWF, false⟩
  | .TBL_EVT_REHASH => ⟨.TBL, 0x30, 1, 0x0, 1, 0x0, 5, 5, .W1C, false⟩
  | .TBL_EVT_STRESS => ⟨.TBL, 0x30, 1, 0x0, 1, 0x0, 4, 4, .W1C, false⟩
  | .TBL_EVT_LEARN_DROP => ⟨.TBL, 0x30, 1, 0x0, 1, 0x0, 3, 3, .W1C, false⟩
  | .TBL_EVT_CLEARED => ⟨.TBL, 0x30, 1, 0x0, 1, 0x0, 2, 2, .W1C, false⟩
  | .TBL_EVT_JOURNAL => ⟨.TBL, 0x30, 1, 0x0, 1, 0x0, 1, 1, .W1C, false⟩
  | .TBL_EVT_IMAGE => ⟨.TBL, 0x30, 1, 0x0, 1, 0x0, 0, 0, .W1C, false⟩
  | .TBL_CNT_CLR => ⟨.TBL, 0x34, 1, 0x0, 1, 0x0, 0, 0, .RWF, false⟩
  | .TBL_CMD_F_SEED => ⟨.TBL, 0x1000, 5, 0x100, 1, 0x0, 19, 19, .RW, false⟩
  | .TBL_CMD_F_STATIC => ⟨.TBL, 0x1000, 5, 0x100, 1, 0x0, 18, 18, .RW, false⟩
  | .TBL_CMD_F_IF_STAMP => ⟨.TBL, 0x1000, 5, 0x100, 1, 0x0, 17, 17, .RW, false⟩
  | .TBL_CMD_F_REPLACE => ⟨.TBL, 0x1000, 5, 0x100, 1, 0x0, 16, 16, .RW, false⟩
  | .TBL_CMD_TGT => ⟨.TBL, 0x1000, 5, 0x100, 1, 0x0, 11, 8, .RW, false⟩
  | .TBL_CMD_OP => ⟨.TBL, 0x1000, 5, 0x100, 1, 0x0, 3, 0, .RW, false⟩
  | .TBL_CMD_ARG => ⟨.TBL, 0x1004, 5, 0x100, 1, 0x0, 31, 0, .RW, false⟩
  | .TBL_CMD_ADDR => ⟨.TBL, 0x1008, 5, 0x100, 1, 0x0, 31, 0, .RW, false⟩
  | .TBL_CMD_ERR => ⟨.TBL, 0x100C, 5, 0x100, 1, 0x0, 31, 16, .RO, false⟩
  | .TBL_CMD_LAST_OP => ⟨.TBL, 0x100C, 5, 0x100, 1, 0x0, 15, 12, .RO, false⟩
  | .TBL_CMD_OUT => ⟨.TBL, 0x100C, 5, 0x100, 1, 0x0, 2, 0, .RO, false⟩
  | .TBL_CMD_CNT => ⟨.TBL, 0x1010, 5, 0x100, 1, 0x0, 31, 0, .RO, false⟩
  | .TBL_CMD_GEN => ⟨.TBL, 0x1014, 5, 0x100, 1, 0x0, 31, 0, .RO, false⟩
  | .TBL_CMD_LOC => ⟨.TBL, 0x1018, 5, 0x100, 1, 0x0, 31, 0, .RO, false⟩
  | .TBL_CMD_CUR_LO => ⟨.TBL, 0x1020, 5, 0x100, 1, 0x0, 31, 0, .RW, false⟩
  | .TBL_CMD_CUR_HI => ⟨.TBL, 0x1024, 5, 0x100, 1, 0x0, 31, 0, .RW, false⟩
  | .TBL_CMD_KEY => ⟨.TBL, 0x1040, 5, 0x100, 20, 0x4, 31, 0, .RW, false⟩
  | .TBL_CMD_DATA => ⟨.TBL, 0x10A0, 5, 0x100, 8, 0x4, 31, 0, .RW, false⟩
  | .TBL_VLAN_MEMB_L => ⟨.TBL, 0x10000, 4096, 0x10, 1, 0x0, 31, 0, .RWF, false⟩
  | .TBL_VLAN_VALID => ⟨.TBL, 0x10004, 4096, 0x10, 1, 0x0, 31, 31, .RWF, false⟩
  | .TBL_VLAN_LEARN => ⟨.TBL, 0x10004, 4096, 0x10, 1, 0x0, 30, 30, .RWF, false⟩
  | .TBL_VLAN_FLOOD => ⟨.TBL, 0x10004, 4096, 0x10, 1, 0x0, 29, 29, .RWF, false⟩
  | .TBL_VLAN_ROUTE => ⟨.TBL, 0x10004, 4096, 0x10, 1, 0x0, 28, 28, .RWF, false⟩
  | .TBL_VLAN_FID => ⟨.TBL, 0x10004, 4096, 0x10, 1, 0x0, 27, 16, .RWF, false⟩
  | .TBL_VLAN_MEMB_H => ⟨.TBL, 0x10004, 4096, 0x10, 1, 0x0, 15, 0, .RWF, false⟩
  | .TBL_VLAN_UNTAG_L => ⟨.TBL, 0x10008, 4096, 0x10, 1, 0x0, 31, 0, .RWF, false⟩
  | .TBL_VLAN_UNTAG_H => ⟨.TBL, 0x1000C, 4096, 0x10, 1, 0x0, 15, 0, .RWF, false⟩
  | .FLW_REBUILD => ⟨.FLW, 0x0, 1, 0x0, 1, 0x0, 31, 31, .RO, false⟩
  | .FLW_REC_USED => ⟨.FLW, 0x0, 1, 0x0, 1, 0x0, 26, 0, .RO, false⟩
  | .FLW_HIT_PCT_MIN => ⟨.FLW, 0x4, 1, 0x0, 1, 0x0, 15, 8, .RC, false⟩
  | .FLW_HIT_PCT => ⟨.FLW, 0x4, 1, 0x0, 1, 0x0, 7, 0, .RO, false⟩
  | .FLW_TEL_IVL_S => ⟨.FLW, 0x8, 1, 0x0, 1, 0x0, 31, 24, .RWF, false⟩
  | .FLW_WB_MS => ⟨.FLW, 0x8, 1, 0x0, 1, 0x0, 23, 16, .RWF, false⟩
  | .FLW_TEL_EN => ⟨.FLW, 0x8, 1, 0x0, 1, 0x0, 15, 15, .RWF, false⟩
  | .FLW_TEL_TMPL => ⟨.FLW, 0x8, 1, 0x0, 1, 0x0, 13, 0, .RWF, false⟩
  | .FLW_SAMPLE_TMPL => ⟨.FLW, 0xC, 1, 0x0, 1, 0x0, 29, 16, .RWF, false⟩
  | .FLW_LB_PEND => ⟨.FLW, 0xC, 1, 0x0, 1, 0x0, 8, 8, .RO, false⟩
  | .FLW_LB_EPOCH => ⟨.FLW, 0xC, 1, 0x0, 1, 0x0, 7, 0, .RO, false⟩
  | .FLW_EVT_REBUILT => ⟨.FLW, 0x10, 1, 0x0, 1, 0x0, 4, 4, .W1C, false⟩
  | .FLW_EVT_GOOSE => ⟨.FLW, 0x10, 1, 0x0, 1, 0x0, 3, 3, .W1C, false⟩
  | .FLW_EVT_NEWFLOW => ⟨.FLW, 0x10, 1, 0x0, 1, 0x0, 2, 2, .W1C, false⟩
  | .FLW_EVT_TOKEN => ⟨.FLW, 0x10, 1, 0x0, 1, 0x0, 1, 1, .W1C, false⟩
  | .FLW_EVT_CMD => ⟨.FLW, 0x10, 1, 0x0, 1, 0x0, 0, 0, .W1C, false⟩
  | .FLW_CNT_CLR => ⟨.FLW, 0x14, 1, 0x0, 1, 0x0, 0, 0, .RWF, false⟩
  | .FLW_CL_LOOKUP => ⟨.FLW, 0x40, 32, 0x4, 1, 0x0, 31, 31, .RWF, false⟩
  | .FLW_CL_PROF => ⟨.FLW, 0x40, 32, 0x4, 1, 0x0, 3, 0, .RWF, false⟩
  | .FLW_NA_ACT => ⟨.FLW, 0x800, 256, 0x10, 1, 0x0, 31, 0, .RWF, false⟩
  | .FLW_NA_KIND => ⟨.FLW, 0x804, 256, 0x10, 1, 0x0, 31, 30, .RWF, false⟩
  | .FLW_NA_TARGET => ⟨.FLW, 0x804, 256, 0x10, 1, 0x0, 29, 16, .RWF, false⟩
  | .FLW_NA_DST => ⟨.FLW, 0x804, 256, 0x10, 1, 0x0, 11, 0, .RWF, false⟩
  | .FLW_NA_AUTH => ⟨.FLW, 0x808, 256, 0x10, 1, 0x0, 29, 16, .RWF, false⟩
  | .FLW_NA_GAZ => ⟨.FLW, 0x808, 256, 0x10, 1, 0x0, 15, 0, .RWF, false⟩
  | .FLW_RC_F_KEEPCNT => ⟨.FLW, 0x2000, 5, 0x100, 1, 0x0, 8, 8, .RW, false⟩
  | .FLW_RC_OP => ⟨.FLW, 0x2000, 5, 0x100, 1, 0x0, 2, 0, .RW, false⟩
  | .FLW_RC_IDX => ⟨.FLW, 0x2004, 5, 0x100, 1, 0x0, 26, 0, .RW, false⟩
  | .FLW_RC_ERR => ⟨.FLW, 0x2008, 5, 0x100, 1, 0x0, 31, 16, .RO, false⟩
  | .FLW_RC_OUT => ⟨.FLW, 0x2008, 5, 0x100, 1, 0x0, 1, 0, .RO, false⟩
  | .FLW_RC_DATA => ⟨.FLW, 0x2040, 5, 0x100, 32, 0x4, 31, 0, .RW, false⟩
  | .FLW_LBG_N => ⟨.FLW, 0x10000, 1024, 0x20, 1, 0x0, 4, 0, .RWF, false⟩
  | .FLW_LBG_MEMB => ⟨.FLW, 0x10004, 1024, 0x20, 4, 0x4, 31, 0, .RWF, false⟩
  | .SAU_GRID_RUN => ⟨.SAU, 0x0, 1, 0x0, 1, 0x0, 31, 31, .RO, false⟩
  | .SAU_JG_ON_CNT => ⟨.SAU, 0x0, 1, 0x0, 1, 0x0, 19, 10, .RO, false⟩
  | .SAU_TOK_RESV => ⟨.SAU, 0x0, 1, 0x0, 1, 0x0, 9, 0, .RO, false⟩
  | .SAU_ACQ_N => ⟨.SAU, 0x4, 1, 0x0, 1, 0x0, 31, 24, .RWF, false⟩
  | .SAU_EARLY_US => ⟨.SAU, 0x4, 1, 0x0, 1, 0x0, 15, 0, .RWF, false⟩
  | .SAU_STEP_TOL_NS => ⟨.SAU, 0x8, 1, 0x0, 1, 0x0, 31, 0, .RWF, false⟩
  | .SAU_UTC_OFFSET => ⟨.SAU, 0xC, 1, 0x0, 1, 0x0, 15, 0, .RWF, false⟩
  | .SAU_EVT_GRID => ⟨.SAU, 0x10, 1, 0x0, 1, 0x0, 5, 5, .W1C, false⟩
  | .SAU_EVT_STREAM => ⟨.SAU, 0x10, 1, 0x0, 1, 0x0, 4, 4, .W1C, false⟩
  | .SAU_EVT_TOKEN => ⟨.SAU, 0x10, 1, 0x0, 1, 0x0, 3, 3, .W1C, false⟩
  | .SAU_EVT_PUB => ⟨.SAU, 0x10, 1, 0x0, 1, 0x0, 2, 2, .W1C, false⟩
  | .SAU_EVT_JG => ⟨.SAU, 0x10, 1, 0x0, 1, 0x0, 1, 1, .W1C, false⟩
  | .SAU_EVT_CFG => ⟨.SAU, 0x10, 1, 0x0, 1, 0x0, 0, 0, .W1C, false⟩
  | .SAU_CNT_CLR => ⟨.SAU, 0x14, 1, 0x0, 1, 0x0, 0, 0, .RWF, false⟩
  | .SAU_ST_EN => ⟨.SAU, 0x10000, 4096, 0x20, 1, 0x0, 31, 31, .RWF, false⟩
  | .SAU_ST_SYNC_EXACT => ⟨.SAU, 0x10000, 4096, 0x20, 1, 0x0, 30, 30, .RWF, false⟩
  | .SAU_ST_NCH => ⟨.SAU, 0x10000, 4096, 0x20, 1, 0x0, 29, 24, .RWF, false⟩
  | .SAU_ST_STRIDE => ⟨.SAU, 0x10000, 4096, 0x20, 1, 0x0, 23, 15, .RWF, false⟩
  | .SAU_ST_RATE => ⟨.SAU, 0x10000, 4096, 0x20, 1, 0x0, 14, 0, .RWF, false⟩
  | .SAU_ST_SYNC_VAL => ⟨.SAU, 0x10004, 4096, 0x20, 1, 0x0, 31, 24, .RWF, false⟩
  | .SAU_ST_LOSS_US => ⟨.SAU, 0x10004, 4096, 0x20, 1, 0x0, 15, 0, .RWF, false⟩
  | .SAU_ST_CONFREV => ⟨.SAU, 0x10008, 4096, 0x20, 1, 0x0, 31, 0, .RWF, false⟩
  | .SAU_ST_AGE_MAX_US => ⟨.SAU, 0x1000C, 4096, 0x20, 1, 0x0, 18, 0, .RWF, false⟩
  | .SAU_ST_STATE => ⟨.SAU, 0x10010, 4096, 0x20, 1, 0x0, 31, 29, .RO, false⟩
  | .SAU_ST_FAULT => ⟨.SAU, 0x10010, 4096, 0x20, 1, 0x0, 28, 27, .RO, false⟩
  | .SAU_ST_LAST_CNT => ⟨.SAU, 0x10010, 4096, 0x20, 1, 0x0, 14, 0, .RO, false⟩
  | .SAU_ST_GAPS => ⟨.SAU, 0x10014, 4096, 0x20, 1, 0x0, 31, 16, .RC, false⟩
  | .SAU_ST_LATE => ⟨.SAU, 0x10014, 4096, 0x20, 1, 0x0, 15, 0, .RC, false⟩
  | .SAU_ST_STALE => ⟨.SAU, 0x10018, 4096, 0x20, 1, 0x0, 31, 16, .RC, false⟩
  | .SAU_ST_REJ => ⟨.SAU, 0x10018, 4096, 0x20, 1, 0x0, 15, 0, .RC, false⟩
  | .SAU_ST_AGE_LAST => ⟨.SAU, 0x1001C, 4096, 0x20, 1, 0x0, 31, 0, .RO, false⟩
  | .SAU_JG_EN => ⟨.SAU, 0x30000, 512, 0x200, 1, 0x0, 31, 31, .RWF, false⟩
  | .SAU_JG_EMPTY => ⟨.SAU, 0x30000, 512, 0x200, 1, 0x0, 30, 30, .RWF, false⟩
  | .SAU_JG_PATCH_EN => ⟨.SAU, 0x30000, 512, 0x200, 1, 0x0, 29, 29, .RWF, false⟩
  | .SAU_JG_HOLD_N => ⟨.SAU, 0x30000, 512, 0x200, 1, 0x0, 26, 23, .RWF, false⟩
  | .SAU_JG_TOK_MAX => ⟨.SAU, 0x30000, 512, 0x200, 1, 0x0, 22, 19, .RWF, false⟩
  | .SAU_JG_RATE => ⟨.SAU, 0x30000, 512, 0x200, 1, 0x0, 14, 0, .RWF, false⟩
  | .SAU_JG_DL_NS => ⟨.SAU, 0x30004, 512, 0x200, 1, 0x0, 31, 0, .RWF, false⟩
  | .SAU_JG_DEPTH_L2 => ⟨.SAU, 0x30008, 512, 0x200, 1, 0x0, 31, 29, .RWF, false⟩
  | .SAU_JG_RING_BASE => ⟨.SAU, 0x30008, 512, 0x200, 1, 0x0, 20, 0, .RWF, false⟩
  | .SAU_JG_CLMASK => ⟨.SAU, 0x3000C, 512, 0x200, 1, 0x0, 23, 0, .RWF, false⟩
  | .SAU_JG_OPND => ⟨.SAU, 0x30010, 512, 0x200, 1, 0x0, 31, 30, .RWF, false⟩
  | .SAU_JG_TMPL => ⟨.SAU, 0x30010, 512, 0x200, 1, 0x0, 13, 0, .RWF, false⟩
  | .SAU_JG_PATCH_DEPTH_L2 => ⟨.SAU, 0x30014, 512, 0x200, 1, 0x0, 31, 29, .RWF, false⟩
  | .SAU_JG_PATCH_WIN_US => ⟨.SAU, 0x30014, 512, 0x200, 1, 0x0, 28, 14, .RWF, false⟩
  | .SAU_JG_PATCH_TMPL => ⟨.SAU, 0x30014, 512, 0x200, 1, 0x0, 13, 0, .RWF, false⟩
  | .SAU_JG_PATCH_BASE => ⟨.SAU, 0x30018, 512, 0x200, 1, 0x0, 20, 0, .RWF, false⟩
  | .SAU_JG_SEQ => ⟨.SAU, 0x3001C, 512, 0x200, 1, 0x0, 31, 16, .RO, false⟩
  | .SAU_JG_OPEN => ⟨.SAU, 0x3001C, 512, 0x200, 1, 0x0, 15, 12, .RO, false⟩
  | .SAU_JG_TOK_OUT => ⟨.SAU, 0x3001C, 512, 0x200, 1, 0x0, 11, 8, .RO, false⟩
  | .SAU_JG_SLOT_B => ⟨.SAU, 0x30020, 512, 0x200, 1, 0x0, 15, 0, .RO, false⟩
  | .SAU_JG_DL_CLOSES => ⟨.SAU, 0x30024, 512, 0x200, 1, 0x0, 31, 16, .RC, false⟩
  | .SAU_JG_TOK_REF => ⟨.SAU, 0x30024, 512, 0x200, 1, 0x0, 15, 0, .RC, false⟩
  | .SAU_JG_M_EN => ⟨.SAU, 0x30100, 512, 0x200, 64, 0x4, 31, 31, .RWF, false⟩
  | .SAU_JG_M_STREAM => ⟨.SAU, 0x30100, 512, 0x200, 64, 0x4, 11, 0, .RWF, false⟩
  | .SAU_PUB_EN => ⟨.SAU, 0x70000, 1024, 0x20, 1, 0x0, 31, 31, .RWF, false⟩
  | .SAU_PUB_T_AUTO => ⟨.SAU, 0x70000, 1024, 0x20, 1, 0x0, 30, 30, .RWF, false⟩
  | .SAU_PUB_TAL_AUTO => ⟨.SAU, 0x70000, 1024, 0x20, 1, 0x0, 29, 29, .RWF, false⟩
  | .SAU_PUB_AUTH => ⟨.SAU, 0x70000, 1024, 0x20, 1, 0x0, 28, 28, .RWF, false⟩
  | .SAU_PUB_KEY => ⟨.SAU, 0x70000, 1024, 0x20, 1, 0x0, 27, 14, .RWF, false⟩
  | .SAU_PUB_TMPL => ⟨.SAU, 0x70000, 1024, 0x20, 1, 0x0, 13, 0, .RWF, false⟩
  | .SAU_PUB_DST_GRP => ⟨.SAU, 0x70004, 1024, 0x20, 1, 0x0, 31, 31, .RWF, false⟩
  | .SAU_PUB_DST => ⟨.SAU, 0x70004, 1024, 0x20, 1, 0x0, 11, 0, .RWF, false⟩
  | .SAU_PUB_TMAX_MS => ⟨.SAU, 0x70008, 1024, 0x20, 1, 0x0, 31, 16, .RWF, false⟩
  | .SAU_PUB_TMIN_US => ⟨.SAU, 0x70008, 1024, 0x20, 1, 0x0, 15, 0, .RWF, false⟩
  | .SAU_PUB_STNUM => ⟨.SAU, 0x7000C, 1024, 0x20, 1, 0x0, 31, 0, .RO, false⟩
  | .SAU_PUB_SQNUM => ⟨.SAU, 0x70010, 1024, 0x20, 1, 0x0, 31, 0, .RO, false⟩
  | .SAU_PUB_STATE => ⟨.SAU, 0x70014, 1024, 0x20, 1, 0x0, 31, 30, .RO, false⟩
  | .SAU_PUB_LEN => ⟨.SAU, 0x70014, 1024, 0x20, 1, 0x0, 9, 0, .RO, false⟩
  | .SAU_PUB_TX => ⟨.SAU, 0x70018, 1024, 0x20, 1, 0x0, 31, 0, .RC, false⟩
  | .SAU_PUB_TXTS => ⟨.SAU, 0x7001C, 1024, 0x20, 1, 0x0, 31, 0, .RO, false⟩
  | .SWC_LAYOUT_LOCKED => ⟨.SWC, 0x0, 1, 0x0, 1, 0x0, 31, 31, .RO, false⟩
  | .SWC_LAYOUT_APPLY => ⟨.SWC, 0x4, 1, 0x0, 1, 0x0, 0, 0, .RWF, false⟩
  | .SWC_POOL_SZ => ⟨.SWC, 0x10, 4, 0x4, 1, 0x0, 31, 24, .RWF, true⟩
  | .SWC_POOL_CNT => ⟨.SWC, 0x10, 4, 0x4, 1, 0x0, 17, 0, .RWF, true⟩
  | .SWC_POOL_FREE => ⟨.SWC, 0x20, 4, 0x8, 1, 0x0, 17, 0, .RO, false⟩
  | .SWC_POOL_MIN => ⟨.SWC, 0x24, 4, 0x8, 1, 0x0, 17, 0, .RC, false⟩
  | .SWC_WM_DROP => ⟨.SWC, 0x40, 4, 0x8, 1, 0x0, 17, 0, .RWF, false⟩
  | .SWC_CT_POOL => ⟨.SWC, 0x68, 1, 0x0, 1, 0x0, 17, 16, .RWF, false⟩
  | .SWC_HOLD_NS => ⟨.SWC, 0x68, 1, 0x0, 1, 0x0, 13, 0, .RWF, false⟩
  | .SWC_OWN_ERR_VALID => ⟨.SWC, 0x70, 1, 0x0, 1, 0x0, 31, 31, .RC, false⟩
  | .SWC_OWN_ERR_OP => ⟨.SWC, 0x70, 1, 0x0, 1, 0x0, 30, 28, .RO, false⟩
  | .SWC_OWN_ERR_STATE => ⟨.SWC, 0x70, 1, 0x0, 1, 0x0, 27, 26, .RO, false⟩
  | .SWC_OWN_ERR_HOLDER => ⟨.SWC, 0x70, 1, 0x0, 1, 0x0, 23, 12, .RO, false⟩
  | .SWC_OWN_ERR_ID => ⟨.SWC, 0x70, 1, 0x0, 1, 0x0, 11, 0, .RO, false⟩
  | .SWC_OWN_ERR_BUF => ⟨.SWC, 0x74, 1, 0x0, 1, 0x0, 19, 0, .RO, false⟩
  | .SWC_EVT_LAYOUT => ⟨.SWC, 0x80, 1, 0x0, 1, 0x0, 5, 5, .W1C, false⟩
  | .SWC_EVT_ECC => ⟨.SWC, 0x80, 1, 0x0, 1, 0x0, 4, 4, .W1C, false⟩
  | .SWC_EVT_SHED => ⟨.SWC, 0x80, 1, 0x0, 1, 0x0, 3, 3, .W1C, false⟩
  | .SWC_EVT_POOL => ⟨.SWC, 0x80, 1, 0x0, 1, 0x0, 2, 2, .W1C, false⟩
  | .SWC_EVT_ESCAPE => ⟨.SWC, 0x80, 1, 0x0, 1, 0x0, 1, 1, .W1C, false⟩
  | .SWC_EVT_OWNER => ⟨.SWC, 0x80, 1, 0x0, 1, 0x0, 0, 0, .W1C, false⟩
  | .SWC_CNT_CLR => ⟨.SWC, 0x84, 1, 0x0, 1, 0x0, 0, 0, .RWF, false⟩
  | .SWC_INS_EN => ⟨.SWC, 0x1000, 8, 0x40, 1, 0x0, 31, 31, .RWF, false⟩
  | .SWC_INS_TC => ⟨.SWC, 0x1000, 8, 0x40, 1, 0x0, 30, 28, .RWF, false⟩
  | .SWC_INS_DP => ⟨.SWC, 0x1000, 8, 0x40, 1, 0x0, 27, 26, .RWF, false⟩
  | .SWC_INS_DST => ⟨.SWC, 0x1000, 8, 0x40, 1, 0x0, 25, 20, .RWF, false⟩
  | .SWC_INS_TRUNC => ⟨.SWC, 0x1000, 8, 0x40, 1, 0x0, 13, 0, .RWF, false⟩
  | .SWC_INS_ING_L => ⟨.SWC, 0x1004, 8, 0x40, 1, 0x0, 31, 0, .RWF, false⟩
  | .SWC_INS_ING_H => ⟨.SWC, 0x1008, 8, 0x40, 1, 0x0, 15, 0, .RWF, false⟩
  | .SWC_INS_EGR_L => ⟨.SWC, 0x100C, 8, 0x40, 1, 0x0, 31, 0, .RWF, false⟩
  | .SWC_INS_EGR_H => ⟨.SWC, 0x1010, 8, 0x40, 1, 0x0, 15, 0, .RWF, false⟩
  | .SWC_INS_COPIES => ⟨.SWC, 0x1014, 8, 0x40, 1, 0x0, 31, 0, .RC, false⟩
  | .SWC_INS_SKIP => ⟨.SWC, 0x1018, 8, 0x40, 1, 0x0, 31, 0, .RC, false⟩
  | .SWC_INS_SHED => ⟨.SWC, 0x101C, 8, 0x40, 1, 0x0, 31, 0, .RC, false⟩
  | .SWC_RG_MASK_L => ⟨.SWC, 0x20000, 4096, 0x8, 1, 0x0, 31, 0, .RWF, false⟩
  | .SWC_RG_PRUNE => ⟨.SWC, 0x20004, 4096, 0x8, 1, 0x0, 31, 31, .RWF, false⟩
  | .SWC_RG_MASK_HOST => ⟨.SWC, 0x20004, 4096, 0x8, 1, 0x0, 27, 24, .RWF, false⟩
  | .SWC_RG_MASK_H => ⟨.SWC, 0x20004, 4096, 0x8, 1, 0x0, 15, 0, .RWF, false⟩
  | .SWC_OWN_CNT => ⟨.SWC, 0x40000, 4096, 0x4, 1, 0x0, 15, 0, .RC, false⟩
  | .TMG_ENTRY_FREE => ⟨.TMG, 0x0, 1, 0x0, 1, 0x0, 19, 0, .RO, false⟩
  | .TMG_WHEEL_CNT => ⟨.TMG, 0x4, 1, 0x0, 1, 0x0, 31, 0, .RO, true⟩
  | .TMG_WHEEL_LAG_MAX => ⟨.TMG, 0x8, 1, 0x0, 1, 0x0, 15, 0, .RC, false⟩
  | .TMG_EVT_WHEEL => ⟨.TMG, 0x10, 1, 0x0, 1, 0x0, 2, 2, .W1C, false⟩
  | .TMG_EVT_ENTRY => ⟨.TMG, 0x10, 1, 0x0, 1, 0x0, 1, 1, .W1C, false⟩
  | .TMG_EVT_CFG => ⟨.TMG, 0x10, 1, 0x0, 1, 0x0, 0, 0, .W1C, false⟩
  | .TMG_CNT_CLR => ⟨.TMG, 0x14, 1, 0x0, 1, 0x0, 0, 0, .RWF, false⟩
  | .TMG_CG_EN => ⟨.TMG, 0x1000, 64, 0x20, 8, 0x4, 31, 31, .RWF, false⟩
  | .TMG_CG_LOG2N => ⟨.TMG, 0x1000, 64, 0x20, 8, 0x4, 19, 16, .RWF, false⟩
  | .TMG_CG_BASE => ⟨.TMG, 0x1000, 64, 0x20, 8, 0x4, 14, 0, .RWF, false⟩
  | .TMG_GS_EN => ⟨.TMG, 0x2000, 512, 0x10, 1, 0x0, 31, 31, .RWF, false⟩
  | .TMG_GS_RATE => ⟨.TMG, 0x2000, 512, 0x10, 1, 0x0, 23, 0, .RWF, false⟩
  | .TMG_GS_BURST => ⟨.TMG, 0x2004, 512, 0x10, 1, 0x0, 23, 0, .RWF, false⟩
  | .TMG_GS_TOKENS => ⟨.TMG, 0x2008, 512, 0x10, 1, 0x0, 31, 0, .RO, false⟩
  | .TMG_QS_EN => ⟨.TMG, 0x10000, 4096, 0x10, 1, 0x0, 31, 31, .RWF, false⟩
  | .TMG_QS_RATE => ⟨.TMG, 0x10000, 4096, 0x10, 1, 0x0, 23, 0, .RWF, false⟩
  | .TMG_QS_BURST => ⟨.TMG, 0x10004, 4096, 0x10, 1, 0x0, 23, 0, .RWF, false⟩
  | .TMG_QS_TOKENS => ⟨.TMG, 0x10008, 4096, 0x10, 1, 0x0, 31, 0, .RO, false⟩
  | .TMG_Q_DEPTH => ⟨.TMG, 0x20000, 32768, 0x4, 1, 0x0, 31, 16, .RO, false⟩
  | .TMG_Q_DROPS => ⟨.TMG, 0x20000, 32768, 0x4, 1, 0x0, 15, 0, .RC, false⟩
  | .TMG_Q_SH_EN => ⟨.TMG, 0x40000, 32768, 0x8, 1, 0x0, 31, 31, .RWF, false⟩
  | .TMG_Q_SH => ⟨.TMG, 0x40000, 32768, 0x8, 1, 0x0, 27, 16, .RWF, false⟩
  | .TMG_Q_WEIGHT => ⟨.TMG, 0x40000, 32768, 0x8, 1, 0x0, 9, 0, .RWF, false⟩
  | .TMG_Q_MAX => ⟨.TMG, 0x40004, 32768, 0x8, 1, 0x0, 15, 0, .RWF, false⟩
  | .ENG_CL_RETIRED => ⟨.ENG, 0x0, 1, 0x0, 1, 0x0, 23, 0, .RO, false⟩
  | .ENG_XR_VALID => ⟨.ENG, 0x4, 1, 0x0, 1, 0x0, 31, 31, .RC, false⟩
  | .ENG_XR_CODE => ⟨.ENG, 0x4, 1, 0x0, 1, 0x0, 30, 27, .RO, false⟩
  | .ENG_XR_CTX => ⟨.ENG, 0x4, 1, 0x0, 1, 0x0, 26, 16, .RO, false⟩
  | .ENG_XR_PC => ⟨.ENG, 0x4, 1, 0x0, 1, 0x0, 15, 0, .RO, false⟩
  | .ENG_XR_INSN => ⟨.ENG, 0x8, 1, 0x0, 1, 0x0, 31, 0, .RO, false⟩
  | .ENG_XR_ADDR_LO => ⟨.ENG, 0xC, 1, 0x0, 1, 0x0, 31, 0, .RO, false⟩
  | .ENG_XR_ADDR_HI => ⟨.ENG, 0x10, 1, 0x0, 1, 0x0, 31, 0, .RO, false⟩
  | .ENG_EVT_LOADED => ⟨.ENG, 0x20, 1, 0x0, 1, 0x0, 5, 5, .W1C, false⟩
  | .ENG_EVT_LEAK => ⟨.ENG, 0x20, 1, 0x0, 1, 0x0, 4, 4, .W1C, false⟩
  | .ENG_EVT_EMIT => ⟨.ENG, 0x20, 1, 0x0, 1, 0x0, 3, 3, .W1C, false⟩
  | .ENG_EVT_MEM => ⟨.ENG, 0x20, 1, 0x0, 1, 0x0, 2, 2, .W1C, false⟩
  | .ENG_EVT_LOAD_ERR => ⟨.ENG, 0x20, 1, 0x0, 1, 0x0, 1, 1, .W1C, false⟩
  | .ENG_EVT_EXC => ⟨.ENG, 0x20, 1, 0x0, 1, 0x0, 0, 0, .W1C, false⟩
  | .ENG_CNT_CLR => ⟨.ENG, 0x24, 1, 0x0, 1, 0x0, 0, 0, .RWF, false⟩
  | .ENG_CL_LOADED => ⟨.ENG, 0x1000, 24, 0x40, 1, 0x0, 31, 31, .RO, false⟩
  | .ENG_CL_FENCED => ⟨.ENG, 0x1000, 24, 0x40, 1, 0x0, 30, 30, .RO, false⟩
  | .ENG_CL_TMR_USED => ⟨.ENG, 0x1000, 24, 0x40, 1, 0x0, 22, 16, .RO, false⟩
  | .ENG_CL_LIVE => ⟨.ENG, 0x1000, 24, 0x40, 1, 0x0, 6, 0, .RO, false⟩
  | .ENG_CL_IMG_VER => ⟨.ENG, 0x1004, 24, 0x40, 1, 0x0, 31, 0, .RO, false⟩
  | .ENG_CL_ECC_CORR => ⟨.ENG, 0x1008, 24, 0x40, 1, 0x0, 31, 16, .RC, false⟩
  | .ENG_CL_ECC_UNC => ⟨.ENG, 0x1008, 24, 0x40, 1, 0x0, 15, 0, .RC, false⟩
  | .ENG_CL_UTIL => ⟨.ENG, 0x100C, 24, 0x40, 1, 0x0, 7, 0, .RO, false⟩
  | .ENG_CTX_STATE => ⟨.ENG, 0x2000, 1536, 0x8, 1, 0x0, 31, 29, .RO, false⟩
  | .ENG_CTX_CLASS => ⟨.ENG, 0x2000, 1536, 0x8, 1, 0x0, 28, 27, .RO, false⟩
  | .ENG_CTX_TMPL => ⟨.ENG, 0x2000, 1536, 0x8, 1, 0x0, 13, 0, .RO, false⟩
  | .ENG_CTX_GEN => ⟨.ENG, 0x2004, 1536, 0x8, 1, 0x0, 31, 16, .RO, false⟩
  | .ENG_CTX_PC => ⟨.ENG, 0x2004, 1536, 0x8, 1, 0x0, 15, 0, .RO, false⟩
  | .TSK_FB_STOPPED => ⟨.TSK, 0x0, 1, 0x0, 1, 0x0, 31, 31, .RO, false⟩
  | .TSK_READY => ⟨.TSK, 0x0, 1, 0x0, 1, 0x0, 30, 16, .RO, false⟩
  | .TSK_FREE => ⟨.TSK, 0x0, 1, 0x0, 1, 0x0, 14, 0, .RO, false⟩
  | .TSK_FAULT_TMO_MS => ⟨.TSK, 0x4, 1, 0x0, 1, 0x0, 31, 16, .RWF, false⟩
  | .TSK_B_MAX => ⟨.TSK, 0x4, 1, 0x0, 1, 0x0, 14, 0, .RWF, false⟩
  | .TSK_EVT_FB => ⟨.TSK, 0x8, 1, 0x0, 1, 0x0, 4, 4, .W1C, false⟩
  | .TSK_EVT_FAULT_TMO => ⟨.TSK, 0x8, 1, 0x0, 1, 0x0, 3, 3, .W1C, false⟩
  | .TSK_EVT_MATCH_TMO => ⟨.TSK, 0x8, 1, 0x0, 1, 0x0, 2, 2, .W1C, false⟩
  | .TSK_EVT_VIOL => ⟨.TSK, 0x8, 1, 0x0, 1, 0x0, 1, 1, .W1C, false⟩
  | .TSK_EVT_CMD => ⟨.TSK, 0x8, 1, 0x0, 1, 0x0, 0, 0, .W1C, false⟩
  | .TSK_CNT_CLR => ⟨.TSK, 0xC, 1, 0x0, 1, 0x0, 0, 0, .RWF, false⟩
  | .TSK_FB_EN => ⟨.TSK, 0x10, 1, 0x0, 1, 0x0, 31, 31, .RWF, false⟩
  | .TSK_FB_STOP => ⟨.TSK, 0x10, 1, 0x0, 1, 0x0, 30, 30, .RWF, false⟩
  | .TSK_FB_CLASS => ⟨.TSK, 0x10, 1, 0x0, 1, 0x0, 19, 16, .RWF, false⟩
  | .TSK_FB_KIND => ⟨.TSK, 0x10, 1, 0x0, 1, 0x0, 15, 0, .RWF, false⟩
  | .TSK_FB_TMPL_HI => ⟨.TSK, 0x14, 1, 0x0, 1, 0x0, 29, 16, .RWF, false⟩
  | .TSK_FB_TMPL_LO => ⟨.TSK, 0x14, 1, 0x0, 1, 0x0, 13, 0, .RWF, false⟩
  | .TSK_FB_WRAPPED => ⟨.TSK, 0x18, 1, 0x0, 1, 0x0, 31, 31, .RO, false⟩
  | .TSK_FB_WPTR => ⟨.TSK, 0x18, 1, 0x0, 1, 0x0, 12, 0, .RO, false⟩
  | .TSK_CMD_POS => ⟨.TSK, 0x1000, 5, 0x100, 1, 0x0, 5, 4, .RW, false⟩
  | .TSK_CMD_OP => ⟨.TSK, 0x1000, 5, 0x100, 1, 0x0, 2, 0, .RW, false⟩
  | .TSK_CMD_TGT => ⟨.TSK, 0x1004, 5, 0x100, 1, 0x0, 13, 0, .RW, false⟩
  | .TSK_CMD_AUX => ⟨.TSK, 0x1008, 5, 0x100, 1, 0x0, 31, 0, .RW, false⟩
  | .TSK_CMD_VAL_LO => ⟨.TSK, 0x100C, 5, 0x100, 1, 0x0, 31, 0, .RW, false⟩
  | .TSK_CMD_VAL_HI => ⟨.TSK, 0x1010, 5, 0x100, 1, 0x0, 31, 0, .RW, false⟩
  | .TSK_CMD_ERR => ⟨.TSK, 0x1014, 5, 0x100, 1, 0x0, 31, 16, .RO, false⟩
  | .TSK_CMD_OUT => ⟨.TSK, 0x1014, 5, 0x100, 1, 0x0, 1, 0, .RO, false⟩
  | .TSK_TT_EN => ⟨.TSK, 0x10000, 16384, 0x8, 1, 0x0, 31, 31, .RWF, false⟩
  | .TSK_TT_VALID => ⟨.TSK, 0x10000, 16384, 0x8, 1, 0x0, 30, 30, .RO, false⟩
  | .TSK_TT_CLASS => ⟨.TSK, 0x10000, 16384, 0x8, 1, 0x0, 29, 28, .RO, false⟩
  | .TSK_TT_CLMASK => ⟨.TSK, 0x10000, 16384, 0x8, 1, 0x0, 23, 0, .RO, false⟩
  | .TSK_TT_HELD => ⟨.TSK, 0x10004, 16384, 0x8, 1, 0x0, 31, 16, .RO, false⟩
  | .TSK_TT_VIOL => ⟨.TSK, 0x10004, 16384, 0x8, 1, 0x0, 15, 0, .RC, false⟩
  | .TSK_FB_WORD => ⟨.TSK, 0x40000, 8192, 0x20, 8, 0x4, 31, 0, .RO, false⟩
  | .MMU_INV_BUSY => ⟨.MMU, 0x0, 1, 0x0, 1, 0x0, 31, 31, .RO, false⟩
  | .MMU_FR_LVL => ⟨.MMU, 0x0, 1, 0x0, 1, 0x0, 8, 0, .RO, false⟩
  | .MMU_PRI_TMO_MS => ⟨.MMU, 0x4, 1, 0x0, 1, 0x0, 31, 16, .RWF, false⟩
  | .MMU_FR_HEAD => ⟨.MMU, 0x8, 1, 0x0, 1, 0x0, 8, 0, .RO, false⟩
  | .MMU_FR_TAIL => ⟨.MMU, 0xC, 1, 0x0, 1, 0x0, 8, 0, .RWF, false⟩
  | .MMU_INV_OP => ⟨.MMU, 0x10, 1, 0x0, 1, 0x0, 31, 30, .RWF, false⟩
  | .MMU_INV_ASID => ⟨.MMU, 0x10, 1, 0x0, 1, 0x0, 7, 0, .RWF, false⟩
  | .MMU_INV_VA => ⟨.MMU, 0x14, 1, 0x0, 1, 0x0, 31, 0, .RWF, false⟩
  | .MMU_INV_PAGES => ⟨.MMU, 0x18, 1, 0x0, 1, 0x0, 31, 0, .RWF, false⟩
  | .MMU_EVT_INV => ⟨.MMU, 0x1C, 1, 0x0, 1, 0x0, 3, 3, .W1C, false⟩
  | .MMU_EVT_PIN => ⟨.MMU, 0x1C, 1, 0x0, 1, 0x0, 2, 2, .W1C, false⟩
  | .MMU_EVT_PRI => ⟨.MMU, 0x1C, 1, 0x0, 1, 0x0, 1, 1, .W1C, false⟩
  | .MMU_EVT_FAULT => ⟨.MMU, 0x1C, 1, 0x0, 1, 0x0, 0, 0, .W1C, false⟩
  | .MMU_CNT_CLR => ⟨.MMU, 0x20, 1, 0x0, 1, 0x0, 0, 0, .RWF, false⟩
  | .MMU_ROOT_ADDR_L => ⟨.MMU, 0x800, 256, 0x8, 1, 0x0, 31, 12, .RWF, false⟩
  | .MMU_ROOT_V => ⟨.MMU, 0x800, 256, 0x8, 1, 0x0, 0, 0, .RWF, false⟩
  | .MMU_ROOT_ADDR_H => ⟨.MMU, 0x804, 256, 0x8, 1, 0x0, 1, 0, .RWF, false⟩
  | .MMU_TLB_LOCKED => ⟨.MMU, 0x1000, 24, 0x8, 1, 0x0, 22, 16, .RO, false⟩
  | .MMU_DMA_SUSP => ⟨.MMU, 0x1000, 24, 0x8, 1, 0x0, 14, 8, .RO, false⟩
  | .MMU_DMA_QUEUED => ⟨.MMU, 0x1000, 24, 0x8, 1, 0x0, 6, 0, .RO, false⟩
  | .MMU_TLB_MISS => ⟨.MMU, 0x1004, 24, 0x8, 1, 0x0, 31, 0, .RC, false⟩
  | .MMU_FR_WORD => ⟨.MMU, 0x10000, 256, 0x20, 8, 0x4, 31, 0, .RO, false⟩
  | .AUT_KEY_BUSY => ⟨.AUT, 0x0, 1, 0x0, 1, 0x0, 31, 31, .RO, false⟩
  | .AUT_VQ_LVL => ⟨.AUT, 0x0, 1, 0x0, 1, 0x0, 25, 16, .RO, false⟩
  | .AUT_SLOTS_USED => ⟨.AUT, 0x0, 1, 0x0, 1, 0x0, 14, 0, .RO, false⟩
  | .AUT_HMAC_BUSY => ⟨.AUT, 0x4, 1, 0x0, 1, 0x0, 11, 8, .RO, false⟩
  | .AUT_GMAC_BUSY => ⟨.AUT, 0x4, 1, 0x0, 1, 0x0, 7, 0, .RO, false⟩
  | .AUT_PART_CNT => ⟨.AUT, 0x10, 4, 0x4, 1, 0x0, 30, 16, .RO, false⟩
  | .AUT_PART_BASE => ⟨.AUT, 0x10, 4, 0x4, 1, 0x0, 13, 0, .RO, false⟩
  | .AUT_EVT_KEY => ⟨.AUT, 0x20, 1, 0x0, 1, 0x0, 5, 5, .W1C, false⟩
  | .AUT_EVT_NONCE => ⟨.AUT, 0x20, 1, 0x0, 1, 0x0, 4, 4, .W1C, false⟩
  | .AUT_EVT_VERIFY => ⟨.AUT, 0x20, 1, 0x0, 1, 0x0, 3, 3, .W1C, false⟩
  | .AUT_EVT_WITHHELD => ⟨.AUT, 0x20, 1, 0x0, 1, 0x0, 2, 2, .W1C, false⟩
  | .AUT_EVT_MEM => ⟨.AUT, 0x20, 1, 0x0, 1, 0x0, 1, 1, .W1C, false⟩
  | .AUT_CNT_CLR => ⟨.AUT, 0x24, 1, 0x0, 1, 0x0, 0, 0, .RWF, false⟩
  | .AUT_KEY_OP => ⟨.AUT, 0x40, 1, 0x0, 1, 0x0, 31, 30, .RWF, false⟩
  | .AUT_KEY_SLOT => ⟨.AUT, 0x40, 1, 0x0, 1, 0x0, 13, 0, .RWF, false⟩
  | .AUT_KA_ALG => ⟨.AUT, 0x44, 1, 0x0, 1, 0x0, 31, 30, .RWF, false⟩
  | .AUT_KA_SIGN => ⟨.AUT, 0x44, 1, 0x0, 1, 0x0, 29, 29, .RWF, false⟩
  | .AUT_KA_VERIFY => ⟨.AUT, 0x44, 1, 0x0, 1, 0x0, 28, 28, .RWF, false⟩
  | .AUT_KA_TAGLEN => ⟨.AUT, 0x44, 1, 0x0, 1, 0x0, 21, 16, .RWF, false⟩
  | .AUT_KA_KEYLEN => ⟨.AUT, 0x44, 1, 0x0, 1, 0x0, 6, 0, .RWF, false⟩
  | .AUT_KEY_SALT => ⟨.AUT, 0x48, 1, 0x0, 1, 0x0, 31, 0, .WO, false⟩
  | .AUT_KEY_ERR => ⟨.AUT, 0x4C, 1, 0x0, 1, 0x0, 31, 16, .RO, false⟩
  | .AUT_KEY_OUT => ⟨.AUT, 0x4C, 1, 0x0, 1, 0x0, 1, 0, .RO, false⟩
  | .AUT_KEY_DATA => ⟨.AUT, 0x80, 16, 0x4, 1, 0x0, 31, 0, .WO, false⟩
  | .AUT_SL_ALG => ⟨.AUT, 0x10000, 16384, 0x10, 1, 0x0, 31, 30, .RO, false⟩
  | .AUT_SL_SIGN => ⟨.AUT, 0x10000, 16384, 0x10, 1, 0x0, 29, 29, .RO, false⟩
  | .AUT_SL_VERIFY => ⟨.AUT, 0x10000, 16384, 0x10, 1, 0x0, 28, 28, .RO, false⟩
  | .AUT_SL_LOCKED => ⟨.AUT, 0x10000, 16384, 0x10, 1, 0x0, 27, 27, .RO, false⟩
  | .AUT_SL_WARNED => ⟨.AUT, 0x10000, 16384, 0x10, 1, 0x0, 26, 26, .RO, false⟩
  | .AUT_SL_TAGLEN => ⟨.AUT, 0x10000, 16384, 0x10, 1, 0x0, 21, 16, .RO, false⟩
  | .AUT_SL_CTR_LO => ⟨.AUT, 0x10004, 16384, 0x10, 1, 0x0, 31, 0, .RO, false⟩
  | .AUT_SL_CTR_HI => ⟨.AUT, 0x10008, 16384, 0x10, 1, 0x0, 31, 0, .RO, false⟩
  | .AUT_SL_VFAIL => ⟨.AUT, 0x1000C, 16384, 0x10, 1, 0x0, 31, 16, .RC, false⟩
  | .MEM_INIT_FLAG => ⟨.MEM, 0x0, 1, 0x0, 1, 0x0, 31, 31, .RO, true⟩
  | .MEM_INIT_BUSY => ⟨.MEM, 0x0, 1, 0x0, 1, 0x0, 30, 30, .RO, false⟩
  | .MEM_TRAINED => ⟨.MEM, 0x0, 1, 0x0, 1, 0x0, 29, 29, .RO, false⟩
  | .MEM_SELF_REF => ⟨.MEM, 0x0, 1, 0x0, 1, 0x0, 28, 28, .RO, false⟩
  | .MEM_HOT_INSERT => ⟨.MEM, 0x0, 1, 0x0, 1, 0x0, 27, 27, .RO, false⟩
  | .MEM_INIT_PCT => ⟨.MEM, 0x0, 1, 0x0, 1, 0x0, 22, 16, .RO, false⟩
  | .MEM_STACK_TEMP => ⟨.MEM, 0x0, 1, 0x0, 1, 0x0, 15, 0, .RO, false⟩
  | .MEM_REF_UP_C => ⟨.MEM, 0x4, 1, 0x0, 1, 0x0, 23, 16, .RWF, false⟩
  | .MEM_REF_DN_C => ⟨.MEM, 0x4, 1, 0x0, 1, 0x0, 15, 8, .RWF, false⟩
  | .MEM_WQ_HI => ⟨.MEM, 0x8, 1, 0x0, 1, 0x0, 31, 24, .RWF, false⟩
  | .MEM_WQ_LO => ⟨.MEM, 0x8, 1, 0x0, 1, 0x0, 23, 16, .RWF, false⟩
  | .MEM_WQ_AGE_NS => ⟨.MEM, 0x8, 1, 0x0, 1, 0x0, 15, 0, .RWF, false⟩
  | .MEM_NR_EN => ⟨.MEM, 0xC, 1, 0x0, 1, 0x0, 31, 31, .RWF, false⟩
  | .MEM_NR_DIST => ⟨.MEM, 0xC, 1, 0x0, 1, 0x0, 8, 8, .RWF, false⟩
  | .MEM_NR_LOG2P => ⟨.MEM, 0xC, 1, 0x0, 1, 0x0, 4, 0, .RWF, false⟩
  | .MEM_SCRUB_EN => ⟨.MEM, 0x10, 1, 0x0, 1, 0x0, 31, 31, .RWF, false⟩
  | .MEM_SCRUB_HRS => ⟨.MEM, 0x10, 1, 0x0, 1, 0x0, 7, 0, .RWF, false⟩
  | .MEM_SCRUB_PASSES => ⟨.MEM, 0x14, 1, 0x0, 1, 0x0, 31, 16, .RC, false⟩
  | .MEM_SCRUB_PCT => ⟨.MEM, 0x14, 1, 0x0, 1, 0x0, 6, 0, .RO, false⟩
  | .MEM_CE_ROW_TH => ⟨.MEM, 0x18, 1, 0x0, 1, 0x0, 7, 0, .RWF, false⟩
  | .MEM_RMP_FUSED => ⟨.MEM, 0x20, 1, 0x0, 1, 0x0, 31, 24, .RO, true⟩
  | .MEM_RMP_FREE => ⟨.MEM, 0x20, 1, 0x0, 1, 0x0, 23, 16, .RO, true⟩
  | .MEM_SPARE_FREE => ⟨.MEM, 0x20, 1, 0x0, 1, 0x0, 11, 0, .RO, true⟩
  | .MEM_BANK_NOSPARE => ⟨.MEM, 0x24, 1, 0x0, 1, 0x0, 9, 0, .RO, true⟩
  | .MEM_RPR_OP => ⟨.MEM, 0x28, 1, 0x0, 1, 0x0, 31, 30, .RWF, false⟩
  | .MEM_RPR_OUT => ⟨.MEM, 0x28, 1, 0x0, 1, 0x0, 17, 16, .RO, false⟩
  | .MEM_RPR_FAILROWS => ⟨.MEM, 0x28, 1, 0x0, 1, 0x0, 15, 0, .RO, false⟩
  | .MEM_CORR_CNT => ⟨.MEM, 0x30, 1, 0x0, 1, 0x0, 31, 16, .RC, false⟩
  | .MEM_UNC_CNT => ⟨.MEM, 0x30, 1, 0x0, 1, 0x0, 15, 0, .RC, false⟩
  | .MEM_UNC_VALID => ⟨.MEM, 0x34, 1, 0x0, 1, 0x0, 31, 31, .RC, false⟩
  | .MEM_UNC_READER => ⟨.MEM, 0x34, 1, 0x0, 1, 0x0, 30, 27, .RO, false⟩
  | .MEM_UNC_ADDR_H => ⟨.MEM, 0x34, 1, 0x0, 1, 0x0, 1, 0, .RO, false⟩
  | .MEM_UNC_ADDR_L => ⟨.MEM, 0x38, 1, 0x0, 1, 0x0, 31, 0, .RO, false⟩
  | .MEM_EVT_RPR => ⟨.MEM, 0x40, 1, 0x0, 1, 0x0, 5, 5, .W1C, false⟩
  | .MEM_EVT_REMAP => ⟨.MEM, 0x40, 1, 0x0, 1, 0x0, 4, 4, .W1C, false⟩
  | .MEM_EVT_HOT => ⟨.MEM, 0x40, 1, 0x0, 1, 0x0, 3, 3, .W1C, false⟩
  | .MEM_EVT_NR => ⟨.MEM, 0x40, 1, 0x0, 1, 0x0, 2, 2, .W1C, false⟩
  | .MEM_EVT_ECC => ⟨.MEM, 0x40, 1, 0x0, 1, 0x0, 1, 1, .W1C, false⟩
  | .MEM_EVT_INIT => ⟨.MEM, 0x40, 1, 0x0, 1, 0x0, 0, 0, .W1C, false⟩
  | .MEM_CNT_CLR => ⟨.MEM, 0x44, 1, 0x0, 1, 0x0, 0, 0, .RWF, false⟩
  | .MEM_CHK_OP => ⟨.MEM, 0x80, 1, 0x0, 1, 0x0, 31, 30, .RWF, false⟩
  | .MEM_CHK_OUT => ⟨.MEM, 0x80, 1, 0x0, 1, 0x0, 17, 16, .RO, false⟩
  | .MEM_CHK_SYND => ⟨.MEM, 0x80, 1, 0x0, 1, 0x0, 15, 8, .RO, false⟩
  | .MEM_CHK_CB => ⟨.MEM, 0x80, 1, 0x0, 1, 0x0, 7, 0, .RWF, false⟩
  | .MEM_CHK_ADDR_LO => ⟨.MEM, 0x84, 1, 0x0, 1, 0x0, 31, 3, .RWF, false⟩
  | .MEM_CHK_ADDR_HI => ⟨.MEM, 0x88, 1, 0x0, 1, 0x0, 1, 0, .RWF, false⟩
  | .MEM_CHK_DATA_LO => ⟨.MEM, 0x8C, 1, 0x0, 1, 0x0, 31, 0, .RWF, false⟩
  | .MEM_CHK_DATA_HI => ⟨.MEM, 0x90, 1, 0x0, 1, 0x0, 31, 0, .RWF, false⟩
  | .MEM_RMP_VALID => ⟨.MEM, 0x1000, 128, 0x4, 1, 0x0, 31, 31, .RO, true⟩
  | .MEM_RMP_FUSE => ⟨.MEM, 0x1000, 128, 0x4, 1, 0x0, 30, 30, .RO, true⟩
  | .MEM_RMP_PC => ⟨.MEM, 0x1000, 128, 0x4, 1, 0x0, 29, 25, .RO, true⟩
  | .MEM_RMP_BANK => ⟨.MEM, 0x1000, 128, 0x4, 1, 0x0, 24, 21, .RO, true⟩
  | .MEM_RMP_ROW => ⟨.MEM, 0x1000, 128, 0x4, 1, 0x0, 20, 6, .RO, true⟩
  | .MEM_RMP_SPARE => ⟨.MEM, 0x1000, 128, 0x4, 1, 0x0, 5, 4, .RO, true⟩
  | .GLB_PART_NUM => ⟨.GLB, 0x0, 1, 0x0, 1, 0x0, 31, 16, .RO, false⟩
  | .GLB_SI_REV => ⟨.GLB, 0x0, 1, 0x0, 1, 0x0, 15, 8, .RO, false⟩
  | .GLB_SRC_ID => ⟨.GLB, 0x0, 1, 0x0, 1, 0x0, 2, 0, .RO, false⟩
  | .GLB_MODE_REDUCED => ⟨.GLB, 0x4, 1, 0x0, 1, 0x0, 8, 8, .RO, false⟩
  | .GLB_MODE_CODE => ⟨.GLB, 0x4, 1, 0x0, 1, 0x0, 3, 0, .RO, false⟩
  | .GLB_REQ_TARGET => ⟨.GLB, 0x8, 1, 0x0, 1, 0x0, 7, 4, .RWF, false⟩
  | .GLB_REQ_OP => ⟨.GLB, 0x8, 1, 0x0, 1, 0x0, 3, 0, .RWF, false⟩
  | .GLB_WAKE_SEC => ⟨.GLB, 0xC, 1, 0x0, 1, 0x0, 31, 0, .RWF, true⟩
  | .GLB_RESET_GO => ⟨.GLB, 0x10, 1, 0x0, 1, 0x0, 15, 0, .RWF, false⟩
  | .GLB_RESET_CAUSE => ⟨.GLB, 0x14, 1, 0x0, 1, 0x0, 2, 0, .RO, true⟩
  | .GLB_SR_UNIT => ⟨.GLB, 0x18, 1, 0x0, 1, 0x0, 31, 28, .RWF, false⟩
  | .GLB_SR_BUSY => ⟨.GLB, 0x18, 1, 0x0, 1, 0x0, 27, 27, .RO, false⟩
  | .GLB_SR_INDEX => ⟨.GLB, 0x18, 1, 0x0, 1, 0x0, 5, 0, .RWF, false⟩
  | .GLB_EVT_LEASE => ⟨.GLB, 0x20, 1, 0x0, 1, 0x0, 4, 4, .W1C, false⟩
  | .GLB_EVT_IMAGE => ⟨.GLB, 0x20, 1, 0x0, 1, 0x0, 3, 3, .W1C, false⟩
  | .GLB_EVT_ORDER => ⟨.GLB, 0x20, 1, 0x0, 1, 0x0, 2, 2, .W1C, false⟩
  | .GLB_EVT_MODE => ⟨.GLB, 0x20, 1, 0x0, 1, 0x0, 1, 1, .W1C, false⟩
  | .GLB_EVT_BOOT => ⟨.GLB, 0x20, 1, 0x0, 1, 0x0, 0, 0, .W1C, false⟩
  | .GLB_IMG_ERR => ⟨.GLB, 0x30, 1, 0x0, 1, 0x0, 31, 16, .RO, false⟩
  | .GLB_IMG_OUT => ⟨.GLB, 0x30, 1, 0x0, 1, 0x0, 3, 2, .RO, false⟩
  | .GLB_IMG_OP => ⟨.GLB, 0x30, 1, 0x0, 1, 0x0, 1, 0, .RWF, false⟩
  | .GLB_IMG_ADDR => ⟨.GLB, 0x34, 1, 0x0, 1, 0x0, 31, 0, .RWF, false⟩
  | .GLB_LS_HELD => ⟨.GLB, 0x40, 1, 0x0, 1, 0x0, 31, 31, .RO, false⟩
  | .GLB_LS_HOLDER => ⟨.GLB, 0x40, 1, 0x0, 1, 0x0, 30, 28, .RO, false⟩
  | .GLB_LS_LEFT_MS => ⟨.GLB, 0x40, 1, 0x0, 1, 0x0, 13, 0, .RO, false⟩
  | .GLB_LS_EPOCH => ⟨.GLB, 0x44, 1, 0x0, 1, 0x0, 31, 0, .RO, true⟩
  | .GLB_LC_OP => ⟨.GLB, 0x48, 1, 0x0, 1, 0x0, 31, 30, .RW, false⟩
  | .GLB_LC_TERM_MS => ⟨.GLB, 0x48, 1, 0x0, 1, 0x0, 13, 0, .RW, false⟩
  | .GLB_LU_EPOCH => ⟨.GLB, 0x4C, 1, 0x0, 1, 0x0, 31, 0, .RW, false⟩
  | .GLB_LM_ERR => ⟨.GLB, 0x50, 1, 0x0, 1, 0x0, 31, 16, .RO, false⟩
  | .GLB_LM_OUT => ⟨.GLB, 0x50, 1, 0x0, 1, 0x0, 1, 0, .RO, false⟩
  | .GLB_LM_EPOCH => ⟨.GLB, 0x54, 1, 0x0, 1, 0x0, 31, 0, .RO, false⟩
  | .GLB_EVT_WPTR => ⟨.GLB, 0x80, 1, 0x0, 1, 0x0, 31, 0, .RO, true⟩
  | .GLB_EVT_RPTR => ⟨.GLB, 0x84, 1, 0x0, 1, 0x0, 31, 0, .RW, false⟩
  | .GLB_EVT_IRQ_EN => ⟨.GLB, 0x88, 1, 0x0, 1, 0x0, 31, 31, .RW, false⟩
  | .GLB_EVT_LEVEL => ⟨.GLB, 0x88, 1, 0x0, 1, 0x0, 13, 12, .RW, false⟩
  | .GLB_EVT_VEC => ⟨.GLB, 0x88, 1, 0x0, 1, 0x0, 10, 0, .RW, false⟩
  | .GLB_PT_PORT_L => ⟨.GLB, 0x100, 4, 0x10, 1, 0x0, 31, 0, .RO, false⟩
  | .GLB_PT_ELIG => ⟨.GLB, 0x104, 4, 0x10, 1, 0x0, 31, 31, .RO, false⟩
  | .GLB_PT_PREC => ⟨.GLB, 0x104, 4, 0x10, 1, 0x0, 30, 29, .RO, false⟩
  | .GLB_PT_PORT_H => ⟨.GLB, 0x104, 4, 0x10, 1, 0x0, 15, 0, .RO, false⟩
  | .GLB_PT_CL => ⟨.GLB, 0x108, 4, 0x10, 1, 0x0, 23, 0, .RO, false⟩
  | .GLB_PT_Q_CNT => ⟨.GLB, 0x10C, 4, 0x10, 1, 0x0, 31, 16, .RO, false⟩
  | .GLB_PT_Q_BASE => ⟨.GLB, 0x10C, 4, 0x10, 1, 0x0, 15, 0, .RO, false⟩
  | .GLB_EVT_WORD => ⟨.GLB, 0x8000, 1024, 0x20, 8, 0x4, 31, 0, .RO, false⟩
  | .HST_LINK_UP => ⟨.HST, 0x0, 4, 0x10, 1, 0x0, 31, 31, .RO, false⟩
  | .HST_GEN3 => ⟨.HST, 0x0, 4, 0x10, 1, 0x0, 30, 30, .RO, false⟩
  | .HST_ATS_EN => ⟨.HST, 0x0, 4, 0x10, 1, 0x0, 29, 29, .RO, false⟩
  | .HST_PRI_EN => ⟨.HST, 0x0, 4, 0x10, 1, 0x0, 28, 28, .RO, false⟩
  | .HST_BME => ⟨.HST, 0x0, 4, 0x10, 1, 0x0, 27, 27, .RO, false⟩
  | .HST_FENCED_CNT => ⟨.HST, 0x4, 4, 0x10, 1, 0x0, 31, 16, .RC, false⟩
  | .HST_PART_CNT => ⟨.HST, 0x4, 4, 0x10, 1, 0x0, 15, 0, .RC, false⟩
  | .HST_EVT_LINK => ⟨.HST, 0x100, 1, 0x0, 1, 0x0, 4, 4, .W1C, false⟩
  | .HST_EVT_FENCE => ⟨.HST, 0x100, 1, 0x0, 1, 0x0, 3, 3, .W1C, false⟩
  | .HST_EVT_PART => ⟨.HST, 0x100, 1, 0x0, 1, 0x0, 2, 2, .W1C, false⟩
  | .HST_EVT_RX => ⟨.HST, 0x100, 1, 0x0, 1, 0x0, 1, 1, .W1C, false⟩
  | .HST_EVT_DMA => ⟨.HST, 0x100, 1, 0x0, 1, 0x0, 0, 0, .W1C, false⟩
  | .HST_CNT_CLR => ⟨.HST, 0x104, 1, 0x0, 1, 0x0, 0, 0, .RWF, false⟩
  | .HST_GR_EN => ⟨.HST, 0x400, 4, 0x100, 16, 0x10, 31, 31, .RWF, false⟩
  | .HST_GR_RO => ⟨.HST, 0x400, 4, 0x100, 16, 0x10, 30, 30, .RWF, false⟩
  | .HST_GR_DEV => ⟨.HST, 0x400, 4, 0x100, 16, 0x10, 17, 0, .RWF, false⟩
  | .HST_GR_WIN => ⟨.HST, 0x404, 4, 0x100, 16, 0x10, 31, 16, .RWF, false⟩
  | .HST_GR_LEN => ⟨.HST, 0x408, 4, 0x100, 16, 0x10, 16, 0, .RWF, false⟩
  | .HST_RXMAP_RING => ⟨.HST, 0x800, 4, 0x100, 64, 0x4, 9, 0, .RW, false⟩
  | .HST_RG_BASE_L => ⟨.HST, 0x10000, 4096, 0x20, 1, 0x0, 31, 6, .RW, false⟩
  | .HST_RG_BASE_H => ⟨.HST, 0x10004, 4096, 0x20, 1, 0x0, 31, 0, .RW, false⟩
  | .HST_RG_EN => ⟨.HST, 0x10008, 4096, 0x20, 1, 0x0, 31, 31, .RW, false⟩
  | .HST_RG_KIND => ⟨.HST, 0x10008, 4096, 0x20, 1, 0x0, 30, 30, .RW, false⟩
  | .HST_RG_LOG2N => ⟨.HST, 0x10008, 4096, 0x20, 1, 0x0, 24, 20, .RW, false⟩
  | .HST_RG_VEC => ⟨.HST, 0x10008, 4096, 0x20, 1, 0x0, 10, 0, .RW, false⟩
  | .HST_RG_MOD_US => ⟨.HST, 0x1000C, 4096, 0x20, 1, 0x0, 31, 16, .RW, false⟩
  | .HST_RG_MOD_CNT => ⟨.HST, 0x1000C, 4096, 0x20, 1, 0x0, 15, 0, .RW, false⟩
  | .HST_RG_CONS => ⟨.HST, 0x10010, 4096, 0x20, 1, 0x0, 31, 16, .RO, false⟩
  | .HST_RG_PROD => ⟨.HST, 0x10010, 4096, 0x20, 1, 0x0, 15, 0, .RO, false⟩
  | .HST_RG_ERR => ⟨.HST, 0x10014, 4096, 0x20, 1, 0x0, 31, 16, .RO, false⟩
  | .HST_RG_DROPS => ⟨.HST, 0x10014, 4096, 0x20, 1, 0x0, 15, 0, .RC, false⟩
  | .FUS_VENDOR_OK => ⟨.FUS, 0x0, 1, 0x0, 1, 0x0, 31, 31, .RO, false⟩
  | .FUS_OWNER_SEALED => ⟨.FUS, 0x0, 1, 0x0, 1, 0x0, 30, 30, .RO, false⟩
  | .FUS_OWNER_OK => ⟨.FUS, 0x0, 1, 0x0, 1, 0x0, 29, 29, .RO, false⟩
  | .FUS_DBG_LOCK => ⟨.FUS, 0x0, 1, 0x0, 1, 0x0, 28, 28, .RO, false⟩
  | .FUS_MON_LOCK => ⟨.FUS, 0x0, 1, 0x0, 1, 0x0, 27, 27, .RO, false⟩
  | .FUS_VENDOR_IMG => ⟨.FUS, 0x0, 1, 0x0, 1, 0x0, 26, 26, .RO, false⟩
  | .FUS_PROG_COND => ⟨.FUS, 0x0, 1, 0x0, 1, 0x0, 25, 25, .RO, false⟩
  | .FUS_RPR_USED => ⟨.FUS, 0x0, 1, 0x0, 1, 0x0, 14, 8, .RO, false⟩
  | .FUS_PROG_OP => ⟨.FUS, 0x4, 1, 0x0, 1, 0x0, 31, 30, .RW, false⟩
  | .FUS_PROG_OUT => ⟨.FUS, 0x4, 1, 0x0, 1, 0x0, 29, 28, .RO, false⟩
  | .FUS_PROG_WORD => ⟨.FUS, 0x4, 1, 0x0, 1, 0x0, 7, 0, .RW, false⟩
  | .FUS_PROG_DATA => ⟨.FUS, 0x8, 1, 0x0, 1, 0x0, 31, 0, .RW, false⟩
  | .FUS_PROG_ERR => ⟨.FUS, 0xC, 1, 0x0, 1, 0x0, 31, 16, .RO, false⟩
  | .FUS_EVT_SEALED => ⟨.FUS, 0x10, 1, 0x0, 1, 0x0, 3, 3, .W1C, false⟩
  | .FUS_EVT_PROG => ⟨.FUS, 0x10, 1, 0x0, 1, 0x0, 2, 2, .W1C, false⟩
  | .FUS_EVT_OWNER_CRC => ⟨.FUS, 0x10, 1, 0x0, 1, 0x0, 1, 1, .W1C, false⟩
  | .FUS_EVT_VENDOR_CRC => ⟨.FUS, 0x10, 1, 0x0, 1, 0x0, 0, 0, .W1C, false⟩
  | .FUS_SHADOW => ⟨.FUS, 0x1000, 256, 0x4, 1, 0x0, 31, 0, .RO, false⟩
  | .FUS_ARRAY => ⟨.FUS, 0x2000, 256, 0x4, 1, 0x0, 31, 0, .RO, false⟩
  | .HEA_REPLACE => ⟨.HEA, 0x0, 1, 0x0, 1, 0x0, 31, 31, .RO, false⟩
  | .HEA_FATAL => ⟨.HEA, 0x0, 1, 0x0, 1, 0x0, 30, 30, .RO, false⟩
  | .HEA_BURN_PEND => ⟨.HEA, 0x0, 1, 0x0, 1, 0x0, 29, 29, .RO, true⟩
  | .HEA_CAP_SEQ => ⟨.HEA, 0x0, 1, 0x0, 1, 0x0, 15, 0, .RO, true⟩
  | .HEA_C_PHASE => ⟨.HEA, 0x4, 1, 0x0, 1, 0x0, 5, 5, .RO, false⟩
  | .HEA_C_LANE => ⟨.HEA, 0x4, 1, 0x0, 1, 0x0, 4, 4, .RO, false⟩
  | .HEA_C_CLUSTER => ⟨.HEA, 0x4, 1, 0x0, 1, 0x0, 3, 3, .RO, false⟩
  | .HEA_C_RMP => ⟨.HEA, 0x4, 1, 0x0, 1, 0x0, 2, 2, .RO, false⟩
  | .HEA_C_SPARE => ⟨.HEA, 0x4, 1, 0x0, 1, 0x0, 1, 1, .RO, false⟩
  | .HEA_C_BURN => ⟨.HEA, 0x4, 1, 0x0, 1, 0x0, 0, 0, .RO, true⟩
  | .HEA_TH_SPARE => ⟨.HEA, 0x8, 1, 0x0, 1, 0x0, 27, 16, .RWF, true⟩
  | .HEA_TH_RMP => ⟨.HEA, 0x8, 1, 0x0, 1, 0x0, 7, 0, .RWF, true⟩
  | .HEA_TH_PHASE => ⟨.HEA, 0xC, 1, 0x0, 1, 0x0, 20, 16, .RWF, true⟩
  | .HEA_TH_LANE => ⟨.HEA, 0xC, 1, 0x0, 1, 0x0, 13, 8, .RWF, true⟩
  | .HEA_TH_CL => ⟨.HEA, 0xC, 1, 0x0, 1, 0x0, 4, 0, .RWF, true⟩
  | .HEA_EVT_CAP => ⟨.HEA, 0x20, 1, 0x0, 1, 0x0, 3, 3, .W1C, false⟩
  | .HEA_EVT_REPLACE => ⟨.HEA, 0x20, 1, 0x0, 1, 0x0, 2, 2, .W1C, false⟩
  | .HEA_EVT_RETIRE => ⟨.HEA, 0x20, 1, 0x0, 1, 0x0, 1, 1, .W1C, false⟩
  | .HEA_EVT_FATAL => ⟨.HEA, 0x20, 1, 0x0, 1, 0x0, 0, 0, .W1C, false⟩
  | .HEA_LANE_RET_LO => ⟨.HEA, 0x30, 1, 0x0, 1, 0x0, 31, 0, .RO, false⟩
  | .HEA_LANE_RET_HI => ⟨.HEA, 0x34, 1, 0x0, 1, 0x0, 15, 0, .RO, false⟩
  | .HEA_CAP_ENGINES => ⟨.HEA, 0x100, 1, 0x0, 1, 0x0, 31, 24, .RO, false⟩
  | .HEA_CAP_CLUSTERS => ⟨.HEA, 0x100, 1, 0x0, 1, 0x0, 23, 19, .RO, false⟩
  | .HEA_CAP_CLK => ⟨.HEA, 0x100, 1, 0x0, 1, 0x0, 18, 14, .RO, false⟩
  | .HEA_CAP_LANES => ⟨.HEA, 0x100, 1, 0x0, 1, 0x0, 13, 8, .RO, false⟩
  | .HEA_CAP_GE => ⟨.HEA, 0x100, 1, 0x0, 1, 0x0, 4, 0, .RO, false⟩
  | .HEA_CAP_GBPS => ⟨.HEA, 0x104, 1, 0x0, 1, 0x0, 25, 16, .RO, false⟩
  | .HEA_CAP_SPARE => ⟨.HEA, 0x104, 1, 0x0, 1, 0x0, 11, 0, .RO, false⟩
  | .HEA_CAP_RMP => ⟨.HEA, 0x108, 1, 0x0, 1, 0x0, 31, 24, .RO, false⟩
  | .HEA_CAP_NOSPARE => ⟨.HEA, 0x108, 1, 0x0, 1, 0x0, 9, 0, .RO, false⟩
  | .HEA_CAP_TIME => ⟨.HEA, 0x10C, 1, 0x0, 1, 0x0, 31, 0, .RO, false⟩
  | .CLS_INFLIGHT => ⟨.CLS, 0x8, 2, 0x4, 1, 0x0, 19, 0, .RO, false⟩
  | .TBL_SEED_WORD => ⟨.TBL, 0x40, 4, 0x10, 4, 0x4, 31, 0, .WO, false⟩
  | .FLW_KPROF => ⟨.FLW, 0x100, 16, 0x8, 2, 0x4, 31, 0, .RWF, false⟩
  | .SWC_INS_WM => ⟨.SWC, 0x44, 4, 0x8, 1, 0x0, 17, 0, .RWF, false⟩
  | .SWC_ESC1_FREE => ⟨.SWC, 0x60, 1, 0x0, 1, 0x0, 22, 16, .RO, false⟩
  | .SWC_ESC0_FREE => ⟨.SWC, 0x60, 1, 0x0, 1, 0x0, 9, 0, .RO, false⟩
  | .SWC_ESC1_MIN => ⟨.SWC, 0x64, 1, 0x0, 1, 0x0, 22, 16, .RC, false⟩
  | .SWC_ESC0_MIN => ⟨.SWC, 0x64, 1, 0x0, 1, 0x0, 9, 0, .RC, false⟩
  | .HEA_LANE_CAL_TH => ⟨.HEA, 0x10, 1, 0x0, 1, 0x0, 15, 8, .RWF, true⟩
  | .HEA_CL_UNC_TH => ⟨.HEA, 0x10, 1, 0x0, 1, 0x0, 7, 0, .RWF, true⟩

/-- Reset value of element `i` of a field (0 where no line stands: the map's 0, or log entry 3 where the map gives
none). Fields the map marks Fuse are read through the fuse shadow and stand as 0 here. -/
def Field.reset : Field → Nat → BitVec 32
  | .PWR_HOT_THRESH, _ => 472#32
  | .PWR_ENG_CLK_EFF, _ => 30#32
  | .PWR_ENG_CLK_SET, _ => 30#32
  | .PWR_DOM_REQ, _ => 2#32
  | .TIM_SERVO_KP, _ => 179#32
  | .TIM_SERVO_KI, _ => 77#32
  | .TIM_PPSOUT_MS, _ => 100#32
  | .TIM_STEP_EN, _ => 1#32
  | .TIM_PPS_WIN, _ => 10#32
  | .TIM_HOLD_SEC, _ => 60#32
  | .TIM_STEP_THRESH, _ => 1000#32
  | .PRT_MAX_FRAME, _ => 1522#32
  | .PRT_AN_EN, _ => 1#32
  | .PRT_EXPRESS_TC, _ => 128#32
  | .PRT_PRE_VERIFY_MS, _ => 10#32
  | .PRT_RED_SUPV_MS, _ => 2000#32
  | .PRT_RED_FORGET_MS, _ => 400#32
  | .PAR_CLK_LIMIT, _ => 512#32
  | .PAR_EXPR_EN, i => if i % 4 = 3 then 0#32 else 1#32
  | .PAR_EXPR_ETYPE, i => [0x88BA#32, 0x88B8#32, 0x88F7#32].getD (i % 4) 0#32
  | .CLS_FRAG_TMO_MS, _ => 30#32
  | .TBL_AGE_LIM_FLOW, _ => 6000#32
  | .TBL_AGE_LIM_L2, _ => 30000#32
  | .TBL_AGE_TICK_MS, _ => 10#32
  | .TBL_AGE_RATE, _ => 16#32
  | .TBL_STRESS_FAILS, _ => 1000#32
  | .TBL_REHASH_RATE, _ => 2800#32
  | .FLW_HIT_PCT_MIN, _ => 100#32
  | .FLW_TEL_IVL_S, _ => 60#32
  | .FLW_WB_MS, _ => 100#32
  | .SAU_ACQ_N, _ => 4#32
  | .SAU_EARLY_US, _ => 50#32
  | .SAU_STEP_TOL_NS, _ => 1000#32
  | .SAU_UTC_OFFSET, _ => 37#32
  | .SAU_ST_NCH, _ => 8#32
  | .SAU_ST_RATE, _ => 4000#32
  | .SAU_ST_SYNC_VAL, _ => 2#32
  | .SAU_ST_LOSS_US, _ => 1000#32
  | .SAU_ST_CONFREV, _ => 1#32
  | .SAU_ST_AGE_MAX_US, _ => 2000#32
  | .SAU_JG_EMPTY, _ => 1#32
  | .SAU_JG_TOK_MAX, _ => 4#32
  | .SAU_JG_RATE, _ => 4000#32
  | .SAU_JG_DL_NS, _ => 250000#32
  | .SAU_JG_DEPTH_L2, _ => 3#32
  | .SAU_JG_PATCH_DEPTH_L2, _ => 2#32
  | .SAU_JG_PATCH_WIN_US, _ => 1000#32
  | .SAU_PUB_T_AUTO, _ => 1#32
  | .SAU_PUB_TMAX_MS, _ => 1000#32
  | .SAU_PUB_TMIN_US, _ => 1000#32
  | .SWC_POOL_SZ, i => [3#32, 10#32, 32#32, 152#32].getD i 0#32
  | .SWC_POOL_CNT, i => [65536#32, 16384#32, 3072#32, 431#32].getD i 0#32
  | .SWC_POOL_FREE, i => [65536#32, 16384#32, 3072#32, 431#32].getD i 0#32
  | .SWC_POOL_MIN, i => [65536#32, 16384#32, 3072#32, 431#32].getD i 0#32
  | .SWC_WM_DROP, i => [2048#32, 512#32, 128#32, 16#32].getD i 0#32
  | .SWC_CT_POOL, _ => 1#32
  | .SWC_HOLD_NS, _ => 1000#32
  | .SWC_INS_DP, _ => 3#32
  | .TMG_ENTRY_FREE, _ => 524288#32
  | .TMG_GS_BURST, _ => 16384#32
  | .TMG_QS_BURST, _ => 16384#32
  | .TMG_Q_WEIGHT, _ => 1#32
  | .TMG_Q_MAX, _ => 1024#32
  | .TSK_FREE, _ => 16384#32
  | .TSK_FAULT_TMO_MS, _ => 100#32
  | .TSK_B_MAX, _ => 4096#32
  | .TSK_FB_CLASS, _ => 15#32
  | .TSK_FB_KIND, _ => 65534#32
  | .TSK_FB_TMPL_HI, _ => 16383#32
  | .MMU_PRI_TMO_MS, _ => 1000#32
  | .MEM_REF_UP_C, _ => 82#32
  | .MEM_REF_DN_C, _ => 78#32
  | .MEM_WQ_HI, _ => 48#32
  | .MEM_WQ_LO, _ => 16#32
  | .MEM_WQ_AGE_NS, _ => 2000#32
  | .MEM_NR_EN, _ => 1#32
  | .MEM_NR_DIST, _ => 1#32
  | .MEM_NR_LOG2P, _ => 11#32
  | .MEM_SCRUB_EN, _ => 1#32
  | .MEM_SCRUB_HRS, _ => 8#32
  | .MEM_CE_ROW_TH, _ => 8#32
  | .GLB_PART_NUM, _ => 34368#32
  | .GLB_LC_TERM_MS, _ => 1000#32
  | .HST_RG_LOG2N, _ => 6#32
  | .HEA_TH_SPARE, _ => 512#32
  | .HEA_TH_RMP, _ => 16#32
  | .HEA_TH_PHASE, _ => 1#32
  | .HEA_TH_LANE, _ => 1#32
  | .HEA_TH_CL, _ => 1#32
  | .SWC_INS_WM, i => [4608#32, 1088#32, 256#32, 32#32].getD i 0#32
  | .SWC_ESC1_FREE, _ => 64#32
  | .SWC_ESC0_FREE, _ => 512#32
  | .SWC_ESC1_MIN, _ => 64#32
  | .SWC_ESC0_MIN, _ => 512#32
  | .HEA_LANE_CAL_TH, _ => 3#32
  | .HEA_CL_UNC_TH, _ => 4#32
  | _, _ => 0#32

/-- The fields of block GLB, in map order. -/
def Block.fieldsGLB : List Field := [.GLB_PART_NUM, .GLB_SI_REV, .GLB_SRC_ID, .GLB_MODE_REDUCED, .GLB_MODE_CODE, .GLB_REQ_TARGET, .GLB_REQ_OP, .GLB_WAKE_SEC,
  .GLB_RESET_GO, .GLB_RESET_CAUSE, .GLB_SR_UNIT, .GLB_SR_BUSY, .GLB_SR_INDEX, .GLB_EVT_LEASE, .GLB_EVT_IMAGE, .GLB_EVT_ORDER,
  .GLB_EVT_MODE, .GLB_EVT_BOOT, .GLB_IMG_ERR, .GLB_IMG_OUT, .GLB_IMG_OP, .GLB_IMG_ADDR, .GLB_LS_HELD, .GLB_LS_HOLDER,
  .GLB_LS_LEFT_MS, .GLB_LS_EPOCH, .GLB_LC_OP, .GLB_LC_TERM_MS, .GLB_LU_EPOCH, .GLB_LM_ERR, .GLB_LM_OUT, .GLB_LM_EPOCH,
  .GLB_EVT_WPTR, .GLB_EVT_RPTR, .GLB_EVT_IRQ_EN, .GLB_EVT_LEVEL, .GLB_EVT_VEC, .GLB_PT_PORT_L, .GLB_PT_ELIG, .GLB_PT_PREC,
  .GLB_PT_PORT_H, .GLB_PT_CL, .GLB_PT_Q_CNT, .GLB_PT_Q_BASE, .GLB_EVT_WORD]

/-- The fields of block PWR, in map order. -/
def Block.fieldsPWR : List Field := [.PWR_GRADE_E, .PWR_SLOWCLK_INT, .PWR_DERATE_ACT, .PWR_CURLIM_ACT, .PWR_HOT, .PWR_VIN_OK, .PWR_PLL_LOCK, .PWR_IIN_10MA,
  .PWR_VIN_MV, .PWR_PIN_100MW, .PWR_VAON_MV, .PWR_TCASE_EST, .PWR_TDIE_MAX, .PWR_HOT_THRESH, .PWR_EVT_VIN_UV, .PWR_EVT_OVERTEMP,
  .PWR_EVT_PHASE, .PWR_EVT_CURLIM, .PWR_EVT_HOT, .PWR_EVT_SLOWCLK, .PWR_EVT_DERATE, .PWR_EVT_DOM_REFUSED, .PWR_PHASE_RETIRED, .PWR_ENG_CLK_EFF,
  .PWR_ENG_CLK_SET, .PWR_DOM_CG_ONLY, .PWR_DOM_REQ, .PWR_DOM_WAKES, .PWR_DOM_RETIRED, .PWR_DOM_STATE]

/-- The fields of block FUS, in map order. -/
def Block.fieldsFUS : List Field := [.FUS_VENDOR_OK, .FUS_OWNER_SEALED, .FUS_OWNER_OK, .FUS_DBG_LOCK, .FUS_MON_LOCK, .FUS_VENDOR_IMG, .FUS_PROG_COND, .FUS_RPR_USED,
  .FUS_PROG_OP, .FUS_PROG_OUT, .FUS_PROG_WORD, .FUS_PROG_DATA, .FUS_PROG_ERR, .FUS_EVT_SEALED, .FUS_EVT_PROG, .FUS_EVT_OWNER_CRC,
  .FUS_EVT_VENDOR_CRC, .FUS_SHADOW, .FUS_ARRAY]

/-- The fields of block HEA, in map order. -/
def Block.fieldsHEA : List Field := [.HEA_REPLACE, .HEA_FATAL, .HEA_BURN_PEND, .HEA_CAP_SEQ, .HEA_C_PHASE, .HEA_C_LANE, .HEA_C_CLUSTER, .HEA_C_RMP,
  .HEA_C_SPARE, .HEA_C_BURN, .HEA_TH_SPARE, .HEA_TH_RMP, .HEA_TH_PHASE, .HEA_TH_LANE, .HEA_TH_CL, .HEA_EVT_CAP,
  .HEA_EVT_REPLACE, .HEA_EVT_RETIRE, .HEA_EVT_FATAL, .HEA_LANE_RET_LO, .HEA_LANE_RET_HI, .HEA_CAP_ENGINES, .HEA_CAP_CLUSTERS, .HEA_CAP_CLK,
  .HEA_CAP_LANES, .HEA_CAP_GE, .HEA_CAP_GBPS, .HEA_CAP_SPARE, .HEA_CAP_RMP, .HEA_CAP_NOSPARE, .HEA_CAP_TIME, .HEA_LANE_CAL_TH,
  .HEA_CL_UNC_TH]

/-- The fields of block TIM, in map order. -/
def Block.fieldsTIM : List Field := [.TIM_QUAL, .TIM_FAST, .TIM_PPS_SEEN, .TIM_CMD_BUSY, .TIM_HOLD_ELAPSED, .TIM_SERVO_KP, .TIM_SERVO_KI, .TIM_PPSOUT_MS,
  .TIM_PTP_LOCK, .TIM_PPSOUT_EN, .TIM_STEP_EN, .TIM_SRC, .TIM_NOW_FRAC, .TIM_NOW_NS, .TIM_NOW_SEC_LO, .TIM_NOW_SEC_HI,
  .TIM_CMD_OP, .TIM_STEP_NS, .TIM_ADJ_FREQ, .TIM_FREQ_EFF, .TIM_PPS_DELAY, .TIM_PPS_WIN, .TIM_HOLD_SEC, .TIM_STEP_THRESH,
  .TIM_PPS_REJ, .TIM_PPS_CAP_FRAC, .TIM_PPS_CAP_NS, .TIM_PPS_CAP_SEC, .TIM_PPS_ERR, .TIM_REFW_NEXT, .TIM_REFW_INT, .TIM_EVT_TIMEBASE,
  .TIM_EVT_STEP, .TIM_EVT_LOCK, .TIM_EVT_PPS_LOST, .TIM_EVT_HOLD_END, .TIM_EVT_CORR_OVF, .TIM_EVT_REFW, .TIM_P_EGR_ADJ, .TIM_P_ING_ADJ,
  .TIM_P1S_EN, .TIM_P2P_ADD, .TIM_P_LINKDLY]

/-- The fields of block PRT, in map order. -/
def Block.fieldsPRT : List Field := [.PRT_MAX_FRAME, .PRT_AN_EN, .PRT_FEC, .PRT_MODE, .PRT_EN, .PRT_EXPRESS_TC, .PRT_PRE_VERIFY_MS, .PRT_PRE_FRAG,
  .PRT_PRE_VERIFY_DIS, .PRT_PRE_EN, .PRT_RED_SUPV_MS, .PRT_RED_FORGET_MS, .PRT_RED_KEEP, .PRT_RED_ROLE, .PRT_RED_MODE, .PRT_RED_SEQ,
  .PRT_PRE_STATE, .PRT_LANE_MEMBER, .PRT_FEC_LOCK, .PRT_PCS_LOCK, .PRT_LINK_UP, .PRT_EVT_RED_FULL, .PRT_EVT_LAN_LOSS, .PRT_EVT_PRE,
  .PRT_EVT_SPEED, .PRT_EVT_CFG, .PRT_EVT_LINK, .PRT_CNT_CLR]

/-- The fields of block PAR, in map order. -/
def Block.fieldsPAR : List Field := [.PAR_CS_LOADED, .PAR_CS_BADWORD, .PAR_RESTART_Q, .PAR_LANES_BUSY, .PAR_DBG_FLAG, .PAR_CLK_LIMIT, .PAR_EXPR_EN, .PAR_EXPR_ETYPE,
  .PAR_CS_CORR_CNT, .PAR_CS_BAD_VALID, .PAR_CS_BAD_ADDR, .PAR_OCC_MAX, .PAR_OCC_MEAN, .PAR_EVT_LOADED, .PAR_EVT_PROTECTED, .PAR_EVT_ENTRY_HOLD,
  .PAR_EVT_LIMIT, .PAR_EVT_CS_CORR, .PAR_EVT_CS_UNCORR, .PAR_CNT_CLR, .PAR_CS_RD]

/-- The fields of block CLS, in map order. -/
def Block.fieldsCLS : List Field := [.CLS_CAP_FULL, .CLS_PACK_WAIT, .CLS_RULE_BAD, .CLS_LIVE_VALID, .CLS_LIVE_BANK, .CLS_BANK_A_ST, .CLS_BANK_B_ST, .CLS_ED_A,
  .CLS_ED_B, .CLS_CAP_MODE, .CLS_FRAG_TMO_MS, .CLS_CMD_ED, .CLS_CMD_OP, .CLS_CMD_ADDR, .CLS_CMD_ERR, .CLS_CMD_LAST_OP,
  .CLS_CMD_OUT, .CLS_DRAIN_ED, .CLS_DRAIN_NS, .CLS_RULE_CORR_CNT, .CLS_RULE_BAD_VALID, .CLS_RULE_BAD_BANK, .CLS_RULE_BAD_IDX, .CLS_EVT_COMMITTED,
  .CLS_EVT_DRAINED, .CLS_EVT_STAGED, .CLS_EVT_DETACHED, .CLS_EVT_FRAG_FULL, .CLS_EVT_RULE, .CLS_EVT_PKT_ERR, .CLS_EVT_CMD_ERR, .CLS_CNT_CLR,
  .CLS_INFLIGHT]

/-- The fields of block TBL, in map order. -/
def Block.fieldsTBL : List Field := [.TBL_SEED_FROZEN, .TBL_REHASH_LIVE, .TBL_REHASH_TGT, .TBL_SEED_PHASE, .TBL_JOURNAL_BUSY, .TBL_PROTECTED, .TBL_FLOW_CLEARING, .TBL_LEARN_LVL,
  .TBL_STASH_CNT, .TBL_AGE_EN, .TBL_AGE_LIM_FLOW, .TBL_AGE_LIM_L2, .TBL_AGE_TICK_MS, .TBL_AGE_RATE, .TBL_AGE_PASSES, .TBL_AGE_NOW,
  .TBL_STRESS_FAILS, .TBL_REHASH_RATE, .TBL_REHASH_CUR_VALID, .TBL_REHASH_POS, .TBL_FLUSH_VALID, .TBL_FLUSH_PORT, .TBL_FLUSH_POS, .TBL_RMAC_L,
  .TBL_RMAC_H, .TBL_EVT_REHASH, .TBL_EVT_STRESS, .TBL_EVT_LEARN_DROP, .TBL_EVT_CLEARED, .TBL_EVT_JOURNAL, .TBL_EVT_IMAGE, .TBL_CNT_CLR,
  .TBL_CMD_F_SEED, .TBL_CMD_F_STATIC, .TBL_CMD_F_IF_STAMP, .TBL_CMD_F_REPLACE, .TBL_CMD_TGT, .TBL_CMD_OP, .TBL_CMD_ARG, .TBL_CMD_ADDR,
  .TBL_CMD_ERR, .TBL_CMD_LAST_OP, .TBL_CMD_OUT, .TBL_CMD_CNT, .TBL_CMD_GEN, .TBL_CMD_LOC, .TBL_CMD_CUR_LO, .TBL_CMD_CUR_HI,
  .TBL_CMD_KEY, .TBL_CMD_DATA, .TBL_VLAN_MEMB_L, .TBL_VLAN_VALID, .TBL_VLAN_LEARN, .TBL_VLAN_FLOOD, .TBL_VLAN_ROUTE, .TBL_VLAN_FID,
  .TBL_VLAN_MEMB_H, .TBL_VLAN_UNTAG_L, .TBL_VLAN_UNTAG_H, .TBL_SEED_WORD]

/-- The fields of block FLW, in map order. -/
def Block.fieldsFLW : List Field := [.FLW_REBUILD, .FLW_REC_USED, .FLW_HIT_PCT_MIN, .FLW_HIT_PCT, .FLW_TEL_IVL_S, .FLW_WB_MS, .FLW_TEL_EN, .FLW_TEL_TMPL,
  .FLW_SAMPLE_TMPL, .FLW_LB_PEND, .FLW_LB_EPOCH, .FLW_EVT_REBUILT, .FLW_EVT_GOOSE, .FLW_EVT_NEWFLOW, .FLW_EVT_TOKEN, .FLW_EVT_CMD,
  .FLW_CNT_CLR, .FLW_CL_LOOKUP, .FLW_CL_PROF, .FLW_NA_ACT, .FLW_NA_KIND, .FLW_NA_TARGET, .FLW_NA_DST, .FLW_NA_AUTH,
  .FLW_NA_GAZ, .FLW_RC_F_KEEPCNT, .FLW_RC_OP, .FLW_RC_IDX, .FLW_RC_ERR, .FLW_RC_OUT, .FLW_RC_DATA, .FLW_LBG_N,
  .FLW_LBG_MEMB, .FLW_KPROF]

/-- The fields of block SAU, in map order. -/
def Block.fieldsSAU : List Field := [.SAU_GRID_RUN, .SAU_JG_ON_CNT, .SAU_TOK_RESV, .SAU_ACQ_N, .SAU_EARLY_US, .SAU_STEP_TOL_NS, .SAU_UTC_OFFSET, .SAU_EVT_GRID,
  .SAU_EVT_STREAM, .SAU_EVT_TOKEN, .SAU_EVT_PUB, .SAU_EVT_JG, .SAU_EVT_CFG, .SAU_CNT_CLR, .SAU_ST_EN, .SAU_ST_SYNC_EXACT,
  .SAU_ST_NCH, .SAU_ST_STRIDE, .SAU_ST_RATE, .SAU_ST_SYNC_VAL, .SAU_ST_LOSS_US, .SAU_ST_CONFREV, .SAU_ST_AGE_MAX_US, .SAU_ST_STATE,
  .SAU_ST_FAULT, .SAU_ST_LAST_CNT, .SAU_ST_GAPS, .SAU_ST_LATE, .SAU_ST_STALE, .SAU_ST_REJ, .SAU_ST_AGE_LAST, .SAU_JG_EN,
  .SAU_JG_EMPTY, .SAU_JG_PATCH_EN, .SAU_JG_HOLD_N, .SAU_JG_TOK_MAX, .SAU_JG_RATE, .SAU_JG_DL_NS, .SAU_JG_DEPTH_L2, .SAU_JG_RING_BASE,
  .SAU_JG_CLMASK, .SAU_JG_OPND, .SAU_JG_TMPL, .SAU_JG_PATCH_DEPTH_L2, .SAU_JG_PATCH_WIN_US, .SAU_JG_PATCH_TMPL, .SAU_JG_PATCH_BASE, .SAU_JG_SEQ,
  .SAU_JG_OPEN, .SAU_JG_TOK_OUT, .SAU_JG_SLOT_B, .SAU_JG_DL_CLOSES, .SAU_JG_TOK_REF, .SAU_JG_M_EN, .SAU_JG_M_STREAM, .SAU_PUB_EN,
  .SAU_PUB_T_AUTO, .SAU_PUB_TAL_AUTO, .SAU_PUB_AUTH, .SAU_PUB_KEY, .SAU_PUB_TMPL, .SAU_PUB_DST_GRP, .SAU_PUB_DST, .SAU_PUB_TMAX_MS,
  .SAU_PUB_TMIN_US, .SAU_PUB_STNUM, .SAU_PUB_SQNUM, .SAU_PUB_STATE, .SAU_PUB_LEN, .SAU_PUB_TX, .SAU_PUB_TXTS]

/-- The fields of block SWC, in map order. -/
def Block.fieldsSWC : List Field := [.SWC_LAYOUT_LOCKED, .SWC_LAYOUT_APPLY, .SWC_POOL_SZ, .SWC_POOL_CNT, .SWC_POOL_FREE, .SWC_POOL_MIN, .SWC_WM_DROP, .SWC_CT_POOL,
  .SWC_HOLD_NS, .SWC_OWN_ERR_VALID, .SWC_OWN_ERR_OP, .SWC_OWN_ERR_STATE, .SWC_OWN_ERR_HOLDER, .SWC_OWN_ERR_ID, .SWC_OWN_ERR_BUF, .SWC_EVT_LAYOUT,
  .SWC_EVT_ECC, .SWC_EVT_SHED, .SWC_EVT_POOL, .SWC_EVT_ESCAPE, .SWC_EVT_OWNER, .SWC_CNT_CLR, .SWC_INS_EN, .SWC_INS_TC,
  .SWC_INS_DP, .SWC_INS_DST, .SWC_INS_TRUNC, .SWC_INS_ING_L, .SWC_INS_ING_H, .SWC_INS_EGR_L, .SWC_INS_EGR_H, .SWC_INS_COPIES,
  .SWC_INS_SKIP, .SWC_INS_SHED, .SWC_RG_MASK_L, .SWC_RG_PRUNE, .SWC_RG_MASK_HOST, .SWC_RG_MASK_H, .SWC_OWN_CNT, .SWC_INS_WM,
  .SWC_ESC1_FREE, .SWC_ESC0_FREE, .SWC_ESC1_MIN, .SWC_ESC0_MIN]

/-- The fields of block TMG, in map order. -/
def Block.fieldsTMG : List Field := [.TMG_ENTRY_FREE, .TMG_WHEEL_CNT, .TMG_WHEEL_LAG_MAX, .TMG_EVT_WHEEL, .TMG_EVT_ENTRY, .TMG_EVT_CFG, .TMG_CNT_CLR, .TMG_CG_EN,
  .TMG_CG_LOG2N, .TMG_CG_BASE, .TMG_GS_EN, .TMG_GS_RATE, .TMG_GS_BURST, .TMG_GS_TOKENS, .TMG_QS_EN, .TMG_QS_RATE,
  .TMG_QS_BURST, .TMG_QS_TOKENS, .TMG_Q_DEPTH, .TMG_Q_DROPS, .TMG_Q_SH_EN, .TMG_Q_SH, .TMG_Q_WEIGHT, .TMG_Q_MAX]

/-- The fields of block ENG, in map order. -/
def Block.fieldsENG : List Field := [.ENG_CL_RETIRED, .ENG_XR_VALID, .ENG_XR_CODE, .ENG_XR_CTX, .ENG_XR_PC, .ENG_XR_INSN, .ENG_XR_ADDR_LO, .ENG_XR_ADDR_HI,
  .ENG_EVT_LOADED, .ENG_EVT_LEAK, .ENG_EVT_EMIT, .ENG_EVT_MEM, .ENG_EVT_LOAD_ERR, .ENG_EVT_EXC, .ENG_CNT_CLR, .ENG_CL_LOADED,
  .ENG_CL_FENCED, .ENG_CL_TMR_USED, .ENG_CL_LIVE, .ENG_CL_IMG_VER, .ENG_CL_ECC_CORR, .ENG_CL_ECC_UNC, .ENG_CL_UTIL, .ENG_CTX_STATE,
  .ENG_CTX_CLASS, .ENG_CTX_TMPL, .ENG_CTX_GEN, .ENG_CTX_PC]

/-- The fields of block TSK, in map order. -/
def Block.fieldsTSK : List Field := [.TSK_FB_STOPPED, .TSK_READY, .TSK_FREE, .TSK_FAULT_TMO_MS, .TSK_B_MAX, .TSK_EVT_FB, .TSK_EVT_FAULT_TMO, .TSK_EVT_MATCH_TMO,
  .TSK_EVT_VIOL, .TSK_EVT_CMD, .TSK_CNT_CLR, .TSK_FB_EN, .TSK_FB_STOP, .TSK_FB_CLASS, .TSK_FB_KIND, .TSK_FB_TMPL_HI,
  .TSK_FB_TMPL_LO, .TSK_FB_WRAPPED, .TSK_FB_WPTR, .TSK_CMD_POS, .TSK_CMD_OP, .TSK_CMD_TGT, .TSK_CMD_AUX, .TSK_CMD_VAL_LO,
  .TSK_CMD_VAL_HI, .TSK_CMD_ERR, .TSK_CMD_OUT, .TSK_TT_EN, .TSK_TT_VALID, .TSK_TT_CLASS, .TSK_TT_CLMASK, .TSK_TT_HELD,
  .TSK_TT_VIOL, .TSK_FB_WORD]

/-- The fields of block MMU, in map order. -/
def Block.fieldsMMU : List Field := [.MMU_INV_BUSY, .MMU_FR_LVL, .MMU_PRI_TMO_MS, .MMU_FR_HEAD, .MMU_FR_TAIL, .MMU_INV_OP, .MMU_INV_ASID, .MMU_INV_VA,
  .MMU_INV_PAGES, .MMU_EVT_INV, .MMU_EVT_PIN, .MMU_EVT_PRI, .MMU_EVT_FAULT, .MMU_CNT_CLR, .MMU_ROOT_ADDR_L, .MMU_ROOT_V,
  .MMU_ROOT_ADDR_H, .MMU_TLB_LOCKED, .MMU_DMA_SUSP, .MMU_DMA_QUEUED, .MMU_TLB_MISS, .MMU_FR_WORD]

/-- The fields of block AUT, in map order. -/
def Block.fieldsAUT : List Field := [.AUT_KEY_BUSY, .AUT_VQ_LVL, .AUT_SLOTS_USED, .AUT_HMAC_BUSY, .AUT_GMAC_BUSY, .AUT_PART_CNT, .AUT_PART_BASE, .AUT_EVT_KEY,
  .AUT_EVT_NONCE, .AUT_EVT_VERIFY, .AUT_EVT_WITHHELD, .AUT_EVT_MEM, .AUT_CNT_CLR, .AUT_KEY_OP, .AUT_KEY_SLOT, .AUT_KA_ALG,
  .AUT_KA_SIGN, .AUT_KA_VERIFY, .AUT_KA_TAGLEN, .AUT_KA_KEYLEN, .AUT_KEY_SALT, .AUT_KEY_ERR, .AUT_KEY_OUT, .AUT_KEY_DATA,
  .AUT_SL_ALG, .AUT_SL_SIGN, .AUT_SL_VERIFY, .AUT_SL_LOCKED, .AUT_SL_WARNED, .AUT_SL_TAGLEN, .AUT_SL_CTR_LO, .AUT_SL_CTR_HI,
  .AUT_SL_VFAIL]

/-- The fields of block MEM, in map order. -/
def Block.fieldsMEM : List Field := [.MEM_INIT_FLAG, .MEM_INIT_BUSY, .MEM_TRAINED, .MEM_SELF_REF, .MEM_HOT_INSERT, .MEM_INIT_PCT, .MEM_STACK_TEMP, .MEM_REF_UP_C,
  .MEM_REF_DN_C, .MEM_WQ_HI, .MEM_WQ_LO, .MEM_WQ_AGE_NS, .MEM_NR_EN, .MEM_NR_DIST, .MEM_NR_LOG2P, .MEM_SCRUB_EN,
  .MEM_SCRUB_HRS, .MEM_SCRUB_PASSES, .MEM_SCRUB_PCT, .MEM_CE_ROW_TH, .MEM_RMP_FUSED, .MEM_RMP_FREE, .MEM_SPARE_FREE, .MEM_BANK_NOSPARE,
  .MEM_RPR_OP, .MEM_RPR_OUT, .MEM_RPR_FAILROWS, .MEM_CORR_CNT, .MEM_UNC_CNT, .MEM_UNC_VALID, .MEM_UNC_READER, .MEM_UNC_ADDR_H,
  .MEM_UNC_ADDR_L, .MEM_EVT_RPR, .MEM_EVT_REMAP, .MEM_EVT_HOT, .MEM_EVT_NR, .MEM_EVT_ECC, .MEM_EVT_INIT, .MEM_CNT_CLR,
  .MEM_CHK_OP, .MEM_CHK_OUT, .MEM_CHK_SYND, .MEM_CHK_CB, .MEM_CHK_ADDR_LO, .MEM_CHK_ADDR_HI, .MEM_CHK_DATA_LO, .MEM_CHK_DATA_HI,
  .MEM_RMP_VALID, .MEM_RMP_FUSE, .MEM_RMP_PC, .MEM_RMP_BANK, .MEM_RMP_ROW, .MEM_RMP_SPARE]

/-- The fields of block HST, in map order. -/
def Block.fieldsHST : List Field := [.HST_LINK_UP, .HST_GEN3, .HST_ATS_EN, .HST_PRI_EN, .HST_BME, .HST_FENCED_CNT, .HST_PART_CNT, .HST_EVT_LINK,
  .HST_EVT_FENCE, .HST_EVT_PART, .HST_EVT_RX, .HST_EVT_DMA, .HST_CNT_CLR, .HST_GR_EN, .HST_GR_RO, .HST_GR_DEV,
  .HST_GR_WIN, .HST_GR_LEN, .HST_RXMAP_RING, .HST_RG_BASE_L, .HST_RG_BASE_H, .HST_RG_EN, .HST_RG_KIND, .HST_RG_LOG2N,
  .HST_RG_VEC, .HST_RG_MOD_US, .HST_RG_MOD_CNT, .HST_RG_CONS, .HST_RG_PROD, .HST_RG_ERR, .HST_RG_DROPS]

/-- The fields of a block. -/
def Block.fields : Block → List Field
  | .GLB => Block.fieldsGLB
  | .PWR => Block.fieldsPWR
  | .FUS => Block.fieldsFUS
  | .HEA => Block.fieldsHEA
  | .TIM => Block.fieldsTIM
  | .PRT => Block.fieldsPRT
  | .PAR => Block.fieldsPAR
  | .CLS => Block.fieldsCLS
  | .TBL => Block.fieldsTBL
  | .FLW => Block.fieldsFLW
  | .SAU => Block.fieldsSAU
  | .SWC => Block.fieldsSWC
  | .TMG => Block.fieldsTMG
  | .ENG => Block.fieldsENG
  | .TSK => Block.fieldsTSK
  | .MMU => Block.fieldsMMU
  | .AUT => Block.fieldsAUT
  | .MEM => Block.fieldsMEM
  | .HST => Block.fieldsHST

/-- Places of the counters. -/
def Ctr.info : Ctr → CtrInfo
  | .PRT_CNT_RX_FRAMES => ⟨.PRT, 0x100, 48, 0x2000, 1⟩
  | .PRT_CNT_RX_OCTETS => ⟨.PRT, 0x108, 48, 0x2000, 1⟩
  | .PRT_CNT_TX_FRAMES => ⟨.PRT, 0x110, 48, 0x2000, 1⟩
  | .PRT_CNT_TX_OCTETS => ⟨.PRT, 0x118, 48, 0x2000, 1⟩
  | .PRT_CNT_FCS_ERR => ⟨.PRT, 0x120, 48, 0x2000, 1⟩
  | .PRT_CNT_SIZE_ERR => ⟨.PRT, 0x128, 48, 0x2000, 1⟩
  | .PRT_CNT_PAUSE_RX => ⟨.PRT, 0x130, 48, 0x2000, 1⟩
  | .PRT_CNT_MACCTL_RX => ⟨.PRT, 0x138, 48, 0x2000, 1⟩
  | .PRT_CNT_ING_DROP => ⟨.PRT, 0x140, 48, 0x2000, 1⟩
  | .PRT_CNT_MODE_DROP => ⟨.PRT, 0x148, 48, 0x2000, 1⟩
  | .PRT_CNT_CT_ERR => ⟨.PRT, 0x150, 48, 0x2000, 1⟩
  | .PRT_CNT_FEC_CORR => ⟨.PRT, 0x158, 48, 0x2000, 1⟩
  | .PRT_CNT_FEC_UNCORR => ⟨.PRT, 0x160, 48, 0x2000, 1⟩
  | .PRT_CNT_PRE_TX_FRAG => ⟨.PRT, 0x168, 48, 0x2000, 1⟩
  | .PRT_CNT_PRE_RX_ERR => ⟨.PRT, 0x170, 48, 0x2000, 1⟩
  | .PRT_CNT_RED_DUP => ⟨.PRT, 0x178, 48, 0x2000, 1⟩
  | .PRT_CNT_RED_OOW => ⟨.PRT, 0x180, 48, 0x2000, 1⟩
  | .PRT_CNT_RED_UNK => ⟨.PRT, 0x188, 48, 0x2000, 1⟩
  | .PRT_CNT_RED_WRONG_LAN => ⟨.PRT, 0x190, 48, 0x2000, 1⟩
  | .PRT_CNT_RED_LSDU => ⟨.PRT, 0x198, 48, 0x2000, 1⟩
  | .PAR_CNT_CLASS => ⟨.PAR, 0x100, 2, 0x40000, 32⟩
  | .PAR_CNT_CODE => ⟨.PAR, 0x200, 2, 0x40000, 32⟩
  | .PAR_CNT_RESTART => ⟨.PAR, 0x300, 2, 0x40000, 1⟩
  | .PAR_CNT_PREEMPT => ⟨.PAR, 0x308, 2, 0x40000, 1⟩
  | .PAR_CNT_PROTECT => ⟨.PAR, 0x310, 2, 0x40000, 1⟩
  | .PAR_CNT_PMT_IGN => ⟨.PAR, 0x318, 2, 0x40000, 1⟩
  | .PAR_CNT_HOLD_CLK => ⟨.PAR, 0x320, 2, 0x40000, 1⟩
  | .PAR_CNT_ENTRY => ⟨.PAR, 0x328, 2, 0x40000, 1⟩
  | .CLS_CNT_LOOKUP => ⟨.CLS, 0x100, 1, 0x0, 1⟩
  | .CLS_CNT_DEFAULT => ⟨.CLS, 0x108, 1, 0x0, 1⟩
  | .CLS_CNT_DENY => ⟨.CLS, 0x110, 1, 0x0, 1⟩
  | .CLS_CNT_RECIRC => ⟨.CLS, 0x118, 1, 0x0, 1⟩
  | .CLS_CNT_RECIRC_LIMIT => ⟨.CLS, 0x120, 1, 0x0, 1⟩
  | .CLS_CNT_SLOW => ⟨.CLS, 0x128, 1, 0x0, 1⟩
  | .CLS_CNT_SLOW_DROP => ⟨.CLS, 0x130, 1, 0x0, 1⟩
  | .CLS_CNT_DETACHED => ⟨.CLS, 0x138, 1, 0x0, 1⟩
  | .CLS_CNT_FRAG_HIT => ⟨.CLS, 0x140, 1, 0x0, 1⟩
  | .CLS_CNT_FRAG_UNRES => ⟨.CLS, 0x148, 1, 0x0, 1⟩
  | .CLS_CNT_FRAG_FULL => ⟨.CLS, 0x150, 1, 0x0, 1⟩
  | .CLS_CNT_FRAG_STALE => ⟨.CLS, 0x158, 1, 0x0, 1⟩
  | .CLS_CNT_FRAG_EXPIRED => ⟨.CLS, 0x160, 1, 0x0, 1⟩
  | .TBL_CNT_L2_FLOOD => ⟨.TBL, 0x100, 1, 0x0, 1⟩
  | .TBL_CNT_L2_UNK_DROP => ⟨.TBL, 0x108, 1, 0x0, 1⟩
  | .TBL_CNT_VLAN_DROP => ⟨.TBL, 0x110, 1, 0x0, 1⟩
  | .TBL_CNT_APPID_DROP => ⟨.TBL, 0x118, 1, 0x0, 1⟩
  | .TBL_CNT_LPM_MISS => ⟨.TBL, 0x120, 1, 0x0, 1⟩
  | .TBL_CNT_LPM_DROP => ⟨.TBL, 0x128, 1, 0x0, 1⟩
  | .TBL_CNT_TTL_DROP => ⟨.TBL, 0x130, 1, 0x0, 1⟩
  | .TBL_CNT_LEARN => ⟨.TBL, 0x138, 1, 0x0, 1⟩
  | .TBL_CNT_LEARN_MOVE => ⟨.TBL, 0x140, 1, 0x0, 1⟩
  | .TBL_CNT_LEARN_DROP => ⟨.TBL, 0x148, 1, 0x0, 1⟩
  | .TBL_CNT_INS_FAIL => ⟨.TBL, 0x150, 1, 0x0, 1⟩
  | .TBL_CNT_RESTART => ⟨.TBL, 0x158, 1, 0x0, 1⟩
  | .TBL_CNT_PROTECT => ⟨.TBL, 0x160, 1, 0x0, 1⟩
  | .TBL_CNT_AGE_DEL => ⟨.TBL, 0x168, 1, 0x0, 1⟩
  | .TBL_CNT_AGE_KEEP => ⟨.TBL, 0x170, 1, 0x0, 1⟩
  | .FLW_CNT_LOOKUP => ⟨.FLW, 0x200, 1, 0x0, 1⟩
  | .FLW_CNT_HIT => ⟨.FLW, 0x208, 1, 0x0, 1⟩
  | .FLW_CNT_CACHE_HIT => ⟨.FLW, 0x210, 1, 0x0, 1⟩
  | .FLW_CNT_INS_OK => ⟨.FLW, 0x218, 1, 0x0, 1⟩
  | .FLW_CNT_NEW_FWD => ⟨.FLW, 0x220, 1, 0x0, 1⟩
  | .FLW_CNT_NEW_DROP => ⟨.FLW, 0x228, 1, 0x0, 1⟩
  | .FLW_CNT_NEW_SAMPLE => ⟨.FLW, 0x230, 1, 0x0, 1⟩
  | .FLW_CNT_DENY => ⟨.FLW, 0x238, 1, 0x0, 1⟩
  | .FLW_CNT_HANDOFF => ⟨.FLW, 0x240, 1, 0x0, 1⟩
  | .FLW_CNT_HANDOFF_DROP => ⟨.FLW, 0x248, 1, 0x0, 1⟩
  | .FLW_CNT_NAT_SKIP => ⟨.FLW, 0x250, 1, 0x0, 1⟩
  | .FLW_CNT_LB_NONE => ⟨.FLW, 0x258, 1, 0x0, 1⟩
  | .FLW_CNT_GOOSE_GAP => ⟨.FLW, 0x260, 1, 0x0, 1⟩
  | .FLW_CNT_GOOSE_DUP => ⟨.FLW, 0x268, 1, 0x0, 1⟩
  | .FLW_CNT_GOOSE_TAL => ⟨.FLW, 0x270, 1, 0x0, 1⟩
  | .FLW_CNT_TEL_DROP => ⟨.FLW, 0x278, 1, 0x0, 1⟩
  | .FLW_CNT_REC_EXHAUST => ⟨.FLW, 0x280, 1, 0x0, 1⟩
  | .SAU_CNT_ACCEPT => ⟨.SAU, 0x100, 1, 0x0, 1⟩
  | .SAU_CNT_UNSUB => ⟨.SAU, 0x108, 1, 0x0, 1⟩
  | .SAU_CNT_DUP => ⟨.SAU, 0x110, 1, 0x0, 1⟩
  | .SAU_CNT_SLICE => ⟨.SAU, 0x118, 1, 0x0, 1⟩
  | .SAU_CNT_DL_CLOSE => ⟨.SAU, 0x120, 1, 0x0, 1⟩
  | .SAU_CNT_PATCH => ⟨.SAU, 0x128, 1, 0x0, 1⟩
  | .SAU_CNT_LATE => ⟨.SAU, 0x130, 1, 0x0, 1⟩
  | .SAU_CNT_TOK_REF => ⟨.SAU, 0x138, 1, 0x0, 1⟩
  | .SAU_CNT_PUB => ⟨.SAU, 0x140, 1, 0x0, 1⟩
  | .SAU_CNT_RETX => ⟨.SAU, 0x148, 1, 0x0, 1⟩
  | .SAU_CNT_RETX_SKIP => ⟨.SAU, 0x150, 1, 0x0, 1⟩
  | .SWC_CNT_GRANT => ⟨.SWC, 0x100, 1, 0x0, 1⟩
  | .SWC_CNT_SPILL => ⟨.SWC, 0x108, 1, 0x0, 1⟩
  | .SWC_CNT_ESC_GRANT => ⟨.SWC, 0x110, 1, 0x0, 1⟩
  | .SWC_CNT_POOL_DROP => ⟨.SWC, 0x118, 1, 0x0, 1⟩
  | .SWC_CNT_ESC_DROP => ⟨.SWC, 0x120, 1, 0x0, 1⟩
  | .SWC_CNT_OVERRUN => ⟨.SWC, 0x128, 1, 0x0, 1⟩
  | .SWC_CNT_OVERSIZE => ⟨.SWC, 0x130, 1, 0x0, 1⟩
  | .SWC_CNT_REPLICA => ⟨.SWC, 0x138, 1, 0x0, 1⟩
  | .SWC_CNT_REPL_FULL => ⟨.SWC, 0x140, 1, 0x0, 1⟩
  | .SWC_CNT_RG_EMPTY => ⟨.SWC, 0x148, 1, 0x0, 1⟩
  | .SWC_CNT_INSET_SKIP => ⟨.SWC, 0x150, 1, 0x0, 1⟩
  | .SWC_CNT_INSET_SHED => ⟨.SWC, 0x158, 1, 0x0, 1⟩
  | .SWC_CNT_OWN_ERR => ⟨.SWC, 0x160, 1, 0x0, 1⟩
  | .SWC_CNT_ECC_CORR => ⟨.SWC, 0x168, 1, 0x0, 1⟩
  | .SWC_CNT_ECC_UNCORR => ⟨.SWC, 0x170, 1, 0x0, 1⟩
  | .TMG_CNT_ENQ => ⟨.TMG, 0x100, 1, 0x0, 1⟩
  | .TMG_CNT_DEQ => ⟨.TMG, 0x108, 1, 0x0, 1⟩
  | .TMG_CNT_TAIL_DROP => ⟨.TMG, 0x110, 1, 0x0, 1⟩
  | .TMG_CNT_ENTRY_DROP => ⟨.TMG, 0x118, 1, 0x0, 1⟩
  | .TMG_CNT_NOQ => ⟨.TMG, 0x120, 1, 0x0, 1⟩
  | .TMG_CNT_RESV_DROP => ⟨.TMG, 0x128, 1, 0x0, 1⟩
  | .TMG_CNT_LINKDOWN => ⟨.TMG, 0x130, 1, 0x0, 1⟩
  | .TMG_CNT_VOID => ⟨.TMG, 0x138, 1, 0x0, 1⟩
  | .TMG_CNT_WHEEL_LATE => ⟨.TMG, 0x140, 1, 0x0, 1⟩
  | .ENG_CNT_INSN => ⟨.ENG, 0x100, 1, 0x0, 1⟩
  | .ENG_CNT_TASK_END => ⟨.ENG, 0x108, 1, 0x0, 1⟩
  | .ENG_CNT_CTX_SW => ⟨.ENG, 0x110, 1, 0x0, 1⟩
  | .ENG_CNT_EXC => ⟨.ENG, 0x118, 1, 0x0, 1⟩
  | .ENG_CNT_EMIT => ⟨.ENG, 0x120, 1, 0x0, 1⟩
  | .ENG_CNT_EMIT_REF => ⟨.ENG, 0x128, 1, 0x0, 1⟩
  | .ENG_CNT_CONT_STALE => ⟨.ENG, 0x130, 1, 0x0, 1⟩
  | .ENG_CNT_CONT_DROP => ⟨.ENG, 0x138, 1, 0x0, 1⟩
  | .ENG_CNT_TMR_FIRE => ⟨.ENG, 0x140, 1, 0x0, 1⟩
  | .ENG_CNT_PKSEND => ⟨.ENG, 0x148, 1, 0x0, 1⟩
  | .ENG_CNT_BUF_LEAK => ⟨.ENG, 0x150, 1, 0x0, 1⟩
  | .ENG_CNT_ECC_CORR => ⟨.ENG, 0x158, 1, 0x0, 1⟩
  | .ENG_CNT_ECC_UNCORR => ⟨.ENG, 0x160, 1, 0x0, 1⟩
  | .TSK_CNT_TOKEN => ⟨.TSK, 0x100, 1, 0x0, 1⟩
  | .TSK_CNT_REFUSED => ⟨.TSK, 0x108, 1, 0x0, 1⟩
  | .TSK_CNT_FIRE => ⟨.TSK, 0x110, 1, 0x0, 1⟩
  | .TSK_CNT_PREEMPT => ⟨.TSK, 0x118, 1, 0x0, 1⟩
  | .TSK_CNT_MATCH_TMO => ⟨.TSK, 0x120, 1, 0x0, 1⟩
  | .TSK_CNT_ABORT => ⟨.TSK, 0x128, 1, 0x0, 1⟩
  | .TSK_CNT_P_VIOL => ⟨.TSK, 0x130, 1, 0x0, 1⟩
  | .TSK_CNT_HOLD => ⟨.TSK, 0x138, 1, 0x0, 1⟩
  | .TSK_CNT_FAULT_TMO => ⟨.TSK, 0x140, 1, 0x0, 1⟩
  | .TSK_CNT_DRAIN_DISC => ⟨.TSK, 0x148, 1, 0x0, 1⟩
  | .MMU_CNT_WALK => ⟨.MMU, 0x100, 1, 0x0, 1⟩
  | .MMU_CNT_FAULT => ⟨.MMU, 0x108, 1, 0x0, 1⟩
  | .MMU_CNT_FR_OVF => ⟨.MMU, 0x110, 1, 0x0, 1⟩
  | .MMU_CNT_PRI_REQ => ⟨.MMU, 0x118, 1, 0x0, 1⟩
  | .MMU_CNT_PRI_FAIL => ⟨.MMU, 0x120, 1, 0x0, 1⟩
  | .MMU_CNT_DMA_DONE => ⟨.MMU, 0x128, 1, 0x0, 1⟩
  | .MMU_CNT_DMA_LATE => ⟨.MMU, 0x130, 1, 0x0, 1⟩
  | .MMU_CNT_DMA_ABORT => ⟨.MMU, 0x138, 1, 0x0, 1⟩
  | .AUT_CNT_SIGN => ⟨.AUT, 0x100, 1, 0x0, 1⟩
  | .AUT_CNT_VERIFY => ⟨.AUT, 0x108, 1, 0x0, 1⟩
  | .AUT_CNT_VFY_FAIL => ⟨.AUT, 0x110, 1, 0x0, 1⟩
  | .AUT_CNT_INLINE => ⟨.AUT, 0x118, 1, 0x0, 1⟩
  | .AUT_CNT_INLINE_FAIL => ⟨.AUT, 0x120, 1, 0x0, 1⟩
  | .AUT_CNT_QUEUE_DROP => ⟨.AUT, 0x128, 1, 0x0, 1⟩
  | .AUT_CNT_REFUSED => ⟨.AUT, 0x130, 1, 0x0, 1⟩
  | .AUT_CNT_WITHHELD => ⟨.AUT, 0x138, 1, 0x0, 1⟩
  | .AUT_CNT_ABORTED => ⟨.AUT, 0x140, 1, 0x0, 1⟩
  | .AUT_CNT_KEY_LOAD => ⟨.AUT, 0x148, 1, 0x0, 1⟩
  | .MEM_CNT_READ => ⟨.MEM, 0x100, 1, 0x0, 1⟩
  | .MEM_CNT_WRITE => ⟨.MEM, 0x108, 1, 0x0, 1⟩
  | .MEM_CNT_RMW => ⟨.MEM, 0x110, 1, 0x0, 1⟩
  | .MEM_CNT_WQ_FWD => ⟨.MEM, 0x118, 1, 0x0, 1⟩
  | .MEM_CNT_CORR => ⟨.MEM, 0x120, 1, 0x0, 1⟩
  | .MEM_CNT_UNCORR => ⟨.MEM, 0x128, 1, 0x0, 1⟩
  | .MEM_CNT_UNC_DROP => ⟨.MEM, 0x130, 1, 0x0, 1⟩
  | .MEM_CNT_NR_ISSUED => ⟨.MEM, 0x138, 1, 0x0, 1⟩
  | .MEM_CNT_NR_OVF => ⟨.MEM, 0x140, 1, 0x0, 1⟩
  | .MEM_CNT_REMAP => ⟨.MEM, 0x148, 1, 0x0, 1⟩
  | .HST_CNT_TX_DESC => ⟨.HST, 0x200, 4, 0x40, 1⟩
  | .HST_CNT_TX_ERR => ⟨.HST, 0x208, 4, 0x40, 1⟩
  | .HST_CNT_RX_FRAMES => ⟨.HST, 0x210, 4, 0x40, 1⟩
  | .HST_CNT_RX_NODESC => ⟨.HST, 0x218, 4, 0x40, 1⟩
  | .HST_CNT_RX_TRUNC => ⟨.HST, 0x220, 4, 0x40, 1⟩
  | .HST_CNT_ATS_INV => ⟨.HST, 0x228, 4, 0x40, 1⟩
  | .HST_CNT_PRI_FAIL => ⟨.HST, 0x230, 4, 0x40, 1⟩

/-- Every counter, by block. -/
def Ctr.ofBlock : Block → List Ctr
  | .PRT => [.PRT_CNT_RX_FRAMES, .PRT_CNT_RX_OCTETS, .PRT_CNT_TX_FRAMES, .PRT_CNT_TX_OCTETS, .PRT_CNT_FCS_ERR,
      .PRT_CNT_SIZE_ERR, .PRT_CNT_PAUSE_RX, .PRT_CNT_MACCTL_RX, .PRT_CNT_ING_DROP, .PRT_CNT_MODE_DROP,
      .PRT_CNT_CT_ERR, .PRT_CNT_FEC_CORR, .PRT_CNT_FEC_UNCORR, .PRT_CNT_PRE_TX_FRAG, .PRT_CNT_PRE_RX_ERR,
      .PRT_CNT_RED_DUP, .PRT_CNT_RED_OOW, .PRT_CNT_RED_UNK, .PRT_CNT_RED_WRONG_LAN, .PRT_CNT_RED_LSDU]
  | .PAR => [.PAR_CNT_CLASS, .PAR_CNT_CODE, .PAR_CNT_RESTART, .PAR_CNT_PREEMPT, .PAR_CNT_PROTECT,
      .PAR_CNT_PMT_IGN, .PAR_CNT_HOLD_CLK, .PAR_CNT_ENTRY]
  | .CLS => [.CLS_CNT_LOOKUP, .CLS_CNT_DEFAULT, .CLS_CNT_DENY, .CLS_CNT_RECIRC, .CLS_CNT_RECIRC_LIMIT,
      .CLS_CNT_SLOW, .CLS_CNT_SLOW_DROP, .CLS_CNT_DETACHED, .CLS_CNT_FRAG_HIT, .CLS_CNT_FRAG_UNRES,
      .CLS_CNT_FRAG_FULL, .CLS_CNT_FRAG_STALE, .CLS_CNT_FRAG_EXPIRED]
  | .TBL => [.TBL_CNT_L2_FLOOD, .TBL_CNT_L2_UNK_DROP, .TBL_CNT_VLAN_DROP, .TBL_CNT_APPID_DROP, .TBL_CNT_LPM_MISS,
      .TBL_CNT_LPM_DROP, .TBL_CNT_TTL_DROP, .TBL_CNT_LEARN, .TBL_CNT_LEARN_MOVE, .TBL_CNT_LEARN_DROP,
      .TBL_CNT_INS_FAIL, .TBL_CNT_RESTART, .TBL_CNT_PROTECT, .TBL_CNT_AGE_DEL, .TBL_CNT_AGE_KEEP]
  | .FLW => [.FLW_CNT_LOOKUP, .FLW_CNT_HIT, .FLW_CNT_CACHE_HIT, .FLW_CNT_INS_OK, .FLW_CNT_NEW_FWD,
      .FLW_CNT_NEW_DROP, .FLW_CNT_NEW_SAMPLE, .FLW_CNT_DENY, .FLW_CNT_HANDOFF, .FLW_CNT_HANDOFF_DROP,
      .FLW_CNT_NAT_SKIP, .FLW_CNT_LB_NONE, .FLW_CNT_GOOSE_GAP, .FLW_CNT_GOOSE_DUP, .FLW_CNT_GOOSE_TAL,
      .FLW_CNT_TEL_DROP, .FLW_CNT_REC_EXHAUST]
  | .SAU => [.SAU_CNT_ACCEPT, .SAU_CNT_UNSUB, .SAU_CNT_DUP, .SAU_CNT_SLICE, .SAU_CNT_DL_CLOSE,
      .SAU_CNT_PATCH, .SAU_CNT_LATE, .SAU_CNT_TOK_REF, .SAU_CNT_PUB, .SAU_CNT_RETX,
      .SAU_CNT_RETX_SKIP]
  | .SWC => [.SWC_CNT_GRANT, .SWC_CNT_SPILL, .SWC_CNT_ESC_GRANT, .SWC_CNT_POOL_DROP, .SWC_CNT_ESC_DROP,
      .SWC_CNT_OVERRUN, .SWC_CNT_OVERSIZE, .SWC_CNT_REPLICA, .SWC_CNT_REPL_FULL, .SWC_CNT_RG_EMPTY,
      .SWC_CNT_INSET_SKIP, .SWC_CNT_INSET_SHED, .SWC_CNT_OWN_ERR, .SWC_CNT_ECC_CORR, .SWC_CNT_ECC_UNCORR]
  | .TMG => [.TMG_CNT_ENQ, .TMG_CNT_DEQ, .TMG_CNT_TAIL_DROP, .TMG_CNT_ENTRY_DROP, .TMG_CNT_NOQ,
      .TMG_CNT_RESV_DROP, .TMG_CNT_LINKDOWN, .TMG_CNT_VOID, .TMG_CNT_WHEEL_LATE]
  | .ENG => [.ENG_CNT_INSN, .ENG_CNT_TASK_END, .ENG_CNT_CTX_SW, .ENG_CNT_EXC, .ENG_CNT_EMIT,
      .ENG_CNT_EMIT_REF, .ENG_CNT_CONT_STALE, .ENG_CNT_CONT_DROP, .ENG_CNT_TMR_FIRE, .ENG_CNT_PKSEND,
      .ENG_CNT_BUF_LEAK, .ENG_CNT_ECC_CORR, .ENG_CNT_ECC_UNCORR]
  | .TSK => [.TSK_CNT_TOKEN, .TSK_CNT_REFUSED, .TSK_CNT_FIRE, .TSK_CNT_PREEMPT, .TSK_CNT_MATCH_TMO,
      .TSK_CNT_ABORT, .TSK_CNT_P_VIOL, .TSK_CNT_HOLD, .TSK_CNT_FAULT_TMO, .TSK_CNT_DRAIN_DISC]
  | .MMU => [.MMU_CNT_WALK, .MMU_CNT_FAULT, .MMU_CNT_FR_OVF, .MMU_CNT_PRI_REQ, .MMU_CNT_PRI_FAIL,
      .MMU_CNT_DMA_DONE, .MMU_CNT_DMA_LATE, .MMU_CNT_DMA_ABORT]
  | .AUT => [.AUT_CNT_SIGN, .AUT_CNT_VERIFY, .AUT_CNT_VFY_FAIL, .AUT_CNT_INLINE, .AUT_CNT_INLINE_FAIL,
      .AUT_CNT_QUEUE_DROP, .AUT_CNT_REFUSED, .AUT_CNT_WITHHELD, .AUT_CNT_ABORTED, .AUT_CNT_KEY_LOAD]
  | .MEM => [.MEM_CNT_READ, .MEM_CNT_WRITE, .MEM_CNT_RMW, .MEM_CNT_WQ_FWD, .MEM_CNT_CORR,
      .MEM_CNT_UNCORR, .MEM_CNT_UNC_DROP, .MEM_CNT_NR_ISSUED, .MEM_CNT_NR_OVF, .MEM_CNT_REMAP]
  | .HST => [.HST_CNT_TX_DESC, .HST_CNT_TX_ERR, .HST_CNT_RX_FRAMES, .HST_CNT_RX_NODESC, .HST_CNT_RX_TRUNC,
      .HST_CNT_ATS_INV, .HST_CNT_PRI_FAIL]
  | _ => []


/-- The 16-bit code 0xSSNN (R10). -/
def Ev.code : Ev → Nat
  | .GLB_E_MODE_REFUSED => 0x0101
  | .GLB_E_ORDER => 0x0102
  | .GLB_E_IMAGE_SIG => 0x0103
  | .GLB_E_IMAGE_KEY => 0x0104
  | .GLB_E_IMAGE_FORMAT => 0x0105
  | .GLB_E_BOOT => 0x0106
  | .GLB_E_RESTORE => 0x0107
  | .GLB_E_LEASE_HELD => 0x0108
  | .GLB_E_LEASE_ELIG => 0x0109
  | .GLB_E_LEASE_MODE => 0x010A
  | .GLB_E_IMG_CMD => 0x010B
  | .GLB_W_DRAIN_FORCED => 0x0180
  | .GLB_W_STRAP => 0x0181
  | .GLB_W_LEASE_LAPSED => 0x0182
  | .GLB_I_MODE => 0x01C0
  | .GLB_I_RESET => 0x01C1
  | .GLB_I_LEASE_GRANT => 0x01C2
  | .GLB_I_LEASE_END => 0x01C3
  | .PWR_E_VIN_UV => 0x0201
  | .PWR_E_DOM_BUSY => 0x0202
  | .PWR_E_DOM_RETIRED => 0x0203
  | .PWR_E_OVERTEMP => 0x0204
  | .PWR_E_THERMTRIP => 0x0205
  | .PWR_E_PHASE_FAIL => 0x0206
  | .PWR_E_RAIL_FAULT => 0x0207
  | .PWR_E_RANGE => 0x0208
  | .PWR_W_HOT => 0x0280
  | .PWR_W_VIN_LOW => 0x0281
  | .PWR_W_SLOWCLK_LOST => 0x0282
  | .PWR_W_CURRENT_HIGH => 0x0283
  | .PWR_I_DERATE_ON => 0x02C0
  | .PWR_I_DERATE_OFF => 0x02C1
  | .PWR_I_SLOWCLK_OK => 0x02C2
  | .TIM_E_CMD => 0x0301
  | .TIM_E_SRC => 0x0302
  | .TIM_E_CORR_OVF => 0x0303
  | .TIM_W_PPS_LOST => 0x0380
  | .TIM_W_PPS_REJECT => 0x0381
  | .TIM_W_HOLDOVER_END => 0x0382
  | .TIM_I_LOCKED => 0x03C0
  | .TIM_I_STEP => 0x03C1
  | .TIM_I_REFW_RATE => 0x03C2
  | .TIM_I_TIMEBASE => 0x03C3
  | .PRT_E_CFG => 0x0401
  | .PRT_E_SPEED => 0x0402
  | .PRT_E_VERIFY => 0x0403
  | .PRT_W_LINK_DOWN => 0x0480
  | .PRT_W_LAN_LOSS => 0x0481
  | .PRT_W_RED_FULL => 0x0482
  | .PRT_I_LINK_UP => 0x04C0
  | .PRT_I_PRE_ACTIVE => 0x04C1
  | .PAR_E_CS_UNCORR => 0x0501
  | .PAR_E_LIMIT => 0x0502
  | .PAR_E_BAD_WORD => 0x0503
  | .PAR_W_CS_CORR => 0x0580
  | .PAR_W_ENTRY_HOLD => 0x0581
  | .PAR_I_CS_LOADED => 0x05C0
  | .PAR_I_PROTECTED => 0x05C1
  | .CLS_E_PACK => 0x0601
  | .CLS_E_EDITION => 0x0602
  | .CLS_E_NOT_STAGED => 0x0603
  | .CLS_E_BUSY => 0x0604
  | .CLS_E_CAP => 0x0605
  | .CLS_E_RECIRC_LIMIT => 0x0606
  | .CLS_E_SLOW_FULL => 0x0607
  | .CLS_E_RULE_UNCORR => 0x0608
  | .CLS_W_FRAG_FULL => 0x0680
  | .CLS_W_DETACHED => 0x0681
  | .CLS_W_RULE_CORR => 0x0682
  | .CLS_I_COMMITTED => 0x06C0
  | .CLS_I_DRAINED => 0x06C1
  | .CLS_I_STAGED => 0x06C2
  | .TBL_E_FULL => 0x0701
  | .TBL_E_SIG_CLASH => 0x0702
  | .TBL_E_NOT_FOUND => 0x0703
  | .TBL_E_EXISTS => 0x0704
  | .TBL_E_BUSY => 0x0705
  | .TBL_E_ARG => 0x0706
  | .TBL_E_SEED => 0x0707
  | .TBL_E_REHASH_ACTIVE => 0x0708
  | .TBL_E_REHASH_FULL => 0x0709
  | .TBL_E_NO_CURSOR => 0x070A
  | .TBL_E_STAMP => 0x070B
  | .TBL_E_IMAGE => 0x070C
  | .TBL_W_HASH_STRESS => 0x0780
  | .TBL_W_LEARN_DROP => 0x0781
  | .TBL_I_REHASH_DONE => 0x07C0
  | .TBL_I_FLOW_CLEARED => 0x07C1
  | .TBL_I_JOURNAL_SETTLED => 0x07C2
  | .FLW_E_REC_EXHAUST => 0x0801
  | .FLW_E_HANDOFF => 0x0802
  | .FLW_E_CMD => 0x0803
  | .FLW_E_REC_LIVE => 0x0804
  | .FLW_E_REC_FREE => 0x0805
  | .FLW_E_KPROF => 0x0806
  | .FLW_E_GAZ_DUP => 0x0807
  | .FLW_E_GOOSE_LIMIT => 0x0808
  | .FLW_W_GOOSE_TAL => 0x0880
  | .FLW_W_NEWFLOW => 0x0881
  | .FLW_W_TEL_DROP => 0x0882
  | .FLW_I_REBUILT => 0x08C0
  | .SAU_E_JG_CFG => 0x0901
  | .SAU_E_RESERVE => 0x0902
  | .SAU_E_CAPACITY => 0x0903
  | .SAU_E_PUB_REFUSED => 0x0904
  | .SAU_E_CFG => 0x0905
  | .SAU_W_STREAM_LOST => 0x0980
  | .SAU_W_STREAM_FAULT => 0x0981
  | .SAU_W_TOKEN => 0x0982
  | .SAU_W_PUB_SKIP => 0x0983
  | .SAU_I_STREAM_VALID => 0x09C0
  | .SAU_I_GRID_RESET => 0x09C1
  | .SWC_E_OWNER => 0x0A01
  | .SWC_E_BUF_RANGE => 0x0A02
  | .SWC_E_LAYOUT => 0x0A03
  | .SWC_E_ESCAPE => 0x0A04
  | .SWC_E_ECC => 0x0A05
  | .SWC_W_POOL_LOW => 0x0A80
  | .SWC_W_ECC_CORR => 0x0A81
  | .SWC_W_INSET_SHED => 0x0A82
  | .SWC_I_LAYOUT => 0x0AC0
  | .TMG_E_CFG => 0x0B01
  | .TMG_W_ENTRY_LOW => 0x0B80
  | .TMG_W_WHEEL_LAG => 0x0B81
  | .ENG_E_EXCEPTION => 0x0C01
  | .ENG_E_MEM_UNCORR => 0x0C02
  | .ENG_E_LOAD_BUSY => 0x0C03
  | .ENG_E_LOAD_PART => 0x0C04
  | .ENG_E_ARG => 0x0C05
  | .ENG_E_TOKQ => 0x0C06
  | .ENG_E_CONT_FULL => 0x0C07
  | .ENG_E_TIMER_FULL => 0x0C08
  | .ENG_E_BUFLIST => 0x0C09
  | .ENG_E_NOBUF => 0x0C0A
  | .ENG_W_MEM_CORR => 0x0C80
  | .ENG_W_EMIT_REF => 0x0C81
  | .ENG_W_BUF_LEAK => 0x0C82
  | .ENG_I_LOADED => 0x0CC0
  | .TSK_E_FULL => 0x0D01
  | .TSK_E_TMPL => 0x0D02
  | .TSK_E_DUP_OPND => 0x0D03
  | .TSK_E_PERM => 0x0D04
  | .TSK_E_MODE => 0x0D05
  | .TSK_E_CMD => 0x0D06
  | .TSK_E_STALE => 0x0D07
  | .TSK_E_P_VIOLATION => 0x0D08
  | .TSK_E_TMPL_BUSY => 0x0D09
  | .TSK_W_MATCH_TMO => 0x0D80
  | .TSK_W_FAULT_TMO => 0x0D81
  | .TSK_W_FB_FULL => 0x0D82
  | .MMU_E_FAULT => 0x0E01
  | .MMU_E_RING_OVF => 0x0E02
  | .MMU_E_DMA_ABORTED => 0x0E03
  | .MMU_E_DMAQ_FULL => 0x0E04
  | .MMU_E_DMA_SEQ => 0x0E05
  | .MMU_E_PIN => 0x0E06
  | .MMU_E_CMD => 0x0E07
  | .MMU_W_PRI_TMO => 0x0E80
  | .MMU_I_INV_DONE => 0x0EC0
  | .AUT_E_NOKEY => 0x0F01
  | .AUT_E_NONCE => 0x0F02
  | .AUT_E_PARTITION => 0x0F03
  | .AUT_E_USE => 0x0F04
  | .AUT_E_TAGLEN => 0x0F05
  | .AUT_E_LENGTH => 0x0F06
  | .AUT_E_ADDR => 0x0F07
  | .AUT_E_MEM => 0x0F08
  | .AUT_E_TAG => 0x0F09
  | .AUT_E_ABORTED => 0x0F0A
  | .AUT_E_QUEUE => 0x0F0B
  | .AUT_E_KEYCMD => 0x0F0C
  | .AUT_W_NONCE => 0x0F80
  | .AUT_W_VERIFY_FAIL => 0x0F81
  | .AUT_W_SIGN_WITHHELD => 0x0F82
  | .AUT_I_KEY_LOADED => 0x0FC0
  | .MEM_E_UNCORR => 0x1001
  | .MEM_E_TRAIN => 0x1002
  | .MEM_E_NO_SPARE => 0x1003
  | .MEM_E_STACK_HOT => 0x1004
  | .MEM_E_CMD => 0x1005
  | .MEM_E_BURN => 0x1006
  | .MEM_W_CORR => 0x1080
  | .MEM_W_HOT_REFRESH => 0x1081
  | .MEM_W_NR_OVF => 0x1082
  | .MEM_W_FUSE_ENTRY => 0x1083
  | .MEM_I_INIT_DONE => 0x10C0
  | .MEM_I_REMAP => 0x10C1
  | .MEM_I_RPR_DONE => 0x10C2
  | .HST_E_FENCED => 0x1101
  | .HST_E_PARTITION => 0x1102
  | .HST_E_DESC => 0x1103
  | .HST_E_RING_CFG => 0x1104
  | .HST_E_DMA => 0x1105
  | .HST_E_GRANT => 0x1106
  | .HST_W_LINK_DOWN => 0x1180
  | .HST_W_RX_NODESC => 0x1181
  | .HST_W_PRI_STOP => 0x1182
  | .HST_I_LINK_UP => 0x11C0
  | .HST_I_FLR => 0x11C1
  | .HEA_E_CL_RETIRED => 0x1201
  | .HEA_E_LANE_RETIRED => 0x1202
  | .HEA_E_P_CAPACITY => 0x1203
  | .HEA_E_AON_ECC => 0x1204
  | .HEA_E_BURN => 0x1205
  | .HEA_W_REPLACE => 0x1280
  | .HEA_I_CAPACITY => 0x12C0
  | .FUS_E_VENDOR_CRC => 0x1301
  | .FUS_E_OWNER_CRC => 0x1302
  | .FUS_E_PROG => 0x1303
  | .FUS_E_SEALED => 0x1304
  | .FUS_E_OWNER_INVALID => 0x1305
  | .FUS_E_COND => 0x1306
  | .FUS_I_SEALED => 0x13C0
  | .MON_E_FRAME => 0x1401
  | .MON_E_CMD => 0x1402
  | .MON_E_LOCKED => 0x1403
  | .MON_W_OVERRUN => 0x1480
  | .MON_I_OPEN => 0x14C0
  | .MON_I_CLOSE => 0x14C1

/-- The event-status bit the event sets, where its block has one. -/
def Ev.stat : Ev → Option Field
  | .GLB_E_MODE_REFUSED => some .GLB_EVT_ORDER
  | .GLB_E_ORDER => some .GLB_EVT_ORDER
  | .GLB_E_IMAGE_SIG => some .GLB_EVT_IMAGE
  | .GLB_E_IMAGE_KEY => some .GLB_EVT_IMAGE
  | .GLB_E_IMAGE_FORMAT => some .GLB_EVT_IMAGE
  | .GLB_E_BOOT => some .GLB_EVT_BOOT
  | .GLB_E_RESTORE => some .GLB_EVT_BOOT
  | .GLB_E_LEASE_HELD => some .GLB_EVT_LEASE
  | .GLB_E_LEASE_ELIG => some .GLB_EVT_LEASE
  | .GLB_E_LEASE_MODE => some .GLB_EVT_LEASE
  | .GLB_E_IMG_CMD => some .GLB_EVT_IMAGE
  | .GLB_W_DRAIN_FORCED => some .GLB_EVT_MODE
  | .GLB_W_STRAP => some .GLB_EVT_BOOT
  | .GLB_W_LEASE_LAPSED => some .GLB_EVT_LEASE
  | .GLB_I_MODE => some .GLB_EVT_MODE
  | .GLB_I_RESET => some .GLB_EVT_MODE
  | .GLB_I_LEASE_GRANT => some .GLB_EVT_LEASE
  | .GLB_I_LEASE_END => some .GLB_EVT_LEASE
  | .PWR_E_VIN_UV => some .PWR_EVT_VIN_UV
  | .PWR_E_DOM_BUSY => some .PWR_EVT_DOM_REFUSED
  | .PWR_E_DOM_RETIRED => some .PWR_EVT_DOM_REFUSED
  | .PWR_E_OVERTEMP => some .PWR_EVT_OVERTEMP
  | .PWR_E_PHASE_FAIL => some .PWR_EVT_PHASE
  | .PWR_W_HOT => some .PWR_EVT_HOT
  | .PWR_W_SLOWCLK_LOST => some .PWR_EVT_SLOWCLK
  | .PWR_W_CURRENT_HIGH => some .PWR_EVT_CURLIM
  | .PWR_I_DERATE_ON => some .PWR_EVT_DERATE
  | .PWR_I_DERATE_OFF => some .PWR_EVT_DERATE
  | .TIM_E_CORR_OVF => some .TIM_EVT_CORR_OVF
  | .TIM_W_PPS_LOST => some .TIM_EVT_PPS_LOST
  | .TIM_W_HOLDOVER_END => some .TIM_EVT_HOLD_END
  | .TIM_I_LOCKED => some .TIM_EVT_LOCK
  | .TIM_I_STEP => some .TIM_EVT_STEP
  | .TIM_I_REFW_RATE => some .TIM_EVT_REFW
  | .TIM_I_TIMEBASE => some .TIM_EVT_TIMEBASE
  | .PRT_E_CFG => some .PRT_EVT_CFG
  | .PRT_E_SPEED => some .PRT_EVT_SPEED
  | .PRT_E_VERIFY => some .PRT_EVT_PRE
  | .PRT_W_LINK_DOWN => some .PRT_EVT_LINK
  | .PRT_W_LAN_LOSS => some .PRT_EVT_LAN_LOSS
  | .PRT_W_RED_FULL => some .PRT_EVT_RED_FULL
  | .PRT_I_LINK_UP => some .PRT_EVT_LINK
  | .PRT_I_PRE_ACTIVE => some .PRT_EVT_PRE
  | .PAR_E_CS_UNCORR => some .PAR_EVT_CS_UNCORR
  | .PAR_E_LIMIT => some .PAR_EVT_LIMIT
  | .PAR_E_BAD_WORD => some .PAR_EVT_LIMIT
  | .PAR_W_CS_CORR => some .PAR_EVT_CS_CORR
  | .PAR_W_ENTRY_HOLD => some .PAR_EVT_ENTRY_HOLD
  | .PAR_I_CS_LOADED => some .PAR_EVT_LOADED
  | .PAR_I_PROTECTED => some .PAR_EVT_PROTECTED
  | .CLS_E_PACK => some .CLS_EVT_CMD_ERR
  | .CLS_E_EDITION => some .CLS_EVT_CMD_ERR
  | .CLS_E_NOT_STAGED => some .CLS_EVT_CMD_ERR
  | .CLS_E_BUSY => some .CLS_EVT_CMD_ERR
  | .CLS_E_CAP => some .CLS_EVT_CMD_ERR
  | .CLS_E_RECIRC_LIMIT => some .CLS_EVT_PKT_ERR
  | .CLS_E_SLOW_FULL => some .CLS_EVT_PKT_ERR
  | .CLS_E_RULE_UNCORR => some .CLS_EVT_RULE
  | .CLS_W_FRAG_FULL => some .CLS_EVT_FRAG_FULL
  | .CLS_W_DETACHED => some .CLS_EVT_DETACHED
  | .CLS_W_RULE_CORR => some .CLS_EVT_RULE
  | .CLS_I_COMMITTED => some .CLS_EVT_COMMITTED
  | .CLS_I_DRAINED => some .CLS_EVT_DRAINED
  | .CLS_I_STAGED => some .CLS_EVT_STAGED
  | .TBL_E_REHASH_FULL => some .TBL_EVT_REHASH
  | .TBL_E_IMAGE => some .TBL_EVT_IMAGE
  | .TBL_W_HASH_STRESS => some .TBL_EVT_STRESS
  | .TBL_W_LEARN_DROP => some .TBL_EVT_LEARN_DROP
  | .TBL_I_REHASH_DONE => some .TBL_EVT_REHASH
  | .TBL_I_FLOW_CLEARED => some .TBL_EVT_CLEARED
  | .TBL_I_JOURNAL_SETTLED => some .TBL_EVT_JOURNAL
  | .FLW_E_REC_EXHAUST => some .FLW_EVT_NEWFLOW
  | .FLW_E_HANDOFF => some .FLW_EVT_TOKEN
  | .FLW_E_CMD => some .FLW_EVT_CMD
  | .FLW_E_REC_LIVE => some .FLW_EVT_CMD
  | .FLW_E_REC_FREE => some .FLW_EVT_CMD
  | .FLW_E_KPROF => some .FLW_EVT_CMD
  | .FLW_E_GAZ_DUP => some .FLW_EVT_CMD
  | .FLW_W_GOOSE_TAL => some .FLW_EVT_GOOSE
  | .FLW_W_NEWFLOW => some .FLW_EVT_NEWFLOW
  | .FLW_W_TEL_DROP => some .FLW_EVT_TOKEN
  | .FLW_I_REBUILT => some .FLW_EVT_REBUILT
  | .SAU_E_JG_CFG => some .SAU_EVT_JG
  | .SAU_E_RESERVE => some .SAU_EVT_JG
  | .SAU_E_CAPACITY => some .SAU_EVT_JG
  | .SAU_E_PUB_REFUSED => some .SAU_EVT_PUB
  | .SAU_E_CFG => some .SAU_EVT_CFG
  | .SAU_W_STREAM_LOST => some .SAU_EVT_STREAM
  | .SAU_W_STREAM_FAULT => some .SAU_EVT_STREAM
  | .SAU_W_TOKEN => some .SAU_EVT_TOKEN
  | .SAU_W_PUB_SKIP => some .SAU_EVT_PUB
  | .SAU_I_STREAM_VALID => some .SAU_EVT_STREAM
  | .SAU_I_GRID_RESET => some .SAU_EVT_GRID
  | .SWC_E_OWNER => some .SWC_EVT_OWNER
  | .SWC_E_BUF_RANGE => some .SWC_EVT_OWNER
  | .SWC_E_LAYOUT => some .SWC_EVT_LAYOUT
  | .SWC_E_ESCAPE => some .SWC_EVT_ESCAPE
  | .SWC_E_ECC => some .SWC_EVT_ECC
  | .SWC_W_POOL_LOW => some .SWC_EVT_POOL
  | .SWC_W_ECC_CORR => some .SWC_EVT_ECC
  | .SWC_W_INSET_SHED => some .SWC_EVT_SHED
  | .SWC_I_LAYOUT => some .SWC_EVT_LAYOUT
  | .TMG_E_CFG => some .TMG_EVT_CFG
  | .TMG_W_ENTRY_LOW => some .TMG_EVT_ENTRY
  | .TMG_W_WHEEL_LAG => some .TMG_EVT_WHEEL
  | .ENG_E_EXCEPTION => some .ENG_EVT_EXC
  | .ENG_E_MEM_UNCORR => some .ENG_EVT_MEM
  | .ENG_E_LOAD_BUSY => some .ENG_EVT_LOAD_ERR
  | .ENG_E_LOAD_PART => some .ENG_EVT_LOAD_ERR
  | .ENG_W_MEM_CORR => some .ENG_EVT_MEM
  | .ENG_W_EMIT_REF => some .ENG_EVT_EMIT
  | .ENG_W_BUF_LEAK => some .ENG_EVT_LEAK
  | .ENG_I_LOADED => some .ENG_EVT_LOADED
  | .TSK_E_TMPL => some .TSK_EVT_CMD
  | .TSK_E_CMD => some .TSK_EVT_CMD
  | .TSK_E_STALE => some .TSK_EVT_CMD
  | .TSK_E_P_VIOLATION => some .TSK_EVT_VIOL
  | .TSK_E_TMPL_BUSY => some .TSK_EVT_CMD
  | .TSK_W_MATCH_TMO => some .TSK_EVT_MATCH_TMO
  | .TSK_W_FAULT_TMO => some .TSK_EVT_FAULT_TMO
  | .TSK_W_FB_FULL => some .TSK_EVT_FB
  | .MMU_E_FAULT => some .MMU_EVT_FAULT
  | .MMU_E_RING_OVF => some .MMU_EVT_FAULT
  | .MMU_E_PIN => some .MMU_EVT_PIN
  | .MMU_E_CMD => some .MMU_EVT_INV
  | .MMU_W_PRI_TMO => some .MMU_EVT_PRI
  | .MMU_I_INV_DONE => some .MMU_EVT_INV
  | .AUT_E_NONCE => some .AUT_EVT_NONCE
  | .AUT_E_MEM => some .AUT_EVT_MEM
  | .AUT_E_KEYCMD => some .AUT_EVT_KEY
  | .AUT_W_NONCE => some .AUT_EVT_NONCE
  | .AUT_W_VERIFY_FAIL => some .AUT_EVT_VERIFY
  | .AUT_W_SIGN_WITHHELD => some .AUT_EVT_WITHHELD
  | .AUT_I_KEY_LOADED => some .AUT_EVT_KEY
  | .MEM_E_UNCORR => some .MEM_EVT_ECC
  | .MEM_E_TRAIN => some .MEM_EVT_INIT
  | .MEM_E_NO_SPARE => some .MEM_EVT_REMAP
  | .MEM_E_STACK_HOT => some .HEA_EVT_FATAL
  | .MEM_E_CMD => some .MEM_EVT_RPR
  | .MEM_E_BURN => some .MEM_EVT_RPR
  | .MEM_W_CORR => some .MEM_EVT_ECC
  | .MEM_W_HOT_REFRESH => some .MEM_EVT_HOT
  | .MEM_W_NR_OVF => some .MEM_EVT_NR
  | .MEM_W_FUSE_ENTRY => some .MEM_EVT_REMAP
  | .MEM_I_INIT_DONE => some .MEM_EVT_INIT
  | .MEM_I_REMAP => some .MEM_EVT_REMAP
  | .MEM_I_RPR_DONE => some .MEM_EVT_RPR
  | .HST_E_FENCED => some .HST_EVT_FENCE
  | .HST_E_PARTITION => some .HST_EVT_PART
  | .HST_E_RING_CFG => some .HST_EVT_PART
  | .HST_E_DMA => some .HST_EVT_DMA
  | .HST_E_GRANT => some .HST_EVT_PART
  | .HST_W_LINK_DOWN => some .HST_EVT_LINK
  | .HST_W_RX_NODESC => some .HST_EVT_RX
  | .HST_W_PRI_STOP => some .HST_EVT_DMA
  | .HST_I_LINK_UP => some .HST_EVT_LINK
  | .HST_I_FLR => some .HST_EVT_LINK
  | .HEA_E_CL_RETIRED => some .HEA_EVT_RETIRE
  | .HEA_E_LANE_RETIRED => some .HEA_EVT_RETIRE
  | .HEA_E_P_CAPACITY => some .HEA_EVT_RETIRE
  | .HEA_E_AON_ECC => some .HEA_EVT_FATAL
  | .HEA_E_BURN => some .HEA_EVT_RETIRE
  | .HEA_W_REPLACE => some .HEA_EVT_REPLACE
  | .HEA_I_CAPACITY => some .HEA_EVT_CAP
  | .FUS_E_VENDOR_CRC => some .FUS_EVT_VENDOR_CRC
  | .FUS_E_OWNER_CRC => some .FUS_EVT_OWNER_CRC
  | .FUS_E_PROG => some .FUS_EVT_PROG
  | .FUS_E_SEALED => some .FUS_EVT_PROG
  | .FUS_E_OWNER_INVALID => some .FUS_EVT_PROG
  | .FUS_E_COND => some .FUS_EVT_PROG
  | .FUS_I_SEALED => some .FUS_EVT_SEALED
  | _ => none

/-- The kind a code belongs to (Table 00.5): NN 0x01-0x7F error, 0x80-0xBF warning, 0xC0-0xFF information. -/
def Ev.kind (e : Ev) : EvKind :=
  if e.code % 256 < 0x80 then .error else if e.code % 256 < 0xC0 then .warning else .info


end Sys2Proof
end

