-- ==== Sys2Proof/Machine/Lane.lean ====
section
/-! DEFINITION. Key slots, and the places of authentication work among the lanes, as data (spec/15 R413, R414). -/

namespace Sys2Proof.Machine

open Sys2Proof

/-- A loaded key slot (R414). -/
structure KeySlot where
  alg    : Nat               -- 1 GMAC AES-128, 2 GMAC AES-256, 3 HMAC-SHA256
  key    : List Byte
  salt   : Nat
  ctr    : Nat               -- invocation counter, 64 bits
  tagLen : Nat
  sign   : Bool
  verify : Bool
  locked : Bool
  warned : Bool
  deriving DecidableEq, Repr

/-- A GMAC slot. -/
def KeySlot.gmac (k : KeySlot) : Bool := k.alg ≠ 3

/-- The place of an operation (R413): its order of arrival, its lane once it has started (0 to 7 GMAC, 8 to 11 HMAC),
whether it is parked there, and the message bytes of the segments it has still to run. -/
structure Seat where
  arr    : Nat
  lane   : Option Nat
  parked : Bool
  left   : Nat
  deriving DecidableEq, Repr

/-- A seat among lanes `a` to `a` + `n` - 1. -/
def Seat.onLanes (x : Seat) (a n : Nat) : Bool := (x.lane.map fun l => a ≤ l && l < a + n).getD false

end Sys2Proof.Machine
end

