-- ==== Sys2Proof/Machine/Table.lean ====
section
/-! DEFINITION. Table entries, learn requests, relocations and command windows as data (spec/08), cached hot halves and pending verifications (spec/09, spec/15 R423). -/

namespace Sys2Proof.Machine

open Sys2Proof

/-- An L2 entry (Table 08.3). The two copies hold the same entries in the same slots and differ in L2_AGE alone (R202),
but where a pipeline lost its copy with its power domain. -/
structure L2Ent where
  gen    : Nat
  static : Bool
  grp    : Bool
  origin : Nat
  dst    : Nat
  age0   : Nat                 -- L2_AGE of copy 0
  age1   : Nat                 -- L2_AGE of copy 1
  mac    : Nat
  fid    : Nat
  fresh  : Bool                -- placed under the new seed of a live REHASH (R225)
  copies : Nat                 -- pipelines whose copy holds it, one bit each
  deriving DecidableEq, Repr

/-- The entry without pipeline `p`'s copy; none where no copy is left. -/
def L2Ent.lose (e : L2Ent) (p : Nat) : Option L2Ent :=
  let c := e.copies.land (2 - p)
  if c = 0 then none else some { e with copies := c }

/-- A route of a trie (R209, R210). -/
structure Route where
  pfx  : Nat                   -- left-aligned in 32 or 128 bits
  len  : Nat
  nh   : Nat
  drop : Bool
  deriving DecidableEq, Repr

/-- A flow slot (Table 09.1), and the half-0 bucket a stash entry holds besides. -/
structure FSlot where
  sig   : Nat
  phase : Bool
  rcd   : Nat
  i0    : Nat
  deriving DecidableEq, Repr

/-- A hardware learning request (R204, R244). -/
inductive Learn where
  | l2 (mac fid port pipe : Nat)
  | flow (key : List Byte) (rcd : List Byte)    -- the record the request creates,
      (pkt : Nat) (policy : Nat)                -- the packet that made it and its CLS_A_NEWFLOW (R243)
  deriving DecidableEq, Repr

/-- A journalled relocation (R217): source and destination bucket and slot, and whether its copy was written; bucket 2^28
stands for the stash. The own move of a REHASH carries the signature and half-0 bucket under the new seed (R225). -/
structure Move where
  l2     : Bool
  srcB   : Nat
  srcS   : Nat
  dstB   : Nat
  dstS   : Nat
  copied : Bool
  mig    : Option (Nat × Nat)
  deriving DecidableEq, Repr

/-- A TMS command with the inputs its window keeps (R216). -/
structure TCmd where
  op   : Nat
  last : Nat                   -- operation as started: RESUME runs another
  tgt  : Nat
  fl   : Nat                   -- flags [3:0]: REPLACE, IF_STAMP, STATIC, SEED
  arg  : Nat
  addr : Nat
  pos  : Nat                   -- cursor
  cnt  : Nat
  key  : List Byte
  data : List Byte
  deriving DecidableEq, Repr

/-- A command window (R211): command in progress, an ABORTED one that can resume, abandonments in a row, a protected
routine, an ABORT that waits for its end (R218), and what a NEXT walk has returned so far, by target and key (R219). -/
structure Win where
  cmd   : Option TCmd
  last  : Option TCmd
  tries : Nat
  prot  : Bool
  abort : Bool
  walked : List (Nat × List Byte)
  deriving DecidableEq, Repr

/-- An entry found expired, with the stamp read (R223). -/
structure Expired where
  l2    : Bool
  loc   : Nat                  -- bucket * slots + slot, or 2^31 + stash position
  stamp : Nat
  sig   : Nat
  deriving DecidableEq, Repr

/-- A cached hot half (R240, R241). -/
structure Hot where
  digest : BitVec 64
  bytes  : List Byte
  dirty  : Bool
  used   : Nat                 -- order of last use
  deriving DecidableEq, Repr

end Sys2Proof.Machine
end

