-- ==== Sys2Proof/Machine/Packet.lean ====
section
/-! DEFINITION. Packets, parses, buffers and queue entries as data (spec/01 Table 01.4, spec/06, spec/11, spec/12). -/

namespace Sys2Proof.Machine

open Sys2Proof

/-- Where a packet stands on the frame path (Table 01.4). -/
inductive Stage where
  | fifo              -- waits for a pipeline slot: port FIFO, port 60 queue, host or steward queue, recirculation
  | entry             -- granted a slot, waits for a lane (R130)
  | lane (n : Nat)    -- parsing in lane n
  | restart           -- in the restart queue (R155)
  | classify          -- parse ended, waits for step 4
  | forward           -- waits for step 5
  | flow              -- waits for step 6
  | pool              -- at step 7, waits for a buffer
  | repl              -- has a buffer, in the replication FIFO (R306)
  | verify            -- in its pipeline's verification queue (R423)
  | stored            -- its replicas exist; listed only while the frame still arrives
  | parked            -- parked on the slow path (R171)
  | engine            -- handed to an engine (R19)
  deriving DecidableEq, Repr

/-- Destination of a packet. -/
inductive Dest where
  | discard
  | ports (mask : Nat)
  | group (g : Nat)
  deriving DecidableEq, Repr

/-- Rewrites applied at egress (R249) and what a transmission reports. -/
structure Rewrite where
  vid     : Option Nat            -- VID of a route (R210)
  da      : Option Nat            -- DA of a route; the SA is TBL_RMAC
  ttl     : Bool
  nat     : Nat                   -- FL_A_NAT mode; 0 none
  natAddr : Nat
  natPort : Nat
  l3      : Nat                   -- PR_L3_KIND
  l4      : Nat                   -- PR_L4_OFF
  nonFirst : Bool                 -- a non-first fragment: NAT replaces the address only
  tci     : Nat                   -- PR_VLAN
  ptp     : Option (Nat × Bool × Nat)   -- PTP mark: message, over UDP, header offset (R150)
  egTs    : Bool                  -- an egress timestamp is requested (R98)
  rxFree  : Nat                   -- step-free instant of reception, 2^-32 ns (R100)
  srcPort : Nat
  sender  : Nat                   -- owner ID of the engine context or host that sent the packet; 0 none
  origin  : Bool                  -- its sender asks for the egress timestamp in originTimestamp (R100)
  deriving DecidableEq, Repr

/-- No rewrite. -/
def Rewrite.none : Rewrite :=
  { vid := Option.none, da := Option.none, ttl := false, nat := 0, natAddr := 0, natPort := 0, l3 := 0, l4 := 0,
    nonFirst := false, tci := 0, ptp := Option.none, egTs := false, rxFree := 0, srcPort := 0, sender := 0, origin := false }

/-- What the flow unit leaves for the token of a hand-off or a park: template, record or none, signature, context, kind. -/
structure HandOff where
  tmpl : Nat
  rcd  : Option Nat
  sig  : Nat
  ctx  : Nat
  kind : Nat
  deriving DecidableEq, Repr

/-- What a packet carries through inline verification (R423): its flow key, its record or none, the hot half, the key
slot, its place among the lanes, the slot's content at its start (R417), and the status of a check of Table 15.2 that
failed. -/
structure Verify where
  key  : List Byte
  rcd  : Option Nat
  hot  : List Byte
  slot : Nat
  seat : Seat
  bound : Option KeySlot
  fail : Option Nat
  deriving DecidableEq, Repr

/-- What the read-only lookups of a parse found when their slots were sealed (R145): FID and L2 entries of the DA and the
SA, APPID entry, longest route. -/
structure Looks where
  fid   : Nat
  da    : Option L2Ent
  sa    : Option L2Ent
  appid : BitVec 64
  route : Option Route
  deriving DecidableEq, Repr

/-- No lookup yet. -/
def Looks.none : Looks := { fid := 0, da := Option.none, sa := Option.none, appid := 0, route := Option.none }

/-- What step 5 left of a packet that is handled as a hit on a record to come (R243). -/
structure Step5 where
  dest   : Dest
  prune  : Option Nat
  tc     : Nat
  rw     : Rewrite
  insets : Nat
  deriving DecidableEq, Repr

/-- Packet-local state of a parse (R153). -/
structure Parse where
  upc      : Nat
  win      : Nat
  s        : List Nat              -- S0 to S7
  rcd      : List Byte             -- the 96-byte parse record (R144)
  sealed   : SMap (List Byte)      -- key-builder slots sealed, by slot
  cur      : Nat                   -- BER cursor
  stack    : List Nat              -- enclosing value ends, innermost first
  berEnd   : Nat                   -- outermost enclosing end, set by START
  tag      : Nat                   -- BER_TAG
  len      : Nat                   -- BER_LEN
  valOff   : Nat
  constr   : Bool                  -- the last decoded identifier is constructed
  uf       : Nat                   -- UF7 to UF0
  tc       : Nat
  dp       : Nat
  ptp      : Option (Nat × Bool × Nat)
  egTs     : Bool
  cls      : Nat
  mark     : Nat
  codes    : List Nat              -- mark and drop codes recorded
  committed : Bool
  post     : Nat                   -- clocks since the clock of the commit word
  clk      : Nat                   -- occupancy so far
  wait     : Option (Nat × Nat)    -- a word holds: its address and clocks since its first
  opnd     : Nat                   -- comparator operand of the word that holds
  flags    : Nat                   -- flags of the word that holds: CEQ CLT CGT EXA EXB BOK BERR BDONE BFOUND
  scan     : Option Nat            -- start offset of the pattern scan
  scanDone : Bool
  stall    : Nat                   -- clocks the current word has stalled for data (R138)
  limit    : Nat                   -- PAR_CLK_LIMIT and PAR_DBG_FLAG when the parse started (R161)
  dbg      : Bool
  look     : Looks
  learned  : Bool                  -- its learning has taken place (R145)
  pmtIgn   : Bool                  -- a pattern scan start was ignored (R149)
  deriving DecidableEq, Repr

/-- A packet between ingress and the creation of its replicas. -/
structure Packet where
  id       : Nat
  src      : Nat                   -- port ID of the source: 0-47, 56-60, 63
  kind     : Nat                   -- entry word of its next parse (Table 06.1)
  pipe     : Nat
  bytes    : List Byte             -- DA up to the FCS, as far as received
  whole    : Bool                  -- received in full, FCS checked
  express  : Bool
  tsSec    : Nat
  tsNs     : Nat
  rxFree   : Nat
  redTag   : Bool                  -- a PRP trailer or HSR tag recognised at step 2 is still on it
  tcHint   : Nat                   -- traffic class of the source metadata (R150)
  sender   : Nat                   -- owner ID of a context or host that sent it; 0 none
  egReq    : Bool                  -- its sender asks for an egress timestamp
  origin   : Bool                  -- insert-origin flag (R100)
  buf      : Option Nat            -- handle of the buffer it holds (R295)
  stage    : Stage
  tag      : Option (Bool × Nat)   -- edition tag: bank B, number
  counted  : Bool                  -- counted in its bank's in-flight count (R185)
  pass     : Nat                   -- 1 or 2 (R170)
  detached : Bool                  -- entered at word 0x006
  due      : Bool                  -- edition-detached since: enters there next (R173, R189)
  resumed  : Bool                  -- returned from the slow path
  entered  : Nat                   -- order of entry into its sequencer (R131)
  restarts : Nat
  preempts : Nat
  guarded  : Bool                  -- protected parse (R157)
  parse    : Parse
  act      : BitVec 64             -- classifier action word applied
  fragPorts : List Byte            -- ports a resolved fragment takes from its entry (R178)
  frag     : Nat                   -- CLS_K_FRAG_V of its classification, 2 resolved
  tc       : Nat
  dp       : Nat
  dest     : Dest
  prune    : Option Nat            -- ingress port left out of a flood
  rw       : Rewrite
  insets   : Nat                   -- Inset sessions that copy it, bit s
  hand     : Option HandOff        -- token owed at step 7 (R304)
  raw      : Bool                  -- forwarded around a ring as received: no egress rewrite (R122)
  slice    : Option (Nat × List Byte)   -- stream and Graticule descriptor (R253, R263)
  pin      : Nat                   -- PIN (R307)
  verify   : Option Verify
  before   : Option Step5          -- while an insertion request stands for its record
  lenDue   : Option (List Byte)    -- flow key whose record takes the frame length once it is known
  holdEnd  : Option Nat            -- a refused protected packet: step-free ns at which its hold ends (R300)
  parkOwner : Nat                  -- owner ID that a park names
  parkedAt : Nat                   -- step-free ns of the park
  deriving DecidableEq, Repr

/-- State of a buffer descriptor (R301). -/
inductive BufSt where
  | held | shared | releasing
  deriving DecidableEq, Repr

/-- A buffer in use: its descriptor (R301) and the frame it holds. A FREE buffer is not listed. -/
structure Buf where
  owner  : Nat
  st     : BufSt
  count  : Nat
  insets : Nat
  bytes  : List Byte
  order  : Nat            -- grants made before it: the oldest has the least
  pkt    : Option Packet  -- metadata of the packet it holds, for engines and hosts
  deriving DecidableEq, Repr

/-- A redundancy trailer or tag to be generated at egress: HSR, LAN B, sequence number (R118). -/
structure Red where
  hsr  : Bool
  lanB : Bool
  seq  : Nat
  deriving DecidableEq, Repr

/-- A queue entry (R321). -/
structure QEnt where
  buf    : Nat
  len    : Nat                 -- frame length including FCS
  tc     : Nat
  dp     : Nat
  rw     : Rewrite
  owner  : Bool                -- the replica that owns the buffer
  inset  : Option Nat          -- an Inset copy of this session
  trunc  : Nat
  vport  : Nat                 -- port whose rewrite it carries (R309)
  void   : Bool                -- voided under R311
  red    : Option Red
  pub    : Option Nat          -- a GOOSE transmission of this publication
  raw    : Bool                -- sent as received: no egress rewrite
  pkt    : Nat                 -- packet, while its frame still arrives
  deriving DecidableEq, Repr

/-- A queue: entries oldest first and its tags (R325). -/
structure Queue where
  ents  : List QEnt
  s     : Nat
  f     : Nat
  fLast : Nat
  deriving DecidableEq, Repr

/-- A transmission in progress. -/
structure Tx where
  ent    : QEnt
  q      : Nat                 -- queue
  tsFree : Nat                 -- step-free instant of its first octet
  tsNow  : Nat                 -- egress timestamp, 2^-32 ns of Meridian
  sent   : Nat                 -- data octets sent in earlier fragments
  frags  : Nat                 -- fragments sent
  deriving DecidableEq, Repr

/-- A fresh parse. -/
def Parse.fresh (upc tc : Nat) : Parse :=
  { upc := upc, win := 0, s := List.replicate 8 0, rcd := List.replicate 96 0#8, sealed := [], cur := 0, stack := [],
    berEnd := 0, tag := 0, len := 0, valOff := 0, constr := false, uf := 0, tc := tc, dp := 0, ptp := none,
    egTs := false, cls := 0, mark := 0, codes := [], committed := false, post := 0, clk := 0, wait := none, opnd := 0,
    flags := 0, scan := none, scanDone := false, stall := 0, limit := 512, dbg := false,
    look := Looks.none, learned := false, pmtIgn := false }

/-- A packet as its source offers it. -/
def Packet.offered (id src kind pipe : Nat) (bytes : List Byte) : Packet :=
  { id := id, src := src, kind := kind, pipe := pipe, bytes := bytes, whole := true, express := false, tsSec := 0,
    tsNs := 0, rxFree := 0, redTag := false, tcHint := 0, sender := 0, egReq := false, origin := false, buf := none, stage := .fifo,
    tag := none, counted := false, pass := 1, detached := false, due := false, resumed := false, entered := 0, restarts := 0, preempts := 0,
    guarded := false, parse := Parse.fresh kind 0, act := 0, fragPorts := [], frag := 0, tc := 0, dp := 0, dest := .discard,
    prune := none, rw := Rewrite.none, insets := 0, hand := none, raw := false, slice := none, pin := 0, verify := none, before := none, lenDue := none, holdEnd := none,
    parkOwner := 0, parkedAt := 0 }

/-- A classifier rule (R167). -/
structure Rule where
  value : BitVec 384
  mask  : BitVec 384
  act   : BitVec 64
  deriving DecidableEq, Repr

/-- A payload pattern (R174). -/
structure Pat where
  caseless : Bool
  group    : Nat
  minOff   : Nat
  maxOff   : Nat
  bytes    : List Byte
  deriving DecidableEq, Repr

/-- An edition pack's content (Table 07.4). -/
structure Edition where
  num    : Nat
  reseed : Bool
  dflt   : BitVec 64
  profs  : List (List Nat)      -- 32 key profiles of 10 selectors
  rules  : List Rule
  pats   : List Pat
  deriving DecidableEq, Repr

/-- No edition. -/
def Edition.none : Edition := { num := 0, reseed := false, dflt := 0, profs := [], rules := [], pats := [] }

/-- Bank states (Table 07.5). -/
inductive BankSt where
  | empty | installing | staged | live | draining
  deriving DecidableEq, Repr

/-- A bank of the rule store. -/
structure Bank where
  st       : BankSt
  ed       : Edition
  hits     : SMap (BitVec 64)    -- rule hit counters
  off      : SMap Bool           -- disabled rules (R169)
  inflight : Nat                 -- R185
  deriving DecidableEq, Repr

/-- A fragment decision entry (R175). -/
structure Frag where
  key   : List Byte
  bankB : Bool
  num   : Nat
  rule  : Option Nat             -- winning rule, or the default action
  act   : BitVec 64
  ports : List Byte              -- PR_SPORT and PR_DPORT
  time  : Nat                    -- Meridian time of creation, 2^-32 ns
  deriving DecidableEq, Repr

end Sys2Proof.Machine
end

