-- ==== Sys2Proof/Machine/Task.lean ====
section
/-! DEFINITION. Templates, tokens, matching-store entries and Field book records as data (spec/14 R374-R386). -/

namespace Sys2Proof.Machine

open Sys2Proof

/-- A template record (Table 14.1). -/
structure Tmpl where
  cls     : Nat              -- 0 P, 1 T, 2 F, 3 B
  nopnd   : Nat
  entry   : Nat
  clmask  : Nat
  engmask : Nat
  asid    : Nat
  perm    : Nat
  tmo     : Nat
  budget  : Nat
  pins    : List (Nat × Nat)  -- pinned regions: device virtual address bits [47:16], length in 64 KiB pages
  deriving DecidableEq, Repr

/-- A token (Table 14.2). -/
structure Token where
  tmpl  : Nat
  pos   : Nat
  tag   : Nat
  value : Nat
  isBuf : Bool
  pin   : Nat                -- 31: not pinned
  grat  : Option Nat         -- a Graticule token of this join group (SAU_JG_TOK_OUT)
  deriving DecidableEq, Repr

/-- A matching-store entry (R378). A ready entry stands in the queue of a cluster once R380 has chosen one. -/
structure MEnt where
  tmpl    : Nat
  tag     : Nat
  toks    : List Token
  ready   : Bool
  cluster : Nat              -- cluster chosen, once ready
  order   : Nat              -- ready entries dispatch in the order in which they became ready (R382)
  deriving DecidableEq, Repr

/-- A Field book record (Table 14.5). -/
structure FbRec where
  time : Nat
  kind : Nat
  cls  : Nat
  ctx  : Nat
  tmpl : Nat
  seq  : Nat
  tag  : Nat
  data : Nat
  deriving DecidableEq, Repr

end Sys2Proof.Machine
end

