-- ==== Sys2Proof/Machine/Work.lean ====
section
/-! DEFINITION. Key slots, streams, slices and publications, contexts, timers, address-translation entries and transfers
as data (spec/10, spec/13, spec/14, spec/15). -/

namespace Sys2Proof.Machine

open Sys2Proof

/-- An accepted key command that has not committed (R417): the slot and its new content, none for ERASE. -/
structure KeyCmd where
  slot : Nat
  new  : Option KeySlot
  deriving DecidableEq, Repr

/-- An engine authentication operation accepted and not over (R360, R420). From its start in a lane it is bound to the
slot's content at that moment (R417) and holds its invocation value. -/
structure AuthOp where
  ctx    : Nat
  gen    : Nat
  async  : Bool              -- the status goes by continuation token
  tag    : Nat
  rd     : Nat
  orphan : Bool              -- the waiting context was pre-empted (Table 13.12)
  code   : Nat
  slot   : Nat
  key    : KeySlot
  inv    : Nat               -- invocation value of a signing
  seat   : Seat
  src    : Nat
  dst    : Nat
  srcBuf : Bool
  dstBuf : Bool
  len    : Nat
  rcd    : Tmpl              -- template record of the task that issued it
  deriving DecidableEq, Repr

/-- Supervision of a stream (R266): its latest accepted instant (second, smpCnt) and the samples without a gap. -/
structure Strm where
  latest : Option (Nat × Nat)   -- second + 1 and count of the latest accepted sample
  run    : Nat
  deriving DecidableEq, Repr

/-- An open slice: its grid instant and the member areas written, little-endian (R272, R277). -/
structure Slice where
  sec   : Nat
  n     : Nat
  areas : SMap (List Byte)
  deriving DecidableEq, Repr

/-- A join group's run: the next grid instant to open, slices open now, instants closed with their sequence numbers
(newest first), held values with their ages, and the patch sequence. -/
structure Grp where
  front : Option (Nat × Nat)
  opens : List Slice
  done  : List (Nat × Nat × Nat)
  hold  : SMap (Nat × List Byte)
  patch : Nat
  deriving DecidableEq, Repr

/-- A publication: its stored frame without FCS, the index of its next retransmission interval, the times in force since
its last state change, and whether it has been enabled and not published since (R282, R284, R292). -/
structure Pub where
  frame : List Byte
  j     : Nat
  tmin  : Nat
  tmax  : Nat
  fresh : Bool
  deriving DecidableEq, Repr

/-- States of a context (ENG_CTX_STATE). -/
inductive CtxSt where
  | free | ready | running | stalled | awaiting | faulted
  deriving DecidableEq, Repr

/-- A destination and value held for COMMIT (R353): the destination word, the continuation form, the value. -/
structure HeldTok where
  dest  : BitVec 64
  cont  : Bool
  value : BitVec 64
  deriving DecidableEq, Repr

/-- A hardware context (R339, R340, R384). -/
structure Ctx where
  st     : CtxSt
  gen    : Nat
  tmpl   : Nat
  cls    : Nat
  rcd    : Tmpl              -- the template record at the firing
  tag    : Nat
  pc     : Nat
  g      : SMap (BitVec 64)  -- g1 to g31; g0 reads 0
  v      : SMap (BitVec 256)
  held   : List HeldTok
  cont   : List (Nat × BitVec 64)   -- continuation queue: tag and value, oldest first
  bufs   : List Nat
  cycle  : Nat
  dmaw   : Option Nat        -- AWAITING for this transfer, outside the engine (R396)
  auth   : Bool              -- STALLED for a synchronous authentication
  svc    : Bool              -- FAULTED and held for service (R399)
  code   : Nat               -- exception code of the fault
  deriving DecidableEq, Repr

/-- An armed cluster timer (R362). Times: the step-free count or Meridian, in ns. -/
structure Timer where
  dest     : BitVec 64
  cont     : Bool
  absolute : Bool
  due      : Nat
  period   : Nat             -- 0: one shot
  cls      : Nat             -- class, permission and cluster of the task that armed it (R379)
  any      : Bool
  deriving DecidableEq, Repr

/-- A TLB entry (R389, R391). `page` counts 64 KiB pages, or 2 MiB pages where `big`. -/
structure TlbEnt where
  asid   : Nat
  big    : Bool
  page   : Nat
  pte    : Nat
  locked : Bool
  deriving DecidableEq, Repr

/-- State of a transfer. -/
inductive DmaSt where
  | queued | running
  | fault                    -- suspended on a device-memory fault, waits for service
  | page                     -- suspended on an absent host page, its page request outstanding
  | pageWait                 -- suspended on an absent host page, waits for one of the cluster's 4 requests (R392)
  deriving DecidableEq, Repr

/-- A transfer without an outcome (R393). -/
structure Dma where
  cl     : Nat
  seq    : Nat
  ctx    : Nat
  gen    : Nat
  cls    : Nat
  rcd    : Tmpl
  tmpl   : Nat               -- template number and tag of its task
  ttag   : Nat
  desc   : Nat               -- address of its descriptor in the engine's DMEM
  op     : Nat
  notify : Bool
  order  : Bool
  tag    : Nat
  len    : Nat
  src    : Nat
  dst    : Nat
  sk     : Nat
  dk     : Nat
  done   : Nat
  st     : DmaSt
  va     : Nat               -- address of the fault
  cause  : Nat               -- its cause (Table 14.7)
  port   : Nat               -- host of the absent page
  deriving DecidableEq, Repr

/-- An egress timestamp that the sender of a packet awaits (R358, R462): the packet's buffer and its grant; a continuation
address and tag, or a TX ring. -/
structure TsReq where
  buf   : Nat
  order : Nat
  ctx   : Option (Nat × Nat)
  ring  : Nat
  deriving DecidableEq, Repr

/-- A TX descriptor acted on whose completion is not written (R462): its index and host address, its status, and the
timestamp it waits for (buffer and grant). -/
structure TxC where
  ring   : Nat
  idx    : Nat
  addr   : Nat
  status : Nat
  wait   : Option (Nat × Nat)
  ts     : Option (Nat × Nat)   -- seconds [31:0] and nanoseconds
  deriving DecidableEq, Repr

/-- A parked frame on its way to an RX ring (R171, R463). -/
structure RxP where
  ring   : Nat
  handle : Nat
  sec    : Nat
  ns     : Nat
  port   : Nat
  pipe   : Nat
  ctx    : Nat
  tc     : Nat
  deriving DecidableEq, Repr

/-- A fresh context. -/
def Ctx.none : Ctx :=
  { st := .free, gen := 0, tmpl := 0, cls := 0,
    rcd := { cls := 0, nopnd := 0, entry := 0, clmask := 0, engmask := 0, asid := 0, perm := 0, tmo := 0, budget := 0, pins := [] },
    tag := 0, pc := 0, g := [], v := [], held := [], cont := [], bufs := [], cycle := 0, dmaw := Option.none, auth := false,
    svc := false, code := 0 }

/-- A stream not yet heard, a group not yet running, a publication without a frame. -/
def Strm.none : Strm := { latest := Option.none, run := 0 }
def Grp.none : Grp := { front := Option.none, opens := [], done := [], hold := [], patch := 0 }
def Pub.none : Pub := { frame := [], j := 0, tmin := 0, tmax := 0, fresh := false }

end Sys2Proof.Machine
end

