-- ==== Sys2Proof/Machine/State.lean ====
section
/-! DEFINITION. The state of the block as plain data: registers and counters, the power, mode and lease state, the
time base, ports, parse, classification, tables, flow, Graticule, switch core, traffic manager, engines, tasks,
authentication, memory, host and health state, and the queue of commands waiting. State.reset is the machine held in
power-on reset (spec/03 R66). -/

namespace Sys2Proof.Machine

open Sys2Proof

/-- Faults of the machine. No meaning raises one: what the device refuses it reports in its own state. -/
inductive Fault where
  /-- Raised by no command: the spec gives no access of a command that stops the device. Safe: a stop hides nothing. -/
  | none
  deriving DecidableEq, Repr

/-- Refusals of the model. -/
inductive Refusal where
  /-- A row of the command table that has no meaning yet, by its mnemonic. Raised by the arms of exec only. Safe. -/
  | notModelled (mnemonic : String)
  deriving DecidableEq, Repr

/-- Transitions in progress (Table 03.10, R502). -/
inductive Trans where
  | warmReset | toDormant | drain | standbySave | standbyWake
  deriving DecidableEq, Repr

/-- Mode and lease (spec/03 R53-R60, spec/17 R469-R473). -/
structure Mod where
  mode   : Mode
  holder : Option (Fin 4)     -- lease holder (GLB_LS_HELD, GLB_LS_HOLDER)
  epoch  : BitVec 32          -- GLB_LS_EPOCH
  left   : Nat                -- term remaining on the step-free count, 2^-32 ns (R473)
  trans  : Option Trans
  deriving DecidableEq, Repr

/-- Boot, straps, resets and SAFE-HOLD bookkeeping (spec/03). -/
structure Boot where
  straps      : BitVec 4       -- latched at release of the power-on reset (R70)
  tripped     : Bool           -- a thermal trip since the last BOOT: BOOT also needs the die below +110 C
  drainTarget : Mode           -- R62
  safeOrigin  : Mode           -- mode SAFE-HOLD was entered from (Table 03.2)
  safeOvertemp : Bool          -- standing causes of SAFE-HOLD
  safeRail    : Bool
  safeHealth  : Bool
  preMode     : Mode           -- what GLB_MODE_CODE reads until a warm reset or an entry to DORMANT ends (R502)
  bootPhase   : Nat            -- 0 steward start-up, 1 SFDP discovery, 2 manifest read
  density     : Nat            -- flash density in bytes, from SFDP (R71)
  read144     : Bool           -- flash read mode
  addrBytes   : Nat            -- address width of the flash in bytes, and the 1-4-4 fast-read instruction, from SFDP (R71)
  readOp      : BitVec 8
  stewardFw   : Option Nat     -- flash offset of the signed steward firmware in use; none: the boot-ROM firmware (R72)
  stewardLoad : Bool           -- the steward conducts the load (R70, R495)
  warmCause   : Nat            -- cause of the warm reset in progress
  needWarm    : Bool           -- after a thermal trip: BOOT needs a WARM_RST_N pulse (Table 03.2)
  tmsLoaded   : Bool           -- R84
  parLoaded   : BitVec 2       -- R84, per pipeline
  hbmPass     : Bool           -- the initialiser runs (R80)
  srUnit      : Nat            -- subsystem reset in progress: unit and index (R69); 0 none
  srIndex     : Nat
  saved       : Bool           -- the standby save area holds a completed save (R63, R68)
  savedEdition : Bool          -- and an edition was committed in it
  manifest    : List (Nat × Nat × Nat)   -- images left to load: type, flash offset, length (R71)
  deriving DecidableEq, Repr

/-- An image load in progress (spec/03 R73-R76, spec/17 R458). -/
structure Img where
  busy   : Bool
  src    : Src
  addr   : Nat
  kinds  : List Nat                 -- types that mode and issuer permitted at the start (R75, R473)
  cfg    : List (Nat × BitVec 32)   -- configuration records left to apply (R76)
  cfgNo  : Nat                      -- number of the next record
  wait   : Option Nat               -- address of the record whose command has no outcome yet
  deriving DecidableEq, Repr

/-- Supplies, clocks and power domains (spec/02). Domain states and effective clocks are registers. -/
structure Pwr where
  curSteps     : SMap Nat      -- current-limit steps of 50 MHz in force on each cluster (R39)
  waiting      : List Nat      -- clusters that wait for a wake interval, oldest first (R43)
  slowEdges    : Nat           -- good SLOWCLK edges counted after a loss (R45)
  phases       : BitVec 24     -- retired phases in service (R40)
  deriving DecidableEq, Repr

/-- One record of the event log (R476). -/
structure LogRec where
  sec  : BitVec 32
  ns   : BitVec 32
  code : BitVec 16
  arg0 : BitVec 32
  arg1 : BitVec 64
  deriving DecidableEq, Repr

/-- The fuse array and shadow (spec/18 R483-R486) and the health state of the always-on domain (R487-R491). -/
structure Fus where
  array    : SMap (BitVec 32)
  shadow   : SMap (BitVec 32)
  retired  : SMap Bool          -- retirement flags by number (R489)
  burn     : List Nat           -- flags that await burning
  calFails : SMap Nat           -- consecutive failed bring-ups per port lane (Table 18.3)
  clErrs   : SMap (List Nat)    -- step-free ns of a cluster's uncorrectable errors of the last hour
  aonErr   : Bool               -- HEA_E_AON_ECC stands
  stackHot : Bool               -- MEM_E_STACK_HOT stands
  capTime  : BitVec 32          -- HEA_CAP_TIME
  capRmp   : Nat
  capSpare : Nat
  capNoSpare : Nat
  deriving DecidableEq, Repr

/-- The Zujor monitor (spec/18 R493-R495). -/
structure Mon where
  isOpen   : Bool
  baud     : Nat
  auto     : Bool               -- BAUD AUTO waits for 0x55
  data     : List (BitVec 32)   -- data of the last response
  status   : BitVec 16          -- 0 OK, else the ER code of the last response
  crc      : Bool               -- the response carries the check
  jtag     : Jtag               -- last JTAG instruction executed
  deriving DecidableEq, Repr

/-- The time base (spec/04). Times are in units of 2^-32 ns (R87). The staged value of SET is held in the TIM_NOW fields,
whose reads return the running count (R90). -/
structure Tim where
  now      : Nat             -- Meridian, modulo 2^48 s
  stepFree : Nat             -- the step-free count of R100, since power-on reset
  cmd      : Nat             -- pending command: 0 none, 1 SET, 2 STEP, 3 SET_AT_PPS (R91)
  integ    : Int             -- servo integral in 2^-24 / 10 ppb (R94)
  lockCnt  : Nat             -- consecutive accepted edges within 50 ns
  lastPps  : Option Nat      -- step-free time of the last accepted edge
  lostRaised : Bool          -- TIM_W_PPS_LOST raised since the last accepted edge
  holdAcc  : Nat             -- time spent in HOLDOVER, 2^-32 ns (R96)
  ppsHigh  : Bool            -- level of PPS_OUT (R97)
  ppsRise  : Option Nat      -- step-free time of its last rising edge
  adjLive  : Bool            -- TIM_ADJ_FREQ was written, or the servo has put out a frequency, since a warm reset (R89)
  refLast  : Nat             -- step-free time of the nominal start of the last refresh window (R102)
  refOrg   : Nat             -- Meridian time, in ns, from which the grid of its second counts on (R102)
  deriving DecidableEq, Repr

/-- The HBM stack and its controller (spec/16). Bytes stand under their device physical address A: scrambling (R431) and
remapping (R443) move a row's bytes to another physical row and change none of them. -/
structure Hbm where
  bytes    : List Host.Cell      -- canonical; an unlisted byte reads 0 after a pass, and is arbitrary before (R78, R80)
  filled   : Bool                -- the pass has written the whole stack since the content was lost
  save     : Option Nat          -- the standby save that stands in the save area (R63), by a number; none: none written
  gen      : Nat                 -- losses of content so far
  marks    : SMap Bool           -- words (A / 8) in error: false one bit, correctable; true uncorrectable (R440)
  check    : SMap (BitVec 8)     -- words whose check bits were written raw (R447)
  seed     : BitVec 128          -- scramble seed (R431)
  tracker  : List (Nat × Nat)    -- error tracker: row and count, most recently counted first (R442)
  qual     : List Nat            -- rows that qualified and await REMAP
  noSpare  : List Nat            -- rows for which MEM_E_NO_SPARE was raised
  spares   : SMap Nat            -- spare rows used, bank pc * 16 + bank, one bit each
  neigh    : SMap (List Nat)     -- neighbour queue of each PC: bank * 65536 + physical row (R437)
  wq       : SMap (List (Nat × Nat))   -- write queue of each PC: block and step-free ns of acceptance, oldest first (R434)
  dnCount  : Nat                 -- consecutive readings below MEM_REF_DN_C (R435)
  rprOp    : Nat                 -- repair operation in progress: 0 none, 1 TEST_ALL, 2 BURN
  log1Read : Bool                -- MEM_UNC_LOG_1 read since the record was logged (R451)
  deriving DecidableEq, Repr

/-- Host attachment (spec/17): MSI-X tables, pending bits and messages sent; ring work in progress; translations. -/
structure Hst where
  msix   : SMap (BitVec 32)  -- table words, index h * 8192 + 4 * vector + word; an unlisted vector control word reads masked
  pba    : SMap Bool         -- pending bits, index h * 2048 + vector
  msi    : SMap Nat          -- messages sent, index h * 2048 + vector
  mem    : SMap Byte         -- what the device has written to host memory, index h * 2^64 + address
  fetch  : SMap Nat          -- index of a TX ring's next descriptor to fetch
  txc    : List TxC          -- completions owed, in ring order
  ts     : List TsReq        -- egress timestamps awaited
  rxp    : List RxP          -- parks accepted and not yet written, in order
  unsig  : SMap Nat          -- completions of a ring not yet signalled (R465)
  rdata  : List Byte         -- what the last BAR4 read returned, and its poisoned-data bit (R457)
  poison : Bool
  deriving DecidableEq, Repr

/-- Ports (spec/05): frames still arriving, verification attempts, transmissions in progress and the wire. -/
structure Prt where
  inc      : SMap Nat        -- packet whose frame still arrives, by port (R129)
  attempts : SMap Nat        -- verify frames sent (R113)
  slow     : SMap Bool       -- the SGMII partner signalled 10 or 100 Mbit/s (R108)
  txE      : SMap Tx         -- transmission in progress: express MAC, or the only MAC
  txP      : SMap Tx         -- preemptable frame in progress while preemption is ACTIVE
  last     : SMap (List Byte)   -- last frame transmitted, FCS excluded, by port
  badFcs   : SMap Bool       -- it was ended with an invalid FCS
  deriving DecidableEq, Repr

/-- Parse sequencers (spec/06). Keys carry the pipeline: pipeline * 4096 + word. -/
structure Par where
  cs       : SMap (BitVec 184)   -- stored words: data [175:0], check bits [183:176]; unlisted all zero (R159)
  bad      : SMap Bool           -- bad-word marks (R134)
  restartQ : SMap (List Nat)     -- restart queue of each pipeline, packet ids
  occ      : SMap (List Nat)     -- occupancies of the last 1,024 packets
  lastInt  : SMap Nat            -- internal source served last by the entry arbiter (R16)
  lineRun  : SMap Nat            -- line frames granted since an internal packet last had a slot
  entries  : Nat                 -- packets that entered a sequencer
  deriving DecidableEq, Repr

/-- A Gazetteer entry (Table 09.5). -/
structure Gaz where
  mac       : Nat
  valid     : Bool
  learned   : Bool
  proxy     : Bool
  winValid  : Bool
  lanLoss   : Bool
  goAlarm   : Bool
  top       : Nat
  window    : BitVec 64
  seqTx     : Nat
  heardA    : Nat            -- seconds [15:0], then nanoseconds
  heardB    : Nat
  pair      : Nat
  sinceA    : Bool           -- heard on LAN A, and on LAN B, since the loss that lanLoss marks (R123)
  sinceB    : Bool
  deriving DecidableEq, Repr

/-- Classifier (spec/07). -/
structure Cls where
  a        : Bank
  b        : Bank
  live     : Option Bool       -- current bank: false A, true B
  stage    : Option (Src × Nat × Bool)   -- STAGE in progress: issuer, CLS_CMD_ADDR, and whether mode and issuer permit it (R75)
  waitPack : Option Edition    -- verified pack that waits for a bank
  pend     : Bool              -- a COMMIT is accepted and its switch awaited
  switchAt : Nat               -- step-free ns of the last switch
  frags    : SMap Frag         -- fragment decision table, set * 4 + way
  fragSeed : BitVec 128
  deriving DecidableEq, Repr

/-- Lookup tables and the table maintenance sequencer (spec/08). Flow buckets stand in HBM. -/
structure Tbl where
  l2       : SMap L2Ent        -- bucket * 4 + slot; bucket = half * 32,768 + index
  appid    : SMap (BitVec 64)
  nh       : SMap (BitVec 128)
  v4       : SMap Route
  v6       : SMap Route
  stash    : SMap FSlot        -- by position
  seedFlow : BitVec 128
  seedL2   : BitVec 128
  seedLb   : BitVec 128
  seedNext : BitVec 128
  newL2    : BitVec 128        -- new seed of a live L2 REHASH
  keptFlow : BitVec 128        -- always-on: flow seed in use (R200)
  newFlow  : BitVec 128        -- always-on: new seed of a live flow REHASH
  l2Live   : Option (Nat × Nat)   -- live L2 REHASH: window, cursor
  learn    : List Learn        -- learn FIFO, oldest first
  gen      : BitVec 32         -- generation counter (R219)
  journal  : List Move         -- always-on (R217)
  jReset   : Bool              -- a warm reset interrupted the journalled routine
  wins     : SMap Win
  turn     : Nat               -- window in service, or next
  aged     : Bool              -- a conditional delete was served since the last routine (R220)
  ageL2    : Nat               -- next bucket of the aging agent
  ageFlow  : Nat
  expired  : List Expired      -- awaiting conditional deletes
  failAt   : Nat               -- start of the 1 ms window of R224, and the failures in it, L2 then flow
  failL2   : Nat
  failFlow : Nat
  deriving DecidableEq, Repr

/-- Flow unit (spec/09). Records stand in HBM. -/
structure Flw where
  cache   : SMap Hot           -- by record
  uses    : Nat
  digest  : BitVec 128         -- digest seed (R240)
  alloc   : SMap Bool          -- allocated records
  quar    : SMap Bool          -- freed records in quarantine (R245)
  goose   : SMap Bool          -- records of kind 2
  winAt   : Nat                -- start of the 100 µs hit-rate window (R241), lookups with a slot and cache hits in it
  winN    : Nat
  winHit  : Nat
  rcBusy  : SMap (Nat × Nat)   -- record command windows: step-free ns until which BUSY shows, FLW_RC_ERR meanwhile (R257)
  lbN     : SMap (BitVec 32)   -- FLW_LBG_N in force, and FLW_LBG_MEMB by group * 4 + word (R248)
  lbMemb  : SMap (BitVec 32)
  deriving DecidableEq, Repr

/-- Switch core (spec/11). -/
structure Swc where
  bufs    : SMap Buf         -- buffers in use, by handle
  layout  : List (Nat × Nat) -- pool layout in use: size in 64-byte units, count
  grants  : Nat              -- grants made
  rot     : Nat              -- rotation start of the next cycle (R298)
  minFree : SMap Nat         -- lowest free count of a pool since its last read, plus 1; 0: none recorded
  escMin  : SMap Nat         -- lowest allotment of pools 0 and 1, likewise
  low     : SMap Bool        -- SWC_W_POOL_LOW raised and not yet armed again (R300)
  rgLow   : SMap (BitVec 32) -- low word in force of a replication group (R305)
  ownRead : Bool             -- SWC_OWN_ERR_1 read since the record was logged
  held    : Bool             -- domains 46 to 53 are held ON: a buffer was granted and no DRAIN has completed since (R294)
  deriving DecidableEq, Repr

/-- A shaper (R327, R328). -/
structure Shaper where
  t       : Int              -- token count in 1/256 byte
  rate    : Nat
  burst   : Nat
  en      : Bool             -- as in force since its last refill
  last    : Nat              -- fine slot of its last refill
  deriving DecidableEq, Repr

/-- A timing-wheel entry: a GOOSE retransmission or a shaper refill, due at a fine slot (R329, R330). -/
inductive WheelItem where
  | pub (n : Nat)
  | gs (n : Nat)             -- class-group shaper
  | qs (n : Nat)             -- queue shaper
  deriving DecidableEq, Repr

/-- Traffic manager (spec/12). Slots count fine-wheel slots of 250 ns. -/
structure Tmg where
  queues  : SMap Queue
  vtime   : SMap Nat          -- virtual time of class group port * 8 + class
  ents    : Nat               -- entries in use of 524,288
  entLow  : Bool              -- TMG_W_ENTRY_LOW raised and not yet armed again
  shapers : SMap Shaper       -- queue shapers 0-4,095; class group port * 8 + tc at 4,096 + it
  slot    : Nat               -- fine slots elapsed on the step-free count
  wheel   : List (Nat × WheelItem)   -- fine wheel: due slot and entry
  ovf     : List (Nat × WheelItem)   -- overflow wheel (R329)
  carried : List (Nat × WheelItem)   -- entries left over from earlier slots (R330)
  pubDue  : List Nat          -- publications whose retransmission has fired
  deriving DecidableEq, Repr

/-- Tasks (spec/14): templates, matching store, Field book. -/
structure Tsk where
  tmpls   : SMap Tmpl
  ents    : SMap MEnt        -- matching-store entries in use, by a running number
  nextEnt : Nat
  readyN  : Nat              -- entries that became ready so far
  fb      : SMap FbRec       -- Field book
  fbSeq   : Nat
  busy    : SMap (Nat × Nat)   -- command windows: step-free ns until which BUSY shows, TSK_CMD_ERR meanwhile (R403)
  deriving DecidableEq, Repr

/-- Authentication engine and key store (spec/15). -/
structure Aut where
  slots : SMap KeySlot
  cmd   : Option KeyCmd
  ops   : List AuthOp        -- engine operations accepted and not over, oldest first
  arr   : Nat                -- operations that asked for a lane so far
  deriving DecidableEq, Repr

/-- Graticule unit and GOOSE publication unit (spec/10). -/
structure Sau where
  strm : SMap Strm
  grp  : SMap Grp
  pub  : SMap Pub
  deriving DecidableEq, Repr

/-- Engine array (spec/13). An engine is 8 * cluster + engine; memories are little-endian bytes, an unlisted byte is 0. -/
structure Eng where
  ctx   : SMap Ctx           -- by context number
  imem  : SMap (BitVec 32)   -- engine * 16,384 + word
  dmem  : SMap Byte          -- engine * 131,072 + offset
  shm   : SMap Byte          -- cluster * 2,097,152 + offset
  bad   : SMap Bool          -- 64-bit words in error, false one bit, true uncorrectable: Machine/EngMem numbers them
  tmr   : SMap Timer         -- cluster * 64 + timer
  conts : List (Nat × Nat × BitVec 64)   -- continuation tokens under way: address, tag, value (R341)
  xread : Nat                -- words 1 to 3 of ENG_XREC read since it was written, one bit each
  deriving DecidableEq, Repr

/-- Device memory management and DMA (spec/14 R387-R397). -/
structure Mmu where
  tlb  : SMap (List TlbEnt)  -- by cluster, most recently used first
  dmas : List Dma            -- transfers without an outcome, in queue order
  seq  : SMap Nat            -- sequence number of a cluster's next transfer
  outs : SMap (List (Nat × Nat × Nat))   -- last 64 outcomes of a cluster: sequence, DD_OUT, DD_DONE
  ring : SMap (List Byte)    -- fault ring slots (Table 14.9)
  inv  : Option (Nat × Nat × Nat × Nat)  -- invalidation in progress: op, ASID, page, pages
  deriving DecidableEq, Repr

/-- An empty bank. -/
def Bank.none : Bank := { st := .empty, ed := Edition.none, hits := [], off := [], inflight := 0 }

/-- The whole state of the block. -/
structure State where
  pwr     : Pwr
  mod     : Mod
  boot    : Boot
  img     : Img
  fus     : Fus
  mon     : Mon
  tim     : Tim
  hst     : Hst
  hbm     : Hbm
  pkts    : List Packet        -- packets on the frame path, in order of arrival
  nextPkt : Nat
  prt     : Prt
  par     : Par
  cls     : Cls
  gaz     : SMap Gaz           -- Gazetteer entries in use, index 0 to 16,383 (R255)
  tbl     : Tbl
  flw     : Flw
  swc     : Swc
  tmg     : Tmg
  tsk     : Tsk
  aut     : Aut
  sau     : Sau
  eng     : Eng
  mmu     : Mmu
  pkm     : SMap Byte          -- packet memory as the image aperture shows it (R458)
  regs    : SMap (BitVec 32)   -- register fields, index Field.key (Machine/Ops.lean), default the reset value
  ctrs    : SMap (BitVec 64)   -- 64-bit counters, index Ctr.key, default 0
  latch   : SMap (BitVec 32)   -- read latches of R6, index by source and word
  logRecs : SMap LogRec        -- event log, index GLB_EVT_WPTR mod 1,024 (R476)
  limits  : SMap Nat           -- step-free time at which a rate-limited event was last raised
  rdVal   : BitVec 32          -- value the last register read returned
  flash   : SMap Byte          -- the QSPI flash, an erased byte reads 0xFF
  freeCtr : Nat                -- MODEL'S OWN: free values drawn so far (notes/assumptions/2.md)
  pending : List Instr         -- commands waiting, first in first out
  deriving DecidableEq, Repr

/-- The fuse array as shipped: vendor digest 0, revision 0, grade I, die identifier 0 and the vendor CRC that fits
them; owner, repair and health regions unprogrammed (R4; DESIGN CHOICE for the vendor words, notes/assumptions/4.md). -/
def shippedFuses : SMap (BitVec 32) := [(63, 0xA66359F1#32)]

/-- The machine held in power-on reset (R66, R89): mode OFF until POR_RELEASE, nothing held, nothing written. Registers
list nothing but GLB_RESET_CAUSE = 1, so each other reads its reset value. -/
def State.reset : State where
  pwr := { curSteps := [], waiting := [], slowEdges := 0, phases := 0 }
  mod := { mode := .off, holder := none, epoch := 0, left := 0, trans := none }
  boot := { straps := 0, tripped := false, drainTarget := .load, safeOrigin := .off, safeOvertemp := false,
            safeRail := false, safeHealth := false, preMode := .off, bootPhase := 0, density := 0, read144 := false, addrBytes := 3, readOp := 0, stewardFw := none,
            stewardLoad := false, warmCause := 0, needWarm := false, tmsLoaded := false, parLoaded := 0,
            hbmPass := false, srUnit := 0, srIndex := 0, saved := false, savedEdition := false, manifest := [] }
  img := { busy := false, src := .steward, addr := 0, kinds := [], cfg := [], cfgNo := 0, wait := none }
  fus := { array := shippedFuses, shadow := [], retired := [], burn := [], calFails := [], clErrs := [],
           aonErr := false, stackHot := false, capTime := 0, capRmp := 0, capSpare := 0, capNoSpare := 0 }
  mon := { isOpen := false, baud := 115200, auto := false, data := [], status := 0, crc := false, jtag := .idcode }
  tim := { now := 0, stepFree := 0, cmd := 0, integ := 0, lockCnt := 0, lastPps := none, lostRaised := false,
           holdAcc := 0, ppsHigh := false, ppsRise := none, adjLive := true, refLast := 0, refOrg := 0 }
  hst := { msix := [], pba := [], msi := [], mem := [], fetch := [], txc := [], ts := [], rxp := [], unsig := [],
           rdata := [], poison := false }
  hbm := { bytes := [], filled := false, save := none, gen := 0, marks := [], check := [], seed := 0, tracker := [], qual := [],
           noSpare := [], spares := [], neigh := [], wq := [], dnCount := 0, rprOp := 0, log1Read := false }
  pkts := []
  nextPkt := 0
  prt := { inc := [], attempts := [], slow := [], txE := [], txP := [], last := [], badFcs := [] }
  par := { cs := [], bad := [], restartQ := [], occ := [], lastInt := [], lineRun := [], entries := 0 }
  cls := { a := Bank.none, b := Bank.none, live := none, stage := none, waitPack := none, pend := false, switchAt := 0,
           frags := [], fragSeed := 0 }
  gaz := []
  tbl := { l2 := [], appid := [], nh := [], v4 := [], v6 := [], stash := [], seedFlow := 0, seedL2 := 0, seedLb := 0,
           seedNext := 0, newL2 := 0, keptFlow := 0, newFlow := 0, l2Live := none, learn := [], gen := 0, journal := [], jReset := false,
           wins := [], turn := 0, aged := false, ageL2 := 0, ageFlow := 0, expired := [], failAt := 0, failL2 := 0, failFlow := 0 }
  flw := { cache := [], uses := 0, digest := 0, alloc := [], quar := [], goose := [], winAt := 0, winN := 0,
           winHit := 0, rcBusy := [], lbN := [], lbMemb := [] }
  swc := { bufs := [], layout := [(3, 65536), (10, 16384), (32, 3072), (152, 431)], grants := 0, rot := 0,
           minFree := [], escMin := [], low := [], rgLow := [], ownRead := false, held := false }
  tmg := { queues := [], vtime := [], ents := 0, entLow := false, shapers := [], slot := 0, wheel := [], ovf := [],
           carried := [], pubDue := [] }
  tsk := { tmpls := [], ents := [], nextEnt := 0, readyN := 0, fb := [], fbSeq := 0, busy := [] }
  aut := { slots := [], cmd := none, ops := [], arr := 0 }
  sau := { strm := [], grp := [], pub := [] }
  eng := { ctx := [], imem := [], dmem := [], shm := [], bad := [], tmr := [], conts := [], xread := 0 }
  mmu := { tlb := [], dmas := [], seq := [], outs := [], ring := [], inv := none }
  pkm := []
  regs := [(Field.GLB_RESET_CAUSE.ctorIdx, 1#32)]
  ctrs := []
  latch := []
  logRecs := []
  limits := []
  rdVal := 0
  flash := []
  freeCtr := 0
  pending := []

end Sys2Proof.Machine
end

