-- ==== Sys2Proof/Machine/Ops.lean ====
section
/-! DEFINITION. The named operations every meaning is built from: registers and counters, free values, the event log and interrupts, fuse readings and partitions, and the lease guard. -/

namespace Sys2Proof.Machine

open Sys2Proof

/-- What a meaning answers. -/
abbrev Res := Host.Outcome State Fault Refusal

/-- Index of element `i` of field `f` in the register file; 1,024 exceeds the number of fields. -/
def fieldKey (f : Field) (i : Nat) : Nat := f.ctorIdx + 1024 * i

/-- Index of element `i` of counter `c`. -/
def ctrKey (c : Ctr) (i : Nat) : Nat := c.ctorIdx + 1024 * i

/-- Stored value of element `i` of a field. -/
def State.reg (s : State) (f : Field) (i : Nat := 0) : BitVec 32 := s.regs.get (f.reset i) (fieldKey f i)

/-- The same as a number. -/
def State.rn (s : State) (f : Field) (i : Nat := 0) : Nat := (s.reg f i).toNat

/-- A one-bit field read as a truth value. -/
def State.rb (s : State) (f : Field) (i : Nat := 0) : Bool := s.reg f i != 0#32

/-- Store a field. -/
def State.setReg (s : State) (f : Field) (i : Nat) (v : BitVec 32) : State :=
  { s with regs := s.regs.put (f.reset i) (fieldKey f i) v }

/-- Store a field from a number. -/
def State.setN (s : State) (f : Field) (i n : Nat) : State := s.setReg f i (BitVec.ofNat 32 n)

/-- Store a one-bit field. -/
def State.setB (s : State) (f : Field) (i : Nat) (b : Bool) : State := s.setReg f i (if b then 1#32 else 0#32)

/-- Greatest value a field holds. -/
def fieldMax (f : Field) : Nat := 2 ^ (f.info.msb + 1 - f.info.lsb) - 1

/-- Elements of a field, rising, that hold something else than their reset value. -/
def State.listed (s : State) (f : Field) : List Nat :=
  (s.regs.filter fun e => e.1 % 1024 == f.ctorIdx).map fun e => e.1 / 1024

/-- Add to a saturating count field. -/
def State.countF (s : State) (f : Field) (i : Nat := 0) (n : Nat := 1) : State :=
  s.setN f i (satAdd (fieldMax f) (s.rn f i) n)

/-- Fields of one register written from a word. -/
def State.wrFields (s : State) (l : List Field) (i : Nat) (v : BitVec 32) : State :=
  l.foldl (fun s f => s.setN f i (bitsOf v.toNat f.info.msb f.info.lsb)) s

/-- A word would leave the fields at their present values. -/
def State.sameFields (s : State) (l : List Field) (i : Nat) (v : BitVec 32) : Bool :=
  l.all fun f => s.rn f i == bitsOf v.toNat f.info.msb f.info.lsb

/-- Value of a 64-bit counter. -/
def State.ctr (s : State) (c : Ctr) (i : Nat := 0) : BitVec 64 := s.ctrs.get 0#64 (ctrKey c i)

/-- Add to a 64-bit counter. -/
def State.bump (s : State) (c : Ctr) (i : Nat := 0) (n : Nat := 1) : State :=
  { s with ctrs := s.ctrs.put 0#64 (ctrKey c i) (s.ctr c i + BitVec.ofNat 64 n) }

/-- Clear the counters of a list at element `i` (a write of 1 to a *_CNT_CLR bit). -/
def State.clearCtrs (s : State) (l : List Ctr) (i : Nat) : State :=
  { s with ctrs := l.foldl (fun m c => m.put 0#64 (ctrKey c i) 0#64) s.ctrs }

/-- Clear every counter of a block, every element. -/
def State.clearBlockCtrs (s : State) (b : Block) : State :=
  { s with ctrs := s.ctrs.filter fun e => !((Ctr.ofBlock b).any fun c => c.ctorIdx == e.1 % 1024) }

/-- Draw a free value: the state moves past it (notes/assumptions/2.md). -/
def State.draw (s : State) : BitVec 64 × State := (Config.free s.freeCtr, { s with freeCtr := s.freeCtr + 1 })

/-- Units of 2^-32 ns in a nanosecond and in a second. -/
def tickNs : Nat := 2 ^ 32
def tickSec : Nat := 1000000000 * 2 ^ 32

/-- Meridian seconds, nanoseconds and 16-bit fraction (R86). -/
def State.sec (s : State) : Nat := s.tim.now / tickSec
def State.nsec (s : State) : Nat := s.tim.now / tickNs % 1000000000
def State.frac (s : State) : Nat := s.tim.now % tickNs / 2 ^ 16

/-- Meridian as nanoseconds since second 0. -/
def State.nowNs (s : State) : Nat := s.tim.now / tickNs

/-- Step-free count in nanoseconds (R100). -/
def State.freeNs (s : State) : Nat := s.tim.stepFree / tickNs

/-- Command windows whose operations are under way: until when each shows BUSY, and the code recorded meanwhile. The window
still shows BUSY at `now`. -/
def winBusy (m : SMap (Nat × Nat)) (now w : Nat) : Bool :=
  match m.find w with
  | some e => now < e.1
  | none => false

/-- A start refused in a busy window records its code there (R505). -/
def winNote (m : SMap (Nat × Nat)) (w code : Nat) : SMap (Nat × Nat) :=
  match m.find w with
  | some e => m.set w (e.1, code)
  | none => m

/-! ### Interrupts and the event log (spec/17 R465, R476) -/

/-- Index of a vector control word in the MSI-X table; bit 0 masks the vector. -/
def msixCtl (h v : Nat) : Nat := h * 8192 + 4 * v + 3

/-- Signal vector `v` of host `h`: a masked vector sets its pending bit, an unmasked one sends its message
(PRESUMED, PCIe: notes/assumptions/6.md). -/
def State.signal (s : State) (h v : Nat) : State :=
  if (s.hst.msix.get 1#32 (msixCtl h v)).getLsbD 0 then
    { s with hst := { s.hst with pba := s.hst.pba.put false (h * 2048 + v) true } }
  else
    { s with hst := { s.hst with msi := s.hst.msi.upd 0 (h * 2048 + v) (· + 1) } }

/-- GLB_EVT_LEVEL admits the kind of a record: 0 all, 1 warnings and errors, 2 errors (R480). -/
def levelAdmits (level : Nat) : EvKind → Bool
  | .error => true
  | .warning => level ≤ 1
  | .info => level = 0

/-- Signal a record to host `h` if its GLB_EVT_CFG asks for it (R476). -/
def State.signalEvt (s : State) (e : Ev) (h : Nat) : State :=
  if s.rb .GLB_EVT_IRQ_EN h && levelAdmits (s.rn .GLB_EVT_LEVEL h) e.kind then s.signal h (s.rn .GLB_EVT_VEC h) else s

/-- Write the log record of an event and advance GLB_EVT_WPTR (R476). -/
def State.logEvt (s : State) (e : Ev) (a0 a1 : Nat) : State :=
  let r : LogRec := ⟨BitVec.ofNat 32 s.sec, BitVec.ofNat 32 s.nsec, BitVec.ofNat 16 e.code, BitVec.ofNat 32 a0, BitVec.ofNat 64 a1⟩
  { s with logRecs := s.logRecs.set (s.rn .GLB_EVT_WPTR % 1024) r }.setReg .GLB_EVT_WPTR 0 (s.reg .GLB_EVT_WPTR + 1#32)

/-- Set the event-status bit of an event, in element `i` of its register. -/
def State.setStat (s : State) (e : Ev) (i : Nat) : State :=
  match e.stat with
  | some f => s.setReg f i 1#32
  | none => s

/-- Raise an event with its first item and the rest; `i` is the element of its status register (a port or pipeline). -/
def State.raise (s : State) (e : Ev) (a0 : Nat := 0) (a1 : Nat := 0) (i : Nat := 0) : State :=
  let s := (s.logEvt e a0 a1).setStat e i
  (((s.signalEvt e 0).signalEvt e 1).signalEvt e 2).signalEvt e 3

/-- Raise an event at most once per `ns` for each value of `key`. -/
def State.raiseLimited (s : State) (e : Ev) (key ns : Nat) (a0 : Nat := 0) (a1 : Nat := 0) (i : Nat := 0) : State :=
  let k := e.code * 65536 + key
  match s.limits.find k with
  | some t => if s.freeNs < t + ns then s
      else { s with limits := s.limits.set k s.freeNs }.raise e a0 a1 i
  | none => { s with limits := s.limits.set k s.freeNs }.raise e a0 a1 i

/-- One millisecond in nanoseconds. -/
def ms1 : Nat := 1000000

/-! ### Modes -/

/-- Code of a mode (Table 03.1). -/
def modeCode : Mode → Nat
  | .off => 0 | .dormant => 1 | .boot => 2 | .monitor => 3 | .load => 4 | .standby => 5
  | .run => 6 | .isolated => 7 | .drain => 8 | .test => 9 | .repair => 10 | .safeHold => 11

/-- Modes that forward alike (R55). -/
def forwards (m : Mode) : Bool := m == .run || m == .isolated

/-- Modes in which the fast timebase is used (R87). -/
def fastTime : Mode → Bool
  | .load | .run | .isolated | .drain | .safeHold | .test => true
  | _ => false

/-- Modes in which a lease may be held (Table 03.1): LOAD, RUN and DRAIN. -/
def leasable : Mode → Bool
  | .load | .run | .drain => true
  | _ => false

/-! ### Fuse shadow and partitions (spec/18 R483-R484, spec/17 R467) -/

/-- A word of the fuse shadow. -/
def State.fuse (s : State) (w : Nat) : BitVec 32 := s.fus.shadow.get 0#32 w

/-- One bit of the reflected CRC-32 step. -/
def crc32Bit (c : BitVec 32) : BitVec 32 := if c.getLsbD 0 then (c >>> 1) ^^^ 0xEDB88320#32 else c >>> 1

/-- One byte of the CRC-32. -/
def crc32Byte (c : BitVec 32) (b : Byte) : BitVec 32 :=
  crc32Bit (crc32Bit (crc32Bit (crc32Bit (crc32Bit (crc32Bit (crc32Bit (crc32Bit (c ^^^ b.zeroExtend 32))))))))

/-- CRC-32 of IEEE 802.3 (the manual gives no parameters: PRESUMED, notes/assumptions/7.md). -/
def crc32 (l : List Byte) : BitVec 32 := ~~~(l.foldl crc32Byte 0xFFFFFFFF#32)

/-- The bytes of words of a fuse region, byte 0 in bits [7:0] (Table 18.2). -/
def fuseBytes (m : SMap (BitVec 32)) (ws : List Nat) : List Byte :=
  ws.flatMap fun w => leBytes 4 (m.get 0#32 w).toNat

/-- Vendor words match their CRC (R484). -/
def vendorOk (m : SMap (BitVec 32)) : Bool := crc32 (fuseBytes m (List.range 63)) == m.get 0#32 63

/-- Seal marker present (Table 18.2). -/
def ownerSealed (m : SMap (BitVec 32)) : Bool := m.get 0#32 126 == 0x0000A5A5#32

/-- CRC of words 64-71 and 73-126 (Table 18.2). -/
def ownerCrc (m : SMap (BitVec 32)) : BitVec 32 :=
  crc32 (fuseBytes m (List.range' 64 8 ++ List.range' 73 54))

/-- FUS_OWNER_OK: the owner CRC matches, or the region is not sealed (R500). -/
def ownerOk (m : SMap (BitVec 32)) : Bool := !ownerSealed m || ownerCrc m == m.get 0#32 127

/-- Effective FO_DBG_LOCK (R484, R486): 1 where a sealed region fails its CRC. -/
def State.dbgLock (s : State) : Bool := !ownerOk s.fus.shadow || (s.fuse 72).getLsbD 1

/-- Effective FO_MON_LOCK (R484): 0 where a sealed region fails its CRC. -/
def State.monLock (s : State) : Bool := ownerOk s.fus.shadow && (s.fuse 72).getLsbD 2

/-- FUS_VENDOR_IMG: vendor-signed images of the owner types are accepted (R484). -/
def State.vendorImg (s : State) : Bool :=
  if ownerSealed s.fus.shadow then
    ownerOk s.fus.shadow && (s.fuse 72).getLsbD 0 && !(s.fuse 72).getLsbD 3
  else true

/-- The partition of a host (R467). -/
structure Partition where
  ports     : Nat
  clusters  : Nat
  qBase     : Nat
  qCnt      : Nat
  slotBase  : Nat
  slotCnt   : Nat
  eligible  : Bool
  prec      : Nat
  deriving DecidableEq, Repr

/-- The partition host `h` has by a fuse image: the words of Table 18.2 of a sealed region, and of an unsealed one
everything for H0 (R467). A sealed region that fails its CRC makes no host eligible (R484). -/
def partitionOf (m : SMap (BitVec 32)) (h : Nat) : Partition :=
  if ownerSealed m then
    let w (i : Nat) : Nat := (m.get 0#32 (80 + 8 * h + i)).toNat
    { ports := w 0 + bitsOf (w 1) 15 0 * 2 ^ 32, clusters := bitsOf (w 2) 23 0,
      qBase := bitsOf (w 3) 15 0, qCnt := bitsOf (w 3) 31 16,
      slotBase := bitsOf (w 4) 13 0, slotCnt := bitsOf (w 4) 30 16,
      eligible := ownerOk m && bitOf (w 1) 31, prec := bitsOf (w 1) 29 28 }
  else if h = 0 then
    { ports := 2 ^ 48 - 1, clusters := 2 ^ 24 - 1, qBase := 0, qCnt := 32704, slotBase := 0, slotCnt := 16384,
      eligible := true, prec := 0 }
  else
    { ports := 0, clusters := 0, qBase := 0, qCnt := 0, slotBase := 0, slotCnt := 0, eligible := false, prec := h }

/-- The partition of host `h` by the shadow. -/
def State.part (s : State) (h : Nat) : Partition := partitionOf s.fus.shadow h

/-- Host `h` holds port `p`: its mask for ports 0 to 47, and host port 56 + h (R467). -/
def State.holdsPort (s : State) (h p : Nat) : Bool :=
  if p < 48 then bitOf (s.part h).ports p else p == 56 + h

/-- Host `h` holds cluster `c`. -/
def State.holdsCluster (s : State) (h c : Nat) : Bool := c < 24 && bitOf (s.part h).clusters c

/-- Host `h` holds queue `q`. -/
def State.holdsQueue (s : State) (h q : Nat) : Bool :=
  (s.part h).qBase ≤ q && q < (s.part h).qBase + (s.part h).qCnt

/-- Host `h` holds key slot `k` (R415). -/
def State.holdsSlot (s : State) (h k : Nat) : Bool :=
  (s.part h).slotBase ≤ k && k < (s.part h).slotBase + (s.part h).slotCnt

/-- A check against the partition of the writer: its own for a host; for the steward, and for an engine context
writing for the device, one partition that holds every named resource (R468). -/
def State.inPartition (_s : State) (src : Src) (test : Nat → Bool) : Bool :=
  match src with
  | .host h => test h.val
  | _ => (List.range 4).any test

/-! ### The lease guard (spec/17 R470, R475) -/

/-- Per-function element of a source: its host number, 4 for the steward (R480). -/
def fnOf : Src → Nat
  | .host h => h.val
  | .steward => 4
  | .engine _ => 5

/-- Host `h` holds the lease and presents the current epoch (R470). -/
def State.leaseOk (s : State) (h : Fin 4) : Bool :=
  s.mod.holder == some h && s.reg .GLB_LU_EPOCH h.val == s.mod.epoch

/-- The steward conducts a load (R70, R495). -/
def State.stewardConducts (s : State) : Bool := s.boot.stewardLoad && s.mod.mode == .load

/-- What a source other than the lease holder may write in a block's guarded fields (Table 17.5). An engine context
writes as R364 states, where its template permits (Machine/Engine files). -/
def State.stewardMay (s : State) (b : Block) : Bool :=
  match b with
  | .PWR => !leasable s.mod.mode || s.stewardConducts
  | .TIM | .PRT | .CLS | .TBL | .FLW | .SAU | .SWC | .TMG | .ENG => s.stewardConducts
  | .TSK | .MMU => s.stewardConducts || s.mod.holder == none
  | .MEM => s.stewardConducts || s.mod.mode == .test || s.mod.mode == .repair
  | .FUS | .HEA => s.mod.holder == none
  | .GLB => s.stewardConducts
  | .PAR | .AUT | .HST => false

/-- A block's guarded fields take a write of context `k` (R104, R364, R379): TIM from a T-class task with TT_P_TIM, TSK and
MMU within its own partition, which the register's meaning checks. All need TT_P_RGWR. -/
def State.engineMay (s : State) (k : Nat) (b : Block) : Bool :=
  let x := s.eng.ctx.get Ctx.none k
  x.st != .free && bitOf x.rcd.perm 3 && match b with
    | .TIM => x.cls == 1 && bitOf x.rcd.perm 1
    | .TSK | .MMU => true
    | _ => false

/-- A guarded write is admitted (R470, R475). -/
def State.guard (s : State) (src : Src) (b : Block) : Bool :=
  match src with
  | .host h => s.leaseOk h
  | .steward => s.stewardMay b
  | .engine k => s.engineMay k.val b

/-- A guarded write or command that is not admitted: no effect, counted and raised (R470). An engine context has the code
in its status word only (R352, R364). -/
def State.fenced (s : State) (src : Src) : State :=
  match src with
  | .host h => (s.countF .HST_FENCED_CNT h.val).raiseLimited .HST_E_FENCED h.val ms1 h.val
  | .steward => s.raiseLimited .HST_E_FENCED (fnOf src) ms1 (fnOf src)
  | .engine _ => s

/-- The issuer is the lease holder with the current epoch: the only writer of most GLB and all AUT controls (R470). -/
def State.isHolder (s : State) (src : Src) : Bool :=
  match src with
  | .host h => s.leaseOk h
  | _ => false

/-- Run `f` for the lease holder, else fence (R470). -/
def State.held (s : State) (src : Src) (f : State → State) : State :=
  if s.isHolder src then f s else s.fenced src

/-- Run `f` if the guard of block `b` admits the source, else fence it. -/
def State.guarded (s : State) (src : Src) (b : Block) (f : State → State) : State :=
  if s.guard src b then f s else s.fenced src

/-- An access outside the partition or grants of host `h` (R457, R459). -/
def State.partitionErr (s : State) (src : Src) : State :=
  match src with
  | .host h => (s.countF .HST_PART_CNT h.val).raiseLimited .HST_E_PARTITION h.val ms1 h.val
  | _ => s.raiseLimited .HST_E_PARTITION (fnOf src) ms1 (fnOf src)

end Sys2Proof.Machine
end

