-- ==== Sys2Proof/Machine/HbmOps.lean ====
section
/-! DEFINITION. The HBM stack (spec/16 R430-R445): bytes, words in error, block reads and writes with their counters, the error tracker and the qualification of rows. -/

namespace Sys2Proof.Machine

open Sys2Proof

/-- Size of the stack in bytes (R430). -/
def hbmSize : Nat := 2 ^ 34

/-- Table 16.2: first addresses of the regions. -/
def bucketBase : Nat := 0x200000000
def stageBase : Nat := 0x220000000
def generalBase : Nat := 0x220400000
def saveBase : Nat := 0x3FC000000

/-- `n` bytes from address `a` lie in the general region (R432). -/
def inGeneral (a n : Nat) : Bool := generalBase ≤ a && a + n ≤ saveBase

/-- Address `a` lies in the standby save area, and a save stands there (R63). -/
def Hbm.saved (h : Hbm) (a : Nat) : Bool := saveBase ≤ a && h.save.isSome

/-- What a byte that is not listed reads as: of the save area what the last save wrote (R63), zero after a pass (R80), else
arbitrary (R78). DESIGN CHOICE: a read of a word never written reports no ECC error, which R78 permits and does not require
(notes/assumptions/26.md). -/
def Hbm.unlisted (h : Hbm) (a : Nat) : Byte :=
  if h.saved a then Config.saveByte (h.save.getD 0) a else if h.filled then 0#8 else Config.hbmJunk h.gen a

/-- A byte of the stack: listed, or what an unlisted one reads as. -/
def Hbm.byteAt (h : Hbm) (a : Nat) : Byte := (SMap.find h.bytes a).getD (h.unlisted a)

/-- A byte at `a` that is not listed reads 0. -/
def Hbm.zeroAt (h : Hbm) (a : Nat) : Bool := h.filled && !h.saved a

/-- A byte of the stack. -/
def State.hbmByte (s : State) (a : Nat) : Byte := s.hbm.byteAt a

/-- `n` bytes of the stack. -/
def State.hbmBytes (s : State) (a : Nat) : Nat → List Byte
  | 0 => []
  | n + 1 => s.hbmByte a :: s.hbmBytes (a + 1) n

/-- Little-endian value of `n` bytes of the stack. -/
def State.hbmNat (s : State) (a n : Nat) : Nat := leNat (s.hbmBytes a n)

/-- A byte of the stack written: where an unlisted byte reads 0 a zero is not listed, so that equal contents are equal
data. -/
def Hbm.putByte (h : Hbm) (a : Nat) (b : Byte) : Hbm :=
  { h with bytes := if h.zeroAt a then SMap.put 0#8 h.bytes a b else SMap.set h.bytes a b }

/-- Consecutive bytes written. -/
def Hbm.putBytes (h : Hbm) (a : Nat) : List Byte → Hbm
  | [] => h
  | b :: t => (h.putByte a b).putBytes (a + 1) t

/-- The canonical form of the stack: addresses strictly rising and no zero listed where an unlisted byte reads 0. -/
def Hbm.wf (h : Hbm) : Bool :=
  SMap.rising 0 h.bytes && h.bytes.all fun e => !h.zeroAt e.1 || decide (e.2 ≠ 0#8)

/-- The stack with its controller off or reset: the error tracker, the queues of rows, neighbours and writes, and the repair
in progress are gone (R449). Every accepted write has completed (R67). -/
def Hbm.controllerOff (h : Hbm) : Hbm :=
  { h with tracker := [], qual := [], noSpare := [], neigh := [], wq := [], dnCount := 0, rprOp := 0, log1Read := false }

/-- The standby save of R63 with its CRC-32 written over the save area, as save number `n`. -/
def Hbm.writeSave (h : Hbm) (n : Nat) : Hbm :=
  { h with save := some n, bytes := h.bytes.filter fun e => e.1 < saveBase, marks := h.marks.filter fun e => 8 * e.1 < saveBase,
           check := h.check.filter fun e => 8 * e.1 < saveBase }

/-- The save area reads as the last save wrote it: no byte written since, no word uncorrectable (R64). -/
def Hbm.saveIntact (h : Hbm) : Bool :=
  h.save.isSome && (h.bytes.all fun e => e.1 < saveBase) && h.marks.all fun e => 8 * e.1 < saveBase || !e.2

/-- Bank of an address: PC A[10:6] and bank A[18:15] (Table 16.1). -/
def bankOf (a : Nat) : Nat := a / 64 % 32 * 16 + a / 2 ^ 15 % 16

/-- Physical row of an address: the logical row A[33:19] XOR F(pc, bank) (R431). -/
def State.physRow (s : State) (a : Nat) : Nat :=
  let f := (mix s.hbm.seed [BitVec.ofNat 64 (a / 64 % 32 + a / 2 ^ 15 % 16 * 256)]).1
  (a / 2 ^ 19 % 32768).xor (f.toNat % 32768)

/-- Row number of an address: bank and physical row. -/
def State.rowKey (s : State) (a : Nat) : Nat := bankOf a * 32768 + s.physRow a

/-- Remap entry of a row, if its row was replaced: the spare number (R443). -/
def State.spareOf (s : State) (row : Nat) : Option Nat :=
  ((List.range 128).find? fun n => s.rb .MEM_RMP_VALID n &&
      (s.rn .MEM_RMP_PC n * 16 + s.rn .MEM_RMP_BANK n) * 32768 + s.rn .MEM_RMP_ROW n == row).map fun n => s.rn .MEM_RMP_SPARE n

/-- A queued neighbour; a full queue of 32 drops it (R437). -/
def State.queueNeighbour (s : State) (pc v : Nat) : State :=
  let q := s.hbm.neigh.get [] pc
  if 32 ≤ q.length then (s.bump .MEM_CNT_NR_OVF).raiseLimited .MEM_W_NR_OVF 0 ms1
  else { s with hbm := { s.hbm with neigh := s.hbm.neigh.put [] pc (q ++ [v]) } }

/-- A row activation is sampled with probability 2^-MEM_NR_LOG2P from the entropy source; the physical neighbours of a
sampled row are queued, computed after remapping (R437). Spare row j of a bank is physical row 32,768 + j. -/
def State.activate (s : State) (a : Nat) : State :=
  if !s.rb .MEM_NR_EN then s else
  let (f, s) := s.draw
  if f.toNat % 2 ^ s.rn .MEM_NR_LOG2P ≠ 0 then s else
  let row := s.rowKey a
  let r := match s.spareOf row with
    | some j => 32768 + j
    | none => row % 32768
  let ns := [r + 1] ++ (if 1 ≤ r then [r - 1] else []) ++
    (if s.rb .MEM_NR_DIST then [r + 2] ++ (if 2 ≤ r then [r - 2] else []) else [])
  (ns.filter (· < 32772)).foldl (fun s n => s.queueNeighbour (bankOf a / 16) (bankOf a % 16 * 65536 + n)) s

/-- A row qualifies for remapping (R442): it awaits REMAP if its bank has a free spare and the table a free entry;
otherwise MEM_E_NO_SPARE is raised once for the row. -/
def State.qualify (s : State) (row : Nat) : State :=
  if s.hbm.qual.contains row || s.hbm.noSpare.contains row || (s.spareOf row).isSome then s
  else if s.hbm.spares.get 0 (row / 32768) % 16 ≠ 15 && 0 < s.rn .MEM_RMP_FREE then
    { s with hbm := { s.hbm with qual := s.hbm.qual ++ [row] } }
  else { s with hbm := { s.hbm with noSpare := row :: s.hbm.noSpare } }.raise .MEM_E_NO_SPARE row

/-- The 64-entry tracker counts a correctable error of a row (R442). -/
def State.trackRow (s : State) (row : Nat) : State :=
  let n := ((s.hbm.tracker.find? fun e => e.1 == row).map (·.2)).getD 0 + 1
  let s := { s with hbm := { s.hbm with tracker := ((row, n) :: s.hbm.tracker.filter fun e => e.1 != row).take 64 } }
  if s.rn .MEM_CE_ROW_TH ≠ 0 && s.rn .MEM_CE_ROW_TH ≤ n then s.qualify row else s

/-- A corrected error (R440). -/
def State.corrected (s : State) (w : Nat) : State :=
  let s := ((s.bump .MEM_CNT_CORR).countF .MEM_CORR_CNT).raiseLimited .MEM_W_CORR 0 ms1 (8 * w)
  s.trackRow (s.rowKey (8 * w))

/-- The error log takes the word and its reader if it holds no unread record (R440). -/
def State.logUncorr (s : State) (w reader : Nat) : State :=
  if s.rb .MEM_UNC_VALID then s else
  { (((s.setB .MEM_UNC_VALID 0 true).setN .MEM_UNC_READER 0 reader).setN .MEM_UNC_ADDR_H 0 (8 * w / 2 ^ 32)).setN .MEM_UNC_ADDR_L 0 (8 * w % 2 ^ 32) with
    hbm := { s.hbm with log1Read := false } }

/-- An uncorrectable error by a reader of Table 16.4 (R440): counted, raised, logged if no unread record is held. -/
def State.uncorrected (s : State) (w reader : Nat) : State :=
  let s := ((s.bump .MEM_CNT_UNCORR).countF .MEM_UNC_CNT).raiseLimited .MEM_E_UNCORR 0 ms1 (8 * w % 2 ^ 32) (8 * w + reader * 2 ^ 40)
  (s.logUncorr w reader).qualify ((s.logUncorr w reader).rowKey (8 * w))

/-- Words in error among `n` from word `w`, with their kind. -/
def State.marksIn (s : State) (w n : Nat) : List (Nat × Bool) := s.hbm.marks.filter fun e => w ≤ e.1 && e.1 < w + n

/-- Number of blocks and words that `n` bytes from `a` touch. -/
def blocksOf (a n : Nat) : Nat := if n = 0 then 0 else (a + n - 1) / 64 - a / 64 + 1
def wordsOf (a n : Nat) : Nat := if n = 0 then 0 else (a + n - 1) / 8 - a / 8 + 1

/-- The blocks that `n` bytes from `a` touch. -/
def blocksIn (a n : Nat) : List Nat := List.range' (a / 64) (blocksOf a n)

/-- The write queue of a pseudo-channel as an access finds it (R434): writes older than MEM_WQ_AGE_NS have been issued, and of
the others the oldest ones that idle slots let go, a free number (notes/assumptions/31.md). -/
def State.settleWq (s : State) (pc : Nat) : State :=
  let q := (s.hbm.wq.get [] pc).filter fun e => s.freeNs ≤ e.2 + s.rn .MEM_WQ_AGE_NS
  let (f, s) := s.draw
  { s with hbm := { s.hbm with wq := s.hbm.wq.put [] pc (q.drop (f.toNat % (q.length + 1))) } }

/-- A block is read: one that has a queued write is answered from the queue (R434). -/
def State.readBlock (s : State) (blk : Nat) : State :=
  let s := s.settleWq (blk % 32)
  if (s.hbm.wq.get [] (blk % 32)).any fun e => e.1 == blk then s.bump .MEM_CNT_WQ_FWD else s

/-- A block write is accepted; at MEM_WQ_HI entries the queue drains to MEM_WQ_LO ahead of reads (R434). -/
def State.queueWrite (s : State) (blk : Nat) : State :=
  let s := s.settleWq (blk % 32)
  let q := s.hbm.wq.get [] (blk % 32) ++ [(blk, s.freeNs)]
  let q := if s.rn .MEM_WQ_HI ≤ q.length then q.drop (q.length - s.rn .MEM_WQ_LO) else q
  { s with hbm := { s.hbm with wq := s.hbm.wq.put [] (blk % 32) q } }

/-- A read of `n` bytes at `a` by a reader of Table 16.4: the bytes, or none where a word is uncorrectable (R440). -/
def State.hbmRead (s : State) (a n reader : Nat) : Option (List Byte) × State :=
  let s := (blocksIn a n).foldl State.readBlock ((s.bump .MEM_CNT_READ 0 (blocksOf a n)).activate a)
  let ms := s.marksIn (a / 8) (wordsOf a n)
  let s := ms.foldl (fun s e => if e.2 then s.uncorrected e.1 reader else s.corrected e.1) s
  (if ms.any (·.2) then none else some (s.hbmBytes a n), s)

/-- A write of bytes at `a` (R438): words written in part are read-modify-writes, whose read corrects a single-bit error and
fails where it is uncorrectable; a word written loses its error. The second part says whether the write was done. -/
def State.hbmWrite (s : State) (a : Nat) (bs : List Byte) (reader : Nat := 4) : State × Bool :=
  let n := bs.length
  let s := (s.bump .MEM_CNT_WRITE 0 (blocksOf a n)).activate a
  let partW := ((if a % 8 ≠ 0 then [a / 8] else []) ++ (if (a + n) % 8 ≠ 0 then [(a + n) / 8] else [])).eraseDups
  let s := if partW.isEmpty then s else s.bump .MEM_CNT_RMW 0 partW.length
  let ms := (s.marksIn (a / 8) (wordsOf a n)).filter fun e => partW.contains e.1
  let s := ms.foldl (fun s e => if e.2 then s.uncorrected e.1 reader else s.corrected e.1) s
  if ms.any (·.2) then (s, false)
  else
    let s := (blocksIn a n).foldl State.queueWrite s
    ({ s with hbm := { (s.hbm.putBytes a bs) with
        marks := s.hbm.marks.filter fun e => !(a < 8 * e.1 + 8 && 8 * e.1 < a + n),
        check := s.hbm.check.filter fun e => !(a < 8 * e.1 + 8 && 8 * e.1 < a + n) } }, true)

/-- The write alone, where its outcome does not matter. -/
def State.hbmPut (s : State) (a : Nat) (bs : List Byte) : State := (s.hbmWrite a bs).1

/-- Every flow record is free (R245); the HBM pass is longer than the rest of a freed index. -/
def State.noRecords (s : State) : State :=
  { s with flw := { s.flw with alloc := [], quar := [], goose := [] } }.setN .FLW_REC_USED 0 0

end Sys2Proof.Machine
end

