-- ==== Sys2Proof/Machine/EngMem.lean ====
section
/-! DEFINITION. What an engine addresses: DMEM, shared memory and their error marks (spec/13 R337, R338), and device
memory through the page tables and the TLBs (spec/14 R387-R391). -/

namespace Sys2Proof.Machine

open Sys2Proof

/-! ### Local memories -/

/-- A memory of the array: 0 IMEM, 1 DMEM, 2 shared memory. -/
def badKey (mem word : Nat) : Nat := mem * 2 ^ 24 + word

/-- 64-bit words of an engine's IMEM and DMEM and of a cluster's shared memory. -/
def imemWord (e o : Nat) : Nat := badKey 0 (e * 8192 + o / 8)
def dmemWord (e o : Nat) : Nat := badKey 1 (e * 16384 + o / 8)
def shmWord (c o : Nat) : Nat := badKey 2 (c * 262144 + o / 8)

/-- A corrected error of cluster `c` (R338). -/
def State.engCorr (s : State) (c addr : Nat) : State :=
  ((s.countF .ENG_CL_ECC_CORR c).bump .ENG_CNT_ECC_CORR).raise .ENG_W_MEM_CORR c addr

/-- An uncorrectable error of cluster `c` (R338). -/
def State.engUncorr (s : State) (c addr : Nat) : State :=
  let recent (l : List Nat) : List Nat := s.freeNs :: l.filter fun t => s.freeNs ≤ t + 3600000000000
  let s := { s with fus := { s.fus with clErrs := s.fus.clErrs.upd [] c recent } }
  ((s.countF .ENG_CL_ECC_UNC c).bump .ENG_CNT_ECC_UNCORR).raise .ENG_E_MEM_UNCORR c addr

/-- A read of the words of a list by cluster `c`: single-bit errors are corrected and rewritten; the flag says that a
word is uncorrectable. -/
def State.engCheck (s : State) (c : Nat) (words : List Nat) : Bool × State :=
  words.foldl (fun (acc : Bool × State) w =>
    match acc.2.eng.bad.find w with
    | some true => (true, acc.2.engUncorr c w)
    | some false => (acc.1, { acc.2 with eng := { acc.2.eng with bad := acc.2.eng.bad.erase w } }.engCorr c w)
    | none => acc) (false, s)

/-- Words that `n` bytes from offset `o` touch, as offsets. -/
def wordOffs (o n : Nat) : List Nat := if n = 0 then [] else (List.range ((o + n - 1) / 8 - o / 8 + 1)).map fun i => (o / 8 + i) * 8

/-- Of those, the words covered in full. -/
def fullOffs (o n : Nat) : List Nat := (wordOffs o n).filter fun w => o ≤ w && w + 8 ≤ o + n

/-- A local memory: DMEM of engine `e` or shared memory of cluster `c`. -/
inductive Mem where
  | dmem (e : Nat)
  | shm (c : Nat)
  deriving DecidableEq, Repr

/-- Error word of an offset, and the cluster of a memory. -/
def Mem.word : Mem → Nat → Nat
  | .dmem e, o => dmemWord e o
  | .shm c, o => shmWord c o
def Mem.cl : Mem → Nat
  | .dmem e => e / 8
  | .shm c => c

/-- Bytes of a local memory, unchecked. -/
def State.memBytes (s : State) (m : Mem) (o n : Nat) : List Byte :=
  match m with
  | .dmem e => SMap.slice 0#8 s.eng.dmem (e * 131072 + o) n
  | .shm c => SMap.slice 0#8 s.eng.shm (c * 2097152 + o) n

/-- Bytes put in a local memory; words written in full lose their error. -/
def State.memFill (s : State) (m : Mem) (o : Nat) (l : List Byte) : State :=
  let full := (fullOffs o l.length).map m.word
  let bad := if full.isEmpty then s.eng.bad else s.eng.bad.filter fun e => !full.contains e.1
  match m with
  | .dmem e => { s with eng := { s.eng with dmem := SMap.fill 0#8 s.eng.dmem (e * 131072 + o) l, bad := bad } }
  | .shm c => { s with eng := { s.eng with shm := SMap.fill 0#8 s.eng.shm (c * 2097152 + o) l, bad := bad } }

/-- A read with its check: none where a word is uncorrectable. -/
def State.memRead (s : State) (m : Mem) (o n : Nat) : Option (List Byte) × State :=
  let (bad, s) := s.engCheck m.cl ((wordOffs o n).map m.word)
  (if bad then none else some (s.memBytes m o n), s)

/-- A write with its check (R338): a word written in part is read, and the write fails where it is uncorrectable. -/
def State.memWrite (s : State) (m : Mem) (o : Nat) (l : List Byte) : Bool × State :=
  let part := (wordOffs o l.length).filter fun w => !(fullOffs o l.length).contains w
  let (bad, s) := s.engCheck m.cl (part.map m.word)
  if bad then (false, s) else (true, s.memFill m o l)

/-- A region of the effective address map (Table 13.1). -/
inductive Region where
  | loc (m : Mem) (o : Nat)
  | dev
  | none
  deriving DecidableEq, Repr

/-- Region of `n` bytes at effective address `a` for an engine: a range lies whole in one region. -/
def regionOf (e a n : Nat) : Region :=
  if a + n ≤ 0x20000 then .loc (.dmem e) a
  else if 0x200000 ≤ a && a + n ≤ 0x400000 then .loc (.shm (e / 8)) (a - 0x200000)
  else if 0x1000000 ≤ a && a + n ≤ 2 ^ 48 then .dev
  else .none

/-! ### Translation (R387-R391) -/

/-- What a translation gives: a device address, a host and its IOVA, or a cause of Table 14.7. -/
inductive Xlat where
  | dev (a : Nat)
  | host (h a : Nat)
  | fault (cause : Nat)
  deriving DecidableEq, Repr

/-- Index of a level, and the size of a leaf there. -/
def walkIdx (level va : Nat) : Nat :=
  if level = 0 then bitsOf va 47 39 else if level = 1 then bitsOf va 38 30 else if level = 2 then bitsOf va 29 21 else bitsOf va 20 16
def leafSize (level : Nat) : Nat := if level = 2 then 2097152 else 65536

/-- Fields of an entry (Table 14.6). -/
def pteAddr (p : Nat) : Nat := p / 4096 * 4096
def pteHost (p : Nat) : Nat := bitsOf p 6 5

/-- A walk from the table at `t`, level `4 - n`: the leaf and its level, or a cause (R387, R388). -/
def State.walkFrom (s : State) (va : Nat) : Nat → Nat → (Nat × Nat ⊕ Nat) × State
  | 0, _ => (.inr 3, s)
  | n + 1, t =>
    let level := 3 - n
    if hbmSize < t + 4096 then (.inr 3, s) else
    match s.hbmRead (t + 8 * walkIdx level va) 8 5 with
    | (none, s) => (.inr 9, s)
    | (some l, s) =>
      let p := leNat l
      let a := pteAddr p
      if !bitOf p 0 then (.inr 2, s)
      else if bitsOf p 11 7 ≠ 0 then (.inr 3, s)
      else if bitOf p 1 then
        (if level < 2 || a % leafSize level ≠ 0 then .inr 3
         else if !bitOf p 4 && hbmSize < a + leafSize level then .inr 3
         else if !bitOf p 4 && !inGeneral a (leafSize level) then .inr 4
         else .inl (p, level), s)
      else if level = 3 then (.inr 3, s)
      else State.walkFrom s va n a

/-- A whole walk of an address space. In LOAD a walk is refused before HBM is initialised (R79); it then faults with
cause 9 (PRESUMED, notes/assumptions/22.md). -/
def State.walk (s : State) (asid va : Nat) : (Nat × Nat ⊕ Nat) × State :=
  if !s.rb .MMU_ROOT_V asid then (.inr 1, s)
  else if s.mod.mode == .load && !s.rb .MEM_INIT_FLAG then (.inr 9, s.raise .GLB_E_ORDER)
  else (s.bump .MMU_CNT_WALK).walkFrom va 4 (s.rn .MMU_ROOT_ADDR_L asid * 4096 + s.rn .MMU_ROOT_ADDR_H asid * 2 ^ 32)

/-- A TLB entry covers an address. -/
def TlbEnt.covers (e : TlbEnt) (asid va : Nat) : Bool :=
  e.asid == asid && (if e.big then va / 2097152 == e.page else va / 65536 == e.page)

/-- The TLB of a cluster. -/
def State.tlbOf (s : State) (c : Nat) : List TlbEnt := s.mmu.tlb.get [] c
def State.setTlb (s : State) (c : Nat) (l : List TlbEnt) : State :=
  { s with mmu := { s.mmu with tlb := s.mmu.tlb.put [] c l } }

/-- The list without its last unlocked entry. -/
def dropLru (l : List TlbEnt) : List TlbEnt :=
  match l.reverse.span (·.locked) with
  | (a, _ :: b) => (a ++ b).reverse
  | (a, []) => a.reverse

/-- The leaf that translates an address for cluster `c`: from the TLB, or by a walk that fills it (R389). -/
def State.leafOf (s : State) (c asid va : Nat) : (Nat × Bool ⊕ Nat) × State :=
  let l := s.tlbOf c
  match l.find? fun e => e.covers asid va with
  | some e => (.inl (e.pte, e.big), s.setTlb c (e :: l.filter (· != e)))
  | none =>
    match (s.countF .MMU_TLB_MISS c).walk asid va with
    | (.inr k, s) => (.inr k, s)
    | (.inl (p, level), s) =>
      let e : TlbEnt := { asid := asid, big := level == 2, page := if level = 2 then va / 2097152 else va / 65536, pte := p, locked := false }
      let l := e :: s.tlbOf c
      (.inl (p, level == 2), s.setTlb c (if 512 < l.length then dropLru l else l))

/-- Host whose partition owns cluster `c` (R467). -/
def State.clOwner (s : State) (c : Nat) : Option Nat := (List.range 4).find? fun h => s.holdsCluster h c

/-- An address lies in a pinned region of a template (R391). -/
def Tmpl.pinned (t : Tmpl) (va : Nat) : Bool := t.pins.any fun p => p.1 ≤ va / 65536 && va / 65536 < p.1 + p.2

/-- Translation of one address for a task of template `t` on cluster `c`; `direct` says a scalar or vector access
(R388). -/
def State.translate (s : State) (c : Nat) (t : Tmpl) (va : Nat) (write direct : Bool) : Xlat × State :=
  match s.leafOf c t.asid va with
  | (.inr k, s) => (.fault k, s)
  | (.inl (p, big), s) =>
    let off := if big then va % 2097152 else va % 65536
    (if write && !bitOf p 2 then .fault 5
     else if bitOf p 4 && direct then .fault 6
     else if bitOf p 4 && s.clOwner c != some (pteHost p) then .fault 7
     else if t.cls = 0 && !t.pinned va then .fault 8
     else if bitOf p 4 then .host (pteHost p) (pteAddr p + off)
     else .dev (pteAddr p + off), s)

/-! ### Accesses of a context -/

/-- What an access of a context ends in: its bytes, or an exception code of Table 13.10 and a cause of Table 14.7. -/
inductive Acc where
  | ok (l : List Byte)
  | exc (code cause : Nat)
  deriving DecidableEq, Repr

/-- Engine of a context number, and its cluster (R336). -/
def engOf (k : Nat) : Nat := k / 8
def clOf (k : Nat) : Nat := k / 64

/-- A load of `n` aligned bytes by context `k` of template `t`. -/
def State.ctxLoad (s : State) (k : Nat) (t : Tmpl) (a n : Nat) : Acc × State :=
  match regionOf (engOf k) a n with
  | .none => (.exc 3 0, s)
  | .loc m o =>
    match s.memRead m o n with
    | (some l, s) => (.ok l, s)
    | (none, s) => (.exc 7 0, s)
  | .dev =>
    match s.translate (clOf k) t a false true with
    | (.dev p, s) =>
      match s.hbmRead p n 4 with
      | (some l, s) => (.ok l, s)
      | (none, s) => (.exc 7 0, s)
    | (.fault c, s) => (.exc 4 c, s)
    | (.host _ _, s) => (.exc 4 6, s)

/-- A store of aligned bytes by context `k`. -/
def State.ctxStore (s : State) (k : Nat) (t : Tmpl) (a : Nat) (l : List Byte) : Acc × State :=
  match regionOf (engOf k) a l.length with
  | .none => (.exc 3 0, s)
  | .loc m o =>
    match s.memWrite m o l with
    | (true, s) => (.ok [], s)
    | (false, s) => (.exc 7 0, s)
  | .dev =>
    match s.translate (clOf k) t a true true with
    | (.dev p, s) =>
      match s.hbmWrite p l 4 with
      | (s, true) => (.ok [], s)
      | (s, false) => (.exc 7 0, s)
    | (.fault c, s) => (.exc 4 c, s)
    | (.host _ _, s) => (.exc 4 6, s)

end Sys2Proof.Machine
end

