-- ==== Sys2Proof/Machine/Probe.lean ====
section
/-! DEFINITION. What one family asks of another: the contexts of the array and who holds an engine, whether clusters hold
tasks, whether work is in flight. -/

namespace Sys2Proof.Machine

open Sys2Proof

/-- Context `k`. -/
def State.cx (s : State) (k : Nat) : Ctx := s.eng.ctx.get Ctx.none k
def State.setCx (s : State) (k : Nat) (x : Ctx) : State :=
  { s with eng := { s.eng with ctx := s.eng.ctx.put Ctx.none k x } }

/-- Contexts of engine `e` and of cluster `c` (R336). -/
def ctxsOf (e : Nat) : List Nat := List.range' (8 * e) 8
def ctxsIn (c : Nat) : List Nat := List.range' (64 * c) 64

/-- A context that is live, one that may run, and one that keeps its engine (R342, R383). -/
def Ctx.live (x : Ctx) : Bool := x.st != .free
def Ctx.runnable (x : Ctx) : Bool := x.st == .ready || x.st == .running || x.st == .stalled
def Ctx.holds (x : Ctx) : Bool :=
  x.st == .running || x.st == .stalled || (x.st == .awaiting && x.cls = 0 && x.dmaw.isNone)

/-- The context that keeps engine `e`. -/
def State.occupant (s : State) (e : Nat) : Option Nat := (ctxsOf e).find? fun k => (s.cx k).holds

/-- Cluster `c` has a loaded P-class or T-class template (R42). -/
def State.clusterHasPT (s : State) (c : Nat) : Bool := s.tsk.tmpls.any fun t => t.2.cls ≤ 1 && bitOf t.2.clmask c

/-- Cluster `c` has a live context (R41). -/
def State.clusterLive (s : State) (c : Nat) : Bool := s.eng.ctx.any fun e => e.1 / 64 == c && e.2.live

/-- Cluster `c` has a pending token (R42): a ready entry waits for it. -/
def State.clusterPending (s : State) (c : Nat) : Bool := s.tsk.ents.any fun e => e.2.ready && e.2.cluster == c

/-- Cluster `c` has a runnable context. -/
def State.clusterRunnable (s : State) (c : Nat) : Bool := s.eng.ctx.any fun e => e.1 / 64 == c && e.2.runnable

/-- All queues, pools and the matching store are empty (R62). -/
def State.drained (s : State) : Bool :=
  s.pkts.isEmpty && s.swc.bufs.isEmpty && s.tsk.ents.isEmpty && (s.tmg.queues.all fun q => q.2.ents.isEmpty) &&
    s.prt.txE.isEmpty && s.prt.txP.isEmpty

end Sys2Proof.Machine
end

