-- ==== Sys2Proof/Machine/PowerOps.lean ====
section
/-! DEFINITION. Power domains and clocks (spec/02 R40-R49, R503): the state each domain takes in each mode, cluster wakes and the effective cluster clock. -/

namespace Sys2Proof.Machine

open Sys2Proof

/-- Domain states of PWR_DOM_STATE. -/
def dsOff : Nat := 0
def dsOn : Nat := 1
def dsGated : Nat := 2
def dsPowerGated : Nat := 3
def dsWaking : Nat := 4

/-- State of domain `d`. -/
def State.dom (s : State) (d : Nat) : Nat := s.rn .PWR_DOM_STATE d

/-- Set the state of a domain. -/
def State.setDom (s : State) (d n : Nat) : State := s.setN .PWR_DOM_STATE d n

/-- Cluster `c` is retired (R488). -/
def State.clRetired (s : State) (c : Nat) : Bool := s.fus.retired.get false c

/-- Lane of port `p` is retired (R488, R489). -/
def State.laneRetired (s : State) (p : Nat) : Bool := s.fus.retired.get false (24 + p)

/-- Ports of a SerDes quad or GE group domain (Table 02.6). -/
def domPorts (d : Nat) : List Nat := if d < 32 then List.range' (4 * (d - 24)) 4 else List.range' (32 + 4 * (d - 32)) 4

/-- Domain `d` is retired: a retired cluster, or a port domain all of whose lanes are (R488). -/
def State.domRetired (s : State) (d : Nat) : Bool :=
  if d < 24 then s.clRetired d
  else if d < 36 then (domPorts d).all s.laneRetired
  else false

/-- Domains that the fixed-list modes of Table 02.9 keep on. -/
def modeDomains : Mode → List Nat
  | .boot => [66, 72, 75]
  | .monitor => [66, 72, 73, 74, 75]
  | .standby => [61, 64, 76, 77, 78, 79]
  | .repair => [62, 63, 64, 66, 67, 70, 74]
  | _ => []

/-- Domains of 40 to 75 that SAFE-HOLD keeps: pipelines and the shared domains protected traffic and tasks use
(Table 02.9 names no numbers: DESIGN CHOICE, notes/assumptions/8.md). -/
def safeHoldKeeps (d : Nat) : Bool := (40 ≤ d && d ≤ 71) || d = 74

/-- Some port of the domain is enabled in PRT. -/
def State.portsEnabled (s : State) (d : Nat) : Bool := (domPorts d).any fun p => s.rb .PRT_EN p

/-- Modes throughout which R503 gives every domain its state. -/
def domMode : Mode → Bool
  | .load | .run | .isolated | .drain | .safeHold => true
  | _ => false

/-- Cluster `c` may be woken in mode `m` (R42, R503, Table 02.9): not retired, not requested OFF, and in SAFE-HOLD one with
a P-class or T-class template. -/
def State.mayWake (s : State) (m : Mode) (c : Nat) : Bool :=
  domMode m && c < 24 && !s.clRetired c && s.rn .PWR_DOM_REQ c != 0 && (m != .safeHold || s.clusterHasPT c)

/-- Cluster `c` is power-gated or OFF. -/
def State.unpowered (s : State) (c : Nat) : Bool := s.dom c = dsPowerGated || s.dom c = dsOff

/-- Cluster `c`, power-gated or OFF, is to come out of it without a task's demand: requested ON, or clock-gate-only under
AUTO (R42, R43, R503). -/
def State.wantsPower (s : State) (c : Nat) : Bool :=
  s.unpowered c && (s.rn .PWR_DOM_REQ c = 1 || (s.rn .PWR_DOM_REQ c = 2 && s.rb .PWR_DOM_CG_ONLY c))

/-- Some cluster of retention domain `d` is neither OFF nor retired (R41). -/
def State.retentionNeeded (s : State) (d : Nat) : Bool :=
  (List.range' (6 * (d - 76)) 6).any fun c => s.dom c != dsOff && !s.clRetired c

/-- The state a cluster of mode `m` keeps or takes (R503). One that is power-gated or OFF and to be powered stays as it is
until a wake interval takes it up (R43). -/
def State.clusterTarget (s : State) (m : Mode) (c : Nat) : Nat :=
  if !s.mayWake m c then dsOff
  else if s.rn .PWR_DOM_REQ c = 1 then (if s.dom c = dsGated then dsOn else s.dom c)
  else if s.dom c = dsOn && !s.clusterRunnable c then dsGated
  else s.dom c

/-- A retention domain is ON while any of its six clusters is neither OFF nor retired, whatever its request holds (R41); a
request ON keeps it on besides. -/
def State.retentionTarget (s : State) (d : Nat) : Nat :=
  if s.retentionNeeded d || s.rn .PWR_DOM_REQ d = 1 then dsOn else dsOff

/-- A domain of 40 to 75 in LOAD, RUN, ISOLATED or DRAIN (R503, R294). -/
def State.sharedTarget (s : State) (m : Mode) (d : Nat) : Nat :=
  if 46 ≤ d && d ≤ 53 && s.swc.held then dsOn
  else match s.rn .PWR_DOM_REQ d with
    | 0 => dsOff
    | 1 => dsOn
    | _ => if m == .load && !(62 ≤ d && d ≤ 69) then s.dom d else dsOn

/-- The state domain `d` takes on entry to mode `m` and in it (R503, Table 02.9). In TEST a domain follows a request of ON or
OFF and else stays as it is ('as set for the test'). -/
def State.domTarget (s : State) (m : Mode) (d : Nat) : Nat :=
  if s.domRetired d then dsOff else
  match m with
  | .off | .dormant => dsOff
  | .boot | .monitor | .standby | .repair => if (modeDomains m).contains d then dsOn else dsOff
  | .test => match s.rn .PWR_DOM_REQ d with
    | 0 => dsOff
    | 1 => dsOn
    | _ => s.dom d
  | .safeHold =>
    if d < 24 then s.clusterTarget m d
    else if d < 36 then (if s.rn .PWR_DOM_REQ d = 1 || (s.portsEnabled d && s.rn .PWR_DOM_REQ d != 0) then dsOn else dsOff)
    else if d < 40 then dsOff
    else if d < 76 then (if safeHoldKeeps d && s.rn .PWR_DOM_REQ d != 0 then dsOn else dsOff)
    else s.retentionTarget d
  | .load | .run | .isolated | .drain =>
    if d < 24 then s.clusterTarget m d
    else if d < 36 then (match s.rn .PWR_DOM_REQ d with
      | 0 => dsOff
      | 1 => dsOn
      | _ => if s.portsEnabled d then dsOn else dsOff)
    else if d < 40 then (if s.rn .PWR_DOM_REQ d = 0 then dsOff else dsOn)
    else if d < 76 then s.sharedTarget m d
    else s.retentionTarget d

/-- A domain comes on; PWR_DOM_WAKES counts a change from off or gated to on. -/
def State.domOn (s : State) (d : Nat) : State :=
  if s.dom d = dsOn then s else (s.countF .PWR_DOM_WAKES d).setDom d dsOn

/-- Use of a domain of 40 to 75 in LOAD: it comes ON and stays ON (R503). -/
def State.useDomain (s : State) (d : Nat) : State :=
  if s.mod.mode == .load && 40 ≤ d && d < 76 && s.rn .PWR_DOM_REQ d != 0 && !s.domRetired d then s.domOn d else s

/-- The retention domain of cluster `c` comes on with it (R41, R503). -/
def State.retainFor (s : State) (c : Nat) : State :=
  if domMode s.mod.mode && s.retentionNeeded (76 + c / 6) then s.domOn (76 + c / 6) else s

/-- A wake demand for cluster `c` (R41, R43): from clock gating at once, from power gating or OFF in a wake interval. -/
def State.wakeCluster (s : State) (c : Nat) : State :=
  if !s.mayWake s.mod.mode c then s
  else if s.dom c = dsGated then s.domOn c
  else if s.unpowered c && !s.pwr.waiting.contains c then { s with pwr := { s.pwr with waiting := s.pwr.waiting ++ [c] } }
  else s

/-- Clusters of the whole array that lost their last runnable context clock-gate (R503). -/
def State.idleCluster (s : State) (c : Nat) : State :=
  if s.dom c = dsOn && !s.clusterRunnable c && s.rn .PWR_DOM_REQ c != 1 then s.setDom c dsGated else s

/-- An image load into cluster `c`, or a register access that needs it, wakes it (R503); with no runnable context it is then
clock-gated again. -/
def State.touchCluster (s : State) (c : Nat) : State := (s.wakeCluster c).idleCluster c

/-- Core phases left (Table 02.5). -/
def coreLeft (ph : BitVec 24) : Nat := 12 - ((List.range 12).filter fun i => ph.getLsbD i).length

/-- Engine clock cap of the core rail (R40), 50 MHz units. -/
def coreCap (ph : BitVec 24) : Nat :=
  if 10 ≤ coreLeft ph then 30 else if coreLeft ph = 9 then 24 else 20

/-- Rails of Table 02.5: first phase, number of phases, operating minimum. -/
def rails : List (Nat × Nat × Nat) := [(0, 12, 8), (12, 4, 3), (16, 4, 3), (20, 3, 2), (23, 1, 1)]

/-- A rail has fewer phases than its operating minimum. -/
def railLow (ph : BitVec 24) (r : Nat × Nat × Nat) : Bool :=
  r.2.1 - ((List.range' r.1 r.2.1).filter fun i => ph.getLsbD i).length < r.2.2

/-- Some rail has (Table 02.5). -/
def railFault (ph : BitVec 24) : Bool := rails.any (railLow ph)

/-- The clock of cluster `c` but for the current-limit step: the lowest of the programmed clock, the derating cap and the
core-rail cap (R49). -/
def State.engClkCap (s : State) (c : Nat) : Nat :=
  min (min (s.rn .PWR_ENG_CLK_SET c) (if s.rb .PWR_DERATE_ACT then 24 else 30)) (coreCap s.pwr.phases)

/-- Effective clock of cluster `c` (R49). DESIGN CHOICE (R49 names the current-limit step as one of four values and gives it
none): the step's value is the lowest of the other three less the steps in force, and never below the 500 MHz of
PWR_ENG_CLK_SET's range (notes/assumptions/8.md). -/
def State.engClkEff (s : State) (c : Nat) : Nat :=
  let cap := s.engClkCap c
  if cap < 10 + s.pwr.curSteps.get 0 c then min cap 10 else cap - s.pwr.curSteps.get 0 c

/-- ALARM_N is asserted (R487). -/
def State.alarm (s : State) : Bool := s.rb .PWR_HOT || s.rb .HEA_FATAL || s.mod.mode == .safeHold

end Sys2Proof.Machine
end

