-- ==== Sys2Proof/Machine/SwcOps.lean ====
section
/-! DEFINITION. Buffers (spec/11 R293-R311): pools, admission, grants with spill and escape allotments, the checked
buffer operations of Table 11.4 and the reclaim of Inset-only buffers. -/

namespace Sys2Proof.Machine

open Sys2Proof

/-- Owner IDs of Table 11.3. -/
def ownHost (h : Nat) : Nat := 0x100 + h
def ownGraticule : Nat := 0x110
def ownPub : Nat := 0x111
def ownSlow : Nat := 0x112
def ownPipe (p : Nat) : Nat := 0x120 + p
def ownInset (n : Nat) : Nat := 0x130 + n
def ownCtx (k : Nat) : Nat := 0x400 + k

/-- Buffer size of pool `i` in bytes, and its count (R293). -/
def State.poolSize (s : State) (i : Nat) : Nat := ((s.swc.layout[i]?).map (·.1 * 64)).getD 0
def State.poolCount (s : State) (i : Nat) : Nat := ((s.swc.layout[i]?).map (·.2)).getD 0

/-- Pool of a handle and the pool's bits of a handle. -/
def poolOf (h : Nat) : Nat := h / 2 ^ 18
def idxOf (h : Nat) : Nat := h % 2 ^ 18

/-- Free count of pool `i` (R297). -/
def State.phi (s : State) (i : Nat) : Nat := s.poolCount i - (s.swc.bufs.filter fun e => poolOf e.1 == i).length

/-- Escape allotments (Table 01.7). -/
def escOf (i : Nat) : Nat := if i = 0 then 512 else if i = 1 then 64 else 0

/-- Least recorded free count, and the low warning of a pool (R300). -/
def State.notePool (s : State) (i : Nat) : State :=
  let f := s.phi i
  let e := escOf i
  let d := s.rn .SWC_WM_DROP i
  let least (m : SMap Nat) (v : Nat) : SMap Nat :=
    if m.get 0 i = 0 || v + 1 < m.get 0 i then m.put 0 i (v + 1) else m
  let s := { s with swc := { s.swc with minFree := least s.swc.minFree f,
                                        escMin := if i < 2 then least s.swc.escMin (min f e) else s.swc.escMin } }
  if f ≤ e + d && !s.swc.low.get false i then
    ({ s with swc := { s.swc with low := s.swc.low.put false i true } }).raiseLimited .SWC_W_POOL_LOW i ms1 i
  else if e + 2 * d < f then { s with swc := { s.swc with low := s.swc.low.put false i false } }
  else s

/-- An index among `n` that `ok` accepts, searched cyclically from a free start. -/
def pickFrom (n start : Nat) (ok : Nat → Bool) : Option Nat :=
  ((List.range' (start % n) (n - start % n)).find? ok).or ((List.range (start % n)).find? ok)

/-- A buffer listed with its new content. -/
def State.setBuf (s : State) (h : Nat) (b : Buf) : State := { s with swc := { s.swc with bufs := s.swc.bufs.set h b } }

/-- The buffer of a handle, none where it is FREE. -/
def State.buf (s : State) (h : Nat) : Option Buf := s.swc.bufs.find h

/-- GRANT: FREE to HELD (Table 11.4). -/
def State.grantAt (s : State) (h owner : Nat) (bytes : List Byte) (pkt : Option Packet) : State :=
  let b : Buf := { owner := owner, st := .held, count := 0, insets := 0, bytes := bytes, order := s.swc.grants, pkt := pkt }
  let s := ({ s with swc := { s.swc with grants := s.swc.grants + 1, held := true } }.setBuf h b).setB .SWC_LAYOUT_LOCKED 0 true
  ((List.range' 46 8).foldl (fun s d => s.useDomain d) s).bump .SWC_CNT_GRANT

/-- The counters of a grant from pool `i` for a request whose smallest fit is `i0`; `low`: the pool stood within its
escape allotment (Table 11.7). -/
def State.countGrant (s : State) (i i0 : Nat) (prot low : Bool) : State :=
  let s := if i ≠ i0 then s.bump .SWC_CNT_SPILL else s
  if prot && low then s.bump .SWC_CNT_ESC_GRANT else s

/-- A grant from pool `i` for a request whose smallest fit is `i0`. -/
def State.grantIn (s : State) (i i0 owner : Nat) (prot : Bool) (bytes : List Byte) (pkt : Option Packet) : State × Option Nat :=
  let (f, s) := s.draw
  match pickFrom (s.poolCount i) f.toNat fun k => (s.buf (i * 2 ^ 18 + k)).isNone with
  | none => (s, none)
  | some k =>
    let low := s.phi i ≤ escOf i
    let s := (s.grantAt (i * 2 ^ 18 + k) owner bytes pkt).countGrant i i0 prot low
    (s.notePool i, some (i * 2 ^ 18 + k))

/-- A transmission in progress reads buffer `h` for an Inset copy. -/
def State.insetBegun (s : State) (h : Nat) : Bool :=
  (s.prt.txE ++ s.prt.txP).any fun e => e.2.ent.buf == h && e.2.ent.inset.isSome && !e.2.ent.void

/-- The Inset-only buffers of pool `i`, the oldest first (R311). -/
def State.insetOnly (s : State) (i : Nat) : Option (Nat × Buf) :=
  (s.swc.bufs.filter fun e => poolOf e.1 == i && e.2.st == .releasing && e.2.count == e.2.insets && !s.insetBegun e.1).foldl
    (fun best e => match best with
      | some x => if e.2.order < x.2.order then some e else best
      | none => some e) none

/-- Void the Inset replicas of buffer `h` (R311). -/
def State.voidInsets (s : State) (h : Nat) : State :=
  let v (e : QEnt) : QEnt := if e.buf == h && e.inset.isSome then { e with void := true } else e
  let ses := s.tmg.queues.flatMap fun q => (q.2.ents.filter fun e => e.buf == h && e.inset.isSome && !e.void).filterMap (·.inset)
  let s := { s with tmg := { s.tmg with queues := s.tmg.queues.map fun q => (q.1, { q.2 with ents := q.2.ents.map v }) } }
  ses.eraseDups.foldl (fun s n => s.countF .SWC_INS_SHED n) s

/-- Reclaim an Inset-only buffer of pool `i` for a request whose smallest fit is `i0` (R311). -/
def State.reclaim (s : State) (i i0 owner : Nat) (prot : Bool) (bytes : List Byte) (pkt : Option Packet) : State × Option Nat :=
  match s.insetOnly i with
  | none => (s, none)
  | some (h, _) =>
    let s := ((s.voidInsets h).bump .SWC_CNT_INSET_SHED).raiseLimited .SWC_W_INSET_SHED 0 ms1
    ((s.grantAt h owner bytes pkt).countGrant i i0 prot (s.phi i ≤ escOf i), some h)

/-- One buffer request (R297-R299, R311). `len` is the frame length including FCS; none where it is not known. General
parts from the smallest fit upward, then for a protected request the allotments, then Inset-only buffers: the order of the
last two is DEDUCED from step 5 of the example of R311, which reclaims once no pool admits the request
(notes/assumptions/31.md). -/
def State.request (s : State) (prot : Bool) (len : Option Nat) (owner : Nat) (bytes : List Byte) (pkt : Option Packet) :
    State × Option Nat :=
  let fits (i : Nat) : Bool := match len with
    | some l => l ≤ s.poolSize i
    | none => s.rn .SWC_CT_POOL ≤ i
  let pools := (List.range 4).filter fits
  match pools.head? with
  | none => (s, none)
  | some i0 =>
    let admits (i : Nat) : Bool := if prot then escOf i < s.phi i else escOf i + s.rn .SWC_WM_DROP i < s.phi i
    match pools.find? admits with
    | some i => s.grantIn i i0 owner prot bytes pkt
    | none =>
      match (if prot then ([0, 1].filter fits).find? fun i => 0 < s.phi i else none) with
      | some i => s.grantIn i i0 owner prot bytes pkt
      | none =>
        match pools.find? fun i => (s.insetOnly i).isSome with
        | some i => s.reclaim i i0 owner prot bytes pkt
        | none => (s, none)

/-- Code of a descriptor state (SWC_OWN_ERR_STATE). -/
def bufCode : Option Buf → Nat
  | none => 0
  | some b => match b.st with
    | .held => 1 | .shared => 2 | .releasing => 3

/-- A buffer operation that fails its check (R302). -/
def State.ownErr (s : State) (op id h : Nat) : State :=
  let range := s.poolCount (poolOf h) ≤ idxOf h
  let st := bufCode (s.buf h)
  let holder := ((s.buf h).map (·.owner)).getD 0
  let s := (s.countF .SWC_OWN_CNT id).bump .SWC_CNT_OWN_ERR
  let s := if s.rb .SWC_OWN_ERR_VALID then s else
    let t := ((s.setB .SWC_OWN_ERR_VALID 0 true).setN .SWC_OWN_ERR_OP 0 op).setN .SWC_OWN_ERR_STATE 0 st
    let t := ((t.setN .SWC_OWN_ERR_HOLDER 0 holder).setN .SWC_OWN_ERR_ID 0 id).setN .SWC_OWN_ERR_BUF 0 h
    { t with swc := { t.swc with ownRead := false } }
  if range then s.raise .SWC_E_BUF_RANGE id (h + op * 2 ^ 20 + st * 2 ^ 24)
  else s.raise .SWC_E_OWNER id (h + op * 2 ^ 20 + st * 2 ^ 24)

/-- A buffer becomes FREE. -/
def State.freed (s : State) (h : Nat) : State :=
  ({ s with swc := { s.swc with bufs := s.swc.bufs.erase h } }).notePool (poolOf h)

/-- HANDOVER from `id` to `to`, charged to `charge` where it fails (R302). -/
def State.handover (s : State) (h id dest : Nat) (op : Nat := 1) (charge : Nat := id) : State × Bool :=
  match s.buf h with
  | some b => if b.st == .held && b.owner == id then (s.setBuf h { b with owner := dest }, true) else (s.ownErr op charge h, false)
  | none => (s.ownErr op charge h, false)

/-- FREE by `id` (R302). -/
def State.freeBuf (s : State) (h id : Nat) (op : Nat := 2) (charge : Nat := id) : State × Bool :=
  match s.buf h with
  | some b =>
    if b.owner == id && b.st == .held then (s.freed h, true)
    else if b.owner == id && b.st == .shared then
      (if b.count = 0 then s.freed h else s.setBuf h { b with st := .releasing }, true)
    else (s.ownErr op charge h, false)
  | none => (s.ownErr op charge h, false)

/-- RELEASE of a reference (R302); `inset` says that it is an Inset reference. -/
def State.releaseBuf (s : State) (h id : Nat) (inset : Bool := false) : State × Bool :=
  match s.buf h with
  | some b =>
    if b.st != .held && 0 < b.count then
      let b := { b with count := b.count - 1, insets := if inset then b.insets - 1 else b.insets }
      (if b.st == .releasing && b.count = 0 then s.freed h else s.setBuf h b, true)
    else (s.ownErr 3 id h, false)
  | none => (s.ownErr 3 id h, false)

end Sys2Proof.Machine
end

