-- ==== Sys2Proof/Machine/PktOps.lean ====
section
/-! DEFINITION. Packets between ingress and step 8: their list, their count in a bank (spec/07 R185, R189), and the ways
they leave the path. -/

namespace Sys2Proof.Machine

open Sys2Proof

/-- The packet of an id. -/
def State.pkt (s : State) (id : Nat) : Option Packet := s.pkts.find? fun p => p.id == id

/-- A packet listed with its new content. -/
def State.setPkt (s : State) (p : Packet) : State :=
  { s with pkts := s.pkts.map fun q => if q.id == p.id then p else q }

/-- A packet joins the list. -/
def State.addPkt (s : State) (p : Packet) : State :=
  { s with pkts := s.pkts ++ [{ p with id := s.nextPkt }], nextPkt := s.nextPkt + 1 }

/-- A packet leaves the list. -/
def State.delPkt (s : State) (id : Nat) : State := { s with pkts := s.pkts.filter fun q => q.id != id }

/-- A bank of the rule store: false A, true B. -/
def State.bank (s : State) (b : Bool) : Bank := if b then s.cls.b else s.cls.a

/-- A bank changed. -/
def State.setBank (s : State) (b : Bool) (k : Bank) : State :=
  { s with cls := if b then { s.cls with b := k } else { s.cls with a := k } }

/-- Code of a bank: 0 A, 1 B. -/
def bankCode (b : Bool) : Nat := if b then 1 else 0

/-- A draining bank without packets becomes EMPTY (R189); fragment entries of its edition are freed (R177). -/
def State.bankDrained (s : State) (b : Bool) : State :=
  let k := s.bank b
  if k.st == .draining && k.inflight = 0 then
    let s := s.setBank b { k with st := .empty, ed := Edition.none, hits := k.hits }
    let s := { s with cls := { s.cls with frags := s.cls.frags.filter fun e => !(e.2.bankB == b && e.2.num == k.ed.num) } }
    let s := (s.setN .CLS_DRAIN_ED 0 (k.ed.num % 256)).setN .CLS_DRAIN_NS 0 (min (2 ^ 20 - 1) (s.freeNs - s.cls.switchAt))
    s.raise .CLS_I_DRAINED (bankCode b * 256 + k.ed.num)
  else s

/-- A packet leaves the in-flight count of its bank (R185). -/
def State.leaveBank (s : State) (p : Packet) : State × Packet :=
  match p.tag with
  | some (b, _) =>
    if p.counted then
      let k := s.bank b
      ((s.setBank b { k with inflight := k.inflight - 1 }).bankDrained b, { p with counted := false })
    else (s, p)
  | none => (s, p)

/-- The packet is dropped: it leaves the count and the list, and its buffer is freed by its pipeline (port 62, R304). -/
def State.dropPkt (s : State) (p : Packet) : State :=
  let (s, p) := s.leaveBank p
  let s := match p.buf with
    | some h => (s.freeBuf h (ownPipe p.pipe)).1
    | none => s
  { s.delPkt p.id with prt := { s.prt with inc := s.prt.inc.filter fun e => e.2 != p.id } }

/-- Pipeline of a line port (Table 01.3). -/
def pipeOf (p : Nat) : Nat := if p < 16 || (32 ≤ p && p < 40) then 0 else 1

/-- A packet that loses its edition: it counts as detached, and enters at word 0x006 next (R173, R189). -/
def State.detach (s : State) (p : Packet) : State × Packet :=
  let (s, p) := s.leaveBank p
  (s.bump .CLS_CNT_DETACHED, { p with tag := none, due := true })

/-- A packet enters its next parse at the entry word `kind` with pass `n`, or at word 0x006 as a new packet where it is
edition-detached (R156, R172, R173). -/
def Packet.reenters (p : Packet) (kind n : Nat) : Packet :=
  { p with kind := if p.due then 6 else kind, pass := if p.due then 1 else n, detached := p.due, due := false, restarts := 0,
           preempts := 0, guarded := false }

end Sys2Proof.Machine
end

