-- ==== Sys2Proof/Machine/TskOps.lean ====
section
/-! DEFINITION. The matching store and the Field book (spec/14 R376-R380, R386): what sending a token does. -/

namespace Sys2Proof.Machine

open Sys2Proof

/-- A Field book record, where the filters of R386 ask for it. -/
def State.fbook (s : State) (kind cls ctx tmpl tag data : Nat) (low : Nat := 0) : State :=
  if s.rb .TSK_FB_EN && !s.rb .TSK_FB_STOPPED && bitOf (s.rn .TSK_FB_KIND) kind && bitOf (s.rn .TSK_FB_CLASS) cls &&
      s.rn .TSK_FB_TMPL_LO ≤ tmpl && tmpl ≤ s.rn .TSK_FB_TMPL_HI then
    let w := s.rn .TSK_FB_WPTR
    let r : FbRec := { time := s.nowNs % 2 ^ 64, kind := kind, cls := cls + 4 * low, ctx := ctx, tmpl := tmpl,
                       seq := s.tsk.fbSeq % 65536, tag := tag, data := data }
    let s := { s with tsk := { s.tsk with fb := s.tsk.fb.set w r, fbSeq := s.tsk.fbSeq + 1 } }
    if w = 8191 then
      if s.rb .TSK_FB_STOP then ((s.setN .TSK_FB_WPTR 0 0).setB .TSK_FB_STOPPED 0 true).raise .TSK_W_FB_FULL
      else (s.setN .TSK_FB_WPTR 0 0).setB .TSK_FB_WRAPPED 0 true
    else s.setN .TSK_FB_WPTR 0 (w + 1)
  else s

/-- Class of a template; B where none is loaded. -/
def State.tmplCls (s : State) (t : Nat) : Nat := ((s.tsk.tmpls.find t).map (·.cls)).getD 3

/-- Clusters of a template's set that are not retired, ascending (R380). -/
def State.clusterSet (s : State) (t : Tmpl) : List Nat :=
  (List.range 24).filter fun c => bitOf t.clmask c && !s.clRetired c

/-- A buffer that a discarded token held is freed or its reference released (R378). A parked packet is dropped with it. -/
def State.settleTok (s : State) (h : Nat) : State :=
  match s.buf h with
  | some b =>
    if b.st == .held then
      (if b.owner = ownSlow then
        match s.pkts.find? fun p => p.buf == some h && p.stage == .parked with
        | some p => let (s, _) := s.leaveBank p; (s.delPkt p.id).freed h
        | none => s.freed h
      else s.freed h)
    else (s.releaseBuf h ownSlow).1
  | none => s

/-- A token leaves the store unused (R378). -/
def State.loseTok (s : State) (t : Token) : State :=
  let s := if t.isBuf then s.settleTok (t.value % 2 ^ 20) else s
  match t.grat with
  | some g => s.setN .SAU_JG_TOK_OUT g (s.rn .SAU_JG_TOK_OUT g - 1)
  | none => s

/-- An entry is discarded (R378). -/
def State.loseEnt (s : State) (k : Nat) (e : MEnt) : State :=
  e.toks.foldl (fun s t => s.loseTok t) { s with tsk := { s.tsk with ents := s.tsk.ents.erase k } }

/-- Classes that the mode admits (R379, test 2). -/
def modeAdmits (m : Mode) (cls : Nat) : Bool :=
  match m with
  | .load | .standby | .run | .isolated | .test | .repair => true
  | .safeHold => cls ≤ 1
  | _ => false

/-- Enabled groups. -/
def State.groupsOn (s : State) : List Nat := s.listed .SAU_JG_EN

/-- Tokens a group may have in the store (R280). -/
def State.tokMax (s : State) (g : Nat) : Nat := max 1 (s.rn .SAU_JG_TOK_MAX g)

/-- Tokens reserved for the enabled groups (SAU_TOK_RESV). -/
def State.tokResv (s : State) : Nat := (s.groupsOn.map s.tokMax).foldl (· + ·) 0

/-- Graticule tokens the store holds. -/
def State.gratHeld (s : State) : Nat := (s.tsk.ents.map fun e => (e.2.toks.filter fun t => t.grat.isSome).length).foldl (· + ·) 0

/-- An entry is free for a token (R379, test 4). -/
def State.entryFree (s : State) (cls : Nat) (grat : Bool) : Bool :=
  let free := 16384 - s.tsk.ents.length
  if grat then 0 < free
  else if cls ≤ 1 then s.tokResv - s.gratHeld < free
  else 1024 < free && (cls = 2 || (s.tsk.ents.filter fun e => s.tmplCls e.2.tmpl = 3).length < s.rn .TSK_B_MAX)

/-- Who emits a token by instruction or host command: class, TT_P_EMIT_ANY and a test of the emitter's partition on a
cluster; none for the device's own sources (R379, test 3). -/
structure Emitter where
  cls     : Nat
  any     : Bool
  mayUse  : Nat → Bool

/-- Whether the emitter may address the template (R379, test 3). -/
def emitOk (em : Option Emitter) (t : Tmpl) : Bool :=
  match em with
  | none => true
  | some e => (e.any || e.cls ≤ t.cls) && (List.range 24).all fun c => !bitOf t.clmask c || e.mayUse c

/-- Free contexts of engine `e` that a class may use (R381). -/
def State.freeCtxs (s : State) (e cls : Nat) : List Nat :=
  (ctxsOf e).filter fun k => !(s.cx k).live &&
    (if cls = 0 then k % 8 = 7 else if cls = 1 then k % 8 ≠ 7 else k % 8 < 6)

/-- Class of the context that keeps engine `e`; 4 where it is idle. -/
def State.engineCls (s : State) (e : Nat) : Nat := ((s.occupant e).map fun k => (s.cx k).cls).getD 4

/-- The engine of cluster `c` that takes a task (R381): an idle one, else the one running the lowest class below the
task's; ties to the lower number. -/
def State.engineFor (s : State) (c cls engmask : Nat) : Option Nat :=
  let es := ((List.range 8).filter fun e => bitOf engmask e && !(s.freeCtxs (8 * c + e) cls).isEmpty).map (8 * c + ·)
  ((es.filter fun e => cls < s.engineCls e).foldl (fun best e => match best with
    | some b => if s.engineCls b < s.engineCls e then some e else best
    | none => some e) none)

/-- Ready entries of a class in cluster `c`. -/
def State.readyIn (s : State) (c cls : Nat) : Nat :=
  (s.tsk.ents.filter fun e => e.2.ready && e.2.cluster == c && s.tmplCls e.2.tmpl == cls).length

/-- Cluster `c` is being reset (Table 03.4). -/
def State.clusterReset (s : State) (c : Nat) : Bool := s.boot.srUnit == 2 && s.boot.srIndex == c

/-- A token names a cluster under reset: it is pinned there, or its template has no other (Table 03.4). -/
def State.tokenBarred (s : State) (m : Tmpl) (pin : Nat) : Bool :=
  let set := s.clusterSet m
  if pin < 31 then ((set[pin % set.length]?).map s.clusterReset).getD false else !set.isEmpty && set.all s.clusterReset

/-- The cluster a ready entry goes to (R380). -/
def State.chooseCluster (s : State) (t : Tmpl) (pin : Nat) : Nat :=
  let set := s.clusterSet t
  if pin < 31 then (set[pin % set.length]?).getD 0
  else
    let set := set.filter fun c => !s.clusterReset c
    match set.find? fun c => (s.engineFor c t.cls t.engmask).isSome with
    | some c => c
    | none => (set.foldl (fun best c => match best with
      | some b => if s.readyIn c t.cls < s.readyIn b t.cls then some c else best
      | none => some c) none).getD 0

/-- Position a token of the entry is pinned to; 31 none (R380). -/
def pinIn (l : List Token) : Nat := ((l.find? fun x => x.pin < 31).map (·.pin)).getD 31

/-- A ready entry joins the dispatcher of its cluster, which it wakes (R380, R41). -/
def State.markReady (s : State) (k : Nat) (m : Tmpl) (e : MEnt) : State :=
  let e := { e with ready := true, order := s.tsk.readyN, cluster := s.chooseCluster m (pinIn e.toks) }
  let s := { s with tsk := { s.tsk with ents := s.tsk.ents.set k e, readyN := s.tsk.readyN + 1 } }
  (s.fbook 3 m.cls 0x7FF e.tmpl e.tag ((e.toks.head?.map (·.value)).getD 0)).wakeCluster e.cluster

/-- An accepted token is counted and recorded. -/
def State.tookTok (s : State) (t : Token) (m : Tmpl) : State :=
  (s.bump .TSK_CNT_TOKEN).fbook 1 m.cls 0x7FF t.tmpl t.tag t.value

/-- A token joins or opens its entry; the code of a refusal, or none (R378, R379). -/
def State.accept (s : State) (t : Token) (em : Option Emitter) : Option Ev × State :=
  match s.tsk.tmpls.find t.tmpl with
  | none => (some .TSK_E_TMPL, s)
  | some m =>
    if !s.rb .TSK_TT_EN t.tmpl then (some .TSK_E_TMPL, s)
    else if s.tokenBarred m t.pin then (some .TSK_E_TMPL, s)
    else if !modeAdmits s.mod.mode m.cls then (some .TSK_E_MODE, s)
    else if !emitOk em m then (some .TSK_E_PERM, s)
    else
      let old := if m.nopnd ≤ 1 then none else s.tsk.ents.find? fun e => e.2.tmpl == t.tmpl && e.2.tag == t.tag
      match old with
      | some (k, e) =>
        if e.toks.any fun x => x.pos == t.pos then (some .TSK_E_DUP_OPND, s)
        else
          let e := { e with toks := e.toks ++ [t] }
          let s := { (s.tookTok t m) with tsk := { (s.tookTok t m).tsk with ents := s.tsk.ents.set k e } }
          (none, if (List.range m.nopnd).all fun q => e.toks.any fun x => x.pos == q then s.markReady k m e else s)
      | none =>
        if !s.entryFree m.cls t.grat.isSome then (some .TSK_E_FULL, s)
        else
          let k := s.tsk.nextEnt
          let e : MEnt := { tmpl := t.tmpl, tag := t.tag, toks := [t], ready := false, cluster := 0, order := 0 }
          let s := { (s.tookTok t m) with tsk := { (s.tookTok t m).tsk with ents := s.tsk.ents.set k e, nextEnt := k + 1 } }
          (none, if m.nopnd ≤ 1 then s.markReady k m e else s)

/-- A token is sent to the matching store (R377-R379): the refusal code, or none. -/
def State.sendTok (s : State) (t : Token) (em : Option Emitter := none) : Option Ev × State :=
  let cls := s.tmplCls t.tmpl
  match s.accept t em with
  | (none, s) => (none, s)
  | (some e, s) =>
    let s := (s.bump .TSK_CNT_REFUSED).fbook 2 cls 0x7FF t.tmpl t.tag t.value (e.code % 64)
    (some e, if e == .TSK_E_TMPL then s.raiseLimited e t.tmpl ms1 t.tmpl else s)

/-- TSK_TT_EN of a template cleared: its entries are discarded (R376). -/
def State.disableTmpl (s : State) (t : Nat) : State :=
  let s := s.setB .TSK_TT_EN t false
  (s.tsk.ents.filter fun e => e.2.tmpl == t).foldl (fun s e => s.loseEnt e.1 e.2) s

end Sys2Proof.Machine
end

