-- ==== Sys2Proof/Machine/EngOps.lean ====
section
/-! DEFINITION. Contexts and their engines (spec/13 R339-R343), transfers (spec/14 R393-R396), exceptions, the fault ring
and the abort of a task (spec/13 R365, spec/14 R397-R401). -/

namespace Sys2Proof.Machine

open Sys2Proof

/-! ### Who runs (R342, R382) -/

/-- A Field book record of a context. -/
def State.fbCtx (s : State) (kind k data : Nat) : State :=
  let x := s.cx k
  s.fbook kind x.cls k x.tmpl x.tag data

/-- An engine that no context keeps runs its highest-class READY context (R382); among equals the choice is free. `sw`
says that it switches from another context. -/
def State.runNext (s : State) (e : Nat) (sw : Bool) : State :=
  if (s.occupant e).isSome then s else
  let rs := (ctxsOf e).filter fun k => (s.cx k).st == .ready
  let top := rs.foldl (fun m k => min m (s.cx k).cls) 4
  let rs := rs.filter fun k => (s.cx k).cls == top
  let (pick, s) := match rs with
    | [] => (none, s)
    | [k] => (some k, s)
    | l => let (f, s) := s.draw; (l[f.toNat % l.length]?, s)
  match pick with
  | none => s
  | some k =>
    let s := if sw then s.bump .ENG_CNT_CTX_SW else s
    (s.setCx k { s.cx k with st := .running }).fbCtx 7 k 0

/-- A context becomes READY on its engine, which wakes. -/
def State.makeReady (s : State) (k : Nat) : State :=
  ((s.setCx k { s.cx k with st := .ready, dmaw := none }).runNext (engOf k) false).wakeCluster (clOf k)

/-- A context that waited with its engine kept (a P-class AWAIT, R383) runs on; any other becomes READY. -/
def State.wakeCtx (s : State) (k : Nat) : State :=
  let x := s.cx k
  if x.cls = 0 && x.dmaw.isNone then (s.setCx k { x with st := .running }).fbCtx 7 k 0 else s.makeReady k

/-- A context leaves its engine in a state that waits: the engine switches, or its cluster idles. -/
def State.leaveEngine (s : State) (k : Nat) (x : Ctx) : State :=
  ((s.setCx k x).runNext (engOf k) true).idleCluster (clOf k)

/-- A pending synchronous authentication of a context loses its waiter (Table 13.12). -/
def State.orphanAuth (s : State) (k : Nat) : State :=
  { s with aut := { s.aut with ops := s.aut.ops.map fun o => if o.ctx == k && !o.async then { o with orphan := true } else o } }

/-- The context that keeps engine `e` is pre-empted by context `by` (R381, R382, Table 13.12): it becomes READY, and a
wait is abandoned. -/
def State.preemptCtx (s : State) (e by' : Nat) : State :=
  match s.occupant e with
  | none => s
  | some k =>
    let s := (s.orphanAuth k).setCx k { s.cx k with st := .ready, auth := false, dmaw := none }
    (((s.bump .TSK_CNT_PREEMPT).bump .ENG_CNT_CTX_SW).fbCtx 5 by' k)

/-! ### Continuation tokens (R341) -/

/-- The context a continuation address names, and whether its generation is current. -/
def caddrCtx (a : Nat) : Nat := a % 2048
def State.caddrFresh (s : State) (a : Nat) : Bool :=
  let k := caddrCtx a
  k < 1536 && a / 2048 % 32 = 0 && (s.cx k).live && (s.cx k).gen == a / 65536 % 65536

/-- The continuation address of a context. -/
def State.caddr (s : State) (k : Nat) : Nat := k + (s.cx k).gen * 65536

/-- A continuation token is emitted; it is delivered in order of arrival by CONTINUATION_DELIVERY. -/
def State.sendCont (s : State) (a tag : Nat) (v : BitVec 64) : State :=
  { s with eng := { s.eng with conts := s.eng.conts ++ [(a, tag, v)] } }

/-- Tokens queued at a context or under way to it. -/
def State.contLoad (s : State) (k : Nat) : Nat :=
  (s.cx k).cont.length + (s.eng.conts.filter fun t => caddrCtx t.1 == k && s.caddrFresh t.1).length

/-- A continuation token reaches its context, or is discarded (R341). -/
def State.deliverCont (s : State) (a tag : Nat) (v : BitVec 64) : State :=
  let k := caddrCtx a
  if !s.caddrFresh a then s.bump .ENG_CNT_CONT_STALE
  else
    let x := s.cx k
    if 8 ≤ x.cont.length then s.bump .ENG_CNT_CONT_DROP
    else
      let s := s.setCx k { x with cont := x.cont ++ [(tag, v)] }
      if x.st == .awaiting && x.dmaw.isNone then s.wakeCtx k else s

/-! ### Buffers of a task (R343) -/

/-- A handle on a list is settled: a buffer the context holds is freed, a reference released. A parked packet is held by
the slow path, and stays (R172). -/
def State.settleBuf (s : State) (k h : Nat) : Bool × State :=
  match s.buf h with
  | none => (false, s)
  | some b =>
    if b.owner = ownCtx k then (true, (s.freeBuf h (ownCtx k)).1)
    else if b.owner = ownSlow || b.count = 0 then (false, s)
    else (true, (s.releaseBuf h (ownCtx k)).1)

/-- The buffer list of context `k` is settled at the end of its task (R343). -/
def State.settleBufs (s : State) (k : Nat) : State :=
  let (n, s) := (s.cx k).bufs.foldl (fun (acc : Nat × State) h =>
    let (did, s) := acc.2.settleBuf k h
    (if did then acc.1 + 1 else acc.1, s)) (0, s)
  if n = 0 then s else (s.bump .ENG_CNT_BUF_LEAK 0 n).raiseLimited .ENG_W_BUF_LEAK 0 ms1 k

/-! ### Bytes of a buffer -/

/-- Bytes nothing has stored in a buffer hold no stated value: `n` free ones. -/
def State.freeBytes (s : State) : Nat → List Byte × State
  | 0 => ([], s)
  | n + 1 =>
    let (f, s) := s.draw
    let (l, s) := State.freeBytes s n
    (f.setWidth 8 :: l, s)

/-- `n` bytes at offset `o` of a buffer. -/
def State.bufRead (s : State) (h o n : Nat) : List Byte × State :=
  let have' := (((s.buf h).map (·.bytes)).getD []).drop o
  if n ≤ have'.length then (have'.take n, s)
  else
    let (l, s) := s.freeBytes (n - have'.length)
    (have' ++ l, s)

/-- Bytes stored at offset `o` of a buffer; bytes before them that nothing has stored become free values. -/
def State.bufWrite (s : State) (h o : Nat) (l : List Byte) : State :=
  match s.buf h with
  | none => s
  | some b =>
    let (gap, s) := s.freeBytes (o - b.bytes.length)
    let old := b.bytes ++ gap
    s.setBuf h { b with bytes := old.take o ++ l ++ old.drop (o + l.length) }

/-! ### Fault ring (R397) -/

/-- Unserviced entries (MMU_FR_LVL). -/
def State.ringLevel (s : State) : Nat := (s.rn .MMU_FR_HEAD + 512 - s.rn .MMU_FR_TAIL) % 512

/-- A fault-ring entry (Table 14.9). -/
structure FrEnt where
  kind  : Nat
  cause : Nat
  xcode : Nat
  flags : Nat
  ctx   : Nat
  gen   : Nat
  va    : Nat
  asid  : Nat
  ref   : Nat
  tmpl  : Nat

/-- Its 32 bytes. -/
def FrEnt.bytes (f : FrEnt) (time : Nat) : List Byte :=
  leBytes 1 f.kind ++ leBytes 1 f.cause ++ leBytes 1 f.xcode ++ leBytes 1 f.flags ++ leBytes 2 f.ctx ++ leBytes 2 f.gen ++
    leBytes 6 f.va ++ leBytes 1 f.asid ++ leBytes 1 (clOf f.ctx) ++ leBytes 8 time ++ leBytes 4 f.ref ++ leBytes 2 f.tmpl ++ leBytes 2 0

/-- An entry written to the ring; the flag says that the ring was full and it was not (R397). -/
def State.ringWrite (s : State) (f : FrEnt) : Bool × State :=
  if 256 ≤ s.ringLevel then (true, (s.bump .MMU_CNT_FR_OVF).raiseLimited .MMU_E_RING_OVF (clOf f.ctx) ms1 f.ctx)
  else
    let h := s.rn .MMU_FR_HEAD
    let s := { s with mmu := { s.mmu with ring := s.mmu.ring.set (h % 256) (f.bytes (s.nowNs % 2 ^ 64)) } }
    (false, ((s.setN .MMU_FR_HEAD 0 ((h + 1) % 512)).bump .MMU_CNT_FAULT).raiseLimited .MMU_E_FAULT (clOf f.ctx) ms1 f.ctx)

/-! ### Transfers (R393-R396) -/

/-- A status word (R352). -/
def statusWord (code cause result : Nat) : BitVec 64 := BitVec.ofNat 64 (code % 65536 + cause % 256 * 65536 + result % 2 ^ 32 * 2 ^ 32)

/-- Transfers of a cluster, and one by its sequence number. -/
def State.dmaOf (s : State) (c seq : Nat) : Option Dma := s.mmu.dmas.find? fun d => d.cl == c && d.seq == seq
def State.setDma (s : State) (d : Dma) : State :=
  { s with mmu := { s.mmu with dmas := s.mmu.dmas.map fun x => if x.cl == d.cl && x.seq == d.seq then d else x } }

/-- Code of DD_OUT for a transfer without an outcome. -/
def DmaSt.code : DmaSt → Nat
  | .queued => 0
  | .running => 1
  | _ => 2

/-- Fields written back to a descriptor: DD_DONE, DD_OUT, DD_CAUSE, DD_FAULT_VA, DD_SEQ (R393). -/
def State.writeDesc (s : State) (d : Dma) (out cause va : Nat) : State :=
  let m := Mem.dmem (engOf d.ctx)
  let s := (s.memWrite m (d.desc + 32) (leBytes 4 d.done ++ leBytes 1 out ++ leBytes 1 cause)).2
  (s.memWrite m (d.desc + 40) (leBytes 8 va ++ leBytes 4 d.seq)).2

/-- The status word of a transfer's outcome (R396). -/
def dmaStatus (out done : Nat) : BitVec 64 := statusWord (if out = 5 then Ev.MMU_E_DMA_ABORTED.code else 0) out done

/-- A suspended transfer takes a page request that has become free (R392). -/
def State.nextPage (s : State) (c : Nat) : State :=
  if 4 ≤ (s.mmu.dmas.filter fun d => d.cl == c && d.st == .page).length then s else
  match s.mmu.dmas.find? fun d => d.cl == c && d.st == .pageWait && s.rb .HST_PRI_EN d.port with
  | some d => (s.setDma { d with st := .page }).bump .MMU_CNT_PRI_REQ
  | none => s

/-- A descriptor of a cluster's queue starts: the first one not suspended, unless DD_F_ORDER makes it wait for an earlier
one of its context (R394). -/
def State.startDma (s : State) (c : Nat) : State :=
  match (s.mmu.dmas.filter fun d => d.cl == c).find? fun d => d.st == .queued || d.st == .running with
  | some d =>
    let earlier := s.mmu.dmas.any fun x => x.cl == c && x.ctx == d.ctx && x.gen == d.gen && x.seq != d.seq &&
      (s.mmu.dmas.takeWhile fun y => !(y.cl == c && y.seq == d.seq)).any fun y => y.cl == c && y.seq == x.seq
    if d.st == .queued && !(d.order && earlier) then (s.setDma { d with st := .running }).writeDesc d 1 0 0 else s
  | none => s

/-- A transfer has its outcome (R395): 3 COMPLETED, 4 COMPLETED_ABORT_LATE, 5 ABORTED. -/
def State.dmaEnd (s : State) (d : Dma) (out cause : Nat) : State :=
  let s := { s with mmu := { s.mmu with dmas := s.mmu.dmas.filter fun x => !(x.cl == d.cl && x.seq == d.seq),
                                        outs := s.mmu.outs.upd [] d.cl fun l => ((d.seq, out, d.done) :: l).take 64 } }
  let s := s.writeDesc d out cause (if cause = 0 then 0 else d.va)
  let s := s.bump (if out = 3 then .MMU_CNT_DMA_DONE else if out = 4 then .MMU_CNT_DMA_LATE else .MMU_CNT_DMA_ABORT)
  let s := s.fbook 14 d.cls d.ctx d.tmpl d.ttag (d.seq % 2 ^ 32 + d.done * 2 ^ 32)
  let s := if d.notify then s.sendCont (d.ctx + d.gen * 65536) d.tag (dmaStatus out d.done) else s
  let x := s.cx d.ctx
  let s := if x.st == .awaiting && x.gen == d.gen && x.dmaw == some d.seq then s.makeReady d.ctx else s
  (s.nextPage d.cl).startDma d.cl

/-- What one side of a unit meets. -/
inductive Side where
  | ok
  | fault (cause xcode va : Nat)
  | absent (h va : Nat)
  deriving DecidableEq, Repr

/-- Engine transfers may use pages of host `h`: its port is up, and its function has ATS and PRI enabled (R392, R466). -/
def State.hostReach (s : State) (h : Nat) : Bool := s.rb .HST_LINK_UP h && s.rb .HST_ATS_EN h && s.rb .HST_PRI_EN h

/-- Source bytes of a transfer from offset `o`, `n` of them, byte by byte across pages; a fill repeats the 8 bytes at
DD_SRC. `host` holds what hosts supply in
order; past it a host byte is a free value. `absent`: offset from which host pages are absent. -/
def State.dmaRead (s : State) (d : Dma) (absent : Option Nat) : Nat → Nat → List Byte → List Byte × List Byte × Side × State
  | _, 0, host => ([], host, .ok, s)
  | o, n + 1, host =>
    let i := if d.op = 2 then o % 8 else o
    if d.sk = 0 then
      match regionOf (engOf d.ctx) (d.src + i) 1 with
      | .loc m a =>
        match s.memRead m a 1 with
        | (some b, s) =>
          let (l, host, r, s) := State.dmaRead s d absent (o + 1) n host
          (b ++ l, host, r, s)
        | (none, s) => ([], host, .fault 0 7 (d.src + i), s)
      | _ => ([], host, .fault 0 3 (d.src + i), s)
    else if d.sk = 2 then
      let (b, s) := s.bufRead (d.src % 2 ^ 20) (bitsOf d.src 33 20 + i) 1
      let (l, host, r, s) := State.dmaRead s d absent (o + 1) n host
      (b ++ l, host, r, s)
    else
      match s.translate d.cl d.rcd (d.src + i) false false with
      | (.fault c, s) => ([], host, .fault c 0 (d.src + i), s)
      | (.dev a, s) =>
        match s.hbmRead a 1 6 with
        | (some b, s) =>
          let (l, host, r, s) := State.dmaRead s d absent (o + 1) n host
          (b ++ l, host, r, s)
        | (none, s) => ([], host, .fault 0 7 (d.src + i), s)
      | (.host h _, s) =>
        if !s.hostReach h then ([], host, .fault 10 0 (d.src + i), s)
        else if absent.any fun x => x ≤ o then ([], host, .absent h (d.src + i), s)
        else
          let (b, host, s) := match host with
            | b :: t => (b, t, s)
            | [] => let (f, s) := s.draw; (f.setWidth 8, [], s)
          let (l, host, r, s) := State.dmaRead s d absent (o + 1) n host
          (b :: l, host, r, s)

/-- Bytes written to the destination of a transfer from offset `o`. Bytes for a host leave the device. -/
def State.dmaWrite (s : State) (d : Dma) (absent : Option Nat) : Nat → List Byte → Side × State
  | _, [] => (.ok, s)
  | o, b :: t =>
    if d.dk = 0 then
      match regionOf (engOf d.ctx) (d.dst + o) 1 with
      | .loc m a =>
        match s.memWrite m a [b] with
        | (true, s) => State.dmaWrite s d absent (o + 1) t
        | (false, s) => (.fault 0 7 (d.dst + o), s)
      | _ => (.fault 0 3 (d.dst + o), s)
    else if d.dk = 2 then State.dmaWrite (s.bufWrite (d.dst % 2 ^ 20) (bitsOf d.dst 33 20 + o) [b]) d absent (o + 1) t
    else
      match s.translate d.cl d.rcd (d.dst + o) true false with
      | (.fault c, s) => (.fault c 0 (d.dst + o), s)
      | (.dev a, s) =>
        match s.hbmWrite a [b] 6 with
        | (s, true) => State.dmaWrite s d absent (o + 1) t
        | (s, false) => (.fault 0 7 (d.dst + o), s)
      | (.host h a, s) =>
        if !s.hostReach h then (.fault 10 0 (d.dst + o), s)
        else if absent.any fun x => x ≤ o then (.absent h (d.dst + o), s)
        else State.dmaWrite { s with hst := { s.hst with mem := s.hst.mem.set (h * 2 ^ 64 + a) b } } d absent (o + 1) t

/-- Length of the next unit: it ends at a 64-byte boundary of the destination or at the end (R394). -/
def Dma.unit (d : Dma) : Nat :=
  let a := if d.dk = 2 then bitsOf d.dst 33 20 + d.done else d.dst + d.done
  min (64 - a % 64) (d.len - d.done)

/-- A transfer proceeds by at most `n` units; it stops at what a unit meets. -/
def State.dmaRun (s : State) (d : Dma) (absent : Option Nat) : Nat → List Byte → Dma × Side × State
  | 0, _ => (d, .ok, s)
  | n + 1, host =>
    if d.len ≤ d.done then (d, .ok, s) else
    let u := d.unit
    match s.dmaRead d absent d.done u host with
    | (l, host, .ok, s) =>
      match s.dmaWrite d absent d.done l with
      | (.ok, s) => State.dmaRun s { d with done := d.done + u } absent n host
      | (r, s) => (d, r, s)
    | (_, _, r, s) => (d, r, s)

/-- Units a transfer still has at most. -/
def Dma.left (d : Dma) : Nat := (d.len - d.done) / 64 + 2

/-- A transfer without an outcome is aborted (R395): how far a running one had come is a free value, and one past its
commit point stands whole. -/
def State.dmaAbort (s : State) (d : Dma) (cause : Nat) : State :=
  if d.st == .running then
    let (f, s) := s.draw
    let (d, _, s) := s.dmaRun d none (f.toNat % (d.left + 1)) []
    s.dmaEnd d (if d.done = d.len then 4 else 5) (if d.done = d.len then 0 else cause)
  else s.dmaEnd d 5 (if d.st == .fault && cause = 0 then d.cause else cause)

/-- Every transfer of a context without an outcome ends (R400). -/
def State.dmaAbortAll (s : State) (k gen : Nat) : State :=
  (s.mmu.dmas.filter fun d => d.ctx == k && d.gen == gen).foldl (fun s d =>
    match s.dmaOf d.cl d.seq with
    | some d => s.dmaAbort d 0
    | none => s) s

/-! ### End and abort of a task (R355, R400) -/

/-- The context becomes FREE; its engine runs on and its cluster may idle. -/
def State.freeCtx (s : State) (k : Nat) : State :=
  let x := s.cx k
  let held := x.holds
  ((s.setCx k { Ctx.none with gen := x.gen }).runNext (engOf k) held).idleCluster (clOf k)

/-- A task is aborted (R400). -/
def State.abortTask (s : State) (k : Nat) : State :=
  let x := s.cx k
  if !x.live then s else
  let s := (s.orphanAuth k).dmaAbortAll k x.gen
  let s := s.settleBufs k
  let s := ((s.bump .TSK_CNT_ABORT).fbCtx 9 k (x.code + x.pc % 65536 * 65536))
  s.freeCtx k

/-- Tasks of a cluster aborted, and its transfers (R405, R488). -/
def State.abortCluster (s : State) (c : Nat) : State :=
  (ctxsIn c).foldl (fun s k => if (s.cx k).live then s.abortTask k else s) s

/-! ### Exceptions (R365, R398, R399) -/

/-- The fault record of ENG_XREC, written if it holds no unread record (R365). -/
def State.xrec (s : State) (k code insn addr : Nat) : State :=
  if s.rb .ENG_XR_VALID then s else
  let x := s.cx k
  let s := (((s.setB .ENG_XR_VALID 0 true).setN .ENG_XR_CODE 0 code).setN .ENG_XR_CTX 0 k).setN .ENG_XR_PC 0 (x.pc % 65536)
  let s := ((s.setN .ENG_XR_INSN 0 insn).setN .ENG_XR_ADDR_LO 0 (addr % 2 ^ 32)).setN .ENG_XR_ADDR_HI 0 (addr / 2 ^ 32)
  { s with eng := { s.eng with xread := 0 } }

/-- A broken contract of a P-class task is logged (R398): a fault entry of kind 4, counts and an event. -/
def State.logViolation (s : State) (f : FrEnt) : State :=
  let (_, s) := s.ringWrite { f with kind := 4 }
  ((s.countF .TSK_TT_VIOL f.tmpl).bump .TSK_CNT_P_VIOL).raiseLimited .TSK_E_P_VIOLATION f.tmpl ms1 f.ctx f.tmpl

/-- A P-class task breaks its contract (R398): logged, and the task is aborted. -/
def State.violation (s : State) (k cause code va ref : Nat) (write : Bool) : State :=
  let x := s.cx k
  (s.logViolation { kind := 4, cause := cause, xcode := code, flags := (if write then 1 else 0) + 4, ctx := k, gen := x.gen,
                    va := va % 2 ^ 48, asid := x.rcd.asid, ref := ref, tmpl := x.tmpl }).abortTask k

/-- A transfer of a P-class task has faulted with entry `f` (R31, R398): logged; the task is aborted where it still runs. -/
def State.dmaViolation (s : State) (f : FrEnt) : State :=
  let s := s.logViolation f
  if (s.cx f.ctx).live && (s.cx f.ctx).gen == f.gen then s.abortTask f.ctx else s

/-- A hold expires (R401): the context is aborted. -/
def State.holdExpired (s : State) (k : Nat) : State :=
  ((s.bump .TSK_CNT_FAULT_TMO).raiseLimited .TSK_W_FAULT_TMO (clOf k) ms1 k).abortTask k

/-- Context `k` takes an exception of Table 13.10 with a cause of Table 14.7 (R365, R366, R397-R399). -/
def State.exception (s : State) (k code cause insn addr : Nat) (write : Bool := false) : State :=
  let x := { s.cx k with st := .faulted, code := code, auth := false }
  let s := ((s.orphanAuth k).setCx k x).xrec k code insn addr
  let s := (s.bump .ENG_CNT_EXC).raiseLimited .ENG_E_EXCEPTION (clOf k) ms1 k (code + x.pc % 65536 * 65536)
  let s := s.fbCtx 10 k (code + x.pc % 65536 * 65536)
  if x.cls = 0 then s.violation k cause code addr x.pc write
  else
    let hold := bitOf x.rcd.perm 5 && code ≠ 7 && code ≠ 8
    let f : FrEnt := { kind := if code = 4 then 1 else 3, cause := cause, xcode := code,
                       flags := (if write then 1 else 0) + (if hold then 2 else 4), ctx := k, gen := x.gen,
                       va := addr % 2 ^ 48, asid := x.rcd.asid, ref := x.pc, tmpl := x.tmpl }
    let (full, s) := s.ringWrite f
    if !hold then s.abortTask k
    else if full then s.holdExpired k
    else (s.bump .TSK_CNT_HOLD).leaveEngine k { x with svc := true }

/-- The word at the PC of a context, as its fault record shows it. -/
def State.insnAt (s : State) (k : Nat) : Nat := (s.eng.imem.get 0#32 (engOf k * 16384 + (s.cx k).pc / 4 % 16384)).toNat

/-- A transfer meets a device-memory fault (R395, R396, R398): suspended and put on the ring, or ended. -/
def State.dmaFault (s : State) (d : Dma) (cause xcode va : Nat) : State :=
  let f : FrEnt := { kind := 2, cause := cause, xcode := xcode, flags := 4, ctx := d.ctx, gen := d.gen, va := va % 2 ^ 48,
                     asid := d.rcd.asid, ref := d.seq, tmpl := d.tmpl }
  let d := { d with va := va, cause := cause }
  if d.cls = 0 then
    (s.dmaEnd d 5 cause).dmaViolation f
  else if !bitOf d.rcd.perm 5 then ((s.ringWrite f).2).dmaEnd d 5 cause
  else
    let (full, s) := s.ringWrite { f with flags := 2 }
    if full then ((s.bump .TSK_CNT_FAULT_TMO).raiseLimited .TSK_W_FAULT_TMO d.cl ms1 d.ctx).dmaEnd d 5 cause
    else
      let s := ((s.setDma { d with st := .fault }).writeDesc d 2 cause va).fbook 12 d.cls d.ctx d.tmpl d.ttag (d.seq % 2 ^ 32 + d.done * 2 ^ 32)
      let x := s.cx d.ctx
      let s := if x.st == .stalled && x.gen == d.gen && x.dmaw == some d.seq then s.leaveEngine d.ctx { x with st := .awaiting } else s
      s.startDma d.cl

/-- A transfer ends with cause 10 (R392, R395): a kind 5 entry, and a broken contract for a P-class task. -/
def State.dmaRefused (s : State) (d : Dma) (va : Nat) : State :=
  let f : FrEnt := { kind := 5, cause := 10, xcode := 0, flags := 4, ctx := d.ctx, gen := d.gen, va := va % 2 ^ 48,
                     asid := d.rcd.asid, ref := d.seq, tmpl := d.tmpl }
  let s := if d.st == .page then s.bump .HST_CNT_PRI_FAIL d.port else s
  let s := ((s.ringWrite f).2.bump .MMU_CNT_PRI_FAIL).dmaEnd { d with va := va } 5 10
  if d.cls = 0 then s.dmaViolation f else s

/-- A transfer meets an absent host page (R392): suspended, with a page request if one of four is free. -/
def State.dmaAbsent (s : State) (d : Dma) (h va : Nat) : State :=
  let s := (s.setDma { d with st := .pageWait, va := va, port := h }).writeDesc d 2 0 va
  let s := s.fbook 12 d.cls d.ctx d.tmpl d.ttag (d.seq % 2 ^ 32 + d.done * 2 ^ 32)
  let x := s.cx d.ctx
  let s := if x.st == .stalled && x.gen == d.gen && x.dmaw == some d.seq then s.leaveEngine d.ctx { x with st := .awaiting } else s
  (s.nextPage d.cl).startDma d.cl

end Sys2Proof.Machine
end

