-- ==== Sys2Proof/Machine/AuthOps.lean ====
section
/-! DEFINITION. Key slots, invocation values, tags and the checks of Table 15.2 (spec/15 R411-R421). -/

namespace Sys2Proof.Machine

open Sys2Proof

/-- A loaded slot, none where it is empty. -/
def State.slot (s : State) (i : Nat) : Option KeySlot := s.aut.slots.find i
def State.setSlot (s : State) (i : Nat) (k : KeySlot) : State := { s with aut := { s.aut with slots := s.aut.slots.set i k } }

/-- The tag of a message under a slot with an invocation value (R411, R418): the leftmost bytes of the full tag. -/
def KeySlot.mac (k : KeySlot) (inv : Nat) (m : List Byte) : List Byte :=
  (if k.gmac then Sys2Proof.Machine.gmac k.key (beBytes 4 k.salt ++ beBytes 8 inv) m else hmac256 k.key m).take k.tagLen

/-- A signing takes an invocation value of its slot (R418): the counter moves, warns and locks. An HMAC slot has no
invocation values. -/
def State.takeInv (s : State) (i : Nat) (k : KeySlot) : Nat × State :=
  if !k.gmac then (0, s)
  else
    let v := k.ctr
    let last := v = 2 ^ 64 - 1
    let warn := 2 ^ 64 - 2 ^ 16 ≤ v + 1 && !k.warned
    let s := s.setSlot i { k with ctr := (v + 1) % 2 ^ 64, locked := last, warned := k.warned || warn }
    let s := if warn then s.raiseLimited .AUT_W_NONCE i ms1 i else s
    (v, if last then s.raiseLimited .AUT_E_NONCE i ms1 i else s)

/-- Checks 2 to 6 of Table 15.2: the slot, or the status of the first check that fails. -/
def State.slotCheck (s : State) (i code tagLen len : Nat) : KeySlot ⊕ Ev :=
  match s.slot i with
  | none => .inr .AUT_E_NOKEY
  | some k =>
    if k.locked then .inr .AUT_E_NONCE
    else if !(code = 1 && k.sign || (code = 2 || code = 3) && k.verify) then .inr .AUT_E_USE
    else if tagLen ≠ k.tagLen then .inr .AUT_E_TAGLEN
    else if len = 0 || 1048576 < len then .inr .AUT_E_LENGTH
    else .inl k

/-- Checks 1 to 6 of Table 15.2. `owner` is the host whose partition uses the slot (R415), none where no partition does. -/
def State.authCheck (s : State) (owner : Option Nat) (i code tagLen len : Nat) : KeySlot ⊕ Ev :=
  if !(match owner with
      | some h => s.holdsSlot h i
      | none => false) then .inr .AUT_E_PARTITION
  else s.slotCheck i code tagLen len

/-- Bytes that follow a message to be verified: the invocation value of GMAC, then the tag. -/
def KeySlot.trailer (k : KeySlot) : Nat := (if k.gmac then 8 else 0) + k.tagLen

/-- A message and its trailer match the slot (R420). -/
def KeySlot.matches (k : KeySlot) (m trailer : List Byte) : Bool :=
  if k.gmac then k.mac (beNat (trailer.take 8)) m == (trailer.drop 8).take k.tagLen
  else k.mac 0 m == trailer.take k.tagLen

/-! ### Key commands (R416, R417) -/

/-- The staging registers are zeroed (R416). -/
def State.clearStaging (s : State) : State :=
  let s := ((s.setN .AUT_KA_ALG 0 0).setN .AUT_KA_SIGN 0 0).setN .AUT_KA_VERIFY 0 0
  let s := ((s.setN .AUT_KA_TAGLEN 0 0).setN .AUT_KA_KEYLEN 0 0).setN .AUT_KEY_SALT 0 0
  (List.range 16).foldl (fun s i => s.setN .AUT_KEY_DATA i 0) s

/-- The staged key, none where an attribute is not permitted (R411, R417). -/
def State.stagedKey (s : State) : Option KeySlot :=
  let alg := s.rn .AUT_KA_ALG
  let tl := s.rn .AUT_KA_TAGLEN
  let kl := s.rn .AUT_KA_KEYLEN
  let bytes := (List.range 16).flatMap fun i => leBytes 4 (s.rn .AUT_KEY_DATA i)
  let ok := alg ≠ 0 && (if alg = 3 then (tl = 16 || tl = 32) && 1 ≤ kl && kl ≤ 64 else tl = 8 || tl = 12 || tl = 16) &&
    (s.rb .AUT_KA_SIGN || s.rb .AUT_KA_VERIFY)
  if !ok then none
  else some { alg := alg, key := bytes.take (if alg = 1 then 16 else if alg = 2 then 32 else kl), salt := if alg = 3 then 0 else s.rn .AUT_KEY_SALT,
              ctr := 0, tagLen := tl, sign := s.rb .AUT_KA_SIGN, verify := s.rb .AUT_KA_VERIFY, locked := false, warned := false }

/-- A key command is refused with a cause (R417). -/
def State.keyRefused (s : State) (cause : Ev) (i : Nat) (busy : Bool) : State :=
  let s := (s.setN .AUT_KEY_ERR 0 cause.code).raise .AUT_E_KEYCMD i cause.code
  (if busy then s else s.setN .AUT_KEY_OUT 0 3).clearStaging

/-- A write of AUT_KEY_CTRL by the lease holder `h` (R416, R417): 1 LOAD, 2 ERASE. -/
def State.keyCommand (s : State) (h : Nat) (load : Bool) (i : Nat) : State :=
  let s := s.setN .AUT_KEY_SLOT 0 i
  if s.aut.cmd.isSome then s.keyRefused .AUT_E_KEYCMD i true
  else if !s.holdsSlot h i then s.keyRefused .AUT_E_PARTITION i false
  else
    let go (new : Option KeySlot) : State := { (s.setN .AUT_KEY_OUT 0 1) with aut := { s.aut with cmd := some { slot := i, new := new } } }
    if !load then go none
    else match s.stagedKey with
      | none => s.keyRefused .AUT_E_USE i false
      | some k => go (some k)

/-- A key command commits (R417). -/
def State.keyCommit (s : State) : State :=
  match s.aut.cmd with
  | none => s
  | some c =>
    let slots := match c.new with
      | some k => s.aut.slots.set c.slot k
      | none => s.aut.slots.erase c.slot
    let s := { s with aut := { s.aut with slots := slots, cmd := none } }
    ((((s.setN .AUT_KEY_OUT 0 2).setN .AUT_KEY_ERR 0 0).clearStaging).bump .AUT_CNT_KEY_LOAD).raise .AUT_I_KEY_LOADED c.slot

/-- The lease holder, as a host number. -/
def hostOf : Src → Nat
  | .host h => h.val
  | _ => 4

end Sys2Proof.Machine
end

