-- ==== Sys2Proof/Machine/TmgOps.lean ====
section
/-! DEFINITION. Queues (spec/12 R318-R330): mapping, admission, tags, shapers and the timing wheels. -/

namespace Sys2Proof.Machine

open Sys2Proof

/-- Egress ports (R318). -/
def isEgress (p : Nat) : Bool := p < 48 || (56 ≤ p && p < 60) || p = 63

/-- A queue. -/
def Queue.none : Queue := { ents := [], s := 0, f := 0, fLast := 0 }
def State.queue (s : State) (q : Nat) : Queue := s.tmg.queues.get Queue.none q
def State.setQueue (s : State) (q : Nat) (x : Queue) : State :=
  { s with tmg := { s.tmg with queues := s.tmg.queues.put Queue.none q x } }

/-- The reserved TC7 queue of port `p` (R320). -/
def resvQueue (p : Nat) : Nat := 32704 + p

/-- Queues of class group `t` of port `p` (R319). -/
def State.cgBase (s : State) (p t : Nat) : Nat := s.rn .TMG_CG_BASE (8 * p + t)
def State.cgLen (s : State) (p t : Nat) : Nat := 2 ^ s.rn .TMG_CG_LOG2N (8 * p + t)

/-- The queue a replica of class `t` for port `p` joins, none where the class group is disabled (R319). -/
def State.queueFor (s : State) (p t pin : Nat) : Option Nat :=
  if s.rb .TMG_CG_EN (8 * p + t) then some (s.cgBase p t + pin % s.cgLen p t) else none

/-- 64-byte units of a length. -/
def units (n : Nat) : Nat := (n + 63) / 64

/-- Depth of a queue in 64-byte units (R321). -/
def Queue.depth (x : Queue) : Nat := (x.ents.map fun e => units e.len).foldl (· + ·) 0

/-- Octets of frames a queue holds. -/
def Queue.octets (x : Queue) : Nat := (x.ents.map (·.len)).foldl (· + ·) 0

/-- Tags compare by their signed 64-bit difference (R326). -/
def ahead (a b : Nat) : Bool := 0 < signed 64 ((a + 2 ^ 64 - b) % 2 ^ 64)

/-- The length L of an entry's tag (spec/12, before R325): the frame length including FCS and 20 octets; for a cut-through
frame whose length is not yet known, the size of the pool of its buffer. -/
def State.tagLen (s : State) (e : QEnt) : Nat :=
  if e.pkt != 0 && (s.pkts.any fun p => p.id + 1 == e.pkt && !p.whole) then s.poolSize (poolOf e.buf) else e.len + 20

/-- Finish tag of a head: F = S + ceil(L × 1,024 / w) (R325). -/
def State.finish (s : State) (q start : Nat) (e : QEnt) : Nat :=
  let w := max 1 (s.rn .TMG_Q_WEIGHT q)
  (start + (s.tagLen e * 1024 + w - 1) / w) % 2 ^ 64

/-- Free entries of the entry store. -/
def State.entFree (s : State) : Nat := 524288 - s.tmg.ents

/-- Entries taken or given back, with the low warning of R321. -/
def State.addEnts (s : State) (n : Nat) (back : Bool) : State :=
  let s := { s with tmg := { s.tmg with ents := if back then s.tmg.ents - n else s.tmg.ents + n } }
  if s.entFree ≤ 16384 && !s.tmg.entLow then { s with tmg := { s.tmg with entLow := true } }.raiseLimited .TMG_W_ENTRY_LOW 0 ms1
  else if 32768 < s.entFree then { s with tmg := { s.tmg with entLow := false } } else s

/-- A replica gives up its buffer: the owner frees, any other releases, a voided one does nothing (R304, R311). -/
def State.endReplica (s : State) (p : Nat) (e : QEnt) : State :=
  if e.void then s
  else if e.owner then (s.freeBuf e.buf p).1
  else match e.inset with
    | some n => (s.releaseBuf e.buf (ownInset n) true).1
    | none => (s.releaseBuf e.buf p).1

/-- An entry joins queue `q` of class group `cg`; an empty queue wakes (R325). -/
def State.push (s : State) (q cg : Nat) (e : QEnt) : State :=
  let x := s.queue q
  let s := (s.addEnts 1 false).bump .TMG_CNT_ENQ
  if x.ents.isEmpty then
    let v := s.tmg.vtime.get 0 cg
    let st := if ahead x.fLast v then x.fLast else v
    s.setQueue q { x with ents := [e], s := st, f := s.finish q st e }
  else s.setQueue q { x with ents := x.ents ++ [e] }

/-- Admission of a replica of port `p` and its enqueue, or its drop (R319, R321). The flag says that it was enqueued. -/
def State.enqueue (s : State) (p pin : Nat) (e : QEnt) : State × Bool :=
  match s.queueFor p e.tc pin with
  | none => ((s.bump .TMG_CNT_NOQ).endReplica p e, false)
  | some q =>
    let free := s.entFree
    if !(if 6 ≤ e.tc && e.inset.isNone then 0 < free else 16384 < free) then
      (((s.bump .TMG_CNT_ENTRY_DROP).countF .TMG_Q_DROPS q).endReplica p e, false)
    else if s.rn .TMG_Q_MAX q * (4 - e.dp) / 4 < (s.queue q).depth + units e.len then
      (((s.bump .TMG_CNT_TAIL_DROP).countF .TMG_Q_DROPS q).endReplica p e, false)
    else (s.push q (8 * p + e.tc) e, true)

/-- A GOOSE transmission joins the reserved queue of its port: at most 64 KiB of frames (R320). The flag says that it
was enqueued. -/
def State.enqueueResv (s : State) (p : Nat) (e : QEnt) : State × Bool :=
  let q := resvQueue p
  if 65536 < (s.queue q).octets + e.len then (s.bump .TMG_CNT_RESV_DROP, false)
  else if s.entFree = 0 then ((s.bump .TMG_CNT_ENTRY_DROP).countF .TMG_Q_DROPS q, false)
  else (s.push q (8 * p + 7) e, true)

/-- The head of a queue leaves it, sent or discarded; the next head takes S = F_last where it was sent (R325). DESIGN CHOICE
(R325 gives the next head of a discarded one no tag): it takes the discarded head's S (notes/assumptions/31.md). -/
def State.popHead (s : State) (q : Nat) (sent : Bool) : State :=
  let x := s.queue q
  let fLast := if sent then x.f else x.fLast
  let s := s.addEnts 1 true
  match x.ents.tail with
  | [] => s.setQueue q { x with ents := [], s := 0, f := 0, fLast := fLast }
  | e :: t =>
    let st := if sent then fLast else x.s
    s.setQueue q { ents := e :: t, s := st, f := s.finish q st e, fLast := fLast }

/-! ### Shapers and wheels (R327-R330) -/

def Shaper.none : Shaper := { t := 0, rate := 0, burst := 16384, en := false, last := 0 }

/-- Number of a class-group shaper among the shapers. -/
def gsKey (cg : Nat) : Nat := 4096 + cg

def State.shaper (s : State) (k : Nat) : Shaper := s.tmg.shapers.get Shaper.none k
def State.setShaper (s : State) (k : Nat) (x : Shaper) : State :=
  { s with tmg := { s.tmg with shapers := s.tmg.shapers.put Shaper.none k x } }

/-- Enable, rate and burst as last written. -/
def State.shCfg (s : State) (k : Nat) : Bool × Nat × Nat :=
  if k < 4096 then (s.rb .TMG_QS_EN k, s.rn .TMG_QS_RATE k, s.rn .TMG_QS_BURST k)
  else (s.rb .TMG_GS_EN (k - 4096), s.rn .TMG_GS_RATE (k - 4096), s.rn .TMG_GS_BURST (k - 4096))

/-- An enabled shaper lets its queues send: it has not refilled since it was enabled, or T is positive (R323, R328). -/
def State.shOk (s : State) (k : Nat) : Bool :=
  !(s.shCfg k).1 || !(s.shaper k).en || 0 < (s.shaper k).t

/-- A refill (R327, R328): tokens accrue at the old rate, then the written configuration is taken; a shaper just enabled
starts with T = B. -/
def State.refill (s : State) (k : Nat) : State :=
  let x := s.shaper k
  let c := s.shCfg k
  let n := s.tmg.slot - x.last
  let t : Int := if x.en then min ((x.burst * 256 : Nat) : Int) (x.t + ((x.rate * n : Nat) : Int)) else ((c.2.2 * 256 : Nat) : Int)
  s.setShaper k { t := t, rate := c.2.1, burst := c.2.2, en := c.1, last := s.tmg.slot }

/-- An entry placed on the wheels (R329). -/
def State.place (s : State) (due : Nat) (w : WheelItem) : State :=
  if due < s.tmg.slot + 4096 then { s with tmg := { s.tmg with wheel := s.tmg.wheel ++ [(due, w)] } }
  else { s with tmg := { s.tmg with ovf := s.tmg.ovf ++ [(due, w)] } }

/-- The wheel entry of a shaper. -/
def shItem (k : Nat) : WheelItem := if k < 4096 then .qs k else .gs (k - 4096)

/-- A selected frame is charged to a shaper, which goes on the wheel when T is 0 or below (R327). -/
def State.charge (s : State) (k len : Nat) : State :=
  if !(s.shCfg k).1 then s else
  let s := s.refill k
  let x := s.shaper k
  let x := { x with t := x.t - ((len * 256 : Nat) : Int) }
  let s := s.setShaper k x
  if 0 < x.t || x.rate = 0 then s
  else s.place (s.tmg.slot + ((-x.t).toNat / x.rate + 1)) (shItem k)

/-- A wheel entry removed. -/
def State.unplace (s : State) (w : WheelItem) : State :=
  let f (l : List (Nat × WheelItem)) := l.filter fun e => e.2 != w
  { s with tmg := { s.tmg with wheel := f s.tmg.wheel, ovf := f s.tmg.ovf, carried := f s.tmg.carried } }

end Sys2Proof.Machine
end

