-- ==== Sys2Proof/Machine/Egress.lean ====
section
/-! DEFINITION. What a replica looks like on the wire (spec/09 R249, spec/04 R99, spec/05 R118): the rewrites in their
order, the one-step correction and the redundancy trailer or tag. -/

namespace Sys2Proof.Machine

open Sys2Proof

/-- `n` network-order bytes of a frame at an offset; bytes beyond the end read 0. -/
def beAt (l : List Byte) (off n : Nat) : Nat := beNat ((l.drop off ++ List.replicate n 0#8).take n)

/-- The frame with `n` network-order bytes at an offset replaced; bytes beyond the end are lost. -/
def setBe (l : List Byte) (off n v : Nat) : List Byte :=
  if off + n ≤ l.length then l.take off ++ beBytes n v ++ l.drop (off + n) else l

/-- One's-complement sum of two 16-bit words. -/
def oc16 (a b : Nat) : Nat := let t := a + b; if 65535 < t then t - 65535 else t

/-- Incremental update of an Internet checksum for a 16-bit word that changes (RFC 1624). -/
def csum16 (hc old new : Nat) : Nat := 65535 - oc16 (oc16 (65535 - hc) (65535 - old)) new

/-- The same for a field of `n` 16-bit words. -/
def csumField (n hc old new : Nat) : Nat :=
  (List.range n).foldl (fun h i => csum16 h (old / 2 ^ (16 * i) % 65536) (new / 2 ^ (16 * i) % 65536)) hc

/-- Offset after the addresses and 802.1Q tags, where the final EtherType stands. -/
def etOff (l : List Byte) : Nat :=
  if beAt l 12 2 = 0x8100 then (if beAt l 16 2 = 0x8100 then 20 else 16) else 12

/-- VLAN tag of a replica for port `p` (R249, step 1): taken off where TBL_VLAN_UNTAG has the port, else present. Ports
above 47 have no bit: there a tag stays, with the VID of a route (R210). -/
def State.egVlan (s : State) (p : Nat) (rw : Rewrite) (l : List Byte) : List Byte :=
  if 48 ≤ p then
    match rw.vid with
    | some v => if beAt l 12 2 = 0x8100 then setBe l 14 2 (beAt l 14 2 / 4096 * 4096 + v % 4096) else l
    | none => l
  else
  let vid := rw.vid.getD (rw.tci % 4096)
  let tci := rw.tci / 4096 * 4096 + vid
  let bare := if beAt l 12 2 = 0x8100 then l.take 12 ++ l.drop 16 else l
  let untag := bitOf (s.rn .TBL_VLAN_UNTAG_L vid + s.rn .TBL_VLAN_UNTAG_H vid * 2 ^ 32) p
  if untag then bare else bare.take 12 ++ beBytes 2 0x8100 ++ beBytes 2 tci ++ bare.drop 12

/-- DA and SA of a route (R249, step 2). -/
def State.egMac (s : State) (rw : Rewrite) (l : List Byte) : List Byte :=
  match rw.da with
  | some d => beBytes 6 d ++ beBytes 6 (s.rn .TBL_RMAC_H * 2 ^ 32 + s.rn .TBL_RMAC_L) ++ l.drop 12
  | none => l

/-- TTL or hop limit less 1, the IPv4 header checksum with it (R249, step 3). -/
def egTtl (rw : Rewrite) (l : List Byte) : List Byte :=
  if !rw.ttl then l else
  let o := etOff l + 2
  if rw.l3 = 4 then
    let w := beAt l (o + 8) 2
    setBe (setBe l (o + 8) 2 (w - 256)) (o + 10) 2 (csum16 (beAt l (o + 10) 2) w (w - 256))
  else setBe l (o + 7) 1 (beAt l (o + 7) 1 - 1)

/-- NAT (R249, step 4). -/
def egNat (rw : Rewrite) (l : List Byte) : List Byte :=
  if rw.nat = 0 || rw.l3 ≠ 4 then l else
  let o := etOff l + 2
  let src := rw.nat ≤ 2
  let ao := if src then o + 12 else o + 16
  let old := beAt l ao 4
  let hc := csumField 2 (beAt l (o + 10) 2) old rw.natAddr
  let proto := beAt l (o + 9) 1
  let h := o + beAt l o 1 % 16 * 4
  let co := if proto = 6 then h + 16 else h + 6
  let l := setBe (setBe l ao 4 rw.natAddr) (o + 10) 2 hc
  if rw.nonFirst || (proto ≠ 6 && proto ≠ 17) then l else
  let c0 := beAt l co 2
  let keep := proto = 17 && c0 = 0
  let c1 := csumField 2 c0 old rw.natAddr
  let both := rw.nat = 2 || rw.nat = 4
  let po := if src then h else h + 2
  let c2 := if both then csum16 c1 (beAt l po 2) rw.natPort else c1
  let l := if both then setBe l po 2 rw.natPort else l
  if keep then l else setBe l co 2 (if proto = 17 && c2 = 0 then 65535 else c2)

/-- originTimestamp of a PTP message at `off` takes the egress timestamp (R100); the UDP checksum follows as in R99. -/
def egOrigin (rw : Rewrite) (off : Nat) (udp : Bool) (now : Nat) (l : List Byte) : List Byte :=
  let old := beAt l (off + 34) 10
  let new := now / tickSec % 2 ^ 48 * 2 ^ 32 + now / tickNs % 1000000000
  let l := setBe l (off + 34) 10 new
  if !udp then l
  else if rw.l3 = 6 then setBe l (off - 2) 2 (csumField 5 (beAt l (off - 2) 2) old new)
  else setBe l (off - 2) 2 0

/-- The one-step correction at egress port `p` (R99): the correctionField and the UDP checksum; the flag says that it
saturated. `shift` is how far the header moved by the rewrites before. DESIGN CHOICE (notes/assumptions/27.md): a message
with the insert-origin flag of R100 takes its originTimestamp and no correction, and an IPv6 UDP checksum whose incremental
update comes out 0 is sent as 0; the spec states neither. -/
def State.egPtp (s : State) (p : Nat) (tx : Tx) (rw : Rewrite) (shift : Int) (l : List Byte) : List Byte × Bool :=
  match rw.ptp with
  | none => (l, false)
  | some (kind, udp, off0) =>
    let off := ((off0 : Int) + shift).toNat
    if 48 ≤ p then (l, false)
    else if rw.origin then (egOrigin rw off udp tx.tsNow l, false)
    else if !s.rb .TIM_P1S_EN p then (l, false) else
    let old := beAt l (off + 8) 8
    let res := (tx.tsFree - rw.rxFree) / 2 ^ 16
    let link := if kind = 0 && rw.srcPort < 48 && s.rb .TIM_P2P_ADD rw.srcPort then s.rn .TIM_P_LINKDLY rw.srcPort * 2 ^ 12 else 0
    let sum : Int := signed 64 old + ((res + link : Nat) : Int)
    let sat := ((2 ^ 63 - 1 : Nat) : Int) < sum
    let new := if sat then 2 ^ 63 - 1 else unsignedOf 64 sum
    let l := setBe l (off + 8) 8 new
    let l := if !udp then l
      else if rw.l3 = 6 then setBe l (off - 2) 2 (csumField 4 (beAt l (off - 2) 2) old new)
      else setBe l (off - 2) 2 0
    (l, sat)

/-- LSDUsize of a frame with its trailer or tag: octets from the payload on (IEC 62439-3: PRESUMED). -/
def lsdu (l : List Byte) : Nat := (l.length - (etOff l + 2)) % 4096

/-- The redundancy trailer or tag (R118; LanId A 0xA, B 0xB and path 0, 1 of IEC 62439-3: PRESUMED). -/
def addRed (r : Red) (l : List Byte) : List Byte :=
  if r.hsr then
    let t := l.take 12 ++ beBytes 2 0x892F ++ beBytes 4 0 ++ l.drop 12
    let size := (t.length - 14) % 4096
    setBe t 14 4 (((if r.lanB then 1 else 0) * 4096 + size) * 65536 + r.seq % 65536)
  else
    let size := lsdu (l ++ List.replicate 6 0#8)
    l ++ beBytes 6 (((r.seq % 65536 * 65536) + (if r.lanB then 0xB else 0xA) * 4096 + size) * 65536 + 0x88FB)

/-- The frame of a replica at egress port `p`, without its FCS, and whether a correctionField saturated. -/
def State.frameOut (s : State) (p : Nat) (tx : Tx) (bytes : List Byte) : List Byte × Bool :=
  let e := tx.ent
  let (l, sat) := if e.raw then (bytes, false) else
    let a := egNat e.rw (egTtl e.rw (s.egMac e.rw (s.egVlan e.vport e.rw bytes)))
    s.egPtp p tx e.rw ((a.length : Int) - bytes.length) a
  let l := match e.red with
    | some r => addRed r l
    | none => l
  (if e.trunc = 0 then l else l.take (e.trunc - 4), sat)

end Sys2Proof.Machine
end

