-- ==== Sys2Proof/Machine/PortOps.lean ====
section
/-! DEFINITION. Ports (spec/05 R105-R126): modes and groups, the link, preemption state, and the configuration writes. -/

namespace Sys2Proof.Machine

open Sys2Proof

/-- Rate of a port mode in Mbit/s (Table 05.1). -/
def modeRate : Nat → Nat
  | 1 | 2 => 1000
  | 3 => 10000
  | 4 => 25000
  | 5 => 50000
  | 6 => 100000
  | _ => 0

/-- A mode and a FEC choice are permitted on port `p` (Table 05.1). -/
def modeOk (p mode fec : Nat) : Bool :=
  match mode with
  | 0 | 1 | 2 => fec = 0
  | 3 => p < 32 && fec ≤ 1
  | 4 => p < 32 && fec ≤ 2
  | 5 => p < 32 && p % 2 = 0 && (fec = 0 || fec = 2)
  | 6 => p < 32 && p % 4 = 0 && (fec = 0 || fec = 2)
  | _ => false

/-- The other IDs of the lane group that port `p` heads in a mode (R106). -/
def members (p mode : Nat) : List Nat :=
  if mode = 5 then [p + 1] else if mode = 6 then [p + 1, p + 2, p + 3] else []

/-- Port `p` is a member ID of a lane group (R106). -/
def State.isMember (s : State) (p : Nat) : Bool :=
  (List.range 32).any fun h => (members h (s.rn .PRT_MODE h)).contains p

/-- Domain of port `p` (Table 02.6). -/
def portDom (p : Nat) : Nat := if p < 32 then 24 + p / 4 else 32 + (p - 32) / 4

/-- Even port of the pair of a GE port (spec/05, PRP and HSR). -/
def pairOf (p : Nat) : Nat := p / 2 * 2

/-- Redundancy mode that acts on a port: the pair's, or its own (R116). -/
def State.redMode (s : State) (p : Nat) : Nat :=
  let m := s.rn .PRT_RED_MODE (pairOf p)
  if 32 ≤ p && p < 48 && (m = 1 || m = 2) then m else s.rn .PRT_RED_MODE p

/-- Port `p` belongs to a pair in mode 1 or 2. -/
def State.inPair (s : State) (p : Nat) : Bool := 32 ≤ p && p < 48 && (s.redMode p = 1 || s.redMode p = 2)

/-- PRT_PRE_STATE set; PRT_EVT_PRE marks a change. -/
def State.setPre (s : State) (p n : Nat) : State :=
  if s.rn .PRT_PRE_STATE p = n then s else (s.setN .PRT_PRE_STATE p n).setB .PRT_EVT_PRE p true

/-- Port `p` does IEEE 802.3br preemption: enabled, in a mode that has it (Table 05.1). -/
def State.preemptable (s : State) (p : Nat) : Bool := s.rb .PRT_PRE_EN p && s.rn .PRT_MODE p ≤ 4

/-- Preemption starts on a port whose link is up (R113). -/
def State.startPre (s : State) (p : Nat) : State :=
  let s := { s with prt := { s.prt with attempts := s.prt.attempts.put 0 p 0 } }
  if s.rb .PRT_PRE_VERIFY_DIS p then (s.setPre p 2).raise .PRT_I_PRE_ACTIVE p 0 p else s.setPre p 1

/-- The queue entries of a packet still arriving are taken back; a replica in transmission ends with an invalid FCS and is
counted at its port (R20, R296). The flag says that one was in transmission. -/
def State.cutReplicas (s : State) (id : Nat) : State × Bool :=
  let mine (e : QEnt) : Bool := e.pkt == id + 1
  let cut := (s.prt.txE ++ s.prt.txP).filter fun e => mine e.2.ent
  let s := cut.foldl (fun s e =>
    let s := (s.bump .PRT_CNT_CT_ERR e.1).endReplica e.1 e.2.ent
    { s with prt := { s.prt with txE := s.prt.txE.filter (fun x => !(x.1 == e.1 && mine x.2.ent)),
                                 txP := s.prt.txP.filter (fun x => !(x.1 == e.1 && mine x.2.ent)),
                                 badFcs := s.prt.badFcs.put false e.1 true } }) s
  let queued := s.tmg.queues.flatMap fun (q : Nat × Queue) => q.2.ents.filter mine
  let s := { s with tmg := { s.tmg with queues := s.tmg.queues.map fun (q : Nat × Queue) => (q.1, { q.2 with ents := q.2.ents.filter fun e => !mine e }) } }
  let s := queued.foldl (fun s e => s.endReplica e.vport e) s
  ((if queued.isEmpty then s else s.addEnts queued.length true), !cut.isEmpty)

/-- The frame still arriving on port `p` as packet `id` is dropped (R20). The flag says that a replica was in transmission. -/
def State.dropOffered (s : State) (p id : Nat) : State × Bool :=
  let (s, cut) := s.cutReplicas id
  match s.pkt id with
  | some k => (if k.stage == .stored then { s.delPkt id with prt := { s.prt with inc := s.prt.inc.erase p } } else s.dropPkt k, cut)
  | none => ({ s with prt := { s.prt with inc := s.prt.inc.erase p } }, cut)

/-- Transmissions of port `p` end with an invalid FCS. -/
def State.cutPort (s : State) (p : Nat) : State :=
  let l := (s.prt.txE ++ s.prt.txP).filter fun e => e.1 == p
  let t := { s with prt := { s.prt with txE := s.prt.txE.erase p, txP := s.prt.txP.erase p,
                                        badFcs := if l.isEmpty then s.prt.badFcs else s.prt.badFcs.put false p true } }
  l.foldl (fun s e => s.endReplica p e.2.ent) t

/-- The link of port `p` goes down (R322, R113): an arriving frame is lost, a frame in transmission is cut, which the spec
leaves open (notes/assumptions/13.md), and PRT_W_LINK_DOWN is raised. -/
def State.linkDown (s : State) (p : Nat) : State :=
  if !s.rb .PRT_LINK_UP p then s else
  let s := match s.prt.inc.find p with
    | some id => (s.dropOffered p id).1
    | none => s
  let s := s.cutPort p
  let s := (((s.setB .PRT_LINK_UP p false).setB .PRT_PCS_LOCK p false).setB .PRT_FEC_LOCK p false).setB .PRT_EVT_LINK p true
  (s.setPre p 0).raise .PRT_W_LINK_DOWN p 0 p

/-- A configuration write is refused (R107, R112, R116). -/
def State.prtCfgErr (s : State) (p : Nat) : State := (s.setB .PRT_EVT_CFG p true).raise .PRT_E_CFG p 0 p

/-- The enable, mode and FEC choice of a PRT_CFG word, stored. -/
def State.prtMode (s : State) (p n : Nat) : State :=
  ((s.setB .PRT_EN p (bitOf n 0)).setN .PRT_MODE p (bitsOf n 4 2)).setN .PRT_FEC p (bitsOf n 6 5)

/-- A PRT_CFG word is refused for port `p`: a change of an enabled port, a mode Table 05.1 does not give it, a member of its
group enabled, a lane retired, or a domain the power rules hold OFF (R105-R107, notes/assumptions/12.md). -/
def State.prtCfgBad (s : State) (p n : Nat) : Bool :=
  ((bitsOf n 4 2 ≠ s.rn .PRT_MODE p || bitsOf n 6 5 ≠ s.rn .PRT_FEC p) && s.rb .PRT_EN p) || !modeOk p (bitsOf n 4 2) (bitsOf n 6 5) ||
    (members p (bitsOf n 4 2)).any (fun q => s.rb .PRT_EN q) || (bitOf n 0 && (p :: members p (bitsOf n 4 2)).any s.laneRetired) ||
    (bitOf n 0 && !s.rb .PRT_EN p && (s.prtMode p n).domTarget s.mod.mode (portDom p) = dsOff)

/-- The fields of an accepted PRT_CFG word, and PRT_LANE_MEMBER of every port with it; the counters of a member ID are 0
(R106, R110). -/
def State.prtFields (s : State) (p n : Nat) : State :=
  let t := ((s.prtMode p n).setN .PRT_MAX_FRAME p (clampN 1518 9600 (bitsOf n 31 18))).setB .PRT_AN_EN p (bitOf n 7)
  (List.range 32).foldl (fun t q =>
    let t := t.setB .PRT_LANE_MEMBER q (t.isMember q)
    if t.isMember q then t.clearCtrs (Ctr.ofBlock .PRT) q else t) t

/-- The domain of port `p` follows its enable in the modes that have ports (R42, R503); in TEST an enabled port is part of
the test, and its domain comes on (R504). -/
def State.portDomain (s : State) (p : Nat) : State :=
  let n := s.domTarget s.mod.mode (portDom p)
  if s.mod.mode == .test && s.rb .PRT_EN p && n != dsOff then s.domOn (portDom p)
  else if !domMode s.mod.mode then s else if n = dsOn then s.domOn (portDom p) else s.setDom (portDom p) n

/-- A write of PRT_CFG (R105-R107, R110). A member ID ignores it. -/
def State.wrPrtCfg (s : State) (p : Nat) (v : BitVec 32) : State :=
  if s.isMember p then s
  else if s.prtCfgBad p v.toNat then s.prtCfgErr p
  else if s.rb .PRT_EN p && !bitOf v.toNat 0 then ((s.prtFields p v.toNat).linkDown p).portDomain p
  else (s.prtFields p v.toNat).portDomain p

/-- A write of PRT_PRE_CFG (R112, R113). -/
def State.wrPreCfg (s : State) (p : Nat) (v : BitVec 32) : State :=
  let n := v.toNat
  if bitOf n 0 && (s.rn .PRT_MODE p = 5 || s.rn .PRT_MODE p = 6) then s.prtCfgErr p else
  let was := s.rb .PRT_PRE_EN p
  let s := ((s.setN .PRT_EXPRESS_TC p (Nat.lor (bitsOf n 31 24) 128)).setN .PRT_PRE_VERIFY_MS p (bitsOf n 23 16)).setN .PRT_PRE_FRAG p (bitsOf n 3 2)
  let s := (s.setB .PRT_PRE_VERIFY_DIS p (bitOf n 1)).setB .PRT_PRE_EN p (bitOf n 0)
  if !bitOf n 0 then s.setPre p 0
  else if !was && s.rb .PRT_LINK_UP p then s.startPre p
  else s

/-- A write of PRT_RED_CFG (R116). -/
def State.wrRedCfg (s : State) (p : Nat) (v : BitVec 32) : State :=
  let n := v.toNat
  let mode := bitsOf n 1 0
  let odd := p % 2 = 1
  let paired := odd && s.inPair p
  if (mode = 1 || mode = 2) && (p < 32 || odd) && !paired then s.prtCfgErr p else
  let s := (s.setN .PRT_RED_SUPV_MS p (bitsOf n 31 20)).setN .PRT_RED_FORGET_MS p (bitsOf n 19 8)
  let s := (s.setB .PRT_RED_KEEP p (bitOf n 4)).setB .PRT_RED_ROLE p (bitOf n 3)
  if paired then s
  else
    let s := s.setN .PRT_RED_MODE p mode
    if mode = 1 || mode = 2 then s.setN .PRT_RED_MODE (p + 1) 0 else s

/-- PRT_CNT_CLR (R124): host writes need the port in the host's partition (R126). -/
def State.wrPrtCntClr (s : State) (src : Src) (p : Nat) : State :=
  if s.inPartition src (fun h => s.holdsPort h p) then s.clearCtrs (Ctr.ofBlock .PRT) p else s

end Sys2Proof.Machine
end

