-- ==== Sys2Proof/Machine/Redundancy.lean ====
section
/-! DEFINITION. PRP and HSR (spec/05 R116-R123) and the Gazetteer's entries (spec/09 R255): tags and trailers, partner
entries, duplicate discard. -/

namespace Sys2Proof.Machine

open Sys2Proof

/-- A Gazetteer entry not in use. -/
def Gaz.none : Gaz :=
  { mac := 0, valid := false, learned := false, proxy := false, winValid := false, lanLoss := false, goAlarm := false,
    top := 0, window := 0, seqTx := 0, heardA := 0, heardB := 0, pair := 0, sinceA := false, sinceB := false }

def State.gazAt (s : State) (i : Nat) : Gaz := s.gaz.get Gaz.none i
def State.setGaz (s : State) (i : Nat) (g : Gaz) : State := { s with gaz := s.gaz.put Gaz.none i g }

/-- The valid entry of a MAC address. -/
def State.gazOf (s : State) (mac : Nat) : Option Nat := (s.gaz.find? fun e => e.2.valid && e.2.mac == mac).map (·.1)

/-- A free entry for a new source (R121); which one the manual leaves open: a free value chooses. -/
def State.newGaz (s : State) (g : Gaz) : State × Option Nat :=
  let (f, s) := s.draw
  match pickFrom 16384 f.toNat fun i => !(s.gazAt i).valid with
  | some i => (s.setGaz i g, some i)
  | none => (s, none)

/-- Kind of a redundancy mark found on a frame at step 2: HSR, LAN or path bit, sequence number. -/
structure RedMark where
  hsr  : Bool
  lan  : Nat
  seq  : Nat
  deriving DecidableEq, Repr

/-- The mark of a frame on a port whose redundancy mode is `mode`; the flag says that a trailer's LSDUsize does not
match (R121). -/
def redMark (mode : Nat) (l : List Byte) : Option RedMark × Bool :=
  if (mode = 2 || mode = 3) && beAt l 12 2 = 0x892F then (some ⟨true, beAt l 14 2 / 4096, beAt l 16 2⟩, false)
  else if (mode = 1 || mode = 3) && 20 ≤ l.length && beAt l (l.length - 2) 2 = 0x88FB then
    let w := beAt l (l.length - 4) 2
    if w % 4096 = lsdu l then (some ⟨false, w / 4096, beAt l (l.length - 6) 2⟩, false) else (none, true)
  else (none, false)

/-- The frame without its mark (R122). -/
def stripRed (m : RedMark) (l : List Byte) : List Byte :=
  if m.hsr then l.take 12 ++ l.drop 18 else l.take (l.length - 6)

/-- Duplicate discard against a source's window (R119): the window after, whether the frame is accepted, and whether it
lay out of the window. -/
def winStep (g : Gaz) (seq : Nat) : Gaz × Bool × Bool :=
  let d := signed 16 ((seq + 65536 - g.top) % 65536)
  if !g.winValid then ({ g with top := seq, window := 1, winValid := true }, true, false)
  else if 1 ≤ d then ({ g with top := seq, window := (g.window <<< d.toNat) ||| 1 }, true, false)
  else if -63 ≤ d then
    if g.window.getLsbD (-d).toNat then (g, false, false)
    else ({ g with window := g.window ||| (1#64 <<< (-d).toNat) }, true, false)
  else (g, true, true)

/-- Meridian in the form of GZ_HEARD. -/
def State.heardNow (s : State) : Nat := s.sec % 65536 * 2 ^ 32 + s.nsec

/-- A frame heard on LAN A or B (R123): a loss ends once the partner has been heard on both LANs again. -/
def State.heard (s : State) (g : Gaz) (lanB : Bool) : Gaz :=
  let g := if lanB then { g with heardB := s.heardNow, sinceB := true } else { g with heardA := s.heardNow, sinceA := true }
  if g.sinceA && g.sinceB then { g with lanLoss := false } else g

/-- What step 2 decides for a frame on port `p` (R119-R122): the frame that goes on to the pipeline, if any, whether a
mark is still on it, and whether the frame is also forwarded on the other ring port. -/
structure RedOut where
  state  : State
  frame  : Option (List Byte)
  marked : Bool
  ring   : Bool

/-- The Gazetteer entry of a source address, made where there is none. -/
def State.senderGaz (s : State) (p sa : Nat) : State × Option Nat :=
  match s.gazOf sa with
  | some i => (s, some i)
  | none => s.newGaz { Gaz.none with mac := sa, valid := true, learned := true, pair := (p - 32) / 2 % 8 }

/-- Frames received on port `p` keep their trailer or tag (R116, R122). -/
def State.redKeeps (s : State) (p : Nat) : Bool := s.redMode p = 3 || s.rb .PRT_RED_KEEP (pairOf p)

/-- A MAC address is the device's or that of a source it proxies. -/
def State.ownMac (s : State) (mac : Nat) : Bool :=
  mac == s.rn .TBL_RMAC_H * 2 ^ 32 + s.rn .TBL_RMAC_L || match s.gazOf mac with
    | some k => (s.gazAt k).proxy
    | none => false

/-- A frame received on a port goes out of the other ring port too, if it is no duplicate (R122). -/
def State.ringForward (s : State) (p : Nat) (l : List Byte) : Bool :=
  s.inPair p && s.redMode p = 2 && !s.ownMac (beAt l 6 6) && !(beAt l 0 6 / 2 ^ 40 % 2 = 0 && s.ownMac (beAt l 0 6))

/-- Step 2 of the frame path (R116-R123). -/
def State.redStep (s : State) (p : Nat) (l : List Byte) : RedOut :=
  let mode := s.redMode p
  let (m?, bad) := redMark mode l
  let s := if bad then s.bump .PRT_CNT_RED_LSDU p else s
  match m? with
  | none => ⟨s, some l, false, s.ringForward p l⟩
  | some m =>
    let pair := s.inPair p
    let lanB := p % 2 = 1
    let s := if pair && !m.hsr && m.lan ≠ (if lanB then 0xB else 0xA) then s.bump .PRT_CNT_RED_WRONG_LAN p else s
    let keep := s.redKeeps p
    let out := if keep then l else stripRed m l
    let sa := beAt l 6 6
    let (s, idx) := s.senderGaz p sa
    match idx with
    | none =>
      let s := ((s.raise .PRT_W_RED_FULL p 0 p)).bump .PRT_CNT_RED_UNK p
      ⟨s, some out, keep, false⟩
    | some i =>
      let g := s.heard (s.gazAt i) lanB
      let g := if pair then { g with pair := (p - 32) / 2 } else g
      let (g, ok, oow) := winStep g m.seq
      let s := s.setGaz i g
      let s := if oow then s.bump .PRT_CNT_RED_OOW p else s
      if !ok then ⟨s.bump .PRT_CNT_RED_DUP p, none, keep, false⟩
      else
        ⟨s, some out, keep, s.ringForward p l⟩

end Sys2Proof.Machine
end

