-- ==== Sys2Proof/Machine/ReplOps.lean ====
section
/-! DEFINITION. Destination ports and the duplication into redundant pairs (spec/05 R117, R118, spec/11 R304, R305). -/

namespace Sys2Proof.Machine

open Sys2Proof

/-- Destination ports of a replication group in force, without the pruned ingress port (R305). -/
def State.groupPorts (s : State) (g src : Nat) : Nat :=
  let m := (s.swc.rgLow.get 0#32 g).toNat + s.rn .SWC_RG_MASK_H g * 2 ^ 32 + s.rn .SWC_RG_MASK_HOST g * 2 ^ 56
  if s.rb .SWC_RG_PRUNE g && bitOf m src then m - 2 ^ src else m

/-- Ports of a number's bits that are egress ports, ascending. -/
def portsOf (m : Nat) : List Nat := (List.range 64).filter fun p => bitOf m p && isEgress p

/-- A replica to make: its port and its redundancy trailer or tag. -/
abbrev Rep := Nat × Option Red

/-- The next sequence number of a duplicated frame (R118): the pair's counter for the device's own frames, the counter of
the partner entry for a proxied source. DESIGN CHOICE (the spec names no number for a forwarded source that gets no entry
because none is free): the pair's own counter gives it (notes/assumptions/28.md). -/
def State.redSeq (s : State) (pair : Nat) (own : Bool) (sa : Nat) : Nat × State :=
  let mine (s : State) : Nat × State := (s.rn .PRT_RED_SEQ pair, s.setN .PRT_RED_SEQ pair ((s.rn .PRT_RED_SEQ pair + 1) % 65536))
  if own then mine s
  else
    let (s, i) := match s.gazOf sa with
      | some i => (s, some i)
      | none => s.newGaz { Gaz.none with mac := sa, valid := true, learned := true, pair := (pair - 32) / 2 % 8 }
    match i with
    | some i =>
      let g := s.gazAt i
      (g.seqTx, s.setGaz i { g with proxy := true, seqTx := (g.seqTx + 1) % 65536 })
    | none => mine ((s.raise .PRT_W_RED_FULL pair 0 pair).bump .PRT_CNT_RED_UNK pair)

/-- The replicas of a destination list: a frame the device originates, or in a RedBox one from any non-pair port, is
duplicated into a pair in mode 1 or 2 (R117, R118). -/
def State.duplicate (s : State) (p : Packet) (ports : List Nat) : List Rep × State :=
  let own := 56 ≤ p.src
  let sa := beAt p.bytes 6 6
  ports.foldl (fun (acc : List Rep × State) q =>
    let s := acc.2
    let even := pairOf q
    if !(s.inPair q) || acc.1.any (fun r => r.1 == q) then (if acc.1.any (fun r => r.1 == q) then acc else (acc.1 ++ [(q, none)], s))
    else
      let redbox := s.rb .PRT_RED_ROLE even
      if p.raw || !(own || (redbox && !(32 ≤ p.src && p.src < 48 && s.inPair p.src))) then (acc.1 ++ [(q, none)], s)
      else
        let (n, s) := s.redSeq even own sa
        let hsr := s.redMode q = 2
        (acc.1 ++ [(even, some ⟨hsr, false, n⟩), (even + 1, some ⟨hsr, true, n⟩)], s)) ([], s)

end Sys2Proof.Machine
end

