-- ==== Sys2Proof/Machine/SauOps.lean ====
section
/-! DEFINITION. Streams, grids and slices (spec/10 R263-R280): supervision, joining, closing, delivery, late patches and
the grid reset. -/

namespace Sys2Proof.Machine

open Sys2Proof

/-! ### The grid (R267, R269) -/

/-- Base rate of a group. -/
def State.jgRate (s : State) (g : Nat) : Nat := s.rn .SAU_JG_RATE g

/-- A grid instant as Meridian in units of 2^-32 ns times the rate, so that no fraction is rounded. -/
def gridAt (b sec n : Nat) : Nat := sec * tickSec * b + n * tickSec

/-- Meridian has reached a grid instant plus `ns`. -/
def State.reached (s : State) (g sec n ns : Nat) : Bool :=
  gridAt (s.jgRate g) sec n + ns * tickNs * s.jgRate g ≤ s.tim.now * s.jgRate g

/-- The instant after one, and the first that lies at or after the current Meridian. -/
def gridNext (b : Nat) (i : Nat × Nat) : Nat × Nat := if i.2 + 1 < b then (i.1, i.2 + 1) else (i.1 + 1, 0)
def State.gridFirst (s : State) (g : Nat) : Nat × Nat :=
  let b := s.jgRate g
  let n := (s.tim.now % tickSec * b + tickSec - 1) / tickSec
  if n < b then (s.tim.now / tickSec, n) else (s.tim.now / tickSec + 1, 0)

/-- An instant earlier than another. -/
def gridLt (a b : Nat × Nat) : Bool := a.1 < b.1 || (a.1 = b.1 && a.2 < b.2)

/-- SAU_GRID_RUN: the fast timebase runs and TIM_QUAL is not UNSET. -/
def State.gridRun (s : State) : Bool := s.rb .TIM_FAST && s.rn .TIM_QUAL ≠ 0

/-! ### Groups and members -/

def State.grp (s : State) (g : Nat) : Grp := s.sau.grp.get Grp.none g
def State.setGrp (s : State) (g : Nat) (x : Grp) : State := { s with sau := { s.sau with grp := s.sau.grp.put Grp.none g x } }
def State.strm (s : State) (st : Nat) : Strm := s.sau.strm.get Strm.none st
def State.setStrm (s : State) (st : Nat) (x : Strm) : State := { s with sau := { s.sau with strm := s.sau.strm.put Strm.none st x } }

/-- Enabled members of a group in position order: position and stream. -/
def State.members (s : State) (g : Nat) : List (Nat × Nat) :=
  ((List.range 64).filter fun m => s.rb .SAU_JG_M_EN (g * 64 + m)).map fun m => (m, s.rn .SAU_JG_M_STREAM (g * 64 + m))

/-- Channels of a stream. -/
def State.nch (s : State) (st : Nat) : Nat := s.rn .SAU_ST_NCH st

/-- Channel total of a group, and a size rounded up to 64 bytes (R275). -/
def State.chTotal (s : State) (g : Nat) : Nat := ((s.members g).map fun m => s.nch m.2).foldl (· + ·) 0
def round64 (n : Nat) : Nat := (n + 63) / 64 * 64

/-- Slot sizes of the slice ring and of the patch ring (R275). -/
def State.slotB (s : State) (g : Nat) : Nat := round64 (64 + 8 * s.chTotal g)
def State.patchB (s : State) (g : Nat) : Nat := round64 (64 + 8 * ((s.members g).map fun m => s.nch m.2).foldl max 0)

/-! ### Slices (R272-R278) -/

/-- Channel entries of a member area as received (network order) in the order they are stored (R277). -/
def areaLe : Nat → List Byte → List Byte
  | 0, _ => []
  | n + 1, l => (l.take 4).reverse ++ ((l.drop 4).take 4).reverse ++ areaLe n (l.drop 8)

/-- Some channel of a stored area has a validity other than good, or its test bit set. -/
def areaBad : Nat → List Byte → Bool
  | 0, _ => false
  | n + 1, l => leNat ((l.drop 4).take 4) % 4 ≠ 0 || areaBad n (l.drop 8)
def areaTest : Nat → List Byte → Bool
  | 0, _ => false
  | n + 1, l => bitOf (leNat ((l.drop 4).take 4)) 11 || areaTest n (l.drop 8)

/-- Bit mask of positions. -/
def maskOf (l : List Nat) : Nat := l.foldl (fun a m => Nat.lor a (2 ^ m)) 0

/-- A slice header as it stands when the slot is written (Table 10.4). -/
def State.sliceHdr (s : State) (g sec n present held invalid test seq flags nch member : Nat) : List Byte :=
  let f := n * 1000000000 * 65536 / max 1 (s.jgRate g)
  leBytes 6 sec ++ leBytes 2 0 ++ leBytes 4 (f / 65536) ++ leBytes 2 (f % 65536) ++ leBytes 2 n ++ leBytes 8 present ++
    leBytes 8 held ++ leBytes 8 invalid ++ leBytes 8 test ++ leBytes 2 g ++ leBytes 2 seq ++ leBytes 4 s.nsec ++
    leBytes 1 flags ++ leBytes 1 (s.rn .TIM_QUAL) ++ leBytes 2 nch ++ leBytes 1 0 ++ leBytes 1 member ++ leBytes 2 0

/-- Bytes written at an offset of the shared memory of every cluster of the group whose memory is powered (R275). -/
def State.toClusters (s : State) (g o : Nat) (l : List Byte) : State :=
  ((List.range 24).filter fun c => bitOf (s.rn .SAU_JG_CLMASK g) c && s.dom (76 + c / 6) ≠ dsOff).foldl
    (fun s c => s.memFill (.shm c) o l) s

/-- A Graticule token is sent or dropped (R279, R280). -/
def State.sauToken (s : State) (g tmpl pos sec n value : Nat) : State :=
  let drop (s : State) : State :=
    ((s.countF .SAU_JG_TOK_REF g).bump .SAU_CNT_TOK_REF).raiseLimited .SAU_W_TOKEN g ms1 g
  if s.tokMax g ≤ s.rn .SAU_JG_TOK_OUT g then drop s
  else
    let t : Token := { tmpl := tmpl, pos := pos, tag := sec % 2 ^ 17 * 2 ^ 15 + n % 2 ^ 15, value := value, isBuf := false, pin := 31, grat := some g }
    match s.sendTok t with
    | (none, s) => s.setN .SAU_JG_TOK_OUT g (s.rn .SAU_JG_TOK_OUT g + 1)
    | (some _, s) => drop s

/-- The areas of a slice at close, with the hold policy (R273): the area and 0 zeros, 1 present, 2 held. -/
def State.areasAt (s : State) (g : Nat) (x : Slice) : List (Nat × List Byte × Nat) × SMap (Nat × List Byte) :=
  let limit := s.rn .SAU_JG_HOLD_N g
  (s.members g).foldl (fun (acc : List (Nat × List Byte × Nat) × SMap (Nat × List Byte)) m =>
    match x.areas.find m.1 with
    | some a => (acc.1 ++ [(m.1, a, 1)], acc.2.set m.1 (0, a))
    | none =>
      match acc.2.find m.1 with
      | some (n, a) => if n < limit then (acc.1 ++ [(m.1, a, 2)], acc.2.set m.1 (n + 1, a))
          else (acc.1 ++ [(m.1, List.replicate (8 * s.nch m.2) 0#8, 0)], acc.2)
      | none => (acc.1 ++ [(m.1, List.replicate (8 * s.nch m.2) 0#8, 0)], acc.2)) ([], (s.grp g).hold)

/-- A group after a slice has closed with sequence number `seq`. -/
def Grp.close (gr : Grp) (x : Slice) (seq : Nat) : Grp :=
  { gr with opens := gr.opens.filter fun y => !(y.sec == x.sec && y.n == x.n), done := ((x.sec, x.n, seq) :: gr.done).take 2048 }

/-- A slice written to its slot and its token sent (R278, R279). -/
def State.sendSlice (s : State) (g : Nat) (x : Slice) (seq flags : Nat) (as : List (Nat × List Byte × Nat)) : State :=
  let sel (f : Nat × List Byte × Nat → Bool) : Nat := maskOf ((as.filter f).map (·.1))
  let hdr := s.sliceHdr g x.sec x.n (sel fun a => a.2.2 = 1) (sel fun a => a.2.2 = 2)
    (sel fun a => areaBad (a.2.1.length / 8) a.2.1) (sel fun a => areaTest (a.2.1.length / 8) a.2.1) seq flags (s.chTotal g) 0
  let slot := seq % 2 ^ s.rn .SAU_JG_DEPTH_L2 g
  let s := (s.toClusters g (s.rn .SAU_JG_RING_BASE g + slot * s.slotB g) (hdr ++ as.flatMap (·.2.1))).bump .SAU_CNT_SLICE
  s.sauToken g (s.rn .SAU_JG_TMPL g) (s.rn .SAU_JG_OPND g) x.sec x.n
    (2 ^ 60 + g * 2 ^ 51 + seq * 2 ^ 35 + slot % 64 * 2 ^ 29 + flags % 128 * 2 ^ 16 + x.n % 2 ^ 15)

/-- A closed slice is delivered: the hold policy fills it, the group's sequence number moves on. -/
def State.deliverSlice (s : State) (g : Nat) (x : Slice) (seq flags : Nat) (gr : Grp) : State :=
  let p := (s.setGrp g gr).areasAt g x
  ((s.setGrp g { gr with hold := p.2 }).setN .SAU_JG_SEQ g ((seq + 1) % 65536)).sendSlice g x seq flags p.1

/-- A slice closes (R272, R278): dropped if no sample reached it and SAU_JG_EMPTY is 0, else written and its token sent. -/
def State.closeSlice (s : State) (g : Nat) (x : Slice) (flags : Nat) : State :=
  let seq := s.rn .SAU_JG_SEQ g
  let gr := (s.grp g).close x seq
  let s := if bitOf flags 0 then (s.bump .SAU_CNT_DL_CLOSE).countF .SAU_JG_DL_CLOSES g else s
  if x.areas.isEmpty && !s.rb .SAU_JG_EMPTY g then s.setGrp g gr
  else s.deliverSlice g x seq (if x.areas.isEmpty then flags + 4 else flags) gr

/-- Expected members all have their sample (R272). -/
def State.allPresent (s : State) (g : Nat) (x : Slice) : Bool :=
  (s.members g).all fun m => s.rn .SAU_ST_STATE m.2 ≠ 2 || (x.areas.find m.1).isSome

/-- A slice of an instant opens. -/
def State.openSlice (s : State) (g sec n : Nat) : State :=
  let gr := s.grp g
  s.setGrp g { gr with opens := gr.opens ++ [{ sec := sec, n := n, areas := [] }] }

/-- The group's grid starts from the first instant at or after the current Meridian where it has none. -/
def State.startGrid (s : State) (g : Nat) : State :=
  let gr := s.grp g
  if gr.front.isNone && s.gridRun then s.setGrp g { gr with front := some (s.gridFirst g) } else s

/-- A late sample (R274): a patch, or counted and discarded. -/
def State.lateSample (s : State) (g m st sec n : Nat) (area : List Byte) : State :=
  let win := s.rn .SAU_JG_DL_NS g + 1000 * s.rn .SAU_JG_PATCH_WIN_US g
  if s.rb .SAU_JG_PATCH_EN g && s.tim.now * s.jgRate g ≤ gridAt (s.jgRate g) sec n + win * tickNs * s.jgRate g then
    let gr := s.grp g
    let seq := ((gr.done.find? fun d => d.1 == sec && d.2.1 == n).map (·.2.2)).getD (s.rn .SAU_JG_SEQ g)
    let bit (b : Bool) : Nat := if b then 2 ^ m else 0
    let hdr := s.sliceHdr g sec n 0 0 (bit (areaBad (area.length / 8) area)) (bit (areaTest (area.length / 8) area)) seq 8 0 m
    let slot := gr.patch % 2 ^ s.rn .SAU_JG_PATCH_DEPTH_L2 g
    let s := s.setGrp g { gr with patch := gr.patch + 1 }
    let s := (s.toClusters g (s.rn .SAU_JG_PATCH_BASE g + slot * s.patchB g) (hdr ++ area)).bump .SAU_CNT_PATCH
    s.sauToken g (s.rn .SAU_JG_PATCH_TMPL g) 0 sec n
      (2 * 2 ^ 60 + g * 2 ^ 51 + seq * 2 ^ 35 + slot % 64 * 2 ^ 29 + m * 2 ^ 23 + 8 * 2 ^ 16 + n % 2 ^ 15)
  else (s.countF .SAU_ST_LATE st).bump .SAU_CNT_LATE

/-- A sample of a VALID stream reaches a group (R268, R272): it opens its slice if need be, is written, and closes the
slice if every expected member is present; a sample of a closed slice is late. -/
def State.joinGroup (s : State) (g m st sec n : Nat) (area : List Byte) : State :=
  let s := s.startGrid g
  let gr := s.grp g
  match gr.front with
  | none => s
  | some front =>
    let isOpen := gr.opens.any fun x => x.sec == sec && x.n == n
    if !isOpen && (gridLt (sec, n) front || gr.done.any fun d => d.1 == sec && d.2.1 == n) then s.lateSample g m st sec n area
    else if isOpen && s.reached g sec n (s.rn .SAU_JG_DL_NS g) then
      match gr.opens.find? fun x => x.sec == sec && x.n == n with
      | some x => (s.closeSlice g x 1).lateSample g m st sec n area
      | none => s
    else
      let s := if isOpen then s else s.openSlice g sec n
      let gr := s.grp g
      let put (x : Slice) : Slice := if x.sec == sec && x.n == n then { x with areas := x.areas.set m area } else x
      let s := s.setGrp g { gr with opens := gr.opens.map put }
      match (s.grp g).opens.find? fun x => x.sec == sec && x.n == n with
      | some x => if s.allPresent g x then s.closeSlice g x 0 else s
      | none => s

/-- Groups that name a stream, with its position. -/
def State.groupsOf (s : State) (st : Nat) : List (Nat × Nat) :=
  s.groupsOn.filterMap fun g => ((s.members g).find? fun m => m.2 == st).map fun m => (g, m.1)

/-- A VALID sample is joined in every group of its stream whose grid it falls on (R268). -/
def State.joinSample (s : State) (st sec c : Nat) (area : List Byte) : State :=
  (s.groupsOf st).foldl (fun s gm =>
    let b := s.jgRate gm.1
    let k := if b = 0 then 0 else s.rn .SAU_ST_RATE st / b
    if k = 0 || c % k ≠ 0 || !s.gridRun || s.mod.mode == .drain then s
    else s.joinGroup gm.1 gm.2 st sec (c / k) area) s

/-! ### Supervision (R266) -/

/-- A stream changes state; slices that waited only for a stream that leaves VALID close (R272). -/
def State.setStream (s : State) (st state : Nat) : State :=
  let old := s.rn .SAU_ST_STATE st
  let s := s.setN .SAU_ST_STATE st state
  let s := if state = 1 then s.setStrm st { s.strm st with run := 0 } else s
  if old = 2 && state ≠ 2 then
    (s.groupsOf st).foldl (fun s gm =>
      ((s.grp gm.1).opens.filter fun x => (x.areas.find gm.2).isNone).foldl (fun s x =>
        if s.allPresent gm.1 x then s.closeSlice gm.1 x 0 else s) s) s
  else s

/-- One ASDU: checks 5 and 6, supervision and joining (R265, R266, R269). `t` is the ingress timestamp in ns; a sample just
after second 0 may belong to the second before it, in which no grid instant lies. -/
def State.sample (s : State) (st : Nat) (t : Int) (c : Nat) (area : List Byte) : State :=
  let r := max 1 (s.rn .SAU_ST_RATE st)
  let early := s.rn .SAU_EARLY_US * 1000
  let sec : Int := ((t + early) * r - (c * 1000000000 : Nat)) / ((1000000000 * r : Nat) : Int)
  let age : Int := t * r - (sec * (1000000000 * r : Nat) + (c * 1000000000 : Nat))
  let at1 := ((sec + 1).toNat, c)
  if ((s.rn .SAU_ST_AGE_MAX_US st * 1000 * r : Nat) : Int) < age then s.countF .SAU_ST_STALE st
  else
    let x := s.strm st
    if x.latest.any fun l => !gridLt l at1 then s.bump .SAU_CNT_DUP
    else
      let gap := x.latest.any fun l => gridNext r l != at1
      let s := if gap then s.countF .SAU_ST_GAPS st else s
      let s := (((s.setStrm st { x with latest := some at1 }).bump .SAU_CNT_ACCEPT).setN .SAU_ST_LAST_CNT st c).setN
        .SAU_ST_AGE_LAST st (min (2 ^ 32 - 1) (age / (r : Int)).toNat)
      if s.rn .SAU_ST_STATE st = 2 then (if sec < 0 then s else s.joinSample st sec.toNat c area)
      else
        let s := if s.rn .SAU_ST_STATE st = 3 then s.setStream st 1 else s
        let run := if gap then 1 else (s.strm st).run + 1
        let s := s.setStrm st { s.strm st with run := run }
        if max 1 (s.rn .SAU_ACQ_N) ≤ run && s.rn .TIM_QUAL ≠ 0 then
          (s.setStream st 2).raiseLimited .SAU_I_STREAM_VALID st ms1 st
        else s

/-! ### Grid reset, discards (R270, R288) -/

/-- Open slices of a group discarded without tokens. -/
def State.discardSlices (s : State) (g : Nat) : State := s.setGrp g { s.grp g with opens := [] }

/-- A grid reset (R270). -/
def State.gridReset (s : State) : State :=
  let s := s.groupsOn.foldl (fun s g => (s.grp g).opens.foldl (fun s x => s.closeSlice g x 2) s) s
  let s := { s with sau := { s.sau with strm := [] } }
  let s := (s.listed .SAU_ST_STATE).foldl (fun s st => s.setN .SAU_ST_STATE st 1) s
  let s := s.groupsOn.foldl (fun s g => s.setGrp g { s.grp g with front := if s.gridRun then some (s.gridFirst g) else none, done := [] }) s
  s.raise .SAU_I_GRID_RESET

/-- Every retransmission schedule stops (R288). -/
def State.stopPubs (s : State) : State :=
  let s := (s.listed .SAU_PUB_STATE).foldl (fun s p => s.setN .SAU_PUB_STATE p 0) s
  let f (l : List (Nat × WheelItem)) := l.filter fun e => match e.2 with
    | .pub _ => false
    | _ => true
  { s with tmg := { s.tmg with wheel := f s.tmg.wheel, ovf := f s.tmg.ovf, carried := f s.tmg.carried, pubDue := [] } }

/-- DRAIN discards open slices; retransmission schedules stop (R288). -/
def State.sauDrain (s : State) : State :=
  (s.groupsOn.foldl (fun s g => s.setGrp g { s.grp g with opens := [], front := none }) s).stopPubs

end Sys2Proof.Machine
end

