-- ==== Sys2Proof/Machine/PubOps.lean ====
section
/-! DEFINITION. GOOSE publication (spec/10 R281-R284): the form of a frame, its re-encoding, its signature (spec/15 R424),
its transmission and its schedule. -/

namespace Sys2Proof.Machine

open Sys2Proof

def State.pub (s : State) (p : Nat) : Pub := s.sau.pub.get Pub.none p
def State.setPub (s : State) (p : Nat) (x : Pub) : State := { s with sau := { s.sau with pub := s.sau.pub.put Pub.none p x } }

/-- Offset of the EtherType after at most one 802.1Q tag. -/
def etAt (l : List Byte) : Nat := if leNat ((l.drop 12).take 2).reverse = 0x8100 then 16 else 12

/-- A definite BER length: its value and its octets. -/
def berLen (l : List Byte) : Option (Nat × Nat) :=
  match l with
  | [] => none
  | b :: t =>
    if b.toNat < 128 then some (b.toNat, 1)
    else
      let n := b.toNat - 128
      if 1 ≤ n && n ≤ 4 && n ≤ t.length then some (beNat (t.take n), n + 1) else none

/-- Elements of a constructed value with single-octet identifiers: identifier, the octets of its length, value. -/
def berItems : Nat → List Byte → Option (List (Nat × List Byte × List Byte))
  | _, [] => some []
  | 0, _ => none
  | f + 1, b :: t =>
    match berLen t with
    | none => none
    | some (n, k) =>
      if b.toNat % 32 = 31 || t.length < k + n then none
      else (berItems f (t.drop (k + n))).map fun r => (b.toNat, t.take k, (t.drop k).take n) :: r

/-- The elements of the goosePdu of a frame, and what follows it; none where the form is not accepted (R281). -/
def goosePdu (l : List Byte) : Option (List (Nat × List Byte × List Byte) × List Byte) :=
  let a := l.drop (etAt l + 10)
  match a with
  | t :: c :: h :: w :: r =>
    let n := beNat [h, w]
    if t.toNat ≠ 0x61 || c.toNat ≠ 0x82 || r.length < n then none
    else match berItems 4096 (r.take n) with
      | none => none
      | some items =>
        if [0x81, 0x84, 0x85, 0x86].all fun x => items.any fun i => i.1 = x then some (items, r.drop n) else none
  | _ => none

/-- Minimum octets of a non-negative BER integer. -/
def berUint (v : Nat) : List Byte := beBytes (v.log2 / 8 + (if v.log2 % 8 = 7 then 2 else 1)) v

/-- Minimum octets of a definite length below 65,536. -/
def berLenOf (n : Nat) : List Byte :=
  if n < 128 then beBytes 1 n else if n < 256 then beBytes 1 0x81 ++ beBytes 1 n else beBytes 1 0x82 ++ beBytes 2 n

/-- A frame with the first element of each identifier of `vals` replaced; the goosePdu length and the APDU Length follow
(R282). -/
def reencode (l : List Byte) (vals : List (Nat × List Byte)) : List Byte :=
  match goosePdu l with
  | none => l
  | some (items, rest) =>
    let put (acc : List Byte × List Nat) (i : Nat × List Byte × List Byte) : List Byte × List Nat :=
      match (if acc.2.contains i.1 then none else vals.find? fun v => v.1 = i.1) with
      | some v => (acc.1 ++ beBytes 1 i.1 ++ berLenOf v.2.length ++ v.2, i.1 :: acc.2)
      | none => (acc.1 ++ beBytes 1 i.1 ++ i.2.1 ++ i.2.2, acc.2)
    let body := (items.foldl put ([], [])).1
    let o := etAt l
    let pdu := beBytes 1 0x61 ++ beBytes 1 0x82 ++ beBytes 2 body.length ++ body
    l.take (o + 4) ++ beBytes 2 (8 + pdu.length) ++ (l.drop (o + 6)).take 4 ++ pdu ++ rest

/-- The t value at the current Meridian (R282). -/
def State.gooseTime (s : State) : List Byte :=
  let q := s.rn .TIM_QUAL
  let oct := 0x80 + (if q ≤ 1 then 0x40 else 0) + (if q = 2 then 0 else 0x20) + (if q = 2 then 0b01010 else 0b11111)
  beBytes 4 ((s.sec + 2 ^ 64 - s.rn .SAU_UTC_OFFSET) % 2 ^ 32) ++ beBytes 3 (s.nsec * 2 ^ 24 / 1000000000) ++ beBytes 1 oct

/-! ### Schedule (R284) -/

/-- Interval Ij in µs, and its length in fine slots of 250 ns, rounded as R284 states. -/
def pubIvl (x : Pub) (j : Nat) : Nat := min (x.tmin * 2 ^ min j 32) (max 1 x.tmax * 1000)
def pubSlots (us : Nat) : Nat := if us ≤ 1024 then us * 4 else (us + 1023) / 1024 * 4096

/-- The next retransmission is placed on the wheel; SAU_PUB_STATE follows its interval. -/
def State.schedulePub (s : State) (p : Nat) : State :=
  let x := s.pub p
  let us := pubIvl x x.j
  let s := (s.setPub p { x with j := x.j + 1 }).setN .SAU_PUB_STATE p (if max 1 x.tmax * 1000 ≤ us then 2 else 1)
  s.place (s.tmg.slot + pubSlots us) (.pub p)

/-- The schedule of a publication stops. -/
def State.stopPub (s : State) (p : Nat) : State :=
  let s := s.unplace (.pub p)
  { s with tmg := { s.tmg with pubDue := s.tmg.pubDue.filter (· != p) } }.setN .SAU_PUB_STATE p 0

/-- The frame of the next transmission: stNum, sqNum and, where the device writes it, timeAllowedToLive as twice the
interval to the next one in ms rounded up (R282). -/
def State.pubFrame (s : State) (p : Nat) : List Byte :=
  let x := s.pub p
  let ns := pubSlots (pubIvl x x.j) * 250
  reencode x.frame ([(0x85, berUint (s.rn .SAU_PUB_STNUM p)), (0x86, berUint (s.rn .SAU_PUB_SQNUM p))] ++
    (if s.rb .SAU_PUB_TAL_AUTO p then [(0x81, berUint ((2 * ns + 999999) / 1000000))] else []))

/-! ### Signature (R424) -/

/-- The host whose partition holds every cluster of a template (R415). -/
def State.tmplOwner (s : State) (t : Nat) : Option Nat :=
  match s.tsk.tmpls.find t with
  | none => none
  | some m => (List.range 4).find? fun h => (List.range 24).all fun c => !bitOf m.clmask c || s.holdsCluster h c

/-- Layout of a secured frame (R422): offset and length of its message, and the extension that follows. -/
def securedParts (l : List Byte) : Nat × Nat × Nat :=
  let o := etAt l + 2
  (o, beNat ((l.drop (o + 2)).take 2), beNat ((l.drop (o + 4)).take 1))

/-- A transmission signed with SAU_PUB_KEY, or the status that withholds it. -/
def State.signFrame (s : State) (p : Nat) (l : List Byte) : (List Byte ⊕ Ev) × State :=
  let i := s.rn .SAU_PUB_KEY p
  let (o, n, ext) := securedParts l
  match s.authCheck (s.tmplOwner (s.rn .SAU_PUB_TMPL p)) i 1 (((s.slot i).map (·.tagLen)).getD 0) n with
  | .inr e => (.inr e, s.bump .AUT_CNT_REFUSED)
  | .inl k =>
    let e := o + n + ext
    if l.length < e || ext < k.trailer then (.inr .AUT_E_LENGTH, s.bump .AUT_CNT_REFUSED)
    else
      let (inv, s) := s.takeInv i k
      let m := (l.drop o).take n
      let tr := (if k.gmac then beBytes 8 inv else []) ++ k.mac inv m
      (.inl (l.take (e - tr.length) ++ tr ++ l.drop e), s.bump .AUT_CNT_SIGN)

/-! ### Transmission (R283) -/

/-- Destination ports of a publication. -/
def State.pubPorts (s : State) (p : Nat) : List Nat :=
  if s.rb .SAU_PUB_DST_GRP p then portsOf (s.groupPorts (s.rn .SAU_PUB_DST p) 62) else [s.rn .SAU_PUB_DST p % 64].filter isEgress

/-- A replica of a transmission gives up its buffer where it was not enqueued. -/
def State.pubEnqueue (s : State) (q : Nat) (e : QEnt) : State :=
  let (s, ok) := (s.bump .SWC_CNT_REPLICA).enqueueResv q e
  if ok then s else s.endReplica q e

/-- A frame in buffer `h` goes to the reserved queues of its destination ports, one replica each, two for a redundant
pair. -/
def State.pubSend (s : State) (p h : Nat) (l : List Byte) (change : Bool) : State :=
  let pk := Packet.offered 0 60 3 0 l
  let (reps, s) := s.duplicate pk (s.pubPorts p)
  let n := reps.length
  match s.buf h with
  | none => s
  | some b =>
    if n = 0 then (s.freeBuf h ownPub).1
    else
      let owner := (reps.getLast?.map (·.1)).getD ownPub
      let s := s.setBuf h { b with owner := owner, st := if n = 1 then .held else .shared, count := n - 1, bytes := l }
      let s := ((List.range n).zip reps).foldl (fun s r =>
        s.pubEnqueue r.2.1 { buf := h, len := l.length + 4, tc := 7, dp := 0, rw := Rewrite.none, owner := r.1 + 1 == n,
                             inset := none, trunc := 0, vport := r.2.1, void := false, red := r.2.2,
                             pub := if change && r.1 = 0 then some p else none, raw := false, pkt := 0 }) s
      (s.countF .SAU_PUB_TX p).bump (if change then .SAU_CNT_PUB else .SAU_CNT_RETX)

/-- The reserved queue of every destination port is full for a frame of `len` octets: the transmission counts as one that
found no buffer (R320). DESIGN CHOICE (notes/assumptions/30.md): where only some of the queues are full, it goes out on the
others. -/
def State.resvFull (s : State) (p len : Nat) : Option State :=
  let ports := (s.duplicate (Packet.offered 0 60 3 0 []) (s.pubPorts p)).1.map (·.1)
  if !ports.isEmpty && ports.all fun q => 65536 < (s.queue (resvQueue q)).octets + len then
    some (ports.foldl (fun s _ => s.bump .TMG_CNT_RESV_DROP) s)
  else none

/-- What a transmission came to. -/
inductive PubOut where
  | noBuffer | sent
  deriving DecidableEq, Repr

/-- A transmission of the frame the state holds: a buffer is asked for, then the frame is signed or withheld, then sent. -/
def State.pubTransmit (s : State) (p : Nat) (l : List Byte) (change : Bool) : PubOut × State :=
  match s.request true (some (l.length + 4)) ownPub l none with
  | (s, none) => (.noBuffer, s)
  | (s, some h) =>
    if s.rb .SAU_PUB_AUTH p then
      match s.signFrame p l with
      | (.inl m, s) => (.sent, s.pubSend p h m change)
      | (.inr _, s) =>
        let s := ((s.freeBuf h ownPub).1.bump .AUT_CNT_WITHHELD).raiseLimited .AUT_W_SIGN_WITHHELD (s.rn .SAU_PUB_KEY p) ms1 p
        (.sent, if change then s.bump .SAU_CNT_PUB else s)
    else (.sent, s.pubSend p h l change)

/-- Cause of a refusal of GPUB (R281, R361); 0 none. -/
def State.pubCause (s : State) (p tmpl cls : Nat) (l : List Byte) : Nat :=
  if !s.rb .SAU_PUB_EN p then 1
  else if tmpl ≠ s.rn .SAU_PUB_TMPL p || cls ≠ 0 then 2
  else if 640 < l.length + 4 then 3
  else if beNat ((l.drop (etAt l)).take 2) ≠ 0x88B8 then 4
  else if (goosePdu l).isNone then 5
  else 0

/-- A state change (R282, R284): stNum and sqNum, t, the transmission and a fresh schedule. The flag is false where no buffer
is granted or the reserved queues are full (R320): nothing else has happened then, and the instruction is retried. -/
def State.stateChange (s : State) (p : Nat) (l : List Byte) : State × Bool :=
  let x := s.pub p
  let old := s.rn .SAU_PUB_STNUM p
  let st := if x.fresh || old = 2 ^ 32 - 1 then 1 else old + 1
  let l := if s.rb .SAU_PUB_T_AUTO p then reencode l [(0x84, s.gooseTime)] else l
  let x : Pub := { frame := l, j := 0, tmin := s.rn .SAU_PUB_TMIN_US p, tmax := s.rn .SAU_PUB_TMAX_MS p, fresh := false }
  let t := (((s.stopPub p).setPub p x).setN .SAU_PUB_STNUM p st).setN .SAU_PUB_SQNUM p 0
  let frame := t.pubFrame p
  match s.resvFull p (frame.length + 4) with
  | some s => (s, false)
  | none =>
    match (t.setN .SAU_PUB_LEN p frame.length).pubTransmit p frame true with
    | (.noBuffer, _) => (s, false)
    | (.sent, t) => (t.schedulePub p, true)

/-- A retransmission is skipped: it uses no sqNum, and the schedule goes on (R283). -/
def State.skipRetx (s : State) (p : Nat) : State :=
  ((s.bump .SAU_CNT_RETX_SKIP).raiseLimited .SAU_W_PUB_SKIP p ms1 p).schedulePub p

/-- A retransmission (R282-R284, R320): the next sqNum, or skipped where no buffer is granted or the reserved queues are
full. -/
def State.retransmit (s : State) (p : Nat) : State :=
  let sq := s.rn .SAU_PUB_SQNUM p
  let t := s.setN .SAU_PUB_SQNUM p (if sq = 2 ^ 32 - 1 then 1 else sq + 1)
  match s.resvFull p ((t.pubFrame p).length + 4) with
  | some s => s.skipRetx p
  | none =>
    match t.pubTransmit p (t.pubFrame p) false with
    | (.noBuffer, _) => s.skipRetx p
    | (.sent, t) => t.schedulePub p

end Sys2Proof.Machine
end

