-- ==== Sys2Proof/Machine/LaneOps.lean ====
section
/-! DEFINITION. The lanes of the authentication engine (spec/15 R413): what waits for one, in which order, and what starts,
parks and resumes there. Signings for the publication unit run within the command that transmits (R424): they wait for no
lane (notes/assumptions/23.md). -/

namespace Sys2Proof.Machine

open Sys2Proof

/-- Work that holds a lane or waits for one: its urgency (2 inline verification, 3 to 6 an engine request of class P, T, F,
B), its algorithm, its seat. -/
structure LaneWork where
  urg  : Nat
  gmac : Bool
  seat : Seat
  deriving DecidableEq, Repr

/-- The order of R413: urgency, then arrival. -/
def LaneWork.before (a b : LaneWork) : Bool := a.urg < b.urg || a.urg == b.urg && a.seat.arr < b.seat.arr

/-- The most urgent work of a list. -/
def mostUrgent (l : List LaneWork) : Option LaneWork :=
  l.foldl (fun m w => match m with
    | none => some w
    | some x => some (if w.before x then w else x)) none

/-- The engine operations and the inline packets whose verification is not over. -/
def State.laneWork (s : State) : List LaneWork :=
  (s.pkts.filterMap fun p => match p.verify with
    | some v =>
      if p.stage == .verify && p.whole && v.fail.isNone then
        some { urg := 2, gmac := (((v.bound <|> s.slot v.slot).map KeySlot.gmac)).getD true, seat := v.seat }
      else none
    | none => none) ++
  s.aut.ops.map fun o => { urg := 3 + o.rcd.cls, seat := o.seat,
                           gmac := if o.seat.lane.isSome then o.key.gmac else ((s.slot o.slot).getD o.key).gmac }

/-- Work that runs in lane `n`. -/
def runsIn (l : List LaneWork) (n : Nat) : Option LaneWork := l.find? fun w => w.seat.lane == some n && !w.seat.parked

/-- Work that lane `n` may take: what waits for a lane of the algorithm, and what is parked in it. -/
def mayTake (l : List LaneWork) (n : Nat) : List LaneWork :=
  l.filter fun w => w.gmac == decide (n < 8) && (w.seat.lane.isNone || w.seat.lane == some n && w.seat.parked)

/-- The level of R413 at which work is parked: 2 inline verification, 3 an engine request. -/
def LaneWork.level (w : LaneWork) : Nat := min 3 w.urg

/-- The seat of arrival number `n` changed. -/
def State.setSeat (s : State) (n : Nat) (f : Seat → Seat) : State :=
  { s with aut := { s.aut with ops := s.aut.ops.map fun o => if o.seat.arr = n then { o with seat := f o.seat } else o }
           pkts := s.pkts.map fun p => { p with verify := p.verify.map fun v => if v.seat.arr = n then { v with seat := f v.seat } else v } }

/-- Numbers of the arrivals that have not ended. -/
def State.arrivals (s : State) : List Nat :=
  s.aut.ops.map (·.seat.arr) ++ s.pkts.filterMap fun p => p.verify.map (·.seat.arr)

/-- The next arrival takes a number above those in use; it waits. -/
def State.newSeat (s : State) (len : Nat) : Seat × State :=
  let n := s.arrivals.foldl (fun m a => max m (a + 1)) s.aut.arr
  ({ arr := n, lane := none, parked := false, left := len }, { s with aut := { s.aut with arr := n + 1 } })

/-- The status of an operation reaches the program (R421): by token, or in rd of the context that waits. An abandoned
operation ends unseen. -/
def State.authAnswer (s : State) (o : AuthOp) (st : BitVec 64) : State :=
  if o.async then s.sendCont (o.ctx + o.gen * 65536) o.tag st
  else
    let x := s.cx o.ctx
    if !o.orphan && x.auth && x.gen == o.gen && x.st == .stalled then
      let g := if o.rd = 0 then x.g else x.g.put 0#64 o.rd st
      (s.bump .ENG_CNT_INSN).setCx o.ctx { x with st := .running, auth := false, pc := x.pc + 4, cycle := x.cycle + 1, g := g }
    else s

/-- An operation leaves the engine with a status of its code, cause and result. -/
def State.authEnd (s : State) (o : AuthOp) (code cause n : Nat) : State :=
  ({ s with aut := { s.aut with ops := s.aut.ops.filter fun x => x.seat.arr != o.seat.arr } }).authAnswer o (statusWord code cause n)

/-- An engine operation starts in lane `n` (R417, R418): it is bound to the slot as it is now, and a signing takes its
invocation value. Where the slot no longer passes its checks, the operation ends with that status and uses no lane. -/
def State.startOp (s : State) (o : AuthOp) (n : Nat) : State :=
  match s.slotCheck o.slot o.code o.key.tagLen o.len with
  | .inr e => (s.bump .AUT_CNT_REFUSED).authEnd o e.code 0 0
  | .inl k =>
    let (inv, s) := if o.code = 1 then s.takeInv o.slot k else (0, s)
    { s with aut := { s.aut with ops := s.aut.ops.map fun x =>
        if x.seat.arr = o.seat.arr then { x with key := k, inv := inv, seat := { x.seat with lane := some n } } else x } }

/-- The checks of an inline verification (R422, Table 15.2): the slot's content, or the status of the one that fails. -/
def State.inlineSlot (s : State) (p : Packet) (slot : Nat) : KeySlot ⊕ Ev :=
  let (o, n, ext) := securedParts p.bytes
  let owner := (List.range 4).find? fun h => s.holdsPort h p.src
  match s.authCheck owner slot 2 (((s.slot slot).map (·.tagLen)).getD 0) n with
  | .inr e => .inr e
  | .inl k => if ext < k.trailer || p.bytes.length < o + n + ext then .inr .AUT_E_LENGTH else .inl k

/-- An inline verification starts in lane `n`, or has failed a check and uses no lane. -/
def State.startInline (s : State) (p : Packet) (v : Verify) (n : Nat) : State :=
  match s.inlineSlot p v.slot with
  | .inr e => s.setPkt { p with verify := some { v with fail := some e.code } }
  | .inl k => s.setPkt { p with verify := some { v with bound := some k, seat := { v.seat with lane := some n } } }

/-- Lane `n` takes work `w`: what is parked there resumes, what waits starts. -/
def State.giveLane (s : State) (n : Nat) (w : LaneWork) : State :=
  if w.seat.lane.isSome then s.setSeat w.seat.arr fun x => { x with parked := false }
  else match s.aut.ops.find? fun o => o.seat.arr == w.seat.arr with
    | some o => s.startOp o n
    | none =>
      match s.pkts.find? fun p => (p.verify.map fun v => v.seat.arr == w.seat.arr).getD false with
      | some p =>
        match p.verify with
        | some v => s.startInline p v n
        | none => s
      | none => s

/-- A free lane and the work it takes next. -/
def State.nextLane (s : State) : Option (Nat × LaneWork) :=
  let l := s.laneWork
  (List.range 12).findSome? fun n => if (runsIn l n).isSome then none else (mostUrgent (mayTake l n)).map fun w => (n, w)

/-- Every free lane takes the most urgent work that waits for it, one start after another. -/
def State.fillFrom : Nat → State → State
  | 0, s => s
  | f + 1, s =>
    match s.nextLane with
    | none => s
    | some (n, w) => State.fillFrom f (s.giveLane n w)

/-- Free lanes are filled (R413). -/
def State.fillLanes (s : State) : State := State.fillFrom s.laneWork.length s

/-- The work of lane `n` yields at a segment boundary (R413): more urgent work waits, message bytes of further segments are
left, and the lane parks nothing of its level yet. -/
def State.yields (s : State) (w : LaneWork) (n : Nat) : Bool :=
  let l := s.laneWork
  2048 < w.seat.left && (mayTake l n).any (·.before w) &&
    !l.any fun x => x.seat.lane == some n && x.seat.parked && x.level == w.level

end Sys2Proof.Machine
end

