-- ==== Sys2Proof/Machine/ParseOps.lean ====
section
/-! DEFINITION. The parse sequencer's parts (spec/06): the control store and its code, microword fields, BER decoding,
extractors, conditions and the payload pattern scan of spec/07 R174. -/

namespace Sys2Proof.Machine

open Sys2Proof

/-- Code positions 1 to 184 that are no power of two, in rising order: the place of each data bit (R134). -/
def hamPos : List Nat := (List.range' 1 184).filter fun n => !([1, 2, 4, 8, 16, 32, 64, 128].contains n)

/-- Check bits of the 176 data bits of a word (R134). -/
def hamCheck (d : Nat) : Nat :=
  ((List.range 176).zip hamPos).foldl (fun a e => if bitOf d e.1 then Nat.xor a e.2 else a) 0

/-- Syndrome of a stored word: 0, or the position of a single erroneous bit (R134). -/
def hamSyn (w : BitVec 184) : Nat :=
  Nat.xor (hamCheck (w.toNat % 2 ^ 176)) (w.toNat / 2 ^ 176)

/-- Stored bit at a code position. -/
def hamBit (pos : Nat) : Nat :=
  match hamPos.findIdx? (· == pos) with
  | some i => i
  | none => 176 + (([1, 2, 4, 8, 16, 32, 64, 128].findIdx? (· == pos)).getD 0)

/-- What a fetch of a stored word gives: the word to execute, the stored bit in error if one is, or uncorrectable. -/
def hamFix (w : BitVec 184) : Option (Nat × Bool) :=
  let syn := hamSyn w
  if syn = 0 then some (w.toNat % 2 ^ 176, false)
  else if 184 < syn then none
  else some ((w ^^^ (1#184 <<< hamBit syn)).toNat % 2 ^ 176, true)

/-! ### BER (R146, R147) -/

/-- Outcome of decoding one TLV: it needs bytes not yet received up to an offset, it fails, or tag, constructed, length
and value offset. -/
inductive Ber where
  | need (n : Nat)
  | bad
  | tlv (tag : Nat) (constr : Bool) (len off : Nat)
  deriving DecidableEq, Repr

/-- Decode the TLV at `c` with enclosing end `e`. -/
def berTlv (l : List Byte) (whole : Bool) (c e : Nat) : Ber :=
  let miss (i : Nat) : Bool := !whole && l.length ≤ i
  let at0 (i : Nat) : Nat := beAt l i 1
  if e ≤ c then .bad
  else if miss c then .need (c + 1)
  else
    let b0 := at0 c
    let high := b0 % 32 = 31
    let o := if high then c + 2 else c + 1
    if e ≤ o then .bad
    else if miss o then .need (o + 1)
    else
      let b1 := at0 (c + 1)
      if high && (128 ≤ b1 || b1 < 31) then .bad
      else
        let tag := if high then b0 * 256 + b1 else b0
        let n := at0 o
        let k := n - 128
        if n = 128 || 0x84 < n then .bad
        else if n < 128 then (if e < o + 1 + n then .bad else .tlv tag (bitOf b0 5) n (o + 1))
        else if e < o + 1 + k then .bad
        else if miss (o + k) then .need (o + k + 1)
        else
          let len := beAt l (o + 1) k
          if e < o + 1 + k + len then .bad else .tlv tag (bitOf b0 5) len (o + 1 + k)

/-- Siblings examined by a FIND from `c`: their number, and the TLV found, the end reached, a failure or bytes needed. -/
inductive Found where
  | hit (clocks : Nat) (cur tag : Nat) (constr : Bool) (len off : Nat)
  | atEnd (clocks tag : Nat) (constr : Bool) (len off : Nat)
  | fail (clocks : Nat)
  | need (n : Nat)
  deriving DecidableEq, Repr

/-- FIND examines one sibling per clock until `want` or the enclosing end (Table 06.8); `fuel` bounds the siblings. -/
def berFind (l : List Byte) (whole : Bool) (want e : Nat) : Nat → Nat → Nat → Found
  | 0, _, n => .fail n
  | fuel + 1, c, n =>
    match berTlv l whole c e with
    | .need k => .need k
    | .bad => .fail (n + 1)
    | .tlv tag constr len off =>
      if tag = want then .hit (n + 1) c tag constr len off
      else if e ≤ off + len then .atEnd (n + 1) tag constr len off
      else berFind l whole want e fuel (off + len) (n + 1)

/-! ### Pattern scan (spec/07 R174) -/

/-- A byte compared without regard to case. -/
def foldCase (b : Byte) : Byte := if 0x41 ≤ b.toNat && b.toNat ≤ 0x5A then b + 0x20#8 else b

/-- Pattern `p` matches the payload `l` at some start offset of its window. -/
def Pat.matches (p : Pat) (l : List Byte) : Bool :=
  let n := p.bytes.length
  (List.range' p.minOff (p.maxOff + 1 - p.minOff)).any fun o =>
    o + n ≤ l.length &&
      (((l.drop o).take n).zip p.bytes).all fun e => if p.caseless then foldCase e.1 == foldCase e.2 else e.1 == e.2

/-- Indices of the patterns that match the scanned bytes: up to 1,024 from the start or the frame end (R149). -/
def scanHits (pats : List Pat) (l : List Byte) (start : Nat) : List (Nat × Pat) :=
  let pay := (l.drop start).take 1024
  ((List.range pats.length).zip pats).filter fun e => e.2.matches pay

/-! ### The word (R133, Table 06.2) -/

/-- The enclosing end of the cursor; of a frame still arriving, an end past every frame. -/
def Packet.encEnd (k : Packet) : Nat :=
  match k.parse.stack with
  | e :: _ => e
  | [] => if k.whole then k.bytes.length else 16384

/-- Internal values of Table 06.5. -/
def Packet.internal (k : Packet) (n : Nat) : Nat :=
  match n with
  | 0 => k.parse.win
  | 1 => k.parse.valOff
  | 2 => k.parse.len
  | 3 => k.parse.tag
  | 4 => k.parse.cur
  | 5 => k.bytes.length
  | 6 => k.src
  | _ => 0

/-- An extractor's read (Table 06.4): offset field, length field; the value, its bit count and the OK flag, or the
number of frame bytes it still needs. -/
def Packet.extract (k : Packet) (off len : Nat) : Nat ⊕ (Nat × Nat × Bool) :=
  let bits := if len = 0 then 0 else if len = 32 then 256 else if bitOf len 5 then len % 32 * 8 else len
  let base := off / 4096
  if bits = 0 then .inr (0, 0, true)
  else if base = 3 then
    let n := off % 16
    if n = 5 && !k.whole then .inl (k.bytes.length + 1)
    else .inr (k.internal n % 65536 % 2 ^ bits, bits, n ≤ 6 && off % 4096 < 16)
  else
    let p0 := (if base = 0 then k.parse.win else if base = 1 then 0 else k.parse.valOff) * 8 + off % 4096
    let last := (p0 + bits + 7) / 8
    if !k.whole && k.bytes.length < last then .inl last
    else
      let n := last - p0 / 8
      let v := beAt k.bytes (p0 / 8) n
      .inr (v / 2 ^ (8 * n - p0 % 8 - bits) % 2 ^ bits, bits, last ≤ k.bytes.length)

/-- An extracted value written to a destination (Table 06.4). -/
def Parse.write (p : Parse) (dst bits v : Nat) : Parse :=
  if bits = 0 then p
  else if dst < 0x60 then
    let n := (bits + 7) / 8
    let bs := (beBytes n v).take (96 - dst)
    { p with rcd := p.rcd.take dst ++ bs ++ p.rcd.drop (dst + bs.length) }
  else if dst < 0x78 then
    let m := if dst < 0x68 then 1 else if dst < 0x70 then 4 else 8
    { p with s := p.s.set (dst % 8) (v * m % 65536) }
  else p

/-- A record field as a number. -/
def recAt (r : List Byte) (off n : Nat) : Nat := beAt r off n

/-- The byte range of a key-builder slot (Table 06.7). -/
def slotRange : Nat → Nat × Nat
  | 1 => (0, 16) | 2 => (12, 6) | 3 => (18, 34) | 4 => (0, 66) | 5 => (0, 96) | 6 => (66, 24) | _ => (0, 0)

/-- Seal slot `n`, unless it is sealed (R145). -/
def Parse.seal (p : Parse) (n : Nat) : Parse :=
  if (p.sealed.find n).isSome then p
  else { p with sealed := p.sealed.set n ((p.rcd.drop (slotRange n).1).take (slotRange n).2) }

/-- Seal the slots not yet sealed. -/
def Parse.sealAll (p : Parse) : Parse := (List.range' 1 6).foldl (fun p n => p.seal n) p

/-- A sealed copy; an unsealed slot reads the record. -/
def Parse.slot (p : Parse) (n : Nat) : List Byte :=
  (p.sealed.find n).getD ((p.rcd.drop (slotRange n).1).take (slotRange n).2)

/-- Flags of a word that executed: CEQ, CLT, CGT, EXA_OK, EXB_OK, BOK, BERR, BDONE, BFOUND. -/
def flagBits (l : List Bool) : Nat := l.foldr (fun b a => (if b then 1 else 0) + 2 * a) 0

/-- A condition of Table 06.3 after a word's actions; `wto` says that its wait ended by timeout, `hit` that the completed
scan matched. -/
def Packet.cond (k : Packet) (sel : Nat) (wto hit : Bool) : Bool :=
  let p := k.parse
  match sel with
  | 16 => bitOf p.flags 0
  | 17 => bitOf p.flags 1
  | 18 => bitOf p.flags 2
  | 19 => wto
  | 20 => k.whole || p.win + 64 ≤ k.bytes.length
  | 21 => k.whole && k.bytes.length ≤ p.win
  | 22 => bitOf p.flags 3
  | 23 => bitOf p.flags 4
  | 24 => bitOf p.flags 5
  | 25 => bitOf p.flags 6
  | 26 => bitOf p.flags 7
  | 27 => bitOf p.flags 8
  | 28 => p.constr
  | 29 => p.cur = k.encEnd
  | 30 => p.stack.isEmpty
  | 31 => p.scanDone
  | 32 => p.scanDone && hit
  | 33 => k.express
  | 34 => k.src < 48 && k.kind ≠ 4
  | 35 => 56 ≤ k.src && k.src < 60 && k.kind ≠ 4
  | 36 => k.src = 60 && k.kind ≠ 4
  | 37 => k.kind = 4
  | 38 => k.src = 63 && k.kind ≠ 4
  | 39 => k.redTag
  | 40 => k.pass = 2
  | 41 => k.detached
  | 42 => k.tcHint = 7
  | 43 => k.tcHint = 6
  | 44 => !k.whole
  | 53 => p.s.headD 0 = 0
  | 54 => (p.s.tail).headD 0 = 0
  | 55 => 0 < k.restarts
  | 56 => k.guarded
  | 57 => p.committed
  | 58 => (k.tag.map (·.1)).getD false
  | 59 => k.src % 2 = 1
  | 60 => true
  | 61 => p.dbg
  | 62 => k.pipe = 1
  | 63 => false
  | n => if n < 16 then bitOf p.opnd n else if 45 ≤ n && n ≤ 52 then bitOf p.uf (n - 45) else false

/-- The comparator operand (R143); none where it needs the frame end of a frame still arriving. -/
def Packet.operand (k : Packet) (src a b : Nat) : Option Nat :=
  match src with
  | 0 => some 0
  | 1 => some (a % 65536)
  | 2 => some (b % 65536)
  | 3 => some k.parse.tag
  | 4 => some (k.parse.len % 65536)
  | 13 => some k.parse.win
  | 14 => if k.whole then some (min 65535 (k.bytes.length - k.parse.win)) else none
  | 15 => some (k.src + k.kind * 256)
  | n => some ((k.parse.s.drop (n - 5)).headD 0)

/-- What the BER operation of a word does (Table 06.8): the parse after it, the clocks it takes, whether it succeeded,
whether FIND matched, and the value an INT or UINT writes. -/
inductive BerRes where
  | need (n : Nat)
  | done (p : Parse) (clocks : Nat) (ok found : Bool) (v : Option Nat)

/-- The parse after a decoding failure (R147). -/
def Parse.berFail (p : Parse) : Parse := { p with tag := 0, len := 0 }

/-- The parse that has decoded a TLV. -/
def Parse.took (p : Parse) (tag : Nat) (constr : Bool) (len off : Nat) : Parse :=
  { p with tag := tag, constr := constr, len := len, valOff := off }

/-- The BER operation `op` of a word with comparator constant `want` and `n` bytes for INT and UINT. -/
def Packet.ber (k : Packet) (op want n : Nat) : BerRes :=
  let p := k.parse
  let e := k.encEnd
  let tlv (f : Nat → Bool → Nat → Nat → BerRes) : BerRes :=
    match berTlv k.bytes k.whole p.cur e with
    | .need m => .need m
    | .bad => .done p.berFail 1 false false none
    | .tlv tag c len off => f tag c len off
  match op with
  | 0 => .done p 0 true false none
  | 1 => .done { p with cur := p.win, stack := [] } 1 true false none
  | 2 => tlv fun t c len off => .done (p.took t c len off) 1 true false none
  | 3 => tlv fun t c len off => .done { p.took t c len off with cur := off + len } 1 true false none
  | 4 => tlv fun t c len off =>
      if !c || 8 ≤ p.stack.length then .done p.berFail 1 false false none
      else .done { p.took t c len off with cur := off, stack := (off + len) :: p.stack } 1 true false none
  | 5 =>
    match berFind k.bytes k.whole want e 4800 p.cur 0 with
    | .need m => .need m
    | .fail c => .done p.berFail c false false none
    | .atEnd c t cn len off => .done { p.took t cn len off with cur := e } c true false none
    | .hit c cur t cn len off => .done { p.took t cn len off with cur := cur } c true true none
  | 6 => match p.stack with
    | top :: t => .done { p with cur := top, stack := t } 1 true false none
    | [] => .done p.berFail 1 false false none
  | 9 => .done { p with win := min 16383 p.cur } 1 true false none
  | 7 | 8 => tlv fun t c len off =>
      if !k.whole && k.bytes.length < off + len then .need (off + len) else
      let v := beAt k.bytes off len
      let iv := signed (8 * len) v
      let fits := if op = 8 then v < 2 ^ (8 * n)
        else len = 0 || (-(2 ^ (8 * n - 1) : Nat) ≤ iv && iv < ((2 ^ (8 * n - 1) : Nat) : Int))
      if 8 < len || n = 0 || 8 < n || !fits then .done p.berFail 1 false false none
      else
        let out := if op = 7 && len ≠ 0 then unsignedOf (8 * n) iv else v
        .done { p.took t c len off with cur := off + len } 1 true false (some out)
  | _ => .done p.berFail 1 false false none

end Sys2Proof.Machine
end

