-- ==== Sys2Proof/Machine/TblOps.lean ====
section
/-! DEFINITION. The hashed tables (spec/08 R196-R198, R214-R219, spec/09 R237, R238): candidate buckets, slots, the
breadth-first search of an insertion, relocations, and the indexed tables. -/

namespace Sys2Proof.Machine

open Sys2Proof

/-- Index bits of a half: L2 and flow. -/
def l2Bits : Nat := 15
def flBits : Nat := 22

/-- Signature and candidate buckets of a key; bucket = half * 2^w + index (Table 08.2). -/
def candOf (w : Nat) (seed : BitVec 128) (key : List Byte) : Nat × Nat × Nat :=
  let m := mixBytes seed key
  let sig := sigOf m
  let i := m.1.toNat % 2 ^ w
  (sig, i, 2 ^ w + (i.xor (altOffset seed sig w)))

/-- The other bucket of an entry (R197). -/
def altBucket (w : Nat) (seed : BitVec 128) (b sig : Nat) : Nat :=
  (1 - b / 2 ^ w) * 2 ^ w + (b % 2 ^ w).xor (altOffset seed sig w)

/-- Key bytes of an L2 entry (Table 08.2). -/
def l2Key (mac fid : Nat) : List Byte := beBytes 6 mac ++ beBytes 2 (fid % 4096)

/-! ### Seeds in use (R199, R225) -/

/-- A flow REHASH cursor is live. -/
def State.flowLive (s : State) : Bool := s.rb .TBL_REHASH_CUR_VALID

/-- Phases of flow slots with their seeds: the seed in use, and the new one of a live REHASH (R237). -/
def State.flowSeeds (s : State) : List (Bool × BitVec 128) :=
  let p := s.rb .TBL_SEED_PHASE
  (p, s.tbl.seedFlow) :: (if s.flowLive then [(!p, s.tbl.newFlow)] else [])

/-- The same for L2 entries: false the seed in use. -/
def State.l2Seeds (s : State) : List (Bool × BitVec 128) :=
  (false, s.tbl.seedL2) :: (if s.tbl.l2Live.isSome then [(true, s.tbl.newL2)] else [])

/-- Phase under which a table inserts (R225). -/
def lastSeed (l : List (Bool × BitVec 128)) : Bool × BitVec 128 := l.getLast?.getD (false, 0)

/-- Seed of a phase. -/
def seedOf (l : List (Bool × BitVec 128)) (ph : Bool) : BitVec 128 := ((l.find? fun e => e.1 == ph).map (·.2)).getD 0

/-! ### Flow buckets (R194, R237) -/

/-- Address of a flow bucket: half h in pseudo-channels 16h to 16h + 15, bucket i in 16h + i[3:0]. -/
def bucketAddr (b : Nat) : Nat :=
  let i := b % 2 ^ flBits
  bucketBase + i / 16 * 2048 + (b / 2 ^ flBits * 16 + i % 16) * 64

/-- A slot word and its fields (Table 09.1). -/
def slotOf (w i0 : Nat) : Option FSlot :=
  if w / 2 ^ 32 = 0 then none else some { sig := w / 2 ^ 32, phase := bitOf w 31, rcd := w % 2 ^ 26, i0 := i0 }

def FSlot.word (f : FSlot) : Nat := f.sig * 2 ^ 32 + (if f.phase then 2 ^ 31 else 0) + f.rcd

/-- The slots of a flow bucket as they stand; none where a word is uncorrectable (Table 16.4). -/
def State.peekBucket (s : State) (b : Nat) : Option (List (Option FSlot)) :=
  let a := bucketAddr b
  if (s.marksIn (a / 8) 8).any (·.2) then none
  else some ((List.range 8).map fun k => slotOf (s.hbmNat (a + 8 * k) 8) (b % 2 ^ flBits))

/-- A read of a flow bucket by a reader of Table 16.4. -/
def State.readBucket (s : State) (b reader : Nat) : Option (List (Option FSlot)) × State :=
  ((s.peekBucket b), (s.hbmRead (bucketAddr b) 64 reader).2)

/-- A flow slot written; 0 empties it. -/
def State.putSlot (s : State) (b k : Nat) (f : Option FSlot) : State :=
  s.hbmPut (bucketAddr b + 8 * k) (leBytes 8 ((f.map FSlot.word).getD 0))

/-! ### Insertion paths (R214) -/

/-- What an insertion sees of a table: slots of a bucket, none where unreadable; an occupant by signature and phase. -/
structure Cuckoo where
  w    : Nat
  seed : BitVec 128
  ph   : Bool
  view : Nat → Option (List (Option (Nat × Bool)))

/-- First free slot of a bucket. -/
def Cuckoo.free (c : Cuckoo) (b : Nat) : Option Nat :=
  ((c.view b).getD []).findIdx? fun x => x.isNone

/-- A bucket reached, with the hops that lead to it, the last first. -/
abbrev Reach := Nat × List (Nat × Nat)

/-- A reached bucket put in ascending order; one already listed stays. -/
def reachIns (x : Reach) : List Reach → List Reach
  | [] => [x]
  | y :: t => if x.1 < y.1 then x :: y :: t else if x.1 = y.1 then y :: t else y :: reachIns x t

/-- The buckets one relocation further: the alternates of the occupants that may move, in ascending order (R214). -/
def Cuckoo.further (c : Cuckoo) (seen : List Nat) (l : List Reach) : List Reach :=
  (l.flatMap fun r =>
      let v := (c.view r.1).getD []
      ((List.range v.length).zip v).filterMap fun e =>
        match e.2 with
        | some (sig, p) => if p == c.ph then some (altBucket c.w c.seed r.1 sig, (r.1, e.1) :: r.2) else none
        | none => none).foldl
    (fun acc x => if seen.contains x.1 then acc else reachIns x acc) []

/-- The search, level by level, at most `n` relocations and 256 buckets read: the hops and the free slot, and the buckets read. -/
def Cuckoo.search (c : Cuckoo) : Nat → List Nat → List Reach → Option (List (Nat × Nat) × Nat × Nat) × List Nat
  | 0, seen, _ => (none, seen)
  | n + 1, seen, l =>
    let nx := (c.further seen l).take (258 - seen.length)
    match nx.find? fun r => (c.free r.1).isSome with
    | some r => (some (r.2, r.1, (c.free r.1).getD 0), seen ++ (nx.map (·.1)).takeWhile fun b => b ≤ r.1)
    | none => if nx.isEmpty then (none, seen) else c.search n (seen ++ nx.map (·.1)) nx

/-- The moves of a path, from its end back toward the candidate. -/
def movesOf (l2 : Bool) : List (Nat × Nat) → Nat × Nat → List Move
  | [], _ => []
  | h :: t, d => { l2 := l2, srcB := h.1, srcS := h.2, dstB := d.1, dstS := d.2, copied := false, mig := none } :: movesOf l2 t h

/-- The plan of an insertion into candidates `b0` and `b1`: relocations in order, then the slot of the new entry; and the
buckets read. -/
def Cuckoo.plan (c : Cuckoo) (l2 : Bool) (b0 b1 : Nat) : Option (List Move × Nat × Nat) × List Nat :=
  match c.free b0, c.free b1 with
  | some k, _ => (some ([], b0, k), [b0, b1])
  | none, some k => (some ([], b1, k), [b0, b1])
  | none, none =>
    match c.search 8 [b0, b1] [(b0, []), (b1, [])] with
    | (some (hops, b, k), seen) =>
      let last := hops.getLast?.getD (b, k)
      (some (movesOf l2 hops (b, k), last.1, last.2), seen)
    | (none, seen) => (none, seen)

/-- The L2 table as an insertion sees it. -/
def State.l2Cuckoo (s : State) : Cuckoo :=
  let sd := lastSeed s.l2Seeds
  { w := l2Bits, seed := sd.2, ph := sd.1,
    view := fun b => some ((List.range 4).map fun k => (s.tbl.l2.find (b * 4 + k)).map fun e =>
      ((candOf l2Bits (seedOf s.l2Seeds e.fresh) (l2Key e.mac e.fid)).1, e.fresh)) }

/-- The flow table as an insertion sees it. -/
def State.flowCuckoo (s : State) : Cuckoo :=
  let sd := lastSeed s.flowSeeds
  { w := flBits, seed := sd.2, ph := sd.1,
    view := fun b => (s.peekBucket b).map fun l => l.map fun x => x.map fun f => (f.sig, f.phase) }

/-! ### Relocations (R215, R217) -/

/-- The bucket that stands for the stash in a move. -/
def stashBucket : Nat := 2 ^ 28

/-- A flow slot of a move set or cleared, in a bucket or in the stash. -/
def State.moveSlot (s : State) (b k : Nat) (f : Option FSlot) : State :=
  if b < stashBucket then s.putSlot b k f
  else { s with tbl := { s.tbl with stash := match f with
    | some f => s.tbl.stash.set k f
    | none => s.tbl.stash.erase k } }

/-- The flow slot a move takes: as it stands, or as a REHASH re-places it under the new seed (R215, R225). -/
def State.movedSlot (s : State) (m : Move) : Option FSlot :=
  let f := if m.srcB < stashBucket then slotOf (s.hbmNat (bucketAddr m.srcB + 8 * m.srcS) 8) (m.srcB % 2 ^ flBits)
    else s.tbl.stash.find m.srcS
  match m.mig with
  | none => f
  | some (sig, i0) => f.map fun f => { sig := sig, phase := (lastSeed s.flowSeeds).1, rcd := f.rcd, i0 := i0 }

/-- The copy of a move. -/
def State.moveCopy (s : State) (m : Move) : State :=
  if m.l2 then match s.tbl.l2.find (m.srcB * 4 + m.srcS) with
    | some e => { s with tbl := { s.tbl with l2 := s.tbl.l2.set (m.dstB * 4 + m.dstS) { e with fresh := e.fresh || m.mig.isSome } } }
    | none => s
  else s.moveSlot m.dstB m.dstS (s.movedSlot m)

/-- The removal of a move. -/
def State.moveClear (s : State) (m : Move) : State :=
  if m.l2 then { s with tbl := { s.tbl with l2 := s.tbl.l2.erase (m.srcB * 4 + m.srcS) } }
  else s.moveSlot m.srcB m.srcS none

/-- Moves, each copy-then-remove. -/
def State.runMoves (s : State) (l : List Move) : State := l.foldl (fun s m => (s.moveCopy m).moveClear m) s

/-- Moves abandoned after `n` writes: the move in hand stays in the journal (R217). -/
def State.stopMoves (s : State) (l : List Move) (n : Nat) : State :=
  let s := s.runMoves (l.take (n / 2))
  match l.drop (n / 2) with
  | [] => s
  | m :: _ =>
    let s := if n % 2 = 1 then s.moveCopy m else s
    { s with tbl := { s.tbl with journal := [{ m with copied := n % 2 == 1 }] } }

/-- The journal is settled (R217): a written copy is completed by its removal, any other move is dropped. -/
def State.settleJournal (s : State) : State :=
  let s := s.tbl.journal.foldl (fun s m => if m.copied then s.moveClear m else s) s
  let s := if s.tbl.jReset then s.raise .TBL_I_JOURNAL_SETTLED s.tbl.journal.length else s
  { s with tbl := { s.tbl with journal := [], jReset := false } }

/-- The next generation (R219). -/
def State.takeGen (s : State) : Nat × State :=
  (s.tbl.gen.toNat, { s with tbl := { s.tbl with gen := s.tbl.gen + 1#32 } })

/-! ### Failures and stress (R214, R224) -/

/-- TBL_W_HASH_STRESS, at most once per 100 ms. -/
def State.stress (s : State) (tgt : Nat) : State := s.raiseLimited .TBL_W_HASH_STRESS 0 100000000 tgt

/-- The stash holds more than 48 entries (R224). -/
def State.checkStash (s : State) : State := if 48 < s.tbl.stash.length then s.stress 6 else s

/-- An insertion with no path is counted, and the failures of the running 1 ms window are compared (R224). -/
def State.insFail (s : State) (l2 : Bool) : State :=
  let s := s.bump .TBL_CNT_INS_FAIL
  let t := s.tbl
  let t := if t.failAt + ms1 ≤ s.freeNs then { t with failAt := s.freeNs, failL2 := 0, failFlow := 0 } else t
  let t := if l2 then { t with failL2 := t.failL2 + 1 } else { t with failFlow := t.failFlow + 1 }
  let s := { s with tbl := t }
  let n := if l2 then t.failL2 else t.failFlow
  if s.rn .TBL_STRESS_FAILS ≠ 0 && s.rn .TBL_STRESS_FAILS < n then s.stress (if l2 then 1 else 6) else s

/-! ### L2 -/

/-- Slots of the candidate buckets of an address, in search order: half 0, then half 1, of each seed (R215, R225); in the
copies of a mask. -/
def State.l2Find (s : State) (mac fid : Nat) (copies : Nat := 3) : Option (Nat × L2Ent) :=
  let locs := s.l2Seeds.flatMap fun sd =>
    let c := candOf l2Bits sd.2 (l2Key mac fid)
    ([c.2.1, c.2.2].flatMap fun b => (List.range 4).map fun k => (b * 4 + k, sd.1))
  locs.findSome? fun l => match s.tbl.l2.find l.1 with
    | some e => if e.mac == mac && e.fid == fid && e.fresh == l.2 && e.copies.land copies != 0 then some (l.1, e) else none
    | none => none

/-- An entry set in both copies. -/
def State.setL2 (s : State) (loc : Nat) (e : L2Ent) : State := { s with tbl := { s.tbl with l2 := s.tbl.l2.set loc e } }
def State.dropL2 (s : State) (loc : Nat) : State := { s with tbl := { s.tbl with l2 := s.tbl.l2.erase loc } }

/-- The plan of an L2 insertion. -/
def State.l2Plan (s : State) (mac fid : Nat) : Option (List Move × Nat × Nat) :=
  let c := candOf l2Bits (lastSeed s.l2Seeds).2 (l2Key mac fid)
  (s.l2Cuckoo.plan true c.2.1 c.2.2).1

/-- An absent address is inserted, or counted as a failure; its location and generation (R214, R219). -/
def State.l2Insert (s : State) (e : L2Ent) : Option (Nat × Nat) × State :=
  match s.l2Plan e.mac e.fid with
  | some (ms, b, k) =>
    let (g, s) := (s.runMoves ms).takeGen
    (some (b * 4 + k, g), s.setL2 (b * 4 + k) { e with gen := g, fresh := (lastSeed s.l2Seeds).1, copies := 3 })
  | none => (none, s.insFail true)

/-- Age of a stamp (R221). -/
def State.ageOf (s : State) (stamp : Nat) : Nat := (s.rn .TBL_AGE_NOW + 65536 - stamp % 65536) % 65536

/-- The younger stamp of the two copies. -/
def State.l2Stamp (s : State) (e : L2Ent) : Nat := if s.ageOf e.age0 ≤ s.ageOf e.age1 then e.age0 else e.age1

/-! ### Flow slots -/

/-- Location of a stash entry (R213). -/
def stashLoc (p : Nat) : Nat := 2 ^ 31 + p

/-- The slots that match a key (R237, R240), in search order; none where a bucket read is uncorrectable and `strict`. Stash
entries match on their half-0 bucket besides. -/
def State.flowMatch (s : State) (key : List Byte) (reader : Nat) (strict : Bool) : Option (List (Nat × FSlot)) × State :=
  let one (acc : Option (List (Nat × FSlot)) × State) (q : Bool × Nat × Nat) : Option (List (Nat × FSlot)) × State :=
    match acc.1 with
    | none => acc
    | some l =>
      match acc.2.readBucket q.2.2 reader with
      | (some v, s) =>
        (some (l ++ ((List.range 8).zip v).filterMap fun e => match e.2 with
          | some f => if f.sig == q.2.1 && f.phase == q.1 then some (q.2.2 * 8 + e.1, f) else none
          | none => none), s)
      | (none, s) => (if strict then none else some l, s)
  let cs := s.flowSeeds.map fun sd => (sd.1, candOf flBits sd.2 key)
  let qs := cs.flatMap fun c => [(c.1, c.2.1, c.2.2.1), (c.1, c.2.1, c.2.2.2)]
  let st := cs.flatMap fun c => s.tbl.stash.filterMap fun e =>
    if e.2.sig == c.2.1 && e.2.phase == c.1 && e.2.i0 == c.2.2.1 then some (stashLoc e.1, e.2) else none
  match qs.foldl one (some [], s) with
  | (some l, s) => (some (l ++ st), s)
  | (none, s) => (none, s)

/-- The stash entry of the lowest position that has `b` as a candidate moves into its free slot (R238). -/
def State.refill238 (s : State) (b k : Nat) : State :=
  match s.tbl.stash.find? fun e => e.2.i0 == b || altBucket flBits (seedOf s.flowSeeds e.2.phase) e.2.i0 e.2.sig == b with
  | some (p, f) => { s.putSlot b k (some f) with tbl := { s.tbl with stash := s.tbl.stash.erase p } }
  | none => s

/-- A flow slot is cleared by a deletion. -/
def State.clearLoc (s : State) (loc : Nat) : State :=
  if 2 ^ 31 ≤ loc then { s with tbl := { s.tbl with stash := s.tbl.stash.erase (loc - 2 ^ 31) } }
  else (s.putSlot (loc / 8) (loc % 8) none).refill238 (loc / 8) (loc % 8)

/-- The slot at a location. -/
def State.slotAt (s : State) (loc : Nat) : Option FSlot :=
  if 2 ^ 31 ≤ loc then s.tbl.stash.find (loc - 2 ^ 31)
  else ((s.peekBucket (loc / 8)).bind fun l => (l[loc % 8]?).join)

/-- A slot with a new record. -/
def State.setLoc (s : State) (loc : Nat) (f : FSlot) : State :=
  if 2 ^ 31 ≤ loc then { s with tbl := { s.tbl with stash := s.tbl.stash.set (loc - 2 ^ 31) f } }
  else s.putSlot (loc / 8) (loc % 8) (some f)

/-- The plan of a flow insertion: every bucket it reads is read from HBM. -/
def State.flowPlan (s : State) (key : List Byte) : Option (List Move × Nat × Nat) × State :=
  let c := candOf flBits (lastSeed s.flowSeeds).2 key
  let p := s.flowCuckoo.plan false c.2.1 c.2.2
  (p.1, p.2.foldl (fun s b => (s.hbmRead (bucketAddr b) 64 2).2) s)

/-- The slot of a key for a record is placed (R214): in its bucket, or in the stash; none where both fail. -/
def State.flowPlace (s : State) (key : List Byte) (rcd : Nat) (plan : Option (List Move × Nat × Nat)) : Option Nat × State :=
  let sd := lastSeed s.flowSeeds
  let c := candOf flBits sd.2 key
  let f : FSlot := { sig := c.1, phase := sd.1, rcd := rcd, i0 := c.2.1 }
  match plan with
  | some (ms, b, k) => (some (b * 8 + k), (s.runMoves ms).putSlot b k (some f))
  | none =>
    let s := s.insFail false
    match (List.range 64).find? fun p => (s.tbl.stash.find p).isNone with
    | none => (none, s)
    | some p =>
      let s := { s with tbl := { s.tbl with stash := s.tbl.stash.set p f } }
      (some (stashLoc p), s.checkStash)

/-- A location in the encoding of R213. -/
def locCode (w slots loc : Nat) : Nat :=
  if 2 ^ 31 ≤ loc then loc
  else
    let b := loc / slots
    b / 2 ^ w * 2 ^ 26 + b % 2 ^ w * 16 + loc % slots

/-! ### Routes (R210) -/

/-- A prefix cut to its length, in `w` bits. -/
def cutPfx (w p len : Nat) : Nat := p / 2 ^ (w - len) * 2 ^ (w - len)

/-- The longest matching route of an address. -/
def longest (w addr : Nat) (m : SMap Route) : Option Route :=
  ((m.map (·.2)).filter fun r => cutPfx w addr r.len == r.pfx).foldl
    (fun best r => match best with
      | some b => if b.len < r.len then some r else best
      | none => some r) none

/-! ### Command windows (R211, R213) -/

/-- An idle window; windows of State. -/
def Win.none : Win := { cmd := Option.none, last := Option.none, tries := 0, prot := false, abort := false, walked := [] }
def State.win (s : State) (w : Nat) : Win := s.tbl.wins.get Win.none w
def State.setWin (s : State) (w : Nat) (x : Win) : State := { s with tbl := { s.tbl with wins := s.tbl.wins.put Win.none w x } }

/-- Outcomes of TBL_CMD_OUT. -/
def tblBusy : Nat := 1
def tblDone : Nat := 2
def tblLate : Nat := 3
def tblAborted : Nat := 4
def tblRefused : Nat := 5

/-- The cursor of a command in its window. -/
def State.setCur (s : State) (w pos : Nat) : State :=
  (s.setN .TBL_CMD_CUR_LO w (pos % 2 ^ 32)).setN .TBL_CMD_CUR_HI w (pos / 2 ^ 32)

/-- The outcome, count and code of a command that ends; an ABORTED one stays for a RESUME. -/
def State.tblOutcome (s : State) (w : Nat) (c : TCmd) (out err : Nat) : State :=
  (((s.setWin w { Win.none with last := if out = tblAborted then some c else none, walked := (s.win w).walked }).setN .TBL_CMD_OUT w out).setN .TBL_CMD_CNT w c.cnt).setN .TBL_CMD_ERR w err

/-- The cursor shown by a command of many steps, and that of a flow flush (R226). -/
def State.tblCursor (s : State) (w : Nat) (c : TCmd) (out : Nat) : State :=
  let s := if c.op = 2 || (5 ≤ c.op && c.op ≤ 8) then s.setCur w c.pos else s
  if c.op = 5 && c.tgt = 6 then
    (if out = tblAborted then ((s.setB .TBL_FLUSH_VALID 0 true).setN .TBL_FLUSH_PORT 0 c.arg).setN .TBL_FLUSH_POS 0 c.pos
     else s.setB .TBL_FLUSH_VALID 0 false)
  else s

/-- The next window has its turn; an ABORTED L2 REHASH keeps its live cursor. -/
def State.tblNextTurn (s : State) (w : Nat) (c : TCmd) (out : Nat) : State :=
  { s with tbl := { s.tbl with turn := (w + 1) % 5,
                               l2Live := if out = tblAborted && c.op = 8 && c.tgt = 1 then some (w, c.pos) else s.tbl.l2Live } }

/-- A command ends with an outcome (R213). -/
def State.tblEnd (s : State) (w : Nat) (c : TCmd) (out : Nat) (e : Option Ev) : State :=
  let s := ((s.tblOutcome w c out ((e.map Ev.code).getD 0)).tblCursor w c out).tblNextTurn w c out
  match e with
  | some e => s.raiseLimited e 0 ms1 w
  | none => s

end Sys2Proof.Machine
end

