-- ==== Sys2Proof/Machine/FlowOps.lean ====
section
/-! DEFINITION. Flow records, the flow cache and removal (spec/09 R235-R252). -/

namespace Sys2Proof.Machine

open Sys2Proof

/-- Little-endian field of a record or hot half, and its write. -/
def fget (l : List Byte) (o n : Nat) : Nat := leNat ((l.drop o).take n)
def fset (l : List Byte) (o n v : Nat) : List Byte := l.take o ++ leBytes n v ++ l.drop (o + n)

/-- Bits of FL_ACT (Table 09.3). -/
def flAct (hot : List Byte) (hi lo : Nat) : Nat := bitsOf (fget hot 20 4) hi lo

/-- FL_KIND. -/
def flKind (hot : List Byte) : Nat := fget hot 18 1 % 4

/-- A record with a field marked not valid in Table 09.3, or kind 3: treated as deny (R247). -/
def flValid (hot : List Byte) : Bool := flAct hot 31 29 ≤ 4 && flAct hot 18 16 ≤ 4 && flKind hot ≠ 3

/-! ### Keys (R235) -/

/-- Byte mask of a key profile. -/
def State.kprof (s : State) (j : Nat) : Nat := s.rn .FLW_KPROF (2 * j) + s.rn .FLW_KPROF (2 * j + 1) * 2 ^ 32

/-- The flow key of parse-record bytes under a profile. -/
def State.flowKey (s : State) (rcd : List Byte) (j : Nat) : List Byte :=
  let m := s.kprof j
  (((List.range 64).zip (rcd.take 64 ++ List.replicate 64 0#8)).map fun e => if bitOf m e.1 then e.2 else 0#8) ++
    [BitVec.ofNat 8 j, 0#8]

/-- The packed key: the selected bytes in order, 48 bytes (R235, R239). -/
def State.packKey (s : State) (key : List Byte) : List Byte :=
  let m := s.kprof ((key.getD 64 0#8).toNat % 16)
  ((((List.range 64).zip key).filter fun e => bitOf m e.1).map (·.2) ++ List.replicate 48 0#8).take 48

/-- The flow key a record was made for. -/
def State.unpackKey (s : State) (rcd : List Byte) : List Byte :=
  let j := fget rcd 64 1 % 16
  let m := s.kprof j
  let sel := (List.range 64).filter fun b => bitOf m b
  ((List.range 64).map fun b => if bitOf m b then ((rcd.drop 80).getD (sel.findIdx (· == b)) 0#8) else 0#8) ++ [BitVec.ofNat 8 j, 0#8]

/-- A record's profile and key are those of a flow key (R240, R258). -/
def State.sameKey (s : State) (rcd key : List Byte) : Bool :=
  fget rcd 64 1 % 16 == (key.getD 64 0#8).toNat && (rcd.drop 80).take 48 == s.packKey key && s.unpackKey rcd == key

/-- The key digest (spec/09, flow cache). -/
def State.keyDigest (s : State) (key : List Byte) : BitVec 64 :=
  let m := mixBytes s.flw.digest key
  m.1 ^^^ m.2.rotateLeft 32

/-! ### Records (R239, R245) -/

/-- A record's hot half written to HBM. -/
def State.putHot (s : State) (r : Nat) (hot : List Byte) : State := s.hbmPut (128 * r) hot

/-- The hot half in force: cached, or in HBM. -/
def State.hotOf (s : State) (r : Nat) : List Byte :=
  match s.flw.cache.find r with
  | some h => h.bytes
  | none => s.hbmBytes (128 * r) 64

/-- The whole record in force. -/
def State.recordOf (s : State) (r : Nat) : List Byte := s.hotOf r ++ s.hbmBytes (128 * r + 64) 64

/-- The record is allocated. -/
def State.allocated (s : State) (r : Nat) : Bool := s.flw.alloc.get false r

/-- Records that may be given out (R245). -/
def State.recFree (s : State) : Nat := 2 ^ 26 - s.flw.alloc.length - s.flw.quar.length

/-- A free record is taken; the choice is the device's (R245 gives no order). -/
def State.takeRec (s : State) : Option Nat × State :=
  if s.recFree = 0 then (none, s) else
  let (f, s) := s.draw
  let n := s.flw.alloc.length + s.flw.quar.length + 1
  match ((List.range n).map fun i => (f.toNat + i) % 2 ^ 26).find? fun r => !s.allocated r && !s.flw.quar.get false r with
  | some r =>
    (some r, { s with flw := { s.flw with alloc := s.flw.alloc.put false r true } }.setN .FLW_REC_USED 0 (s.flw.alloc.length + 1))
  | none => (none, s)

/-- A record is freed; its index rests for 4 µs (R245). -/
def State.freeRec (s : State) (r : Nat) : State :=
  if !s.allocated r then s else
  { s with flw := { s.flw with alloc := s.flw.alloc.erase r, quar := s.flw.quar.put false r true,
                               goose := s.flw.goose.erase r, cache := s.flw.cache.erase r } }.setN .FLW_REC_USED 0 (s.flw.alloc.length - 1)

/-- The records of kind 2 follow a record's kind. -/
def State.noteKind (s : State) (r kind : Nat) : State :=
  { s with flw := { s.flw with goose := s.flw.goose.put false r (kind == 2) } }

/-- A changed hot half: into its cache entry where it has one, else into the record. -/
def State.setHot (s : State) (r : Nat) (hot : List Byte) : State :=
  match s.flw.cache.find r with
  | some h => { s with flw := { s.flw with cache := s.flw.cache.set r { h with bytes := hot, dirty := h.dirty || h.bytes != hot } } }
  | none => s.putHot r hot

/-- The cold half written. -/
def State.setCold (s : State) (r : Nat) (cold : List Byte) : State := s.hbmPut (128 * r + 64) cold

/-- The whole record written. -/
def State.setRecord (s : State) (r : Nat) (l : List Byte) : State := (s.setHot r (l.take 64)).setCold r ((l.drop 64).take 64)

/-- A cached hot half goes back to its record (R241). -/
def State.writeBack (s : State) (r : Nat) : State :=
  match s.flw.cache.find r with
  | some h => if h.dirty then
      { s.putHot r h.bytes with flw := { s.flw with cache := s.flw.cache.set r { h with dirty := false } } }
    else s
  | none => s

/-- A hot half enters the cache: 16 ways, the least recently used replaced, a changed one written back (R240, R241). -/
def State.cacheIn (s : State) (r : Nat) (digest : BitVec 64) (hot : List Byte) : State :=
  let inSet := s.flw.cache.filter fun e => e.1 % 32768 == r % 32768 && e.1 != r
  let s := if inSet.length < 16 then s else
    match inSet.foldl (fun (b : Option (Nat × Hot)) e => match b with
        | some x => if e.2.used < x.2.used then some e else b
        | none => some e) none with
    | some (o, _) => let t := s.writeBack o; { t with flw := { t.flw with cache := t.flw.cache.erase o } }
    | none => s
  { s with flw := { s.flw with cache := s.flw.cache.set r { digest := digest, bytes := hot, dirty := false, used := s.flw.uses },
                               uses := s.flw.uses + 1 } }

/-- A cache entry is used. -/
def State.cacheUse (s : State) (r : Nat) : State :=
  match s.flw.cache.find r with
  | some h => { s with flw := { s.flw with cache := s.flw.cache.set r { h with used := s.flw.uses }, uses := s.flw.uses + 1 } }
  | none => s

/-- A 100 µs window of the hit rate that has ended is reported (R241). DESIGN CHOICE (notes/assumptions/30.md): a window
begins with the first lookup it counts. -/
def State.hitRoll (s : State) : State :=
  let w := s.flw
  if s.freeNs < w.winAt + 100000 || w.winN = 0 then s else
    let pct := w.winHit * 100 / w.winN
    ({ s with flw := { w with winAt := s.freeNs, winN := 0, winHit := 0 } }.setN .FLW_HIT_PCT 0 pct).setN .FLW_HIT_PCT_MIN 0
      (min pct (s.rn .FLW_HIT_PCT_MIN))

/-- A lookup with a matching slot counts in the window of the hit rate (R241). -/
def State.noteHit (s : State) (hit : Bool) : State :=
  let s := s.hitRoll
  let s := if s.flw.winN = 0 then { s with flw := { s.flw with winAt := s.freeNs } } else s
  { s with flw := { s.flw with winN := s.flw.winN + 1, winHit := s.flw.winHit + (if hit then 1 else 0) } }

/-! ### Telemetry and removal (R251, R252) -/

/-- A telemetry export: a pool 0 buffer with the hot half and a token to FLW_TEL_TMPL (R251, Table 14.3). -/
def State.telExport (s : State) (r : Nat) (hot : List Byte) (removal : Bool) (owner : Nat) : State :=
  if flAct hot 15 15 = 0 || !s.rb .FLW_TEL_EN then s else
  let dropped (s : State) : State := (s.bump .FLW_CNT_TEL_DROP).raiseLimited .FLW_W_TEL_DROP 0 ms1 r
  match s.request false (some 64) owner hot none with
  | (s, none) => dropped s
  | (s, some h) =>
    let t : Token := { tmpl := s.rn .FLW_TEL_TMPL, pos := 0, tag := r, isBuf := true, pin := 31, grat := none,
                       value := h + r * 2 ^ 20 + (if removal then 2 ^ 46 else 0) }
    match s.sendTok t with
    | (none, s) => s
    | (some _, s) => dropped (s.freeBuf h owner).1

/-- A record is removed after its slot was cleared (R252). -/
def State.removeRec (s : State) (r : Nat) : State :=
  let s := s.writeBack r
  let hot := s.hotOf r
  let s := { s with flw := { s.flw with cache := s.flw.cache.erase r } }
  let s := s.telExport r hot true (ownPipe 0)
  let hot := fset hot 18 1 (fget hot 18 1 % 128)
  (s.putHot r hot).freeRec r

/-- Every record becomes free and every bucket empty (R200, R246). -/
def State.clearFlows (s : State) : State :=
  let inB (a : Nat) : Bool := bucketBase ≤ a && a < stageBase
  let h := s.hbm
  let h := if h.filled then { h with bytes := h.bytes.filter fun e => !inB e.1 } else h
  let h := { h with marks := h.marks.filter fun e => !inB (8 * e.1), check := h.check.filter fun e => !inB (8 * e.1) }
  { s with hbm := h, tbl := { s.tbl with stash := [] },
           flw := { s.flw with alloc := [], goose := [], cache := [],
                               quar := s.flw.alloc.foldl (fun (m : SMap Bool) (e : Nat × Bool) => m.put false e.1 true) s.flw.quar } }.setN .FLW_REC_USED 0 0

/-! ### Ports and load balancing (R248) -/

/-- A port's link is up: a line port, a host port by its host link, the steward always. -/
def State.portUp (s : State) (p : Nat) : Bool :=
  if p < 48 then s.rb .PRT_LINK_UP p else if 56 ≤ p && p < 60 then s.rb .HST_LINK_UP (p - 56) else p = 63

/-- Member `m` of group `g` in force. -/
def State.lbMember (s : State) (g m : Nat) : Nat := (s.flw.lbMemb.get 0#32 (g * 4 + m / 4)).toNat / 2 ^ (8 * (m % 4)) % 64

/-- The member port of a flow and its hot half; none where no member is usable (R248). -/
def State.balance (s : State) (hot key : List Byte) : Option Nat × List Byte :=
  let g := fget hot 24 2 % 1024
  let n := (s.flw.lbN.get 0#32 g).toNat
  let ep := s.rn .FLW_LB_EPOCH
  let m := fget hot 24 2 / 4096
  if fget hot 19 1 = ep && m < n && s.portUp (s.lbMember g m) then (some (s.lbMember g m), hot)
  else
    let h := (mixBytes s.tbl.seedLb key).1.toNat % 2 ^ 32
    let k0 := h * n / 2 ^ 32
    match ((List.range n).map fun i => (k0 + i) % n).find? fun k => s.portUp (s.lbMember g k) with
    | some k => (some (s.lbMember g k), fset (fset hot 24 2 (k * 4096 + fget hot 24 2 % 4096)) 19 1 ep)
    | none => (none, hot)

/-- The pin hash (R307). -/
def State.pinOf (s : State) (key : List Byte) : Nat := (mixBytes s.tbl.seedLb key).1.toNat / 2 ^ 32 % 65536

/-- The frame length is added to a hot half (R247, step 2). -/
def addLen (hot : List Byte) (len : Nat) : List Byte :=
  let hot := fset hot 8 8 (fget hot 8 8 + len)
  if flKind hot ≠ 0 then hot else
  let mn := fget hot 42 2
  fset (fset hot 42 2 (if mn = 0 then len else min mn len)) 44 2 (max (fget hot 44 2) len)

/-- The length of a frame that had not arrived in full when it was looked up joins its record, or the request that will
create it. -/
def State.lateLen (s : State) (key : List Byte) (len : Nat) : State :=
  match s.tbl.learn.findIdx? fun q => match q with
      | .flow k _ _ _ => k == key
      | _ => false with
  | some i => { s with tbl := { s.tbl with learn := s.tbl.learn.modify i fun q => match q with
      | .flow k r n a => .flow k (addLen (r.take 64) len ++ r.drop 64) n a
      | x => x } }
  | none =>
    match s.flowMatch key 1 false with
    | (some ((_, f) :: _), s) => if s.sameKey (s.recordOf f.rcd) key then s.setHot f.rcd (addLen (s.hotOf f.rcd) len) else s
    | (_, s) => s

end Sys2Proof.Machine
end

