-- ==== Sys2Proof/Machine/HstOps.lean ====
section
/-! DEFINITION. Host rings (spec/17 R459-R465): descriptors, completions and their interrupts, and the egress timestamps
that senders await (spec/04 R98, spec/13 R358). -/

namespace Sys2Proof.Machine

open Sys2Proof

/-- Host of a ring. -/
def ringHost (r : Nat) : Nat := r / 1024

/-- Address of the descriptor at index `i` of ring `r`. -/
def State.descAddr (s : State) (r i : Nat) : Nat :=
  (s.rn .HST_RG_BASE_L r * 64 + s.rn .HST_RG_BASE_H r * 2 ^ 32 + 32 * (i % 2 ^ s.rn .HST_RG_LOG2N r)) % 2 ^ 64

/-- Entries a ring holds (R459). -/
def State.ringHeld (s : State) (r : Nat) : Nat := (s.rn .HST_RG_PROD r + 65536 - s.rn .HST_RG_CONS r) % 65536

/-- Bytes written to memory of host `h`. -/
def State.hostWrite (s : State) (h a : Nat) (l : List Byte) : State :=
  let put (m : SMap Byte) (e : Nat × Byte) : SMap Byte := m.set (h * 2 ^ 64 + (a + e.1) % 2 ^ 64) e.2
  { s with hst := { s.hst with mem := ((List.range l.length).zip l).foldl put s.hst.mem } }

/-- A completion of a ring is written: its consumer index advances and its interrupt is moderated (R465). -/
def State.ringDone (s : State) (r : Nat) : State :=
  let s := s.setN .HST_RG_CONS r ((s.rn .HST_RG_CONS r + 1) % 65536)
  let n := s.hst.unsig.get 0 r + 1
  let cnt := s.rn .HST_RG_MOD_CNT r
  if cnt = 0 || s.rn .HST_RG_MOD_US r = 0 || cnt ≤ n then
    { s with hst := { s.hst with unsig := s.hst.unsig.put 0 r 0 } }.signal (ringHost r) (s.rn .HST_RG_VEC r)
  else { s with hst := { s.hst with unsig := s.hst.unsig.put 0 r n } }

/-- A frame finds no RX descriptor (R463). -/
def State.rxNone (s : State) (r : Nat) : State :=
  ((s.countF .HST_RG_DROPS r).bump .HST_CNT_RX_NODESC (ringHost r)).raiseLimited .HST_W_RX_NODESC (ringHost r) ms1 (ringHost r)

/-- An enabled RX ring of a host that is up, with a posted descriptor that no parked frame has taken. -/
def State.rxReady (s : State) (r : Nat) : Bool :=
  s.rb .HST_RG_EN r && s.rb .HST_RG_KIND r && s.rb .HST_LINK_UP (ringHost r) &&
    (s.hst.rxp.filter fun x => x.ring == r).length < s.ringHeld r

/-- A packet is parked with a host ring (R171, R463): a descriptor is taken, or the park is refused. RX_DELIVERY writes it. -/
def State.parkToRing (s : State) (r : Nat) (p : Packet) (h : Nat) : State × Bool :=
  if s.rxReady r then
    let x : RxP := { ring := r, handle := h, sec := p.tsSec, ns := p.tsNs, port := p.src, pipe := p.pipe,
                     ctx := bitsOf p.act.toNat 31 16, tc := p.tc }
    ({ s with hst := { s.hst with rxp := s.hst.rxp ++ [x] } }, true)
  else (s.rxNone r, false)

/-- A frame and its RX completion are written (R463, Table 17.4): address and length of the descriptor's buffer, the
frame, its timestamp, parked flag, port, handle word, context and class. -/
def State.rxWrite (s : State) (r addr buflen : Nat) (l : List Byte) (sec ns : Nat) (parked : Bool) (port hw ctx tc : Nat) : State :=
  let h := ringHost r
  let out := l.take buflen
  let cut := out.length < l.length
  let s := s.hostWrite h addr out
  let d := s.descAddr r (s.rn .HST_RG_CONS r)
  let rest := leBytes 4 hw ++ leBytes 2 ctx ++ leBytes 1 tc ++ List.replicate 13 0#8
  let s := s.hostWrite h (d + 12) rest
  let s := s.hostWrite h d (leBytes 4 ns ++ leBytes 4 (sec % 2 ^ 32) ++ leBytes 2 out.length ++
    leBytes 1 (1 + (if parked then 2 else 0) + (if cut then 4 else 0)) ++ leBytes 1 (port % 64))
  let s := if cut then s.bump .HST_CNT_RX_TRUNC h else s
  (s.bump .HST_CNT_RX_FRAMES h).ringDone r

/-- Index of the descriptor that ring `r` fetches next. -/
def State.fetchAt (s : State) (r : Nat) : Nat := s.hst.fetch.get 0 r

/-- The next descriptor of TX ring `r` has been acted on: fetching moves past it and its completion is owed. -/
def State.oweTx (s : State) (r status : Nat) (wait : Option (Nat × Nat)) : State :=
  let i := s.fetchAt r
  let c : TxC := { ring := r, idx := i, addr := s.descAddr r i, status := status, wait := wait, ts := none }
  { s with hst := { s.hst with txc := s.hst.txc ++ [c], fetch := s.hst.fetch.put 0 r ((i + 1) % 65536) } }

/-- Every suspended transfer on a page of host `h` that `f` selects ends with cause 10. -/
def State.endPages (s : State) (h : Nat) (f : Dma → Bool) : State :=
  (s.mmu.dmas.filter fun d => (d.st == .page || d.st == .pageWait) && d.port == h && f d).foldl (fun s d =>
    match s.dmaOf d.cl d.seq with
    | some d => s.dmaRefused d d.va
    | none => s) s

/-- The link of host `h` goes down (R478): the transfers that wait for a page of it end (Table 14.7). -/
def State.hostDown (s : State) (h : Nat) : State :=
  if s.rb .HST_LINK_UP h then ((s.setB .HST_LINK_UP h false).raise .HST_W_LINK_DOWN h).endPages h fun _ => true else s

/-- Grant number of a buffer in use. -/
def State.grantNo (s : State) (h : Nat) : Nat := ((s.buf h).map (·.order)).getD 0

/-- A sender awaits the egress timestamp of the packet in buffer `h`. -/
def State.awaitTs (s : State) (h : Nat) (ctx : Option (Nat × Nat)) (ring : Nat) : State :=
  { s with hst := { s.hst with ts := s.hst.ts ++ [{ buf := h, order := s.grantNo h, ctx := ctx, ring := ring }] } }

/-- A replica for a port 0 to 47 starts transmission at `now` of Meridian (2^-32 ns): the sender that awaits the packet's
egress timestamp has it (R98, R358, R462), and a state change's publication records it (R283). -/
def State.onStarted (s : State) (e : QEnt) (now : Nat) : State :=
  let sec := now / tickSec % 2 ^ 32
  let ns := now / tickNs % 1000000000
  let s := match e.pub with
    | some p => s.setN .SAU_PUB_TXTS p ns
    | none => s
  let mine (t : TsReq) : Bool := t.buf == e.buf && t.order == s.grantNo e.buf
  match s.hst.ts.find? mine with
  | none => s
  | some t =>
    let s := { s with hst := { s.hst with ts := s.hst.ts.filter fun x => !mine x } }
    match t.ctx with
    | some (a, tag) => s.sendCont a tag (BitVec.ofNat 64 (sec * 2 ^ 32 + ns))
    | none =>
      let put (c : TxC) : TxC := if c.wait == some (t.buf, t.order) then { c with wait := none, ts := some (sec, ns) } else c
      { s with hst := { s.hst with txc := s.hst.txc.map put } }

end Sys2Proof.Machine
end

