-- ==== Sys2Proof/Machine/PinOps.lean ====
section
/-! DEFINITION. Pinned memory (spec/14 R391): the pages of a template's pinned regions, their locking in the TLBs of its
clusters, and the end of a template's enable (R376). -/

namespace Sys2Proof.Machine

open Sys2Proof

/-- Same leaf, whether or not it is locked. -/
def TlbEnt.same (a b : TlbEnt) : Bool := a.asid == b.asid && a.big == b.big && a.page == b.page

/-- The leaf of each page of a region, `n` pages of 64 KiB from page `p`, collected after `acc`; none where one does not
translate to a device page that may be pinned. -/
def State.pinPages (s : State) (asid : Nat) : Nat → Nat → List TlbEnt → Option (List TlbEnt) × State
  | 0, _, acc => (some acc, s)
  | n + 1, p, acc =>
    if acc.any fun e => e.covers asid (p * 65536) then State.pinPages s asid n (p + 1) acc
    else match s.walk asid (p * 65536) with
      | (.inr _, s) => (none, s)
      | (.inl (pte, level), s) =>
        if bitOf pte 4 || !bitOf pte 3 then (none, s)
        else
          let e : TlbEnt := { asid := asid, big := level == 2, page := if level = 2 then p / 32 else p, pte := pte, locked := true }
          State.pinPages s asid n (p + 1) (acc ++ [e])

/-- The leaves of all pinned regions of a template. -/
def State.pinEnts (s : State) (t : Tmpl) : Option (List TlbEnt) × State :=
  t.pins.foldl (fun acc r => match acc with
    | (none, s) => (none, s)
    | (some l, s) => s.pinPages t.asid r.2 r.1 l) (some [], s)

/-- Locked entries of cluster `c` with those of a list added. -/
def State.lockedWith (s : State) (c : Nat) (l : List TlbEnt) : List TlbEnt :=
  let old := (s.tlbOf c).filter (·.locked)
  old ++ l.filter fun e => !old.any e.same

/-- The leaves locked in cluster `c`. -/
def State.lockIn (s : State) (c : Nat) (l : List TlbEnt) : State :=
  let rest := (s.tlbOf c).filter fun e => !e.locked && !l.any e.same
  s.setTlb c ((s.lockedWith c l ++ rest).take 512)

/-- Pinned regions of a template checked and locked in the TLBs of its set (R391); the flag says that they were. -/
def State.lockPins (s : State) (t : Tmpl) : Bool × State :=
  if t.pins.isEmpty then (true, s) else
  match s.pinEnts t with
  | (none, s) => (false, s)
  | (some l, s) =>
    let set := s.clusterSet t
    if set.all fun c => (s.lockedWith c l).length ≤ 64 then (true, set.foldl (fun s c => s.lockIn c l) s) else (false, s)

/-- An enabled template other than `t` pins the page of an entry in cluster `c`. -/
def State.pinnedElse (s : State) (t c : Nat) (e : TlbEnt) : Bool :=
  s.tsk.tmpls.any fun u => u.1 != t && s.rb .TSK_TT_EN u.1 && bitOf u.2.clmask c && u.2.asid == e.asid &&
    u.2.pins.any fun r => if e.big then r.1 < e.page * 32 + 32 && e.page * 32 < r.1 + r.2 else r.1 ≤ e.page && e.page < r.1 + r.2

/-- Entries of a template's pages are unlocked, but those that another enabled template pins. -/
def State.unlockPins (s : State) (t : Nat) : State :=
  (List.range 24).foldl (fun s c =>
    s.setTlb c ((s.tlbOf c).map fun e => { e with locked := e.locked && s.pinnedElse t c e })) s

/-- TSK_TT_EN written 0 (R376, R391): tokens are refused, entries discarded, pages unlocked. -/
def State.stopTmpl (s : State) (t : Nat) : State := (s.disableTmpl t).unlockPins t

end Sys2Proof.Machine
end

