-- ==== Sys2Proof/Machine/Hooks.lean ====
section
/-! DEFINITION. What a mode change, a reset or a retirement does inside the families. -/

namespace Sys2Proof.Machine

open Sys2Proof

/-- SET, STEP or a servo step of signed size `size` in 2^-32 ns: beyond SAU_STEP_TOL_NS, or where it ends UNSET, the grids
reset (R270). -/
def State.onStep (s : State) (size : Int) (ends : Bool) : State :=
  if ends || s.rn .SAU_STEP_TOL_NS * tickNs < size.natAbs then s.gridReset else s

/-! ### Power domains -/

/-- Registers and counters of a block are lost with its domain, but those the always-on domain keeps (R41). -/
def State.loseBlock (s : State) (b : Block) : State :=
  let gone := (b.fields.filter fun f => !f.info.kept).map Field.ctorIdx
  { s with regs := s.regs.filter fun e => !gone.contains (e.1 % 1024) }.clearBlockCtrs b

/-- The same for pipeline `p` of PAR. -/
def State.losePipe (s : State) (p : Nat) : State :=
  { s with regs := s.regs.filter fun e => !(Block.fieldsPAR.any fun f => !f.info.kept && f.ctorIdx == e.1 % 1024 && e.1 / 1024 / f.info.n2 == p)
           par := { s.par with cs := s.par.cs.filter (fun e => e.1 / 4096 != p), bad := s.par.bad.filter (fun e => e.1 / 4096 != p),
                               restartQ := s.par.restartQ.erase p }
           boot := { s.boot with parLoaded := s.boot.parLoaded &&& BitVec.ofNat 2 (2 - p) }
           tbl := { s.tbl with l2 := s.tbl.l2.filterMap fun e => (e.2.lose p).map fun x => (e.1, x) } }

/-- The memories of the six clusters of retention domain 76 + `r`. -/
def State.loseRetention (s : State) (r : Nat) : State :=
  { s with eng := { s.eng with
      imem := s.eng.imem.filter (fun e => e.1 / 786432 != r)
      dmem := s.eng.dmem.filter (fun e => e.1 / 6291456 != r)
      shm := s.eng.shm.filter (fun e => e.1 / 12582912 != r)
      bad := s.eng.bad.filter fun e => !(
        (e.1 < 2 ^ 24 && e.1 / 393216 == r) || (2 ^ 24 ≤ e.1 && e.1 < 2 ^ 25 && (e.1 - 2 ^ 24) / 786432 == r) ||
        (2 ^ 25 ≤ e.1 && (e.1 - 2 ^ 25) / 1572864 == r)) } }

/-- HBM content is lost (R80). -/
def State.loseHbm (s : State) : State :=
  { s.noRecords with hbm := { s.hbm with bytes := [], filled := false, save := none, gen := s.hbm.gen + 1, marks := [], check := [], wq := [] } }

/-- What goes with the power of domain `d` (Table 02.6, R77): contents not listed as kept, which come back zeroed. The HBM
stack of domain 64 is dealt with where it is switched off. Which registers go with a domain, and that the next-hop table goes with the tries, is the model's (DESIGN CHOICE,
notes/assumptions/8.md). -/
def State.domLost (s : State) (d : Nat) : State :=
  let r := State.reset
  if d < 24 then
    { s with eng := { s.eng with ctx := s.eng.ctx.filter fun e => e.1 / 64 != d },
             mmu := { s.mmu with tlb := s.mmu.tlb.put [] d ((s.mmu.tlb.get [] d).filter (·.locked)) } }
  else if 76 ≤ d then s.loseRetention (d - 76)
  else if 36 ≤ d && d ≤ 39 then s.hostDown (d - 36)
  else if 46 ≤ d && d ≤ 53 then { s with pkm := s.pkm.filter fun e => e.1 / 2 ^ 22 != d - 46 }
  else match d with
    | 40 => s.losePipe 0
    | 41 => s.losePipe 1
    | 42 => { s.loseBlock .CLS with cls := r.cls }
    | 43 => { s with tbl := { s.tbl with appid := [], v4 := [], v6 := [], nh := [] } }
    | 44 => { s.loseBlock .FLW with flw := { r.flw with alloc := s.flw.alloc, goose := s.flw.goose, digest := s.flw.digest } }
    | 45 => { s.loseBlock .SAU with sau := r.sau }
    | 54 => { s.loseBlock .SWC with swc := { r.swc with layout := s.swc.layout }, pkts := [] }
    | 55 => { s.loseBlock .TMG with tmg := { r.tmg with slot := s.tmg.slot } }
    | 56 => { s.loseBlock .TSK with tsk := r.tsk }
    | 57 => { s.loseBlock .MMU with mmu := { s.mmu with ring := [], inv := none } }
    | 58 => { s with aut := { s.aut with ops := s.aut.ops.filter fun o => !o.seat.onLanes 0 4 } }
    | 59 => { s with aut := { s.aut with ops := s.aut.ops.filter fun o => !o.seat.onLanes 4 4 } }
    | 60 => { s with aut := { s.aut with ops := s.aut.ops.filter fun o => !o.seat.onLanes 8 4 } }
    | 61 => { s.loseBlock .AUT with aut := { s.aut with slots := [], cmd := none } }
    | 62 => { s with hbm := s.hbm.controllerOff,
                     boot := { s.boot with hbmPass := false } }.setB .MEM_INIT_BUSY 0 false
    | 63 => s.setB .MEM_TRAINED 0 false
    | 65 => { s.setB .TIM_PPS_SEEN 0 false with tim := { s.tim with lostRaised := false } }
    | 66 | 67 | 68 | 69 => s.setReg .PWR_PLL_LOCK 0 (s.reg .PWR_PLL_LOCK &&& ~~~(1#32 <<< (d - 66)))
    | 70 => { s with boot := { s.boot with tmsLoaded := false },
                     tbl := { s.tbl with learn := [], wins := [], turn := 0, aged := false, expired := [], l2Live := none } }
    | 71 => { s.loseBlock .HST with hst := { r.hst with mem := s.hst.mem, msi := s.hst.msi } }
    | _ => s

/-- A domain takes a state; PWR_DOM_WAKES counts a change from off or gated to on. -/
def State.toDom (s : State) (d n : Nat) : State :=
  if n = dsOn then s.domOn d
  else
    let s := if (n = dsOff || n = dsPowerGated) && s.dom d != n then s.domLost d else s
    s.setDom d n

/-- Clusters that are to be powered without a task's demand ask for a wake interval (R43, R503); demands of clusters that
may not wake are dropped. -/
def State.queueWakes (s : State) (m : Mode) : State :=
  let old := s.pwr.waiting.filter (s.mayWake m)
  let new := (List.range 24).filter fun c => s.mayWake m c && s.wantsPower c && !old.contains c
  { s with pwr := { s.pwr with waiting := old ++ new } }

/-- A domain is switched on entry to a mode outside R503: what those modes lose as a whole their entry has dropped
(State.loseSwitched, State.dropUnsaved, State.lostOnChip). -/
def State.switchDom (s : State) (d n : Nat) : State :=
  if n = dsOn then s.domOn d
  else (if 65 ≤ d && d ≤ 69 then s.domLost d else s).setDom d n

/-- Every domain takes the state of mode `m` (R503); clusters before the retention domains that follow them. -/
def State.settleDomains (s : State) (m : Mode) : State :=
  ((List.range 80).foldl (fun s d => if domMode m then s.toDom d (s.domTarget m d) else s.switchDom d (s.domTarget m d)) s).queueWakes m

/-- The retention domain of cluster `c` follows a change of the cluster (R41, R503). -/
def State.settleRetention (s : State) (c : Nat) : State :=
  if domMode s.mod.mode then s.toDom (76 + c / 6) (s.domTarget s.mod.mode (76 + c / 6)) else s

/-- Domain `d` takes the state that its request and the mode give it, as after a write of PWR_DOM_REQ (R42, R503). -/
def State.settleDomain (s : State) (d : Nat) : State :=
  if domMode s.mod.mode || s.mod.mode == .test then
    let t := (s.toDom d (s.domTarget s.mod.mode d)).queueWakes s.mod.mode
    if d < 24 then t.settleRetention d
    else if d = 64 && s.dom 64 = dsOn && t.dom 64 != dsOn then t.loseHbm else t
  else s

/-- The end of the lease zeroes the key staging registers (R416). -/
def State.onLeaseEnd (s : State) : State := s.clearStaging

/-- Entries that `f` selects are discarded and counted (R405). -/
def State.discardEnts (s : State) (f : MEnt → Bool) : State :=
  let l := s.tsk.ents.filter fun e => f e.2
  l.foldl (fun s e => (s.loseEnt e.1 e.2).bump .TSK_CNT_DRAIN_DISC) s

/-- Live contexts that `f` selects are aborted (R400). -/
def State.abortWhere (s : State) (f : Ctx → Bool) : State :=
  (s.eng.ctx.filter fun e => e.2.live && f e.2).foldl (fun s e => s.abortTask e.1) s

/-- Entry to SAFE-HOLD: F-class and B-class entries are discarded and their contexts aborted (R56, R405). -/
def State.onSafeHold (s : State) : State :=
  (s.discardEnts fun e => 2 ≤ s.tmplCls e.tmpl).abortWhere fun x => 2 ≤ x.cls

/-- Entry to DRAIN: every entry is discarded, open slices and retransmission schedules go, and tasks that wait at AWAIT are
aborted there (R288, R405). -/
def State.onDrain (s : State) : State :=
  (s.discardEnts fun _ => true).sauDrain.abortWhere fun x => x.st == .awaiting && x.dmaw.isNone

/-- A 128-bit seed from the entropy source. -/
def State.drawSeed (s : State) : BitVec 128 × State :=
  let (a, s) := s.draw
  let (b, s) := s.draw
  (b ++ a, s)

/-- Entry to LOAD from BOOT or MONITOR draws the seeds, which freeze at the first table operation (R81, R199); while a flow
REHASH cursor is live the kept flow seed is not redrawn. With HBM content kept, the free list is rebuilt (R246). -/
def State.drawSeeds (s : State) : State :=
  let (a, s) := s.drawSeed
  let (b, s) := s.drawSeed
  let (c, s) := s.drawSeed
  let (d, s) := s.drawSeed
  let (e, s) := s.drawSeed
  let s := { s with
    tbl := { s.tbl with seedFlow := if s.rb .TBL_REHASH_CUR_VALID then s.tbl.keptFlow else a, seedL2 := b, seedLb := c }
    cls := { s.cls with fragSeed := d }
    flw := { s.flw with digest := e } }
  let s := s.setB .TBL_SEED_FROZEN 0 false
  if s.rb .MEM_INIT_FLAG then s.setB .FLW_REBUILD 0 true else s

/-- A packet is discarded wherever it stands: its bank's count, its buffer where the frame path or the slow path holds it. -/
def State.discardPkt (s : State) (p : Packet) : State :=
  let s := if p.src < 48 then s.bump .PRT_CNT_MODE_DROP p.src else s
  if p.stage == .stored then s.delPkt p.id
  else if p.stage == .parked then
    let (s, _) := s.leaveBank p
    match p.buf with
    | some h => (s.delPkt p.id).freed h
    | none => s.delPkt p.id
  else s.dropPkt p

/-- Egress port of a queue in use; 63 where none is mapped to it. -/
def State.queuePort (s : State) (q : Nat) : Nat :=
  if 32704 ≤ q then q - 32704
  else (((List.range 512).find? fun k => s.rb .TMG_CG_EN k && s.rn .TMG_CG_BASE k ≤ q &&
    q < s.rn .TMG_CG_BASE k + 2 ^ s.rn .TMG_CG_LOG2N k).map (· / 8)).getD 63

/-- Every queue is emptied: its entries are dropped and counted. -/
def State.emptyQueues (s : State) : State :=
  s.tmg.queues.foldl (fun s q => q.2.ents.foldl (fun s e =>
    (((s.endReplica (s.queuePort q.1) e).popHead q.1 false).countF .TMG_Q_DROPS q.1)) s) s

/-- Transmissions in progress end with an invalid FCS. -/
def State.cutTx (s : State) : State :=
  let l := s.prt.txE ++ s.prt.txP
  let s := { s with prt := { s.prt with txE := [], txP := [], badFcs := l.foldl (fun m e => m.put false e.1 true) s.prt.badFcs } }
  l.foldl (fun s e => s.endReplica e.1 e.2.ent) s

/-- A forced drain discards and counts packets, aborts contexts and ends TMS commands ABORTED with their cursors (R62). -/
def State.forceDrain (s : State) : State :=
  let s := s.pkts.foldl (fun s p => s.discardPkt p) s
  let s := s.emptyQueues.cutTx
  let s := (s.discardEnts fun _ => true).abortWhere fun _ => true
  (List.range 5).foldl (fun s w => match (s.win w).cmd with
    | some c => s.tblEnd w c tblAborted none
    | none => s) s

/-- Fields that STANDBY keeps: those of blocks that stay powered, the kept ones, and those the save area of R63 holds. -/
def standbyKeeps (f : Field) : Bool :=
  f.info.kept || match f.info.block with
  | .GLB | .PWR | .FUS | .HEA | .TIM | .MEM | .AUT => true
  | .HST => false
  | _ => (f.info.acc == .RWF && f != .MMU_FR_TAIL) ||
    [Field.SAU_PUB_STNUM, .SAU_JG_SLOT_B, .CLS_LIVE_VALID, .FLW_LB_EPOCH, .FLW_LB_PEND, .FLW_REC_USED, .TBL_SEED_FROZEN,
     .ENG_CL_RETIRED, .ENG_CL_LOADED, .ENG_CL_IMG_VER].contains f

/-- Counters of blocks that stay powered in STANDBY. -/
def standbyCounts (e : Nat × BitVec 64) : Bool :=
  [Block.PWR, .FUS, .HEA, .TIM, .MEM, .AUT].any fun b => (Ctr.ofBlock b).any fun c => c.ctorIdx == e.1 % 1024

/-- What STANDBY does not keep is gone (R63): the flow cache is written back first, only the committed edition is kept, and
the flow stash is lost with its records. -/
def State.dropUnsaved (s : State) : State :=
  let s := s.flw.cache.foldl (fun s e => s.writeBack e.1) s
  let s := s.tbl.stash.foldl (fun s e => s.freeRec e.2.rcd) s
  let s := (s.listed .PRT_LINK_UP).foldl (fun s p => s.linkDown p) s
  let s := (s.listed .HST_LINK_UP).foldl (fun s h => s.hostDown h) s
  let keep := ((Block.all.flatMap Block.fields).filter standbyKeeps).map Field.ctorIdx
  let r := State.reset
  let live (b : Bool) (k : Bank) : Bank := if s.cls.live == some b then { k with hits := [], off := [], inflight := 0 } else Bank.none
  { r with
    pwr := { s.pwr with waiting := [] }
    mod := s.mod
    boot := s.boot
    fus := s.fus
    mon := s.mon
    tim := { s.tim with cmd := 0, ppsHigh := false, ppsRise := none }
    hbm := s.hbm
    nextPkt := s.nextPkt
    par := { r.par with cs := s.par.cs, bad := s.par.bad }
    cls := { r.cls with a := live false s.cls.a, b := live true s.cls.b, live := s.cls.live, fragSeed := s.cls.fragSeed }
    gaz := s.gaz
    tbl := { s.tbl with stash := [], l2Live := none, learn := [], wins := [], turn := 0, aged := false, expired := [] }
    flw := { s.flw with cache := [], winAt := 0, winN := 0, winHit := 0, rcBusy := [] }
    swc := { r.swc with layout := s.swc.layout, rgLow := s.swc.rgLow }
    tmg := { r.tmg with slot := s.tmg.slot }
    tsk := { r.tsk with tmpls := s.tsk.tmpls }
    aut := { s.aut with ops := [] }
    sau := { r.sau with pub := (s.sau.pub.filter fun e => e.2.fresh).map fun e => (e.1, { Pub.none with fresh := true }) }
    eng := { s.eng with ctx := [], tmr := [], conts := [], xread := 0 }
    regs := s.regs.filter fun e => keep.contains (e.1 % 1024)
    ctrs := s.ctrs.filter standbyCounts
    logRecs := s.logRecs
    limits := s.limits
    flash := s.flash
    freeCtr := s.freeCtr
    pending := s.pending }

/-- The save ends (R63): what it does not hold is gone, the save area is written with its CRC-32, and the stack is in
self-refresh with its controller and PHY off. -/
def State.saveDone (s : State) : State :=
  let s := s.dropUnsaved
  let (_, t) := s.draw
  let t := { t with boot := { t.boot with saved := true, savedEdition := s.cls.live.isSome }, hbm := t.hbm.controllerOff.writeSave s.freeCtr }
  (t.setB .MEM_SELF_REF 0 true).setB .MEM_TRAINED 0 false

/-- The stack leaves self-refresh, trained again, before the save area is read (R64). -/
def State.wakeHbm (s : State) : State := (s.setB .MEM_SELF_REF 0 false).setB .MEM_TRAINED 0 true

/-- A failed restore discards what the save area held (R64): HBM with its flow records, keys, engine memories, the seeds,
which stay frozen (R81), and the blocks that stayed powered remain. -/
def State.dropSaved (s : State) : State :=
  let keep := ((Block.all.flatMap Block.fields).filter fun f => f.info.kept || match f.info.block with
    | .GLB | .PWR | .FUS | .HEA | .MEM | .AUT => true
    | .TIM => f.info.acc != .RWF
    | _ => [Field.ENG_CL_RETIRED, .ENG_CL_LOADED, .ENG_CL_IMG_VER, .TBL_SEED_FROZEN, .FLW_REC_USED].contains f).map Field.ctorIdx
  let r := State.reset
  { s with
    boot := { s.boot with tmsLoaded := false, parLoaded := 0 }
    par := r.par
    cls := { r.cls with fragSeed := s.cls.fragSeed }
    gaz := []
    tbl := { r.tbl with seedFlow := s.tbl.seedFlow, seedL2 := s.tbl.seedL2, seedLb := s.tbl.seedLb,
                        keptFlow := s.tbl.keptFlow, newFlow := s.tbl.newFlow, journal := s.tbl.journal }
    flw := { r.flw with alloc := s.flw.alloc, goose := s.flw.goose, quar := s.flw.quar, digest := s.flw.digest }
    swc := { r.swc with layout := s.swc.layout }
    tmg := { r.tmg with slot := s.tmg.slot }
    tsk := r.tsk
    sau := r.sau
    mmu := r.mmu
    regs := s.regs.filter fun e => keep.contains (e.1 % 1024) }

/-- After a restore: enabled streams start in ACQUIRE, and enabled templates are enabled again once their pinned regions pass
R391 (R64, R288, R405). -/
def State.afterRestore (s : State) : State :=
  let s := (s.listed .SAU_ST_EN).foldl (fun s st => s.setN .SAU_ST_STATE st 1) s
  (s.listed .TSK_TT_EN).foldl (fun s t =>
    match s.tsk.tmpls.find t with
    | some m => let (ok, s) := s.lockPins m; if ok then s else (s.setB .TSK_TT_EN t false).raise .MMU_E_PIN t
    | none => s) s

/-- The load-balance seed is redrawn and staged group writes take effect at a reseeding commit (R183, R248). -/
def State.reseedLb (s : State) : State :=
  let (a, s) := s.drawSeed
  let n := (s.listed .FLW_LBG_N).map fun g => (g, s.reg .FLW_LBG_N g)
  let m := (s.listed .FLW_LBG_MEMB).map fun i => (i, s.reg .FLW_LBG_MEMB i)
  let s := { s with tbl := { s.tbl with seedLb := a }, flw := { s.flw with lbN := n, lbMemb := m } }
  (s.setN .FLW_LB_EPOCH 0 ((s.rn .FLW_LB_EPOCH + 1) % 256)).setB .FLW_LB_PEND 0 false

/-- The tasks and transfers of a cluster that retires end (R488). -/
def State.onClusterRetired (s : State) (c : Nat) : State :=
  let s := s.abortCluster c
  (s.mmu.dmas.filter fun d => d.cl == c).foldl (fun s d => match s.dmaOf d.cl d.seq with
    | some d => s.dmaAbort d 0
    | none => s) s

/-- With cluster `c` retired, templates left without a cluster are disabled, and ready entries of `c` go to another (R488). -/
def State.afterRetired (s : State) (c : Nat) : State :=
  let s := s.tsk.tmpls.foldl (fun s t =>
    if s.rb .TSK_TT_EN t.1 && (s.clusterSet t.2).isEmpty then
      let s := s.stopTmpl t.1
      if t.2.cls ≤ 1 then s.raise .HEA_E_P_CAPACITY t.1 else s
    else s) s
  (s.tsk.ents.filter fun e => e.2.ready && e.2.cluster == c).foldl (fun s e =>
    match s.tsk.tmpls.find e.2.tmpl with
    | some m =>
      let d := s.chooseCluster m (pinIn e.2.toks)
      ({ s with tsk := { s.tsk with ents := s.tsk.ents.set e.1 { e.2 with cluster := d } } }).wakeCluster d
    | none => s) s

/-- A FLUSH_PORT cursor over flows that window `w` of `old` held stays in the always-on domain (R228). -/
def State.keepCursor (old s : State) (w : Nat) : State :=
  match (old.win w).cmd with
  | some c => if c.op = 5 && c.tgt = 6 then ((s.setB .TBL_FLUSH_VALID 0 true).setN .TBL_FLUSH_PORT 0 c.arg).setN .TBL_FLUSH_POS 0 c.pos
      else s
  | none => s

/-- The always-on and HBM state of `old` put into the fresh state (R66, R228): the journal with its flow moves, the flow
REHASH and FLUSH_PORT cursors and seeds, the buffer layout, the wheel count, the flow records in HBM. Every L2 cursor is
lost. -/
def State.keepAlwaysOn (old fresh : State) : State :=
  let s : State :=
    { fresh with
      hbm := old.hbm.controllerOff
      tbl := { fresh.tbl with keptFlow := old.tbl.keptFlow, newFlow := old.tbl.newFlow, seedFlow := old.tbl.keptFlow,
                              journal := old.tbl.journal.filter (fun m => !m.l2), jReset := old.tbl.journal.any fun m => !m.l2 }
      flw := { fresh.flw with alloc := old.flw.alloc, quar := [], goose := old.flw.goose }
      swc := { fresh.swc with layout := old.swc.layout }
      tmg := { fresh.tmg with slot := old.tmg.slot } }
  let s := (List.range 5).foldl (State.keepCursor old) s
  let s := if s.rb .TBL_REHASH_CUR_VALID then s else (s.setB .TBL_REHASH_LIVE 0 false).setB .TBL_REHASH_TGT 0 false
  s.setB .MEM_SELF_REF 0 true

/-- The switched domains go off and lose what Table 02.6 does not keep; HBM and the always-on domain stay (R41). Mode,
lease and boot bookkeeping are not touched. -/
def State.loseSwitched (s : State) : State :=
  let s := (s.listed .PRT_LINK_UP).foldl (fun s p => s.linkDown p) s
  let s := (s.listed .HST_LINK_UP).foldl (fun s h => s.hostDown h) s
  let s := s.setB .MEM_TRAINED 0 false
  let r := State.reset
  let keep := ((Block.all.flatMap Block.fields).filter fun f => f.info.kept || match f.info.block with
    | .GLB | .PWR | .FUS | .HEA | .MEM => true
    | .TIM => f.info.acc != .RWF
    | _ => f == .ENG_CL_RETIRED).map Field.ctorIdx
  State.keepAlwaysOn s
    { r with
      pwr := s.pwr, mod := s.mod, boot := { s.boot with tmsLoaded := false, parLoaded := 0, hbmPass := false }, fus := s.fus,
      mon := s.mon, tim := s.tim
      nextPkt := s.nextPkt
      regs := s.regs.filter fun e => keep.contains (e.1 % 1024)
      logRecs := s.logRecs
      limits := s.limits
      flash := s.flash
      freeCtr := s.freeCtr
      pending := s.pending }

/-- Number of 1 bits of a number of at most 32 bits. -/
def ones (n : Nat) : Nat := ((List.range 32).filter fun i => bitOf n i).length

/-- Check field of a remap fuse entry (Table 16.5). -/
def rmpCheck (w : Nat) : Nat := (ones (w / 32) % 32).xor 0b10101

/-- The margins of R444 follow the table and the spares used. -/
def State.remapMargins (s : State) : State :=
  let used := (List.range 128).filter fun n => s.rb .MEM_RMP_VALID n
  let sp := s.hbm.spares.foldl (fun a e => a + ones (e.2 % 16)) 0
  let s := (s.setN .MEM_RMP_FREE 0 (128 - used.length)).setN .MEM_SPARE_FREE 0 (2048 - sp)
  let s := s.setN .MEM_BANK_NOSPARE 0 (s.hbm.spares.filter fun e => e.2 % 16 == 15).length
  s.setN .MEM_RMP_FUSED 0 (used.filter fun n => s.rb .MEM_RMP_FUSE n).length

/-- Entry `n` of the remap table set, its spare marked used (R443, R445). -/
def State.setRemap (s : State) (n pc bank row spare : Nat) (fused : Bool) : State :=
  let s := ((((s.setB .MEM_RMP_VALID n true).setB .MEM_RMP_FUSE n fused).setN .MEM_RMP_PC n pc).setN .MEM_RMP_BANK n bank).setN .MEM_RMP_ROW n row
  let b := pc * 16 + bank
  { s.setN .MEM_RMP_SPARE n spare with
    hbm := { s.hbm with spares := s.hbm.spares.put 0 b ((s.hbm.spares.get 0 b).lor (2 ^ spare)) } }

/-- At the release of power-on reset the valid remap fuse entries are loaded in order; one that fails its check is
ignored and MEM_W_FUSE_ENTRY raised (R445). -/
def State.loadRemap (s : State) : State :=
  let step (acc : State × Nat) (i : Nat) : State × Nat :=
    let w := (acc.1.fuse (128 + i)).toNat
    if !bitOf w 31 then acc
    else if rmpCheck w ≠ w % 32 then (acc.1.raise .MEM_W_FUSE_ENTRY i, acc.2)
    else (acc.1.setRemap acc.2 (bitsOf w 30 26) (bitsOf w 25 22) (bitsOf w 21 7) (bitsOf w 6 5) true, acc.2 + 1)
  ((List.range 96).foldl step (s, 0)).1.remapMargins

end Sys2Proof.Machine
end

