-- ==== Sys2Proof/Machine/ImageOps.lean ====
section
/-! DEFINITION. BAR4 as a view of device memory (spec/17 R456-R458) and the verification of Balnus images (spec/03
R73-R75). -/

namespace Sys2Proof.Machine

open Sys2Proof

/-- First BAR4 offset of the image aperture (R458). -/
def aperture : Nat := 0xFE000000

/-- The aperture maps packet memory for host `h`. -/
def State.apertureOpen (s : State) (h : Fin 4) : Bool :=
  s.mod.mode == .load && !s.rb .SWC_LAYOUT_LOCKED && s.leaseOk h

/-- The enabled grant of host `h` that covers BAR4 bytes `o` to `o + n`; its element (R456). -/
def State.grantOf (s : State) (h o n : Nat) : Option Nat :=
  ((List.range 16).map (h * 16 + ·)).find? fun g =>
    s.rb .HST_GR_EN g && s.rn .HST_GR_WIN g * 65536 ≤ o && o + n ≤ (s.rn .HST_GR_WIN g + s.rn .HST_GR_LEN g) * 65536

/-- Device physical address of a BAR4 offset through a grant. -/
def State.grantAddr (s : State) (g o : Nat) : Nat := s.rn .HST_GR_DEV g * 65536 + (o - s.rn .HST_GR_WIN g * 65536)

/-- Bytes of packet memory. -/
def State.pkBytes (s : State) (a n : Nat) : List Byte := SMap.slice 0#8 s.pkm a n

/-- Bytes `o` to `o + n` of host `h`'s BAR4 window as the grants that cover them in turn: grant, offset and length of each
part; none where the window is left. -/
def State.grantParts (s : State) (h : Nat) : Nat → Nat → Nat → Option (List (Nat × Nat × Nat))
  | 0, _, n => if n = 0 then some [] else none
  | k + 1, o, n =>
    if n = 0 then some [] else
    match s.grantOf h o 1 with
    | none => none
    | some g =>
      let m := min n ((s.rn .HST_GR_WIN g + s.rn .HST_GR_LEN g) * 65536 - o)
      (s.grantParts h k (o + m) (n - m)).map fun l => (g, o, m) :: l

/-- The parts of a range of a host's window: each of its 16 grants covers at most one. -/
def State.windowParts (s : State) (h o n : Nat) : Option (List (Nat × Nat × Nat)) := s.grantParts h 16 o n

/-- HBM read through grants, part by part. -/
def State.readParts (s : State) : List (Nat × Nat × Nat) → Option (List Byte) × State
  | [] => (some [], s)
  | (g, o, m) :: t =>
    match s.hbmRead (s.grantAddr g o) m 8 with
    | (none, s) => (none, s)
    | (some a, s) =>
      match s.readParts t with
      | (none, s) => (none, s)
      | (some b, s) => (some (a ++ b), s)

/-- A read of the issuer's window: BAR4 of a host, the staging memory of the steward; none where it leaves the window or
meets an uncorrectable error. -/
def State.windowRead (s : State) (src : Src) (o n : Nat) : Option (List Byte) × State :=
  match src with
  | .host h =>
    if aperture ≤ o then
      (if s.apertureOpen h && o + n ≤ 2 ^ 32 then (some (s.pkBytes (o - aperture) n), s) else (none, s))
    else match s.windowParts h.val o n with
      | some l => s.readParts l
      | none => (none, s)
  | _ => if o + n ≤ 2 ^ 25 then (some (s.pkBytes o n), s) else (none, s)

/-- A write of the issuer's window: through a grant that is not read-only, or into the staging memory; the flag says
whether it was done. -/
def State.windowWrite (s : State) (src : Src) (o : Nat) (l : List Byte) : State × Bool :=
  match src with
  | .host h =>
    match s.windowParts h.val o l.length with
    | some ps =>
      if ps.any fun p => s.rb .HST_GR_RO p.1 then (s, false)
      else ps.foldl (fun a p =>
        let (t, ok) := a.1.hbmWrite (s.grantAddr p.1 p.2.1) ((l.drop (p.2.1 - o)).take p.2.2) 8
        (t, a.2 && ok)) (s, true)
    | none => (s, false)
  | _ => if o + l.length ≤ 2 ^ 25 then ({ s with pkm := SMap.fill 0#8 s.pkm o l }, true) else (s, false)

/-- Bytes `o` to `o + n` of the issuer's window may be written. -/
def State.windowOk (s : State) (src : Src) (o n : Nat) : Bool :=
  match src with
  | .host h => match s.windowParts h.val o n with
    | some ps => !ps.any fun p => s.rb .HST_GR_RO p.1
    | none => false
  | _ => o + n ≤ 2 ^ 25

/-- A Balnus header (Table 03.6) and its payload. -/
structure Image where
  kind    : Nat
  signer  : Nat
  length  : Nat
  version : Nat
  load    : Nat
  key     : List Byte
  sig     : List Byte
  head    : List Byte
  payload : List Byte
  deriving DecidableEq, Repr

/-- Little-endian field of a header. -/
def hdr (l : List Byte) (o n : Nat) : Nat := leNat ((l.drop o).take n)

/-- A load address is one its type permits (R76, R158, R181, R208, R230, R367). -/
def loadOk (kind load : Nat) : Bool :=
  match kind with
  | 3 => load % 4 ≠ 0 && bitsOf load 15 2 = 0 && load < 2 ^ 28
  | 4 => load % 2 ^ 24 ≠ 0 && load / 2 ^ 24 ≠ 0 && load < 2 ^ 32
  | 5 => load < 256
  | 7 => load = 1 || load = 2
  | 8 => load = 0
  | _ => true

/-- The format check of R75, and the image. -/
def State.readImage (s : State) (src : Src) (o : Nat) : Option Image × State :=
  if o % 4 ≠ 0 then (none, s) else
  match s.windowRead src o 160 with
  | (none, s) => (none, s)
  | (some h, s) =>
    let len := hdr h 8 4
    let kind := hdr h 4 1
    if hdr h 0 4 ≠ 0x534E4C42 || hdr h 6 2 ≠ 1 || kind = 0 || 8 < kind || len = 0 || 2 ^ 26 < len || !loadOk kind (hdr h 16 8) then (none, s)
    else match s.windowRead src (o + 160) len with
      | (none, s) => (none, s)
      | (some p, s) =>
        (some { kind := kind, signer := hdr h 5 1, length := len, version := hdr h 12 4, load := hdr h 16 8,
                key := (h.drop 32).take 64, sig := (h.drop 96).take 64, head := h.take 96, payload := p }, s)

/-- Types accepted from the vendor alone (Table 03.7). -/
def vendorOnly (kind : Nat) : Bool := kind = 1 || kind = 2

/-- The signer is one the type permits and its key has the fused digest (R74). -/
def State.signerOk (s : State) (i : Image) : Bool :=
  let digest (w : Nat) : List Byte := fuseBytes s.fus.shadow (List.range' w 8)
  let k := sha256 i.key
  if i.signer = 0 then vendorOk s.fus.shadow && k == digest 0 && (vendorOnly i.kind || s.vendorImg)
  else if i.signer = 1 then !vendorOnly i.kind && ownerSealed s.fus.shadow && ownerOk s.fus.shadow && k == digest 64
  else false

/-- The signature verifies (R74). The coordinates x, y and the values r, s stand little-endian, as every field of the header
does (R73). -/
def Image.signed (i : Image) : Bool :=
  ecdsaOk (leNat (i.key.take 32)) (leNat (i.key.drop 32)) (leNat (i.sig.take 32)) (leNat (i.sig.drop 32))
    (sha256 (i.head ++ i.payload))

/-- Load modes of Table 03.7, and in RUN the lease holder alone for 4, 5 and 8 (R75). -/
def State.imageMode (s : State) (src : Src) (kind : Nat) : Bool :=
  match s.mod.mode with
  | .load => [2, 3, 4, 5, 7, 8].contains kind
  | .run => [4, 5, 8].contains kind && s.isHolder src
  | _ => false

/-- In LOAD, an image lies in HBM that is not initialised (R79). -/
def State.imageEarly (s : State) (src : Src) (o : Nat) : Bool :=
  match src with
  | .host h => o < aperture && s.mod.mode == .load && !s.rb .MEM_INIT_FLAG && (s.windowParts h.val o 160).isSome
  | _ => false

/-- The checks of R75 in their order: the image, or the code of the first that fails. `want`: types the command takes;
`may`: types that the mode and the issuer permitted when it was accepted (R473). -/
def State.verify (s : State) (src : Src) (o : Nat) (want may : Nat → Bool) : (Image ⊕ Ev) × State :=
  if o % 4 = 0 && s.imageEarly src o then (.inr .GLB_E_ORDER, s) else
  match s.readImage src o with
  | (none, s) => (.inr .GLB_E_IMAGE_FORMAT, s)
  | (some i, s) =>
    if !want i.kind then (.inr (if i.kind = 1 || i.kind = 5 || i.kind = 6 then .GLB_E_ORDER else .GLB_E_IMAGE_FORMAT), s)
    else if !may i.kind then (.inr .GLB_E_ORDER, s)
    else if !s.signerOk i then (.inr .GLB_E_IMAGE_KEY, s)
    else if !i.signed then (.inr .GLB_E_IMAGE_SIG, s)
    else (.inl i, s)

end Sys2Proof.Machine
end

