-- ==== Sys2Proof/Machine/Lookup.lean ====
section
/-! DEFINITION. The lookups that start at a seal and the learning that follows the commit word (spec/06 R145, R153, spec/08
R203-R206, R210). -/

namespace Sys2Proof.Machine

open Sys2Proof

/-- Port ID through which a packet enters (Table 01.3). -/
def Packet.port (p : Packet) : Nat := if p.kind = 4 then 61 else p.src

/-- A port is a member of a VLAN: its bit, and for ports 56 to 61 and 63 whenever the entry is valid (R203). -/
def State.vlanHas (s : State) (vid p : Nat) : Bool :=
  if p < 48 then bitOf (s.rn .TBL_VLAN_MEMB_L vid + s.rn .TBL_VLAN_MEMB_H vid * 2 ^ 32) p
  else (56 ≤ p && p ≤ 61) || p = 63

/-- The L2 lookups of a sealed slot: the entries of its DA and SA in the pipeline's copy (R203, R204). -/
def State.lookL2 (s : State) (pipe : Nat) (q : Parse) : Looks :=
  let fid := s.rn .TBL_VLAN_FID (beAt (q.slot 1) 12 2 % 4096)
  let hit (mac : Nat) : Option L2Ent := (s.l2Find mac fid (1 + pipe)).map (·.2)
  { q.look with fid := fid, da := hit (beAt (q.slot 1) 0 6), sa := hit (beAt (q.slot 1) 6 6) }

/-- The longest route of a sealed slot's destination (R210). -/
def State.lookLpm (s : State) (q : Parse) : Option Route :=
  let ip := q.slot 3
  if beAt ip 0 1 = 4 then longest 32 (beAt ip 30 4) s.tbl.v4 else longest 128 (beAt ip 18 16) s.tbl.v6

/-- R145: the read-only lookups start with the seals that `f` makes, and find the tables as they stand then. -/
def State.sealing (s : State) (pipe : Nat) (q : Parse) (f : Parse → Parse) : Parse :=
  let r := f q
  let now (n : Nat) : Bool := (q.sealed.find n).isNone && (r.sealed.find n).isSome
  let r := if now 1 then { r with look := s.lookL2 pipe r } else r
  let r := if now 2 then { r with look := { r.look with appid := s.tbl.appid.get 0#64 (beAt (r.slot 2) 4 2) } } else r
  if now 3 then { r with look := { r.look with route := s.lookLpm r } } else r

/-- A hardware learning request joins the learn FIFO, or is discarded (R204). -/
def State.learnPush (s : State) (q : Learn) : State × Bool :=
  if 256 ≤ s.tbl.learn.length then ((s.bump .TBL_CNT_LEARN_DROP).raiseLimited .TBL_W_LEARN_DROP 0 ms1, false)
  else ({ s with tbl := { s.tbl with learn := s.tbl.learn ++ [q] } }, true)

/-- An SA hit's age stamp in the copy of the hitting pipeline, where the entry still stands (R205). -/
def State.stampSa (s : State) (p : Packet) (e : L2Ent) : State :=
  match s.l2Find e.mac e.fid (1 + p.pipe) with
  | some (loc, e) =>
    let now := s.rn .TBL_AGE_NOW
    s.setL2 loc (if p.pipe = 0 then { e with age0 := now } else { e with age1 := now })
  | none => s

/-- What the SA lookup of a committed parse does: the age stamp of a hit, or a learn request (R204, R205). -/
def State.learnStep (s : State) (p : Packet) : State :=
  let l2 := p.parse.slot 1
  let vid := beAt l2 12 2 % 4096
  let sa := beAt l2 6 6
  let hit := p.parse.look.sa
  let same := hit.any fun e => !e.grp && e.dst == p.port
  let s := match hit with
    | some e => if same then s.stampSa p e else s
    | none => s
  let source := (p.port < 48 || (56 ≤ p.port && p.port < 60)) && !p.resumed
  let wanted := match hit with
    | some e => !e.static && !same
    | none => true
  if source && s.rb .TBL_VLAN_VALID vid && s.rb .TBL_VLAN_LEARN vid && s.vlanHas vid p.port && sa / 2 ^ 40 % 2 = 0 && wanted then
    (s.learnPush (.l2 sa p.parse.look.fid p.port p.pipe)).1
  else s

/-- Learning takes place once in a parse, at the later of the L2 seal and the commit word (R145). -/
def State.learnOnce (s : State) (p : Packet) : State × Packet :=
  if p.parse.committed && (p.parse.sealed.find 1).isSome && !p.parse.learned then
    (s.learnStep p, { p with parse := { p.parse with learned := true } })
  else (s, p)

end Sys2Proof.Machine
end

