-- ==== Sys2Proof/Machine/Parser.lean ====
section
/-! DEFINITION. The meanings of pipeline entry, lanes and microwords (spec/01 R15-R17, spec/06). -/

namespace Sys2Proof.Machine

open Sys2Proof

/-- The internal ports in the arbiter's rotation (R16). -/
def internalPorts : List Nat := [61, 60, 56, 57, 58, 59, 63]

/-- Packets of pipeline `k` that wait at port `q`. -/
def State.waitingAt (s : State) (k q : Nat) : List Packet :=
  s.pkts.filter fun p => p.stage == .fifo && p.pipe == k && p.port == q

/-- Modes in which packets enter the pipelines: those of R55, DRAIN for packets in flight (R62) and SAFE-HOLD (R56). -/
def entersIn (m : Mode) : Bool :=
  match m with
  | .run | .isolated | .drain | .safeHold => true
  | _ => false

/-- The internal port whose turn it is: the first with a packet after the one served last (R16). -/
def State.internalTurn (s : State) (k : Nat) : Option Nat :=
  let i := s.par.lastInt.get 0 k
  let order := internalPorts.drop i ++ internalPorts.take i
  order.find? fun q => !(s.waitingAt k q).isEmpty

/-- R16: the entry arbiter of pipeline `k` grants a slot to the packet at the head of `port`: line ports first, one slot in
16 to the internal ports. Which line port goes first the manual leaves open: the command names it. Express frames are
ahead of others in a port's FIFO (Table 01.8). -/
def execPipelineEntry (k : Fin 2) (port : Fin 64) (s : State) : Res :=
  let k := k.val
  let port := port.val
  let w := s.waitingAt k port
  match (w.find? (·.express)).or w.head? with
  | none => .next s
  | some p =>
    let line := (List.range 48).any fun q => !(s.waitingAt k q).isEmpty
    let turn := s.internalTurn k
    let run := s.par.lineRun.get 0 k
    let allowed :=
      if port < 48 then turn.isNone || run < 15
      else turn == some port && (!line || 15 ≤ run)
    let busy := s.pkts.any fun q => q.stage == .entry && q.pipe == k && q.express == p.express
    if !entersIn s.mod.mode || !allowed || busy then .next s
    else
      let i := (internalPorts.findIdx? (· == port)).getD 0 + 1
      let s := { s with par := { s.par with
        lineRun := s.par.lineRun.put 0 k (if port < 48 then run + 1 else 0),
        lastInt := if port < 48 then s.par.lastInt else s.par.lastInt.put 0 k (i % 7) } }
      .next (s.setPkt { p with stage := .entry })

/-- The packet in a lane. -/
def State.inLane (s : State) (k lane : Nat) : Option Packet :=
  s.pkts.find? fun p => p.pipe == k && p.stage == .lane lane

/-- Lanes of pipeline `k` that hold no packet. -/
def State.freeLanes (s : State) (k : Nat) : Nat :=
  64 - (s.pkts.filter fun p => p.pipe == k && match p.stage with | .lane _ => true | _ => false).length

/-- A parse begins at the packet's entry word, under the limit and the flag of the packet's entry (R128, R156, R161). -/
def State.startParse (s : State) (p : Packet) (lane : Nat) : State :=
  let q := { Parse.fresh p.kind p.tcHint with limit := p.parse.limit, dbg := p.parse.dbg }
  s.setPkt { p with stage := .lane lane, parse := q }

/-- A packet begins in a lane: without a tag it takes the current one and counts in its bank (R132, R185); the parser's
configuration is that of its entry (R161). -/
def State.takeLane (s : State) (p : Packet) (lane : Nat) : State :=
  let p := { p with entered := s.par.entries,
                    parse := { p.parse with limit := s.rn .PAR_CLK_LIMIT p.pipe, dbg := s.rb .PAR_DBG_FLAG p.pipe } }
  let s := { s with par := { s.par with entries := s.par.entries + 1 } }
  match p.tag, s.cls.live with
  | none, some b =>
    let bk := s.bank b
    (s.setBank b { bk with inflight := bk.inflight + 1 }).startParse { p with tag := some (b, bk.ed.num), counted := true } lane
  | _, _ => s.startParse p lane

/-- A packet enters the sequencer. -/
def State.enterLane (s : State) (p : Packet) (lane : Nat) : State :=
  (s.bump .PAR_CNT_ENTRY p.pipe).takeLane p lane

/-- A packet is pre-empted to the restart queue; after four times its parse is protected (R155, R157). -/
def State.preempt (s : State) (p : Packet) : State :=
  let n := p.preempts + 1
  let s := (s.bump .PAR_CNT_PREEMPT p.pipe).setPkt { p with stage := .restart, preempts := n, guarded := p.guarded || 4 ≤ n }
  let s := { s with par := { s.par with restartQ := s.par.restartQ.put [] p.pipe (s.par.restartQ.get [] p.pipe ++ [p.id]) } }
  if 4 ≤ n && !p.guarded then (s.bump .PAR_CNT_PROTECT p.pipe).raiseLimited .PAR_I_PROTECTED p.pipe ms1 p.pipe 0 p.pipe else s

/-- R127-R132, R155: the packet at the entry of pipeline `k` takes the free lane named; an express packet that finds no lane
free pre-empts; a packet that finds none waits. The restart queue goes before new packets that are not express. -/
def execLaneAcquire (k : Fin 2) (lane : Fin 64) (s : State) : Res :=
  let k := k.val
  let at0 := s.pkts.filter fun p => p.stage == .entry && p.pipe == k
  match (at0.find? (·.express)).or at0.head? with
  | none => .next s
  | some p =>
    if !p.express && !(s.par.restartQ.get [] k).isEmpty && 0 < s.freeLanes k then .next s
    else if 0 < s.freeLanes k then
      (if (s.inLane k lane.val).isSome then .next s else .next (s.enterLane p lane.val))
    else
      let victim := (s.pkts.filter fun q => q.pipe == k && !q.express && !q.guarded && !q.parse.committed &&
          (match q.stage with | .lane _ => true | _ => false)).foldl
        (fun b q => match b with
          | some x => if x.entered < q.entered then some q else b
          | none => some q) (none : Option Packet)
      match p.express, victim with
      | true, some v =>
        match v.stage with
        | .lane n => .next ((s.preempt v).enterLane p n)
        | _ => .next s
      | _, _ => .next ((s.bump .PAR_CNT_HOLD_CLK k).raiseLimited .PAR_W_ENTRY_HOLD k ms1 k 0 k)

/-- R155, R156: the packet at the head of the restart queue begins its parse again in the free lane named. -/
def execParseRestart (k : Fin 2) (lane : Fin 64) (s : State) : Res :=
  let k := k.val
  match s.par.restartQ.get [] k with
  | [] => .next s
  | id :: t =>
    if (s.inLane k lane.val).isSome then .next s else
    let s := { s with par := { s.par with restartQ := s.par.restartQ.put [] k t } }
    match s.pkt id with
    | some p =>
      if p.stage == .restart then .next ((s.bump .PAR_CNT_RESTART k).startParse { p with restarts := p.restarts + 1 } lane.val)
      else .next s
    | none => .next s

/-- PAR_OCC of pipeline `k` takes the occupancy of a parse that ended (R130). -/
def State.noteOcc (s : State) (k n : Nat) : State :=
  let l := (n :: s.par.occ.get [] k).take 1024
  let s := { s with par := { s.par with occ := s.par.occ.put [] k l } }
  let s := s.setN .PAR_OCC_MEAN k (min 65535 (16 * l.foldl (· + ·) 0 / l.length))
  if s.rn .PAR_OCC_MAX k < n then s.setN .PAR_OCC_MAX k (min 65535 n) else s

/-- A parse ends (R139, R145, R153, R154): slots sealed, learning, counters, and the packet goes on or is dropped. In SAFE-HOLD only
TC6 and TC7 go on (R56). -/
def State.endParse (s : State) (p : Packet) (dropped : Bool) : State :=
  let k := p.pipe
  let q := { s.sealing k p.parse Parse.sealAll with committed := true, wait := none }
  let (s, p) := s.learnOnce { p with parse := q }
  let q := p.parse
  let s := s.noteOcc k q.clk
  let s := if q.pmtIgn then s.bump .PAR_CNT_PMT_IGN k else s
  let s := q.codes.eraseDups.foldl (fun s c => s.bump .PAR_CNT_CODE (k * 32 + c)) s
  let p := { p with parse := q, tc := q.tc, dp := q.dp }
  if dropped then s.dropPkt p
  else if s.mod.mode == .safeHold && q.tc < 6 then
    (if p.src < 48 then s.bump .PRT_CNT_MODE_DROP p.src else s).dropPkt p
  else (s.bump .PAR_CNT_CLASS (k * 32 + q.cls)).setPkt { p with stage := .classify }

/-- A parse ends with a drop code of the device. -/
def State.endCode (s : State) (p : Packet) (code : Nat) : State :=
  s.endParse { p with parse := { p.parse with codes := p.parse.codes ++ [code] } } true

/-- PAR_E_LIMIT: a parse ends with drop code 30 (R160). -/
def State.limitEvent (s : State) (p : Packet) : State := s.raiseLimited .PAR_E_LIMIT p.pipe ms1 p.pipe p.parse.upc p.pipe

/-- The limits of R139 end a parse with drop code 30. -/
def State.limitParse (s : State) (p : Packet) : State := (s.limitEvent p).endCode p 30

/-- A parse has used up a limit of R139: one more clock would pass it. -/
def Parse.spent (p : Parse) : Bool := p.limit ≤ p.clk || (p.committed && 64 ≤ p.post)

/-- A parse has passed a limit of R139. -/
def Parse.over (p : Parse) : Bool := p.limit < p.clk || (p.committed && 64 < p.post)

/-- Mark a word bad (R134); the event of a packet's fetch is limited (R160). -/
def State.markBad (s : State) (k w : Nat) (fetch : Bool) : State :=
  let s := ({ s with par := { s.par with bad := s.par.bad.put false (k * 4096 + w) true } }).setB .PAR_CS_BADWORD k true
  let s := if s.rb .PAR_CS_BAD_VALID k then s else (s.setB .PAR_CS_BAD_VALID k true).setN .PAR_CS_BAD_ADDR k w
  if fetch then s.raiseLimited .PAR_E_CS_UNCORR k ms1 k w k else s.raise .PAR_E_CS_UNCORR k w k

/-- Clocks spent on a word. -/
def Parse.tick (p : Parse) (n : Nat) : Parse :=
  { p with clk := p.clk + n, post := if p.committed then p.post + n else 0 }

/-- A completed scan of the packet's edition matched (R174). -/
def State.scanHit (s : State) (p : Packet) : Bool :=
  match p.parse.scan, p.tag with
  | some o, some (b, _) => !(scanHits (s.bank b).ed.pats p.bytes o).isEmpty
  | _, _ => false

/-- The word of a parse proceeds (R136, R142 step 9, R151-R153): conditions, commit, end, code, next address. A word that
takes the parse past a limit ends it (R139). -/
def State.proceed (s : State) (p : Packet) (w : Nat) (wto : Bool) : State :=
  if p.parse.over then s.limitParse p else
  let f (hi lo : Nat) : Nat := bitsOf w hi lo
  let cmt := bitOf w 5
  let q := { p.parse with committed := p.parse.committed || cmt, wait := none, stall := 0 }
  let err := f 10 6
  let q := { q with codes := if err = 0 then q.codes else q.codes ++ [err], mark := if 1 ≤ err && err ≤ 15 then err else q.mark }
  let (s, p) := s.learnOnce { p with parse := q }
  if 16 ≤ err then (if err = 30 then s.limitEvent p else s).endParse p true
  else if bitOf w 4 then s.endParse p false
  else
    let hit := s.scanHit p
    let c (sel n : Nat) : Nat := if p.cond sel wto hit then 2 ^ n else 0
    let low := Nat.lor (f 167 164) (c (f 163 158) 0 + c (f 157 152) 1 + c (f 151 146) 2 + c (f 145 140) 3)
    s.setPkt { p with parse := { p.parse with upc := f 175 168 * 16 + low } }

/-- The condition that ends the wait of a word; COMMITTED counts this word's own CMT (R135). -/
def State.waitOver (s : State) (p : Packet) (w : Nat) : Bool :=
  Packet.cond { p with parse := { p.parse with committed := p.parse.committed || bitOf w 5 } } (bitsOf w 139 134) false (s.scanHit p)

/-- The wait of a word (R137): it proceeds where there is none or its condition holds, by timeout at WTT clocks, and else
holds. `n` counts the clocks since its first. -/
def State.holdOrGo (s : State) (p : Packet) (w n : Nat) : State :=
  let wtt := bitsOf w 133 124
  if wtt = 0 then s.proceed p w false
  else if s.waitOver p w then s.proceed p w false
  else if wtt ≤ n then s.proceed p w true
  else s.setPkt { p with parse := { p.parse with wait := some (p.parse.upc, n) } }

/-- The word stalls for data for one clock (R138). -/
def State.stallParse (s : State) (p : Packet) : State :=
  s.setPkt { p with parse := { p.parse.tick 1 with stall := p.parse.stall + 1 } }

/-- MET (Table 06.9). -/
def Parse.met (p : Parse) (m : Nat) : Parse :=
  let a := m % 32
  match m / 32 with
  | 1 => { p with uf := Nat.lor p.uf (2 ^ (a % 8)) }
  | 2 => { p with uf := p.uf - (if bitOf p.uf (a % 8) then 2 ^ (a % 8) else 0) }
  | 3 => { p with tc := a % 8 }
  | 4 => { p with dp := a % 4 }
  | 5 => { p with ptp := some (a % 4, bitOf a 2, p.win) }
  | 6 => { p with egTs := true }
  | _ => p

/-- A pattern scan would start at a byte that has not arrived (R138). DEDUCED (notes/assumptions/30.md): the byte a scan
start needs is its first. -/
def Packet.scanMiss (p : Packet) (start : Nat) : Bool := !p.whole && p.bytes.length ≤ start

/-- The actions of a word after its BER operation (R142, steps 3 to 8). `p0` is the packet before the word: a word that
stalls for data has done nothing (step 1). -/
def State.actWord (s : State) (p0 p : Packet) (w : Nat) (clocks : Nat) (ok found : Bool) (v : Option Nat) (abandoned : Bool) : State :=
  let f (hi lo : Nat) : Nat := bitsOf w hi lo
  let op := f 53 50
  let isInt := op = 7 || op = 8
  match p.extract (f 107 94) (f 93 88), (if isInt then Sum.inr (v.getD 0, 0, true) else p.extract (f 80 67) (f 66 61)) with
  | .inr (a, na, oka), .inr (b, nb, okb) =>
    let q := p.parse.write (f 87 81) na a
    let q := match v with
      | some x => q.write (f 60 54) (8 * (f 65 61)) x
      | none => q.write (f 60 54) nb b
    let pq := { p with parse := q }
    let o2 := match v with
      | some x => x
      | none => if isInt then 0 else b
    match pq.operand (f 49 46) a o2 with
    | none => s.stallParse p0
    | some opnd =>
      let cv := f 45 30
      let none? := f 49 46 = 0
      let fl := flagBits [!none? && opnd = cv, !none? && opnd < cv, !none? && cv < opnd, oka, okb,
        op ≠ 0 && ok && !abandoned, op ≠ 0 && !ok && !abandoned, !abandoned, found && !abandoned]
      let win := match f 123 122 with
        | 1 => q.win + f 121 108
        | 2 => q.win + f 121 108 + q.s.headD 0
        | 3 => f 121 108
        | _ => q.win
      let q := { q with win := min 16383 win, opnd := opnd, flags := fl }
      let q := q.met (f 26 19)
      let q := { q with cls := if f 15 11 = 0 then q.cls else f 15 11 }
      let q := s.sealing p.pipe q fun q => if f 18 16 = 7 then q.sealAll else if f 18 16 = 0 then q else q.seal (f 18 16)
      let pmt := f 29 27
      let ign := 4 ≤ pmt || (1 ≤ pmt && q.scan.isSome)
      let start := match pmt with
        | 1 => q.win
        | 2 => recAt q.rcd 64 2
        | _ => q.cur
      if 1 ≤ pmt && !ign && p.scanMiss start then s.stallParse p0 else
      let q := { q with scan := if 1 ≤ pmt && !ign then some start else q.scan, pmtIgn := q.pmtIgn || ign }
      let n := max 1 clocks
      let q := q.tick n
      if abandoned then s.proceed { p with parse := q } w true
      else s.holdOrGo { p with parse := q } w (q.stall + n)
  | _, _ => s.stallParse p0

/-- A FIND reaches WTT clocks before it completes and is abandoned (R148). -/
def State.dropFind (s : State) (p : Packet) (w : Nat) : State :=
  s.actWord p p w (bitsOf w 133 124 - p.parse.stall) false false none true

/-- One microword (R142), or one clock of a word that holds (R137, R148). -/
def State.microword (s : State) (p : Packet) : State :=
  let k := p.pipe
  if p.parse.spent then s.limitParse p
  else if s.par.bad.get false (k * 4096 + p.parse.upc) then
    ((s.raiseLimited .PAR_E_BAD_WORD k ms1 k p.parse.upc k)).endCode p 31
  else match hamFix (s.par.cs.get 0#184 (k * 4096 + p.parse.upc)) with
  | none => (s.markBad k p.parse.upc true).endCode p 31
  | some (w, _) =>
    match p.parse.wait with
    | some (_, n) =>
      let p := { p with parse := p.parse.tick 1 }
      s.holdOrGo p w (n + 1)
    | none =>
      let wtt := bitsOf w 133 124
      let late (n : Nat) : Bool := bitsOf w 53 50 = 5 && wtt ≠ 0 && wtt < p.parse.stall + n
      match p.ber (bitsOf w 53 50) (bitsOf w 45 30) (bitsOf w 65 61) with
      | .need _ => if late 1 then s.dropFind p w else s.stallParse p
      | .done q clocks ok found v =>
        if late clocks then s.dropFind p w else s.actWord p { p with parse := q } w clocks ok found v false

/-- R133-R154: lane `lane` of pipeline `k` executes one microword. -/
def execMicroword (k : Fin 2) (lane : Fin 64) (s : State) : Res :=
  match s.inLane k.val lane.val with
  | some p => .next (s.microword p)
  | none => .next s

/-- R137, R148: the word that holds in a lane reaches WTT clocks and proceeds with WTO true, unless its condition holds
before; a FIND that stalls for data is abandoned. -/
def execWaitTimeout (k : Fin 2) (lane : Fin 64) (s : State) : Res :=
  match s.inLane k.val lane.val with
  | none => .next s
  | some p =>
    match p.parse.wait, hamFix (s.par.cs.get 0#184 (k.val * 4096 + p.parse.upc)) with
    | some (_, n), some (w, _) =>
      .next (if s.waitOver p w then s.proceed { p with parse := p.parse.tick 1 } w false
        else s.proceed { p with parse := p.parse.tick (bitsOf w 133 124 - n) } w true)
    | none, some (w, _) =>
      match p.ber (bitsOf w 53 50) (bitsOf w 45 30) (bitsOf w 65 61) with
      | .need _ => .next (if bitsOf w 53 50 = 5 && bitsOf w 133 124 ≠ 0 && 0 < p.parse.stall then s.dropFind p w else s)
      | _ => .next s
    | _, none => .next s

/-- R139: a parse exceeds its limits. -/
def execParseLimit (k : Fin 2) (lane : Fin 64) (s : State) : Res :=
  match s.inLane k.val lane.val with
  | some p => .next (if p.parse.spent then s.limitParse p else s)
  | none => .next s

/-- R149, R174: the scan a parse started has completed, its bytes having arrived. -/
def execPatternScanDone (k : Fin 2) (lane : Fin 64) (s : State) : Res :=
  match s.inLane k.val lane.val with
  | none => .next s
  | some p =>
    match p.parse.scan with
    | some o =>
      if p.whole || o + 1024 ≤ p.bytes.length then .next (s.setPkt { p with parse := { p.parse with scanDone := true } })
      else .next s
    | none => .next s

/-- R134: the scrubber reads a word, in which the bits of `upsets` have changed since it was written or last scrubbed. -/
def execParCsScrub (k : Fin 2) (w : Fin 4096) (upsets : BitVec 184) (s : State) : Res :=
  let key := k.val * 4096 + w.val
  let cur := s.par.cs.get 0#184 key ^^^ upsets
  let put (s : State) (v : BitVec 184) : State := { s with par := { s.par with cs := s.par.cs.put 0#184 key v } }
  match hamFix cur with
  | none => .next (if s.par.bad.get false key then put s cur else (put s cur).markBad k.val w.val false)
  | some (_, false) => .next (put s cur)
  | some (d, true) =>
    let fixed := BitVec.ofNat 184 (d + hamCheck d * 2 ^ 176)
    .next (((put s fixed).countF .PAR_CS_CORR_CNT k.val).raise .PAR_W_CS_CORR k.val w.val k.val)

/-- PAR_CNT_CLR of a pipeline (R161): every counter of Table 06.12. -/
def State.clearPar (s : State) (k : Nat) : State :=
  let idx (c : Ctr) : List Nat := (List.range c.info.n2).map fun i => ctrKey c (k * c.info.n2 + i)
  let keys := (Ctr.ofBlock .PAR).flatMap idx
  { s with ctrs := s.ctrs.filter fun e => !keys.contains e.1 }

/-- R161. -/
def execParCntClr (src : Src) (k : Fin 2) (s : State) : Res := .next (s.guarded src .PAR fun s => s.clearPar k.val)

end Sys2Proof.Machine
end

