-- ==== Sys2Proof/Machine/Classify.lean ====
section
/-! DEFINITION. The classifier (spec/07): rule lookup, verdicts, fragments, the slow path, editions and their commands. -/

namespace Sys2Proof.Machine

open Sys2Proof

/-! ### The key and the rules (R163-R168) -/

/-- CLS_CAP_MODE is compact. -/
def State.compact (s : State) : Bool := !s.rb .CLS_CAP_MODE

/-- Rules per bank (Table 07.1). -/
def State.ruleCap (s : State) : Nat := if s.compact then 16384 else 20480

/-- A field of the action word. -/
def actBits (a : BitVec 64) (hi lo : Nat) : Nat := bitsOf a.toNat hi lo

/-- Concatenation of fields of given widths, most significant first. -/
def packBits (l : List (Nat × Nat)) : Nat := l.foldl (fun a e => a * 2 ^ e.1 + e.2 % 2 ^ e.1) 0

/-- The 384-bit classifier key (R165, R166, Table 07.2). -/
def State.clsKey (s : State) (p : Packet) (bk : Bank) (rcd : List Byte) (fragV : Nat) : BitVec 384 :=
  let b2n (b : Bool) : Nat := if b then 1 else 0
  let hits := match p.parse.scan with
    | some o => scanHits bk.ed.pats p.bytes o
    | none => []
  let groups := hits.foldl (fun a e => Nat.lor a (2 ^ e.2.group)) 0
  let info := packBits
    [(6, p.src), (5, p.parse.cls), (4, p.parse.mark), (3, p.tc), (2, p.dp), (8, p.parse.uf), (1, b2n p.redTag),
     (1, b2n p.express), (1, b2n !hits.isEmpty), (11, (hits.head?.map (·.1)).getD 0), (8, groups), (1, b2n (p.pass = 2)),
     (1, b2n p.detached), (1, b2n p.resumed), (2, fragV), (9, 0)]
  let sels := (bk.ed.profs[p.parse.cls]?).getD []
  let bytes := sels.flatMap fun n => if n = 0xFF then List.replicate 4 0#8 else (rcd.drop (4 * n)).take 4
  let _ := s
  BitVec.ofNat 384 (info * 2 ^ 320 + beNat bytes % 2 ^ 320)

/-- Index and action of the winning rule: the lowest that matches and is not disabled (R167, R169). -/
def winner (bk : Bank) (key : BitVec 384) : Option (Nat × BitVec 64) :=
  (((List.range bk.ed.rules.length).zip bk.ed.rules).find? fun e =>
    (key ^^^ e.2.value) &&& e.2.mask == 0#384 && !bk.off.get false e.1).map fun e => (e.1, e.2.act)

/-- Count a match: of a rule in its bank's hit counter, or of the default action (R167). -/
def State.countRule (s : State) (b : Bool) (rule : Option Nat) : State :=
  match rule with
  | some i => let bk := s.bank b; s.setBank b { bk with hits := bk.hits.upd 0#64 i (· + 1#64) }
  | none => s.bump .CLS_CNT_DEFAULT

/-! ### Fragments (R175-R180) -/

/-- Key of the fragment decision table. -/
def fragKey (r : List Byte) : List Byte := (r.drop 20).take 32 ++ (r.drop 19).take 1 ++ (r.drop 58).take 4

/-- Set of a key: the mixer of R196 under the fragment seed (notes/assumptions/14.md). -/
def State.fragSet (s : State) (key : List Byte) : Nat := (mixBytes s.cls.fragSeed key).1.toNat % 1024

/-- The entry of a key. -/
def State.fragFind (s : State) (key : List Byte) : Option (Nat × Frag) :=
  let b := s.fragSet key * 4
  s.cls.frags.find? fun e => b ≤ e.1 && e.1 < b + 4 && e.2.key == key

/-- A first fragment's final classification creates its entry (R176). -/
def State.fragCreate (s : State) (p : Packet) (rcd : List Byte) (rule : Option Nat) (act : BitVec 64) : State :=
  match p.tag with
  | none => s
  | some (b, num) =>
    let key := fragKey rcd
    let f : Frag := { key := key, bankB := b, num := num, rule := rule, act := act, ports := (rcd.drop 52).take 4, time := s.tim.now }
    let base := s.fragSet key * 4
    let slot := match s.fragFind key with
      | some (i, _) => some i
      | none => ((List.range 4).map (base + ·)).find? fun i => (s.cls.frags.find i).isNone
    match slot with
    | some i => { s with cls := { s.cls with frags := s.cls.frags.set i f } }
    | none => (s.bump .CLS_CNT_FRAG_FULL).raiseLimited .CLS_W_FRAG_FULL 0 ms1

/-! ### Verdicts (R168-R173) -/

/-- A packet sent to port 62. -/
def State.toDiscard (s : State) (p : Packet) : State := s.dropPkt p

/-- A buffer for a packet that leaves the path early (R295): the one it holds, or a grant to its pipeline. -/
def State.ensureBuf (s : State) (p : Packet) : State × Option Nat :=
  match p.buf with
  | some h => (s, some h)
  | none => s.request (6 ≤ p.tc) (if p.whole then some (p.bytes.length + 4) else none) (ownPipe p.pipe) p.bytes (some p)

/-- A packet is parked under verdict 3 or 4, or dropped (R171). Parking never waits: with no buffer the packet goes to port 62
under the pool counters of Table 11.2. -/
def State.park (s : State) (p : Packet) (act : BitVec 64) : State :=
  let verdict := actBits act 63 61
  match s.ensureBuf p with
  | (s, none) =>
    let s := if 6 ≤ p.tc then (s.bump .SWC_CNT_ESC_DROP).raiseLimited .SWC_E_ESCAPE 0 ms1 else s.bump .SWC_CNT_POOL_DROP
    s.toDiscard p
  | (s, some h) =>
    let p := { p with buf := some h }
    let s := s.setPkt p
    let (s, ok) := if verdict = 3 then
        let t : Token := { tmpl := actBits act 45 32, pos := 0, tag := s.nsec, isBuf := true, pin := 31, grat := none,
                           value := h + actBits act 31 16 * 2 ^ 20 + p.src * 2 ^ 36 + p.pipe * 2 ^ 42 }
        let (e, s) := s.sendTok t
        (s, e.isNone)
      else s.parkToRing (actBits act 43 32) p h
    if !ok then ((s.bump .CLS_CNT_SLOW_DROP).raiseLimited .CLS_E_SLOW_FULL 0 ms1).toDiscard p
    else
      let (s, _) := s.handover h (ownPipe p.pipe) ownSlow
      let p := { p with stage := .parked, parkedAt := s.freeNs, parkOwner := if verdict = 4 then ownHost (actBits act 43 42) else 0 }
      (s.bump .CLS_CNT_SLOW).setPkt p

/-- A packet goes round through port 61 (R170). -/
def State.recirc (s : State) (p : Packet) : State :=
  if p.pass = 2 then ((s.bump .CLS_CNT_RECIRC_LIMIT).raiseLimited .CLS_E_RECIRC_LIMIT 0 ms1).toDiscard p
  else (s.bump .CLS_CNT_RECIRC).setPkt { p.reenters 4 2 with stage := .fifo }

/-- The action word acts (R168): the class, then the verdict; a final one ends the packet's count (R185), and so does the end
of a lookup that the drain bound met (R189). -/
def State.applyAct (s : State) (p : Packet) (act : BitVec 64) (rule : Option Nat) (rcd : List Byte) (first : Bool) : State :=
  let p := { p with act := act, tc := if actBits act 60 60 = 1 then actBits act 59 57 else p.tc }
  let verdict := actBits act 63 61
  let s := if first && s.compact && verdict ≤ 1 then s.fragCreate p rcd rule act else s
  let (s, p) := if p.due then (let (s, p) := s.leaveBank p; (s, { p with tag := none })) else (s, p)
  match verdict with
  | 0 =>
    let (s, p) := s.leaveBank p
    let ses := if actBits act 53 53 = 1 then 2 ^ actBits act 52 50 else 0
    s.setPkt { p with stage := .forward, insets := Nat.lor p.insets ses }
  | 1 => (s.bump .CLS_CNT_DENY).toDiscard p
  | 2 => s.recirc p
  | 3 | 4 => s.park p act
  | _ => s.toDiscard p

/-- Step 4 for a packet (R163-R180). -/
def State.classify (s : State) (p : Packet) : State :=
  match p.tag with
  | none => s.toDiscard p
  | some (b, num) =>
    let rcd := p.parse.slot 5
    let fb := beAt rcd 57 1
    let first := bitOf fb 0 && bitOf fb 1
    let non := bitOf fb 0 && !bitOf fb 1
    let byRules (s : State) (v : Nat) : State :=
      let bk := s.bank b
      let w := winner bk (s.clsKey p bk rcd v)
      let s := (s.bump .CLS_CNT_LOOKUP).countRule b (w.map (·.1))
      s.applyAct { p with frag := v } ((w.map (·.2)).getD bk.ed.dflt) (w.map (·.1)) rcd first
    if non && s.compact then
      match s.fragFind (fragKey rcd) with
      | some (i, f) =>
        let s := if bitOf fb 2 then { s with cls := { s.cls with frags := s.cls.frags.erase i } } else s
        if f.bankB == b && f.num == num then
          let s := (s.bump .CLS_CNT_FRAG_HIT).countRule b f.rule
          s.applyAct { p with frag := 2, fragPorts := f.ports } f.act f.rule rcd false
        else byRules (s.bump .CLS_CNT_FRAG_STALE) 3
      | none => byRules (s.bump .CLS_CNT_FRAG_UNRES) 3
    else byRules s (if non then 3 else if first then 1 else 0)

/-- A packet may leave its sequencer: every packet that entered before it has left, but for an express packet passing others
(R131). -/
def State.mayLeave (s : State) (p : Packet) : Bool :=
  !s.pkts.any fun q => q.pipe == p.pipe && q.entered < p.entered && q.id != p.id && !(p.express && !q.express) &&
    (q.stage == .classify || q.stage == .restart || match q.stage with | .lane _ => true | _ => false)

/-- R163: the lookup of the next packet of pipeline `k`, express or not. A park waits until the frame is whole (R20), a
lookup until a started scan has its bytes. -/
def execClassify (k : Fin 2) (express : Bool) (s : State) : Res :=
  match s.pkts.find? fun p => p.pipe == k.val && p.stage == .classify && p.express == express && s.mayLeave p with
  | none => .next s
  | some p =>
    let scanOk := match p.parse.scan with
      | some o => p.whole || o + 1024 ≤ p.bytes.length
      | none => true
    let t := s.classify p
    let parks := (t.pkts.any fun q => q.id == p.id && q.stage == .parked) && !p.whole
    if !scanOk || parks then .next s else .next t

/-- R173: 100 µs after a park. -/
def execParkDetach (id : Nat) (s : State) : Res :=
  match s.pkt id with
  | some p =>
    if p.stage == .parked && !p.due then
      let (s, p) := s.detach p
      .next (s.setPkt p)
    else .next s
  | none => .next s

/-- R177: CLS_FRAG_TMO_MS after the creation of entry `i`. -/
def execFragmentTimeout (i : Fin 4096) (s : State) : Res :=
  match s.cls.frags.find i.val with
  | some _ => .next ({ s with cls := { s.cls with frags := s.cls.frags.erase i.val } }.bump .CLS_CNT_FRAG_EXPIRED)
  | none => .next s

/-- CLS_RULE_BAD and CLS_RULE_ERR once bank `b` is installed again (R169): they show a rule of the other bank that is still
disabled, the recorded one or else, as DESIGN CHOICE (notes/assumptions/30.md), that of the lowest index. -/
def State.ruleErrAfter (s : State) (b : Bool) : State :=
  match ((s.bank (!b)).off.filter fun e => e.2).head? with
  | none => (((s.setB .CLS_RULE_BAD 0 false).setB .CLS_RULE_BAD_VALID 0 false).setB .CLS_RULE_BAD_BANK 0 false).setN .CLS_RULE_BAD_IDX 0 0
  | some e =>
    if s.rb .CLS_RULE_BAD_BANK != b then s
    else (s.setB .CLS_RULE_BAD_BANK 0 (!b)).setN .CLS_RULE_BAD_IDX 0 e.1

/-- R169: the scrubber checks a rule; `upset` is what it finds: 0 nothing, 1 a single-bit error, else uncorrectable. -/
def execRuleScrub (bankB : Bool) (i : Fin 20480) (upset : BitVec 2) (s : State) : Res :=
  let bk := s.bank bankB
  let i := i.val
  if bk.ed.rules.length ≤ i || upset = 0 then .next s
  else if upset = 1 then .next ((s.countF .CLS_RULE_CORR_CNT).raise .CLS_W_RULE_CORR (bankCode bankB) i)
  else if bk.off.get false i then .next s
  else
    let s := (s.setBank bankB { bk with off := bk.off.put false i true }).setB .CLS_RULE_BAD 0 true
    let s := if s.rb .CLS_RULE_BAD_VALID then s
      else ((s.setB .CLS_RULE_BAD_VALID 0 true).setB .CLS_RULE_BAD_BANK 0 bankB).setN .CLS_RULE_BAD_IDX 0 i
    .next (s.raise .CLS_E_RULE_UNCORR (bankCode bankB) i)

/-! ### Editions (R181-R190) -/

/-- CLS_CMD_OUT codes. -/
def cmdIdle : Nat := 0
def cmdBusy : Nat := 1
def cmdDone : Nat := 2
def cmdLate : Nat := 3
def cmdAborted : Nat := 4
def cmdPending : Nat := 5
def cmdRefused : Nat := 6

/-- A write of CLS_CFG (R164). -/
def State.wrClsCfg (s : State) (v : BitVec 32) : State :=
  let full := bitOf v.toNat 8
  let change := full != s.rb .CLS_CAP_MODE
  if change && !(s.mod.mode == .load && s.cls.a.st == .empty && s.cls.b.st == .empty) then
    (s.setB .CLS_EVT_CMD_ERR 0 true).raise .CLS_E_CAP
  else (s.setB .CLS_CAP_MODE 0 full).setN .CLS_FRAG_TMO_MS 0 (v.toNat % 256)

/-- R164. -/
def execClsCfg (src : Src) (v : BitVec 32) (s : State) : Res := .next (s.guarded src .CLS fun s => s.wrClsCfg v)

/-- An edition command is refused; while one is in progress its outcome and operation stay shown (R186, R505). -/
def State.clsRefuse (s : State) (op : Nat) (e : Ev) : State :=
  let s := (s.setN .CLS_CMD_ERR 0 e.code).raise e
  if s.rn .CLS_CMD_OUT = cmdBusy || s.rn .CLS_CMD_OUT = cmdPending then s
  else (s.setN .CLS_CMD_OUT 0 cmdRefused).setN .CLS_CMD_LAST_OP 0 op

/-- The outcome of a command. -/
def State.clsOut (s : State) (op out : Nat) : State :=
  (s.setN .CLS_CMD_OUT 0 out).setN .CLS_CMD_LAST_OP 0 op

/-- The bank that is not current; A before the first commit. -/
def State.otherBank (s : State) : Bool := match s.cls.live with
  | some b => !b
  | none => false

/-- A command in progress. -/
def State.clsBusy (s : State) : Bool := s.rn .CLS_CMD_OUT = cmdBusy || s.rn .CLS_CMD_OUT = cmdPending

/-- STAGE (Table 07.6). -/
def State.clsStage (s : State) (src : Src) : State :=
  let bk := s.bank s.otherBank
  if s.clsBusy || s.cls.waitPack.isSome || bk.st == .installing || bk.st == .staged then s.clsRefuse 1 .CLS_E_BUSY
  else ({ s with cls := { s.cls with stage := some (src, s.rn .CLS_CMD_ADDR, s.imageMode src 5) } }).clsOut 1 cmdBusy

/-- R186. -/
def execClsStage (src : Src) (s : State) : Res := .next (s.guarded src .CLS fun s => s.clsStage src)

/-- The pack a COMMIT acts on: waiting, installing or staged. -/
def State.commitPack (s : State) : Option Edition :=
  let bk := s.bank s.otherBank
  match s.cls.waitPack with
  | some e => some e
  | none => if bk.st == .installing || bk.st == .staged then some bk.ed else none

/-- COMMIT (Table 07.6). -/
def State.clsCommit (s : State) (ed : Nat) : State :=
  let s := s.setN .CLS_CMD_ED 0 ed
  if s.clsBusy then s.clsRefuse 2 .CLS_E_BUSY else
  match s.commitPack with
  | none => s.clsRefuse 2 .CLS_E_NOT_STAGED
  | some e =>
    let clash (b : Bool) : Bool := ((s.bank b).st == .live || (s.bank b).st == .draining) && (s.bank b).ed.num == ed
    if e.num ≠ ed || clash false || clash true then s.clsRefuse 2 .CLS_E_EDITION
    else ({ s with cls := { s.cls with pend := true } }).clsOut 2 cmdPending

/-- R186. -/
def execClsCommit (src : Src) (ed : BitVec 8) (s : State) : Res := .next (s.guarded src .CLS fun s => s.clsCommit ed.toNat)

/-- ABORT (R188): of the STAGE or COMMIT in progress; the pack of a COMMIT stays waiting or staged. The outcome replaces
a code that a busy refusal recorded (R505). -/
def State.clsAbort (s : State) : State :=
  if s.cls.pend then ({ s with cls := { s.cls with pend := false } }.setN .CLS_CMD_ERR 0 0).clsOut 2 cmdAborted
  else if s.cls.stage.isSome then ({ s with cls := { s.cls with stage := none } }.setN .CLS_CMD_ERR 0 0).clsOut 1 cmdAborted
  else s

/-- R188. -/
def execClsAbort (src : Src) (s : State) : Res := .next (s.guarded src .CLS fun s => s.clsAbort)

/-- DISCARD (Table 07.6): the waiting pack, or the installing or staged bank. -/
def State.clsDiscard (s : State) : State :=
  let bk := s.bank s.otherBank
  if s.clsBusy || s.cls.pend then s.clsRefuse 4 .CLS_E_BUSY
  else if s.cls.waitPack.isSome then ({ s with cls := { s.cls with waitPack := none } }).clsOut 4 cmdDone
  else if bk.st == .installing || bk.st == .staged then (s.setBank s.otherBank { Bank.none with off := bk.off }).clsOut 4 cmdDone
  else s.clsRefuse 4 .CLS_E_BUSY

/-- R186. -/
def execClsDiscard (src : Src) (s : State) : Res := .next (s.guarded src .CLS fun s => s.clsDiscard)

/-- Consecutive slices of `n` bytes. -/
def slicesOf (n : Nat) : Nat → List Byte → List (List Byte)
  | 0, _ => []
  | k + 1, l => l.take n :: slicesOf n k (l.drop n)

/-- An action word a pack may carry (R182). -/
def actOk (a : BitVec 64) : Bool :=
  let v := actBits a 63 61
  v ≤ 4 && actBits a 55 54 ≠ 3 && actBits a 49 48 = 0 && actBits a 15 0 = 0 &&
    (v ≠ 3 || actBits a 47 32 ≤ 16383) && (v ≠ 4 || actBits a 47 32 ≤ 4095)

/-- The pack of a payload, none where R182 refuses it. -/
def State.readPack (s : State) (i : Image) : Option Edition :=
  let l := i.payload
  let f (o n : Nat) : Nat := hdr l o n
  let nr := f 8 4
  let np := f 12 4
  if l.length < 344 || f 0 4 ≠ 0x4B504445 || f 4 1 ≠ s.rn .CLS_CAP_MODE || f 5 1 ≠ i.load || 2 ≤ f 6 1 || f 7 1 ≠ 0 ||
      s.ruleCap < nr || 2048 < np || l.length < 344 + 104 * nr + 72 * np then none
  else
    let profs := (slicesOf 10 32 (l.drop 24)).map fun p => p.map (·.toNat)
    let rules := (slicesOf 104 nr (l.drop 344)).map fun r =>
      ({ value := BitVec.ofNat 384 (beNat (r.take 48)), mask := BitVec.ofNat 384 (beNat ((r.drop 48).take 48)),
         act := BitVec.ofNat 64 (hdr r 96 8) } : Rule)
    let raw := slicesOf 72 np (l.drop (344 + 104 * nr))
    let okPat (p : List Byte) : Bool :=
      let n := hdr p 0 1
      1 ≤ n && n ≤ 64 && hdr p 1 1 < 16 && hdr p 2 2 ≤ hdr p 4 2 && hdr p 2 2 + n ≤ 1024 && hdr p 6 2 = 0 &&
        (p.drop (8 + n)).all (· == 0#8)
    let pats := raw.map fun p =>
      ({ caseless := bitOf (hdr p 1 1) 0, group := bitsOf (hdr p 1 1) 3 1, minOff := hdr p 2 2, maxOff := hdr p 4 2,
         bytes := (p.drop 8).take (hdr p 0 1) } : Pat)
    let dflt := BitVec.ofNat 64 (f 16 8)
    if (profs.all fun p => p.all fun n => n < 24 || n = 0xFF) && actOk dflt && (rules.all fun r => actOk r.act) &&
        raw.all okPat && (l.drop (344 + 104 * nr + 72 * np)).all (· == 0#8) then
      some { num := i.load, reseed := f 6 1 = 1, dflt := dflt, profs := profs, rules := rules, pats := pats }
    else none

/-- R186, R188: the pack has been read, checked and copied. `abortNow` says that an ABORT is sampled in that clock. -/
def execStageComplete (abortNow : Bool) (s : State) : Res :=
  match s.cls.stage with
  | none => .next s
  | some (src, addr, may) =>
    let s := { s with cls := { s.cls with stage := none } }
    let fail (s : State) (e : Ev) : State := (((s.setN .CLS_CMD_ERR 0 e.code).raise e).setB .CLS_EVT_CMD_ERR 0 true).clsOut 1 cmdRefused
    match s.verify src addr (· == 5) (fun _ => may) with
    | (.inr e, s) => .next (fail s e)
    | (.inl i, s) =>
      match s.readPack i with
      | none => .next (fail s .CLS_E_PACK)
      | some e =>
        let s := s.hbmPut stageBase i.payload
        let s := { s with cls := { s.cls with waitPack := some e } }
        .next ((s.setN .CLS_CMD_ERR 0 0).clsOut 1 (if abortNow then cmdLate else cmdDone))

/-- R184: a waiting pack begins installing once the bank that is not current is EMPTY. -/
def execInstallStart (s : State) : Res :=
  let b := s.otherBank
  match s.cls.waitPack with
  | some e =>
    if (s.bank b).st == .empty then
      let s := { s with cls := { s.cls with waitPack := none } }
      .next ((s.setBank b { Bank.none with st := .installing, ed := e }).ruleErrAfter b)
    else .next s
  | none => .next s

/-- R184: the automaton is built and the bank becomes STAGED. -/
def execInstallDone (s : State) : Res :=
  let b := s.otherBank
  let bk := s.bank b
  if bk.st == .installing then .next ((s.setBank b { bk with st := .staged }).raise .CLS_I_STAGED (bankCode b * 256 + bk.ed.num))
  else .next s

/-- The banks at a switch: the staged one is live, the live one drains (R187, R189). -/
def State.switchBanks (s : State) : State :=
  let t := match s.cls.live with
    | some o => s.setBank o { s.bank o with st := .draining }
    | none => s
  let t := t.setBank s.otherBank { s.bank s.otherBank with st := .live }
  { t with cls := { t.cls with live := some s.otherBank, pend := false, switchAt := s.freeNs } }

/-- A switch with the commit's outcome and event (R187, R188). -/
def State.switched (s : State) (late : Bool) : State :=
  let k := s.bank s.otherBank
  let t := if k.ed.reseed then s.switchBanks.reseedLb else s.switchBanks
  ((t.setN .CLS_CMD_ERR 0 0).clsOut 2 (if late then cmdLate else cmdDone)).raise .CLS_I_COMMITTED (bankCode s.otherBank * 256 + k.ed.num)

/-- R187, R188: an accepted commit switches once its bank is STAGED. `abortNow` says that an ABORT is sampled in the
switch clock. -/
def execEditionSwitch (abortNow : Bool) (s : State) : Res :=
  if !s.cls.pend || (s.bank s.otherBank).st != .staged then .next s
  else .next (match s.cls.live with
    | some o => (s.switched abortNow).bankDrained o
    | none => s.switched abortNow)

/-- R189: 100 µs after a switch, every packet still counted in the draining bank becomes edition-detached; one inside its
lookup completes it under its tag first. -/
def execEditionDrainBound (s : State) : Res :=
  match (if s.cls.a.st == .draining then some false else if s.cls.b.st == .draining then some true else none) with
  | none => .next s
  | some b =>
    let mine := s.pkts.filter fun p => p.counted && (p.tag.map (·.1)) == some b && !p.due
    .next (mine.foldl (fun s p =>
      let s := s.raiseLimited .CLS_W_DETACHED 0 ms1
      if p.stage == .classify then (s.bump .CLS_CNT_DETACHED).setPkt { p with due := true } else
      let (s, p) := s.detach p
      if p.stage == .parked then s.setPkt p
      else
        let s := { s with par := { s.par with restartQ := s.par.restartQ.put [] p.pipe ((s.par.restartQ.get [] p.pipe).filter (· != p.id)) } }
        let p := p.reenters 6 1
        match p.stage with
        | .lane n => s.takeLane p n
        | _ => s.setPkt { p with stage := .fifo }) s)

/-- R193. -/
def execClsCntClr (src : Src) (s : State) : Res := .next (s.guarded src .CLS fun s => s.clearBlockCtrs .CLS)

end Sys2Proof.Machine
end

