-- ==== Sys2Proof/Machine/Health.lean ====
section
/-! DEFINITION. Health (spec/18 R487-R492): retirements, the capacity statement and REPLACE_N. -/

namespace Sys2Proof.Machine

open Sys2Proof

/-- Number of retirement flags set among `n` from `a`. -/
def State.retiredIn (s : State) (a n : Nat) : Nat := ((List.range' a n).filter fun i => s.fus.retired.get false i).length

/-- The capacity statement is rewritten (R491, Table 18.4): fields, sequence number and event. -/
def State.restate (s : State) : State :=
  let cl := s.retiredIn 0 24
  let hs := s.retiredIn 24 32
  let ge := s.retiredIn 56 16
  let s := (((s.setN .HEA_CAP_ENGINES 0 (192 - 8 * cl)).setN .HEA_CAP_CLUSTERS 0 (24 - cl)).setN .HEA_CAP_LANES 0 (32 - hs)).setN .HEA_CAP_GE 0 (16 - ge)
  let s := ((s.setN .HEA_CAP_CLK 0 (coreCap s.pwr.phases)).setN .HEA_CAP_GBPS 0 (25 * (32 - hs) + (16 - ge))).setN .HEA_CAP_SPARE 0 (s.rn .MEM_SPARE_FREE)
  let s := ((s.setN .HEA_CAP_RMP 0 (s.rn .MEM_RMP_FREE)).setN .HEA_CAP_NOSPARE 0 (s.rn .MEM_BANK_NOSPARE)).setN .HEA_CAP_TIME 0 s.sec
  (s.setN .HEA_CAP_SEQ 0 ((s.rn .HEA_CAP_SEQ + 1) % 65536)).raise .HEA_I_CAPACITY

/-- The bits of HEA_CAUSE as the thresholds give them (R490); bit 0 is HEA_C_BURN. -/
def State.causeBits (s : State) : List (Field × Bool) :=
  let at0 (th n : Nat) : Bool := th != 0 && th ≤ n
  [(.HEA_C_SPARE, s.rn .HEA_TH_SPARE != 0 && s.rn .MEM_SPARE_FREE ≤ s.rn .HEA_TH_SPARE),
   (.HEA_C_RMP, s.rn .HEA_TH_RMP != 0 && s.rn .MEM_RMP_FREE ≤ s.rn .HEA_TH_RMP),
   (.HEA_C_CLUSTER, at0 (s.rn .HEA_TH_CL) (s.retiredIn 0 24)),
   (.HEA_C_LANE, at0 (s.rn .HEA_TH_LANE) (s.retiredIn 24 48)),
   (.HEA_C_PHASE, at0 (s.rn .HEA_TH_PHASE) (s.retiredIn 72 24)),
   (.HEA_C_BURN, s.rb .HEA_C_BURN)]

/-- HEA_CAUSE as a word. -/
def State.causeWord (s : State) : Nat :=
  s.rn .HEA_C_BURN + 2 * s.rn .HEA_C_SPARE + 4 * s.rn .HEA_C_RMP + 8 * s.rn .HEA_C_CLUSTER + 16 * s.rn .HEA_C_LANE + 32 * s.rn .HEA_C_PHASE

/-- HEA_CAUSE and REPLACE_N are evaluated; HEA_W_REPLACE is raised whenever a bit sets (R490). -/
def State.evalReplace (s : State) : State :=
  let bits := s.causeBits
  let news := bits.any fun b => b.2 && !s.rb b.1
  let on (f : Field) : Bool := bits.any fun b => b.1 == f && b.2
  let s := ((s.setB .HEA_C_SPARE 0 (on .HEA_C_SPARE)).setB .HEA_C_RMP 0 (on .HEA_C_RMP)).setB .HEA_C_CLUSTER 0 (on .HEA_C_CLUSTER)
  let s := (s.setB .HEA_C_LANE 0 (on .HEA_C_LANE)).setB .HEA_C_PHASE 0 (on .HEA_C_PHASE)
  let s := s.setB .HEA_REPLACE 0 (bits.any (·.2))
  if news then s.raise .HEA_W_REPLACE s.causeWord else s

/-- A retirement sets its flag at once and awaits burning (R489), and the statement follows (R491). -/
def State.setRetired (s : State) (i : Nat) : State :=
  let s := { s with fus := { s.fus with retired := s.fus.retired.put false i true, burn := s.fus.burn ++ [i] } }
  ((s.setB .HEA_BURN_PEND 0 true).restate).evalReplace

/-- Retirement of engine cluster `c` (R488). -/
def State.retireCluster (s : State) (c : Nat) : State :=
  if s.clRetired c then s else
  let s := s.onClusterRetired c
  let s := ((s.toDom c dsOff).setB .PWR_DOM_RETIRED c true).setReg .ENG_CL_RETIRED 0 (s.reg .ENG_CL_RETIRED ||| (1#32 <<< c))
  (((s.raise .HEA_E_CL_RETIRED c).setRetired c).settleRetention c).afterRetired c

/-- Cluster `c` has had HEA_CL_UNC_TH uncorrectable errors within an hour (Table 18.3): it retires. -/
def State.retireDue (s : State) (c : Nat) : State :=
  let th := s.rn .HEA_CL_UNC_TH
  if th ≠ 0 && th ≤ ((s.fus.clErrs.get [] c).filter fun t => s.freeNs ≤ t + 3600000000000).length then s.retireCluster c else s

/-- Ports that use lane `p` of a lane group (R106, Table 05.1): with mode 6 the four lanes from a multiple of four, with
mode 5 the two lanes from an even number, else the lane alone. -/
def State.portsOfLane (s : State) (p : Nat) : List Nat :=
  [p] ++ (if p < 32 && s.rn .PRT_MODE (p / 4 * 4) = 6 then [p / 4 * 4] else []) ++
    (if p < 32 && s.rn .PRT_MODE (p / 2 * 2) = 5 then [p / 2 * 2] else [])

/-- Retirement of the lane of port `p` (R488): every port that uses it goes link-down with PRT_EN forced to 0. -/
def State.retireLane (s : State) (p : Nat) : State :=
  if s.laneRetired p then s else
  let s := (s.portsOfLane p).foldl (fun s q => (s.setB .PRT_EN q false).linkDown q) s
  let s := (s.raise .HEA_E_LANE_RETIRED p).setRetired (24 + p)
  let d := if p < 32 then 24 + p / 4 else 32 + (p - 32) / 4
  if s.domRetired d then (s.setDom d dsOff).setB .PWR_DOM_RETIRED d true else s

/-- HEA_FATAL and the standing health cause of SAFE-HOLD follow the fatal sources of Table 18.3 (R487): the always-on SRAM, the
HBM stack, a rail below its operating minimum. -/
def State.evalFatal (s : State) : State :=
  let f := s.fus.aonErr || s.fus.stackHot || railFault s.pwr.phases
  { s.setB .HEA_FATAL 0 f with boot := { s.boot with safeHealth := f } }

/-- The retirement flags of the shadow: flag i at bit i of words 224 to 239 and of words 240 to 255 (R489). -/
def shadowFlag (m : SMap (BitVec 32)) (i : Nat) : Bool :=
  (m.get 0#32 (224 + i / 32)).getLsbD (i % 32) || (m.get 0#32 (240 + i / 32)).getLsbD (i % 32)

/-- The flags burned are restored at a shadow load (R61, R490): flags, phases, statement and REPLACE_N. -/
def State.loadHealth (s : State) : State :=
  let fl := (List.range 96).filter (shadowFlag s.fus.shadow)
  let s := { s with fus := { s.fus with retired := fl.map fun i => (i, true) },
                    pwr := { s.pwr with phases := BitVec.ofNat 24 ((fl.filter (72 ≤ ·)).foldl (fun a i => a + 2 ^ (i - 72)) 0) } }
  let s := (List.range 36).foldl (fun s d => if s.domRetired d then s.setB .PWR_DOM_RETIRED d true else s) s
  let s := s.setN .ENG_CL_RETIRED 0 ((fl.filter (· < 24)).foldl (fun a i => a + 2 ^ i) 0)
  s.restate.evalReplace.evalFatal

/-- The overlay bit of R61 reads 1 (R491), in RUN and ISOLATED only. -/
def State.reduced (s : State) : Bool :=
  forwards s.mod.mode &&
    (s.rn .HEA_CAP_ENGINES < 192 || s.rn .HEA_CAP_LANES < 32 || s.rn .HEA_CAP_GE < 16 || s.rn .HEA_CAP_CLK < 30)

end Sys2Proof.Machine
end

