-- ==== Sys2Proof/Machine/TblCmds.lean ====
section
/-! DEFINITION. What the TMS does with an entry of each target (spec/08 R212-R223): search, insertion, deletion, walks, routines, and table images (R208, R230). -/

namespace Sys2Proof.Machine

open Sys2Proof

/-- Seeds freeze at the first table operation (R199); the kept flow seed decides whether the buckets are cleared (R200). -/
def State.freeze (s : State) : State :=
  if s.rb .TBL_SEED_FROZEN then s else
  let s := s.setB .TBL_SEED_FROZEN 0 true
  if s.flowLive then { s with tbl := { s.tbl with seedFlow := s.tbl.keptFlow } }
  else if s.tbl.seedFlow != s.tbl.keptFlow && s.rb .MEM_INIT_FLAG then
    { s.clearFlows with tbl := { s.clearFlows.tbl with keptFlow := s.tbl.seedFlow } }.setB .TBL_FLOW_CLEARING 0 true
  else { s with tbl := { s.tbl with keptFlow := s.tbl.seedFlow } }

/-- All bytes are 0. -/
def zeros (l : List Byte) : Bool := l.all (· == 0#8)

/-- Used key bytes of a target (Table 08.6). -/
def keyLen : Nat → Nat
  | 1 => 8 | 2 => 2 | 3 => 2 | 4 => 5 | 5 => 17 | 6 => 66 | _ => 0

/-- Used data bytes of an INSERT. -/
def dataLen : Nat → Nat
  | 1 => 4 | 2 => 8 | 3 => 16 | 4 => 3 | 5 => 3 | 6 => 4 | _ => 0

/-- The key bytes are well formed for a target (R212). -/
def keyOk (tgt : Nat) (k : List Byte) : Bool :=
  zeros (k.drop (keyLen tgt)) && match tgt with
  | 1 => fget k 6 1 < 16
  | 3 => fget k 0 2 < 16384
  | 4 => fget k 4 1 ≤ 32
  | 5 => fget k 16 1 ≤ 128
  | 6 => fget k 64 1 < 16 && fget k 65 1 = 0
  | _ => true

/-- The data bytes of an INSERT are well formed for a target. -/
def dataOk (tgt : Nat) (d : List Byte) : Bool :=
  zeros (d.drop (dataLen tgt)) && match tgt with
  | 1 => fget d 0 1 < 4 && fget d 1 1 = 0 && (if bitOf (fget d 0 1) 1 then fget d 2 2 < 4096 else fget d 2 2 < 64)
  | 2 => bitsOf (fget d 0 8) 56 48 = 0
  | 3 => bitsOf (fget d 0 16) 100 96 = 0 && bitsOf (fget d 0 16) 47 0 = 0
  | 4 | 5 => fget d 0 2 < 16384 && fget d 2 1 ≤ 1
  | 6 => fget d 0 4 < 2 ^ 26
  | _ => true

/-- Width, prefix and length of a route key. -/
def routeKey (tgt : Nat) (k : List Byte) : Nat × Nat × Nat :=
  if tgt = 4 then (32, cutPfx 32 (beNat (k.take 4)) (fget k 4 1), fget k 4 1)
  else (128, cutPfx 128 (beNat (k.take 16)) (fget k 16 1), fget k 16 1)

/-- The routes of a trie, and its capacity. -/
def State.routes (s : State) (tgt : Nat) : SMap Route := if tgt = 4 then s.tbl.v4 else s.tbl.v6
def State.setRoutes (s : State) (tgt : Nat) (m : SMap Route) : State :=
  { s with tbl := if tgt = 4 then { s.tbl with v4 := m } else { s.tbl with v6 := m } }
def routeCap (tgt : Nat) : Nat := if tgt = 4 then 262144 else 65536

/-- A found entry: location in the encoding of R213, generation and data bytes. -/
structure Hit where
  loc  : Nat
  gen  : Nat
  data : List Byte
  key  : List Byte
  deriving DecidableEq, Repr

/-- Data bytes of an L2 entry, with the ages a SEARCH returns. -/
def l2Data (e : L2Ent) : List Byte :=
  leBytes 2 ((if e.static then 1 else 0) + (if e.grp then 2 else 0)) ++ leBytes 2 e.dst ++ leBytes 2 e.age0 ++ leBytes 2 e.age1

/-- Data bytes of a route. -/
def routeData (r : Route) : List Byte := leBytes 2 r.nh ++ [if r.drop then 1#8 else 0#8]

/-- The flow entry of a key: its location and slot (R240 with the record's own key). -/
def State.flowFind (s : State) (key : List Byte) : Option (Nat × FSlot) × State :=
  match s.flowMatch key 2 false with
  | (some l, s) => (l.find? fun e => s.sameKey (s.recordOf e.2.rcd) key, s)
  | (none, s) => (none, s)

/-- The location of a route is the device's (R213 states none). -/
def State.routeLoc (s : State) : Nat × State := let (f, s) := s.draw; (f.toNat % 2 ^ 32, s)

/-- The entry of a key (SEARCH). -/
def State.tblSearch (s : State) (tgt : Nat) (k : List Byte) : Option Hit × State :=
  match tgt with
  | 1 => ((s.l2Find (beNat (k.take 6)) (beNat ((k.drop 6).take 2))).map fun e => ⟨locCode l2Bits 4 e.1, e.2.gen, l2Data e.2, k⟩, s)
  | 2 =>
    let i := fget k 0 2
    let w := s.tbl.appid.get 0#64 i
    (if w.getLsbD 63 then some ⟨i, 0, leBytes 8 w.toNat, k⟩ else none, s)
  | 3 =>
    let i := fget k 0 2
    let w := s.tbl.nh.get 0#128 i
    (if w.getLsbD 127 then some ⟨i, 0, leBytes 16 w.toNat, k⟩ else none, s)
  | 6 =>
    match s.flowFind (k.take 66) with
    | (some (loc, f), s) =>
      let r := s.recordOf f.rcd
      (some ⟨locCode flBits 8 loc, fget r 68 4, leBytes 4 f.rcd ++ leBytes 2 (fget r 16 2), k⟩, s)
    | (none, s) => (none, s)
  | _ =>
    let (_, p, n) := routeKey tgt k
    match (s.routes tgt).find? fun e => e.2.pfx == p && e.2.len == n with
    | some (_, r) => let (l, s) := s.routeLoc; (some ⟨l, 0, routeData r, k⟩, s)
    | none => (none, s)

/-- An entry inserted, or the code of its refusal (INSERT, R214, R219, R258). -/
def State.tblInsert (s : State) (tgt origin : Nat) (k d : List Byte) (replace : Bool) : (Ev ⊕ (Nat × Nat)) × State :=
  match tgt with
  | 1 =>
    let fl := fget d 0 1
    let now := s.rn .TBL_AGE_NOW
    let e : L2Ent := { gen := 0, static := bitOf fl 0, grp := bitOf fl 1, origin := origin, dst := fget d 2 2, age0 := now,
                       age1 := now, mac := beNat (k.take 6), fid := beNat ((k.drop 6).take 2), fresh := false, copies := 3 }
    match s.l2Find e.mac e.fid with
    | some (loc, old) =>
      if !replace then (.inl .TBL_E_EXISTS, s)
      else
        let (g, s) := s.takeGen
        (.inr (locCode l2Bits 4 loc, g), s.setL2 loc { e with gen := g, fresh := old.fresh })
    | none =>
      match s.l2Insert e with
      | (some (loc, g), s) => (.inr (locCode l2Bits 4 loc, g), s)
      | (none, s) => (.inl .TBL_E_FULL, s)
  | 2 =>
    let i := fget k 0 2
    if !replace && (s.tbl.appid.get 0#64 i).getLsbD 63 then (.inl .TBL_E_EXISTS, s)
    else (.inr (i, 0), { s with tbl := { s.tbl with appid := s.tbl.appid.put 0#64 i (BitVec.ofNat 64 (fget d 0 8)) } })
  | 3 =>
    let i := fget k 0 2
    if !replace && (s.tbl.nh.get 0#128 i).getLsbD 127 then (.inl .TBL_E_EXISTS, s)
    else (.inr (i, 0), { s with tbl := { s.tbl with nh := s.tbl.nh.put 0#128 i (BitVec.ofNat 128 (fget d 0 16)) } })
  | 6 =>
    let key := k.take 66
    let r := fget d 0 4
    let rcd := s.recordOf r
    if !s.allocated r || bitOf (fget rcd 18 1) 7 || !s.sameKey rcd key then (.inl .TBL_E_ARG, s)
    else
      let link (s : State) (loc : Nat) : (Ev ⊕ (Nat × Nat)) × State :=
        let (g, s) := s.takeGen
        let hot := s.hotOf r
        let s := s.setHot r (fset hot 18 1 (fget hot 18 1 % 128 + 128))
        (.inr (locCode flBits 8 loc, g), s.hbmPut (128 * r + 68) (leBytes 4 g))
      match s.flowFind key with
      | (some (loc, f), s) =>
        if !replace then (.inl .TBL_E_EXISTS, s)
        else link ((s.setLoc loc { f with rcd := r }).removeRec f.rcd) loc
      | (none, s) =>
        let ph := (lastSeed s.flowSeeds).1
        if (((s.flowMatch key 2 false).1.getD []).any fun e => e.2.phase == ph) then (.inl .TBL_E_SIG_CLASH, s)
        else
          let (plan, s) := s.flowPlan key
          match s.flowPlace key r plan with
          | (some loc, s) => link s loc
          | (none, s) => (.inl .TBL_E_FULL, s)
  | _ =>
    let (_, p, n) := routeKey tgt k
    let r : Route := { pfx := p, len := n, nh := fget d 0 2, drop := fget d 2 1 = 1 }
    let m := s.routes tgt
    match m.find? fun e => e.2.pfx == p && e.2.len == n with
    | some (i, _) =>
      if !replace then (.inl .TBL_E_EXISTS, s)
      else let (l, s) := s.routeLoc; (.inr (l, 0), s.setRoutes tgt (m.set i r))
    | none =>
      if routeCap tgt ≤ m.length then (.inl .TBL_E_FULL, s)
      else
        let i := ((List.range (m.length + 1)).find? fun i => (m.find i).isNone).getD 0
        let (l, s) := s.routeLoc
        (.inr (l, 0), s.setRoutes tgt (m.set i r))

/-- An entry removed, or the code of its refusal (DELETE, R223). `stamp` is the stamp of a conditional delete. -/
def State.tblDelete (s : State) (tgt : Nat) (k : List Byte) (stamp : Option Nat) : Option Ev × State :=
  match tgt with
  | 1 =>
    match s.l2Find (beNat (k.take 6)) (beNat ((k.drop 6).take 2)) with
    | none => (some .TBL_E_NOT_FOUND, s)
    | some (loc, e) =>
      if stamp.any fun x => x != s.l2Stamp e then (some .TBL_E_STAMP, s) else (none, s.dropL2 loc)
  | 2 =>
    let i := fget k 0 2
    if (s.tbl.appid.get 0#64 i).getLsbD 63 then (none, { s with tbl := { s.tbl with appid := s.tbl.appid.erase i } })
    else (some .TBL_E_NOT_FOUND, s)
  | 3 =>
    let i := fget k 0 2
    if (s.tbl.nh.get 0#128 i).getLsbD 127 then (none, { s with tbl := { s.tbl with nh := s.tbl.nh.erase i } })
    else (some .TBL_E_NOT_FOUND, s)
  | 6 =>
    match s.flowFind (k.take 66) with
    | (none, s) => (some .TBL_E_NOT_FOUND, s)
    | (some (loc, f), s) =>
      if stamp.any fun x => x != fget (s.hotOf f.rcd) 16 2 then (some .TBL_E_STAMP, s)
      else (none, (s.clearLoc loc).removeRec f.rcd)
  | _ =>
    let (_, p, n) := routeKey tgt k
    match (s.routes tgt).find? fun e => e.2.pfx == p && e.2.len == n with
    | some (i, _) => (none, s.setRoutes tgt ((s.routes tgt).erase i))
    | none => (some .TBL_E_NOT_FOUND, s)

/-! ### Walks (NEXT) -/

/-- The slots of the flow table in use, by position bucket * 8 + slot; stash positions follow the last bucket. -/
def State.flowSlots (s : State) : List (Nat × FSlot) :=
  let words := ((s.hbm.bytes.filter fun e => bucketBase ≤ e.1 && e.1 < stageBase).map fun e => e.1 / 8).eraseDups
  (words.filterMap fun w =>
    let o := w * 8 - bucketBase
    let pc := o / 64 % 32
    let b := pc / 16 * 2 ^ flBits + o / 2048 * 16 + pc % 16
    match s.slotAt (b * 8 + o / 8 % 8) with
    | some f => some (b * 8 + o / 8 % 8, f)
    | none => none) ++ s.tbl.stash.map fun e => (2 ^ 26 + e.1, e.2)

/-- Of a list by position, the first at or after `pos`. -/
def firstFrom {α : Type} (pos : Nat) (l : List (Nat × α)) : Option (Nat × α) :=
  (l.filter fun e => pos ≤ e.1).foldl (fun b e => match b with
    | some x => if e.1 < x.1 then some e else b
    | none => some e) none

/-- From this cursor on, a walk of a hashed target returns what relocations moved past it (R219). -/
def lateCur : Nat := 2 ^ 40

/-- The entry that a walk of a hashed target returns next, and its position: the first at or after the cursor, then those
in the table that it has not returned. -/
def walkNext {α : Type} (pos : Nat) (l : List (Nat × α)) (seen : α → Bool) : Option (Nat × Nat × α) :=
  match (if pos < lateCur then firstFrom pos l else none) with
  | some e => some (e.1 + 1, e)
  | none => (firstFrom 0 (l.filter fun e => !seen e.2)).map fun e => (lateCur, e)

/-- The next entry of a walk at a cursor: the cursor after it and the entry (R213, R219). `walked`: what it has returned. -/
def State.tblNext (s : State) (tgt pos : Nat) (walked : List (Nat × List Byte)) : Option (Nat × Hit) × State :=
  match tgt with
  | 1 => ((walkNext pos s.tbl.l2 fun e => walked.contains (1, l2Key e.mac e.fid)).map fun (q, e) =>
      (q, ⟨locCode l2Bits 4 e.1, e.2.gen, (l2Data e.2).take 4, l2Key e.2.mac e.2.fid⟩), s)
  | 2 => ((firstFrom pos (s.tbl.appid.filter fun e => e.2.getLsbD 63)).map fun e =>
      (e.1 + 1, ⟨e.1, 0, leBytes 8 e.2.toNat, leBytes 2 e.1⟩), s)
  | 3 => ((firstFrom pos (s.tbl.nh.filter fun e => e.2.getLsbD 127)).map fun e =>
      (e.1 + 1, ⟨e.1, 0, leBytes 16 e.2.toNat, leBytes 2 e.1⟩), s)
  | 6 =>
    match walkNext pos s.flowSlots fun f => walked.contains (6, s.unpackKey (s.recordOf f.rcd)) with
    | some (q, i, f) =>
      let s := (s.hbmRead (128 * f.rcd) 128 2).2
      let r := s.recordOf f.rcd
      (some (q, ⟨locCode flBits 8 (if 2 ^ 26 ≤ i then stashLoc (i - 2 ^ 26) else i), fget r 68 4, leBytes 4 f.rcd, s.unpackKey r⟩), s)
    | none => (none, s)
  | _ =>
    match firstFrom pos (s.routes tgt) with
    | some (i, r) =>
      let (l, s) := s.routeLoc
      (some (i + 1, ⟨l, 0, routeData r, (if tgt = 4 then beBytes 4 r.pfx else beBytes 16 r.pfx) ++ [BitVec.ofNat 8 r.len]⟩), s)
    | none => (none, s)

/-- A walk has returned an entry of a hashed target. -/
def State.noteWalked (s : State) (w tgt : Nat) (key : List Byte) : State :=
  if tgt = 1 || tgt = 6 then
    let x := s.win w
    s.setWin w { x with walked := if x.walked.contains (tgt, key) then x.walked else (tgt, key) :: x.walked }
  else s

/-- A NEXT record of 128 bytes (R213). -/
def nextRecord (h : Hit) : List Byte :=
  (h.key ++ List.replicate 80 0#8).take 80 ++ (h.data ++ List.replicate 32 0#8).take 32 ++ leBytes 4 h.gen ++ leBytes 4 h.loc ++
    List.replicate 8 0#8

/-! ### Routines of multi-step commands (R216, R225) -/

/-- How a routine leaves its command. -/
inductive Rout where
  | more (c : TCmd)
  | done (c : TCmd) (e : Option Ev)
  | stop (c : TCmd) (e : Ev)          -- ABORTED with its code and cursor
  deriving DecidableEq, Repr

/-- Buckets of a hashed target. -/
def bucketsOf (tgt : Nat) : Nat := if tgt = 1 then 65536 else 8388608

/-- An L2 entry that a flush or an age scan removes. -/
def State.l2Goes (s : State) (c : TCmd) (e : L2Ent) : Bool :=
  match c.op with
  | 5 => !e.grp && e.dst == c.arg && (bitOf c.fl 2 || !e.static)
  | 7 => !e.static && s.rn .TBL_AGE_LIM_L2 ≠ 0 && s.rn .TBL_AGE_LIM_L2 ≤ s.ageOf (s.l2Stamp e)
  | _ => true

/-- A flow that a flush or an age scan removes (R252). -/
def State.flowGoes (s : State) (c : TCmd) (r : Nat) : Bool :=
  let l := s.recordOf r
  match c.op with
  | 5 => fget l 65 1 % 64 == c.arg || (flAct l 31 29 = 1 && fget l 24 2 % 64 == c.arg)
  | 7 => s.rn .TBL_AGE_LIM_FLOW ≠ 0 && s.rn .TBL_AGE_LIM_FLOW ≤ s.ageOf (fget l 16 2)
  | _ => true

/-- One routine of a flush or an age scan: the matching entries of the bucket at the cursor. The cursor passes a bucket
that holds none; a slot refilled under R238 is visited again. -/
def State.sweep (s : State) (c : TCmd) : Rout × State :=
  if c.tgt = 1 then
    let hits := s.tbl.l2.filter fun e => e.1 / 4 == c.pos && s.l2Goes c e.2
    let s := hits.foldl (fun s e => s.dropL2 e.1) s
    let c := { c with pos := c.pos + 1, cnt := c.cnt + hits.length }
    (if c.pos = 65536 then .done c none else .more c, s)
  else if c.pos < 8388608 then
    match s.readBucket c.pos 2 with
    | (none, s) => (.more { c with pos := c.pos + 1 }, s)
    | (some v, s) =>
      let hits := ((List.range 8).zip v).filterMap fun e => match e.2 with
        | some f => if s.flowGoes c f.rcd then some (c.pos * 8 + e.1, f.rcd) else none
        | none => none
      let s := hits.foldl (fun s e => (s.clearLoc e.1).removeRec e.2) s
      (.more { c with pos := if hits.isEmpty then c.pos + 1 else c.pos, cnt := c.cnt + hits.length }, s)
  else
    let hits := s.tbl.stash.filter fun e => s.flowGoes c e.2.rcd
    let s := hits.foldl (fun s e => (s.clearLoc (stashLoc e.1)).removeRec e.2.rcd) s
    (.done { c with cnt := c.cnt + hits.length } none, s)

/-- FLUSH_ALL of an indexed target or a trie. -/
def State.flushFlat (s : State) (tgt : Nat) : Nat × State :=
  match tgt with
  | 2 => ((s.tbl.appid.filter fun e => e.2.getLsbD 63).length, { s with tbl := { s.tbl with appid := [] } })
  | 3 => ((s.tbl.nh.filter fun e => e.2.getLsbD 127).length, { s with tbl := { s.tbl with nh := [] } })
  | _ => ((s.routes tgt).length, s.setRoutes tgt [])

/-- One routine of a REHASH of the L2 table (R225). -/
def State.rehashL2 (s : State) (c : TCmd) : Rout × State :=
  match s.tbl.l2.find? fun e => e.1 / 4 == c.pos && !e.2.fresh with
  | some (loc, e) =>
    match s.l2Plan e.mac e.fid with
    | none => (.stop c .TBL_E_REHASH_FULL, s.insFail true)
    | some (ms, b, k) =>
      (.more { c with cnt := c.cnt + 1 }, ((s.runMoves ms).setL2 (b * 4 + k) { e with fresh := true }).dropL2 loc)
  | none =>
    if c.pos + 1 < 65536 then (.more { c with pos := c.pos + 1 }, s)
    else
      let t := { s.tbl with seedL2 := s.tbl.newL2, l2Live := none, l2 := s.tbl.l2.map fun e => (e.1, { e.2 with fresh := false }) }
      (.done { c with pos := c.pos + 1 } none, ({ s with tbl := t }.setB .TBL_REHASH_LIVE 0 false).raise .TBL_I_REHASH_DONE 1)

/-- Old-phase entry that a flow REHASH takes next: in the bucket at the cursor, then in the stash. -/
def State.oldFlow (s : State) (c : TCmd) : Option (Nat × FSlot) × State :=
  let old := s.rb .TBL_SEED_PHASE
  if c.pos < 8388608 then
    match s.readBucket c.pos 2 with
    | (some v, s) => (((List.range 8).zip v).findSome? fun e => match e.2 with
        | some f => if f.phase == old then some (c.pos * 8 + e.1, f) else none
        | none => none, s)
    | (none, s) => (none, s)
  else ((s.tbl.stash.find? fun e => e.2.phase == old).map fun e => (stashLoc e.1, e.2), s)

/-- The REHASH of the flow table commits (R225, R237). -/
def State.rehashDone (s : State) : State :=
  let s := { s with tbl := { s.tbl with seedFlow := s.tbl.newFlow, keptFlow := s.tbl.newFlow } }
  let s := (s.setB .TBL_SEED_PHASE 0 (!s.rb .TBL_SEED_PHASE)).setB .TBL_REHASH_CUR_VALID 0 false
  ((s.setN .TBL_REHASH_POS 0 0).setB .TBL_REHASH_LIVE 0 false).raise .TBL_I_REHASH_DONE 6

/-- One routine of a REHASH of the flow table (R225). -/
def State.rehashFlow (s : State) (c : TCmd) : Rout × State :=
  match s.oldFlow c with
  | (some (loc, f), s) =>
    let s := (s.hbmRead (128 * f.rcd) 128 2).2
    let key := s.unpackKey (s.recordOf f.rcd)
    let sd := lastSeed s.flowSeeds
    let cand := candOf flBits sd.2 key
    let new : FSlot := { sig := cand.1, phase := sd.1, rcd := f.rcd, i0 := cand.2.1 }
    let clash := ((s.flowMatch key 2 false).1.getD []).any fun e => e.2.phase == sd.1
    let (plan, s) := s.flowPlan key
    if clash then (.stop c .TBL_E_REHASH_FULL, s)
    else if plan.isNone && 2 ^ 31 ≤ loc then (.more { c with cnt := c.cnt + 1 }, (s.insFail false).setLoc loc new)
    else match s.flowPlace key f.rcd plan with
      | (some _, s) =>
        let s := if 2 ^ 31 ≤ loc then { s with tbl := { s.tbl with stash := s.tbl.stash.erase (loc - 2 ^ 31) } }
          else s.putSlot (loc / 8) (loc % 8) none
        (.more { c with cnt := c.cnt + 1 }, s)
      | (none, s) => (.stop c .TBL_E_REHASH_FULL, s)
  | (none, s) =>
    if c.pos < 8388608 then
      (.more { c with pos := c.pos + 1 }, s.setN .TBL_REHASH_POS 0 (c.pos + 1))
    else (.done c none, s.rehashDone)

/-- The moves of a REHASH routine: those that make room, then the entry's own from location `loc` (R217, R225). -/
def rehashMoves (l2 : Bool) (loc : Nat) (mig : Nat × Nat) (ms : List Move) (b k : Nat) : List Move :=
  let src := if 2 ^ 31 ≤ loc then (stashBucket, loc - 2 ^ 31) else (loc / (if l2 then 4 else 8), loc % (if l2 then 4 else 8))
  ms ++ [{ l2 := l2, srcB := src.1, srcS := src.2, dstB := b, dstS := k, copied := false, mig := some mig }]

/-- The moves of a flow REHASH routine that takes the slot `f` at `loc`: into a bucket, or from one into the stash. -/
def State.rehashFlowMoves (s : State) (loc : Nat) (f : FSlot) : List Move :=
  let key := s.unpackKey (s.recordOf f.rcd)
  let sd := lastSeed s.flowSeeds
  let cand := candOf flBits sd.2 key
  if ((s.flowMatch key 2 false).1.getD []).any fun e => e.2.phase == sd.1 then []
  else match (s.flowPlan key).1 with
    | some (ms, b, k) => rehashMoves false loc (cand.1, cand.2.1) ms b k
    | none =>
      if 2 ^ 31 ≤ loc then [] else
      match (List.range 64).find? fun p => (s.tbl.stash.find p).isNone with
      | some p => rehashMoves false loc (cand.1, cand.2.1) [] stashBucket p
      | none => []

/-- The moves of the routine in hand, where it makes any (R217). -/
def State.routineMoves (s : State) (c : TCmd) : List Move :=
  let planned (p : Option (List Move × Nat × Nat)) : List Move := (p.map (·.1)).getD []
  match c.op, c.tgt with
  | 3, 1 => if (s.l2Find (beNat (c.key.take 6)) (beNat ((c.key.drop 6).take 2))).isSome then []
      else planned (s.l2Plan (beNat (c.key.take 6)) (beNat ((c.key.drop 6).take 2)))
  | 3, 6 => if (s.flowFind (c.key.take 66)).1.isSome then [] else planned (s.flowPlan (c.key.take 66)).1
  | 8, 1 => match s.tbl.l2.find? fun e => e.1 / 4 == c.pos && !e.2.fresh with
    | some (loc, e) => match s.l2Plan e.mac e.fid with
      | some (ms, b, k) => rehashMoves true loc (0, 0) ms b k
      | none => []
    | none => []
  | 8, 6 => match (s.oldFlow c).1 with
    | some (loc, f) => s.rehashFlowMoves loc f
    | none => []
  | _, _ => []

/-- The window the TMS serves: in rotation (R211, R220). -/
def State.curWin (s : State) : Option (Nat × TCmd) :=
  ((List.range 5).map fun i => (s.tbl.turn + i) % 5).findSome? fun w => (s.win w).cmd.map fun c => (w, c)

/-- The TMS may run a routine of a target: microcode loaded, buckets not being cleared, free list rebuilt for flows. -/
def State.tmsRuns (s : State) (c : TCmd) : Bool :=
  s.boot.tmsLoaded && s.tbl.journal.isEmpty && !s.rb .TBL_FLOW_CLEARING && (c.tgt ≠ 6 || !s.rb .FLW_REBUILD)

/-- A routine is abandoned after `n` writes (R217). The clearing of a REHASH routine's own move is its commit word. -/
def State.haltRoutine (s : State) (c : TCmd) (n : Nat) : State :=
  let ms := s.routineMoves c
  (s.stopMoves ms (if c.op = 8 then min n (2 * ms.length - 1) else n)).bump .TBL_CNT_RESTART

/-- An ABORT or a warm reset meets the TMS (R216, R217): whether it is inside a routine of its current command, and how many
writes that has made, is left open, and free. -/
def State.breakRoutine (s : State) : State :=
  match s.curWin with
  | none => s
  | some (_, c) =>
    if !s.tmsRuns c then s else
    let (f, s) := s.draw
    if f.toNat % 2 = 0 then s else s.haltRoutine c (f.toNat / 2 % 32)

/-- One routine of a command of window `w` whose results go to `src` (R214, Table 08.7). -/
def State.routine (s : State) (w : Nat) (src : Src) (c : TCmd) : Rout × State :=
  let result (s : State) (h : Hit) : State :=
    let s := (s.setN .TBL_CMD_LOC w h.loc).setN .TBL_CMD_GEN w h.gen
    (List.range 8).foldl (fun s i => s.setN .TBL_CMD_DATA (w * 8 + i) (fget h.data (4 * i) 4)) s
  match c.op with
  | 1 =>
    if !keyOk c.tgt c.key then (.done c (some .TBL_E_ARG), s) else
    match s.tblSearch c.tgt c.key with
    | (some h, s) => (.done { c with cnt := 1 } none, result s h)
    | (none, s) => (.done c (some .TBL_E_NOT_FOUND), s)
  | 2 =>
    if c.arg = 0 || 4096 < c.arg || c.addr % 128 ≠ 0 || !s.windowOk src c.addr (128 * c.arg) then (.done c (some .TBL_E_ARG), s)
    else if c.pos = 2 ^ 64 - 1 then (.done c none, s)
    else match s.tblNext c.tgt c.pos (s.win w).walked with
      | (some (q, h), s) =>
        let s := ((s.windowWrite src (c.addr + 128 * c.cnt) (nextRecord h)).1).noteWalked w c.tgt h.key
        let c := { c with pos := q, cnt := c.cnt + 1 }
        (if c.cnt = c.arg then .done c none else .more c, s)
      | (none, s) => (.done { c with pos := 2 ^ 64 - 1 } none, s)
  | 3 =>
    if !keyOk c.tgt c.key || !dataOk c.tgt c.data then (.done c (some .TBL_E_ARG), s) else
    match s.tblInsert c.tgt 2 c.key c.data (bitOf c.fl 0) with
    | (.inr (loc, g), s) => (.done { c with cnt := 1 } none, (s.setN .TBL_CMD_LOC w loc).setN .TBL_CMD_GEN w g)
    | (.inl e, s) => (.done c (some e), s)
  | 4 =>
    if !keyOk c.tgt c.key then (.done c (some .TBL_E_ARG), s) else
    match s.tblDelete c.tgt c.key (if bitOf c.fl 1 then some (c.arg % 65536) else none) with
    | (none, s) => (.done { c with cnt := 1 } none, s)
    | (some e, s) => (.done c (some e), s)
  | 5 => if 47 < c.arg then (.done c (some .TBL_E_ARG), s) else s.sweep c
  | 6 =>
    if c.tgt = 1 || c.tgt = 6 then s.sweep c
    else let (n, s) := s.flushFlat c.tgt; (.done { c with cnt := n } none, s)
  | 7 => s.sweep c
  | _ => if c.tgt = 1 then s.rehashL2 c else s.rehashFlow c

/-! ### Table images (R208, R230) -/

/-- The sections of a table image: target and records; none where the format is refused. -/
def sections : Nat → List Byte → Option (List (Nat × List Byte))
  | 0, _ => none
  | n + 1, l =>
    if l.isEmpty then some []
    else
      let tgt := fget l 0 4
      let cnt := fget l 4 4
      if l.length < 8 || tgt = 0 || 5 < tgt || l.length - 8 < cnt * 112 then none
      else
        let recs := (List.range cnt).map fun i => (tgt, (l.drop (8 + 112 * i)).take 112)
        (sections n (l.drop (8 + 112 * cnt))).map fun t => recs ++ t

/-- A record of a table image is well formed. -/
def recordOk (r : Nat × List Byte) : Bool := keyOk r.1 (r.2.take 80) && dataOk r.1 (r.2.drop 80)

/-- The records applied in order; the number of the first that finds the table full (R230). -/
def State.applyRecs (s : State) : Nat → List (Nat × List Byte) → Option Nat × State
  | _, [] => (none, s)
  | i, r :: t =>
    match s.tblInsert r.1 3 (r.2.take 80) (r.2.drop 80) true with
    | (.inl .TBL_E_FULL, s) => (some i, s)
    | (_, s) => s.applyRecs (i + 1) t

/-- A type 0x07 image applied (R208, R230); the flag says that it was applied in full. -/
def State.applyTable (s : State) (i : Image) : State × Bool :=
  let s := s.freeze
  if i.load = 1 then
    if i.payload.length ≠ 524288 then (s.raise .TBL_E_IMAGE, false)
    else
      let words := (List.range 65536).map fun a => (a, BitVec.ofNat 64 (fget i.payload (8 * a) 8))
      ({ s with tbl := { s.tbl with appid := words.filter fun e => e.2 != 0#64 } }, true)
  else
    match sections (i.payload.length + 1) i.payload with
    | none => (s.raise .TBL_E_IMAGE, false)
    | some rs =>
      if !rs.all recordOk then (s.raise .TBL_E_IMAGE, false)
      else match s.applyRecs 0 rs with
        | (none, s) => (s, true)
        | (some n, s) => (s.raise .TBL_E_IMAGE n, false)

end Sys2Proof.Machine
end

