-- ==== Sys2Proof/Machine/Lease.lean ====
section
/-! DEFINITION. The control lease and the mode (spec/17 R469-R474, spec/03 R53-R60): the three operations that change them, then their register effects and events. -/

namespace Sys2Proof.Machine

open Sys2Proof

/-- The next epoch: by 1, wrapping from 0xFFFF_FFFF to 1 (R469). -/
def nextEpoch (e : BitVec 32) : BitVec 32 := if e = 0xFFFFFFFF#32 then 1#32 else e + 1#32

/-- The lease ends: RUN changes to ISOLATED, the epoch advances (R54, R55, R469). -/
def modEnd (d : Mod) : Mod :=
  match d.holder with
  | none => d
  | some _ => { d with holder := none, epoch := nextEpoch d.epoch, left := 0,
                       mode := if d.mode = .run then .isolated else d.mode }

/-- The lease is granted to `h`: ISOLATED changes to RUN (R55, R471). -/
def modGrant (d : Mod) (h : Fin 4) (termMs : Nat) : Mod :=
  if d.mode = .load then { d with holder := some h, epoch := nextEpoch d.epoch, left := termMs * 1000000 * 2 ^ 32 }
  else if d.mode = .isolated then
    { d with holder := some h, epoch := nextEpoch d.epoch, left := termMs * 1000000 * 2 ^ 32, mode := .run }
  else d

/-- A mode is entered: the lease ends where it cannot be held (R54); RUN is entered only by a holder. -/
def modEnter (d : Mod) (m : Mode) : Mod :=
  let d := if leasable m then d else modEnd d
  { d with mode := if m = .run && d.holder.isNone then .isolated else m, trans := none }

/-- GLB_LS_LEFT_MS: the term counts down in 1 ms steps (R473). -/
def State.leftMs (s : State) : Nat := (s.mod.left + (1000000 * 2 ^ 32 - 1)) / (1000000 * 2 ^ 32)

/-- GLB_I_MODE with the old and new codes (R85), and the domains of the new mode (R503). -/
def State.modeChanged (s : State) (old : Mode) : State :=
  if s.mod.mode = old then s
  else (s.settleDomains s.mod.mode).raise .GLB_I_MODE (modeCode old) (modeCode s.mod.mode)

/-- The lease ends with event `e` carrying the former holder; staging is zeroed (R416, R473). -/
def State.endLease (s : State) (e : Ev) : State :=
  match s.mod.holder with
  | none => s
  | some h =>
    let old := s.mod.mode
    let s := { s with mod := modEnd s.mod }
    (s.onLeaseEnd.raise e h.val).modeChanged old

/-- The lease is granted: GLB_LM_EPOCH, outcome and event (R471). -/
def State.grantLease (s : State) (h : Fin 4) (termMs : Nat) : State :=
  let old := s.mod.mode
  let s := { s with mod := modGrant s.mod h termMs }
  let s := ((s.setReg .GLB_LM_EPOCH h.val s.mod.epoch).setN .GLB_LM_OUT h.val 1).setN .GLB_LM_ERR h.val 0
  (s.raise .GLB_I_LEASE_GRANT h.val s.mod.epoch.toNat).modeChanged old

/-- What the end of the lease does where mode `m` cannot hold one (R54, R416, R473). -/
def State.leaseLeaves (s : State) (m : Mode) : State :=
  if leasable m then s else
  match s.mod.holder with
  | none => s
  | some h => s.onLeaseEnd.raise .GLB_I_LEASE_END h.val

/-- What mode `m` does on entry from mode `old` (R55, R56, R77, R81, R405). -/
def State.onEnter (s : State) (old m : Mode) : State :=
  match m with
  | .load => if old = Mode.boot ∨ old = Mode.monitor then s.drawSeeds else s
  | .monitor => { s.loseSwitched with mon := { s.mon with isOpen := true } }.raise .MON_I_OPEN
  | .test | .repair => (s.loseSwitched.setB .MEM_INIT_FLAG 0 false).loseHbm
  | .drain => s.onDrain
  | .safeHold => { s with boot := { s.boot with safeOrigin := old } }.onSafeHold
  | _ => s

/-- A mode is entered (R54, R58): the lease, the mode, what the mode does on entry, its domains and GLB_I_MODE. -/
def State.enterMode (s : State) (m : Mode) : State :=
  let old := s.mod.mode
  let s := s.leaseLeaves m
  ({ s with mod := modEnter s.mod m }.onEnter old m).modeChanged old

/-- A request is refused: GLB_E_MODE_REFUSED (R58, R59). -/
def State.modeRefused (s : State) : State := s.raise .GLB_E_MODE_REFUSED

/-- A requested transition may be made now: none is in progress (R59, R502). -/
def State.settled (s : State) : Bool := s.mod.trans.isNone

/-- The start conditions of R84. -/
def State.startOk (s : State) : Bool :=
  s.boot.tmsLoaded && s.boot.parLoaded == 3#2 && s.cls.live.isSome && s.rb .MEM_INIT_FLAG

/-- Modes from which a SAFE-HOLD cause leads to SAFE-HOLD (Table 03.2: any of BOOT to DRAIN, TEST, REPAIR). -/
def safeHoldFrom : Mode → Bool
  | .off | .dormant | .safeHold => false
  | _ => true

/-- A SAFE-HOLD cause arises (R58, R59): it overrides a transition in progress of its rank or lower. -/
def State.safeHoldCause (s : State) : State :=
  if safeHoldFrom s.mod.mode && s.mod.trans != some .warmReset && s.mod.trans != some .toDormant then s.enterMode .safeHold else s

/-- Register entries that survive a warm reset (the maps' Kept fields, and health state and thresholds, R66). -/
def keptRegs (m : SMap (BitVec 32)) : SMap (BitVec 32) :=
  let keep := ((Block.all.flatMap Block.fields).filter fun f => f.info.kept || f.info.block == .HEA).map Field.ctorIdx
  m.filter fun e => keep.contains (e.1 % 1024)

/-- The state a reset of the on-chip domains leaves, before its mode is set (R66, R89): the always-on domain, the fuses,
the flash and the outside kept; everything else as at power-on. -/
def State.lostOnChip (s : State) : State :=
  let r := State.reset
  let q := s.rn .TIM_QUAL
  let fresh : State :=
    { r with
      pwr := { r.pwr with phases := s.pwr.phases, slowEdges := s.pwr.slowEdges }
      boot := { r.boot with straps := s.boot.straps, needWarm := s.boot.needWarm, tripped := s.boot.tripped, safeOvertemp := s.boot.safeOvertemp,
                            safeHealth := s.boot.safeHealth }
      fus := s.fus
      tim := { r.tim with now := s.tim.now, stepFree := s.tim.stepFree, refLast := s.tim.refLast, refOrg := s.tim.refOrg,
                          holdAcc := if q = 3 then s.tim.holdAcc else 0, adjLive := false }
      regs := keptRegs s.regs
      flash := s.flash
      freeCtr := s.freeCtr
      pending := s.pending }
  let fresh := ((fresh.setN .TIM_QUAL 0 (if q = 2 then 3 else q)).setN .TIM_HOLD_ELAPSED 0 (if q = 3 then s.rn .TIM_HOLD_ELAPSED else 0)).setB .TIM_FAST 0 (s.rb .TIM_FAST)
  let fresh := (List.range 36).foldl (fun t d => if s.domRetired d then t.setB .PWR_DOM_RETIRED d true else t) fresh
  let fresh := [Field.PWR_SLOWCLK_INT, .PWR_VIN_OK, .PWR_HOT, .PWR_DERATE_ACT, .PWR_VIN_MV, .PWR_VAON_MV, .PWR_TDIE_MAX, .PWR_TCASE_EST,
    .PWR_IIN_10MA, .PWR_PIN_100MW, .ENG_CL_RETIRED].foldl (fun t f => t.setReg f 0 (s.reg f)) fresh
  State.keepAlwaysOn s fresh

/-- A fatal health fault of the always-on SRAM stands until a warm reset (Table 18.3). -/
def State.fatalCleared (s : State) : State := { s with fus := { s.fus with aonErr := false } }.evalFatal

/-- A lease that `holder` held ends as if released, on entry to BOOT by a warm reset or to DORMANT (R54, R473). -/
def State.leaseLost (s : State) (holder : Option (Fin 4)) : State :=
  match holder with
  | some h => s.onLeaseEnd.raise .GLB_I_LEASE_END h.val
  | none => s

/-- A warm reset starts (R66, R502), which may break off a routine of the TMS (R217): the lease ends and the epoch advances; GLB_MODE_CODE reads the old mode until
WARM_RESET_COMPLETE. Several causes record the lowest code (R59). -/
def State.warmStart (s : State) (cause : Nat) : State :=
  if s.mod.mode == .off || s.mod.mode == .dormant then s else
  let again := s.mod.trans == some .warmReset
  let t := s.breakRoutine.lostOnChip.leaseLost s.mod.holder
  { t with
    mod := { mode := .boot, holder := none, epoch := (modEnd s.mod).epoch, left := 0, trans := some .warmReset }
    boot := { t.boot with preMode := if again then s.boot.preMode else s.mod.mode,
                          warmCause := if again then min s.boot.warmCause cause else cause,
                          needWarm := false } }.fatalCleared

/-- Entry to DORMANT starts (R37, R48, R62, R502): all 80 domains go off and HBM content is lost (R80). -/
def State.dormantStart (s : State) : State :=
  if s.mod.mode == .off || s.mod.mode == .dormant then s else
  let t := ((s.lostOnChip.leaseLost s.mod.holder).setB .MEM_INIT_FLAG 0 false).loseHbm
  { t with
    mod := { mode := .dormant, holder := none, epoch := (modEnd s.mod).epoch, left := 0, trans := some .toDormant }
    boot := { t.boot with preMode := s.mod.mode } }

/-- What GLB_MODE_CODE reads (R53, R502). -/
def State.modeRead (s : State) : Nat :=
  match s.mod.trans with
  | some .warmReset | some .toDormant => modeCode s.boot.preMode
  | _ => modeCode s.mod.mode

end Sys2Proof.Machine
end

