-- ==== Sys2Proof/Machine/Tables.lean ====
section
/-! DEFINITION. The meanings of the lookup-table commands and events (spec/08). -/

namespace Sys2Proof.Machine

open Sys2Proof

/-! ### The forwarding decision (R203-R210) -/

/-- TTL or hop limit of a frame. -/
def frameTtl (l : List Byte) (l3 : Nat) : Nat := let o := etOff l + 2; if l3 = 4 then beAt l (o + 8) 1 else beAt l (o + 7) 1

/-- A routed packet (R210): its new state and packet, none where it is dropped. -/
def State.route (s : State) (p : Packet) (l3 : Nat) : State × Option Packet :=
  match p.parse.look.route with
  | none => (s.bump .TBL_CNT_LPM_MISS, none)
  | some r =>
    let n := (s.tbl.nh.get 0#128 r.nh).toNat
    if r.drop || !bitOf n 127 then (s.bump .TBL_CNT_LPM_DROP, none)
    else if bitOf n 101 && frameTtl p.bytes l3 ≤ 1 then (s.bump .TBL_CNT_TTL_DROP, none)
    else
      let d := bitsOf n 125 114
      (s, some { p with dest := if bitOf n 126 then .group d else .ports (2 ^ (d % 64)),
                        rw := { p.rw with vid := some (bitsOf n 113 102), da := some (bitsOf n 95 48), ttl := bitOf n 101 } })

/-- The L2 and VLAN decision (R203, step 3). -/
def State.bridge (s : State) (p : Packet) (vid : Nat) : State × Option Packet :=
  if !s.rb .TBL_VLAN_VALID vid || !s.vlanHas vid p.port then (s.bump .TBL_CNT_VLAN_DROP, none)
  else
    match (if beAt (p.parse.slot 1) 0 6 = 2 ^ 48 - 1 then none else p.parse.look.da) with
    | some e => (s, some { p with dest := if e.grp then .group e.dst else .ports (2 ^ (e.dst % 64)) })
    | none =>
      if s.rb .TBL_VLAN_FLOOD vid then
        let m := s.rn .TBL_VLAN_MEMB_L vid + s.rn .TBL_VLAN_MEMB_H vid * 2 ^ 32
        (s.bump .TBL_CNT_L2_FLOOD, some { p with dest := .ports (if bitOf m p.port then m - 2 ^ p.port else m) })
      else (s.bump .TBL_CNT_L2_UNK_DROP, none)

/-- Step 5 for a packet (R203), by what its lookups found at their seals (R145). A packet dropped here goes to port 62 (notes/assumptions/15.md). -/
def State.forward (s : State) (p : Packet) : State :=
  let l2 := p.parse.slot 1
  let vid := beAt l2 12 2 % 4096
  let s1 := p.parse.slot 2
  let et := beAt s1 2 2
  let l3 := beAt (p.parse.slot 3) 0 1
  let fb := beAt (p.parse.slot 5) 57 1
  let rw := { Rewrite.none with
    l3 := l3, l4 := beAt (p.parse.slot 4) 64 2, nonFirst := bitOf fb 0 && !bitOf fb 1, tci := beAt l2 12 2, ptp := p.parse.ptp,
    egTs := p.parse.egTs || p.egReq, rxFree := p.rxFree, srcPort := p.src, sender := p.sender, origin := p.origin }
  let p := { p with rw := rw }
  let ap := p.parse.look.appid.toNat
  let (s, q) :=
    if (et = 0x88BA || et = 0x88B8) && bitOf ap 63 then
      let p := { p with tc := if bitOf ap 57 then p.tc else bitsOf ap 60 58 }
      if bitOf ap 62 then (s.bump .TBL_CNT_APPID_DROP, none)
      else (s, some { p with dest := if bitOf ap 61 then .group (bitsOf ap 11 0) else .ports (bitsOf ap 47 0) })
    else if beAt l2 0 6 = s.rn .TBL_RMAC_H * 2 ^ 32 + s.rn .TBL_RMAC_L && l3 ≠ 0 && s.rb .TBL_VLAN_ROUTE vid then s.route p l3
    else s.bridge p vid
  match q with
  | some p => s.setPkt { p with stage := .flow }
  | none => s.toDiscard p

/-- The next packet of pipeline `k` at a stage: the one that entered first. -/
def State.nextAt (s : State) (k : Nat) (st : Stage) : Option Packet :=
  (s.pkts.filter fun p => p.pipe == k && p.stage == st).foldl (fun b p => match b with
    | some x => if p.entered < x.entered then some p else b
    | none => some p) none

/-- R203: the next packet at step 5. -/
def execForwardDecision (k : Fin 2) (s : State) : Res :=
  match s.nextAt k.val .forward with
  | some p => .next (s.forward p)
  | none => .next s

/-! ### The learner (R204, R206) -/

/-- The learner may act: a settled journal, no protected routine, no bucket clear (R218, R220). -/
def State.learnerFree (s : State) : Bool := s.tbl.journal.isEmpty && !s.rb .TBL_PROTECTED && !s.rb .TBL_FLOW_CLEARING

/-- An L2 learn request applied to both copies. -/
def State.learnL2 (s : State) (mac fid port pipe : Nat) : State :=
  match s.l2Find mac fid with
  | some (loc, e) =>
    if e.static || (!e.grp && e.dst == port) then s
    else
      let (g, s) := s.takeGen
      (s.bump .TBL_CNT_LEARN_MOVE).setL2 loc { e with dst := port, grp := false, origin := pipe, gen := g, copies := 3 }
  | none =>
    let now := s.rn .TBL_AGE_NOW
    match s.l2Insert { gen := 0, static := false, grp := false, origin := pipe, dst := port, age0 := now, age1 := now,
                       mac := mac, fid := fid, fresh := false, copies := 3 } with
    | (some _, s) => s.bump .TBL_CNT_LEARN
    | (none, s) => s.raiseLimited .TBL_E_FULL 0 ms1 1

/-- R204: the learn request at the head of the FIFO. -/
def execLearnApply (s : State) : Res :=
  match s.tbl.learn with
  | .l2 mac fid port pipe :: t =>
    if s.learnerFree then .next (({ s with tbl := { s.tbl with learn := t } }.freeze).learnL2 mac fid port pipe) else .next s
  | _ => .next s

/-! ### Command windows (R211-R220) -/

/-- The window of a source (R211). -/
def winOf : Src → Option Nat
  | .host h => some h.val
  | .steward => some 4
  | .engine _ => none

/-- The source of a window. -/
def winSrc (w : Nat) : Src := if w < 4 then .host (Fin.ofNat 4 w) else .steward

/-- The rows of Table 08.7: targets and flags of an operation; flags are REPLACE, IF_STAMP, STATIC, SEED from bit 0. -/
def tblRow (op tgt fl : Nat) : Bool :=
  match op with
  | 1 | 2 | 6 => 1 ≤ tgt && tgt ≤ 6 && fl = 0
  | 3 => 1 ≤ tgt && tgt ≤ 6 && fl ≤ 1
  | 4 => 1 ≤ tgt && tgt ≤ 6 && (fl = 0 || (fl = 2 && (tgt = 1 || tgt = 6)))
  | 5 => (tgt = 1 || tgt = 6) && (fl = 0 || fl = 4)
  | 7 | 9 => (tgt = 1 || tgt = 6) && fl = 0
  | 8 => (tgt = 1 || tgt = 6) && (fl = 0 || fl = 8)
  | 15 => true
  | _ => false

/-- A refusal (R211): the code, and the outcome unless the window is BUSY. -/
def State.tblRefuse (s : State) (w op : Nat) (e : Ev) (busy : Bool) : State :=
  let s := s.setN .TBL_CMD_ERR w e.code
  if busy then s else (s.setN .TBL_CMD_OUT w tblRefused).setN .TBL_CMD_LAST_OP w op

/-- Bytes of consecutive registers of a window. -/
def State.regBytes (s : State) (f : Field) (base n : Nat) : List Byte := (List.range n).flatMap fun i => leBytes 4 (s.rn f (base + i))

/-- The inputs of a window as a command. -/
def State.winCmd (s : State) (w op tgt fl : Nat) : TCmd :=
  { op := op, last := op, tgt := tgt, fl := fl, arg := s.rn .TBL_CMD_ARG w, addr := s.rn .TBL_CMD_ADDR w,
    pos := if op = 2 then s.rn .TBL_CMD_CUR_LO w + s.rn .TBL_CMD_CUR_HI w * 2 ^ 32 else 0, cnt := 0,
    key := s.regBytes .TBL_CMD_KEY (w * 20) 20, data := s.regBytes .TBL_CMD_DATA (w * 8) 8 }

/-- A command is in progress in its window. -/
def State.tblBegin (s : State) (w : Nat) (c : TCmd) : State :=
  let old := (s.win w).walked
  let walked := if c.op = 2 && c.pos = 0 then old.filter fun e => e.1 != c.tgt else old
  (((s.setWin w { Win.none with cmd := some c, walked := walked }).setN .TBL_CMD_OUT w tblBusy).setN .TBL_CMD_LAST_OP w c.last).setN .TBL_CMD_ERR w 0

/-- A REHASH starts: its new seed and its live cursor (R201, R225). -/
def State.startRehash (s : State) (w : Nat) (c : TCmd) : State :=
  let (seed, s) := if bitOf c.fl 3 then (s.tbl.seedNext, s) else
    let (a, s) := s.draw
    let (b, s) := s.draw
    (b ++ a, s)
  let s := (s.setB .TBL_REHASH_LIVE 0 true).setB .TBL_REHASH_TGT 0 (c.tgt == 1)
  if c.tgt = 1 then { s with tbl := { s.tbl with newL2 := seed, l2Live := some (w, 0) } }.tblBegin w c
  else (({ s with tbl := { s.tbl with newFlow := seed } }.setB .TBL_REHASH_CUR_VALID 0 true).setN .TBL_REHASH_POS 0 0).tblBegin w c

/-- A command of operation `op` on target 6 is in progress in a window. -/
def State.flowRuns (s : State) (op : Nat) : Bool := s.tbl.wins.any fun e => e.2.cmd.any fun x => x.op == op && x.tgt == 6

/-- The ABORTED command of window `w` on target `tgt` that a RESUME continues: that of a REHASH at its live cursor, which
another window may have moved or ended (R213, R226). -/
def State.ownAborted (s : State) (w tgt : Nat) : Option TCmd :=
  match (s.win w).last with
  | none => none
  | some x =>
    if x.tgt ≠ tgt then none
    else if x.op = 8 && tgt = 1 then (if s.tbl.l2Live.any fun l => l.1 == w then some x else none)
    else if x.op = 8 then (if s.flowLive && !s.flowRuns 8 then some { x with pos := s.rn .TBL_REHASH_POS } else none)
    else some x

/-- RESUME (R216, R226, R228): the ABORTED command of this window, a live flow REHASH, or an interrupted flow flush. -/
def State.tblResume (s : State) (w : Nat) (c : TCmd) : State :=
  match s.ownAborted w c.tgt with
  | some x => s.tblBegin w { x with last := 9 }
  | none =>
    if c.tgt = 6 && s.flowLive && !s.flowRuns 8 then s.tblBegin w { c with op := 8, pos := s.rn .TBL_REHASH_POS }
    else if c.tgt = 6 && s.rb .TBL_FLUSH_VALID && !s.flowRuns 5 then
      s.tblBegin w { c with op := 5, arg := s.rn .TBL_FLUSH_PORT, pos := s.rn .TBL_FLUSH_POS }
    else (s.setN .TBL_CMD_LAST_OP w 9).tblEnd w c tblDone (some .TBL_E_NO_CURSOR)

/-- ABORT (R216, R218): at once, a routine in hand broken off, or at the end of a protected routine. With nothing in progress
it has no effect but the freeze of the seeds (R199). -/
def State.tblAbort (s : State) (w : Nat) : State :=
  let x := s.win w
  match x.cmd with
  | none => s
  | some c =>
    if x.prot then s.setWin w { x with abort := true }
    else (if (s.curWin.map (·.1)) == some w then s.breakRoutine else s).tblEnd w c tblAborted none

/-- The flags and the target of a command, as its window keeps them. -/
def State.tblFlags (s : State) (w : Nat) (v : BitVec 32) : State :=
  let fl := bitsOf v.toNat 19 16
  ((((s.setB .TBL_CMD_F_SEED w (bitOf fl 3)).setB .TBL_CMD_F_STATIC w (bitOf fl 2)).setB .TBL_CMD_F_IF_STAMP w
    (bitOf fl 1)).setB .TBL_CMD_F_REPLACE w (bitOf fl 0)).setN .TBL_CMD_TGT w (bitsOf v.toNat 11 8)

/-- A refused command, with its event. -/
def State.tblTurnAway (s : State) (w op : Nat) (e : Ev) (busy : Bool) : State := (s.tblRefuse w op e busy).raiseLimited e 0 ms1 w

/-- An accepted command other than ABORT begins. -/
def State.tblAccept (s : State) (w op tgt fl : Nat) : State :=
  let s := s.freeze
  let c := s.winCmd w op tgt fl
  if op = 8 then (if s.rb .TBL_REHASH_LIVE then s.tblTurnAway w op .TBL_E_REHASH_ACTIVE false else s.startRehash w c)
  else if op = 9 then s.tblResume w c
  else s.tblBegin w c

/-- In LOAD, a table operation before the TMS microcode, or one that reads or writes HBM while it is not initialised: a NEXT
writes its records there, and the flow buckets lie there (R79, R83). -/
def State.tblEarly (s : State) (op tgt : Nat) : Bool :=
  s.mod.mode == .load && op ≠ 15 && (!s.boot.tmsLoaded || ((op = 2 || tgt = 6) && !s.rb .MEM_INIT_FLAG))

/-- A write of TBL_CMD with a non-zero OP (R211). `v` carries the flags and the target; OP is the row's. -/
def State.tblStart (s : State) (src : Src) (w : Nat) (v : BitVec 32) (op : Nat) : State :=
  let tgt := bitsOf v.toNat 11 8
  let fl := bitsOf v.toNat 19 16
  let busy := (s.win w).cmd.isSome
  if winOf src ≠ some w then s
  else if busy && op ≠ 15 then (s.tblFlags w v).tblTurnAway w op .TBL_E_BUSY true
  else if !tblRow op tgt fl then (s.tblFlags w v).tblTurnAway w op .TBL_E_ARG busy
  else if op ≠ 1 && op ≠ 2 && !s.guard src .TBL then ((s.tblFlags w v).tblRefuse w op .HST_E_FENCED busy).fenced src
  else if s.tblEarly op tgt then ((s.tblFlags w v).tblRefuse w op .GLB_E_ORDER busy).raise .GLB_E_ORDER
  else if op = 15 then (s.tblFlags w v).freeze.tblAbort w
  else (s.tblFlags w v).tblAccept w op tgt fl

def execSearch (src : Src) (win : Fin 5) (v : BitVec 32) (s : State) : Res := .next (s.tblStart src win.val v 1)
def execNext (src : Src) (win : Fin 5) (v : BitVec 32) (s : State) : Res := .next (s.tblStart src win.val v 2)
def execInsert (src : Src) (win : Fin 5) (v : BitVec 32) (s : State) : Res := .next (s.tblStart src win.val v 3)
def execDelete (src : Src) (win : Fin 5) (v : BitVec 32) (s : State) : Res := .next (s.tblStart src win.val v 4)
def execFlushPort (src : Src) (win : Fin 5) (v : BitVec 32) (s : State) : Res := .next (s.tblStart src win.val v 5)
def execFlushAll (src : Src) (win : Fin 5) (v : BitVec 32) (s : State) : Res := .next (s.tblStart src win.val v 6)
def execAgeScan (src : Src) (win : Fin 5) (v : BitVec 32) (s : State) : Res := .next (s.tblStart src win.val v 7)
def execRehash (src : Src) (win : Fin 5) (v : BitVec 32) (s : State) : Res := .next (s.tblStart src win.val v 8)
def execResume (src : Src) (win : Fin 5) (v : BitVec 32) (s : State) : Res := .next (s.tblStart src win.val v 9)
def execAbort (src : Src) (win : Fin 5) (v : BitVec 32) (s : State) : Res := .next (s.tblStart src win.val v 15)

/-- The TMS serves window `w` until its command ends; a conditional delete may come next again (R220). -/
def State.served (s : State) (w : Nat) : State := { s with tbl := { s.tbl with turn := w, aged := false } }

/-- A routine is abandoned after `n` writes (R217); four times in a row by learning requests make it protected (R218). -/
def State.abandon (s : State) (w : Nat) (c : TCmd) (n : Nat) : State :=
  let s := (s.haltRoutine c n).served w
  if s.tbl.learn.isEmpty then s else
  let x := s.win w
  let s := s.setWin w { x with tries := x.tries + 1, prot := 4 ≤ x.tries + 1 }
  if x.tries + 1 = 4 then (s.setB .TBL_PROTECTED 0 true).bump .TBL_CNT_PROTECT else s

/-- A routine runs to its commit word and its command goes on or ends. -/
def State.commitRoutine (s : State) (w : Nat) (c : TCmd) (abortLate : Bool) : State :=
  let (r, s) := (s.served w).routine w (winSrc w) c
  let x := s.win w
  let s := (s.setWin w { x with tries := 0, prot := false }).setB .TBL_PROTECTED 0 false
  match r with
  | .done c e => s.tblEnd w c (if abortLate || x.abort then tblLate else tblDone) e
  | .stop c e => s.tblEnd w c tblAborted (some e)
  | .more c => if x.abort then s.tblEnd w c tblAborted none else s.setWin w { x with cmd := some c, tries := 0, prot := false }

/-- R214, R216-R220: one routine of the current command. `abandonAt`: it is abandoned after so many writes, by a learning
request or a conditional delete that arrived during it. `abortLate`: an ABORT is sampled after its commit word. -/
def execTmsRoutine (abandonAt : Option (Fin 32)) (abortLate : Bool) (s : State) : Res :=
  match s.curWin with
  | none => .next s
  | some (w, c) =>
    let s := s.checkStash
    let waiting := !s.tbl.learn.isEmpty || (!s.tbl.expired.isEmpty && (abandonAt.isSome || !s.tbl.aged))
    let prot := (s.win w).prot
    if !s.tmsRuns c then .next s
    else match abandonAt with
      | some n => if waiting && !prot then .next (s.abandon w c n.val) else .next s
      | none => if waiting && !prot then .next s else .next (s.commitRoutine w c abortLate)

/-- R217: the journal is settled. An uncorrectable read of the always-on SRAM is
a fatal health fault instead (R487). -/
def execJournalSettle (aonErr : Bool) (s : State) : Res :=
  .next (if aonErr then ({ s with fus := { s.fus with aonErr := true } }.raise .HEA_E_AON_ECC).evalFatal.safeHoldCause
    else if s.tbl.journal.isEmpty then s else s.settleJournal)

/-! ### Seeds (R199-R201) -/

/-- 32 bits of a seed replaced. -/
def seedWord (x : BitVec 128) (k : Nat) (v : BitVec 32) : BitVec 128 :=
  BitVec.ofNat 128 (x.toNat - bitsOf x.toNat (32 * k + 31) (32 * k) * 2 ^ (32 * k) + v.toNat * 2 ^ (32 * k))

/-- A seed register written: `j` 0 flow, 1 L2, 2 load balance (R199). -/
def State.wrSeed (s : State) (j k : Nat) (v : BitVec 32) : State :=
  if s.rb .TBL_SEED_FROZEN then s.raiseLimited .TBL_E_SEED 0 ms1 j
  else match j with
    | 0 => { s with tbl := { s.tbl with seedFlow := seedWord s.tbl.seedFlow k v } }
    | 1 => { s with tbl := { s.tbl with seedL2 := seedWord s.tbl.seedL2 k v } }
    | _ => { s with tbl := { s.tbl with seedLb := seedWord s.tbl.seedLb k v } }

/-- R199. -/
def execTblSeed (src : Src) (j : Fin 3) (k : Fin 4) (v : BitVec 32) (s : State) : Res :=
  .next (s.guarded src .TBL fun s => s.wrSeed j.val k.val v)

/-- The seed of the next REHASH, while no cursor is live (R201). -/
def State.wrSeedNext (s : State) (k : Nat) (v : BitVec 32) : State :=
  if s.rb .TBL_REHASH_LIVE then s else { s with tbl := { s.tbl with seedNext := seedWord s.tbl.seedNext k v } }

/-- R201. -/
def execTblSeedNext (src : Src) (k : Fin 4) (v : BitVec 32) (s : State) : Res :=
  .next (s.guarded src .TBL fun s => s.wrSeedNext k.val v)

/-- R200: the bucket clear ends. -/
def execFlowClearDone (s : State) : Res :=
  .next (if s.rb .TBL_FLOW_CLEARING then (s.setB .TBL_FLOW_CLEARING 0 false).raise .TBL_I_FLOW_CLEARED else s)

/-! ### Aging (R221-R223) -/

/-- R221. -/
def execAgeTick (s : State) : Res := .next (s.checkStash.setN .TBL_AGE_NOW 0 ((s.rn .TBL_AGE_NOW + 1) % 65536))

/-- The agent visits the next L2 bucket. -/
def State.visitL2 (s : State) : State :=
  let b := s.tbl.ageL2
  let lim := s.rn .TBL_AGE_LIM_L2
  let old := s.tbl.l2.filter fun e => e.1 / 4 == b && !e.2.static && lim ≠ 0 && lim ≤ s.ageOf (s.l2Stamp e.2)
  let found : List Expired := old.map fun e => { l2 := true, loc := e.1, stamp := s.l2Stamp e.2, sig := e.2.gen }
  { s with tbl := { s.tbl with ageL2 := (b + 1) % 65536, expired := s.tbl.expired ++ found } }

/-- A flow whose age has reached the limit. -/
def State.flowExpired (s : State) (loc : Nat) (f : FSlot) : List Expired :=
  let st := fget (s.hotOf f.rcd) 16 2
  let lim := s.rn .TBL_AGE_LIM_FLOW
  if lim ≠ 0 && lim ≤ s.ageOf st then [{ l2 := false, loc := loc, stamp := st, sig := f.sig }] else []

/-- The agent visits the next flow bucket; a bucket with an uncorrectable word is rewritten empty (Table 16.4). A pass ends
with the stash. -/
def State.visitFlow (s : State) : State :=
  let b := s.tbl.ageFlow
  let found (s : State) (l : List Expired) : State := { s with tbl := { s.tbl with expired := s.tbl.expired ++ l } }
  let s := match s.readBucket b 3 with
    | (some v, s) => found s (((List.range 8).zip v).flatMap fun e => match e.2 with
        | some f => s.flowExpired (b * 8 + e.1) f
        | none => [])
    | (none, s) => s.hbmPut (bucketAddr b) (List.replicate 64 0#8)
  if b + 1 = 8388608 then
    let s := found s (s.tbl.stash.flatMap fun e => s.flowExpired (stashLoc e.1) e.2)
    { s.countF .TBL_AGE_PASSES with tbl := { s.tbl with ageFlow := 0 } }
  else { s with tbl := { s.tbl with ageFlow := b + 1 } }

/-- R222: the agent visits the next bucket of a table. -/
def execAgeVisit (l2 : Bool) (s : State) : Res :=
  let s := s.checkStash
  .next (if !s.rb .TBL_AGE_EN then s else if l2 then s.visitL2 else if s.rb .FLW_REBUILD || s.rb .TBL_FLOW_CLEARING then s else s.visitFlow)

/-- The conditional delete of an expired entry (R223). -/
def State.ageDelete (s : State) (x : Expired) : State :=
  let keep (s : State) : State := s.bump .TBL_CNT_AGE_KEEP
  if x.l2 then match s.tbl.l2.find x.loc with
    | some e => if e.gen ≠ x.sig || e.static then s
        else if s.l2Stamp e = x.stamp then (s.dropL2 x.loc).bump .TBL_CNT_AGE_DEL else keep s
    | none => s
  else match s.slotAt x.loc with
    | some f => if f.sig ≠ x.sig then s
        else if fget (s.hotOf f.rcd) 16 2 = x.stamp then ((s.clearLoc x.loc).removeRec f.rcd).bump .TBL_CNT_AGE_DEL else keep s
    | none => s

/-- A routine has its turn before the next conditional delete (R220). -/
def State.routineDue (s : State) : Bool := s.tbl.aged && s.curWin.any fun e => s.tmsRuns e.2

/-- R223, R220: one conditional delete, once the learn FIFO is empty. -/
def execAgeDelete (s : State) : Res :=
  match s.tbl.expired with
  | x :: t =>
    if s.learnerFree && s.tbl.learn.isEmpty && !s.routineDue then
      .next ({ s with tbl := { s.tbl with expired := t, aged := true } }.ageDelete x)
    else .next s
  | [] => .next s

/-- R233. -/
def execTblCntClr (src : Src) (s : State) : Res := .next (s.guarded src .TBL fun s => s.clearBlockCtrs .TBL)

end Sys2Proof.Machine
end

