-- ==== Sys2Proof/Machine/Flow.lean ====
section
/-! DEFINITION. The meanings of the flow-unit commands and events (spec/09). -/

namespace Sys2Proof.Machine

open Sys2Proof

/-! ### A hit (R247-R254) -/

/-- TCP flags octet of a frame: behind the IP header, whose extension headers are passed over. -/
def ipv6Start : Nat → List Byte → Nat → Nat → Option Nat
  | 0, _, _, _ => none
  | n + 1, l, o, nh =>
    if nh = 6 then some o
    else if nh = 0 || nh = 43 || nh = 60 then ipv6Start n l (o + 8 + 8 * beAt l (o + 1) 1) (beAt l o 1)
    else if nh = 44 then ipv6Start n l (o + 8) (beAt l o 1)
    else if nh = 51 then ipv6Start n l (o + 8 + 4 * beAt l (o + 1) 1) (beAt l o 1)
    else none

/-- TCP flags of a packet, 0 where it has none (FL_TEL_TCPF). -/
def tcpFlags (l : List Byte) (l3 proto : Nat) : Nat :=
  let o := etOff l + 2
  if proto ≠ 6 then 0
  else if l3 = 4 then beAt l (o + beAt l o 1 % 16 * 4 + 13) 1
  else if l3 = 6 then ((ipv6Start 8 l (o + 40) (beAt l (o + 6) 1)).map fun t => beAt l (t + 13) 1).getD 0
  else 0

/-- Overflow-wheel slot at which a timeAllowedToLive in ms ends, rounded up (R254). -/
def State.talSlot (s : State) (tal : Nat) : Nat :=
  (s.rn .TMG_WHEEL_CNT + (s.tmg.slot % 4096 + tal * 4000 + 4095) / 4096) % 2 ^ 32

/-- GOOSE supervision (R254): the hot half, and whether the message is a state change. -/
def State.gooseStep (s : State) (p : Packet) (hot : List Byte) : List Byte × Bool × State :=
  let d6 := p.parse.slot 6
  let st := beAt d6 8 4
  let sq := beAt d6 12 4
  let last := fget hot 44 4
  let d := (sq + 2 ^ 32 - last) % 2 ^ 32
  let succ := if last = 2 ^ 32 - 1 then 1 else last + 1
  let armed (h : List Byte) : List Byte :=
    fset (fset h 48 4 (s.talSlot (beAt d6 16 4))) 18 1 (fget h 18 1 - (if bitOf (fget h 18 1) 6 then 64 else 0))
  if st ≠ fget hot 40 4 then
    (armed (fset (fset (fset hot 40 4 st) 44 4 sq) 52 4 (fget hot 52 4 + 1)), true, s)
  else if sq = succ then (armed (fset hot 44 4 sq), false, s)
  else if 2 ≤ d && d < 2 ^ 31 then (armed (fset hot 44 4 sq), false, s.bump .FLW_CNT_GOOSE_GAP)
  else (hot, false, s.bump .FLW_CNT_GOOSE_DUP)

/-- Counters and telemetry fields of a hit (R247, step 2). -/
def State.countStep (s : State) (p : Packet) (hot : List Byte) : List Byte :=
  let hot := fset hot 0 8 (fget hot 0 8 + 1)
  let hot := if p.whole then addLen hot (p.bytes.length + 4) else hot
  let hot := fset (fset (fset hot 16 2 (s.rn .TBL_AGE_NOW)) 32 4 p.tsSec) 36 4 p.tsNs
  if flKind hot ≠ 0 then hot
  else fset hot 40 1 (Nat.lor (fget hot 40 1) (tcpFlags p.bytes (beAt (p.parse.slot 4) 18 1) (beAt (p.parse.slot 4) 19 1)))

/-- A flow action sends the packet to port 62; a sampled-value frame is delivered first (R253). -/
def State.flowDrop (s : State) (p : Packet) : State :=
  if p.slice.isSome then s.setPkt { p with stage := .pool, dest := .discard, hand := none, insets := 0 } else s.toDiscard p

/-- Telemetry of a packet (R251): the hot half with its new export time. -/
def State.telStep (s : State) (p : Packet) (r : Option Nat) (hot : List Byte) : List Byte × State :=
  match r with
  | none => (hot, s)
  | some r =>
    if flAct hot 15 15 = 0 || !s.rb .FLW_TEL_EN || flKind hot ≠ 0 then (hot, s)
    else if p.tsSec < fget hot 48 4 + max 1 (s.rn .FLW_TEL_IVL_S) then (hot, s)
    else
      let hot := fset hot 48 4 p.tsSec
      (hot, s.telExport r hot false (ownPipe p.pipe))

/-- Steps 4 and 5 of R247: the destination, the class, the NAT request, the Inset copy and the hand-off. -/
def State.actStep (s : State) (p : Packet) (key : List Byte) (r : Option Nat) (hot : List Byte) (change : Bool) :
    List Byte × State :=
  if !flValid hot || flAct hot 31 29 = 4 then (hot, (s.bump .FLW_CNT_DENY).flowDrop p)
  else
    let dst := fget hot 24 2
    let (port, hot) := if flAct hot 31 29 = 3 then s.balance hot key else (none, hot)
    if flAct hot 31 29 = 3 && port.isNone then (hot, (s.bump .FLW_CNT_LB_NONE).flowDrop p)
    else
      let p := match flAct hot 31 29 with
        | 1 => { p with dest := .ports (2 ^ (dst % 64)), prune := none }
        | 2 => { p with dest := .group (dst % 4096), prune := none }
        | 3 => { p with dest := .ports (2 ^ port.getD 0), prune := none }
        | _ => p
      let p := if flAct hot 28 28 = 1 then { p with tc := flAct hot 27 25 } else p
      let nat := flAct hot 18 16
      let s := if nat ≠ 0 && p.rw.l3 ≠ 4 then s.bump .FLW_CNT_NAT_SKIP else s
      let p := if nat ≠ 0 && p.rw.l3 = 4 then
          { p with rw := { p.rw with nat := nat, natAddr := fget hot 56 4, natPort := fget hot 60 2 } } else p
      let p := if flAct hot 22 22 = 1 then { p with insets := Nat.lor p.insets (2 ^ flAct hot 21 19) } else p
      let sig := (candOf flBits s.tbl.seedFlow key).1
      let p := if flAct hot 24 24 = 1 && (flKind hot ≠ 2 || change) then
          { p with hand := some { tmpl := fget hot 28 2 % 16384, rcd := r, sig := sig, ctx := fget hot 30 2, kind := flKind hot },
                   dest := if flAct hot 23 23 = 1 then p.dest else .discard }
        else p
      (hot, s.setPkt { p with stage := .pool })

/-- Step 2 of R247: counters, then telemetry. -/
def State.step2 (s : State) (p : Packet) (r : Option Nat) (hot : List Byte) : List Byte × State := s.telStep p r (s.countStep p hot)

/-- Steps 1, 2, 4 and 5 of R247 on a hot half; `count` says that step 2 is still to come. -/
def State.hitSteps (s : State) (p : Packet) (key : List Byte) (r : Option Nat) (hot : List Byte) (count : Bool) :
    List Byte × State :=
  let p := if p.whole || !count then p else { p with lenDue := some key }
  let p := if flKind hot = 1 then { p with slice := some (fget hot 40 2 % 4096, p.parse.slot 6) } else p
  let (hot, change, s) := if flKind hot = 2 then s.gooseStep p hot else (hot, false, s)
  let (hot, s) := if count then s.step2 p r hot else (hot, s)
  s.actStep p key r hot change

/-- The hot-half write of a hit (R247). -/
def State.writeHit (s : State) (r : Nat) (hot : List Byte) : State := if s.allocated r then s.setHot r hot else s

/-- A frame fails inline verification (R423): to port 62, counted. -/
def State.verifyFail (s : State) (p : Packet) (slot : Nat) : State :=
  (((s.bump .AUT_CNT_INLINE_FAIL).countF .AUT_SL_VFAIL slot).raiseLimited .AUT_W_VERIFY_FAIL slot ms1 slot).toDiscard p

/-- The packet has FL_A_AUTH and is one that is verified inline: an SV or GOOSE frame (R422). -/
def verified (p : Packet) (hot : List Byte) : Bool :=
  let et := beAt (p.parse.slot 2) 2 2
  flAct hot 14 14 = 1 && (et = 0x88BA || et = 0x88B8)

/-- A packet that fails verification at the flow stage: step 2 of R247 comes before verification. With no record yet, its
request has counted it. -/
def State.countFailed (s : State) (p : Packet) (r : Option Nat) (hot : List Byte) : State :=
  match r with
  | some r => let (hot, s) := s.step2 p (some r) hot; s.writeHit r hot
  | none => s

/-- A packet enters its pipeline's verification queue of 256 entries with its buffer (R423). -/
def State.toVerify (s : State) (p : Packet) (key : List Byte) (r : Option Nat) (hot : List Byte) : State :=
  let slot := fget hot 26 2 % 16384
  match s.ensureBuf p with
  | (s, none) =>
    let s := s.countFailed p r hot
    (if 6 ≤ p.tc then (s.bump .SWC_CNT_ESC_DROP).raiseLimited .SWC_E_ESCAPE 0 ms1 else s.bump .SWC_CNT_POOL_DROP).toDiscard p
  | (s, some h) =>
    let p := { p with buf := some h }
    let s := s.setPkt p
    if 256 ≤ (s.pkts.filter fun q => q.pipe == p.pipe && q.stage == .verify).length then
      ((s.countFailed p r hot).bump .AUT_CNT_QUEUE_DROP).verifyFail p slot
    else
      let (seat, s) := s.newSeat p.bytes.length
      (s.setPkt { p with stage := .verify, verify := some { key := key, rcd := r, hot := hot, slot := slot, seat := seat,
                                                            bound := none, fail := none } }).fillLanes

/-- A hit on record `r` (R247). -/
def State.flowHit (s : State) (p : Packet) (key : List Byte) (r : Nat) : State :=
  let hot := s.hotOf r
  if verified p hot then s.toVerify p key (some r) hot
  else
    let (hot, s) := s.hitSteps p key (some r) hot true
    s.writeHit r hot

/-! ### A miss (R243) -/

/-- The record a new flow begins with (R244, step 2). -/
def State.newRecord (s : State) (p : Packet) (key : List Byte) : List Byte :=
  let ctx := actBits p.act 31 16
  let i := ctx % 256
  let hot := List.replicate 64 0#8
  let hot := fset (fset (fset hot 18 1 (s.rn .FLW_NA_KIND i)) 20 4 (s.rn .FLW_NA_ACT i)) 24 2 (s.rn .FLW_NA_DST i)
  let hot := fset (fset (fset hot 26 2 (s.rn .FLW_NA_AUTH i)) 28 2 (s.rn .FLW_NA_TARGET i)) 30 2 ctx
  let cold := [key.getD 64 0#8, BitVec.ofNat 8 p.src] ++ leBytes 2 (s.rn .FLW_NA_GAZ i) ++ leBytes 4 0 ++
    leBytes 4 p.tsSec ++ leBytes 4 p.tsNs ++ s.packKey key
  hot ++ cold

/-- The new-flow policy CLS_A_NEWFLOW (R243). -/
def State.newFlow (s : State) (p : Packet) (key : List Byte) : State :=
  match actBits p.act 55 54 with
  | 0 => (s.bump .FLW_CNT_NEW_FWD).setPkt { p with stage := .pool }
  | 1 => (s.bump .FLW_CNT_NEW_DROP).toDiscard p
  | _ =>
    let h : HandOff := { tmpl := s.rn .FLW_SAMPLE_TMPL, rcd := none, sig := (candOf flBits s.tbl.seedFlow key).1,
                         ctx := actBits p.act 31 16, kind := 0 }
    (s.bump .FLW_CNT_NEW_SAMPLE).setPkt { p with stage := .pool, dest := .discard, hand := some h }

/-- A failed insertion request (R243). -/
def State.insFailed (s : State) : State := s.raiseLimited .FLW_W_NEWFLOW 0 ms1

/-- No record is free. -/
def State.recExhaust (s : State) : State := (s.bump .FLW_CNT_REC_EXHAUST).raiseLimited .FLW_E_REC_EXHAUST 0 ms1

/-- 16,384 records of kind 2 exist (R254). -/
def State.gooseFull (s : State) : Bool := 16384 ≤ s.flw.goose.length

/-- What step 5 left of a packet. -/
def Packet.step5 (p : Packet) : Step5 := { dest := p.dest, prune := p.prune, tc := p.tc, rw := p.rw, insets := p.insets }

/-- A looked-up packet that misses (R243): with CLS_A_FLOW_INS its request enters the learn FIFO and the packet is handled
as a hit on the record to come; otherwise the policy applies. -/
def State.flowMiss (s : State) (p : Packet) (key : List Byte) : State :=
  if actBits p.act 56 56 = 0 then s.newFlow p key
  else
    let rcd := s.newRecord p key
    let hot := rcd.take 64
    let req (rcd : List Byte) : Learn := .flow key rcd p.id (actBits p.act 55 54)
    let q := { p with before := some p.step5 }
    if s.recFree = 0 then s.recExhaust.insFailed.newFlow p key
    else if flKind hot = 2 && s.gooseFull then (s.raiseLimited .FLW_E_GOOSE_LIMIT 0 ms1).insFailed.newFlow p key
    else if 256 ≤ s.tbl.learn.length then ((s.learnPush (req rcd)).1).insFailed.newFlow p key
    else if verified p hot then
      let q := if q.whole then q else { q with lenDue := some key }
      ((s.learnPush (req (s.countStep p hot ++ rcd.drop 64))).1).toVerify q key none hot
    else
      let (hot, s) := s.hitSteps q key none hot true
      (s.learnPush (req (hot ++ rcd.drop 64))).1

/-- The flow key of a packet: its profile's bytes, with the ports of a resolved fragment (R235, R178). -/
def State.pktKey (s : State) (p : Packet) : List Byte :=
  let r := p.parse.slot 4
  let r := if p.frag = 2 then r.take 52 ++ p.fragPorts ++ r.drop 56 else r
  s.flowKey r (s.rn .FLW_CL_PROF p.parse.cls)

/-- An uncorrectable bucket or record read of a lookup (Table 16.4). -/
def State.uncDrop (s : State) (p : Packet) : State := (s.bump .MEM_CNT_UNC_DROP).toDiscard p

/-- Step 6 for a packet (R234, R240). -/
def State.flowLookup (s : State) (p : Packet) : State :=
  if !s.rb .FLW_CL_LOOKUP p.parse.cls then s.setPkt { p with stage := .pool, pin := s.pinOf (p.parse.slot 1) }
  else
    let key := s.pktKey p
    let p := { p with pin := s.pinOf key }
    let s := s.bump .FLW_CNT_LOOKUP
    match s.flowMatch key 1 true with
    | (none, s) => s.uncDrop p
    | (some [], s) => s.flowMiss p key
    | (some ((_, f) :: t), s) =>
      let good (f : FSlot) : Bool := match s.flw.cache.find f.rcd with
        | some h => h.digest == s.keyDigest key
        | none => s.sameKey (s.recordOf f.rcd) key
      let r := ((f :: t.map (·.2)).find? good).getD f
      match s.flw.cache.find r.rcd with
      | some h =>
        let s := s.noteHit true
        if h.digest == s.keyDigest key then (((s.bump .FLW_CNT_HIT).bump .FLW_CNT_CACHE_HIT).cacheUse r.rcd).flowHit p key r.rcd
        else s.flowMiss p key
      | none =>
        let s := s.noteHit false
        match s.hbmRead (128 * r.rcd) 128 1 with
        | (none, s) => s.uncDrop p
        | (some l, s) =>
          if s.sameKey l key then ((s.bump .FLW_CNT_HIT).cacheIn r.rcd (s.keyDigest key) (l.take 64)).flowHit p key r.rcd
          else s.flowMiss p key

/-- R240: the flow lookup of the next packet of pipeline `k`; lookups wait while the free list is rebuilt (R246). -/
def execFlowLookup (k : Fin 2) (s : State) : Res :=
  match s.nextAt k.val .flow with
  | some p => .next (if s.rb .FLW_REBUILD && s.rb .FLW_CL_LOOKUP p.parse.cls then s else s.flowLookup p)
  | none => .next s

/-! ### Insertion, write-back, quarantine, rebuild (R241-R246) -/

/-- A flow insertion request fails at the learner (R243): its packet follows CLS_A_NEWFLOW by what step 5 left of it. DESIGN
CHOICE (notes/assumptions/30.md): a packet that has passed step 7 by then cannot be called back, and is only counted. -/
def State.insRefused (s : State) (key : List Byte) (pkt policy : Nat) : State :=
  let s := s.insFailed
  let count := s.bump (match policy with
    | 0 => .FLW_CNT_NEW_FWD
    | 1 => .FLW_CNT_NEW_DROP
    | _ => .FLW_CNT_NEW_SAMPLE)
  match s.pkt pkt with
  | none => count
  | some p =>
    match p.before with
    | none => count
    | some b =>
      if p.stage == .pool || p.stage == .verify then
        s.newFlow { p with dest := b.dest, prune := b.prune, tc := b.tc, rw := b.rw, insets := b.insets, slice := none, hand := none,
                           verify := none, before := none, lenDue := none } key
      else count

/-- The telemetry of the packet that a new record counts, once the record has its index (R251). -/
def State.firstExport (s : State) (r : Nat) : State :=
  let hot := s.hotOf r
  if flAct hot 15 15 = 0 || !s.rb .FLW_TEL_EN || flKind hot ≠ 0 || fget hot 32 4 < max 1 (s.rn .FLW_TEL_IVL_S) then s
  else
    let hot := fset hot 48 4 (fget hot 32 4)
    (s.setHot r hot).telExport r hot false (ownPipe 0)

/-- A flow insertion request applied (R244). -/
def State.applyFlow (s : State) (key rcd : List Byte) (pkt policy : Nat) : State :=
  match s.flowFind key with
  | (some (_, f), s) =>
    let hot := s.hotOf f.rcd
    s.setHot f.rcd (fset (fset hot 0 8 (fget hot 0 8 + fget rcd 0 8)) 8 8 (fget hot 8 8 + fget rcd 8 8))
  | (none, s) =>
    if flKind rcd = 2 && s.gooseFull then (s.raiseLimited .FLW_E_GOOSE_LIMIT 0 ms1).insRefused key pkt policy
    else match s.takeRec with
      | (none, s) => s.recExhaust.insRefused key pkt policy
      | (some r, s) =>
        let s := s.hbmPut (128 * r) rcd
        let ph := (lastSeed s.flowSeeds).1
        if ((s.flowMatch key 2 false).1.getD []).any fun e => e.2.phase == ph then
          ((s.freeRec r).raiseLimited .TBL_E_SIG_CLASH 0 ms1 6).insRefused key pkt policy
        else
          let (plan, s) := s.flowPlan key
          match s.flowPlace key r plan with
          | (none, s) => ((s.freeRec r).raiseLimited .TBL_E_FULL 0 ms1 6).insRefused key pkt policy
          | (some _, s) =>
            let (g, s) := s.takeGen
            let hot := s.hotOf r
            let s := s.putHot r (fset hot 18 1 (fget hot 18 1 % 128 + 128))
            (((s.hbmPut (128 * r + 68) (leBytes 4 g)).noteKind r (flKind rcd)).firstExport r).bump .FLW_CNT_INS_OK

/-- R244: the flow insertion request at the head of the learn FIFO. -/
def execFlowInsertApply (s : State) : Res :=
  match s.tbl.learn with
  | .flow key rcd pkt policy :: t =>
    if s.learnerFree && !s.rb .FLW_REBUILD then .next (({ s with tbl := { s.tbl with learn := t } }.freeze).applyFlow key rcd pkt policy)
    else .next s
  | _ => .next s

/-- R241: the changed cached hot half of record `r` is written back. -/
def execWriteBack (r : Fin 67108864) (s : State) : Res := .next (s.writeBack r.val)

/-- R245. -/
def execRecordQuarantineEnd (r : Fin 67108864) (s : State) : Res :=
  .next { s with flw := { s.flw with quar := s.flw.quar.erase r.val } }

/-- The free list is rebuilt (R246): records that no bucket slot names are cleared and freed. -/
def State.rebuilt (s : State) : State :=
  let named := ((s.flowSlots.filter fun e => e.1 < 2 ^ 26).map fun e => e.2.rcd).eraseDups
  let s := (s.flw.alloc.filter fun e => !named.contains e.1).foldl (fun s e => s.hbmPut (128 * e.1) (List.replicate 128 0#8)) s
  let alloc := named.foldl (fun m r => SMap.put false m r true) []
  let goose := (named.filter fun r => flKind (s.hotOf r) = 2).foldl (fun m r => SMap.put false m r true) []
  let quar := (s.flw.alloc.filter fun e => !named.contains e.1).foldl (fun (m : SMap Bool) (e : Nat × Bool) => m.put false e.1 true) s.flw.quar
  let s := { s with flw := { s.flw with alloc := alloc, quar := quar, goose := goose } }
  ((s.setN .FLW_REC_USED 0 alloc.length).setB .FLW_REBUILD 0 false).raise .FLW_I_REBUILT

/-- R246. -/
def execFreeListRebuildDone (s : State) : Res := .next (if s.rb .FLW_REBUILD then s.rebuilt else s)

/-- The supervision time of a GOOSE record ends (R254). -/
def State.talExpiry (s : State) (r : Nat) : State :=
  let hot := s.hotOf r
  let s := s.setHot r (fset hot 18 1 (if bitOf (fget hot 18 1) 6 then fget hot 18 1 else fget hot 18 1 + 64))
  let gz := s.hbmNat (128 * r + 66) 2
  let s := if bitOf gz 15 then s.setGaz (gz % 16384) { s.gazAt (gz % 16384) with goAlarm := true } else s
  let s := (s.bump .FLW_CNT_GOOSE_TAL).raise .FLW_W_GOOSE_TAL r
  if flAct hot 24 24 = 0 then s else
  let tmpl := fget hot 28 2 % 16384
  let n := ((s.tsk.tmpls.find tmpl).map fun t => (s.clusterSet t).length).getD 0
  let t : Token := { tmpl := tmpl, pos := 0, tag := r, value := r * 2 ^ 20 + fget hot 30 2 * 2 ^ 46 + flKind hot * 2 ^ 62, isBuf := false,
                     pin := if n = 0 then 31 else r * n / 2 ^ 26, grat := none }
  match s.sendTok t with
  | (none, s) => s.bump .FLW_CNT_HANDOFF
  | (some _, s) => (s.bump .FLW_CNT_HANDOFF_DROP).raiseLimited .FLW_E_HANDOFF 0 ms1 tmpl

/-- R254: the overflow wheel has reached FL_GO_EXP of record `r` with no newer message. -/
def execGooseTalExpiry (r : Fin 67108864) (s : State) : Res :=
  let hot := s.hotOf r.val
  let due := fget hot 48 4
  let late := (s.rn .TMG_WHEEL_CNT + 2 ^ 32 - due) % 2 ^ 32 < 2 ^ 31
  .next (if s.flw.goose.get false r.val && late && !bitOf (fget hot 18 1) 6 then s.talExpiry r.val else s)

/-! ### Record and Gazetteer commands (R255-R258) -/

/-- An entry as the 256 bits of Table 09.5. -/
def Gaz.pack (g : Gaz) : Nat :=
  let b (x : Bool) : Nat := if x then 1 else 0
  packBits [(48, g.mac), (1, b g.valid), (1, b g.learned), (1, b g.proxy), (1, b g.winValid), (1, b g.lanLoss), (1, b g.goAlarm),
    (2, 0), (16, g.top), (64, g.window.toNat), (16, g.seqTx), (48, g.heardA), (48, g.heardB), (8, g.pair % 8)]

/-- An entry of 256 bits. -/
def Gaz.unpack (n : Nat) : Gaz :=
  { mac := bitsOf n 255 208, valid := bitOf n 207, learned := bitOf n 206, proxy := bitOf n 205, winValid := bitOf n 204,
    lanLoss := bitOf n 203, goAlarm := bitOf n 202, top := bitsOf n 199 184, window := BitVec.ofNat 64 (bitsOf n 183 120),
    seqTx := bitsOf n 119 104, heardA := bitsOf n 103 56, heardB := bitsOf n 55 8, pair := bitsOf n 2 0, sinceA := false, sinceB := false }

/-- A record command ends: COMPLETED, or refused with a code (R257, R261). -/
def State.rcEnd (s : State) (w : Nat) (e : Option Ev) : State :=
  let s := (s.setN .FLW_RC_ERR w ((e.map Ev.code).getD 0)).setN .FLW_RC_OUT w (if e.isSome then 3 else 2)
  match e with
  | some e => (s.raise e w).setB .FLW_EVT_CMD 0 true
  | none => s

/-- The window still shows BUSY: the operation takes its effect within its command, and up to its maximum time passes until
its outcome shows (R257, notes/assumptions/30.md). -/
def State.rcBusy (s : State) (w : Nat) : Bool :=
  winBusy s.flw.rcBusy s.freeNs w

/-- An operation of at most `ns` begins to show BUSY; how long it takes the manual leaves open, and is free. -/
def State.rcShow (s : State) (w ns : Nat) : State :=
  let (f, s) := s.draw
  { s with flw := { s.flw with rcBusy := s.flw.rcBusy.set w (s.freeNs + f.toNat % (ns + 1), 0) } }

/-- A start in a BUSY window is refused with FLW_E_CMD; the outcome stays (R257, R505). -/
def State.rcRefuse (s : State) (w : Nat) : State :=
  let s := { s with flw := { s.flw with rcBusy := winNote s.flw.rcBusy w Ev.FLW_E_CMD.code } }
  (s.raise .FLW_E_CMD w).setB .FLW_EVT_CMD 0 true

/-- FLW_RC_DATA of a window from bytes, `n` words. -/
def State.setData (s : State) (w n : Nat) (l : List Byte) : State :=
  (List.range n).foldl (fun s i => s.setN .FLW_RC_DATA (w * 32 + i) (fget l (4 * i) 4)) s

/-- In LOAD, a record operation while HBM is not initialised (R79). -/
def State.rcEarly (s : State) : Bool := s.mod.mode == .load && !s.rb .MEM_INIT_FLAG

/-- A start in a window (R257): only its own source; `guarded` operations from the lease holder or the steward's load. `ns`:
its maximum time (Table 09.6); `hbm`: it reads or writes a record. -/
def State.rcStart (s : State) (src : Src) (w : Nat) (v : BitVec 32) (guarded hbm : Bool) (ns : Nat) (f : State → State) : State :=
  if winOf src ≠ some w then s else
  let s := s.setB .FLW_RC_F_KEEPCNT w (v.getLsbD 8)
  if s.rcBusy w then s.rcRefuse w
  else if guarded && !s.guard src .FLW then
    (((s.setN .FLW_RC_ERR w Ev.HST_E_FENCED.code).setN .FLW_RC_OUT w 3).setB .FLW_EVT_CMD 0 true).fenced src
  else if hbm && s.rcEarly then s.rcEnd w (some .GLB_E_ORDER)
  else (f s).rcShow w ns

/-- REC_READ (R257). -/
def State.recRead (s : State) (w : Nat) : State :=
  let r := s.rn .FLW_RC_IDX w
  if 2 ^ 26 ≤ r then s.rcEnd w (some .FLW_E_CMD)
  else if !s.allocated r then s.rcEnd w (some .FLW_E_REC_FREE)
  else
    let s := (s.hbmRead (128 * r) 128 1).2
    (s.setData w 32 (s.recordOf r)).rcEnd w none

/-- The record a REC_WRITE leaves (R258). -/
def mergeRec (old new : List Byte) (linked keep : Bool) : List Byte :=
  let part (a n : Nat) (from_ l : List Byte) : List Byte := l.take a ++ (from_.drop a).take n ++ l.drop (a + n)
  let fl := fget new 18 1 % 128 + (if linked then 128 else 0)
  let fl := if keep then fl - (if bitOf fl 6 then 64 else 0) + (if bitOf (fget old 18 1) 6 then 64 else 0) else fl
  let l := fset new 18 1 fl
  let l := if linked then part 80 48 old (part 64 8 old l) else l
  if keep then part 72 8 old (part 40 16 old (part 32 8 old (part 0 18 old l))) else l

/-- REC_WRITE (R257, R258). -/
def State.recWrite (s : State) (w : Nat) : State :=
  let r := s.rn .FLW_RC_IDX w
  let new := s.regBytes .FLW_RC_DATA (w * 32) 32
  if 2 ^ 26 ≤ r then s.rcEnd w (some .FLW_E_CMD)
  else if !s.allocated r then s.rcEnd w (some .FLW_E_REC_FREE)
  else if !flValid new then s.rcEnd w (some .FLW_E_CMD)
  else if flKind new = 2 && !s.flw.goose.get false r && s.gooseFull then s.rcEnd w (some .FLW_E_GOOSE_LIMIT)
  else
    let old := s.recordOf r
    let l := mergeRec old new (bitOf (fget old 18 1) 7) (s.rb .FLW_RC_F_KEEPCNT w)
    ((s.setRecord r l).noteKind r (flKind new)).rcEnd w none

/-- REC_ALLOC (R257). -/
def State.recAlloc (s : State) (w : Nat) : State :=
  match s.takeRec with
  | (none, s) => s.rcEnd w (some .FLW_E_REC_EXHAUST)
  | (some r, s) => ((s.hbmPut (128 * r) (List.replicate 128 0#8)).setN .FLW_RC_IDX w r).rcEnd w none

/-- REC_FREE (R257). -/
def State.recFreeCmd (s : State) (w : Nat) : State :=
  let r := s.rn .FLW_RC_IDX w
  if 2 ^ 26 ≤ r then s.rcEnd w (some .FLW_E_CMD)
  else if !s.allocated r then s.rcEnd w (some .FLW_E_REC_FREE)
  else if bitOf (fget (s.hotOf r) 18 1) 7 then s.rcEnd w (some .FLW_E_REC_LIVE)
  else (s.freeRec r).rcEnd w none

/-- GZ_READ (R257). -/
def State.gzRead (s : State) (w : Nat) : State :=
  let i := s.rn .FLW_RC_IDX w
  if 16383 < i then s.rcEnd w (some .FLW_E_CMD) else (s.setData w 8 (leBytes 32 (s.gazAt i).pack)).rcEnd w none

/-- GZ_WRITE (R256, R257). -/
def State.gzWrite (s : State) (w : Nat) : State :=
  let i := s.rn .FLW_RC_IDX w
  let g := Gaz.unpack (leNat (s.regBytes .FLW_RC_DATA (w * 32) 8))
  if 16383 < i then s.rcEnd w (some .FLW_E_CMD)
  else if g.valid && s.gaz.any fun e => e.1 != i && e.2.valid && e.2.mac == g.mac then s.rcEnd w (some .FLW_E_GAZ_DUP)
  else (s.setGaz i g).rcEnd w none

def execRecRead (src : Src) (win : Fin 5) (v : BitVec 32) (s : State) : Res :=
  .next (s.rcStart src win.val v false true 1000 fun s => s.recRead win.val)
def execRecWrite (src : Src) (win : Fin 5) (v : BitVec 32) (s : State) : Res :=
  .next (s.rcStart src win.val v true true 1000 fun s => s.recWrite win.val)
def execRecAlloc (src : Src) (win : Fin 5) (v : BitVec 32) (s : State) : Res :=
  .next (s.rcStart src win.val v true true 100 fun s => s.recAlloc win.val)
def execRecFree (src : Src) (win : Fin 5) (v : BitVec 32) (s : State) : Res :=
  .next (s.rcStart src win.val v true true 100 fun s => s.recFreeCmd win.val)
def execGzRead (src : Src) (win : Fin 5) (v : BitVec 32) (s : State) : Res :=
  .next (s.rcStart src win.val v false false 200 fun s => s.gzRead win.val)
def execGzWrite (src : Src) (win : Fin 5) (v : BitVec 32) (s : State) : Res :=
  .next (s.rcStart src win.val v true false 200 fun s => s.gzWrite win.val)

/-! ### Registers (R236, R248, R262) -/

/-- Number of 1 bits of a number of at most 64 bits. -/
def ones64 (n : Nat) : Nat := ones (n % 2 ^ 32) + ones (n / 2 ^ 32)

/-- A key profile word written (R236). -/
def State.wrKprof (s : State) (j hi : Nat) (v : BitVec 32) : State :=
  let t := s.setReg .FLW_KPROF (2 * j + hi) v
  if s.rn .FLW_REC_USED ≠ 0 || 48 < ones64 (t.kprof j) then s.raise .FLW_E_KPROF j else t

/-- R236. -/
def execFlwKprof (src : Src) (j : Fin 16) (hi : Fin 2) (v : BitVec 32) (s : State) : Res :=
  .next (s.guarded src .FLW fun s => s.wrKprof j.val hi.val v)

/-- A load-balance group word written: staged (R248). Word 0 is FLW_LBG_N, words 1 to 4 the members. -/
def State.wrLbg (s : State) (g word : Nat) (v : BitVec 32) : State :=
  let s := s.setB .FLW_LB_PEND 0 true
  if word = 0 then s.setN .FLW_LBG_N g (min 16 (v.toNat % 32)) else s.setReg .FLW_LBG_MEMB (g * 4 + (word - 1)) v

/-- R248. -/
def execFlwLbg (src : Src) (g : Fin 1024) (word : Fin 5) (v : BitVec 32) (s : State) : Res :=
  .next (s.guarded src .FLW fun s => s.wrLbg g.val word.val v)

/-- R262. -/
def execFlwCntClr (src : Src) (s : State) : Res := .next (s.guarded src .FLW fun s => s.clearBlockCtrs .FLW)

end Sys2Proof.Machine
end

