-- ==== Sys2Proof/Machine/Auth.lean ====
section
/-! DEFINITION. The meanings of the authentication commands and events (spec/15). -/

namespace Sys2Proof.Machine

open Sys2Proof

/-! ### Key commands (R416, R417) -/

/-- AUT_KEY_CTRL written with AUT_KEY_OP = 1. -/
def execKeyLoad (src : Src) (i : Fin 16384) (s : State) : Res :=
  .next (s.held src fun s => s.keyCommand (hostOf src) true i.val)

/-- AUT_KEY_CTRL written with AUT_KEY_OP = 2. -/
def execKeyErase (src : Src) (i : Fin 16384) (s : State) : Res :=
  .next (s.held src fun s => s.keyCommand (hostOf src) false i.val)

/-- R417: the accepted key command commits. -/
def execKeyCommit (s : State) : Res := .next s.keyCommit

/-- R428. -/
def execAutCntClr (src : Src) (s : State) : Res := .next (s.held src fun s => s.clearBlockCtrs .AUT)

/-! ### Operations on memory (R420, R421) -/

/-- Result of one access of an operation. -/
inductive AuthAcc where
  | ok (l : List Byte)
  | err (e : Ev) (cause : Nat)
  deriving DecidableEq, Repr

/-- Bytes at `a` of a source, within one 64-byte line. -/
def State.authLine (s : State) (o : AuthOp) (a n : Nat) : AuthAcc × State :=
  match regionOf (engOf o.ctx) a n with
  | .none => (.err .AUT_E_ADDR 0, s)
  | .loc m i =>
    match s.memRead m i n with
    | (some l, s) => (.ok l, s)
    | (none, s) => (.err .AUT_E_MEM 0, s)
  | .dev =>
    match s.translate (clOf o.ctx) o.rcd a false false with
    | (.dev p, s) =>
      match s.hbmRead p n 7 with
      | (some l, s) => (.ok l, s)
      | (none, s) => (.err .AUT_E_MEM 0, s)
    | (.fault c, s) => (.err .AUT_E_ADDR c, s)
    | (.host _ _, s) => (.err .AUT_E_ADDR 0, s)

/-- Bytes written at `a` within one line. -/
def State.authPut (s : State) (o : AuthOp) (a : Nat) (l : List Byte) : AuthAcc × State :=
  match regionOf (engOf o.ctx) a l.length with
  | .none => (.err .AUT_E_ADDR 0, s)
  | .loc m i =>
    match s.memWrite m i l with
    | (true, s) => (.ok [], s)
    | (false, s) => (.err .AUT_E_MEM 0, s)
  | .dev =>
    match s.translate (clOf o.ctx) o.rcd a true false with
    | (.dev p, s) =>
      match s.hbmWrite p l 7 with
      | (s, true) => (.ok [], s)
      | (s, false) => (.err .AUT_E_MEM 0, s)
    | (.fault c, s) => (.err .AUT_E_ADDR c, s)
    | (.host _ _, s) => (.err .AUT_E_ADDR 0, s)

/-- `n` bytes of a source in memory from `a`, line by line. -/
def State.authReadMem (s : State) (o : AuthOp) : Nat → Nat → Nat → List Byte → AuthAcc × State
  | 0, _, _, acc => (.ok acc, s)
  | f + 1, a, n, acc =>
    if n = 0 then (.ok acc, s) else
    let u := min n (64 - a % 64)
    match s.authLine o a u with
    | (.ok l, s) => State.authReadMem s o f (a + u) (n - u) (acc ++ l)
    | r => r

/-- Bytes written to a destination in memory from `a`. -/
def State.authWriteMem (s : State) (o : AuthOp) : Nat → Nat → List Byte → AuthAcc × State
  | 0, _, _ => (.ok [], s)
  | f + 1, a, l =>
    if l.isEmpty then (.ok [], s) else
    let u := min l.length (64 - a % 64)
    match s.authPut o a (l.take u) with
    | (.ok _, s) => State.authWriteMem s o f (a + u) (l.drop u)
    | r => r

/-- `n` bytes of the source of an operation: an address, or a buffer handle and offset (Table 13.9). -/
def State.authRead (s : State) (o : AuthOp) (n : Nat) : AuthAcc × State :=
  if o.srcBuf then
    let (l, s) := s.bufRead (o.src % 2 ^ 20) (bitsOf o.src 33 20) n
    (.ok l, s)
  else s.authReadMem o (n / 64 + 2) o.src n []

/-- Bytes written to the destination of an operation. -/
def State.authWrite (s : State) (o : AuthOp) (l : List Byte) : AuthAcc × State :=
  if o.dstBuf then (.ok [], s.bufWrite (o.dst % 2 ^ 20) (bitsOf o.dst 33 20) l)
  else s.authWriteMem o (l.length / 64 + 2) o.dst l

/-- An access of an operation failed. -/
def State.authFail (s : State) (o : AuthOp) (e : Ev) (cause : Nat) : State :=
  (if e == .AUT_E_MEM then s.raiseLimited e o.slot ms1 o.slot else s).authEnd o e.code cause 0

/-- A signing (Table 15.1): the invocation value where there is one, then the tag. -/
def State.authSign (s : State) (o : AuthOp) : State :=
  match s.authRead o o.len with
  | (.err e c, s) => s.authFail o e c
  | (.ok m, s) =>
    let out := (if o.key.gmac then beBytes 8 o.inv else []) ++ o.key.mac o.inv m
    match s.authWrite o out with
    | (.err e c, s) => s.authFail o e c
    | (.ok _, s) => (s.bump .AUT_CNT_SIGN).authEnd o 0 0 out.length

/-- A verification: with a copy the message or zeros are written (R420). -/
def State.authVerify (s : State) (o : AuthOp) (copy : Bool) : State :=
  match s.authRead o (o.len + o.key.trailer) with
  | (.err e c, s) => s.authFail o e c
  | (.ok l, s) =>
    let m := l.take o.len
    let good := o.key.matches m (l.drop o.len)
    let (r, s) := if copy then s.authWrite o (if good then m else List.replicate o.len 0#8) else (.ok [], s)
    match r with
    | .err e c => s.authFail o e c
    | .ok _ =>
      let s := s.bump .AUT_CNT_VERIFY
      if good then s.authEnd o 0 0 (if copy then o.len else 0)
      else (s.bump .AUT_CNT_VFY_FAIL).authEnd o Ev.AUT_E_TAG.code 0 0

/-- What the lane of operation `i` of those accepted does next (R413, R420, R421): its segments run, and it ends with its
status, or at a boundary it yields to more urgent work and is parked. An operation without a lane, or parked, waits. -/
def execAuthComplete (i : Nat) (s : State) : Res :=
  let s := s.fillLanes
  match s.aut.ops[i]? with
  | none => .next s
  | some o =>
    match o.seat.lane with
    | none => .next s
    | some n =>
      if o.seat.parked then .next s
      else if s.yields { urg := 3 + o.rcd.cls, gmac := o.key.gmac, seat := o.seat } n then
        .next (s.setSeat o.seat.arr fun x => { x with parked := true, left := x.left - 2048 }).fillLanes
      else .next ((if o.code = 1 then s.authSign o else s.authVerify o (o.code = 3)).fillLanes.retireDue (clOf o.ctx))

/-! ### Inline verification (R422, R423) -/

/-- The status of an inline verification that started under `k`; none where the tag matches. -/
def inlineTag (p : Packet) (k : KeySlot) : Option Ev :=
  let (o, n, ext) := securedParts p.bytes
  if k.matches ((p.bytes.drop o).take n) ((p.bytes.drop (o + n + ext - k.trailer)).take k.trailer) then none else some .AUT_E_TAG

/-- The request of a key in the learn FIFO, and its hot half changed. -/
def State.requestOf (s : State) (key : List Byte) : Option (List Byte) :=
  s.tbl.learn.findSome? fun q => match q with
    | .flow k r _ _ => if k == key then some r else none
    | _ => none
def State.setRequest (s : State) (key hot : List Byte) : State :=
  { s with tbl := { s.tbl with learn := s.tbl.learn.map fun q => match q with
    | .flow k r n a => .flow k (if k == key then hot ++ r.drop 64 else r) n a
    | x => x } }

/-- The first packet of a flow passes: its request has counted it, and the other steps act on the hot half of the request,
or of the record it has made (R243, R423). -/
def State.firstPass (s : State) (p : Packet) (v : Verify) : State :=
  match s.requestOf v.key with
  | some rcd =>
    let (hot, s) := s.hitSteps p v.key none (rcd.take 64) false
    s.setRequest v.key hot
  | none =>
    match s.flowFind v.key with
    | (some (_, f), s) =>
      let (hot, s) := s.hitSteps p v.key (some f.rcd) (s.hotOf f.rcd) false
      s.writeHit f.rcd hot
    | (none, s) => (s.hitSteps p v.key none v.hot false).2

/-- A packet passes: the remaining steps of R247 with its kind processing. -/
def State.inlinePass (s : State) (p : Packet) (v : Verify) : State :=
  let s := (s.bump .AUT_CNT_INLINE).bump .AUT_CNT_VERIFY
  let p := { p with verify := none }
  match v.rcd with
  | some r =>
    let (hot, s) := s.hitSteps p v.key (some r) (if s.allocated r then s.hotOf r else v.hot) true
    s.writeHit r hot
  | none => s.firstPass p v

/-- A packet that fails is counted in the hot half of its record (R247, R423). -/
def State.countVerify (s : State) (p : Packet) (v : Verify) : State :=
  s.countFailed p v.rcd (match v.rcd with
    | some r => if s.allocated r then s.hotOf r else v.hot
    | none => v.hot)

/-- A packet fails, by its tag or by a check: its record counts it, and it goes to port 62. -/
def State.inlineFail (s : State) (p : Packet) (v : Verify) (tag : Bool) : State :=
  let s := s.bump (if tag then .AUT_CNT_VERIFY else .AUT_CNT_REFUSED)
  let s := if tag then s.bump .AUT_CNT_INLINE else s
  let s := s.countVerify p v
  s.verifyFail { p with verify := none } v.slot

/-- R423: the result of the packet at the head of pipeline `k`'s verification queue, once its frame is whole and it has run in
a lane or failed a check. -/
def execInlineVerifyResult (k : Fin 2) (s : State) : Res :=
  let s := s.fillLanes
  match s.pkts.find? fun p => p.pipe == k.val && p.stage == .verify with
  | none => .next s
  | some p =>
    match p.verify with
    | none => .next s
    | some v =>
      .next (match v.fail, v.bound with
        | some _, _ => (s.inlineFail p v false).fillLanes
        | none, some key => (match inlineTag p key with
          | none => s.inlinePass p v
          | some _ => s.inlineFail p v true).fillLanes
        | none, none => s)

/-- Authentication lanes subsystem reset (Table 03.4, R426): operations end with AUT_E_ABORTED and inline packets fail. -/
def State.abortAuth (s : State) : State :=
  let s := s.aut.ops.foldl (fun s o => (s.bump .AUT_CNT_ABORTED).authEnd o Ev.AUT_E_ABORTED.code 0 0) s
  (s.pkts.filter fun p => p.stage == .verify).foldl (fun s p =>
    match p.verify with
    | some v => (s.countVerify p v).verifyFail { p with verify := none } v.slot
    | none => s.verifyFail { p with verify := none } 0) s

end Sys2Proof.Machine
end

