-- ==== Sys2Proof/Machine/Power.lean ====
section
/-! DEFINITION. Meanings of the power, clock and thermal commands (spec/02 R36-R52, spec/03 R66). -/

namespace Sys2Proof.Machine

open Sys2Proof

/-- The state a power-on reset leaves: State.reset with the fuse array, the flash and the queue, which are not reset
(R66 clears every on-chip state). -/
def State.powerOn (s : State) : State :=
  { State.reset with
    fus := { State.reset.fus with array := s.fus.array }
    flash := s.flash, freeCtr := s.freeCtr, pending := s.pending }

/-- R38, R46, R66: a fall of VAON below 2.50 V or PORST_N low for at least 10 us; a shorter pulse is honoured or not (R47). -/
def execPowerOnReset (vaonFell : Bool) (lowNs : Nat) (s : State) : Res :=
  if vaonFell || 10000 ≤ lowNs then .next s.powerOn
  else if lowNs = 0 then .next s
  else
    let (f, s) := s.draw
    .next (if f.getLsbD 0 then s.powerOn else s)

/-- The vendor and owner words of the shadow are checked (R484). -/
def State.checkShadow (s : State) : State :=
  let s := if vendorOk s.fus.shadow then s else s.raise .FUS_E_VENDOR_CRC
  if ownerOk s.fus.shadow then s else s.raise .FUS_E_OWNER_CRC

/-- The fuse shadow is loaded and checked (R484), with the health flags and the remap table it holds. -/
def State.loadShadow (s : State) : State :=
  { s with fus := { s.fus with shadow := s.fus.array } }.checkShadow.loadRemap.loadHealth

/-- R46, R70, R484, Table 03.2: the power-on hold expires; straps latch, the shadow loads, OFF changes to DORMANT. -/
def execPorRelease (straps : BitVec 4) (s : State) : Res :=
  if s.mod.mode ≠ .off then .next s else
  let s := { s with boot := { s.boot with straps := straps } }.loadShadow
  .next ((s.enterMode .dormant).raise .GLB_I_RESET 1)

/-- R37: VIN below 2.50 V for more than 10 us. -/
def execVinUndervoltage (mv : Fin 65536) (s : State) : Res :=
  if 2500 ≤ mv.val || s.mod.mode == .off then .next s else
  let low (t : State) : State := (t.setB .PWR_VIN_OK 0 false).setN .PWR_VIN_MV 0 mv.val
  if s.mod.mode == .dormant then .next (low s) else
  .next ((low s.dormantStart).raise .PWR_E_VIN_UV)

/-- R37: VIN enters the band from 2.50 V to 2.70 V; the command stands for one excursion. -/
def execVinLowExcursion (mv : Fin 65536) (s : State) : Res :=
  if mv.val < 2500 || 2700 ≤ mv.val || s.mod.mode == .off then .next s else
  .next ((s.setN .PWR_VIN_MV 0 mv.val).raise .PWR_W_VIN_LOW)

/-- Die temperature in quarter degrees. -/
def State.tdie (s : State) : Int := signed 16 (s.rn .PWR_TDIE_MAX)

/-- R58, Table 03.2: DORMANT changes to BOOT with VIN above its rising lockout and the die below +120 C; after a thermal
trip below +110 C and after a WARM_RST_N pulse. -/
def execBootEntry (mv : Fin 65536) (s : State) : Res :=
  if s.mod.mode ≠ .dormant || s.mod.trans.isSome || mv.val < 2600 || 480 ≤ s.tdie then .next s
  else
    let s := (s.setB .PWR_VIN_OK 0 true).setN .PWR_VIN_MV 0 mv.val
    if s.boot.needWarm || (s.boot.tripped && 440 ≤ s.tdie) then .next s
    else .next ({ s with boot := { s.boot with bootPhase := 0, tripped := false } }.enterMode .boot)

/-- A WARM_RST_N pulse taken as a reset: cause 2; in DORMANT it only ends the wait after a thermal trip. -/
def State.warmPulse (s : State) : State :=
  if s.mod.mode == .dormant then { s with boot := { s.boot with needWarm := false } } else s.warmStart 2

/-- R66, R47, Table 02.8: a pulse of at least 1 us is a reset, one of at most 100 ns a glitch, between them either. -/
def execWarmReset (lowNs : Nat) (s : State) : Res :=
  if 1000 ≤ lowNs then .next s.warmPulse
  else if lowNs ≤ 100 then .next s
  else
    let (f, s) := s.draw
    .next (if f.getLsbD 0 then s.warmPulse else s)

/-- R66: the steward watchdog expires, cause 5. -/
def execStewardWatchdog (s : State) : Res := .next (s.warmStart 5)

/-- A session opens alongside traffic (R57, R493). -/
def State.openSession (s : State) : State :=
  if s.mon.isOpen then s
  else { s with mon := { State.reset.mon with isOpen := true, jtag := s.mon.jtag } }.raise .MON_I_OPEN

/-- A MON_REQ request (R57, R58, R64, R70). -/
def State.monReq (s : State) : State :=
  match s.mod.mode with
  | .off => s
  | .run | .isolated | .drain => s.openSession
  | .boot => if s.mod.trans.isSome then s.modeRefused else s.enterMode .monitor
  | .dormant | .standby | .safeHold =>
    if s.mod.trans.isSome || !s.rb .PWR_VIN_OK then s.modeRefused else s.enterMode .monitor
  | _ => s.modeRefused

/-- R57, Table 02.8: MON_REQ low for at least 1 ms is a request, a shorter pulse is either (R47). -/
def execMonReq (lowNs : Nat) (s : State) : Res :=
  if 1000000 ≤ lowNs then .next s.monReq
  else if lowNs = 0 then .next s
  else
    let (f, s) := s.draw
    .next (if f.getLsbD 0 then s.monReq else s)

/-- R45: no SLOWCLK edge for 1 us; the always-on domain changes over to the RC oscillator. -/
def execSlowclkLost (s : State) : Res :=
  if s.rb .PWR_SLOWCLK_INT then .next s
  else .next ({ s.setB .PWR_SLOWCLK_INT 0 true with pwr := { s.pwr with slowEdges := 0 } }.raise .PWR_W_SLOWCLK_LOST)

/-- R45: 1,024 good SLOWCLK edges; the always-on domain returns to SLOWCLK. -/
def execSlowclkReturn (s : State) : Res :=
  if s.rb .PWR_SLOWCLK_INT then
    .next ({ s.setB .PWR_SLOWCLK_INT 0 false with pwr := { s.pwr with slowEdges := 1024 } }.raise .PWR_I_SLOWCLK_OK)
  else .next s

/-- PWR_HOT with its 3 C hysteresis (R48). -/
def State.hotCheck (s : State) : State :=
  let th : Int := s.rn .PWR_HOT_THRESH
  if s.rb .PWR_HOT then (if s.tdie < th - 12 then s.setB .PWR_HOT 0 false else s)
  else if th < s.tdie then (s.setB .PWR_HOT 0 true).raise .PWR_W_HOT else s

/-- Derating of a GWM-8640-E by the case estimate (R2, R49). -/
def State.derateCheck (s : State) : State :=
  let tc := signed 16 (s.rn .PWR_TCASE_EST)
  if !(s.fuse 8).getLsbD 8 then s
  else if s.rb .PWR_DERATE_ACT then
    (if tc < 392 then (s.setB .PWR_DERATE_ACT 0 false).raise .PWR_I_DERATE_OFF else s)
  else if 400 < tc then (s.setB .PWR_DERATE_ACT 0 true).raise .PWR_I_DERATE_ON else s

/-- +125 C: PWR_E_OVERTEMP and SAFE-HOLD (R48). -/
def State.overtempCheck (s : State) : State :=
  if 500 ≤ s.tdie then
    let s := if s.boot.safeOvertemp then s else s.raise .PWR_E_OVERTEMP
    { s with boot := { s.boot with safeOvertemp := true } }.safeHoldCause
  else { s with boot := { s.boot with safeOvertemp := false } }

/-- A reading of +130 C or more: all domains off, DORMANT, PWR_E_THERMTRIP in always-on memory (R48). -/
def State.tripCheck (s : State) (reading : Int) : State :=
  if reading < 520 || s.mod.mode == .off || s.mod.mode == .dormant then s
  else
    let s := s.dormantStart.raise .PWR_E_THERMTRIP
    { s with boot := { s.boot with needWarm := true, tripped := true } }

/-- The readings of VIN and VAON beside a sample: no command carries them, so each is a free value in the range its supply
then has (Table 02.3; notes/assumptions/19.md). -/
def State.supplyRead (s : State) : State :=
  let (a, s) := s.draw
  let (b, s) := s.draw
  (s.setN .PWR_VIN_MV 0 (if s.rb .PWR_VIN_OK then 2500 + a.toNat % 3501 else a.toNat % 2600)).setN .PWR_VAON_MV 0 (2500 + b.toNat % 3501)

/-- The thermal causes of a sample. A trip, of rank 2, prevails over the SAFE-HOLD cause of the same sample, which is
discarded (R48, R59). -/
def State.thermal (s : State) (reading : Int) : State :=
  if 520 ≤ reading && s.mod.mode != .off && s.mod.mode != .dormant then s.tripCheck reading else s.overtempCheck

/-- R48, R49: the 1 ms reading of the die sensors, case estimate, VIN current and input power. -/
def execDieTempSample (tdie tcase iin pin : BitVec 16) (s : State) : Res :=
  if s.mod.mode = .off then .next s else
  let s := (s.setN .PWR_TDIE_MAX 0 tdie.toNat).setN .PWR_TCASE_EST 0 tcase.toNat
  let s := (s.setN .PWR_IIN_10MA 0 iin.toNat).setN .PWR_PIN_100MW 0 pin.toNat
  .next (s.supplyRead.hotCheck.derateCheck.thermal (signed 16 tdie.toNat))

/-- Table 03.2: every SAFE-HOLD cause absent for 1 s; ISOLATED, or a warm reset with cause 6. A rail fault does not clear. -/
def execSafeHoldExit (s : State) : Res :=
  if s.mod.mode ≠ .safeHold || s.mod.trans.isSome || s.boot.safeOvertemp || s.boot.safeRail || s.boot.safeHealth then .next s
  else match s.boot.safeOrigin with
    | .run | .isolated | .drain => .next (s.enterMode .isolated)
    | _ => .next (s.warmStart 6)

/-- R39: while the limit acts, every cluster clock is lowered by 50 MHz; one at 500 MHz goes no lower
(notes/assumptions/8.md). -/
def execCurrentLimitStep (s : State) : Res :=
  let s := if s.rb .PWR_CURLIM_ACT then s else (s.setB .PWR_CURLIM_ACT 0 true).raise .PWR_W_CURRENT_HIGH
  let steps := (List.range 24).foldl (fun m c => if 10 < s.engClkEff c then m.upd 0 c (· + 1) else m) s.pwr.curSteps
  .next { s with pwr := { s.pwr with curSteps := steps } }

/-- R39: the current has stayed below 24 A; every lowered clock is restored one step. DESIGN CHOICE (R39 says what sets
PWR_CURLIM_ACT and not when it clears): the first restore step clears it (notes/assumptions/26.md). -/
def execCurrentLimitRestore (s : State) : Res :=
  let steps := (List.range 24).foldl (fun (m : SMap Nat) c => m.upd 0 c (· - 1)) s.pwr.curSteps
  .next { s.setB .PWR_CURLIM_ACT 0 false with pwr := { s.pwr with curSteps := steps } }

/-- R40, R488: phase `i` faults and is retired; a rail that so falls below its operating minimum raises PWR_E_RAIL_FAULT
and leads to SAFE-HOLD. -/
def execPhaseFail (i : Fin 24) (s : State) : Res :=
  if s.pwr.phases.getLsbD i.val then .next s else
  let before := s.pwr.phases
  let s := { s with pwr := { s.pwr with phases := s.pwr.phases ||| (1#24 <<< i.val) } }
  let s := (s.raise .PWR_E_PHASE_FAIL i.val).setRetired (72 + i.val)
  if railFault s.pwr.phases then
    let s := if rails.any fun r => railLow s.pwr.phases r && !railLow before r then s.raise .PWR_E_RAIL_FAULT i.val else s
    .next { s with boot := { s.boot with safeRail := true } }.evalFatal.safeHoldCause
  else .next s

/-- R44: PLL `i` locks after its domain 66 + i comes on. -/
def execPllLock (i : Fin 4) (s : State) : Res :=
  if s.dom (66 + i.val) = dsOn then .next (s.setReg .PWR_PLL_LOCK 0 (s.reg .PWR_PLL_LOCK ||| (1#32 <<< i.val))) else .next s

/-- A write of a programmed cluster clock (R49, R52, Table 02.10). -/
def State.wrEngClk (s : State) (c v : Nat) : State :=
  if s.clRetired c then s.raise .PWR_E_DOM_RETIRED c
  else if v < 10 || 30 < v then s.raise .PWR_E_RANGE c
  else s.setN .PWR_ENG_CLK_SET c v

/-- R49, R52: PWR_ENG_CLK_SET, lease-guarded. -/
def execPwrEngClkSet (src : Src) (c : Fin 24) (v : BitVec 5) (s : State) : Res :=
  .next (s.guarded src .PWR fun s => s.wrEngClk c.val v.toNat)

/-- An OFF request is refused (R42). -/
def State.offBusy (s : State) (d : Nat) : Bool :=
  if d < 24 then s.clusterHasPT d || s.clusterLive d || s.clusterPending d
  else if d < 36 then s.portsEnabled d
  else if 40 ≤ d && d < 76 then s.mod.mode == .run || s.mod.mode == .isolated || s.mod.mode == .drain
  else false

/-- A write of a domain request (R42). -/
def State.wrDomReq (s : State) (d v : Nat) : State :=
  if s.domRetired d then s.raise .PWR_E_DOM_RETIRED d
  else if v = 3 then s.raise .PWR_E_RANGE d
  else if v = 0 && s.offBusy d then s.raise .PWR_E_DOM_BUSY d
  else
    (s.setN .PWR_DOM_REQ d v).settleDomain d

/-- R42, R52: PWR_DOM_REQ, lease-guarded. -/
def execPwrDomReq (src : Src) (d : Fin 80) (v : BitVec 2) (s : State) : Res :=
  .next (s.guarded src .PWR fun s => s.wrDomReq d.val v.toNat)

/-- A write of the clock-gate-only bit (R43): a power-gated or OFF cluster is woken to clock-gated. -/
def State.wrCgOnly (s : State) (c : Nat) (v : Bool) : State :=
  if 24 ≤ c then s
  else if s.clRetired c then s.raise .PWR_E_DOM_RETIRED c
  else
    let s := s.setB .PWR_DOM_CG_ONLY c v
    if v && s.unpowered c then s.wakeCluster c else s

/-- A write of a whole PWR_DOM_CTRL word (R42, R43, Table 02.10): one with PWR_DOM_REQ = 0b11 is ignored whole. -/
def State.wrDomCtrl (s : State) (d : Nat) (v : BitVec 32) : State :=
  let req := bitsOf v.toNat 1 0
  if d < 24 && !s.clRetired d && req ≠ 3 && v.getLsbD 2 != s.rb .PWR_DOM_CG_ONLY d then (s.wrCgOnly d (v.getLsbD 2)).wrDomReq d req
  else s.wrDomReq d req

/-- R43, R52: PWR_DOM_CG_ONLY, lease-guarded. -/
def execPwrDomCgOnly (src : Src) (c : Fin 24) (v : Bool) (s : State) : Res :=
  .next (s.guarded src .PWR fun s => s.wrCgOnly c.val v)

/-- R41, R43: a cluster clock-gated for 20 us with no live context power-gates, unless ON or clock-gate-only. -/
def execClusterPowerGate (c : Fin 24) (s : State) : Res :=
  if s.dom c.val = dsGated && !s.clusterLive c.val && !s.rb .PWR_DOM_CG_ONLY c.val && s.rn .PWR_DOM_REQ c.val = 2 then
    .next (s.toDom c.val dsPowerGated)
  else .next s

/-- R43: a 500 ns interval begins; up to six waiting clusters start power-up, and their retention domains come on. A demand
that the mode or the cluster's request no longer allows is dropped. -/
def execWakeInterval (s : State) : Res :=
  let l := s.pwr.waiting.filter fun c => s.mayWake s.mod.mode c && s.unpowered c
  let s := { s with pwr := { s.pwr with waiting := l.drop 6 } }
  .next ((l.take 6).foldl (fun s c => (s.setDom c dsWaking).retainFor c) s)

/-- R41: a waking domain reaches its first usable cycle: a cluster with no runnable context is clock-gated unless it is
requested ON. -/
def execDomainWakeDone (d : Fin 80) (s : State) : Res :=
  if s.dom d.val ≠ dsWaking then .next s else
  let s := s.countF .PWR_DOM_WAKES d.val
  .next (s.setDom d.val (if d.val < 24 && !s.clusterRunnable d.val && s.rn .PWR_DOM_REQ d.val != 1 then dsGated else dsOn))

end Sys2Proof.Machine
end

