-- ==== Sys2Proof/Machine/Modes.lean ====
section
/-! DEFINITION. Meanings of the mode, drain, standby, boot and lease commands (spec/03 R53-R72, R80-R84, spec/17 R469-R473). -/

namespace Sys2Proof.Machine

open Sys2Proof

/-- A request for RUN (GLB_REQ_OP = 1): from LOAD with the start conditions of R84, else GLB_E_ORDER. -/
def State.reqRun (s : State) : State :=
  if !s.settled || s.mod.mode != .load then s.modeRefused
  else if s.startOk then s.enterMode .run else s.raise .GLB_E_ORDER

/-- R84, Table 03.2. -/
def execRunRequest (src : Src) (s : State) : Res := .next (s.held src State.reqRun)

/-- A request for STANDBY (GLB_REQ_OP = 2): in LOAD with the HBM-initialised flag set; the standby save begins (R65). -/
def State.reqStandby (s : State) : State :=
  if !s.settled || s.mod.mode != .load then s.modeRefused
  else if s.rb .MEM_INIT_FLAG then { s with mod := { s.mod with trans := some .standbySave } }
  else s.raise .GLB_E_ORDER

/-- R65. -/
def execStandbyRequest (src : Src) (s : State) : Res := .next (s.held src State.reqStandby)

/-- Targets of a DRAIN (Table 03.2, GLB_REQ_TARGET). -/
def drainTargetOf : Nat → Option Mode
  | 5 => some .standby
  | 4 => some .load
  | 1 => some .dormant
  | 10 => some .repair
  | _ => none

/-- The device enters DRAIN with a target (R62). -/
def State.startDrain (s : State) (m : Mode) : State :=
  let s := { s with boot := { s.boot with drainTarget := m } }.enterMode .drain
  { s with mod := { s.mod with trans := some .drain } }

/-- A request for DRAIN from mode `frm` with a target code (R58, R62). -/
def State.reqDrain (s : State) (frm : Mode) (target : Nat) : State :=
  match drainTargetOf target with
  | some m => if s.settled && s.mod.mode == frm then s.startDrain m else s.modeRefused
  | none => s.modeRefused

/-- R62: GLB_REQ_OP = 3 by the lease holder in RUN. -/
def execDrainRequest (src : Src) (target : BitVec 4) (s : State) : Res :=
  .next (s.held src fun s => (s.setN .GLB_REQ_TARGET 0 target.toNat).reqDrain .run target.toNat)

/-- A cancel of a DRAIN: RUN again, before its completion and while the holder keeps the lease (R59, R60). -/
def State.reqCancel (s : State) : State :=
  if s.mod.mode == .drain && s.mod.trans == some .drain && s.mod.holder.isSome then s.enterMode .run else s.modeRefused

/-- R59: GLB_REQ_OP = 4. -/
def execDrainCancel (src : Src) (s : State) : Res := .next (s.held src State.reqCancel)

/-- The drain goes to its target (R62, R63): a target STANDBY begins the standby save. The packet-memory banks are held on no
longer (R294). -/
def State.drainEnd (s : State) : State :=
  let s := { s with swc := { s.swc with held := false } }
  match s.boot.drainTarget with
  | .standby => { s with mod := { s.mod with trans := some .standbySave } }
  | .dormant => s.dormantStart
  | m => s.enterMode m

/-- R62: all queues, pools and the matching store are empty. -/
def execDrainComplete (s : State) : Res :=
  if s.mod.mode == .drain && s.mod.trans == some .drain && s.drained then .next s.drainEnd else .next s

/-- R62: not complete 10 ms after entry: forced. -/
def execDrainForced (s : State) : Res :=
  if s.mod.mode == .drain && s.mod.trans == some .drain then .next ((s.forceDrain.raise .GLB_W_DRAIN_FORCED).drainEnd) else .next s

/-- R63: the save finishes; every domain not listed for STANDBY powers down. -/
def execStandbySaveDone (s : State) : Res :=
  if s.mod.trans ≠ some .standbySave then .next s else
  .next (s.saveDone.enterMode .standby)

/-- A wake event in STANDBY begins the restore (R64, R502). -/
def State.wake (s : State) : State :=
  if s.mod.mode == .standby && s.mod.trans.isNone then { s with mod := { s.mod with trans := some .standbyWake } } else s

/-- R64: sideband activity of a host eligible for the lease. -/
def execStandbyWakeSideband (h : Fin 4) (s : State) : Res :=
  .next (if (s.part h.val).eligible then s.wake else s)

/-- R64, R478: the Meridian seconds [31:0] equal GLB_WAKE_SEC, when that is not 0. -/
def execStandbyWakeTime (s : State) : Res :=
  .next (if s.rb .GLB_WAKE_SEC && s.sec % 2 ^ 32 == s.rn .GLB_WAKE_SEC then s.wake else s)

/-- R64, R65: the restore checks its CRC and writes back the saved state; ISOLATED with the start conditions of R84,
else LOAD; a CRC failure raises GLB_E_RESTORE and discards the save area. `crcOk` says that the area has kept what the save
wrote but for what the machine knows to have changed it. -/
def execStandbyRestoreDone (crcOk : Bool) (s : State) : Res :=
  if s.mod.trans ≠ some .standbyWake then .next s else
  let s := s.wakeHbm
  if crcOk && s.boot.saved && s.hbm.saveIntact then
    let s := { s.afterRestore with boot := { s.afterRestore.boot with saved := false } }
    .next (if s.startOk then s.enterMode .isolated else s.enterMode .load)
  else
    let s := { s.dropSaved with boot := { s.dropSaved.boot with saved := false } }
    .next ((s.raise .GLB_E_RESTORE).enterMode .load)

/-- R70, R71: the steward start-up of 0.1 ms ends. -/
def execBootStartupDone (s : State) : Res :=
  if s.mod.mode ≠ .boot || s.mod.trans.isSome || s.boot.bootPhase ≠ 0 then .next s else
  if s.boot.straps.getLsbD 3 && !s.dbgLock then .next (s.enterMode .test)
  else
    let s := if s.boot.straps.getLsbD 3 then s.raise .GLB_W_STRAP else s
    match s.boot.straps.toNat % 4 with
    | 0 => .next (s.enterMode .load)
    | 3 => .next (s.enterMode .monitor)
    | _ => .next { s with boot := { s.boot with bootPhase := 1 } }

/-- What SFDP discovery finds (R71): the density, the read mode with STRAP[2], and the address width and 1-4-4 fast-read
instruction, which are the chip's: free values (notes/assumptions/2.md). -/
def State.takeSfdp (s : State) (has144 : Bool) (density : Nat) : State :=
  let want := s.boot.straps.getLsbD 2
  let (f, s) := s.draw
  let s := { s with boot := { s.boot with density := density, read144 := want && has144, addrBytes := if f.getLsbD 0 then 4 else 3,
                                          readOp := if has144 then f.extractLsb' 8 8 else 0 } }
  if want && !has144 then s.raise .GLB_W_STRAP else s

/-- R71: the SFDP table has been read: density, address width (3 or 4 bytes) and the 1-4-4 fast-read instruction; the last
two are values of the flash that the command does not carry, so they are free. STRAP2 without a 1-4-4 read raises
GLB_W_STRAP. -/
def execSfdpDiscoveryDone (has144 : Bool) (density : Nat) (s : State) : Res :=
  if s.mod.mode ≠ .boot || s.mod.trans.isSome || s.boot.bootPhase ≠ 1 then .next s else
  .next ({ s with boot := { s.boot with bootPhase := 2 } }.takeSfdp has144 density)

/-- R84, Table 03.2: a steward-conducted load completes with the start conditions met. -/
def execStewardLoadDone (s : State) : Res :=
  if s.stewardConducts && s.settled && s.startOk then
    .next ({ s with boot := { s.boot with stewardLoad := false } }.enterMode .isolated)
  else .next s

/-- R66: a write of 0xA55A to GLB_RESET_GO, cause 3; other values have no effect. -/
def execGlbResetGo (src : Src) (v : BitVec 16) (s : State) : Res :=
  .next (s.held src fun s => if v = 0xA55A#16 then s.warmStart 3 else s)

/-- R502: the warm reset ends; GLB_MODE_CODE reads BOOT, and GLB_I_RESET carries its cause. -/
def execWarmResetComplete (s : State) : Res :=
  if s.mod.trans ≠ some .warmReset then .next s else
  let s := { s with mod := { s.mod with trans := none } }.setN .GLB_RESET_CAUSE 0 s.boot.warmCause
  let s := s.settleDomains .boot
  let s := if s.boot.preMode == .boot then s else s.raise .GLB_I_MODE (modeCode s.boot.preMode) 2
  .next (s.raise .GLB_I_RESET s.boot.warmCause)

/-- R502: all 80 domains are off and GLB_MODE_CODE reads DORMANT. -/
def execDormantEntryComplete (s : State) : Res :=
  if s.mod.trans ≠ some .toDormant then .next s else
  let s := { s with mod := { s.mod with trans := none } }.settleDomains .dormant
  .next (s.raise .GLB_I_MODE (modeCode s.boot.preMode) 1)

/-! ### The lease (spec/17 R471-R473) -/

/-- The outcome of a lease operation in the issuer's GLB_LM_OUT and GLB_LM_ERR. -/
def State.leaseRefuse (s : State) (fn : Nat) (e : Ev) : State :=
  (((s.setN .GLB_LM_OUT fn 2).setN .GLB_LM_ERR fn e.code).raise e fn)

/-- A write of GLB_LC_TERM_MS is clamped to 10 to 10,000. -/
def State.wrTerm (s : State) (fn termMs : Nat) : State := s.setN .GLB_LC_TERM_MS fn (clampN 10 10000 termMs)

/-- A mode that admits a claim (R471): LOAD conducted by a host, or ISOLATED; RUN is always held and reaches the
third test. -/
def State.claimMode (s : State) : Bool :=
  (s.mod.mode == .load && !s.boot.stewardLoad) || s.mod.mode == .isolated || s.mod.mode == .run

/-- The first test of R471 that a claim of host `h` fails. -/
def State.claimTest (s : State) (h : Nat) : Option Ev :=
  if !(s.part h).eligible then some .GLB_E_LEASE_ELIG
  else if !s.claimMode then some .GLB_E_LEASE_MODE
  else if s.mod.holder.isSome then some .GLB_E_LEASE_HELD
  else none

/-- Among hosts claiming in one cycle, the eligible one with the lowest precedence (R472). -/
def State.claimWinner (s : State) (l : List (Fin 4)) : Option (Fin 4) :=
  (l.filter fun h => s.claimTest h.val == none).foldl
    (fun w h => match w with
      | none => some h
      | some g => if (s.part h.val).prec < (s.part g.val).prec then some h else some g) none

/-- One claimant's outcome beside the winner. -/
def State.claimLose (s₀ : State) (w : Option (Fin 4)) (s : State) (h : Fin 4) : State :=
  if w = some h then s
  else s.leaseRefuse h.val ((s₀.claimTest h.val).getD .GLB_E_LEASE_HELD)

/-- R471, R472: CLAIM of the issuer, with the rivals whose claims arrive in the same cycle (bit h: host h). -/
def execClaim (src : Src) (termMs : BitVec 14) (rivals : BitVec 4) (s : State) : Res :=
  match src with
  | .host h =>
    let s := s.wrTerm h.val termMs.toNat
    let l := ([0, 1, 2, 3] : List (Fin 4)).filter fun g => g == h || rivals.getLsbD g.val
    let w := s.claimWinner l
    let t := match w with
      | some g => s.grantLease g (s.rn .GLB_LC_TERM_MS g.val)
      | none => s
    .next (l.foldl (s.claimLose w) t)
  | .steward => .next ((s.wrTerm 4 termMs.toNat).leaseRefuse 4 .GLB_E_LEASE_ELIG)
  | .engine _ => .next s

/-- A RENEW or RELEASE that is not the holder's is refused with HST_E_FENCED (R471). -/
def State.leaseFenced (s : State) (src : Src) : State :=
  ((s.setN .GLB_LM_OUT (fnOf src) 2).setN .GLB_LM_ERR (fnOf src) (Ev.code .HST_E_FENCED)).fenced src

/-- R471: the holder restarts the term. -/
def execRenew (src : Src) (termMs : BitVec 14) (s : State) : Res :=
  match src with
  | .engine _ => .next s
  | _ =>
    let s := s.wrTerm (fnOf src) termMs.toNat
    if s.isHolder src then
      let s := { s with mod := { s.mod with left := s.rn .GLB_LC_TERM_MS (fnOf src) * 1000000 * 2 ^ 32 } }
      .next ((s.setN .GLB_LM_OUT (fnOf src) 1).setN .GLB_LM_ERR (fnOf src) 0)
    else .next (s.leaseFenced src)

/-- R471: the holder ends the lease. -/
def execLeaseRelease (src : Src) (s : State) : Res :=
  match src with
  | .engine _ => .next s
  | _ =>
    if s.isHolder src then
      .next (((s.endLease .GLB_I_LEASE_END).setN .GLB_LM_OUT (fnOf src) 1).setN .GLB_LM_ERR (fnOf src) 0)
    else .next (s.leaseFenced src)

/-- R473: the term reaches 0 without renewal. -/
def execLeaseLapse (s : State) : Res := .next (s.endLease .GLB_W_LEASE_LAPSED)

end Sys2Proof.Machine
end

