-- ==== Sys2Proof/Machine/Hbm.lean ====
section
/-! DEFINITION. Meanings of the HBM commands (spec/16 R435-R447, spec/03 R78-R80, spec/04 R102). -/

namespace Sys2Proof.Machine

open Sys2Proof

/-- R439, R80: PHY training ends in LOAD. With the flag clear the pass starts and draws the scramble seed (R431). -/
def execHbmTrainDone (ok : Bool) (s : State) : Res :=
  if s.mod.mode ≠ .load || s.rb .MEM_TRAINED then .next s else
  if !ok then .next (s.raise .MEM_E_TRAIN) else
  let s := (s.setB .MEM_TRAINED 0 true).setB .MEM_SELF_REF 0 false
  if s.rb .MEM_INIT_FLAG then .next s else
  let (f, s) := s.draw
  let (g, s) := s.draw
  .next (({ s with boot := { s.boot with hbmPass := true }, hbm := { s.hbm with seed := g ++ f } }.setB .MEM_INIT_BUSY 0 true).setN .MEM_INIT_PCT 0 0)

/-- R80, R439: the initialiser has written the whole stack with zero data and valid check bits. -/
def execHbmPassDone (s : State) : Res :=
  if !s.boot.hbmPass then .next s else
  let s := { s with boot := { s.boot with hbmPass := false },
                    hbm := { s.hbm with bytes := [], filled := true, save := none, marks := [], check := [], wq := [] } }
  .next ((((s.noRecords.setB .MEM_INIT_FLAG 0 true).setB .MEM_INIT_BUSY 0 false).setN .MEM_INIT_PCT 0 100).raise .MEM_I_INIT_DONE)

/-- R102: a requested change of T takes effect at a second boundary. -/
def execRefwRateChange (s : State) : Res :=
  if s.reg .TIM_REFW_NEXT = s.reg .TIM_REFW_INT then .next s else
  .next (((s.setReg .TIM_REFW_INT 0 (s.reg .TIM_REFW_NEXT)).setB .MEM_HOT_INSERT 0 false).raise .TIM_I_REFW_RATE (s.rn .TIM_REFW_NEXT))

/-- Spacing of the windows in nanoseconds: T (R102), or that of the 1,950 ns grid while midpoint windows are inserted
(R436). -/
def State.refT (s : State) : Nat := if s.rb .TIM_REFW_INT || s.rb .MEM_HOT_INSERT then 1950 else 3900

/-- First point of the window grid of the present second, in ns: the second boundary, or after a step the window that
followed it (R102). -/
def State.refOrigin (s : State) : Nat := max (s.sec * 1000000000) s.tim.refOrg

/-- Grid point at or before Meridian: that origin + n × T. -/
def State.refGrid (s : State) : Nat := s.refOrigin + (s.nowNs - s.refOrigin) / s.refT * s.refT

/-- The next grid point, in ns; a point at or after the next second boundary is omitted (R102). -/
def State.refGridNext (s : State) : Nat :=
  if s.nowNs < s.refOrigin then s.refOrigin else min (s.refGrid + s.refT) ((s.sec + 1) * 1000000000)

/-- The window that follows a step: the earlier of the last window start + T and the next grid point of the new time (R102). -/
def State.refAfterStep (s : State) : Nat :=
  let g := min ((s.nsec / s.refT + 1) * s.refT) 1000000000 + s.sec * 1000000000
  let last := s.tim.refLast + s.refT * tickNs
  if s.tim.stepFree ≤ last then min g ((s.tim.now + (last - s.tim.stepFree)) / tickNs) else g

/-- R102, R435, R437: a refresh window begins; up to two queued rows of each PC are refreshed in it. -/
def execRefreshWindow (s : State) : Res :=
  if s.rb .MEM_SELF_REF || !s.rb .MEM_TRAINED then .next s else
  let n := s.hbm.neigh.foldl (fun a e => a + min 2 e.2.length) 0
  let s := if n = 0 then s else s.bump .MEM_CNT_NR_ISSUED 0 n
  let left := (s.hbm.neigh.map fun e => (e.1, e.2.drop 2)).filter fun e => !e.2.isEmpty
  .next { s with hbm := { s.hbm with neigh := left }, tim := { s.tim with refLast := s.tim.stepFree - (s.tim.now - s.refGrid * tickNs) } }

/-- The 1 ms comparison of the stack temperature with MEM_REF_UP_C and MEM_REF_DN_C (R435): 10 s are 10,000 readings. -/
def State.refreshRequest (s : State) (t : Int) : State :=
  if (4 * s.rn .MEM_REF_UP_C : Int) ≤ t then { s.setB .TIM_REFW_NEXT 0 true with hbm := { s.hbm with dnCount := 0 } }
  else if t < (4 * s.rn .MEM_REF_DN_C : Int) then
    let n := satAdd 10000 s.hbm.dnCount 1
    let s := { s with hbm := { s.hbm with dnCount := n } }
    if n = 10000 then s.setB .TIM_REFW_NEXT 0 false else s
  else { s with hbm := { s.hbm with dnCount := 0 } }

/-- Above 85 °C at the full interval a refresh is inserted between two windows until the rate changes (R436). -/
def State.hotInsert (s : State) (t : Int) : State :=
  if 340 ≤ t && !s.rb .TIM_REFW_INT && !s.rb .MEM_HOT_INSERT then (s.setB .MEM_HOT_INSERT 0 true).raise .MEM_W_HOT_REFRESH else s

/-- MEM_E_STACK_HOT is raised when the stack reaches its limit, not again while it stays there (R436). -/
def State.stackHotEvent (s : State) : State :=
  if s.fus.stackHot then s else (s.raise .MEM_E_STACK_HOT).setB .HEA_EVT_FATAL 0 true

/-- The stack at or above 105 °C is a SAFE-HOLD cause (R436). -/
def State.stackLimit (s : State) (t : Int) : State :=
  if 420 ≤ t then { s.stackHotEvent with fus := { s.stackHotEvent.fus with stackHot := true } }.evalFatal.safeHoldCause
  else { s with fus := { s.fus with stackHot := false } }.evalFatal

/-- R435, R436: the 1 ms reading of the stack sensor, in quarter degrees. -/
def execMemTempSample (temp : BitVec 16) (s : State) : Res :=
  if s.mod.mode = .off || s.mod.mode = .dormant then .next s else
  .next ((((s.setN .MEM_STACK_TEMP 0 temp.toNat).refreshRequest (signed 16 temp.toNat)).hotInsert
    (signed 16 temp.toNat)).stackLimit (signed 16 temp.toNat))

/-- The words in error once a scrub has found `upsets`, two bits a word, in block `blk`: 1 one bit, 2 or 3
uncorrectable; a second upset in a word in error makes it uncorrectable. -/
def upsetMarks (m : SMap Bool) (blk upsets : Nat) : SMap Bool :=
  (List.range 8).foldl (fun m i =>
      match bitsOf upsets (2 * i + 1) (2 * i) with
      | 0 => m
      | 1 => SMap.set m (8 * blk + i) (SMap.find m (8 * blk + i)).isSome
      | _ => SMap.set m (8 * blk + i) true) m

/-- The scrubber has dealt with block `blk`: its one-bit errors are rewritten corrected, and the pass moves on (R441). -/
def State.scrubbed (s : State) (blk : Nat) : State :=
  let t := { s with hbm := { s.hbm with marks := s.hbm.marks.filter fun e => e.1 / 8 ≠ blk || e.2 } }.setN .MEM_SCRUB_PCT 0 ((blk + 1) * 100 / 2 ^ 28 % 100)
  if blk + 1 = 2 ^ 28 then t.countF .MEM_SCRUB_PASSES else t

/-- R440, R441: the scrubber reads block `blk`. `upsets` gives the error it finds in each word beside those already there.
Errors of more bits are only logged (reader 9). -/
def execMemScrub (blk : BitVec 28) (upsets : BitVec 16) (s : State) : Res :=
  if !s.rb .MEM_SCRUB_EN || !s.rb .MEM_INIT_FLAG || s.rb .MEM_SELF_REF then .next s else
  .next ((State.hbmRead { s with hbm := { s.hbm with marks := upsetMarks s.hbm.marks blk.toNat upsets.toNat } } (64 * blk.toNat) 64 9).2.scrubbed blk.toNat)

/-- Lowest free spare of a bank (R443). -/
def State.freeSpare (s : State) (bank : Nat) : Option Nat :=
  [0, 1, 2, 3].find? fun j => !bitOf (s.hbm.spares.get 0 bank) j

/-- Lowest free entry of the remap table. -/
def State.freeRemap (s : State) : Option Nat := (List.range 128).find? fun n => !s.rb .MEM_RMP_VALID n

/-- A row (bank * 32,768 + physical row) is directed to the lowest free spare of its bank, and the margins, the
statement and REPLACE_N follow (R443, R490, R491). -/
def State.remapRow (s : State) (row : Nat) : Option State :=
  match s.freeSpare (row / 32768), s.freeRemap with
  | some j, some n =>
    some ((s.setRemap n (row / 32768 / 16) (row / 32768 % 16) (row % 32768) j false).remapMargins.restate.evalReplace)
  | _, _ => none

/-- The copy of a row corrects its single-bit errors; an uncorrectable word keeps its error in the spare (R443). -/
def State.copyRow (s : State) (row : Nat) : State :=
  { s with hbm := { s.hbm with marks := s.hbm.marks.filter fun e => e.2 || s.rowKey (8 * e.1) != row } }

/-- A row that cannot be remapped stays in service, and MEM_E_NO_SPARE is raised once for it (R442). -/
def State.rowStays (s : State) (row : Nat) : State :=
  if s.hbm.noSpare.contains row then s
  else { s with hbm := { s.hbm with noSpare := row :: s.hbm.noSpare } }.raise .MEM_E_NO_SPARE row

/-- R443: the row that qualified first is copied to a spare and the entry committed. -/
def execRemap (s : State) : Res :=
  match s.hbm.qual with
  | [] => .next s
  | row :: rest =>
    let s := { s with hbm := { s.hbm with qual := rest, tracker := s.hbm.tracker.filter fun e => e.1 != row } }
    match s.remapRow row with
    | some t => .next (((t.copyRow row).bump .MEM_CNT_REMAP).raise .MEM_I_REMAP row)
    | none => .next (s.rowStays row)

/-- A repair or checker operation is refused with MEM_E_CMD; the outcome shows it unless one is in progress (R505). -/
def State.memRefuse (s : State) (out : Field) : State :=
  (if s.rn out = 1 then s else s.setN out 0 3).raise .MEM_E_CMD

/-- A start of a repair operation (R446). -/
def State.startRepair (s : State) (op : Nat) : State :=
  if s.mod.mode ≠ .repair || s.rn .MEM_RPR_OUT = 1 then s.memRefuse .MEM_RPR_OUT
  else { s.setN .MEM_RPR_OUT 0 1 with hbm := { s.hbm with rprOp := op } }

/-- R446: MEM_RPR_OP = 1. -/
def execTestAll (src : Src) (s : State) : Res := .next (s.guarded src .MEM fun s => s.startRepair 1)

/-- R446: MEM_RPR_OP = 2. -/
def execBurn (src : Src) (s : State) : Res := .next (s.guarded src .MEM fun s => s.startRepair 2)

/-- Word of a remap fuse entry (Table 16.5). -/
def rmpWord (pc bank row spare : Nat) : Nat :=
  let w := 2 ^ 31 + pc * 2 ^ 26 + bank * 2 ^ 22 + row * 128 + spare * 32
  w + rmpCheck w

/-- Remap entry `n`, if it is not fused, is written to the first free word of the repair region; with none free it is
counted as left (R446). -/
def State.burnEntry (s : State) (left n : Nat) : State × Nat :=
  if !s.rb .MEM_RMP_VALID n || s.rb .MEM_RMP_FUSE n then (s, left) else
  match (List.range' 128 96).find? fun w => s.fus.array.get 0#32 w == 0#32 with
  | none => (s, left + 1)
  | some w =>
    ({ s.setB .MEM_RMP_FUSE n true with
        fus := { s.fus with array := s.fus.array.put 0#32 w (BitVec.ofNat 32
          (rmpWord (s.rn .MEM_RMP_PC n) (s.rn .MEM_RMP_BANK n) (s.rn .MEM_RMP_ROW n) (s.rn .MEM_RMP_SPARE n))) } }, left)

/-- Remap entries not fused, in table order, are written to the free words of the repair region; the number left is
returned (R446). -/
def State.burnRemap (s : State) : State × Nat := (List.range 128).foldl (fun acc n => acc.1.burnEntry acc.2 n) (s, 0)

/-- Spares that TEST_ALL found unusable are marked used (R446). -/
def State.markSpares (s : State) (spares : List (Fin 32 × Fin 16 × Fin 4)) : State :=
  { s with hbm := { s.hbm with spares := spares.foldl (fun m e => m.upd 0 (e.1.val * 16 + e.2.1.val) fun x => x.lor (2 ^ e.2.2.val)) s.hbm.spares } }

/-- A row that TEST_ALL found failing: remapped without the copy (R446). It is not in service, so MEM_CNT_REMAP does not
count it (Table 16.8). -/
def State.rowFailed (s : State) (row : Nat) : State :=
  match s.remapRow row with
  | some t => t.raise .MEM_I_REMAP row
  | none => s.rowStays row

/-- TEST_ALL found failing rows: the content is lost and each row is directed to a spare (R446). -/
def State.rowsTested (s : State) (rows : List (Fin 32 × Fin 16 × Fin 32768)) (spares : List (Fin 32 × Fin 16 × Fin 4)) : State :=
  (rows.foldl (fun s e => s.rowFailed ((e.1.val * 16 + e.2.1.val) * 32768 + e.2.2.val)) (s.loseHbm.markSpares spares).remapMargins).setN
    .MEM_RPR_FAILROWS 0 (min 65535 rows.length)

/-- BURN wrote what it could: entries left without a word raise MEM_E_BURN (R446). -/
def State.rowsBurned (s : State) : State :=
  if s.burnRemap.2 = 0 then s.burnRemap.1.remapMargins else s.burnRemap.1.remapMargins.raise .MEM_E_BURN s.burnRemap.2

/-- A repair operation is over (R446). -/
def State.endRepair (s : State) : State :=
  { s.setN .MEM_RPR_OUT 0 2 with hbm := { s.hbm with rprOp := 0 } }.raise .MEM_I_RPR_DONE

/-- R446: a repair operation ends. TEST_ALL names the failing rows and unused spares it found; BURN names none. -/
def execRepairDone (rows : List (Fin 32 × Fin 16 × Fin 32768)) (spares : List (Fin 32 × Fin 16 × Fin 4)) (s : State) : Res :=
  if s.hbm.rprOp = 1 then .next (s.rowsTested rows spares).endRepair
  else if s.hbm.rprOp = 2 then .next s.rowsBurned.endRepair
  else .next s

/-- Address of the checker word (R447). -/
def State.chkWord (s : State) : Nat := s.rn .MEM_CHK_ADDR_LO + s.rn .MEM_CHK_ADDR_HI * 2 ^ 29

/-- Data of the checker registers. -/
def State.chkData (s : State) : BitVec 64 := s.reg .MEM_CHK_DATA_HI ++ s.reg .MEM_CHK_DATA_LO

/-- A checker operation (R447): only in TEST and REPAIR. -/
def State.checker (s : State) (f : State → State) : State :=
  if (s.mod.mode ≠ .test && s.mod.mode ≠ .repair) || s.rn .MEM_CHK_OUT = 1 then s.memRefuse .MEM_CHK_OUT
  else (f s).setN .MEM_CHK_OUT 0 2

/-- MEM_CHK_OP = 1. -/
def State.chkComputed (s : State) : State :=
  let w := s.chkWord
  { s with hbm := { s.hbm.putBytes (8 * w) (leBytes 8 s.chkData.toNat) with
      check := s.hbm.check.filter (fun e => e.1 != w), marks := s.hbm.marks.filter fun e => e.1 != w } }

/-- MEM_CHK_OP = 2. -/
def State.chkRaw (s : State) : State :=
  let w := s.chkWord
  { s with hbm := { s.hbm.putBytes (8 * w) (leBytes 8 s.chkData.toNat) with
      check := s.hbm.check.set w ((s.reg .MEM_CHK_CB).setWidth 8), marks := s.hbm.marks.filter fun e => e.1 != w } }

/-- MEM_CHK_OP = 3: stored data and check bits, and the syndrome. -/
def State.chkRead (s : State) : State :=
  let w := s.chkWord
  let d := BitVec.ofNat 64 (s.hbmNat (8 * w) 8)
  let cb := (s.hbm.check.find w).getD (Config.hbmCheck d)
  let s := (s.setReg .MEM_CHK_DATA_LO 0 (d.setWidth 32)).setReg .MEM_CHK_DATA_HI 0 (d.extractLsb' 32 32)
  (s.setReg .MEM_CHK_CB 0 (cb.setWidth 32)).setReg .MEM_CHK_SYND 0 ((Config.hbmSyndrome d cb).setWidth 32)

/-- R447: write computed. -/
def execWriteComputed (src : Src) (s : State) : Res := .next (s.guarded src .MEM fun s => s.checker State.chkComputed)

/-- R447: write raw. -/
def execWriteRaw (src : Src) (s : State) : Res := .next (s.guarded src .MEM fun s => s.checker State.chkRaw)

/-- R447: read raw. -/
def execReadRaw (src : Src) (s : State) : Res := .next (s.guarded src .MEM fun s => s.checker State.chkRead)

/-- R452: a write of 1 to MEM_CNT_CLR. -/
def execMemCntClr (src : Src) (s : State) : Res := .next (s.guarded src .MEM fun s => s.clearBlockCtrs .MEM)

end Sys2Proof.Machine
end

