-- ==== Sys2Proof/Machine/Flags.lean ====
section
/-! DEFINITION. The engines have no condition flags (spec/13 R339): a branch compares two registers. The comparisons of
Table 13.5 and the arithmetic whose corners R347 states. -/

namespace Sys2Proof.Machine

/-- Comparison of a conditional branch (0x40 to 0x45). -/
inductive Cond where
  | eq | ne | lt | ge | ltu | geu
  deriving DecidableEq, Repr

/-- The comparison holds of rs1 and rs2. -/
def Cond.holds (c : Cond) (a b : BitVec 64) : Bool :=
  match c with
  | .eq => a == b
  | .ne => a != b
  | .lt => a.slt b
  | .ge => !a.slt b
  | .ltu => a.ult b
  | .geu => !a.ult b

/-- Quotient and remainder, signed (R347): toward zero; a zero divisor gives 0 and the dividend; −2^63 by −1 saturates. -/
def divS (a b : BitVec 64) : BitVec 64 :=
  if b = 0 then 0
  else if a = BitVec.intMin 64 ∧ b = -1 then BitVec.ofNat 64 (2 ^ 63 - 1)
  else BitVec.ofInt 64 (a.toInt.tdiv b.toInt)
def remS (a b : BitVec 64) : BitVec 64 :=
  if b = 0 then a
  else if a = BitVec.intMin 64 ∧ b = -1 then -1
  else BitVec.ofInt 64 (a.toInt.tmod b.toInt)

/-- Quotient and remainder, unsigned. -/
def divU (a b : BitVec 64) : BitVec 64 := BitVec.ofNat 64 (a.toNat / b.toNat)
def remU (a b : BitVec 64) : BitVec 64 := BitVec.ofNat 64 (a.toNat % b.toNat)

/-- High halves of a product. -/
def mulHiS (a b : BitVec 64) : BitVec 64 := BitVec.ofInt 64 (a.toInt * b.toInt / (2 ^ 64 : Nat))
def mulHiU (a b : BitVec 64) : BitVec 64 := BitVec.ofNat 64 (a.toNat * b.toNat / 2 ^ 64)

/-- Leading zeros, and 1 bits. -/
def clz (a : BitVec 64) : BitVec 64 := if a = 0 then 64 else BitVec.ofNat 64 (63 - a.toNat.log2)
def popc (a : BitVec 64) : BitVec 64 := BitVec.ofNat 64 ((List.range 64).filter fun i => a.getLsbD i).length

/-- The low `n` bytes reversed, zero-extended. -/
def bswap (n : Nat) (a : BitVec 64) : BitVec 64 :=
  BitVec.ofNat 64 ((List.range n).foldl (fun r i => r * 256 + a.toNat / 256 ^ i % 256) 0)

end Sys2Proof.Machine
end

