-- ==== Sys2Proof/Machine/Operands.lean ====
section
/-! DEFINITION. The operand forms of the engine instructions (spec/13 R339, R344): the fields of Table 13.3, taken from bits
[24:0] of a word, the registers they name, and the effective address. -/

namespace Sys2Proof.Machine

open Sys2Proof

/-! ### Fields of Table 13.3 -/

/-- Forms A, B, C and F: rd. -/
def rdOf (w : BitVec 25) : Nat := (w.extractLsb' 20 5).toNat
/-- Forms A, B and F: rs1. -/
def rs1Of (w : BitVec 25) : Nat := (w.extractLsb' 15 5).toNat
/-- Forms A and F: rs2. -/
def rs2Of (w : BitVec 25) : Nat := (w.extractLsb' 10 5).toNat
/-- Form A: fn. -/
def fnOf10 (w : BitVec 25) : Nat := (w.extractLsb' 0 10).toNat
/-- Forms B and D: imm15 or disp15, and form C: imm20, sign-extended. -/
def imm15 (w : BitVec 25) : BitVec 64 := (w.extractLsb' 0 15).signExtend 64
def imm20 (w : BitVec 25) : BitVec 64 := (w.extractLsb' 0 20).signExtend 64
/-- Form D: rs1 and rs2. -/
def rs1D (w : BitVec 25) : Nat := rdOf w
def rs2D (w : BitVec 25) : Nat := rs1Of w
/-- Form E: vd, va, vb, rs, fn. -/
def vdOf (w : BitVec 25) : Nat := (w.extractLsb' 21 4).toNat
def vaOf (w : BitVec 25) : Nat := (w.extractLsb' 17 4).toNat
def vbOf (w : BitVec 25) : Nat := (w.extractLsb' 13 4).toNat
def rsE (w : BitVec 25) : Nat := (w.extractLsb' 8 5).toNat
def fnE (w : BitVec 25) : Nat := (w.extractLsb' 0 8).toNat
/-- Form F: sub and fl. -/
def subOf (w : BitVec 25) : Nat := (w.extractLsb' 5 5).toNat
def flOf (w : BitVec 25) : Nat := (w.extractLsb' 0 5).toNat

/-- A form F word has only the fields in use, a sub of at most `sub` and no fl bit outside `fl` (R344). -/
def formF (w : BitVec 25) (rd rs1 rs2 : Bool) (sub fl : Nat) : Bool :=
  (rd || rdOf w == 0) && (rs1 || rs1Of w == 0) && (rs2 || rs2Of w == 0) && decide (subOf w ≤ sub) && flOf w == (flOf w).land fl

/-- A form E word of the vector unit has only the fields in use. -/
def formE (w : BitVec 25) (vd va vb rs : Bool) : Bool :=
  (vd || vdOf w == 0) && (va || vaOf w == 0) && (vb || vbOf w == 0) && (rs || rsE w == 0)

/-! ### Registers (R339) -/

/-- General register `i`: g0 reads 0. -/
def Ctx.rg (x : Ctx) (i : Nat) : BitVec 64 := if i = 0 then 0 else x.g.get 0 i

/-- The context with `v` in general register `i`: a write to g0 is ignored. -/
def Ctx.wr (x : Ctx) (i : Nat) (v : BitVec 64) : Ctx := if i = 0 then x else { x with g := x.g.put 0 i v }

/-- Vector register `i`. -/
def Ctx.rv (x : Ctx) (i : Nat) : BitVec 256 := x.v.get 0 i
def Ctx.wv (x : Ctx) (i : Nat) (v : BitVec 256) : Ctx := { x with v := x.v.put 0 i v }

/-- Effective address of a scalar access: rs1 + sext(imm15). -/
def Ctx.ea (x : Ctx) (w : BitVec 25) : BitVec 64 := x.rg (rs1Of w) + imm15 w

/-- Effective address of a vector access: rs + 32 × fn. -/
def Ctx.eaV (x : Ctx) (w : BitVec 25) : BitVec 64 := x.rg (rsE w) + BitVec.ofNat 64 (32 * fnE w)

end Sys2Proof.Machine
end

