-- ==== Sys2Proof/Machine/Issue.lean ====
section
/-! DEFINITION. The issue of one instruction by a context (spec/13 R344, R346, R365, spec/14 R384): fetch, the check of the
word and of the budget, and the completion. -/

namespace Sys2Proof.Machine

open Sys2Proof

/-- The word at the PC of a context, read with its check: none where it is uncorrectable (R338). -/
def State.fetch (s : State) (k pc : Nat) : Option Nat × State :=
  let (bad, s) := s.engCheck (clOf k) [imemWord (engOf k) pc]
  (if bad then none else some (s.eng.imem.get 0#32 (engOf k * 16384 + pc / 4)).toNat, s)

/-- Opcodes of Table 13.5. -/
def opDefined (op : Nat) : Bool :=
  (0x01 ≤ op && op ≤ 0x18) || (0x20 ≤ op && op ≤ 0x2A) || (0x30 ≤ op && op ≤ 0x36) || (0x38 ≤ op && op ≤ 0x3D) ||
    (0x40 ≤ op && op ≤ 0x45) || (0x50 ≤ op && op ≤ 0x5E) || (0x60 ≤ op && op ≤ 0x75)

/-- Context `k` issues the word at its PC if it runs and the word is one that `sel` names; a context that a synchronous
authentication holds issues nothing. A PC beyond IMEM raises ADDRESS, an uncorrectable word MEMORY, and an instruction
past the declared budget BUDGET (R384). -/
def State.issueWhen (s : State) (k : Nat) (sel : Nat → Bool) (body : Nat → State → Ctx → State) : State :=
  let x := s.cx k
  if !(x.st == .running || x.st == .stalled) || x.auth then s
  else if 65536 ≤ x.pc then (s.exception k 3 0 0 x.pc)
  else match s.fetch k x.pc with
    | (none, t) => (t.exception k 7 0 0 x.pc).retireDue (clOf k)
    | (some f, t) =>
      if !sel f then s
      else if x.rcd.budget ≠ 0 && x.rcd.budget < x.cycle then t.exception k 8 0 f 0
      else (body f t x).retireDue (clOf k)

/-- Context `k` issues operation `op` with bits [24:0] `w`; `ok` says that its fields are as R344 asks. -/
def State.issue (s : State) (op : Nat) (k : Nat) (w : BitVec 25) (ok : Bool) (body : State → Ctx → State) : State :=
  s.issueWhen k (· == op * 2 ^ 25 + w.toNat) fun f s x => if ok then body s x else s.exception k 1 0 f 0

/-- An instruction completes: the context with its new registers goes on at `pc`. -/
def State.retire (s : State) (k : Nat) (x : Ctx) (pc : Nat) : State :=
  (s.setCx k { x with st := .running, pc := pc, cycle := x.cycle + 1, dmaw := none }).bump .ENG_CNT_INSN

/-- An instruction that writes rd and goes on. -/
def State.retireRd (s : State) (k rd : Nat) (v : BitVec 64) : State :=
  let x := s.cx k
  s.retire k (x.wr rd v) (x.pc + 4)

/-- An instruction that raises an exception, its word recorded. -/
def State.trapAt (s : State) (k code cause addr : Nat) (write : Bool := false) : State :=
  s.exception k code cause (s.insnAt k) addr write

/-- An instruction that waits: the context stays STALLED and issues it again. -/
def State.stallAt (s : State) (k : Nat) : State :=
  let x := s.cx k
  s.setCx k { x with st := .stalled, cycle := x.cycle + 1 }

end Sys2Proof.Machine
end

