-- ==== Sys2Proof/Machine/Tasks.lean ====
section
/-! DEFINITION. The meanings of the task commands and events (spec/14 R376-R386, R401-R403). -/

namespace Sys2Proof.Machine

open Sys2Proof

/-! ### Tokens and entries -/

/-- A partition that holds every cluster of a template, if it is the source's (R468). -/
def State.mayAddress (s : State) (src : Src) (m : Tmpl) : Bool :=
  match src with
  | .engine k => match s.clOwner (clOf k.val) with
    | some h => (List.range 24).all fun c => !bitOf m.clmask c || s.holdsCluster h c
    | none => false
  | src => s.inPartition src fun h => (List.range 24).all fun c => !bitOf m.clmask c || s.holdsCluster h c

/-- A task as the emitter of a token (R379, test 3). -/
def State.emitterOf (s : State) (k : Nat) : Emitter :=
  let x := s.cx k
  { cls := x.cls, any := bitOf x.rcd.perm 4,
    mayUse := fun c => match s.clOwner (clOf k) with
      | some h => s.holdsCluster h c
      | none => false }

/-- R379: a token of a device source, or of context `k`, is offered to the matching store. -/
def execTokenArrival (tmpl : Fin 16384) (pos : Fin 4) (tag : BitVec 32) (v : BitVec 64) (pin : Fin 32) (k : Option (Fin 1536)) (s : State) : Res :=
  let t : Token := { tmpl := tmpl.val, pos := pos.val, tag := tag.toNat, value := v.toNat, isBuf := false, pin := pin.val, grat := none }
  .next (s.sendTok t (k.map fun k => s.emitterOf k.val)).2

/-- R378: an entry that is not ready is discarded. -/
def execMatchTimeout (n : Nat) (s : State) : Res :=
  match s.tsk.ents.find n with
  | none => .next s
  | some e =>
    if e.ready then .next s else
    let s := (s.loseEnt n e).bump .TSK_CNT_MATCH_TMO 0 e.toks.length
    let s := s.fbook 11 (s.tmplCls e.tmpl) 0x7FF e.tmpl e.tag 0
    .next (s.raiseLimited .TSK_W_MATCH_TMO e.tmpl ms1 e.tmpl)

/-! ### Dispatch (R380, R381, R340) -/

/-- What the operand register file holds at a firing (R340). -/
def firedRegs (e : MEnt) (m : Tmpl) (caddr : Nat) : SMap (BitVec 64) :=
  let g := e.toks.foldl (fun g t => SMap.put 0#64 g (1 + t.pos) (BitVec.ofNat 64 t.value)) []
  let g := SMap.put 0#64 g 5 (BitVec.ofNat 64 (e.tag % 2 ^ 32))
  SMap.put 0#64 g 6 (BitVec.ofNat 64 (e.tmpl % 16384 + m.cls * 65536 + caddr * 2 ^ 32))

/-- What a token leaves at the firing: a Graticule token leaves its group's count (R280), and a buffer that the frame path
held for the token passes to the context (R340). -/
def State.consumeTok (s : State) (k : Nat) (t : Token) : State :=
  let s := match t.grat with
    | some g => s.setN .SAU_JG_TOK_OUT g (s.rn .SAU_JG_TOK_OUT g - 1)
    | none => s
  if !t.isBuf then s else
  let h := t.value % 2 ^ 20
  match s.buf h with
  | some b => if b.owner = ownSlow || b.owner < 64 then s else s.setBuf h { b with owner := ownCtx k }
  | none => s

/-- Entry `n` fires on engine `e`, on a free context that its class may use; a lower context is pre-empted. -/
def State.fireEnt (s : State) (n : Nat) (en : MEnt) (m : Tmpl) (e : Nat) : State :=
  let (f, s) := s.draw
  let ks := s.freeCtxs e m.cls
  match ks[f.toNat % ks.length]? with
  | none => s
  | some k =>
    let s := { s with tsk := { s.tsk with ents := s.tsk.ents.erase n } }
    let s := if (s.occupant e).isSome then s.preemptCtx e k else s
    let gen := ((s.cx k).gen + 1) % 65536
    let x : Ctx := { Ctx.none with st := .running, gen := gen, tmpl := en.tmpl, cls := m.cls, rcd := m, tag := en.tag,
                                   pc := m.entry, g := firedRegs en m (k + gen * 65536),
                                   bufs := (en.toks.filter (·.isBuf)).map fun t => t.value % 2 ^ 20 }
    let s := (en.toks.foldl (fun s t => s.consumeTok k t) (s.setCx k x)).bump .TSK_CNT_FIRE
    s.fbCtx 4 k 0

/-- The oldest ready entry of a class in cluster `c` (R382). -/
def State.headEnt (s : State) (c cls : Nat) : Option (Nat × MEnt) :=
  (s.tsk.ents.filter fun e => e.2.ready && e.2.cluster == c && s.tmplCls e.2.tmpl == cls).foldl (fun best e => match best with
    | some b => if e.2.order < b.2.order then some e else best
    | none => some e) none

/-- The entry that the dispatcher of cluster `c` takes: the highest class whose head finds an engine. -/
def State.nextFire (s : State) (c : Nat) : Option (Nat × MEnt × Tmpl × Nat) :=
  (List.range 4).findSome? fun cls => match s.headEnt c cls with
    | none => none
    | some (n, e) => match s.tsk.tmpls.find e.tmpl with
      | none => none
      | some m => (s.engineFor c cls m.engmask).map fun g => (n, e, m, g)

/-- R380-R382: cluster `c` dispatches a ready entry. A fenced cluster holds its firings (R369); one that sleeps wakes first. -/
def execDispatch (c : Fin 24) (s : State) : Res :=
  if s.rb .ENG_CL_FENCED c.val || s.clusterReset c.val then .next s else
  match s.nextFire c.val with
  | none => .next s
  | some (n, e, m, g) =>
    let s := s.wakeCluster c.val
    .next (if s.dom c.val = dsOn then s.fireEnt n e m g else s)

/-- R384: CYCLE passes TT_BUDGET, which the caller asserts. -/
def execBudgetExhausted (k : Fin 1536) (s : State) : Res :=
  let x := s.cx k.val
  .next (if x.rcd.budget ≠ 0 && x.holds then s.exception k.val 8 0 (s.insnAt k.val) 0 else s)

/-- R401: the hold of context `k`, or of transfer `q` of its cluster, expires. -/
def execFaultHoldTimeout (k : Fin 1536) (q : Option Nat) (s : State) : Res :=
  match q with
  | none =>
    let x := s.cx k.val
    .next (if x.st == .faulted && x.svc then s.holdExpired k.val else s)
  | some q =>
    match s.dmaOf (clOf k.val) q with
    | none => .next s
    | some d =>
      .next (if d.st == .fault then
        ((s.bump .TSK_CNT_FAULT_TMO).raiseLimited .TSK_W_FAULT_TMO d.cl ms1 d.ctx).dmaEnd d 5 d.cause
      else s)

/-! ### Templates (R376) -/

/-- TSK_TT_EN written 1: the checks of R376. -/
def State.startTmpl (s : State) (t : Nat) : State :=
  if s.rb .TSK_TT_EN t then s else
  match s.tsk.tmpls.find t with
  | none => s.raise .TSK_E_TMPL t
  | some m =>
    if (s.clusterSet m).isEmpty then s.raise .TSK_E_TMPL t
    else match s.lockPins m with
      | (true, s) => s.setB .TSK_TT_EN t true
      | (false, s) => s.raise .MMU_E_PIN t

/-- An engine context writes templates of its own partition only (R379). -/
def State.tmplOwn (s : State) (src : Src) (t : Nat) : Bool :=
  match src, s.tsk.tmpls.find t with
  | .engine _, some m => s.mayAddress src m
  | _, _ => true

/-- R376. -/
def execTskTtEn (src : Src) (t : Fin 16384) (v : BitVec 32) (s : State) : Res :=
  .next (s.guarded src .TSK fun s =>
    if !s.tmplOwn src t.val then s
    else if v.getLsbD 31 then s.startTmpl t.val else s.stopTmpl t.val)

/-! ### Service commands (R403) -/

/-- Who may give a guarded service command: the lease holder, or the steward while no host holds the lease. -/
def State.mayServe (s : State) (src : Src) : Bool :=
  match src with
  | .host h => s.leaseOk h
  | .steward => s.mod.holder.isNone
  | .engine _ => false

/-- A service command ends: COMPLETED, or refused with a code. -/
def State.tcEnd (s : State) (w : Nat) (e : Option Ev) : State :=
  let s := (s.setN .TSK_CMD_ERR w ((e.map Ev.code).getD 0)).setN .TSK_CMD_OUT w (if e.isSome then 3 else 2)
  match e with
  | some .TSK_E_STALE => s.raise .TSK_E_STALE w
  | some .TSK_E_CMD => s.raise .TSK_E_CMD w
  | _ => s

/-- A service command refused with HST_E_FENCED. -/
def State.tcFenced (s : State) (src : Src) (w : Nat) : State := (s.tcEnd w (some .HST_E_FENCED)).fenced src

/-- The window still shows BUSY: the command takes its effect when it is given, and up to 1 µs passes until its outcome shows
(R403, notes/assumptions/31.md). -/
def State.tcBusy (s : State) (w : Nat) : Bool := winBusy s.tsk.busy s.freeNs w

/-- A service command begins to show BUSY for a free time of at most 1 µs. -/
def State.tcShow (s : State) (w : Nat) : State :=
  let (f, s) := s.draw
  { s with tsk := { s.tsk with busy := s.tsk.busy.set w (s.freeNs + f.toNat % 1001, 0) } }

/-- A start in a BUSY window is refused with TSK_E_CMD; TSK_CMD_OUT keeps showing the command in progress (R403, R505). -/
def State.tcRefuse (s : State) (w : Nat) : State :=
  { s with tsk := { s.tsk with busy := winNote s.tsk.busy w Ev.TSK_E_CMD.code } }.raise .TSK_E_CMD w

/-- A write of TSK_CMD_OP by the window's own source: the position is taken with it. -/
def State.tcStart (s : State) (src : Src) (w : Nat) (v : BitVec 32) (f : State → State) : State :=
  if winOf src ≠ some w then s else
  let s := s.setN .TSK_CMD_POS w (bitsOf v.toNat 5 4)
  if s.tcBusy w then s.tcRefuse w else (f s).tcShow w

/-- INJECT. -/
def State.tcInject (s : State) (src : Src) (w : Nat) : State :=
  let t := s.rn .TSK_CMD_TGT w
  if s.tmplCls t ≤ 1 && !s.mayServe src then s.tcFenced src w else
  let k : Token := { tmpl := t, pos := s.rn .TSK_CMD_POS w, tag := s.rn .TSK_CMD_AUX w, isBuf := false, pin := 31, grat := none,
                     value := s.rn .TSK_CMD_VAL_LO w + s.rn .TSK_CMD_VAL_HI w * 2 ^ 32 }
  let ok := ((s.tsk.tmpls.find t).map fun m => s.mayAddress src m).getD false
  let (e, s) := s.sendTok k (some { cls := 0, any := true, mayUse := fun _ => ok })
  s.tcEnd w e

/-- The context that a command names, in the issuer's partition and with its generation. -/
def State.tcCtx (s : State) (src : Src) (w : Nat) : Option Nat :=
  let k := s.rn .TSK_CMD_TGT w
  if k < 1536 && (s.cx k).live && (s.cx k).gen = s.rn .TSK_CMD_AUX w % 65536 &&
      s.inPartition src (fun h => s.holdsCluster h (clOf k)) then some k else none

/-- The transfer that a command names, in the issuer's partition. -/
def State.tcDma (s : State) (src : Src) (w : Nat) : Option Dma :=
  let c := s.rn .TSK_CMD_TGT w
  if s.inPartition src (fun h => s.holdsCluster h c) then s.dmaOf c (s.rn .TSK_CMD_AUX w) else none

/-- A context held for service runs again: at its instruction, or after its TRAP (R401). -/
def State.ctxResume (s : State) (k : Nat) : State :=
  let x := s.cx k
  let s := s.fbCtx 15 k 0
  (s.setCx k { x with pc := if x.code = 9 then x.pc + 4 else x.pc, svc := false, code := 0 }).makeReady k

/-- A suspended transfer goes on at DD_DONE. -/
def State.dmaResume (s : State) (d : Dma) : State :=
  let s := (s.setDma { d with st := .running, va := 0, cause := 0 }).writeDesc d 1 0 0
  s.fbook 13 d.cls d.ctx d.tmpl d.ttag (d.seq % 2 ^ 32 + d.done * 2 ^ 32)

/-- CTX_RESUME. -/
def State.tcResume (s : State) (src : Src) (w : Nat) : State :=
  if !s.mayServe src then s.tcFenced src w else
  match s.tcCtx src w with
  | some k => if (s.cx k).st == .faulted && (s.cx k).svc then (s.ctxResume k).tcEnd w none else s.tcEnd w (some .TSK_E_STALE)
  | none => s.tcEnd w (some .TSK_E_STALE)

/-- CTX_ABORT. -/
def State.tcAbort (s : State) (src : Src) (w : Nat) : State :=
  if !s.mayServe src then s.tcFenced src w else
  match s.tcCtx src w with
  | some k => ((if (s.cx k).svc then s.fbCtx 15 k 0 else s).abortTask k).tcEnd w none
  | none => s.tcEnd w (some .TSK_E_STALE)

/-- DMA_RESUME. -/
def State.tcDmaResume (s : State) (src : Src) (w : Nat) : State :=
  if !s.mayServe src then s.tcFenced src w else
  match s.tcDma src w with
  | some d => if d.st == .fault then ((s.fbCtx 15 d.ctx 0).dmaResume d).tcEnd w none else s.tcEnd w (some .TSK_E_STALE)
  | none => s.tcEnd w (some .TSK_E_STALE)

/-- DMA_ABORT. -/
def State.tcDmaAbort (s : State) (src : Src) (w : Nat) : State :=
  if !s.mayServe src then s.tcFenced src w else
  match s.tcDma src w with
  | some d => ((if d.st == .fault then s.fbCtx 15 d.ctx 0 else s).dmaAbort d 0).tcEnd w none
  | none => s.tcEnd w (some .TSK_E_STALE)

def execInject (src : Src) (win : Fin 5) (v : BitVec 32) (s : State) : Res :=
  .next (s.tcStart src win.val v fun s => s.tcInject src win.val)
def execCtxResume (src : Src) (win : Fin 5) (v : BitVec 32) (s : State) : Res :=
  .next (s.tcStart src win.val v fun s => s.tcResume src win.val)
def execCtxAbort (src : Src) (win : Fin 5) (v : BitVec 32) (s : State) : Res :=
  .next (s.tcStart src win.val v fun s => s.tcAbort src win.val)
def execDmaResume (src : Src) (win : Fin 5) (v : BitVec 32) (s : State) : Res :=
  .next (s.tcStart src win.val v fun s => s.tcDmaResume src win.val)
def execDmaAbort (src : Src) (win : Fin 5) (v : BitVec 32) (s : State) : Res :=
  .next (s.tcStart src win.val v fun s => s.tcDmaAbort src win.val)

/-! ### Field book and counters (R386, R408) -/

/-- TSK_FB_CFG written: enabling clears the book. -/
def State.wrFbCfg (s : State) (v : BitVec 32) : State :=
  let s := if v.getLsbD 31 && !s.rb .TSK_FB_EN then
      (({ s with tsk := { s.tsk with fb := [], fbSeq := 0 } }.setN .TSK_FB_WPTR 0 0).setB .TSK_FB_STOPPED 0 false).setB .TSK_FB_WRAPPED 0 false
    else s
  s.wrFields [.TSK_FB_EN, .TSK_FB_STOP, .TSK_FB_CLASS, .TSK_FB_KIND] 0 v

/-- A register of TSK or MMU that concerns no template, context, cluster or address space: an engine context does not write
it (R379). -/
def State.guardedHere (s : State) (src : Src) (b : Block) (f : State → State) : State :=
  match src with
  | .engine _ => s
  | src => s.guarded src b f

/-- R386. -/
def execTskFbEn (src : Src) (v : BitVec 32) (s : State) : Res := .next (s.guardedHere src .TSK fun s => s.wrFbCfg v)

/-- R408. -/
def execTskCntClr (src : Src) (s : State) : Res := .next (s.guardedHere src .TSK fun s => s.clearBlockCtrs .TSK)

end Sys2Proof.Machine
end

