-- ==== Sys2Proof/Machine/Mmu.lean ====
section
/-! DEFINITION. The meanings of the memory-management and transfer commands and events (spec/14 R387-R396, R410). -/

namespace Sys2Proof.Machine

open Sys2Proof

/-! ### Invalidations (R389) -/

/-- An address space is the issuer's to write: an engine context's where only templates of its partition use it (R379). -/
def State.asidOwn (s : State) (src : Src) (a : Nat) : Bool :=
  match src with
  | .engine _ => s.tsk.tmpls.all fun t => t.2.asid != a || s.mayAddress src t.2
  | _ => true

/-- An invalidation covers a TLB entry: operation, ASID, first 64 KiB page, pages. -/
def TlbEnt.hit (e : TlbEnt) (op asid page n : Nat) : Bool :=
  if op = 3 then true
  else if op = 1 then e.asid == asid
  else e.asid == asid && (if e.big then page < e.page * 32 + 32 && e.page * 32 < page + n else page ≤ e.page && e.page < page + n)

/-- MMU_INV_CMD written: refused while busy, or where it covers a locked entry; else it starts. -/
def State.startInv (s : State) (op asid : Nat) : State :=
  if s.mmu.inv.isSome then s.raise .MMU_E_CMD else
  let s := s.setN .MMU_INV_ASID 0 asid
  let page := s.rn .MMU_INV_VA
  let n := max 1 (s.rn .MMU_INV_PAGES)
  if (List.range 24).any fun c => (s.tlbOf c).any fun e => e.locked && e.hit op asid page n then s.raise .MMU_E_PIN asid
  else { s with mmu := { s.mmu with inv := some (op, asid, page, n) } }

/-- MMU_INV_OP = 1. -/
def execInvalidateAsid (src : Src) (a : Fin 256) (s : State) : Res :=
  .next (s.guarded src .MMU fun s => if s.asidOwn src a.val then s.startInv 1 a.val else s)

/-- MMU_INV_OP = 2. -/
def execInvalidateRange (src : Src) (a : Fin 256) (s : State) : Res :=
  .next (s.guarded src .MMU fun s => if s.asidOwn src a.val then s.startInv 2 a.val else s)

/-- MMU_INV_OP = 3. -/
def execInvalidateAll (src : Src) (a : Fin 256) (s : State) : Res := .next (s.guardedHere src .MMU fun s => s.startInv 3 a.val)

/-- R389: the invalidation has dropped the matching unlocked entries in every cluster. -/
def execInvalidationDone (s : State) : Res :=
  match s.mmu.inv with
  | none => .next s
  | some (op, asid, page, n) =>
    let s := { s with mmu := { s.mmu with inv := none } }
    let s := (List.range 24).foldl (fun s c => s.setTlb c ((s.tlbOf c).filter fun e => e.locked || !e.hit op asid page n)) s
    .next (s.raise .MMU_I_INV_DONE)

/-- MMU_ROOT written (R388, R409): refused for an ASID that an enabled template with pinned regions uses. -/
def State.wrRoot (s : State) (a : Nat) (hi : Bool) (v : BitVec 32) : State :=
  if s.tsk.tmpls.any fun t => s.rb .TSK_TT_EN t.1 && t.2.asid == a && !t.2.pins.isEmpty then s.raise .MMU_E_PIN a
  else s.wrFields (if hi then [.MMU_ROOT_ADDR_H] else [.MMU_ROOT_ADDR_L, .MMU_ROOT_V]) a v

/-- R388. -/
def execMmuRoot (src : Src) (a : Fin 256) (hi : Bool) (v : BitVec 32) (s : State) : Res :=
  .next (s.guarded src .MMU fun s => if s.asidOwn src a.val then s.wrRoot a.val hi v else s)

/-- R410. -/
def execMmuCntClr (src : Src) (s : State) : Res := .next (s.guardedHere src .MMU fun s => s.clearBlockCtrs .MMU)

/-! ### Transfers (R392-R396) -/

/-- A running transfer proceeds to its end or to what stops it. `host` holds the bytes that hosts supply, and host pages
are absent from offset `absent`. -/
def State.dmaStep (s : State) (d : Dma) (absent : Option Nat) (host : List Byte) : Side × State :=
  match s.dmaRun d absent d.left host with
  | (d, .ok, s) => (.ok, s.dmaEnd d 3 0)
  | (d, .fault 10 _ va, s) => (.fault 10 0 va, s.dmaRefused d va)
  | (d, .fault c x va, s) => (.fault c x va, s.dmaFault d c x va)
  | (d, .absent h va, s) => (.absent h va, s.dmaAbsent d h va)

/-- R392, R396: transfer `q` of cluster `c` meets a fault or an absent host page; with neither, nothing happens. -/
def execDmaSuspend (c : Fin 24) (q : Nat) (absent : Option Nat) (host : List (BitVec 8)) (s : State) : Res :=
  match s.dmaOf c.val q with
  | none => .next s
  | some d =>
    if d.st != .running then .next s
    else match s.dmaStep d absent host with
      | (.ok, _) => .next s
      | (_, t) => .next (t.retireDue c.val)

/-- R394, R395: transfer `q` of cluster `c` runs to its outcome. -/
def execDmaOutcome (c : Fin 24) (q : Nat) (host : List (BitVec 8)) (s : State) : Res :=
  match s.dmaOf c.val q with
  | none => .next s
  | some d => .next (if d.st != .running then s else (s.dmaStep d none host).2.retireDue c.val)

/-- R392, R466: the host answers the page request of transfer `q` of cluster `c`: 0 success, 1 Invalid Request, else
Response Failure, which stops page requests on that port. -/
def execPriResponse (c : Fin 24) (q : Nat) (r : Fin 3) (s : State) : Res :=
  match s.dmaOf c.val q with
  | none => .next s
  | some d =>
    if d.st != .page then .next s
    else if r.val = 0 then .next ((s.dmaResume d).nextPage c.val)
    else if r.val = 1 then .next (s.dmaRefused d d.va)
    else
      let s := ((s.setB .HST_PRI_EN d.port false).raise .HST_W_PRI_STOP d.port).dmaRefused d d.va
      .next (s.endPages d.port fun x => x.st == .pageWait)

/-- R392: the page request of transfer `q` of cluster `c` times out. -/
def execPriTimeout (c : Fin 24) (q : Nat) (s : State) : Res :=
  match s.dmaOf c.val q with
  | none => .next s
  | some d => .next (if d.st != .page then s else (s.raiseLimited .MMU_W_PRI_TMO c.val ms1 d.ctx).dmaRefused d d.va)

end Sys2Proof.Machine
end

