-- ==== Sys2Proof/Machine/Ports.lean ====
section
/-! DEFINITION. The meanings of the port commands and events (spec/05). -/

namespace Sys2Proof.Machine

open Sys2Proof

/-- A timestamp of the Meridian of `early` ns ago within ±4 ns, with an adjustment in 0.1 ns units (R98), in ns.
DESIGN CHOICE (the spec states a resolution of 1 ns and no rounding of the adjustment): it is rounded to the nearest ns, a
half upwards, before it is added (notes/assumptions/27.md). -/
def State.stampNs (s : State) (adj early : Nat) : Nat × State :=
  let (f, s) := s.draw
  let t : Int := (s.nowNs : Int) - early + (signed 16 adj + 5) / 10 + ((f.toNat % 9 : Nat) : Int) - 4
  ((t % (2 ^ 48 * 1000000000)).toNat, s)

/-- EtherType after at most two headers of 0x8100 or 0x892F (R129). -/
def skipType (l : List Byte) : Nat :=
  let step (o : Nat) : Nat := if beAt l o 2 = 0x8100 then o + 4 else if beAt l o 2 = 0x892F then o + 6 else o
  beAt l (step (step 12)) 2

/-- A line frame of pipeline `k` is express (R129). -/
def State.isExpress (s : State) (k : Nat) (l : List Byte) : Bool :=
  (List.range 4).any fun n => s.rb .PAR_EXPR_EN (k * 4 + n) && s.rn .PAR_EXPR_ETYPE (k * 4 + n) = skipType l

/-- Modes in which line ports receive (R504). -/
def receives (m : Mode) : Bool :=
  match m with
  | .load | .run | .isolated | .drain | .safeHold | .test => true
  | _ => false

/-- How long ago the first mPacket of a reassembled frame was received, in ns (R98, R115): a free value, since the command
comes when the frame has been reassembled. -/
def State.firstPart (s : State) (pre : Bool) : Nat × State :=
  if pre then let (f, s) := s.draw; (f.toNat % (s.freeNs + 1), s) else (0, s)

/-- A line packet as port `p` offers it; `pre` says that it was reassembled from fragments. -/
def State.linePkt (s : State) (p : Nat) (l : List Byte) (whole express marked pre : Bool) : State :=
  let (early, s) := s.firstPart pre
  let (t, s) := s.stampNs (s.rn .TIM_P_ING_ADJ p) early
  let k := Packet.offered 0 p (if express then 1 else 0) (pipeOf p) l
  s.addPkt { k with whole := whole, express := express, redTag := marked, tsSec := t / 1000000000 % 2 ^ 32, tsNs := t % 1000000000,
                    rxFree := s.tim.stepFree - early * tickNs }

/-- An offered frame ends without being good (R20, R110): dropped, counted once. A bad FCS of one that was in transmission
is counted at the egress port alone. -/
def State.badOffered (s : State) (p id : Nat) (c : Ctr) : State :=
  let (s, cut) := s.dropOffered p id
  if cut && c == .PRT_CNT_FCS_ERR then s else s.bump c p

/-- An offered frame has arrived in full with a good FCS: its packet and its buffer hold the whole frame; one that outgrew
its buffer is dropped, or cut where it is in transmission (R296). `marked` says that a redundancy mark is still on it. -/
def State.endOffered (s : State) (p id : Nat) (l : List Byte) (marked : Bool) : State :=
  let s := { s with prt := { s.prt with inc := s.prt.inc.erase p } }
  match s.pkt id with
  | none => s
  | some k =>
    let s := match k.lenDue with
      | some key => s.lateLen key (l.length + 4)
      | none => s
    let k := { k with bytes := l, whole := true, lenDue := none, redTag := marked }
    match k.buf with
    | none => s.setPkt k
    | some h =>
      if s.poolSize (poolOf h) < l.length + 4 then
        let s := s.bump .SWC_CNT_OVERRUN
        let (s, _) := s.cutReplicas id
        if k.stage == .stored then s.delPkt id else s.dropPkt k
      else
        let s := match s.buf h with
          | some b => s.setBuf h { b with bytes := l }
          | none => s
        let fix (e : QEnt) : QEnt := if e.pkt == id + 1 then { e with len := l.length + 4, pkt := 0 } else e
        let fixT (e : Nat × Tx) : Nat × Tx := (e.1, { e.2 with ent := fix e.2.ent })
        let s := { s with tmg := { s.tmg with queues := s.tmg.queues.map fun (q : Nat × Queue) => (q.1, { q.2 with ents := q.2.ents.map fix }) },
                          prt := { s.prt with txE := s.prt.txE.map fixT, txP := s.prt.txP.map fixT } }
        if k.stage == .stored then s.delPkt id else s.setPkt k

/-- The copy of a frame received on a ring port that goes out of the other one as it came (R122). -/
def State.ringCopy (s : State) (p : Nat) (l : List Byte) : State :=
  s.addPkt { Packet.offered 0 p 0 (pipeOf p) l with dest := .ports (2 ^ (if p % 2 = 0 then p + 1 else p - 1)), raw := true, stage := .pool }

/-- An offered frame has arrived in full with a good FCS: step 2 acts on it (R119-R122), and a duplicate is dropped
(notes/assumptions/13.md). -/
def State.doneOffered (s : State) (p id : Nat) (l : List Byte) : State :=
  let r := s.redStep p l
  let s := if r.ring then r.state.ringCopy p l else r.state
  match r.frame with
  | none => (s.dropOffered p id).1
  | some l => s.endOffered p id l r.marked

/-- A frame that passed R110, after its counting: mode, MAC control, size, step 2, FIFO admission (R109, R504, R29). The
threshold of the FIFO is not stated: with frames waiting, a free value decides (notes/assumptions/13.md). -/
def State.arrive (s : State) (p : Nat) (l : List Byte) (pre : Bool) : State :=
  let k := pipeOf p
  let express := s.isExpress k l
  if s.mod.mode == .test then s.bump .PRT_CNT_MODE_DROP p
  else if beAt l 12 2 = 0x8808 then
    (if beAt l 14 2 = 0x0001 || beAt l 14 2 = 0x0101 then s.bump .PRT_CNT_PAUSE_RX p else s.bump .PRT_CNT_MACCTL_RX p)
  else if s.mod.mode == .load || s.mod.mode == .drain || (s.mod.mode == .safeHold && !express) then
    s.bump .PRT_CNT_MODE_DROP p
  else if s.poolSize 3 < l.length + 4 then s.bump .SWC_CNT_OVERSIZE
  else
    let r := s.redStep p l
    let s := if r.ring then r.state.ringCopy p l else r.state
    match r.frame with
    | none => s
    | some l =>
      if express then s.linePkt p l true true r.marked pre
      else
        let waiting := s.pkts.any fun x => x.src == p && x.stage == .fifo
        let (f, s) := s.draw
        if waiting && f.getLsbD 0 then s.bump .PRT_CNT_ING_DROP p
        else s.linePkt p l true false r.marked pre

/-- R109, R110, R115, R504: a whole frame arrives. `pre` is 0 for a frame sent whole, 1 for one reassembled from
fragments, 2 where a fragment was out of sequence or bad; `fecCorr` and `fecUncorr` are its FEC codewords. -/
def execFrameReceive (p : Fin 48) (frame : List Byte) (fcsOk : Bool) (pre : BitVec 2) (fecCorr fecUncorr : BitVec 16)
    (s : State) : Res :=
  let p := p.val
  if !s.rb .PRT_LINK_UP p || !receives s.mod.mode || (pre ≠ 0 && !s.preemptable p) then .next s else
  let s := (s.bump .PRT_CNT_FEC_CORR p fecCorr.toNat).bump .PRT_CNT_FEC_UNCORR p fecUncorr.toNat
  let len := frame.length + 4
  let long := s.rn .PRT_MAX_FRAME p < len
  let bad : Option Ctr :=
    if pre = 2 || (pre = 1 && long) then some .PRT_CNT_PRE_RX_ERR
    else if len < 64 || long then some .PRT_CNT_SIZE_ERR
    else if !fcsOk then some .PRT_CNT_FCS_ERR
    else none
  match s.prt.inc.find p, bad with
  | some id, some c => .next (s.badOffered p id c)
  | none, some c => .next (s.bump c p)
  | some id, none => .next (((s.bump .PRT_CNT_RX_FRAMES p).bump .PRT_CNT_RX_OCTETS p len).doneOffered p id frame)
  | none, none => .next (((s.bump .PRT_CNT_RX_FRAMES p).bump .PRT_CNT_RX_OCTETS p len).arrive p frame (pre = 1))

/-- R129: the first 64 bytes of an express frame have arrived. On a port with redundancy an HSR tag is taken off for the
pipeline (R122); the rest of step 2 acts once the frame is whole, since its trailer stands at its end
(notes/assumptions/13.md). -/
def execExpressOffer (p : Fin 48) (first : List Byte) (s : State) : Res :=
  let p := p.val
  if !s.rb .PRT_LINK_UP p || !(forwards s.mod.mode || s.mod.mode == .safeHold) || first.length ≠ 64 ||
      !s.isExpress (pipeOf p) first || (s.prt.inc.find p).isSome || beAt first 12 2 = 0x8808 then .next s
  else
    let m := (redMark (s.redMode p) first).1.filter fun m => m.hsr
    let keep := s.redKeeps p
    let head := match m with
      | some m => if keep then first else stripRed m first
      | none => first
    let t := s.linePkt p head false true (m.isSome && keep) false
    .next { t with prt := { t.prt with inc := t.prt.inc.set p s.nextPkt } }

/-- R105-R107, R110. -/
def execPrtCfg (src : Src) (p : Fin 48) (v : BitVec 32) (s : State) : Res :=
  .next (s.guarded src .PRT fun s => s.wrPrtCfg p.val v)

/-- R112, R113. -/
def execPrtPreCfg (src : Src) (p : Fin 48) (v : BitVec 32) (s : State) : Res :=
  .next (s.guarded src .PRT fun s => s.wrPreCfg p.val v)

/-- R116. -/
def execPrtRedCfg (src : Src) (p : Fin 48) (v : BitVec 32) (s : State) : Res :=
  .next (s.guarded src .PRT fun s => s.wrRedCfg p.val v)

/-- R124, R126. -/
def execPrtCntClr (src : Src) (p : Fin 48) (s : State) : Res := .next (s.wrPrtCntClr src p.val)

/-- R113: the link comes up, on an enabled port whose domain is ON and whose partner is not a slow SGMII one (R108). -/
def execLinkUp (p : Fin 48) (s : State) : Res :=
  let p := p.val
  if s.rb .PRT_LINK_UP p || !s.rb .PRT_EN p || s.rn .PRT_MODE p = 0 || s.dom (portDom p) ≠ dsOn || !receives s.mod.mode ||
      (s.boot.srUnit = 1 && s.boot.srIndex = p) || (s.rn .PRT_MODE p = 2 && s.prt.slow.get false p) then .next s
  else
    let s := (((s.setB .PRT_LINK_UP p true).setB .PRT_PCS_LOCK p true).setB .PRT_FEC_LOCK p (s.rn .PRT_FEC p ≠ 0)).setB .PRT_EVT_LINK p true
    let s := { s with fus := { s.fus with calFails := s.fus.calFails.put 0 p 0 } }.raise .PRT_I_LINK_UP p 0 p
    .next (if s.preemptable p then s.startPre p else s)

/-- R322. -/
def execLinkDown (p : Fin 48) (s : State) : Res := .next (s.linkDown p.val)

/-- R108: auto-negotiation of an SGMII port ends; a partner at 10 or 100 Mbit/s leaves the link down. -/
def execAutonegComplete (p : Fin 48) (mbps : Nat) (s : State) : Res :=
  let p := p.val
  if !s.rb .PRT_EN p || !s.rb .PRT_AN_EN p || s.rn .PRT_MODE p ≠ 2 then .next s
  else
    let slow := mbps = 10 || mbps = 100
    let s := { s with prt := { s.prt with slow := s.prt.slow.put false p slow } }
    .next (if slow then ((s.linkDown p).setB .PRT_EVT_SPEED p true).raise .PRT_E_SPEED p 0 p else s)

/-- R487: a bring-up failed receiver adaptation with signal detected; HEA_LANE_CAL_TH in a row retire the lane. -/
def execLinkBringupFail (p : Fin 48) (s : State) : Res :=
  let p := p.val
  if !s.rb .PRT_EN p || s.rb .PRT_LINK_UP p then .next s else
  let n := s.fus.calFails.get 0 p + 1
  let s := { s with fus := { s.fus with calFails := s.fus.calFails.put 0 p n } }
  .next (if s.rn .HEA_LANE_CAL_TH ≠ 0 && s.rn .HEA_LANE_CAL_TH ≤ n then s.retireLane p else s)

/-- R113: a verify frame is sent, at most three. -/
def execVerifySend (p : Fin 48) (s : State) : Res :=
  let p := p.val
  let n := s.prt.attempts.get 0 p
  if s.rn .PRT_PRE_STATE p ≠ 1 || 3 ≤ n then .next s
  else .next { s with prt := { s.prt with attempts := s.prt.attempts.put 0 p (n + 1) } }

/-- R113: a valid response in time. -/
def execVerifyResponse (p : Fin 48) (s : State) : Res :=
  let p := p.val
  if s.rn .PRT_PRE_STATE p ≠ 1 || s.prt.attempts.get 0 p = 0 then .next s
  else .next ((s.setPre p 2).raise .PRT_I_PRE_ACTIVE p 0 p)

/-- R113: PRT_PRE_VERIFY_MS after the third attempt. -/
def execVerifyFail (p : Fin 48) (s : State) : Res :=
  let p := p.val
  if s.rn .PRT_PRE_STATE p ≠ 1 || s.prt.attempts.get 0 p ≠ 3 then .next s
  else .next ((s.setPre p 3).raise .PRT_E_VERIFY p 0 p)

/-- R119: PRT_RED_FORGET_MS without a frame of the source. -/
def execWindowForget (i : Fin 16384) (s : State) : Res :=
  let g := s.gazAt i.val
  if g.valid then .next (s.setGaz i.val { g with winValid := false }) else .next s

/-- R121: 60 s of silence of a learned entry. -/
def execPartnerEntryExpire (i : Fin 16384) (s : State) : Res :=
  let g := s.gazAt i.val
  if g.valid && g.learned then .next (s.setGaz i.val Gaz.none) else .next s

/-- R123: heard on one LAN but not on the other for PRT_RED_SUPV_MS; once until heard on both again. -/
def execLanLoss (i : Fin 16384) (s : State) : Res :=
  let g := s.gazAt i.val
  if !g.valid || g.lanLoss then .next s
  else
    let p := 32 + 2 * g.pair
    .next ((s.setGaz i.val { g with lanLoss := true, sinceA := false, sinceB := false }).raise .PRT_W_LAN_LOSS p i.val p)

/-- Octets of a frame in transmission with its FCS, rewrites and redundancy mark included; of one still arriving, what its
entry holds. -/
def State.wireLen (s : State) (p : Nat) (t : Tx) : Nat :=
  if t.ent.pkt ≠ 0 then t.ent.len else (s.frameOut p t (((s.buf t.ent.buf).map (·.bytes)).getD [])).1.length + 4

/-- R114: a preemptable frame in progress is preempted for a waiting express frame; `sent` counts the data octets of the
current fragment. -/
def execPreempt (p : Fin 48) (sent : Nat) (s : State) : Res :=
  let p := p.val
  match s.prt.txP.find p with
  | none => .next s
  | some t =>
    if s.rn .PRT_PRE_STATE p ≠ 2 || sent < 60 + 64 * s.rn .PRT_PRE_FRAG p || s.wireLen p t < t.sent + sent + 64 then .next s
    else
      let s := s.bump .PRT_CNT_PRE_TX_FRAG p
      .next { s with prt := { s.prt with txP := s.prt.txP.set p { t with sent := t.sent + sent, frags := t.frags + 1 } } }

/-- What the read of a buffer found: no error, a corrected one, or an uncorrectable one (R312). -/
def State.bufEcc (s : State) (h ecc : Nat) : State :=
  if ecc = 1 then (s.bump .SWC_CNT_ECC_CORR).raiseLimited .SWC_W_ECC_CORR 0 ms1 h
  else if ecc = 0 then s else (s.bump .SWC_CNT_ECC_UNCORR).raiseLimited .SWC_E_ECC 0 ms1 h

/-- A frame has left port `p`, from its express MAC or from its preemptable one. -/
def State.frameSent (s : State) (p : Nat) (out : List Byte) (bad express : Bool) : State :=
  { s with prt := { s.prt with
    last := s.prt.last.set p out, badFcs := s.prt.badFcs.put false p bad,
    txE := if express then s.prt.txE.erase p else s.prt.txE, txP := if express then s.prt.txP else s.prt.txP.erase p } }

/-- R304, R98, R99, R312: the transmission of port `p` ends, the express MAC's first: the frame has left with its
rewrites, its reference is given up. `ecc` is what the reads of its buffer found: 1 a corrected bit, 2 or 3 an
uncorrectable error, which ends the frame with an invalid FCS. -/
def execReplicaTransmitted (p : Fin 64) (ecc : BitVec 2) (s : State) : Res :=
  let p := p.val
  let ex := s.prt.txE.find p
  match ex.or (s.prt.txP.find p) with
  | none => .next s
  | some t =>
    if 56 ≤ p && p < 60 then .next s else
    if t.ent.pkt ≠ 0 then .next s else
    let bytes := ((s.buf t.ent.buf).map (·.bytes)).getD []
    let (out, sat) := s.frameOut p t bytes
    let s := if sat then s.raise .TIM_E_CORR_OVF p else s
    let s := (s.bufEcc t.ent.buf ecc.toNat).frameSent p out (2 ≤ ecc.toNat) ex.isSome
    let s := if ex.isNone && t.frags ≠ 0 then s.bump .PRT_CNT_PRE_TX_FRAG p else s
    let s := if p < 48 then (s.bump .PRT_CNT_TX_FRAMES p).bump .PRT_CNT_TX_OCTETS p (out.length + 4) else s
    .next (s.endReplica p t.ent)

end Sys2Proof.Machine
end

