-- ==== Sys2Proof/Machine/ParkOps.lean ====
section
/-! DEFINITION. Parked packets resumed and discarded (spec/07 R171-R173, spec/11 R302), and packets that engines and hosts
inject (spec/01 R15). -/

namespace Sys2Proof.Machine

open Sys2Proof

/-- The parked packet in buffer `h`. -/
def State.parkedPkt (s : State) (h : Nat) : Option Packet := s.pkts.find? fun p => p.buf == some h && p.stage == .parked

/-- Source kind of Table 06.1 of a handler's port. -/
def kindOf (port : Nat) : Nat := if port = 60 then 3 else if port = 63 then 5 else 2

/-- A parked packet as it re-enters through port `port` (R172, R173). -/
def resumedAt (p : Packet) (port pipe : Nat) : Packet :=
  let p := p.reenters (kindOf port) p.pass
  { p with src := port, pipe := pipe, stage := .fifo, resumed := true, parse := Parse.fresh p.kind p.tcHint, parkOwner := 0 }

/-- A parked packet is resumed into pipeline `pipe` by the handler at `port`; the flag says that the check of R302 passed.
A check that fails is charged to the handler. -/
def State.resumeParked (s : State) (h pipe port charge : Nat) : State × Bool :=
  match s.handover h ownSlow (ownPipe pipe) 4 charge with
  | (s, false) => (s, false)
  | (s, true) =>
    match s.parkedPkt h with
    | none => (s, true)
    | some p => ({ s with pkts := (s.pkts.filter fun q => q.id != p.id) ++ [resumedAt p port pipe] }, true)

/-- A parked packet is discarded in the same way. -/
def State.discardParked (s : State) (h charge : Nat) : State × Bool :=
  match s.freeBuf h ownSlow 4 charge with
  | (s, false) => (s, false)
  | (s, true) =>
    match s.parkedPkt h with
    | none => (s, true)
    | some p =>
      let (s, _) := s.leaveBank p
      ({ s.delPkt p.id with prt := { s.prt with inc := s.prt.inc.filter fun e => e.2 != p.id } }, true)

/-- Packets of port `port` that wait to enter pipeline `pipe`. -/
def State.queuedAt (s : State) (port pipe : Nat) : Nat :=
  (s.pkts.filter fun p => p.src == port && p.pipe == pipe && p.stage == .fifo).length

/-- A packet of an engine or a host in its buffer `h`, which has been handed to the pipeline: frame length, class of the
source metadata, sender and requests (R15, R129, R150). -/
def State.injected (s : State) (port pipe h len tc sender : Nat) (origin egReq : Bool) : State :=
  let (l, s) := s.bufRead h 0 len
  let s := match s.buf h with
    | some b => s.setBuf h { b with bytes := l }
    | none => s
  let p := Packet.offered 0 port (kindOf port) pipe l
  s.addPkt { p with express := 6 ≤ tc || s.isExpress pipe l, tsSec := s.sec % 2 ^ 32, tsNs := s.nsec, rxFree := s.tim.stepFree, tcHint := tc, sender := sender,
                    origin := origin, egReq := egReq, buf := some h, parse := Parse.fresh (kindOf port) tc }

end Sys2Proof.Machine
end

