-- ==== Sys2Proof/Machine/Device.lean ====
section
/-! DEFINITION. The meanings of the device instructions (spec/13 R352 to R363, Table 13.2, R348, R365), but those that
access registers. -/

namespace Sys2Proof.Machine

open Sys2Proof

/-- A status word with a refusal code, and one with a result. -/
def codeWord (e : Ev) : BitVec 64 := statusWord e.code 0 0
def resultWord (n : Nat) : BitVec 64 := statusWord 0 0 n

/-! ### Tokens (R353-R355, R362) -/

/-- A token to a destination word (Table 13.8), from an emitter: the refusal, or none. -/
def State.sendDest (s : State) (dest value : BitVec 64) (cont : Bool) (em : Emitter) : Option Ev × State :=
  let d := dest.toNat
  if cont then
    let a := d % 2 ^ 32
    if s.caddrFresh a && 8 ≤ s.contLoad (caddrCtx a) then (some .ENG_E_CONT_FULL, s.bump .ENG_CNT_CONT_DROP)
    else (none, s.sendCont a (d / 2 ^ 48) value)
  else
    s.sendTok { tmpl := d % 16384, pos := bitsOf d 17 16, tag := d / 2 ^ 32, value := value.toNat, isBuf := false, pin := 31, grat := none } (some em)

/-- A token sent by EMIT or COMMIT. -/
def State.emitNow (s : State) (k : Nat) (dest value : BitVec 64) (cont : Bool) : Option Ev × State :=
  match s.sendDest dest value cont (s.emitterOf k) with
  | (none, s) => (none, s.bump .ENG_CNT_EMIT)
  | r => r

/-- EMIT (R353). -/
def execEmit (k : Fin 1536) (w : BitVec 25) (s : State) : Res :=
  .next (s.issue 0x60 k.val w (formF w true true true 0 3) fun s x =>
    let dest := x.rg (rs1Of w)
    let v := x.rg (rs2Of w)
    let cont := bitOf (flOf w) 1
    if bitOf (flOf w) 0 then
      let (e, s) := s.emitNow k.val dest v cont
      s.retireRd k.val (rdOf w) (match e with | some e => codeWord e | none => 0)
    else if 16 ≤ x.held.length then s.retireRd k.val (rdOf w) (codeWord .ENG_E_TOKQ)
    else
      let y : Ctx := { x with held := x.held ++ [{ dest := dest, cont := cont, value := v }] }
      s.retire k.val (y.wr (rdOf w) 0) (x.pc + 4))

/-- AWAIT (R354, R383, R405): takes the oldest token, yields, or in DRAIN is aborted. -/
def execAwait (k : Fin 1536) (w : BitVec 25) (s : State) : Res :=
  .next (s.issue 0x61 k.val w (formF w true false false 0 0 && rdOf w % 2 == 0 && decide (rdOf w ≤ 30)) fun s x =>
    if s.mod.mode = .drain then s.abortTask k.val
    else match x.cont with
      | (tag, v) :: t =>
        let y : Ctx := { x with cont := t }
        s.retire k.val ((y.wr (rdOf w) v).wr (rdOf w + 1) (BitVec.ofNat 64 (tag % 65536))) (x.pc + 4)
      | [] =>
        let s := s.fbCtx 6 k.val 0
        let x := { x with st := .awaiting, cycle := x.cycle + 1 }
        if x.cls = 0 then s.setCx k.val x else s.leaveEngine k.val x)

/-- A held token that the matching store refuses (R355), and a timer's (R362). -/
def State.emitRef (s : State) (k : Nat) : State := (s.bump .ENG_CNT_EMIT_REF).raiseLimited .ENG_W_EMIT_REF 0 ms1 k

/-- The held tokens of a context sent in list order. -/
def State.sendHeld (s : State) (k : Nat) : List HeldTok → State
  | [] => s
  | t :: l =>
    match s.emitNow k t.dest t.value t.cont with
    | (none, s) => State.sendHeld s k l
    | (some _, s) => State.sendHeld (if t.cont then s else s.emitRef k) k l

/-- COMMIT (R355); in DRAIN no held token is sent (R405). -/
def execCommit (k : Fin 1536) (w : BitVec 25) (s : State) : Res :=
  .next (s.issue 0x62 k.val w (formF w false false false 0 0) fun s x =>
    let s := if s.mod.mode = .drain then s else s.sendHeld k.val x.held
    let s := s.settleBufs k.val
    let s := (s.bump .ENG_CNT_CONT_STALE 0 (s.cx k.val).cont.length).bump .ENG_CNT_TASK_END
    ((s.fbCtx 8 k.val 0).bump .ENG_CNT_INSN).freeCtx k.val)

/-! ### Packets and buffers (R356-R359) -/

/-- A handle joins or leaves the buffer list of a context. -/
def State.listBuf (s : State) (k h : Nat) : State := s.setCx k { s.cx k with bufs := (s.cx k).bufs ++ [h] }
def State.unlistBuf (s : State) (k h : Nat) : State := s.setCx k { s.cx k with bufs := (s.cx k).bufs.filter (· != h) }

/-- PKALLOC (R356). -/
def execPkalloc (k : Fin 1536) (w : BitVec 25) (s : State) : Res :=
  .next (s.issue 0x63 k.val w (formF w true true false 7 1) fun s x =>
    let n := (x.rg (rs1Of w)).toNat % 2 ^ 14
    let prot := decide (6 ≤ subOf w)
    if n = 0 || s.poolSize 3 < n then s.retireRd k.val (rdOf w) (codeWord .ENG_E_ARG)
    else if prot && !bitOf x.rcd.perm 0 then s.trapAt k.val 5 0 0
    else if 32 ≤ x.bufs.length then s.retireRd k.val (rdOf w) (codeWord .ENG_E_BUFLIST)
    else match s.request prot (some n) (ownCtx k.val) [] none with
      | (s, some h) => (s.listBuf k.val h).retireRd k.val (rdOf w) (resultWord h)
      | (s, none) => if flOf w = 1 then s.retireRd k.val (rdOf w) (codeWord .ENG_E_NOBUF) else s.stallAt k.val)

/-- Context `k` holds buffer `h`. -/
def State.heldBy (s : State) (k h : Nat) : Bool :=
  match s.buf h with
  | some b => b.st == .held && b.owner == ownCtx k
  | none => false

/-- PKRD and PKWR (R357). -/
def State.copyBuf (s : State) (k : Nat) (w : BitVec 25) (write : Bool) : State :=
  let x := s.cx k
  let v := (x.rg (rs1Of w)).toNat
  let h := v % 2 ^ 20
  let off := bitsOf v 33 20
  let n := bitsOf v 47 34
  let a := (x.rg (rs2Of w)).toNat
  if n = 0 then s.retireRd k (rdOf w) (codeWord .ENG_E_ARG)
  else match regionOf (engOf k) a n with
    | .loc m o =>
      if s.poolSize (poolOf h) < off + n then s.trapAt k 3 0 a write
      else if !(s.heldBy k h || (!write && x.bufs.contains h)) then s.trapAt k 6 0 0 write
      else if write then
        match s.memRead m o n with
        | (some l, s) => (s.bufWrite h off l).retireRd k (rdOf w) 0
        | (none, s) => s.trapAt k 7 0 a
      else
        let (l, s) := s.bufRead h off n
        match s.memWrite m o l with
        | (true, s) => s.retireRd k (rdOf w) 0
        | (false, s) => s.trapAt k 7 0 a true
    | _ => s.trapAt k 3 0 a write

/-- PKRD. -/
def execPkrd (k : Fin 1536) (w : BitVec 25) (s : State) : Res :=
  .next (s.issue 0x64 k.val w (formF w true true true 0 0) fun s _ => s.copyBuf k.val w false)

/-- PKWR. -/
def execPkwr (k : Fin 1536) (w : BitVec 25) (s : State) : Res :=
  .next (s.issue 0x65 k.val w (formF w true true true 0 0) fun s _ => s.copyBuf k.val w true)

/-- PKSEND (R358). -/
def execPksend (k : Fin 1536) (w : BitVec 25) (s : State) : Res :=
  .next (s.issue 0x66 k.val w (formF w true true true 0 0) fun s x =>
    let v := (x.rg (rs1Of w)).toNat
    let h := v % 2 ^ 20
    let n := bitsOf v 33 20
    let pipe := bitsOf v 34 34
    let tc := bitsOf v 37 35
    if !s.heldBy k.val h then ((s.handover h (ownCtx k.val) (ownPipe pipe)).1).trapAt k.val 6 0 0
    else if 6 ≤ tc && !bitOf x.rcd.perm 0 then s.trapAt k.val 5 0 0
    else if n < 60 || s.poolSize (poolOf h) < n then s.retireRd k.val (rdOf w) (codeWord .ENG_E_ARG)
    else if 64 ≤ s.queuedAt 60 pipe then s.stallAt k.val
    else
      let s := ((s.handover h (ownCtx k.val) (ownPipe pipe)).1).unlistBuf k.val h
      let ts := bitOf v 39
      let s := s.injected 60 pipe h n tc (ownCtx k.val) (bitOf v 38) ts
      let s := if ts then s.awaitTs h (some (s.caddr k.val, (x.rg (rs2Of w)).toNat % 65536)) 0 else s
      (s.bump .ENG_CNT_PKSEND).retireRd k.val (rdOf w) 0)

/-- A buffer instruction whose operation passed its check, or raises BUFFER. -/
def State.bufDone (r : State × Bool) (k h rd : Nat) : State :=
  if r.2 then (r.1.unlistBuf k h).retireRd k rd 0 else r.1.trapAt k 6 0 0

/-- PKRES (R359): the queue of port 60 may make it wait. -/
def execPkres (k : Fin 1536) (w : BitVec 25) (s : State) : Res :=
  .next (s.issue 0x67 k.val w (formF w true true false 0 0) fun s x =>
    let v := (x.rg (rs1Of w)).toNat
    let pipe := bitsOf v 20 20
    if 64 ≤ s.queuedAt 60 pipe then s.stallAt k.val
    else State.bufDone (s.resumeParked (v % 2 ^ 20) pipe 60 (ownCtx k.val)) k.val (v % 2 ^ 20) (rdOf w))

/-- PKDISC (R359). -/
def execPkdisc (k : Fin 1536) (w : BitVec 25) (s : State) : Res :=
  .next (s.issue 0x68 k.val w (formF w true true false 0 0) fun s x =>
    let h := (x.rg (rs1Of w)).toNat % 2 ^ 20
    State.bufDone (s.discardParked h (ownCtx k.val)) k.val h (rdOf w))

/-- BFREE (R359). -/
def execBfree (k : Fin 1536) (w : BitVec 25) (s : State) : Res :=
  .next (s.issue 0x69 k.val w (formF w true true false 0 0) fun s x =>
    let h := (x.rg (rs1Of w)).toNat % 2 ^ 20
    State.bufDone (s.freeBuf h (ownCtx k.val)) k.val h (rdOf w))

/-- BREL (R359). -/
def execBrel (k : Fin 1536) (w : BitVec 25) (s : State) : Res :=
  .next (s.issue 0x6A k.val w (formF w true true false 0 0) fun s x =>
    let h := (x.rg (rs1Of w)).toNat % 2 ^ 20
    State.bufDone (s.releaseBuf h (ownCtx k.val)) k.val h (rdOf w))

/-! ### Authentication (R360, R421) -/

/-- Check 7 of Table 15.2 on a range in memory, 64 KiB page by page: a cause of Table 14.7 where it fails, 0 for none of
them. -/
def State.authPages (s : State) (k : Nat) (t : Tmpl) (write : Bool) : Nat → Nat → Option Nat × State
  | 0, _ => (none, s)
  | n + 1, a =>
    match s.translate (clOf k) t a write false with
    | (.dev _, s) => State.authPages s k t write n ((a / 65536 + 1) * 65536)
    | (.fault c, s) => (some c, s)
    | (.host _ _, s) => (some 0, s)

/-- Check 7 on one range of `n` bytes: an address, or a buffer handle and offset. -/
def State.authRange (s : State) (k a n : Nat) (buf write : Bool) : Option Nat × State :=
  let x := s.cx k
  if buf then
    let h := a % 2 ^ 20
    let ok := (s.heldBy k h || (!write && x.bufs.contains h)) && bitsOf a 33 20 + n ≤ s.poolSize (poolOf h)
    (if ok then none else some 0, s)
  else match regionOf (engOf k) a n with
    | .none => (some 0, s)
    | .loc _ _ => (none, s)
    | .dev => s.authPages k x.rcd write ((a + n + 65535) / 65536 - a / 65536) a

/-- The request of a descriptor, checked and started (R421): the operation, or the status of the check that failed with its
cause. -/
def State.authStart (s : State) (k : Nat) (d : List Byte) : (KeySlot ⊕ Ev × Nat) × State :=
  let f (o n : Nat) : Nat := leNat ((d.drop o).take n)
  let code := f 0 2
  let flags := f 31 1
  match s.authCheck (s.clOwner (clOf k)) (f 2 2) code (f 4 2) (f 24 4) with
  | .inr e => (.inr (e, 0), s)
  | .inl key =>
    match s.authRange k (f 8 8) (f 24 4 + (if code = 1 then 0 else key.trailer)) (bitOf flags 0) false with
    | (some c, s) => (.inr (.AUT_E_ADDR, c), s)
    | (none, s) =>
      if code = 2 then ((if f 16 8 = 0 then .inl key else .inr (.AUT_E_ADDR, 0)), s)
      else match s.authRange k (f 16 8) (if code = 1 then key.trailer else f 24 4) (bitOf flags 1) true with
        | (some c, s) => (.inr (.AUT_E_ADDR, c), s)
        | (none, s) => (.inl key, s)

/-- A request that passed its checks is accepted and waits for a lane. -/
def State.authAccept (s : State) (k : Nat) (d : List Byte) (key : KeySlot) (async : Bool) (rd : Nat) : State :=
  let f (o n : Nat) : Nat := leNat ((d.drop o).take n)
  let x := s.cx k
  let (seat, s) := s.newSeat (f 24 4)
  let o : AuthOp := { ctx := k, gen := x.gen, async := async, tag := f 6 2, rd := rd, orphan := false, code := f 0 2, slot := f 2 2,
                      key := key, inv := 0, seat := seat, src := f 8 8, dst := f 16 8, srcBuf := bitOf (f 31 1) 0, dstBuf := bitOf (f 31 1) 1,
                      len := f 24 4, rcd := x.rcd }
  { s with aut := { s.aut with ops := s.aut.ops ++ [o] } }

/-- AUTH (R360): a synchronous request leaves the context STALLED until AUTH_COMPLETE. -/
def execAuth (k : Fin 1536) (w : BitVec 25) (s : State) : Res :=
  .next (s.issue 0x6B k.val w (formF w true true false 0 1) fun s x =>
    let a := (x.rg (rs1Of w)).toNat
    let async := flOf w == 1
    if a % 8 ≠ 0 then s.trapAt k.val 2 0 a
    else if 0x20000 < a + 32 then s.trapAt k.val 3 0 a
    else match s.memRead (.dmem (engOf k.val)) a 32 with
      | (none, s) => s.trapAt k.val 7 0 a
      | (some d, s) =>
        let f (o n : Nat) : Nat := leNat ((d.drop o).take n)
        if f 28 3 ≠ 0 || 4 ≤ f 31 1 then s.retireRd k.val (rdOf w) (codeWord .ENG_E_ARG)
        else match s.authStart k.val d with
          | (.inr (e, c), s) =>
            let s := s.bump .AUT_CNT_REFUSED
            if c = 8 then s.violation k.val 8 0 (f 8 8) x.pc false
            else
              let st := statusWord e.code c 0
              if async then (s.sendCont (s.caddr k.val) (f 6 2) st).retireRd k.val (rdOf w) 0 else s.retireRd k.val (rdOf w) st
          | (.inl key, s) =>
            let s := s.authAccept k.val d key async (rdOf w)
            (if async then s.retireRd k.val (rdOf w) 0
            else
              let x := s.cx k.val
              s.setCx k.val { x with st := .stalled, auth := true, cycle := x.cycle + 1 }).fillLanes)

/-! ### Publication (R361) -/

/-- GPUB: publication rs1[9:0], frame length rs1[25:16], frame at rs2. -/
def execGpub (k : Fin 1536) (w : BitVec 25) (s : State) : Res :=
  .next (s.issue 0x6C k.val w (formF w true true true 0 0) fun s x =>
    let v := (x.rg (rs1Of w)).toNat
    let p := v % 1024
    let a := (x.rg (rs2Of w)).toNat
    if a % 8 ≠ 0 then s.trapAt k.val 2 0 a
    else match regionOf (engOf k.val) a (bitsOf v 25 16) with
      | .loc m o =>
        match s.memRead m o (bitsOf v 25 16) with
        | (none, s) => s.trapAt k.val 7 0 a
        | (some l, s) =>
          let c := s.pubCause p x.tmpl x.cls l
          if c ≠ 0 then (s.raise .SAU_E_PUB_REFUSED p c).retireRd k.val (rdOf w) (statusWord Ev.SAU_E_PUB_REFUSED.code c 0)
          else match s.stateChange p l with
            | (s, true) => s.retireRd k.val (rdOf w) (resultWord (s.rn .SAU_PUB_STNUM p))
            | (s, false) => s.stallAt k.val
      | _ => s.trapAt k.val 3 0 a)

/-! ### Timers (R362) -/

/-- TMSET: sub[0] absolute, sub[1] periodic; a free timer of the cluster is armed, which one is the device's choice. -/
def execTmset (k : Fin 1536) (w : BitVec 25) (s : State) : Res :=
  .next (s.issue 0x6D k.val w (formF w true true true 2 2) fun s x =>
    let v := (x.rg (rs1Of w)).toNat
    let abs := subOf w == 1
    let c := clOf k.val
    let idle := (List.range 64).filter fun n => (s.eng.tmr.find (c * 64 + n)).isNone
    if !abs && (v = 0 || 2 ^ 40 < v) then s.retireRd k.val (rdOf w) (codeWord .ENG_E_ARG)
    else if idle.isEmpty then s.retireRd k.val (rdOf w) (codeWord .ENG_E_TIMER_FULL)
    else
      let (f, s) := s.draw
      let n := (idle[f.toNat % idle.length]?).getD 0
      let t : Timer := { dest := x.rg (rs2Of w), cont := bitOf (flOf w) 1, absolute := abs, due := if abs then v else s.freeNs + v,
                         period := if subOf w = 2 then v else 0, cls := x.cls, any := bitOf x.rcd.perm 4 }
      let s := { s with eng := { s.eng with tmr := s.eng.tmr.set (c * 64 + n) t } }
      s.retireRd k.val (rdOf w) (resultWord n))

/-- TMCAN: the result is 1 if timer rs1[5:0] was not armed or had fired. -/
def execTmcan (k : Fin 1536) (w : BitVec 25) (s : State) : Res :=
  .next (s.issue 0x6E k.val w (formF w true true false 0 0) fun s x =>
    let n := clOf k.val * 64 + (x.rg (rs1Of w)).toNat % 64
    let armed := (s.eng.tmr.find n).isSome
    let s := { s with eng := { s.eng with tmr := s.eng.tmr.erase n } }
    s.retireRd k.val (rdOf w) (resultWord (if armed then 0 else 1)))

/-! ### Transfers (R363, R393, R396) -/

/-- A side of a descriptor lies in one region of its kind. -/
def State.sideOk (s : State) (k a n kind : Nat) : Bool :=
  match kind with
  | 0 => match regionOf (engOf k) a n with
    | .loc _ _ => true
    | _ => false
  | 1 => regionOf (engOf k) a n == .dev
  | 2 => bitsOf a 33 20 + n ≤ s.poolSize (poolOf (a % 2 ^ 20))
  | _ => false

/-- The transfer of a descriptor at DMEM address `a`; none where it is malformed. -/
def State.readDesc (s : State) (k a : Nat) (d : List Byte) : Option Dma :=
  let f (o n : Nat) : Nat := leNat ((d.drop o).take n)
  let x := s.cx k
  let op := f 0 1
  let len := f 4 4
  if (op = 1 || op = 2) && f 1 1 < 4 && 1 ≤ len && len ≤ 16777216 && f 26 6 = 0 && f 38 2 = 0 && f 52 12 = 0 &&
      s.sideOk k (f 8 8) (if op = 2 then 8 else len) (f 24 1) && s.sideOk k (f 16 8) len (f 25 1) then
    some { cl := clOf k, seq := s.mmu.seq.get 0 (clOf k), ctx := k, gen := x.gen, cls := x.cls, rcd := x.rcd, tmpl := x.tmpl, ttag := x.tag, desc := a, op := op,
           notify := bitOf (f 1 1) 0, order := bitOf (f 1 1) 1, tag := f 2 2, len := len, src := f 8 8, dst := f 16 8,
           sk := f 24 1, dk := f 25 1, done := 0, st := .queued, va := 0, cause := 0, port := 0 }
  else none

/-- DMAQ. -/
def execDmaq (k : Fin 1536) (w : BitVec 25) (s : State) : Res :=
  .next (s.issue 0x6F k.val w (formF w true true false 0 0) fun s x =>
    let a := (x.rg (rs1Of w)).toNat
    let c := clOf k.val
    if a % 8 ≠ 0 then s.trapAt k.val 2 0 a
    else if 0x20000 < a + 64 then s.trapAt k.val 3 0 a
    else match s.memRead (.dmem (engOf k.val)) a 64 with
      | (none, s) => s.trapAt k.val 7 0 a
      | (some l, s) =>
        match s.readDesc k.val a l with
        | none => s.retireRd k.val (rdOf w) (codeWord .ENG_E_ARG)
        | some d =>
          if (d.sk = 2 && !s.heldBy k.val (d.src % 2 ^ 20)) || (d.dk = 2 && !s.heldBy k.val (d.dst % 2 ^ 20)) then s.trapAt k.val 6 0 0
          else if 64 ≤ (s.mmu.dmas.filter fun y => y.cl == c && (y.st == .queued || y.st == .running)).length then
            s.retireRd k.val (rdOf w) (codeWord .MMU_E_DMAQ_FULL)
          else
            let s := { s with mmu := { s.mmu with dmas := s.mmu.dmas ++ [d], seq := s.mmu.seq.put 0 c ((d.seq + 1) % 2 ^ 32) } }
            ((s.writeDesc d 0 0 0).startDma c).retireRd k.val (rdOf w) (resultWord d.seq))

/-- DMAW. -/
def execDmaw (k : Fin 1536) (w : BitVec 25) (s : State) : Res :=
  .next (s.issue 0x70 k.val w (formF w true true false 0 0) fun s x =>
    let q := (x.rg (rs1Of w)).toNat % 2 ^ 32
    let c := clOf k.val
    match s.dmaOf c q with
    | some d =>
      let x := { x with dmaw := some q, cycle := x.cycle + 1 }
      if d.st == .queued || d.st == .running then s.setCx k.val { x with st := .stalled }
      else s.leaveEngine k.val { x with st := .awaiting }
    | none =>
      match (s.mmu.outs.get [] c).find? fun o => o.1 == q with
      | some (_, out, done) => s.retireRd k.val (rdOf w) (dmaStatus out done)
      | none => s.retireRd k.val (rdOf w) (codeWord .MMU_E_DMA_SEQ))

/-! ### MFS, FENCE, TRAP -/

/-- SR 5: the next refresh window's grid point, in ns of its second (Table 13.2, R102). -/
def State.refNext (s : State) : Nat := s.refGridNext % 1000000000 + (if s.rb .TIM_REFW_INT then 2 ^ 32 else 0)

/-- Cycles a task has spent on its engine beside those its instructions issued in: not stated, and never past the budget
(notes/assumptions/2.md). -/
def State.drawStall (s : State) (k : Nat) : State :=
  let x := s.cx k
  let (f, s) := s.draw
  let room := if x.rcd.budget = 0 then 2 ^ 32 else x.rcd.budget - x.cycle + 1
  s.setCx k { x with cycle := x.cycle + f.toNat % room }

/-- A special register of Table 13.2. -/
def State.special (s : State) (k n : Nat) : BitVec 64 :=
  let x := s.cx k
  match n with
  | 0 => BitVec.ofNat 64 k
  | 1 => BitVec.ofNat 64 s.nowNs
  | 2 => BitVec.ofNat 64 x.cycle
  | 3 => BitVec.ofInt 64 (x.rcd.budget - x.cycle)
  | 4 => BitVec.ofNat 64 (s.caddr k)
  | 5 => BitVec.ofNat 64 s.refNext
  | 6 => BitVec.ofNat 64 (s.engClkEff (clOf k))
  | _ => BitVec.ofNat 64 x.rcd.asid

/-- MFS: rd ← special register sub; SR 8 to 31 raise ILLEGAL. -/
def execMfs (k : Fin 1536) (w : BitVec 25) (s : State) : Res :=
  .next (s.issue 0x73 k.val w (formF w true false false 7 0) fun s _ =>
    let s := if subOf w = 2 || subOf w = 3 then s.drawStall k.val else s
    s.retireRd k.val (rdOf w) (s.special k.val (subOf w)))

/-- FENCE (R348): every store of the model is visible at once. -/
def execFence (k : Fin 1536) (w : BitVec 25) (s : State) : Res :=
  .next (s.issue 0x74 k.val w (formF w false false false 0 0) fun s x => s.retire k.val x (x.pc + 4))

/-- TRAP (R365), and the ILLEGAL exception of a word whose opcode Table 13.5 does not list (R344, R346). -/
def execTrap (k : Fin 1536) (w : BitVec 25) (s : State) : Res :=
  .next (s.issueWhen k.val (fun f => f == 0x75 * 2 ^ 25 + w.toNat || !opDefined (f / 2 ^ 25)) fun f s _ =>
    if opDefined (f / 2 ^ 25) && formF w false false false 31 0 then (s.bump .ENG_CNT_INSN).exception k.val 9 0 f 0
    else s.exception k.val 1 0 f 0)

end Sys2Proof.Machine
end

