-- ==== Sys2Proof/Machine/EngData.lean ====
section
/-! DEFINITION. The meanings of the scalar loads and stores, the atomics and the vector loads and stores (spec/13 R346 to
R349). -/

namespace Sys2Proof.Machine

open Sys2Proof

/-- A load of `n` bytes from an effective address; `done` takes the bytes. -/
def State.loadAt (s : State) (k n : Nat) (a : BitVec 64) (done : State → List Byte → State) : State :=
  if a.toNat % n ≠ 0 then s.trapAt k 2 0 a.toNat
  else match s.ctxLoad k (s.cx k).rcd a.toNat n with
    | (.ok l, s) => done s l
    | (.exc c d, s) => s.trapAt k c d a.toNat

/-- A store of bytes to an effective address. -/
def State.storeAt (s : State) (k : Nat) (a : BitVec 64) (l : List Byte) : State :=
  if a.toNat % l.length ≠ 0 then s.trapAt k 2 0 a.toNat true
  else match s.ctxStore k (s.cx k).rcd a.toNat l with
    | (.ok _, s) => s.retire k (s.cx k) ((s.cx k).pc + 4)
    | (.exc c d, s) => s.trapAt k c d a.toNat true

/-- A scalar load of `n` bytes, sign- or zero-extended. -/
def State.load (s : State) (op n : Nat) (sign : Bool) (k : Fin 1536) (w : BitVec 25) : State :=
  s.issue op k.val w true fun s x => s.loadAt k.val n (x.ea w) fun s l =>
    s.retireRd k.val (rdOf w) (if sign then BitVec.ofInt 64 (signed (8 * n) (leNat l)) else BitVec.ofNat 64 (leNat l))

/-- A scalar store of the low `n` bytes of rd. -/
def State.store (s : State) (op n : Nat) (k : Fin 1536) (w : BitVec 25) : State :=
  s.issue op k.val w true fun s x => s.storeAt k.val (x.ea w) (leBytes n (x.rg (rdOf w)).toNat)

/-- LDB: rd ← [ea], 1 byte, sign-extended. -/
def execLdb (k : Fin 1536) (w : BitVec 25) (s : State) : Res := .next (s.load 0x30 1 true k w)

/-- LDBU: rd ← [ea], 1 byte, zero-extended. -/
def execLdbu (k : Fin 1536) (w : BitVec 25) (s : State) : Res := .next (s.load 0x31 1 false k w)

/-- LDH: rd ← [ea], 2 bytes, sign-extended. -/
def execLdh (k : Fin 1536) (w : BitVec 25) (s : State) : Res := .next (s.load 0x32 2 true k w)

/-- LDHU: rd ← [ea], 2 bytes, zero-extended. -/
def execLdhu (k : Fin 1536) (w : BitVec 25) (s : State) : Res := .next (s.load 0x33 2 false k w)

/-- LDW: rd ← [ea], 4 bytes, sign-extended. -/
def execLdw (k : Fin 1536) (w : BitVec 25) (s : State) : Res := .next (s.load 0x34 4 true k w)

/-- LDWU: rd ← [ea], 4 bytes, zero-extended. -/
def execLdwu (k : Fin 1536) (w : BitVec 25) (s : State) : Res := .next (s.load 0x35 4 false k w)

/-- LDD: rd ← [ea], 8 bytes, sign-extended. -/
def execLdd (k : Fin 1536) (w : BitVec 25) (s : State) : Res := .next (s.load 0x36 8 true k w)

/-- STB: [ea] ← the low 1 byte of rd. -/
def execStb (k : Fin 1536) (w : BitVec 25) (s : State) : Res := .next (s.store 0x38 1 k w)

/-- STH: [ea] ← the low 2 bytes of rd. -/
def execSth (k : Fin 1536) (w : BitVec 25) (s : State) : Res := .next (s.store 0x39 2 k w)

/-- STW: [ea] ← the low 4 bytes of rd. -/
def execStw (k : Fin 1536) (w : BitVec 25) (s : State) : Res := .next (s.store 0x3A 4 k w)

/-- STD: [ea] ← the low 8 bytes of rd. -/
def execStd (k : Fin 1536) (w : BitVec 25) (s : State) : Res := .next (s.store 0x3B 8 k w)

/-- An atomic on the 8 bytes at [rs1] (R349): what is stored, if anything, is a function of the old value; rd gets the old
value. A translated address raises ADDRESS. -/
def State.atomic (s : State) (op : Nat) (k : Fin 1536) (w : BitVec 25) (f : Ctx → BitVec 64 → Option (BitVec 64)) : State :=
  s.issue op k.val w (fnOf10 w == 0) fun s x =>
    let a := (x.rg (rs1Of w)).toNat
    if a % 8 ≠ 0 then s.trapAt k.val 2 0 a
    else match regionOf (engOf k.val) a 8 with
      | .loc m o =>
        match s.memRead m o 8 with
        | (none, s) => s.trapAt k.val 7 0 a
        | (some l, s) =>
          let t := BitVec.ofNat 64 (leNat l)
          let s := match f x t with
            | some v => s.memFill m o (leBytes 8 v.toNat)
            | none => s
          s.retireRd k.val (rdOf w) t
      | _ => s.trapAt k.val 3 0 a

/-- XADD: t ← [rs1]; [rs1] ← t + rs2; rd ← t. -/
def execXadd (k : Fin 1536) (w : BitVec 25) (s : State) : Res :=
  .next (s.atomic 0x3C k w fun x t => some (t + x.rg (rs2Of w)))

/-- CAS: t ← [rs1]; if t = rd then [rs1] ← rs2; rd ← t. -/
def execCas (k : Fin 1536) (w : BitVec 25) (s : State) : Res :=
  .next (s.atomic 0x3D k w fun x t => if t = x.rg (rdOf w) then some (x.rg (rs2Of w)) else none)

/-- VLD: vd ← 32 bytes at rs + 32 × fn. -/
def execVld (k : Fin 1536) (w : BitVec 25) (s : State) : Res :=
  .next (s.issue 0x50 k.val w (formE w true false false true) fun s x => s.loadAt k.val 32 (x.eaV w) fun s l =>
    let x := s.cx k.val
    s.retire k.val (x.wv (vdOf w) (BitVec.ofNat 256 (leNat l))) (x.pc + 4))

/-- VST: 32 bytes at rs + 32 × fn ← vd. -/
def execVst (k : Fin 1536) (w : BitVec 25) (s : State) : Res :=
  .next (s.issue 0x51 k.val w (formE w true false false true) fun s x => s.storeAt k.val (x.eaV w) (leBytes 32 (x.rv (vdOf w)).toNat))

end Sys2Proof.Machine
end

