-- ==== Sys2Proof/Machine/EngEvents.lean ====
section
/-! DEFINITION. The meanings of the engine array's events (spec/13 R338, R341, R362, R373). -/

namespace Sys2Proof.Machine

open Sys2Proof

/-- R341: the oldest continuation token under way to context number `k` reaches its queue, or is discarded. -/
def execContinuationDelivery (k : Fin 2048) (s : State) : Res :=
  match s.eng.conts.find? fun t => caddrCtx t.1 == k.val with
  | none => .next s
  | some t =>
    let s := { s with eng := { s.eng with conts := s.eng.conts.erase t } }
    .next (s.deliverCont t.1 t.2.1 t.2.2)

/-- A timer of cluster `c` as the emitter of its token (R362, R379). -/
def State.timerEmitter (s : State) (c : Nat) (t : Timer) : Emitter :=
  { cls := t.cls, any := t.any,
    mayUse := fun d => match s.clOwner c with
      | some h => s.holdsCluster h d
      | none => false }

/-- Timer `n` of cluster `c` fires: its token carries the Meridian time; a periodic one is armed again (R362). -/
def State.timerFire (s : State) (c n : Nat) (t : Timer) : State :=
  let tmr := if t.period = 0 then s.eng.tmr.erase (c * 64 + n) else s.eng.tmr.set (c * 64 + n) { t with due := t.due + t.period }
  let s := { s with eng := { s.eng with tmr := tmr } }.bump .ENG_CNT_TMR_FIRE
  match s.sendDest t.dest (BitVec.ofNat 64 s.nowNs) t.cont (s.timerEmitter c t) with
  | (none, s) => s
  | (some _, s) => if t.cont then s else s.emitRef (c * 64)

/-- R362: an armed timer reaches its due time on Meridian or on the step-free count; it may fire 50 ns off. -/
def execTimerFire (c : Fin 24) (n : Fin 64) (s : State) : Res :=
  match s.eng.tmr.find (c.val * 64 + n.val) with
  | none => .next s
  | some t => .next (if t.due ≤ (if t.absolute then s.nowNs else s.freeNs) + 50 then s.timerFire c.val n.val t else s)

/-- Words of a memory of the array, and its words in one cluster: IMEM, DMEM, shared memory. -/
def memWords (m : Nat) : Nat := if m = 0 then 1572864 else if m = 1 then 3145728 else 6291456

/-- R338: the scrubber reads a word of a memory. `upset` is what it finds beside an error already there: 1 one bit, 2 or 3
uncorrectable. -/
def execEngMemScrub (m : Fin 3) (word : BitVec 23) (upset : BitVec 2) (s : State) : Res :=
  if memWords m.val ≤ word.toNat then .next s else
  let key := badKey m.val word.toNat
  let bad := if upset = 0 then s.eng.bad
    else s.eng.bad.set key (upset ≠ 1 || (s.eng.bad.find key).isSome)
  let c := word.toNat / (memWords m.val / 24)
  let (_, s) := { s with eng := { s.eng with bad := bad } }.engCheck c [key]
  .next (s.retireDue c)

/-- R373. -/
def execEngCntClr (src : Src) (s : State) : Res := .next (s.guarded src .ENG fun s => s.clearBlockCtrs .ENG)

end Sys2Proof.Machine
end

