-- ==== Sys2Proof/Machine/Host.lean ====
section
/-! DEFINITION. The meanings of the host commands and events (spec/17 R453-R466, R478, R482): doorbells and ring registers,
grants and BAR4, descriptors and completions, links and function resets. -/

namespace Sys2Proof.Machine

open Sys2Proof

/-! ### Rings (R459, R460) -/

/-- The source is the host of ring `r`. -/
def ownsRing (src : Src) (r : Nat) : Bool :=
  match src with
  | .host h => h.val == ringHost r
  | _ => false

/-- A ring write or doorbell is refused. -/
def State.ringErr (s : State) (r : Nat) : State :=
  (s.setN .HST_RG_ERR r Ev.HST_E_RING_CFG.code).raise .HST_E_RING_CFG r

/-- R459: the producer index of ring `r` is written. -/
def execDoorbell (src : Src) (r : Fin 4096) (v : BitVec 32) (s : State) : Res :=
  let r := r.val
  if !ownsRing src r then .next (s.partitionErr src)
  else if !s.rb .HST_RG_EN r then .next s
  else
    let prod := v.toNat % 65536
    if 2 ^ s.rn .HST_RG_LOG2N r < (prod + 65536 - s.rn .HST_RG_CONS r) % 65536 then .next (s.ringErr r)
    else .next (s.setN .HST_RG_PROD r prod)

/-- Word 0x08 of ring `r` written by its host (R460): a size out of range refuses the word; KIND and LOG2N keep their
values while the ring is enabled; EN = 1 resets the indices. -/
def State.wrRingEn (s : State) (r : Nat) (v : BitVec 32) : State :=
  let n := bitsOf v.toNat 24 20
  let kind := bitsOf v.toNat 30 30
  if n < 6 || 15 < n then s.ringErr r else
  let s := if !s.rb .HST_RG_EN r then (s.setN .HST_RG_KIND r kind).setN .HST_RG_LOG2N r n
    else if n ≠ s.rn .HST_RG_LOG2N r || kind ≠ s.rn .HST_RG_KIND r then s.ringErr r
    else s
  let s := (s.setN .HST_RG_VEC r (bitsOf v.toNat 10 0)).setN .HST_RG_EN r (bitsOf v.toNat 31 31)
  if bitOf v.toNat 31 then
    let s := (s.setN .HST_RG_CONS r 0).setN .HST_RG_PROD r 0
    { s with hst := { s.hst with fetch := s.hst.fetch.put 0 r 0, unsig := s.hst.unsig.put 0 r 0 } }
  else s

/-- R460. -/
def execHstRgEn (src : Src) (r : Fin 4096) (v : BitVec 32) (s : State) : Res :=
  .next (if ownsRing src r.val then s.wrRingEn r.val v else s.partitionErr src)

/-- Words 0x00, 0x04 and 0x0C of ring `r` written by its host: the base is refused while the ring is enabled (R460). -/
def State.wrRingCfg (s : State) (r word : Nat) (v : BitVec 32) : State :=
  if word = 2 then s.wrFields [.HST_RG_MOD_US, .HST_RG_MOD_CNT] r v
  else if s.rb .HST_RG_EN r then s.ringErr r
  else s.wrFields (if word = 0 then [.HST_RG_BASE_L] else [.HST_RG_BASE_H]) r v

/-- R460, R465. -/
def execHstRgCfg (src : Src) (r : Fin 4096) (word : Fin 3) (v : BitVec 32) (s : State) : Res :=
  .next (if ownsRing src r.val then s.wrRingCfg r.val word.val v else s.partitionErr src)

/-! ### Grants and BAR4 (R456-R458) -/

/-- Window and device range of grant `g`, in 64 KiB units: window, device address, length. -/
def State.grant (s : State) (g : Nat) : Nat × Nat × Nat := (s.rn .HST_GR_WIN g, s.rn .HST_GR_DEV g, s.rn .HST_GR_LEN g)

/-- Grant `g` may be enabled as it stands (R456). -/
def State.grantOk (s : State) (g : Nat) : Bool :=
  let (w, d, n) := s.grant g
  n ≠ 0 && inGeneral (d * 65536) (n * 65536) && w + n ≤ aperture / 65536 &&
    (List.range 16).all fun i =>
      let k := g / 16 * 16 + i
      let (w', _, n') := s.grant k
      k == g || !s.rb .HST_GR_EN k || w + n ≤ w' || w' + n' ≤ w

/-- A word of grant `g` written: an entry that would be enabled and fails its checks keeps its value. -/
def State.wrGrant (s : State) (g word : Nat) (v : BitVec 32) : State :=
  let t := s.wrFields (if word = 0 then [.HST_GR_EN, .HST_GR_RO, .HST_GR_DEV] else if word = 1 then [.HST_GR_WIN] else [.HST_GR_LEN]) g v
  if t.rb .HST_GR_EN g && !t.grantOk g then s.raise .HST_E_GRANT (g / 16) (g % 16) else t

/-- R456. -/
def execHstGr (src : Src) (h : Fin 4) (n : Fin 16) (word : Fin 3) (v : BitVec 32) (s : State) : Res :=
  .next (s.held src fun s => s.wrGrant (h.val * 16 + n.val) word.val v)

/-- What a BAR4 read returned. -/
def State.bar4 (s : State) (l : List Byte) (poison : Bool) : State := { s with hst := { s.hst with rdata := l, poison := poison } }

/-- A BAR4 access that nothing covers: no effect, a read returns 0, HST_E_PARTITION (R457). -/
def State.bar4None (s : State) (h : Fin 4) (write : Bool) (n : Nat) : State :=
  (if write then s else s.bar4 (List.replicate n 0#8) false).partitionErr (.host h)

/-- R456-R458: host `h` reads `len` bytes, or writes `data`, at a BAR4 offset. -/
def execBar4Access (h : Fin 4) (write : Bool) (off : BitVec 32) (len : Nat) (data : List (BitVec 8)) (s : State) : Res :=
  let o := off.toNat
  let n := if write then data.length else len
  if aperture ≤ o && o + n ≤ 2 ^ 32 && s.apertureOpen h then
    .next (if write then { s with pkm := s.pkm.fill 0#8 (o - aperture) data } else s.bar4 (s.pkBytes (o - aperture) n) false)
  else match (if aperture < o + n then none else s.grantOf h.val o n) with
    | none => .next (s.bar4None h write n)
    | some g =>
      if write && s.rb .HST_GR_RO g then .next (s.bar4None h write n)
      else if s.mod.mode == .load && !s.rb .MEM_INIT_FLAG then
        .next ((if write then s else s.bar4 (List.replicate n 0#8) false).raise .GLB_E_ORDER)
      else if write then .next (s.hbmWrite (s.grantAddr g o) data 8).1
      else match s.hbmRead (s.grantAddr g o) n 8 with
        | (some l, s) => .next (s.bar4 l false)
        | (none, s) =>
          let (l, s) := s.freeBytes n
          .next (s.bar4 l true)

/-! ### TX rings (R461, R462) -/

/-- Little-endian field of a TX descriptor: `n` bytes at byte `o` (Table 17.2). -/
def txd (desc : BitVec 256) (o n : Nat) : Nat := desc.toNat / 2 ^ (8 * o) % 2 ^ (8 * n)

/-- Reserved bits of a descriptor that are not 0. -/
def txBad (desc : BitVec 256) : Bool := bitsOf (txd desc 11 1) 7 6 ≠ 0 || bitsOf (txd desc 12 4) 31 20 ≠ 0 || txd desc 24 8 ≠ 0

/-- Ring `r` fetches its next descriptor (R84, R460, R478): an enabled TX ring of a host whose link is up, with a descriptor
posted, in RUN or ISOLATED. -/
def State.txReady (s : State) (r : Nat) : Bool :=
  s.rb .HST_RG_EN r && !s.rb .HST_RG_KIND r && s.rb .HST_LINK_UP (ringHost r) && forwards s.mod.mode &&
    s.fetchAt r ≠ s.rn .HST_RG_PROD r

/-- DESIGN CHOICE (log entry 29): the pipeline entry slot that a host's ring waits on (Table 01.8) is held by a packet of that
host that has not yet entered pipeline `pipe`. -/
def State.hostSlotBusy (s : State) (h pipe : Nat) : Bool := s.queuedAt (56 + h) pipe ≠ 0

/-- A fetched SEND whose fields are in order (R461). Without an entry slot (R29), or with a request that the pools refuse, it
stays in the ring. -/
def State.txSend (s : State) (r : Nat) (desc : BitVec 256) (frame : List Byte) (err : Bool) : State :=
  let h := ringHost r
  let len := txd desc 8 2
  let flags := txd desc 11 1
  let tc := bitsOf flags 3 1
  let pipe := bitsOf flags 0 0
  let bytes := (frame ++ List.replicate len 0#8).take len
  if s.hostSlotBusy h pipe then s else
  match s.request (6 ≤ tc) (some (len + 4)) (ownHost h) bytes none with
  | (s, none) => s
  | (s, some b) =>
    if err then ((s.freeBuf b (ownHost h)).1.raise .HST_E_DMA r).oweTx r Ev.HST_E_DMA.code none
    else
      let s := ((s.handover b (ownHost h) (ownPipe pipe)).1).injected (56 + h) pipe b len tc (ownHost h) (bitOf flags 4) (bitOf flags 5)
      if bitOf flags 5 then (s.awaitTs b none r).oweTx r 0 (some (b, s.grantNo b)) else s.oweTx r 0 none

/-- R461: the next descriptor of ring `r` is a SEND, or has no defined operation; `frame` is what the host's memory holds,
`err` says that the read failed. -/
def execTxSend (r : Fin 4096) (desc : BitVec 256) (frame : List (BitVec 8)) (err : Bool) (s : State) : Res :=
  let r := r.val
  let op := txd desc 10 1
  let len := txd desc 8 2
  if !s.txReady r || op = 2 || op = 3 then .next s
  else if op ≠ 1 || txBad desc || len < 60 || min (s.poolSize 3) 9600 < len then .next (s.oweTx r Ev.HST_E_DESC.code none)
  else
    let h : Fin 4 := ⟨ringHost r % 4, Nat.mod_lt _ (by decide)⟩
    if 6 ≤ bitsOf (txd desc 11 1) 3 1 && !s.leaseOk h then .next (s.oweTx r Ev.HST_E_FENCED.code none)
    else .next (s.txSend r desc frame err)

/-- Status of a RESUME or DISCARD: 0, or why its check failed (R302). -/
def State.parkStatus (s : State) (ok : Bool) (b : Nat) : Nat :=
  if ok then 0 else if s.poolCount (poolOf b) ≤ idxOf b then Ev.SWC_E_BUF_RANGE.code else Ev.SWC_E_OWNER.code

/-- R461: the next descriptor of ring `r` is a RESUME. Without an entry slot (R29) it stays in the ring. -/
def execTxResume (r : Fin 4096) (desc : BitVec 256) (s : State) : Res :=
  let r := r.val
  let b := txd desc 12 4 % 2 ^ 20
  if !s.txReady r || txd desc 10 1 ≠ 2 then .next s
  else if txBad desc then .next (s.oweTx r Ev.HST_E_DESC.code none)
  else if s.hostSlotBusy (ringHost r) (txd desc 11 1 % 2) then .next s
  else
    let (s, ok) := s.resumeParked b (txd desc 11 1 % 2) (56 + ringHost r) (ownHost (ringHost r))
    .next (s.oweTx r (s.parkStatus ok b) none)

/-- R461: the next descriptor of ring `r` is a DISCARD. -/
def execTxDiscard (r : Fin 4096) (desc : BitVec 256) (s : State) : Res :=
  let r := r.val
  let b := txd desc 12 4 % 2 ^ 20
  if !s.txReady r || txd desc 10 1 ≠ 3 then .next s
  else if txBad desc then .next (s.oweTx r Ev.HST_E_DESC.code none)
  else
    let (s, ok) := s.discardParked b (ownHost (ringHost r))
    .next (s.oweTx r (s.parkStatus ok b) none)

/-- A replica of the packet in buffer `b`, granted as number `o`, may still start on a port 0 to 47 (R462). -/
def State.mayStart (s : State) (b o : Nat) : Bool :=
  s.grantNo b == o && (s.buf b).isSome &&
    ((s.pkts.any fun p => p.buf == some b && p.stage != .parked && p.stage != .engine && p.stage != .stored) ||
     s.tmg.queues.any fun q => s.queuePort q.1 < 48 && q.2.ents.any fun e => e.buf == b && !e.void)

/-- R462: the oldest completion owed by ring `r` is written, unless it still waits for its timestamp. -/
def execTxCompletion (r : Fin 4096) (s : State) : Res :=
  let r := r.val
  let h := ringHost r
  match s.hst.txc.find? fun c => c.ring == r with
  | none => .next s
  | some c =>
    let waits := match c.wait with
      | some (b, o) => (s.hst.ts.any fun t => t.buf == b && t.order == o) && s.mayStart b o
      | none => false
    if waits || !s.rb .HST_LINK_UP h then .next s else
    let s := { s with hst := { s.hst with
      txc := s.hst.txc.erase c
      ts := match c.wait with
        | some (b, o) => s.hst.ts.filter fun t => !(t.buf == b && t.order == o)
        | none => s.hst.ts } }
    let (sec, ns) := c.ts.getD (0, 0)
    let s := s.hostWrite h c.addr (leBytes 4 ns ++ leBytes 4 sec)
    let s := s.hostWrite h (c.addr + 8) (leBytes 2 c.status ++ leBytes 1 (1 + (if c.ts.isSome then 2 else 0)) ++ leBytes 5 0)
    let s := s.bump .HST_CNT_TX_DESC h
    let s := if c.status = 0 then s else (s.bump .HST_CNT_TX_ERR h).setN .HST_RG_ERR r c.status
    .next (if c.idx = s.rn .HST_RG_CONS r then s.ringDone r else s)

/-! ### RX rings (R463, R464) -/

/-- A parked frame that has taken a descriptor is written. -/
def State.rxParked (s : State) (x : RxP) (addr buflen : Nat) : State :=
  let s := { s with hst := { s.hst with rxp := s.hst.rxp.erase x } }
  let l := ((s.parkedPkt x.handle).map (·.bytes)).getD []
  s.rxWrite x.ring addr buflen l x.sec x.ns true x.port (x.handle + x.pipe * 2 ^ 20) x.ctx x.tc

/-- An egress replica of host port 56 + h is written, or dropped without a descriptor; its reference ends. -/
def State.rxReplica (s : State) (h : Nat) (t : Tx) (addr buflen : Nat) : State :=
  let p := 56 + h
  let k := (s.buf t.ent.buf).bind (·.pkt)
  let bytes := ((s.buf t.ent.buf).map (·.bytes)).getD []
  let pin := (k.map (·.pin)).getD 0
  let r := 1024 * h + s.rn .HST_RXMAP_RING (h * 64 + pin % 64)
  let (out, _) := s.frameOut p t bytes
  let s := { s with prt := { s.prt with txE := s.prt.txE.erase p } }
  let s := if !s.rb .HST_LINK_UP h then s
    else if s.rxReady r then
      s.rxWrite r addr buflen out ((k.map (·.tsSec)).getD 0) ((k.map (·.tsNs)).getD 0) false ((k.map (·.src)).getD 0) 0 0 t.ent.tc
    else s.rxNone r
  s.endReplica p t.ent

/-- R463: the next frame for host `h` is written into a posted descriptor that holds `addr` and `buflen`: a parked one
first, then the replica that port 56 + h transmits. -/
def execRxDelivery (h : Fin 4) (addr : BitVec 64) (buflen : BitVec 16) (s : State) : Res :=
  let h := h.val
  match s.hst.rxp.find? fun x => ringHost x.ring == h with
  | some x => .next (if s.rb .HST_LINK_UP h then s.rxParked x addr.toNat buflen.toNat else s)
  | none => match s.prt.txE.find (56 + h) with
    | some t => .next (if t.ent.pkt ≠ 0 then s else s.rxReplica h t addr.toNat buflen.toNat)
    | none => .next s

/-- R465: HST_RG_MOD_US after the first completion of ring `r` not yet signalled. -/
def execInterruptHoldoff (r : Fin 4096) (s : State) : Res :=
  let r := r.val
  if s.hst.unsig.get 0 r = 0 then .next s
  else .next ({ s with hst := { s.hst with unsig := s.hst.unsig.put 0 r 0 } }.signal (ringHost r) (s.rn .HST_RG_VEC r))

/-! ### Function reset, links, PCIe (R453-R455, R466, R478) -/

/-- Per-function registers of Table 17.8. -/
def perFunction : List Field :=
  [.GLB_LC_OP, .GLB_LC_TERM_MS, .GLB_LU_EPOCH, .GLB_LM_ERR, .GLB_LM_OUT, .GLB_LM_EPOCH, .GLB_EVT_RPTR, .GLB_EVT_IRQ_EN,
   .GLB_EVT_LEVEL, .GLB_EVT_VEC]

/-- R455. -/
def execFlr (h : Fin 4) (s : State) : Res :=
  let k := h.val
  let s := (List.range' (1024 * k) 1024).foldl (fun s r => s.setB .HST_RG_EN r false) s
  let s := { s with hst := { s.hst with
    txc := s.hst.txc.filter fun c => ringHost c.ring != k
    ts := s.hst.ts.filter fun t => t.ctx.isSome || ringHost t.ring != k
    rxp := s.hst.rxp.filter fun x => ringHost x.ring != k
    unsig := s.hst.unsig.filter fun e => ringHost e.1 != k
    msix := s.hst.msix.filter fun e => e.1 / 8192 != k
    pba := s.hst.pba.filter fun e => e.1 / 2048 != k } }
  let s := perFunction.foldl (fun s f => s.setReg f k (f.reset k)) s
  let s := if s.mod.holder == some h then s.endLease .GLB_I_LEASE_END else s
  .next (s.raise .HST_I_FLR k)

/-- R453: the link and tunnel of host `h` come up, at Gen 3 or Gen 2, where its port's domain is ON. -/
def execHostLinkUp (h : Fin 4) (gen3 : Bool) (s : State) : Res :=
  let k := h.val
  if s.rb .HST_LINK_UP k || s.dom (36 + k) ≠ dsOn then .next s
  else .next (((s.setB .HST_LINK_UP k true).setB .HST_GEN3 k gen3).raise .HST_I_LINK_UP k (if gen3 then 3 else 2))

/-- R478: the link of host `h` goes down. -/
def execHostLinkDown (h : Fin 4) (s : State) : Res := .next (s.hostDown h.val)

/-- R466: an ATS Invalidate Request of host `h` is completed. -/
def execAtsInvalidate (h : Fin 4) (s : State) : Res := .next (s.bump .HST_CNT_ATS_INV h.val)

/-- R482. -/
def execHstCntClr (src : Src) (s : State) : Res := .next (s.held src fun s => s.clearBlockCtrs .HST)

/-- R466: host `h` writes ATS Enable, PRI Enable and Bus Master Enable. -/
def execPcieConfigWrite (h : Fin 4) (ats pri bme : Bool) (s : State) : Res :=
  let k := h.val
  let s := ((s.setB .HST_ATS_EN k ats).setB .HST_PRI_EN k pri).setB .HST_BME k bme
  .next (if ats && pri then s else s.endPages k fun _ => true)

/-- R453: a request to enter a link state other than CL0 is refused; nothing changes. -/
def execLinkStateRequest (_h : Fin 4) (_cl : Fin 3) (s : State) : Res := .next s

end Sys2Proof.Machine
end

