-- ==== Sys2Proof/Machine/Sau.lean ====
section
/-! DEFINITION. Meanings of the Graticule and publication commands (spec/10 R263-R292). -/

namespace Sys2Proof.Machine

open Sys2Proof

/-! ### Samples (R263-R266) -/

/-- A field of the Graticule descriptor, network order (Table 06.6). -/
def d6 (d : List Byte) (o n : Nat) : Nat := beNat ((d.drop o).take n)

/-- The cause of the first of checks 1 to 4 that a frame of `len` bytes fails (Table 10.1); 0 none. -/
def State.frameCheck (s : State) (st : Nat) (d : List Byte) (len : Nat) : Nat :=
  let n := d6 d 3 1
  let nch := s.nch st
  if n = 0 || 8 < n || nch = 0 || 32 < nch || d6 d 22 2 ≠ 8 * nch ||
      len < d6 d 20 2 + (n - 1) * s.rn .SAU_ST_STRIDE st + d6 d 22 2 then 1
  else if d6 d 4 4 ≠ s.rn .SAU_ST_CONFREV st then 2
  else if d6 d 2 1 = 0 || (s.rb .SAU_ST_SYNC_EXACT st && d6 d 2 1 ≠ s.rn .SAU_ST_SYNC_VAL st) then 3
  else if s.rn .SAU_ST_RATE st ≤ d6 d 0 2 then 1
  else 0

/-- A frame fails one of checks 1 to 4 (R265, R266): the stream enters FAULT. While TIM_QUAL is UNSET it stays in ACQUIRE
(R270). -/
def State.frameFault (s : State) (st cause : Nat) : State :=
  let s := (s.countF .SAU_ST_REJ st).setN .SAU_ST_FAULT st cause
  let s := if s.rn .TIM_QUAL = 0 then s else s.setStream st 4
  s.raiseLimited .SAU_W_STREAM_FAULT st ms1 st cause

/-- Full Meridian seconds of an ingress timestamp that carries the low 32 bits: the second nearest to the present one, which
an adjustment or a step may have put ahead of it. -/
def State.fullSec (s : State) (sec : Nat) : Int :=
  let d : Nat := (sec + 2 ^ 32 - s.sec % 2 ^ 32) % 2 ^ 32
  ((s.sec + d : Nat) : Int) - (if d < 2 ^ 31 then 0 else 2 ^ 32)

/-- The ASDUs of an SV frame that arrived at `t` ns, in order (R264). -/
def State.asdus (s : State) (st : Nat) (t : Int) (d l : List Byte) : State :=
  let r := max 1 (s.rn .SAU_ST_RATE st)
  (List.range (d6 d 3 1)).foldl (fun s k =>
    let area := (l.drop (d6 d 20 2 + k * s.rn .SAU_ST_STRIDE st)).take (8 * s.nch st)
    s.sample st t ((d6 d 0 2 + k) % r) (areaLe (s.nch st) area)) s

/-- An SV frame of stream `st` (R263-R265). -/
def State.svFrame (s : State) (st : Nat) (d : List Byte) (p : Packet) : State :=
  if !s.rb .SAU_ST_EN st then s.bump .SAU_CNT_UNSUB
  else
    let cause := s.frameCheck st d p.bytes.length
    if cause ≠ 0 then s.frameFault st cause
    else
      let s := if s.rn .SAU_ST_STATE st = 4 then s.setStream st 1 else s
      s.asdus st (s.fullSec p.tsSec * 1000000000 + p.tsNs) d p.bytes

/-- The next packet of pipeline `k` before its replicas whose SV frame the unit has not read. -/
def State.nextSample (s : State) (k : Nat) : Option Packet :=
  (s.pkts.filter fun p => p.pipe == k && p.stage == .repl && p.slice.isSome && p.whole).head?

/-- R263, R265: the next SV frame of pipeline `k` that the unit has not read; the packet then goes on
to its replicas. -/
def execSampleDelivery (k : Fin 2) (s : State) : Res :=
  match s.nextSample k.val with
  | none => .next s
  | some p =>
    match p.slice, p.buf with
    | some (st, d), some _ => .next ((s.svFrame st d p).setPkt { p with slice := none })
    | _, _ => .next s

/-- R272: the next grid instant of group `g` arrives, and its slice opens unless a sample opened it before. -/
def execSliceOpen (g : Fin 512) (s : State) : Res :=
  let g := g.val
  if !s.gridRun || !s.rb .SAU_JG_EN g || s.mod.mode == .drain then .next s else
  let s := s.startGrid g
  match (s.grp g).front with
  | none => .next s
  | some i =>
    if !s.reached g i.1 i.2 0 then .next s else
    let gr := s.grp g
    let known := (gr.opens.any fun x => x.sec == i.1 && x.n == i.2) || gr.done.any fun d => d.1 == i.1 && d.2.1 == i.2
    let s := s.setGrp g { gr with front := some (gridNext (s.jgRate g) i) }
    .next (if known then s else s.openSlice g i.1 i.2)

/-- The open slice of a group whose grid instant is the oldest. -/
def State.oldestOpen (s : State) (g : Nat) : Option Slice :=
  (s.grp g).opens.foldl (fun b x => match b with
    | some y => if gridLt (x.sec, x.n) (y.sec, y.n) then some x else b
    | none => some x) none

/-- R272: Meridian reaches the deadline of the oldest open slice of group `g`. -/
def execSliceDeadline (g : Fin 512) (s : State) : Res :=
  let g := g.val
  match s.oldestOpen g with
  | some x => if s.reached g x.sec x.n (s.rn .SAU_JG_DL_NS g) then .next (s.closeSlice g x 1) else .next s
  | none => .next s

/-- R266: no accepted sample of a VALID stream for SAU_ST_LOSS_US. -/
def execStreamLoss (st : Fin 4096) (s : State) : Res :=
  let st := st.val
  if s.rn .SAU_ST_STATE st ≠ 2 then .next s
  else .next ((s.setStream st 3).raiseLimited .SAU_W_STREAM_LOST st ms1 st)

/-! ### Join groups (R271, Table 10.3) -/

/-- Fields of a word of a group's registers, and their element. -/
def jgFields (w : Nat) : List Field :=
  if 64 ≤ w then [.SAU_JG_M_EN, .SAU_JG_M_STREAM] else
  match w with
  | 0 => [.SAU_JG_EN, .SAU_JG_EMPTY, .SAU_JG_PATCH_EN, .SAU_JG_HOLD_N, .SAU_JG_TOK_MAX, .SAU_JG_RATE]
  | 1 => [.SAU_JG_DL_NS]
  | 2 => [.SAU_JG_DEPTH_L2, .SAU_JG_RING_BASE]
  | 3 => [.SAU_JG_CLMASK]
  | 4 => [.SAU_JG_OPND, .SAU_JG_TMPL]
  | 5 => [.SAU_JG_PATCH_DEPTH_L2, .SAU_JG_PATCH_WIN_US, .SAU_JG_PATCH_TMPL]
  | 6 => [.SAU_JG_PATCH_BASE]
  | _ => []
def jgElem (g w : Nat) : Nat := if 64 ≤ w then g * 64 + (w - 64) else g

/-- A ring of `n` slots of `size` bytes lies in shared memory, 64-byte aligned (R275). -/
def ringOk (l2 base size : Nat) : Bool := 1 ≤ l2 && l2 ≤ 6 && base % 64 = 0 && base + 2 ^ l2 * size ≤ 2097152

/-- The template of a group is P-class or T-class, and the group's clusters hold its set. -/
def State.jgTmplOk (s : State) (g t : Nat) : Bool :=
  match s.tsk.tmpls.find t with
  | none => false
  | some m => m.cls ≤ 1 && (s.clusterSet m).all fun c => bitOf (s.rn .SAU_JG_CLMASK g) c

/-- Clusters a source may name: one partition holds them all (R467, R468). -/
def State.clustersOk (s : State) (src : Src) (mask : Nat) : Bool :=
  s.inPartition src fun h => (List.range 24).all fun c => !bitOf mask c || s.holdsCluster h c

/-- The refusal of an enable of group `g` with its registers as they stand, none where it is accepted (Table 10.3). -/
def State.jgRefusal (s : State) (src : Src) (g : Nat) : Option Ev :=
  let b := s.jgRate g
  let dl := s.rn .SAU_JG_DL_NS g
  let ms := (s.members g).map (·.2)
  let others := s.groupsOn.filter (· != g)
  let inOther (st : Nat) : Nat := (others.filter fun h => (s.members h).any fun m => m.2 == st).length
  let memberOk (st : Nat) : Bool :=
    let r := s.rn .SAU_ST_RATE st
    r % b = 0 && 1 ≤ r / b && r / b ≤ 28 && inOther st ≤ 1
  let patch := s.rb .SAU_JG_PATCH_EN g
  let r0 := s.rn .SAU_JG_RING_BASE g
  let r1 := r0 + 2 ^ s.rn .SAU_JG_DEPTH_L2 g * s.slotB g
  let p0 := s.rn .SAU_JG_PATCH_BASE g
  let p1 := p0 + 2 ^ s.rn .SAU_JG_PATCH_DEPTH_L2 g * s.patchB g
  if b < 1000 || 28800 < b || dl < 1000 || 7000000000 < (dl + 1000 * s.rn .SAU_EARLY_US) * b then some .SAU_E_JG_CFG
  else if ms.isEmpty || ms.eraseDups.length < ms.length || !ms.all memberOk || 512 < s.chTotal g then some .SAU_E_JG_CFG
  else if !ringOk (s.rn .SAU_JG_DEPTH_L2 g) r0 (s.slotB g) then some .SAU_E_JG_CFG
  else if !ringOk (s.rn .SAU_JG_PATCH_DEPTH_L2 g) p0 (s.patchB g) || (r0 < p1 && p0 < r1) then some .SAU_E_JG_CFG
  else if !s.jgTmplOk g (s.rn .SAU_JG_TMPL g) || (patch && !s.jgTmplOk g (s.rn .SAU_JG_PATCH_TMPL g)) ||
      !s.clustersOk src (s.rn .SAU_JG_CLMASK g) then some .SAU_E_JG_CFG
  else if 768 < ((g :: others).map s.tokMax).foldl (· + ·) 0 then some .SAU_E_RESERVE
  else if 32000000000 < b * s.slotB g + (others.map fun h => s.jgRate h * s.rn .SAU_JG_SLOT_B h).foldl (· + ·) 0 then some .SAU_E_CAPACITY
  else none

/-- A write of word `w` of group `g`'s registers (R271). -/
def State.wrJg (s : State) (src : Src) (g w : Nat) (v : BitVec 32) : State :=
  let i := jgElem g w
  let t := s.wrFields (jgFields w) i v
  if s.rb .SAU_JG_EN g then
    let rest := (jgFields w).filter (· != .SAU_JG_EN)
    if !s.sameFields rest i v then s.raise .SAU_E_CFG g
    else if w = 0 && !v.getLsbD 31 then t.setGrp g { t.grp g with opens := [], front := none }
    else s
  else if w = 0 && v.getLsbD 31 then
    match t.jgRefusal src g with
    | some e => s.raise e g
    | none => (t.setN .SAU_JG_SLOT_B g (t.slotB g)).setGrp g { Grp.none with patch := (t.grp g).patch }
  else t

/-- R271. A word that holds no field of the group is ignored (R7, R12). -/
def execSauJgEn (src : Src) (g : Fin 512) (word : Fin 128) (v : BitVec 32) (s : State) : Res :=
  .next (if (jgFields word.val).isEmpty then s else s.guarded src .SAU fun s => s.wrJg src g.val word.val v)

/-! ### Streams and publications (R292) -/

/-- A write of the word of a stream that holds SAU_ST_EN (R266, R292). -/
def State.wrStEn (s : State) (st : Nat) (v : BitVec 32) : State :=
  let cfg := [Field.SAU_ST_SYNC_EXACT, .SAU_ST_NCH, .SAU_ST_STRIDE, .SAU_ST_RATE]
  let on := s.rb .SAU_ST_EN st
  if on && !s.sameFields cfg st v then s.raise .SAU_E_CFG st
  else
    let s := (s.wrFields cfg st v).setB .SAU_ST_EN st (v.getLsbD 31)
    if on && !v.getLsbD 31 then s.setStream st 0
    else if !on && v.getLsbD 31 then (s.setStrm st Strm.none).setStream st 1
    else s

/-- A write of word `w` of a stream's registers (R266, R292). -/
def State.wrSt (s : State) (st w : Nat) (v : BitVec 32) : State :=
  let cfg := [Field.SAU_ST_SYNC_VAL, .SAU_ST_LOSS_US]
  match w with
  | 0 => s.wrStEn st v
  | 1 => if s.rb .SAU_ST_EN st && !s.sameFields cfg st v then s.raise .SAU_E_CFG st else s.wrFields cfg st v
  | 2 => s.setReg .SAU_ST_CONFREV st v
  | 3 => s.setN .SAU_ST_AGE_MAX_US st (clampN 1 500000 (bitsOf v.toNat 18 0))
  | _ => s

/-- R292. A word without a writable field is ignored (R7, R12). -/
def execSauStCfg (src : Src) (st : Fin 4096) (word : Fin 8) (v : BitVec 32) (s : State) : Res :=
  .next (if 4 ≤ word.val then s else s.guarded src .SAU fun s => s.wrSt st.val word.val v)

/-- A write of the word of a publication that holds SAU_PUB_EN (R284, R292). -/
def State.wrPubEn (s : State) (p : Nat) (v : BitVec 32) : State :=
  let cfg := [Field.SAU_PUB_T_AUTO, .SAU_PUB_TAL_AUTO, .SAU_PUB_AUTH, .SAU_PUB_KEY, .SAU_PUB_TMPL]
  let on := s.rb .SAU_PUB_EN p
  if on && !s.sameFields cfg p v then s.raise .SAU_E_CFG p
  else
    let s := (s.wrFields cfg p v).setB .SAU_PUB_EN p (v.getLsbD 31)
    if on && !v.getLsbD 31 then s.stopPub p
    else if !on && v.getLsbD 31 then s.setPub p { s.pub p with fresh := true }
    else s

/-- A write of word `w` of a publication's registers (R284, R292). -/
def State.wrPub (s : State) (p w : Nat) (v : BitVec 32) : State :=
  match w with
  | 0 => s.wrPubEn p v
  | 1 => if s.rb .SAU_PUB_EN p then s.raise .SAU_E_CFG p else s.wrFields [.SAU_PUB_DST_GRP, .SAU_PUB_DST] p v
  | 2 => (s.setN .SAU_PUB_TMAX_MS p (bitsOf v.toNat 31 16)).setN .SAU_PUB_TMIN_US p (clampN 250 65535 (bitsOf v.toNat 15 0))
  | _ => s

/-- R292. A word without a writable field is ignored (R7, R12). -/
def execSauPubCfg (src : Src) (p : Fin 1024) (word : Fin 8) (v : BitVec 32) (s : State) : Res :=
  .next (if 3 ≤ word.val then s else s.guarded src .SAU fun s => s.wrPub p.val word.val v)

/-- A write of SAU_CFG (R271). -/
def State.wrSauCfg (s : State) (v : BitVec 32) : State :=
  if !s.groupsOn.isEmpty && !s.sameFields [.SAU_EARLY_US] 0 v then s.raise .SAU_E_CFG
  else s.wrFields [.SAU_ACQ_N, .SAU_EARLY_US] 0 v

/-- R271. -/
def execSauCfg (src : Src) (v : BitVec 32) (s : State) : Res := .next (s.guarded src .SAU fun s => s.wrSauCfg v)

/-- R291. -/
def execSauCntClr (src : Src) (s : State) : Res := .next (s.guarded src .SAU fun s => s.clearBlockCtrs .SAU)

/-- R284: the oldest retransmission that the wheel has fired. -/
def execGooseRetransmit (s : State) : Res :=
  match s.tmg.pubDue with
  | [] => .next s
  | p :: rest =>
    let s := { s with tmg := { s.tmg with pubDue := rest } }
    .next (if s.rb .SAU_PUB_EN p && s.mod.mode != .drain then s.retransmit p else s)

end Sys2Proof.Machine
end

