-- ==== Sys2Proof/Machine/RegRead.lean ====
section
/-! DEFINITION. Reading registers (spec/00 R6-R8, the maps of every chapter): what a word of BAR0 reads as, the latches kept
for each source, and what a read clears. -/

namespace Sys2Proof.Machine

open Sys2Proof

/-- The element of a field that lies at offset `o` of its block. -/
def elemAt (f : Field) (o : Nat) : Option Nat :=
  let x := f.info
  if o < x.off then none else
  let d := o - x.off
  let i := if x.s1 = 0 then 0 else d / x.s1
  let r := d - i * x.s1
  let j := if x.s2 = 0 then 0 else r / x.s2
  if i < x.n1 && j < x.n2 && r = j * x.s2 then some (i * x.n2 + j) else none

/-- The block and offset of a BAR0 address (Table 01.2). -/
def blockAt (a : Nat) : Option (Block × Nat) :=
  (Block.all.find? fun b => b.base ≤ a && a < b.base + b.size).map fun b => (b, a - b.base)

/-- Fields of the word at offset `o` of block `b`, with their elements. -/
def fieldsAt (b : Block) (o : Nat) : List (Field × Nat) :=
  (Block.fields b).filterMap fun f => (elemAt f o).map fun i => (f, i)

/-- The counter whose low word lies at offset `o` of block `b`. -/
def ctrAt (b : Block) (o : Nat) : Option (Ctr × Nat) :=
  (Ctr.ofBlock b).findSome? fun c =>
    let x := c.info
    if o < x.off then none else
    let d := o - x.off
    let i := if x.s1 = 0 then 0 else d / x.s1
    let r := d - i * x.s1
    if i < x.n1 && r / 8 < x.n2 && r % 8 = 0 then some (c, i * x.n2 + r / 8) else none

/-- Offset of the rule hit counters (R193). -/
def hitBase : Nat := 0x20000

/-- Rule hit counter of bank `b` (R193): 0 beyond the rules of compact mode. -/
def State.hitCount (s : State) (n : Nat) : BitVec 64 :=
  let b := 0x28000 ≤ 8 * n
  let i := if b then n - 0x5000 else n
  if 20480 ≤ i || (16384 ≤ i && !s.rb .CLS_CAP_MODE) then 0 else (s.bank b).hits.get 0#64 i

/-- The 64-bit quantity whose low word lies at an offset: a counter or a rule hit counter. -/
def State.wide (s : State) (b : Block) (o : Nat) : Option (BitVec 64) :=
  match ctrAt b o with
  | some (c, i) => some (s.ctr c i)
  | none =>
    if b == .CLS && hitBase ≤ o && o < hitBase + 0x50000 && o % 8 = 0 then some (s.hitCount ((o - hitBase) / 8)) else none

/-! ### Live fields -/

/-- Truth value as a word. -/
def bw (b : Bool) : BitVec 32 := if b then 1#32 else 0#32

/-- A number as a word. -/
def nw (n : Nat) : BitVec 32 := BitVec.ofNat 32 n

/-- Code of a bank state (Table 07.5). -/
def BankSt.code : BankSt → Nat
  | .empty => 0 | .installing => 1 | .staged => 2 | .live => 3 | .draining => 4

/-- Code of a context state. -/
def CtxSt.code : CtxSt → Nat
  | .free => 0 | .ready => 1 | .running => 2 | .stalled => 3 | .awaiting => 4 | .faulted => 5

/-- The 32-bit word `j` of a list of little-endian bytes. -/
def wordOf (l : List Byte) (j : Nat) : BitVec 32 := nw (leNat ((l.drop (4 * j)).take 4))

/-- The bytes of a Field book record (Table 14.5). -/
def FbRec.bytes (r : FbRec) : List Byte :=
  leBytes 8 r.time ++ leBytes 1 r.kind ++ leBytes 1 r.cls ++ leBytes 2 r.ctx ++ leBytes 2 r.tmpl ++ leBytes 2 r.seq ++
    leBytes 4 r.tag ++ leBytes 8 r.data ++ leBytes 4 0

/-- The bytes of an event log record (R476). -/
def LogRec.bytes (r : LogRec) : List Byte :=
  leBytes 4 r.sec.toNat ++ leBytes 4 r.ns.toNat ++ leBytes 2 r.code.toNat ++ leBytes 2 0 ++ leBytes 4 r.arg0.toNat ++
    leBytes 8 r.arg1.toNat ++ leBytes 8 0

/-- Programming conditions of the fuses (R485): VIN, and a die temperature from 0 to +85 °C. -/
def State.progCond (s : State) : Bool :=
  let t := signed 16 (s.rn .PWR_TDIE_MAX)
  s.rb .PWR_VIN_OK && decide (0 ≤ t) && decide (t ≤ 340)

/-- Live fields of PWR, TIM and GLB, whose element of a per-function register is the reader's. -/
def State.viewA (s : State) (src : Src) (f : Field) (i : Nat) : Option (BitVec 32) :=
  match f with
  | .PWR_GRADE_E => some (bw ((s.fuse 8).getLsbD 8))
  | .PWR_PHASE_RETIRED => some (s.pwr.phases.setWidth 32)
  | .PWR_ENG_CLK_EFF => some (nw (s.engClkEff i))
  | .TIM_CMD_BUSY => some (bw (s.tim.cmd ≠ 0))
  | .TIM_NOW_FRAC => some (nw s.frac)
  | .TIM_NOW_NS => some (nw s.nsec)
  | .TIM_NOW_SEC_LO => some (nw (s.sec % 2 ^ 32))
  | .TIM_NOW_SEC_HI => some (nw (s.sec / 2 ^ 32))
  | .GLB_SI_REV => some (nw (bitsOf (s.fuse 8).toNat 7 0))
  | .GLB_SRC_ID => some (nw (fnOf src))
  | .GLB_MODE_REDUCED => some (bw s.reduced)
  | .GLB_MODE_CODE => some (nw s.modeRead)
  | .GLB_SR_BUSY => some (bw (s.boot.srUnit ≠ 0))
  | .GLB_LS_HELD => some (bw s.mod.holder.isSome)
  | .GLB_LS_HOLDER => some (nw ((s.mod.holder.map (·.val)).getD 0))
  | .GLB_LS_LEFT_MS => some (nw s.leftMs)
  | .GLB_LS_EPOCH => some s.mod.epoch
  | .GLB_PT_PORT_L => some (nw ((s.part i).ports % 2 ^ 32))
  | .GLB_PT_PORT_H => some (nw ((s.part i).ports / 2 ^ 32))
  | .GLB_PT_ELIG => some (bw (s.part i).eligible)
  | .GLB_PT_PREC => some (nw (s.part i).prec)
  | .GLB_PT_CL => some (nw (s.part i).clusters)
  | .GLB_PT_Q_CNT => some (nw (s.part i).qCnt)
  | .GLB_PT_Q_BASE => some (nw (s.part i).qBase)
  | .GLB_EVT_WORD => some (((s.logRecs.find (i / 8)).map fun r => wordOf r.bytes (i % 8)).getD 0)
  | f => if perFunction.contains f then some (if fnOf src = 5 then 0 else s.reg f (fnOf src)) else none

/-- The outcome and the code of a record command window that still shows BUSY (R257, R505). -/
def State.viewRc (s : State) (f : Field) (w : Nat) : Option (BitVec 32) :=
  if !s.rcBusy w then none
  else match f with
    | .FLW_RC_OUT => some 1
    | .FLW_RC_ERR => some (nw ((s.flw.rcBusy.find w).map (·.2) |>.getD 0))
    | _ => none

/-- The outcome and the code of a service command window that still shows BUSY (R403, R505). -/
def State.viewTc (s : State) (f : Field) (w : Nat) : Option (BitVec 32) :=
  if !s.tcBusy w then none
  else match f with
    | .TSK_CMD_OUT => some 1
    | .TSK_CMD_ERR => some (nw ((s.tsk.busy.find w).map (·.2) |>.getD 0))
    | _ => none

/-- Live fields of PAR, CLS, TBL and SAU. -/
def State.viewB (s : State) (f : Field) (i : Nat) : Option (BitVec 32) :=
  match f with
  | .PAR_CS_LOADED => some (bw (s.boot.parLoaded.getLsbD i))
  | .PAR_RESTART_Q => some (nw (s.par.restartQ.get [] i).length)
  | .PAR_LANES_BUSY => some (nw (s.pkts.filter fun p => p.pipe == i && match p.stage with
      | .lane _ => true
      | _ => false).length)
  | .PAR_CS_RD =>
    let w := s.par.cs.get 0#184 (i / 32768 * 4096 + i % 32768 / 8)
    some (if 6 ≤ i % 8 then 0 else (w >>> (32 * (i % 8))).setWidth 32)
  | .CLS_CAP_FULL => some (s.reg .CLS_CAP_MODE)
  | .CLS_PACK_WAIT => some (bw s.cls.waitPack.isSome)
  | .CLS_LIVE_VALID => some (bw s.cls.live.isSome)
  | .CLS_LIVE_BANK => some (bw (s.cls.live.getD false))
  | .CLS_BANK_A_ST => some (nw s.cls.a.st.code)
  | .CLS_BANK_B_ST => some (nw s.cls.b.st.code)
  | .CLS_ED_A => some (nw s.cls.a.ed.num)
  | .CLS_ED_B => some (nw s.cls.b.ed.num)
  | .CLS_INFLIGHT => some (nw (s.bank (i == 1)).inflight)
  | .TBL_JOURNAL_BUSY => some (bw !s.tbl.journal.isEmpty)
  | .TBL_LEARN_LVL => some (nw s.tbl.learn.length)
  | .TBL_STASH_CNT => some (nw s.tbl.stash.length)
  | .SAU_GRID_RUN => some (bw s.gridRun)
  | .SAU_JG_ON_CNT => some (nw s.groupsOn.length)
  | .SAU_TOK_RESV => some (nw s.tokResv)
  | .SAU_JG_OPEN => some (nw (s.sau.grp.get Grp.none i).opens.length)
  | _ => none

/-- Live fields of SWC and TMG. -/
def State.viewC (s : State) (f : Field) (i : Nat) : Option (BitVec 32) :=
  let least (m : SMap Nat) (k now : Nat) : BitVec 32 := nw (if m.get 0 k = 0 then now else m.get 0 k - 1)
  let tokens (k : Nat) : BitVec 32 := nw (unsignedOf 32 ((s.shaper k).t / 256))
  match f with
  | .SWC_POOL_FREE => some (nw (s.phi i))
  | .SWC_POOL_MIN => some (least s.swc.minFree i (s.phi i))
  | .SWC_ESC0_FREE => some (nw (min (s.phi 0) 512))
  | .SWC_ESC1_FREE => some (nw (min (s.phi 1) 64))
  | .SWC_ESC0_MIN => some (least s.swc.escMin 0 (min (s.phi 0) 512))
  | .SWC_ESC1_MIN => some (least s.swc.escMin 1 (min (s.phi 1) 64))
  | .TMG_ENTRY_FREE => some (nw s.entFree)
  | .TMG_GS_TOKENS => some (tokens (gsKey i))
  | .TMG_QS_TOKENS => some (tokens i)
  | .TMG_Q_DEPTH => some (nw (min 65535 (s.queue i).depth))
  | _ => none

/-- Live fields of ENG, TSK and MMU. -/
def State.viewD (s : State) (f : Field) (i : Nat) : Option (BitVec 32) :=
  let t := s.tsk.tmpls.find i
  match f with
  | .ENG_CL_TMR_USED => some (nw (s.eng.tmr.filter fun e => e.1 / 64 == i).length)
  | .ENG_CL_LIVE => some (nw (s.eng.ctx.filter fun e => e.1 / 64 == i && e.2.live).length)
  | .ENG_CTX_STATE => some (nw (s.cx i).st.code)
  | .ENG_CTX_CLASS => some (nw (s.cx i).cls)
  | .ENG_CTX_TMPL => some (nw (s.cx i).tmpl)
  | .ENG_CTX_GEN => some (nw (s.cx i).gen)
  | .ENG_CTX_PC => some (nw ((s.cx i).pc % 65536))
  | .TSK_READY => some (nw (s.tsk.ents.filter fun e => e.2.ready).length)
  | .TSK_FREE => some (nw (16384 - s.tsk.ents.length))
  | .TSK_TT_VALID => some (bw t.isSome)
  | .TSK_TT_CLASS => some (nw ((t.map (·.cls)).getD 0))
  | .TSK_TT_CLMASK => some (nw ((t.map (·.clmask)).getD 0))
  | .TSK_TT_HELD => some (nw (min 65535 (s.tsk.ents.filter fun e => e.2.tmpl == i).length))
  | .TSK_FB_WORD => some (((s.tsk.fb.find (i / 8)).map fun r => wordOf r.bytes (i % 8)).getD 0)
  | .MMU_INV_BUSY => some (bw s.mmu.inv.isSome)
  | .MMU_FR_LVL => some (nw s.ringLevel)
  | .MMU_TLB_LOCKED => some (nw ((s.tlbOf i).filter (·.locked)).length)
  | .MMU_DMA_SUSP => some (nw (s.mmu.dmas.filter fun d => d.cl == i && (d.st == .fault || d.st == .page || d.st == .pageWait)).length)
  | .MMU_DMA_QUEUED => some (nw (s.mmu.dmas.filter fun d => d.cl == i && (d.st == .queued || d.st == .running)).length)
  | .MMU_FR_WORD => some (((s.mmu.ring.find (i / 8)).map fun l => wordOf l (i % 8)).getD 0)
  | _ => none

/-- Live fields of AUT, FUS and HEA. -/
def State.viewE (s : State) (f : Field) (i : Nat) : Option (BitVec 32) :=
  let k := s.aut.slots.find i
  let lanes (a n : Nat) : BitVec 32 := nw (((List.range n).filter fun i => (runsIn s.laneWork (a + i)).isSome).foldl (fun m i => m + 2 ^ i) 0)
  let lane (a n : Nat) : BitVec 32 := nw (((List.range n).filter fun p => s.laneRetired (a + p)).foldl (fun x p => x + 2 ^ p) 0)
  match f with
  | .AUT_KEY_BUSY => some (bw s.aut.cmd.isSome)
  | .AUT_VQ_LVL => some (nw (s.pkts.filter fun p => p.stage == .verify).length)
  | .AUT_SLOTS_USED => some (nw s.aut.slots.length)
  | .AUT_GMAC_BUSY => some (lanes 0 8)
  | .AUT_HMAC_BUSY => some (lanes 8 4)
  | .AUT_PART_CNT => some (nw (s.part i).slotCnt)
  | .AUT_PART_BASE => some (nw (s.part i).slotBase)
  | .AUT_SL_ALG => some (nw ((k.map (·.alg)).getD 0))
  | .AUT_SL_SIGN => some (bw ((k.map (·.sign)).getD false))
  | .AUT_SL_VERIFY => some (bw ((k.map (·.verify)).getD false))
  | .AUT_SL_LOCKED => some (bw ((k.map (·.locked)).getD false))
  | .AUT_SL_WARNED => some (bw ((k.map (·.warned)).getD false))
  | .AUT_SL_TAGLEN => some (nw ((k.map (·.tagLen)).getD 0))
  | .AUT_SL_CTR_LO => some (nw ((k.map (·.ctr)).getD 0 % 2 ^ 32))
  | .AUT_SL_CTR_HI => some (nw ((k.map (·.ctr)).getD 0 / 2 ^ 32))
  | .FUS_VENDOR_OK => some (bw (vendorOk s.fus.shadow))
  | .FUS_OWNER_SEALED => some (bw (ownerSealed s.fus.shadow))
  | .FUS_OWNER_OK => some (bw (ownerOk s.fus.shadow))
  | .FUS_DBG_LOCK => some (bw s.dbgLock)
  | .FUS_MON_LOCK => some (bw s.monLock)
  | .FUS_VENDOR_IMG => some (bw s.vendorImg)
  | .FUS_PROG_COND => some (bw s.progCond)
  | .FUS_RPR_USED => some (nw ((List.range 96).filter fun n =>
      let w := (s.fuse (128 + n)).toNat
      bitOf w 31 && rmpCheck w == w % 32).length)
  | .FUS_SHADOW => some (s.fuse i)
  | .FUS_ARRAY => some (s.fus.array.get 0#32 i)
  | .HEA_LANE_RET_LO => some (lane 0 32)
  | .HEA_LANE_RET_HI => some (lane 32 16)
  | _ => none

/-- The window that a field belongs to. -/
def windowField (f : Field) (i : Nat) : Option Nat :=
  let x := f.info
  if (x.block == .TBL || x.block == .FLW || x.block == .TSK) && x.n1 = 5 then some (i / x.n2) else none

/-- What element `i` of a field reads as to a source: WO reads 0 and so does a window of another source (R8, R211). -/
def State.view (s : State) (src : Src) (f : Field) (i : Nat) : BitVec 32 :=
  if f.info.acc == .WO then 0
  else if (windowField f i).any fun w => winOf src != some w then 0
  else
    let v := match f.info.block with
      | .FLW => s.viewRc f i
      | .PRT => if f == Field.PRT_RED_MODE then some (nw (s.redMode i)) else none
      | .PWR | .TIM | .GLB => s.viewA src f i
      | .PAR | .CLS | .TBL | .SAU => s.viewB f i
      | .SWC | .TMG => s.viewC f i
      | .TSK => (s.viewTc f i).or (s.viewD f i)
      | .ENG | .MMU => s.viewD f i
      | .AUT | .FUS | .HEA => s.viewE f i
      | _ => none
    v.getD (s.reg f i)

/-- MSI-X table and pending bits of the reader's function (Table 17.1); other sources read 0. -/
def State.msixWord (s : State) (src : Src) (o : Nat) : BitVec 32 :=
  match src with
  | .host h =>
    let n := (o - 0x40000) / 4
    if n < 8192 then s.hst.msix.get (if n % 4 = 3 then 1#32 else 0#32) (h.val * 8192 + n)
    else
      let v := 32 * (n - 8192)
      nw (((List.range 32).filter fun i => s.hst.pba.get false (h.val * 2048 + v + i)).foldl (fun a i => a + 2 ^ i) 0)
  | _ => 0

/-- A word of the MSI-X table or of its pending bits. -/
def isMsix (b : Block) (o : Nat) : Bool := b == .HST && 0x40000 ≤ o && o < 0x48100

/-- What a word of a block reads as now, latches apart. -/
def State.wordNow (s : State) (src : Src) (b : Block) (o : Nat) : BitVec 32 :=
  if isMsix b o then s.msixWord src o
  else match s.wide b o with
    | some v => v.setWidth 32
    | none => (fieldsAt b o).foldl (fun w e => w ||| (s.view src e.1 e.2 <<< e.1.info.lsb)) 0#32

/-! ### Latches (R6, R90, R491) -/

/-- The group that a word belongs to: its first word and the number of words. -/
def groupOf (s : State) (b : Block) (o : Nat) : Option (Nat × Nat) :=
  if b == .TIM && 0x10 ≤ o && o < 0x20 then some (0x10, 4)
  else if b == .TIM && 0x50 ≤ o && o < 0x60 then some (0x50, 4)
  else if b == .HEA && 0x100 ≤ o && o < 0x110 then some (0x100, 4)
  else if b == .PAR && 0x10000 ≤ o % 0x40000 && o % 0x40000 < 0x30000 then
    (if o % 32 < 24 then some (o / 32 * 32, 6) else none)
  else if b == .AUT && 0x10000 ≤ o && o < 0x50000 && (o % 16 = 4 || o % 16 = 8) then some (o / 16 * 16 + 4, 2)
  else if b == .MEM && (o = 0x8C || o = 0x90) then some (0x8C, 2)
  else if b == .ENG && (o = 0xC || o = 0x10) then some (0xC, 2)
  else if b == .TBL && 0x1000 ≤ o && o < 0x1500 && (o % 256 = 0x20 || o % 256 = 0x24) then some (o / 256 * 256 + 0x20, 2)
  else if b == .TSK && 0x1000 ≤ o && o < 0x1500 && (o % 256 = 0xC || o % 256 = 0x10) then some (o / 256 * 256 + 0xC, 2)
  else if b == .HST && 0x10000 ≤ o && o < 0x30000 && (o % 32 = 0 || o % 32 = 4) then some (o / 32 * 32, 2)
  else if (s.wide b o).isSome then some (o, 2)
  else if 4 ≤ o && (s.wide b (o - 4)).isSome then some (o - 4, 2)
  else none

/-- Index of a source's latch of the word at BAR0 address `a`. -/
def latchKey (src : Src) (a : Nat) : Nat :=
  (match src with
  | .engine k => 5 + k.val
  | src => fnOf src) * 2 ^ 22 + a / 4

/-- Words of a group beside its first, as they read now. -/
def State.restOf (s : State) (src : Src) (b : Block) (o n : Nat) : List (Nat × BitVec 32) :=
  match s.wide b o with
  | some v => [(o + 4, (v >>> 32).setWidth 32)]
  | none => (List.range' 1 (n - 1)).map fun i => (o + 4 * i, s.wordNow src b (o + 4 * i))

/-! ### Reads that clear (R8) -/

/-- Element `i` of an RC field is cleared; a lowest-since-last-read field takes the present value. -/
def State.clearRc (s : State) (f : Field) (i : Nat) : State :=
  match f with
  | .FLW_HIT_PCT_MIN => s.setReg .FLW_HIT_PCT_MIN i (s.reg .FLW_HIT_PCT)
  | .SWC_POOL_MIN => { s with swc := { s.swc with minFree := s.swc.minFree.put 0 i (s.phi i + 1) } }
  | .SWC_ESC0_MIN => { s with swc := { s.swc with escMin := s.swc.escMin.put 0 0 (min (s.phi 0) 512 + 1) } }
  | .SWC_ESC1_MIN => { s with swc := { s.swc with escMin := s.swc.escMin.put 0 1 (min (s.phi 1) 64 + 1) } }
  | .ENG_XR_VALID => if s.eng.xread % 8 = 7 then { s.setReg .ENG_XR_VALID 0 0 with eng := { s.eng with xread := 0 } } else s
  | .SWC_OWN_ERR_VALID => if s.swc.ownRead then { s.setReg .SWC_OWN_ERR_VALID 0 0 with swc := { s.swc with ownRead := false } } else s
  | .MEM_UNC_VALID => if s.hbm.log1Read then { s.setReg .MEM_UNC_VALID 0 0 with hbm := { s.hbm with log1Read := false } } else s
  | f => s.setReg f i 0

/-- What reading a word does besides: RC fields clear, and the later words of a record count as read. -/
def State.afterRead (s : State) (b : Block) (o : Nat) : State :=
  let s := (fieldsAt b o).foldl (fun s e => if e.1.info.acc == .RC then s.clearRc e.1 e.2 else s) s
  if b == .ENG && (o = 8 || o = 12 || o = 16) then { s with eng := { s.eng with xread := s.eng.xread.lor (2 ^ (o / 4 - 2)) } }
  else if b == .SWC && o = 0x74 then { s with swc := { s.swc with ownRead := true } }
  else if b == .MEM && o = 0x38 then { s with hbm := { s.hbm with log1Read := true } }
  else s

/-- The domains of 40 to 75 that hold the registers of a block (notes/assumptions/8.md). -/
def blockDoms : Block → Nat → List Nat
  | .PAR, o => [40 + o / 0x40000 % 2]
  | .CLS, _ => [42]
  | .FLW, _ => [44]
  | .SAU, _ => [45]
  | .SWC, _ => [54]
  | .TMG, _ => [55]
  | .TSK, _ => [56]
  | .MMU, _ => [57]
  | .AUT, _ => [61]
  | .MEM, _ => [62]
  | .TBL, _ => [70]
  | .HST, _ => [71]
  | _, _ => []

/-- The cluster whose registers stand at an offset of ENG (spec/13). -/
def engCluster (o : Nat) : Option Nat :=
  (fieldsAt .ENG o).findSome? fun e =>
    if e.1.info.n1 = 24 then some (e.2 / e.1.info.n2) else if e.1.info.n1 = 1536 then some (e.2 / e.1.info.n2 / 64) else none

/-- A register access uses the domains that hold the register: in LOAD they come on, and a cluster it needs wakes (R503). -/
def State.useRegs (s : State) (b : Block) (o : Nat) : State :=
  let s := (blockDoms b o).foldl State.useDomain s
  if b == .ENG then match engCluster o with
    | some c => s.touchCluster c
    | none => s
  else s

/-- A source reads the 32-bit register at BAR0 address `a`: the value, and the state after (R6-R9). ENG_CL_UTIL is a
measurement that nothing in the machine determines: a free value of at most 100; how far the HBM pass has come is a free
value that does not fall (R439). An address that holds no register reads 0. -/
def State.regRead (s : State) (src : Src) (a : Nat) : BitVec 32 × State :=
  match blockAt a with
  | none => (0, s)
  | some (b, o) =>
    let s := if b == .FLW then (s.useRegs b o).hitRoll else s.useRegs b o
    if b == .ENG && 0x1000 ≤ o && o < 0x1600 && o % 0x40 = 0xC then
      let (f, s) := s.draw
      (nw (f.toNat % 101), s)
    else if b == .MEM && o = 0 && s.boot.hbmPass then
      let (f, s) := s.draw
      let s := s.setN .MEM_INIT_PCT 0 (max (s.rn .MEM_INIT_PCT) (f.toNat % 101))
      (s.wordNow src b o, s)
    else match groupOf s b o with
      | some (o₀, n) =>
        if o = o₀ then
          let v := s.wordNow src b o
          let l := s.restOf src b o n
          ((v, { s with latch := l.foldl (fun (m : SMap (BitVec 32)) (e : Nat × BitVec 32) => m.put 0#32 (latchKey src (b.base + e.1)) e.2) s.latch }.afterRead b o))
        else (s.latch.get 0#32 (latchKey src a), s.afterRead b o)
      | none => (s.wordNow src b o, s.afterRead b o)

/-- R6: a source reads a register; the first word of a group latches the others. -/
def execLatchRead (src : Src) (a : BitVec 22) (s : State) : Res :=
  let (v, t) := s.regRead src (4 * a.toNat)
  .next { t with rdVal := v }

/-- R8: a source reads a register; its RC fields clear. -/
def execReadClear (src : Src) (a : BitVec 22) (s : State) : Res :=
  let (v, t) := s.regRead src (4 * a.toNat)
  .next { t with rdVal := v }

end Sys2Proof.Machine
end

