-- ==== Sys2Proof/Machine/Images.lean ====
section
/-! DEFINITION. Subsystem resets (spec/03 R69), the boot manifest (R70-R72), and the loading of Balnus images (R73-R76,
spec/17 R458, spec/06 R158, R159, spec/08 R208, R230, spec/13 R367-R369, spec/14 R374, R375). -/

namespace Sys2Proof.Machine

open Sys2Proof

/-! ### Subsystem resets (Table 03.4) -/

/-- A subsystem reset is requested: one at a time, not queued; a failed precondition has no effect and is raised. The flag
`ok` is the precondition, `f` the effect. -/
def State.subReset (s : State) (unit index : Nat) (ok : Bool) (f : State → State) : State :=
  let s := s.setN .GLB_SR_INDEX 0 index
  if s.boot.srUnit ≠ 0 || !ok then s.modeRefused
  else f { s with boot := { s.boot with srUnit := unit, srIndex := index } }

/-- Line port: MAC and PCS state and counters cleared, its configuration kept, frames during the reset lost. -/
def State.resetPort (s : State) (p : Nat) : State :=
  let s := s.linkDown p
  let l := (s.prt.txE ++ s.prt.txP).filter fun e => e.1 == p
  let bad := if l.isEmpty then s.prt.badFcs else s.prt.badFcs.put false p true
  let s := { s with prt := { s.prt with
    txE := s.prt.txE.erase p
    txP := s.prt.txP.erase p
    slow := s.prt.slow.erase p
    attempts := s.prt.attempts.erase p
    badFcs := bad } }
  (l.foldl (fun s e => s.endReplica p e.2.ent) s).clearCtrs (Ctr.ofBlock .PRT) p

/-- Engine cluster: contexts aborted, its memories zeroed. -/
def State.resetCluster (s : State) (c : Nat) : State :=
  let s := s.abortCluster c
  let here (e : Nat) : Bool :=
    let m := e / 2 ^ 24
    let w := e % 2 ^ 24
    (m = 0 && w / 65536 = c) || (m = 1 && w / 131072 = c) || (m = 2 && w / 262144 = c)
  { s with eng := { s.eng with
    imem := s.eng.imem.filter fun e => e.1 / 131072 != c
    dmem := s.eng.dmem.filter fun e => e.1 / 1048576 != c
    shm := s.eng.shm.filter fun e => e.1 / 2097152 != c
    bad := s.eng.bad.filter fun e => !here e.1 } }

/-- Graticule unit: open slices discarded, stream supervision restarts, retransmission schedules stop (R288). -/
def State.resetGraticule (s : State) : State :=
  let s := (s.sau.grp.map (·.1)).foldl State.discardSlices s
  let s := { s with sau := { s.sau with strm := [] } }
  ((s.listed .SAU_ST_STATE).foldl (fun s st => s.setN .SAU_ST_STATE st (if s.rb .SAU_ST_EN st then 1 else 0)) s).stopPubs

/-- TMS and aging agent: the journal is settled first, and the command in progress ends ABORTED with its cursor. -/
def State.resetTms (s : State) : State :=
  let s := s.settleJournal
  (List.range 5).foldl (fun s w => match (s.win w).cmd with
    | some c => s.tblEnd w c tblAborted none
    | none => s) s

/-- R69, unit 1. -/
def execSubsysResetPort (src : Src) (p : BitVec 6) (s : State) : Res :=
  .next (s.held src fun s => s.subReset 1 p.toNat (p.toNat < 48) fun s => s.resetPort p.toNat)

/-- R69, unit 2. -/
def execSubsysResetCluster (src : Src) (c : BitVec 6) (s : State) : Res :=
  .next (s.held src fun s => s.subReset 2 c.toNat (c.toNat < 24 && !s.clusterHasPT c.toNat) fun s => s.resetCluster c.toNat)

/-- R69, unit 3. -/
def execSubsysResetGraticule (src : Src) (s : State) : Res :=
  .next (s.held src fun s => s.subReset 3 0 s.groupsOn.isEmpty State.resetGraticule)

/-- R69, unit 4. -/
def execSubsysResetTms (src : Src) (s : State) : Res := .next (s.held src fun s => s.subReset 4 0 true State.resetTms)

/-- R69, unit 5. -/
def execSubsysResetAuth (src : Src) (s : State) : Res := .next (s.held src fun s => s.subReset 5 0 true State.abortAuth)

/-- The reset in progress ends. -/
def execSubsysResetDone (s : State) : Res := .next { s with boot := { s.boot with srUnit := 0, srIndex := 0 } }

/-! ### The boot manifest (R70-R72) -/

/-- Bytes of the flash; an erased byte reads 0xFF. -/
def State.flashBytes (s : State) (o n : Nat) : List Byte := SMap.slice 0xFF#8 s.flash o n

/-- The image at a flash offset, where its header is sound and it lies within the flash. -/
def State.flashImage (s : State) (o : Nat) : Option Image :=
  let h := s.flashBytes o 160
  let len := hdr h 8 4
  let kind := hdr h 4 1
  if hdr h 0 4 ≠ 0x534E4C42 || hdr h 6 2 ≠ 1 || kind = 0 || 8 < kind || len = 0 || 2 ^ 26 < len || !loadOk kind (hdr h 16 8) ||
      s.boot.density < o + 160 + len then none
  else some { kind := kind, signer := hdr h 5 1, length := len, version := hdr h 12 4, load := hdr h 16 8,
              key := (h.drop 32).take 64, sig := (h.drop 96).take 64, head := h.take 96, payload := s.flashBytes (o + 160) len }

/-- An image of the flash of a given type under the checks of R75, or the code of the first that fails. -/
def State.flashCheck (s : State) (kind o : Nat) : Image ⊕ Ev :=
  match s.flashImage o with
  | none => .inr .GLB_E_IMAGE_FORMAT
  | some i =>
    if i.kind ≠ kind then .inr .GLB_E_IMAGE_FORMAT
    else if !s.signerOk i then .inr .GLB_E_IMAGE_KEY
    else if !i.signed then .inr .GLB_E_IMAGE_SIG
    else .inl i

/-- The manifest at an offset, where it passes; a failed check raises its code (R71, R75). -/
def State.manifestAt (s : State) (o : Nat) : Option (List (Nat × Nat × Nat)) × State :=
  match s.flashCheck 6 o with
  | .inr e => (none, s.raise e)
  | .inl i => match Config.manifest i.payload with
    | some l => (some l, s)
    | none => (none, s.raise .GLB_E_IMAGE_FORMAT)

/-- The entries of the manifest: the primary at 0, else the secondary at half the density; none where both fail. -/
def State.readManifest (s : State) : Option (List (Nat × Nat × Nat)) × State :=
  match s.manifestAt 0 with
  | (some l, s) => (some l, s)
  | (none, s) => s.manifestAt (s.boot.density / 2)

/-- A steward firmware image that the manifest names: the steward runs the first that passes; one that fails is skipped with
the code of its check and GLB_E_IMAGE_SIG (R72, R75). -/
def State.takeFirmware (s : State) (o : Nat) : State :=
  match s.flashCheck 1 o with
  | .inl _ => { s with boot := { s.boot with stewardFw := s.boot.stewardFw.or (some o) } }
  | .inr .GLB_E_IMAGE_SIG => s.raise .GLB_E_IMAGE_SIG
  | .inr e => (s.raise e).raise .GLB_E_IMAGE_SIG

/-- The manifest is taken: its steward firmware first (R72); what is left is the list to load. -/
def State.takeManifest (s : State) (l : List (Nat × Nat × Nat)) (conduct : Bool) : State :=
  let s := (l.filter fun e => e.1 == 1).foldl (fun s e => s.takeFirmware e.2.1) s
  { s with boot := { s.boot with stewardLoad := conduct, manifest := if conduct then l.filter fun e => e.1 != 1 else [] } }

/-- R71: the manifests have been read. STRAP[1:0] = 01 ends in LOAD conducted by a host, 10 in LOAD conducted by the
steward. -/
def execManifestReadDone (s : State) : Res :=
  if s.mod.mode ≠ .boot || s.mod.trans.isSome || s.boot.bootPhase ≠ 2 then .next s else
  match s.readManifest with
  | (none, s) => .next ((s.raise .GLB_E_BOOT).enterMode .monitor)
  | (some l, s) => .next ((s.takeManifest l (s.boot.straps.toNat % 4 = 2)).enterMode .load)

/-! ### Image loads (R73-R76, R458) -/

/-- GLB_E_IMG_CMD on a start that is refused; the outcome changes unless a load is in progress (R505). -/
def State.imgRefuse (s : State) : State :=
  let s := s.setN .GLB_IMG_ERR 0 (Ev.code .GLB_E_IMG_CMD)
  (if s.img.busy then s else s.setN .GLB_IMG_OUT 0 3).raise .GLB_E_IMG_CMD

/-- A load ends: COMPLETED, or refused with a code. -/
def State.imgEnd (s : State) (e : Option Ev) : State :=
  (({ s with img := { s.img with busy := false, cfg := [], wait := none } }).setN .GLB_IMG_OUT 0 (if e.isSome then 3 else 2)).setN .GLB_IMG_ERR 0
    ((e.map Ev.code).getD 0)

/-- A load starts. The steward takes the next image of its manifest, which it first stages at GLB_IMG_ADDR; an edition pack
is only staged there, for a STAGE command. -/
def State.imgStart (s : State) (src : Src) : State :=
  let go (s : State) : State :=
    let kinds := [2, 3, 4, 7, 8].filter (s.imageMode src)
    let img : Img := { busy := true, src := src, addr := s.rn .GLB_IMG_ADDR, kinds := kinds, cfg := [], cfgNo := 0, wait := none }
    { s with img := img }.setN .GLB_IMG_OUT 0 1
  match src with
  | .steward =>
    match s.boot.manifest with
    | [] => ((s.setN .GLB_IMG_OUT 0 3).setN .GLB_IMG_ERR 0 (Ev.code .GLB_E_ORDER)).raise .GLB_E_ORDER
    | (kind, o, n) :: t =>
      let s := { s with pkm := SMap.fill 0#8 s.pkm (s.rn .GLB_IMG_ADDR) (s.flashBytes o n), boot := { s.boot with manifest := t } }
      if kind = 5 then s else go s
  | _ => go s

/-- R458: a write of GLB_IMG_OP. -/
def execImageLoad (src : Src) (op : BitVec 2) (s : State) : Res :=
  .next (s.guarded src .GLB fun s =>
    if op = 0 then s
    else if op ≠ 1 || s.img.busy then s.imgRefuse
    else s.imgStart src)

/-- PAR_CS_BADWORD follows the marks that a load leaves, and no word has been marked since it (R161). -/
def State.parLoadedRegs (s : State) (p : Nat) : State :=
  ((s.setB .PAR_CS_BADWORD p (s.par.bad.any fun e => e.1 / 4096 == p)).setB .PAR_CS_BAD_VALID p false).setN .PAR_CS_BAD_ADDR p 0

/-- Parser microcode (R158, R159); none where the payload is refused. -/
def State.loadParser (s : State) (i : Image) : Option State :=
  let n := i.length / 23
  let first := bitsOf i.load 27 16
  let rs := (slicesOf 23 n i.payload).map leNat
  if i.length % 23 ≠ 0 || 4096 < first + n || rs.any fun r => hamCheck (r % 2 ^ 176) != r / 2 ^ 176 then none
  else
    let put (s : State) (p : Nat) : State :=
      { s with par := { s.par with cs := SMap.fill 0#184 s.par.cs (p * 4096 + first) (rs.map (BitVec.ofNat 184)),
                                   bad := s.par.bad.filter fun e => e.1 < p * 4096 + first || p * 4096 + first + n ≤ e.1 }
               boot := { s.boot with parLoaded := s.boot.parLoaded ||| BitVec.ofNat 2 (2 ^ p) } }
    let ps := (List.range 2).filter fun p => bitOf i.load p
    let s := ps.foldl (fun s p => (put s p).parLoadedRegs p) s
    some (ps.foldl (fun s p => s.raise .PAR_I_CS_LOADED p 0 p) s)

/-- A section of an engine program image: kind, offset, data. -/
structure Section where
  kind : Nat
  off  : Nat
  data : List Byte
  deriving DecidableEq, Repr

/-- The sections of a payload (Table 13.11); none where R368 refuses it. -/
def progSections : Nat → List Byte → Option (List Section)
  | 0, _ => none
  | n + 1, l =>
    if l.isEmpty then some [] else
    let kind := fget l 0 2
    let off := fget l 4 4
    let len := fget l 8 4
    let pad := (len + 15) / 16 * 16
    let room := match kind with
      | 1 => 65536
      | 2 => 131072
      | _ => 2097152
    let bad := l.length < 16 || kind = 0 || 4 < kind || fget l 2 2 ≠ 0 || fget l 12 4 ≠ 0 || l.length < 16 + pad ||
      !zeros (((l.drop 16).take pad).drop len) || (kind = 1 && off % 4 ≠ 0) || (kind ≠ 4 && room < off + len) ||
      (kind = 4 && (off ≠ 0 || len % 64 ≠ 0))
    if bad then none
    else (progSections n (l.drop (16 + pad))).map fun t => ⟨kind, off, (l.drop 16).take len⟩ :: t

/-- A template record (Table 14.1): its number and template; none where R375 refuses it. -/
def readTmpl (mask : Nat) (l : List Byte) : Option (Nat × Tmpl) :=
  let f (o n : Nat) : Nat := fget l o n
  let pins := ((List.range 4).map fun i => (f (24 + 8 * i) 4, f (28 + 8 * i) 4)).filter fun p => p.2 ≠ 0
  let t : Tmpl := { cls := f 2 1, nopnd := f 3 1, entry := f 4 4, clmask := f 8 3, engmask := f 11 1, asid := f 12 1, perm := f 13 1,
                    tmo := f 14 2, budget := f 16 4, pins := pins }
  let bad := 16384 ≤ f 0 2 || 4 ≤ t.cls || t.nopnd = 0 || 4 < t.nopnd || t.entry % 4 ≠ 0 || 65536 ≤ t.entry || 64 ≤ t.perm ||
    f 20 4 ≠ 0 || f 56 8 ≠ 0 || t.engmask = 0 || (t.cls ≤ 1 && t.budget = 0) || (t.cls = 0 && bitOf t.perm 5) ||
    pins.any (fun p => p.1 * 65536 < 0x1000000 || 2 ^ 48 < (p.1 + p.2) * 65536) || !zeros ((leBytes 3 (Nat.land t.clmask (2 ^ 24 - 1 - mask))))
  if bad then none else some (f 0 2, t)

/-- The IMEM bytes of a section written over the words of an engine. -/
def State.putImem (s : State) (e off : Nat) (l : List Byte) : State :=
  let words := (slicesOf 4 ((l.length + 3) / 4) l).map fun w => BitVec.ofNat 32 (leNat w)
  { s with eng := { s.eng with imem := SMap.fill 0#32 s.eng.imem (e * 16384 + off / 4) words } }

/-- A section written to the masked clusters and engines. -/
def State.putSection (s : State) (cls es : List Nat) (x : Section) : State :=
  match x.kind with
  | 1 => cls.foldl (fun s c => es.foldl (fun s e => s.putImem (8 * c + e) x.off x.data) s) s
  | 2 => cls.foldl (fun s c => es.foldl (fun s e => s.memFill (.dmem (8 * c + e)) x.off x.data) s) s
  | 3 => cls.foldl (fun s c => s.memFill (.shm c) x.off x.data) s
  | _ => s

/-- An engine program image (R367-R369, R375): the code that refuses it, or none. The fence begins and ends in this step. -/
def State.loadProgram (s : State) (src : Src) (i : Image) : Option Ev × State :=
  let mask := i.load % 2 ^ 24
  let cls := (List.range 24).filter fun c => bitOf mask c
  let es := (List.range 8).filter fun e => bitOf (i.load / 2 ^ 24) e
  let refuse (e : Ev) : Option Ev × State := (some e, s.raise e)
  match progSections (i.length + 1) i.payload with
  | none => refuse .GLB_E_IMAGE_FORMAT
  | some xs =>
    let recs := (xs.filter fun x => x.kind == 4).flatMap fun x => (slicesOf 64 (x.data.length / 64) x.data).map (readTmpl mask)
    let ts := recs.filterMap id
    if ts.length ≠ recs.length then refuse .GLB_E_IMAGE_FORMAT
    else if cls.any (fun c => s.clRetired c) || !s.inPartition src (fun h => cls.all fun c => s.holdsCluster h c) then
      refuse .ENG_E_LOAD_PART
    else if s.mod.mode == .run && cls.any (fun c => s.clusterLive c) then refuse .ENG_E_LOAD_BUSY
    else if ts.any fun t => s.rb .TSK_TT_EN t.1 then refuse .TSK_E_TMPL_BUSY
    else
      let eng := cls.flatMap fun c => es.map fun e => 8 * c + e
      let s := { s with eng := { s.eng with
        imem := s.eng.imem.filter fun e => !eng.contains (e.1 / 16384)
        bad := s.eng.bad.filter fun e => !(e.1 / 2 ^ 24 == 0 && eng.contains (e.1 % 2 ^ 24 / 8192))
        tmr := s.eng.tmr.filter fun e => !cls.contains (e.1 / 64) } }
      let s := xs.foldl (fun s x => s.putSection cls es x) s
      let s := ts.foldl (fun s t => { s with tsk := { s.tsk with tmpls := s.tsk.tmpls.set t.1 t.2 } }) s
      let s := cls.foldl (fun s c => (s.setN .ENG_CL_IMG_VER c i.version).setB .ENG_CL_LOADED c true) s
      (none, s.raise .ENG_I_LOADED mask)

/-- The records of a configuration image (R76); none where it is refused whole. -/
def cfgRecords (i : Image) : Option (List (Nat × BitVec 32)) :=
  let l := (slicesOf 8 (i.length / 8) i.payload).map fun r => (fget r 0 4, BitVec.ofNat 32 (fget r 4 4))
  if i.length % 8 ≠ 0 || l.any (fun r => r.1 % 4 ≠ 0 || r.1 < 0x10000 || 0x77FFFC < r.1) then none else some l

/-- The domains of 40 to 75 and the clusters that the application of an image uses (R503, Table 02.6). -/
def State.useImage (s : State) (i : Image) : State :=
  let ds : List Nat := match i.kind with
    | 2 => [70]
    | 3 => (List.range 2).filterMap fun p => if bitOf i.load p then some (40 + p) else none
    | 4 => [56]
    | 7 => if i.load = 1 then [40, 41, 70] else [43, 70]
    | _ => []
  let s := ds.foldl State.useDomain s
  if i.kind = 4 then ((List.range 24).filter fun c => bitOf i.load c).foldl State.touchCluster s else s

/-- A verified image is applied (Table 03.7). -/
def State.applyImage (s : State) (src : Src) (i : Image) : State :=
  let refuse (s : State) (e : Ev) : State := (s.raise e).imgEnd (some e)
  let s := s.useImage i
  match i.kind with
  | 2 => { s with boot := { s.boot with tmsLoaded := true } }.imgEnd none
  | 3 => match s.loadParser i with
    | some s => s.imgEnd none
    | none => refuse s .GLB_E_IMAGE_FORMAT
  | 4 => let (e, s) := s.loadProgram src i; s.imgEnd e
  | 7 =>
    if !s.rb .MEM_INIT_FLAG || !s.boot.tmsLoaded then refuse s .GLB_E_ORDER
    else let (s, ok) := s.applyTable i; s.imgEnd (if ok then none else some .TBL_E_IMAGE)
  | _ => match cfgRecords i with
    | some l => { s with img := { s.img with cfg := l, cfgNo := 0 } }
    | none => refuse s .GLB_E_IMAGE_FORMAT

/-- R75: the image has been read and checked; the first failed check refuses it and leaves its target unchanged. -/
def execImageLoadDone (s : State) : Res :=
  if !s.img.busy || !s.img.cfg.isEmpty || s.img.wait.isSome then .next s else
  let s := s.useDomain 75
  match s.verify s.img.src s.img.addr (fun k => [2, 3, 4, 7, 8].contains k) s.img.kinds.contains with
  | (.inr e, s) => .next ((s.raise e).imgEnd (some e))
  | (.inl i, s) => .next (s.applyImage s.img.src i)

end Sys2Proof.Machine
end

