-- ==== Sys2Proof/Machine/Switch.lean ====
section
/-! DEFINITION. The meanings of the switch-core commands and events (spec/11). -/

namespace Sys2Proof.Machine

open Sys2Proof

/-! ### Step 7: buffers (R295-R300) -/

/-- The packet has nothing to be stored for: it is freed at once (R304). -/
def nothingLeft (p : Packet) : Bool :=
  (p.dest == .discard || p.dest == .ports 0) && p.hand.isNone && p.slice.isNone && p.insets = 0

/-- A request that no pool grants, or a full replication FIFO (Table 11.2, R306): a protected packet is held, any other
goes to port 62. -/
def State.poolRefused (s : State) (p : Packet) (full : Bool) : State :=
  if 6 ≤ p.tc then s.setPkt { p with holdEnd := some (p.holdEnd.getD (s.freeNs + s.rn .SWC_HOLD_NS)) }
  else (s.bump (if full then .SWC_CNT_REPL_FULL else .SWC_CNT_POOL_DROP)).toDiscard p

/-- Packets in the replication FIFO of a pipeline (R306). -/
def State.replLevel (s : State) (k : Nat) : Nat := (s.pkts.filter fun q => q.pipe == k && q.stage == .repl).length

/-- The request of pipeline `k` in one cycle. -/
def State.poolTurn (s : State) (k : Nat) : State :=
  match s.nextAt k .pool with
  | none => s
  | some p =>
    if nothingLeft p then s.toDiscard p
    else if 512 ≤ s.replLevel k then s.poolRefused p true
    else if p.buf.isSome then s.setPkt { p with stage := .repl, holdEnd := none }
    else if p.whole && s.poolSize 3 < p.bytes.length + 4 then (s.bump .SWC_CNT_OVERSIZE).toDiscard p
    else match s.request (6 ≤ p.tc) (if p.whole then some (p.bytes.length + 4) else none) (ownPipe k) p.bytes none with
      | (s, some h) => s.setPkt { p with buf := some h, stage := .repl, holdEnd := none }
      | (s, none) => s.poolRefused p false

/-- R298: one cycle of the pool manager: the requests of the two pipelines, in the rotation of the six requesters. Engine,
host, publication and steward requests are made by their own commands. -/
def execPoolRequest (s : State) : Res :=
  let s' := if s.swc.rot = 1 then (s.poolTurn 1).poolTurn 0 else (s.poolTurn 0).poolTurn 1
  .next { s' with swc := { s'.swc with rot := (s.swc.rot + 1) % 6 } }

/-- R300: the held packet of pipeline `k` has been retried for SWC_HOLD_NS. -/
def execProtectedHoldExpiry (k : Fin 2) (s : State) : Res :=
  match s.nextAt k.val .pool with
  | some p =>
    if p.holdEnd.isSome then
      .next ((((s.bump (if 512 ≤ s.replLevel k.val then .SWC_CNT_REPL_FULL else .SWC_CNT_ESC_DROP))).raiseLimited
        .SWC_E_ESCAPE 0 ms1 k.val).toDiscard p)
    else .next s
  | none => .next s

/-! ### Replicas (R304-R310) -/

/-- Inset sessions that copy a packet: those its actions name, and those that mirror its ingress or an egress port; with
the port whose rewrite an egress copy carries (R309). -/
def State.insetsOf (s : State) (p : Packet) (ports : List Nat) : List (Nat × Option Nat) :=
  (List.range 8).filterMap fun n =>
    let ing := s.rn .SWC_INS_ING_L n + s.rn .SWC_INS_ING_H n * 2 ^ 32
    let egr := s.rn .SWC_INS_EGR_L n + s.rn .SWC_INS_EGR_H n * 2 ^ 32
    if !s.rb .SWC_INS_EN n then none
    else if bitOf p.insets n || (p.src < 48 && bitOf ing p.src) then some (n, none)
    else (ports.find? fun q => q < 48 && bitOf egr q).map fun q => (n, some q)

/-- A queue entry for a replica of a packet. -/
def entryOf (p : Packet) (h : Nat) (tc dp : Nat) : QEnt :=
  { buf := h, len := p.bytes.length + 4, tc := tc, dp := dp, rw := p.rw, owner := false, inset := none, trunc := 0, vport := 0,
    void := false, red := none, pub := none, raw := p.raw, pkt := if p.whole then 0 else p.id + 1 }

/-- An Inset copy (R309): its queue entry on the analysis port. -/
def State.insetEntry (s : State) (p : Packet) (h : Nat) (x : Nat × Option Nat) (red : Option Red) : QEnt :=
  let e := entryOf p h (s.rn .SWC_INS_TC x.1) (s.rn .SWC_INS_DP x.1)
  let t := s.rn .SWC_INS_TRUNC x.1
  { e with inset := some x.1, trunc := if t < e.len then t else 0, len := if t = 0 then e.len else min t e.len,
           vport := x.2.getD 0, raw := x.2.isNone, red := red }

/-- The token of a hand-off (R250, Table 14.3). -/
def State.handToken (s : State) (h : Nat) (x : HandOff) : Token :=
  let n := ((s.tsk.tmpls.find x.tmpl).map fun t => (s.clusterSet t).length).getD 0
  { tmpl := x.tmpl, pos := 0, tag := x.rcd.getD x.sig, isBuf := true, grat := none,
    pin := if n = 0 then 31 else match x.rcd with
      | some r => r * n / 2 ^ 26
      | none => x.sig * n / 2 ^ 32,
    value := h + x.rcd.getD (2 ^ 26 - 1) * 2 ^ 20 + x.ctx % 65536 * 2 ^ 46 + x.kind % 4 * 2 ^ 62 }

/-- A hand-off is counted as accepted or refused (R250). -/
def State.countHand (s : State) (e : Option Ev) (tmpl : Nat) : State :=
  if e.isNone then s.bump .FLW_CNT_HANDOFF
  else (s.bump .FLW_CNT_HANDOFF_DROP).raiseLimited .FLW_E_HANDOFF 0 ms1 tmpl

/-- The replicas of a packet that leaves the frame path: a token that holds the buffer (R19, R250). -/
def State.handAway (s : State) (p : Packet) (h : Nat) (x : HandOff) : State :=
  let s := match s.buf h with
    | some b => s.setBuf h { b with pkt := some p }
    | none => s
  let (e, s) := s.sendTok (s.handToken h x)
  let s := s.countHand e x.tmpl
  if e.isSome then s.toDiscard p else (s.delPkt p.id)

/-- Step 7 for a packet with its buffer (R304). -/
def State.replicate (s : State) (p : Packet) (h : Nat) : State :=
  let mask := match p.dest with
    | .discard => 0
    | .ports m => m
    | .group g => s.groupPorts g p.src
  let mask := match p.prune with
    | some q => if bitOf mask q then mask - 2 ^ q else mask
    | none => mask
  let isGroup := match p.dest with
    | .group _ => true
    | _ => false
  let (reps, s) := s.duplicate p (portsOf mask)
  let ses := (s.insetsOf p (reps.map (·.1)))
  let room := s.rn .SWC_INS_WM (poolOf h) < s.phi (poolOf h)
  let s := if room then s else ses.foldl (fun s x => (s.countF .SWC_INS_SKIP x.1).bump .SWC_CNT_INSET_SKIP) s
  let ses := if room then ses else []
  let s := if isGroup && mask = 0 then s.bump .SWC_CNT_RG_EMPTY else s
  let copy := p.hand.isSome && !(reps.isEmpty && p.dest == .discard)
  let earlier := ses.length + (if copy then 1 else 0) + (reps.length - 1)
  let owner := (reps.getLast?.map (·.1)).getD (ownPipe p.pipe)
  let s := match s.buf h with
    | some b => s.setBuf h { b with owner := owner, st := if earlier = 0 then .held else .shared, count := earlier, insets := ses.length, bytes := p.bytes, pkt := some p }
    | none => s
  let s := ses.foldl (fun s x =>
    let red := match x.2 with
      | some q => (reps.find? fun r => r.1 == q).bind (·.2)
      | none => none
    let s := (s.countF .SWC_INS_COPIES x.1).bump .SWC_CNT_REPLICA
    (s.enqueue (s.rn .SWC_INS_DST x.1) p.pin (s.insetEntry p h x red)).1) s
  let s := match p.hand with
    | some x => if copy then
        let s := match s.buf h with
          | some b => s.setBuf h { b with pkt := some p }
          | none => s
        let (e, s) := s.sendTok (s.handToken h x)
        let s := s.countHand e x.tmpl
        if e.isSome then (s.releaseBuf h owner).1 else s
      else s
    | none => s
  let n := reps.length
  let s := ((List.range n).zip reps).foldl (fun s r =>
    let e := { entryOf p h p.tc p.dp with owner := r.1 + 1 == n, vport := r.2.1, red := r.2.2 }
    ((s.bump .SWC_CNT_REPLICA).enqueue r.2.1 p.pin e).1) s
  match p.hand with
  | some x => if copy then (if n = 0 then s.toDiscard p else s.delPkt p.id) else s.handAway p h x
  | none =>
    if n = 0 then s.toDiscard { p with buf := some h }
    else if p.whole then s.delPkt p.id
    else s.setPkt { p with stage := .stored }

/-- R304: the next packet in the replication FIFO of pipeline `k`. A hand-off waits until the frame is whole (R20), an SV
frame until the Graticule unit has read it (R263). -/
def execReplicate (k : Fin 2) (s : State) : Res :=
  match s.nextAt k.val .repl with
  | some p =>
    match p.buf with
    | some h => if p.slice.isSome || (p.hand.isSome && !p.whole) then .next s else .next (s.replicate p h)
    | none => .next s
  | none => .next s

/-! ### Layout, groups, counters (R293, R294, R305, R316) -/

/-- The layout registers. -/
def State.layoutRegs (s : State) : List (Nat × Nat) := (List.range 4).map fun i => (s.rn .SWC_POOL_SZ i, s.rn .SWC_POOL_CNT i)

/-- The constraints of R293. -/
def layoutOk (l : List (Nat × Nat)) : Bool :=
  let sz (i : Nat) : Nat := ((l[i]?).map (·.1)).getD 0
  let n (i : Nat) : Nat := ((l[i]?).map (·.2)).getD 0
  l.all (fun e => 2 ≤ e.1 && e.1 ≤ 152 && 1 ≤ e.2 && e.2 ≤ 131072) && sz 0 < sz 1 && sz 1 < sz 2 && sz 2 < sz 3 &&
    1024 ≤ n 0 && 128 ≤ n 1 && (l.map fun e => e.1 * 64 * e.2).foldl (· + ·) 0 ≤ 33554432

/-- A write of 1 to SWC_LAYOUT_APPLY (R294). -/
def State.layoutApply (s : State) : State :=
  if s.mod.mode == .load && !s.rb .SWC_LAYOUT_LOCKED && layoutOk s.layoutRegs then
    { s with swc := { s.swc with layout := s.layoutRegs, minFree := [], escMin := [] } }.raise .SWC_I_LAYOUT
  else s.raise .SWC_E_LAYOUT

/-- R294. -/
def execSwcLayoutApply (src : Src) (s : State) : Res := .next (s.guarded src .SWC fun s => s.layoutApply)

/-- The high word of a group applies the whole entry (R305). -/
def State.wrRgHigh (s : State) (g : Nat) (v : BitVec 32) : State :=
  let s := ((s.setB .SWC_RG_PRUNE g (v.getLsbD 31)).setN .SWC_RG_MASK_HOST g (bitsOf v.toNat 27 24)).setN .SWC_RG_MASK_H g (bitsOf v.toNat 15 0)
  { s with swc := { s.swc with rgLow := s.swc.rgLow.put 0#32 g (s.reg .SWC_RG_MASK_L g) } }

/-- R305. -/
def execSwcRgMaskH (src : Src) (g : Fin 4096) (v : BitVec 32) (s : State) : Res :=
  .next (s.guarded src .SWC fun s => s.wrRgHigh g.val v)

/-- Every SWC counter and SWC_OWN_CNT cleared (R316). -/
def State.clearSwc (s : State) : State :=
  let s := s.clearBlockCtrs .SWC
  { s with regs := s.regs.filter fun e => e.1 % 1024 != Field.SWC_OWN_CNT.ctorIdx }

/-- R316. -/
def execSwcCntClr (src : Src) (s : State) : Res := .next (s.guarded src .SWC fun s => s.clearSwc)

end Sys2Proof.Machine
end

