-- ==== Sys2Proof/Machine/Time.lean ====
section
/-! DEFINITION. The Meridian time base (spec/04 R86-R97): the tick, setting and stepping, the PPS servo, quality and holdover, PPS_OUT, and the meanings of the TIM commands. -/

namespace Sys2Proof.Machine

open Sys2Proof

/-- The effective frequency adjustment F in 2^-10 ppb (TIM_FREQ_EFF). -/
def State.freqEff (s : State) : Int := signed 32 (s.rn .TIM_FREQ_EFF)

/-- Increment of one fast tick in 2^-32 ns: 4 ns × (1 + F × 10^-9), truncated (R87). -/
def fastInc (f : Int) : Nat := ((4 * 2 ^ 32 : Int) * (1024000000000 + f)).toNat / 1024000000000

/-- Increment of the timebase in use (R87). -/
def State.tickInc (s : State) : Nat := if s.rb .TIM_FAST then fastInc s.freqEff else 100 * 2 ^ 32

/-- Meridian wraps at 2^48 seconds. -/
def timeWrap : Nat := 2 ^ 48 * tickSec

/-- One timebase tick: Meridian, the step-free count, the lease term and the holdover timer advance (R87, R96, R100, R473). -/
def State.tick (s : State) : State :=
  let d := s.tickInc
  let hold := if s.rn .TIM_QUAL = 3 then s.tim.holdAcc + d else s.tim.holdAcc
  let s := { s with
    tim := { s.tim with now := (s.tim.now + d) % timeWrap, stepFree := s.tim.stepFree + d, holdAcc := hold }
    mod := { s.mod with left := s.mod.left - d } }
  if s.rn .TIM_QUAL = 3 then s.setN .TIM_HOLD_ELAPSED 0 (min 4095 (hold / tickSec)) else s

/-- TIM_QUAL set; TIM_EVT_LOCK marks entering or leaving LOCKED (R96). -/
def State.setQual (s : State) (q : Nat) : State :=
  let old := s.rn .TIM_QUAL
  let s := s.setN .TIM_QUAL 0 q
  if old ≠ q && (old = 2 || q = 2) then s.setB .TIM_EVT_LOCK 0 true else s

/-- Signed nanoseconds saturated to ±2^31. -/
def sat31 (i : Int) : Int := if i < -2147483648 then -2147483648 else if 2147483647 < i then 2147483647 else i

/-- PPS_OUT rises, unless disabled, on the slow timebase or within 500 ms of the last rising edge (R97). -/
def State.ppsOutRise (s : State) : State :=
  if !s.rb .TIM_PPSOUT_EN || !s.rb .TIM_FAST then s
  else match s.tim.ppsRise with
    | some t => if s.tim.stepFree < t + tickSec / 2 then s
        else { s with tim := { s.tim with ppsHigh := true, ppsRise := some s.tim.stepFree } }
    | none => { s with tim := { s.tim with ppsHigh := true, ppsRise := some s.tim.stepFree } }

/-- Meridian reads `new`; the refresh windows go on from the window that follows the step (R102). -/
def State.setNow (s : State) (new : Nat) : State :=
  let s := { s with tim := { s.tim with now := new % timeWrap, lockCnt := 0 } }
  { s with tim := { s.tim with refOrg := s.refAfterStep } }

/-- Meridian is moved to `new` by SET, STEP or a servo step (R91): TIM_I_STEP with the signed size, the lock count
restarts, the units are told, and a changed seconds field makes a PPS_OUT edge (R97). `sets` says that it ends UNSET. -/
def State.moveTime (s : State) (new : Nat) (sets : Bool) : State :=
  let old := s.tim.now
  let size : Int := (new : Int) - old
  let ends := sets && s.rn .TIM_QUAL = 0
  let s := s.setNow new
  let s := if s.rn .TIM_QUAL = 0 && !sets then s else s.setQual 1
  let s := (s.raise .TIM_I_STEP (unsignedOf 32 (sat31 (size.tdiv tickNs)))).onStep size ends
  if old / tickSec ≠ s.tim.now / tickSec then s.ppsOutRise else s

/-- Staged seconds, and the staged value of SET (R91). -/
def State.stagedSec (s : State) : Nat := s.rn .TIM_NOW_SEC_LO + s.rn .TIM_NOW_SEC_HI * 2 ^ 32
def State.staged (s : State) : Nat := s.stagedSec * tickSec + s.rn .TIM_NOW_NS * tickNs + s.rn .TIM_NOW_FRAC * 2 ^ 16

/-- Signed TIM_STEP_NS. -/
def State.stepNs (s : State) : Int := signed 32 (s.rn .TIM_STEP_NS)

/-- A command of TIM_CMD_OP (R91): refused while one is pending or out of range. -/
def State.timCmd (s : State) (op : Nat) : State :=
  if op = 0 then s
  else if s.tim.cmd ≠ 0 || (op = 1 && 999999999 < s.rn .TIM_NOW_NS) ||
      (op = 2 && (s.stepNs < -999999999 || 999999999 < s.stepNs)) then s.raise .TIM_E_CMD op
  else { s with tim := { s.tim with cmd := op } }

/-- R91: TIM_CMD_OP = 1. -/
def execSet (src : Src) (s : State) : Res := .next (s.guarded src .TIM fun s => s.timCmd 1)
/-- R91: TIM_CMD_OP = 2. -/
def execStep (src : Src) (s : State) : Res := .next (s.guarded src .TIM fun s => s.timCmd 2)
/-- R91: TIM_CMD_OP = 3. -/
def execSetAtPps (src : Src) (s : State) : Res := .next (s.guarded src .TIM fun s => s.timCmd 3)

/-- R91: at the next fast-timebase tick a pending SET or STEP takes effect. DESIGN CHOICE (R91 does not say when the staged
value is taken): it uses what is staged at that tick (notes/assumptions/27.md). -/
def execTimCommandEffect (s : State) : Res :=
  if !s.rb .TIM_FAST then .next s else
  match s.tim.cmd with
  | 1 => .next ({ s with tim := { s.tim with cmd := 0 } }.moveTime s.staged true)
  | 2 => .next ({ s with tim := { s.tim with cmd := 0 } }.moveTime ((s.tim.now : Int) + s.stepNs * tickNs).toNat false)
  | _ => .next s

/-- Nearest integer of n / d. -/
def roundDiv (n : Int) (d : Nat) : Int := (2 * n + d) / (2 * d : Nat)

/-- Clamp of a frequency to ±500,000 ppb, given in units of which `u` make a ppb. -/
def clampFreq (u f : Int) : Int := if f < -500000 * u then -500000 * u else if 500000 * u < f then 500000 * u else f

/-- Units of the servo integral in one ppb: 2^24 × 10. -/
def servoUnit : Int := 167772160

/-- TIM_FREQ_EFF from a frequency in servo units, to 2^-10 ppb (R94). -/
def State.setFreq (s : State) (f : Int) : State :=
  s.setN .TIM_FREQ_EFF 0 (unsignedOf 32 (roundDiv (clampFreq servoUnit f) 163840))

/-- The servo source is in force: TIM_SRC 1 or 3 (Table 04.1). -/
def State.servoSrc (s : State) : Bool := s.rn .TIM_SRC = 1 || s.rn .TIM_SRC = 3

/-- TIM_ADJ_FREQ as written is in force (Table 04.1): not under the servo, nor while the kept frequency stands after a warm
reset (R89). -/
def State.applyAdj (s : State) : State :=
  if s.servoSrc || !s.tim.adjLive then s else s.setReg .TIM_FREQ_EFF 0 (s.reg .TIM_ADJ_FREQ)

/-- LOCKED changes to HOLDOVER: the frequency is held at the servo integral for sources 1 and 3, at the last
TIM_ADJ_FREQ written for 0 and 2 (R96). -/
def State.toHoldover (s : State) : State :=
  if s.rn .TIM_QUAL ≠ 2 then s else
  let s := if s.servoSrc then s.setFreq (-s.tim.integ) else s.applyAdj
  ({ s with tim := { s.tim with holdAcc := 0 } }.setN .TIM_HOLD_ELAPSED 0 0).setQual 3

/-- Phase error of a captured edge in 2^-16 / 10 ns, folded to ±500,000,000 ns (R93). -/
def phaseErr (ns frac16 : Nat) (delay : Int) : Int :=
  let full : Int := 655360000000000
  let x := (10 * ((ns * 65536 + frac16 : Nat) : Int) - delay * 65536) % full
  if full / 2 < x then x - full else x

/-- Magnitude of an error against a bound in nanoseconds. -/
def errWithin (e : Int) (ns : Nat) : Bool := e.natAbs ≤ ns * 655360

/-- The servo on an accepted edge with error `e` (R94). DESIGN CHOICE (R94 gives the integral no first value, and says of a
step alone that it is kept): it is 0 at reset and survives a change of TIM_SRC (notes/assumptions/27.md). -/
def State.servo (s : State) (e : Int) : State :=
  if s.rb .TIM_STEP_EN && !errWithin e (s.rn .TIM_STEP_THRESH) then
    s.moveTime ((s.tim.now : Int) - (e * 2 ^ 16).tdiv 10).toNat false
  else
    let integ := s.tim.integ + s.rn .TIM_SERVO_KI * e
    let s := { s with tim := { s.tim with integ := integ, adjLive := true,
                                          lockCnt := if errWithin e 50 then s.tim.lockCnt + 1 else 0 } }
    let s := s.setFreq (-(s.rn .TIM_SERVO_KP * e + integ))
    if 8 ≤ s.tim.lockCnt && (s.rn .TIM_QUAL = 1 || s.rn .TIM_QUAL = 3) then (s.setQual 2).raise .TIM_I_LOCKED else s

/-- An accepted edge with error `e` (R91, R92, R94). A pending SET or STEP takes effect on this tick: the servo discards the
pulse (R92). DESIGN CHOICES, where the spec gives no word (notes/assumptions/27.md): TIM_PPS_ERR is e cut to whole ns toward
zero; SET_AT_PPS takes the fraction from TIM_PPS_DELAY and not from the staged value, and a negative delay borrows from the
staged seconds; the lock count goes on over HOLDOVER and a change of TIM_SRC, and edges under sources 0 and 2 leave it. -/
def State.ppsAccept (s : State) (e : Int) : State :=
  let s := { s with tim := { s.tim with lastPps := some s.tim.stepFree, lostRaised := false } }
  let s := (s.setB .TIM_PPS_SEEN 0 true).setN .TIM_PPS_ERR 0 (unsignedOf 32 (sat31 (e.tdiv 655360)))
  if s.tim.cmd = 3 then
    let d : Int := signed 16 (s.rn .TIM_PPS_DELAY)
    { s with tim := { s.tim with cmd := 0 } }.moveTime ((s.stagedSec * tickSec : Nat) + (d * 2 ^ 32).tdiv 10).toNat true
  else if s.servoSrc && s.tim.cmd = 0 then s.servo e
  else s

/-- The captured Meridian of an edge at instant `t` (R93). -/
def State.ppsCapture (s : State) (t : Nat) : State :=
  ((s.setN .TIM_PPS_CAP_FRAC 0 (t % tickNs / 2 ^ 16)).setN .TIM_PPS_CAP_NS 0 (t / tickNs % 1000000000)).setN .TIM_PPS_CAP_SEC 0 (t / tickSec % 2 ^ 32)

/-- An edge of error `e` is accepted: 500 ms after the accepted edge before it, and, while LOCKED, within the window (R93). -/
def State.ppsAdmits (s : State) (e : Int) : Bool :=
  (match s.tim.lastPps with
    | some l => decide (l + tickSec / 2 ≤ s.tim.stepFree)
    | none => true) &&
  (decide (s.rn .TIM_QUAL ≠ 2) || errWithin e (1000 * max 1 (s.rn .TIM_PPS_WIN)))

/-- The phase error of an edge at instant `t` (R93). -/
def State.ppsErrorAt (s : State) (t : Nat) : Int :=
  phaseErr (t / tickNs % 1000000000) (t % tickNs / 2 ^ 16) (signed 16 (s.rn .TIM_PPS_DELAY))

/-- R93: a rising PPS_IN edge, `sub` × 100 ps after the present tick, is captured, accepted or rejected. PPS_IN is
ignored while domain 65 is off. -/
def execPpsEdge (sub : Fin 40) (s : State) : Res :=
  if s.dom 65 ≠ dsOn || !s.rb .TIM_FAST then .next s else
  let t := s.tim.now + sub.val * 2 ^ 32 / 10
  let s := s.ppsCapture t
  let e := s.ppsErrorAt t
  if s.ppsAdmits e then .next (s.ppsAccept e)
  else .next ((s.countF .TIM_PPS_REJ).raise .TIM_W_PPS_REJECT)

/-- R93, R96: no edge accepted for 1.1 s; raised once. -/
def execPpsLost (s : State) : Res :=
  if s.dom 65 ≠ dsOn || s.tim.lostRaised then .next s else
  let s := { s.setB .TIM_PPS_SEEN 0 false with tim := { s.tim with lostRaised := true } }.raise .TIM_W_PPS_LOST
  .next (if s.servoSrc then s.toHoldover else s)

/-- R96: TIM_HOLD_ELAPSED reaches TIM_HOLD_SEC; TIM_QUAL becomes FREE, and the frequency is again the source's (R95). -/
def execHoldoverEnd (s : State) : Res :=
  if s.rn .TIM_QUAL ≠ 3 then .next s else
  .next (((s.setReg .TIM_HOLD_ELAPSED 0 (s.reg .TIM_HOLD_SEC)).setQual 1).applyAdj.raise .TIM_W_HOLDOVER_END)

/-- LOCKED under source 2 (Table 04.1), from FREE or HOLDOVER; UNSET stays (R96). -/
def State.ptpLocked (s : State) : State :=
  if s.rn .TIM_SRC = 2 && s.rb .TIM_PTP_LOCK && (s.rn .TIM_QUAL = 1 || s.rn .TIM_QUAL = 3) then
    (s.applyAdj.setQual 2).raise .TIM_I_LOCKED
  else s

/-- A write of TIM_SRC (R95, R96): a changed source moves LOCKED to HOLDOVER under the old source's rule; out of HOLDOVER the
new source's frequency is in force, and source 2 with TIM_PTP_LOCK = 1 is LOCKED. -/
def State.wrTimSrc (s : State) (v : Nat) : State :=
  if v = s.rn .TIM_SRC then s else
  let t := s.toHoldover.setN .TIM_SRC 0 v
  (if t.rn .TIM_QUAL = 3 then t else t.applyAdj).ptpLocked

/-- R96. -/
def execTimSrc (src : Src) (v : BitVec 2) (s : State) : Res := .next (s.guarded src .TIM fun s => s.wrTimSrc v.toNat)

/-- A write of TIM_PTP_LOCK (Table 04.1, R96). -/
def State.wrPtpLock (s : State) (v : Bool) : State :=
  let s := s.setB .TIM_PTP_LOCK 0 v
  if v then s.ptpLocked else if s.rn .TIM_SRC = 2 then s.toHoldover else s

/-- R96. -/
def execTimPtpLock (src : Src) (v : Bool) (s : State) : Res := .next (s.guarded src .TIM fun s => s.wrPtpLock v)

/-- A write of TIM_ADJ_FREQ (R94, R104): refused while the servo owns the frequency; saturated to ±500 ppm. -/
def State.wrAdjFreq (s : State) (v : BitVec 32) : State :=
  if s.servoSrc then s.raise .TIM_E_SRC
  else
    let f := BitVec.ofNat 32 (unsignedOf 32 (clampFreq 1024 (signed 32 v.toNat)))
    { (s.setReg .TIM_ADJ_FREQ 0 f).setReg .TIM_FREQ_EFF 0 f with tim := { s.tim with adjLive := true } }

/-- R94. -/
def execTimAdjFreq (src : Src) (v : BitVec 32) (s : State) : Res := .next (s.guarded src .TIM fun s => s.wrAdjFreq v)

/-- R87, R88: at a SLOWCLK edge Meridian changes to the timebase of the present mode and domains; each changeover raises
TIM_I_TIMEBASE. On the slow timebase LOCKED becomes HOLDOVER, PPS_OUT is low and PPS_IN unsupervised. -/
def execTimebaseChangeover (s : State) : Res :=
  let fast := fastTime s.mod.mode && s.dom 65 = dsOn && s.dom 66 = dsOn
  if fast = s.rb .TIM_FAST then .next s
  else if fast then
    .next ({ s.setB .TIM_FAST 0 true with tim := { s.tim with lostRaised := false } }.raise .TIM_I_TIMEBASE 1)
  else
    let s := { s.toHoldover with tim := { s.toHoldover.tim with ppsHigh := false } }
    .next (((s.setB .TIM_FAST 0 false).setB .TIM_PPS_SEEN 0 false).raise .TIM_I_TIMEBASE 0)

/-- R97: PPS_OUT rises at an increment of the Meridian seconds. -/
def execPpsOutRise (s : State) : Res := .next s.ppsOutRise

/-- R97: PPS_OUT falls TIM_PPSOUT_MS ms after its rise, 0 taken as 1; not before. -/
def execPpsOutFall (s : State) : Res :=
  let high := max 1 (s.rn .TIM_PPSOUT_MS) * ms1 * tickNs
  if s.tim.ppsRise.any fun t => s.tim.stepFree < t + high then .next s
  else .next { s with tim := { s.tim with ppsHigh := false } }

end Sys2Proof.Machine
end

