-- ==== Sys2Proof/Machine/Traffic.lean ====
section
/-! DEFINITION. The meanings of the traffic-manager commands and events (spec/12). -/

namespace Sys2Proof.Machine

open Sys2Proof

/-! ### Selection (R322-R326) -/

/-- Class group that owns a queue: port * 8 + class; the reserved queues belong to class 7 of their port. -/
def State.cgOf (s : State) (q : Nat) : Option Nat :=
  if 32704 ≤ q then some (8 * (q - 32704) + 7)
  else (List.range 512).find? fun k => s.rb .TMG_CG_EN k && s.rn .TMG_CG_BASE k ≤ q && q < s.rn .TMG_CG_BASE k + 2 ^ s.rn .TMG_CG_LOG2N k

/-- A rewrite that makes a frame store-and-forward (R111). -/
def rewritten (rw : Rewrite) : Bool := rw.vid.isSome || rw.da.isSome || rw.ttl || rw.nat ≠ 0

/-- The head of a queue of port `p` may be sent: its frame has arrived, or it may be cut through (R20, R111). -/
def State.headReady (s : State) (p : Nat) (e : QEnt) : Bool :=
  !e.void && match (if e.pkt = 0 then none else s.pkt (e.pkt - 1)) with
  | none => true
  | some k => k.whole || (e.tc = 7 && e.inset.isNone && !rewritten e.rw && k.pass = 1 && 64 ≤ k.bytes.length && p < 48 && k.src < 48 &&
      modeRate (s.rn .PRT_MODE p) ≤ modeRate (s.rn .PRT_MODE k.src))

/-- A queue is eligible (R323): a head that may be sent, and positive shapers. -/
def State.eligible (s : State) (p t q : Nat) : Bool :=
  match (s.queue q).ents with
  | [] => false
  | e :: _ => s.headReady p e && (!s.rb .TMG_Q_SH_EN q || s.shOk (s.rn .TMG_Q_SH q)) && s.shOk (gsKey (8 * p + t))

/-- The eligible queue of a class group with the smallest F; ties to the lowest queue (R325). -/
def State.fairest (s : State) (p t : Nat) : Option Nat :=
  if !s.rb .TMG_CG_EN (8 * p + t) then none
  else (((List.range (s.cgLen p t)).map (s.cgBase p t + ·)).filter fun q => s.eligible p t q).foldl (fun b q => match b with
    | some x => if ahead (s.queue x).f (s.queue q).f then some q else b
    | none => some q) none

/-- The queue a port selects among classes (R323): the reserved queue, then the highest class with an eligible queue. -/
def State.selectFrom (s : State) (p : Nat) (resv : Bool) (classes : List Nat) : Option (Nat × Nat) :=
  let r := resvQueue p
  let head := match (s.queue r).ents with
    | e :: _ => s.headReady p e
    | [] => false
  if resv && head then some (r, 7)
  else classes.findSome? fun t => (s.fairest p t).map fun q => (q, t)

/-- Classes from TC7 down that are express on a port, or not. -/
def State.classesOf (s : State) (p : Nat) (express : Bool) : List Nat :=
  [7, 6, 5, 4, 3, 2, 1, 0].filter fun t => (t = 7 || bitOf (s.rn .PRT_EXPRESS_TC p) t) == express

/-- Preemption is active on a port. -/
def State.preActive (s : State) (p : Nat) : Bool := p < 48 && s.rn .PRT_PRE_STATE p = 2

/-- What a port selects: `pre` asks for the preemptable selection (R323). -/
def State.selection (s : State) (p : Nat) (pre : Bool) : Option (Nat × Nat) :=
  let busyE := (s.prt.txE.find p).isSome
  let busyP := (s.prt.txP.find p).isSome
  if s.preActive p then
    let ex := if busyE then none else s.selectFrom p true (s.classesOf p true)
    if !pre then ex
    else if busyE || busyP || ex.isSome then none
    else s.selectFrom p false (s.classesOf p false)
  else if pre || busyE || busyP then none
  else s.selectFrom p true [7, 6, 5, 4, 3, 2, 1, 0]

/-- The class group's virtual time follows the head of queue `q` that it sends (R325). -/
def State.turnVirtual (s : State) (q cg : Nat) : State :=
  let x := s.queue q
  let v := s.tmg.vtime.get 0 cg
  if 32704 ≤ q then s else { s with tmg := { s.tmg with vtime := s.tmg.vtime.put 0 cg (if ahead x.s v then x.s else v) } }

/-- The shapers of a queue and its class group pay for a frame (R327); the reserved queues have none. -/
def State.payShapers (s : State) (q cg len : Nat) : State :=
  if 32704 ≤ q then s
  else (if s.rb .TMG_Q_SH_EN q then s.charge (s.rn .TMG_Q_SH q) len else s).charge (gsKey cg) len

/-- A port's transmitter takes a frame: the egress timestamp is drawn and the frame is under way (R98). -/
def State.beginTx (s : State) (p q : Nat) (e : QEnt) (pre : Bool) : State :=
  let (t, s) := s.stampNs (if p < 48 then s.rn .TIM_P_EGR_ADJ p else 0) 0
  let tx : Tx := { ent := e, q := q, tsFree := s.tim.stepFree, tsNow := t * tickNs, sent := 0, frags := 0 }
  let s := if p < 48 then s.onStarted e tx.tsNow else s
  if pre then { s with prt := { s.prt with txP := s.prt.txP.set p tx } } else { s with prt := { s.prt with txE := s.prt.txE.set p tx } }

/-- A selected frame leaves its queue for the transmitter (R325, R327, R98). -/
def State.sendHead (s : State) (p q t : Nat) (pre : Bool) : State :=
  match (s.queue q).ents with
  | [] => s
  | e :: _ => (((((s.turnVirtual q (8 * p + t)).popHead q true).bump .TMG_CNT_DEQ).payShapers q (8 * p + t) (s.tagLen e - 20))).beginTx p q e pre

/-- R323: a port whose transmitter, or express MAC, can accept a frame. -/
def execQueueSelect (p : Fin 64) (pre : Bool) (s : State) : Res :=
  if !isEgress p.val || !s.portUp p.val then .next s
  else match s.selection p.val pre with
    | some (q, t) => .next (s.sendHead p.val q t pre)
    | none => .next s

/-- R322: the head of a queue whose port is down, or a voided head. -/
def execHeadDiscard (q : Fin 32768) (s : State) : Res :=
  match (s.queue q.val).ents, s.cgOf q.val with
  | e :: _, some cg =>
    let p := cg / 8
    if e.void then .next ((s.popHead q.val false).bump .TMG_CNT_VOID)
    else if !s.portUp p then .next (((s.endReplica p e).popHead q.val false).bump .TMG_CNT_LINKDOWN)
    else .next s
  | _, _ => .next s

/-- R326: empty queues whose F_last is not ahead of V take F_last = V. -/
def execTagSweep (s : State) : Res :=
  let f (e : Nat × Queue) : Nat × Queue :=
    match s.cgOf e.1 with
    | some cg =>
      let v := s.tmg.vtime.get 0 cg
      if e.2.ents.isEmpty && !ahead e.2.fLast v then (e.1, { e.2 with fLast := v }) else e
    | none => e
  .next { s with tmg := { s.tmg with queues := (s.tmg.queues.map f).filter fun e => e.2 != Queue.none } }

/-! ### Configuration (R319, R328, R334) -/

/-- A refused class-group or queue write. -/
def State.tmgErr (s : State) (k : Nat) : State := s.raiseLimited .TMG_E_CFG 0 ms1 k

/-- The host whose partition owns a port (R467). -/
def State.portOwner (s : State) (p : Nat) : Option Nat := (List.range 4).find? fun h => s.holdsPort h p

/-- Queues `b` to `b + n` lie in the partition that owns port `p`; port 63 belongs to the steward and to none. -/
def State.queuesIn (s : State) (p b n : Nat) : Bool :=
  match s.portOwner p with
  | some h => (s.part h).qBase ≤ b && b + n ≤ (s.part h).qBase + (s.part h).qCnt
  | none => p = 63

/-- A TMG_CG write (R319). DEDUCED: a write that leaves the group disabled maps no range, so the tests of overlap and
partition are made only where it enables the group (notes/assumptions/31.md). -/
def State.wrCg (s : State) (p t : Nat) (v : BitVec 32) : State :=
  let k := 8 * p + t
  let en := v.getLsbD 31
  let lg := bitsOf v.toNat 19 16
  let base := bitsOf v.toNat 14 0
  let n := 2 ^ lg
  let overlap := (List.range 512).any fun j => j != k && s.rb .TMG_CG_EN j &&
    base < s.rn .TMG_CG_BASE j + 2 ^ s.rn .TMG_CG_LOG2N j && s.rn .TMG_CG_BASE j < base + n
  if !isEgress p || (p < 48 && s.rb .PRT_EN p && s.mod.mode != .load) || 8 < lg || 32704 < base + n ||
      (en && (overlap || !s.queuesIn p base n)) then s.tmgErr k
  else ((s.setB .TMG_CG_EN k en).setN .TMG_CG_LOG2N k lg).setN .TMG_CG_BASE k base

/-- R319. -/
def execTmgCg (src : Src) (p : Fin 64) (t : Fin 8) (v : BitVec 32) (s : State) : Res :=
  .next (s.guarded src .TMG fun s => s.wrCg p.val t.val v)

/-- A mapped queue lies in the partition of its port; an unmapped one may be written freely (R334). -/
def State.queueOk (s : State) (q : Nat) : Bool :=
  if 32704 ≤ q then true else
  match s.cgOf q with
  | some cg => s.queuesIn (cg / 8) q 1
  | none => true

/-- A TMG_Q_CFG word written (R334). A new weight applies to the next head (Table 12.1). -/
def State.wrQCfg (s : State) (src : Src) (q word : Nat) (v : BitVec 32) : State :=
  let bound := match src with
    | .host _ => true
    | _ => false
  if bound && !s.queueOk q then s.tmgErr q
  else if word = 0 then
    ((s.setB .TMG_Q_SH_EN q (v.getLsbD 31)).setN .TMG_Q_SH q (bitsOf v.toNat 27 16)).setN .TMG_Q_WEIGHT q (bitsOf v.toNat 9 0)
  else s.setN .TMG_Q_MAX q (bitsOf v.toNat 15 0)

/-- R334. -/
def execTmgQCfg (src : Src) (q : Fin 32768) (word : Fin 2) (v : BitVec 32) (s : State) : Res :=
  .next (s.guarded src .TMG fun s => s.wrQCfg src q.val word.val v)

/-- Queues that name a queue shaper. -/
def State.namers (s : State) (i : Nat) : List Nat :=
  ((s.regs.filter fun e => e.1 % 1024 == Field.TMG_Q_SH_EN.ctorIdx && e.2 != 0#32).map fun e => e.1 / 1024).filter fun q =>
    s.rn .TMG_Q_SH q = i

/-- A shaper register written (R328): at the next refill; a disable at once. -/
def State.wrShaper (s : State) (src : Src) (gs : Bool) (i word : Nat) (v : BitVec 32) : State :=
  let bound := match src with
    | .host _ => !gs
    | _ => false
  let ns := s.namers i
  if bound && !ns.isEmpty && ns.all (fun q => !s.queueOk q) then s.tmgErr i
  else
    let i := if gs then i % 512 else i
    let key := if gs then gsKey i else i
    let s := if word = 0 then
        (s.setB (if gs then .TMG_GS_EN else .TMG_QS_EN) i (v.getLsbD 31)).setN (if gs then .TMG_GS_RATE else .TMG_QS_RATE) i (bitsOf v.toNat 23 0)
      else s.setN (if gs then .TMG_GS_BURST else .TMG_QS_BURST) i (bitsOf v.toNat 23 0)
    if (s.shCfg key).1 then s else (s.setShaper key { s.shaper key with en := false }).unplace (shItem key)

/-- R328. -/
def execShaperConfig (src : Src) (gs : Bool) (i : Fin 4096) (word : Fin 2) (v : BitVec 32) (s : State) : Res :=
  .next (s.guarded src .TMG fun s => s.wrShaper src gs i.val word.val v)

/-! ### Timing wheels (R329, R330) -/

/-- Order of the entries of a slot: publications by number, class-group shapers, queue shapers. -/
def wheelKey : WheelItem → Nat
  | .pub n => n
  | .gs n => 100000 + n
  | .qs n => 200000 + n

/-- An entry put in the order of its slot. -/
def wheelIns (x : Nat × WheelItem) : List (Nat × WheelItem) → List (Nat × WheelItem)
  | [] => [x]
  | y :: t => if wheelKey x.2 < wheelKey y.2 then x :: y :: t else y :: wheelIns x t

/-- A wheel entry fires. -/
def State.fire (s : State) (w : WheelItem) : State :=
  match w with
  | .pub n => { s with tmg := { s.tmg with pubDue := s.tmg.pubDue ++ [n] } }
  | .gs n | .qs n =>
    let k := match w with
      | .gs _ => gsKey n
      | _ => n
    let s := s.refill k
    let x := s.shaper k
    if 0 < x.t || x.rate = 0 || !(s.shCfg k).1 then s else s.place (s.tmg.slot + ((-x.t).toNat / x.rate + 1)) w

/-- R330: one fine slot: entries left over first, then its own, at most 64. -/
def execFineWheelSlot (s : State) : Res :=
  let n := s.tmg.slot + 1
  let due := (s.tmg.wheel.filter fun e => e.1 ≤ n).foldl (fun l e => wheelIns e l) []
  let all := s.tmg.carried ++ due
  let s := { s with tmg := { s.tmg with slot := n, wheel := s.tmg.wheel.filter (fun e => n < e.1), carried := all.drop 64 } }
  let late := (all.take 64).filter fun e => e.1 < n
  let s := if late.isEmpty then s else s.bump .TMG_CNT_WHEEL_LATE 0 late.length
  let lag := all.foldl (fun m e => max m (n - e.1)) 0
  let s := if s.rn .TMG_WHEEL_LAG_MAX < lag then s.setN .TMG_WHEEL_LAG_MAX 0 (min lag 65535) else s
  let s := if 4 < lag then s.raiseLimited .TMG_W_WHEEL_LAG 0 ms1 lag else s
  .next ((all.take 64).foldl (fun s e => s.fire e.2) s)

/-- R329: one overflow slot: TMG_WHEEL_CNT advances, and entries within a revolution of the fine wheel move to it. -/
def execOverflowWheelSlot (s : State) : Res :=
  let near (e : Nat × WheelItem) : Bool := e.1 < s.tmg.slot + 4096
  let s := s.setReg .TMG_WHEEL_CNT 0 (s.reg .TMG_WHEEL_CNT + 1#32)
  .next { s with tmg := { s.tmg with wheel := s.tmg.wheel ++ s.tmg.ovf.filter near, ovf := s.tmg.ovf.filter fun e => !near e } }

/-- R334. -/
def execTmgCntClr (src : Src) (s : State) : Res := .next (s.guarded src .TMG fun s => s.clearBlockCtrs .TMG)

end Sys2Proof.Machine
end

