-- ==== Sys2Proof/Machine/RegWrite.lean ====
section
/-! DEFINITION. Writing registers (spec/00 R7, R8, the maps of every chapter): the meaning of a 32-bit write at each BAR0
offset, under its access code and the guards of spec/17 Table 17.5. A write to a register with a command of its own has that
command's meaning. -/

namespace Sys2Proof.Machine

open Sys2Proof

/-- Element and remainder of an offset in an array of `n` elements of `stride` bytes. -/
def cellOf (o base stride n : Nat) : Option (Nat × Nat) :=
  if base ≤ o && o < base + stride * n then some ((o - base) / stride, (o - base) % stride) else none

/-- Fields of the word at offset `o` that take a plain write. -/
def plainAt (b : Block) (o : Nat) : List (Field × Nat) :=
  (fieldsAt b o).filter fun e => e.1.info.acc == .RW || e.1.info.acc == .RWF || e.1.info.acc == .WO

/-- Those fields take their bits of the word. -/
def State.storeWord (s : State) (b : Block) (o : Nat) (v : BitVec 32) : State :=
  (plainAt b o).foldl (fun s e => s.setN e.1 e.2 (bitsOf v.toNat e.1.info.msb e.1.info.lsb)) s

/-- A word without a meaning of its own: its fields are stored under the guard of the block. -/
def State.plain (s : State) (src : Src) (b : Block) (o : Nat) (v : BitVec 32) : Res :=
  .next (if (plainAt b o).isEmpty then s else s.guardedHere src b fun s => s.storeWord b o v)

/-- A *_CNT_CLR word: bit 0 clears. A word with bit 0 = 0 does nothing, and is fenced all the same where it is not admitted
(R8). -/
def clrWord (src : Src) (b : Block) (v : BitVec 32) (s : State) (f : State → Res) : Res :=
  if v.getLsbD 0 then f s
  else .next (match b with
    | .PRT => s
    | .AUT | .HST => s.held src id
    | .MEM => if src == .steward && !s.stewardConducts then s.fenced src else s.guarded src .MEM id
    | b => s.guardedHere src b id)

/-! ### W1C (R8) -/

/-- The fields of the word that are 1 in `v` and clear. -/
def State.clear1 (s : State) (b : Block) (o : Nat) (v : BitVec 32) : State :=
  (fieldsAt b o).foldl (fun s e => if e.1.info.acc == .W1C && bitOf v.toNat e.1.info.lsb then s.setB e.1 e.2 false else s) s

/-- The word holds W1C bits. -/
def isW1C (b : Block) (o : Nat) : Bool := (fieldsAt b o).any fun e => e.1.info.acc == .W1C

/-- A W1C write under the block's restriction (R126, R161, R192, R261, R290, R316, R334, R407, R409, R428, R451, R470, R500,
R501): a write that is not admitted has no effect, and outside PRT it is fenced. -/
def State.w1c (s : State) (src : Src) (b : Block) (o : Nat) (v : BitVec 32) : State :=
  let go (s : State) : State := s.clear1 b o v
  match b with
  | .PWR | .TIM => go s
  | .PRT => if s.inPartition src (fun h => s.holdsPort h (o / 0x2000)) then go s else s
  | .TBL | .ENG => s.guarded src b go
  | .FUS | .HEA => if s.isHolder src || (src == .steward && s.mod.holder.isNone) then go s else s.fenced src
  | _ => s.held src go

/-! ### Blocks -/

/-- GLB (spec/17 Tables 17.8 and before, spec/03 R58, R66, R69). -/
def State.wrGlb (s : State) (src : Src) (o : Nat) (v : BitVec 32) : Res :=
  let n := v.toNat
  let own (s : State) : Res := .next (if fnOf src = 5 then s else (plainAt .GLB o).foldl
    (fun s e => s.setN e.1 (fnOf src) (bitsOf n e.1.info.msb e.1.info.lsb)) s)
  match o with
  | 0x08 => .next (s.held src fun s =>
      let s := s.setN .GLB_REQ_TARGET 0 (bitsOf n 7 4)
      match bitsOf n 3 0 with
      | 1 => s.reqRun
      | 2 => s.reqStandby
      | 3 => s.reqDrain .run (bitsOf n 7 4)
      | 4 => s.reqCancel
      | _ => s.modeRefused)
  | 0x0C => .next (s.held src fun s => s.setReg .GLB_WAKE_SEC 0 v)
  | 0x10 => execGlbResetGo src (v.setWidth 16) s
  | 0x18 =>
    match bitsOf n 31 28 with
    | 1 => execSubsysResetPort src (v.setWidth 6) s
    | 2 => execSubsysResetCluster src (v.setWidth 6) s
    | 3 => execSubsysResetGraticule src s
    | 4 => execSubsysResetTms src s
    | 5 => execSubsysResetAuth src s
    | 0 => .next (s.held src fun s => s.setN .GLB_SR_INDEX 0 (bitsOf n 5 0))
    | _ => .next (s.held src fun s => (s.setN .GLB_SR_INDEX 0 (bitsOf n 5 0)).modeRefused)
  | 0x30 => execImageLoad src (v.setWidth 2) s
  | 0x34 => .next (s.guarded src .GLB fun s => s.setReg .GLB_IMG_ADDR 0 v)
  | 0x48 =>
    match bitsOf n 31 30 with
    | 1 => execClaim src (v.setWidth 14) 0 s
    | 2 => execRenew src (v.setWidth 14) s
    | 3 => if fnOf src = 5 then .next s else execLeaseRelease src (s.wrTerm (fnOf src) (v.setWidth 14).toNat)
    | _ => .next (if fnOf src = 5 then s else s.wrTerm (fnOf src) (v.setWidth 14).toNat)
  | 0x4C | 0x84 | 0x88 => own s
  | _ => .next s

/-- PWR (spec/02). -/
def State.wrPwr (s : State) (src : Src) (o : Nat) (v : BitVec 32) : Res :=
  if o = 0x20 then .next (s.guarded src .PWR fun s => s.setN .PWR_HOT_THRESH 0 (clampN 400 480 (bitsOf v.toNat 9 0))) else
  match cellOf o 0x100 4 24, cellOf o 0x200 4 80 with
  | some (c, _), _ => execPwrEngClkSet src (Fin.ofNat 24 c) (v.setWidth 5) s
  | none, some (d, _) => .next (s.guarded src .PWR fun s => s.wrDomCtrl d v)
  | none, none => .next s

/-- TIM (spec/04). -/
def State.wrTim (s : State) (src : Src) (o : Nat) (v : BitVec 32) : Res :=
  match o with
  | 0x04 => .next (s.guarded src .TIM fun s =>
      let s := s.wrFields [.TIM_SERVO_KP, .TIM_SERVO_KI, .TIM_PPSOUT_MS, .TIM_PPSOUT_EN, .TIM_STEP_EN] 0 v
      let s := if v.getLsbD 4 then s else { s with tim := { s.tim with ppsHigh := false } }
      (s.wrTimSrc (bitsOf v.toNat 1 0)).wrPtpLock (v.getLsbD 5))
  | 0x20 => .next (s.guarded src .TIM fun s => s.timCmd (bitsOf v.toNat 1 0))
  | 0x30 => execTimAdjFreq src v s
  | _ => .next (if (plainAt .TIM o).isEmpty then s else s.guarded src .TIM fun s => s.storeWord .TIM o v)

/-- PRT (spec/05 R126). -/
def State.wrPrt (s : State) (src : Src) (o : Nat) (v : BitVec 32) : Res :=
  let p := Fin.ofNat 48 (o / 0x2000)
  if 0x60000 ≤ o then .next s else
  match o % 0x2000 with
  | 0x00 => execPrtCfg src p v s
  | 0x04 => execPrtPreCfg src p v s
  | 0x08 => execPrtRedCfg src p v s
  | 0x18 => clrWord src .PRT v s (execPrtCntClr src p)
  | _ => .next s

/-- PAR (spec/06 R161). -/
def State.wrPar (s : State) (src : Src) (o : Nat) (v : BitVec 32) : Res :=
  let k := o / 0x40000
  match o % 0x40000 with
  | 0x04 => .next (s.guarded src .PAR fun s =>
      (s.setB .PAR_DBG_FLAG k (v.getLsbD 12)).setN .PAR_CLK_LIMIT k (max 64 (bitsOf v.toNat 11 0)))
  | 0x34 => clrWord src .PAR v s (execParCntClr src (Fin.ofNat 2 k))
  | _ => s.plain src .PAR o v

/-- CLS (spec/07 R186, R192). -/
def State.wrCls (s : State) (src : Src) (o : Nat) (v : BitVec 32) : Res :=
  match o with
  | 0x04 => execClsCfg src v s
  | 0x10 => .next (s.guarded src .CLS fun s =>
      let ed := bitsOf v.toNat 15 8
      let s := s.setN .CLS_CMD_ED 0 ed
      match bitsOf v.toNat 2 0 with
      | 1 => s.clsStage src
      | 2 => s.clsCommit ed
      | 3 => s.clsAbort
      | 4 => s.clsDiscard
      | _ => s)
  | 0x34 => clrWord src .CLS v s (execClsCntClr src)
  | _ => s.plain src .CLS o v

/-- A word of a command window that only its own source writes (R211, R257, R403). -/
def State.wrWindow (s : State) (src : Src) (b : Block) (w o : Nat) (v : BitVec 32) : Res :=
  .next (if winOf src = some w then s.storeWord b o v else s)

/-- TBL (spec/08). -/
def State.wrTbl (s : State) (src : Src) (o : Nat) (v : BitVec 32) : Res :=
  if o = 0x08 then .next (s.guarded src .TBL fun s =>
      (s.setN .TBL_AGE_TICK_MS 0 (bitsOf v.toNat 31 16)).setN .TBL_AGE_RATE 0 (clampN 1 32 (bitsOf v.toNat 5 0)))
  else if o = 0x14 then .next (s.guarded src .TBL fun s => s.setN .TBL_REHASH_RATE 0 (clampN 256 4096 (bitsOf v.toNat 12 0)))
  else if o = 0x34 then clrWord src .TBL v s (execTblCntClr src)
  else match cellOf o 0x40 0x10 4, cellOf o 0x1000 0x100 5 with
    | some (j, r), _ => if j = 3 then execTblSeedNext src (Fin.ofNat 4 (r / 4)) v s
        else execTblSeed src (Fin.ofNat 3 j) (Fin.ofNat 4 (r / 4)) v s
    | none, some (w, 0) => if bitsOf v.toNat 3 0 = 0 then s.wrWindow src .TBL w o v
        else .next (s.tblStart src w v (bitsOf v.toNat 3 0))
    | none, some (w, _) => s.wrWindow src .TBL w o v
    | none, none => s.plain src .TBL o v

/-- FLW (spec/09). -/
def State.wrFlw (s : State) (src : Src) (o : Nat) (v : BitVec 32) : Res :=
  if o = 0x14 then clrWord src .FLW v s (execFlwCntClr src)
  else match cellOf o 0x100 8 16, cellOf o 0x2000 0x100 5, cellOf o 0x10000 0x20 1024 with
    | some (j, r), _, _ => execFlwKprof src (Fin.ofNat 16 j) (Fin.ofNat 2 (r / 4)) v s
    | none, some (w, 0), _ =>
      let win := Fin.ofNat 5 w
      match bitsOf v.toNat 2 0 with
      | 1 => execRecRead src win v s
      | 2 => execRecWrite src win v s
      | 3 => execRecAlloc src win v s
      | 4 => execRecFree src win v s
      | 5 => execGzRead src win v s
      | 6 => execGzWrite src win v s
      | 0 => s.wrWindow src .FLW w o v
      | _ => .next (s.rcStart src w v false false 0 fun s => s.rcEnd w (some .FLW_E_CMD))
    | none, some (w, _), _ => s.wrWindow src .FLW w o v
    | none, none, some (g, r) => if r < 20 then execFlwLbg src (Fin.ofNat 1024 g) (Fin.ofNat 5 (r / 4)) v s else .next s
    | none, none, none => s.plain src .FLW o v

/-- SAU (spec/10). -/
def State.wrSau (s : State) (src : Src) (o : Nat) (v : BitVec 32) : Res :=
  if o = 0x04 then execSauCfg src v s
  else if o = 0x14 then clrWord src .SAU v s (execSauCntClr src)
  else match cellOf o 0x10000 0x20 4096, cellOf o 0x30000 0x200 512, cellOf o 0x70000 0x20 1024 with
    | some (i, r), _, _ => execSauStCfg src (Fin.ofNat 4096 i) (Fin.ofNat 8 (r / 4)) v s
    | none, some (g, r), _ => execSauJgEn src (Fin.ofNat 512 g) (Fin.ofNat 128 (r / 4)) v s
    | none, none, some (p, r) => execSauPubCfg src (Fin.ofNat 1024 p) (Fin.ofNat 8 (r / 4)) v s
    | none, none, none => s.plain src .SAU o v

/-- SWC (spec/11 R294, R300, R305, R310). -/
def State.wrSwc (s : State) (src : Src) (o : Nat) (v : BitVec 32) : Res :=
  let n := v.toNat
  let insMin (s : State) (i : Nat) : Nat := escOf i + s.rn .SWC_WM_DROP i
  if o = 0x04 then (if v.getLsbD 0 then execSwcLayoutApply src s else .next (s.guarded src .SWC id))
  else if o = 0x84 then clrWord src .SWC v s (execSwcCntClr src)
  else if o = 0x68 then .next (s.guarded src .SWC fun s =>
      (s.setN .SWC_CT_POOL 0 (bitsOf n 17 16)).setN .SWC_HOLD_NS 0 (min 10000 (bitsOf n 13 0)))
  else match cellOf o 0x40 8 4, cellOf o 0x1000 0x40 8, cellOf o 0x20000 8 4096 with
    | some (i, 0), _, _ => .next (s.guarded src .SWC fun s =>
        let s := s.setN .SWC_WM_DROP i (bitsOf n 17 0)
        s.setN .SWC_INS_WM i (max (insMin s i) (s.rn .SWC_INS_WM i)))
    | some (i, 4), _, _ => .next (s.guarded src .SWC fun s => s.setN .SWC_INS_WM i (max (insMin s i) (bitsOf n 17 0)))
    | _, some (i, 0), _ => .next (s.guarded src .SWC fun s =>
        let t := bitsOf n 13 0
        (s.storeWord .SWC o v).setN .SWC_INS_TRUNC i (if t = 0 then 0 else clampN 64 9600 t))
    | _, _, some (g, 4) => execSwcRgMaskH src (Fin.ofNat 4096 g) v s
    | _, _, _ => s.plain src .SWC o v

/-- TMG (spec/12). -/
def State.wrTmg (s : State) (src : Src) (o : Nat) (v : BitVec 32) : Res :=
  if o = 0x14 then clrWord src .TMG v s (execTmgCntClr src) else
  match cellOf o 0x1000 0x20 64, cellOf o 0x2000 0x10 512, cellOf o 0x10000 0x10 4096, cellOf o 0x40000 8 32768 with
  | some (p, r), _, _, _ => execTmgCg src (Fin.ofNat 64 p) (Fin.ofNat 8 (r / 4)) v s
  | _, some (i, r), _, _ => if r < 8 then execShaperConfig src true (Fin.ofNat 4096 i) (Fin.ofNat 2 (r / 4)) v s else .next s
  | _, _, some (i, r), _ => if r < 8 then execShaperConfig src false (Fin.ofNat 4096 i) (Fin.ofNat 2 (r / 4)) v s else .next s
  | _, _, _, some (q, r) => execTmgQCfg src (Fin.ofNat 32768 q) (Fin.ofNat 2 (r / 4)) v s
  | _, _, _, _ => .next s

/-- TSK (spec/14 R407, R403). -/
def State.wrTsk (s : State) (src : Src) (o : Nat) (v : BitVec 32) : Res :=
  if o = 0x04 then .next (s.guardedHere src .TSK fun s =>
      (s.setN .TSK_FAULT_TMO_MS 0 (bitsOf v.toNat 31 16)).setN .TSK_B_MAX 0 (min 15360 (bitsOf v.toNat 14 0)))
  else if o = 0x0C then clrWord src .TSK v s (execTskCntClr src)
  else if o = 0x10 then execTskFbEn src v s
  else match cellOf o 0x1000 0x100 5, cellOf o 0x10000 8 16384 with
    | some (w, 0), _ =>
      let win := Fin.ofNat 5 w
      match bitsOf v.toNat 2 0 with
      | 1 => execInject src win v s
      | 2 => execCtxResume src win v s
      | 3 => execCtxAbort src win v s
      | 4 => execDmaResume src win v s
      | 5 => execDmaAbort src win v s
      | 0 => s.wrWindow src .TSK w o v
      | _ => .next (s.tcStart src w v fun s => s.tcEnd w (some .TSK_E_CMD))
    | some (w, _), _ => s.wrWindow src .TSK w o v
    | none, some (t, 0) => execTskTtEn src (Fin.ofNat 16384 t) v s
    | none, some _ => .next s
    | none, none => s.plain src .TSK o v

/-- MMU (spec/14 R388, R389, R397, R409). -/
def State.wrMmu (s : State) (src : Src) (o : Nat) (v : BitVec 32) : Res :=
  match o with
  | 0x0C => .next (s.guardedHere src .MMU fun s =>
      let n := bitsOf v.toNat 8 0
      let ahead := (n + 512 - s.rn .MMU_FR_TAIL) % 512
      s.setN .MMU_FR_TAIL 0 (if s.ringLevel < ahead then s.rn .MMU_FR_HEAD else n))
  | 0x10 =>
    let a := Fin.ofNat 256 (bitsOf v.toNat 7 0)
    match bitsOf v.toNat 31 30 with
    | 1 => execInvalidateAsid src a s
    | 2 => execInvalidateRange src a s
    | 3 => execInvalidateAll src a s
    | _ => .next (s.guarded src .MMU fun s => s.setN .MMU_INV_ASID 0 a.val)
  | 0x14 | 0x18 => .next (s.guarded src .MMU fun s => s.storeWord .MMU o v)
  | 0x20 => clrWord src .MMU v s (execMmuCntClr src)
  | _ => match cellOf o 0x800 8 256 with
    | some (a, r) => execMmuRoot src (Fin.ofNat 256 a) (r == 4) v s
    | none => s.plain src .MMU o v

/-- AUT (spec/15 R416, R428). -/
def State.wrAut (s : State) (src : Src) (o : Nat) (v : BitVec 32) : Res :=
  if o = 0x24 then clrWord src .AUT v s (execAutCntClr src)
  else if o = 0x40 then
    let i := Fin.ofNat 16384 (bitsOf v.toNat 13 0)
    match bitsOf v.toNat 31 30 with
    | 1 => execKeyLoad src i s
    | 2 => execKeyErase src i s
    | _ => .next (s.held src fun s => s.setN .AUT_KEY_SLOT 0 i.val)
  else .next (if (plainAt .AUT o).isEmpty then s else s.held src fun s => s.storeWord .AUT o v)

/-- The MEM registers that the steward writes in TEST and REPAIR (Table 17.5): the checker's and the repair command. -/
def memTestOnly (o : Nat) : Bool := o = 0x28 || (0x80 ≤ o && o ≤ 0x90)

/-- MEM (spec/16). -/
def State.wrMem (s : State) (src : Src) (o : Nat) (v : BitVec 32) : Res :=
  let n := v.toNat
  let put (f : State → State) : Res :=
    .next (if src == .steward && !s.stewardConducts && !memTestOnly o then s.fenced src else s.guarded src .MEM f)
  match o with
  | 0x04 => put fun s =>
      let up := clampN 70 84 (bitsOf n 23 16)
      (s.setN .MEM_REF_UP_C 0 up).setN .MEM_REF_DN_C 0 (min (up - 3) (bitsOf n 15 8))
  | 0x08 => put fun s =>
      let hi := clampN 16 60 (bitsOf n 31 24)
      ((s.setN .MEM_WQ_HI 0 hi).setN .MEM_WQ_LO 0 (min (hi - 8) (bitsOf n 23 16))).setN .MEM_WQ_AGE_NS 0 (clampN 200 10000 (bitsOf n 15 0))
  | 0x0C => put fun s => (s.wrFields [.MEM_NR_EN, .MEM_NR_DIST] 0 v).setN .MEM_NR_LOG2P 0 (clampN 6 16 (bitsOf n 4 0))
  | 0x28 =>
    match bitsOf n 31 30 with
    | 1 => execTestAll src s
    | 2 => execBurn src s
    | 0 => put id
    | _ => put fun s => s.memRefuse .MEM_RPR_OUT
  | 0x44 => clrWord src .MEM v s fun s => if src == .steward && !s.stewardConducts then .next (s.fenced src) else execMemCntClr src s
  | 0x80 =>
    if !s.guard src .MEM then .next (s.fenced src) else
    let s := s.setN .MEM_CHK_CB 0 (bitsOf n 7 0)
    match bitsOf n 31 30 with
    | 1 => execWriteComputed src s
    | 2 => execWriteRaw src s
    | 3 => execReadRaw src s
    | _ => .next s
  | _ => if (plainAt .MEM o).isEmpty then .next s else put fun s => s.storeWord .MEM o v

/-- Word `n` of the MSI-X table of host `h` written; unmasking a vector with its pending bit set sends the message
(PRESUMED, PCIe: notes/assumptions/6.md). -/
def State.putMsix (s : State) (h n : Nat) (v : BitVec 32) : State :=
  if 8192 ≤ n then s else
  let ctl := n % 4 = 3
  let s := { s with hst := { s.hst with
    msix := s.hst.msix.put (if ctl then 1#32 else 0#32) (h * 8192 + n) (if ctl then v &&& 1#32 else v) } }
  let i := h * 2048 + n / 4
  if ctl && !v.getLsbD 0 && s.hst.pba.get false i then
    { s with hst := { s.hst with pba := s.hst.pba.put false i false, msi := s.hst.msi.upd 0 i (· + 1) } }
  else s

/-- The control word of a vector of the writer's MSI-X table; unmasking sends a pending message (Table 17.1). -/
def State.wrMsix (s : State) (src : Src) (o : Nat) (v : BitVec 32) : State :=
  match src with
  | .host h => s.putMsix h.val ((o - 0x40000) / 4) v
  | _ => s

/-- HST (spec/17 R456, R459, R460, R463, R481). -/
def State.wrHst (s : State) (src : Src) (o : Nat) (v : BitVec 32) : Res :=
  if isMsix .HST o then .next (s.wrMsix src o v)
  else if o = 0x104 then clrWord src .HST v s (execHstCntClr src)
  else match cellOf o 0x400 0x10 64, cellOf o 0x800 0x100 4, cellOf o 0x10000 0x20 4096 with
    | some (g, r), _, _ => if r < 12 then execHstGr src (Fin.ofNat 4 (g / 16)) (Fin.ofNat 16 (g % 16)) (Fin.ofNat 3 (r / 4)) v s else .next s
    | _, some (h, _), _ =>
      .next (match src with
        | .host k => if k.val = h then s.storeWord .HST o v else s.partitionErr src
        | _ => s.partitionErr src)
    | _, _, some (r, w) =>
      if w = 8 then execHstRgEn src (Fin.ofNat 4096 r) v s
      else if w < 16 then execHstRgCfg src (Fin.ofNat 4096 r) (Fin.ofNat 3 (if w = 12 then 2 else w / 4)) v s
      else .next s
    | _, _, _ => .next s

/-! ### Fuses (spec/18 R485, R486, R500) -/

/-- A fuse command is refused with a code. -/
def State.fuseRefused (s : State) (e : Ev) : State :=
  ((s.setN .FUS_PROG_OUT 0 3).setN .FUS_PROG_ERR 0 e.code).raise e

/-- Bits set in a word of the array, but for those of `bad`, which fail. -/
def State.burnWord (s : State) (w : Nat) (d bad : BitVec 32) : State :=
  { s with fus := { s.fus with array := s.fus.array.put 0#32 w (s.fus.array.get 0#32 w ||| (d &&& ~~~bad)) } }

/-- A word that PROGRAM may not write (R485): outside the owner region, or in a sealed one but for bits 1 to 3 of word 72. -/
def State.fuseSealed (s : State) (w : Nat) (d : BitVec 32) : Bool :=
  w < 64 || 128 ≤ w || (ownerSealed s.fus.array && !(w = 72 && (d &&& ~~~0xE#32) = 0#32))

/-- FUS_PROG_OP = 1 (R485): bits of `bad` read back 0. -/
def State.fuseProgram (s : State) (w : Nat) (d bad : BitVec 32) : State :=
  let s := (s.setN .FUS_PROG_WORD 0 w).setReg .FUS_PROG_DATA 0 d
  if !s.progCond then s.fuseRefused .FUS_E_COND
  else if s.fuseSealed w d then s.fuseRefused .FUS_E_SEALED
  else
    let s := s.burnWord w d bad
    if (d &&& ~~~(s.fus.array.get 0#32 w)) ≠ 0#32 then s.fuseRefused .FUS_E_PROG
    else (s.setN .FUS_PROG_OUT 0 2).setN .FUS_PROG_ERR 0 0

/-- Two ranges of numbers meet. -/
def rangesMeet (a m b n : Nat) : Bool := 0 < m && 0 < n && a < b + n && b < a + m

/-- The owner words may be sealed (R486): the array as it would be with the seal marker. -/
def ownerValid (m : SMap (BitVec 32)) : Bool :=
  let m := m.put 0#32 126 0x0000A5A5#32
  let p (h : Nat) : Partition := partitionOf (m.put 0#32 127 (ownerCrc m)) h
  let hs := List.range 4
  let pairs := hs.flatMap fun a => (hs.filter (a < ·)).map fun b => (p a, p b)
  let share := pairs.any fun x => Nat.land x.1.ports x.2.ports ≠ 0 || Nat.land x.1.clusters x.2.clusters ≠ 0 ||
    rangesMeet x.1.qBase x.1.qCnt x.2.qBase x.2.qCnt || rangesMeet x.1.slotBase x.1.slotCnt x.2.slotBase x.2.slotCnt
  let beyond := hs.any fun h => (0 < (p h).qCnt && 32704 < (p h).qBase + (p h).qCnt) ||
    (0 < (p h).slotCnt && 16384 < (p h).slotBase + (p h).slotCnt)
  (List.range' 64 8).any (fun w => m.get 0#32 w ≠ 0#32) && !share && !beyond && hs.any (fun h => (p h).eligible) &&
    !pairs.any fun x => x.1.eligible && x.2.eligible && x.1.prec = x.2.prec

/-- FUS_PROG_OP = 2 (R486). The shadow keeps its values. -/
def State.fuseSeal (s : State) (bad : BitVec 32) : State :=
  if !s.progCond then s.fuseRefused .FUS_E_COND
  else if !ownerValid s.fus.array then s.fuseRefused .FUS_E_OWNER_INVALID
  else
    let crc := ownerCrc (s.fus.array.put 0#32 126 0x0000A5A5#32)
    let s := s.burnWord 127 crc bad
    if s.fus.array.get 0#32 127 ≠ crc then s.fuseRefused .FUS_E_PROG
    else ((s.burnWord 126 0x0000A5A5#32 0).setN .FUS_PROG_OUT 0 2 |>.setN .FUS_PROG_ERR 0 0).raise .FUS_I_SEALED

/-- FUS: the steward in MONITOR alone. Whether each bit programs is the array's matter: a free value. -/
def State.wrFus (s : State) (src : Src) (o : Nat) (v : BitVec 32) : Res :=
  if src != .steward || s.mod.mode != .monitor then .next s else
  match o with
  | 0x04 =>
    let s := s.setN .FUS_PROG_WORD 0 (bitsOf v.toNat 7 0)
    match bitsOf v.toNat 31 30 with
    | 1 => let (f, s) := s.draw; .next (s.fuseProgram (bitsOf v.toNat 7 0) (s.reg .FUS_PROG_DATA) (f.setWidth 32))
    | 2 => let (f, s) := s.draw; .next (s.fuseSeal (f.setWidth 32))
    | _ => .next s
  | 0x08 => .next (s.setReg .FUS_PROG_DATA 0 v)
  | _ => .next s

/-- HEA thresholds (R490, R501): evaluated at once. -/
def State.wrHea (s : State) (src : Src) (o : Nat) (v : BitVec 32) : Res :=
  .next (if (plainAt .HEA o).isEmpty then s
    else if s.isHolder src || (src == .steward && s.mod.holder.isNone) then (s.storeWord .HEA o v).evalReplace
    else s.fenced src)

/-- A 32-bit write at BAR0 address `a` (R8, R12, R470). -/
def State.regWrite (s : State) (src : Src) (a : Nat) (v : BitVec 32) : Res :=
  match blockAt a with
  | none => .next s
  | some (b, o) =>
    let s := s.useRegs b o
    if isW1C b o then .next (s.w1c src b o v) else
    match b with
    | .GLB => s.wrGlb src o v
    | .PWR => s.wrPwr src o v
    | .TIM => s.wrTim src o v
    | .PRT => s.wrPrt src o v
    | .PAR => s.wrPar src o v
    | .CLS => s.wrCls src o v
    | .TBL => s.wrTbl src o v
    | .FLW => s.wrFlw src o v
    | .SAU => s.wrSau src o v
    | .SWC => s.wrSwc src o v
    | .TMG => s.wrTmg src o v
    | .ENG => if o = 0x24 then clrWord src .ENG v s (execEngCntClr src) else .next s
    | .TSK => s.wrTsk src o v
    | .MMU => s.wrMmu src o v
    | .AUT => s.wrAut src o v
    | .MEM => s.wrMem src o v
    | .HST => s.wrHst src o v
    | .FUS => s.wrFus src o v
    | .HEA => s.wrHea src o v

/-- R8: a 32-bit write to a register, under its access code and guard. -/
def execRegisterWrite (src : Src) (a : BitVec 22) (v : BitVec 32) (s : State) : Res := s.regWrite src (4 * a.toNat) v

/-- R8: a W1C write, which uses the domains of its register (R503); a word without W1C bits is not touched by it. -/
def execWriteOneClear (src : Src) (a : BitVec 22) (v : BitVec 32) (s : State) : Res :=
  match blockAt (4 * a.toNat) with
  | some (b, o) => .next (if isW1C b o then (s.useRegs b o).w1c src b o v else s)
  | none => .next s

/-! ### Configuration records (R76) -/

/-- The command that a write at address `a` started for `src` is still in progress. -/
def State.cfgWaits (s : State) (src : Src) (a : Nat) : Bool :=
  match blockAt a, winOf src with
  | some (.CLS, 0x10), _ => s.clsBusy
  | some (.TIM, 0x20), _ => s.tim.cmd ≠ 0
  | some (.MMU, 0x10), _ => s.mmu.inv.isSome
  | some (.AUT, 0x40), _ => s.aut.cmd.isSome
  | some (.TBL, o), some w => o = 0x1000 + 0x100 * w && (s.win w).cmd.isSome
  | _, _ => false

/-- The refusal code in which that command ended, where it has one. -/
def State.cfgOutcome (s : State) (src : Src) (a : Nat) : Option Nat :=
  match blockAt a, winOf src with
  | some (.CLS, 0x10), _ => if s.rn .CLS_CMD_OUT = cmdRefused then some (s.rn .CLS_CMD_ERR) else none
  | some (.AUT, 0x40), _ => if s.rn .AUT_KEY_OUT = 3 then some (s.rn .AUT_KEY_ERR) else none
  | some (.TBL, o), some w => if o = 0x1000 + 0x100 * w && s.rn .TBL_CMD_ERR w ≠ 0 then some (s.rn .TBL_CMD_ERR w) else none
  | _, _ => none

/-- The high byte of a block's event codes (Table 00.4). -/
def blockSs : Block → Nat
  | .GLB => 1 | .PWR => 2 | .TIM => 3 | .PRT => 4 | .PAR => 5 | .CLS => 6 | .TBL => 7 | .FLW => 8 | .SAU => 9 | .SWC => 10
  | .TMG => 11 | .ENG => 12 | .TSK => 13 | .MMU => 14 | .AUT => 15 | .MEM => 16 | .HST => 17 | .HEA => 18 | .FUS => 19

/-- The first error of block `b` among the `n` log records from record `p`. -/
def State.refusalFrom (s : State) (b : Block) (p n : Nat) : Option Nat :=
  ((List.range n).filterMap fun i => (s.logRecs.find ((p + i) % 1024)).map (·.code.toNat)).find? fun c =>
    c / 256 == blockSs b && c % 256 < 0x80

/-- The application stops at record `k` with the code of its refusal. -/
def State.cfgStop (s : State) (k code : Nat) : State :=
  (({ s with img := { s.img with busy := false, cfg := [], wait := none } }.setN .GLB_IMG_OUT 0 3).setN .GLB_IMG_ERR 0 code).raise
    .GLB_E_IMG_CMD k code

/-- The next record is applied by the party that loads the image. -/
def State.cfgNext (s : State) : Res :=
  match s.img.cfg with
  | [] => .next (s.imgEnd none)
  | (a, v) :: rest =>
    let src := s.img.src
    match s.regWrite src a v with
    | .next t =>
      let k := t.img.cfgNo
      let n := (t.reg .GLB_EVT_WPTR - s.reg .GLB_EVT_WPTR).toNat
      match (blockAt a).bind fun b => t.refusalFrom b.1 (s.rn .GLB_EVT_WPTR) (min 1024 n) with
      | some c => .next (t.cfgStop k c)
      | none =>
        let t := { t with img := { t.img with cfg := rest, cfgNo := k + 1, wait := if t.cfgWaits src a then some a else none } }
        .next (if rest.isEmpty && t.img.wait.isNone then t.imgEnd none else t)
    | r => r

/-- R76: one record, after the outcome of the record before; a refusal stops the application. -/
def execConfigRecord (s : State) : Res :=
  if !s.img.busy || (s.img.cfg.isEmpty && s.img.wait.isNone) then .next s else
  match s.img.wait with
  | none => s.cfgNext
  | some a =>
    if s.cfgWaits s.img.src a then .next s
    else match s.cfgOutcome s.img.src a with
      | some c => .next (s.cfgStop (s.img.cfgNo - 1) c)
      | none => { s with img := { s.img with wait := none } }.cfgNext

end Sys2Proof.Machine
end

