-- ==== Sys2Proof/Machine/Monitor.lean ====
section
/-! DEFINITION. The Zujor monitor (spec/18 R493-R495), the burning of retirement flags (R489) and JTAG (R486). -/

namespace Sys2Proof.Machine

open Sys2Proof

/-- The response of the last command: its data and status, 0 for OK or the code of ER. -/
def State.answer (s : State) (status : Nat) (data : List (BitVec 32)) : State :=
  { s with mon := { s.mon with status := BitVec.ofNat 16 status, data := data } }

/-- A command is refused. -/
def State.answerEr (s : State) (e : Ev) : State := s.answer e.code []

/-- A command runs in an open session: outside its modes it is answered 0x1402, and under FO_MON_LOCK 0x1403 unless it is
one of those R495 keeps. -/
def State.monitor (s : State) (kept here : Bool) (f : State → State) : Res :=
  .next (if !s.mon.isOpen then s
    else if s.monLock && !kept then s.answerEr .MON_E_LOCKED
    else if !here then s.answerEr .MON_E_CMD
    else f s)

/-! ### Lines (R494) -/

/-- One bit of the CRC-16 with polynomial 0x1021. -/
def crc16Bit (c : BitVec 16) : BitVec 16 := if c.getLsbD 15 then (c <<< 1) ^^^ 0x1021#16 else c <<< 1

/-- One byte of the CRC-16. -/
def crc16Byte (c : BitVec 16) (b : Byte) : BitVec 16 :=
  crc16Bit (crc16Bit (crc16Bit (crc16Bit (crc16Bit (crc16Bit (crc16Bit (crc16Bit (c ^^^ (b.setWidth 16 <<< 8)))))))))

/-- CRC-16 of a line, initial value 0xFFFF. -/
def crc16 (l : List Byte) : BitVec 16 := l.foldl crc16Byte 0xFFFF#16

/-- An upper-case hexadecimal digit. -/
def hexDigit (n : Nat) : Byte := BitVec.ofNat 8 (if n < 10 then 0x30 + n else 0x37 + n)

/-- The check of a line: its last five characters are "*" and four upper-case hexadecimal digits, and what precedes them. -/
def lineCheck (l : List Byte) : Option (List Byte × List Byte) :=
  let body := l.take (l.length - 5)
  let tail := l.drop (l.length - 5)
  let isHex (b : Byte) : Bool := (0x30 ≤ b.toNat && b.toNat ≤ 0x39) || (0x41 ≤ b.toNat && b.toNat ≤ 0x46)
  if 5 ≤ l.length && tail.head? == some 0x2A#8 && (tail.drop 1).all isHex then some (body, tail.drop 1) else none

/-- R494: a line ended by CR, its LF ignored. `early` characters of it arrived while a command ran. -/
def execMonitorLine (line : List (BitVec 8)) (early : Nat) (s : State) : Res :=
  if !s.mon.isOpen then .next s
  else if 256 < early then .next (s.raise .MON_W_OVERRUN)
  else
    let l := line.filter (· != 0x0A#8)
    if 250 < l.length || l.any (fun b => b.toNat < 0x20 || 0x7E < b.toNat) then
      .next ({ s with mon := { s.mon with crc := false } }.answerEr .MON_E_FRAME)
    else match lineCheck l with
      | none => .next { s with mon := { s.mon with crc := false } }
      | some (body, d) =>
        let c := (crc16 body).toNat
        let ok := d == [hexDigit (c / 4096), hexDigit (c / 256 % 16), hexDigit (c / 16 % 16), hexDigit (c % 16)]
        let s := { s with mon := { s.mon with crc := true } }
        .next (if ok then s else s.answerEr .MON_E_FRAME)

/-! ### Commands (Table 18.5) -/

/-- ID: part, revision, grade, mode, reset cause, epoch. -/
def execId (s : State) : Res :=
  s.monitor true true fun s => s.answer 0
    [s.reg .GLB_PART_NUM, nw (bitsOf (s.fuse 8).toNat 7 0), bw ((s.fuse 8).getLsbD 8), nw s.modeRead, s.reg .GLB_RESET_CAUSE, s.mod.epoch]

/-- A mode change that the monitor requests: LOAD, TEST or REPAIR from MONITOR, DRAIN from ISOLATED (Table 03.2). -/
def State.monMode (s : State) (m t : Nat) : State :=
  let refuse : State := s.modeRefused.answerEr .GLB_E_MODE_REFUSED
  if m = 8 then
    (match drainTargetOf t with
    | some d => if s.settled && s.mod.mode == .isolated then (s.startDrain d).answer 0 [] else refuse
    | none => refuse)
  else if !s.settled || s.mod.mode != .monitor then refuse
  else if m = 4 then (s.enterMode .load).answer 0 []
  else if m = 9 && !s.dbgLock then (s.enterMode .test).answer 0 []
  else if m = 10 then (s.enterMode .repair).answer 0 []
  else refuse

/-- MODE: shows the mode, or requests mode code `m`, for DRAIN with target code `t`. -/
def execMode (m : Option (BitVec 4)) (t : BitVec 4) (s : State) : Res :=
  s.monitor false true fun s => match m with
    | none => s.answer 0 [nw s.modeRead]
    | some m => s.monMode m.toNat t.toNat

/-- RESET: a warm reset of cause 4. -/
def execReset (s : State) : Res := s.monitor true true fun s => (s.answer 0 []).warmStart 4

/-- `n` registers from BAR0 offset `o`, read as the steward. -/
def State.readRegs (s : State) (o : Nat) : Nat → List (BitVec 32) × State
  | 0 => ([], s)
  | n + 1 =>
    let (v, s) := s.regRead .steward o
    let (l, s) := State.readRegs s (o + 4) n
    (v :: l, s)

/-- RD: up to 64 registers. -/
def execRd (o : BitVec 24) (n : BitVec 8) (s : State) : Res :=
  s.monitor true true fun s =>
    if 64 < n.toNat || o.toNat % 4 ≠ 0 then s.answerEr .MON_E_CMD
    else let (l, s) := s.readRegs o.toNat n.toNat; s.answer 0 l

/-- WR: a register write as the steward. -/
def execWr (o : BitVec 24) (v : BitVec 32) (s : State) : Res :=
  s.monitor false true fun s =>
    if o.toNat % 4 ≠ 0 then s.answerEr .MON_E_CMD
    else match s.regWrite .steward o.toNat v with
      | .next t => t.answer 0 []
      | _ => s

/-- EVT: the last records of the event log, oldest first, eight words each. -/
def execEvt (n : BitVec 8) (s : State) : Res :=
  s.monitor true true fun s =>
    if 64 < n.toNat then s.answerEr .MON_E_CMD
    else
      let cnt := min n.toNat s.logRecs.length
      let recAt' (i : Nat) : List (BitVec 32) :=
        let r := s.logRecs.find ((s.rn .GLB_EVT_WPTR + 1024 - cnt + i) % 1024)
        (List.range 8).map fun j => (r.map fun r => wordOf r.bytes j).getD 0
      s.answer 0 ((List.range cnt).flatMap recAt')

/-- CAP: the capacity statement. -/
def execCap (s : State) : Res :=
  s.monitor true true fun s => s.answer 0 ((List.range 4).map fun i => s.wordNow .steward .HEA (0x100 + 4 * i))

/-- HEALTH: HEA_STATUS, HEA_CAUSE and the retirement maps: clusters, lanes, phases. -/
def execHealth (s : State) : Res :=
  s.monitor true true fun s => s.answer 0 ([0x00, 0x04, 0x30, 0x34].map (s.wordNow .steward .HEA ·) ++
    [nw ((List.range 24).foldl (fun a c => if s.clRetired c then a + 2 ^ c else a) 0), s.pwr.phases.setWidth 32])

/-- LOAD: the steward conducts a load from the flash manifest, from its SFDP discovery on (Table 03.8, step 4). -/
def execMonitorLoad (has144 : Bool) (density : Nat) (s : State) : Res :=
  s.monitor false (s.mod.mode == .monitor && s.settled) fun s =>
    match (s.takeSfdp has144 density).readManifest with
    | (none, s) => (s.raise .GLB_E_BOOT).answerEr .GLB_E_BOOT
    | (some l, s) => ((s.takeManifest l true).enterMode .load).answer 0 []

/-- FLASH RD: up to 4,096 bytes, one to a data word. -/
def execFlashRd (a : BitVec 32) (n : BitVec 13) (s : State) : Res :=
  s.monitor false (s.mod.mode == .monitor) fun s =>
    if 4096 < n.toNat then s.answerEr .MON_E_CMD
    else s.answer 0 ((s.flashBytes a.toNat n.toNat).map (BitVec.setWidth 32))

/-- FLASH ER: the 4 KiB sector at `a` is erased. -/
def execFlashEr (a : BitVec 32) (s : State) : Res :=
  s.monitor false (s.mod.mode == .monitor) fun s =>
    { s with flash := s.flash.filter fun e => e.1 / 4096 != a.toNat / 4096 }.answer 0 []

/-- FLASH WR: the data lines are written from `a`. -/
def execFlashWr (a : BitVec 32) (data : List (BitVec 8)) (s : State) : Res :=
  s.monitor false (s.mod.mode == .monitor) fun s =>
    { s with flash := SMap.fill 0xFF#8 s.flash a.toNat data }.answer 0 []

/-- FUSE RD: up to 64 words of the array. -/
def execFuseRd (w : BitVec 8) (n : BitVec 8) (s : State) : Res :=
  s.monitor true true fun s =>
    if 64 < n.toNat || 256 < w.toNat + n.toNat then s.answerEr .MON_E_CMD
    else s.answer 0 (SMap.slice 0#32 s.fus.array w.toNat n.toNat)

/-- The answer to a fuse command is its outcome. -/
def State.fuseAnswer (s : State) : State := s.answer (if s.rn .FUS_PROG_OUT = 3 then s.rn .FUS_PROG_ERR else 0) []

/-- FUSE WR: PROGRAM (R485); the bits of `bad` do not program. -/
def execFuseWr (w : BitVec 8) (v bad : BitVec 32) (s : State) : Res :=
  s.monitor false (s.mod.mode == .monitor) fun s => (s.fuseProgram w.toNat v bad).fuseAnswer

/-- FUSE SEAL (R486). -/
def execFuseSeal (bad : BitVec 32) (s : State) : Res :=
  s.monitor false (s.mod.mode == .monitor) fun s => (s.fuseSeal bad).fuseAnswer

/-- A repair command (R446) and its answer: one that finds another in progress is refused. -/
def State.monRepair (s : State) (op : Nat) : State :=
  if s.rn .MEM_RPR_OUT = 1 then (s.startRepair op).answerEr .MEM_E_CMD else (s.startRepair op).answer 0 []

/-- HBM TEST: TEST_ALL (R446). -/
def execHbmTest (s : State) : Res := s.monitor false (s.mod.mode == .repair) fun s => s.monRepair 1

/-- HBM BURN: BURN (R446). -/
def execHbmBurn (s : State) : Res := s.monitor false (s.mod.mode == .repair) fun s => s.monRepair 2

/-- BAUD n, after its OK line. -/
def execBaud (n : Nat) (s : State) : Res :=
  s.monitor true true fun s =>
    if n < 9600 || 3000000 < n then s.answerEr .MON_E_CMD
    else let t := s.answer 0 []; { t with mon := { t.mon with baud := n, auto := false } }

/-- BAUD AUTO: the next 0x55 is measured. -/
def execBaudAuto (s : State) : Res :=
  s.monitor true true fun s => let t := s.answer 0 []; { t with mon := { t.mon with auto := true } }

/-- R493: a 0x55 sent at `n` baud arrives; its rate is taken to within 1 %, a free value. -/
def execAutobaudCharacter (n : Nat) (s : State) : Res :=
  if !s.mon.isOpen || !s.mon.auto || n < 9600 || 3000000 < n then .next s
  else
    let (f, s) := s.draw
    .next { s with mon := { s.mon with baud := n - n / 100 + f.toNat % (2 * (n / 100) + 1), auto := false } }

/-- R493: no valid 0x55 within 10 s. -/
def execBaudAutoTimeout (s : State) : Res :=
  .next (if s.mon.auto then { s with mon := { s.mon with baud := 115200, auto := false } } else s)

/-- A session alongside traffic ends. -/
def State.closeSession (s : State) : State := { s with mon := { s.mon with isOpen := false, auto := false } }.raise .MON_I_CLOSE

/-- EXIT. -/
def execExit (s : State) : Res := s.monitor true (s.mod.mode != .monitor) fun s => (s.answer 0 []).closeSession

/-- R493: 600 s without input in a session alongside traffic. -/
def execMonitorSessionTimeout (s : State) : Res :=
  .next (if s.mon.isOpen && s.mod.mode != .monitor then s.closeSession else s)

/-! ### Retirement flags (R489) and JTAG (R486) -/

/-- One copy of a flag is burned. -/
def burnFlag (m : SMap (BitVec 32)) (w i : Nat) : SMap (BitVec 32) :=
  m.put 0#32 (w + i / 32) (m.get 0#32 (w + i / 32) ||| BitVec.ofNat 32 (2 ^ (i % 32)))

/-- A burn failed: HEA_C_BURN sets, and REPLACE_N with it (R489, R490). -/
def State.burnCause (s : State) : State :=
  let fresh := !s.rb .HEA_C_BURN
  let s := ((s.setB .HEA_C_BURN 0 true).setB .HEA_REPLACE 0 true).raise .HEA_E_BURN
  if fresh then s.raise .HEA_W_REPLACE s.causeWord else s

/-- R489: the conditions hold and the waiting flags are burned into both copies; the flags of `bad` fail verification. -/
def execHealthBurn (bad : List Nat) (s : State) : Res :=
  if !s.progCond || s.fus.burn.isEmpty then .next s else
  let ok := s.fus.burn.filter fun i => !bad.contains i
  let failed := s.fus.burn.any fun i => bad.contains i
  let arr := ok.foldl (fun m i => burnFlag (burnFlag m 224 i) 240 i) s.fus.array
  let s := { s with fus := { s.fus with array := arr, burn := [] } }.setB .HEA_BURN_PEND 0 false
  .next (if failed then s.burnCause else s)

/-- R486: an instruction is shifted in on the JTAG balls. With FO_DBG_LOCK only BYPASS and IDCODE are executed. -/
def execJtagInstruction (ir : Jtag) (s : State) : Res :=
  if s.dbgLock && !(ir == .bypass || ir == .idcode) then .next s
  else .next { s with mon := { s.mon with jtag := ir } }

end Sys2Proof.Machine
end

