-- ==== Sys2Proof/Machine/RegAccess.lean ====
section
/-! DEFINITION. RGRD and RGWR (spec/13 R364, spec/14 R379): an engine context reads and writes BAR0. -/

namespace Sys2Proof.Machine

open Sys2Proof

/-- RGRD: rd[63:32] takes the register at offset rs1[23:0]. -/
def execRgrd (k : Fin 1536) (w : BitVec 25) (s : State) : Res :=
  .next (s.issue 0x71 k.val w (formF w true true false 0 0) fun s x =>
    let a := (x.rg (rs1Of w)).toNat % 2 ^ 24
    if a % 4 ≠ 0 then s.trapAt k.val 2 0 a
    else if !bitOf x.rcd.perm 2 then s.trapAt k.val 5 0 a
    else
      let (v, s) := s.regRead (.engine k) a
      s.retireRd k.val (rdOf w) (resultWord v.toNat))

/-- A register of TSK or MMU that concerns a template or an address space of the context's own partition (R379). -/
def State.rgwrOwn (s : State) (src : Src) (a : Nat) (v : BitVec 32) : Bool :=
  match blockAt a with
  | some (.TSK, o) => match cellOf o 0x10000 8 16384 with
    | some (t, 0) => s.tmplOwn src t
    | _ => false
  | some (.MMU, o) =>
    if o = 0x10 then bitsOf v.toNat 31 30 ≠ 3 && s.asidOwn src (bitsOf v.toNat 7 0)
    else if o = 0x14 || o = 0x18 then true
    else match cellOf o 0x800 8 256 with
      | some (i, _) => s.asidOwn src i
      | none => false
  | _ => false

/-- The write is to TIM (R104). -/
def isTim (a : Nat) : Bool := match blockAt a with
  | some (.TIM, o) => !(plainAt .TIM o).isEmpty || isW1C .TIM o
  | _ => false

/-- TIM takes a write of context `k`: a W1C word always, any other under R104. -/
def State.timTakes (s : State) (src : Src) (a : Nat) : Bool := match blockAt a with
  | some (.TIM, o) => isW1C .TIM o || s.guard src .TIM
  | _ => false

/-- RGWR: the register at offset rs1[23:0] is written with rs2[31:0]. -/
def execRgwr (k : Fin 1536) (w : BitVec 25) (s : State) : Res :=
  .next (s.issue 0x72 k.val w (formF w true true true 0 0) fun s x =>
    let a := (x.rg (rs1Of w)).toNat % 2 ^ 24
    let v := (x.rg (rs2Of w)).setWidth 32
    let src : Src := .engine k
    let go (s : State) : State := match s.regWrite src a v with
      | .next t => t.retireRd k.val (rdOf w) 0
      | _ => s
    if a % 4 ≠ 0 then s.trapAt k.val 2 0 a true
    else if !bitOf x.rcd.perm 3 then s.trapAt k.val 5 0 a true
    else if isTim a then (if s.timTakes src a then go s else s.retireRd k.val (rdOf w) (codeWord .HST_E_FENCED))
    else if s.rgwrOwn src a v then go s
    else s.trapAt k.val 5 0 a true)

end Sys2Proof.Machine
end

