-- ==== Sys2Proof/Machine/Scalar.lean ====
section
/-! DEFINITION. The meanings of the scalar and branch instructions (spec/13 R346, R347). -/

namespace Sys2Proof.Machine

open Sys2Proof

/-- A register instruction of form A: rd gets a function of rs1 and rs2. -/
def State.aluA (s : State) (op : Nat) (k : Fin 1536) (w : BitVec 25) (f : BitVec 64 → BitVec 64 → BitVec 64) : State :=
  s.issue op k.val w (fnOf10 w == 0) fun s x => s.retireRd k.val (rdOf w) (f (x.rg (rs1Of w)) (x.rg (rs2Of w)))

/-- A register instruction of form A that reads rs1 only; `ok` checks fn. -/
def State.aluU (s : State) (op : Nat) (k : Fin 1536) (w : BitVec 25) (ok : Bool) (f : BitVec 64 → BitVec 64) : State :=
  s.issue op k.val w (ok && rs2Of w == 0) fun s x => s.retireRd k.val (rdOf w) (f (x.rg (rs1Of w)))

/-- An instruction of form B: rd gets a function of rs1 and the immediate; `ok` checks the immediate. -/
def State.aluB (s : State) (op : Nat) (k : Fin 1536) (w : BitVec 25) (ok : Bool) (f : BitVec 64 → BitVec 64 → BitVec 64) : State :=
  s.issue op k.val w ok fun s x => s.retireRd k.val (rdOf w) (f (x.rg (rs1Of w)) (imm15 w))

/-- The immediate of a shift: imm15[14:6] is 0. -/
def shiftOk (w : BitVec 25) : Bool := w.extractLsb' 6 9 == 0

/-- A relative target: PC + 4 × displacement. -/
def relPc (pc : Nat) (d : BitVec 64) : Nat := (BitVec.ofNat 64 pc + 4 * d).toNat

/-- A conditional branch. -/
def State.branch (s : State) (op : Nat) (k : Fin 1536) (w : BitVec 25) (c : Cond) : State :=
  s.issue op k.val w true fun s x =>
    s.retire k.val x (if c.holds (x.rg (rs1D w)) (x.rg (rs2D w)) then relPc x.pc (imm15 w) else x.pc + 4)

/-- ADD: rd ← rs1 + rs2. -/
def execAdd (k : Fin 1536) (w : BitVec 25) (s : State) : Res := .next (s.aluA 0x01 k w (fun a b => a + b))

/-- SUB: rd ← rs1 − rs2. -/
def execSub (k : Fin 1536) (w : BitVec 25) (s : State) : Res := .next (s.aluA 0x02 k w (fun a b => a - b))

/-- AND: rd ← rs1 & rs2. -/
def execAnd (k : Fin 1536) (w : BitVec 25) (s : State) : Res := .next (s.aluA 0x03 k w (fun a b => a &&& b))

/-- OR: rd ← rs1 | rs2. -/
def execOr (k : Fin 1536) (w : BitVec 25) (s : State) : Res := .next (s.aluA 0x04 k w (fun a b => a ||| b))

/-- XOR: rd ← rs1 ^ rs2. -/
def execXor (k : Fin 1536) (w : BitVec 25) (s : State) : Res := .next (s.aluA 0x05 k w (fun a b => a ^^^ b))

/-- SLL: rd ← rs1 << rs2[5:0]. -/
def execSll (k : Fin 1536) (w : BitVec 25) (s : State) : Res := .next (s.aluA 0x06 k w (fun a b => a <<< (b.toNat % 64)))

/-- SRL: rd ← rs1 >> rs2[5:0], logical. -/
def execSrl (k : Fin 1536) (w : BitVec 25) (s : State) : Res := .next (s.aluA 0x07 k w (fun a b => a >>> (b.toNat % 64)))

/-- SRA: rd ← rs1 >> rs2[5:0], arithmetic. -/
def execSra (k : Fin 1536) (w : BitVec 25) (s : State) : Res := .next (s.aluA 0x08 k w (fun a b => a.sshiftRight (b.toNat % 64)))

/-- CMPLT: rd ← 1 if rs1 < rs2 signed, else 0. -/
def execCmplt (k : Fin 1536) (w : BitVec 25) (s : State) : Res := .next (s.aluA 0x09 k w (fun a b => if a.slt b then 1 else 0))

/-- CMPLTU: as CMPLT, unsigned. -/
def execCmpltu (k : Fin 1536) (w : BitVec 25) (s : State) : Res := .next (s.aluA 0x0A k w (fun a b => if a.ult b then 1 else 0))

/-- MIN: signed minimum. -/
def execMin (k : Fin 1536) (w : BitVec 25) (s : State) : Res := .next (s.aluA 0x0B k w (fun a b => if b.slt a then b else a))

/-- MAX: signed maximum. -/
def execMax (k : Fin 1536) (w : BitVec 25) (s : State) : Res := .next (s.aluA 0x0C k w (fun a b => if a.slt b then b else a))

/-- MINU: unsigned minimum. -/
def execMinu (k : Fin 1536) (w : BitVec 25) (s : State) : Res := .next (s.aluA 0x0D k w (fun a b => if b.ult a then b else a))

/-- MAXU: unsigned maximum. -/
def execMaxu (k : Fin 1536) (w : BitVec 25) (s : State) : Res := .next (s.aluA 0x0E k w (fun a b => if a.ult b then b else a))

/-- MUL: low 64 bits of rs1 × rs2. -/
def execMul (k : Fin 1536) (w : BitVec 25) (s : State) : Res := .next (s.aluA 0x0F k w (fun a b => a * b))

/-- MULH: high 64 bits, signed. -/
def execMulh (k : Fin 1536) (w : BitVec 25) (s : State) : Res := .next (s.aluA 0x10 k w mulHiS)

/-- MULHU: high 64 bits, unsigned. -/
def execMulhu (k : Fin 1536) (w : BitVec 25) (s : State) : Res := .next (s.aluA 0x11 k w mulHiU)

/-- DIV: quotient, signed (R347). -/
def execDiv (k : Fin 1536) (w : BitVec 25) (s : State) : Res := .next (s.aluA 0x12 k w divS)

/-- DIVU: quotient, unsigned (R347). -/
def execDivu (k : Fin 1536) (w : BitVec 25) (s : State) : Res := .next (s.aluA 0x13 k w divU)

/-- REM: remainder, signed (R347). -/
def execRem (k : Fin 1536) (w : BitVec 25) (s : State) : Res := .next (s.aluA 0x14 k w remS)

/-- REMU: remainder, unsigned (R347). -/
def execRemu (k : Fin 1536) (w : BitVec 25) (s : State) : Res := .next (s.aluA 0x15 k w remU)

/-- CLZ: leading zeros of rs1. -/
def execClz (k : Fin 1536) (w : BitVec 25) (s : State) : Res := .next (s.aluU 0x16 k w (fnOf10 w == 0) clz)

/-- POPC: number of 1 bits of rs1. -/
def execPopc (k : Fin 1536) (w : BitVec 25) (s : State) : Res := .next (s.aluU 0x17 k w (fnOf10 w == 0) popc)

/-- BSWAP: byte reversal of rs1: fn 0 all 8 bytes, 1 the low 4, 2 the low 2. -/
def execBswap (k : Fin 1536) (w : BitVec 25) (s : State) : Res := .next (s.aluU 0x18 k w (decide (fnOf10 w ≤ 2)) (bswap (if fnOf10 w = 0 then 8 else if fnOf10 w = 1 then 4 else 2)))

/-- ADDI: rd ← rs1 + sext(imm15). -/
def execAddi (k : Fin 1536) (w : BitVec 25) (s : State) : Res := .next (s.aluB 0x20 k w true (fun a b => a + b))

/-- ANDI: rd ← rs1 & sext(imm15). -/
def execAndi (k : Fin 1536) (w : BitVec 25) (s : State) : Res := .next (s.aluB 0x21 k w true (fun a b => a &&& b))

/-- ORI: rd ← rs1 | sext(imm15). -/
def execOri (k : Fin 1536) (w : BitVec 25) (s : State) : Res := .next (s.aluB 0x22 k w true (fun a b => a ||| b))

/-- XORI: rd ← rs1 ^ sext(imm15). -/
def execXori (k : Fin 1536) (w : BitVec 25) (s : State) : Res := .next (s.aluB 0x23 k w true (fun a b => a ^^^ b))

/-- SLLI: shift left by imm15[5:0]. -/
def execSlli (k : Fin 1536) (w : BitVec 25) (s : State) : Res := .next (s.aluB 0x24 k w (shiftOk w) (fun a b => a <<< (b.toNat % 64)))

/-- SRLI: shift right, logical. -/
def execSrli (k : Fin 1536) (w : BitVec 25) (s : State) : Res := .next (s.aluB 0x25 k w (shiftOk w) (fun a b => a >>> (b.toNat % 64)))

/-- SRAI: shift right, arithmetic. -/
def execSrai (k : Fin 1536) (w : BitVec 25) (s : State) : Res := .next (s.aluB 0x26 k w (shiftOk w) (fun a b => a.sshiftRight (b.toNat % 64)))

/-- CMPLTI: rd ← 1 if rs1 < sext(imm15) signed, else 0. -/
def execCmplti (k : Fin 1536) (w : BitVec 25) (s : State) : Res := .next (s.aluB 0x27 k w true (fun a b => if a.slt b then 1 else 0))

/-- IMMH: rd ← sext(imm20) << 16. -/
def execImmh (k : Fin 1536) (w : BitVec 25) (s : State) : Res :=
  .next (s.issue 0x28 k.val w true fun s _ => s.retireRd k.val (rdOf w) (imm20 w <<< 16))

/-- BRL: rd ← PC + 4; PC ← PC + 4 × sext(imm20). -/
def execBrl (k : Fin 1536) (w : BitVec 25) (s : State) : Res :=
  .next (s.issue 0x29 k.val w true fun s x => s.retire k.val (x.wr (rdOf w) (BitVec.ofNat 64 (x.pc + 4))) (relPc x.pc (imm20 w)))

/-- JRL: rd ← PC + 4; PC ← rs1 + sext(imm15), which must be a multiple of 4. -/
def execJrl (k : Fin 1536) (w : BitVec 25) (s : State) : Res :=
  .next (s.issue 0x2A k.val w true fun s x =>
    let t := x.ea w
    if t.toNat % 4 ≠ 0 then s.trapAt k.val 2 0 t.toNat
    else s.retire k.val (x.wr (rdOf w) (BitVec.ofNat 64 (x.pc + 4))) t.toNat)

/-- BREQ: branch if equal. -/
def execBreq (k : Fin 1536) (w : BitVec 25) (s : State) : Res := .next (s.branch 0x40 k w .eq)

/-- BRNE: branch if not equal. -/
def execBrne (k : Fin 1536) (w : BitVec 25) (s : State) : Res := .next (s.branch 0x41 k w .ne)

/-- BRLT: branch if less, signed. -/
def execBrlt (k : Fin 1536) (w : BitVec 25) (s : State) : Res := .next (s.branch 0x42 k w .lt)

/-- BRGE: branch if greater or equal, signed. -/
def execBrge (k : Fin 1536) (w : BitVec 25) (s : State) : Res := .next (s.branch 0x43 k w .ge)

/-- BRLTU: branch if less, unsigned. -/
def execBrltu (k : Fin 1536) (w : BitVec 25) (s : State) : Res := .next (s.branch 0x44 k w .ltu)

/-- BRGEU: branch if greater or equal, unsigned. -/
def execBrgeu (k : Fin 1536) (w : BitVec 25) (s : State) : Res := .next (s.branch 0x45 k w .geu)

end Sys2Proof.Machine
end

