-- ==== Sys2Proof/Machine/F32.lean ====
section
/-! DEFINITION. binary32 arithmetic of the vector unit (spec/13 R350, R351): exact sums of products rounded once to nearest
even, subnormals flushed with their sign, one NaN. -/

namespace Sys2Proof.Machine

/-- A value: NaN, an infinity, or ±m × 2^e; a zero keeps its sign. -/
inductive Fp where
  | nan
  | inf (neg : Bool)
  | num (neg : Bool) (m : Nat) (e : Int)
  deriving DecidableEq, Repr

/-- The value of a binary32 word; a subnormal reads as a zero of its sign. -/
def Fp.ofBits (w : Nat) : Fp :=
  let neg : Bool := w / 2 ^ 31 % 2 == 1
  let ex : Nat := w / 2 ^ 23 % 256
  let fr : Nat := w % 2 ^ 23
  if ex = 255 then (if fr = 0 then .inf neg else .nan)
  else if ex = 0 then .num neg 0 0
  else .num neg (2 ^ 23 + fr) ((ex : Int) - 150)

/-- The value of an integer times 2^e. -/
def Fp.ofInt (i e : Int) : Fp := .num (decide (i < 0)) i.natAbs e

/-- The exact product. -/
def Fp.mul : Fp → Fp → Fp
  | .nan, _ => .nan
  | _, .nan => .nan
  | .inf a, .inf b => .inf (a != b)
  | .inf a, .num b m _ => if m = 0 then .nan else .inf (a != b)
  | .num a m _, .inf b => if m = 0 then .nan else .inf (a != b)
  | .num a m e, .num b n f => .num (a != b) (m * n) (e + f)

/-- The value with its sign reversed. -/
def Fp.neg : Fp → Fp
  | .nan => .nan
  | .inf a => .inf !a
  | .num a m e => .num (!a) m e

/-- The exact sum of two values; a sum of zero is +0 unless both are negative. -/
def Fp.add : Fp → Fp → Fp
  | .nan, _ => .nan
  | _, .nan => .nan
  | .inf a, .inf b => if a = b then .inf a else .nan
  | .inf a, .num _ _ _ => .inf a
  | .num _ _ _, .inf b => .inf b
  | .num a m e, .num b n f =>
    let g := min e f
    let x : Int := (m * 2 ^ (e - g).toNat : Nat)
    let y : Int := (n * 2 ^ (f - g).toNat : Nat)
    let t := (if a then -x else x) + (if b then -y else y)
    if t = 0 then .num (a && b) 0 0 else .num (decide (t < 0)) t.natAbs g

/-- m / 2^d rounded to nearest even. -/
def rne (m d : Nat) : Nat :=
  let q := m / 2 ^ d
  let r := m % 2 ^ d
  if 2 * r < 2 ^ d || (2 * r = 2 ^ d && q % 2 = 0) then q else q + 1

/-- The word a value rounds to. -/
def Fp.bits : Fp → Nat
  | .nan => 0x7FC00000
  | .inf a => (if a then 2 ^ 31 else 0) + 0x7F800000
  | .num a m e =>
    let s := if a then 2 ^ 31 else 0
    if m = 0 then s else
    let q : Int := max ((m.log2 : Int) + e - 23) (-149)
    let n := if q ≤ e then m * 2 ^ (e - q).toNat else rne m (q - e).toNat
    let (n, q) := if n = 2 ^ 24 then (2 ^ 23, q + 1) else (n, q)
    if n < 2 ^ 23 then s
    else if 105 ≤ q then s + 0x7F800000
    else s + (q + 150).toNat * 2 ^ 23 + (n - 2 ^ 23)

/-- A value rounded to a binary32 value. -/
def Fp.round (x : Fp) : Fp := Fp.ofBits x.bits

/-- A value times 2^s as an i32, rounded to nearest even and saturated; NaN gives 0 (R350, kind 1). -/
def Fp.toI32 (x : Fp) (s : Int) : Int :=
  let sat (i : Int) : Int := if i < -2147483648 then -2147483648 else if 2147483647 < i then 2147483647 else i
  match x with
  | .nan => 0
  | .inf a => if a then -2147483648 else 2147483647
  | .num a m e =>
    let e := e + s
    let n := if 0 ≤ e then m * 2 ^ e.toNat else rne m (-e).toNat
    sat (if a then -(n : Int) else n)

end Sys2Proof.Machine
end

