-- ==== Sys2Proof/Machine/Vector.lean ====
section
/-! DEFINITION. The meanings of the vector arithmetic instructions (spec/13 R350, R351). -/

namespace Sys2Proof.Machine

open Sys2Proof

/-! ### Lanes (Table 13.6) -/

/-- Lane `i` of `n` bits. -/
def lane (n : Nat) (v : BitVec 256) (i : Nat) : Nat := v.toNat / 2 ^ (n * i) % 2 ^ n

/-- A register of lanes of `n` bits, lane 0 first. -/
def packLanes (n : Nat) (l : List Nat) : BitVec 256 := BitVec.ofNat 256 (l.foldr (fun x r => r * 2 ^ n + x % 2 ^ n) 0)

/-- A register whose lane i of `n` bits is f i. -/
def genLanes (n : Nat) (f : Nat → Nat) : BitVec 256 := packLanes n ((List.range (256 / n)).map f)

/-- The binary32 value of 32-bit element `i`. -/
def elF (v : BitVec 256) (i : Nat) : Fp := Fp.ofBits (lane 32 v i)

/-- A binary32 function lane by lane. -/
def mapF (f : Fp → Fp → Fp) (a b : BitVec 256) : BitVec 256 := genLanes 32 fun i => (f (elF a i) (elF b i)).bits

/-- Wrapping integer functions lane by lane of `n` bits. -/
def mapI (n : Nat) (f : Nat → Nat → Nat) (a b : BitVec 256) : BitVec 256 := genLanes n fun i => f (lane n a i) (lane n b i)

/-- VADD under a type. -/
def vAdd (t : Nat) (a b : BitVec 256) : BitVec 256 :=
  if t = 0 then mapI 32 (· + ·) a b else if t = 3 then mapI 16 (· + ·) a b else mapF Fp.add a b

/-- VSUB under a type. -/
def vSub (t : Nat) (a b : BitVec 256) : BitVec 256 :=
  if t = 0 then mapI 32 (fun x y => x + 2 ^ 32 - y) a b else if t = 3 then mapI 16 (fun x y => x + 2 ^ 16 - y) a b
  else mapF (fun x y => x.add y.neg) a b

/-- VMUL under a type. -/
def vMul (t : Nat) (a b : BitVec 256) : BitVec 256 :=
  if t = 0 then mapI 32 (· * ·) a b else if t = 3 then mapI 16 (· * ·) a b else mapF Fp.mul a b

/-- VMAC under a type; how type 1 rounds is open (Config.vmacFused). -/
def vMac (t : Nat) (d a b : BitVec 256) : BitVec 256 :=
  if t = 1 then genLanes 32 fun i =>
    let p := (elF a i).mul (elF b i)
    ((elF d i).add (if Config.vmacFused then p else p.round)).bits
  else vAdd t d (vMul t a b)

/-- Complex register from functions of the lane: real and imaginary parts. -/
def genC (f : Nat → Fp × Fp) : BitVec 256 := genLanes 32 fun i => (if i % 2 = 0 then (f (i / 2)).1 else (f (i / 2)).2).bits

/-- Exact real and imaginary parts of a product. -/
def cMul (ar ai br bi : Fp) : Fp × Fp := ((ar.mul br).add (ai.mul bi).neg, (ar.mul bi).add (ai.mul br))

/-- The operations of R351 on lane k. -/
def laneMul (a b : BitVec 256) (k : Nat) : Fp × Fp := cMul (elF a (2 * k)) (elF a (2 * k + 1)) (elF b (2 * k)) (elF b (2 * k + 1))
def laneMac (d a b : BitVec 256) (k : Nat) : Fp × Fp :=
  let p := laneMul a b k
  ((elF d (2 * k)).add p.1, (elF d (2 * k + 1)).add p.2)
def laneDfts (d a b : BitVec 256) (k : Nat) : Fp × Fp :=
  let sr := ((elF d (2 * k)).add (elF b (2 * k))).round
  let si := ((elF d (2 * k + 1)).add (elF b (2 * k + 1))).round
  cMul sr si (elF a (2 * k)) (elF a (2 * k + 1))
def laneDfta (d a b : BitVec 256) (k : Nat) : Fp × Fp :=
  let p := laneMul d a k
  (p.1.add (elF b (2 * k)), p.2.add (elF b (2 * k + 1)))

/-- VCVT of kinds 0 to 2 with scale `s` (R350). -/
def vCvt (kind s : Nat) (v : BitVec 256) : BitVec 256 :=
  let flt (i : Nat) : Nat := (Fp.ofInt (signed 32 (lane 32 v i)) (-(s : Int))).bits
  if kind = 0 then genLanes 32 flt
  else if kind = 1 then genLanes 32 fun i => unsignedOf 32 ((elF v i).toI32 s)
  else genLanes 32 fun i => if i % 2 = 0 then flt i else 0

/-- Sum of values, rounded after each addition, lane 0 upward. -/
def sumF : List Fp → Fp
  | [] => .num false 0 0
  | x :: t => t.foldl (fun a y => (a.add y).round) x

/-- VRED under a type. -/
def vRed (t : Nat) (v : BitVec 256) : BitVec 64 :=
  let ints (n : Nat) : Int := (List.range (256 / n)).foldl (fun a i => a + signed n (lane n v i)) 0
  if t = 0 then BitVec.ofInt 64 (ints 32)
  else if t = 3 then BitVec.ofInt 64 (ints 16)
  else if t = 1 then BitVec.ofNat 64 (sumF ((List.range 8).map (elF v))).bits
  else BitVec.ofNat 64 ((sumF ((List.range 4).map fun k => elF v (2 * k))).bits +
    (sumF ((List.range 4).map fun k => elF v (2 * k + 1))).bits * 2 ^ 32)

/-- Lane width and count of a type for VSPLAT and VMOVG. -/
def laneBits (t : Nat) : Nat := if t = 2 then 64 else if t = 3 then 16 else 32

/-- A lane as g receives it: types 0 and 3 sign-extend. -/
def laneG (t : Nat) (v : BitVec 256) (i : Nat) : BitVec 64 :=
  if t = 0 || t = 3 then BitVec.ofInt 64 (signed (laneBits t) (lane (laneBits t) v i)) else BitVec.ofNat 64 (lane (laneBits t) v i)

/-! ### Instructions -/

/-- A vector instruction: vd gets a function of its old value, va and vb. -/
def State.vec (s : State) (op : Nat) (k : Fin 1536) (w : BitVec 25) (ok : Bool) (f : BitVec 256 → BitVec 256 → BitVec 256 → BitVec 256) : State :=
  s.issue op k.val w ok fun s x =>
    s.retire k.val (x.wv (vdOf w) (f (x.rv (vdOf w)) (x.rv (vaOf w)) (x.rv (vbOf w)))) (x.pc + 4)

/-- Fields of an arithmetic instruction with a type of fn[1:0]; `cplx` says that type 2 is defined. -/
def typedOk (w : BitVec 25) (cplx : Bool) : Bool := formE w true true true false && decide (fnE w < 4) && (cplx || fnE w != 2)

/-- Fields of a complex instruction: fn = 0. -/
def cplxOk (w : BitVec 25) : Bool := formE w true true true false && fnE w == 0

/-- VADD. -/
def execVadd (k : Fin 1536) (w : BitVec 25) (s : State) : Res := .next (s.vec 0x52 k w (typedOk w true) fun _ a b => vAdd (fnE w) a b)

/-- VSUB. -/
def execVsub (k : Fin 1536) (w : BitVec 25) (s : State) : Res := .next (s.vec 0x53 k w (typedOk w true) fun _ a b => vSub (fnE w) a b)

/-- VMUL. -/
def execVmul (k : Fin 1536) (w : BitVec 25) (s : State) : Res := .next (s.vec 0x54 k w (typedOk w false) fun _ a b => vMul (fnE w) a b)

/-- VMAC. -/
def execVmac (k : Fin 1536) (w : BitVec 25) (s : State) : Res := .next (s.vec 0x55 k w (typedOk w false) fun d a b => vMac (fnE w) d a b)

/-- VCMUL. -/
def execVcmul (k : Fin 1536) (w : BitVec 25) (s : State) : Res := .next (s.vec 0x56 k w (cplxOk w) fun _ a b => genC (laneMul a b))

/-- VCMAC. -/
def execVcmac (k : Fin 1536) (w : BitVec 25) (s : State) : Res := .next (s.vec 0x57 k w (cplxOk w) fun d a b => genC (laneMac d a b))

/-- VDFTS. -/
def execVdfts (k : Fin 1536) (w : BitVec 25) (s : State) : Res := .next (s.vec 0x58 k w (cplxOk w) fun d a b => genC (laneDfts d a b))

/-- VDFTA. -/
def execVdfta (k : Fin 1536) (w : BitVec 25) (s : State) : Res := .next (s.vec 0x59 k w (cplxOk w) fun d a b => genC (laneDfta d a b))

/-- VCVT; kind 3 raises ILLEGAL. -/
def execVcvt (k : Fin 1536) (w : BitVec 25) (s : State) : Res :=
  .next (s.vec 0x5A k w (formE w true true false false && fnE w % 4 != 3) fun _ a _ => vCvt (fnE w % 4) (fnE w / 4) a)

/-- VMAG2: vd[k] ← (re² + im², 0). -/
def execVmag2 (k : Fin 1536) (w : BitVec 25) (s : State) : Res :=
  .next (s.vec 0x5C k w (formE w true true false false && fnE w == 0) fun _ a _ => genC fun i =>
    (((elF a (2 * i)).mul (elF a (2 * i))).add ((elF a (2 * i + 1)).mul (elF a (2 * i + 1))), .num false 0 0))

/-- VRED: g[rs] ← the sum of the lanes of va. -/
def execVred (k : Fin 1536) (w : BitVec 25) (s : State) : Res :=
  .next (s.issue 0x5B k.val w (formE w false true false true && decide (fnE w < 4)) fun s x =>
    s.retireRd k.val (rsE w) (vRed (fnE w) (x.rv (vaOf w))))

/-- VSPLAT: every lane of vd ← g[rs]. -/
def execVsplat (k : Fin 1536) (w : BitVec 25) (s : State) : Res :=
  .next (s.issue 0x5D k.val w (formE w true false false true && decide (fnE w < 4)) fun s x =>
    s.retire k.val (x.wv (vdOf w) (genLanes (laneBits (fnE w)) fun _ => (x.rg (rsE w)).toNat)) (x.pc + 4))

/-- VMOVG: g[rs] ← lane fn[7:4] of va. -/
def execVmovg (k : Fin 1536) (w : BitVec 25) (s : State) : Res :=
  .next (s.issue 0x5E k.val w (formE w false true false true && fnE w / 4 % 4 == 0 && decide (fnE w / 16 < 256 / laneBits (fnE w % 4))) fun s x =>
    s.retireRd k.val (rsE w) (laneG (fnE w % 4) (x.rv (vaOf w)) (fnE w / 16)))

end Sys2Proof.Machine
end

