-- ==== Sys2Proof/Machine/Dispatch.lean ====
section
/-! DEFINITION. The dispatch of a command to its meaning, one arm per constructor of Instr. -/

namespace Sys2Proof.Machine

open Sys2Proof

def exec (i : Instr) (s : State) : Host.Outcome State Fault Refusal :=
  match i with
  | .powerOnReset vaonFell lowNs => Sys2Proof.Machine.execPowerOnReset vaonFell lowNs s
  | .porRelease straps => Sys2Proof.Machine.execPorRelease straps s
  | .vinUndervoltage mv => Sys2Proof.Machine.execVinUndervoltage mv s
  | .vinLowExcursion mv => Sys2Proof.Machine.execVinLowExcursion mv s
  | .bootEntry mv => Sys2Proof.Machine.execBootEntry mv s
  | .warmReset lowNs => Sys2Proof.Machine.execWarmReset lowNs s
  | .stewardWatchdog => Sys2Proof.Machine.execStewardWatchdog s
  | .monReq lowNs => Sys2Proof.Machine.execMonReq lowNs s
  | .slowclkLost => Sys2Proof.Machine.execSlowclkLost s
  | .slowclkReturn => Sys2Proof.Machine.execSlowclkReturn s
  | .timebaseChangeover => Sys2Proof.Machine.execTimebaseChangeover s
  | .dieTempSample tdie tcase iin pin => Sys2Proof.Machine.execDieTempSample tdie tcase iin pin s
  | .safeHoldExit => Sys2Proof.Machine.execSafeHoldExit s
  | .currentLimitStep => Sys2Proof.Machine.execCurrentLimitStep s
  | .currentLimitRestore => Sys2Proof.Machine.execCurrentLimitRestore s
  | .phaseFail ix => Sys2Proof.Machine.execPhaseFail ix s
  | .pllLock ix => Sys2Proof.Machine.execPllLock ix s
  | .pwrEngClkSet src c v => Sys2Proof.Machine.execPwrEngClkSet src c v s
  | .pwrDomReq src d v => Sys2Proof.Machine.execPwrDomReq src d v s
  | .pwrDomCgOnly src c v => Sys2Proof.Machine.execPwrDomCgOnly src c v s
  | .clusterPowerGate c => Sys2Proof.Machine.execClusterPowerGate c s
  | .wakeInterval => Sys2Proof.Machine.execWakeInterval s
  | .domainWakeDone d => Sys2Proof.Machine.execDomainWakeDone d s
  | .runRequest src => Sys2Proof.Machine.execRunRequest src s
  | .standbyRequest src => Sys2Proof.Machine.execStandbyRequest src s
  | .drainRequest src target => Sys2Proof.Machine.execDrainRequest src target s
  | .drainCancel src => Sys2Proof.Machine.execDrainCancel src s
  | .drainComplete => Sys2Proof.Machine.execDrainComplete s
  | .drainForced => Sys2Proof.Machine.execDrainForced s
  | .standbySaveDone => Sys2Proof.Machine.execStandbySaveDone s
  | .standbyWakeSideband h => Sys2Proof.Machine.execStandbyWakeSideband h s
  | .standbyWakeTime => Sys2Proof.Machine.execStandbyWakeTime s
  | .standbyRestoreDone crcOk => Sys2Proof.Machine.execStandbyRestoreDone crcOk s
  | .bootStartupDone => Sys2Proof.Machine.execBootStartupDone s
  | .sfdpDiscoveryDone has144 density => Sys2Proof.Machine.execSfdpDiscoveryDone has144 density s
  | .manifestReadDone => Sys2Proof.Machine.execManifestReadDone s
  | .stewardLoadDone => Sys2Proof.Machine.execStewardLoadDone s
  | .hbmTrainDone ok => Sys2Proof.Machine.execHbmTrainDone ok s
  | .hbmPassDone => Sys2Proof.Machine.execHbmPassDone s
  | .glbResetGo src v => Sys2Proof.Machine.execGlbResetGo src v s
  | .subsysResetPort src p => Sys2Proof.Machine.execSubsysResetPort src p s
  | .subsysResetCluster src c => Sys2Proof.Machine.execSubsysResetCluster src c s
  | .subsysResetGraticule src => Sys2Proof.Machine.execSubsysResetGraticule src s
  | .subsysResetTms src => Sys2Proof.Machine.execSubsysResetTms src s
  | .subsysResetAuth src => Sys2Proof.Machine.execSubsysResetAuth src s
  | .subsysResetDone => Sys2Proof.Machine.execSubsysResetDone s
  | .imageLoad src op => Sys2Proof.Machine.execImageLoad src op s
  | .imageLoadDone => Sys2Proof.Machine.execImageLoadDone s
  | .configRecord => Sys2Proof.Machine.execConfigRecord s
  | .set src => Sys2Proof.Machine.execSet src s
  | .step src => Sys2Proof.Machine.execStep src s
  | .setAtPps src => Sys2Proof.Machine.execSetAtPps src s
  | .timCommandEffect => Sys2Proof.Machine.execTimCommandEffect s
  | .ppsEdge sub => Sys2Proof.Machine.execPpsEdge sub s
  | .ppsLost => Sys2Proof.Machine.execPpsLost s
  | .holdoverEnd => Sys2Proof.Machine.execHoldoverEnd s
  | .timSrc src v => Sys2Proof.Machine.execTimSrc src v s
  | .timPtpLock src v => Sys2Proof.Machine.execTimPtpLock src v s
  | .timAdjFreq src v => Sys2Proof.Machine.execTimAdjFreq src v s
  | .ppsOutRise => Sys2Proof.Machine.execPpsOutRise s
  | .ppsOutFall => Sys2Proof.Machine.execPpsOutFall s
  | .refwRateChange => Sys2Proof.Machine.execRefwRateChange s
  | .refreshWindow => Sys2Proof.Machine.execRefreshWindow s
  | .memTempSample temp => Sys2Proof.Machine.execMemTempSample temp s
  | .frameReceive p frame fcsOk pre fecCorr fecUncorr => Sys2Proof.Machine.execFrameReceive p frame fcsOk pre fecCorr fecUncorr s
  | .expressOffer p first => Sys2Proof.Machine.execExpressOffer p first s
  | .prtCfg src p v => Sys2Proof.Machine.execPrtCfg src p v s
  | .prtPreCfg src p v => Sys2Proof.Machine.execPrtPreCfg src p v s
  | .prtRedCfg src p v => Sys2Proof.Machine.execPrtRedCfg src p v s
  | .prtCntClr src p => Sys2Proof.Machine.execPrtCntClr src p s
  | .linkUp p => Sys2Proof.Machine.execLinkUp p s
  | .linkDown p => Sys2Proof.Machine.execLinkDown p s
  | .autonegComplete p mbps => Sys2Proof.Machine.execAutonegComplete p mbps s
  | .linkBringupFail p => Sys2Proof.Machine.execLinkBringupFail p s
  | .verifySend p => Sys2Proof.Machine.execVerifySend p s
  | .verifyResponse p => Sys2Proof.Machine.execVerifyResponse p s
  | .verifyFail p => Sys2Proof.Machine.execVerifyFail p s
  | .windowForget ix => Sys2Proof.Machine.execWindowForget ix s
  | .partnerEntryExpire ix => Sys2Proof.Machine.execPartnerEntryExpire ix s
  | .lanLoss ix => Sys2Proof.Machine.execLanLoss ix s
  | .preempt p sent => Sys2Proof.Machine.execPreempt p sent s
  | .replicaTransmitted p ecc => Sys2Proof.Machine.execReplicaTransmitted p ecc s
  | .pipelineEntry k port => Sys2Proof.Machine.execPipelineEntry k port s
  | .laneAcquire k lane => Sys2Proof.Machine.execLaneAcquire k lane s
  | .parseRestart k lane => Sys2Proof.Machine.execParseRestart k lane s
  | .microword k lane => Sys2Proof.Machine.execMicroword k lane s
  | .waitTimeout k lane => Sys2Proof.Machine.execWaitTimeout k lane s
  | .parseLimit k lane => Sys2Proof.Machine.execParseLimit k lane s
  | .patternScanDone k lane => Sys2Proof.Machine.execPatternScanDone k lane s
  | .parCsScrub k w upsets => Sys2Proof.Machine.execParCsScrub k w upsets s
  | .parCntClr src k => Sys2Proof.Machine.execParCntClr src k s
  | .classify k express => Sys2Proof.Machine.execClassify k express s
  | .parkDetach id => Sys2Proof.Machine.execParkDetach id s
  | .fragmentTimeout ix => Sys2Proof.Machine.execFragmentTimeout ix s
  | .ruleScrub bankB ix upset => Sys2Proof.Machine.execRuleScrub bankB ix upset s
  | .clsCfg src v => Sys2Proof.Machine.execClsCfg src v s
  | .clsStage src => Sys2Proof.Machine.execClsStage src s
  | .clsCommit src ed => Sys2Proof.Machine.execClsCommit src ed s
  | .clsAbort src => Sys2Proof.Machine.execClsAbort src s
  | .clsDiscard src => Sys2Proof.Machine.execClsDiscard src s
  | .stageComplete abortNow => Sys2Proof.Machine.execStageComplete abortNow s
  | .installStart => Sys2Proof.Machine.execInstallStart s
  | .installDone => Sys2Proof.Machine.execInstallDone s
  | .editionSwitch abortNow => Sys2Proof.Machine.execEditionSwitch abortNow s
  | .editionDrainBound => Sys2Proof.Machine.execEditionDrainBound s
  | .clsCntClr src => Sys2Proof.Machine.execClsCntClr src s
  | .forwardDecision k => Sys2Proof.Machine.execForwardDecision k s
  | .learnApply => Sys2Proof.Machine.execLearnApply s
  | .search src win v => Sys2Proof.Machine.execSearch src win v s
  | .next src win v => Sys2Proof.Machine.execNext src win v s
  | .insert src win v => Sys2Proof.Machine.execInsert src win v s
  | .delete src win v => Sys2Proof.Machine.execDelete src win v s
  | .flushPort src win v => Sys2Proof.Machine.execFlushPort src win v s
  | .flushAll src win v => Sys2Proof.Machine.execFlushAll src win v s
  | .ageScan src win v => Sys2Proof.Machine.execAgeScan src win v s
  | .rehash src win v => Sys2Proof.Machine.execRehash src win v s
  | .resume src win v => Sys2Proof.Machine.execResume src win v s
  | .abort src win v => Sys2Proof.Machine.execAbort src win v s
  | .tmsRoutine abandonAt abortLate => Sys2Proof.Machine.execTmsRoutine abandonAt abortLate s
  | .journalSettle aonErr => Sys2Proof.Machine.execJournalSettle aonErr s
  | .tblSeed src j k v => Sys2Proof.Machine.execTblSeed src j k v s
  | .tblSeedNext src k v => Sys2Proof.Machine.execTblSeedNext src k v s
  | .flowClearDone => Sys2Proof.Machine.execFlowClearDone s
  | .ageTick => Sys2Proof.Machine.execAgeTick s
  | .ageVisit l2 => Sys2Proof.Machine.execAgeVisit l2 s
  | .ageDelete => Sys2Proof.Machine.execAgeDelete s
  | .tblCntClr src => Sys2Proof.Machine.execTblCntClr src s
  | .flowLookup k => Sys2Proof.Machine.execFlowLookup k s
  | .flowInsertApply => Sys2Proof.Machine.execFlowInsertApply s
  | .writeBack r => Sys2Proof.Machine.execWriteBack r s
  | .recordQuarantineEnd r => Sys2Proof.Machine.execRecordQuarantineEnd r s
  | .freeListRebuildDone => Sys2Proof.Machine.execFreeListRebuildDone s
  | .gooseTalExpiry r => Sys2Proof.Machine.execGooseTalExpiry r s
  | .recRead src win v => Sys2Proof.Machine.execRecRead src win v s
  | .recWrite src win v => Sys2Proof.Machine.execRecWrite src win v s
  | .recAlloc src win v => Sys2Proof.Machine.execRecAlloc src win v s
  | .recFree src win v => Sys2Proof.Machine.execRecFree src win v s
  | .gzRead src win v => Sys2Proof.Machine.execGzRead src win v s
  | .gzWrite src win v => Sys2Proof.Machine.execGzWrite src win v s
  | .flwKprof src j hi v => Sys2Proof.Machine.execFlwKprof src j hi v s
  | .flwLbg src g word v => Sys2Proof.Machine.execFlwLbg src g word v s
  | .flwCntClr src => Sys2Proof.Machine.execFlwCntClr src s
  | .sampleDelivery k => Sys2Proof.Machine.execSampleDelivery k s
  | .sliceOpen g => Sys2Proof.Machine.execSliceOpen g s
  | .sliceDeadline g => Sys2Proof.Machine.execSliceDeadline g s
  | .streamLoss st => Sys2Proof.Machine.execStreamLoss st s
  | .sauJgEn src g word v => Sys2Proof.Machine.execSauJgEn src g word v s
  | .sauStCfg src st word v => Sys2Proof.Machine.execSauStCfg src st word v s
  | .sauPubCfg src p word v => Sys2Proof.Machine.execSauPubCfg src p word v s
  | .sauCfg src v => Sys2Proof.Machine.execSauCfg src v s
  | .sauCntClr src => Sys2Proof.Machine.execSauCntClr src s
  | .gooseRetransmit => Sys2Proof.Machine.execGooseRetransmit s
  | .poolRequest => Sys2Proof.Machine.execPoolRequest s
  | .protectedHoldExpiry k => Sys2Proof.Machine.execProtectedHoldExpiry k s
  | .replicate k => Sys2Proof.Machine.execReplicate k s
  | .swcLayoutApply src => Sys2Proof.Machine.execSwcLayoutApply src s
  | .swcRgMaskH src g v => Sys2Proof.Machine.execSwcRgMaskH src g v s
  | .swcCntClr src => Sys2Proof.Machine.execSwcCntClr src s
  | .queueSelect p pre => Sys2Proof.Machine.execQueueSelect p pre s
  | .headDiscard q => Sys2Proof.Machine.execHeadDiscard q s
  | .tmgCg src p t v => Sys2Proof.Machine.execTmgCg src p t v s
  | .tmgQCfg src q word v => Sys2Proof.Machine.execTmgQCfg src q word v s
  | .shaperConfig src gs ix word v => Sys2Proof.Machine.execShaperConfig src gs ix word v s
  | .fineWheelSlot => Sys2Proof.Machine.execFineWheelSlot s
  | .overflowWheelSlot => Sys2Proof.Machine.execOverflowWheelSlot s
  | .tagSweep => Sys2Proof.Machine.execTagSweep s
  | .tmgCntClr src => Sys2Proof.Machine.execTmgCntClr src s
  | .add k w => Sys2Proof.Machine.execAdd k w s
  | .sub k w => Sys2Proof.Machine.execSub k w s
  | .and k w => Sys2Proof.Machine.execAnd k w s
  | .or k w => Sys2Proof.Machine.execOr k w s
  | .xor k w => Sys2Proof.Machine.execXor k w s
  | .sll k w => Sys2Proof.Machine.execSll k w s
  | .srl k w => Sys2Proof.Machine.execSrl k w s
  | .sra k w => Sys2Proof.Machine.execSra k w s
  | .cmplt k w => Sys2Proof.Machine.execCmplt k w s
  | .cmpltu k w => Sys2Proof.Machine.execCmpltu k w s
  | .min k w => Sys2Proof.Machine.execMin k w s
  | .max k w => Sys2Proof.Machine.execMax k w s
  | .minu k w => Sys2Proof.Machine.execMinu k w s
  | .maxu k w => Sys2Proof.Machine.execMaxu k w s
  | .mul k w => Sys2Proof.Machine.execMul k w s
  | .mulh k w => Sys2Proof.Machine.execMulh k w s
  | .mulhu k w => Sys2Proof.Machine.execMulhu k w s
  | .div k w => Sys2Proof.Machine.execDiv k w s
  | .divu k w => Sys2Proof.Machine.execDivu k w s
  | .rem k w => Sys2Proof.Machine.execRem k w s
  | .remu k w => Sys2Proof.Machine.execRemu k w s
  | .clz k w => Sys2Proof.Machine.execClz k w s
  | .popc k w => Sys2Proof.Machine.execPopc k w s
  | .bswap k w => Sys2Proof.Machine.execBswap k w s
  | .addi k w => Sys2Proof.Machine.execAddi k w s
  | .andi k w => Sys2Proof.Machine.execAndi k w s
  | .ori k w => Sys2Proof.Machine.execOri k w s
  | .xori k w => Sys2Proof.Machine.execXori k w s
  | .slli k w => Sys2Proof.Machine.execSlli k w s
  | .srli k w => Sys2Proof.Machine.execSrli k w s
  | .srai k w => Sys2Proof.Machine.execSrai k w s
  | .cmplti k w => Sys2Proof.Machine.execCmplti k w s
  | .immh k w => Sys2Proof.Machine.execImmh k w s
  | .brl k w => Sys2Proof.Machine.execBrl k w s
  | .jrl k w => Sys2Proof.Machine.execJrl k w s
  | .ldb k w => Sys2Proof.Machine.execLdb k w s
  | .ldbu k w => Sys2Proof.Machine.execLdbu k w s
  | .ldh k w => Sys2Proof.Machine.execLdh k w s
  | .ldhu k w => Sys2Proof.Machine.execLdhu k w s
  | .ldw k w => Sys2Proof.Machine.execLdw k w s
  | .ldwu k w => Sys2Proof.Machine.execLdwu k w s
  | .ldd k w => Sys2Proof.Machine.execLdd k w s
  | .stb k w => Sys2Proof.Machine.execStb k w s
  | .sth k w => Sys2Proof.Machine.execSth k w s
  | .stw k w => Sys2Proof.Machine.execStw k w s
  | .std k w => Sys2Proof.Machine.execStd k w s
  | .xadd k w => Sys2Proof.Machine.execXadd k w s
  | .cas k w => Sys2Proof.Machine.execCas k w s
  | .breq k w => Sys2Proof.Machine.execBreq k w s
  | .brne k w => Sys2Proof.Machine.execBrne k w s
  | .brlt k w => Sys2Proof.Machine.execBrlt k w s
  | .brge k w => Sys2Proof.Machine.execBrge k w s
  | .brltu k w => Sys2Proof.Machine.execBrltu k w s
  | .brgeu k w => Sys2Proof.Machine.execBrgeu k w s
  | .vld k w => Sys2Proof.Machine.execVld k w s
  | .vst k w => Sys2Proof.Machine.execVst k w s
  | .vadd k w => Sys2Proof.Machine.execVadd k w s
  | .vsub k w => Sys2Proof.Machine.execVsub k w s
  | .vmul k w => Sys2Proof.Machine.execVmul k w s
  | .vmac k w => Sys2Proof.Machine.execVmac k w s
  | .vcmul k w => Sys2Proof.Machine.execVcmul k w s
  | .vcmac k w => Sys2Proof.Machine.execVcmac k w s
  | .vdfts k w => Sys2Proof.Machine.execVdfts k w s
  | .vdfta k w => Sys2Proof.Machine.execVdfta k w s
  | .vcvt k w => Sys2Proof.Machine.execVcvt k w s
  | .vred k w => Sys2Proof.Machine.execVred k w s
  | .vmag2 k w => Sys2Proof.Machine.execVmag2 k w s
  | .vsplat k w => Sys2Proof.Machine.execVsplat k w s
  | .vmovg k w => Sys2Proof.Machine.execVmovg k w s
  | .emit k w => Sys2Proof.Machine.execEmit k w s
  | .await k w => Sys2Proof.Machine.execAwait k w s
  | .commit k w => Sys2Proof.Machine.execCommit k w s
  | .pkalloc k w => Sys2Proof.Machine.execPkalloc k w s
  | .pkrd k w => Sys2Proof.Machine.execPkrd k w s
  | .pkwr k w => Sys2Proof.Machine.execPkwr k w s
  | .pksend k w => Sys2Proof.Machine.execPksend k w s
  | .pkres k w => Sys2Proof.Machine.execPkres k w s
  | .pkdisc k w => Sys2Proof.Machine.execPkdisc k w s
  | .bfree k w => Sys2Proof.Machine.execBfree k w s
  | .brel k w => Sys2Proof.Machine.execBrel k w s
  | .auth k w => Sys2Proof.Machine.execAuth k w s
  | .gpub k w => Sys2Proof.Machine.execGpub k w s
  | .tmset k w => Sys2Proof.Machine.execTmset k w s
  | .tmcan k w => Sys2Proof.Machine.execTmcan k w s
  | .dmaq k w => Sys2Proof.Machine.execDmaq k w s
  | .dmaw k w => Sys2Proof.Machine.execDmaw k w s
  | .rgrd k w => Sys2Proof.Machine.execRgrd k w s
  | .rgwr k w => Sys2Proof.Machine.execRgwr k w s
  | .mfs k w => Sys2Proof.Machine.execMfs k w s
  | .fence k w => Sys2Proof.Machine.execFence k w s
  | .trap k w => Sys2Proof.Machine.execTrap k w s
  | .continuationDelivery k => Sys2Proof.Machine.execContinuationDelivery k s
  | .timerFire c n => Sys2Proof.Machine.execTimerFire c n s
  | .engMemScrub m word upset => Sys2Proof.Machine.execEngMemScrub m word upset s
  | .engCntClr src => Sys2Proof.Machine.execEngCntClr src s
  | .tokenArrival tmpl pos tag v pin k => Sys2Proof.Machine.execTokenArrival tmpl pos tag v pin k s
  | .dispatch c => Sys2Proof.Machine.execDispatch c s
  | .matchTimeout n => Sys2Proof.Machine.execMatchTimeout n s
  | .budgetExhausted k => Sys2Proof.Machine.execBudgetExhausted k s
  | .tskTtEn src t v => Sys2Proof.Machine.execTskTtEn src t v s
  | .inject src win v => Sys2Proof.Machine.execInject src win v s
  | .ctxResume src win v => Sys2Proof.Machine.execCtxResume src win v s
  | .ctxAbort src win v => Sys2Proof.Machine.execCtxAbort src win v s
  | .dmaResume src win v => Sys2Proof.Machine.execDmaResume src win v s
  | .dmaAbort src win v => Sys2Proof.Machine.execDmaAbort src win v s
  | .tskFbEn src v => Sys2Proof.Machine.execTskFbEn src v s
  | .tskCntClr src => Sys2Proof.Machine.execTskCntClr src s
  | .invalidateAsid src a => Sys2Proof.Machine.execInvalidateAsid src a s
  | .invalidateRange src a => Sys2Proof.Machine.execInvalidateRange src a s
  | .invalidateAll src a => Sys2Proof.Machine.execInvalidateAll src a s
  | .invalidationDone => Sys2Proof.Machine.execInvalidationDone s
  | .mmuRoot src a hi v => Sys2Proof.Machine.execMmuRoot src a hi v s
  | .mmuCntClr src => Sys2Proof.Machine.execMmuCntClr src s
  | .dmaSuspend c q absent host => Sys2Proof.Machine.execDmaSuspend c q absent host s
  | .dmaOutcome c q host => Sys2Proof.Machine.execDmaOutcome c q host s
  | .priResponse c q r => Sys2Proof.Machine.execPriResponse c q r s
  | .priTimeout c q => Sys2Proof.Machine.execPriTimeout c q s
  | .faultHoldTimeout k q => Sys2Proof.Machine.execFaultHoldTimeout k q s
  | .keyLoad src ix => Sys2Proof.Machine.execKeyLoad src ix s
  | .keyErase src ix => Sys2Proof.Machine.execKeyErase src ix s
  | .keyCommit => Sys2Proof.Machine.execKeyCommit s
  | .authComplete ix => Sys2Proof.Machine.execAuthComplete ix s
  | .inlineVerifyResult k => Sys2Proof.Machine.execInlineVerifyResult k s
  | .autCntClr src => Sys2Proof.Machine.execAutCntClr src s
  | .memScrub blk upsets => Sys2Proof.Machine.execMemScrub blk upsets s
  | .remap => Sys2Proof.Machine.execRemap s
  | .testAll src => Sys2Proof.Machine.execTestAll src s
  | .burn src => Sys2Proof.Machine.execBurn src s
  | .repairDone rows spares => Sys2Proof.Machine.execRepairDone rows spares s
  | .writeComputed src => Sys2Proof.Machine.execWriteComputed src s
  | .writeRaw src => Sys2Proof.Machine.execWriteRaw src s
  | .readRaw src => Sys2Proof.Machine.execReadRaw src s
  | .memCntClr src => Sys2Proof.Machine.execMemCntClr src s
  | .claim src termMs rivals => Sys2Proof.Machine.execClaim src termMs rivals s
  | .renew src termMs => Sys2Proof.Machine.execRenew src termMs s
  | .leaseRelease src => Sys2Proof.Machine.execLeaseRelease src s
  | .leaseLapse => Sys2Proof.Machine.execLeaseLapse s
  | .doorbell src r v => Sys2Proof.Machine.execDoorbell src r v s
  | .hstRgEn src r v => Sys2Proof.Machine.execHstRgEn src r v s
  | .hstRgCfg src r word v => Sys2Proof.Machine.execHstRgCfg src r word v s
  | .hstGr src h n word v => Sys2Proof.Machine.execHstGr src h n word v s
  | .bar4Access h write off len data => Sys2Proof.Machine.execBar4Access h write off len data s
  | .txSend r desc frame err => Sys2Proof.Machine.execTxSend r desc frame err s
  | .txResume r desc => Sys2Proof.Machine.execTxResume r desc s
  | .txDiscard r desc => Sys2Proof.Machine.execTxDiscard r desc s
  | .txCompletion r => Sys2Proof.Machine.execTxCompletion r s
  | .rxDelivery h addr buflen => Sys2Proof.Machine.execRxDelivery h addr buflen s
  | .interruptHoldoff r => Sys2Proof.Machine.execInterruptHoldoff r s
  | .flr h => Sys2Proof.Machine.execFlr h s
  | .hostLinkUp h gen3 => Sys2Proof.Machine.execHostLinkUp h gen3 s
  | .hostLinkDown h => Sys2Proof.Machine.execHostLinkDown h s
  | .atsInvalidate h => Sys2Proof.Machine.execAtsInvalidate h s
  | .hstCntClr src => Sys2Proof.Machine.execHstCntClr src s
  | .healthBurn bad => Sys2Proof.Machine.execHealthBurn bad s
  | .monitorLine line early => Sys2Proof.Machine.execMonitorLine line early s
  | .id => Sys2Proof.Machine.execId s
  | .mode m t => Sys2Proof.Machine.execMode m t s
  | .reset => Sys2Proof.Machine.execReset s
  | .rd o n => Sys2Proof.Machine.execRd o n s
  | .wr o v => Sys2Proof.Machine.execWr o v s
  | .evt n => Sys2Proof.Machine.execEvt n s
  | .cap => Sys2Proof.Machine.execCap s
  | .health => Sys2Proof.Machine.execHealth s
  | .monitorLoad has144 density => Sys2Proof.Machine.execMonitorLoad has144 density s
  | .flashRd a n => Sys2Proof.Machine.execFlashRd a n s
  | .flashEr a => Sys2Proof.Machine.execFlashEr a s
  | .flashWr a data => Sys2Proof.Machine.execFlashWr a data s
  | .fuseRd w n => Sys2Proof.Machine.execFuseRd w n s
  | .fuseWr w v bad => Sys2Proof.Machine.execFuseWr w v bad s
  | .fuseSeal bad => Sys2Proof.Machine.execFuseSeal bad s
  | .hbmTest => Sys2Proof.Machine.execHbmTest s
  | .hbmBurn => Sys2Proof.Machine.execHbmBurn s
  | .baud n => Sys2Proof.Machine.execBaud n s
  | .baudAuto => Sys2Proof.Machine.execBaudAuto s
  | .baudAutoTimeout => Sys2Proof.Machine.execBaudAutoTimeout s
  | .exit => Sys2Proof.Machine.execExit s
  | .monitorSessionTimeout => Sys2Proof.Machine.execMonitorSessionTimeout s
  | .latchRead src a => Sys2Proof.Machine.execLatchRead src a s
  | .readClear src a => Sys2Proof.Machine.execReadClear src a s
  | .writeOneClear src a v => Sys2Proof.Machine.execWriteOneClear src a v s
  | .registerWrite src a v => Sys2Proof.Machine.execRegisterWrite src a v s
  | .warmResetComplete => Sys2Proof.Machine.execWarmResetComplete s
  | .dormantEntryComplete => Sys2Proof.Machine.execDormantEntryComplete s
  | .autobaudCharacter n => Sys2Proof.Machine.execAutobaudCharacter n s
  | .pcieConfigWrite h ats pri bme => Sys2Proof.Machine.execPcieConfigWrite h ats pri bme s
  | .jtagInstruction ir => Sys2Proof.Machine.execJtagInstruction ir s
  | .linkStateRequest h cl => Sys2Proof.Machine.execLinkStateRequest h cl s

end Sys2Proof.Machine
end

