-- ==== Sys2Proof/Safety.lean ====
section
/-! DEFINITION. The terms the statements are made in: a command completes, what it changes and nothing else; and what holds of the block in every state a step leads to: the control lease fits the mode (spec/03 R54, R55, spec/17 R469), the HBM content stands in its one canonical form, and a fuse bit never goes back to 0 (spec/18 R483). -/

namespace Sys2Proof.Machine

open Sys2Proof

/-- The command completes: the machine answers a next state, and that state satisfies `P`. -/
def Completes (c : Instr) (s : State) (P : State → Prop) : Prop := ∃ t : State, exec c s = .next t ∧ P t

/-- The parts of the state a frame speaks of: each field of State, the registers of a block, the 64-bit counters of a block. -/
inductive Part where
  | pwr | mod | boot | img | fus | mon | tim | hst | hbm | pkts | nextPkt | prt | par | cls | gaz | tbl | flw
  | swc | tmg | tsk | aut | sau | eng | mmu | pkm | latch | logRecs | limits | rdVal | flash | freeCtr | pending
  | reg (b : Block)
  | ctr (b : Block)
  deriving DecidableEq, Repr

/-- The part reads the same in both states. -/
def Part.same (s t : State) : Part → Prop
  | .pwr => t.pwr = s.pwr
  | .mod => t.mod = s.mod
  | .boot => t.boot = s.boot
  | .img => t.img = s.img
  | .fus => t.fus = s.fus
  | .mon => t.mon = s.mon
  | .tim => t.tim = s.tim
  | .hst => t.hst = s.hst
  | .hbm => t.hbm = s.hbm
  | .pkts => t.pkts = s.pkts
  | .nextPkt => t.nextPkt = s.nextPkt
  | .prt => t.prt = s.prt
  | .par => t.par = s.par
  | .cls => t.cls = s.cls
  | .gaz => t.gaz = s.gaz
  | .tbl => t.tbl = s.tbl
  | .flw => t.flw = s.flw
  | .swc => t.swc = s.swc
  | .tmg => t.tmg = s.tmg
  | .tsk => t.tsk = s.tsk
  | .aut => t.aut = s.aut
  | .sau => t.sau = s.sau
  | .eng => t.eng = s.eng
  | .mmu => t.mmu = s.mmu
  | .pkm => t.pkm = s.pkm
  | .latch => t.latch = s.latch
  | .logRecs => t.logRecs = s.logRecs
  | .limits => t.limits = s.limits
  | .rdVal => t.rdVal = s.rdVal
  | .flash => t.flash = s.flash
  | .freeCtr => t.freeCtr = s.freeCtr
  | .pending => t.pending = s.pending
  | .reg b => ∀ (f : Field) (i : Nat), f.info.block = b → t.reg f i = s.reg f i
  | .ctr b => ∀ (c : Ctr) (i : Nat), c.info.block = b → t.ctr c i = s.ctr c i

/-- From `s` to `t` nothing changes but the parts of the list. -/
def changesOnly (l : List Part) (s t : State) : Prop := ∀ p : Part, p ∉ l → p.same s t

/-- From `s` to `t` no register field changes but the elements of the list. -/
def regsOnly (l : List (Field × Nat)) (s t : State) : Prop := ∀ (f : Field) (i : Nat), (f, i) ∉ l → t.reg f i = s.reg f i

/-- The record an event leaves in the log: the time, the code and the two items (R476). -/
def evRecord (e : Ev) (a0 a1 : Nat) (s : State) : LogRec :=
  ⟨BitVec.ofNat 32 s.sec, BitVec.ofNat 32 s.nsec, BitVec.ofNat 16 e.code, BitVec.ofNat 32 a0, BitVec.ofNat 64 a1⟩

/-- From `s` to `t` the event was raised once and no other was: its record stands where GLB_EVT_WPTR pointed, and
GLB_EVT_WPTR has moved on by one (R476). -/
def Raised (e : Ev) (a0 a1 : Nat) (s t : State) : Prop :=
  t.reg .GLB_EVT_WPTR 0 = s.reg .GLB_EVT_WPTR 0 + 1#32 ∧
  t.logRecs = s.logRecs.set (s.rn .GLB_EVT_WPTR % 1024) (evRecord e a0 a1 s)

/-- The newest record of the log is one of this event. -/
def LastEvent (e : Ev) (a0 a1 : Nat) (t : State) : Prop :=
  t.logRecs.find ((t.reg .GLB_EVT_WPTR 0 - 1#32).toNat % 1024) = some (evRecord e a0 a1 t)

/-- From `s` to `t` no event was raised. -/
def NoEvent (s t : State) : Prop := t.reg .GLB_EVT_WPTR 0 = s.reg .GLB_EVT_WPTR 0 ∧ t.logRecs = s.logRecs

/-- The register fields an event writes (R476): GLB_EVT_WPTR, and element `i` of its status bit. -/
def evRegs (e : Ev) (i : Nat) : List (Field × Nat) :=
  (.GLB_EVT_WPTR, 0) :: match e.stat with
    | some f => [(f, i)]
    | none => []

/-- A write of configuration or a command of a block, with its source and the block whose guard it passes (R104, R161, R192,
R230, R261, R290, R316, R334, R366, R386, R407, R408, R451, R475). -/
def guardBlock : Instr → Option (Src × Block)
  | .pwrEngClkSet src _ _ | .pwrDomReq src _ _ | .pwrDomCgOnly src _ _ => some (src, .PWR)
  | .set src | .step src | .setAtPps src | .timSrc src _ | .timPtpLock src _ | .timAdjFreq src _ => some (src, .TIM)
  | .prtCfg src _ _ | .prtPreCfg src _ _ | .prtRedCfg src _ _ => some (src, .PRT)
  | .parCntClr src _ => some (src, .PAR)
  | .clsCfg src _ | .clsStage src | .clsCommit src _ | .clsAbort src | .clsDiscard src | .clsCntClr src => some (src, .CLS)
  | .tblSeed src _ _ _ | .tblSeedNext src _ _ | .tblCntClr src => some (src, .TBL)
  | .flwKprof src _ _ _ | .flwLbg src _ _ _ | .flwCntClr src => some (src, .FLW)
  | .sauCfg src _ | .sauCntClr src => some (src, .SAU)
  | .sauJgEn src _ w _ => if (jgFields w.val).isEmpty then none else some (src, .SAU)
  | .sauStCfg src _ w _ => if 4 ≤ w.val then none else some (src, .SAU)
  | .sauPubCfg src _ w _ => if 3 ≤ w.val then none else some (src, .SAU)
  | .swcLayoutApply src | .swcRgMaskH src _ _ | .swcCntClr src => some (src, .SWC)
  | .tmgCg src _ _ _ | .tmgQCfg src _ _ _ | .shaperConfig src _ _ _ _ | .tmgCntClr src => some (src, .TMG)
  | .engCntClr src => some (src, .ENG)
  | .tskTtEn src _ _ | .tskFbEn src _ | .tskCntClr src => some (src, .TSK)
  | .invalidateAsid src _ | .invalidateRange src _ | .invalidateAll src _ | .mmuRoot src _ _ _ | .mmuCntClr src => some (src, .MMU)
  | .testAll src | .burn src | .writeComputed src | .writeRaw src | .readRaw src | .memCntClr src => some (src, .MEM)
  | .imageLoad src _ => some (src, .GLB)
  | _ => none

/-- A command only the lease holder gives, with its source (R54, R62, R65, R66, R413, R451, R459). -/
def leaseSrc : Instr → Option Src
  | .runRequest src | .standbyRequest src | .drainRequest src _ | .drainCancel src | .glbResetGo src _ => some src
  | .subsysResetPort src _ | .subsysResetCluster src _ | .subsysResetGraticule src | .subsysResetTms src | .subsysResetAuth src => some src
  | .keyLoad src _ | .keyErase src _ | .autCntClr src | .hstCntClr src | .hstGr src _ _ _ _ => some src
  | _ => none

/-- From `s` to `t` the 64-bit counters of the block are cleared and no other counter changes. -/
def ctrsCleared (b : Block) (s t : State) : Prop :=
  (∀ (c : Ctr) (i : Nat), c.info.block = b → t.ctr c i = 0#64) ∧ (∀ (c : Ctr) (i : Nat), c.info.block ≠ b → t.ctr c i = s.ctr c i)

/-- Every byte of the stack reads as before. -/
def sameHbm (s t : State) : Prop := ∀ a : Nat, t.hbmByte a = s.hbmByte a

/-- RUN is entered and held only while a lease is held, and a lease is held in LOAD, RUN and DRAIN only (R54, R55). -/
def Mod.leaseFits (d : Mod) : Prop :=
  (d.mode = .run → d.holder ≠ none) ∧ (d.holder ≠ none → leasable d.mode = true)

/-- Every bit of the fuse array programmed in `s` is programmed in `t` (R483). -/
def fusesKept (s t : State) : Prop :=
  ∀ w i : Nat, (s.fus.array.get 0#32 w).getLsbD i = true → (t.fus.array.get 0#32 w).getLsbD i = true

/-- The invariant of the block: the lease fits the mode and the stack content is canonical. -/
def State.inv (s : State) : Prop := s.mod.leaseFits ∧ s.hbm.wf = true

end Sys2Proof.Machine
end

