-- ==== Sys2Proof/Terms.lean ====
section
/-! DEFINITION. The terms of the statements about the engines (spec/13) and the host rings (spec/17): an instruction at its turn, its completion, the bytes of the local memories, and what a ring owes its host. -/

namespace Sys2Proof.Machine

open Sys2Proof

/-- The command completes in a state that satisfies `P`, and nothing changes but the parts of the list. -/
def Does (c : Instr) (s : State) (l : List Part) (P : State → Prop) : Prop := Completes c s fun t => changesOnly l s t ∧ P t

/-- The parts an event of block `b` may change (R476): the log, the messages and pending bits of the hosts, the status registers. -/
def evParts (b : Block) : List Part := [.hst, .logRecs, .reg .GLB, .reg b]

/-- The domains of the block that are on in the list, all others off. -/
def domainsOn (l : List Nat) (t : State) : Prop := ∀ d, d < 80 → t.dom d = if d ∈ l then dsOn else dsOff

/-- No domain that is on or gated is switched off as the device settles in mode `m` (R503). -/
def State.noneOff (s : State) (m : Mode) : Prop :=
  ∀ d, d < 80 → s.domTarget m d = dsOn ∨ s.domTarget m d = dsGated ∨ s.domTarget m d = s.dom d

/-- The waiting clusters that the mode and their requests let wake from power gating or OFF (R42, R43). -/
def State.wakeable (s : State) : List Nat := s.pwr.waiting.filter fun c => s.mayWake s.mod.mode c && s.unpowered c

/-- The boot bookkeeping is `b`, but for what goes with a domain that is switched off: the TMS and parser microcode, the HBM pass (R41). -/
def BootIs (b : Boot) (t : State) : Prop :=
  t.boot = { b with tmsLoaded := t.boot.tmsLoaded, parLoaded := t.boot.parLoaded, hbmPass := t.boot.hbmPass }

/-- Cluster `c` is not about to retire: fewer uncorrectable errors within the hour than HEA_CL_UNC_TH, or no such limit (Table 18.3). -/
def State.calm (s : State) (c : Nat) : Prop :=
  s.rn .HEA_CL_UNC_TH = 0 ∨ ((s.fus.clErrs.get [] c).filter fun t => s.freeNs ≤ t + 3600000000000).length < s.rn .HEA_CL_UNC_TH

/-- Context `k` issues the word `f` next (R342, R344, R384): it is RUNNING or STALLED, no authentication holds it, its PC lies in IMEM,
the word there is `f` and carries no error, its budget allows one more instruction, and its cluster is not about to retire. -/
def State.issues (s : State) (k f : Nat) : Prop :=
  ((s.cx k).st = .running ∨ (s.cx k).st = .stalled) ∧ (s.cx k).auth = false ∧ (s.cx k).pc < 65536 ∧
  s.eng.bad.find (imemWord (engOf k) (s.cx k).pc) = none ∧ (s.eng.imem.get 0#32 (engOf k * 16384 + (s.cx k).pc / 4)).toNat = f ∧
  ((s.cx k).rcd.budget = 0 ∨ (s.cx k).cycle ≤ (s.cx k).rcd.budget) ∧ s.calm (clOf k)

/-- A context that has completed an instruction and goes on at `pc`: one more cycle is spent, it runs and waits for no transfer. -/
def Ctx.after (x : Ctx) (pc : Nat) : Ctx := { x with st := .running, pc := pc, cycle := x.cycle + 1, dmaw := Option.none }

/-- From `s` to `t` context `k` has completed an instruction: its registers are those of `x`, its PC is `pc`, one more cycle is spent, it runs
and waits for no transfer; every other context is as it was, and ENG_CNT_INSN has counted. -/
def Retires (s t : State) (k : Nat) (x : Ctx) (pc : Nat) : Prop :=
  t.cx k = x.after pc ∧ (∀ j, j ≠ k → t.cx j = s.cx j) ∧
  t.ctr .ENG_CNT_INSN = s.ctr .ENG_CNT_INSN + 1#64

/-- The instruction changed nothing else: no memory of the array, no register, no other counter, no other part of the device. -/
def RetiresOnly (s t : State) (k : Nat) (x : Ctx) (pc : Nat) : Prop :=
  Retires s t k x pc ∧ t.eng = { s.eng with ctx := t.eng.ctx } ∧ changesOnly [.eng, .ctr .ENG] s t ∧
  (∀ c i, (c, i) ≠ (Ctr.ENG_CNT_INSN, 0) → t.ctr c i = s.ctr c i)

/-- The instruction completes and writes at most vector register `d`. -/
def VecRetires (s t : State) (k : Nat) (x : Ctx) (d : Nat) : Prop :=
  RetiresOnly s t k { x with v := (t.cx k).v } (x.pc + 4) ∧ ∀ j, j ≠ d → (t.cx k).rv j = x.rv j

/-- One byte of a local memory. -/
def State.memByte (s : State) (m : Mem) (o : Nat) : Byte :=
  match m with
  | .dmem e => s.eng.dmem.get 0#8 (e * 131072 + o)
  | .shm c => s.eng.shm.get 0#8 (c * 2097152 + o)

/-- Bytes of a local memory (R337). -/
def Mem.size : Mem → Nat
  | .dmem _ => 131072
  | .shm _ => 2097152

/-- No word that `n` bytes from offset `o` touch carries an error (R338). -/
def State.clean (s : State) (m : Mem) (o n : Nat) : Prop := ∀ w ∈ wordOffs o n, s.eng.bad.find (m.word w) = none

/-- From `s` to `t` the bytes `l` were stored at offset `o` of a local memory, and no other byte of a local memory changed. -/
def Stored (s t : State) (m : Mem) (o : Nat) (l : List Byte) : Prop :=
  (∀ i, i < l.length → t.memByte m (o + i) = l.getD i 0#8) ∧
  (∀ m' o', o' < m'.size → (m' ≠ m ∨ o' < o ∨ o + l.length ≤ o') → t.memByte m' o' = s.memByte m' o')

/-- An exception of context `k` with this code is held for service (R397, R399): the task is not P-class, its template asks for the hold, the
code is neither MEMORY nor BUDGET, and the fault ring has room. -/
def State.serviced (s : State) (k code : Nat) : Prop :=
  (s.cx k).cls ≠ 0 ∧ bitOf (s.cx k).rcd.perm 5 = true ∧ code ≠ 7 ∧ code ≠ 8 ∧ s.ringLevel < 256

/-- From `s` to `t` context `k` took an exception and is held for service (R365, R397, R399): it is FAULTED with the code, the fault record is
written if it held no unread one, the fault ring has one more entry, and the counters have counted. -/
def Faults (s t : State) (k code : Nat) : Prop :=
  t.cx k = { s.cx k with st := .faulted, code := code, auth := false, svc := true } ∧ (∀ j, j ≠ k → (s.cx j).st ≠ .ready → t.cx j = s.cx j) ∧
  t.ctr .ENG_CNT_EXC = s.ctr .ENG_CNT_EXC + 1#64 ∧ t.ctr .TSK_CNT_HOLD = s.ctr .TSK_CNT_HOLD + 1#64 ∧ t.ctr .MMU_CNT_FAULT = s.ctr .MMU_CNT_FAULT + 1#64 ∧
  t.rn .MMU_FR_HEAD = (s.rn .MMU_FR_HEAD + 1) % 512 ∧
  (s.rb .ENG_XR_VALID = false → t.rb .ENG_XR_VALID = true ∧ t.rn .ENG_XR_CODE = code ∧ t.rn .ENG_XR_CTX = k ∧ t.rn .ENG_XR_PC = (s.cx k).pc % 65536) ∧
  (s.rb .ENG_XR_VALID = true → t.rn .ENG_XR_CODE = s.rn .ENG_XR_CODE ∧ t.rn .ENG_XR_CTX = s.rn .ENG_XR_CTX ∧ t.rn .ENG_XR_PC = s.rn .ENG_XR_PC)

/-- No transfer of the task in context `k` is without an outcome. -/
def State.noTransfer (s : State) (k : Nat) : Prop := ∀ d ∈ s.mmu.dmas, d.ctx = k → d.gen ≠ (s.cx k).gen

/-- From `s` to `t` the task of context `k` ended by an abort (R400): the context is FREE with its generation kept, and the abort is counted. -/
def Aborts (s t : State) (k : Nat) : Prop :=
  t.cx k = { Ctx.none with gen := (s.cx k).gen } ∧ (∀ j, j ≠ k → (s.cx j).st ≠ .ready → t.cx j = s.cx j) ∧ t.ctr .TSK_CNT_ABORT = s.ctr .TSK_CNT_ABORT + 1#64

/-- Everything that needs an authentication lane runs in one: nothing waits and nothing is parked (R413). -/
def State.allSeated (s : State) : Prop := ∀ w ∈ s.laneWork, w.seat.lane.isSome = true ∧ w.seat.parked = false

/-- No two pieces of authentication work have one number of arrival (R413). -/
def State.seatsApart (s : State) : Prop := (s.laneWork.map fun w => w.seat.arr).Nodup

/-- The key staging registers read 0 (R416). -/
def State.stagingZero (s : State) : Prop :=
  s.rn .AUT_KA_ALG = 0 ∧ s.rn .AUT_KA_SIGN = 0 ∧ s.rn .AUT_KA_VERIFY = 0 ∧ s.rn .AUT_KA_TAGLEN = 0 ∧ s.rn .AUT_KA_KEYLEN = 0 ∧ s.rn .AUT_KEY_SALT = 0 ∧
  ∀ j, j < 16 → s.rn .AUT_KEY_DATA j = 0

/-- TX ring `r` has acted on its next descriptor (R461, R462): its completion is owed with this status, and fetching moves past it. -/
def Owes (s t : State) (r status : Nat) (wait : Option (Nat × Nat)) : Prop :=
  t.hst.txc = s.hst.txc ++ [{ ring := r, idx := s.fetchAt r, addr := s.descAddr r (s.fetchAt r), status := status, wait := wait, ts := none }] ∧
  t.fetchAt r = (s.fetchAt r + 1) % 65536

/-- From `s` to `t` vector `v` of host `h` was signalled once: its pending bit is set where it is masked, else one message was sent. -/
def Signalled (s t : State) (h v : Nat) : Prop :=
  ((s.hst.msix.get 1#32 (msixCtl h v)).getLsbD 0 = true → t.hst.pba.get false (h * 2048 + v) = true ∧ t.hst.msi = s.hst.msi) ∧
  ((s.hst.msix.get 1#32 (msixCtl h v)).getLsbD 0 = false → t.hst.msi.get 0 (h * 2048 + v) = s.hst.msi.get 0 (h * 2048 + v) + 1 ∧ t.hst.pba = s.hst.pba)

/-- A byte of the memory of host `h` as the device wrote it. -/
def State.hostByte (s : State) (h a : Nat) : Byte := s.hst.mem.get 0#8 (h * 2 ^ 64 + a % 2 ^ 64)

/-- HST_E_FENCED of function `n` was raised from `s` to `t`, unless it was raised less than 1 ms ago; then no event was (R470). -/
def FenceEvent (n : Nat) (s t : State) : Prop :=
  (∀ u, s.limits.find (Ev.code .HST_E_FENCED * 65536 + n) = some u → s.freeNs < u + 1000000 → NoEvent s t) ∧
  ((∀ u, s.limits.find (Ev.code .HST_E_FENCED * 65536 + n) = some u → u + 1000000 ≤ s.freeNs) → Raised .HST_E_FENCED n 0 s t)

end Sys2Proof.Machine
end

