-- ==== Sys2Proof/Certificates/Slice0/Obligations.lean ====
section
/-! DEFINITION. The statements about the block, from the numbered rules of spec/: the step, its invariants, the guards, then each family of commands with what it does, what it leaves unchanged and where it completes. -/

open Sys2Proof Sys2Proof.Machine

/-! ### The step, its invariants and the guards -/

/-- A step takes the command at the front of the queue and answers what `exec` answers on the state with the queue's rest. -/
def Obligations.StepRunsFrontCommand : Prop := ∀ (c : Instr) (s : State), step { s with pending := c :: s.pending } = exec c s

/-- On an empty queue the block idles for one tick of the timebase in use (the model's choice, log entry 1): Meridian and the step-free count
advance by the tick's increment (R87, R100), the lease term counts down, and in HOLDOVER the holdover time grows; nothing else changes. -/
def Obligations.EmptyQueueTicks : Prop := ∀ s : State, s.pending = [] → ∃ t, step s = .next t ∧
  t.tim.now = (s.tim.now + s.tickInc) % (2 ^ 48 * tickSec) ∧ t.tim.stepFree = s.tim.stepFree + s.tickInc ∧
  t.mod = { s.mod with left := s.mod.left - s.tickInc } ∧ t.tim.holdAcc = (if s.rn .TIM_QUAL = 3 then s.tim.holdAcc + s.tickInc else s.tim.holdAcc) ∧
  (s.rb .TIM_FAST = false → s.tickInc = 100 * tickNs) ∧ (s.rb .TIM_FAST = true → s.freqEff = 0 → s.tickInc = 4 * tickNs) ∧
  changesOnly [.mod, .tim, .reg .TIM] s t ∧ regsOnly [(.TIM_HOLD_ELAPSED, 0)] s t

/-- The meaning of a command leaves the queue alone. -/
def Obligations.CommandsKeepQueue : Prop := ∀ (c : Instr) (s t : State), exec c s = .next t → t.pending = s.pending

/-- Every step keeps the invariant: the lease fits the mode (R54, R55) and the HBM content is canonical. -/
def Obligations.EveryStepKeepsInvariant : Prop := ∀ s t : State, s.inv → step s = .next t → t.inv

/-- The invariant holds at reset. -/
def Obligations.ResetMeetsInvariant : Prop := State.reset.inv

/-- R483: no step clears a programmed fuse bit. -/
def Obligations.NoStepClearsFuse : Prop := ∀ s t : State, step s = .next t → fusesKept s t

/-- What reset leaves by the rules (R66, R53, R469, R89): mode OFF, no lease, epoch 0, cause 1, Meridian 0, nothing on the frame path, every buffer
free, every context FREE, an empty queue. The registers the spec gives no reset value read 0 (the model's choice, log entry 3). -/
def Obligations.ResetState : Prop :=
  State.reset.mod.mode = .off ∧ State.reset.mod.holder = none ∧ State.reset.mod.epoch = 0#32 ∧ State.reset.rn .GLB_RESET_CAUSE = 1 ∧
  State.reset.tim.now = 0 ∧ State.reset.pkts = [] ∧ State.reset.swc.bufs = [] ∧ (∀ k, (State.reset.cx k).st = .free) ∧ State.reset.pending = [] ∧
  (∀ c i, State.reset.ctr c i = 0#64) ∧ (∀ f i, f ≠ .GLB_RESET_CAUSE → State.reset.reg f i = f.reset i)

/-- R470: a guarded write or command of a host that is not admitted has no effect but to be counted in HST_FENCED_CNT of that host and to raise
HST_E_FENCED, at most once per 1 ms and host. From the steward it raises the event alone; from an engine context it changes nothing at all. -/
def Obligations.FencedWritesHaveNoEffect : Prop := ∀ (c : Instr) (s : State) (src : Src) (b : Block), guardBlock c = some (src, b) → s.guard src b = false →
  Completes c s fun t => changesOnly [.hst, .logRecs, .limits, .reg .GLB, .reg .HST] s t ∧ match src with
    | .host h => t.rn .HST_FENCED_CNT h.val = satAdd (fieldMax .HST_FENCED_CNT) (s.rn .HST_FENCED_CNT h.val) 1 ∧
        regsOnly ((.HST_FENCED_CNT, h.val) :: evRegs .HST_E_FENCED 0) s t ∧ FenceEvent h.val s t
    | .steward => regsOnly (evRegs .HST_E_FENCED 0) s t ∧ FenceEvent (fnOf .steward) s t
    | .engine _ => t = s

/-- R470: a command of a host in a guarded block, or one that only the lease holder gives, takes effect only when the issuing host is the holder and its
GLB_LU_EPOCH equals GLB_LS_EPOCH: any other has no effect, is counted in HST_FENCED_CNT of the host, and HST_E_FENCED is raised at most once per 1 ms and host. -/
def Obligations.OnlyTheHolderCommands : Prop := ∀ (c : Instr) (s : State) (src : Src),
  leaseSrc c = some src ∨ (∃ (b : Block) (h : Fin 4), guardBlock c = some (src, b) ∧ src = .host h) →
  ¬ (∃ h : Fin 4, src = .host h ∧ s.mod.holder = some h ∧ s.reg .GLB_LU_EPOCH h.val = s.mod.epoch) →
  Completes c s fun t => changesOnly [.hst, .logRecs, .limits, .reg .GLB, .reg .HST] s t ∧ match src with
    | .host h => t.rn .HST_FENCED_CNT h.val = satAdd (fieldMax .HST_FENCED_CNT) (s.rn .HST_FENCED_CNT h.val) 1 ∧
        regsOnly ((.HST_FENCED_CNT, h.val) :: evRegs .HST_E_FENCED 0) s t ∧ FenceEvent h.val s t
    | .steward => regsOnly (evRegs .HST_E_FENCED 0) s t ∧ FenceEvent (fnOf .steward) s t
    | .engine _ => t = s

/-- A write of 1 to the counter clear of a block clears every 64-bit counter of the block and nothing else (R192, R233, R262, R291, R335, R373, R408,
R410, R429, R452, R482): from the lease holder for AUT and HST, else from a source the block's guard admits; an engine context does not clear the
counters of TSK and MMU (R379).
The clears that also select: SWC clears its counters and every SWC_OWN_CNT (R316); PAR the counters of one pipeline (R161); PRT those of one port,
for a host that holds it, the steward or an engine context (R124, R126), and from another host nothing. -/
def Obligations.CounterClears : Prop :=
  (∀ (src : Src) (s : State),
  (∀ (c : Instr) (b : Block), (c, b) ∈ [(Instr.clsCntClr src, Block.CLS), (.tblCntClr src, .TBL), (.flwCntClr src, .FLW), (.sauCntClr src, .SAU),
      (.tmgCntClr src, .TMG), (.engCntClr src, .ENG), (.memCntClr src, .MEM)] → s.guard src b = true →
    Completes c s fun t => ctrsCleared b s t ∧ changesOnly [.ctr b] s t) ∧
  (∀ (c : Instr) (b : Block), (c, b) ∈ [(Instr.tskCntClr src, Block.TSK), (.mmuCntClr src, .MMU)] →
    (s.guard src b = true → (∀ k, src ≠ .engine k) → Completes c s fun t => ctrsCleared b s t ∧ changesOnly [.ctr b] s t) ∧
    (∀ k, src = .engine k → Completes c s fun t => t = s)) ∧
  (∀ (c : Instr) (b : Block), (c, b) ∈ [(Instr.autCntClr src, Block.AUT), (.hstCntClr src, .HST)] → s.isHolder src = true →
    Completes c s fun t => ctrsCleared b s t ∧ changesOnly [.ctr b] s t)) ∧
  (∀ (src : Src) (s : State),
  (s.guard src .SWC = true → Completes (.swcCntClr src) s fun t => ctrsCleared .SWC s t ∧ (∀ i, t.rn .SWC_OWN_CNT i = 0) ∧
    changesOnly [.ctr .SWC, .reg .SWC] s t ∧ ∀ f i, f ≠ .SWC_OWN_CNT → t.reg f i = s.reg f i) ∧
  (∀ k : Fin 2, s.guard src .PAR = true → Completes (.parCntClr src k) s fun t => changesOnly [.ctr .PAR] s t ∧
    ∀ (c : Ctr) (i : Nat), c.info.block = .PAR →
      (k.val * c.info.n2 ≤ i ∧ i < (k.val + 1) * c.info.n2 → t.ctr c i = 0#64) ∧ (i < k.val * c.info.n2 ∨ (k.val + 1) * c.info.n2 ≤ i → t.ctr c i = s.ctr c i)) ∧
  (∀ p : Fin 48, Completes (.prtCntClr src p) s fun t => changesOnly [.ctr .PRT] s t ∧
    (s.inPartition src (fun h => s.holdsPort h p.val) = true →
      ∀ (c : Ctr) (i : Nat), c.info.block = .PRT → t.ctr c i = if i = p.val then 0#64 else s.ctr c i) ∧
    (s.inPartition src (fun h => s.holdsPort h p.val) = false → t = s)))

/-! ### Power, clocks, resets, modes and the control lease -/

/-- R38, R46, R66: VAON below 2.50 V, or PORST_N low for 10 us or more, is a power-on reset: every on-chip state is cleared; the fuse array and the
flash stay. A pulse shorter than that is honoured or not (R47: a free choice). -/
def Obligations.PowerOnReset : Prop := ∀ s : State,
  (∀ v n, v = true ∨ 10000 ≤ n → exec (.powerOnReset v n) s = .next { State.reset with
    fus := { State.reset.fus with array := s.fus.array }, flash := s.flash, freeCtr := s.freeCtr, pending := s.pending }) ∧
  (∀ n, 0 < n → n < 10000 → Completes (.powerOnReset false n) s fun t => t = { s with freeCtr := s.freeCtr + 1 } ∨ t = { State.reset with
    fus := { State.reset.fus with array := s.fus.array }, flash := s.flash, freeCtr := s.freeCtr + 1, pending := s.pending }) ∧
  (∀ x, s.mod.mode = .off → Completes (.porRelease x) s fun t => t.mod.mode = .dormant ∧ t.mod.holder = none ∧ t.mod.trans = none ∧ t.boot.straps = x ∧
    t.fus.shadow = s.fus.array ∧ t.fus.array = s.fus.array ∧ t.flash = s.flash ∧ LastEvent .GLB_I_RESET 1 0 t) ∧
  (∀ x, s.mod.mode ≠ .off → exec (.porRelease x) s = .next s)

/-- R66, R502: a warm reset starts from any mode but OFF and DORMANT, by WARM_RST_N low for 1 us or more (cause 2), the lease holder's 0xA55A (3), the
monitor (4) or the steward watchdog (5). The lease ends and the epoch advances, GLB_MODE_CODE reads the old mode, HBM content, fuses and flash stay. -/
def Obligations.WarmResetStarts : Prop := ∀ (s : State) (c : Instr) (cause : Nat), s.mod.mode ≠ .off → s.mod.mode ≠ .dormant → s.mod.trans = none →
  ((∃ n, 1000 ≤ n ∧ c = .warmReset n ∧ cause = 2) ∨ (∃ src, s.isHolder src = true ∧ c = .glbResetGo src 0xA55A#16 ∧ cause = 3) ∨
    (s.mon.isOpen = true ∧ c = .reset ∧ cause = 4) ∨ (c = .stewardWatchdog ∧ cause = 5)) →
  Completes c s fun t => t.mod.mode = .boot ∧ t.mod.holder = none ∧ t.mod.trans = some .warmReset ∧
    t.mod.epoch = (if s.mod.holder = none then s.mod.epoch else nextEpoch s.mod.epoch) ∧ t.boot.warmCause = cause ∧
    t.modeRead = modeCode s.mod.mode ∧ t.fus.array = s.fus.array ∧ t.flash = s.flash ∧ t.hbm.bytes = s.hbm.bytes

/-- R66, R502, R503: a warm reset and an entry to DORMANT end: the cause and the events, the domains of BOOT (66, 72, 75) or none. -/
def Obligations.ResetEntries : Prop := ∀ s : State,
  (s.mod.trans = some .warmReset → Does .warmResetComplete s (.mod :: .pwr :: .tim :: .reg .TIM :: evParts .PWR) fun t => t.mod = { s.mod with trans := none } ∧
    t.rn .GLB_RESET_CAUSE = s.boot.warmCause % 2 ^ 32 ∧ domainsOn [66, 72, 75] t ∧ LastEvent .GLB_I_RESET s.boot.warmCause 0 t) ∧
  (s.mod.trans = some .toDormant → Does .dormantEntryComplete s (.mod :: .pwr :: .tim :: .reg .TIM :: evParts .PWR) fun t => t.mod = { s.mod with trans := none } ∧
    domainsOn [] t ∧ LastEvent .GLB_I_MODE (modeCode s.boot.preMode) 1 t) ∧
  (∀ v src, v ≠ 0xA55A#16 → s.isHolder src = true → exec (.glbResetGo src v) s = .next s) ∧
  (∀ n, n ≤ 100 → exec (.warmReset n) s = .next s)

/-- R37, R58: VIN below 2.50 V leads to DORMANT from any mode above it; BOOT follows with VIN at its rising lockout (2.60 V) and the die below +120 C, after
a thermal trip below +110 C and after a WARM_RST_N pulse. -/
def Obligations.SupplyAndDormant : Prop := ∀ (s : State) (mv : Fin 65536),
  (mv.val < 2500 → s.mod.mode ≠ .off → s.mod.mode ≠ .dormant → Completes (.vinUndervoltage mv) s fun t =>
    t.mod.mode = .dormant ∧ t.mod.holder = none ∧ t.mod.trans = some .toDormant ∧ t.rb .PWR_VIN_OK = false ∧ t.rn .PWR_VIN_MV = mv.val ∧
    t.rb .MEM_INIT_FLAG = false ∧ t.hbm.bytes = [] ∧ t.hbm.filled = false ∧ LastEvent .PWR_E_VIN_UV 0 0 t) ∧
  (mv.val < 2500 → s.mod.mode = .dormant → Does (.vinUndervoltage mv) s [.reg .PWR] fun t =>
    t.rb .PWR_VIN_OK = false ∧ t.rn .PWR_VIN_MV = mv.val ∧ regsOnly [(.PWR_VIN_OK, 0), (.PWR_VIN_MV, 0)] s t) ∧
  (2500 ≤ mv.val → mv.val < 2700 → s.mod.mode ≠ .off → Does (.vinLowExcursion mv) s (evParts .PWR) fun t =>
    t.rn .PWR_VIN_MV = mv.val ∧ Raised .PWR_W_VIN_LOW 0 0 s t ∧ regsOnly ((.PWR_VIN_MV, 0) :: evRegs .PWR_W_VIN_LOW 0) s t) ∧
  (s.mod.mode = .dormant → s.mod.trans = none → 2600 ≤ mv.val → s.tdie < 480 → s.boot.needWarm = false → (s.boot.tripped = true → s.tdie < 440) →
    Completes (.bootEntry mv) s fun t => t.mod.mode = .boot ∧ t.mod.trans = none ∧ t.boot.bootPhase = 0 ∧ t.boot.tripped = false ∧
      t.fus = s.fus ∧ LastEvent .GLB_I_MODE 1 2 t) ∧
  (s.mod.mode = .dormant → 2600 ≤ mv.val → s.boot.needWarm = true → Completes (.bootEntry mv) s fun t => t.mod = s.mod ∧ t.boot = s.boot)

/-- R39, R44, R45, R49, R87: the clocks. A current-limit step lowers every cluster clock above 500 MHz by 50 MHz (the value of the
step and when PWR_CURLIM_ACT clears are the model's choices, log entries 8 and 26), and a restore step undoes one; SLOWCLK is lost and returns; a PLL locks;
the timebase in use changes over. -/
def Obligations.Clocks : Prop := ∀ s : State,
  (Does .currentLimitStep s (.pwr :: evParts .PWR) fun t => t.rb .PWR_CURLIM_ACT = true ∧ t.pwr = { s.pwr with curSteps := t.pwr.curSteps } ∧
    (s.rb .PWR_CURLIM_ACT = false → Raised .PWR_W_CURRENT_HIGH 0 0 s t) ∧ (s.rb .PWR_CURLIM_ACT = true → NoEvent s t) ∧
    ∀ c, c < 24 → t.engClkEff c = if 10 < s.engClkEff c then s.engClkEff c - 1 else s.engClkEff c) ∧
  (Does .currentLimitRestore s [.pwr, .reg .PWR] fun t => t.rb .PWR_CURLIM_ACT = false ∧ t.pwr = { s.pwr with curSteps := t.pwr.curSteps } ∧
    (∀ c, c < 24 → t.pwr.curSteps.get 0 c = s.pwr.curSteps.get 0 c - 1 ∧
      (0 < s.pwr.curSteps.get 0 c → 10 + s.pwr.curSteps.get 0 c ≤ s.engClkCap c → t.engClkEff c = s.engClkEff c + 1)) ∧
    regsOnly [(.PWR_CURLIM_ACT, 0)] s t) ∧
  (s.rb .PWR_SLOWCLK_INT = false → Does .slowclkLost s (.pwr :: evParts .PWR) fun t => t.rb .PWR_SLOWCLK_INT = true ∧ Raised .PWR_W_SLOWCLK_LOST 0 0 s t ∧
    t.pwr = { s.pwr with slowEdges := 0 } ∧ regsOnly ((.PWR_SLOWCLK_INT, 0) :: evRegs .PWR_W_SLOWCLK_LOST 0) s t) ∧
  (s.rb .PWR_SLOWCLK_INT = true → Does .slowclkReturn s (.pwr :: evParts .PWR) fun t => t.rb .PWR_SLOWCLK_INT = false ∧ Raised .PWR_I_SLOWCLK_OK 0 0 s t ∧
    t.pwr = { s.pwr with slowEdges := 1024 } ∧ regsOnly ((.PWR_SLOWCLK_INT, 0) :: evRegs .PWR_I_SLOWCLK_OK 0) s t) ∧
  (∀ i : Fin 4, s.dom (66 + i.val) = dsOn → Does (.pllLock i) s [.reg .PWR] fun t =>
    t.reg .PWR_PLL_LOCK = s.reg .PWR_PLL_LOCK ||| (1#32 <<< i.val) ∧ regsOnly [(.PWR_PLL_LOCK, 0)] s t) ∧
  (fastTime s.mod.mode = true → s.dom 65 = dsOn → s.dom 66 = dsOn → s.rb .TIM_FAST = false → Does .timebaseChangeover s (.tim :: evParts .TIM) fun t =>
    t.rb .TIM_FAST = true ∧ t.tim.now = s.tim.now ∧ t.tim.stepFree = s.tim.stepFree ∧ Raised .TIM_I_TIMEBASE 1 0 s t) ∧
  (fastTime s.mod.mode = false → s.rb .TIM_FAST = true → Does .timebaseChangeover s (.tim :: evParts .TIM) fun t => t.rb .TIM_FAST = false ∧
    t.tim.now = s.tim.now ∧ t.tim.ppsHigh = false ∧ (s.rn .TIM_QUAL = 2 → t.rn .TIM_QUAL = 3) ∧ (s.rn .TIM_QUAL ≠ 2 → t.rn .TIM_QUAL = s.rn .TIM_QUAL) ∧
    Raised .TIM_I_TIMEBASE 0 0 s t)

/-- R48, R40: the 1 ms reading of the sensors: PWR_HOT above its threshold, SAFE-HOLD at +125 C, DORMANT at +130 C; a failed phase is retired, and a rail
below its minimum leads to SAFE-HOLD. -/
def Obligations.ThermalAndRails : Prop := ∀ s : State,
  (∀ a b c d : BitVec 16, s.mod.mode ≠ .off → signed 16 a.toNat < 500 →
    Does (.dieTempSample a b c d) s (.boot :: .freeCtr :: evParts .PWR) fun t => t.mod = s.mod ∧ t.rn .PWR_TDIE_MAX = a.toNat ∧
      t.rn .PWR_TCASE_EST = b.toNat ∧ t.rn .PWR_IIN_10MA = c.toNat ∧ t.rn .PWR_PIN_100MW = d.toNat ∧
      (s.rb .PWR_HOT = false → (t.rb .PWR_HOT = true ↔ (s.rn .PWR_HOT_THRESH : Int) < signed 16 a.toNat)) ∧
      (s.rb .PWR_HOT = true → (t.rb .PWR_HOT = false ↔ signed 16 a.toNat < (s.rn .PWR_HOT_THRESH : Int) - 12)) ∧
      t.boot = { s.boot with safeOvertemp := false }) ∧
  (∀ a b c d : BitVec 16, s.mod.mode ≠ .off → s.mod.mode ≠ .dormant → 520 ≤ signed 16 a.toNat → s.mod.trans = none →
    Completes (.dieTempSample a b c d) s fun t => t.mod.mode = .dormant ∧ t.mod.holder = none ∧ t.mod.trans = some .toDormant ∧ t.boot.needWarm = true ∧
      t.boot.tripped = true ∧ LastEvent .PWR_E_THERMTRIP 0 0 t) ∧
  (∀ a b c d : BitVec 16, 500 ≤ signed 16 a.toNat → signed 16 a.toNat < 520 → safeHoldFrom s.mod.mode = true → s.mod.trans = none →
    Completes (.dieTempSample a b c d) s fun t => t.mod.mode = .safeHold ∧ t.mod.holder = none ∧ t.boot.safeOvertemp = true ∧ t.boot.safeOrigin = s.mod.mode) ∧
  (∀ i : Fin 24, s.pwr.phases.getLsbD i.val = false → railFault (s.pwr.phases ||| (1#24 <<< i.val)) = true → safeHoldFrom s.mod.mode = true → s.mod.trans = none →
    Completes (.phaseFail i) s fun t => t.mod.mode = .safeHold ∧ t.mod.holder = none ∧ t.boot.safeRail = true) ∧
  (∀ i : Fin 24, s.pwr.phases.getLsbD i.val = false → railFault (s.pwr.phases ||| (1#24 <<< i.val)) = false →
    Does (.phaseFail i) s (.pwr :: .fus :: .reg .HEA :: evParts .PWR) fun t => t.mod = s.mod ∧ t.pwr = { s.pwr with phases := s.pwr.phases ||| (1#24 <<< i.val) } ∧
      t.fus.retired.get false (72 + i.val) = true ∧ t.fus.burn = s.fus.burn ++ [72 + i.val] ∧ t.rb .HEA_BURN_PEND = true) ∧
  (s.mod.mode = .safeHold → s.mod.trans = none → s.boot.safeOvertemp = false → s.boot.safeRail = false → s.boot.safeHealth = false →
    Completes .safeHoldExit s fun t => if s.boot.safeOrigin ∈ [.run, .isolated, .drain] then t.mod.mode = .isolated ∧ t.mod.trans = none
      else t.mod.mode = .boot ∧ t.mod.trans = some .warmReset ∧ t.boot.warmCause = 6) ∧
  (s.mod.mode = .safeHold → (s.boot.safeOvertemp = true ∨ s.boot.safeRail = true ∨ s.boot.safeHealth = true) →
    exec .safeHoldExit s = .next s)

/-- R42, R43, R49, R52: the guarded writes of PWR. A request for a domain that is not retired and not refused stands in its field.
R41, R43: an idle cluster power-gates and keeps its memories; each wake interval starts up to six of the waiting clusters that may still wake, and their retention domains; a waking domain is usable, a
cluster without a runnable context clock-gated. -/
def Obligations.PowerDomains : Prop :=
  (∀ (s : State) (src : Src), s.guard src .PWR = true →
  (∀ (c : Fin 24) (v : BitVec 5), s.clRetired c.val = false → 10 ≤ v.toNat → v.toNat ≤ 30 → Does (.pwrEngClkSet src c v) s [.reg .PWR] fun t =>
    t.rn .PWR_ENG_CLK_SET c.val = v.toNat ∧ regsOnly [(.PWR_ENG_CLK_SET, c.val)] s t) ∧
  (∀ (c : Fin 24) (v : BitVec 5), s.clRetired c.val = false → v.toNat < 10 ∨ 30 < v.toNat → Does (.pwrEngClkSet src c v) s (evParts .PWR) fun t =>
    Raised .PWR_E_RANGE c.val 0 s t ∧ regsOnly (evRegs .PWR_E_RANGE 0) s t) ∧
  (∀ (d : Fin 80) (v : BitVec 2), s.domRetired d.val = false → v.toNat < 3 → (v = 0#2 → s.offBusy d.val = false) →
    Completes (.pwrDomReq src d v) s fun t => t.rn .PWR_DOM_REQ d.val = v.toNat ∧ (v = 0#2 → s.mod.mode = .run → d.val < 76 → t.dom d.val = dsOff) ∧
      (v = 1#2 → s.mod.mode = .run → (24 ≤ d.val ∨ s.unpowered d.val = false) → s.dom d.val ≠ dsWaking → t.dom d.val = dsOn) ∧
      (v = 1#2 → s.mod.mode = .run → d.val < 24 → s.unpowered d.val = true → d.val ∈ t.pwr.waiting)) ∧
  (∀ (d : Fin 80) (v : BitVec 2), s.domRetired d.val = false → s.mod.mode = .run → (v = 1#2 ∧ 24 ≤ d.val) ∨ (v = 0#2 ∧ d.val < 36 ∧ s.offBusy d.val = false) →
    Does (.pwrDomReq src d v) s [.pwr, .eng, .mmu, .reg .PWR] fun t => ∀ (f : Field) (i : Nat),
      (f ≠ .PWR_DOM_REQ ∧ f ≠ .PWR_DOM_STATE ∧ f ≠ .PWR_DOM_WAKES) ∨ (i ≠ d.val ∧ (24 ≤ d.val ∨ i ≠ 76 + d.val / 6)) → t.reg f i = s.reg f i) ∧
  (∀ (d : Fin 80), s.domRetired d.val = false → s.offBusy d.val = true → Does (.pwrDomReq src d 0#2) s (evParts .PWR) fun t =>
    Raised .PWR_E_DOM_BUSY d.val 0 s t ∧ regsOnly (evRegs .PWR_E_DOM_BUSY 0) s t) ∧
  (∀ (d : Fin 80) (v : BitVec 2), s.domRetired d.val = true → Does (.pwrDomReq src d v) s (evParts .PWR) fun t =>
    Raised .PWR_E_DOM_RETIRED d.val 0 s t ∧ regsOnly (evRegs .PWR_E_DOM_RETIRED 0) s t) ∧
  (∀ (c : Fin 24) (v : Bool), s.clRetired c.val = false → Does (.pwrDomCgOnly src c v) s [.pwr, .reg .PWR] fun t => t.rb .PWR_DOM_CG_ONLY c.val = v ∧
    regsOnly [(.PWR_DOM_CG_ONLY, c.val)] s t ∧
    (v = true → s.unpowered c.val = true → s.mayWake s.mod.mode c.val = true → c.val ∈ t.pwr.waiting))) ∧
  (∀ s : State,
  (∀ c : Fin 24, s.dom c.val = dsGated → s.clusterLive c.val = false → s.rb .PWR_DOM_CG_ONLY c.val = false → s.rn .PWR_DOM_REQ c.val = 2 →
    Does (.clusterPowerGate c) s [.eng, .mmu, .reg .PWR] fun t => t.dom c.val = dsPowerGated ∧ regsOnly [(.PWR_DOM_STATE, c.val)] s t ∧
      t.eng.imem = s.eng.imem ∧ t.eng.dmem = s.eng.dmem ∧ t.eng.shm = s.eng.shm ∧ ∀ k, k / 64 ≠ c.val → t.cx k = s.cx k) ∧
  (Does .wakeInterval s [.pwr, .reg .PWR] fun t => t.pwr = { s.pwr with waiting := s.wakeable.drop 6 } ∧
    (∀ c ∈ s.wakeable.take 6, t.dom c = dsWaking ∧ t.dom (76 + c / 6) = dsOn) ∧
    ∀ f i, (f ≠ .PWR_DOM_STATE ∧ f ≠ .PWR_DOM_WAKES) ∨ (i < 76 ∧ i ∉ s.wakeable.take 6) → t.reg f i = s.reg f i) ∧
  (∀ d : Fin 80, s.dom d.val = dsWaking → Does (.domainWakeDone d) s [.reg .PWR] fun t =>
    t.dom d.val = (if d.val < 24 ∧ s.clusterRunnable d.val = false ∧ s.rn .PWR_DOM_REQ d.val ≠ 1 then dsGated else dsOn) ∧
    t.rn .PWR_DOM_WAKES d.val = satAdd (fieldMax .PWR_DOM_WAKES) (s.rn .PWR_DOM_WAKES d.val) 1 ∧
    regsOnly [(.PWR_DOM_STATE, d.val), (.PWR_DOM_WAKES, d.val)] s t) ∧
  (∀ d : Fin 80, s.dom d.val ≠ dsWaking → exec (.domainWakeDone d) s = .next s))

/-- R58, R62, R65, R84: the requests of the lease holder. A request that is not in Table 03.2, or that arrives during a transition, raises
GLB_E_MODE_REFUSED and has no other effect. -/
def Obligations.ModeRequests : Prop := ∀ (s : State) (src : Src), s.isHolder src = true →
  (s.mod.mode = .load → s.mod.trans = none → s.startOk = true → Completes (.runRequest src) s fun t =>
    t.mod = { s.mod with mode := .run } ∧ LastEvent .GLB_I_MODE 4 6 t ∧
    (s.noneOff .run → changesOnly (.mod :: .pwr :: evParts .PWR) s t ∧ Raised .GLB_I_MODE 4 6 s t)) ∧
  (s.mod.mode = .load → s.mod.trans = none → s.startOk = false → Does (.runRequest src) s (evParts .GLB) fun t =>
    Raised .GLB_E_ORDER 0 0 s t ∧ regsOnly (evRegs .GLB_E_ORDER 0) s t) ∧
  (s.mod.mode = .load → s.mod.trans = none → s.rb .MEM_INIT_FLAG = true → exec (.standbyRequest src) s =
    .next { s with mod := { s.mod with trans := some .standbySave } }) ∧
  (s.mod.mode = .load → s.mod.trans = none → s.rb .MEM_INIT_FLAG = false → Does (.standbyRequest src) s (evParts .GLB) fun t =>
    Raised .GLB_E_ORDER 0 0 s t ∧ regsOnly (evRegs .GLB_E_ORDER 0) s t) ∧
  (∀ (v : BitVec 4) (m : Mode), drainTargetOf v.toNat = some m → s.mod.mode = .run → s.mod.trans = none → Completes (.drainRequest src v) s fun t =>
    t.mod = { s.mod with mode := .drain, trans := some .drain } ∧ BootIs { s.boot with drainTarget := m } t ∧
    (s.noneOff .drain → t.boot = { s.boot with drainTarget := m }) ∧ t.rn .GLB_REQ_TARGET = v.toNat ∧
    LastEvent .GLB_I_MODE 6 8 t) ∧
  (s.mod.mode = .drain → s.mod.trans = some .drain → Completes (.drainCancel src) s fun t =>
    t.mod = { s.mod with mode := .run, trans := none } ∧ LastEvent .GLB_I_MODE 8 6 t) ∧
  (∀ c : Instr, c = .runRequest src ∨ c = .standbyRequest src → s.mod.mode ≠ .load ∨ s.mod.trans ≠ none → Does c s (evParts .GLB) fun t =>
    Raised .GLB_E_MODE_REFUSED 0 0 s t ∧ regsOnly (evRegs .GLB_E_MODE_REFUSED 0) s t)

/-- R62, R63, R64, R502: the end of a drain, the standby save, the wakes and the restore. -/
def Obligations.DrainAndStandby : Prop := ∀ s : State,
  (∀ c : Instr, (c = .drainComplete ∧ s.drained = true) ∨ c = .drainForced → s.mod.mode = .drain → s.mod.trans = some .drain → Completes c s fun t =>
    (s.boot.drainTarget = .standby → t.mod = { s.mod with trans := some .standbySave }) ∧
    (s.boot.drainTarget = .load → t.mod = { s.mod with mode := .load, trans := none }) ∧
    (s.boot.drainTarget = .dormant → t.mod.mode = .dormant ∧ t.mod.holder = none ∧ t.mod.trans = some .toDormant) ∧
    (s.boot.drainTarget = .repair → t.mod.mode = .repair ∧ t.mod.holder = none ∧ t.rb .MEM_INIT_FLAG = false) ∧
    (c = .drainForced → s.boot.drainTarget = .standby → LastEvent .GLB_W_DRAIN_FORCED 0 0 t)) ∧
  (s.mod.trans = some .standbySave → Completes .standbySaveDone s fun t => t.mod.mode = .standby ∧ t.mod.holder = none ∧ t.mod.trans = none ∧
    t.boot.saved = true ∧ t.boot.savedEdition = s.cls.live.isSome ∧ t.pkts = [] ∧ t.swc.bufs = [] ∧ t.cls.live = s.cls.live ∧ t.tsk.tmpls = s.tsk.tmpls ∧
    t.tsk.ents = [] ∧ t.aut.slots = s.aut.slots ∧ t.fus = s.fus ∧ t.flash = s.flash ∧ t.hbm.save.isSome = true ∧ t.rb .MEM_SELF_REF = true ∧
    t.rb .MEM_TRAINED = false) ∧
  (∀ h : Fin 4, (s.part h.val).eligible = true → s.mod.mode = .standby → s.mod.trans = none → exec (.standbyWakeSideband h) s =
    .next { s with mod := { s.mod with trans := some .standbyWake } }) ∧
  (s.rb .GLB_WAKE_SEC = true → s.sec % 2 ^ 32 = s.rn .GLB_WAKE_SEC → s.mod.mode = .standby → s.mod.trans = none → exec .standbyWakeTime s =
    .next { s with mod := { s.mod with trans := some .standbyWake } }) ∧
  (s.rb .GLB_WAKE_SEC = false ∨ s.sec % 2 ^ 32 ≠ s.rn .GLB_WAKE_SEC → exec .standbyWakeTime s = .next s) ∧
  (s.mod.mode = .standby → s.mod.trans = some .standbyWake → s.boot.saved = true → s.hbm.saveIntact = true → Completes (.standbyRestoreDone true) s fun t =>
    t.mod.mode = (if s.startOk = true then .isolated else .load) ∧ t.mod.trans = none ∧ BootIs { s.boot with saved := false } t ∧ t.hbm.bytes = s.hbm.bytes ∧
    t.rb .MEM_SELF_REF = false) ∧
  (s.mod.mode = .standby → s.mod.trans = some .standbyWake → ∀ ok : Bool, ok = false ∨ s.boot.saved = false ∨ s.hbm.saveIntact = false → Completes (.standbyRestoreDone ok) s fun t =>
    t.mod.mode = .load ∧ t.mod.trans = none ∧ t.boot.saved = false ∧ t.boot.tmsLoaded = false ∧ t.cls.live = none ∧ t.hbm.bytes = s.hbm.bytes ∧ (s.dom 62 = dsOff → t.hbm = s.hbm) ∧
    LastEvent .GLB_I_MODE 5 4 t)

/-- R70 to R72, R80, R84: boot ends by the straps; the SFDP table, the manifest, the steward's load, the HBM training and pass. -/
def Obligations.BootAndHbmPass : Prop := ∀ s : State,
  (s.mod.mode = .boot → s.mod.trans = none → s.boot.bootPhase = 0 → Completes .bootStartupDone s fun t =>
    (s.boot.straps.getLsbD 3 = true → s.dbgLock = false → t.mod.mode = .test) ∧
    (s.boot.straps.getLsbD 3 = false ∨ s.dbgLock = true → (s.boot.straps.toNat % 4 = 0 → t.mod.mode = .load) ∧ (s.boot.straps.toNat % 4 = 3 → t.mod.mode = .monitor) ∧
      (s.boot.straps.toNat % 4 = 1 ∨ s.boot.straps.toNat % 4 = 2 → t.mod = s.mod ∧ t.boot = { s.boot with bootPhase := 1 }))) ∧
  (∀ (b : Bool) (n : Nat), s.mod.mode = .boot → s.mod.trans = none → s.boot.bootPhase = 1 → Does (.sfdpDiscoveryDone b n) s (.boot :: .freeCtr :: evParts .GLB) fun t =>
    t.boot = { s.boot with bootPhase := 2, density := n, read144 := s.boot.straps.getLsbD 2 && b, addrBytes := t.boot.addrBytes, readOp := t.boot.readOp } ∧
    (t.boot.addrBytes = 3 ∨ t.boot.addrBytes = 4) ∧ (b = false → t.boot.readOp = 0) ∧
    (s.boot.straps.getLsbD 2 = true → b = false → Raised .GLB_W_STRAP 0 0 s t) ∧ (s.boot.straps.getLsbD 2 = false ∨ b = true → NoEvent s t)) ∧
  (s.mod.mode = .boot → s.mod.trans = none → s.boot.bootPhase = 2 → Completes .manifestReadDone s fun t => 
    (s.readManifest.1 = none → t.mod.mode = .monitor ∧ t.mon.isOpen = true) ∧
    (∀ l, s.readManifest.1 = some l → t.mod.mode = .load ∧ t.boot.stewardLoad = decide (s.boot.straps.toNat % 4 = 2) ∧
        t.boot.manifest = if s.boot.straps.toNat % 4 = 2 then l.filter fun e => e.1 != 1 else [])) ∧
  (s.stewardConducts = true → s.mod.trans = none → s.startOk = true → Completes .stewardLoadDone s fun t =>
    t.mod.mode = .isolated ∧ BootIs { s.boot with stewardLoad := false } t ∧ (s.noneOff .isolated → t.boot = { s.boot with stewardLoad := false }) ∧
    LastEvent .GLB_I_MODE 4 7 t) ∧
  (s.mod.mode = .load → s.rb .MEM_TRAINED = false → s.rb .MEM_INIT_FLAG = false → Does (.hbmTrainDone true) s [.boot, .hbm, .freeCtr, .reg .MEM] fun t =>
    t.boot = { s.boot with hbmPass := true } ∧ t.rb .MEM_TRAINED = true ∧ t.rb .MEM_SELF_REF = false ∧ t.rb .MEM_INIT_BUSY = true ∧ t.rn .MEM_INIT_PCT = 0 ∧
    sameHbm s t) ∧
  (s.mod.mode = .load → s.rb .MEM_TRAINED = false → s.rb .MEM_INIT_FLAG = true → Does (.hbmTrainDone true) s [.reg .MEM] fun t =>
    t.rb .MEM_TRAINED = true ∧ t.rb .MEM_SELF_REF = false ∧ regsOnly [(.MEM_TRAINED, 0), (.MEM_SELF_REF, 0)] s t) ∧
  (s.mod.mode = .load → s.rb .MEM_TRAINED = false → Does (.hbmTrainDone false) s (evParts .MEM) fun t => Raised .MEM_E_TRAIN 0 0 s t) ∧
  (s.boot.hbmPass = true → Does .hbmPassDone s (.boot :: .hbm :: .flw :: .reg .FLW :: evParts .MEM) fun t => t.boot = { s.boot with hbmPass := false } ∧ (∀ a, t.hbmByte a = 0#8) ∧
    t.hbm.marks = [] ∧ t.flw.alloc = [] ∧ t.rn .FLW_REC_USED = 0 ∧ t.rb .MEM_INIT_FLAG = true ∧ t.rb .MEM_INIT_BUSY = false ∧ t.rn .MEM_INIT_PCT = 100 ∧ Raised .MEM_I_INIT_DONE 0 0 s t)

/-- R471, R472: a claim. Of the eligible claimants of one cycle the one of lowest precedence is granted the lease with its term; a claim that fails a
test is refused with the code of the first one that it fails.
R469, R471, R473, R416: the holder renews or releases; a lease that ends by release or lapse moves RUN to ISOLATED, advances the epoch and zeroes the
key staging. -/
def Obligations.ControlLease : Prop :=
  (∀ (s : State) (h : Fin 4) (term : BitVec 14),
  (s.claimTest h.val = none → s.mod.mode ≠ .run → Completes (.claim (.host h) term 0#4) s fun t =>
    t.mod = { mode := if s.mod.mode = .isolated then .run else .load, holder := some h, epoch := nextEpoch s.mod.epoch,
              left := clampN 10 10000 term.toNat * 1000000 * 2 ^ 32, trans := s.mod.trans } ∧
    t.rn .GLB_LM_OUT h.val = 1 ∧ t.rn .GLB_LM_ERR h.val = 0 ∧ t.reg .GLB_LM_EPOCH h.val = nextEpoch s.mod.epoch ∧
    t.rn .GLB_LC_TERM_MS h.val = clampN 10 10000 term.toNat ∧ (s.mod.mode = .load → LastEvent .GLB_I_LEASE_GRANT h.val (nextEpoch s.mod.epoch).toNat t)) ∧
  (∀ e : Ev, s.claimTest h.val = some e → Does (.claim (.host h) term 0#4) s (evParts .GLB) fun t =>
    t.rn .GLB_LM_OUT h.val = 2 ∧ t.rn .GLB_LM_ERR h.val = e.code ∧ Raised e h.val 0 s t) ∧
  (∀ rivals : BitVec 4, s.claimTest h.val = none → s.mod.mode ≠ .run → Completes (.claim (.host h) term rivals) s fun t => ∃ g : Fin 4,
    t.mod.holder = some g ∧ s.claimTest g.val = none ∧ (g = h ∨ rivals.getLsbD g.val = true) ∧ t.rn .GLB_LM_OUT g.val = 1 ∧
    ∀ j : Fin 4, (j = h ∨ rivals.getLsbD j.val = true) → (s.claimTest j.val = none → (s.part g.val).prec ≤ (s.part j.val).prec) ∧
      (j ≠ g → t.rn .GLB_LM_OUT j.val = 2)) ∧
  (∀ rivals : BitVec 4, Does (.claim .steward term rivals) s (evParts .GLB) fun t => t.rn .GLB_LM_OUT 4 = 2 ∧
    t.rn .GLB_LM_ERR 4 = Ev.code .GLB_E_LEASE_ELIG ∧ Raised .GLB_E_LEASE_ELIG 4 0 s t)) ∧
  (∀ (s : State) (src : Src) (term : BitVec 14),
  (s.isHolder src = true → Does (.renew src term) s [.mod, .reg .GLB] fun t =>
    t.mod = { s.mod with left := clampN 10 10000 term.toNat * 1000000 * 2 ^ 32 } ∧ t.rn .GLB_LM_OUT (fnOf src) = 1 ∧ t.rn .GLB_LM_ERR (fnOf src) = 0 ∧
    regsOnly [(.GLB_LC_TERM_MS, fnOf src), (.GLB_LM_OUT, fnOf src), (.GLB_LM_ERR, fnOf src)] s t) ∧
  (∀ h : Fin 4, s.isHolder (.host h) = false → Completes (.renew (.host h) term) s fun t => t.mod = s.mod ∧ t.rn .GLB_LM_OUT h.val = 2 ∧
    t.rn .GLB_LM_ERR h.val = Ev.code .HST_E_FENCED) ∧
  (s.isHolder src = true → Completes (.leaseRelease src) s fun t => t.mod.holder = none ∧ t.mod.epoch = nextEpoch s.mod.epoch ∧
    t.mod.mode = (if s.mod.mode = .run then .isolated else s.mod.mode) ∧ t.rn .GLB_LM_OUT (fnOf src) = 1 ∧ t.rn .GLB_LM_ERR (fnOf src) = 0 ∧ t.stagingZero) ∧
  (s.mod.holder ≠ none → Completes .leaseLapse s fun t => t.mod.holder = none ∧ t.mod.epoch = nextEpoch s.mod.epoch ∧
    t.mod.mode = (if s.mod.mode = .run then .isolated else s.mod.mode) ∧ t.stagingZero) ∧
  (s.mod.holder = none → exec .leaseLapse s = .next s) ∧
  (∀ h : Fin 4, s.mod.holder = some h → s.mod.mode ≠ .run → Completes .leaseLapse s fun t => LastEvent .GLB_W_LEASE_LAPSED h.val 0 t))

/-! ### Subsystem resets and images -/

/-- R69, Table 03.4: the subsystem resets, one at a time, each with its precondition; a request that fails starts nothing and raises GLB_E_MODE_REFUSED. -/
def Obligations.SubsystemResets : Prop := ∀ (s : State) (src : Src), s.isHolder src = true →
  (s.boot.srUnit = 0 → (∀ p : BitVec 6, p.toNat < 48 → Completes (.subsysResetPort src p) s fun t => t.boot = { s.boot with srUnit := 1, srIndex := p.toNat } ∧
      t.rb .PRT_LINK_UP p.toNat = false ∧ t.prt.txE.find p.toNat = none ∧ t.prt.txP.find p.toNat = none ∧ t.mod = s.mod ∧
      (∀ c : Ctr, c.info.block = .PRT → t.ctr c p.toNat = 0#64) ∧ ∀ f : Field, f.info.block = .PRT → f.info.acc = .RWF → ∀ i, t.reg f i = s.reg f i) ∧
    (∀ c : BitVec 6, c.toNat < 24 → s.clusterHasPT c.toNat = false → Completes (.subsysResetCluster src c) s fun t =>
      t.boot = { s.boot with srUnit := 2, srIndex := c.toNat } ∧ (∀ k, k / 64 = c.toNat → (t.cx k).st = .free) ∧ t.mod = s.mod ∧
      (∀ o, o < 2097152 → t.memByte (.shm c.toNat) o = 0#8) ∧ (∀ e o, e / 8 = c.toNat → o < 131072 → t.memByte (.dmem e) o = 0#8) ∧
      ∀ e w, e / 8 = c.toNat → w < 16384 → t.eng.imem.get 0#32 (e * 16384 + w) = 0#32) ∧
    (s.groupsOn = [] → Does (.subsysResetGraticule src) s [.boot, .sau, .tmg, .reg .SAU, .reg .GLB] fun t => t.boot = { s.boot with srUnit := 3, srIndex := 0 } ∧
      t.sau.strm = [] ∧ (∀ p, t.rn .SAU_PUB_STATE p = 0) ∧ t.rn .GLB_SR_INDEX = 0 ∧ ∀ st, s.rn .SAU_ST_STATE st ≠ 0 → t.rn .SAU_ST_STATE st = if s.rb .SAU_ST_EN st = true then 1 else 0) ∧
    (Completes (.subsysResetTms src) s fun t => t.boot = { s.boot with srUnit := 4, srIndex := 0 } ∧ t.tbl.journal = [] ∧ t.mod = s.mod ∧
      ∀ w, w < 5 → (s.win w).cmd ≠ none → (t.win w).cmd = none ∧ t.rn .TBL_CMD_OUT w = tblAborted ∧ (t.win w).last = (s.win w).cmd) ∧
    (Completes (.subsysResetAuth src) s fun t => t.boot = { s.boot with srUnit := 5, srIndex := 0 } ∧ t.aut.ops = [] ∧ t.aut.slots = s.aut.slots ∧ t.mod = s.mod)) ∧
  (∀ (c : Instr) (p : BitVec 6), c ∈ [.subsysResetPort src p, .subsysResetCluster src p, .subsysResetGraticule src, .subsysResetTms src, .subsysResetAuth src] →
    s.boot.srUnit ≠ 0 → Does c s (evParts .GLB) fun t => Raised .GLB_E_MODE_REFUSED 0 0 s t ∧
      regsOnly ((.GLB_SR_INDEX, 0) :: evRegs .GLB_E_MODE_REFUSED 0) s t) ∧
  (∀ p : BitVec 6, s.clusterHasPT p.toNat = true ∨ 24 ≤ p.toNat → Does (.subsysResetCluster src p) s (evParts .GLB) fun t =>
    Raised .GLB_E_MODE_REFUSED 0 0 s t ∧ t.rn .GLB_SR_INDEX = p.toNat ∧ regsOnly ((.GLB_SR_INDEX, 0) :: evRegs .GLB_E_MODE_REFUSED 0) s t) ∧
  exec .subsysResetDone s = .next { s with boot := { s.boot with srUnit := 0, srIndex := 0 } }

/-- R458, R75, R76, R505: an image load is started, verified whole before its target is touched, and a configuration image is applied record by record
as 32-bit writes of the party that loads it. -/
def Obligations.ImageLoads : Prop := ∀ s : State,
  (∀ h : Fin 4, s.leaseOk h = true → s.img.busy = false → Does (.imageLoad (.host h) 1#2) s [.img, .reg .GLB] fun t =>
    t.img = { busy := true, src := .host h, addr := s.rn .GLB_IMG_ADDR, kinds := [2, 3, 4, 7, 8].filter (s.imageMode (.host h)), cfg := [], cfgNo := 0, wait := none } ∧ t.rn .GLB_IMG_OUT = 1 ∧
    regsOnly [(.GLB_IMG_OUT, 0)] s t) ∧
  (∀ (h : Fin 4) (op : BitVec 2), s.leaseOk h = true → 2 ≤ op.toNat ∨ (op = 1#2 ∧ s.img.busy = true) → Does (.imageLoad (.host h) op) s (evParts .GLB) fun t =>
    t.rn .GLB_IMG_ERR = Ev.code .GLB_E_IMG_CMD ∧ (s.img.busy = false → t.rn .GLB_IMG_OUT = 3) ∧ (s.img.busy = true → t.rn .GLB_IMG_OUT = s.rn .GLB_IMG_OUT) ∧
    Raised .GLB_E_IMG_CMD 0 0 s t) ∧
  (s.img.busy = true → s.img.cfg = [] → s.img.wait = none → Completes .imageLoadDone s fun t =>
    (∀ e, ((s.useDomain 75).verify s.img.src s.img.addr (fun k => [2, 3, 4, 7, 8].contains k) s.img.kinds.contains).1 = .inr e → t.img = { s.img with busy := false } ∧ t.rn .GLB_IMG_OUT = 3 ∧ t.rn .GLB_IMG_ERR = e.code ∧ LastEvent e 0 0 t ∧ t.boot = s.boot ∧ t.par = s.par ∧
        t.tbl = s.tbl ∧ t.eng = s.eng ∧ t.tsk = s.tsk) ∧
    ∀ i, ((s.useDomain 75).verify s.img.src s.img.addr (fun k => [2, 3, 4, 7, 8].contains k) s.img.kinds.contains).1 = .inl i →
        (i.kind = 2 → t.boot = { s.boot with tmsLoaded := true } ∧ t.img.busy = false ∧ t.rn .GLB_IMG_OUT = 2) ∧
        (i.kind = 8 → (∀ l, cfgRecords i = some l → t.img = { s.img with cfg := l, cfgNo := 0 }) ∧
          (cfgRecords i = none → t.img = { s.img with busy := false } ∧ t.rn .GLB_IMG_OUT = 3 ∧ t.rn .GLB_IMG_ERR = Ev.code .GLB_E_IMAGE_FORMAT))) ∧
  (∀ (a : Nat) (v : BitVec 32) (rest : List (Nat × BitVec 32)) (u : State), s.img.busy = true → s.img.cfg = (a, v) :: rest → rest ≠ [] → s.img.wait = none →
    s.regWrite s.img.src a v = .next u → NoEvent s u → u.img = s.img → u.cfgWaits s.img.src a = false →
    exec .configRecord s = .next { u with img := { s.img with cfg := rest, cfgNo := s.img.cfgNo + 1 } }) ∧
  (∀ (a c : Nat), s.img.busy = true → s.img.wait = some a → s.cfgWaits s.img.src a = false → s.cfgOutcome s.img.src a = some c → Does .configRecord s
    (.img :: evParts .GLB) fun t => t.img = { s.img with busy := false, cfg := [], wait := none } ∧ t.rn .GLB_IMG_OUT = 3 ∧ t.rn .GLB_IMG_ERR = c % 2 ^ 32 ∧
      Raised .GLB_E_IMG_CMD (s.img.cfgNo - 1) c s t) ∧
  (∀ a : Nat, s.img.busy = true → s.img.cfg = [] → s.img.wait = some a → s.cfgWaits s.img.src a = false → s.cfgOutcome s.img.src a = none →
    Does .configRecord s [.img, .reg .GLB] fun t => t.img = { s.img with busy := false, wait := none } ∧ t.rn .GLB_IMG_OUT = 2 ∧ t.rn .GLB_IMG_ERR = 0)

/-! ### Time, memory and keys -/

/-- R91: a command of TIM_CMD_OP waits for its effect; one while another waits, or out of range, is refused. At the next fast tick SET puts Meridian to the
staged value with TIM_QUAL = FREE, STEP moves it by TIM_STEP_NS; the step-free count does not move. -/
def Obligations.TimeCommands : Prop := ∀ (s : State) (src : Src),
  (s.guard src .TIM = true → (s.tim.cmd = 0 → s.rn .TIM_NOW_NS ≤ 999999999 → exec (.set src) s = .next { s with tim := { s.tim with cmd := 1 } }) ∧
    (s.tim.cmd = 0 → -999999999 ≤ s.stepNs → s.stepNs ≤ 999999999 → exec (.step src) s = .next { s with tim := { s.tim with cmd := 2 } }) ∧
    (s.tim.cmd = 0 → exec (.setAtPps src) s = .next { s with tim := { s.tim with cmd := 3 } }) ∧
    (∀ (c : Instr) (op : Nat), (c, op) ∈ [(.set src, 1), (.step src, 2), (.setAtPps src, 3)] → s.tim.cmd ≠ 0 → Does c s (evParts .TIM) fun t =>
      Raised .TIM_E_CMD op 0 s t ∧ regsOnly (evRegs .TIM_E_CMD 0) s t)) ∧
  (s.rb .TIM_FAST = true → s.tim.cmd = 1 → Completes .timCommandEffect s fun t => t.tim.now = s.staged % (2 ^ 48 * tickSec) ∧ t.tim.stepFree = s.tim.stepFree ∧
    t.tim.cmd = 0 ∧ t.tim.lockCnt = 0 ∧ t.rn .TIM_QUAL = 1 ∧ t.rb .TIM_EVT_STEP = true) ∧
  (s.rb .TIM_FAST = true → s.tim.cmd = 2 → Completes .timCommandEffect s fun t =>
    t.tim.now = ((s.tim.now : Int) + s.stepNs * tickNs).toNat % (2 ^ 48 * tickSec) ∧ t.tim.stepFree = s.tim.stepFree ∧ t.tim.cmd = 0 ∧
    (s.rn .TIM_QUAL = 0 → t.rn .TIM_QUAL = 0) ∧ (s.rn .TIM_QUAL ≠ 0 → t.rn .TIM_QUAL = 1)) ∧
  (s.rb .TIM_FAST = false → exec .timCommandEffect s = .next s)

/-- R93, R94, R96: an accepted edge of PPS_IN, a rejected one, the edges lost; under a servo source the integral and the frequency follow the phase error.
R94, R96, R97, R104: the source, the lock and the frequency of Meridian, the end of holdover, PPS_OUT. -/
def Obligations.TimeServo : Prop :=
  (∀ (s : State) (sub : Fin 40), s.dom 65 = dsOn → s.rb .TIM_FAST = true →
  ∀ (x : Nat) (e : Int), x = s.tim.now + sub.val * 2 ^ 32 / 10 → e = s.ppsErrorAt x →
  (s.ppsAdmits e = false → Does (.ppsEdge sub) s (evParts .TIM) fun t => Raised .TIM_W_PPS_REJECT 0 0 s t ∧
    t.rn .TIM_PPS_REJ = satAdd (fieldMax .TIM_PPS_REJ) (s.rn .TIM_PPS_REJ) 1 ∧ t.rn .TIM_PPS_CAP_NS = x / tickNs % 1000000000 ∧
    t.rn .TIM_PPS_CAP_FRAC = x % tickNs / 2 ^ 16 ∧ t.rn .TIM_PPS_CAP_SEC = x / tickSec % 2 ^ 32) ∧
  (s.ppsAdmits e = true → s.tim.cmd ≠ 3 → (s.servoSrc = false ∨ s.tim.cmd ≠ 0) → Does (.ppsEdge sub) s [.tim, .reg .TIM] fun t =>
    t.tim = { s.tim with lastPps := some s.tim.stepFree, lostRaised := false } ∧ t.rb .TIM_PPS_SEEN = true ∧
    t.rn .TIM_PPS_ERR = unsignedOf 32 (sat31 (e.tdiv 655360)) ∧ t.rn .TIM_PPS_CAP_NS = x / tickNs % 1000000000 ∧
    regsOnly [(.TIM_PPS_CAP_FRAC, 0), (.TIM_PPS_CAP_NS, 0), (.TIM_PPS_CAP_SEC, 0), (.TIM_PPS_SEEN, 0), (.TIM_PPS_ERR, 0)] s t) ∧
  (s.ppsAdmits e = true → s.tim.cmd = 0 → s.servoSrc = true → s.rb .TIM_STEP_EN = false → Does (.ppsEdge sub) s (.tim :: evParts .TIM) fun t =>
    t.tim.integ = s.tim.integ + s.rn .TIM_SERVO_KI * e ∧ t.tim.now = s.tim.now ∧
    t.rn .TIM_FREQ_EFF = unsignedOf 32 (roundDiv (clampFreq servoUnit (-(s.rn .TIM_SERVO_KP * e + t.tim.integ))) 163840)) ∧
  (s.ppsAdmits e = true → s.tim.cmd = 3 → Completes (.ppsEdge sub) s fun t => t.tim.cmd = 0 ∧ t.rn .TIM_QUAL = 1 ∧ t.tim.stepFree = s.tim.stepFree ∧
    t.tim.now = (((s.stagedSec * tickSec : Nat) : Int) + (signed 16 (s.rn .TIM_PPS_DELAY) * 2 ^ 32).tdiv 10).toNat % (2 ^ 48 * tickSec)) ∧
  (s.tim.lostRaised = false → s.servoSrc = false → Does .ppsLost s (.tim :: evParts .TIM) fun t => t.rb .TIM_PPS_SEEN = false ∧
    t.tim = { s.tim with lostRaised := true } ∧ Raised .TIM_W_PPS_LOST 0 0 s t) ∧
  (s.tim.lostRaised = false → s.servoSrc = true → s.rn .TIM_QUAL = 2 → Does .ppsLost s (.tim :: evParts .TIM) fun t => t.rn .TIM_QUAL = 3 ∧
    t.rn .TIM_FREQ_EFF = unsignedOf 32 (roundDiv (clampFreq servoUnit (-s.tim.integ)) 163840) ∧ t.rn .TIM_HOLD_ELAPSED = 0 ∧ Raised .TIM_W_PPS_LOST 0 0 s t)) ∧
  (∀ (s : State) (src : Src),
  (s.guard src .TIM = true →
    (∀ v : BitVec 2, v.toNat ≠ s.rn .TIM_SRC → Does (.timSrc src v) s (.tim :: evParts .TIM) fun t => t.rn .TIM_SRC = v.toNat ∧ t.tim.now = s.tim.now ∧
      (v ≠ 2#2 ∨ s.rb .TIM_PTP_LOCK = false → (s.rn .TIM_QUAL = 2 → t.rn .TIM_QUAL = 3) ∧ (s.rn .TIM_QUAL ≠ 2 → t.rn .TIM_QUAL = s.rn .TIM_QUAL) ∧ NoEvent s t) ∧
      (v = 2#2 → s.rb .TIM_PTP_LOCK = true → s.rn .TIM_QUAL ≠ 0 → t.rn .TIM_QUAL = 2 ∧ Raised .TIM_I_LOCKED 0 0 s t) ∧
      (v = 0#2 ∨ v = 2#2 → t.rn .TIM_QUAL ≠ 3 → s.tim.adjLive = true → t.reg .TIM_FREQ_EFF = s.reg .TIM_ADJ_FREQ)) ∧
    (∀ v : Bool, s.rn .TIM_SRC ≠ 2 → Does (.timPtpLock src v) s [.reg .TIM] fun t => t.rb .TIM_PTP_LOCK = v ∧ regsOnly [(.TIM_PTP_LOCK, 0)] s t) ∧
    (s.rn .TIM_SRC = 2 → s.rn .TIM_QUAL = 1 ∨ s.rn .TIM_QUAL = 3 → Does (.timPtpLock src true) s (evParts .TIM) fun t => t.rb .TIM_PTP_LOCK = true ∧
      t.rn .TIM_QUAL = 2 ∧ Raised .TIM_I_LOCKED 0 0 s t) ∧
    (s.rn .TIM_SRC = 2 → s.rn .TIM_QUAL = 2 → Does (.timPtpLock src false) s [.tim, .reg .TIM] fun t => t.rb .TIM_PTP_LOCK = false ∧ t.rn .TIM_QUAL = 3 ∧
      (s.tim.adjLive = true → t.reg .TIM_FREQ_EFF = s.reg .TIM_ADJ_FREQ) ∧ (s.tim.adjLive = false → t.reg .TIM_FREQ_EFF = s.reg .TIM_FREQ_EFF)) ∧
    (∀ v : BitVec 32, s.servoSrc = false → Does (.timAdjFreq src v) s [.tim, .reg .TIM] fun t => t.tim = { s.tim with adjLive := true } ∧
      t.rn .TIM_ADJ_FREQ = unsignedOf 32 (clampFreq 1024 (signed 32 v.toNat)) ∧ t.reg .TIM_FREQ_EFF = t.reg .TIM_ADJ_FREQ ∧
      regsOnly [(.TIM_ADJ_FREQ, 0), (.TIM_FREQ_EFF, 0)] s t) ∧
    (∀ v : BitVec 32, s.servoSrc = true → Does (.timAdjFreq src v) s (evParts .TIM) fun t => Raised .TIM_E_SRC 0 0 s t ∧ regsOnly (evRegs .TIM_E_SRC 0) s t)) ∧
  (s.rn .TIM_QUAL = 3 → Does .holdoverEnd s (evParts .TIM) fun t => t.rn .TIM_QUAL = 1 ∧ t.rn .TIM_HOLD_ELAPSED = s.rn .TIM_HOLD_SEC ∧
    (s.servoSrc = false → s.tim.adjLive = true → t.reg .TIM_FREQ_EFF = s.reg .TIM_ADJ_FREQ) ∧
    Raised .TIM_W_HOLDOVER_END 0 0 s t) ∧
  (s.rn .TIM_QUAL ≠ 3 → exec .holdoverEnd s = .next s) ∧
  (s.rb .TIM_PPSOUT_EN = true → s.rb .TIM_FAST = true → s.tim.ppsRise.all (fun t => t + tickSec / 2 ≤ s.tim.stepFree) = true →
    exec .ppsOutRise s = .next { s with tim := { s.tim with ppsHigh := true, ppsRise := some s.tim.stepFree } }) ∧
  (s.rb .TIM_PPSOUT_EN = false ∨ s.rb .TIM_FAST = false → exec .ppsOutRise s = .next s) ∧
  (s.tim.ppsRise.all (fun t => t + max 1 (s.rn .TIM_PPSOUT_MS) * 1000000 * tickNs ≤ s.tim.stepFree) = true →
    exec .ppsOutFall s = .next { s with tim := { s.tim with ppsHigh := false } }) ∧
  (s.tim.ppsRise.all (fun t => t + max 1 (s.rn .TIM_PPSOUT_MS) * 1000000 * tickNs ≤ s.tim.stepFree) = false → exec .ppsOutFall s = .next s))

/-- R102, R435, R436: the refresh windows and their rate, the stack temperature. At +105 C the stack is a SAFE-HOLD cause. -/
def Obligations.Refresh : Prop := ∀ s : State,
  (s.reg .TIM_REFW_NEXT ≠ s.reg .TIM_REFW_INT → Does .refwRateChange s (.reg .TIM :: evParts .MEM) fun t => t.reg .TIM_REFW_INT = s.reg .TIM_REFW_NEXT ∧
    t.rb .MEM_HOT_INSERT = false ∧ Raised .TIM_I_REFW_RATE (s.rn .TIM_REFW_NEXT) 0 s t) ∧
  (s.rb .MEM_SELF_REF = false → s.rb .MEM_TRAINED = true → Does .refreshWindow s [.tim, .hbm, .ctr .MEM] fun t =>
    t.tim = { s.tim with refLast := s.tim.stepFree - (s.tim.now - s.refGrid * tickNs) } ∧ t.hbm = { s.hbm with neigh := t.hbm.neigh } ∧
    (∀ e ∈ t.hbm.neigh, ∃ x ∈ s.hbm.neigh, e = (x.1, x.2.drop 2)) ∧ (∀ e ∈ s.hbm.neigh, 2 < e.2.length → (e.1, e.2.drop 2) ∈ t.hbm.neigh) ∧
    t.ctr .MEM_CNT_NR_ISSUED = s.ctr .MEM_CNT_NR_ISSUED + BitVec.ofNat 64 (s.hbm.neigh.foldl (fun a e => a + min 2 e.2.length) 0)) ∧
  (∀ x : BitVec 16, s.mod.mode ≠ .off → s.mod.mode ≠ .dormant → signed 16 x.toNat < 420 →
    Does (.memTempSample x) s (.boot :: .fus :: .hbm :: .reg .TIM :: .reg .HEA :: evParts .MEM) fun t =>
      t.rn .MEM_STACK_TEMP = x.toNat ∧ sameHbm s t ∧ t.fus = { s.fus with stackHot := false } ∧
      ((4 * s.rn .MEM_REF_UP_C : Int) ≤ signed 16 x.toNat → t.rb .TIM_REFW_NEXT = true) ∧
      (signed 16 x.toNat < (4 * s.rn .MEM_REF_DN_C : Int) → signed 16 x.toNat < (4 * s.rn .MEM_REF_UP_C : Int) → s.hbm.dnCount = 9999 → t.rb .TIM_REFW_NEXT = false) ∧
      (340 ≤ signed 16 x.toNat → s.rb .TIM_REFW_INT = false → s.rb .MEM_HOT_INSERT = false → t.rb .MEM_HOT_INSERT = true)) ∧
  (∀ x : BitVec 16, 420 ≤ signed 16 x.toNat → safeHoldFrom s.mod.mode = true → s.mod.trans = none → Completes (.memTempSample x) s fun t =>
    t.mod.mode = .safeHold ∧ t.mod.holder = none ∧ t.boot.safeHealth = true ∧ t.fus.stackHot = true ∧ t.rb .HEA_FATAL = true ∧ t.rn .MEM_STACK_TEMP = x.toNat)

/-- R440 to R443: the scrubber corrects a one-bit error, marks more and moves on; the row that qualified first is replaced by a spare. -/
def Obligations.ScrubAndRemap : Prop := ∀ s : State,
  (∀ blk : BitVec 28, s.rb .MEM_SCRUB_EN = true → s.rb .MEM_INIT_FLAG = true → s.rb .MEM_SELF_REF = false → s.rb .MEM_NR_EN = false →
    (∀ e ∈ s.hbm.marks, e.1 / 8 ≠ blk.toNat) → Does (.memScrub blk 0#16) s [.hbm, .freeCtr, .reg .MEM, .ctr .MEM] fun t => t.hbm = { s.hbm with wq := t.hbm.wq } ∧ sameHbm s t ∧
      t.rn .MEM_SCRUB_PCT = (blk.toNat + 1) * 100 / 2 ^ 28 % 100 ∧ t.ctr .MEM_CNT_READ = s.ctr .MEM_CNT_READ + 1#64 ∧
      regsOnly [(.MEM_SCRUB_PCT, 0), (.MEM_SCRUB_PASSES, 0)] s t ∧
      t.rn .MEM_SCRUB_PASSES = if blk.toNat + 1 = 2 ^ 28 then satAdd (fieldMax .MEM_SCRUB_PASSES) (s.rn .MEM_SCRUB_PASSES) 1 else s.rn .MEM_SCRUB_PASSES) ∧
  (∀ blk : BitVec 28, s.rb .MEM_SCRUB_EN = true → s.rb .MEM_INIT_FLAG = true → s.rb .MEM_SELF_REF = false → s.rb .MEM_NR_EN = false →
    (∀ e ∈ s.hbm.marks, e.1 / 8 ≠ blk.toNat) → Completes (.memScrub blk 1#16) s fun t =>
      t.ctr .MEM_CNT_CORR = s.ctr .MEM_CNT_CORR + 1#64 ∧ t.ctr .MEM_CNT_UNCORR = s.ctr .MEM_CNT_UNCORR ∧ (∀ e ∈ t.hbm.marks, e.1 / 8 ≠ blk.toNat) ∧ sameHbm s t) ∧
  (∀ (row j n : Nat) (rest : List Nat), s.hbm.qual = row :: rest → row < 2 ^ 24 → s.freeSpare (row / 32768) = some j → s.freeRemap = some n →
    Does .remap s (.hbm :: .reg .HEA :: .ctr .MEM :: evParts .MEM) fun t => t.hbm.qual = rest ∧ sameHbm s t ∧ t.rb .MEM_RMP_VALID n = true ∧
      t.rb .MEM_RMP_FUSE n = false ∧ t.rn .MEM_RMP_PC n = row / 32768 / 16 ∧ t.rn .MEM_RMP_BANK n = row / 32768 % 16 ∧ t.rn .MEM_RMP_ROW n = row % 32768 ∧
      t.rn .MEM_RMP_SPARE n = j ∧ bitOf (t.hbm.spares.get 0 (row / 32768)) j = true ∧ t.ctr .MEM_CNT_REMAP = s.ctr .MEM_CNT_REMAP + 1#64 ∧
      LastEvent .MEM_I_REMAP row 0 t)

/-- R446, R447: the repair operations of REPAIR and the checker of TEST and REPAIR; outside these modes, or while one is in progress, MEM_E_CMD. -/
def Obligations.RepairAndChecker : Prop := ∀ (s : State) (src : Src),
  (s.guard src .MEM = true →
    (∀ (c : Instr) (op : Nat), (c, op) ∈ [(.testAll src, 1), (.burn src, 2)] → s.mod.mode = .repair → s.rn .MEM_RPR_OUT ≠ 1 → Does c s [.hbm, .reg .MEM] fun t =>
      t.rn .MEM_RPR_OUT = 1 ∧ t.hbm = { s.hbm with rprOp := op } ∧ regsOnly [(.MEM_RPR_OUT, 0)] s t) ∧
    (∀ c : Instr, c ∈ [.testAll src, .burn src] → s.mod.mode ≠ .repair ∨ s.rn .MEM_RPR_OUT = 1 → Does c s (evParts .MEM) fun t =>
      Raised .MEM_E_CMD 0 0 s t ∧ t.rn .MEM_RPR_OUT = if s.rn .MEM_RPR_OUT = 1 then 1 else 3) ∧
    (s.mod.mode = .test ∨ s.mod.mode = .repair → s.rn .MEM_CHK_OUT ≠ 1 →
      (Does (.writeComputed src) s [.hbm, .reg .MEM] fun t => t.rn .MEM_CHK_OUT = 2 ∧ t.hbm.check.find s.chkWord = none ∧ t.hbm.marks.find s.chkWord = none ∧
        (∀ i, i < 8 → t.hbmByte (8 * s.chkWord + i) = (leBytes 8 s.chkData.toNat).getD i 0#8) ∧
        ∀ a, a / 8 ≠ s.chkWord → t.hbmByte a = s.hbmByte a) ∧
      (Does (.writeRaw src) s [.hbm, .reg .MEM] fun t => t.rn .MEM_CHK_OUT = 2 ∧ t.hbm.check.find s.chkWord = some ((s.reg .MEM_CHK_CB).setWidth 8) ∧
        (∀ i, i < 8 → t.hbmByte (8 * s.chkWord + i) = (leBytes 8 s.chkData.toNat).getD i 0#8) ∧
        ∀ a, a / 8 ≠ s.chkWord → t.hbmByte a = s.hbmByte a) ∧
      (Does (.readRaw src) s [.reg .MEM] fun t => t.rn .MEM_CHK_OUT = 2 ∧ t.chkData = BitVec.ofNat 64 (s.hbmNat (8 * s.chkWord) 8) ∧
        (∀ b, s.hbm.check.find s.chkWord = some b → t.reg .MEM_CHK_CB = b.setWidth 32) ∧
        regsOnly [(.MEM_CHK_OUT, 0), (.MEM_CHK_DATA_LO, 0), (.MEM_CHK_DATA_HI, 0), (.MEM_CHK_CB, 0), (.MEM_CHK_SYND, 0)] s t)) ∧
    (∀ c : Instr, c ∈ [.writeComputed src, .writeRaw src, .readRaw src] → (s.mod.mode ≠ .test ∧ s.mod.mode ≠ .repair) ∨ s.rn .MEM_CHK_OUT = 1 →
      Does c s (evParts .MEM) fun t => Raised .MEM_E_CMD 0 0 s t ∧ t.rn .MEM_CHK_OUT = if s.rn .MEM_CHK_OUT = 1 then 1 else 3)) ∧
  (∀ rows spares, s.hbm.rprOp = 1 → Completes (.repairDone rows spares) s fun t => t.rn .MEM_RPR_OUT = 2 ∧ t.hbm.rprOp = 0 ∧ t.hbm.bytes = [] ∧ t.hbm.filled = false ∧
    t.rn .MEM_RPR_FAILROWS = min 65535 rows.length ∧ t.fus = s.fus ∧ LastEvent .MEM_I_RPR_DONE 0 0 t) ∧
  (∀ rows spares, s.hbm.rprOp = 2 → Completes (.repairDone rows spares) s fun t => t.rn .MEM_RPR_OUT = 2 ∧ t.hbm = { s.hbm with rprOp := 0 } ∧ fusesKept s t ∧
    (s.burnRemap.2 = 0 → ∀ n, n < 128 → s.rb .MEM_RMP_VALID n = true → t.rb .MEM_RMP_FUSE n = true) ∧ LastEvent .MEM_I_RPR_DONE 0 0 t) ∧
  (∀ rows spares, s.hbm.rprOp = 0 → exec (.repairDone rows spares) s = .next s)

/-- R415 to R417: a key command of the lease holder is accepted for a slot of its partition, and commits; a refused one zeroes the staging registers and
changes no slot. -/
def Obligations.KeyCommands : Prop := ∀ (s : State) (h : Fin 4) (i : Fin 16384),
  (s.leaseOk h = true → s.aut.cmd = none → s.holdsSlot h.val i.val = true →
    (∀ k, s.stagedKey = some k → Does (.keyLoad (.host h) i) s [.aut, .reg .AUT] fun t => t.aut = { s.aut with cmd := some { slot := i.val, new := some k } } ∧
      t.rn .AUT_KEY_OUT = 1 ∧ t.rn .AUT_KEY_SLOT = i.val ∧ regsOnly [(.AUT_KEY_OUT, 0), (.AUT_KEY_SLOT, 0)] s t) ∧
    (s.stagedKey = none → Does (.keyLoad (.host h) i) s (evParts .AUT) fun t => t.rn .AUT_KEY_OUT = 3 ∧ t.rn .AUT_KEY_ERR = Ev.code .AUT_E_USE ∧
      Raised .AUT_E_KEYCMD i.val (Ev.code .AUT_E_USE) s t ∧ t.stagingZero) ∧
    Does (.keyErase (.host h) i) s [.aut, .reg .AUT] fun t => t.aut = { s.aut with cmd := some { slot := i.val, new := none } } ∧ t.rn .AUT_KEY_OUT = 1 ∧
      t.rn .AUT_KEY_SLOT = i.val ∧ regsOnly [(.AUT_KEY_OUT, 0), (.AUT_KEY_SLOT, 0)] s t) ∧
  (∀ c : Instr, c ∈ [.keyLoad (.host h) i, .keyErase (.host h) i] → s.leaseOk h = true → s.aut.cmd = none → s.holdsSlot h.val i.val = false →
    Does c s (evParts .AUT) fun t => t.rn .AUT_KEY_OUT = 3 ∧ t.rn .AUT_KEY_ERR = Ev.code .AUT_E_PARTITION ∧
      Raised .AUT_E_KEYCMD i.val (Ev.code .AUT_E_PARTITION) s t ∧ t.stagingZero) ∧
  (∀ c : KeyCmd, s.aut.cmd = some c → Does .keyCommit s (.aut :: .ctr .AUT :: evParts .AUT) fun t => t.slot c.slot = c.new ∧ (∀ j, j ≠ c.slot → t.slot j = s.slot j) ∧
    t.aut.cmd = none ∧ t.aut.ops = s.aut.ops ∧ t.rn .AUT_KEY_OUT = 2 ∧ t.rn .AUT_KEY_ERR = 0 ∧ t.stagingZero ∧ t.ctr .AUT_CNT_KEY_LOAD = s.ctr .AUT_CNT_KEY_LOAD + 1#64 ∧
    Raised .AUT_I_KEY_LOADED c.slot 0 s t)

/-! ### Ports, buffers and traffic -/

/-- R109, R110, R129, R504: a line frame that arrives whole is counted and joins its pipeline's FIFO; a bad one is counted once and dropped; the first 64
bytes of an express frame are offered before its end. -/
def Obligations.LineFrames : Prop := ∀ (s : State) (p : Fin 48) (frame : List Byte), s.rb .PRT_LINK_UP p.val = true →
  (∀ (ok : Bool) (a b : BitVec 16) (c : Ctr), receives s.mod.mode = true → s.prt.inc.find p.val = none →
    (c = .PRT_CNT_SIZE_ERR ∧ (frame.length + 4 < 64 ∨ s.rn .PRT_MAX_FRAME p.val < frame.length + 4)) ∨
      (c = .PRT_CNT_FCS_ERR ∧ 64 ≤ frame.length + 4 ∧ frame.length + 4 ≤ s.rn .PRT_MAX_FRAME p.val ∧ ok = false) →
    Does (.frameReceive p frame ok 0#2 a b) s [.ctr .PRT] fun t => t.ctr c p.val = s.ctr c p.val + 1#64 ∧
      t.ctr .PRT_CNT_FEC_CORR p.val = s.ctr .PRT_CNT_FEC_CORR p.val + a.setWidth 64 ∧
      t.ctr .PRT_CNT_FEC_UNCORR p.val = s.ctr .PRT_CNT_FEC_UNCORR p.val + b.setWidth 64 ∧ t.ctr .PRT_CNT_RX_FRAMES p.val = s.ctr .PRT_CNT_RX_FRAMES p.val ∧
      ∀ (d : Ctr) (i : Nat), i ≠ p.val → t.ctr d i = s.ctr d i) ∧
  (∀ (a b : BitVec 16), 64 ≤ frame.length + 4 → frame.length + 4 ≤ s.rn .PRT_MAX_FRAME p.val → s.prt.inc.find p.val = none → beAt frame 12 2 ≠ 0x8808 →
    (s.mod.mode = .load ∨ s.mod.mode = .drain ∨ s.mod.mode = .test → Does (.frameReceive p frame true 0#2 a b) s [.ctr .PRT] fun t =>
      t.ctr .PRT_CNT_RX_FRAMES p.val = s.ctr .PRT_CNT_RX_FRAMES p.val + 1#64 ∧ t.ctr .PRT_CNT_MODE_DROP p.val = s.ctr .PRT_CNT_MODE_DROP p.val + 1#64) ∧
    (forwards s.mod.mode = true → frame.length + 4 ≤ s.poolSize 3 → s.redMode p.val = 0 → (s.pkts.any fun x => x.src == p.val && x.stage == .fifo) = false →
      Does (.frameReceive p frame true 0#2 a b) s [.pkts, .nextPkt, .freeCtr, .ctr .PRT] fun t =>
        t.ctr .PRT_CNT_RX_FRAMES p.val = s.ctr .PRT_CNT_RX_FRAMES p.val + 1#64 ∧
        t.ctr .PRT_CNT_RX_OCTETS p.val = s.ctr .PRT_CNT_RX_OCTETS p.val + BitVec.ofNat 64 (frame.length + 4) ∧ t.nextPkt = s.nextPkt + 1 ∧
        t.pkts.dropLast = s.pkts ∧ (t.pkts.getLast?.map fun q => (q.id, q.src, q.pipe, q.bytes, q.whole, q.express, q.stage)) =
          some (s.nextPkt, p.val, pipeOf p.val, frame, true, s.isExpress (pipeOf p.val) frame, .fifo))) ∧
  (forwards s.mod.mode = true → frame.length = 64 → s.isExpress (pipeOf p.val) frame = true → s.prt.inc.find p.val = none → s.redMode p.val = 0 →
    beAt frame 12 2 ≠ 0x8808 → Does (.expressOffer p frame) s [.pkts, .nextPkt, .freeCtr, .prt] fun t => t.pkts.dropLast = s.pkts ∧ t.nextPkt = s.nextPkt + 1 ∧
      t.prt.inc.find p.val = some s.nextPkt ∧ (t.pkts.getLast?.map fun q => (q.id, q.src, q.pipe, q.bytes, q.whole, q.express, q.stage)) =
        some (s.nextPkt, p.val, pipeOf p.val, frame, false, true, .fifo))

/-- R105 to R107, R110, R112, R116: the configuration writes of a port, stored or refused with PRT_E_CFG. -/
def Obligations.PortConfiguration : Prop := ∀ (s : State) (src : Src) (p : Fin 48) (v : BitVec 32), s.guard src .PRT = true →
  (s.isMember p.val = false → s.prtCfgBad p.val v.toNat = false → Completes (.prtCfg src p v) s fun t => t.rb .PRT_EN p.val = bitOf v.toNat 0 ∧
    t.rn .PRT_MODE p.val = bitsOf v.toNat 4 2 ∧ t.rn .PRT_FEC p.val = bitsOf v.toNat 6 5 ∧ t.rb .PRT_AN_EN p.val = bitOf v.toNat 7 ∧
    t.rn .PRT_MAX_FRAME p.val = clampN 1518 9600 (bitsOf v.toNat 31 18) ∧ t.mod = s.mod ∧ t.hbm = s.hbm ∧
    ∀ f ∈ [Field.PRT_EN, .PRT_MODE, .PRT_FEC, .PRT_AN_EN, .PRT_MAX_FRAME], ∀ i, i ≠ p.val → t.reg f i = s.reg f i) ∧
  (s.isMember p.val = false → s.prtCfgBad p.val v.toNat = true → Does (.prtCfg src p v) s (evParts .PRT) fun t => Raised .PRT_E_CFG p.val 0 s t ∧
    t.rb .PRT_EVT_CFG p.val = true ∧ regsOnly ((.PRT_EVT_CFG, p.val) :: evRegs .PRT_E_CFG p.val) s t) ∧
  (s.isMember p.val = true → exec (.prtCfg src p v) s = .next s) ∧
  (s.rb .PRT_LINK_UP p.val = false → bitOf v.toNat 0 = false ∨ (s.rn .PRT_MODE p.val ≠ 5 ∧ s.rn .PRT_MODE p.val ≠ 6) → Does (.prtPreCfg src p v) s [.reg .PRT] fun t =>
    t.rn .PRT_EXPRESS_TC p.val = Nat.lor (bitsOf v.toNat 31 24) 128 ∧ t.rn .PRT_PRE_VERIFY_MS p.val = bitsOf v.toNat 23 16 ∧
    t.rn .PRT_PRE_FRAG p.val = bitsOf v.toNat 3 2 ∧ t.rb .PRT_PRE_VERIFY_DIS p.val = bitOf v.toNat 1 ∧ t.rb .PRT_PRE_EN p.val = bitOf v.toNat 0 ∧
    (bitOf v.toNat 0 = false → t.rn .PRT_PRE_STATE p.val = 0)) ∧
  (bitOf v.toNat 0 = true → s.rn .PRT_MODE p.val = 5 ∨ s.rn .PRT_MODE p.val = 6 → Does (.prtPreCfg src p v) s (evParts .PRT) fun t =>
    Raised .PRT_E_CFG p.val 0 s t ∧ regsOnly ((.PRT_EVT_CFG, p.val) :: evRegs .PRT_E_CFG p.val) s t) ∧
  (bitsOf v.toNat 1 0 = 0 ∨ bitsOf v.toNat 1 0 = 3 → p.val % 2 = 0 ∨ p.val < 32 → Does (.prtRedCfg src p v) s [.reg .PRT] fun t =>
    t.rn .PRT_RED_MODE p.val = bitsOf v.toNat 1 0 ∧ t.rn .PRT_RED_SUPV_MS p.val = bitsOf v.toNat 31 20 ∧
    t.rn .PRT_RED_FORGET_MS p.val = bitsOf v.toNat 19 8 ∧ t.rb .PRT_RED_KEEP p.val = bitOf v.toNat 4 ∧ t.rb .PRT_RED_ROLE p.val = bitOf v.toNat 3 ∧
    regsOnly [(.PRT_RED_MODE, p.val), (.PRT_RED_SUPV_MS, p.val), (.PRT_RED_FORGET_MS, p.val), (.PRT_RED_KEEP, p.val), (.PRT_RED_ROLE, p.val)] s t) ∧
  (bitsOf v.toNat 1 0 = 1 ∨ bitsOf v.toNat 1 0 = 2 → p.val < 32 → Does (.prtRedCfg src p v) s (evParts .PRT) fun t =>
    Raised .PRT_E_CFG p.val 0 s t ∧ regsOnly ((.PRT_EVT_CFG, p.val) :: evRegs .PRT_E_CFG p.val) s t)

/-- R108, R113, R322, R487: the link of a port, auto-negotiation, a failed bring-up, and the verification of preemption. -/
def Obligations.PortLinks : Prop := ∀ (s : State) (p : Fin 48),
  (s.rb .PRT_LINK_UP p.val = false → s.rb .PRT_EN p.val = true → s.rn .PRT_MODE p.val ≠ 0 → s.rn .PRT_MODE p.val ≠ 2 → s.dom (portDom p.val) = dsOn →
    receives s.mod.mode = true → s.boot.srUnit ≠ 1 → s.rb .PRT_PRE_EN p.val = false → Does (.linkUp p) s (.fus :: evParts .PRT) fun t =>
      t.rb .PRT_LINK_UP p.val = true ∧ t.rb .PRT_PCS_LOCK p.val = true ∧ t.rb .PRT_FEC_LOCK p.val = decide (s.rn .PRT_FEC p.val ≠ 0) ∧
      t.fus.calFails.get 0 p.val = 0 ∧ Raised .PRT_I_LINK_UP p.val 0 s t) ∧
  (s.rb .PRT_LINK_UP p.val = true → s.prt.inc.find p.val = none → s.prt.txE.find p.val = none → s.prt.txP.find p.val = none → Does (.linkDown p) s (evParts .PRT) fun t => t.rb .PRT_LINK_UP p.val = false ∧
    t.rb .PRT_PCS_LOCK p.val = false ∧ t.rb .PRT_FEC_LOCK p.val = false ∧ t.rn .PRT_PRE_STATE p.val = 0 ∧ Raised .PRT_W_LINK_DOWN p.val 0 s t) ∧
  (s.rb .PRT_LINK_UP p.val = false → exec (.linkDown p) s = .next s) ∧
  (∀ n, s.rb .PRT_EN p.val = true → s.rb .PRT_AN_EN p.val = true → s.rn .PRT_MODE p.val = 2 →
    (n ≠ 10 → n ≠ 100 → Does (.autonegComplete p n) s [.prt] fun t => t.prt.slow.get false p.val = false ∧ t.prt = { s.prt with slow := t.prt.slow }) ∧
    (n = 10 ∨ n = 100 → Completes (.autonegComplete p n) s fun t => t.prt.slow.get false p.val = true ∧ t.rb .PRT_LINK_UP p.val = false ∧
      t.rb .PRT_EVT_SPEED p.val = true ∧ LastEvent .PRT_E_SPEED p.val 0 t)) ∧
  (s.rb .PRT_EN p.val = true → s.rb .PRT_LINK_UP p.val = false →
    (s.rn .HEA_LANE_CAL_TH = 0 ∨ s.fus.calFails.get 0 p.val + 1 < s.rn .HEA_LANE_CAL_TH → Does (.linkBringupFail p) s [.fus] fun t =>
      t.fus.calFails.get 0 p.val = s.fus.calFails.get 0 p.val + 1 ∧ t.fus = { s.fus with calFails := t.fus.calFails }) ∧
    (s.rn .HEA_LANE_CAL_TH ≠ 0 → s.rn .HEA_LANE_CAL_TH ≤ s.fus.calFails.get 0 p.val + 1 → Completes (.linkBringupFail p) s fun t =>
      t.laneRetired p.val = true ∧ (s.laneRetired p.val = false → t.rb .PRT_EN p.val = false ∧ t.rb .HEA_BURN_PEND = true))) ∧
  (s.rn .PRT_PRE_STATE p.val = 1 → s.prt.attempts.get 0 p.val < 3 → Does (.verifySend p) s [.prt] fun t =>
    t.prt.attempts.get 0 p.val = s.prt.attempts.get 0 p.val + 1 ∧ t.prt = { s.prt with attempts := t.prt.attempts }) ∧
  (s.rn .PRT_PRE_STATE p.val = 1 → s.prt.attempts.get 0 p.val ≠ 0 → Does (.verifyResponse p) s (evParts .PRT) fun t =>
    t.rn .PRT_PRE_STATE p.val = 2 ∧ t.rb .PRT_EVT_PRE p.val = true ∧ Raised .PRT_I_PRE_ACTIVE p.val 0 s t) ∧
  (s.rn .PRT_PRE_STATE p.val = 1 → s.prt.attempts.get 0 p.val = 3 → Does (.verifyFail p) s (evParts .PRT) fun t =>
    t.rn .PRT_PRE_STATE p.val = 3 ∧ Raised .PRT_E_VERIFY p.val 0 s t)

/-- R119, R121, R123, R114, R304, R312: the windows and partners of redundancy, preemption, and the end of a transmission: the frame has left with its rewrites,
it is counted, and its reference is given up. -/
def Obligations.RedundancyAndTransmission : Prop := ∀ s : State,
  (∀ i : Fin 16384, (s.gazAt i.val).valid = true →
    (Does (.windowForget i) s [.gaz] fun t => t.gazAt i.val = { s.gazAt i.val with winValid := false } ∧ ∀ j, j ≠ i.val → t.gazAt j = s.gazAt j) ∧
    ((s.gazAt i.val).learned = true → Does (.partnerEntryExpire i) s [.gaz] fun t => t.gazAt i.val = Gaz.none ∧ ∀ j, j ≠ i.val → t.gazAt j = s.gazAt j) ∧
    ((s.gazAt i.val).learned = false → exec (.partnerEntryExpire i) s = .next s) ∧
    ((s.gazAt i.val).lanLoss = false → Does (.lanLoss i) s (.gaz :: evParts .PRT) fun t => t.gazAt i.val = { s.gazAt i.val with lanLoss := true, sinceA := false, sinceB := false } ∧
      (∀ j, j ≠ i.val → t.gazAt j = s.gazAt j) ∧ Raised .PRT_W_LAN_LOSS (32 + 2 * (s.gazAt i.val).pair) i.val s t)) ∧
  (∀ (p : Fin 48) (n : Nat) (x : Tx), s.prt.txP.find p.val = some x → s.rn .PRT_PRE_STATE p.val = 2 → 60 + 64 * s.rn .PRT_PRE_FRAG p.val ≤ n →
    x.sent + n + 64 ≤ s.wireLen p.val x → Does (.preempt p n) s [.prt, .ctr .PRT] fun t => t.prt.txP.find p.val = some { x with sent := x.sent + n, frags := x.frags + 1 } ∧
      (∀ j, j ≠ p.val → t.prt.txP.find j = s.prt.txP.find j) ∧ t.ctr .PRT_CNT_PRE_TX_FRAG p.val = s.ctr .PRT_CNT_PRE_TX_FRAG p.val + 1#64 ∧
      t.prt = { s.prt with txP := t.prt.txP }) ∧
  (∀ (p : Fin 64) (x : Tx) (e : BitVec 2), p.val < 48 → s.prt.txE.find p.val = some x → x.ent.pkt = 0 → Completes (.replicaTransmitted p e) s fun t =>
    t.prt.txE.find p.val = none ∧ t.prt.txP = s.prt.txP ∧ t.prt.last.find p.val = some (s.frameOut p.val x (((s.buf x.ent.buf).map (·.bytes)).getD [])).1 ∧
    t.prt.badFcs.get false p.val = decide (2 ≤ e.toNat) ∧ t.ctr .PRT_CNT_TX_FRAMES p.val = s.ctr .PRT_CNT_TX_FRAMES p.val + 1#64 ∧
    t.ctr .PRT_CNT_TX_OCTETS p.val = s.ctr .PRT_CNT_TX_OCTETS p.val + BitVec.ofNat 64 ((s.frameOut p.val x (((s.buf x.ent.buf).map (·.bytes)).getD [])).1.length + 4) ∧
    (e = 0#2 → t.ctr .SWC_CNT_ECC_CORR = s.ctr .SWC_CNT_ECC_CORR ∧ t.ctr .SWC_CNT_ECC_UNCORR = s.ctr .SWC_CNT_ECC_UNCORR) ∧
    (e = 1#2 → t.ctr .SWC_CNT_ECC_CORR = s.ctr .SWC_CNT_ECC_CORR + 1#64) ∧ (2 ≤ e.toNat → t.ctr .SWC_CNT_ECC_UNCORR = s.ctr .SWC_CNT_ECC_UNCORR + 1#64) ∧
    ((s.buf x.ent.buf).map (fun b => (b.owner, b.st)) = some (p.val, .held) → x.ent.void = false → x.ent.owner = true → t.buf x.ent.buf = none) ∧ t.mod = s.mod ∧ t.hbm = s.hbm)

/-- R293 to R300, R304, R305: buffers for the packets of step 7, a held packet whose time ends, the replicas of a packet, the pool layout and the groups. -/
def Obligations.BuffersAndReplicas : Prop := ∀ (s : State) (src : Src),
  (s.nextAt 0 .pool = none → s.nextAt 1 .pool = none → exec .poolRequest s = .next { s with swc := { s.swc with rot := (s.swc.rot + 1) % 6 } }) ∧
  (∀ p : Packet, s.nextAt 0 .pool = some p → s.nextAt 1 .pool = none → nothingLeft p = false → s.replLevel 0 < 512 → p.buf = none → p.whole = true →
    p.bytes.length + 4 ≤ s.poolSize 0 → s.poolSize 0 ≤ s.poolSize 3 → s.poolCount 0 ≤ 131072 → escOf 0 + s.rn .SWC_WM_DROP 0 < s.phi 0 → Completes .poolRequest s fun t => ∃ h : Nat, poolOf h = 0 ∧ s.buf h = none ∧
      (t.buf h).map (fun b => (b.owner, b.st, b.bytes)) = some (ownPipe 0, .held, p.bytes) ∧ t.pkts = (s.setPkt { p with buf := some h, stage := .repl, holdEnd := none }).pkts ∧
      t.swc.rot = (s.swc.rot + 1) % 6 ∧ t.ctr .SWC_CNT_GRANT = s.ctr .SWC_CNT_GRANT + 1#64 ∧ t.rb .SWC_LAYOUT_LOCKED = true) ∧
  (∀ (k : Fin 2) (p : Packet), s.nextAt k.val .pool = some p → p.holdEnd.isSome = true → s.replLevel k.val < 512 → Completes (.protectedHoldExpiry k) s fun t =>
    (∀ q ∈ t.pkts, q.id ≠ p.id) ∧ t.ctr .SWC_CNT_ESC_DROP = s.ctr .SWC_CNT_ESC_DROP + 1#64 ∧ t.mod = s.mod) ∧
  (∀ (k : Fin 2) (p : Packet) (h q n : Nat) (b : Buf), s.nextAt k.val .repl = some p → p.buf = some h → s.buf h = some b → p.slice = none → p.hand = none → p.whole = true →
    p.dest = .ports (2 ^ q) → q < 32 → p.prune = none → p.insets = 0 → (∀ i, i < 8 → s.rb .SWC_INS_EN i = false) → p.dp = 0 →
    s.queueFor q p.tc p.pin = some n → 16384 < s.entFree → (s.queue n).depth + units (p.bytes.length + 4) ≤ s.rn .TMG_Q_MAX n → Completes (.replicate k) s fun t =>
      (t.queue n).ents.dropLast = (s.queue n).ents ∧
      ((t.queue n).ents.getLast?.map fun e => (e.buf, e.len, e.tc, e.owner)) = some (h, p.bytes.length + 4, p.tc, true) ∧ (∀ x ∈ t.pkts, x.id ≠ p.id) ∧
      (t.buf h).map (fun c => (c.owner, c.st, c.count)) = some (q, .held, 0) ∧ t.ctr .SWC_CNT_REPLICA = s.ctr .SWC_CNT_REPLICA + 1#64 ∧
      t.ctr .TMG_CNT_ENQ = s.ctr .TMG_CNT_ENQ + 1#64) ∧
  (s.guard src .SWC = true → s.mod.mode = .load → s.rb .SWC_LAYOUT_LOCKED = false → layoutOk s.layoutRegs = true → Does (.swcLayoutApply src) s (.swc :: evParts .SWC) fun t =>
    t.swc = { s.swc with layout := s.layoutRegs, minFree := [], escMin := [] } ∧ Raised .SWC_I_LAYOUT 0 0 s t) ∧
  (s.guard src .SWC = true → s.mod.mode ≠ .load ∨ s.rb .SWC_LAYOUT_LOCKED = true ∨ layoutOk s.layoutRegs = false → Does (.swcLayoutApply src) s (evParts .SWC) fun t =>
    Raised .SWC_E_LAYOUT 0 0 s t ∧ regsOnly (evRegs .SWC_E_LAYOUT 0) s t) ∧
  (∀ (g : Fin 4096) (v : BitVec 32), s.guard src .SWC = true → Does (.swcRgMaskH src g v) s [.swc, .reg .SWC] fun t => t.rb .SWC_RG_PRUNE g.val = v.getLsbD 31 ∧
    t.rn .SWC_RG_MASK_HOST g.val = bitsOf v.toNat 27 24 ∧ t.rn .SWC_RG_MASK_H g.val = bitsOf v.toNat 15 0 ∧ t.swc.rgLow.get 0#32 g.val = s.reg .SWC_RG_MASK_L g.val ∧
    (∀ j, j ≠ g.val → t.swc.rgLow.get 0#32 j = s.swc.rgLow.get 0#32 j) ∧
    regsOnly [(.SWC_RG_PRUNE, g.val), (.SWC_RG_MASK_HOST, g.val), (.SWC_RG_MASK_H, g.val)] s t)

/-- R319, R322 to R330, R334: queue selection and discard, the tag sweep, the wheels, and the configuration of class groups, queues and shapers. -/
def Obligations.QueuesAndShapers : Prop := ∀ (s : State) (src : Src),
  (∀ (p : Fin 64) (q u : Nat) (e : QEnt) (l : List QEnt), isEgress p.val = true → s.portUp p.val = true → s.selection p.val false = some (q, u) →
    (s.queue q).ents = e :: l → Completes (.queueSelect p false) s fun t => (t.queue q).ents = l ∧ (t.prt.txE.find p.val).map (·.ent) = some e ∧
      t.ctr .TMG_CNT_DEQ = s.ctr .TMG_CNT_DEQ + 1#64 ∧ t.tmg.ents = s.tmg.ents - 1 ∧ t.pkts = s.pkts) ∧
  (∀ (p : Fin 64) (b : Bool), isEgress p.val = false ∨ s.portUp p.val = false ∨ s.selection p.val b = none → exec (.queueSelect p b) s = .next s) ∧
  (∀ (q : Fin 32768) (e : QEnt) (l : List QEnt) (k : Nat), (s.queue q.val).ents = e :: l → s.cgOf q.val = some k →
    (e.void = true → Completes (.headDiscard q) s fun t => (t.queue q.val).ents = l ∧ t.ctr .TMG_CNT_VOID = s.ctr .TMG_CNT_VOID + 1#64 ∧ t.swc.bufs = s.swc.bufs) ∧
    (e.void = false → s.portUp (k / 8) = false → Completes (.headDiscard q) s fun t => (t.queue q.val).ents = l ∧
      t.ctr .TMG_CNT_LINKDOWN = s.ctr .TMG_CNT_LINKDOWN + 1#64) ∧
    (e.void = false → s.portUp (k / 8) = true → exec (.headDiscard q) s = .next s)) ∧
  (Does .tagSweep s [.tmg] fun t => t.tmg = { s.tmg with queues := t.tmg.queues } ∧ ∀ e ∈ s.tmg.queues, e.2 ≠ Queue.none →
    (e.2.ents.isEmpty = false ∨ s.cgOf e.1 = none → e ∈ t.tmg.queues) ∧
    (∀ k, k < 512 → s.cgOf e.1 = some k → e.2.ents.isEmpty = true → ahead e.2.fLast (s.tmg.vtime.get 0 k) = false → (e.1, { e.2 with fLast := s.tmg.vtime.get 0 k }) ∈ t.tmg.queues ∨
      { e.2 with fLast := s.tmg.vtime.get 0 k } = Queue.none)) ∧
  (s.tmg.carried = [] → (∀ e ∈ s.tmg.wheel, s.tmg.slot + 1 < e.1) → Does .fineWheelSlot s [.tmg] fun t => t.tmg = { s.tmg with slot := s.tmg.slot + 1 }) ∧
  (∀ n, s.tmg.carried = [] → s.tmg.wheel = [(s.tmg.slot + 1, .pub n)] → Does .fineWheelSlot s [.tmg] fun t =>
    t.tmg = { s.tmg with slot := s.tmg.slot + 1, wheel := [], pubDue := s.tmg.pubDue ++ [n] }) ∧
  (Does .overflowWheelSlot s [.tmg, .reg .TMG] fun t => t.reg .TMG_WHEEL_CNT = s.reg .TMG_WHEEL_CNT + 1#32 ∧ regsOnly [(.TMG_WHEEL_CNT, 0)] s t ∧
    t.tmg = { s.tmg with wheel := s.tmg.wheel ++ s.tmg.ovf.filter (fun e => decide (e.1 < s.tmg.slot + 4096)),
                         ovf := s.tmg.ovf.filter fun e => !decide (e.1 < s.tmg.slot + 4096) }) ∧
  (s.guard src .TMG = true →
    (∀ (p : Fin 64) (k : Fin 8) (v : BitVec 32), isEgress p.val = true → (p.val < 48 → s.rb .PRT_EN p.val = true → s.mod.mode = .load) → bitsOf v.toNat 19 16 ≤ 8 →
      bitsOf v.toNat 14 0 + 2 ^ bitsOf v.toNat 19 16 ≤ 32704 → v.getLsbD 31 = false → Does (.tmgCg src p k v) s [.reg .TMG] fun t =>
        t.rb .TMG_CG_EN (8 * p.val + k.val) = false ∧ t.rn .TMG_CG_LOG2N (8 * p.val + k.val) = bitsOf v.toNat 19 16 ∧
        t.rn .TMG_CG_BASE (8 * p.val + k.val) = bitsOf v.toNat 14 0 ∧
        regsOnly [(.TMG_CG_EN, 8 * p.val + k.val), (.TMG_CG_LOG2N, 8 * p.val + k.val), (.TMG_CG_BASE, 8 * p.val + k.val)] s t) ∧
    (∀ (q : Fin 32768) (v : BitVec 32), s.queueOk q.val = true → (Does (.tmgQCfg src q 0 v) s [.reg .TMG] fun t => t.rb .TMG_Q_SH_EN q.val = v.getLsbD 31 ∧
        t.rn .TMG_Q_SH q.val = bitsOf v.toNat 27 16 ∧ t.rn .TMG_Q_WEIGHT q.val = bitsOf v.toNat 9 0 ∧
        regsOnly [(.TMG_Q_SH_EN, q.val), (.TMG_Q_SH, q.val), (.TMG_Q_WEIGHT, q.val)] s t) ∧
      Does (.tmgQCfg src q 1 v) s [.reg .TMG] fun t => t.rn .TMG_Q_MAX q.val = bitsOf v.toNat 15 0 ∧ regsOnly [(.TMG_Q_MAX, q.val)] s t) ∧
    (∀ (i : Fin 4096) (v : BitVec 32), s.namers i.val = [] → v.getLsbD 31 = true → Does (.shaperConfig src false i 0 v) s [.reg .TMG] fun t =>
      t.rb .TMG_QS_EN i.val = true ∧ t.rn .TMG_QS_RATE i.val = bitsOf v.toNat 23 0 ∧ regsOnly [(.TMG_QS_EN, i.val), (.TMG_QS_RATE, i.val)] s t) ∧
    (∀ (i : Fin 4096) (v : BitVec 32), v.getLsbD 31 = false → Does (.shaperConfig src true i 0 v) s [.tmg, .reg .TMG] fun t =>
      t.rb .TMG_GS_EN (i.val % 512) = false ∧ t.rn .TMG_GS_RATE (i.val % 512) = bitsOf v.toNat 23 0 ∧ (t.shaper (4096 + i.val % 512)).en = false ∧
      (∀ e ∈ t.tmg.wheel ++ t.tmg.ovf ++ t.tmg.carried, e.2 ≠ .gs (i.val % 512))) ∧
    (∀ (i : Fin 4096) (v : BitVec 32), s.namers i.val = [] → s.rb .TMG_QS_EN i.val = true → Does (.shaperConfig src false i 1 v) s [.reg .TMG] fun t =>
      t.rn .TMG_QS_BURST i.val = bitsOf v.toNat 23 0 ∧ regsOnly [(.TMG_QS_BURST, i.val)] s t))

/-! ### The monitor, fuses and register access -/

/-- R57, R64, R493: MON_REQ low for 1 ms or more opens a session alongside traffic, leads to MONITOR, or is refused; EXIT and 600 s without input end a session
alongside traffic; BAUD AUTO measures a 0x55, or returns to 115,200.
R494: a line of printable characters runs its command where its check holds; one too long, with other characters or with a wrong check is answered ER 0x1401;
a line of which more than 256 characters arrived while a command ran is discarded. -/
def Obligations.MonitorSessionsAndLines : Prop :=
  (∀ s : State,
  (∀ n, 1000000 ≤ n →
    (s.mod.mode ∈ [.run, .isolated, .drain] → s.mon.isOpen = false → Does (.monReq n) s (.mon :: evParts .GLB) fun t => t.mon.isOpen = true ∧
      t.mon.baud = 115200 ∧ t.mon.jtag = s.mon.jtag ∧ Raised .MON_I_OPEN 0 0 s t ∧ regsOnly (evRegs .MON_I_OPEN 0) s t) ∧
    (s.mod.mode ∈ [.run, .isolated, .drain] → s.mon.isOpen = true → exec (.monReq n) s = .next s) ∧
    (s.mod.mode = .boot ∨ (s.mod.mode ∈ [.dormant, .standby, .safeHold] ∧ s.rb .PWR_VIN_OK = true) → s.mod.trans = none → Completes (.monReq n) s fun t =>
      t.mod.mode = .monitor ∧ t.mod.trans = none ∧ t.mod.holder = none ∧ t.mon.isOpen = true ∧ t.fus.array = s.fus.array ∧ t.flash = s.flash ∧
      LastEvent .GLB_I_MODE (modeCode s.mod.mode) 3 t) ∧
    (s.mod.mode ∈ [.load, .test, .repair, .monitor] ∨ (s.mod.mode = .boot ∧ s.mod.trans.isSome = true) → Does (.monReq n) s (evParts .GLB) fun t =>
      Raised .GLB_E_MODE_REFUSED 0 0 s t ∧ regsOnly (evRegs .GLB_E_MODE_REFUSED 0) s t)) ∧
  exec (.monReq 0) s = .next s ∧
  (∀ c ∈ [Instr.exit, .monitorSessionTimeout], s.mon.isOpen = true → s.mod.mode ≠ .monitor → Does c s (.mon :: evParts .GLB) fun t => t.mon.isOpen = false ∧
    t.mon.auto = false ∧ t.mon.baud = s.mon.baud ∧ Raised .MON_I_CLOSE 0 0 s t ∧ regsOnly (evRegs .MON_I_CLOSE 0) s t) ∧
  (s.mod.mode = .monitor → exec .monitorSessionTimeout s = .next s) ∧
  (∀ n, s.mon.isOpen = true → 9600 ≤ n → n ≤ 3000000 → Does (.baud n) s [.mon] fun t =>
    t.mon = { s.mon with status := 0#16, data := [], baud := n, auto := false }) ∧
  (s.mon.isOpen = true → Does .baudAuto s [.mon] fun t => t.mon = { s.mon with status := 0#16, data := [], auto := true }) ∧
  (∀ n, s.mon.isOpen = true → s.mon.auto = true → 9600 ≤ n → n ≤ 3000000 → Does (.autobaudCharacter n) s [.mon, .freeCtr] fun t =>
    t.mon = { s.mon with baud := t.mon.baud, auto := false } ∧ 99 * n ≤ 100 * t.mon.baud + 99 ∧ 100 * t.mon.baud ≤ 101 * n + 99) ∧
  (s.mon.auto = true → Does .baudAutoTimeout s [.mon] fun t => t.mon = { s.mon with baud := 115200, auto := false }) ∧
  (s.mon.auto = false → exec .baudAutoTimeout s = .next s)) ∧
  (∀ (s : State) (l : List Byte) (early : Nat), s.mon.isOpen = true →
  (256 < early → Does (.monitorLine l early) s (evParts .GLB) fun t => Raised .MON_W_OVERRUN 0 0 s t ∧ regsOnly (evRegs .MON_W_OVERRUN 0) s t) ∧
  (early ≤ 256 → (250 < (l.filter (· != 0x0A#8)).length ∨ ∃ b ∈ l, b ≠ 0x0A#8 ∧ (b.toNat < 0x20 ∨ 0x7E < b.toNat)) → Does (.monitorLine l early) s [.mon] fun t =>
    t.mon = { s.mon with status := 0x1401#16, data := [], crc := false }) ∧
  (early ≤ 256 → (∀ b ∈ l, 0x20 ≤ b.toNat ∧ b.toNat ≤ 0x7E) → l.length ≤ 250 → (∀ b ∈ l, b ≠ 0x2A#8) → Does (.monitorLine l early) s [.mon] fun t =>
    t.mon = { s.mon with crc := false }) ∧
  (∀ (m : List Byte) (a b c d : BitVec 4), l = m ++ [0x2A#8, hexDigit a.toNat, hexDigit b.toNat, hexDigit c.toNat, hexDigit d.toNat] → early ≤ 256 →
    (∀ x ∈ m, 0x20 ≤ x.toNat ∧ x.toNat ≤ 0x7E) → l.length ≤ 250 → Does (.monitorLine l early) s [.mon] fun t =>
      t.mon = (if crc16 m = (a ++ b) ++ (c ++ d) then { s.mon with crc := true } else { s.mon with crc := true, status := 0x1401#16, data := [] })))

/-- R495: under FO_MON_LOCK every command but those of the rule is answered 0x1403, a command outside its modes 0x1402, and without a session nothing happens. -/
def Obligations.MonitorRefusals : Prop := ∀ (s : State) (c : Instr),
  ((∃ m t, c = .mode m t) ∨ (∃ o v, c = .wr o v) ∨ (∃ h d, c = .monitorLoad h d) ∨ (∃ a n, c = .flashRd a n) ∨ (∃ a, c = .flashEr a) ∨ (∃ a d, c = .flashWr a d) ∨
    (∃ w v b, c = .fuseWr w v b) ∨ (∃ b, c = .fuseSeal b) ∨ c = .hbmTest ∨ c = .hbmBurn → s.mon.isOpen = true → s.monLock = true →
    Does c s [.mon] fun t => t.mon = { s.mon with status := 0x1403#16, data := [] }) ∧
  ((∃ h d, c = .monitorLoad h d) ∨ (∃ a n, c = .flashRd a n) ∨ (∃ a, c = .flashEr a) ∨ (∃ a d, c = .flashWr a d) ∨
    (∃ w v b, c = .fuseWr w v b) ∨ (∃ b, c = .fuseSeal b) → s.mod.mode ≠ .monitor → s.mon.isOpen = true → s.monLock = false →
    Does c s [.mon] fun t => t.mon = { s.mon with status := 0x1402#16, data := [] }) ∧
  (c = .hbmTest ∨ c = .hbmBurn → s.mod.mode ≠ .repair → s.mon.isOpen = true → s.monLock = false → Does c s [.mon] fun t =>
    t.mon = { s.mon with status := 0x1402#16, data := [] }) ∧
  (c = .exit → s.mod.mode = .monitor → s.mon.isOpen = true → Does c s [.mon] fun t => t.mon = { s.mon with status := 0x1402#16, data := [] }) ∧
  (c ∈ [Instr.id, .reset, .cap, .health, .hbmTest, .hbmBurn, .baudAuto, .exit] ∨ (∃ m t, c = .mode m t) ∨ (∃ o n, c = .rd o n) ∨ (∃ o v, c = .wr o v) ∨
    (∃ n, c = .evt n) ∨ (∃ w n, c = .fuseRd w n) ∨ (∃ n, c = .baud n) ∨ (∃ l n, c = .monitorLine l n) ∨ (∃ a d, c = .flashWr a d) →
    s.mon.isOpen = false → exec c s = .next s)

/-- Table 18.5: the commands that show: identity, mode, registers, event log, capacity, health, flash and fuses. -/
def Obligations.MonitorReads : Prop := ∀ s : State, s.mon.isOpen = true →
  (Does .id s [.mon] fun t => t.mon = { s.mon with status := 0#16, data := [s.reg .GLB_PART_NUM, BitVec.ofNat 32 (bitsOf (s.fuse 8).toNat 7 0),
    if (s.fuse 8).getLsbD 8 = true then 1#32 else 0#32, BitVec.ofNat 32 s.modeRead, s.reg .GLB_RESET_CAUSE, s.mod.epoch] }) ∧
  (∀ x, s.monLock = false → Does (.mode none x) s [.mon] fun t => t.mon = { s.mon with status := 0#16, data := [BitVec.ofNat 32 s.modeRead] }) ∧
  (∀ o : BitVec 24, o.toNat % 4 = 0 → Completes (.rd o 1#8) s fun t => t.mon = { s.mon with status := 0#16, data := [(s.regRead .steward o.toNat).1] } ∧
    t.mod = s.mod ∧ t.ctrs = s.ctrs ∧ NoEvent s t) ∧
  (∀ (o : BitVec 24) (n : BitVec 8), o.toNat % 4 ≠ 0 ∨ 64 < n.toNat → Does (.rd o n) s [.mon] fun t => t.mon = { s.mon with status := 0x1402#16, data := [] }) ∧
  (∀ n : BitVec 8, n.toNat ≤ 64 → n.toNat ≤ s.logRecs.length → Does (.evt n) s [.mon] fun t => t.mon = { s.mon with status := 0#16, data := t.mon.data } ∧
    t.mon.data.length = 8 * n.toNat ∧ ∀ i, i < n.toNat → ∀ r, s.logRecs.find ((s.rn .GLB_EVT_WPTR + 1024 - n.toNat + i) % 1024) = some r →
      (t.mon.data.drop (8 * i)).take 2 = [r.sec, r.ns]) ∧
  (Does .cap s [.mon] fun t => t.mon = { s.mon with status := 0#16, data := [s.wordNow .steward .HEA 0x100, s.wordNow .steward .HEA 0x104,
    s.wordNow .steward .HEA 0x108, s.wordNow .steward .HEA 0x10C] }) ∧
  (Does .health s [.mon] fun t => t.mon = { s.mon with status := 0#16, data := t.mon.data } ∧ t.mon.data.length = 6 ∧
    t.mon.data.take 2 = [s.wordNow .steward .HEA 0, s.wordNow .steward .HEA 4] ∧ t.mon.data.getLast? = some (s.pwr.phases.setWidth 32)) ∧
  (∀ (a : BitVec 32) (n : BitVec 13), n.toNat ≤ 4096 → s.mod.mode = .monitor → s.monLock = false → Does (.flashRd a n) s [.mon] fun t =>
    t.mon = { s.mon with status := 0#16, data := t.mon.data } ∧ t.mon.data = (s.flashBytes a.toNat n.toNat).map (BitVec.setWidth 32)) ∧
  (∀ (w n : BitVec 8), n.toNat ≤ 64 → w.toNat + n.toNat ≤ 256 → Does (.fuseRd w n) s [.mon] fun t => t.mon = { s.mon with status := 0#16, data := t.mon.data } ∧
    t.mon.data = (List.range' w.toNat n.toNat).map fun i => s.fus.array.get 0#32 i)

/-- Table 18.5: the commands that act: mode changes, a register write as the steward, the flash, the load from the manifest, and the repair operations. -/
def Obligations.MonitorActs : Prop := ∀ s : State, s.mon.isOpen = true → s.monLock = false →
  (s.mod.mode = .monitor → s.mod.trans = none →
    (∀ x, Completes (.mode (some 4#4) x) s fun t => t.mod.mode = .load ∧ t.mod.trans = none ∧ t.mon.status = 0#16 ∧ LastEvent .GLB_I_MODE 3 4 t) ∧
    (∀ x, Completes (.mode (some 10#4) x) s fun t => t.mod.mode = .repair ∧ t.mon.status = 0#16 ∧ t.rb .MEM_INIT_FLAG = false ∧ t.hbm.bytes = []) ∧
    (∀ x, s.dbgLock = false → Completes (.mode (some 9#4) x) s fun t => t.mod.mode = .test ∧ t.mon.status = 0#16) ∧
    (∀ x, s.dbgLock = true → Does (.mode (some 9#4) x) s (.mon :: evParts .GLB) fun t => t.mon.status = 0x0101#16 ∧ Raised .GLB_E_MODE_REFUSED 0 0 s t)) ∧
  (∀ (m x : BitVec 4), s.mod.mode ≠ .monitor → m ≠ 8#4 → Does (.mode (some m) x) s (.mon :: evParts .GLB) fun t =>
    t.mon.status = BitVec.ofNat 16 (Ev.code .GLB_E_MODE_REFUSED) ∧ Raised .GLB_E_MODE_REFUSED 0 0 s t) ∧
  (s.mod.mode = .isolated → s.mod.trans = none → ∀ x m, drainTargetOf x.toNat = some m → Completes (.mode (some 8#4) x) s fun t => t.mod.mode = .drain ∧
    t.mod.trans = some .drain ∧ t.boot.drainTarget = m ∧ t.mon.status = 0#16) ∧
  (∀ (o : BitVec 24) (v : BitVec 32), o.toNat % 4 = 0 → ∃ u, s.regWrite .steward o.toNat v = .next u ∧ exec (.wr o v) s = .next { u with mon := { u.mon with status := 0#16, data := [] } }) ∧
  (s.mod.mode = .monitor →
    (∀ a : BitVec 32, Does (.flashEr a) s [.mon, .flash] fun t => t.mon = { s.mon with status := 0#16, data := [] } ∧
      ∀ x, t.flash.get 0xFF#8 x = if x / 4096 = a.toNat / 4096 then 0xFF#8 else s.flash.get 0xFF#8 x) ∧
    (∀ (a : BitVec 32) (l : List Byte), Does (.flashWr a l) s [.mon, .flash] fun t => t.mon = { s.mon with status := 0#16, data := [] } ∧
      ∀ x, t.flash.get 0xFF#8 x = if a.toNat ≤ x ∧ x < a.toNat + l.length then l.getD (x - a.toNat) 0#8 else s.flash.get 0xFF#8 x) ∧
    (∀ b d, s.mod.trans = none → Completes (.monitorLoad b d) s fun t => t.boot.density = d ∧
      ((s.takeSfdp b d).readManifest.1 = none → changesOnly (.mon :: .boot :: .freeCtr :: evParts .GLB) s t ∧ t.mon.status = BitVec.ofNat 16 (Ev.code .GLB_E_BOOT) ∧
        LastEvent .GLB_E_BOOT 0 0 t) ∧
      ∀ l, (s.takeSfdp b d).readManifest.1 = some l → t.mod.mode = .load ∧ t.boot.stewardLoad = true ∧ t.boot.manifest = l.filter (fun e => e.1 != 1) ∧ t.mon.status = 0#16)) ∧
  (s.mod.mode = .repair → s.rn .MEM_RPR_OUT ≠ 1 → ∀ c n, (c, n) ∈ [(Instr.hbmTest, 1), (.hbmBurn, 2)] → Does c s [.mon, .hbm, .reg .MEM] fun t =>
    t.mon = { s.mon with status := 0#16, data := [] } ∧ t.rn .MEM_RPR_OUT = 1 ∧ t.hbm = { s.hbm with rprOp := n } ∧ regsOnly [(.MEM_RPR_OUT, 0)] s t) ∧
  (s.mod.mode = .repair → s.rn .MEM_RPR_OUT = 1 → ∀ c ∈ [Instr.hbmTest, .hbmBurn], Does c s (.mon :: evParts .MEM) fun t =>
    t.mon = { s.mon with status := BitVec.ofNat 16 (Ev.code .MEM_E_CMD), data := [] } ∧ Raised .MEM_E_CMD 0 0 s t ∧ t.rn .MEM_RPR_OUT = 1)

/-- R485, R486, R489: programming and sealing fuses, the burning of retirement flags, and JTAG under FO_DBG_LOCK. Bits only ever set; a bit that does not
program is reported. -/
def Obligations.FusesAndJtag : Prop := ∀ s : State,
  (∀ (w : BitVec 8) (v bad : BitVec 32), s.mon.isOpen = true → s.monLock = false → s.mod.mode = .monitor →
    (s.progCond = false → Does (.fuseWr w v bad) s (.mon :: evParts .FUS) fun t => t.rn .FUS_PROG_OUT = 3 ∧ t.rn .FUS_PROG_ERR = Ev.code .FUS_E_COND ∧
      t.mon.status = BitVec.ofNat 16 (Ev.code .FUS_E_COND) ∧ Raised .FUS_E_COND 0 0 s t) ∧
    (s.progCond = true → w.toNat < 64 ∨ 128 ≤ w.toNat → Does (.fuseWr w v bad) s (.mon :: evParts .FUS) fun t => t.rn .FUS_PROG_OUT = 3 ∧
      t.mon.status = BitVec.ofNat 16 (Ev.code .FUS_E_SEALED) ∧ Raised .FUS_E_SEALED 0 0 s t) ∧
    (s.progCond = true → 64 ≤ w.toNat → w.toNat < 128 → ownerSealed s.fus.array = false → v &&& bad = 0#32 → Does (.fuseWr w v bad) s [.mon, .fus, .reg .FUS] fun t =>
      t.fus = { s.fus with array := t.fus.array } ∧ t.fus.array.get 0#32 w.toNat = s.fus.array.get 0#32 w.toNat ||| v ∧
      (∀ x, x ≠ w.toNat → t.fus.array.get 0#32 x = s.fus.array.get 0#32 x) ∧ t.rn .FUS_PROG_OUT = 2 ∧ t.rn .FUS_PROG_ERR = 0 ∧ t.mon.status = 0#16) ∧
    (s.progCond = true → 64 ≤ w.toNat → w.toNat < 128 → ownerSealed s.fus.array = false → v &&& bad &&& ~~~s.fus.array.get 0#32 w.toNat ≠ 0#32 →
      Does (.fuseWr w v bad) s (.mon :: .fus :: evParts .FUS) fun t => t.fus.array.get 0#32 w.toNat = s.fus.array.get 0#32 w.toNat ||| (v &&& ~~~bad) ∧
      t.rn .FUS_PROG_OUT = 3 ∧ t.mon.status = BitVec.ofNat 16 (Ev.code .FUS_E_PROG) ∧ Raised .FUS_E_PROG 0 0 s t)) ∧
  (s.mon.isOpen = true → s.monLock = false → s.mod.mode = .monitor → s.progCond = true →
    (ownerValid s.fus.array = false → Does (.fuseSeal 0#32) s (.mon :: evParts .FUS) fun t => t.rn .FUS_PROG_OUT = 3 ∧
      t.mon.status = BitVec.ofNat 16 (Ev.code .FUS_E_OWNER_INVALID) ∧ Raised .FUS_E_OWNER_INVALID 0 0 s t) ∧
    (ownerValid s.fus.array = true → s.fus.array.get 0#32 127 = 0#32 → s.fus.array.get 0#32 126 = 0#32 → Does (.fuseSeal 0#32) s (.mon :: .fus :: evParts .FUS) fun t =>
      t.fus.array.get 0#32 126 = 0x0000A5A5#32 ∧ t.fus.array.get 0#32 127 = ownerCrc (s.fus.array.put 0#32 126 0x0000A5A5#32) ∧ t.fus.shadow = s.fus.shadow ∧
      (∀ x, x ≠ 126 → x ≠ 127 → t.fus.array.get 0#32 x = s.fus.array.get 0#32 x) ∧ t.rn .FUS_PROG_OUT = 2 ∧ t.mon.status = 0#16 ∧ Raised .FUS_I_SEALED 0 0 s t)) ∧
  (∀ i, i < 512 → s.progCond = true → s.fus.burn = [i] → Does (.healthBurn []) s [.fus, .reg .HEA] fun t => t.fus = { s.fus with array := t.fus.array, burn := [] } ∧
    (t.fus.array.get 0#32 (224 + i / 32)).getLsbD (i % 32) = true ∧ (t.fus.array.get 0#32 (240 + i / 32)).getLsbD (i % 32) = true ∧
    (∀ w, w ≠ 224 + i / 32 → w ≠ 240 + i / 32 → t.fus.array.get 0#32 w = s.fus.array.get 0#32 w) ∧ t.rb .HEA_BURN_PEND = false ∧ regsOnly [(.HEA_BURN_PEND, 0)] s t) ∧
  (∀ l i, s.progCond = true → i ∈ s.fus.burn → i ∈ l → Completes (.healthBurn l) s fun t => t.rb .HEA_C_BURN = true ∧ t.rb .HEA_REPLACE = true ∧
    t.fus.burn = [] ∧ t.rb .HEA_BURN_PEND = false ∧ (s.rb .HEA_C_BURN = true → LastEvent .HEA_E_BURN 0 0 t)) ∧
  (∀ l, s.progCond = false ∨ s.fus.burn = [] → exec (.healthBurn l) s = .next s) ∧
  (∀ j, s.dbgLock = false ∨ j = .bypass ∨ j = .idcode → Does (.jtagInstruction j) s [.mon] fun t => t.mon = { s.mon with jtag := j }) ∧
  (∀ j, s.dbgLock = true → j ≠ .bypass → j ≠ .idcode → exec (.jtagInstruction j) s = .next s)

/-- R6, R8, R12, R503: reading a register (in LOAD its domains come on): the first word of a group latches the others for its source alone and serves their later reads, RC fields are read and cleared,
an offset that no block defines reads 0. -/
def Obligations.RegisterReads : Prop := ∀ (s : State) (src : Src) (c : BitVec 22 → Instr), c = .latchRead src ∨ c = .readClear src →
  (Does (c 0x10004#22) s [.latch, .rdVal] fun t => t.rdVal = BitVec.ofNat 32 s.frac ∧ t.latch.get 0#32 (latchKey src 0x40014) = BitVec.ofNat 32 s.nsec ∧
    t.latch.get 0#32 (latchKey src 0x40018) = BitVec.ofNat 32 (s.sec % 2 ^ 32) ∧ t.latch.get 0#32 (latchKey src 0x4001C) = BitVec.ofNat 32 (s.sec / 2 ^ 32) ∧
    ∀ r x, r ≠ src → t.latch.get 0#32 (latchKey r (4 * (x % 2 ^ 22))) = s.latch.get 0#32 (latchKey r (4 * (x % 2 ^ 22)))) ∧
  (∀ i : Fin 3, Does (c (0x10005#22 + BitVec.ofNat 22 i.val)) s [.rdVal] fun t => t.rdVal = s.latch.get 0#32 (latchKey src (0x40014 + 4 * i.val))) ∧
  (∀ a o v b, blockAt (4 * a.toNat) = some (b, o) → b ≠ .TIM → b ≠ .HEA → b ≠ .PAR → b ≠ .AUT → s.wide b o = some v → Completes (c a) s fun t => t.rdVal = v.setWidth 32 ∧
    t.latch.get 0#32 (latchKey src (4 * a.toNat + 4)) = (v >>> 32).setWidth 32 ∧ t.mod = s.mod ∧ t.ctrs = s.ctrs ∧ NoEvent s t) ∧
  (∀ h : Fin 4, Does (c (0x1C0001#22 + BitVec.ofNat 22 (4 * h.val))) s [.rdVal, .reg .HST, .reg .PWR] fun t =>
    t.rdVal = (s.reg .HST_FENCED_CNT h.val <<< 16) ||| s.reg .HST_PART_CNT h.val ∧ t.rn .HST_FENCED_CNT h.val = 0 ∧ t.rn .HST_PART_CNT h.val = 0 ∧
    (s.mod.mode ≠ .load → t.dom 71 = s.dom 71) ∧
    regsOnly [(.HST_FENCED_CNT, h.val), (.HST_PART_CNT, h.val), (.PWR_DOM_STATE, 71), (.PWR_DOM_WAKES, 71)] s t) ∧
  (∀ a, blockAt (4 * a.toNat) = none → Does (c a) s [.rdVal] fun t => t.rdVal = 0#32)

/-- R7, R8, R12, R503: writing a register (in LOAD its domains come on): each 1 of a W1C word clears its bit and a 0 has no effect, a field takes its bits of the word under the guard of its block, a
write of a command word is that command, and a read-only or reserved word ignores the write. -/
def Obligations.RegisterWrites : Prop := ∀ (s : State) (src : Src) (v : BitVec 32),
  (∀ a o b c, c = .writeOneClear src a v ∨ c = .registerWrite src a v → blockAt (4 * a.toNat) = some (b, o) → isW1C b o = true → s.isHolder src = true → b ≠ .PRT →
    Does c s [.reg b, .reg .PWR, .pwr] fun t => (∀ f i, t.reg f i ≠ s.reg f i → f = .PWR_DOM_STATE ∨ f = .PWR_DOM_WAKES ∨ (f, i) ∈ (fieldsAt b o).filter fun e => e.1.info.acc == .W1C) ∧
      ∀ e ∈ fieldsAt b o, e.1.info.acc = .W1C → t.reg e.1 e.2 = if v.getLsbD e.1.info.lsb = true then 0#32 else s.reg e.1 e.2) ∧
  (∀ a, (∀ b o, blockAt (4 * a.toNat) = some (b, o) → isW1C b o = false) → exec (.writeOneClear src a v) s = .next s) ∧
  (∀ a, blockAt (4 * a.toNat) = none → exec (.registerWrite src a v) s = .next s) ∧
  (s.guard src .PWR = true → Does (.registerWrite src 0x4008#22 v) s [.reg .PWR] fun t => t.rn .PWR_HOT_THRESH = clampN 400 480 (bitsOf v.toNat 9 0) ∧
    regsOnly [(.PWR_HOT_THRESH, 0)] s t) ∧
  (∀ c : Fin 24, s.guard src .TBL = true → Does (.registerWrite src 0x80005#22 v) s [.reg .TBL, .reg .PWR] fun t =>
    t.rn .TBL_REHASH_RATE = clampN 256 4096 (bitsOf v.toNat 12 0) ∧ regsOnly [(.TBL_REHASH_RATE, 0), (.PWR_DOM_STATE, 70), (.PWR_DOM_WAKES, 70)] s t ∧
    exec (.registerWrite src (0x4040#22 + BitVec.ofNat 22 c.val) v) s = exec (.pwrEngClkSet src c (v.setWidth 5)) s) ∧
  (∀ p : Fin 48, exec (.registerWrite src (0x20000#22 + BitVec.ofNat 22 (0x800 * p.val)) v) s = exec (.prtCfg src p v) s ∧
    exec (.registerWrite src (0x20001#22 + BitVec.ofNat 22 (0x800 * p.val)) v) s = exec (.prtPreCfg src p v) s) ∧
  exec (.registerWrite src 0x1000C#22 v) s = exec (.timAdjFreq src v) s ∧ exec (.registerWrite src 0x4#22 v) s = exec (.glbResetGo src (v.setWidth 16)) s ∧
  (s.guard src .CLS = true → v.toNat % 8 = 4 → exec (.registerWrite src 0x60004#22 v) s = exec (.clsDiscard src) ((s.useDomain 42).setN .CLS_CMD_ED 0 (bitsOf v.toNat 15 8))) ∧
  (s.mod.mode ≠ .monitor → ∀ a o, blockAt (4 * a.toNat) = some (.FUS, o) → isW1C .FUS o = false → exec (.registerWrite src a v) s = .next s)

/-! ### Authentication, tables and flows -/

/-- R413, R417, R418, R420 to R423: an operation whose lane is due ends: a verification says whether the tag matches, a copy leaves the message or zeros, a signing
leaves its invocation value and tag, and the status reaches the program by token or in rd; a packet whose inline verification fails goes no further. What waits starts in a
free lane, bound to its slot as it is then; at a segment boundary an operation yields to more urgent work; what waits or is parked goes no further. -/
def Obligations.Authentication : Prop := ∀ s : State,
  (∀ i, s.nextLane = none → (∀ o, s.aut.ops[i]? = some o → o.seat.lane = none ∨ o.seat.parked = true) → exec (.authComplete i) s = .next s) ∧
  (∀ (o : AuthOp) (k : KeySlot), s.aut.ops = [o] → s.pkts = [] → o.seat.lane = none → s.slotCheck o.slot o.code o.key.tagLen o.len = .inl k →
    Completes (.authComplete 1) s fun t => t.pkts = [] ∧
      t.aut.ops = [{ o with key := k, inv := if o.code = 1 then (s.takeInv o.slot k).1 else 0, seat := { o.seat with lane := some (if k.gmac = true then 0 else 8) } }] ∧
      (∀ j, j ≠ o.slot → t.slot j = s.slot j) ∧ (t.slot o.slot).map (·.ctr) = some (if o.code = 1 ∧ k.gmac = true then (k.ctr + 1) % 2 ^ 64 else k.ctr)) ∧
  (∀ (i n : Nat) (o : AuthOp), s.nextLane = none → s.seatsApart → s.aut.ops[i]? = some o → o.seat.lane = some n → o.seat.parked = false →
    s.yields { urg := 3 + o.rcd.cls, gmac := o.key.gmac, seat := o.seat } n = true → Completes (.authComplete i) s fun t =>
      ((t.aut.ops.find? fun x => x.seat.arr == o.seat.arr).map fun x => (x.seat.left, x.seat.lane, x.key)) = some (o.seat.left - 2048, some n, o.key) ∧
      t.ctr .AUT_CNT_SIGN = s.ctr .AUT_CNT_SIGN ∧ t.ctr .AUT_CNT_VERIFY = s.ctr .AUT_CNT_VERIFY) ∧
  (∀ (i : Nat) (o : AuthOp) (l : List Byte), s.allSeated → s.aut.ops[i]? = some o → o.code = 2 → s.authRead o (o.len + o.key.trailer) = (.ok l, s) → s.calm (clOf o.ctx) →
    Completes (.authComplete i) s fun t => t.aut = { s.aut with ops := s.aut.ops.filter fun x => x.seat.arr != o.seat.arr } ∧
      t.ctr .AUT_CNT_VERIFY = s.ctr .AUT_CNT_VERIFY + 1#64 ∧
      t.ctr .AUT_CNT_VFY_FAIL = s.ctr .AUT_CNT_VFY_FAIL + (if o.key.matches (l.take o.len) (l.drop o.len) = true then 0#64 else 1#64) ∧
      changesOnly [.aut, .eng, .ctr .AUT, .ctr .ENG] s t ∧
      (o.async = true → t.eng = { s.eng with conts := s.eng.conts ++ [(o.ctx + o.gen * 65536, o.tag,
        if o.key.matches (l.take o.len) (l.drop o.len) = true then 0#64 else codeWord .AUT_E_TAG)] }) ∧
      (o.async = false → o.orphan = false → (s.cx o.ctx).auth = true → (s.cx o.ctx).gen = o.gen → (s.cx o.ctx).st = .stalled → (t.cx o.ctx).st = .running ∧
        (t.cx o.ctx).auth = false ∧ (t.cx o.ctx).pc = (s.cx o.ctx).pc + 4 ∧ (∀ j, j ≠ o.ctx → t.cx j = s.cx j) ∧ ∀ j, (t.cx o.ctx).g.get 0#64 j =
          if j = o.rd ∧ o.rd ≠ 0 then (if o.key.matches (l.take o.len) (l.drop o.len) = true then 0#64 else codeWord .AUT_E_TAG) else (s.cx o.ctx).g.get 0#64 j)) ∧
  (∀ (i : Nat) (o : AuthOp) (l : List Byte) (b : Buf), s.allSeated → s.aut.ops[i]? = some o → o.code = 3 → o.async = true → o.dstBuf = true →
    s.authRead o (o.len + o.key.trailer) = (.ok l, s) → s.calm (clOf o.ctx) → s.buf (o.dst % 2 ^ 20) = some b → bitsOf o.dst 33 20 ≤ b.bytes.length →
    Completes (.authComplete i) s fun t => ((t.buf (o.dst % 2 ^ 20)).map fun c => ((c.bytes.drop (bitsOf o.dst 33 20)).take (l.take o.len).length, c.owner, c.st)) =
        some (if o.key.matches (l.take o.len) (l.drop o.len) = true then l.take o.len else List.replicate (l.take o.len).length 0#8, b.owner, b.st) ∧
      t.eng.conts = s.eng.conts ++ [(o.ctx + o.gen * 65536, o.tag,
        if o.key.matches (l.take o.len) (l.drop o.len) = true then resultWord o.len else codeWord .AUT_E_TAG)]) ∧
  (∀ (i : Nat) (o : AuthOp) (m : List Byte) (b : Buf), s.allSeated → s.aut.ops[i]? = some o → o.code = 1 → o.async = true → o.dstBuf = true →
    s.authRead o o.len = (.ok m, s) → s.calm (clOf o.ctx) → s.buf (o.dst % 2 ^ 20) = some b → bitsOf o.dst 33 20 ≤ b.bytes.length → Completes (.authComplete i) s fun t =>
      t.ctr .AUT_CNT_SIGN = s.ctr .AUT_CNT_SIGN + 1#64 ∧ t.aut = { s.aut with ops := s.aut.ops.filter fun x => x.seat.arr != o.seat.arr } ∧
      ∀ out, out = (if o.key.gmac = true then beBytes 8 o.inv else []) ++ o.key.mac o.inv m →
        ((t.buf (o.dst % 2 ^ 20)).map fun c => (c.bytes.drop (bitsOf o.dst 33 20)).take out.length) = some out ∧
        t.eng.conts = s.eng.conts ++ [(o.ctx + o.gen * 65536, o.tag, resultWord out.length)]) ∧
  (∀ (k : Fin 2), s.nextLane = none → (∀ p ∈ s.pkts, p.pipe = k.val → p.stage ≠ .verify) → exec (.inlineVerifyResult k) s = .next s) ∧
  (∀ (k : Fin 2) (p : Packet) (v : Verify), s.allSeated → s.pkts.find? (fun p => p.pipe == k.val && p.stage == .verify) = some p → p.verify = some v →
    (v.fail.isSome = true → Completes (.inlineVerifyResult k) s fun t => t.ctr .AUT_CNT_INLINE_FAIL = s.ctr .AUT_CNT_INLINE_FAIL + 1#64 ∧
      t.ctr .AUT_CNT_REFUSED = s.ctr .AUT_CNT_REFUSED + 1#64 ∧ t.ctr .AUT_CNT_INLINE = s.ctr .AUT_CNT_INLINE ∧ ∀ q ∈ t.pkts, q.id ≠ p.id) ∧
    (∀ key, v.fail = none → v.bound = some key → Completes (.inlineVerifyResult k) s fun t => t.ctr .AUT_CNT_INLINE = s.ctr .AUT_CNT_INLINE + 1#64 ∧
      t.ctr .AUT_CNT_VERIFY = s.ctr .AUT_CNT_VERIFY + 1#64 ∧
      (inlineTag p key = none → t.ctr .AUT_CNT_INLINE_FAIL = s.ctr .AUT_CNT_INLINE_FAIL ∧ t.pkm = s.pkm) ∧
      (inlineTag p key ≠ none → t.ctr .AUT_CNT_INLINE_FAIL = s.ctr .AUT_CNT_INLINE_FAIL + 1#64 ∧ ∀ q ∈ t.pkts, q.id ≠ p.id)) ∧
    (v.fail = none → v.bound = none → exec (.inlineVerifyResult k) s = .next s))

/-- R211, R213, R216: a write of TBL_CMD from the window's own source starts a command there, if none is in progress, its operands are those of Table 08.7 and,
for all but SEARCH and NEXT, the guard admits the source; ABORT ends the one in progress; RESUME takes up an aborted one. -/
def Obligations.TableCommands : Prop := ∀ (s : State) (src : Src) (w : Fin 5) (v : BitVec 32), winOf src = some w.val →
  (∀ (c : Instr) (op : Nat), (c, op) ∈ [(Instr.search src w v, 1), (.next src w v, 2), (.insert src w v, 3), (.delete src w v, 4), (.flushPort src w v, 5),
      (.flushAll src w v, 6), (.ageScan src w v, 7)] → s.rb .TBL_SEED_FROZEN = true → (s.win w.val).cmd = none → (op ≤ 2 ∨ s.guard src .TBL = true) →
    (tblRow op (bitsOf v.toNat 11 8) (bitsOf v.toNat 19 16) = true → s.tblEarly op (bitsOf v.toNat 11 8) = false → Does c s [.tbl, .reg .TBL] fun t =>
      (t.win w.val).cmd = some (s.winCmd w.val op (bitsOf v.toNat 11 8) (bitsOf v.toNat 19 16)) ∧ (∀ j, j ≠ w.val → t.win j = s.win j) ∧
      t.tbl = { s.tbl with wins := t.tbl.wins } ∧ t.rn .TBL_CMD_OUT w.val = 1 ∧ t.rn .TBL_CMD_LAST_OP w.val = op ∧ t.rn .TBL_CMD_ERR w.val = 0 ∧
      t.rn .TBL_CMD_TGT w.val = bitsOf v.toNat 11 8) ∧
    (tblRow op (bitsOf v.toNat 11 8) (bitsOf v.toNat 19 16) = true → s.tblEarly op (bitsOf v.toNat 11 8) = true → Does c s (evParts .TBL) fun t =>
      t.rn .TBL_CMD_OUT w.val = 5 ∧ t.rn .TBL_CMD_ERR w.val = Ev.code .GLB_E_ORDER ∧ t.rn .TBL_CMD_LAST_OP w.val = op ∧ Raised .GLB_E_ORDER 0 0 s t) ∧
    (tblRow op (bitsOf v.toNat 11 8) (bitsOf v.toNat 19 16) = false → Completes c s fun t => t.tbl = s.tbl ∧ t.rn .TBL_CMD_OUT w.val = 5 ∧
      t.rn .TBL_CMD_ERR w.val = Ev.code .TBL_E_ARG ∧ t.rn .TBL_CMD_LAST_OP w.val = op ∧ changesOnly (.limits :: evParts .TBL) s t)) ∧
  (∀ c ∈ [Instr.search src w v, .next src w v, .insert src w v, .delete src w v, .flushPort src w v, .flushAll src w v, .ageScan src w v, .rehash src w v,
      .resume src w v], (s.win w.val).cmd ≠ none → Completes c s fun t => t.tbl = s.tbl ∧ t.rn .TBL_CMD_OUT w.val = s.rn .TBL_CMD_OUT w.val ∧
      t.rn .TBL_CMD_ERR w.val = Ev.code .TBL_E_BUSY ∧ changesOnly (.limits :: evParts .TBL) s t) ∧
  (∀ r, r ≠ src → ∀ c ∈ [Instr.search r w v, .next r w v, .insert r w v, .delete r w v, .flushPort r w v, .flushAll r w v, .ageScan r w v, .rehash r w v,
      .resume r w v, .abort r w v], exec c s = .next s) ∧
  (s.guard src .TBL = true → s.rb .TBL_SEED_FROZEN = true → (s.win w.val).cmd = none →
    (∀ tgt, tgt = 1 ∨ tgt = 6 → bitsOf v.toNat 11 8 = tgt → bitsOf v.toNat 19 16 = 8 → s.tblEarly 8 tgt = false → s.rb .TBL_REHASH_LIVE = false → Does (.rehash src w v) s [.tbl, .reg .TBL] fun t =>
      t.rb .TBL_REHASH_LIVE = true ∧ t.rb .TBL_REHASH_TGT = decide (tgt = 1) ∧ t.rn .TBL_CMD_OUT w.val = 1 ∧ (t.win w.val).cmd.isSome = true ∧
      (tgt = 1 → t.tbl.newL2 = s.tbl.seedNext ∧ t.tbl.l2Live = some (w.val, 0)) ∧
      (tgt = 6 → t.tbl.newFlow = s.tbl.seedNext ∧ t.rb .TBL_REHASH_CUR_VALID = true ∧ t.rn .TBL_REHASH_POS = 0)) ∧
    (bitsOf v.toNat 11 8 = 1 → bitsOf v.toNat 19 16 = 8 → s.tblEarly 8 1 = false → s.rb .TBL_REHASH_LIVE = true → Completes (.rehash src w v) s fun t => t.tbl = s.tbl ∧
      t.rn .TBL_CMD_OUT w.val = 5 ∧ t.rn .TBL_CMD_ERR w.val = Ev.code .TBL_E_REHASH_ACTIVE) ∧
    (∀ x, (s.win w.val).last = some x → x.tgt = bitsOf v.toNat 11 8 → x.tgt = 1 ∨ x.tgt = 6 → bitsOf v.toNat 19 16 = 0 → s.tblEarly 9 x.tgt = false →
      (x.op ≠ 8 ∨ (x.tgt = 1 ∧ s.tbl.l2Live.any (fun l => l.1 == w.val) = true) → Does (.resume src w v) s [.tbl, .reg .TBL] fun t =>
        (t.win w.val).cmd = some { x with last := 9 } ∧ t.rn .TBL_CMD_OUT w.val = 1 ∧ t.rn .TBL_CMD_LAST_OP w.val = 9) ∧
      (x.op = 8 → x.tgt = 6 → s.flowLive = true → s.flowRuns 8 = false → Does (.resume src w v) s [.tbl, .reg .TBL] fun t =>
        (t.win w.val).cmd = some { x with pos := s.rn .TBL_REHASH_POS, last := 9 } ∧ t.rn .TBL_CMD_OUT w.val = 1 ∧ t.rn .TBL_CMD_LAST_OP w.val = 9)) ∧
    ((s.win w.val).last = none → bitsOf v.toNat 11 8 = 1 → bitsOf v.toNat 19 16 = 0 → s.tblEarly 9 1 = false → Completes (.resume src w v) s fun t =>
      (t.win w.val).cmd = none ∧ t.rn .TBL_CMD_OUT w.val = 2 ∧ t.rn .TBL_CMD_ERR w.val = Ev.code .TBL_E_NO_CURSOR ∧ t.rn .TBL_CMD_LAST_OP w.val = 9)) ∧
  (s.guard src .TBL = true → s.rb .TBL_SEED_FROZEN = true → (s.win w.val).cmd = none → Does (.abort src w v) s [.reg .TBL] fun t =>
    t.rn .TBL_CMD_OUT w.val = s.rn .TBL_CMD_OUT w.val) ∧
  (s.guard src .TBL = true → s.rb .TBL_SEED_FROZEN = false → (s.win w.val).cmd = none → Completes (.abort src w v) s fun t =>
    t.rb .TBL_SEED_FROZEN = true ∧ t.tbl.wins = s.tbl.wins ∧ t.rn .TBL_CMD_OUT w.val = s.rn .TBL_CMD_OUT w.val) ∧
  (∀ x, s.guard src .TBL = true → (s.win w.val).cmd = some x → (s.win w.val).prot = false → Completes (.abort src w v) s fun t =>
    (t.win w.val).cmd = none ∧ (t.win w.val).last = some x ∧ t.rn .TBL_CMD_OUT w.val = 4 ∧ t.rn .TBL_CMD_CNT w.val = x.cnt % 2 ^ 32 ∧ t.tbl.turn = (w.val + 1) % 5 ∧
    (∀ j, j ≠ w.val → t.win j = s.win j) ∧ (s.rb .TBL_SEED_FROZEN = true → s.tmsRuns x = false → changesOnly [.tbl, .reg .TBL] s t ∧ t.tbl.l2 = s.tbl.l2)) ∧
  (∀ x, s.guard src .TBL = true → (s.win w.val).cmd = some x → (s.win w.val).prot = true → Completes (.abort src w v) s fun t =>
    t.win w.val = { s.win w.val with abort := true } ∧ t.rn .TBL_CMD_OUT w.val = s.rn .TBL_CMD_OUT w.val)

/-- R208, R212, R213, R217: what a routine of the TMS does with the command whose turn it is: an APPID entry is searched, inserted and deleted, a flat target is flushed,
an absent entry is refused; a routine is abandoned before its commit word; the journal is settled. -/
def Obligations.TableRoutines : Prop := ∀ (s : State) (w : Nat) (c : TCmd), w < 5 → s.curWin = some (w, c) → s.tmsRuns c = true → s.tbl.learn = [] → s.tbl.expired = [] →
  s.tbl.stash.length ≤ 48 →
  (∀ b, c.op = 6 → c.tgt = 2 → (s.win w).abort = false → Completes (.tmsRoutine none b) s fun t => t.tbl.appid = [] ∧ (t.win w).cmd = none ∧ t.rb .TBL_PROTECTED = false ∧
    t.rn .TBL_CMD_OUT w = (if b = true then 3 else 2) ∧ t.rn .TBL_CMD_ERR w = 0 ∧ t.tbl.l2 = s.tbl.l2 ∧ t.tbl.nh = s.tbl.nh ∧ t.tbl.turn = (w + 1) % 5) ∧
  (c.tgt = 2 → keyOk 2 c.key = true → (s.win w).abort = false →
    (c.op = 3 → dataOk 2 c.data = true → bitOf c.fl 0 = true → Does (.tmsRoutine none false) s [.tbl, .reg .TBL] fun t =>
      t.tbl.appid.get 0#64 (fget c.key 0 2) = BitVec.ofNat 64 (fget c.data 0 8) ∧ (∀ i, i ≠ fget c.key 0 2 → t.tbl.appid.get 0#64 i = s.tbl.appid.get 0#64 i) ∧
      t.rn .TBL_CMD_OUT w = 2 ∧ t.rn .TBL_CMD_LOC w = fget c.key 0 2 ∧ t.rn .TBL_CMD_CNT w = 1) ∧
    (c.op = 1 → (s.tbl.appid.get 0#64 (fget c.key 0 2)).getLsbD 63 = true → Does (.tmsRoutine none false) s [.tbl, .reg .TBL] fun t =>
      t.tbl = { s.tbl with wins := t.tbl.wins, turn := (w + 1) % 5, aged := false } ∧ t.rn .TBL_CMD_OUT w = 2 ∧ t.rn .TBL_CMD_LOC w = fget c.key 0 2 ∧
      t.rn .TBL_CMD_DATA (w * 8) = (s.tbl.appid.get 0#64 (fget c.key 0 2)).toNat % 2 ^ 32 ∧
      t.rn .TBL_CMD_DATA (w * 8 + 1) = (s.tbl.appid.get 0#64 (fget c.key 0 2)).toNat / 2 ^ 32) ∧
    (c.op = 1 ∨ c.op = 4 → (s.tbl.appid.get 0#64 (fget c.key 0 2)).getLsbD 63 = false → Completes (.tmsRoutine none false) s fun t =>
      t.tbl = { s.tbl with wins := t.tbl.wins, turn := (w + 1) % 5, aged := false } ∧ t.rn .TBL_CMD_OUT w = 2 ∧ t.rn .TBL_CMD_ERR w = Ev.code .TBL_E_NOT_FOUND) ∧
    (c.op = 4 → (s.tbl.appid.get 0#64 (fget c.key 0 2)).getLsbD 63 = true → Does (.tmsRoutine none false) s [.tbl, .reg .TBL] fun t =>
      t.tbl.appid.get 0#64 (fget c.key 0 2) = 0#64 ∧ (∀ i, i ≠ fget c.key 0 2 → t.tbl.appid.get 0#64 i = s.tbl.appid.get 0#64 i) ∧ t.rn .TBL_CMD_OUT w = 2)) ∧
  (∀ n b, exec (.tmsRoutine (some n) b) s = .next s)

/-- R199 to R201, R204, R217, R221, R223: what the tables do on their own: learning, the age tick and visits, conditional deletes, the journal, the seeds and the end of
a bucket clear. -/
def Obligations.TableUpkeep : Prop := ∀ (s : State) (src : Src),
  (∀ mac fid port pipe l, s.tbl.learn = .l2 mac fid port pipe :: l → s.rb .TBL_SEED_FROZEN = true → s.learnerFree = true →
    (∀ loc e, s.l2Find mac fid = some (loc, e) → e.static = false → (e.grp = true ∨ e.dst ≠ port) → Does .learnApply s [.tbl, .ctr .TBL] fun t =>
      t.tbl.learn = l ∧ t.tbl.l2.find loc = some { e with dst := port, grp := false, origin := pipe, gen := s.tbl.gen.toNat, copies := 3 } ∧ t.tbl.gen = s.tbl.gen + 1#32 ∧
      (∀ i, i ≠ loc → t.tbl.l2.find i = s.tbl.l2.find i) ∧ t.ctr .TBL_CNT_LEARN_MOVE = s.ctr .TBL_CNT_LEARN_MOVE + 1#64) ∧
    (∀ loc e, s.l2Find mac fid = some (loc, e) → e.static = true ∨ (e.grp = false ∧ e.dst = port) → Does .learnApply s [.tbl] fun t => t.tbl = { s.tbl with learn := l }) ∧
    (∀ b k, s.l2Find mac fid = none → s.l2Plan mac fid = some ([], b, k) → Does .learnApply s [.tbl, .ctr .TBL] fun t => t.tbl.learn = l ∧
      ((t.tbl.l2.find (b * 4 + k)).map fun e => (e.mac, e.fid, e.dst, e.origin, e.age0, e.gen)) =
        some (mac, fid, port, pipe, s.rn .TBL_AGE_NOW, s.tbl.gen.toNat) ∧ t.ctr .TBL_CNT_LEARN = s.ctr .TBL_CNT_LEARN + 1#64)) ∧
  (s.tbl.stash.length ≤ 48 → Does .ageTick s [.reg .TBL] fun t => t.rn .TBL_AGE_NOW = (s.rn .TBL_AGE_NOW + 1) % 65536 ∧ regsOnly [(.TBL_AGE_NOW, 0)] s t) ∧
  (s.tbl.stash.length ≤ 48 → s.rb .TBL_AGE_EN = true → Does (.ageVisit true) s [.tbl] fun t => t.tbl.ageL2 = (s.tbl.ageL2 + 1) % 65536 ∧
    t.tbl = { s.tbl with ageL2 := t.tbl.ageL2, expired := t.tbl.expired } ∧ ∀ e ∈ s.tbl.l2, e.1 / 4 = s.tbl.ageL2 → e.2.static = false → s.rn .TBL_AGE_LIM_L2 ≠ 0 →
      s.rn .TBL_AGE_LIM_L2 ≤ s.ageOf (s.l2Stamp e.2) → { l2 := true, loc := e.1, stamp := s.l2Stamp e.2, sig := e.2.gen } ∈ t.tbl.expired) ∧
  (s.tbl.stash.length ≤ 48 → s.rb .TBL_AGE_EN = false → ∀ b, exec (.ageVisit b) s = .next s) ∧
  (∀ x l e, s.tbl.expired = x :: l → s.learnerFree = true → s.tbl.learn = [] → s.routineDue = false → x.l2 = true → s.tbl.l2.find x.loc = some e → e.gen = x.sig → e.static = false →
    (s.l2Stamp e = x.stamp → Does .ageDelete s [.tbl, .ctr .TBL] fun t => t.tbl.l2.find x.loc = none ∧ (∀ i, i ≠ x.loc → t.tbl.l2.find i = s.tbl.l2.find i) ∧
      t.tbl.expired = l ∧ t.ctr .TBL_CNT_AGE_DEL = s.ctr .TBL_CNT_AGE_DEL + 1#64) ∧
    (s.l2Stamp e ≠ x.stamp → Does .ageDelete s [.tbl, .ctr .TBL] fun t => t.tbl = { s.tbl with expired := l, aged := true } ∧
      t.ctr .TBL_CNT_AGE_KEEP = s.ctr .TBL_CNT_AGE_KEEP + 1#64)) ∧
  (∀ m, s.tbl.journal = [m] → m.l2 = true → Completes (.journalSettle false) s fun t => t.tbl.journal = [] ∧
    ∀ i, t.tbl.l2.find i = if m.copied = true ∧ i = m.srcB * 4 + m.srcS then none else s.tbl.l2.find i) ∧
  (safeHoldFrom s.mod.mode = true → s.mod.trans = none → Completes (.journalSettle true) s fun t => t.mod.mode = .safeHold ∧ t.fus.aonErr = true ∧ t.rb .HEA_FATAL = true) ∧
  (s.rb .TBL_FLOW_CLEARING = true → Does .flowClearDone s (evParts .TBL) fun t => t.rb .TBL_FLOW_CLEARING = false ∧ Raised .TBL_I_FLOW_CLEARED 0 0 s t) ∧
  (s.guard src .TBL = true → ∀ (j : Fin 3) (k : Fin 4) (v : BitVec 32),
    (s.rb .TBL_SEED_FROZEN = false → Does (.tblSeed src j k v) s [.tbl] fun t =>
      t.tbl = { s.tbl with seedFlow := if j.val = 0 then seedWord s.tbl.seedFlow k.val v else s.tbl.seedFlow,
                           seedL2 := if j.val = 1 then seedWord s.tbl.seedL2 k.val v else s.tbl.seedL2,
                           seedLb := if j.val = 2 then seedWord s.tbl.seedLb k.val v else s.tbl.seedLb }) ∧
    (s.rb .TBL_SEED_FROZEN = true → Completes (.tblSeed src j k v) s fun t => t.tbl = s.tbl ∧ changesOnly (.limits :: evParts .TBL) s t) ∧
    (s.rb .TBL_REHASH_LIVE = false → Does (.tblSeedNext src k v) s [.tbl] fun t => t.tbl = { s.tbl with seedNext := seedWord s.tbl.seedNext k.val v }) ∧
    (s.rb .TBL_REHASH_LIVE = true → exec (.tblSeedNext src k v) s = .next s))

/-- R145, R203, R210: step 5 of the frame path, by what the lookups found at their seals: an SV or GOOSE packet of a configured APPID goes where its entry says, another is
routed, or bridged within its VLAN, or dropped. -/
def Obligations.ForwardDecisions : Prop := ∀ (s : State) (k : Fin 2),
  (s.nextAt k.val .forward = none → exec (.forwardDecision k) s = .next s) ∧
  (∀ (p : Packet) (w : BitVec 64) (et vid dmac : Nat), s.nextAt k.val .forward = some p → p.parse.look.appid = w → beAt (p.parse.slot 2) 2 2 = et →
    beAt (p.parse.slot 1) 12 2 % 4096 = vid → beAt (p.parse.slot 1) 0 6 = dmac →
    (et = 0x88BA ∨ et = 0x88B8 → w.getLsbD 63 = true →
      (w.getLsbD 62 = true → Completes (.forwardDecision k) s fun t => t.ctr .TBL_CNT_APPID_DROP = s.ctr .TBL_CNT_APPID_DROP + 1#64 ∧ ∀ q ∈ t.pkts, q.id ≠ p.id) ∧
      (w.getLsbD 62 = false → Does (.forwardDecision k) s [.pkts] fun t => ∀ q ∈ t.pkts, q.id = p.id → q.stage = .flow ∧ q.bytes = p.bytes ∧
        q.dest = (if w.getLsbD 61 = true then .group (bitsOf w.toNat 11 0) else .ports (bitsOf w.toNat 47 0)) ∧
        q.tc = (if w.getLsbD 57 = true then p.tc else bitsOf w.toNat 60 58))) ∧
    ((et ≠ 0x88BA ∧ et ≠ 0x88B8) ∨ w.getLsbD 63 = false → s.rb .TBL_VLAN_ROUTE vid = true → dmac = s.rn .TBL_RMAC_H * 2 ^ 32 + s.rn .TBL_RMAC_L →
      beAt (p.parse.slot 3) 0 1 ≠ 0 →
      (p.parse.look.route = none → Completes (.forwardDecision k) s fun t => t.ctr .TBL_CNT_LPM_MISS = s.ctr .TBL_CNT_LPM_MISS + 1#64 ∧ ∀ q ∈ t.pkts, q.id ≠ p.id) ∧
      (∀ r n, p.parse.look.route = some r → s.tbl.nh.get 0#128 r.nh = n → (r.drop = true ∨ n.getLsbD 127 = false → Completes (.forwardDecision k) s fun t =>
          t.ctr .TBL_CNT_LPM_DROP = s.ctr .TBL_CNT_LPM_DROP + 1#64 ∧ ∀ q ∈ t.pkts, q.id ≠ p.id) ∧
        (r.drop = false → n.getLsbD 127 = true → n.getLsbD 101 = false → Does (.forwardDecision k) s [.pkts] fun t => ∀ q ∈ t.pkts, q.id = p.id → q.stage = .flow ∧
          q.dest = (if n.getLsbD 126 = true then .group (bitsOf n.toNat 125 114) else .ports (2 ^ (bitsOf n.toNat 125 114 % 64))) ∧
          q.rw.vid = some (bitsOf n.toNat 113 102) ∧ q.rw.da = some (bitsOf n.toNat 95 48)))) ∧
    ((et ≠ 0x88BA ∧ et ≠ 0x88B8) ∨ w.getLsbD 63 = false → s.rb .TBL_VLAN_ROUTE vid = false →
      (s.rb .TBL_VLAN_VALID vid = false ∨ s.vlanHas vid p.port = false → Completes (.forwardDecision k) s fun t =>
        t.ctr .TBL_CNT_VLAN_DROP = s.ctr .TBL_CNT_VLAN_DROP + 1#64 ∧ ∀ q ∈ t.pkts, q.id ≠ p.id) ∧
      (∀ e, s.rb .TBL_VLAN_VALID vid = true → s.vlanHas vid p.port = true → dmac ≠ 2 ^ 48 - 1 → p.parse.look.da = some e →
        Does (.forwardDecision k) s [.pkts] fun t => ∀ q ∈ t.pkts, q.id = p.id → q.stage = .flow ∧ q.bytes = p.bytes ∧
          q.dest = (if e.grp = true then .group e.dst else .ports (2 ^ (e.dst % 64)))) ∧
      (s.rb .TBL_VLAN_VALID vid = true → s.vlanHas vid p.port = true → dmac = 2 ^ 48 - 1 ∨ p.parse.look.da = none → s.rb .TBL_VLAN_FLOOD vid = false →
        Completes (.forwardDecision k) s fun t => t.ctr .TBL_CNT_L2_UNK_DROP = s.ctr .TBL_CNT_L2_UNK_DROP + 1#64 ∧ ∀ q ∈ t.pkts, q.id ≠ p.id)))

/-- R234, R240, R241, R243 to R247, R254: step 6 of the frame path, the insertion of flows, write-back, quarantine, the rebuilt free list and GOOSE supervision. -/
def Obligations.FlowRecords : Prop := ∀ s : State,
  (∀ (k : Fin 2) (p : Packet), s.nextAt k.val .flow = some p →
    (s.rb .FLW_CL_LOOKUP p.parse.cls = false → Does (.flowLookup k) s [.pkts] fun t => t.pkts = (s.setPkt { p with stage := .pool, pin := s.pinOf (p.parse.slot 1) }).pkts) ∧
    (s.rb .FLW_CL_LOOKUP p.parse.cls = true → s.rb .FLW_REBUILD = true → exec (.flowLookup k) s = .next s) ∧
    (∀ u, u = s.bump .FLW_CNT_LOOKUP → s.rb .FLW_CL_LOOKUP p.parse.cls = true → s.rb .FLW_REBUILD = false → (u.flowMatch (s.pktKey p) 1 true).1 = some [] → actBits p.act 56 56 = 0 →
      (actBits p.act 55 54 = 0 → Completes (.flowLookup k) s fun t => t.ctr .FLW_CNT_LOOKUP = s.ctr .FLW_CNT_LOOKUP + 1#64 ∧
        t.ctr .FLW_CNT_NEW_FWD = s.ctr .FLW_CNT_NEW_FWD + 1#64 ∧ t.pkts = (s.setPkt { p with stage := .pool, pin := s.pinOf (s.pktKey p) }).pkts ∧ t.flw = s.flw) ∧
      (actBits p.act 55 54 = 1 → Completes (.flowLookup k) s fun t => t.ctr .FLW_CNT_NEW_DROP = s.ctr .FLW_CNT_NEW_DROP + 1#64 ∧ ∀ q ∈ t.pkts, q.id ≠ p.id))) ∧
  (s.rb .FLW_REBUILD = true ∨ s.learnerFree = false → exec .flowInsertApply s = .next s) ∧
  (∀ key rcd pkt pol l, s.tbl.learn = .flow key rcd pkt pol :: l → s.learnerFree = true → s.rb .FLW_REBUILD = false → s.rb .TBL_SEED_FROZEN = true →
    ∀ u, u = { s with tbl := { s.tbl with learn := l } } → (∀ x f, (u.flowFind key).1 = some (x, f) → ∀ h, s.flw.cache.find f.rcd = some h → h.bytes.length = 64 →
      Completes .flowInsertApply s fun t => t.tbl.learn = l ∧ ((t.flw.cache.find f.rcd).map fun g => (fget g.bytes 0 8, fget g.bytes 8 8, g.bytes.drop 16)) =
        some ((fget h.bytes 0 8 + fget rcd 0 8) % 2 ^ 64, (fget h.bytes 8 8 + fget rcd 8 8) % 2 ^ 64, h.bytes.drop 16)) ∧
    ((u.flowFind key).1 = none → flKind rcd ≠ 2 → s.recFree = 0 → Completes .flowInsertApply s fun t => t.tbl.learn = l ∧ t.flw.alloc = s.flw.alloc ∧
      t.ctr .FLW_CNT_REC_EXHAUST = s.ctr .FLW_CNT_REC_EXHAUST + 1#64)) ∧
  (∀ (r : Fin 67108864) (h : Hot), s.flw.cache.find r.val = some h →
    (h.dirty = true → h.bytes.length = 64 → s.marksIn (16 * r.val) 8 = [] → Completes (.writeBack r) s fun t => t.flw = { s.flw with cache := s.flw.cache.set r.val { h with dirty := false } } ∧
      (∀ i, i < 64 → t.hbmByte (128 * r.val + i) = h.bytes.getD i 0#8) ∧ (∀ a, a < 128 * r.val ∨ 128 * r.val + 64 ≤ a → t.hbmByte a = s.hbmByte a)) ∧
    (h.dirty = false → exec (.writeBack r) s = .next s)) ∧
  (∀ r : Fin 67108864, Does (.recordQuarantineEnd r) s [.flw] fun t => t.flw = { s.flw with quar := t.flw.quar } ∧
    ∀ j, t.flw.quar.get false j = if j = r.val then false else s.flw.quar.get false j) ∧
  (s.rb .FLW_REBUILD = false → exec .freeListRebuildDone s = .next s) ∧
  (s.rb .FLW_REBUILD = true → s.flowSlots = [] → s.flw.alloc = [] → Does .freeListRebuildDone s (.flw :: evParts .FLW) fun t => t.rb .FLW_REBUILD = false ∧
    t.flw = { s.flw with goose := [] } ∧ t.rn .FLW_REC_USED = 0 ∧ Raised .FLW_I_REBUILT 0 0 s t) ∧
  (∀ (r : Fin 67108864) (h : Hot), s.flw.cache.find r.val = some h → s.flw.goose.get false r.val = true → h.bytes.length = 64 →
    (bitOf (fget h.bytes 18 1) 6 = true ∨ 2 ^ 31 ≤ (s.rn .TMG_WHEEL_CNT + 2 ^ 32 - fget h.bytes 48 4) % 2 ^ 32 → exec (.gooseTalExpiry r) s = .next s) ∧
    (bitOf (fget h.bytes 18 1) 6 = false → (s.rn .TMG_WHEEL_CNT + 2 ^ 32 - fget h.bytes 48 4) % 2 ^ 32 < 2 ^ 31 → flAct h.bytes 24 24 = 0 →
      Completes (.gooseTalExpiry r) s fun t => ((t.flw.cache.find r.val).map fun g => (bitOf (fget g.bytes 18 1) 6, g.bytes.take 18, g.bytes.drop 19)) =
        some (true, h.bytes.take 18, h.bytes.drop 19) ∧ t.ctr .FLW_CNT_GOOSE_TAL = s.ctr .FLW_CNT_GOOSE_TAL + 1#64 ∧ LastEvent .FLW_W_GOOSE_TAL r.val 0 t))

/-- R236, R248, R256 to R258: the record and Gazetteer commands of a window, key profiles and load-balance groups. -/
def Obligations.FlowCommands : Prop := ∀ (s : State) (src : Src) (w : Fin 5) (v : BitVec 32),
  (∀ c ∈ [Instr.recRead src w v, .recWrite src w v, .recAlloc src w v, .recFree src w v, .gzRead src w v, .gzWrite src w v], winOf src ≠ some w.val → exec c s = .next s) ∧
  (∀ c ∈ [Instr.recRead src w v, .recWrite src w v, .recAlloc src w v, .recFree src w v, .gzRead src w v, .gzWrite src w v], winOf src = some w.val →
    s.rcBusy w.val = true → Does c s (.flw :: evParts .FLW) fun t => t.rn .FLW_RC_OUT w.val = s.rn .FLW_RC_OUT w.val ∧
      t.flw = { s.flw with rcBusy := winNote s.flw.rcBusy w.val (Ev.code .FLW_E_CMD) } ∧ Raised .FLW_E_CMD w.val 0 s t) ∧
  (winOf src = some w.val → s.rcBusy w.val = false →
    (s.rcEarly = true → Does (.recRead src w v) s (evParts .FLW) fun t => t.rn .FLW_RC_OUT w.val = 3 ∧ t.rn .FLW_RC_ERR w.val = Ev.code .GLB_E_ORDER ∧
      Raised .GLB_E_ORDER w.val 0 s t) ∧
    (s.rcEarly = false → s.rn .FLW_RC_IDX w.val < 2 ^ 26 → s.allocated (s.rn .FLW_RC_IDX w.val) = true → Completes (.recRead src w v) s fun t => t.rn .FLW_RC_OUT w.val = 2 ∧
      t.rn .FLW_RC_ERR w.val = 0 ∧ t.flw = { s.flw with rcBusy := t.flw.rcBusy } ∧
      (t.flw.rcBusy.find w.val).any (fun e => s.freeNs ≤ e.1 && e.1 ≤ s.freeNs + 1000 && e.2 == 0) = true ∧
      ∀ i, i < 32 → t.rn .FLW_RC_DATA (w.val * 32 + i) = fget (s.recordOf (s.rn .FLW_RC_IDX w.val)) (4 * i) 4) ∧
    (s.rcEarly = false → s.rn .FLW_RC_IDX w.val < 2 ^ 26 → s.allocated (s.rn .FLW_RC_IDX w.val) = false → Does (.recRead src w v) s (.flw :: .freeCtr :: evParts .FLW) fun t =>
      t.flw = { s.flw with rcBusy := t.flw.rcBusy } ∧ t.rn .FLW_RC_OUT w.val = 3 ∧ t.rn .FLW_RC_ERR w.val = Ev.code .FLW_E_REC_FREE ∧ Raised .FLW_E_REC_FREE w.val 0 s t) ∧
    (s.rn .FLW_RC_IDX w.val < 16384 → Does (.gzRead src w v) s [.flw, .freeCtr, .reg .FLW] fun t => t.flw = { s.flw with rcBusy := t.flw.rcBusy } ∧
      t.rn .FLW_RC_OUT w.val = 2 ∧ t.rn .FLW_RC_ERR w.val = 0 ∧
      ∀ i, i < 8 → t.rn .FLW_RC_DATA (w.val * 32 + i) = bitsOf (s.gazAt (s.rn .FLW_RC_IDX w.val)).pack (32 * i + 31) (32 * i))) ∧
  (winOf src = some w.val → s.rcBusy w.val = false → s.rcEarly = false → s.guard src .FLW = true →
    (s.recFree = 0 → Does (.recAlloc src w v) s (.flw :: .freeCtr :: evParts .FLW) fun t => t.flw = { s.flw with rcBusy := t.flw.rcBusy } ∧ t.rn .FLW_RC_OUT w.val = 3 ∧
      t.rn .FLW_RC_ERR w.val = Ev.code .FLW_E_REC_EXHAUST) ∧
    (s.flw.alloc = [] → s.flw.quar = [] → Completes (.recAlloc src w v) s fun t => t.rn .FLW_RC_OUT w.val = 2 ∧ s.allocated (t.rn .FLW_RC_IDX w.val) = false ∧
      t.allocated (t.rn .FLW_RC_IDX w.val) = true ∧ t.rn .FLW_REC_USED = 1 ∧ (∀ j, j ≠ t.rn .FLW_RC_IDX w.val → t.allocated j = s.allocated j)) ∧
    (s.rn .FLW_RC_IDX w.val < 2 ^ 26 → s.allocated (s.rn .FLW_RC_IDX w.val) = true → bitOf (fget (s.hotOf (s.rn .FLW_RC_IDX w.val)) 18 1) 7 = false →
      Does (.recFree src w v) s [.flw, .freeCtr, .reg .FLW] fun t => t.rn .FLW_RC_OUT w.val = 2 ∧ t.allocated (s.rn .FLW_RC_IDX w.val) = false ∧
        t.flw.quar.get false (s.rn .FLW_RC_IDX w.val) = true ∧ ∀ j, j ≠ s.rn .FLW_RC_IDX w.val → t.allocated j = s.allocated j) ∧
    (s.rn .FLW_RC_IDX w.val < 2 ^ 26 → s.allocated (s.rn .FLW_RC_IDX w.val) = true → bitOf (fget (s.hotOf (s.rn .FLW_RC_IDX w.val)) 18 1) 7 = true →
      Does (.recFree src w v) s (.flw :: .freeCtr :: evParts .FLW) fun t => t.flw = { s.flw with rcBusy := t.flw.rcBusy } ∧ t.rn .FLW_RC_OUT w.val = 3 ∧
        t.rn .FLW_RC_ERR w.val = Ev.code .FLW_E_REC_LIVE) ∧
    (s.rn .FLW_RC_IDX w.val < 2 ^ 26 → s.allocated (s.rn .FLW_RC_IDX w.val) = true → flValid (s.regBytes .FLW_RC_DATA (w.val * 32) 32) = true →
      flKind (s.regBytes .FLW_RC_DATA (w.val * 32) 32) ≠ 2 → bitOf (fget (s.recordOf (s.rn .FLW_RC_IDX w.val)) 18 1) 7 = false → v.getLsbD 8 = false →
      s.marksIn (16 * s.rn .FLW_RC_IDX w.val) 16 = [] → s.flw.cache.find (s.rn .FLW_RC_IDX w.val) = none → Completes (.recWrite src w v) s fun t =>
        t.rn .FLW_RC_OUT w.val = 2 ∧ t.recordOf (s.rn .FLW_RC_IDX w.val) = fset (s.regBytes .FLW_RC_DATA (w.val * 32) 32) 18 1
          (fget (s.regBytes .FLW_RC_DATA (w.val * 32) 32) 18 1 % 128)) ∧
    (s.rn .FLW_RC_IDX w.val < 16384 → (Gaz.unpack (leNat (s.regBytes .FLW_RC_DATA (w.val * 32) 8))).valid = false → Does (.gzWrite src w v) s
      [.gaz, .flw, .freeCtr, .reg .FLW] fun t => t.flw = { s.flw with rcBusy := t.flw.rcBusy } ∧
      t.rn .FLW_RC_OUT w.val = 2 ∧ t.gazAt (s.rn .FLW_RC_IDX w.val) = Gaz.unpack (leNat (s.regBytes .FLW_RC_DATA (w.val * 32) 8)) ∧
      ∀ j, j ≠ s.rn .FLW_RC_IDX w.val → t.gazAt j = s.gazAt j)) ∧
  (s.guard src .FLW = true →
    (∀ (j : Fin 16) (hi : Fin 2), (s.rn .FLW_REC_USED = 0 ∧ ones64 ((s.setReg .FLW_KPROF (2 * j.val + hi.val) v).kprof j.val) ≤ 48 → Does (.flwKprof src j hi v) s [.reg .FLW] fun t =>
        t.reg .FLW_KPROF (2 * j.val + hi.val) = v ∧ regsOnly [(.FLW_KPROF, 2 * j.val + hi.val)] s t) ∧
      (s.rn .FLW_REC_USED ≠ 0 → Does (.flwKprof src j hi v) s (evParts .FLW) fun t => Raised .FLW_E_KPROF j.val 0 s t ∧ regsOnly (evRegs .FLW_E_KPROF 0) s t)) ∧
    (∀ g : Fin 1024, (Does (.flwLbg src g 0 v) s [.reg .FLW] fun t => t.rn .FLW_LBG_N g.val = min 16 (v.toNat % 32) ∧ t.rb .FLW_LB_PEND = true ∧
        regsOnly [(.FLW_LBG_N, g.val), (.FLW_LB_PEND, 0)] s t) ∧
      ∀ m : Fin 4, Does (.flwLbg src g ⟨m.val + 1, by omega⟩ v) s [.reg .FLW] fun t => t.reg .FLW_LBG_MEMB (g.val * 4 + m.val) = v ∧ t.rb .FLW_LB_PEND = true ∧
        regsOnly [(.FLW_LBG_MEMB, g.val * 4 + m.val), (.FLW_LB_PEND, 0)] s t))

/-! ### Parsing, classification, sampling -/

/-- R16, R127 to R132, R134, R136, R137, R139, R149, R153 to R156: entry and lanes. The head of a port's packets, express first, takes the entry slot; a packet
takes a free lane, or, express, the lane of the parse that entered last among those that may be pre-empted; the restart queue goes before new packets.
R134, R136, R137, R139, R149, R153, R154: the microwords of the parse in a lane. A word that only branches goes to its next address in one clock; one that
only ends sends the packet on and counts its class; a parse at its limits ends with drop code 30, at a bad word with 31; the scan and the scrubber complete. -/
def Obligations.ParseSequencers : Prop :=
  (∀ (s : State) (k : Fin 2) (lane : Fin 64) (p : Packet),
  (∀ port : Fin 64, ((s.waitingAt k.val port.val).find? (·.express)).or (s.waitingAt k.val port.val).head? = some p → entersIn s.mod.mode = true →
    (s.pkts.any fun q => q.stage == .entry && q.pipe == k.val && q.express == p.express) = false →
    (port.val < 48 → s.internalTurn k.val = none ∨ s.par.lineRun.get 0 k.val < 15 → Does (.pipelineEntry k port) s [.pkts, .par] fun t =>
      t.pkts = (s.pkts.map fun q => if q.id = p.id then { p with stage := .entry } else q) ∧ t.par.lineRun.get 0 k.val = s.par.lineRun.get 0 k.val + 1) ∧
    (48 ≤ port.val → s.internalTurn k.val = some port.val → (∀ q ∈ s.pkts, q.stage = .fifo → q.pipe = k.val → 48 ≤ q.port) ∨ 15 ≤ s.par.lineRun.get 0 k.val →
      Does (.pipelineEntry k port) s [.pkts, .par] fun t =>
        t.pkts = (s.pkts.map fun q => if q.id = p.id then { p with stage := .entry } else q) ∧ t.par.lineRun.get 0 k.val = 0)) ∧
  (((s.pkts.filter fun q => q.stage == .entry && q.pipe == k.val).find? (·.express)).or (s.pkts.filter fun q => q.stage == .entry && q.pipe == k.val).head? = some p →
    (p.express = true ∨ s.par.restartQ.get [] k.val = [] → 0 < s.freeLanes k.val → s.inLane k.val lane.val = none →
      Does (.laneAcquire k lane) s [.pkts, .par, .cls, .ctr .PAR] fun t => t.ctr .PAR_CNT_ENTRY k.val = s.ctr .PAR_CNT_ENTRY k.val + 1#64 ∧
        ∀ q ∈ t.pkts, q.id = p.id → q.stage = .lane lane.val ∧ q.bytes = p.bytes ∧
          q.parse = { Parse.fresh p.kind p.tcHint with limit := s.rn .PAR_CLK_LIMIT k.val, dbg := s.rb .PAR_DBG_FLAG k.val } ∧
          q.tag = (p.tag.or (s.cls.live.map fun b => (b, (s.bank b).ed.num)))) ∧
    (p.express = false → s.freeLanes k.val = 0 → Does (.laneAcquire k lane) s (.limits :: .ctr .PAR :: evParts .PAR) fun t =>
      t.ctr .PAR_CNT_HOLD_CLK k.val = s.ctr .PAR_CNT_HOLD_CLK k.val + 1#64) ∧
    (∀ (v : Packet) (n : Nat), p.express = true → s.freeLanes k.val = 0 → v ∈ s.pkts → v.pipe = k.val → v.stage = .lane n → v.express = false → v.guarded = false →
      v.parse.committed = false → (∀ w ∈ s.pkts, w = v ∨ w.entered < v.entered) → Completes (.laneAcquire k lane) s fun t =>
        t.ctr .PAR_CNT_PREEMPT k.val = s.ctr .PAR_CNT_PREEMPT k.val + 1#64 ∧ t.par.restartQ.get [] k.val = s.par.restartQ.get [] k.val ++ [v.id] ∧
        ∀ q ∈ t.pkts, (q.id = p.id → q.stage = .lane n) ∧ (q.id = v.id → q.id ≠ p.id → q.stage = .restart ∧ q.preempts = v.preempts + 1))) ∧
  (∀ l : List Nat, s.par.restartQ.get [] k.val = p.id :: l → s.inLane k.val lane.val = none → s.pkt p.id = some p → p.stage = .restart → p.pipe = k.val →
    Does (.parseRestart k lane) s [.pkts, .par, .ctr .PAR] fun t => t.par.restartQ.get [] k.val = l ∧ t.ctr .PAR_CNT_RESTART k.val = s.ctr .PAR_CNT_RESTART k.val + 1#64 ∧
      ∀ q ∈ t.pkts, q.id = p.id → q.stage = .lane lane.val ∧ q.restarts = p.restarts + 1 ∧ q.tag = p.tag ∧
        q.parse = { Parse.fresh p.kind p.tcHint with limit := p.parse.limit, dbg := p.parse.dbg })) ∧
  (∀ (s : State) (k : Fin 2) (lane : Fin 64),
  (s.inLane k.val lane.val = none → ∀ c : Instr, c ∈ [.microword k lane, .waitTimeout k lane, .parseLimit k lane, .patternScanDone k lane] → exec c s = .next s) ∧
  (∀ p : Packet, s.inLane k.val lane.val = some p →
    (p.parse.limit ≤ p.parse.clk ∨ (p.parse.committed = true ∧ 64 ≤ p.parse.post) → exec (.microword k lane) s = exec (.parseLimit k lane) s ∧
      Completes (.parseLimit k lane) s fun t => t.ctr .PAR_CNT_CODE (k.val * 32 + 30) = s.ctr .PAR_CNT_CODE (k.val * 32 + 30) + 1#64 ∧ ∀ q ∈ t.pkts, q.id ≠ p.id) ∧
    (p.parse.clk < p.parse.limit → p.parse.committed = false ∨ p.parse.post < 64 → exec (.parseLimit k lane) s = .next s ∧
      (s.par.bad.get false (k.val * 4096 + p.parse.upc) = true ∨ hamFix (s.par.cs.get 0#184 (k.val * 4096 + p.parse.upc)) = none → Completes (.microword k lane) s fun t =>
        t.ctr .PAR_CNT_CODE (k.val * 32 + 31) = s.ctr .PAR_CNT_CODE (k.val * 32 + 31) + 1#64 ∧ ∀ q ∈ t.pkts, q.id ≠ p.id) ∧
      (∀ (a : Fin 4096) (c : Bool), s.par.bad.get false (k.val * 4096 + p.parse.upc) = false → p.parse.wait = none → p.parse.committed = false ∨ p.parse.learned = true →
        hamFix (s.par.cs.get 0#184 (k.val * 4096 + p.parse.upc)) = some (a.val * 2 ^ 164, c) → Does (.microword k lane) s [.pkts] fun t =>
          ∀ q ∈ t.pkts, q.id = p.id → q.stage = p.stage ∧ q.bytes = p.bytes ∧ q.parse.upc = a.val ∧ q.parse.clk = p.parse.clk + 1 ∧ q.parse.rcd = p.parse.rcd ∧
            q.parse.s = p.parse.s ∧ q.parse.cls = p.parse.cls ∧ q.parse.codes = p.parse.codes ∧ q.parse.cur = p.parse.cur) ∧
      (∀ c : Bool, s.par.bad.get false (k.val * 4096 + p.parse.upc) = false → p.parse.wait = none → s.mod.mode ≠ .safeHold ∨ 6 ≤ p.parse.tc →
        hamFix (s.par.cs.get 0#184 (k.val * 4096 + p.parse.upc)) = some (16, c) →
        Does (.microword k lane) s ([.pkts, .par, .reg .PAR, .ctr .PAR, .tbl, .limits, .ctr .TBL] ++ evParts .TBL) fun t =>
          t.ctr .PAR_CNT_CLASS (k.val * 32 + p.parse.cls) = s.ctr .PAR_CNT_CLASS (k.val * 32 + p.parse.cls) + 1#64 ∧
          ∀ q ∈ t.pkts, q.id = p.id → q.stage = .classify ∧ q.bytes = p.bytes ∧ q.parse.committed = true ∧ q.tc = p.parse.tc)) ∧
    (∀ (x n d : Nat) (m : Fin 1024) (c : Bool), p.parse.wait = some (x, n) → s.mod.mode ≠ .safeHold ∨ 6 ≤ p.parse.tc →
      hamFix (s.par.cs.get 0#184 (k.val * 4096 + p.parse.upc)) = some (m.val * 2 ^ 124 + 16, c) → d = (if bitOf p.parse.opnd 0 = true then 1 else m.val - n) →
      p.parse.clk + d ≤ p.parse.limit → p.parse.committed = false ∨ p.parse.post + d ≤ 64 →
      Does (.waitTimeout k lane) s ([.pkts, .par, .reg .PAR, .ctr .PAR, .tbl, .limits, .ctr .TBL] ++ evParts .TBL) fun t =>
        t.ctr .PAR_CNT_CLASS (k.val * 32 + p.parse.cls) = s.ctr .PAR_CNT_CLASS (k.val * 32 + p.parse.cls) + 1#64 ∧
        ∀ q ∈ t.pkts, q.id = p.id → q.stage = .classify ∧ q.parse.clk = p.parse.clk + d) ∧
    (∀ o : Nat, p.parse.scan = some o → p.whole = true ∨ o + 1024 ≤ p.bytes.length → Does (.patternScanDone k lane) s [.pkts] fun t =>
      ∀ q ∈ t.pkts, q.id = p.id → q = { p with parse := { p.parse with scanDone := true } })) ∧
  (∀ (w : Fin 4096) (u : BitVec 184),
    (hamFix (s.par.cs.get 0#184 (k.val * 4096 + w.val) ^^^ u) = none → s.par.bad.get false (k.val * 4096 + w.val) = false →
      Does (.parCsScrub k w u) s (.par :: evParts .PAR) fun t => t.par.bad.get false (k.val * 4096 + w.val) = true ∧ t.rb .PAR_CS_BADWORD k.val = true ∧
        (s.rb .PAR_CS_BAD_VALID k.val = false → t.rb .PAR_CS_BAD_VALID k.val = true ∧ t.rn .PAR_CS_BAD_ADDR k.val = w.val) ∧ Raised .PAR_E_CS_UNCORR k.val w.val s t) ∧
    (∀ d : Nat, hamFix (s.par.cs.get 0#184 (k.val * 4096 + w.val) ^^^ u) = some (d, false) → Does (.parCsScrub k w u) s [.par] fun t =>
      t.par.cs.get 0#184 (k.val * 4096 + w.val) = s.par.cs.get 0#184 (k.val * 4096 + w.val) ^^^ u) ∧
    (∀ d : Nat, hamFix (s.par.cs.get 0#184 (k.val * 4096 + w.val) ^^^ u) = some (d, true) → Does (.parCsScrub k w u) s (.par :: evParts .PAR) fun t =>
      t.par.cs.get 0#184 (k.val * 4096 + w.val) = BitVec.ofNat 184 (d + hamCheck d * 2 ^ 176) ∧ Raised .PAR_W_CS_CORR k.val w.val s t ∧
      t.rn .PAR_CS_CORR_CNT k.val = satAdd (fieldMax .PAR_CS_CORR_CNT) (s.rn .PAR_CS_CORR_CNT k.val) 1)))

/-- R163, R167, R168, R169, R171, R173, R177: step 4 of the frame path for a packet that is no fragment and whose scan, if any, is complete, under a verdict to go on
or to deny; a parked packet detaches after 100 µs; a fragment entry ends; the scrubber disables a rule with an uncorrectable error.
R164, R184, R186 to R189: the capacity mode, the commands of Table 07.6 with their outcomes and refusals, and the life of an edition: it waits, installs, is staged,
switches in one clock, and drains. -/
def Obligations.ClassificationAndEditions : Prop :=
  (∀ s : State,
  (∀ (k : Fin 2) (x : Bool), (s.pkts.find? fun p => p.pipe == k.val && p.stage == .classify && p.express == x && s.mayLeave p) = none → exec (.classify k x) s = .next s) ∧
  (∀ (k : Fin 2) (x : Bool) (p : Packet) (b : Bool) (ed : Nat) (w : Option (Nat × BitVec 64)) (act : BitVec 64),
    (s.pkts.find? fun p => p.pipe == k.val && p.stage == .classify && p.express == x && s.mayLeave p) = some p → p.parse.scan = none ∨ p.whole = true → p.tag = some (b, ed) →
    bitOf (beAt (p.parse.slot 5) 57 1) 0 = false → winner (s.bank b) (s.clsKey p (s.bank b) (p.parse.slot 5) 0) = w → (w.map (·.2)).getD (s.bank b).ed.dflt = act →
    actBits act 63 61 < 2 → Completes (.classify k x) s fun t => t.ctr .CLS_CNT_LOOKUP = s.ctr .CLS_CNT_LOOKUP + 1#64 ∧ t.mod = s.mod ∧ t.hbm = s.hbm ∧
      (w = none → t.ctr .CLS_CNT_DEFAULT = s.ctr .CLS_CNT_DEFAULT + 1#64) ∧
      (∀ i, w.map (·.1) = some i → (t.bank b).hits.get 0#64 i = (s.bank b).hits.get 0#64 i + 1#64 ∧ t.ctr .CLS_CNT_DEFAULT = s.ctr .CLS_CNT_DEFAULT) ∧
      (actBits act 63 61 = 0 → t.ctr .CLS_CNT_DENY = s.ctr .CLS_CNT_DENY ∧ ∀ q ∈ t.pkts, q.id = p.id → q.stage = .forward ∧ q.bytes = p.bytes ∧ q.act = act ∧
        q.tc = (if actBits act 60 60 = 1 then actBits act 59 57 else p.tc) ∧ q.counted = false) ∧
      (actBits act 63 61 = 1 → t.ctr .CLS_CNT_DENY = s.ctr .CLS_CNT_DENY + 1#64 ∧ ∀ q ∈ t.pkts, q.id ≠ p.id)) ∧
  (∀ (id : Nat) (p : Packet), s.pkt id = some p → p.stage = .parked → p.due = false → Completes (.parkDetach id) s fun t =>
    t.ctr .CLS_CNT_DETACHED = s.ctr .CLS_CNT_DETACHED + 1#64 ∧ ∀ q ∈ t.pkts, q.id = id → q.stage = .parked ∧ q.tag = none ∧ q.due = true) ∧
  (∀ (i : Fin 4096), (s.cls.frags.find i.val = none → exec (.fragmentTimeout i) s = .next s) ∧
    (∀ f : Frag, s.cls.frags.find i.val = some f → Does (.fragmentTimeout i) s [.cls, .ctr .CLS] fun t => t.cls.frags.find i.val = none ∧
      (∀ j, j ≠ i.val → t.cls.frags.find j = s.cls.frags.find j) ∧ t.ctr .CLS_CNT_FRAG_EXPIRED = s.ctr .CLS_CNT_FRAG_EXPIRED + 1#64)) ∧
  (∀ (b : Bool) (i : Fin 20480), i.val < (s.bank b).ed.rules.length →
    exec (.ruleScrub b i 0#2) s = .next s ∧
    (Does (.ruleScrub b i 1#2) s (evParts .CLS) fun t => t.rn .CLS_RULE_CORR_CNT = satAdd (fieldMax .CLS_RULE_CORR_CNT) (s.rn .CLS_RULE_CORR_CNT) 1 ∧
      Raised .CLS_W_RULE_CORR (bankCode b) i.val s t) ∧
    (∀ u : BitVec 2, 2 ≤ u.toNat → (s.bank b).off.get false i.val = false → Does (.ruleScrub b i u) s (.cls :: evParts .CLS) fun t =>
      t.bank b = { s.bank b with off := (s.bank b).off.put false i.val true } ∧ t.rb .CLS_RULE_BAD = true ∧ Raised .CLS_E_RULE_UNCORR (bankCode b) i.val s t ∧
      (s.rb .CLS_RULE_BAD_VALID = false → t.rb .CLS_RULE_BAD_BANK = b ∧ t.rn .CLS_RULE_BAD_IDX = i.val) ∧
      (s.rb .CLS_RULE_BAD_VALID = true → t.rb .CLS_RULE_BAD_BANK = s.rb .CLS_RULE_BAD_BANK ∧ t.rn .CLS_RULE_BAD_IDX = s.rn .CLS_RULE_BAD_IDX)))) ∧
  (∀ (s : State) (src : Src),
  (s.guard src .CLS = true →
    (∀ v : BitVec 32, v.getLsbD 8 = s.rb .CLS_CAP_MODE ∨ (s.mod.mode = .load ∧ s.cls.a.st = .empty ∧ s.cls.b.st = .empty) → Does (.clsCfg src v) s [.reg .CLS] fun t =>
      t.rb .CLS_CAP_MODE = v.getLsbD 8 ∧ t.rn .CLS_FRAG_TMO_MS = v.toNat % 256 ∧ regsOnly [(.CLS_CAP_MODE, 0), (.CLS_FRAG_TMO_MS, 0)] s t) ∧
    (∀ v : BitVec 32, v.getLsbD 8 ≠ s.rb .CLS_CAP_MODE → s.mod.mode ≠ .load ∨ s.cls.a.st ≠ .empty ∨ s.cls.b.st ≠ .empty → Does (.clsCfg src v) s (evParts .CLS) fun t =>
      t.rb .CLS_CAP_MODE = s.rb .CLS_CAP_MODE ∧ t.rn .CLS_FRAG_TMO_MS = s.rn .CLS_FRAG_TMO_MS ∧ t.rb .CLS_EVT_CMD_ERR = true ∧ Raised .CLS_E_CAP 0 0 s t) ∧
    (s.clsBusy = false → s.cls.waitPack = none → (s.bank s.otherBank).st ≠ .installing → (s.bank s.otherBank).st ≠ .staged → Does (.clsStage src) s [.cls, .reg .CLS] fun t =>
      t.cls = { s.cls with stage := some (src, s.rn .CLS_CMD_ADDR, s.imageMode src 5) } ∧ t.rn .CLS_CMD_OUT = 1 ∧ t.rn .CLS_CMD_LAST_OP = 1) ∧
    (∀ (ed : BitVec 8), s.clsBusy = false →
      (∀ e : Edition, s.commitPack = some e → e.num = ed.toNat → (∀ b, (s.bank b).st = .live ∨ (s.bank b).st = .draining → (s.bank b).ed.num ≠ ed.toNat) →
        Does (.clsCommit src ed) s [.cls, .reg .CLS] fun t => t.cls = { s.cls with pend := true } ∧ t.rn .CLS_CMD_OUT = 5 ∧ t.rn .CLS_CMD_LAST_OP = 2 ∧ t.rn .CLS_CMD_ED = ed.toNat) ∧
      (s.commitPack = none → Does (.clsCommit src ed) s (evParts .CLS) fun t => t.rn .CLS_CMD_OUT = 6 ∧ t.rn .CLS_CMD_LAST_OP = 2 ∧
        t.rn .CLS_CMD_ERR = Ev.code .CLS_E_NOT_STAGED ∧ Raised .CLS_E_NOT_STAGED 0 0 s t) ∧
      (∀ e : Edition, s.commitPack = some e → e.num ≠ ed.toNat → Does (.clsCommit src ed) s (evParts .CLS) fun t => t.rn .CLS_CMD_OUT = 6 ∧
        t.rn .CLS_CMD_ERR = Ev.code .CLS_E_EDITION ∧ Raised .CLS_E_EDITION 0 0 s t)) ∧
    (∀ (ed : BitVec 8) (c : Instr), c ∈ [Instr.clsStage src, .clsCommit src ed, .clsDiscard src] → s.clsBusy = true → Does c s (evParts .CLS) fun t =>
      t.rn .CLS_CMD_OUT = s.rn .CLS_CMD_OUT ∧ t.rn .CLS_CMD_LAST_OP = s.rn .CLS_CMD_LAST_OP ∧ t.rn .CLS_CMD_ERR = Ev.code .CLS_E_BUSY ∧ Raised .CLS_E_BUSY 0 0 s t) ∧
    (s.cls.pend = true → Does (.clsAbort src) s [.cls, .reg .CLS] fun t => t.cls = { s.cls with pend := false } ∧ t.rn .CLS_CMD_OUT = 4 ∧
      t.rn .CLS_CMD_LAST_OP = 2 ∧ t.rn .CLS_CMD_ERR = 0) ∧
    (s.cls.pend = false → s.cls.stage ≠ none → Does (.clsAbort src) s [.cls, .reg .CLS] fun t => t.cls = { s.cls with stage := none } ∧ t.rn .CLS_CMD_OUT = 4 ∧
      t.rn .CLS_CMD_LAST_OP = 1 ∧ t.rn .CLS_CMD_ERR = 0) ∧
    (s.cls.pend = false → s.cls.stage = none → exec (.clsAbort src) s = .next s) ∧
    (s.clsBusy = false → s.cls.pend = false → s.cls.waitPack ≠ none → Does (.clsDiscard src) s [.cls, .reg .CLS] fun t => t.cls = { s.cls with waitPack := none } ∧
      t.rn .CLS_CMD_OUT = 2 ∧ t.rn .CLS_CMD_LAST_OP = 4) ∧
    (s.clsBusy = false → s.cls.pend = false → s.cls.waitPack = none → (s.bank s.otherBank).st = .installing ∨ (s.bank s.otherBank).st = .staged →
      Does (.clsDiscard src) s [.cls, .reg .CLS] fun t => t.bank s.otherBank = { Bank.none with off := (s.bank s.otherBank).off } ∧ t.bank (!s.otherBank) = s.bank (!s.otherBank) ∧ t.rn .CLS_CMD_OUT = 2 ∧
        t.rn .CLS_CMD_LAST_OP = 4)) ∧
  (∀ late : Bool, s.cls.stage = none → exec (.stageComplete late) s = .next s) ∧
  (∀ (late : Bool) (by' : Src) (a : Nat) (may : Bool), s.cls.stage = some (by', a, may) → Completes (.stageComplete late) s fun t => t.cls.stage = none ∧ t.rn .CLS_CMD_LAST_OP = 1 ∧
    t.cls.live = s.cls.live ∧ t.cls.a = s.cls.a ∧ t.cls.b = s.cls.b ∧ t.mod = s.mod ∧ t.pkts = s.pkts ∧
    ∀ r, r = { s with cls := { s.cls with stage := none } }.verify by' a (· == 5) (fun _ => may) →
      (∀ e, r.1 = .inr e → t.rb .CLS_EVT_CMD_ERR = true ∧ t.rn .CLS_CMD_OUT = 6 ∧ t.rn .CLS_CMD_ERR = e.code ∧ t.cls.waitPack = s.cls.waitPack ∧ LastEvent e 0 0 t) ∧
      (∀ i, r.1 = .inl i → (r.2.readPack i = none → t.rb .CLS_EVT_CMD_ERR = true ∧ t.rn .CLS_CMD_OUT = 6 ∧ t.rn .CLS_CMD_ERR = Ev.code .CLS_E_PACK ∧ t.cls.waitPack = s.cls.waitPack) ∧
        (∀ e, r.2.readPack i = some e → t.cls.waitPack = some e ∧ t.rn .CLS_CMD_OUT = (if late = true then 3 else 2) ∧ t.rn .CLS_CMD_ERR = 0))) ∧
  (∀ e : Edition, s.cls.waitPack = some e → (s.bank s.otherBank).st = .empty → Does .installStart s [.cls, .reg .CLS] fun t => t.cls.waitPack = none ∧
    ((∀ e ∈ (s.bank (!s.otherBank)).off, e.2 = false) → t.rb .CLS_RULE_BAD = false ∧ t.rb .CLS_RULE_BAD_VALID = false) ∧ t.cls.live = s.cls.live ∧
    t.bank s.otherBank = { Bank.none with st := .installing, ed := e } ∧ t.bank (!s.otherBank) = s.bank (!s.otherBank)) ∧
  (s.cls.waitPack = none ∨ (s.bank s.otherBank).st ≠ .empty → exec .installStart s = .next s) ∧
  ((s.bank s.otherBank).st = .installing → Does .installDone s (.cls :: evParts .CLS) fun t => t.bank s.otherBank = { s.bank s.otherBank with st := .staged } ∧
    t.bank (!s.otherBank) = s.bank (!s.otherBank) ∧ Raised .CLS_I_STAGED (bankCode s.otherBank * 256 + (s.bank s.otherBank).ed.num) 0 s t) ∧
  (∀ late : Bool, s.cls.pend = true → (s.bank s.otherBank).st = .staged → Completes (.editionSwitch late) s fun t => t.cls.live = some s.otherBank ∧ t.cls.pend = false ∧
    (t.bank s.otherBank).st = .live ∧ (t.bank s.otherBank).ed = (s.bank s.otherBank).ed ∧ t.rn .CLS_CMD_OUT = (if late = true then 3 else 2) ∧ t.rn .CLS_CMD_LAST_OP = 2 ∧
    t.rn .CLS_CMD_ERR = 0 ∧ t.pkts = s.pkts ∧ (s.cls.live = none → LastEvent .CLS_I_COMMITTED (bankCode s.otherBank * 256 + (s.bank s.otherBank).ed.num) 0 t) ∧
    (∀ o, s.cls.live = some o → (t.bank o).st = if (s.bank o).inflight = 0 then .empty else .draining)) ∧
  (∀ late : Bool, s.cls.pend = false → exec (.editionSwitch late) s = .next s) ∧
  (s.cls.a.st ≠ .draining → s.cls.b.st ≠ .draining → exec .editionDrainBound s = .next s) ∧
  (∀ (b : Bool) (p : Packet) (ed : Nat), (s.bank b).st = .draining → (s.bank (!b)).st ≠ .draining → s.pkts = [p] → p.counted = true → p.tag = some (b, ed) → p.due = false →
    Completes .editionDrainBound s fun t => t.ctr .CLS_CNT_DETACHED = s.ctr .CLS_CNT_DETACHED + 1#64 ∧ t.pkts.length = 1 ∧ (∀ q ∈ t.pkts, q.id = p.id ∧
      (p.stage = .parked → q.stage = .parked ∧ q.tag = none ∧ q.due = true) ∧ (p.stage = .classify → q = { p with due := true }) ∧
      (p.stage = .fifo → q.stage = .fifo ∧ q.tag = none ∧ q.kind = 6 ∧ q.pass = 1 ∧ q.detached = true)) ∧
      (p.stage ≠ .classify → (s.bank b).inflight = 1 → (t.bank b).st = .empty ∧ t.rn .CLS_DRAIN_ED = (s.bank b).ed.num % 256)))

/-- R263 to R268, R270, R272: an SV frame of a disabled stream counts, one that fails a check faults its stream, and a first sample in time is accepted; slices open and
close with Meridian; a silent stream is LOST.
R266, R271, R284, R292: the guarded registers of streams, groups and publications: a word that may change is stored, a change of a configuration in use is refused with
SAU_E_CFG; an enable of a group passes the checks of Table 10.3 first; a due retransmission. -/
def Obligations.SubstationSampling : Prop :=
  (∀ s : State,
  (∀ k : Fin 2, s.nextSample k.val = none → exec (.sampleDelivery k) s = .next s) ∧
  (∀ (k : Fin 2) (p : Packet) (st : Nat) (d : List Byte), s.nextSample k.val = some p → p.slice = some (st, d) → p.buf ≠ none →
    (s.rb .SAU_ST_EN st = false → Does (.sampleDelivery k) s [.pkts, .ctr .SAU] fun t => t.ctr .SAU_CNT_UNSUB = s.ctr .SAU_CNT_UNSUB + 1#64 ∧
      ∀ q ∈ t.pkts, q.id = p.id → q = { p with slice := none }) ∧
    (s.rb .SAU_ST_EN st = true → s.frameCheck st d p.bytes.length ≠ 0 → Completes (.sampleDelivery k) s fun t => t.rn .SAU_ST_FAULT st = s.frameCheck st d p.bytes.length ∧
      t.rn .SAU_ST_REJ st = satAdd (fieldMax .SAU_ST_REJ) (s.rn .SAU_ST_REJ st) 1 ∧ t.rn .SAU_ST_STATE st = (if s.rn .TIM_QUAL = 0 then s.rn .SAU_ST_STATE st else 4) ∧
      t.ctr .SAU_CNT_ACCEPT = s.ctr .SAU_CNT_ACCEPT ∧ (∀ q ∈ t.pkts, q.id = p.id → q = { p with slice := none }) ∧ t.mod = s.mod ∧ t.hbm = s.hbm) ∧
    (∀ r f sec a : Nat, s.rb .SAU_ST_EN st = true → s.frameCheck st d p.bytes.length = 0 → d6 d 3 1 = 1 → s.rn .SAU_ST_RATE st = r → s.rn .SAU_ST_STATE st = 1 →
      (s.strm st).latest = none → (s.strm st).run + 1 < s.rn .SAU_ACQ_N →
      s.fullSec p.tsSec = f → (f * 1000000000 + p.tsNs) * r = sec * 1000000000 * r + d6 d 0 2 * 1000000000 + a → a + s.rn .SAU_EARLY_US * 1000 * r < 1000000000 * r →
      a ≤ s.rn .SAU_ST_AGE_MAX_US st * 1000 * r → Does (.sampleDelivery k) s [.pkts, .sau, .reg .SAU, .ctr .SAU] fun t =>
        t.ctr .SAU_CNT_ACCEPT = s.ctr .SAU_CNT_ACCEPT + 1#64 ∧ t.rn .SAU_ST_LAST_CNT st = d6 d 0 2 ∧ t.rn .SAU_ST_STATE st = 1 ∧
        t.strm st = { s.strm st with latest := some (sec + 1, d6 d 0 2), run := (s.strm st).run + 1 } ∧ ∀ q ∈ t.pkts, q.id = p.id → q = { p with slice := none })) ∧
  (∀ g : Fin 512, (s.gridRun = false ∨ s.rb .SAU_JG_EN g.val = false ∨ s.mod.mode = .drain → exec (.sliceOpen g) s = .next s) ∧
    (∀ i : Nat × Nat, s.gridRun = true → s.rb .SAU_JG_EN g.val = true → s.mod.mode ≠ .drain → (s.grp g.val).front = some i →
      (s.reached g.val i.1 i.2 0 = false → exec (.sliceOpen g) s = .next s) ∧
      (s.reached g.val i.1 i.2 0 = true → (∀ x ∈ (s.grp g.val).opens, (x.sec, x.n) ≠ i) → (∀ e ∈ (s.grp g.val).done, (e.1, e.2.1) ≠ i) →
        Does (.sliceOpen g) s [.sau] fun t => t.grp g.val = { s.grp g.val with opens := (s.grp g.val).opens ++ [⟨i.1, i.2, []⟩], front := some (gridNext (s.jgRate g.val) i) } ∧
          ∀ j, j ≠ g.val → t.grp j = s.grp j)) ∧
    (s.oldestOpen g.val = none → exec (.sliceDeadline g) s = .next s) ∧
    (∀ x : Slice, s.oldestOpen g.val = some x → (s.reached g.val x.sec x.n (s.rn .SAU_JG_DL_NS g.val) = false → exec (.sliceDeadline g) s = .next s) ∧
      (s.reached g.val x.sec x.n (s.rn .SAU_JG_DL_NS g.val) = true →
        (x.areas = [] → s.rb .SAU_JG_EMPTY g.val = false → Does (.sliceDeadline g) s [.sau, .reg .SAU, .ctr .SAU] fun t =>
          t.grp g.val = (s.grp g.val).close x (s.rn .SAU_JG_SEQ g.val) ∧ t.ctr .SAU_CNT_DL_CLOSE = s.ctr .SAU_CNT_DL_CLOSE + 1#64 ∧
          t.rn .SAU_JG_DL_CLOSES g.val = satAdd (fieldMax .SAU_JG_DL_CLOSES) (s.rn .SAU_JG_DL_CLOSES g.val) 1 ∧ regsOnly [(.SAU_JG_DL_CLOSES, g.val)] s t) ∧
        (x.areas ≠ [] ∨ s.rb .SAU_JG_EMPTY g.val = true → Completes (.sliceDeadline g) s fun t => t.rn .SAU_JG_SEQ g.val = (s.rn .SAU_JG_SEQ g.val + 1) % 65536 ∧
          t.ctr .SAU_CNT_SLICE = s.ctr .SAU_CNT_SLICE + 1#64 ∧ t.ctr .SAU_CNT_DL_CLOSE = s.ctr .SAU_CNT_DL_CLOSE + 1#64 ∧ t.mod = s.mod ∧ t.hbm = s.hbm ∧ t.pkts = s.pkts ∧
          ∀ y ∈ (t.grp g.val).opens, (y.sec, y.n) ≠ (x.sec, x.n))))) ∧
  (∀ st : Fin 4096, (s.rn .SAU_ST_STATE st.val ≠ 2 → exec (.streamLoss st) s = .next s) ∧
    (s.rn .SAU_ST_STATE st.val = 2 → Completes (.streamLoss st) s fun t => t.rn .SAU_ST_STATE st.val = 3 ∧ t.mod = s.mod ∧ t.hbm = s.hbm ∧ t.pkts = s.pkts))) ∧
  (∀ (s : State) (src : Src),
  (s.guard src .SAU = true →
    (∀ (g : Fin 512) (w : Fin 128) (v : BitVec 32), s.rb .SAU_JG_EN g.val = false → w ≠ 0 ∨ v.getLsbD 31 = false → Does (.sauJgEn src g w v) s [.reg .SAU] fun t =>
      (∀ f ∈ jgFields w.val, t.rn f (jgElem g.val w.val) = bitsOf v.toNat f.info.msb f.info.lsb) ∧ regsOnly ((jgFields w.val).map fun f => (f, jgElem g.val w.val)) s t) ∧
    (∀ (g : Fin 512) (v : BitVec 32), s.rb .SAU_JG_EN g.val = false → v.getLsbD 31 = true →
      (∀ e : Ev, (s.wrFields (jgFields 0) g.val v).jgRefusal src g.val = some e → Completes (.sauJgEn src g 0 v) s fun t => LastEvent e g.val 0 t ∧
        t.rb .SAU_JG_EN g.val = false ∧ t.sau = s.sau) ∧
      ((s.wrFields (jgFields 0) g.val v).jgRefusal src g.val = none → Does (.sauJgEn src g 0 v) s [.sau, .reg .SAU] fun t => t.rb .SAU_JG_EN g.val = true ∧
        (t.grp g.val).opens = [] ∧ (t.grp g.val).front = none ∧ t.rn .SAU_JG_RATE g.val = bitsOf v.toNat (Field.info .SAU_JG_RATE).msb (Field.info .SAU_JG_RATE).lsb)) ∧
    (∀ (g : Fin 512) (w : Fin 128) (v : BitVec 32), s.rb .SAU_JG_EN g.val = true →
      (s.sameFields ((jgFields w.val).filter (· != .SAU_JG_EN)) (jgElem g.val w.val) v = false → Does (.sauJgEn src g w v) s (evParts .SAU) fun t => Raised .SAU_E_CFG g.val 0 s t) ∧
      (s.sameFields ((jgFields w.val).filter (· != .SAU_JG_EN)) (jgElem g.val w.val) v = true → w = 0 → v.getLsbD 31 = false → Does (.sauJgEn src g w v) s [.sau, .reg .SAU] fun t =>
        t.rb .SAU_JG_EN g.val = false ∧ t.grp g.val = { s.grp g.val with opens := [], front := none } ∧ regsOnly ((jgFields 0).map fun f => (f, g.val)) s t)) ∧
    (∀ (st : Fin 4096) (v : BitVec 32),
      (s.rb .SAU_ST_EN st.val = false → v.getLsbD 31 = true → s.rn .SAU_ST_STATE st.val ≠ 2 → Does (.sauStCfg src st 0 v) s [.sau, .reg .SAU] fun t =>
        t.rb .SAU_ST_EN st.val = true ∧ t.rn .SAU_ST_STATE st.val = 1 ∧ t.strm st.val = Strm.none ∧
        ∀ f ∈ [Field.SAU_ST_SYNC_EXACT, .SAU_ST_NCH, .SAU_ST_STRIDE, .SAU_ST_RATE], t.rn f st.val = bitsOf v.toNat f.info.msb f.info.lsb) ∧
      (∀ w : Fin 8, w.val < 2 → s.rb .SAU_ST_EN st.val = true →
        s.sameFields (if w = 0 then [.SAU_ST_SYNC_EXACT, .SAU_ST_NCH, .SAU_ST_STRIDE, .SAU_ST_RATE] else [.SAU_ST_SYNC_VAL, .SAU_ST_LOSS_US]) st.val v = false →
        Does (.sauStCfg src st w v) s (evParts .SAU) fun t => Raised .SAU_E_CFG st.val 0 s t) ∧
      (s.rb .SAU_ST_EN st.val = false → Does (.sauStCfg src st 1 v) s [.reg .SAU] fun t => regsOnly [(.SAU_ST_SYNC_VAL, st.val), (.SAU_ST_LOSS_US, st.val)] s t ∧
        ∀ f ∈ [Field.SAU_ST_SYNC_VAL, .SAU_ST_LOSS_US], t.rn f st.val = bitsOf v.toNat f.info.msb f.info.lsb) ∧
      (Does (.sauStCfg src st 2 v) s [.reg .SAU] fun t => t.reg .SAU_ST_CONFREV st.val = v ∧ regsOnly [(.SAU_ST_CONFREV, st.val)] s t) ∧
      (Does (.sauStCfg src st 3 v) s [.reg .SAU] fun t => t.rn .SAU_ST_AGE_MAX_US st.val = clampN 1 500000 (bitsOf v.toNat 18 0) ∧ regsOnly [(.SAU_ST_AGE_MAX_US, st.val)] s t)) ∧
    (∀ (p : Fin 1024) (v : BitVec 32),
      (s.rb .SAU_PUB_EN p.val = false → v.getLsbD 31 = true → Does (.sauPubCfg src p 0 v) s [.sau, .reg .SAU] fun t => t.rb .SAU_PUB_EN p.val = true ∧
        t.pub p.val = { s.pub p.val with fresh := true } ∧
        ∀ f ∈ [Field.SAU_PUB_T_AUTO, .SAU_PUB_TAL_AUTO, .SAU_PUB_AUTH, .SAU_PUB_KEY, .SAU_PUB_TMPL], t.rn f p.val = bitsOf v.toNat f.info.msb f.info.lsb) ∧
      (s.rb .SAU_PUB_EN p.val = true → s.sameFields [.SAU_PUB_T_AUTO, .SAU_PUB_TAL_AUTO, .SAU_PUB_AUTH, .SAU_PUB_KEY, .SAU_PUB_TMPL] p.val v = true → v.getLsbD 31 = false →
        Does (.sauPubCfg src p 0 v) s [.tmg, .reg .SAU, .reg .TMG] fun t => t.rb .SAU_PUB_EN p.val = false ∧ t.rn .SAU_PUB_STATE p.val = 0 ∧ p.val ∉ t.tmg.pubDue) ∧
      (s.rb .SAU_PUB_EN p.val = true → Does (.sauPubCfg src p 1 v) s (evParts .SAU) fun t => Raised .SAU_E_CFG p.val 0 s t) ∧
      (Does (.sauPubCfg src p 2 v) s [.reg .SAU] fun t => t.rn .SAU_PUB_TMAX_MS p.val = bitsOf v.toNat 31 16 ∧
        t.rn .SAU_PUB_TMIN_US p.val = clampN 250 65535 (bitsOf v.toNat 15 0) ∧ regsOnly [(.SAU_PUB_TMAX_MS, p.val), (.SAU_PUB_TMIN_US, p.val)] s t)) ∧
    (∀ v : BitVec 32, (s.groupsOn = [] ∨ s.sameFields [.SAU_EARLY_US] 0 v = true → Does (.sauCfg src v) s [.reg .SAU] fun t =>
        (∀ f ∈ [Field.SAU_ACQ_N, .SAU_EARLY_US], t.rn f = bitsOf v.toNat f.info.msb f.info.lsb) ∧ regsOnly [(.SAU_ACQ_N, 0), (.SAU_EARLY_US, 0)] s t) ∧
      (s.groupsOn ≠ [] → s.sameFields [.SAU_EARLY_US] 0 v = false → Does (.sauCfg src v) s (evParts .SAU) fun t => Raised .SAU_E_CFG 0 0 s t))) ∧
  (∀ (g : Fin 512) (st : Fin 4096) (p : Fin 1024) (v : BitVec 32), (∀ w : Fin 128, jgFields w.val = [] → exec (.sauJgEn src g w v) s = .next s) ∧
    ∀ w : Fin 8, (3 ≤ w.val → exec (.sauPubCfg src p w v) s = .next s) ∧ (4 ≤ w.val → exec (.sauStCfg src st w v) s = .next s)) ∧
  (s.tmg.pubDue = [] → exec .gooseRetransmit s = .next s) ∧
  (∀ (p : Nat) (l : List Nat), s.tmg.pubDue = p :: l →
    (s.rb .SAU_PUB_EN p = false ∨ s.mod.mode = .drain → exec .gooseRetransmit s = .next { s with tmg := { s.tmg with pubDue := l } }) ∧
    (s.rb .SAU_PUB_EN p = true → s.mod.mode ≠ .drain → Completes .gooseRetransmit s fun t => (t.pub p).j = (s.pub p).j + 1 ∧ (t.pub p).frame = (s.pub p).frame ∧
      t.mod = s.mod ∧ t.hbm = s.hbm ∧ t.pkts = s.pkts ∧ t.rn .SAU_PUB_STNUM p = s.rn .SAU_PUB_STNUM p ∧
      ((t.rn .SAU_PUB_SQNUM p = (if s.rn .SAU_PUB_SQNUM p = 2 ^ 32 - 1 then 1 else s.rn .SAU_PUB_SQNUM p + 1) ∧ t.ctr .SAU_CNT_RETX_SKIP = s.ctr .SAU_CNT_RETX_SKIP) ∨
        (t.rn .SAU_PUB_SQNUM p = s.rn .SAU_PUB_SQNUM p ∧ t.ctr .SAU_CNT_RETX_SKIP = s.ctr .SAU_CNT_RETX_SKIP + 1#64)))))

/-! ### The engines -/

/-- R339, R344, R346, R347: the scalar register instructions. A context that issues one completes it in one cycle: rd gets the value of Table 13.5, the PC moves on by 4, and
nothing else changes; a write to g0 is ignored. A field not in use that is not 0 raises ILLEGAL. -/
def Obligations.ScalarInstructions : Prop := ∀ (s : State) (k : Fin 1536) (w : BitVec 25) (x : Ctx), s.cx k.val = x →
  (∀ e ∈ ([(.add k w, 0x01, fun a b => a + b), (.sub k w, 0x02, fun a b => a - b), (.and k w, 0x03, fun a b => a &&& b), (.or k w, 0x04, fun a b => a ||| b),
      (.xor k w, 0x05, fun a b => a ^^^ b), (.sll k w, 0x06, fun a b => a <<< (b.toNat % 64)), (.srl k w, 0x07, fun a b => a >>> (b.toNat % 64)),
      (.sra k w, 0x08, fun a b => a.sshiftRight (b.toNat % 64)), (.cmplt k w, 0x09, fun a b => if a.toInt < b.toInt then 1#64 else 0#64),
      (.cmpltu k w, 0x0A, fun a b => if a.toNat < b.toNat then 1#64 else 0#64), (.min k w, 0x0B, fun a b => if a.toInt ≤ b.toInt then a else b),
      (.max k w, 0x0C, fun a b => if a.toInt ≤ b.toInt then b else a), (.minu k w, 0x0D, fun a b => if a.toNat ≤ b.toNat then a else b),
      (.maxu k w, 0x0E, fun a b => if a.toNat ≤ b.toNat then b else a), (.mul k w, 0x0F, fun a b => BitVec.ofNat 64 (a.toNat * b.toNat)),
      (.mulh k w, 0x10, fun a b => (a.signExtend 128 * b.signExtend 128).extractLsb' 64 64), (.mulhu k w, 0x11, fun a b => (a.setWidth 128 * b.setWidth 128).extractLsb' 64 64),
      (.div k w, 0x12, fun a b => if b = 0#64 then 0#64 else if a.toInt = -2 ^ 63 ∧ b.toInt = -1 then BitVec.ofInt 64 (2 ^ 63 - 1) else BitVec.ofInt 64 (a.toInt.tdiv b.toInt)),
      (.divu k w, 0x13, fun a b => if b = 0#64 then 0#64 else BitVec.ofNat 64 (a.toNat / b.toNat)),
      (.rem k w, 0x14, fun a b => if b = 0#64 then a else if a.toInt = -2 ^ 63 ∧ b.toInt = -1 then BitVec.ofInt 64 (-1) else BitVec.ofInt 64 (a.toInt.tmod b.toInt)),
      (.remu k w, 0x15, fun a b => if b = 0#64 then a else BitVec.ofNat 64 (a.toNat % b.toNat))] : List (Instr × Nat × (BitVec 64 → BitVec 64 → BitVec 64))),
    s.issues k.val (e.2.1 * 2 ^ 25 + w.toNat) →
      (fnOf10 w = 0 → Completes e.1 s fun t => RetiresOnly s t k.val (x.wr (rdOf w) (e.2.2 (x.rg (rs1Of w)) (x.rg (rs2Of w)))) (x.pc + 4)) ∧
      (fnOf10 w ≠ 0 → s.serviced k.val 1 → Completes e.1 s fun t => Faults s t k.val 1)) ∧
  (∀ n : Nat, n ≤ 64 → (x.rg (rs1Of w)).toNat < 2 ^ (64 - n) → (n < 64 → 2 ^ (63 - n) ≤ (x.rg (rs1Of w)).toNat) → s.issues k.val (0x16 * 2 ^ 25 + w.toNat) →
    fnOf10 w = 0 → rs2Of w = 0 → Completes (.clz k w) s fun t => RetiresOnly s t k.val (x.wr (rdOf w) (BitVec.ofNat 64 n)) (x.pc + 4)) ∧
  (s.issues k.val (0x17 * 2 ^ 25 + w.toNat) → fnOf10 w = 0 → rs2Of w = 0 → Completes (.popc k w) s fun t =>
    RetiresOnly s t k.val (x.wr (rdOf w) (BitVec.ofNat 64 ((List.range 64).countP fun i => (x.rg (rs1Of w)).getLsbD i))) (x.pc + 4)) ∧
  (∀ (a v : BitVec 64) (n : Nat), x.rg (rs1Of w) = a → (fnOf10 w, n) ∈ [(0, 8), (1, 4), (2, 2)] → (∀ i, i < 8 → v.extractLsb' (8 * i) 8 = if i < n then a.extractLsb' (8 * (n - 1 - i)) 8 else 0#8) →
    s.issues k.val (0x18 * 2 ^ 25 + w.toNat) → rs2Of w = 0 → Completes (.bswap k w) s fun t => RetiresOnly s t k.val (x.wr (rdOf w) v) (x.pc + 4)) ∧
  (∀ e ∈ ([(.addi k w, 0x20, fun a b => a + b), (.andi k w, 0x21, fun a b => a &&& b), (.ori k w, 0x22, fun a b => a ||| b), (.xori k w, 0x23, fun a b => a ^^^ b),
      (.cmplti k w, 0x27, fun a b => if a.toInt < b.toInt then 1#64 else 0#64)] : List (Instr × Nat × (BitVec 64 → BitVec 64 → BitVec 64))),
    s.issues k.val (e.2.1 * 2 ^ 25 + w.toNat) → Completes e.1 s fun t => RetiresOnly s t k.val (x.wr (rdOf w) (e.2.2 (x.rg (rs1Of w)) (imm15 w))) (x.pc + 4)) ∧
  (∀ e ∈ ([(.slli k w, 0x24, fun a n => a <<< n), (.srli k w, 0x25, fun a n => a >>> n), (.srai k w, 0x26, fun a n => a.sshiftRight n)] : List (Instr × Nat × (BitVec 64 → Nat → BitVec 64))),
    s.issues k.val (e.2.1 * 2 ^ 25 + w.toNat) →
      (w.toNat / 64 % 512 = 0 → Completes e.1 s fun t => RetiresOnly s t k.val (x.wr (rdOf w) (e.2.2 (x.rg (rs1Of w)) (w.toNat % 64))) (x.pc + 4)) ∧
      (w.toNat / 64 % 512 ≠ 0 → s.serviced k.val 1 → Completes e.1 s fun t => Faults s t k.val 1)) ∧
  (s.issues k.val (0x28 * 2 ^ 25 + w.toNat) → Completes (.immh k w) s fun t => RetiresOnly s t k.val (x.wr (rdOf w) (imm20 w <<< 16)) (x.pc + 4)) ∧
  (∀ (v : BitVec 64) (i j : Nat), i < 32 → j < 32 → (x.wr i v).rg j = if j = 0 then 0#64 else if j = i then v else x.rg j)

/-- R346, R347, R349, R388: loads, stores, atomics and branches. A load or store of a local memory without errors, a branch and a jump; a misaligned access raises ALIGN, one outside
the map of Table 13.1 ADDRESS, a translated one reads and writes device memory or raises PAGE. -/
def Obligations.LoadsStoresBranches : Prop := ∀ (s : State) (k : Fin 1536) (w : BitVec 25) (x : Ctx), s.cx k.val = x →
  (∀ e ∈ ([(.ldb k w, 0x30, 1, true), (.ldbu k w, 0x31, 1, false), (.ldh k w, 0x32, 2, true), (.ldhu k w, 0x33, 2, false), (.ldw k w, 0x34, 4, true), (.ldwu k w, 0x35, 4, false),
      (.ldd k w, 0x36, 8, true)] : List (Instr × Nat × Nat × Bool)), s.issues k.val (e.2.1 * 2 ^ 25 + w.toNat) →
    (∀ (m : Mem) (o : Nat) (v : BitVec (8 * e.2.2.1)), (x.ea w).toNat % e.2.2.1 = 0 → regionOf (engOf k.val) (x.ea w).toNat e.2.2.1 = .loc m o → s.clean m o e.2.2.1 →
      (∀ i, i < e.2.2.1 → v.extractLsb' (8 * i) 8 = s.memByte m (o + i)) → Completes e.1 s fun t =>
        RetiresOnly s t k.val (x.wr (rdOf w) (if e.2.2.2 = true then v.signExtend 64 else v.setWidth 64)) (x.pc + 4)) ∧
    (∀ (p : Nat) (u u' : State) (l : List Byte) (v : BitVec (8 * e.2.2.1)), (x.ea w).toNat % e.2.2.1 = 0 → regionOf (engOf k.val) (x.ea w).toNat e.2.2.1 = .dev →
      s.translate (clOf k.val) x.rcd (x.ea w).toNat false true = (.dev p, u) → u.hbmRead p e.2.2.1 4 = (some l, u') → s.fus = u'.fus → (∀ i, i < e.2.2.1 → v.extractLsb' (8 * i) 8 = l.getD i 0#8) →
      Completes e.1 s fun t => t.cx k.val = (x.wr (rdOf w) (if e.2.2.2 = true then v.signExtend 64 else v.setWidth 64)).after (x.pc + 4) ∧
        t.mod = s.mod ∧ t.pkts = s.pkts ∧ t.aut = s.aut ∧ t.tsk = s.tsk) ∧
    (∀ (c : Nat) (u : State), (x.ea w).toNat % e.2.2.1 = 0 → regionOf (engOf k.val) (x.ea w).toNat e.2.2.1 = .dev → s.translate (clOf k.val) x.rcd (x.ea w).toNat false true = (.fault c, u) →
      s.serviced k.val 4 → s.fus = u.fus → Completes e.1 s fun t => Faults s t k.val 4) ∧
    ((x.ea w).toNat % e.2.2.1 ≠ 0 → s.serviced k.val 2 → Completes e.1 s fun t => Faults s t k.val 2) ∧
    ((x.ea w).toNat % e.2.2.1 = 0 → regionOf (engOf k.val) (x.ea w).toNat e.2.2.1 = .none → s.serviced k.val 3 → Completes e.1 s fun t => Faults s t k.val 3)) ∧
  (∀ e ∈ ([(.stb k w, 0x38, 1), (.sth k w, 0x39, 2), (.stw k w, 0x3A, 4), (.std k w, 0x3B, 8)] : List (Instr × Nat × Nat)), s.issues k.val (e.2.1 * 2 ^ 25 + w.toNat) →
    (∀ (m : Mem) (o : Nat) (l : List Byte), (x.ea w).toNat % e.2.2 = 0 → regionOf (engOf k.val) (x.ea w).toNat e.2.2 = .loc m o → s.clean m o e.2.2 → l.length = e.2.2 →
      (∀ i, i < e.2.2 → l.getD i 0#8 = (x.rg (rdOf w)).extractLsb' (8 * i) 8) → Does e.1 s [.eng, .ctr .ENG] fun t => Retires s t k.val x (x.pc + 4) ∧ Stored s t m o l ∧
        t.eng.imem = s.eng.imem ∧ t.eng.conts = s.eng.conts) ∧
    (∀ (p : Nat) (u u' : State) (l : List Byte), (x.ea w).toNat % e.2.2 = 0 → regionOf (engOf k.val) (x.ea w).toNat e.2.2 = .dev → s.translate (clOf k.val) x.rcd (x.ea w).toNat true true = (.dev p, u) →
      l.length = e.2.2 → (∀ i, i < e.2.2 → l.getD i 0#8 = (x.rg (rdOf w)).extractLsb' (8 * i) 8) → u.hbmWrite p l 4 = (u', true) → s.fus = u'.fus → Completes e.1 s fun t =>
        t.cx k.val = x.after (x.pc + 4) ∧ t.hbm = u'.hbm ∧ t.mod = s.mod ∧ t.pkts = s.pkts ∧ t.aut = s.aut ∧ t.tsk = s.tsk) ∧
    ((x.ea w).toNat % e.2.2 ≠ 0 → s.serviced k.val 2 → Completes e.1 s fun t => Faults s t k.val 2 ∧ t.eng.dmem = s.eng.dmem ∧ t.eng.shm = s.eng.shm) ∧
    ((x.ea w).toNat % e.2.2 = 0 → regionOf (engOf k.val) (x.ea w).toNat e.2.2 = .none → s.serviced k.val 3 → Completes e.1 s fun t => Faults s t k.val 3 ∧ t.eng.dmem = s.eng.dmem ∧ t.eng.shm = s.eng.shm)) ∧
  (∀ (m : Mem) (o : Nat) (old : BitVec 64) (l : List Byte), fnOf10 w = 0 → (x.rg (rs1Of w)).toNat % 8 = 0 → regionOf (engOf k.val) (x.rg (rs1Of w)).toNat 8 = .loc m o → s.clean m o 8 →
    (∀ i, i < 8 → old.extractLsb' (8 * i) 8 = s.memByte m (o + i)) → l.length = 8 →
    (s.issues k.val (0x3C * 2 ^ 25 + w.toNat) → (∀ i, i < 8 → l.getD i 0#8 = (old + x.rg (rs2Of w)).extractLsb' (8 * i) 8) → Does (.xadd k w) s [.eng, .ctr .ENG] fun t =>
      Retires s t k.val (x.wr (rdOf w) old) (x.pc + 4) ∧ Stored s t m o l) ∧
    (s.issues k.val (0x3D * 2 ^ 25 + w.toNat) → (∀ i, i < 8 → l.getD i 0#8 = (if old = x.rg (rdOf w) then x.rg (rs2Of w) else old).extractLsb' (8 * i) 8) → Does (.cas k w) s [.eng, .ctr .ENG] fun t =>
      Retires s t k.val (x.wr (rdOf w) old) (x.pc + 4) ∧ Stored s t m o l)) ∧
  (∀ e ∈ ([(.xadd k w, 0x3C), (.cas k w, 0x3D)] : List (Instr × Nat)), s.issues k.val (e.2 * 2 ^ 25 + w.toNat) → fnOf10 w = 0 → (x.rg (rs1Of w)).toNat % 8 = 0 →
    regionOf (engOf k.val) (x.rg (rs1Of w)).toNat 8 = .dev → s.serviced k.val 3 → Completes e.1 s fun t => Faults s t k.val 3) ∧
  (s.issues k.val (0x29 * 2 ^ 25 + w.toNat) → Completes (.brl k w) s fun t => RetiresOnly s t k.val (x.wr (rdOf w) (BitVec.ofNat 64 (x.pc + 4))) (BitVec.ofNat 64 x.pc + 4 * imm20 w).toNat) ∧
  (s.issues k.val (0x2A * 2 ^ 25 + w.toNat) →
    ((x.rg (rs1Of w) + imm15 w).toNat % 4 = 0 → Completes (.jrl k w) s fun t => RetiresOnly s t k.val (x.wr (rdOf w) (BitVec.ofNat 64 (x.pc + 4))) (x.rg (rs1Of w) + imm15 w).toNat) ∧
    ((x.rg (rs1Of w) + imm15 w).toNat % 4 ≠ 0 → s.serviced k.val 2 → Completes (.jrl k w) s fun t => Faults s t k.val 2)) ∧
  (∀ e ∈ ([(.breq k w, 0x40, fun a b => a == b), (.brne k w, 0x41, fun a b => a != b), (.brlt k w, 0x42, fun a b => decide (a.toInt < b.toInt)), (.brge k w, 0x43, fun a b => decide (b.toInt ≤ a.toInt)),
      (.brltu k w, 0x44, fun a b => decide (a.toNat < b.toNat)), (.brgeu k w, 0x45, fun a b => decide (b.toNat ≤ a.toNat))] : List (Instr × Nat × (BitVec 64 → BitVec 64 → Bool))),
    s.issues k.val (e.2.1 * 2 ^ 25 + w.toNat) → Completes e.1 s fun t =>
      RetiresOnly s t k.val x (if e.2.2 (x.rg (rs1D w)) (x.rg (rs2D w)) = true then (BitVec.ofNat 64 x.pc + 4 * imm15 w).toNat else x.pc + 4))

/-- R346, R350, R351: the vector instructions, lane by lane: integer lanes wrap, floating-point results are the exact value rounded once, VRED sums from lane 0 upward. How
type 1 of VMAC rounds its product is open. A type an instruction does not define raises ILLEGAL. -/
def Obligations.VectorInstructions : Prop := ∀ (s : State) (k : Fin 1536) (w : BitVec 25) (x : Ctx) (d a b : BitVec 256), s.cx k.val = x → x.rv (vdOf w) = d → x.rv (vaOf w) = a → x.rv (vbOf w) = b →
  (∀ e ∈ ([(.vadd k w, 0x52, fun _ _ a b => a + b, fun a b => a.add b), (.vsub k w, 0x53, fun _ _ a b => a - b, fun a b => a.add b.neg), (.vmul k w, 0x54, fun _ _ a b => a * b, fun a b => a.mul b),
      (.vmac k w, 0x55, fun _ d a b => d + a * b, fun a _ => a)] : List (Instr × Nat × ((n : Nat) → BitVec n → BitVec n → BitVec n → BitVec n) × (Fp → Fp → Fp))),
    s.issues k.val (e.2.1 * 2 ^ 25 + w.toNat) → formE w true true true false = true →
    (fnE w = 0 → Completes e.1 s fun t => VecRetires s t k.val x (vdOf w) ∧
      ∀ i, i < 8 → ((t.cx k.val).rv (vdOf w)).extractLsb' (32 * i) 32 = e.2.2.1 32 (d.extractLsb' (32 * i) 32) (a.extractLsb' (32 * i) 32) (b.extractLsb' (32 * i) 32)) ∧
    (fnE w = 3 → Completes e.1 s fun t => VecRetires s t k.val x (vdOf w) ∧
      ∀ i, i < 16 → ((t.cx k.val).rv (vdOf w)).extractLsb' (16 * i) 16 = e.2.2.1 16 (d.extractLsb' (16 * i) 16) (a.extractLsb' (16 * i) 16) (b.extractLsb' (16 * i) 16)) ∧
    (e.2.1 ≠ 0x55 → fnE w = 1 ∨ (fnE w = 2 ∧ e.2.1 ≠ 0x54) → Completes e.1 s fun t => VecRetires s t k.val x (vdOf w) ∧
      ∀ i, i < 8 → (((t.cx k.val).rv (vdOf w)).extractLsb' (32 * i) 32).toNat = (e.2.2.2 (elF a i) (elF b i)).bits) ∧
    (4 ≤ fnE w ∨ (fnE w = 2 ∧ 0x54 ≤ e.2.1) → s.serviced k.val 1 → Completes e.1 s fun t => Faults s t k.val 1)) ∧
  (s.issues k.val (0x55 * 2 ^ 25 + w.toNat) → formE w true true true false = true → fnE w = 1 → Completes (.vmac k w) s fun t => VecRetires s t k.val x (vdOf w) ∧
    ((∀ i, i < 8 → (((t.cx k.val).rv (vdOf w)).extractLsb' (32 * i) 32).toNat = ((elF d i).add ((elF a i).mul (elF b i))).bits) ∨
      (∀ i, i < 8 → (((t.cx k.val).rv (vdOf w)).extractLsb' (32 * i) 32).toNat = ((elF d i).add ((elF a i).mul (elF b i)).round).bits))) ∧
  (∀ e ∈ ([(.vcmul k w, 0x56, fun _ _ ar ai br bi => ((ar.mul br).add (ai.mul bi).neg, (ar.mul bi).add (ai.mul br))),
      (.vcmac k w, 0x57, fun dr di ar ai br bi => (dr.add ((ar.mul br).add (ai.mul bi).neg), di.add ((ar.mul bi).add (ai.mul br)))),
      (.vdfts k w, 0x58, fun dr di ar ai br bi => (((dr.add br).round.mul ar).add ((di.add bi).round.mul ai).neg, ((dr.add br).round.mul ai).add ((di.add bi).round.mul ar))),
      (.vdfta k w, 0x59, fun dr di ar ai br bi => (((dr.mul ar).add (di.mul ai).neg).add br, ((dr.mul ai).add (di.mul ar)).add bi))] :
      List (Instr × Nat × (Fp → Fp → Fp → Fp → Fp → Fp → Fp × Fp))), s.issues k.val (e.2.1 * 2 ^ 25 + w.toNat) →
    (formE w true true true false = true → fnE w = 0 → Completes e.1 s fun t => VecRetires s t k.val x (vdOf w) ∧ ∀ j, j < 4 →
      (((t.cx k.val).rv (vdOf w)).extractLsb' (64 * j) 32).toNat = (e.2.2 (elF d (2 * j)) (elF d (2 * j + 1)) (elF a (2 * j)) (elF a (2 * j + 1)) (elF b (2 * j)) (elF b (2 * j + 1))).1.bits ∧
      (((t.cx k.val).rv (vdOf w)).extractLsb' (64 * j + 32) 32).toNat = (e.2.2 (elF d (2 * j)) (elF d (2 * j + 1)) (elF a (2 * j)) (elF a (2 * j + 1)) (elF b (2 * j)) (elF b (2 * j + 1))).2.bits) ∧
    (fnE w ≠ 0 → s.serviced k.val 1 → Completes e.1 s fun t => Faults s t k.val 1)) ∧
  (s.issues k.val (0x5A * 2 ^ 25 + w.toNat) → formE w true true false false = true →
    (fnE w % 4 < 3 → Completes (.vcvt k w) s fun t => VecRetires s t k.val x (vdOf w) ∧ ∀ i, i < 8 → (((t.cx k.val).rv (vdOf w)).extractLsb' (32 * i) 32).toNat =
      (if fnE w % 4 = 1 then (BitVec.ofInt 32 ((elF a i).toI32 (fnE w / 4))).toNat
       else if fnE w % 4 = 2 ∧ i % 2 = 1 then 0 else (Fp.ofInt (a.extractLsb' (32 * i) 32).toInt (-((fnE w / 4 : Nat) : Int))).bits)) ∧
    (fnE w % 4 = 3 → s.serviced k.val 1 → Completes (.vcvt k w) s fun t => Faults s t k.val 1)) ∧
  (s.issues k.val (0x5C * 2 ^ 25 + w.toNat) → formE w true true false false = true → fnE w = 0 → Completes (.vmag2 k w) s fun t => VecRetires s t k.val x (vdOf w) ∧ ∀ j, j < 4 →
    (((t.cx k.val).rv (vdOf w)).extractLsb' (64 * j) 32).toNat = (((elF a (2 * j)).mul (elF a (2 * j))).add ((elF a (2 * j + 1)).mul (elF a (2 * j + 1)))).bits ∧
    ((t.cx k.val).rv (vdOf w)).extractLsb' (64 * j + 32) 32 = 0#32) ∧
  (s.issues k.val (0x5B * 2 ^ 25 + w.toNat) → formE w false true false true = true → ∀ v : BitVec 64,
    (fnE w = 0 ∧ v = BitVec.ofInt 64 ((List.range 8).map fun i => (a.extractLsb' (32 * i) 32).toInt).sum) ∨ (fnE w = 3 ∧ v = BitVec.ofInt 64 ((List.range 16).map fun i => (a.extractLsb' (16 * i) 16).toInt).sum) ∨
    (fnE w = 1 ∧ v.toNat = (sumF ((List.range 8).map fun i => elF a i)).bits) ∨
    (fnE w = 2 ∧ v.toNat = (sumF ((List.range 4).map fun i => elF a (2 * i))).bits + (sumF ((List.range 4).map fun i => elF a (2 * i + 1))).bits * 2 ^ 32) →
    Completes (.vred k w) s fun t => RetiresOnly s t k.val (x.wr (rsE w) v) (x.pc + 4)) ∧
  (s.issues k.val (0x5D * 2 ^ 25 + w.toNat) → formE w true false false true = true → fnE w < 4 → Completes (.vsplat k w) s fun t => VecRetires s t k.val x (vdOf w) ∧
    (fnE w = 2 → ∀ i, i < 4 → ((t.cx k.val).rv (vdOf w)).extractLsb' (64 * i) 64 = x.rg (rsE w)) ∧
    (fnE w < 2 → ∀ i, i < 8 → ((t.cx k.val).rv (vdOf w)).extractLsb' (32 * i) 32 = (x.rg (rsE w)).setWidth 32) ∧
    (fnE w = 3 → ∀ i, i < 16 → ((t.cx k.val).rv (vdOf w)).extractLsb' (16 * i) 16 = (x.rg (rsE w)).setWidth 16)) ∧
  (s.issues k.val (0x5E * 2 ^ 25 + w.toNat) → formE w false true false true = true → ∀ (n : Nat) (v : BitVec 64),
    (n < 8 ∧ fnE w = 16 * n ∧ v = (a.extractLsb' (32 * n) 32).signExtend 64) ∨ (n < 8 ∧ fnE w = 16 * n + 1 ∧ v = (a.extractLsb' (32 * n) 32).setWidth 64) ∨
    (n < 4 ∧ fnE w = 16 * n + 2 ∧ v = a.extractLsb' (64 * n) 64) ∨ (n < 16 ∧ fnE w = 16 * n + 3 ∧ v = (a.extractLsb' (16 * n) 16).signExtend 64) →
    Completes (.vmovg k w) s fun t => RetiresOnly s t k.val (x.wr (rsE w) v) (x.pc + 4)) ∧
  (∀ (m : Mem) (o : Nat), formE w true false false true = true → (x.rg (rsE w) + BitVec.ofNat 64 (32 * fnE w)).toNat % 32 = 0 →
    regionOf (engOf k.val) (x.rg (rsE w) + BitVec.ofNat 64 (32 * fnE w)).toNat 32 = .loc m o → s.clean m o 32 →
    (s.issues k.val (0x50 * 2 ^ 25 + w.toNat) → Completes (.vld k w) s fun t => VecRetires s t k.val x (vdOf w) ∧
      ∀ i, i < 32 → ((t.cx k.val).rv (vdOf w)).extractLsb' (8 * i) 8 = s.memByte m (o + i)) ∧
    (∀ l : List Byte, s.issues k.val (0x51 * 2 ^ 25 + w.toNat) → l.length = 32 → (∀ i, i < 32 → l.getD i 0#8 = d.extractLsb' (8 * i) 8) →
      Does (.vst k w) s [.eng, .ctr .ENG] fun t => Retires s t k.val x (x.pc + 4) ∧ Stored s t m o l)) ∧
  (∀ (p : Nat) (u u' : State) (l : List Byte), formE w true false false true = true → (x.rg (rsE w) + BitVec.ofNat 64 (32 * fnE w)).toNat % 32 = 0 →
    regionOf (engOf k.val) (x.rg (rsE w) + BitVec.ofNat 64 (32 * fnE w)).toNat 32 = .dev → l.length = 32 → s.fus = u'.fus →
    (s.issues k.val (0x50 * 2 ^ 25 + w.toNat) → s.translate (clOf k.val) x.rcd (x.rg (rsE w) + BitVec.ofNat 64 (32 * fnE w)).toNat false true = (.dev p, u) → u.hbmRead p 32 4 = (some l, u') →
      Completes (.vld k w) s fun t => t.cx k.val = ({ x with v := (t.cx k.val).v } : Ctx).after (x.pc + 4) ∧
        (∀ j, j ≠ vdOf w → (t.cx k.val).rv j = x.rv j) ∧ (∀ i, i < 32 → ((t.cx k.val).rv (vdOf w)).extractLsb' (8 * i) 8 = l.getD i 0#8) ∧ t.mod = s.mod ∧ t.pkts = s.pkts ∧ t.tsk = s.tsk) ∧
    (s.issues k.val (0x51 * 2 ^ 25 + w.toNat) → s.translate (clOf k.val) x.rcd (x.rg (rsE w) + BitVec.ofNat 64 (32 * fnE w)).toNat true true = (.dev p, u) →
      (∀ i, i < 32 → l.getD i 0#8 = d.extractLsb' (8 * i) 8) → u.hbmWrite p l 4 = (u', true) → Completes (.vst k w) s fun t =>
        t.cx k.val = x.after (x.pc + 4) ∧ t.hbm = u'.hbm ∧ t.mod = s.mod ∧ t.pkts = s.pkts ∧ t.tsk = s.tsk)) ∧
  (∀ e ∈ ([(.vld k w, 0x50), (.vst k w, 0x51)] : List (Instr × Nat)), s.issues k.val (e.2 * 2 ^ 25 + w.toNat) → formE w true false false true = true →
    (x.rg (rsE w) + BitVec.ofNat 64 (32 * fnE w)).toNat % 32 ≠ 0 → s.serviced k.val 2 → Completes e.1 s fun t => Faults s t k.val 2)

/-- R341, R343, R353 to R355, R362, R365, R383, R400: tokens, the end of a task, timers, special registers and traps.
R302, R303, R343, R356 to R359: packets and buffers of a task, each with the operation it makes on the buffer and the exception where the check fails.
R303, R360, R361, R363, R364, R379, R393, R396, R421: authentication requests, publication, transfers and register accesses of a task; what an accepted request
leaves is said where no other work is about to take a free lane. -/
def Obligations.DeviceInstructions : Prop :=
  (∀ (s : State) (k : Fin 1536) (w : BitVec 25) (x : Ctx), s.cx k.val = x →
  (s.issues k.val (0x60 * 2 ^ 25 + w.toNat) → formF w true true true 0 3 = true →
    (flOf w % 2 = 0 → x.held.length < 16 → Completes (.emit k w) s fun t =>
      RetiresOnly s t k.val (({ x with held := x.held ++ [{ dest := x.rg (rs1Of w), cont := bitOf (flOf w) 1, value := x.rg (rs2Of w) }] } : Ctx).wr (rdOf w) 0#64) (x.pc + 4)) ∧
    (flOf w % 2 = 0 → 16 ≤ x.held.length → Completes (.emit k w) s fun t => RetiresOnly s t k.val (x.wr (rdOf w) (BitVec.ofNat 64 (Ev.code .ENG_E_TOKQ))) (x.pc + 4)) ∧
    (∀ a : Nat, flOf w = 3 → (x.rg (rs1Of w)).toNat % 2 ^ 32 = a → s.caddrFresh a = true →
      (s.contLoad (caddrCtx a) < 8 → Does (.emit k w) s [.eng, .ctr .ENG] fun t => Retires s t k.val (x.wr (rdOf w) 0#64) (x.pc + 4) ∧
        t.eng.conts = s.eng.conts ++ [(a, (x.rg (rs1Of w)).toNat / 2 ^ 48, x.rg (rs2Of w))] ∧ t.ctr .ENG_CNT_EMIT = s.ctr .ENG_CNT_EMIT + 1#64) ∧
      (8 ≤ s.contLoad (caddrCtx a) → Does (.emit k w) s [.eng, .ctr .ENG] fun t => Retires s t k.val (x.wr (rdOf w) (BitVec.ofNat 64 (Ev.code .ENG_E_CONT_FULL))) (x.pc + 4) ∧
        t.eng.conts = s.eng.conts ∧ t.ctr .ENG_CNT_CONT_DROP = s.ctr .ENG_CNT_CONT_DROP + 1#64)) ∧
    (∀ m : Tmpl, flOf w = 1 → s.tsk.tmpls.find ((x.rg (rs1Of w)).toNat % 16384) = some m → s.rb .TSK_TT_EN ((x.rg (rs1Of w)).toNat % 16384) = true → s.mod.mode = .run → s.boot.srUnit = 0 →
      emitOk (s.emitterOf k.val) m = true → m.nopnd ≤ 1 → s.entryFree m.cls false = true → s.rb .TSK_FB_EN = false → Completes (.emit k w) s fun t =>
        t.cx k.val = (x.wr (rdOf w) 0#64).after (x.pc + 4) ∧ t.ctr .ENG_CNT_EMIT = s.ctr .ENG_CNT_EMIT + 1#64 ∧ t.ctr .TSK_CNT_TOKEN = s.ctr .TSK_CNT_TOKEN + 1#64 ∧ t.hbm = s.hbm ∧ t.mod = s.mod ∧
        ∃ e ∈ t.tsk.ents, e.2.ready = true ∧ e.2.tmpl = (x.rg (rs1Of w)).toNat % 16384 ∧ e.2.tag = (x.rg (rs1Of w)).toNat / 2 ^ 32 ∧ e.2.toks.map (·.value) = [(x.rg (rs2Of w)).toNat])) ∧
  (s.issues k.val (0x61 * 2 ^ 25 + w.toNat) → rdOf w % 2 = 0 → w.toNat % 2 ^ 20 = 0 →
    (∀ (tag : Nat) (v : BitVec 64) (l : List (Nat × BitVec 64)), s.mod.mode ≠ .drain → x.cont = (tag, v) :: l → Completes (.await k w) s fun t =>
      RetiresOnly s t k.val ((({ x with cont := l } : Ctx).wr (rdOf w) v).wr (rdOf w + 1) (BitVec.ofNat 64 (tag % 65536))) (x.pc + 4)) ∧
    (s.mod.mode ≠ .drain → x.cont = [] → s.rb .TSK_FB_EN = false → Completes (.await k w) s fun t => t.cx k.val = { x with st := .awaiting, cycle := x.cycle + 1 } ∧
      (x.cls = 0 → changesOnly [.eng] s t ∧ ∀ j, j ≠ k.val → t.cx j = s.cx j) ∧ ∀ j, j ≠ k.val → (s.cx j).st ≠ .ready → t.cx j = s.cx j) ∧
    (s.mod.mode = .drain → s.noTransfer k.val → Completes (.await k w) s fun t => Aborts s t k.val)) ∧
  (s.issues k.val (0x62 * 2 ^ 25 + w.toNat) → w = 0#25 → s.mod.mode = .drain ∨ x.held = [] → Completes (.commit k w) s fun t =>
    t.cx k.val = { Ctx.none with gen := x.gen } ∧ (∀ j, j ≠ k.val → (s.cx j).st ≠ .ready → t.cx j = s.cx j) ∧ t.ctr .ENG_CNT_TASK_END = s.ctr .ENG_CNT_TASK_END + 1#64 ∧
    t.ctr .ENG_CNT_INSN = s.ctr .ENG_CNT_INSN + 1#64 ∧ t.ctr .ENG_CNT_CONT_STALE = s.ctr .ENG_CNT_CONT_STALE + BitVec.ofNat 64 x.cont.length ∧ t.eng.conts = s.eng.conts ∧ t.mod = s.mod ∧
    (x.bufs = [] → t.swc = s.swc ∧ t.pkts = s.pkts)) ∧
  (∀ h : HeldTok, s.issues k.val (0x62 * 2 ^ 25 + w.toNat) → w = 0#25 → s.mod.mode ≠ .drain → x.held = [h] → h.cont = true → s.contLoad (caddrCtx (h.dest.toNat % 2 ^ 32)) < 8 → Completes (.commit k w) s fun t =>
    t.eng.conts = s.eng.conts ++ [(h.dest.toNat % 2 ^ 32, h.dest.toNat / 2 ^ 48, h.value)] ∧ t.ctr .ENG_CNT_EMIT = s.ctr .ENG_CNT_EMIT + 1#64 ∧ (t.cx k.val).st = .free) ∧
  (s.issues k.val (0x6D * 2 ^ 25 + w.toNat) → formF w true true true 2 2 = true →
    (subOf w = 1 ∨ (0 < (x.rg (rs1Of w)).toNat ∧ (x.rg (rs1Of w)).toNat ≤ 2 ^ 40) → (∃ n, n < 64 ∧ s.eng.tmr.find (clOf k.val * 64 + n) = none) →
      Does (.tmset k w) s [.eng, .freeCtr, .ctr .ENG] fun t => ∃ n, n < 64 ∧ s.eng.tmr.find (clOf k.val * 64 + n) = none ∧
        Retires s t k.val (x.wr (rdOf w) (BitVec.ofNat 64 (n * 2 ^ 32))) (x.pc + 4) ∧ t.eng.tmr = s.eng.tmr.set (clOf k.val * 64 + n)
          { dest := x.rg (rs2Of w), cont := bitOf (flOf w) 1, absolute := subOf w == 1, due := if subOf w = 1 then (x.rg (rs1Of w)).toNat else s.freeNs + (x.rg (rs1Of w)).toNat,
            period := if subOf w = 2 then (x.rg (rs1Of w)).toNat else 0, cls := x.cls, any := bitOf x.rcd.perm 4 }) ∧
    (subOf w ≠ 1 → x.rg (rs1Of w) = 0#64 ∨ 2 ^ 40 < (x.rg (rs1Of w)).toNat → Completes (.tmset k w) s fun t =>
      RetiresOnly s t k.val (x.wr (rdOf w) (BitVec.ofNat 64 (Ev.code .ENG_E_ARG))) (x.pc + 4)) ∧
    (subOf w = 1 → (∀ n, n < 64 → s.eng.tmr.find (clOf k.val * 64 + n) ≠ none) → Completes (.tmset k w) s fun t =>
      RetiresOnly s t k.val (x.wr (rdOf w) (BitVec.ofNat 64 (Ev.code .ENG_E_TIMER_FULL))) (x.pc + 4))) ∧
  (s.issues k.val (0x6E * 2 ^ 25 + w.toNat) → formF w true true false 0 0 = true → Does (.tmcan k w) s [.eng, .ctr .ENG] fun t =>
    Retires s t k.val (x.wr (rdOf w) (BitVec.ofNat 64 (if s.eng.tmr.find (clOf k.val * 64 + (x.rg (rs1Of w)).toNat % 64) = none then 2 ^ 32 else 0))) (x.pc + 4) ∧
    t.eng.tmr.find (clOf k.val * 64 + (x.rg (rs1Of w)).toNat % 64) = none ∧ ∀ j, j ≠ clOf k.val * 64 + (x.rg (rs1Of w)).toNat % 64 → t.eng.tmr.find j = s.eng.tmr.find j) ∧
  (s.issues k.val (0x73 * 2 ^ 25 + w.toNat) → formF w true false false 7 0 = true →
    (∀ v : Nat, (subOf w, v) ∈ [(0, k.val), (1, s.nowNs), (4, k.val + x.gen * 65536), (5, s.refNext), (6, s.engClkEff (clOf k.val)), (7, x.rcd.asid)] → Completes (.mfs k w) s fun t =>
      RetiresOnly s t k.val (x.wr (rdOf w) (BitVec.ofNat 64 v)) (x.pc + 4)) ∧
    (subOf w = 2 ∨ subOf w = 3 → Does (.mfs k w) s [.eng, .freeCtr, .ctr .ENG] fun t => x.cycle < (t.cx k.val).cycle ∧ (x.rcd.budget ≠ 0 → (t.cx k.val).cycle ≤ x.rcd.budget + 1) ∧
      t.cx k.val = { (x.wr (rdOf w) (if subOf w = 2 then BitVec.ofNat 64 ((t.cx k.val).cycle - 1) else BitVec.ofInt 64 (x.rcd.budget - ((t.cx k.val).cycle - 1 : Nat)))).after (x.pc + 4) with
        cycle := (t.cx k.val).cycle })) ∧
  (s.issues k.val (0x73 * 2 ^ 25 + w.toNat) → 8 ≤ subOf w → s.serviced k.val 1 → Completes (.mfs k w) s fun t => Faults s t k.val 1) ∧
  (s.issues k.val (0x74 * 2 ^ 25 + w.toNat) → w = 0#25 → Completes (.fence k w) s fun t => RetiresOnly s t k.val x (x.pc + 4)) ∧
  (s.issues k.val (0x75 * 2 ^ 25 + w.toNat) → formF w false false false 31 0 = true → s.serviced k.val 9 → Completes (.trap k w) s fun t => Faults s t k.val 9 ∧ t.ctr .ENG_CNT_INSN = s.ctr .ENG_CNT_INSN + 1#64) ∧
  (∀ f : Nat, s.issues k.val f → opDefined (f / 2 ^ 25) = false → s.serviced k.val 1 → Completes (.trap k w) s fun t => Faults s t k.val 1)) ∧
  (∀ (s : State) (k : Fin 1536) (w : BitVec 25) (x : Ctx) (h : Nat), s.cx k.val = x → (x.rg (rs1Of w)).toNat % 2 ^ 20 = h →
  (s.issues k.val (0x63 * 2 ^ 25 + w.toNat) → formF w true true false 7 1 = true →
    ((x.rg (rs1Of w)).toNat % 2 ^ 14 = 0 ∨ s.poolSize 3 < (x.rg (rs1Of w)).toNat % 2 ^ 14 → Completes (.pkalloc k w) s fun t =>
      RetiresOnly s t k.val (x.wr (rdOf w) (BitVec.ofNat 64 (Ev.code .ENG_E_ARG))) (x.pc + 4)) ∧
    (0 < (x.rg (rs1Of w)).toNat % 2 ^ 14 → (x.rg (rs1Of w)).toNat % 2 ^ 14 ≤ s.poolSize 3 →
      (6 ≤ subOf w → bitOf x.rcd.perm 0 = false → s.serviced k.val 5 → Completes (.pkalloc k w) s fun t => Faults s t k.val 5) ∧
      (subOf w < 6 ∨ bitOf x.rcd.perm 0 = true →
        (32 ≤ x.bufs.length → Completes (.pkalloc k w) s fun t => RetiresOnly s t k.val (x.wr (rdOf w) (BitVec.ofNat 64 (Ev.code .ENG_E_BUFLIST))) (x.pc + 4)) ∧
        (x.bufs.length < 32 → Completes (.pkalloc k w) s fun t => (∀ j, j ≠ k.val → t.cx j = s.cx j) ∧ t.mod = s.mod ∧ t.pkts = s.pkts ∧ t.hbm = s.hbm ∧
          (∀ b, (s.request (decide (6 ≤ subOf w)) (some ((x.rg (rs1Of w)).toNat % 2 ^ 14)) (ownCtx k.val) [] none).2 = some b → t.heldBy k.val b = true ∧
            t.cx k.val = (({ x with bufs := x.bufs ++ [b] } : Ctx).wr (rdOf w) (BitVec.ofNat 64 (b * 2 ^ 32))).after (x.pc + 4)) ∧
          ((s.request (decide (6 ≤ subOf w)) (some ((x.rg (rs1Of w)).toNat % 2 ^ 14)) (ownCtx k.val) [] none).2 = none → t.cx k.val =
            if flOf w = 1 then (x.wr (rdOf w) (BitVec.ofNat 64 (Ev.code .ENG_E_NOBUF))).after (x.pc + 4) else { x with st := .stalled, cycle := x.cycle + 1 }))))) ∧
  (∀ (m : Mem) (o off n : Nat) (b : Buf), formF w true true true 0 0 = true → bitsOf (x.rg (rs1Of w)).toNat 33 20 = off → bitsOf (x.rg (rs1Of w)).toNat 47 34 = n → 0 < n →
    regionOf (engOf k.val) (x.rg (rs2Of w)).toNat n = .loc m o → off + n ≤ s.poolSize (poolOf h) → s.buf h = some b →
    (s.heldBy k.val h = true → s.clean m o n →
      (s.issues k.val (0x64 * 2 ^ 25 + w.toNat) → off + n ≤ b.bytes.length → Does (.pkrd k w) s [.eng, .ctr .ENG] fun t => Retires s t k.val (x.wr (rdOf w) 0#64) (x.pc + 4) ∧
        Stored s t m o ((b.bytes.drop off).take n)) ∧
      (s.issues k.val (0x65 * 2 ^ 25 + w.toNat) → off ≤ b.bytes.length → Does (.pkwr k w) s [.eng, .swc, .ctr .ENG] fun t => Retires s t k.val (x.wr (rdOf w) 0#64) (x.pc + 4) ∧
        t.buf h = some { b with bytes := b.bytes.take off ++ ((List.range n).map fun i => s.memByte m (o + i)) ++ b.bytes.drop (off + n) } ∧ (∀ j, j ≠ h → t.buf j = s.buf j) ∧
        t.eng.dmem = s.eng.dmem ∧ t.eng.shm = s.eng.shm)) ∧
    (s.heldBy k.val h = false → h ∉ x.bufs → s.serviced k.val 6 → ∀ e ∈ ([(.pkrd k w, 0x64), (.pkwr k w, 0x65)] : List (Instr × Nat)), s.issues k.val (e.2 * 2 ^ 25 + w.toNat) →
      Completes e.1 s fun t => Faults s t k.val 6 ∧ t.eng.dmem = s.eng.dmem ∧ t.eng.shm = s.eng.shm ∧ t.swc = s.swc)) ∧
  (∀ (n : Nat) (p : Nat) (b : Buf), s.issues k.val (0x66 * 2 ^ 25 + w.toNat) → formF w true true true 0 0 = true → bitsOf (x.rg (rs1Of w)).toNat 33 20 = n → bitsOf (x.rg (rs1Of w)).toNat 34 34 = p →
    (s.heldBy k.val h = true → s.buf h = some b → bitsOf (x.rg (rs1Of w)).toNat 37 35 < 6 ∨ bitOf x.rcd.perm 0 = true →
      (n < 60 ∨ s.poolSize (poolOf h) < n → Completes (.pksend k w) s fun t => RetiresOnly s t k.val (x.wr (rdOf w) (BitVec.ofNat 64 (Ev.code .ENG_E_ARG))) (x.pc + 4)) ∧
      (60 ≤ n → n ≤ s.poolSize (poolOf h) → 64 ≤ s.queuedAt 60 p → Does (.pksend k w) s [.eng] fun t => t.cx k.val = { x with st := .stalled, cycle := x.cycle + 1 } ∧ ∀ j, j ≠ k.val → t.cx j = s.cx j) ∧
      (60 ≤ n → n ≤ s.poolSize (poolOf h) → s.queuedAt 60 p < 64 → n ≤ b.bytes.length → bitOf (x.rg (rs1Of w)).toNat 39 = false → Does (.pksend k w) s [.eng, .swc, .pkts, .nextPkt, .ctr .ENG] fun t =>
        Retires s t k.val (({ x with bufs := x.bufs.filter (· != h) } : Ctx).wr (rdOf w) 0#64) (x.pc + 4) ∧ t.ctr .ENG_CNT_PKSEND = s.ctr .ENG_CNT_PKSEND + 1#64 ∧
        t.buf h = some { b with owner := ownPipe p, bytes := b.bytes.take n } ∧ ∃ q ∈ t.pkts, t.pkts = s.pkts ++ [q] ∧ q.src = 60 ∧ q.pipe = p ∧ q.bytes = b.bytes.take n ∧ q.kind = 3 ∧
          q.buf = some h ∧ q.stage = .fifo ∧ q.tcHint = bitsOf (x.rg (rs1Of w)).toNat 37 35)) ∧
    (s.heldBy k.val h = false → s.serviced k.val 6 → Completes (.pksend k w) s fun t => Faults s t k.val 6 ∧ t.swc.bufs = s.swc.bufs ∧ t.ctr .SWC_CNT_OWN_ERR = s.ctr .SWC_CNT_OWN_ERR + 1#64) ∧
    (s.heldBy k.val h = true → 6 ≤ bitsOf (x.rg (rs1Of w)).toNat 37 35 → bitOf x.rcd.perm 0 = false → s.serviced k.val 5 → Completes (.pksend k w) s fun t => Faults s t k.val 5)) ∧
  (formF w true true false 0 0 = true →
    (∀ (b : Buf) (p : Packet), s.buf h = some b → b.st = .held → b.owner = ownSlow → s.parkedPkt h = some p →
      (s.issues k.val (0x67 * 2 ^ 25 + w.toNat) → s.queuedAt 60 (bitsOf (x.rg (rs1Of w)).toNat 20 20) < 64 → Does (.pkres k w) s [.eng, .swc, .pkts, .ctr .ENG] fun t =>
        Retires s t k.val (({ x with bufs := x.bufs.filter (· != h) } : Ctx).wr (rdOf w) 0#64) (x.pc + 4) ∧ t.buf h = some { b with owner := ownPipe (bitsOf (x.rg (rs1Of w)).toNat 20 20) } ∧
        t.pkts = (s.pkts.filter fun q => q.id != p.id) ++ [resumedAt p 60 (bitsOf (x.rg (rs1Of w)).toNat 20 20)]) ∧
      (s.issues k.val (0x68 * 2 ^ 25 + w.toNat) → Completes (.pkdisc k w) s fun t => t.cx k.val = (({ x with bufs := x.bufs.filter (· != h) } : Ctx).wr (rdOf w) 0#64).after (x.pc + 4) ∧ t.buf h = none ∧
        (∀ q ∈ t.pkts, q.id ≠ p.id) ∧ t.mod = s.mod ∧ t.hbm = s.hbm)) ∧
    (∀ b : Buf, s.issues k.val (0x69 * 2 ^ 25 + w.toNat) → s.buf h = some b → b.owner = ownCtx k.val → b.st = .held → Completes (.bfree k w) s fun t =>
      t.cx k.val = (({ x with bufs := x.bufs.filter (· != h) } : Ctx).wr (rdOf w) 0#64).after (x.pc + 4) ∧ t.buf h = none ∧ (∀ j, j ≠ h → t.buf j = s.buf j) ∧ t.mod = s.mod ∧ t.pkts = s.pkts) ∧
    (∀ b : Buf, s.issues k.val (0x6A * 2 ^ 25 + w.toNat) → s.buf h = some b → b.st ≠ .held → 0 < b.count → Completes (.brel k w) s fun t =>
      t.cx k.val = (({ x with bufs := x.bufs.filter (· != h) } : Ctx).wr (rdOf w) 0#64).after (x.pc + 4) ∧
      t.buf h = (if b.st = .releasing ∧ b.count = 1 then none else some { b with count := b.count - 1 }) ∧ (∀ j, j ≠ h → t.buf j = s.buf j) ∧ t.mod = s.mod ∧ t.pkts = s.pkts) ∧
    (s.buf h = none → s.serviced k.val 6 → s.queuedAt 60 (bitsOf (x.rg (rs1Of w)).toNat 20 20) < 64 →
      ∀ e ∈ ([(.pkres k w, 0x67), (.pkdisc k w, 0x68), (.bfree k w, 0x69), (.brel k w, 0x6A)] : List (Instr × Nat)), s.issues k.val (e.2 * 2 ^ 25 + w.toNat) → Completes e.1 s fun t =>
        Faults s t k.val 6 ∧ t.swc.bufs = s.swc.bufs ∧ t.pkts = s.pkts ∧ t.ctr .SWC_CNT_OWN_ERR = s.ctr .SWC_CNT_OWN_ERR + 1#64))) ∧
  (∀ (s : State) (k : Fin 1536) (w : BitVec 25) (x : Ctx) (a : Nat), s.cx k.val = x → (x.rg (rs1Of w)).toNat = a →
  (∀ d : List Byte, s.issues k.val (0x6B * 2 ^ 25 + w.toNat) → formF w true true false 0 1 = true →
    (a % 8 ≠ 0 → s.serviced k.val 2 → Completes (.auth k w) s fun t => Faults s t k.val 2) ∧
    (a % 8 = 0 → 0x20000 < a + 32 → s.serviced k.val 3 → Completes (.auth k w) s fun t => Faults s t k.val 3) ∧
    (a % 8 = 0 → a + 32 ≤ 0x20000 → s.clean (.dmem (engOf k.val)) a 32 → d.length = 32 → (∀ i, i < 32 → d.getD i 0#8 = s.memByte (.dmem (engOf k.val)) (a + i)) →
      (leNat ((d.drop 28).take 3) ≠ 0 ∨ 4 ≤ leNat ((d.drop 31).take 1) → Completes (.auth k w) s fun t => RetiresOnly s t k.val (x.wr (rdOf w) (BitVec.ofNat 64 (Ev.code .ENG_E_ARG))) (x.pc + 4)) ∧
      (leNat ((d.drop 28).take 3) = 0 → leNat ((d.drop 31).take 1) < 4 →
        (∀ (e : Ev) (c : Nat), (s.authStart k.val d).1 = .inr (e, c) → c ≠ 8 → Completes (.auth k w) s fun t => t.ctr .AUT_CNT_REFUSED = s.ctr .AUT_CNT_REFUSED + 1#64 ∧ t.aut.ops = s.aut.ops ∧
          (flOf w = 0 → t.cx k.val = (x.wr (rdOf w) (statusWord e.code c 0)).after (x.pc + 4) ∧ t.eng.conts = s.eng.conts) ∧
          (flOf w = 1 → t.cx k.val = (x.wr (rdOf w) 0#64).after (x.pc + 4) ∧ t.eng.conts = s.eng.conts ++ [(s.caddr k.val, leNat ((d.drop 6).take 2), statusWord e.code c 0)])) ∧
        (∀ key : KeySlot, (s.authStart k.val d).1 = .inl key → (Completes (.auth k w) s fun _ => True) ∧ (s.nextLane = none → Completes (.auth k w) s fun t => t.ctr .AUT_CNT_REFUSED = s.ctr .AUT_CNT_REFUSED ∧ t.aut.ops.length = s.aut.ops.length + 1 ∧
          (∃ o ∈ t.aut.ops, o.ctx = k.val ∧ o.gen = x.gen ∧ o.async = (flOf w == 1) ∧ o.code = leNat ((d.drop 0).take 2) ∧ o.slot = leNat ((d.drop 2).take 2) ∧ o.key = key ∧
            o.src = leNat ((d.drop 8).take 8) ∧ o.dst = leNat ((d.drop 16).take 8) ∧ o.len = leNat ((d.drop 24).take 4)) ∧
          t.cx k.val = if flOf w = 1 then (x.wr (rdOf w) 0#64).after (x.pc + 4) else { x with st := .stalled, auth := true, cycle := x.cycle + 1 }))))) ∧
  (∀ (m : Mem) (o : Nat) (l : List Byte), s.issues k.val (0x6C * 2 ^ 25 + w.toNat) → formF w true true true 0 0 = true → (x.rg (rs2Of w)).toNat % 8 = 0 →
    regionOf (engOf k.val) (x.rg (rs2Of w)).toNat (bitsOf a 25 16) = .loc m o → s.clean m o (bitsOf a 25 16) → l.length = bitsOf a 25 16 → (∀ i, i < l.length → l.getD i 0#8 = s.memByte m (o + i)) →
    (s.pubCause (a % 1024) x.tmpl x.cls l ≠ 0 → Completes (.gpub k w) s fun t => t.cx k.val = (x.wr (rdOf w) (statusWord (Ev.code .SAU_E_PUB_REFUSED) (s.pubCause (a % 1024) x.tmpl x.cls l) 0)).after (x.pc + 4) ∧
      Raised .SAU_E_PUB_REFUSED (a % 1024) (s.pubCause (a % 1024) x.tmpl x.cls l) s t ∧ t.sau = s.sau) ∧
    (s.pubCause (a % 1024) x.tmpl x.cls l = 0 → Completes (.gpub k w) s fun t => t.mod = s.mod ∧ t.hbm = s.hbm ∧ t.pkts = s.pkts ∧
      ((t.cx k.val = { x with st := .stalled, cycle := x.cycle + 1 } ∧ t.sau = s.sau) ∨
        (t.rn .SAU_PUB_STNUM (a % 1024) = (if (s.pub (a % 1024)).fresh = true ∨ s.rn .SAU_PUB_STNUM (a % 1024) = 2 ^ 32 - 1 then 1 else s.rn .SAU_PUB_STNUM (a % 1024) + 1) ∧
          t.rn .SAU_PUB_SQNUM (a % 1024) = 0 ∧ t.cx k.val = (x.wr (rdOf w) (BitVec.ofNat 64 (t.rn .SAU_PUB_STNUM (a % 1024) * 2 ^ 32))).after (x.pc + 4))))) ∧
  (s.issues k.val (0x6C * 2 ^ 25 + w.toNat) → formF w true true true 0 0 = true → (x.rg (rs2Of w)).toNat % 8 ≠ 0 → s.serviced k.val 2 → Completes (.gpub k w) s fun t => Faults s t k.val 2) ∧
  (∀ l : List Byte, s.issues k.val (0x6F * 2 ^ 25 + w.toNat) → formF w true true false 0 0 = true →
    (a % 8 ≠ 0 → s.serviced k.val 2 → Completes (.dmaq k w) s fun t => Faults s t k.val 2) ∧
    (a % 8 = 0 → a + 64 ≤ 0x20000 → s.clean (.dmem (engOf k.val)) a 64 → l.length = 64 → (∀ i, i < 64 → l.getD i 0#8 = s.memByte (.dmem (engOf k.val)) (a + i)) →
      (s.readDesc k.val a l = none → Completes (.dmaq k w) s fun t => RetiresOnly s t k.val (x.wr (rdOf w) (BitVec.ofNat 64 (Ev.code .ENG_E_ARG))) (x.pc + 4)) ∧
      (∀ d : Dma, s.readDesc k.val a l = some d → (d.sk = 2 → s.heldBy k.val (d.src % 2 ^ 20) = true) → (d.dk = 2 → s.heldBy k.val (d.dst % 2 ^ 20) = true) →
        (64 ≤ (s.mmu.dmas.filter fun y => y.cl == clOf k.val && (y.st == .queued || y.st == .running)).length → Completes (.dmaq k w) s fun t =>
          RetiresOnly s t k.val (x.wr (rdOf w) (BitVec.ofNat 64 (Ev.code .MMU_E_DMAQ_FULL))) (x.pc + 4)) ∧
        ((s.mmu.dmas.filter fun y => y.cl == clOf k.val && (y.st == .queued || y.st == .running)).length < 64 → Does (.dmaq k w) s [.eng, .mmu, .ctr .ENG] fun t =>
          t.cx k.val = (x.wr (rdOf w) (BitVec.ofNat 64 (s.mmu.seq.get 0 (clOf k.val) * 2 ^ 32))).after (x.pc + 4) ∧ (∀ j, j ≠ k.val → t.cx j = s.cx j) ∧
          t.mmu.dmas.length = s.mmu.dmas.length + 1 ∧ t.mmu.seq.get 0 (clOf k.val) = (s.mmu.seq.get 0 (clOf k.val) + 1) % 2 ^ 32 ∧
          ∃ y ∈ t.mmu.dmas, y.ctx = k.val ∧ y.gen = x.gen ∧ y.seq = s.mmu.seq.get 0 (clOf k.val) ∧ y.op = d.op ∧ y.src = d.src ∧ y.dst = d.dst ∧ y.len = d.len ∧ y.done = 0)))) ∧
  (∀ q : Nat, s.issues k.val (0x70 * 2 ^ 25 + w.toNat) → formF w true true false 0 0 = true → a % 2 ^ 32 = q →
    (∀ d : Dma, s.dmaOf (clOf k.val) q = some d → d.st = .queued ∨ d.st = .running → Does (.dmaw k w) s [.eng] fun t => t.cx k.val = { x with st := .stalled, dmaw := some q, cycle := x.cycle + 1 } ∧
      ∀ j, j ≠ k.val → t.cx j = s.cx j) ∧
    (∀ d : Dma, s.dmaOf (clOf k.val) q = some d → d.st ≠ .queued → d.st ≠ .running → Completes (.dmaw k w) s fun t => t.cx k.val = { x with st := .awaiting, dmaw := some q, cycle := x.cycle + 1 } ∧
      ∀ j, j ≠ k.val → (s.cx j).st ≠ .ready → t.cx j = s.cx j) ∧
    (∀ out done : Nat, s.dmaOf (clOf k.val) q = none → ((s.mmu.outs.get [] (clOf k.val)).find? fun o => o.1 == q) = some (q, out, done) → Completes (.dmaw k w) s fun t =>
      RetiresOnly s t k.val (x.wr (rdOf w) (dmaStatus out done)) (x.pc + 4)) ∧
    (s.dmaOf (clOf k.val) q = none → ((s.mmu.outs.get [] (clOf k.val)).find? fun o => o.1 == q) = none → Completes (.dmaw k w) s fun t =>
      RetiresOnly s t k.val (x.wr (rdOf w) (BitVec.ofNat 64 (Ev.code .MMU_E_DMA_SEQ))) (x.pc + 4))) ∧
  (s.issues k.val (0x71 * 2 ^ 25 + w.toNat) → formF w true true false 0 0 = true →
    (a % 4 = 0 → bitOf x.rcd.perm 2 = true → Completes (.rgrd k w) s fun t =>
      t.cx k.val = (x.wr (rdOf w) (BitVec.ofNat 64 ((s.regRead (.engine k) (a % 2 ^ 24)).1.toNat * 2 ^ 32))).after (x.pc + 4) ∧ (∀ j, j ≠ k.val → t.cx j = s.cx j)) ∧
    (a % 4 ≠ 0 → s.serviced k.val 2 → Completes (.rgrd k w) s fun t => Faults s t k.val 2) ∧
    (a % 4 = 0 → bitOf x.rcd.perm 2 = false → s.serviced k.val 5 → Completes (.rgrd k w) s fun t => Faults s t k.val 5)) ∧
  (s.issues k.val (0x72 * 2 ^ 25 + w.toNat) → formF w true true true 0 0 = true →
    (∀ u : State, a % 4 = 0 → bitOf x.rcd.perm 3 = true → (if isTim (a % 2 ^ 24) = true then s.timTakes (.engine k) (a % 2 ^ 24) else s.rgwrOwn (.engine k) (a % 2 ^ 24) ((x.rg (rs2Of w)).setWidth 32)) = true →
      s.regWrite (.engine k) (a % 2 ^ 24) ((x.rg (rs2Of w)).setWidth 32) = .next u → u.calm (clOf k.val) → Completes (.rgwr k w) s fun t => changesOnly [.eng, .ctr .ENG] u t ∧
        t.cx k.val = ((u.cx k.val).wr (rdOf w) 0#64).after ((u.cx k.val).pc + 4) ∧ ∀ j, j ≠ k.val → t.cx j = u.cx j) ∧
    (a % 4 = 0 → bitOf x.rcd.perm 3 = true → isTim (a % 2 ^ 24) = true → s.timTakes (.engine k) (a % 2 ^ 24) = false → Completes (.rgwr k w) s fun t =>
      RetiresOnly s t k.val (x.wr (rdOf w) (BitVec.ofNat 64 (Ev.code .HST_E_FENCED))) (x.pc + 4)) ∧
    (a % 4 ≠ 0 → s.serviced k.val 2 → Completes (.rgwr k w) s fun t => Faults s t k.val 2) ∧
    (a % 4 = 0 → bitOf x.rcd.perm 3 = false ∨ (isTim (a % 2 ^ 24) = false ∧ s.rgwrOwn (.engine k) (a % 2 ^ 24) ((x.rg (rs2Of w)).setWidth 32) = false) → s.serviced k.val 5 → Completes (.rgwr k w) s fun t =>
      Faults s t k.val 5)))

/-! ### Tasks, translation and transfers -/

/-- R338, R341, R362, R378 to R382, R384, R401: what reaches contexts, timers, memories and the matching store without an instruction.
R376, R379, R386, R401, R403: templates, the service commands of a window by its own source with their outcomes and refusals, and the Field book. -/
def Obligations.TaskEngine : Prop :=
  (∀ s : State,
  (∀ k : Fin 2048, (∀ e ∈ s.eng.conts, caddrCtx e.1 ≠ k.val) → exec (.continuationDelivery k) s = .next s) ∧
  (∀ (k : Fin 2048) (a tag : Nat) (v : BitVec 64), (s.eng.conts.find? fun e => caddrCtx e.1 == k.val) = some (a, tag, v) →
    (s.caddrFresh a = false → Does (.continuationDelivery k) s [.eng, .ctr .ENG] fun t => t.eng = { s.eng with conts := s.eng.conts.erase (a, tag, v) } ∧
      t.ctr .ENG_CNT_CONT_STALE = s.ctr .ENG_CNT_CONT_STALE + 1#64) ∧
    (s.caddrFresh a = true → 8 ≤ (s.cx k.val).cont.length → Does (.continuationDelivery k) s [.eng, .ctr .ENG] fun t =>
      t.eng = { s.eng with conts := s.eng.conts.erase (a, tag, v) } ∧ t.ctr .ENG_CNT_CONT_DROP = s.ctr .ENG_CNT_CONT_DROP + 1#64) ∧
    (s.caddrFresh a = true → (s.cx k.val).cont.length < 8 →
      ((s.cx k.val).st ≠ .awaiting → Does (.continuationDelivery k) s [.eng] fun t => t.cx k.val = { s.cx k.val with cont := (s.cx k.val).cont ++ [(tag, v)] } ∧
        (∀ j, j ≠ k.val → t.cx j = s.cx j) ∧ t.eng.conts = s.eng.conts.erase (a, tag, v)) ∧
      ((s.cx k.val).st = .awaiting → (s.cx k.val).dmaw = none → Completes (.continuationDelivery k) s fun t => (t.cx k.val).cont = (s.cx k.val).cont ++ [(tag, v)] ∧
        ((t.cx k.val).st = .ready ∨ (t.cx k.val).st = .running) ∧ ((s.cx k.val).cls = 0 → (t.cx k.val).st = .running) ∧ (t.cx k.val).pc = (s.cx k.val).pc ∧ (t.cx k.val).g = (s.cx k.val).g))) ∧
  (∀ (c : Fin 24) (n : Fin 64), s.eng.tmr.find (c.val * 64 + n.val) = none → exec (.timerFire c n) s = .next s) ∧
  (∀ (c : Fin 24) (n : Fin 64) (y : Timer), s.eng.tmr.find (c.val * 64 + n.val) = some y →
    ((if y.absolute = true then s.nowNs else s.freeNs) + 50 < y.due → exec (.timerFire c n) s = .next s) ∧
    (y.due ≤ (if y.absolute = true then s.nowNs else s.freeNs) + 50 → y.cont = true → s.contLoad (caddrCtx (y.dest.toNat % 2 ^ 32)) < 8 → Does (.timerFire c n) s [.eng, .ctr .ENG] fun t =>
      t.ctr .ENG_CNT_TMR_FIRE = s.ctr .ENG_CNT_TMR_FIRE + 1#64 ∧ t.eng.conts = s.eng.conts ++ [(y.dest.toNat % 2 ^ 32, y.dest.toNat / 2 ^ 48, BitVec.ofNat 64 s.nowNs)] ∧
      t.eng.tmr.find (c.val * 64 + n.val) = (if y.period = 0 then none else some { y with due := y.due + y.period }) ∧ ∀ j, j ≠ c.val * 64 + n.val → t.eng.tmr.find j = s.eng.tmr.find j)) ∧
  (∀ (m : Fin 3) (w : BitVec 23) (u : BitVec 2) (c : Nat), w.toNat < memWords m.val → w.toNat / (memWords m.val / 24) = c → s.eng.bad.find (badKey m.val w.toNat) = none →
    (u = 0#2 → s.calm c → exec (.engMemScrub m w u) s = .next s) ∧
    (u = 1#2 → s.calm c → Does (.engMemScrub m w u) s (.eng :: .ctr .ENG :: evParts .ENG) fun t => t.eng.bad.find (badKey m.val w.toNat) = none ∧ t.eng = { s.eng with bad := t.eng.bad } ∧
      t.ctr .ENG_CNT_ECC_CORR = s.ctr .ENG_CNT_ECC_CORR + 1#64 ∧ Raised .ENG_W_MEM_CORR c (badKey m.val w.toNat) s t) ∧
    (2 ≤ u.toNat → s.rn .HEA_CL_UNC_TH = 0 → Does (.engMemScrub m w u) s (.eng :: .fus :: .ctr .ENG :: evParts .ENG) fun t => t.eng.bad.find (badKey m.val w.toNat) = some true ∧
      t.ctr .ENG_CNT_ECC_UNCORR = s.ctr .ENG_CNT_ECC_UNCORR + 1#64 ∧ Raised .ENG_E_MEM_UNCORR c (badKey m.val w.toNat) s t ∧ t.fus.array = s.fus.array)) ∧
  (∀ (m : Fin 3) (w : BitVec 23) (u : BitVec 2), memWords m.val ≤ w.toNat → exec (.engMemScrub m w u) s = .next s) ∧
  (∀ (tm : Fin 16384) (pos : Fin 4) (tag : BitVec 32) (v : BitVec 64) (pin : Fin 32),
    (s.tsk.tmpls.find tm.val = none ∨ s.rb .TSK_TT_EN tm.val = false → s.rb .TSK_FB_EN = false → Does (.tokenArrival tm pos tag v pin none) s (.limits :: .ctr .TSK :: evParts .TSK) fun t =>
      t.ctr .TSK_CNT_REFUSED = s.ctr .TSK_CNT_REFUSED + 1#64 ∧ t.tsk = s.tsk) ∧
    (∀ m : Tmpl, s.tsk.tmpls.find tm.val = some m → s.rb .TSK_TT_EN tm.val = true → s.boot.srUnit = 0 → s.mod.mode = .run → s.entryFree m.cls false = true → s.rb .TSK_FB_EN = false →
      (m.nopnd ≤ 1 → Completes (.tokenArrival tm pos tag v pin none) s fun t => t.ctr .TSK_CNT_TOKEN = s.ctr .TSK_CNT_TOKEN + 1#64 ∧ t.tsk.nextEnt = s.tsk.nextEnt + 1 ∧ t.eng.imem = s.eng.imem ∧
        t.mod = s.mod ∧ t.hbm = s.hbm ∧ (t.tsk.ents.find s.tsk.nextEnt).map (fun e => (e.tmpl, e.tag, e.ready, e.toks.map fun x => (x.pos, x.value))) = some (tm.val, tag.toNat, true, [(pos.val, v.toNat)])) ∧
      (2 ≤ m.nopnd → (∀ e ∈ s.tsk.ents, e.2.tmpl ≠ tm.val ∨ e.2.tag ≠ tag.toNat) → Does (.tokenArrival tm pos tag v pin none) s [.tsk, .ctr .TSK] fun t =>
        t.ctr .TSK_CNT_TOKEN = s.ctr .TSK_CNT_TOKEN + 1#64 ∧ t.tsk = { s.tsk with ents := t.tsk.ents, nextEnt := s.tsk.nextEnt + 1 } ∧
        (t.tsk.ents.find s.tsk.nextEnt).map (fun e => (e.tmpl, e.tag, e.ready, e.toks.map fun x => (x.pos, x.value))) = some (tm.val, tag.toNat, false, [(pos.val, v.toNat)])))) ∧
  (∀ (n : Nat), (s.tsk.ents.find n = none → exec (.matchTimeout n) s = .next s) ∧
    (∀ e : MEnt, s.tsk.ents.find n = some e → (e.ready = true → exec (.matchTimeout n) s = .next s) ∧
      (e.ready = false → s.rb .TSK_FB_EN = false → Completes (.matchTimeout n) s fun t => t.tsk.ents = s.tsk.ents.erase n ∧ t.mod = s.mod ∧ t.hbm = s.hbm ∧ t.eng = s.eng ∧
        t.ctr .TSK_CNT_MATCH_TMO = s.ctr .TSK_CNT_MATCH_TMO + BitVec.ofNat 64 e.toks.length))) ∧
  (∀ c : Fin 24, (s.rb .ENG_CL_FENCED c.val = true ∨ s.clusterReset c.val = true ∨ s.nextFire c.val = none → exec (.dispatch c) s = .next s) ∧
    (∀ (n : Nat) (e : MEnt) (m : Tmpl) (g : Nat), s.rb .ENG_CL_FENCED c.val = false → s.clusterReset c.val = false → s.nextFire c.val = some (n, e, m, g) → s.dom c.val = dsOn → s.occupant g = none →
      (∀ x ∈ e.toks, x.isBuf = false ∧ x.grat = none) → s.rb .TSK_FB_EN = false → Does (.dispatch c) s [.eng, .tsk, .freeCtr, .ctr .TSK] fun t => t.ctr .TSK_CNT_FIRE = s.ctr .TSK_CNT_FIRE + 1#64 ∧
        t.tsk = { s.tsk with ents := s.tsk.ents.erase n } ∧ ∃ k, k ∈ ctxsOf g ∧ (s.cx k).live = false ∧ (∀ j, j ≠ k → t.cx j = s.cx j) ∧
          t.cx k = { Ctx.none with st := .running, gen := ((s.cx k).gen + 1) % 65536, tmpl := e.tmpl, cls := m.cls, rcd := m, tag := e.tag, pc := m.entry, g := firedRegs e m (k + ((s.cx k).gen + 1) % 65536 * 65536) })) ∧
  (∀ k : Fin 1536, ((s.cx k.val).rcd.budget = 0 → exec (.budgetExhausted k) s = .next s) ∧
    ((s.cx k.val).rcd.budget ≠ 0 → (s.cx k.val).st = .running → (s.cx k.val).cls ≠ 0 → s.noTransfer k.val → Completes (.budgetExhausted k) s fun t => Aborts s t k.val ∧
      t.ctr .ENG_CNT_EXC = s.ctr .ENG_CNT_EXC + 1#64 ∧ (s.rb .ENG_XR_VALID = false → t.rn .ENG_XR_CODE = 8 ∧ t.rn .ENG_XR_CTX = k.val)) ∧
    ((s.cx k.val).st = .faulted → (s.cx k.val).svc = true → s.noTransfer k.val → Completes (.faultHoldTimeout k none) s fun t => Aborts s t k.val ∧
      t.ctr .TSK_CNT_FAULT_TMO = s.ctr .TSK_CNT_FAULT_TMO + 1#64) ∧
    ((s.cx k.val).svc = false → exec (.faultHoldTimeout k none) s = .next s) ∧
    (∀ (q : Nat) (d : Dma), s.dmaOf (clOf k.val) q = some d → d.st = .fault → Completes (.faultHoldTimeout k (some q)) s fun t => t.ctr .TSK_CNT_FAULT_TMO = s.ctr .TSK_CNT_FAULT_TMO + 1#64 ∧
      t.ctr .MMU_CNT_DMA_ABORT = s.ctr .MMU_CNT_DMA_ABORT + 1#64 ∧ (t.dmaOf (clOf k.val) q = none) ∧ (t.mmu.outs.get [] (clOf k.val)).head? = some (q, 5, d.done)))) ∧
  (∀ (s : State) (src : Src) (v : BitVec 32),
  (∀ (t' : Fin 16384), s.guard src .TSK = true → s.tmplOwn src t'.val = true →
    (v.getLsbD 31 = true → s.rb .TSK_TT_EN t'.val = false →
      (s.tsk.tmpls.find t'.val = none → Does (.tskTtEn src t' v) s (evParts .TSK) fun t => Raised .TSK_E_TMPL t'.val 0 s t ∧ t.rb .TSK_TT_EN t'.val = false) ∧
      (∀ m : Tmpl, s.tsk.tmpls.find t'.val = some m → s.clusterSet m = [] → Does (.tskTtEn src t' v) s (evParts .TSK) fun t => Raised .TSK_E_TMPL t'.val 0 s t ∧ t.rb .TSK_TT_EN t'.val = false) ∧
      (∀ m : Tmpl, s.tsk.tmpls.find t'.val = some m → s.clusterSet m ≠ [] → m.pins = [] → Completes (.tskTtEn src t' v) s fun t => t.rb .TSK_TT_EN t'.val = true ∧ t.tsk = s.tsk ∧ t.eng = s.eng)) ∧
    (v.getLsbD 31 = false → Completes (.tskTtEn src t' v) s fun t => t.rb .TSK_TT_EN t'.val = false ∧ t.tsk.tmpls = s.tsk.tmpls ∧ ∀ e ∈ t.tsk.ents, e.2.tmpl ≠ t'.val)) ∧
  (∀ (t' : Fin 16384), s.tmplOwn src t'.val = false → s.guard src .TSK = true → exec (.tskTtEn src t' v) s = .next s) ∧
  (∀ (w : Fin 5), winOf src = some w.val → s.tcBusy w.val = true →
    ∀ c ∈ [Instr.inject src w v, .ctxResume src w v, .ctxAbort src w v, .dmaResume src w v, .dmaAbort src w v], Does c s (.tsk :: evParts .TSK) fun t =>
      t.tsk = { s.tsk with busy := winNote s.tsk.busy w.val (Ev.code .TSK_E_CMD) } ∧ t.rn .TSK_CMD_OUT w.val = s.rn .TSK_CMD_OUT w.val ∧ Raised .TSK_E_CMD w.val 0 s t) ∧
  (∀ (w : Fin 5), winOf src = some w.val → s.tcBusy w.val = false →
    (s.mayServe src = false → (∀ c ∈ [Instr.ctxResume src w v, .ctxAbort src w v, .dmaResume src w v, .dmaAbort src w v], Completes c s fun t => t.rn .TSK_CMD_OUT w.val = 3 ∧
      t.rn .TSK_CMD_ERR w.val = Ev.code .HST_E_FENCED ∧ t.eng = s.eng ∧ t.mmu = s.mmu)) ∧
    (s.mayServe src = true → s.tcCtx src w.val = none → ∀ c ∈ [Instr.ctxResume src w v, .ctxAbort src w v], Completes c s fun t => t.rn .TSK_CMD_OUT w.val = 3 ∧
      t.rn .TSK_CMD_ERR w.val = Ev.code .TSK_E_STALE ∧ t.eng = s.eng ∧ LastEvent .TSK_E_STALE w.val 0 t) ∧
    (∀ k : Nat, s.mayServe src = true → s.tcCtx src w.val = some k →
      ((s.cx k).st = .faulted → (s.cx k).svc = true → Completes (.ctxResume src w v) s fun t => t.rn .TSK_CMD_OUT w.val = 2 ∧ t.rn .TSK_CMD_ERR w.val = 0 ∧ (t.cx k).svc = false ∧
        (t.cx k).pc = (if (s.cx k).code = 9 then (s.cx k).pc + 4 else (s.cx k).pc) ∧ ((t.cx k).st = .ready ∨ (t.cx k).st = .running) ∧ (t.cx k).g = (s.cx k).g ∧ (t.cx k).gen = (s.cx k).gen) ∧
      (s.noTransfer k → Completes (.ctxAbort src w v) s fun t => t.rn .TSK_CMD_OUT w.val = 2 ∧ t.rn .TSK_CMD_ERR w.val = 0 ∧ Aborts s t k)) ∧
    (∀ d : Dma, s.mayServe src = true → s.tcDma src w.val = some d → d.st = .fault →
      (s.rb .TSK_FB_EN = false → Completes (.dmaResume src w v) s fun t => t.rn .TSK_CMD_OUT w.val = 2 ∧ (t.dmaOf d.cl d.seq).map (fun y => (y.st, y.done)) = some (.running, d.done) ∧ t.eng.ctx = s.eng.ctx) ∧
      Completes (.dmaAbort src w v) s fun t => t.rn .TSK_CMD_OUT w.val = 2 ∧ t.dmaOf d.cl d.seq = none ∧ (t.mmu.outs.get [] d.cl).head? = some (d.seq, 5, d.done)) ∧
    (s.tmplCls (s.rn .TSK_CMD_TGT w.val) ≤ 1 → s.mayServe src = false → Completes (.inject src w v) s fun t => t.rn .TSK_CMD_OUT w.val = 3 ∧ t.rn .TSK_CMD_ERR w.val = Ev.code .HST_E_FENCED ∧
      t.tsk = { s.tsk with busy := t.tsk.busy }) ∧
    (∀ m : Tmpl, s.mayServe src = true → s.tsk.tmpls.find (s.rn .TSK_CMD_TGT w.val) = some m → s.mayAddress src m = true → s.rb .TSK_TT_EN (s.rn .TSK_CMD_TGT w.val) = true → s.boot.srUnit = 0 →
      s.mod.mode = .run → m.nopnd ≤ 1 → s.entryFree m.cls false = true → Completes (.inject src w v) s fun t => t.rn .TSK_CMD_OUT w.val = 2 ∧ t.rn .TSK_CMD_ERR w.val = 0 ∧
        t.ctr .TSK_CNT_TOKEN = s.ctr .TSK_CNT_TOKEN + 1#64 ∧ (t.tsk.ents.find s.tsk.nextEnt).map (fun e => (e.tmpl, e.tag, e.ready, e.toks.map fun x => (x.pos, x.value))) =
          some (s.rn .TSK_CMD_TGT w.val, s.rn .TSK_CMD_AUX w.val, true, [(bitsOf v.toNat 5 4, s.rn .TSK_CMD_VAL_LO w.val + s.rn .TSK_CMD_VAL_HI w.val * 2 ^ 32)]))) ∧
  (∀ (w : Fin 5), winOf src ≠ some w.val → ∀ c ∈ [Instr.inject src w v, .ctxResume src w v, .ctxAbort src w v, .dmaResume src w v, .dmaAbort src w v], exec c s = .next s) ∧
  ((∀ k, src ≠ .engine k) → s.guard src .TSK = true → Does (.tskFbEn src v) s [.tsk, .reg .TSK] fun t => t.rb .TSK_FB_EN = v.getLsbD 31 ∧
    (∀ f ∈ [Field.TSK_FB_EN, .TSK_FB_STOP, .TSK_FB_CLASS, .TSK_FB_KIND], t.rn f = bitsOf v.toNat f.info.msb f.info.lsb) ∧
    (v.getLsbD 31 = true → s.rb .TSK_FB_EN = false → t.tsk.fb = [] ∧ t.rn .TSK_FB_WPTR = 0 ∧ t.rb .TSK_FB_STOPPED = false ∧ t.rb .TSK_FB_WRAPPED = false) ∧
    (v.getLsbD 31 = false ∨ s.rb .TSK_FB_EN = true → t.tsk = s.tsk)))

/-- R388, R389, R392, R394, R395, R396, R466: invalidations with their refusals and their end, page-table roots, and a transfer that ends, meets a
device-memory fault or an absent host page, and whose page request is answered or times out. -/
def Obligations.Translation : Prop := ∀ (s : State) (src : Src) (a : Fin 256),
  (s.guard src .MMU = true → s.asidOwn src a.val = true → ∀ e ∈ [(Instr.invalidateAsid src a, 1), (.invalidateRange src a, 2)],
    (s.mmu.inv ≠ none → Does e.1 s (evParts .MMU) fun t => Raised .MMU_E_CMD 0 0 s t ∧ t.mmu = s.mmu) ∧
    (s.mmu.inv = none → (∃ c, c < 24 ∧ ∃ x ∈ s.tlbOf c, x.locked = true ∧ x.hit e.2 a.val (s.rn .MMU_INV_VA) (max 1 (s.rn .MMU_INV_PAGES)) = true) →
      Does e.1 s (evParts .MMU) fun t => Raised .MMU_E_PIN a.val 0 s t ∧ t.mmu = s.mmu) ∧
    (s.mmu.inv = none → (∀ c, c < 24 → ∀ x ∈ s.tlbOf c, x.locked = true → x.hit e.2 a.val (s.rn .MMU_INV_VA) (max 1 (s.rn .MMU_INV_PAGES)) = false) →
      Does e.1 s [.mmu, .reg .MMU] fun t => t.rn .MMU_INV_ASID = a.val ∧ regsOnly [(.MMU_INV_ASID, 0)] s t ∧
        t.mmu = { s.mmu with inv := some (e.2, a.val, s.rn .MMU_INV_VA, max 1 (s.rn .MMU_INV_PAGES)) })) ∧
  (s.guard src .MMU = true → s.asidOwn src a.val = false → ∀ c ∈ [Instr.invalidateAsid src a, .invalidateRange src a], exec c s = .next s) ∧
  ((∀ k, src ≠ .engine k) → s.guard src .MMU = true →
    (s.mmu.inv ≠ none → Does (.invalidateAll src a) s (evParts .MMU) fun t => Raised .MMU_E_CMD 0 0 s t ∧ t.mmu = s.mmu) ∧
    (s.mmu.inv = none → (∃ c, c < 24 ∧ ∃ x ∈ s.tlbOf c, x.locked = true) → Does (.invalidateAll src a) s (evParts .MMU) fun t => Raised .MMU_E_PIN a.val 0 s t ∧ t.mmu = s.mmu) ∧
    (s.mmu.inv = none → (∀ c, c < 24 → ∀ x ∈ s.tlbOf c, x.locked = false) → Does (.invalidateAll src a) s [.mmu, .reg .MMU] fun t =>
      t.rn .MMU_INV_ASID = a.val ∧ t.mmu = { s.mmu with inv := some (3, a.val, s.rn .MMU_INV_VA, max 1 (s.rn .MMU_INV_PAGES)) })) ∧
  (∀ k, exec (.invalidateAll (.engine k) a) s = .next s) ∧
  (s.mmu.inv = none → exec .invalidationDone s = .next s) ∧
  (∀ op asid page n : Nat, s.mmu.inv = some (op, asid, page, n) → Does .invalidationDone s (.mmu :: evParts .MMU) fun t => Raised .MMU_I_INV_DONE 0 0 s t ∧
    t.mmu = { s.mmu with inv := none, tlb := t.mmu.tlb } ∧ ∀ c, c < 24 → t.tlbOf c = (s.tlbOf c).filter fun x => x.locked || !x.hit op asid page n) ∧
  (∀ v : BitVec 32, s.guard src .MMU = true → s.asidOwn src a.val = true →
    ((∃ x ∈ s.tsk.tmpls, s.rb .TSK_TT_EN x.1 = true ∧ x.2.asid = a.val ∧ x.2.pins ≠ []) → ∀ hi : Bool, Does (.mmuRoot src a hi v) s (evParts .MMU) fun t => Raised .MMU_E_PIN a.val 0 s t ∧
      t.rn .MMU_ROOT_ADDR_L a.val = s.rn .MMU_ROOT_ADDR_L a.val ∧ t.rn .MMU_ROOT_ADDR_H a.val = s.rn .MMU_ROOT_ADDR_H a.val ∧ t.rn .MMU_ROOT_V a.val = s.rn .MMU_ROOT_V a.val) ∧
    ((∀ x ∈ s.tsk.tmpls, s.rb .TSK_TT_EN x.1 = true → x.2.asid = a.val → x.2.pins = []) →
      (Does (.mmuRoot src a true v) s [.reg .MMU] fun t => t.rn .MMU_ROOT_ADDR_H a.val = bitsOf v.toNat (Field.MMU_ROOT_ADDR_H).info.msb (Field.MMU_ROOT_ADDR_H).info.lsb ∧
        regsOnly [(.MMU_ROOT_ADDR_H, a.val)] s t) ∧
      (Does (.mmuRoot src a false v) s [.reg .MMU] fun t => regsOnly [(.MMU_ROOT_ADDR_L, a.val), (.MMU_ROOT_V, a.val)] s t ∧
        ∀ f ∈ [Field.MMU_ROOT_ADDR_L, .MMU_ROOT_V], t.rn f a.val = bitsOf v.toNat f.info.msb f.info.lsb))) ∧
  (∀ (c : Fin 24) (q : Nat) (ab : Option Nat) (l : List (BitVec 8)) (r : Fin 3), (s.dmaOf c.val q = none →
      ∀ e ∈ [Instr.dmaSuspend c q ab l, .dmaOutcome c q l, .priResponse c q r, .priTimeout c q], exec e s = .next s) ∧
    (∀ d : Dma, s.dmaOf c.val q = some d →
      (d.st ≠ .running → exec (.dmaSuspend c q ab l) s = .next s ∧ exec (.dmaOutcome c q l) s = .next s) ∧
      (d.st ≠ .page → exec (.priResponse c q r) s = .next s ∧ exec (.priTimeout c q) s = .next s) ∧
      (∀ (m : Mem) (o o' : Nat), d.st = .running → d.op = 1 → d.sk = 0 → d.dk = 0 → regionOf (engOf d.ctx) d.src d.len = .loc (.dmem (engOf d.ctx)) o →
        regionOf (engOf d.ctx) d.dst d.len = .loc m o' → m = .shm (engOf d.ctx / 8) → d.done ≤ d.len → s.eng.bad = [] → s.calm c.val →
        Completes (.dmaOutcome c q l) s fun t => (t.mmu.outs.get [] c.val).head? = some (q, 3, d.len) ∧ t.dmaOf c.val q = none ∧
          t.ctr .MMU_CNT_DMA_DONE = s.ctr .MMU_CNT_DMA_DONE + 1#64 ∧
          (∀ i, d.done ≤ i → i < d.len → t.memByte m (o' + i) = s.memByte (.dmem (engOf d.ctx)) (o + i)) ∧
          (∀ i, i < m.size → i < o' + d.done ∨ o' + d.len ≤ i → t.memByte m i = s.memByte m i)) ∧
      (d.st = .running → d.op = 1 → d.sk = 1 → d.done < d.len → d.cls ≠ 0 → bitOf d.rcd.perm 5 = true → s.ringLevel < 256 → s.calm c.val → s.eng.bad = [] → s.rb .TSK_FB_EN = false →
        (∀ x ∈ s.tlbOf c.val, x.covers d.rcd.asid (d.src + d.done) = false) → s.rb .MMU_ROOT_V d.rcd.asid = false → Completes (.dmaSuspend c q ab l) s fun t =>
          (t.dmaOf c.val q).map (fun y => (y.st, y.done, y.cause)) = some (.fault, d.done, 1) ∧ t.ctr .MMU_CNT_FAULT = s.ctr .MMU_CNT_FAULT + 1#64 ∧
          t.rn .MMU_FR_HEAD = (s.rn .MMU_FR_HEAD + 1) % 512 ∧ t.mmu.outs = s.mmu.outs) ∧
      (∀ (h x : Nat) (u : State), d.st = .running → d.op = 1 → d.sk = 1 → d.done < d.len → s.translate c.val d.rcd (d.src + d.done) false false = (.host h x, u) → s.hostReach h = true →
        ab = some d.done → s.calm c.val → s.eng.bad = [] → s.rb .TSK_FB_EN = false → (∀ y ∈ s.mmu.dmas, y.cl = c.val → y.seq ≠ q → y.st = .queued ∨ y.st = .fault) →
        Completes (.dmaSuspend c q ab l) s fun t => (t.dmaOf c.val q).map (fun y => (y.st, y.done, y.port)) = some (.page, d.done, h) ∧ t.mmu.outs = s.mmu.outs ∧
          t.mmu.ring = s.mmu.ring ∧ t.ctr .MMU_CNT_PRI_REQ = s.ctr .MMU_CNT_PRI_REQ + 1#64) ∧
      (d.st = .page → s.rb .TSK_FB_EN = false → Completes (.priResponse c q 0) s fun t => (t.dmaOf c.val q).map (fun y => (y.st, y.done)) = some (.running, d.done) ∧ t.mmu.outs = s.mmu.outs) ∧
      (d.st = .page → d.cls ≠ 0 → ∀ e ∈ [Instr.priResponse c q 1, .priTimeout c q], Completes e s fun t => t.dmaOf c.val q = none ∧
        (t.mmu.outs.get [] c.val).head? = some (q, 5, d.done) ∧ t.ctr .MMU_CNT_PRI_FAIL = s.ctr .MMU_CNT_PRI_FAIL + 1#64 ∧
        t.ctr .MMU_CNT_DMA_ABORT = s.ctr .MMU_CNT_DMA_ABORT + 1#64) ∧
      (d.st = .page → d.cls ≠ 0 → (∀ y ∈ s.mmu.dmas, y.st ≠ .pageWait) → Completes (.priResponse c q 2) s fun t => t.dmaOf c.val q = none ∧ t.rb .HST_PRI_EN d.port = false ∧
        (t.mmu.outs.get [] c.val).head? = some (q, 5, d.done) ∧ t.ctr .MMU_CNT_PRI_FAIL = s.ctr .MMU_CNT_PRI_FAIL + 1#64)))

/-! ### Hosts -/

/-- R459, R460, R465: a ring is its host's alone; doorbells, the words of a ring's registers with their refusals, and the held-off interrupt.
R461 to R463, R302: a TX descriptor is acted on once and owes one completion with its status, and waits in the ring while its host's entry slot is held
(which packet holds the slot is the model's choice, log entry 29); completions are written in ring order over the descriptor;
a parked frame or an egress replica is written to a posted RX descriptor, or dropped. -/
def Obligations.HostRings : Prop :=
  (∀ (s : State) (src : Src) (r : Fin 4096) (v : BitVec 32),
  (ownsRing src r.val = false → s.limits.find (Ev.code .HST_E_PARTITION * 65536 + fnOf src) = none → ∀ c ∈ [Instr.doorbell src r v, .hstRgEn src r v, .hstRgCfg src r 0 v, .hstRgCfg src r 1 v, .hstRgCfg src r 2 v],
    Does c s (.limits :: evParts .HST) fun t => LastEvent .HST_E_PARTITION (fnOf src) 0 t ∧ t.hst.fetch = s.hst.fetch ∧
      ∀ f ∈ [Field.HST_RG_EN, .HST_RG_KIND, .HST_RG_LOG2N, .HST_RG_VEC, .HST_RG_PROD, .HST_RG_CONS, .HST_RG_BASE_L, .HST_RG_BASE_H, .HST_RG_MOD_US, .HST_RG_MOD_CNT], t.reg f r.val = s.reg f r.val) ∧
  (ownsRing src r.val = true →
    (s.rb .HST_RG_EN r.val = false → exec (.doorbell src r v) s = .next s) ∧
    (s.rb .HST_RG_EN r.val = true → 2 ^ s.rn .HST_RG_LOG2N r.val < (v.toNat % 65536 + 65536 - s.rn .HST_RG_CONS r.val) % 65536 → Does (.doorbell src r v) s (evParts .HST) fun t =>
      Raised .HST_E_RING_CFG r.val 0 s t ∧ t.rn .HST_RG_PROD r.val = s.rn .HST_RG_PROD r.val ∧ t.rn .HST_RG_ERR r.val = Ev.code .HST_E_RING_CFG) ∧
    (s.rb .HST_RG_EN r.val = true → (v.toNat % 65536 + 65536 - s.rn .HST_RG_CONS r.val) % 65536 ≤ 2 ^ s.rn .HST_RG_LOG2N r.val → Does (.doorbell src r v) s [.reg .HST] fun t =>
      t.rn .HST_RG_PROD r.val = v.toNat % 65536 ∧ regsOnly [(.HST_RG_PROD, r.val)] s t) ∧
    (bitsOf v.toNat 24 20 < 6 ∨ 15 < bitsOf v.toNat 24 20 → Does (.hstRgEn src r v) s (evParts .HST) fun t => Raised .HST_E_RING_CFG r.val 0 s t ∧ regsOnly ((.HST_RG_ERR, r.val) :: evRegs .HST_E_RING_CFG 0) s t) ∧
    (6 ≤ bitsOf v.toNat 24 20 → bitsOf v.toNat 24 20 ≤ 15 →
      (s.rb .HST_RG_EN r.val = true → bitsOf v.toNat 24 20 ≠ s.rn .HST_RG_LOG2N r.val ∨ bitsOf v.toNat 30 30 ≠ s.rn .HST_RG_KIND r.val → Does (.hstRgEn src r v) s (evParts .HST) fun t =>
        Raised .HST_E_RING_CFG r.val 0 s t ∧ t.rn .HST_RG_LOG2N r.val = s.rn .HST_RG_LOG2N r.val ∧ t.rn .HST_RG_KIND r.val = s.rn .HST_RG_KIND r.val) ∧
      (s.rb .HST_RG_EN r.val = false ∨ (bitsOf v.toNat 24 20 = s.rn .HST_RG_LOG2N r.val ∧ bitsOf v.toNat 30 30 = s.rn .HST_RG_KIND r.val) → Does (.hstRgEn src r v) s [.hst, .reg .HST] fun t =>
        t.rn .HST_RG_LOG2N r.val = bitsOf v.toNat 24 20 ∧ t.rn .HST_RG_KIND r.val = bitsOf v.toNat 30 30 ∧ t.rn .HST_RG_VEC r.val = bitsOf v.toNat 10 0 ∧
        t.rb .HST_RG_EN r.val = bitOf v.toNat 31 ∧ (bitOf v.toNat 31 = true → t.rn .HST_RG_CONS r.val = 0 ∧ t.rn .HST_RG_PROD r.val = 0 ∧ t.fetchAt r.val = 0) ∧
        (bitOf v.toNat 31 = false → t.hst = s.hst ∧ regsOnly [(.HST_RG_LOG2N, r.val), (.HST_RG_KIND, r.val), (.HST_RG_VEC, r.val), (.HST_RG_EN, r.val)] s t))) ∧
    (∀ w : Fin 3, w.val ≠ 2 → s.rb .HST_RG_EN r.val = true → Does (.hstRgCfg src r w v) s (evParts .HST) fun t => Raised .HST_E_RING_CFG r.val 0 s t ∧
      regsOnly ((.HST_RG_ERR, r.val) :: evRegs .HST_E_RING_CFG 0) s t) ∧
    (∀ (w : Fin 3) (l : List Field), (w.val = 0 ∧ l = [.HST_RG_BASE_L] ∧ s.rb .HST_RG_EN r.val = false) ∨ (w.val = 1 ∧ l = [.HST_RG_BASE_H] ∧ s.rb .HST_RG_EN r.val = false) ∨
        (w.val = 2 ∧ l = [.HST_RG_MOD_US, .HST_RG_MOD_CNT]) → Does (.hstRgCfg src r w v) s [.reg .HST] fun t =>
      (∀ f ∈ l, t.rn f r.val = bitsOf v.toNat f.info.msb f.info.lsb) ∧ regsOnly (l.map fun f => (f, r.val)) s t)) ∧
  (s.hst.unsig.get 0 r.val = 0 → exec (.interruptHoldoff r) s = .next s) ∧
  (s.hst.unsig.get 0 r.val ≠ 0 → Does (.interruptHoldoff r) s [.hst] fun t => t.hst.unsig.get 0 r.val = 0 ∧ Signalled s t (r.val / 1024) (s.rn .HST_RG_VEC r.val) ∧
    t.hst = { s.hst with unsig := t.hst.unsig, msi := t.hst.msi, pba := t.hst.pba })) ∧
  (∀ (s : State) (r : Fin 4096) (d : BitVec 256) (l : List (BitVec 8)) (err : Bool) (h : Fin 4), h.val = r.val / 1024 →
  (s.txReady r.val = false → ∀ c ∈ [Instr.txSend r d l err, .txResume r d, .txDiscard r d], exec c s = .next s) ∧
  (txd d 10 1 = 2 ∨ txd d 10 1 = 3 → exec (.txSend r d l err) s = .next s) ∧
  (txd d 10 1 ≠ 2 → exec (.txResume r d) s = .next s) ∧ (txd d 10 1 ≠ 3 → exec (.txDiscard r d) s = .next s) ∧
  (s.txReady r.val = true →
    (txd d 10 1 ≠ 2 → txd d 10 1 ≠ 3 → (txd d 10 1 ≠ 1 ∨ txBad d = true ∨ txd d 8 2 < 60 ∨ min (s.poolSize 3) 9600 < txd d 8 2) →
      Does (.txSend r d l err) s [.hst] fun t => Owes s t r.val (Ev.code .HST_E_DESC) none) ∧
    (txd d 10 1 = 1 → txBad d = false → 60 ≤ txd d 8 2 → txd d 8 2 ≤ min (s.poolSize 3) 9600 →
      (6 ≤ bitsOf (txd d 11 1) 3 1 → s.leaseOk h = false → Does (.txSend r d l err) s [.hst] fun t => Owes s t r.val (Ev.code .HST_E_FENCED) none) ∧
      (bitsOf (txd d 11 1) 3 1 < 6 ∨ s.leaseOk h = true → s.hostSlotBusy h.val (bitsOf (txd d 11 1) 0 0) = true → exec (.txSend r d l err) s = .next s) ∧
      (bitsOf (txd d 11 1) 3 1 < 6 ∨ s.leaseOk h = true → s.hostSlotBusy h.val (bitsOf (txd d 11 1) 0 0) = false → ∀ (u : State) (ob : Option Nat),
        s.request (decide (6 ≤ bitsOf (txd d 11 1) 3 1)) (some (txd d 8 2 + 4)) (ownHost h.val) ((l ++ List.replicate (txd d 8 2) 0#8).take (txd d 8 2)) none = (u, ob) →
        (ob = none → Completes (.txSend r d l err) s fun t => t.hst.txc = s.hst.txc ∧ t.fetchAt r.val = s.fetchAt r.val ∧ t.pkts = s.pkts) ∧
        (∀ b, ob = some b → err = true → Completes (.txSend r d l err) s fun t => Owes s t r.val (Ev.code .HST_E_DMA) none ∧ t.nextPkt = s.nextPkt ∧ LastEvent .HST_E_DMA r.val 0 t) ∧
        (∀ b, ob = some b → err = false → Completes (.txSend r d l err) s fun t => t.nextPkt = u.nextPkt + 1 ∧
          (t.pkts.getLast?.map fun p => (p.id, p.src, p.pipe, p.buf, p.tcHint, p.sender, p.stage)) =
            some (u.nextPkt, 56 + h.val, bitsOf (txd d 11 1) 0 0, some b, bitsOf (txd d 11 1) 3 1, ownHost h.val, .fifo) ∧
          (bitOf (txd d 11 1) 5 = false → Owes s t r.val 0 none) ∧ (bitOf (txd d 11 1) 5 = true → Owes s t r.val 0 (some (b, t.grantNo b)))))) ∧
    (txd d 10 1 = 2 → txBad d = true → Does (.txResume r d) s [.hst] fun t => Owes s t r.val (Ev.code .HST_E_DESC) none) ∧
    (txd d 10 1 = 3 → txBad d = true → Does (.txDiscard r d) s [.hst] fun t => Owes s t r.val (Ev.code .HST_E_DESC) none) ∧
    (txBad d = false → txd d 10 1 = 2 → s.hostSlotBusy h.val (txd d 11 1 % 2) = true → exec (.txResume r d) s = .next s) ∧
    (txBad d = false →
      (∀ x : Buf, s.buf (txd d 12 4 % 2 ^ 20) = some x → x.st = .held → x.owner = ownSlow →
        (txd d 10 1 = 2 → s.hostSlotBusy h.val (txd d 11 1 % 2) = false → Completes (.txResume r d) s fun t => Owes s t r.val 0 none ∧ t.buf (txd d 12 4 % 2 ^ 20) = some { x with owner := ownPipe (txd d 11 1 % 2) } ∧
          ∀ p, s.parkedPkt (txd d 12 4 % 2 ^ 20) = some p → t.pkts = (s.pkts.filter fun y => y.id != p.id) ++ [resumedAt p (56 + h.val) (txd d 11 1 % 2)]) ∧
        (txd d 10 1 = 3 → Completes (.txDiscard r d) s fun t => Owes s t r.val 0 none ∧ t.buf (txd d 12 4 % 2 ^ 20) = none ∧
          ∀ p, s.parkedPkt (txd d 12 4 % 2 ^ 20) = some p → t.pkts = s.pkts.filter fun y => y.id != p.id)) ∧
      ((∀ x, s.buf (txd d 12 4 % 2 ^ 20) = some x → x.owner ≠ ownSlow) → ∀ st : Nat,
        st = (if s.poolCount (poolOf (txd d 12 4 % 2 ^ 20)) ≤ idxOf (txd d 12 4 % 2 ^ 20) then Ev.code .SWC_E_BUF_RANGE else Ev.code .SWC_E_OWNER) →
        (txd d 10 1 = 2 → s.hostSlotBusy h.val (txd d 11 1 % 2) = false → Completes (.txResume r d) s fun t => Owes s t r.val st none ∧ t.pkts = s.pkts ∧ t.swc.bufs = s.swc.bufs ∧ t.ctr .SWC_CNT_OWN_ERR = s.ctr .SWC_CNT_OWN_ERR + 1#64) ∧
        (txd d 10 1 = 3 → Completes (.txDiscard r d) s fun t => Owes s t r.val st none ∧ t.pkts = s.pkts ∧ t.swc.bufs = s.swc.bufs ∧ t.ctr .SWC_CNT_OWN_ERR = s.ctr .SWC_CNT_OWN_ERR + 1#64)))) ∧
  ((∀ c ∈ s.hst.txc, c.ring ≠ r.val) → exec (.txCompletion r) s = .next s) ∧
  (∀ c, (s.hst.txc.find? fun c => c.ring == r.val) = some c →
    (s.rb .HST_LINK_UP h.val = false → exec (.txCompletion r) s = .next s) ∧
    (∀ b o, c.wait = some (b, o) → (∃ x ∈ s.hst.ts, x.buf = b ∧ x.order = o) → s.mayStart b o = true → exec (.txCompletion r) s = .next s) ∧
    (s.rb .HST_LINK_UP h.val = true → c.wait = none → Does (.txCompletion r) s [.hst, .reg .HST, .ctr .HST] fun t => t.hst.txc = s.hst.txc.erase c ∧
      (∀ i, i < 16 → t.hostByte h.val (c.addr + i) = (leBytes 4 (c.ts.getD (0, 0)).2 ++ leBytes 4 (c.ts.getD (0, 0)).1 ++ leBytes 2 c.status ++
        leBytes 1 (1 + (if c.ts.isSome then 2 else 0)) ++ leBytes 5 0).getD i 0#8) ∧
      t.ctr .HST_CNT_TX_DESC h.val = s.ctr .HST_CNT_TX_DESC h.val + 1#64 ∧
      (c.status ≠ 0 → t.ctr .HST_CNT_TX_ERR h.val = s.ctr .HST_CNT_TX_ERR h.val + 1#64 ∧ t.rn .HST_RG_ERR r.val = c.status % 2 ^ 32) ∧
      (c.idx = s.rn .HST_RG_CONS r.val → t.rn .HST_RG_CONS r.val = (c.idx + 1) % 65536))) ∧
  (∀ (a : BitVec 64) (n : BitVec 16),
    ((∀ x ∈ s.hst.rxp, ringHost x.ring ≠ h.val) → s.prt.txE.find (56 + h.val) = none → exec (.rxDelivery h a n) s = .next s) ∧
    (∀ x, (s.hst.rxp.find? fun x => ringHost x.ring == h.val) = some x →
      (s.rb .HST_LINK_UP h.val = false → exec (.rxDelivery h a n) s = .next s) ∧
      (∀ (f out : List Byte) (D : Nat), s.rb .HST_LINK_UP h.val = true → f = ((s.parkedPkt x.handle).map (·.bytes)).getD [] → out = f.take n.toNat →
        D = s.descAddr x.ring (s.rn .HST_RG_CONS x.ring) → Does (.rxDelivery h a n) s [.hst, .reg .HST, .ctr .HST] fun t => t.hst.rxp = s.hst.rxp.erase x ∧
        t.ctr .HST_CNT_RX_FRAMES h.val = s.ctr .HST_CNT_RX_FRAMES h.val + 1#64 ∧ t.rn .HST_RG_CONS x.ring = (s.rn .HST_RG_CONS x.ring + 1) % 65536 ∧
        (∀ i, i < 32 → t.hostByte h.val (D + i) = (leBytes 4 x.ns ++ leBytes 4 (x.sec % 2 ^ 32) ++ leBytes 2 out.length ++ leBytes 1 (3 + (if out.length < f.length then 4 else 0)) ++
          leBytes 1 (x.port % 64) ++ leBytes 4 (x.handle + x.pipe * 2 ^ 20) ++ leBytes 2 x.ctx ++ leBytes 1 x.tc ++ List.replicate 13 0#8).getD i 0#8) ∧
        (∀ i, i < out.length → (∀ j, j < 32 → (a.toNat + i) % 2 ^ 64 ≠ (D + j) % 2 ^ 64) → t.hostByte h.val (a.toNat + i) = out.getD i 0#8))) ∧
    (∀ (x : Tx) (ring : Nat) (f : List Byte), (∀ y ∈ s.hst.rxp, ringHost y.ring ≠ h.val) → s.prt.txE.find (56 + h.val) = some x → x.ent.pkt = 0 → s.rb .HST_LINK_UP h.val = true →
      ring = 1024 * h.val + s.rn .HST_RXMAP_RING (h.val * 64 + ((((s.buf x.ent.buf).bind (·.pkt)).map (·.pin)).getD 0) % 64) → ring / 1024 = h.val →
      f = (s.frameOut (56 + h.val) x (((s.buf x.ent.buf).map (·.bytes)).getD [])).1 → Completes (.rxDelivery h a n) s fun t => t.prt.txE.find (56 + h.val) = none ∧
        (s.rxReady ring = false → t.rn .HST_RG_CONS ring = s.rn .HST_RG_CONS ring ∧ t.ctr .HST_CNT_RX_NODESC h.val = s.ctr .HST_CNT_RX_NODESC h.val + 1#64 ∧ t.hst.mem = s.hst.mem) ∧
        (s.rxReady ring = true → t.ctr .HST_CNT_RX_FRAMES h.val = s.ctr .HST_CNT_RX_FRAMES h.val + 1#64 ∧ t.rn .HST_RG_CONS ring = (s.rn .HST_RG_CONS ring + 1) % 65536 ∧
          ∀ i, i < min f.length n.toNat → (∀ j, j < 32 → (a.toNat + i) % 2 ^ 64 ≠ (s.descAddr ring (s.rn .HST_RG_CONS ring) + j) % 2 ^ 64) → t.hostByte h.val (a.toNat + i) = f.getD i 0#8))))

/-- R456 to R458, R440, R79: BAR4 through the grants and through the image aperture, what nothing covers, the order before the HBM pass, and an uncorrectable read.
R453 to R456, R466, R478, R392: grants and their refusals, a function reset, and the links, the function's enables and the ATS requests of a host. -/
def Obligations.HostFunctions : Prop :=
  (∀ (s : State) (h : Fin 4) (w : Bool) (off : BitVec 32) (n : Nat) (l : List (BitVec 8)),
  (0xFE000000 ≤ off.toNat → s.mod.mode = .load → s.rb .SWC_LAYOUT_LOCKED = false → s.leaseOk h = true →
    (off.toNat + n ≤ 2 ^ 32 → Does (.bar4Access h false off n l) s [.hst] fun t => t.hst = { s.hst with rdata := s.pkBytes (off.toNat - 0xFE000000) n, poison := false }) ∧
    (off.toNat + l.length ≤ 2 ^ 32 → Does (.bar4Access h true off n l) s [.pkm] fun t => ∀ a, t.pkm.get 0#8 a =
      if off.toNat - 0xFE000000 ≤ a ∧ a < off.toNat - 0xFE000000 + l.length then l.getD (a - (off.toNat - 0xFE000000)) 0#8 else s.pkm.get 0#8 a)) ∧
  (∀ k : Nat, k = (if w then l.length else n) → (0xFE000000 ≤ off.toNat → off.toNat + k ≤ 2 ^ 32 → s.apertureOpen h = false) →
    (0xFE000000 < off.toNat + k ∨ s.grantOf h.val off.toNat k = none ∨ (w = true ∧ ∃ g, s.grantOf h.val off.toNat k = some g ∧ s.rb .HST_GR_RO g = true) →
      s.limits.find (Ev.code .HST_E_PARTITION * 65536 + h.val) = none → Does (.bar4Access h w off n l) s (.limits :: evParts .HST) fun t => LastEvent .HST_E_PARTITION h.val 0 t ∧
        (w = false → t.hst.rdata = List.replicate n 0#8 ∧ t.hst.poison = false)) ∧
    (∀ g : Nat, off.toNat + k ≤ 0xFE000000 → off.toNat < 0xFE000000 → s.grantOf h.val off.toNat k = some g → (w = true → s.rb .HST_GR_RO g = false) →
      (s.mod.mode = .load → s.rb .MEM_INIT_FLAG = false → Does (.bar4Access h w off n l) s (evParts .GLB) fun t => Raised .GLB_E_ORDER 0 0 s t ∧
        (w = false → t.hst.rdata = List.replicate n 0#8)) ∧
      (s.mod.mode ≠ .load ∨ s.rb .MEM_INIT_FLAG = true →
        (w = false → s.marksIn (s.grantAddr g off.toNat / 8) (wordsOf (s.grantAddr g off.toNat) k) = [] → Completes (.bar4Access h w off n l) s fun t =>
          t.hst.rdata = s.hbmBytes (s.grantAddr g off.toNat) n ∧ t.hst.poison = false ∧ sameHbm s t ∧ t.eng = s.eng ∧ t.mod = s.mod) ∧
        (w = false → (∃ e ∈ s.marksIn (s.grantAddr g off.toNat / 8) (wordsOf (s.grantAddr g off.toNat) k), e.2 = true) → Completes (.bar4Access h w off n l) s fun t =>
          t.hst.poison = true ∧ t.hst.rdata.length = n) ∧
        (w = true → s.marksIn (s.grantAddr g off.toNat / 8) (wordsOf (s.grantAddr g off.toNat) k) = [] → Completes (.bar4Access h w off n l) s fun t =>
          t.hst = s.hst ∧ t.eng = s.eng ∧ ∀ i, i < l.length → t.hbmByte (s.grantAddr g off.toNat + i) = l.getD i 0#8))))) ∧
  (∀ (s : State) (h : Fin 4),
  (∀ (src : Src) (m : Fin 16) (w : Fin 3) (v : BitVec 32) (g : Nat) (en : Bool) (win dev len : Nat), s.isHolder src = true → g = h.val * 16 + m.val →
    en = (if w.val = 0 then v.getLsbD 31 else s.rb .HST_GR_EN g) →
    dev = (if w.val = 0 then bitsOf v.toNat (Field.HST_GR_DEV).info.msb (Field.HST_GR_DEV).info.lsb else s.rn .HST_GR_DEV g) →
    win = (if w.val = 1 then bitsOf v.toNat (Field.HST_GR_WIN).info.msb (Field.HST_GR_WIN).info.lsb else s.rn .HST_GR_WIN g) →
    len = (if w.val = 2 then bitsOf v.toNat (Field.HST_GR_LEN).info.msb (Field.HST_GR_LEN).info.lsb else s.rn .HST_GR_LEN g) →
    ((en = true ∧ (dev * 65536 < 0x220400000 ∨ 0x3FC000000 < (dev + len) * 65536 ∨ 0xFE00 < win + len ∨ len = 0)) ∨
        (en = true ∧ ∃ i, i < 16 ∧ i ≠ m.val ∧ s.rb .HST_GR_EN (h.val * 16 + i) = true ∧ win < s.rn .HST_GR_WIN (h.val * 16 + i) + s.rn .HST_GR_LEN (h.val * 16 + i) ∧
          s.rn .HST_GR_WIN (h.val * 16 + i) < win + len) → Does (.hstGr src h m w v) s (evParts .HST) fun t => Raised .HST_E_GRANT h.val m.val s t ∧
      ∀ f ∈ [Field.HST_GR_EN, .HST_GR_RO, .HST_GR_DEV, .HST_GR_WIN, .HST_GR_LEN], t.reg f g = s.reg f g) ∧
    (en = false ∨ (0x220400000 ≤ dev * 65536 ∧ (dev + len) * 65536 ≤ 0x3FC000000 ∧ win + len ≤ 0xFE00 ∧ len ≠ 0 ∧
        ∀ i, i < 16 → i ≠ m.val → s.rb .HST_GR_EN (h.val * 16 + i) = true → win + len ≤ s.rn .HST_GR_WIN (h.val * 16 + i) ∨
          s.rn .HST_GR_WIN (h.val * 16 + i) + s.rn .HST_GR_LEN (h.val * 16 + i) ≤ win) → Does (.hstGr src h m w v) s [.reg .HST] fun t =>
      t.rb .HST_GR_EN g = en ∧ t.rn .HST_GR_DEV g = dev ∧ t.rn .HST_GR_WIN g = win ∧ t.rn .HST_GR_LEN g = len ∧
      (w.val = 0 → t.rn .HST_GR_RO g = bitsOf v.toNat (Field.HST_GR_RO).info.msb (Field.HST_GR_RO).info.lsb) ∧
      regsOnly ([Field.HST_GR_EN, .HST_GR_RO, .HST_GR_DEV, .HST_GR_WIN, .HST_GR_LEN].map fun f => (f, g)) s t)) ∧
  (Completes (.flr h) s fun t => LastEvent .HST_I_FLR h.val 0 t ∧ (∀ r, r / 1024 = h.val → t.rb .HST_RG_EN r = false) ∧ (∀ r, r / 1024 ≠ h.val → t.reg .HST_RG_EN r = s.reg .HST_RG_EN r) ∧
    (∀ c ∈ t.hst.txc, ringHost c.ring ≠ h.val) ∧ (∀ x ∈ t.hst.rxp, ringHost x.ring ≠ h.val) ∧ t.hst.msix = s.hst.msix.filter (fun e => e.1 / 8192 != h.val) ∧ t.hst.mem = s.hst.mem ∧
    (∀ f ∈ perFunction, t.reg f h.val = f.reset h.val) ∧ (∀ f ∈ [Field.HST_GR_EN, .HST_GR_RO, .HST_GR_DEV, .HST_GR_WIN, .HST_GR_LEN], ∀ i, t.reg f i = s.reg f i) ∧
    (s.mod.holder = some h → t.mod.holder = none) ∧ (s.mod.holder ≠ some h → t.mod = s.mod) ∧ t.pkts = s.pkts ∧ t.hbm = s.hbm) ∧
  (∀ g3 : Bool, (s.rb .HST_LINK_UP h.val = true ∨ s.dom (36 + h.val) ≠ dsOn → exec (.hostLinkUp h g3) s = .next s) ∧
    (s.rb .HST_LINK_UP h.val = false → s.dom (36 + h.val) = dsOn → Does (.hostLinkUp h g3) s (evParts .HST) fun t => t.rb .HST_LINK_UP h.val = true ∧ t.rb .HST_GEN3 h.val = g3 ∧
      Raised .HST_I_LINK_UP h.val (if g3 then 3 else 2) s t)) ∧
  (s.rb .HST_LINK_UP h.val = false → exec (.hostLinkDown h) s = .next s) ∧
  (s.rb .HST_LINK_UP h.val = true → (∀ d ∈ s.mmu.dmas, d.st = .page ∨ d.st = .pageWait → d.port ≠ h.val) → Does (.hostLinkDown h) s (evParts .HST) fun t =>
    t.rb .HST_LINK_UP h.val = false ∧ Raised .HST_W_LINK_DOWN h.val 0 s t) ∧
  (∀ (d : Dma) (ats pri bme : Bool), (s.mmu.dmas.filter fun y => (y.st == .page || y.st == .pageWait) && y.port == h.val) = [d] → d.cls ≠ 0 → s.dmaOf d.cl d.seq = some d →
    (s.rb .HST_LINK_UP h.val = true → Completes (.hostLinkDown h) s fun t => t.rb .HST_LINK_UP h.val = false ∧ t.dmaOf d.cl d.seq = none ∧
      (t.mmu.outs.get [] d.cl).head? = some (d.seq, 5, d.done) ∧ t.ctr .MMU_CNT_PRI_FAIL = s.ctr .MMU_CNT_PRI_FAIL + 1#64) ∧
    (ats = false ∨ pri = false → Completes (.pcieConfigWrite h ats pri bme) s fun t => t.rb .HST_ATS_EN h.val = ats ∧ t.rb .HST_PRI_EN h.val = pri ∧ t.rb .HST_BME h.val = bme ∧
      t.dmaOf d.cl d.seq = none ∧ (t.mmu.outs.get [] d.cl).head? = some (d.seq, 5, d.done) ∧ t.ctr .MMU_CNT_PRI_FAIL = s.ctr .MMU_CNT_PRI_FAIL + 1#64)) ∧
  (∀ ats pri bme : Bool, (ats = true ∧ pri = true) ∨ (∀ d ∈ s.mmu.dmas, d.st = .page ∨ d.st = .pageWait → d.port ≠ h.val) → Does (.pcieConfigWrite h ats pri bme) s [.reg .HST] fun t =>
    t.rb .HST_ATS_EN h.val = ats ∧ t.rb .HST_PRI_EN h.val = pri ∧ t.rb .HST_BME h.val = bme ∧ regsOnly [(.HST_ATS_EN, h.val), (.HST_PRI_EN, h.val), (.HST_BME, h.val)] s t) ∧
  (Does (.atsInvalidate h) s [.ctr .HST] fun t => t.ctr .HST_CNT_ATS_INV h.val = s.ctr .HST_CNT_ATS_INV h.val + 1#64 ∧ ∀ c i, (c, i) ≠ (Ctr.HST_CNT_ATS_INV, h.val) → t.ctr c i = s.ctr c i) ∧
  (∀ c : Fin 3, exec (.linkStateRequest h c) s = .next s))
end

