-- ==== Sys2Proof/Laws/Sparse.lean ====
section
/-! SUPPORT. Laws of the sparse arrays: what a read gives after a write, and that every write keeps the canonical form. -/

namespace Sys2Proof

theorem SMap.get_erase {α : Type} (d : α) (m : SMap α) (k j : Nat) :
    SMap.get d (SMap.erase m k) j = if j = k then d else SMap.get d m j := by
  induction m with
  | nil => simp [SMap.erase, SMap.get]
  | cons e t ih =>
    obtain ⟨k', v⟩ := e
    by_cases h : k' = k
    · simp only [SMap.erase, h, if_true, ih, SMap.get]
      by_cases hj : j = k
      · simp [hj]
      · simp [hj, Ne.symm hj]
    · simp only [SMap.erase, h, if_false, SMap.get, ih]
      by_cases hj : k' = j
      · subst hj; simp [h]
      · simp [hj]

theorem SMap.get_ins {α : Type} (d : α) (m : SMap α) (k j : Nat) (v : α) (hk : SMap.find m k = none) :
    SMap.get d (SMap.ins m k v) j = if j = k then v else SMap.get d m j := by
  induction m with
  | nil =>
    by_cases hj : k = j
    · simp [SMap.ins, SMap.get, hj]
    · simp [SMap.ins, SMap.get, hj, Ne.symm hj]
  | cons e t ih =>
    obtain ⟨k', w⟩ := e
    have hne : k' ≠ k := by intro h; simp [SMap.find, h] at hk
    have ht : SMap.find t k = none := by simpa [SMap.find, hne] using hk
    by_cases hlt : k < k'
    · simp only [SMap.ins, hlt, if_true, SMap.get]
      by_cases hj : j = k
      · simp [hj]
      · simp [hj, Ne.symm hj]
    · simp only [SMap.ins, hlt, if_false, SMap.get, ih ht]
      by_cases hj : k' = j
      · subst hj; simp [hne]
      · simp [hj]

theorem SMap.find_erase_self {α : Type} (m : SMap α) (k : Nat) : SMap.find (SMap.erase m k) k = none := by
  induction m with
  | nil => rfl
  | cons e t ih =>
    obtain ⟨k', v⟩ := e
    by_cases h : k' = k <;> simp [SMap.erase, SMap.find, h, ih]

theorem SMap.find_erase_ne {α : Type} (m : SMap α) (k j : Nat) (h : j ≠ k) : SMap.find (SMap.erase m k) j = SMap.find m j := by
  induction m with
  | nil => rfl
  | cons e t ih =>
    obtain ⟨k', v⟩ := e
    by_cases hk : k' = k
    · subst hk; simp [SMap.erase, SMap.find, ih, Ne.symm h]
    · simp [SMap.erase, SMap.find, hk, ih]

theorem SMap.find_ins {α : Type} (m : SMap α) (k j : Nat) (v : α) (hk : SMap.find m k = none) :
    SMap.find (SMap.ins m k v) j = if j = k then some v else SMap.find m j := by
  induction m with
  | nil =>
    by_cases hj : k = j
    · simp [SMap.ins, SMap.find, hj]
    · simp [SMap.ins, SMap.find, hj, Ne.symm hj]
  | cons e t ih =>
    obtain ⟨k', w⟩ := e
    have hne : k' ≠ k := by intro h; simp [SMap.find, h] at hk
    have ht : SMap.find t k = none := by simpa [SMap.find, hne] using hk
    by_cases hlt : k < k'
    · simp only [SMap.ins, hlt, if_true, SMap.find]
      by_cases hj : j = k
      · simp [hj]
      · simp [hj, Ne.symm hj]
    · simp only [SMap.ins, hlt, if_false, SMap.find, ih ht]
      by_cases hj : k' = j
      · subst hj; simp [hne]
      · simp [hj]

/-- A read after a write: the value written at its index, every other index as before. -/
theorem SMap.get_put {α : Type} [DecidableEq α] (d : α) (m : SMap α) (k j : Nat) (v : α) :
    SMap.get d (SMap.put d m k v) j = if j = k then v else SMap.get d m j := by
  unfold SMap.put
  split
  · rename_i h; rw [SMap.get_erase]; simp [h]
  · rw [SMap.get_ins _ _ _ _ _ (SMap.find_erase_self m k), SMap.get_erase]
    by_cases hj : j = k <;> simp [hj]

@[simp] theorem SMap.get_put_self {α : Type} [DecidableEq α] (d : α) (m : SMap α) (k : Nat) (v : α) :
    SMap.get d (SMap.put d m k v) k = v := by simp [SMap.get_put]

theorem SMap.get_upd {α : Type} [DecidableEq α] (d : α) (m : SMap α) (k j : Nat) (f : α → α) :
    SMap.get d (SMap.upd d m k f) j = if j = k then f (SMap.get d m k) else SMap.get d m j := by
  unfold SMap.upd; rw [SMap.get_put]

theorem SMap.find_set {α : Type} (m : SMap α) (k j : Nat) (v : α) :
    SMap.find (SMap.set m k v) j = if j = k then some v else SMap.find m j := by
  unfold SMap.set
  rw [SMap.find_ins _ _ _ _ (SMap.find_erase_self m k)]
  by_cases hj : j = k
  · simp [hj]
  · simp [hj, SMap.find_erase_ne]

@[simp] theorem SMap.find_set_self {α : Type} (m : SMap α) (k : Nat) (v : α) : SMap.find (SMap.set m k v) k = some v := by
  simp [SMap.find_set]

theorem SMap.get_set {α : Type} (d : α) (m : SMap α) (k j : Nat) (v : α) :
    SMap.get d (SMap.set m k v) j = if j = k then v else SMap.get d m j := by
  unfold SMap.set
  rw [SMap.get_ins _ _ _ _ _ (SMap.find_erase_self m k), SMap.get_erase]
  by_cases hj : j = k <;> simp [hj]

/-- After a write of the default nothing is listed; after any other write the value. -/
theorem SMap.find_put {α : Type} [DecidableEq α] (d : α) (m : SMap α) (k j : Nat) (v : α) :
    SMap.find (SMap.put d m k v) j = if j = k then (if v = d then none else some v) else SMap.find m j := by
  unfold SMap.put
  by_cases hv : v = d
  · simp only [hv, if_true]
    by_cases hj : j = k
    · simp [hj, SMap.find_erase_self]
    · simp [hj, SMap.find_erase_ne]
  · simp only [hv, if_false]
    rw [SMap.find_ins _ _ _ _ (SMap.find_erase_self m k)]
    by_cases hj : j = k
    · simp [hj]
    · simp [hj, SMap.find_erase_ne]

theorem SMap.get_eq_find {α : Type} (d : α) (m : SMap α) (k : Nat) : SMap.get d m k = (SMap.find m k).getD d := by
  induction m with
  | nil => rfl
  | cons e t ih =>
    obtain ⟨k', v⟩ := e
    by_cases h : k' = k <;> simp [SMap.get, SMap.find, h, ih]

/-- Another index reads as before, whichever default either operation has. -/
theorem SMap.get_put_ne {α : Type} [DecidableEq α] (d d' : α) (m : SMap α) (k j : Nat) (v : α) (h : j ≠ k) :
    SMap.get d' (SMap.put d m k v) j = SMap.get d' m j := by
  rw [SMap.get_eq_find, SMap.get_eq_find, SMap.find_put, if_neg h]

/-- Entries removed by index read as the default, the others as before. -/
theorem SMap.get_filter {α : Type} (d : α) (m : SMap α) (q : Nat → Bool) (k : Nat) :
    SMap.get d (m.filter fun e => q e.1) k = if q k then SMap.get d m k else d := by
  induction m with
  | nil => simp [SMap.get]
  | cons e t ih =>
    obtain ⟨k', v⟩ := e
    rw [List.filter_cons]
    by_cases hq : q k' = true
    · simp only [hq, if_true, SMap.get]
      by_cases hk : k' = k
      · subst hk; simp [hq]
      · simp [hk, ih]
    · simp only [hq, SMap.get]
      by_cases hk : k' = k
      · subst hk; simp [hq, ih]
      · simp [hk, ih]

/-! ### The canonical form -/

theorem SMap.rising_mono {α : Type} (m : SMap α) (a b : Nat) (h : a ≤ b) (hr : SMap.rising b m = true) : SMap.rising a m = true := by
  cases m with
  | nil => rfl
  | cons e t => obtain ⟨k, v⟩ := e; simp [SMap.rising] at *; exact ⟨by omega, hr.2⟩

theorem SMap.rising_erase {α : Type} (m : SMap α) (k a : Nat) (h : SMap.rising a m = true) : SMap.rising a (SMap.erase m k) = true := by
  induction m generalizing a with
  | nil => rfl
  | cons e t ih =>
    obtain ⟨k', v⟩ := e
    simp only [SMap.rising, Bool.and_eq_true, decide_eq_true_eq] at h
    by_cases hk : k' = k
    · simp only [SMap.erase, hk, if_true]
      exact SMap.rising_mono _ _ (k' + 1) (by omega) (ih _ h.2)
    · simp only [SMap.erase, hk, if_false, SMap.rising, Bool.and_eq_true, decide_eq_true_eq]
      exact ⟨h.1, ih _ h.2⟩

theorem SMap.rising_ins {α : Type} (m : SMap α) (k a : Nat) (v : α) (hk : SMap.find m k = none) (ha : a ≤ k)
    (h : SMap.rising a m = true) : SMap.rising a (SMap.ins m k v) = true := by
  induction m generalizing a with
  | nil => simp [SMap.ins, SMap.rising, ha]
  | cons e t ih =>
    obtain ⟨k', w⟩ := e
    simp only [SMap.rising, Bool.and_eq_true, decide_eq_true_eq] at h
    have hne : k' ≠ k := by intro h; simp [SMap.find, h] at hk
    have ht : SMap.find t k = none := by simpa [SMap.find, hne] using hk
    by_cases hlt : k < k'
    · simp only [SMap.ins, hlt, if_true, SMap.rising, Bool.and_eq_true, decide_eq_true_eq]
      exact ⟨ha, by omega, h.2⟩
    · simp only [SMap.ins, hlt, if_false, SMap.rising, Bool.and_eq_true, decide_eq_true_eq]
      exact ⟨h.1, ih _ ht (by omega) h.2⟩

theorem SMap.mem_erase {α : Type} (m : SMap α) (k : Nat) (e : Nat × α) (h : e ∈ SMap.erase m k) : e ∈ m := by
  induction m with
  | nil => simp [SMap.erase] at h
  | cons x t ih =>
    obtain ⟨k', v⟩ := x
    by_cases hk : k' = k
    · simp only [SMap.erase, hk, if_true] at h; exact List.mem_cons_of_mem _ (ih h)
    · simp only [SMap.erase, hk, if_false, List.mem_cons] at h
      rcases h with h | h
      · simp [h]
      · exact List.mem_cons_of_mem _ (ih h)

theorem SMap.mem_ins {α : Type} (m : SMap α) (k : Nat) (v : α) (e : Nat × α) (h : e ∈ SMap.ins m k v) : e = (k, v) ∨ e ∈ m := by
  induction m with
  | nil => simpa [SMap.ins] using h
  | cons x t ih =>
    obtain ⟨k', w⟩ := x
    by_cases hlt : k < k'
    · simp only [SMap.ins, hlt, if_true, List.mem_cons] at h
      rcases h with h | h | h <;> simp [h]
    · simp only [SMap.ins, hlt, if_false, List.mem_cons] at h
      rcases h with h | h
      · simp [h]
      · rcases ih h with h | h <;> simp [h]

/-- Every write keeps the canonical form. -/
theorem SMap.wf_put {α : Type} [DecidableEq α] (d : α) (m : SMap α) (k : Nat) (v : α) (h : SMap.wf d m = true) :
    SMap.wf d (SMap.put d m k v) = true := by
  simp only [SMap.wf, Bool.and_eq_true, List.all_eq_true, decide_eq_true_eq] at *
  obtain ⟨h1, h2⟩ := h
  unfold SMap.put
  split
  · exact ⟨SMap.rising_erase _ _ _ h1, fun e he => h2 e (SMap.mem_erase _ _ _ he)⟩
  · rename_i hv
    refine ⟨SMap.rising_ins _ _ _ _ (SMap.find_erase_self m k) (Nat.zero_le _) (SMap.rising_erase _ _ _ h1), fun e he => ?_⟩
    rcases SMap.mem_ins _ _ _ _ he with he | he
    · simp [he, hv]
    · exact h2 e (SMap.mem_erase _ _ _ he)

theorem SMap.wf_upd {α : Type} [DecidableEq α] (d : α) (m : SMap α) (k : Nat) (f : α → α) (h : SMap.wf d m = true) :
    SMap.wf d (SMap.upd d m k f) = true := SMap.wf_put d m k _ h

/-- Listing an entry keeps the indices strictly rising. -/
theorem SMap.rising_set {α : Type} (m : SMap α) (k : Nat) (v : α) (h : SMap.rising 0 m = true) :
    SMap.rising 0 (SMap.set m k v) = true :=
  SMap.rising_ins _ _ _ _ (SMap.find_erase_self m k) (Nat.zero_le _) (SMap.rising_erase _ _ _ h)

theorem SMap.rising_put {α : Type} [DecidableEq α] (d : α) (m : SMap α) (k : Nat) (v : α) (h : SMap.rising 0 m = true) :
    SMap.rising 0 (SMap.put d m k v) = true := by
  unfold SMap.put
  split
  · exact SMap.rising_erase _ _ _ h
  · exact SMap.rising_set _ _ _ h

theorem SMap.mem_put {α : Type} [DecidableEq α] (d : α) (m : SMap α) (k : Nat) (v : α) (e : Nat × α) (h : e ∈ SMap.put d m k v) :
    e = (k, v) ∧ v ≠ d ∨ e ∈ m := by
  unfold SMap.put at h
  split at h
  · exact Or.inr (SMap.mem_erase _ _ _ h)
  · rename_i hv
    rcases SMap.mem_ins _ _ _ _ h with h | h
    · exact Or.inl ⟨h, hv⟩
    · exact Or.inr (SMap.mem_erase _ _ _ h)

theorem SMap.rising_filter {α : Type} (m : SMap α) (f : Nat × α → Bool) (a : Nat) (h : SMap.rising a m = true) :
    SMap.rising a (m.filter f) = true := by
  induction m generalizing a with
  | nil => rfl
  | cons e t ih =>
    obtain ⟨k, v⟩ := e
    simp only [SMap.rising, Bool.and_eq_true, decide_eq_true_eq] at h
    rw [List.filter_cons]
    split
    · simp only [SMap.rising, Bool.and_eq_true, decide_eq_true_eq]
      exact ⟨h.1, ih _ h.2⟩
    · exact SMap.rising_mono _ _ (k + 1) (by omega) (ih _ h.2)

/-! ### The stack -/

open Sys2Proof.Machine

/-- What an unlisted byte reads as is no matter of the bytes listed. -/
@[simp] theorem Machine.Hbm.putByte_unlisted (h : Hbm) (a x : Nat) (b : Byte) : (h.putByte a b).unlisted x = h.unlisted x := rfl

@[simp] theorem Machine.Hbm.putByte_zeroAt (h : Hbm) (a x : Nat) (b : Byte) : (h.putByte a b).zeroAt x = h.zeroAt x := rfl

/-- Where an unlisted byte is said to read 0, it does. -/
theorem Machine.Hbm.unlisted_zero (h : Hbm) (a : Nat) (hz : h.zeroAt a = true) : h.unlisted a = 0#8 := by
  simp only [Hbm.zeroAt, Bool.and_eq_true, Bool.not_eq_true'] at hz
  simp [Hbm.unlisted, hz.1, hz.2]

theorem Machine.Hbm.wf_putByte (h : Hbm) (a : Nat) (b : Byte) (hw : h.wf = true) : (h.putByte a b).wf = true := by
  unfold Hbm.wf at *
  simp only [Bool.and_eq_true, List.all_eq_true, Bool.or_eq_true, Bool.not_eq_true', decide_eq_true_eq, putByte_zeroAt] at *
  obtain ⟨h1, h2⟩ := hw
  unfold Hbm.putByte
  dsimp only
  cases hz : h.zeroAt a
  · refine ⟨SMap.rising_set _ _ _ h1, fun e he => ?_⟩
    rcases SMap.mem_ins _ _ _ _ he with he | he
    · subst he; exact Or.inl hz
    · exact h2 e (SMap.mem_erase _ _ _ he)
  · refine ⟨SMap.rising_put _ _ _ _ h1, fun e he => ?_⟩
    rcases SMap.mem_put _ _ _ _ _ he with he | he
    · exact Or.inr (by rw [he.1]; exact he.2)
    · exact h2 e he

/-- A byte of the stack after a write of one: the written byte at its address, every other as before. -/
theorem Machine.Hbm.byteAt_putByte (h : Hbm) (a x : Nat) (b : Byte) :
    (h.putByte a b).byteAt x = if x = a then b else h.byteAt x := by
  unfold Hbm.byteAt
  rw [putByte_unlisted]
  unfold Hbm.putByte
  dsimp only
  cases hz : h.zeroAt a
  · simp only [Bool.false_eq_true, if_false]
    rw [SMap.find_set]
    split <;> rfl
  · simp only [if_true]
    rw [SMap.find_put]
    by_cases hx : x = a
    · subst hx
      simp only [if_true]
      split
      · rename_i hb; rw [hb]; exact h.unlisted_zero _ hz
      · rfl
    · simp only [hx, if_false]

/-- Every write of the stack keeps its canonical form. -/
theorem Machine.Hbm.wf_putBytes (l : List Byte) (h : Hbm) (a : Nat) (hw : h.wf = true) : (h.putBytes a l).wf = true := by
  induction l generalizing h a with
  | nil => exact hw
  | cons b t ih => exact ih _ _ (Hbm.wf_putByte h a b hw)

@[simp] theorem Machine.Hbm.putBytes_filled (l : List Byte) (h : Hbm) (a : Nat) : (h.putBytes a l).filled = h.filled := by
  induction l generalizing h a with
  | nil => rfl
  | cons b t ih => unfold Hbm.putBytes; rw [ih]; rfl

@[simp] theorem Machine.Hbm.putBytes_gen (l : List Byte) (h : Hbm) (a : Nat) : (h.putBytes a l).gen = h.gen := by
  induction l generalizing h a with
  | nil => rfl
  | cons b t ih => unfold Hbm.putBytes; rw [ih]; rfl

end Sys2Proof
end

