-- ==== Sys2Proof/Laws/State.lean ====
section
/-! SUPPORT. What each named operation of Machine/Ops.lean leaves unchanged, field by field of State, and what a register or a counter reads after a write. -/

namespace Sys2Proof.Machine

open Sys2Proof

set_option Elab.async false

/-! ### Registers and counters -/

theorem Field.ctorIdx_lt (f : Field) : f.ctorIdx < 1024 := by cases f <;> decide

theorem Ctr.ctorIdx_lt (c : Ctr) : c.ctorIdx < 1024 := by cases c <;> decide

theorem Field.ctorIdx_inj (f g : Field) (h : f.ctorIdx = g.ctorIdx) : f = g := by
  rw [← Field.ofNat_ctorIdx f, ← Field.ofNat_ctorIdx g, h]

theorem Ctr.ctorIdx_inj (f g : Ctr) (h : f.ctorIdx = g.ctorIdx) : f = g := by
  rw [← Ctr.ofNat_ctorIdx f, ← Ctr.ofNat_ctorIdx g, h]

/-- Elements of fields do not share an index. -/
theorem fieldKey_inj (f g : Field) (i j : Nat) : fieldKey f i = fieldKey g j ↔ f = g ∧ i = j := by
  constructor
  · intro h
    have hf := Field.ctorIdx_lt f
    have hg := Field.ctorIdx_lt g
    unfold fieldKey at h
    exact ⟨Field.ctorIdx_inj f g (by omega), by omega⟩
  · rintro ⟨rfl, rfl⟩; rfl

/-- Elements of counters do not share an index. -/
theorem ctrKey_inj (f g : Ctr) (i j : Nat) : ctrKey f i = ctrKey g j ↔ f = g ∧ i = j := by
  constructor
  · intro h
    have hf := Ctr.ctorIdx_lt f
    have hg := Ctr.ctorIdx_lt g
    unfold ctrKey at h
    exact ⟨Ctr.ctorIdx_inj f g (by omega), by omega⟩
  · rintro ⟨rfl, rfl⟩; rfl

/-- A register field after a write of a field. -/
theorem State.reg_setReg (s : State) (f g : Field) (i j : Nat) (v : BitVec 32) :
    (s.setReg f i v).reg g j = if g = f ∧ j = i then v else s.reg g j := by
  unfold State.setReg State.reg
  dsimp only
  by_cases h : g = f ∧ j = i
  · obtain ⟨rfl, rfl⟩ := h; simp
  · rw [if_neg h, SMap.get_put_ne]
    rw [Ne, fieldKey_inj]; exact h

@[simp] theorem State.reg_setReg_self (s : State) (f : Field) (i : Nat) (v : BitVec 32) : (s.setReg f i v).reg f i = v := by
  simp [State.reg_setReg]

theorem State.reg_setReg_ne (s : State) (f g : Field) (i j : Nat) (v : BitVec 32) (h : g ≠ f ∨ j ≠ i) :
    (s.setReg f i v).reg g j = s.reg g j := by
  rw [State.reg_setReg, if_neg]; rintro ⟨a, b⟩; rcases h with h | h <;> contradiction

theorem State.reg_setN (s : State) (f g : Field) (i j n : Nat) :
    (s.setN f i n).reg g j = if g = f ∧ j = i then BitVec.ofNat 32 n else s.reg g j := State.reg_setReg s f g i j _

@[simp] theorem State.reg_setN_self (s : State) (f : Field) (i n : Nat) : (s.setN f i n).reg f i = BitVec.ofNat 32 n := by
  simp [State.reg_setN]

theorem State.reg_setB (s : State) (f g : Field) (i j : Nat) (b : Bool) :
    (s.setB f i b).reg g j = if g = f ∧ j = i then (if b then 1#32 else 0#32) else s.reg g j := State.reg_setReg s f g i j _

@[simp] theorem State.reg_setB_self (s : State) (f : Field) (i : Nat) (b : Bool) :
    (s.setB f i b).reg f i = if b then 1#32 else 0#32 := by
  simp [State.reg_setB]

@[simp] theorem State.rb_setB_self (s : State) (f : Field) (i : Nat) (b : Bool) : (s.setB f i b).rb f i = b := by
  cases b <;> simp [State.rb]

theorem State.reg_countF (s : State) (f g : Field) (i j n : Nat) :
    (s.countF f i n).reg g j = if g = f ∧ j = i then BitVec.ofNat 32 (satAdd (fieldMax f) (s.rn f i) n) else s.reg g j :=
  State.reg_setN s f g i j _

/-- A counter after a count of another. -/
theorem State.ctr_bump (s : State) (c d : Ctr) (i j n : Nat) :
    (s.bump c i n).ctr d j = if d = c ∧ j = i then s.ctr d j + BitVec.ofNat 64 n else s.ctr d j := by
  unfold State.bump State.ctr
  dsimp only
  rw [SMap.get_put]
  by_cases h : d = c ∧ j = i
  · obtain ⟨rfl, rfl⟩ := h; simp
  · rw [if_neg h, if_neg]; rw [ctrKey_inj]; exact h

@[simp] theorem State.ctr_bump_self (s : State) (c : Ctr) (i n : Nat) : (s.bump c i n).ctr c i = s.ctr c i + BitVec.ofNat 64 n := by
  simp [State.ctr_bump]

/-! ### Free values -/

@[simp] theorem State.draw_fst (s : State) : s.draw.1 = Config.free s.freeCtr := rfl
@[simp] theorem State.draw_freeCtr (s : State) : s.draw.2.freeCtr = s.freeCtr + 1 := rfl

@[simp] theorem State.draw_pwr (s : State) : s.draw.2.pwr = s.pwr := rfl
@[simp] theorem State.draw_mod (s : State) : s.draw.2.mod = s.mod := rfl
@[simp] theorem State.draw_boot (s : State) : s.draw.2.boot = s.boot := rfl
@[simp] theorem State.draw_img (s : State) : s.draw.2.img = s.img := rfl
@[simp] theorem State.draw_fus (s : State) : s.draw.2.fus = s.fus := rfl
@[simp] theorem State.draw_mon (s : State) : s.draw.2.mon = s.mon := rfl
@[simp] theorem State.draw_tim (s : State) : s.draw.2.tim = s.tim := rfl
@[simp] theorem State.draw_hst (s : State) : s.draw.2.hst = s.hst := rfl
@[simp] theorem State.draw_hbm (s : State) : s.draw.2.hbm = s.hbm := rfl
@[simp] theorem State.draw_pkts (s : State) : s.draw.2.pkts = s.pkts := rfl
@[simp] theorem State.draw_nextPkt (s : State) : s.draw.2.nextPkt = s.nextPkt := rfl
@[simp] theorem State.draw_prt (s : State) : s.draw.2.prt = s.prt := rfl
@[simp] theorem State.draw_par (s : State) : s.draw.2.par = s.par := rfl
@[simp] theorem State.draw_cls (s : State) : s.draw.2.cls = s.cls := rfl
@[simp] theorem State.draw_gaz (s : State) : s.draw.2.gaz = s.gaz := rfl
@[simp] theorem State.draw_tbl (s : State) : s.draw.2.tbl = s.tbl := rfl
@[simp] theorem State.draw_flw (s : State) : s.draw.2.flw = s.flw := rfl
@[simp] theorem State.draw_swc (s : State) : s.draw.2.swc = s.swc := rfl
@[simp] theorem State.draw_tmg (s : State) : s.draw.2.tmg = s.tmg := rfl
@[simp] theorem State.draw_tsk (s : State) : s.draw.2.tsk = s.tsk := rfl
@[simp] theorem State.draw_aut (s : State) : s.draw.2.aut = s.aut := rfl
@[simp] theorem State.draw_sau (s : State) : s.draw.2.sau = s.sau := rfl
@[simp] theorem State.draw_eng (s : State) : s.draw.2.eng = s.eng := rfl
@[simp] theorem State.draw_mmu (s : State) : s.draw.2.mmu = s.mmu := rfl
@[simp] theorem State.draw_pkm (s : State) : s.draw.2.pkm = s.pkm := rfl
@[simp] theorem State.draw_regs (s : State) : s.draw.2.regs = s.regs := rfl
@[simp] theorem State.draw_ctrs (s : State) : s.draw.2.ctrs = s.ctrs := rfl
@[simp] theorem State.draw_latch (s : State) : s.draw.2.latch = s.latch := rfl
@[simp] theorem State.draw_logRecs (s : State) : s.draw.2.logRecs = s.logRecs := rfl
@[simp] theorem State.draw_limits (s : State) : s.draw.2.limits = s.limits := rfl
@[simp] theorem State.draw_rdVal (s : State) : s.draw.2.rdVal = s.rdVal := rfl
@[simp] theorem State.draw_flash (s : State) : s.draw.2.flash = s.flash := rfl
@[simp] theorem State.draw_pending (s : State) : s.draw.2.pending = s.pending := rfl

/-! ### setReg -/

@[simp] theorem State.setReg_pwr (s : State) (f : Field) (i : Nat) (v : BitVec 32) : (s.setReg f i v).pwr = s.pwr := rfl
@[simp] theorem State.setReg_mod (s : State) (f : Field) (i : Nat) (v : BitVec 32) : (s.setReg f i v).mod = s.mod := rfl
@[simp] theorem State.setReg_boot (s : State) (f : Field) (i : Nat) (v : BitVec 32) : (s.setReg f i v).boot = s.boot := rfl
@[simp] theorem State.setReg_img (s : State) (f : Field) (i : Nat) (v : BitVec 32) : (s.setReg f i v).img = s.img := rfl
@[simp] theorem State.setReg_fus (s : State) (f : Field) (i : Nat) (v : BitVec 32) : (s.setReg f i v).fus = s.fus := rfl
@[simp] theorem State.setReg_mon (s : State) (f : Field) (i : Nat) (v : BitVec 32) : (s.setReg f i v).mon = s.mon := rfl
@[simp] theorem State.setReg_tim (s : State) (f : Field) (i : Nat) (v : BitVec 32) : (s.setReg f i v).tim = s.tim := rfl
@[simp] theorem State.setReg_hst (s : State) (f : Field) (i : Nat) (v : BitVec 32) : (s.setReg f i v).hst = s.hst := rfl
@[simp] theorem State.setReg_hbm (s : State) (f : Field) (i : Nat) (v : BitVec 32) : (s.setReg f i v).hbm = s.hbm := rfl
@[simp] theorem State.setReg_pkts (s : State) (f : Field) (i : Nat) (v : BitVec 32) : (s.setReg f i v).pkts = s.pkts := rfl
@[simp] theorem State.setReg_nextPkt (s : State) (f : Field) (i : Nat) (v : BitVec 32) : (s.setReg f i v).nextPkt = s.nextPkt := rfl
@[simp] theorem State.setReg_prt (s : State) (f : Field) (i : Nat) (v : BitVec 32) : (s.setReg f i v).prt = s.prt := rfl
@[simp] theorem State.setReg_par (s : State) (f : Field) (i : Nat) (v : BitVec 32) : (s.setReg f i v).par = s.par := rfl
@[simp] theorem State.setReg_cls (s : State) (f : Field) (i : Nat) (v : BitVec 32) : (s.setReg f i v).cls = s.cls := rfl
@[simp] theorem State.setReg_gaz (s : State) (f : Field) (i : Nat) (v : BitVec 32) : (s.setReg f i v).gaz = s.gaz := rfl
@[simp] theorem State.setReg_tbl (s : State) (f : Field) (i : Nat) (v : BitVec 32) : (s.setReg f i v).tbl = s.tbl := rfl
@[simp] theorem State.setReg_flw (s : State) (f : Field) (i : Nat) (v : BitVec 32) : (s.setReg f i v).flw = s.flw := rfl
@[simp] theorem State.setReg_swc (s : State) (f : Field) (i : Nat) (v : BitVec 32) : (s.setReg f i v).swc = s.swc := rfl
@[simp] theorem State.setReg_tmg (s : State) (f : Field) (i : Nat) (v : BitVec 32) : (s.setReg f i v).tmg = s.tmg := rfl
@[simp] theorem State.setReg_tsk (s : State) (f : Field) (i : Nat) (v : BitVec 32) : (s.setReg f i v).tsk = s.tsk := rfl
@[simp] theorem State.setReg_aut (s : State) (f : Field) (i : Nat) (v : BitVec 32) : (s.setReg f i v).aut = s.aut := rfl
@[simp] theorem State.setReg_sau (s : State) (f : Field) (i : Nat) (v : BitVec 32) : (s.setReg f i v).sau = s.sau := rfl
@[simp] theorem State.setReg_eng (s : State) (f : Field) (i : Nat) (v : BitVec 32) : (s.setReg f i v).eng = s.eng := rfl
@[simp] theorem State.setReg_mmu (s : State) (f : Field) (i : Nat) (v : BitVec 32) : (s.setReg f i v).mmu = s.mmu := rfl
@[simp] theorem State.setReg_pkm (s : State) (f : Field) (i : Nat) (v : BitVec 32) : (s.setReg f i v).pkm = s.pkm := rfl
@[simp] theorem State.setReg_ctrs (s : State) (f : Field) (i : Nat) (v : BitVec 32) : (s.setReg f i v).ctrs = s.ctrs := rfl
@[simp] theorem State.setReg_latch (s : State) (f : Field) (i : Nat) (v : BitVec 32) : (s.setReg f i v).latch = s.latch := rfl
@[simp] theorem State.setReg_logRecs (s : State) (f : Field) (i : Nat) (v : BitVec 32) : (s.setReg f i v).logRecs = s.logRecs := rfl
@[simp] theorem State.setReg_limits (s : State) (f : Field) (i : Nat) (v : BitVec 32) : (s.setReg f i v).limits = s.limits := rfl
@[simp] theorem State.setReg_rdVal (s : State) (f : Field) (i : Nat) (v : BitVec 32) : (s.setReg f i v).rdVal = s.rdVal := rfl
@[simp] theorem State.setReg_flash (s : State) (f : Field) (i : Nat) (v : BitVec 32) : (s.setReg f i v).flash = s.flash := rfl
@[simp] theorem State.setReg_freeCtr (s : State) (f : Field) (i : Nat) (v : BitVec 32) : (s.setReg f i v).freeCtr = s.freeCtr := rfl
@[simp] theorem State.setReg_pending (s : State) (f : Field) (i : Nat) (v : BitVec 32) : (s.setReg f i v).pending = s.pending := rfl
@[simp] theorem State.setReg_ctr (s : State) (f : Field) (i : Nat) (v : BitVec 32) (g : Ctr) (j : Nat) : (s.setReg f i v).ctr g j = s.ctr g j := by simp [State.ctr]

/-! ### setN -/

@[simp] theorem State.setN_pwr (s : State) (f : Field) (i n : Nat) : (s.setN f i n).pwr = s.pwr := rfl
@[simp] theorem State.setN_mod (s : State) (f : Field) (i n : Nat) : (s.setN f i n).mod = s.mod := rfl
@[simp] theorem State.setN_boot (s : State) (f : Field) (i n : Nat) : (s.setN f i n).boot = s.boot := rfl
@[simp] theorem State.setN_img (s : State) (f : Field) (i n : Nat) : (s.setN f i n).img = s.img := rfl
@[simp] theorem State.setN_fus (s : State) (f : Field) (i n : Nat) : (s.setN f i n).fus = s.fus := rfl
@[simp] theorem State.setN_mon (s : State) (f : Field) (i n : Nat) : (s.setN f i n).mon = s.mon := rfl
@[simp] theorem State.setN_tim (s : State) (f : Field) (i n : Nat) : (s.setN f i n).tim = s.tim := rfl
@[simp] theorem State.setN_hst (s : State) (f : Field) (i n : Nat) : (s.setN f i n).hst = s.hst := rfl
@[simp] theorem State.setN_hbm (s : State) (f : Field) (i n : Nat) : (s.setN f i n).hbm = s.hbm := rfl
@[simp] theorem State.setN_pkts (s : State) (f : Field) (i n : Nat) : (s.setN f i n).pkts = s.pkts := rfl
@[simp] theorem State.setN_nextPkt (s : State) (f : Field) (i n : Nat) : (s.setN f i n).nextPkt = s.nextPkt := rfl
@[simp] theorem State.setN_prt (s : State) (f : Field) (i n : Nat) : (s.setN f i n).prt = s.prt := rfl
@[simp] theorem State.setN_par (s : State) (f : Field) (i n : Nat) : (s.setN f i n).par = s.par := rfl
@[simp] theorem State.setN_cls (s : State) (f : Field) (i n : Nat) : (s.setN f i n).cls = s.cls := rfl
@[simp] theorem State.setN_gaz (s : State) (f : Field) (i n : Nat) : (s.setN f i n).gaz = s.gaz := rfl
@[simp] theorem State.setN_tbl (s : State) (f : Field) (i n : Nat) : (s.setN f i n).tbl = s.tbl := rfl
@[simp] theorem State.setN_flw (s : State) (f : Field) (i n : Nat) : (s.setN f i n).flw = s.flw := rfl
@[simp] theorem State.setN_swc (s : State) (f : Field) (i n : Nat) : (s.setN f i n).swc = s.swc := rfl
@[simp] theorem State.setN_tmg (s : State) (f : Field) (i n : Nat) : (s.setN f i n).tmg = s.tmg := rfl
@[simp] theorem State.setN_tsk (s : State) (f : Field) (i n : Nat) : (s.setN f i n).tsk = s.tsk := rfl
@[simp] theorem State.setN_aut (s : State) (f : Field) (i n : Nat) : (s.setN f i n).aut = s.aut := rfl
@[simp] theorem State.setN_sau (s : State) (f : Field) (i n : Nat) : (s.setN f i n).sau = s.sau := rfl
@[simp] theorem State.setN_eng (s : State) (f : Field) (i n : Nat) : (s.setN f i n).eng = s.eng := rfl
@[simp] theorem State.setN_mmu (s : State) (f : Field) (i n : Nat) : (s.setN f i n).mmu = s.mmu := rfl
@[simp] theorem State.setN_pkm (s : State) (f : Field) (i n : Nat) : (s.setN f i n).pkm = s.pkm := rfl
@[simp] theorem State.setN_ctrs (s : State) (f : Field) (i n : Nat) : (s.setN f i n).ctrs = s.ctrs := rfl
@[simp] theorem State.setN_latch (s : State) (f : Field) (i n : Nat) : (s.setN f i n).latch = s.latch := rfl
@[simp] theorem State.setN_logRecs (s : State) (f : Field) (i n : Nat) : (s.setN f i n).logRecs = s.logRecs := rfl
@[simp] theorem State.setN_limits (s : State) (f : Field) (i n : Nat) : (s.setN f i n).limits = s.limits := rfl
@[simp] theorem State.setN_rdVal (s : State) (f : Field) (i n : Nat) : (s.setN f i n).rdVal = s.rdVal := rfl
@[simp] theorem State.setN_flash (s : State) (f : Field) (i n : Nat) : (s.setN f i n).flash = s.flash := rfl
@[simp] theorem State.setN_freeCtr (s : State) (f : Field) (i n : Nat) : (s.setN f i n).freeCtr = s.freeCtr := rfl
@[simp] theorem State.setN_pending (s : State) (f : Field) (i n : Nat) : (s.setN f i n).pending = s.pending := rfl
@[simp] theorem State.setN_ctr (s : State) (f : Field) (i n : Nat) (g : Ctr) (j : Nat) : (s.setN f i n).ctr g j = s.ctr g j := by simp [State.ctr]

/-! ### setB -/

@[simp] theorem State.setB_pwr (s : State) (f : Field) (i : Nat) (b : Bool) : (s.setB f i b).pwr = s.pwr := rfl
@[simp] theorem State.setB_mod (s : State) (f : Field) (i : Nat) (b : Bool) : (s.setB f i b).mod = s.mod := rfl
@[simp] theorem State.setB_boot (s : State) (f : Field) (i : Nat) (b : Bool) : (s.setB f i b).boot = s.boot := rfl
@[simp] theorem State.setB_img (s : State) (f : Field) (i : Nat) (b : Bool) : (s.setB f i b).img = s.img := rfl
@[simp] theorem State.setB_fus (s : State) (f : Field) (i : Nat) (b : Bool) : (s.setB f i b).fus = s.fus := rfl
@[simp] theorem State.setB_mon (s : State) (f : Field) (i : Nat) (b : Bool) : (s.setB f i b).mon = s.mon := rfl
@[simp] theorem State.setB_tim (s : State) (f : Field) (i : Nat) (b : Bool) : (s.setB f i b).tim = s.tim := rfl
@[simp] theorem State.setB_hst (s : State) (f : Field) (i : Nat) (b : Bool) : (s.setB f i b).hst = s.hst := rfl
@[simp] theorem State.setB_hbm (s : State) (f : Field) (i : Nat) (b : Bool) : (s.setB f i b).hbm = s.hbm := rfl
@[simp] theorem State.setB_pkts (s : State) (f : Field) (i : Nat) (b : Bool) : (s.setB f i b).pkts = s.pkts := rfl
@[simp] theorem State.setB_nextPkt (s : State) (f : Field) (i : Nat) (b : Bool) : (s.setB f i b).nextPkt = s.nextPkt := rfl
@[simp] theorem State.setB_prt (s : State) (f : Field) (i : Nat) (b : Bool) : (s.setB f i b).prt = s.prt := rfl
@[simp] theorem State.setB_par (s : State) (f : Field) (i : Nat) (b : Bool) : (s.setB f i b).par = s.par := rfl
@[simp] theorem State.setB_cls (s : State) (f : Field) (i : Nat) (b : Bool) : (s.setB f i b).cls = s.cls := rfl
@[simp] theorem State.setB_gaz (s : State) (f : Field) (i : Nat) (b : Bool) : (s.setB f i b).gaz = s.gaz := rfl
@[simp] theorem State.setB_tbl (s : State) (f : Field) (i : Nat) (b : Bool) : (s.setB f i b).tbl = s.tbl := rfl
@[simp] theorem State.setB_flw (s : State) (f : Field) (i : Nat) (b : Bool) : (s.setB f i b).flw = s.flw := rfl
@[simp] theorem State.setB_swc (s : State) (f : Field) (i : Nat) (b : Bool) : (s.setB f i b).swc = s.swc := rfl
@[simp] theorem State.setB_tmg (s : State) (f : Field) (i : Nat) (b : Bool) : (s.setB f i b).tmg = s.tmg := rfl
@[simp] theorem State.setB_tsk (s : State) (f : Field) (i : Nat) (b : Bool) : (s.setB f i b).tsk = s.tsk := rfl
@[simp] theorem State.setB_aut (s : State) (f : Field) (i : Nat) (b : Bool) : (s.setB f i b).aut = s.aut := rfl
@[simp] theorem State.setB_sau (s : State) (f : Field) (i : Nat) (b : Bool) : (s.setB f i b).sau = s.sau := rfl
@[simp] theorem State.setB_eng (s : State) (f : Field) (i : Nat) (b : Bool) : (s.setB f i b).eng = s.eng := rfl
@[simp] theorem State.setB_mmu (s : State) (f : Field) (i : Nat) (b : Bool) : (s.setB f i b).mmu = s.mmu := rfl
@[simp] theorem State.setB_pkm (s : State) (f : Field) (i : Nat) (b : Bool) : (s.setB f i b).pkm = s.pkm := rfl
@[simp] theorem State.setB_ctrs (s : State) (f : Field) (i : Nat) (b : Bool) : (s.setB f i b).ctrs = s.ctrs := rfl
@[simp] theorem State.setB_latch (s : State) (f : Field) (i : Nat) (b : Bool) : (s.setB f i b).latch = s.latch := rfl
@[simp] theorem State.setB_logRecs (s : State) (f : Field) (i : Nat) (b : Bool) : (s.setB f i b).logRecs = s.logRecs := rfl
@[simp] theorem State.setB_limits (s : State) (f : Field) (i : Nat) (b : Bool) : (s.setB f i b).limits = s.limits := rfl
@[simp] theorem State.setB_rdVal (s : State) (f : Field) (i : Nat) (b : Bool) : (s.setB f i b).rdVal = s.rdVal := rfl
@[simp] theorem State.setB_flash (s : State) (f : Field) (i : Nat) (b : Bool) : (s.setB f i b).flash = s.flash := rfl
@[simp] theorem State.setB_freeCtr (s : State) (f : Field) (i : Nat) (b : Bool) : (s.setB f i b).freeCtr = s.freeCtr := rfl
@[simp] theorem State.setB_pending (s : State) (f : Field) (i : Nat) (b : Bool) : (s.setB f i b).pending = s.pending := rfl
@[simp] theorem State.setB_ctr (s : State) (f : Field) (i : Nat) (b : Bool) (g : Ctr) (j : Nat) : (s.setB f i b).ctr g j = s.ctr g j := by simp [State.ctr]

/-! ### countF -/

@[simp] theorem State.countF_pwr (s : State) (f : Field) (i n : Nat) : (s.countF f i n).pwr = s.pwr := rfl
@[simp] theorem State.countF_mod (s : State) (f : Field) (i n : Nat) : (s.countF f i n).mod = s.mod := rfl
@[simp] theorem State.countF_boot (s : State) (f : Field) (i n : Nat) : (s.countF f i n).boot = s.boot := rfl
@[simp] theorem State.countF_img (s : State) (f : Field) (i n : Nat) : (s.countF f i n).img = s.img := rfl
@[simp] theorem State.countF_fus (s : State) (f : Field) (i n : Nat) : (s.countF f i n).fus = s.fus := rfl
@[simp] theorem State.countF_mon (s : State) (f : Field) (i n : Nat) : (s.countF f i n).mon = s.mon := rfl
@[simp] theorem State.countF_tim (s : State) (f : Field) (i n : Nat) : (s.countF f i n).tim = s.tim := rfl
@[simp] theorem State.countF_hst (s : State) (f : Field) (i n : Nat) : (s.countF f i n).hst = s.hst := rfl
@[simp] theorem State.countF_hbm (s : State) (f : Field) (i n : Nat) : (s.countF f i n).hbm = s.hbm := rfl
@[simp] theorem State.countF_pkts (s : State) (f : Field) (i n : Nat) : (s.countF f i n).pkts = s.pkts := rfl
@[simp] theorem State.countF_nextPkt (s : State) (f : Field) (i n : Nat) : (s.countF f i n).nextPkt = s.nextPkt := rfl
@[simp] theorem State.countF_prt (s : State) (f : Field) (i n : Nat) : (s.countF f i n).prt = s.prt := rfl
@[simp] theorem State.countF_par (s : State) (f : Field) (i n : Nat) : (s.countF f i n).par = s.par := rfl
@[simp] theorem State.countF_cls (s : State) (f : Field) (i n : Nat) : (s.countF f i n).cls = s.cls := rfl
@[simp] theorem State.countF_gaz (s : State) (f : Field) (i n : Nat) : (s.countF f i n).gaz = s.gaz := rfl
@[simp] theorem State.countF_tbl (s : State) (f : Field) (i n : Nat) : (s.countF f i n).tbl = s.tbl := rfl
@[simp] theorem State.countF_flw (s : State) (f : Field) (i n : Nat) : (s.countF f i n).flw = s.flw := rfl
@[simp] theorem State.countF_swc (s : State) (f : Field) (i n : Nat) : (s.countF f i n).swc = s.swc := rfl
@[simp] theorem State.countF_tmg (s : State) (f : Field) (i n : Nat) : (s.countF f i n).tmg = s.tmg := rfl
@[simp] theorem State.countF_tsk (s : State) (f : Field) (i n : Nat) : (s.countF f i n).tsk = s.tsk := rfl
@[simp] theorem State.countF_aut (s : State) (f : Field) (i n : Nat) : (s.countF f i n).aut = s.aut := rfl
@[simp] theorem State.countF_sau (s : State) (f : Field) (i n : Nat) : (s.countF f i n).sau = s.sau := rfl
@[simp] theorem State.countF_eng (s : State) (f : Field) (i n : Nat) : (s.countF f i n).eng = s.eng := rfl
@[simp] theorem State.countF_mmu (s : State) (f : Field) (i n : Nat) : (s.countF f i n).mmu = s.mmu := rfl
@[simp] theorem State.countF_pkm (s : State) (f : Field) (i n : Nat) : (s.countF f i n).pkm = s.pkm := rfl
@[simp] theorem State.countF_ctrs (s : State) (f : Field) (i n : Nat) : (s.countF f i n).ctrs = s.ctrs := rfl
@[simp] theorem State.countF_latch (s : State) (f : Field) (i n : Nat) : (s.countF f i n).latch = s.latch := rfl
@[simp] theorem State.countF_logRecs (s : State) (f : Field) (i n : Nat) : (s.countF f i n).logRecs = s.logRecs := rfl
@[simp] theorem State.countF_limits (s : State) (f : Field) (i n : Nat) : (s.countF f i n).limits = s.limits := rfl
@[simp] theorem State.countF_rdVal (s : State) (f : Field) (i n : Nat) : (s.countF f i n).rdVal = s.rdVal := rfl
@[simp] theorem State.countF_flash (s : State) (f : Field) (i n : Nat) : (s.countF f i n).flash = s.flash := rfl
@[simp] theorem State.countF_freeCtr (s : State) (f : Field) (i n : Nat) : (s.countF f i n).freeCtr = s.freeCtr := rfl
@[simp] theorem State.countF_pending (s : State) (f : Field) (i n : Nat) : (s.countF f i n).pending = s.pending := rfl
@[simp] theorem State.countF_ctr (s : State) (f : Field) (i n : Nat) (g : Ctr) (j : Nat) : (s.countF f i n).ctr g j = s.ctr g j := by simp [State.ctr]

/-! ### bump -/

@[simp] theorem State.bump_pwr (s : State) (c : Ctr) (i n : Nat) : (s.bump c i n).pwr = s.pwr := rfl
@[simp] theorem State.bump_mod (s : State) (c : Ctr) (i n : Nat) : (s.bump c i n).mod = s.mod := rfl
@[simp] theorem State.bump_boot (s : State) (c : Ctr) (i n : Nat) : (s.bump c i n).boot = s.boot := rfl
@[simp] theorem State.bump_img (s : State) (c : Ctr) (i n : Nat) : (s.bump c i n).img = s.img := rfl
@[simp] theorem State.bump_fus (s : State) (c : Ctr) (i n : Nat) : (s.bump c i n).fus = s.fus := rfl
@[simp] theorem State.bump_mon (s : State) (c : Ctr) (i n : Nat) : (s.bump c i n).mon = s.mon := rfl
@[simp] theorem State.bump_tim (s : State) (c : Ctr) (i n : Nat) : (s.bump c i n).tim = s.tim := rfl
@[simp] theorem State.bump_hst (s : State) (c : Ctr) (i n : Nat) : (s.bump c i n).hst = s.hst := rfl
@[simp] theorem State.bump_hbm (s : State) (c : Ctr) (i n : Nat) : (s.bump c i n).hbm = s.hbm := rfl
@[simp] theorem State.bump_pkts (s : State) (c : Ctr) (i n : Nat) : (s.bump c i n).pkts = s.pkts := rfl
@[simp] theorem State.bump_nextPkt (s : State) (c : Ctr) (i n : Nat) : (s.bump c i n).nextPkt = s.nextPkt := rfl
@[simp] theorem State.bump_prt (s : State) (c : Ctr) (i n : Nat) : (s.bump c i n).prt = s.prt := rfl
@[simp] theorem State.bump_par (s : State) (c : Ctr) (i n : Nat) : (s.bump c i n).par = s.par := rfl
@[simp] theorem State.bump_cls (s : State) (c : Ctr) (i n : Nat) : (s.bump c i n).cls = s.cls := rfl
@[simp] theorem State.bump_gaz (s : State) (c : Ctr) (i n : Nat) : (s.bump c i n).gaz = s.gaz := rfl
@[simp] theorem State.bump_tbl (s : State) (c : Ctr) (i n : Nat) : (s.bump c i n).tbl = s.tbl := rfl
@[simp] theorem State.bump_flw (s : State) (c : Ctr) (i n : Nat) : (s.bump c i n).flw = s.flw := rfl
@[simp] theorem State.bump_swc (s : State) (c : Ctr) (i n : Nat) : (s.bump c i n).swc = s.swc := rfl
@[simp] theorem State.bump_tmg (s : State) (c : Ctr) (i n : Nat) : (s.bump c i n).tmg = s.tmg := rfl
@[simp] theorem State.bump_tsk (s : State) (c : Ctr) (i n : Nat) : (s.bump c i n).tsk = s.tsk := rfl
@[simp] theorem State.bump_aut (s : State) (c : Ctr) (i n : Nat) : (s.bump c i n).aut = s.aut := rfl
@[simp] theorem State.bump_sau (s : State) (c : Ctr) (i n : Nat) : (s.bump c i n).sau = s.sau := rfl
@[simp] theorem State.bump_eng (s : State) (c : Ctr) (i n : Nat) : (s.bump c i n).eng = s.eng := rfl
@[simp] theorem State.bump_mmu (s : State) (c : Ctr) (i n : Nat) : (s.bump c i n).mmu = s.mmu := rfl
@[simp] theorem State.bump_pkm (s : State) (c : Ctr) (i n : Nat) : (s.bump c i n).pkm = s.pkm := rfl
@[simp] theorem State.bump_regs (s : State) (c : Ctr) (i n : Nat) : (s.bump c i n).regs = s.regs := rfl
@[simp] theorem State.bump_latch (s : State) (c : Ctr) (i n : Nat) : (s.bump c i n).latch = s.latch := rfl
@[simp] theorem State.bump_logRecs (s : State) (c : Ctr) (i n : Nat) : (s.bump c i n).logRecs = s.logRecs := rfl
@[simp] theorem State.bump_limits (s : State) (c : Ctr) (i n : Nat) : (s.bump c i n).limits = s.limits := rfl
@[simp] theorem State.bump_rdVal (s : State) (c : Ctr) (i n : Nat) : (s.bump c i n).rdVal = s.rdVal := rfl
@[simp] theorem State.bump_flash (s : State) (c : Ctr) (i n : Nat) : (s.bump c i n).flash = s.flash := rfl
@[simp] theorem State.bump_freeCtr (s : State) (c : Ctr) (i n : Nat) : (s.bump c i n).freeCtr = s.freeCtr := rfl
@[simp] theorem State.bump_pending (s : State) (c : Ctr) (i n : Nat) : (s.bump c i n).pending = s.pending := rfl
@[simp] theorem State.bump_reg (s : State) (c : Ctr) (i n : Nat) (g : Field) (j : Nat) : (s.bump c i n).reg g j = s.reg g j := by simp [State.reg]

/-! ### clearCtrs -/

@[simp] theorem State.clearCtrs_pwr (s : State) (l : List Ctr) (i : Nat) : (s.clearCtrs l i).pwr = s.pwr := rfl
@[simp] theorem State.clearCtrs_mod (s : State) (l : List Ctr) (i : Nat) : (s.clearCtrs l i).mod = s.mod := rfl
@[simp] theorem State.clearCtrs_boot (s : State) (l : List Ctr) (i : Nat) : (s.clearCtrs l i).boot = s.boot := rfl
@[simp] theorem State.clearCtrs_img (s : State) (l : List Ctr) (i : Nat) : (s.clearCtrs l i).img = s.img := rfl
@[simp] theorem State.clearCtrs_fus (s : State) (l : List Ctr) (i : Nat) : (s.clearCtrs l i).fus = s.fus := rfl
@[simp] theorem State.clearCtrs_mon (s : State) (l : List Ctr) (i : Nat) : (s.clearCtrs l i).mon = s.mon := rfl
@[simp] theorem State.clearCtrs_tim (s : State) (l : List Ctr) (i : Nat) : (s.clearCtrs l i).tim = s.tim := rfl
@[simp] theorem State.clearCtrs_hst (s : State) (l : List Ctr) (i : Nat) : (s.clearCtrs l i).hst = s.hst := rfl
@[simp] theorem State.clearCtrs_hbm (s : State) (l : List Ctr) (i : Nat) : (s.clearCtrs l i).hbm = s.hbm := rfl
@[simp] theorem State.clearCtrs_pkts (s : State) (l : List Ctr) (i : Nat) : (s.clearCtrs l i).pkts = s.pkts := rfl
@[simp] theorem State.clearCtrs_nextPkt (s : State) (l : List Ctr) (i : Nat) : (s.clearCtrs l i).nextPkt = s.nextPkt := rfl
@[simp] theorem State.clearCtrs_prt (s : State) (l : List Ctr) (i : Nat) : (s.clearCtrs l i).prt = s.prt := rfl
@[simp] theorem State.clearCtrs_par (s : State) (l : List Ctr) (i : Nat) : (s.clearCtrs l i).par = s.par := rfl
@[simp] theorem State.clearCtrs_cls (s : State) (l : List Ctr) (i : Nat) : (s.clearCtrs l i).cls = s.cls := rfl
@[simp] theorem State.clearCtrs_gaz (s : State) (l : List Ctr) (i : Nat) : (s.clearCtrs l i).gaz = s.gaz := rfl
@[simp] theorem State.clearCtrs_tbl (s : State) (l : List Ctr) (i : Nat) : (s.clearCtrs l i).tbl = s.tbl := rfl
@[simp] theorem State.clearCtrs_flw (s : State) (l : List Ctr) (i : Nat) : (s.clearCtrs l i).flw = s.flw := rfl
@[simp] theorem State.clearCtrs_swc (s : State) (l : List Ctr) (i : Nat) : (s.clearCtrs l i).swc = s.swc := rfl
@[simp] theorem State.clearCtrs_tmg (s : State) (l : List Ctr) (i : Nat) : (s.clearCtrs l i).tmg = s.tmg := rfl
@[simp] theorem State.clearCtrs_tsk (s : State) (l : List Ctr) (i : Nat) : (s.clearCtrs l i).tsk = s.tsk := rfl
@[simp] theorem State.clearCtrs_aut (s : State) (l : List Ctr) (i : Nat) : (s.clearCtrs l i).aut = s.aut := rfl
@[simp] theorem State.clearCtrs_sau (s : State) (l : List Ctr) (i : Nat) : (s.clearCtrs l i).sau = s.sau := rfl
@[simp] theorem State.clearCtrs_eng (s : State) (l : List Ctr) (i : Nat) : (s.clearCtrs l i).eng = s.eng := rfl
@[simp] theorem State.clearCtrs_mmu (s : State) (l : List Ctr) (i : Nat) : (s.clearCtrs l i).mmu = s.mmu := rfl
@[simp] theorem State.clearCtrs_pkm (s : State) (l : List Ctr) (i : Nat) : (s.clearCtrs l i).pkm = s.pkm := rfl
@[simp] theorem State.clearCtrs_regs (s : State) (l : List Ctr) (i : Nat) : (s.clearCtrs l i).regs = s.regs := rfl
@[simp] theorem State.clearCtrs_latch (s : State) (l : List Ctr) (i : Nat) : (s.clearCtrs l i).latch = s.latch := rfl
@[simp] theorem State.clearCtrs_logRecs (s : State) (l : List Ctr) (i : Nat) : (s.clearCtrs l i).logRecs = s.logRecs := rfl
@[simp] theorem State.clearCtrs_limits (s : State) (l : List Ctr) (i : Nat) : (s.clearCtrs l i).limits = s.limits := rfl
@[simp] theorem State.clearCtrs_rdVal (s : State) (l : List Ctr) (i : Nat) : (s.clearCtrs l i).rdVal = s.rdVal := rfl
@[simp] theorem State.clearCtrs_flash (s : State) (l : List Ctr) (i : Nat) : (s.clearCtrs l i).flash = s.flash := rfl
@[simp] theorem State.clearCtrs_freeCtr (s : State) (l : List Ctr) (i : Nat) : (s.clearCtrs l i).freeCtr = s.freeCtr := rfl
@[simp] theorem State.clearCtrs_pending (s : State) (l : List Ctr) (i : Nat) : (s.clearCtrs l i).pending = s.pending := rfl
@[simp] theorem State.clearCtrs_reg (s : State) (l : List Ctr) (i : Nat) (g : Field) (j : Nat) : (s.clearCtrs l i).reg g j = s.reg g j := by simp [State.reg]

/-! ### clearBlockCtrs -/

@[simp] theorem State.clearBlockCtrs_pwr (s : State) (b : Block) : (s.clearBlockCtrs b).pwr = s.pwr := rfl
@[simp] theorem State.clearBlockCtrs_mod (s : State) (b : Block) : (s.clearBlockCtrs b).mod = s.mod := rfl
@[simp] theorem State.clearBlockCtrs_boot (s : State) (b : Block) : (s.clearBlockCtrs b).boot = s.boot := rfl
@[simp] theorem State.clearBlockCtrs_img (s : State) (b : Block) : (s.clearBlockCtrs b).img = s.img := rfl
@[simp] theorem State.clearBlockCtrs_fus (s : State) (b : Block) : (s.clearBlockCtrs b).fus = s.fus := rfl
@[simp] theorem State.clearBlockCtrs_mon (s : State) (b : Block) : (s.clearBlockCtrs b).mon = s.mon := rfl
@[simp] theorem State.clearBlockCtrs_tim (s : State) (b : Block) : (s.clearBlockCtrs b).tim = s.tim := rfl
@[simp] theorem State.clearBlockCtrs_hst (s : State) (b : Block) : (s.clearBlockCtrs b).hst = s.hst := rfl
@[simp] theorem State.clearBlockCtrs_hbm (s : State) (b : Block) : (s.clearBlockCtrs b).hbm = s.hbm := rfl
@[simp] theorem State.clearBlockCtrs_pkts (s : State) (b : Block) : (s.clearBlockCtrs b).pkts = s.pkts := rfl
@[simp] theorem State.clearBlockCtrs_nextPkt (s : State) (b : Block) : (s.clearBlockCtrs b).nextPkt = s.nextPkt := rfl
@[simp] theorem State.clearBlockCtrs_prt (s : State) (b : Block) : (s.clearBlockCtrs b).prt = s.prt := rfl
@[simp] theorem State.clearBlockCtrs_par (s : State) (b : Block) : (s.clearBlockCtrs b).par = s.par := rfl
@[simp] theorem State.clearBlockCtrs_cls (s : State) (b : Block) : (s.clearBlockCtrs b).cls = s.cls := rfl
@[simp] theorem State.clearBlockCtrs_gaz (s : State) (b : Block) : (s.clearBlockCtrs b).gaz = s.gaz := rfl
@[simp] theorem State.clearBlockCtrs_tbl (s : State) (b : Block) : (s.clearBlockCtrs b).tbl = s.tbl := rfl
@[simp] theorem State.clearBlockCtrs_flw (s : State) (b : Block) : (s.clearBlockCtrs b).flw = s.flw := rfl
@[simp] theorem State.clearBlockCtrs_swc (s : State) (b : Block) : (s.clearBlockCtrs b).swc = s.swc := rfl
@[simp] theorem State.clearBlockCtrs_tmg (s : State) (b : Block) : (s.clearBlockCtrs b).tmg = s.tmg := rfl
@[simp] theorem State.clearBlockCtrs_tsk (s : State) (b : Block) : (s.clearBlockCtrs b).tsk = s.tsk := rfl
@[simp] theorem State.clearBlockCtrs_aut (s : State) (b : Block) : (s.clearBlockCtrs b).aut = s.aut := rfl
@[simp] theorem State.clearBlockCtrs_sau (s : State) (b : Block) : (s.clearBlockCtrs b).sau = s.sau := rfl
@[simp] theorem State.clearBlockCtrs_eng (s : State) (b : Block) : (s.clearBlockCtrs b).eng = s.eng := rfl
@[simp] theorem State.clearBlockCtrs_mmu (s : State) (b : Block) : (s.clearBlockCtrs b).mmu = s.mmu := rfl
@[simp] theorem State.clearBlockCtrs_pkm (s : State) (b : Block) : (s.clearBlockCtrs b).pkm = s.pkm := rfl
@[simp] theorem State.clearBlockCtrs_regs (s : State) (b : Block) : (s.clearBlockCtrs b).regs = s.regs := rfl
@[simp] theorem State.clearBlockCtrs_latch (s : State) (b : Block) : (s.clearBlockCtrs b).latch = s.latch := rfl
@[simp] theorem State.clearBlockCtrs_logRecs (s : State) (b : Block) : (s.clearBlockCtrs b).logRecs = s.logRecs := rfl
@[simp] theorem State.clearBlockCtrs_limits (s : State) (b : Block) : (s.clearBlockCtrs b).limits = s.limits := rfl
@[simp] theorem State.clearBlockCtrs_rdVal (s : State) (b : Block) : (s.clearBlockCtrs b).rdVal = s.rdVal := rfl
@[simp] theorem State.clearBlockCtrs_flash (s : State) (b : Block) : (s.clearBlockCtrs b).flash = s.flash := rfl
@[simp] theorem State.clearBlockCtrs_freeCtr (s : State) (b : Block) : (s.clearBlockCtrs b).freeCtr = s.freeCtr := rfl
@[simp] theorem State.clearBlockCtrs_pending (s : State) (b : Block) : (s.clearBlockCtrs b).pending = s.pending := rfl
@[simp] theorem State.clearBlockCtrs_reg (s : State) (b : Block) (g : Field) (j : Nat) : (s.clearBlockCtrs b).reg g j = s.reg g j := by simp [State.reg]

/-! ### signal -/

@[simp] theorem State.signal_pwr (s : State) (h v : Nat) : (s.signal h v).pwr = s.pwr := by unfold State.signal; split <;> rfl
@[simp] theorem State.signal_mod (s : State) (h v : Nat) : (s.signal h v).mod = s.mod := by unfold State.signal; split <;> rfl
@[simp] theorem State.signal_boot (s : State) (h v : Nat) : (s.signal h v).boot = s.boot := by unfold State.signal; split <;> rfl
@[simp] theorem State.signal_img (s : State) (h v : Nat) : (s.signal h v).img = s.img := by unfold State.signal; split <;> rfl
@[simp] theorem State.signal_fus (s : State) (h v : Nat) : (s.signal h v).fus = s.fus := by unfold State.signal; split <;> rfl
@[simp] theorem State.signal_mon (s : State) (h v : Nat) : (s.signal h v).mon = s.mon := by unfold State.signal; split <;> rfl
@[simp] theorem State.signal_tim (s : State) (h v : Nat) : (s.signal h v).tim = s.tim := by unfold State.signal; split <;> rfl
@[simp] theorem State.signal_hbm (s : State) (h v : Nat) : (s.signal h v).hbm = s.hbm := by unfold State.signal; split <;> rfl
@[simp] theorem State.signal_pkts (s : State) (h v : Nat) : (s.signal h v).pkts = s.pkts := by unfold State.signal; split <;> rfl
@[simp] theorem State.signal_nextPkt (s : State) (h v : Nat) : (s.signal h v).nextPkt = s.nextPkt := by unfold State.signal; split <;> rfl
@[simp] theorem State.signal_prt (s : State) (h v : Nat) : (s.signal h v).prt = s.prt := by unfold State.signal; split <;> rfl
@[simp] theorem State.signal_par (s : State) (h v : Nat) : (s.signal h v).par = s.par := by unfold State.signal; split <;> rfl
@[simp] theorem State.signal_cls (s : State) (h v : Nat) : (s.signal h v).cls = s.cls := by unfold State.signal; split <;> rfl
@[simp] theorem State.signal_gaz (s : State) (h v : Nat) : (s.signal h v).gaz = s.gaz := by unfold State.signal; split <;> rfl
@[simp] theorem State.signal_tbl (s : State) (h v : Nat) : (s.signal h v).tbl = s.tbl := by unfold State.signal; split <;> rfl
@[simp] theorem State.signal_flw (s : State) (h v : Nat) : (s.signal h v).flw = s.flw := by unfold State.signal; split <;> rfl
@[simp] theorem State.signal_swc (s : State) (h v : Nat) : (s.signal h v).swc = s.swc := by unfold State.signal; split <;> rfl
@[simp] theorem State.signal_tmg (s : State) (h v : Nat) : (s.signal h v).tmg = s.tmg := by unfold State.signal; split <;> rfl
@[simp] theorem State.signal_tsk (s : State) (h v : Nat) : (s.signal h v).tsk = s.tsk := by unfold State.signal; split <;> rfl
@[simp] theorem State.signal_aut (s : State) (h v : Nat) : (s.signal h v).aut = s.aut := by unfold State.signal; split <;> rfl
@[simp] theorem State.signal_sau (s : State) (h v : Nat) : (s.signal h v).sau = s.sau := by unfold State.signal; split <;> rfl
@[simp] theorem State.signal_eng (s : State) (h v : Nat) : (s.signal h v).eng = s.eng := by unfold State.signal; split <;> rfl
@[simp] theorem State.signal_mmu (s : State) (h v : Nat) : (s.signal h v).mmu = s.mmu := by unfold State.signal; split <;> rfl
@[simp] theorem State.signal_pkm (s : State) (h v : Nat) : (s.signal h v).pkm = s.pkm := by unfold State.signal; split <;> rfl
@[simp] theorem State.signal_regs (s : State) (h v : Nat) : (s.signal h v).regs = s.regs := by unfold State.signal; split <;> rfl
@[simp] theorem State.signal_ctrs (s : State) (h v : Nat) : (s.signal h v).ctrs = s.ctrs := by unfold State.signal; split <;> rfl
@[simp] theorem State.signal_latch (s : State) (h v : Nat) : (s.signal h v).latch = s.latch := by unfold State.signal; split <;> rfl
@[simp] theorem State.signal_logRecs (s : State) (h v : Nat) : (s.signal h v).logRecs = s.logRecs := by unfold State.signal; split <;> rfl
@[simp] theorem State.signal_limits (s : State) (h v : Nat) : (s.signal h v).limits = s.limits := by unfold State.signal; split <;> rfl
@[simp] theorem State.signal_rdVal (s : State) (h v : Nat) : (s.signal h v).rdVal = s.rdVal := by unfold State.signal; split <;> rfl
@[simp] theorem State.signal_flash (s : State) (h v : Nat) : (s.signal h v).flash = s.flash := by unfold State.signal; split <;> rfl
@[simp] theorem State.signal_freeCtr (s : State) (h v : Nat) : (s.signal h v).freeCtr = s.freeCtr := by unfold State.signal; split <;> rfl
@[simp] theorem State.signal_pending (s : State) (h v : Nat) : (s.signal h v).pending = s.pending := by unfold State.signal; split <;> rfl
@[simp] theorem State.signal_reg (s : State) (h v : Nat) (g : Field) (j : Nat) : (s.signal h v).reg g j = s.reg g j := by simp [State.reg]
@[simp] theorem State.signal_ctr (s : State) (h v : Nat) (g : Ctr) (j : Nat) : (s.signal h v).ctr g j = s.ctr g j := by simp [State.ctr]

/-! ### signalEvt -/

@[simp] theorem State.signalEvt_pwr (s : State) (e : Ev) (h : Nat) : (s.signalEvt e h).pwr = s.pwr := by unfold State.signalEvt; split <;> simp
@[simp] theorem State.signalEvt_mod (s : State) (e : Ev) (h : Nat) : (s.signalEvt e h).mod = s.mod := by unfold State.signalEvt; split <;> simp
@[simp] theorem State.signalEvt_boot (s : State) (e : Ev) (h : Nat) : (s.signalEvt e h).boot = s.boot := by unfold State.signalEvt; split <;> simp
@[simp] theorem State.signalEvt_img (s : State) (e : Ev) (h : Nat) : (s.signalEvt e h).img = s.img := by unfold State.signalEvt; split <;> simp
@[simp] theorem State.signalEvt_fus (s : State) (e : Ev) (h : Nat) : (s.signalEvt e h).fus = s.fus := by unfold State.signalEvt; split <;> simp
@[simp] theorem State.signalEvt_mon (s : State) (e : Ev) (h : Nat) : (s.signalEvt e h).mon = s.mon := by unfold State.signalEvt; split <;> simp
@[simp] theorem State.signalEvt_tim (s : State) (e : Ev) (h : Nat) : (s.signalEvt e h).tim = s.tim := by unfold State.signalEvt; split <;> simp
@[simp] theorem State.signalEvt_hbm (s : State) (e : Ev) (h : Nat) : (s.signalEvt e h).hbm = s.hbm := by unfold State.signalEvt; split <;> simp
@[simp] theorem State.signalEvt_pkts (s : State) (e : Ev) (h : Nat) : (s.signalEvt e h).pkts = s.pkts := by unfold State.signalEvt; split <;> simp
@[simp] theorem State.signalEvt_nextPkt (s : State) (e : Ev) (h : Nat) : (s.signalEvt e h).nextPkt = s.nextPkt := by unfold State.signalEvt; split <;> simp
@[simp] theorem State.signalEvt_prt (s : State) (e : Ev) (h : Nat) : (s.signalEvt e h).prt = s.prt := by unfold State.signalEvt; split <;> simp
@[simp] theorem State.signalEvt_par (s : State) (e : Ev) (h : Nat) : (s.signalEvt e h).par = s.par := by unfold State.signalEvt; split <;> simp
@[simp] theorem State.signalEvt_cls (s : State) (e : Ev) (h : Nat) : (s.signalEvt e h).cls = s.cls := by unfold State.signalEvt; split <;> simp
@[simp] theorem State.signalEvt_gaz (s : State) (e : Ev) (h : Nat) : (s.signalEvt e h).gaz = s.gaz := by unfold State.signalEvt; split <;> simp
@[simp] theorem State.signalEvt_tbl (s : State) (e : Ev) (h : Nat) : (s.signalEvt e h).tbl = s.tbl := by unfold State.signalEvt; split <;> simp
@[simp] theorem State.signalEvt_flw (s : State) (e : Ev) (h : Nat) : (s.signalEvt e h).flw = s.flw := by unfold State.signalEvt; split <;> simp
@[simp] theorem State.signalEvt_swc (s : State) (e : Ev) (h : Nat) : (s.signalEvt e h).swc = s.swc := by unfold State.signalEvt; split <;> simp
@[simp] theorem State.signalEvt_tmg (s : State) (e : Ev) (h : Nat) : (s.signalEvt e h).tmg = s.tmg := by unfold State.signalEvt; split <;> simp
@[simp] theorem State.signalEvt_tsk (s : State) (e : Ev) (h : Nat) : (s.signalEvt e h).tsk = s.tsk := by unfold State.signalEvt; split <;> simp
@[simp] theorem State.signalEvt_aut (s : State) (e : Ev) (h : Nat) : (s.signalEvt e h).aut = s.aut := by unfold State.signalEvt; split <;> simp
@[simp] theorem State.signalEvt_sau (s : State) (e : Ev) (h : Nat) : (s.signalEvt e h).sau = s.sau := by unfold State.signalEvt; split <;> simp
@[simp] theorem State.signalEvt_eng (s : State) (e : Ev) (h : Nat) : (s.signalEvt e h).eng = s.eng := by unfold State.signalEvt; split <;> simp
@[simp] theorem State.signalEvt_mmu (s : State) (e : Ev) (h : Nat) : (s.signalEvt e h).mmu = s.mmu := by unfold State.signalEvt; split <;> simp
@[simp] theorem State.signalEvt_pkm (s : State) (e : Ev) (h : Nat) : (s.signalEvt e h).pkm = s.pkm := by unfold State.signalEvt; split <;> simp
@[simp] theorem State.signalEvt_regs (s : State) (e : Ev) (h : Nat) : (s.signalEvt e h).regs = s.regs := by unfold State.signalEvt; split <;> simp
@[simp] theorem State.signalEvt_ctrs (s : State) (e : Ev) (h : Nat) : (s.signalEvt e h).ctrs = s.ctrs := by unfold State.signalEvt; split <;> simp
@[simp] theorem State.signalEvt_latch (s : State) (e : Ev) (h : Nat) : (s.signalEvt e h).latch = s.latch := by unfold State.signalEvt; split <;> simp
@[simp] theorem State.signalEvt_logRecs (s : State) (e : Ev) (h : Nat) : (s.signalEvt e h).logRecs = s.logRecs := by unfold State.signalEvt; split <;> simp
@[simp] theorem State.signalEvt_limits (s : State) (e : Ev) (h : Nat) : (s.signalEvt e h).limits = s.limits := by unfold State.signalEvt; split <;> simp
@[simp] theorem State.signalEvt_rdVal (s : State) (e : Ev) (h : Nat) : (s.signalEvt e h).rdVal = s.rdVal := by unfold State.signalEvt; split <;> simp
@[simp] theorem State.signalEvt_flash (s : State) (e : Ev) (h : Nat) : (s.signalEvt e h).flash = s.flash := by unfold State.signalEvt; split <;> simp
@[simp] theorem State.signalEvt_freeCtr (s : State) (e : Ev) (h : Nat) : (s.signalEvt e h).freeCtr = s.freeCtr := by unfold State.signalEvt; split <;> simp
@[simp] theorem State.signalEvt_pending (s : State) (e : Ev) (h : Nat) : (s.signalEvt e h).pending = s.pending := by unfold State.signalEvt; split <;> simp
@[simp] theorem State.signalEvt_reg (s : State) (e : Ev) (h : Nat) (g : Field) (j : Nat) : (s.signalEvt e h).reg g j = s.reg g j := by simp [State.reg]
@[simp] theorem State.signalEvt_ctr (s : State) (e : Ev) (h : Nat) (g : Ctr) (j : Nat) : (s.signalEvt e h).ctr g j = s.ctr g j := by simp [State.ctr]

/-! ### logEvt -/

@[simp] theorem State.logEvt_pwr (s : State) (e : Ev) (a0 a1 : Nat) : (s.logEvt e a0 a1).pwr = s.pwr := rfl
@[simp] theorem State.logEvt_mod (s : State) (e : Ev) (a0 a1 : Nat) : (s.logEvt e a0 a1).mod = s.mod := rfl
@[simp] theorem State.logEvt_boot (s : State) (e : Ev) (a0 a1 : Nat) : (s.logEvt e a0 a1).boot = s.boot := rfl
@[simp] theorem State.logEvt_img (s : State) (e : Ev) (a0 a1 : Nat) : (s.logEvt e a0 a1).img = s.img := rfl
@[simp] theorem State.logEvt_fus (s : State) (e : Ev) (a0 a1 : Nat) : (s.logEvt e a0 a1).fus = s.fus := rfl
@[simp] theorem State.logEvt_mon (s : State) (e : Ev) (a0 a1 : Nat) : (s.logEvt e a0 a1).mon = s.mon := rfl
@[simp] theorem State.logEvt_tim (s : State) (e : Ev) (a0 a1 : Nat) : (s.logEvt e a0 a1).tim = s.tim := rfl
@[simp] theorem State.logEvt_hst (s : State) (e : Ev) (a0 a1 : Nat) : (s.logEvt e a0 a1).hst = s.hst := rfl
@[simp] theorem State.logEvt_hbm (s : State) (e : Ev) (a0 a1 : Nat) : (s.logEvt e a0 a1).hbm = s.hbm := rfl
@[simp] theorem State.logEvt_pkts (s : State) (e : Ev) (a0 a1 : Nat) : (s.logEvt e a0 a1).pkts = s.pkts := rfl
@[simp] theorem State.logEvt_nextPkt (s : State) (e : Ev) (a0 a1 : Nat) : (s.logEvt e a0 a1).nextPkt = s.nextPkt := rfl
@[simp] theorem State.logEvt_prt (s : State) (e : Ev) (a0 a1 : Nat) : (s.logEvt e a0 a1).prt = s.prt := rfl
@[simp] theorem State.logEvt_par (s : State) (e : Ev) (a0 a1 : Nat) : (s.logEvt e a0 a1).par = s.par := rfl
@[simp] theorem State.logEvt_cls (s : State) (e : Ev) (a0 a1 : Nat) : (s.logEvt e a0 a1).cls = s.cls := rfl
@[simp] theorem State.logEvt_gaz (s : State) (e : Ev) (a0 a1 : Nat) : (s.logEvt e a0 a1).gaz = s.gaz := rfl
@[simp] theorem State.logEvt_tbl (s : State) (e : Ev) (a0 a1 : Nat) : (s.logEvt e a0 a1).tbl = s.tbl := rfl
@[simp] theorem State.logEvt_flw (s : State) (e : Ev) (a0 a1 : Nat) : (s.logEvt e a0 a1).flw = s.flw := rfl
@[simp] theorem State.logEvt_swc (s : State) (e : Ev) (a0 a1 : Nat) : (s.logEvt e a0 a1).swc = s.swc := rfl
@[simp] theorem State.logEvt_tmg (s : State) (e : Ev) (a0 a1 : Nat) : (s.logEvt e a0 a1).tmg = s.tmg := rfl
@[simp] theorem State.logEvt_tsk (s : State) (e : Ev) (a0 a1 : Nat) : (s.logEvt e a0 a1).tsk = s.tsk := rfl
@[simp] theorem State.logEvt_aut (s : State) (e : Ev) (a0 a1 : Nat) : (s.logEvt e a0 a1).aut = s.aut := rfl
@[simp] theorem State.logEvt_sau (s : State) (e : Ev) (a0 a1 : Nat) : (s.logEvt e a0 a1).sau = s.sau := rfl
@[simp] theorem State.logEvt_eng (s : State) (e : Ev) (a0 a1 : Nat) : (s.logEvt e a0 a1).eng = s.eng := rfl
@[simp] theorem State.logEvt_mmu (s : State) (e : Ev) (a0 a1 : Nat) : (s.logEvt e a0 a1).mmu = s.mmu := rfl
@[simp] theorem State.logEvt_pkm (s : State) (e : Ev) (a0 a1 : Nat) : (s.logEvt e a0 a1).pkm = s.pkm := rfl
@[simp] theorem State.logEvt_ctrs (s : State) (e : Ev) (a0 a1 : Nat) : (s.logEvt e a0 a1).ctrs = s.ctrs := rfl
@[simp] theorem State.logEvt_latch (s : State) (e : Ev) (a0 a1 : Nat) : (s.logEvt e a0 a1).latch = s.latch := rfl
@[simp] theorem State.logEvt_limits (s : State) (e : Ev) (a0 a1 : Nat) : (s.logEvt e a0 a1).limits = s.limits := rfl
@[simp] theorem State.logEvt_rdVal (s : State) (e : Ev) (a0 a1 : Nat) : (s.logEvt e a0 a1).rdVal = s.rdVal := rfl
@[simp] theorem State.logEvt_flash (s : State) (e : Ev) (a0 a1 : Nat) : (s.logEvt e a0 a1).flash = s.flash := rfl
@[simp] theorem State.logEvt_freeCtr (s : State) (e : Ev) (a0 a1 : Nat) : (s.logEvt e a0 a1).freeCtr = s.freeCtr := rfl
@[simp] theorem State.logEvt_pending (s : State) (e : Ev) (a0 a1 : Nat) : (s.logEvt e a0 a1).pending = s.pending := rfl
@[simp] theorem State.logEvt_ctr (s : State) (e : Ev) (a0 a1 : Nat) (g : Ctr) (j : Nat) : (s.logEvt e a0 a1).ctr g j = s.ctr g j := by simp [State.ctr]

/-! ### setStat -/

@[simp] theorem State.setStat_pwr (s : State) (e : Ev) (i : Nat) : (s.setStat e i).pwr = s.pwr := by unfold State.setStat; split <;> simp
@[simp] theorem State.setStat_mod (s : State) (e : Ev) (i : Nat) : (s.setStat e i).mod = s.mod := by unfold State.setStat; split <;> simp
@[simp] theorem State.setStat_boot (s : State) (e : Ev) (i : Nat) : (s.setStat e i).boot = s.boot := by unfold State.setStat; split <;> simp
@[simp] theorem State.setStat_img (s : State) (e : Ev) (i : Nat) : (s.setStat e i).img = s.img := by unfold State.setStat; split <;> simp
@[simp] theorem State.setStat_fus (s : State) (e : Ev) (i : Nat) : (s.setStat e i).fus = s.fus := by unfold State.setStat; split <;> simp
@[simp] theorem State.setStat_mon (s : State) (e : Ev) (i : Nat) : (s.setStat e i).mon = s.mon := by unfold State.setStat; split <;> simp
@[simp] theorem State.setStat_tim (s : State) (e : Ev) (i : Nat) : (s.setStat e i).tim = s.tim := by unfold State.setStat; split <;> simp
@[simp] theorem State.setStat_hst (s : State) (e : Ev) (i : Nat) : (s.setStat e i).hst = s.hst := by unfold State.setStat; split <;> simp
@[simp] theorem State.setStat_hbm (s : State) (e : Ev) (i : Nat) : (s.setStat e i).hbm = s.hbm := by unfold State.setStat; split <;> simp
@[simp] theorem State.setStat_pkts (s : State) (e : Ev) (i : Nat) : (s.setStat e i).pkts = s.pkts := by unfold State.setStat; split <;> simp
@[simp] theorem State.setStat_nextPkt (s : State) (e : Ev) (i : Nat) : (s.setStat e i).nextPkt = s.nextPkt := by unfold State.setStat; split <;> simp
@[simp] theorem State.setStat_prt (s : State) (e : Ev) (i : Nat) : (s.setStat e i).prt = s.prt := by unfold State.setStat; split <;> simp
@[simp] theorem State.setStat_par (s : State) (e : Ev) (i : Nat) : (s.setStat e i).par = s.par := by unfold State.setStat; split <;> simp
@[simp] theorem State.setStat_cls (s : State) (e : Ev) (i : Nat) : (s.setStat e i).cls = s.cls := by unfold State.setStat; split <;> simp
@[simp] theorem State.setStat_gaz (s : State) (e : Ev) (i : Nat) : (s.setStat e i).gaz = s.gaz := by unfold State.setStat; split <;> simp
@[simp] theorem State.setStat_tbl (s : State) (e : Ev) (i : Nat) : (s.setStat e i).tbl = s.tbl := by unfold State.setStat; split <;> simp
@[simp] theorem State.setStat_flw (s : State) (e : Ev) (i : Nat) : (s.setStat e i).flw = s.flw := by unfold State.setStat; split <;> simp
@[simp] theorem State.setStat_swc (s : State) (e : Ev) (i : Nat) : (s.setStat e i).swc = s.swc := by unfold State.setStat; split <;> simp
@[simp] theorem State.setStat_tmg (s : State) (e : Ev) (i : Nat) : (s.setStat e i).tmg = s.tmg := by unfold State.setStat; split <;> simp
@[simp] theorem State.setStat_tsk (s : State) (e : Ev) (i : Nat) : (s.setStat e i).tsk = s.tsk := by unfold State.setStat; split <;> simp
@[simp] theorem State.setStat_aut (s : State) (e : Ev) (i : Nat) : (s.setStat e i).aut = s.aut := by unfold State.setStat; split <;> simp
@[simp] theorem State.setStat_sau (s : State) (e : Ev) (i : Nat) : (s.setStat e i).sau = s.sau := by unfold State.setStat; split <;> simp
@[simp] theorem State.setStat_eng (s : State) (e : Ev) (i : Nat) : (s.setStat e i).eng = s.eng := by unfold State.setStat; split <;> simp
@[simp] theorem State.setStat_mmu (s : State) (e : Ev) (i : Nat) : (s.setStat e i).mmu = s.mmu := by unfold State.setStat; split <;> simp
@[simp] theorem State.setStat_pkm (s : State) (e : Ev) (i : Nat) : (s.setStat e i).pkm = s.pkm := by unfold State.setStat; split <;> simp
@[simp] theorem State.setStat_ctrs (s : State) (e : Ev) (i : Nat) : (s.setStat e i).ctrs = s.ctrs := by unfold State.setStat; split <;> simp
@[simp] theorem State.setStat_latch (s : State) (e : Ev) (i : Nat) : (s.setStat e i).latch = s.latch := by unfold State.setStat; split <;> simp
@[simp] theorem State.setStat_logRecs (s : State) (e : Ev) (i : Nat) : (s.setStat e i).logRecs = s.logRecs := by unfold State.setStat; split <;> simp
@[simp] theorem State.setStat_limits (s : State) (e : Ev) (i : Nat) : (s.setStat e i).limits = s.limits := by unfold State.setStat; split <;> simp
@[simp] theorem State.setStat_rdVal (s : State) (e : Ev) (i : Nat) : (s.setStat e i).rdVal = s.rdVal := by unfold State.setStat; split <;> simp
@[simp] theorem State.setStat_flash (s : State) (e : Ev) (i : Nat) : (s.setStat e i).flash = s.flash := by unfold State.setStat; split <;> simp
@[simp] theorem State.setStat_freeCtr (s : State) (e : Ev) (i : Nat) : (s.setStat e i).freeCtr = s.freeCtr := by unfold State.setStat; split <;> simp
@[simp] theorem State.setStat_pending (s : State) (e : Ev) (i : Nat) : (s.setStat e i).pending = s.pending := by unfold State.setStat; split <;> simp
@[simp] theorem State.setStat_ctr (s : State) (e : Ev) (i : Nat) (g : Ctr) (j : Nat) : (s.setStat e i).ctr g j = s.ctr g j := by simp [State.ctr]

/-! ### raise -/

@[simp] theorem State.raise_pwr (s : State) (e : Ev) (a0 a1 i : Nat) : (s.raise e a0 a1 i).pwr = s.pwr := by simp [State.raise]
@[simp] theorem State.raise_mod (s : State) (e : Ev) (a0 a1 i : Nat) : (s.raise e a0 a1 i).mod = s.mod := by simp [State.raise]
@[simp] theorem State.raise_boot (s : State) (e : Ev) (a0 a1 i : Nat) : (s.raise e a0 a1 i).boot = s.boot := by simp [State.raise]
@[simp] theorem State.raise_img (s : State) (e : Ev) (a0 a1 i : Nat) : (s.raise e a0 a1 i).img = s.img := by simp [State.raise]
@[simp] theorem State.raise_fus (s : State) (e : Ev) (a0 a1 i : Nat) : (s.raise e a0 a1 i).fus = s.fus := by simp [State.raise]
@[simp] theorem State.raise_mon (s : State) (e : Ev) (a0 a1 i : Nat) : (s.raise e a0 a1 i).mon = s.mon := by simp [State.raise]
@[simp] theorem State.raise_tim (s : State) (e : Ev) (a0 a1 i : Nat) : (s.raise e a0 a1 i).tim = s.tim := by simp [State.raise]
@[simp] theorem State.raise_hbm (s : State) (e : Ev) (a0 a1 i : Nat) : (s.raise e a0 a1 i).hbm = s.hbm := by simp [State.raise]
@[simp] theorem State.raise_pkts (s : State) (e : Ev) (a0 a1 i : Nat) : (s.raise e a0 a1 i).pkts = s.pkts := by simp [State.raise]
@[simp] theorem State.raise_nextPkt (s : State) (e : Ev) (a0 a1 i : Nat) : (s.raise e a0 a1 i).nextPkt = s.nextPkt := by simp [State.raise]
@[simp] theorem State.raise_prt (s : State) (e : Ev) (a0 a1 i : Nat) : (s.raise e a0 a1 i).prt = s.prt := by simp [State.raise]
@[simp] theorem State.raise_par (s : State) (e : Ev) (a0 a1 i : Nat) : (s.raise e a0 a1 i).par = s.par := by simp [State.raise]
@[simp] theorem State.raise_cls (s : State) (e : Ev) (a0 a1 i : Nat) : (s.raise e a0 a1 i).cls = s.cls := by simp [State.raise]
@[simp] theorem State.raise_gaz (s : State) (e : Ev) (a0 a1 i : Nat) : (s.raise e a0 a1 i).gaz = s.gaz := by simp [State.raise]
@[simp] theorem State.raise_tbl (s : State) (e : Ev) (a0 a1 i : Nat) : (s.raise e a0 a1 i).tbl = s.tbl := by simp [State.raise]
@[simp] theorem State.raise_flw (s : State) (e : Ev) (a0 a1 i : Nat) : (s.raise e a0 a1 i).flw = s.flw := by simp [State.raise]
@[simp] theorem State.raise_swc (s : State) (e : Ev) (a0 a1 i : Nat) : (s.raise e a0 a1 i).swc = s.swc := by simp [State.raise]
@[simp] theorem State.raise_tmg (s : State) (e : Ev) (a0 a1 i : Nat) : (s.raise e a0 a1 i).tmg = s.tmg := by simp [State.raise]
@[simp] theorem State.raise_tsk (s : State) (e : Ev) (a0 a1 i : Nat) : (s.raise e a0 a1 i).tsk = s.tsk := by simp [State.raise]
@[simp] theorem State.raise_aut (s : State) (e : Ev) (a0 a1 i : Nat) : (s.raise e a0 a1 i).aut = s.aut := by simp [State.raise]
@[simp] theorem State.raise_sau (s : State) (e : Ev) (a0 a1 i : Nat) : (s.raise e a0 a1 i).sau = s.sau := by simp [State.raise]
@[simp] theorem State.raise_eng (s : State) (e : Ev) (a0 a1 i : Nat) : (s.raise e a0 a1 i).eng = s.eng := by simp [State.raise]
@[simp] theorem State.raise_mmu (s : State) (e : Ev) (a0 a1 i : Nat) : (s.raise e a0 a1 i).mmu = s.mmu := by simp [State.raise]
@[simp] theorem State.raise_pkm (s : State) (e : Ev) (a0 a1 i : Nat) : (s.raise e a0 a1 i).pkm = s.pkm := by simp [State.raise]
@[simp] theorem State.raise_ctrs (s : State) (e : Ev) (a0 a1 i : Nat) : (s.raise e a0 a1 i).ctrs = s.ctrs := by simp [State.raise]
@[simp] theorem State.raise_latch (s : State) (e : Ev) (a0 a1 i : Nat) : (s.raise e a0 a1 i).latch = s.latch := by simp [State.raise]
@[simp] theorem State.raise_limits (s : State) (e : Ev) (a0 a1 i : Nat) : (s.raise e a0 a1 i).limits = s.limits := by simp [State.raise]
@[simp] theorem State.raise_rdVal (s : State) (e : Ev) (a0 a1 i : Nat) : (s.raise e a0 a1 i).rdVal = s.rdVal := by simp [State.raise]
@[simp] theorem State.raise_flash (s : State) (e : Ev) (a0 a1 i : Nat) : (s.raise e a0 a1 i).flash = s.flash := by simp [State.raise]
@[simp] theorem State.raise_freeCtr (s : State) (e : Ev) (a0 a1 i : Nat) : (s.raise e a0 a1 i).freeCtr = s.freeCtr := by simp [State.raise]
@[simp] theorem State.raise_pending (s : State) (e : Ev) (a0 a1 i : Nat) : (s.raise e a0 a1 i).pending = s.pending := by simp [State.raise]
@[simp] theorem State.raise_ctr (s : State) (e : Ev) (a0 a1 i : Nat) (g : Ctr) (j : Nat) : (s.raise e a0 a1 i).ctr g j = s.ctr g j := by simp [State.ctr]

/-! ### raiseLimited -/

@[simp] theorem State.raiseLimited_pwr (s : State) (e : Ev) (key ns a0 a1 i : Nat) : (s.raiseLimited e key ns a0 a1 i).pwr = s.pwr := by unfold State.raiseLimited; dsimp only; split <;> (try split) <;> simp
@[simp] theorem State.raiseLimited_mod (s : State) (e : Ev) (key ns a0 a1 i : Nat) : (s.raiseLimited e key ns a0 a1 i).mod = s.mod := by unfold State.raiseLimited; dsimp only; split <;> (try split) <;> simp
@[simp] theorem State.raiseLimited_boot (s : State) (e : Ev) (key ns a0 a1 i : Nat) : (s.raiseLimited e key ns a0 a1 i).boot = s.boot := by unfold State.raiseLimited; dsimp only; split <;> (try split) <;> simp
@[simp] theorem State.raiseLimited_img (s : State) (e : Ev) (key ns a0 a1 i : Nat) : (s.raiseLimited e key ns a0 a1 i).img = s.img := by unfold State.raiseLimited; dsimp only; split <;> (try split) <;> simp
@[simp] theorem State.raiseLimited_fus (s : State) (e : Ev) (key ns a0 a1 i : Nat) : (s.raiseLimited e key ns a0 a1 i).fus = s.fus := by unfold State.raiseLimited; dsimp only; split <;> (try split) <;> simp
@[simp] theorem State.raiseLimited_mon (s : State) (e : Ev) (key ns a0 a1 i : Nat) : (s.raiseLimited e key ns a0 a1 i).mon = s.mon := by unfold State.raiseLimited; dsimp only; split <;> (try split) <;> simp
@[simp] theorem State.raiseLimited_tim (s : State) (e : Ev) (key ns a0 a1 i : Nat) : (s.raiseLimited e key ns a0 a1 i).tim = s.tim := by unfold State.raiseLimited; dsimp only; split <;> (try split) <;> simp
@[simp] theorem State.raiseLimited_hbm (s : State) (e : Ev) (key ns a0 a1 i : Nat) : (s.raiseLimited e key ns a0 a1 i).hbm = s.hbm := by unfold State.raiseLimited; dsimp only; split <;> (try split) <;> simp
@[simp] theorem State.raiseLimited_pkts (s : State) (e : Ev) (key ns a0 a1 i : Nat) : (s.raiseLimited e key ns a0 a1 i).pkts = s.pkts := by unfold State.raiseLimited; dsimp only; split <;> (try split) <;> simp
@[simp] theorem State.raiseLimited_nextPkt (s : State) (e : Ev) (key ns a0 a1 i : Nat) : (s.raiseLimited e key ns a0 a1 i).nextPkt = s.nextPkt := by unfold State.raiseLimited; dsimp only; split <;> (try split) <;> simp
@[simp] theorem State.raiseLimited_prt (s : State) (e : Ev) (key ns a0 a1 i : Nat) : (s.raiseLimited e key ns a0 a1 i).prt = s.prt := by unfold State.raiseLimited; dsimp only; split <;> (try split) <;> simp
@[simp] theorem State.raiseLimited_par (s : State) (e : Ev) (key ns a0 a1 i : Nat) : (s.raiseLimited e key ns a0 a1 i).par = s.par := by unfold State.raiseLimited; dsimp only; split <;> (try split) <;> simp
@[simp] theorem State.raiseLimited_cls (s : State) (e : Ev) (key ns a0 a1 i : Nat) : (s.raiseLimited e key ns a0 a1 i).cls = s.cls := by unfold State.raiseLimited; dsimp only; split <;> (try split) <;> simp
@[simp] theorem State.raiseLimited_gaz (s : State) (e : Ev) (key ns a0 a1 i : Nat) : (s.raiseLimited e key ns a0 a1 i).gaz = s.gaz := by unfold State.raiseLimited; dsimp only; split <;> (try split) <;> simp
@[simp] theorem State.raiseLimited_tbl (s : State) (e : Ev) (key ns a0 a1 i : Nat) : (s.raiseLimited e key ns a0 a1 i).tbl = s.tbl := by unfold State.raiseLimited; dsimp only; split <;> (try split) <;> simp
@[simp] theorem State.raiseLimited_flw (s : State) (e : Ev) (key ns a0 a1 i : Nat) : (s.raiseLimited e key ns a0 a1 i).flw = s.flw := by unfold State.raiseLimited; dsimp only; split <;> (try split) <;> simp
@[simp] theorem State.raiseLimited_swc (s : State) (e : Ev) (key ns a0 a1 i : Nat) : (s.raiseLimited e key ns a0 a1 i).swc = s.swc := by unfold State.raiseLimited; dsimp only; split <;> (try split) <;> simp
@[simp] theorem State.raiseLimited_tmg (s : State) (e : Ev) (key ns a0 a1 i : Nat) : (s.raiseLimited e key ns a0 a1 i).tmg = s.tmg := by unfold State.raiseLimited; dsimp only; split <;> (try split) <;> simp
@[simp] theorem State.raiseLimited_tsk (s : State) (e : Ev) (key ns a0 a1 i : Nat) : (s.raiseLimited e key ns a0 a1 i).tsk = s.tsk := by unfold State.raiseLimited; dsimp only; split <;> (try split) <;> simp
@[simp] theorem State.raiseLimited_aut (s : State) (e : Ev) (key ns a0 a1 i : Nat) : (s.raiseLimited e key ns a0 a1 i).aut = s.aut := by unfold State.raiseLimited; dsimp only; split <;> (try split) <;> simp
@[simp] theorem State.raiseLimited_sau (s : State) (e : Ev) (key ns a0 a1 i : Nat) : (s.raiseLimited e key ns a0 a1 i).sau = s.sau := by unfold State.raiseLimited; dsimp only; split <;> (try split) <;> simp
@[simp] theorem State.raiseLimited_eng (s : State) (e : Ev) (key ns a0 a1 i : Nat) : (s.raiseLimited e key ns a0 a1 i).eng = s.eng := by unfold State.raiseLimited; dsimp only; split <;> (try split) <;> simp
@[simp] theorem State.raiseLimited_mmu (s : State) (e : Ev) (key ns a0 a1 i : Nat) : (s.raiseLimited e key ns a0 a1 i).mmu = s.mmu := by unfold State.raiseLimited; dsimp only; split <;> (try split) <;> simp
@[simp] theorem State.raiseLimited_pkm (s : State) (e : Ev) (key ns a0 a1 i : Nat) : (s.raiseLimited e key ns a0 a1 i).pkm = s.pkm := by unfold State.raiseLimited; dsimp only; split <;> (try split) <;> simp
@[simp] theorem State.raiseLimited_ctrs (s : State) (e : Ev) (key ns a0 a1 i : Nat) : (s.raiseLimited e key ns a0 a1 i).ctrs = s.ctrs := by unfold State.raiseLimited; dsimp only; split <;> (try split) <;> simp
@[simp] theorem State.raiseLimited_latch (s : State) (e : Ev) (key ns a0 a1 i : Nat) : (s.raiseLimited e key ns a0 a1 i).latch = s.latch := by unfold State.raiseLimited; dsimp only; split <;> (try split) <;> simp
@[simp] theorem State.raiseLimited_rdVal (s : State) (e : Ev) (key ns a0 a1 i : Nat) : (s.raiseLimited e key ns a0 a1 i).rdVal = s.rdVal := by unfold State.raiseLimited; dsimp only; split <;> (try split) <;> simp
@[simp] theorem State.raiseLimited_flash (s : State) (e : Ev) (key ns a0 a1 i : Nat) : (s.raiseLimited e key ns a0 a1 i).flash = s.flash := by unfold State.raiseLimited; dsimp only; split <;> (try split) <;> simp
@[simp] theorem State.raiseLimited_freeCtr (s : State) (e : Ev) (key ns a0 a1 i : Nat) : (s.raiseLimited e key ns a0 a1 i).freeCtr = s.freeCtr := by unfold State.raiseLimited; dsimp only; split <;> (try split) <;> simp
@[simp] theorem State.raiseLimited_pending (s : State) (e : Ev) (key ns a0 a1 i : Nat) : (s.raiseLimited e key ns a0 a1 i).pending = s.pending := by unfold State.raiseLimited; dsimp only; split <;> (try split) <;> simp
@[simp] theorem State.raiseLimited_ctr (s : State) (e : Ev) (key ns a0 a1 i : Nat) (g : Ctr) (j : Nat) : (s.raiseLimited e key ns a0 a1 i).ctr g j = s.ctr g j := by simp [State.ctr]

/-! ### fenced -/

@[simp] theorem State.fenced_pwr (s : State) (src : Src) : (s.fenced src).pwr = s.pwr := by unfold State.fenced; split <;> simp
@[simp] theorem State.fenced_mod (s : State) (src : Src) : (s.fenced src).mod = s.mod := by unfold State.fenced; split <;> simp
@[simp] theorem State.fenced_boot (s : State) (src : Src) : (s.fenced src).boot = s.boot := by unfold State.fenced; split <;> simp
@[simp] theorem State.fenced_img (s : State) (src : Src) : (s.fenced src).img = s.img := by unfold State.fenced; split <;> simp
@[simp] theorem State.fenced_fus (s : State) (src : Src) : (s.fenced src).fus = s.fus := by unfold State.fenced; split <;> simp
@[simp] theorem State.fenced_mon (s : State) (src : Src) : (s.fenced src).mon = s.mon := by unfold State.fenced; split <;> simp
@[simp] theorem State.fenced_tim (s : State) (src : Src) : (s.fenced src).tim = s.tim := by unfold State.fenced; split <;> simp
@[simp] theorem State.fenced_hbm (s : State) (src : Src) : (s.fenced src).hbm = s.hbm := by unfold State.fenced; split <;> simp
@[simp] theorem State.fenced_pkts (s : State) (src : Src) : (s.fenced src).pkts = s.pkts := by unfold State.fenced; split <;> simp
@[simp] theorem State.fenced_nextPkt (s : State) (src : Src) : (s.fenced src).nextPkt = s.nextPkt := by unfold State.fenced; split <;> simp
@[simp] theorem State.fenced_prt (s : State) (src : Src) : (s.fenced src).prt = s.prt := by unfold State.fenced; split <;> simp
@[simp] theorem State.fenced_par (s : State) (src : Src) : (s.fenced src).par = s.par := by unfold State.fenced; split <;> simp
@[simp] theorem State.fenced_cls (s : State) (src : Src) : (s.fenced src).cls = s.cls := by unfold State.fenced; split <;> simp
@[simp] theorem State.fenced_gaz (s : State) (src : Src) : (s.fenced src).gaz = s.gaz := by unfold State.fenced; split <;> simp
@[simp] theorem State.fenced_tbl (s : State) (src : Src) : (s.fenced src).tbl = s.tbl := by unfold State.fenced; split <;> simp
@[simp] theorem State.fenced_flw (s : State) (src : Src) : (s.fenced src).flw = s.flw := by unfold State.fenced; split <;> simp
@[simp] theorem State.fenced_swc (s : State) (src : Src) : (s.fenced src).swc = s.swc := by unfold State.fenced; split <;> simp
@[simp] theorem State.fenced_tmg (s : State) (src : Src) : (s.fenced src).tmg = s.tmg := by unfold State.fenced; split <;> simp
@[simp] theorem State.fenced_tsk (s : State) (src : Src) : (s.fenced src).tsk = s.tsk := by unfold State.fenced; split <;> simp
@[simp] theorem State.fenced_aut (s : State) (src : Src) : (s.fenced src).aut = s.aut := by unfold State.fenced; split <;> simp
@[simp] theorem State.fenced_sau (s : State) (src : Src) : (s.fenced src).sau = s.sau := by unfold State.fenced; split <;> simp
@[simp] theorem State.fenced_eng (s : State) (src : Src) : (s.fenced src).eng = s.eng := by unfold State.fenced; split <;> simp
@[simp] theorem State.fenced_mmu (s : State) (src : Src) : (s.fenced src).mmu = s.mmu := by unfold State.fenced; split <;> simp
@[simp] theorem State.fenced_pkm (s : State) (src : Src) : (s.fenced src).pkm = s.pkm := by unfold State.fenced; split <;> simp
@[simp] theorem State.fenced_ctrs (s : State) (src : Src) : (s.fenced src).ctrs = s.ctrs := by unfold State.fenced; split <;> simp
@[simp] theorem State.fenced_latch (s : State) (src : Src) : (s.fenced src).latch = s.latch := by unfold State.fenced; split <;> simp
@[simp] theorem State.fenced_rdVal (s : State) (src : Src) : (s.fenced src).rdVal = s.rdVal := by unfold State.fenced; split <;> simp
@[simp] theorem State.fenced_flash (s : State) (src : Src) : (s.fenced src).flash = s.flash := by unfold State.fenced; split <;> simp
@[simp] theorem State.fenced_freeCtr (s : State) (src : Src) : (s.fenced src).freeCtr = s.freeCtr := by unfold State.fenced; split <;> simp
@[simp] theorem State.fenced_pending (s : State) (src : Src) : (s.fenced src).pending = s.pending := by unfold State.fenced; split <;> simp
@[simp] theorem State.fenced_ctr (s : State) (src : Src) (g : Ctr) (j : Nat) : (s.fenced src).ctr g j = s.ctr g j := by simp [State.ctr]

/-! ### partitionErr -/

@[simp] theorem State.partitionErr_pwr (s : State) (src : Src) : (s.partitionErr src).pwr = s.pwr := by unfold State.partitionErr; split <;> simp
@[simp] theorem State.partitionErr_mod (s : State) (src : Src) : (s.partitionErr src).mod = s.mod := by unfold State.partitionErr; split <;> simp
@[simp] theorem State.partitionErr_boot (s : State) (src : Src) : (s.partitionErr src).boot = s.boot := by unfold State.partitionErr; split <;> simp
@[simp] theorem State.partitionErr_img (s : State) (src : Src) : (s.partitionErr src).img = s.img := by unfold State.partitionErr; split <;> simp
@[simp] theorem State.partitionErr_fus (s : State) (src : Src) : (s.partitionErr src).fus = s.fus := by unfold State.partitionErr; split <;> simp
@[simp] theorem State.partitionErr_mon (s : State) (src : Src) : (s.partitionErr src).mon = s.mon := by unfold State.partitionErr; split <;> simp
@[simp] theorem State.partitionErr_tim (s : State) (src : Src) : (s.partitionErr src).tim = s.tim := by unfold State.partitionErr; split <;> simp
@[simp] theorem State.partitionErr_hbm (s : State) (src : Src) : (s.partitionErr src).hbm = s.hbm := by unfold State.partitionErr; split <;> simp
@[simp] theorem State.partitionErr_pkts (s : State) (src : Src) : (s.partitionErr src).pkts = s.pkts := by unfold State.partitionErr; split <;> simp
@[simp] theorem State.partitionErr_nextPkt (s : State) (src : Src) : (s.partitionErr src).nextPkt = s.nextPkt := by unfold State.partitionErr; split <;> simp
@[simp] theorem State.partitionErr_prt (s : State) (src : Src) : (s.partitionErr src).prt = s.prt := by unfold State.partitionErr; split <;> simp
@[simp] theorem State.partitionErr_par (s : State) (src : Src) : (s.partitionErr src).par = s.par := by unfold State.partitionErr; split <;> simp
@[simp] theorem State.partitionErr_cls (s : State) (src : Src) : (s.partitionErr src).cls = s.cls := by unfold State.partitionErr; split <;> simp
@[simp] theorem State.partitionErr_gaz (s : State) (src : Src) : (s.partitionErr src).gaz = s.gaz := by unfold State.partitionErr; split <;> simp
@[simp] theorem State.partitionErr_tbl (s : State) (src : Src) : (s.partitionErr src).tbl = s.tbl := by unfold State.partitionErr; split <;> simp
@[simp] theorem State.partitionErr_flw (s : State) (src : Src) : (s.partitionErr src).flw = s.flw := by unfold State.partitionErr; split <;> simp
@[simp] theorem State.partitionErr_swc (s : State) (src : Src) : (s.partitionErr src).swc = s.swc := by unfold State.partitionErr; split <;> simp
@[simp] theorem State.partitionErr_tmg (s : State) (src : Src) : (s.partitionErr src).tmg = s.tmg := by unfold State.partitionErr; split <;> simp
@[simp] theorem State.partitionErr_tsk (s : State) (src : Src) : (s.partitionErr src).tsk = s.tsk := by unfold State.partitionErr; split <;> simp
@[simp] theorem State.partitionErr_aut (s : State) (src : Src) : (s.partitionErr src).aut = s.aut := by unfold State.partitionErr; split <;> simp
@[simp] theorem State.partitionErr_sau (s : State) (src : Src) : (s.partitionErr src).sau = s.sau := by unfold State.partitionErr; split <;> simp
@[simp] theorem State.partitionErr_eng (s : State) (src : Src) : (s.partitionErr src).eng = s.eng := by unfold State.partitionErr; split <;> simp
@[simp] theorem State.partitionErr_mmu (s : State) (src : Src) : (s.partitionErr src).mmu = s.mmu := by unfold State.partitionErr; split <;> simp
@[simp] theorem State.partitionErr_pkm (s : State) (src : Src) : (s.partitionErr src).pkm = s.pkm := by unfold State.partitionErr; split <;> simp
@[simp] theorem State.partitionErr_ctrs (s : State) (src : Src) : (s.partitionErr src).ctrs = s.ctrs := by unfold State.partitionErr; split <;> simp
@[simp] theorem State.partitionErr_latch (s : State) (src : Src) : (s.partitionErr src).latch = s.latch := by unfold State.partitionErr; split <;> simp
@[simp] theorem State.partitionErr_rdVal (s : State) (src : Src) : (s.partitionErr src).rdVal = s.rdVal := by unfold State.partitionErr; split <;> simp
@[simp] theorem State.partitionErr_flash (s : State) (src : Src) : (s.partitionErr src).flash = s.flash := by unfold State.partitionErr; split <;> simp
@[simp] theorem State.partitionErr_freeCtr (s : State) (src : Src) : (s.partitionErr src).freeCtr = s.freeCtr := by unfold State.partitionErr; split <;> simp
@[simp] theorem State.partitionErr_pending (s : State) (src : Src) : (s.partitionErr src).pending = s.pending := by unfold State.partitionErr; split <;> simp
@[simp] theorem State.partitionErr_ctr (s : State) (src : Src) (g : Ctr) (j : Nat) : (s.partitionErr src).ctr g j = s.ctr g j := by simp [State.ctr]

/-! ### What an event does to the registers (R476) -/

theorem State.reg_setStat_ne (s : State) (e : Ev) (i : Nat) (g : Field) (j : Nat) (h : e.stat ≠ some g ∨ j ≠ i) :
    (s.setStat e i).reg g j = s.reg g j := by
  unfold State.setStat
  split
  · rename_i f hf
    refine State.reg_setReg_ne _ _ _ _ _ _ ?_
    rcases h with h | h
    · exact Or.inl fun hg => h (by rw [hf, hg])
    · exact Or.inr h
  · rfl

theorem State.reg_logEvt_ne (s : State) (e : Ev) (a0 a1 : Nat) (g : Field) (j : Nat) (h : g ≠ .GLB_EVT_WPTR ∨ j ≠ 0) :
    (s.logEvt e a0 a1).reg g j = s.reg g j := State.reg_setReg_ne _ _ _ _ _ _ h

theorem State.raise_reg (s : State) (e : Ev) (a0 a1 i : Nat) (g : Field) (j : Nat) :
    (s.raise e a0 a1 i).reg g j = ((s.logEvt e a0 a1).setStat e i).reg g j := by
  unfold State.raise; simp only [State.signalEvt_reg]

/-- An event changes no register but its status bit and GLB_EVT_WPTR. -/
theorem State.reg_raise_ne (s : State) (e : Ev) (a0 a1 i : Nat) (g : Field) (j : Nat)
    (h1 : g ≠ .GLB_EVT_WPTR ∨ j ≠ 0) (h2 : e.stat ≠ some g ∨ j ≠ i) : (s.raise e a0 a1 i).reg g j = s.reg g j := by
  rw [State.raise_reg, State.reg_setStat_ne _ _ _ _ _ h2, State.reg_logEvt_ne _ _ _ _ _ _ h1]

/-- An event sets its status bit. -/
theorem State.reg_raise_stat (s : State) (e : Ev) (a0 a1 i : Nat) (f : Field) (h : e.stat = some f) :
    (s.raise e a0 a1 i).reg f i = 1#32 := by
  rw [State.raise_reg]; unfold State.setStat; rw [h]; simp

/-- A rate-limited event changes no register but its status bit and GLB_EVT_WPTR. -/
theorem State.reg_raiseLimited_ne (s : State) (e : Ev) (key ns a0 a1 i : Nat) (g : Field) (j : Nat)
    (h1 : g ≠ .GLB_EVT_WPTR ∨ j ≠ 0) (h2 : e.stat ≠ some g ∨ j ≠ i) :
    (s.raiseLimited e key ns a0 a1 i).reg g j = s.reg g j := by
  unfold State.raiseLimited; dsimp only
  split
  · split
    · rfl
    · rw [State.reg_raise_ne _ _ _ _ _ _ _ h1 h2]; rfl
  · rw [State.reg_raise_ne _ _ _ _ _ _ _ h1 h2]; rfl

/-- GLB_EVT_WPTR advances by one at every event, and the record it numbered is the event's. -/
theorem State.raise_logRecs (s : State) (e : Ev) (a0 a1 i : Nat) :
    (s.raise e a0 a1 i).logRecs = s.logRecs.set (s.rn .GLB_EVT_WPTR % 1024)
      ⟨BitVec.ofNat 32 s.sec, BitVec.ofNat 32 s.nsec, BitVec.ofNat 16 e.code, BitVec.ofNat 32 a0, BitVec.ofNat 64 a1⟩ := by
  simp [State.raise, State.logEvt]

end Sys2Proof.Machine
end

