-- ==== Sys2Proof/Laws/Events.lean ====
section
/-! SUPPORT. The records events leave (spec/17 R476), seen across register updates: what Raised, LastEvent and NoEvent say of the operations that write them, and the lease guard on a source it admits or turns away. -/

namespace Sys2Proof.Machine

open Sys2Proof

set_option Elab.async false

/-- A register of an updated record. -/
@[simp] theorem State.reg_mk {pwr mod boot img fus mon tim hst hbm pkts nextPkt prt par cls gaz tbl flw swc tmg tsk aut sau eng mmu pkm regs ctrs latch logRecs limits rdVal flash freeCtr pending} (f : Field) (i : Nat) :
    (State.mk pwr mod boot img fus mon tim hst hbm pkts nextPkt prt par cls gaz tbl flw swc tmg tsk aut sau eng mmu pkm regs ctrs latch logRecs limits rdVal flash freeCtr pending).reg f i = regs.get (f.reset i) (fieldKey f i) := rfl

@[simp] theorem State.get_regs (s : State) (f : Field) (i : Nat) : s.regs.get (f.reset i) (fieldKey f i) = s.reg f i := rfl

/-- A counter of an updated record. -/
@[simp] theorem State.ctr_mk {pwr mod boot img fus mon tim hst hbm pkts nextPkt prt par cls gaz tbl flw swc tmg tsk aut sau eng mmu pkm regs ctrs latch logRecs limits rdVal flash freeCtr pending} (c : Ctr) (i : Nat) :
    (State.mk pwr mod boot img fus mon tim hst hbm pkts nextPkt prt par cls gaz tbl flw swc tmg tsk aut sau eng mmu pkm regs ctrs latch logRecs limits rdVal flash freeCtr pending).ctr c i = ctrs.get 0#64 (ctrKey c i) := rfl

@[simp] theorem State.get_ctrs (s : State) (c : Ctr) (i : Nat) : s.ctrs.get 0#64 (ctrKey c i) = s.ctr c i := rfl

theorem Ev.stat_ne_wptr (e : Ev) : e.stat ≠ some .GLB_EVT_WPTR := by cases e <;> decide

@[simp] theorem State.raise_wptr (s : State) (e : Ev) (a0 a1 i : Nat) :
    (s.raise e a0 a1 i).reg .GLB_EVT_WPTR 0 = s.reg .GLB_EVT_WPTR 0 + 1#32 := by
  rw [State.raise_reg, State.reg_setStat_ne _ _ _ _ _ (Or.inl (Ev.stat_ne_wptr e))]
  simp [State.logEvt]

/-- What an event does to one register field: GLB_EVT_WPTR advances, the status bit is set, every other field stays. -/
theorem State.reg_raise (s : State) (e : Ev) (a0 a1 i : Nat) (g : Field) (j : Nat) :
    (s.raise e a0 a1 i).reg g j =
      if g = .GLB_EVT_WPTR ∧ j = 0 then s.reg g j + 1#32 else if e.stat = some g ∧ j = i then 1#32 else s.reg g j := by
  split
  · rename_i h; rw [h.1, h.2, State.raise_wptr]
  · rename_i h
    split
    · rename_i h2; rw [h2.2]; exact State.reg_raise_stat _ _ _ _ _ _ h2.1
    · rename_i h2
      refine State.reg_raise_ne _ _ _ _ _ _ _ ?_ ?_
      · by_cases hg : g = .GLB_EVT_WPTR
        · exact Or.inr fun hj => h ⟨hg, hj⟩
        · exact Or.inl hg
      · by_cases hg : e.stat = some g
        · exact Or.inr fun hj => h2 ⟨hg, hj⟩
        · exact Or.inl hg

/-- An operation raises its event on any state with the same log and clock. -/
theorem raised_raise {s u : State} (e : Ev) (a0 a1 i : Nat) (hw : u.reg .GLB_EVT_WPTR 0 = s.reg .GLB_EVT_WPTR 0)
    (hl : u.logRecs = s.logRecs) (ht : u.tim.now = s.tim.now) : Raised e a0 a1 s (u.raise e a0 a1 i) := by
  refine ⟨by rw [State.raise_wptr, hw], ?_⟩
  rw [State.raise_logRecs, hl]
  simp only [State.rn, hw, evRecord, State.sec, State.nsec, ht]

theorem Raised.keep {s u t : State} {e : Ev} {a0 a1 : Nat} (h : Raised e a0 a1 s u)
    (hw : t.reg .GLB_EVT_WPTR 0 = u.reg .GLB_EVT_WPTR 0) (hl : t.logRecs = u.logRecs) : Raised e a0 a1 s t :=
  ⟨hw.trans h.1, hl.trans h.2⟩

theorem lastEvent_raise (s : State) (e : Ev) (a0 a1 i : Nat) : LastEvent e a0 a1 (s.raise e a0 a1 i) := by
  unfold LastEvent
  rw [State.raise_wptr, State.raise_logRecs]
  have : (s.reg .GLB_EVT_WPTR 0 + 1#32 - 1#32) = s.reg .GLB_EVT_WPTR 0 := by rw [BitVec.add_sub_cancel]
  rw [this]
  simp only [evRecord, State.sec, State.nsec, State.raise_tim]
  exact SMap.find_set_self _ _ _

theorem LastEvent.keep {u t : State} {e : Ev} {a0 a1 : Nat} (h : LastEvent e a0 a1 u)
    (hw : t.reg .GLB_EVT_WPTR 0 = u.reg .GLB_EVT_WPTR 0) (hl : t.logRecs = u.logRecs) (ht : t.tim.now = u.tim.now) : LastEvent e a0 a1 t := by
  unfold LastEvent at *
  rw [hw, hl, h]; simp only [evRecord, State.sec, State.nsec, ht]

/-! ### Register frames -/

theorem regsOnly.refl (l : List (Field × Nat)) (s : State) : regsOnly l s s := fun _ _ _ => rfl

theorem regsOnly.of_regs {l : List (Field × Nat)} {s u t : State} (e : t.regs = u.regs) (h : regsOnly l s u) : regsOnly l s t := by
  intro f i hn; rw [← h f i hn]; simp only [State.reg, e]

/-- A record update that leaves the registers. -/
theorem regsOnly.mk {l : List (Field × Nat)} {s u : State} {pwr mod boot img fus mon tim hst hbm pkts nextPkt prt par cls gaz tbl flw swc tmg tsk aut sau eng mmu pkm ctrs latch logRecs limits rdVal flash freeCtr pending} (h : regsOnly l s u) :
    regsOnly l s (State.mk pwr mod boot img fus mon tim hst hbm pkts nextPkt prt par cls gaz tbl flw swc tmg tsk aut sau eng mmu pkm u.regs ctrs latch logRecs limits rdVal flash freeCtr pending) :=
  regsOnly.of_regs (u := u) rfl h

theorem regsOnly.setReg {l : List (Field × Nat)} {s u : State} (f : Field) (i : Nat) (v : BitVec 32) (hm : (f, i) ∈ l)
    (h : regsOnly l s u) : regsOnly l s (u.setReg f i v) := by
  intro g j hn
  rw [State.reg_setReg_ne, h g j hn]
  by_cases hg : g = f
  · exact Or.inr fun hj => hn (by rw [hg, hj]; exact hm)
  · exact Or.inl hg

theorem regsOnly.setN {l : List (Field × Nat)} {s u : State} (f : Field) (i n : Nat) (hm : (f, i) ∈ l)
    (h : regsOnly l s u) : regsOnly l s (u.setN f i n) := regsOnly.setReg f i _ hm h

theorem regsOnly.setB {l : List (Field × Nat)} {s u : State} (f : Field) (i : Nat) (b : Bool) (hm : (f, i) ∈ l)
    (h : regsOnly l s u) : regsOnly l s (u.setB f i b) := regsOnly.setReg f i _ hm h

theorem regsOnly.countF {l : List (Field × Nat)} {s u : State} (f : Field) (i n : Nat) (hm : (f, i) ∈ l)
    (h : regsOnly l s u) : regsOnly l s (u.countF f i n) := regsOnly.setReg f i _ hm h

theorem regsOnly.raise {l : List (Field × Nat)} {s u : State} (e : Ev) (a0 a1 i : Nat) (hm : ∀ x ∈ evRegs e i, x ∈ l)
    (h : regsOnly l s u) : regsOnly l s (u.raise e a0 a1 i) := by
  intro g j hn
  rw [State.reg_raise, if_neg, if_neg, h g j hn]
  · rintro ⟨hs, hj⟩
    exact hn (hm _ (by unfold evRegs; rw [hs, hj]; simp))
  · rintro ⟨hg, hj⟩
    exact hn (hm _ (by unfold evRegs; rw [hg, hj]; simp))

theorem regsOnly.raiseLimited {l : List (Field × Nat)} {s u : State} (e : Ev) (key ns a0 a1 i : Nat)
    (hm : ∀ x ∈ evRegs e i, x ∈ l) (h : regsOnly l s u) : regsOnly l s (u.raiseLimited e key ns a0 a1 i) := by
  unfold State.raiseLimited; dsimp only
  split
  · split
    · exact h
    · exact regsOnly.raise _ _ _ _ hm (regsOnly.of_regs rfl h)
  · exact regsOnly.raise _ _ _ _ hm (regsOnly.of_regs rfl h)

theorem reg_of_regs {s t : State} (h : t.regs = s.regs) (f i) : t.reg f i = s.reg f i := by unfold State.reg; rw [h]

theorem ite_reg (c : Prop) [Decidable c] (a b : State) (f i) : (if c then a else b).reg f i = if c then a.reg f i else b.reg f i := by split <;> rfl

theorem satAdd_lt (c a b : Nat) (h : c < 2^32) : satAdd c a b % 4294967296 = satAdd c a b := by
  unfold satAdd; split <;> omega

theorem fenced_reg (s : State) (src : Src) (f i) (h1 : f ≠ .HST_FENCED_CNT) (h2 : f ≠ .GLB_EVT_WPTR) (h3 : Ev.stat .HST_E_FENCED ≠ some f) : (s.fenced src).reg f i = s.reg f i := by
  unfold State.fenced; split
  · rw [State.reg_raiseLimited_ne _ _ _ _ _ _ _ _ _ (Or.inl h2) (Or.inl h3), State.reg_countF, if_neg (by simp [h1])]
  · rw [State.reg_raiseLimited_ne _ _ _ _ _ _ _ _ _ (Or.inl h2) (Or.inl h3)]
  · rfl

/-- A write that the guard turns away changes no register of another block. -/
theorem fenced_block (s : State) (src : Src) (f : Field) (i : Nat) (h1 : f.info.block ≠ .HST) (h2 : f.info.block ≠ .GLB) :
    (s.fenced src).reg f i = s.reg f i := by
  refine fenced_reg s src f i (fun h => h1 (by rw [h]; rfl)) (fun h => h2 (by rw [h]; rfl)) (fun h => h1 ?_)
  rw [← Option.some.inj (show some Field.HST_EVT_FENCE = some f from h)]; rfl

/-- A host's fenced write is counted. -/
theorem fenced_count (s : State) (h : Fin 4) :
    (s.fenced (.host h)).rn .HST_FENCED_CNT h.val = satAdd (fieldMax .HST_FENCED_CNT) (s.rn .HST_FENCED_CNT h.val) 1 := by
  simp only [State.fenced]
  rw [State.rn, State.reg_raiseLimited_ne _ _ _ _ _ _ _ _ _ (Or.inl (by decide)) (Or.inl (by decide)), State.reg_countF, if_pos ⟨rfl, rfl⟩]
  rw [BitVec.toNat_ofNat]
  exact satAdd_lt _ _ _ (by decide)

theorem State.held_of {s : State} {src : Src} (f : State → State) (h : s.isHolder src = true) : s.held src f = f s := by
  unfold State.held; rw [if_pos h]

theorem State.guarded_of {s : State} {src : Src} {b : Block} (f : State → State) (h : s.guard src b = true) : s.guarded src b f = f s := by
  unfold State.guarded; rw [if_pos h]

theorem State.held_not {s : State} {src : Src} (f : State → State) (h : s.isHolder src = false) : s.held src f = s.fenced src := by
  unfold State.held; rw [if_neg (by rw [h]; decide)]

theorem State.guarded_not {s : State} {src : Src} {b : Block} (f : State → State) (h : s.guard src b = false) :
    s.guarded src b f = s.fenced src := by
  unfold State.guarded; rw [if_neg (by rw [h]; decide)]

end Sys2Proof.Machine
end

