-- ==== Sys2Proof/Laws/Keep.lean ====
section
/-! SUPPORT. What no operation breaks: the queue, the fit of lease and mode, the canonical form of the stack, and every programmed fuse; with the facts about the lease and the fuse array that this rests on. -/

namespace Sys2Proof.Machine

open Sys2Proof

set_option Elab.async false

/-- What no operation breaks: from `a` to `t` the queue is the same, the lease still fits the mode, the stack is still
canonical, and no fuse is cleared. -/
structure Keep (a t : State) : Prop where
  pending : t.pending = a.pending
  lease : a.mod.leaseFits → t.mod.leaseFits
  hbm : a.hbm.wf = true → t.hbm.wf = true
  fuse : fusesKept a t

theorem Keep.refl (a : State) : Keep a a := ⟨rfl, id, id, fun _ _ h => h⟩

theorem Keep.trans {a b c : State} (h : Keep a b) (g : Keep b c) : Keep a c :=
  ⟨g.pending.trans h.pending, fun x => g.lease (h.lease x), fun x => g.hbm (h.hbm x), fun w i x => g.fuse w i (h.fuse w i x)⟩

theorem leaseFits_low (d : Mod) (m : Mode) (hl : m ≠ .run) (e1 : d.mode = m) (e2 : d.holder = none) : d.leaseFits := by
  unfold Mod.leaseFits
  rw [e1, e2]
  exact ⟨fun h => absurd h hl, fun h => absurd rfl h⟩

theorem leaseFits_none {m : Mode} {e : BitVec 32} {n : Nat} {r : Option Trans} (hl : m ≠ .run) : (Mod.mk m none e n r).leaseFits :=
  leaseFits_low _ m hl rfl rfl

theorem leaseFits_reset : State.reset.mod.leaseFits := leaseFits_none (by decide)

theorem fusesKept_put (m : SMap (BitVec 32)) (k : Nat) (v : BitVec 32) (w i : Nat)
    (h : (m.get 0#32 w).getLsbD i = true) : ((m.put 0#32 k (m.get 0#32 k ||| v)).get 0#32 w).getLsbD i = true := by
  rw [SMap.get_put]
  split
  · rename_i e; subst e; simp [h]
  · exact h

theorem fusesKept_or (m : SMap (BitVec 32)) (k : Nat) (v : BitVec 32) :
    ∀ w i : Nat, (m.get 0#32 w).getLsbD i = true → ((m.put 0#32 k (m.get 0#32 k ||| v)).get 0#32 w).getLsbD i = true :=
  fusesKept_put m k v

theorem fusesKept_flags (l : List Nat) (m : SMap (BitVec 32)) :
    ∀ w i : Nat, (m.get 0#32 w).getLsbD i = true →
      ((l.foldl (fun m i => burnFlag (burnFlag m 224 i) 240 i) m).get 0#32 w).getLsbD i = true := by
  induction l generalizing m with
  | nil => exact fun _ _ h => h
  | cons x t ih =>
    intro w i h
    exact ih _ w i (fusesKept_put _ _ _ _ _ (fusesKept_put _ _ _ _ _ h))

theorem leaseFits_modEnd (d : Mod) (h : d.leaseFits) : (modEnd d).leaseFits := by
  unfold modEnd Mod.leaseFits at *
  cases hh : d.holder with
  | none => simpa [hh] using h
  | some x => cases hm : d.mode <;> simp

theorem leaseFits_modGrant (d : Mod) (x : Fin 4) (n : Nat) (h : d.leaseFits) : (modGrant d x n).leaseFits := by
  unfold modGrant
  split
  · rename_i hm; simp [Mod.leaseFits, hm, leasable]
  · split
    · simp [Mod.leaseFits, leasable]
    · exact h

theorem leaseFits_modEnter (d : Mod) (m : Mode) : (modEnter d m).leaseFits := by
  unfold modEnter modEnd Mod.leaseFits
  cases m <;> cases hh : d.holder <;> simp [leasable, hh]

/-- The save area written over keeps the canonical form: nothing is listed there (R63). -/
theorem wf_writeSave (h : Hbm) (n : Nat) (hw : h.wf = true) : (h.writeSave n).wf = true := by
  unfold Hbm.wf Hbm.writeSave at *
  simp only [Bool.and_eq_true, List.all_eq_true, Bool.or_eq_true, Bool.not_eq_true', decide_eq_true_eq] at *
  refine ⟨SMap.rising_filter _ _ _ hw.1, fun e he => ?_⟩
  obtain ⟨hm, hlt⟩ := List.mem_filter.mp he
  have hlt : ¬ saveBase ≤ e.1 := by simpa using hlt
  have := hw.2 e hm
  simpa [Hbm.zeroAt, Hbm.saved, hlt] using this

/-- The save written with the controller off keeps the canonical form. -/
theorem wf_saved (h : Hbm) (n : Nat) (hw : h.wf = true) : (h.controllerOff.writeSave n).wf = true := wf_writeSave _ n hw

/-- A change of the stack that touches none of what its canonical form speaks of. -/
theorem wf_same {h t : Hbm} (e1 : t.bytes = h.bytes) (e2 : t.filled = h.filled) (e3 : t.save = h.save) (hw : h.wf = true) : t.wf = true := by
  unfold Hbm.wf Hbm.zeroAt Hbm.saved at *; rw [e1, e2, e3]; exact hw

/-- A write of the stack. -/
theorem wf_put {h t : Hbm} (a : Nat) (l : List Byte) (e1 : t.bytes = (h.putBytes a l).bytes) (e2 : t.filled = (h.putBytes a l).filled)
    (e3 : t.save = (h.putBytes a l).save) (hw : h.wf = true) : t.wf = true := wf_same e1 e2 e3 (Hbm.wf_putBytes l h a hw)

/-- A stack that lists nothing. -/
theorem wf_nil {t : Hbm} (e : t.bytes = []) : t.wf = true := by unfold Hbm.wf; rw [e]; rfl

/-- A change of the mode register block beside the mode and the holder. -/
theorem lease_same {d e : Mod} (e1 : e.mode = d.mode) (e2 : e.holder = d.holder) (h : d.leaseFits) : e.leaseFits := by
  unfold Mod.leaseFits at *; rw [e1, e2]; exact h

/-- A change of the fuse unit beside the array. -/
theorem fuse_same {f g : Fus} (e : g.array = f.array) (w i : Nat) (h : (f.array.get 0#32 w).getLsbD i = true) :
    (g.array.get 0#32 w).getLsbD i = true := by rw [e]; exact h

/-- A free fuse word is programmed. -/
theorem fusesKept_free (m : SMap (BitVec 32)) (k : Nat) (v : BitVec 32) (h0 : m.get 0#32 k = 0#32) (w i : Nat)
    (h : (m.get 0#32 w).getLsbD i = true) : ((m.put 0#32 k v).get 0#32 w).getLsbD i = true := by
  rw [SMap.get_put]
  split
  · rename_i e; subst e; rw [h0] at h; simp at h
  · exact h

/-- Bytes taken out of the list keep the canonical form. -/
theorem wf_cut {h t : Hbm} (q : Nat × Byte → Bool) (e1 : t.bytes = h.bytes.filter q) (e2 : t.filled = h.filled) (e3 : t.save = h.save)
    (hw : h.wf = true) : t.wf = true := by
  have hz : ∀ x, t.zeroAt x = h.zeroAt x := fun x => by simp [Hbm.zeroAt, Hbm.saved, e2, e3]
  unfold Hbm.wf at *
  simp only [Bool.and_eq_true, List.all_eq_true] at *
  rw [e1]
  exact ⟨SMap.rising_filter _ _ _ hw.1, fun e he => by rw [hz]; exact hw.2 e (List.mem_filter.mp he).1⟩

end Sys2Proof.Machine
end

