-- ==== Sys2Proof/Laws/Only.lean ====
section
/-! SUPPORT. What an operation does, as one relation between the state before and after: it changes no part whose bit is not in a mask, and it breaks none of what Keep lists. The relation composes, so each operation has one lemma that cites those of the operations it calls; changesOnly_of turns it into a statement about a list of parts. -/

namespace Sys2Proof.Machine

open Sys2Proof

set_option linter.all false
set_option Elab.async false

/-- Bit of a part in a mask. -/
def Part.idx : Part → Nat
  | .pwr => 0
  | .mod => 1
  | .boot => 2
  | .img => 3
  | .fus => 4
  | .mon => 5
  | .tim => 6
  | .hst => 7
  | .hbm => 8
  | .pkts => 9
  | .nextPkt => 10
  | .prt => 11
  | .par => 12
  | .cls => 13
  | .gaz => 14
  | .tbl => 15
  | .flw => 16
  | .swc => 17
  | .tmg => 18
  | .tsk => 19
  | .aut => 20
  | .sau => 21
  | .eng => 22
  | .mmu => 23
  | .pkm => 24
  | .latch => 27
  | .logRecs => 28
  | .limits => 29
  | .rdVal => 30
  | .flash => 31
  | .freeCtr => 32
  | .pending => 33
  | .reg b => 34 + b.ctorIdx
  | .ctr b => 53 + b.ctorIdx

/-- Mask of a list of parts. -/
def pmask : List Part → Nat
  | [] => 0
  | p :: l => 2 ^ p.idx ||| pmask l

/-- From `a` to `t` nothing changes but parts whose bit is in the mask, and nothing breaks that Keep lists. -/
structure Only (m : Nat) (a t : State) : Prop where
  frame : ∀ p : Part, m.testBit p.idx = false → p.same a t
  keep : Keep a t

theorem Only.refl (m : Nat) (a : State) : Only m a a := ⟨by intro p _; cases p <;> simp [Part.same], Keep.refl a⟩

theorem mask_trans {x y m : Nat} (h : x ||| y = y) (g : y ||| m = m) : x ||| m = m := by
  apply Nat.eq_of_testBit_eq; intro i
  have h1 := congrArg (fun n => n.testBit i) h
  have h2 := congrArg (fun n => n.testBit i) g
  simp only [Nat.testBit_or] at *
  revert h1 h2; cases x.testBit i <;> cases y.testBit i <;> cases m.testBit i <;> simp

theorem bit_of {y m i : Nat} (g : y ||| m = m) (h : y.testBit i = true) : m.testBit i = true := by
  rw [← g, Nat.testBit_or, h, Bool.true_or]

theorem Part.idx_inj (p q : Part) (h : p.idx = q.idx) : p = q := by
  have hb : ∀ b : Block, b.ctorIdx < 19 := by intro b; cases b <;> decide
  have hi : ∀ b c : Block, b.ctorIdx = c.ctorIdx → b = c := by
    intro b c e; rw [← Block.ofNat_ctorIdx b, ← Block.ofNat_ctorIdx c, e]
  cases p <;> cases q <;> simp only [Part.idx] at h <;> first
    | rfl
    | exact absurd h (by decide)
    | (rename_i b c; have := hb b; have := hb c; first | exact absurd h (by omega) | (rw [hi b c (by omega)]))
    | (rename_i b; have := hb b; omega)

theorem testBit_pmask (l : List Part) (p : Part) : (pmask l).testBit p.idx = true ↔ p ∈ l := by
  induction l with
  | nil => simp [pmask]
  | cons q l ih =>
    unfold pmask
    rw [Nat.testBit_or, Bool.or_eq_true, ih, List.mem_cons, Nat.testBit_two_pow]
    simp only [decide_eq_true_eq]
    constructor
    · rintro (h | h)
      · exact Or.inl (Part.idx_inj _ _ h.symm)
      · exact Or.inr h
    · rintro (h | h)
      · exact Or.inl (by rw [h])
      · exact Or.inr h

/-- A frame by mask is a frame by list. -/
theorem changesOnly_of {m : Nat} {l : List Part} {a t : State} (e : m ||| pmask l = pmask l) (h : Only m a t) : changesOnly l a t := by
  intro p hp
  refine h.frame p ?_
  cases hm : m.testBit p.idx
  · rfl
  · exact absurd ((testBit_pmask l p).mp (bit_of e hm)) hp

/-- A state that differs in none of what is kept. -/
theorem keep_upd {a s t : State} (h : Keep a s) (e1 : t.pending = s.pending) (e2 : t.mod = s.mod) (e3 : t.hbm = s.hbm)
    (e4 : t.fus = s.fus) : Keep a t :=
  ⟨e1.trans h.pending, fun x => by rw [e2]; exact h.lease x, fun x => by rw [e3]; exact h.hbm x,
    fun w i x => by rw [e4]; exact h.fuse w i x⟩

/-- A record update: each part is one the mask admits, or as before; the parts that Keep speaks of change as it asks. -/
theorem only_mk {m : Nat} {a s : State} {pwr mod boot img fus mon tim hst hbm pkts nextPkt prt par cls gaz tbl flw swc tmg tsk aut sau eng mmu pkm regs ctrs latch logRecs limits rdVal flash freeCtr pending}
    (h : Only m a s) (e33 : pending = s.pending)
    (e0 : m.testBit 0 = true ∨ pwr = s.pwr)
    (e1 : (m.testBit 1 = true ∧ (s.mod.leaseFits → mod.leaseFits)) ∨ mod = s.mod)
    (e2 : m.testBit 2 = true ∨ boot = s.boot)
    (e3 : m.testBit 3 = true ∨ img = s.img)
    (e4 : (m.testBit 4 = true ∧ ∀ w i : Nat, (s.fus.array.get 0#32 w).getLsbD i = true → (fus.array.get 0#32 w).getLsbD i = true) ∨ fus = s.fus)
    (e5 : m.testBit 5 = true ∨ mon = s.mon)
    (e6 : m.testBit 6 = true ∨ tim = s.tim)
    (e7 : m.testBit 7 = true ∨ hst = s.hst)
    (e8 : (m.testBit 8 = true ∧ (s.hbm.wf = true → hbm.wf = true)) ∨ hbm = s.hbm)
    (e9 : m.testBit 9 = true ∨ pkts = s.pkts)
    (e10 : m.testBit 10 = true ∨ nextPkt = s.nextPkt)
    (e11 : m.testBit 11 = true ∨ prt = s.prt)
    (e12 : m.testBit 12 = true ∨ par = s.par)
    (e13 : m.testBit 13 = true ∨ cls = s.cls)
    (e14 : m.testBit 14 = true ∨ gaz = s.gaz)
    (e15 : m.testBit 15 = true ∨ tbl = s.tbl)
    (e16 : m.testBit 16 = true ∨ flw = s.flw)
    (e17 : m.testBit 17 = true ∨ swc = s.swc)
    (e18 : m.testBit 18 = true ∨ tmg = s.tmg)
    (e19 : m.testBit 19 = true ∨ tsk = s.tsk)
    (e20 : m.testBit 20 = true ∨ aut = s.aut)
    (e21 : m.testBit 21 = true ∨ sau = s.sau)
    (e22 : m.testBit 22 = true ∨ eng = s.eng)
    (e23 : m.testBit 23 = true ∨ mmu = s.mmu)
    (e24 : m.testBit 24 = true ∨ pkm = s.pkm)
    (e25 : (∀ b : Block, m.testBit (34 + b.ctorIdx) = true) ∨ regs = s.regs)
    (e26 : (∀ b : Block, m.testBit (53 + b.ctorIdx) = true) ∨ ctrs = s.ctrs)
    (e27 : m.testBit 27 = true ∨ latch = s.latch)
    (e28 : m.testBit 28 = true ∨ logRecs = s.logRecs)
    (e29 : m.testBit 29 = true ∨ limits = s.limits)
    (e30 : m.testBit 30 = true ∨ rdVal = s.rdVal)
    (e31 : m.testBit 31 = true ∨ flash = s.flash)
    (e32 : m.testBit 32 = true ∨ freeCtr = s.freeCtr)
    : Only m a (State.mk pwr mod boot img fus mon tim hst hbm pkts nextPkt prt par cls gaz tbl flw swc tmg tsk aut sau eng mmu pkm regs ctrs latch logRecs limits rdVal flash freeCtr pending) := by
  refine ⟨fun p hp => ?_, ⟨e33.trans h.keep.pending, fun x => ?_, fun x => ?_, fun w i x => ?_⟩⟩
  rotate_left
  · rcases e1 with ⟨-, e⟩ | e
    · exact e (h.keep.lease x)
    · dsimp only; rw [e]; exact h.keep.lease x
  · rcases e8 with ⟨-, e⟩ | e
    · exact e (h.keep.hbm x)
    · dsimp only; rw [e]; exact h.keep.hbm x
  · rcases e4 with ⟨-, e⟩ | e
    · exact e w i (h.keep.fuse w i x)
    · dsimp only; rw [e]; exact h.keep.fuse w i x
  have hs := h.frame p hp
  cases p <;> simp only [Part.same, Part.idx] at * <;> first
    | exact e33.trans hs
    | (rename_i b; rcases e25 with e | e
       · exact absurd ((e b).symm.trans hp) (by decide)
       · intro f i hf; rw [← hs f i hf]; unfold State.reg; rw [e])
    | (rename_i b; rcases e26 with e | e
       · exact absurd ((e b).symm.trans hp) (by decide)
       · intro f i hf; rw [← hs f i hf]; unfold State.ctr; rw [e])
    | exact Or.elim e0 (fun e => absurd (e.symm.trans hp) (by decide)) (fun e => e.trans hs)
    | exact Or.elim e1 (fun e => absurd (e.1.symm.trans hp) (by decide)) (fun e => e.trans hs)
    | exact Or.elim e2 (fun e => absurd (e.symm.trans hp) (by decide)) (fun e => e.trans hs)
    | exact Or.elim e3 (fun e => absurd (e.symm.trans hp) (by decide)) (fun e => e.trans hs)
    | exact Or.elim e4 (fun e => absurd (e.1.symm.trans hp) (by decide)) (fun e => e.trans hs)
    | exact Or.elim e5 (fun e => absurd (e.symm.trans hp) (by decide)) (fun e => e.trans hs)
    | exact Or.elim e6 (fun e => absurd (e.symm.trans hp) (by decide)) (fun e => e.trans hs)
    | exact Or.elim e7 (fun e => absurd (e.symm.trans hp) (by decide)) (fun e => e.trans hs)
    | exact Or.elim e8 (fun e => absurd (e.1.symm.trans hp) (by decide)) (fun e => e.trans hs)
    | exact Or.elim e9 (fun e => absurd (e.symm.trans hp) (by decide)) (fun e => e.trans hs)
    | exact Or.elim e10 (fun e => absurd (e.symm.trans hp) (by decide)) (fun e => e.trans hs)
    | exact Or.elim e11 (fun e => absurd (e.symm.trans hp) (by decide)) (fun e => e.trans hs)
    | exact Or.elim e12 (fun e => absurd (e.symm.trans hp) (by decide)) (fun e => e.trans hs)
    | exact Or.elim e13 (fun e => absurd (e.symm.trans hp) (by decide)) (fun e => e.trans hs)
    | exact Or.elim e14 (fun e => absurd (e.symm.trans hp) (by decide)) (fun e => e.trans hs)
    | exact Or.elim e15 (fun e => absurd (e.symm.trans hp) (by decide)) (fun e => e.trans hs)
    | exact Or.elim e16 (fun e => absurd (e.symm.trans hp) (by decide)) (fun e => e.trans hs)
    | exact Or.elim e17 (fun e => absurd (e.symm.trans hp) (by decide)) (fun e => e.trans hs)
    | exact Or.elim e18 (fun e => absurd (e.symm.trans hp) (by decide)) (fun e => e.trans hs)
    | exact Or.elim e19 (fun e => absurd (e.symm.trans hp) (by decide)) (fun e => e.trans hs)
    | exact Or.elim e20 (fun e => absurd (e.symm.trans hp) (by decide)) (fun e => e.trans hs)
    | exact Or.elim e21 (fun e => absurd (e.symm.trans hp) (by decide)) (fun e => e.trans hs)
    | exact Or.elim e22 (fun e => absurd (e.symm.trans hp) (by decide)) (fun e => e.trans hs)
    | exact Or.elim e23 (fun e => absurd (e.symm.trans hp) (by decide)) (fun e => e.trans hs)
    | exact Or.elim e24 (fun e => absurd (e.symm.trans hp) (by decide)) (fun e => e.trans hs)
    | exact Or.elim e27 (fun e => absurd (e.symm.trans hp) (by decide)) (fun e => e.trans hs)
    | exact Or.elim e28 (fun e => absurd (e.symm.trans hp) (by decide)) (fun e => e.trans hs)
    | exact Or.elim e29 (fun e => absurd (e.symm.trans hp) (by decide)) (fun e => e.trans hs)
    | exact Or.elim e30 (fun e => absurd (e.symm.trans hp) (by decide)) (fun e => e.trans hs)
    | exact Or.elim e31 (fun e => absurd (e.symm.trans hp) (by decide)) (fun e => e.trans hs)
    | exact Or.elim e32 (fun e => absurd (e.symm.trans hp) (by decide)) (fun e => e.trans hs)

/-! ### Updates of one part -/

theorem only_set_pwr {m : Nat} {a s : State} {x} (hm : m.testBit 0 = true) (h : Only m a s) :
    Only m a { s with pwr := x } := by
  apply only_mk h rfl <;> first | exact Or.inr rfl | exact Or.inl hm

theorem only_set_mod {m : Nat} {a s : State} {x} (hm : m.testBit 1 = true) (hl : s.mod.leaseFits → x.leaseFits) (h : Only m a s) :
    Only m a { s with mod := x } := by
  apply only_mk h rfl <;> first | exact Or.inr rfl | exact Or.inl ⟨hm, hl⟩

theorem only_set_boot {m : Nat} {a s : State} {x} (hm : m.testBit 2 = true) (h : Only m a s) :
    Only m a { s with boot := x } := by
  apply only_mk h rfl <;> first | exact Or.inr rfl | exact Or.inl hm

theorem only_set_img {m : Nat} {a s : State} {x} (hm : m.testBit 3 = true) (h : Only m a s) :
    Only m a { s with img := x } := by
  apply only_mk h rfl <;> first | exact Or.inr rfl | exact Or.inl hm

theorem only_set_fus {m : Nat} {a s : State} {x} (hm : m.testBit 4 = true) (hl : ∀ w i : Nat, (s.fus.array.get 0#32 w).getLsbD i = true → (x.array.get 0#32 w).getLsbD i = true) (h : Only m a s) :
    Only m a { s with fus := x } := by
  apply only_mk h rfl <;> first | exact Or.inr rfl | exact Or.inl ⟨hm, hl⟩

theorem only_set_mon {m : Nat} {a s : State} {x} (hm : m.testBit 5 = true) (h : Only m a s) :
    Only m a { s with mon := x } := by
  apply only_mk h rfl <;> first | exact Or.inr rfl | exact Or.inl hm

theorem only_set_tim {m : Nat} {a s : State} {x} (hm : m.testBit 6 = true) (h : Only m a s) :
    Only m a { s with tim := x } := by
  apply only_mk h rfl <;> first | exact Or.inr rfl | exact Or.inl hm

theorem only_set_hst {m : Nat} {a s : State} {x} (hm : m.testBit 7 = true) (h : Only m a s) :
    Only m a { s with hst := x } := by
  apply only_mk h rfl <;> first | exact Or.inr rfl | exact Or.inl hm

theorem only_set_hbm {m : Nat} {a s : State} {x} (hm : m.testBit 8 = true) (hl : s.hbm.wf = true → x.wf = true) (h : Only m a s) :
    Only m a { s with hbm := x } := by
  apply only_mk h rfl <;> first | exact Or.inr rfl | exact Or.inl ⟨hm, hl⟩

theorem only_set_pkts {m : Nat} {a s : State} {x} (hm : m.testBit 9 = true) (h : Only m a s) :
    Only m a { s with pkts := x } := by
  apply only_mk h rfl <;> first | exact Or.inr rfl | exact Or.inl hm

theorem only_set_nextPkt {m : Nat} {a s : State} {x} (hm : m.testBit 10 = true) (h : Only m a s) :
    Only m a { s with nextPkt := x } := by
  apply only_mk h rfl <;> first | exact Or.inr rfl | exact Or.inl hm

theorem only_set_prt {m : Nat} {a s : State} {x} (hm : m.testBit 11 = true) (h : Only m a s) :
    Only m a { s with prt := x } := by
  apply only_mk h rfl <;> first | exact Or.inr rfl | exact Or.inl hm

theorem only_set_par {m : Nat} {a s : State} {x} (hm : m.testBit 12 = true) (h : Only m a s) :
    Only m a { s with par := x } := by
  apply only_mk h rfl <;> first | exact Or.inr rfl | exact Or.inl hm

theorem only_set_cls {m : Nat} {a s : State} {x} (hm : m.testBit 13 = true) (h : Only m a s) :
    Only m a { s with cls := x } := by
  apply only_mk h rfl <;> first | exact Or.inr rfl | exact Or.inl hm

theorem only_set_gaz {m : Nat} {a s : State} {x} (hm : m.testBit 14 = true) (h : Only m a s) :
    Only m a { s with gaz := x } := by
  apply only_mk h rfl <;> first | exact Or.inr rfl | exact Or.inl hm

theorem only_set_tbl {m : Nat} {a s : State} {x} (hm : m.testBit 15 = true) (h : Only m a s) :
    Only m a { s with tbl := x } := by
  apply only_mk h rfl <;> first | exact Or.inr rfl | exact Or.inl hm

theorem only_set_flw {m : Nat} {a s : State} {x} (hm : m.testBit 16 = true) (h : Only m a s) :
    Only m a { s with flw := x } := by
  apply only_mk h rfl <;> first | exact Or.inr rfl | exact Or.inl hm

theorem only_set_swc {m : Nat} {a s : State} {x} (hm : m.testBit 17 = true) (h : Only m a s) :
    Only m a { s with swc := x } := by
  apply only_mk h rfl <;> first | exact Or.inr rfl | exact Or.inl hm

theorem only_set_tmg {m : Nat} {a s : State} {x} (hm : m.testBit 18 = true) (h : Only m a s) :
    Only m a { s with tmg := x } := by
  apply only_mk h rfl <;> first | exact Or.inr rfl | exact Or.inl hm

theorem only_set_tsk {m : Nat} {a s : State} {x} (hm : m.testBit 19 = true) (h : Only m a s) :
    Only m a { s with tsk := x } := by
  apply only_mk h rfl <;> first | exact Or.inr rfl | exact Or.inl hm

theorem only_set_aut {m : Nat} {a s : State} {x} (hm : m.testBit 20 = true) (h : Only m a s) :
    Only m a { s with aut := x } := by
  apply only_mk h rfl <;> first | exact Or.inr rfl | exact Or.inl hm

theorem only_set_sau {m : Nat} {a s : State} {x} (hm : m.testBit 21 = true) (h : Only m a s) :
    Only m a { s with sau := x } := by
  apply only_mk h rfl <;> first | exact Or.inr rfl | exact Or.inl hm

theorem only_set_eng {m : Nat} {a s : State} {x} (hm : m.testBit 22 = true) (h : Only m a s) :
    Only m a { s with eng := x } := by
  apply only_mk h rfl <;> first | exact Or.inr rfl | exact Or.inl hm

theorem only_set_mmu {m : Nat} {a s : State} {x} (hm : m.testBit 23 = true) (h : Only m a s) :
    Only m a { s with mmu := x } := by
  apply only_mk h rfl <;> first | exact Or.inr rfl | exact Or.inl hm

theorem only_set_pkm {m : Nat} {a s : State} {x} (hm : m.testBit 24 = true) (h : Only m a s) :
    Only m a { s with pkm := x } := by
  apply only_mk h rfl <;> first | exact Or.inr rfl | exact Or.inl hm

theorem only_set_latch {m : Nat} {a s : State} {x} (hm : m.testBit 27 = true) (h : Only m a s) :
    Only m a { s with latch := x } := by
  apply only_mk h rfl <;> first | exact Or.inr rfl | exact Or.inl hm

theorem only_set_logRecs {m : Nat} {a s : State} {x} (hm : m.testBit 28 = true) (h : Only m a s) :
    Only m a { s with logRecs := x } := by
  apply only_mk h rfl <;> first | exact Or.inr rfl | exact Or.inl hm

theorem only_set_limits {m : Nat} {a s : State} {x} (hm : m.testBit 29 = true) (h : Only m a s) :
    Only m a { s with limits := x } := by
  apply only_mk h rfl <;> first | exact Or.inr rfl | exact Or.inl hm

theorem only_set_rdVal {m : Nat} {a s : State} {x} (hm : m.testBit 30 = true) (h : Only m a s) :
    Only m a { s with rdVal := x } := by
  apply only_mk h rfl <;> first | exact Or.inr rfl | exact Or.inl hm

theorem only_set_flash {m : Nat} {a s : State} {x} (hm : m.testBit 31 = true) (h : Only m a s) :
    Only m a { s with flash := x } := by
  apply only_mk h rfl <;> first | exact Or.inr rfl | exact Or.inl hm

theorem only_set_freeCtr {m : Nat} {a s : State} {x} (hm : m.testBit 32 = true) (h : Only m a s) :
    Only m a { s with freeCtr := x } := by
  apply only_mk h rfl <;> first | exact Or.inr rfl | exact Or.inl hm

/-- A chain of changes. -/
theorem Only.trans {m : Nat} {a b c : State} (h : Only m a b) (g : Only m b c) : Only m a c := by
  refine ⟨fun p hp => ?_, h.keep.trans g.keep⟩
  have h1 := h.frame p hp
  have h2 := g.frame p hp
  cases p <;> simp only [Part.same] at * <;> first
    | exact h2.trans h1
    | exact fun f i hf => (h2 f i hf).trans (h1 f i hf)

theorem only_id {m : Nat} {a s : State} (h : Only m a s) : Only m a (id s) := h

/-- Where every part may change, nothing more is to be shown than what Keep asks. -/
theorem only_full {m : Nat} {a t : State} (hm : 0xFFFFFFFFFFFFFFFFFF ||| m = m) (h : Keep a t) : Only m a t := by
  refine ⟨fun p hp => ?_, h⟩
  exfalso
  have hb : ∀ b : Block, b.ctorIdx < 19 := by intro b; cases b <;> decide
  have h72 : p.idx < 72 := by
    cases p <;> simp only [Part.idx] <;> first | decide | (rename_i b; have := hb b; omega)
  have : m.testBit p.idx = true := bit_of hm (by
    have : (0xFFFFFFFFFFFFFFFFFF : Nat) = 2 ^ 72 - 1 := by decide
    rw [this, Nat.testBit_two_pow_sub_one]; simpa using h72)
  rw [this] at hp; exact absurd hp (by decide)

/-- The outcome of a meaning, where it is a next state. -/
def OnlyR (m : Nat) (a : State) (r : Res) : Prop := ∀ t, r = .next t → Only m a t

/-- The state an operation may answer. -/
def OnlyO (m : Nat) (a : State) (o : Option State) : Prop := ∀ t, o = some t → Only m a t

theorem onlyR_next {m : Nat} {a t : State} (h : Only m a t) : OnlyR m a (.next t) := by
  intro u hu; cases hu; exact h

theorem onlyO_some {m : Nat} {a t : State} (h : Only m a t) : OnlyO m a (some t) := by
  intro u hu; cases hu; exact h

theorem onlyO_none {m : Nat} {a : State} : OnlyO m a none := by intro u hu; cases hu

theorem only_opt {m : Nat} {a t : State} {o : Option State} (e : o = some t) (h : OnlyO m a o) : Only m a t := h t e

theorem only_res {m : Nat} {a t : State} {r : Res} (e : r = .next t) (h : OnlyR m a r) : Only m a t := h t e

theorem only_getD {m : Nat} {a s : State} {o : Option State} (h : OnlyO m a o) (g : Only m a s) : Only m a (o.getD s) := by
  cases o with
  | none => exact g
  | some t => exact h t rfl

theorem only_snd {m : Nat} {a s : State} {β : Type} {p : β × State} {x : β} (e : p = (x, s)) (h : Only m a p.2) : Only m a s := by
  subst e; exact h

theorem only_fst {m : Nat} {a s : State} {β : Type} {p : State × β} {x : β} (e : p = (s, x)) (h : Only m a p.1) : Only m a s := by
  subst e; exact h

theorem only_trd {m : Nat} {a s : State} {β γ : Type} {p : β × γ × State} {x : β} {y : γ} (e : p = (x, y, s)) (h : Only m a p.2.2) : Only m a s := by
  subst e; exact h

theorem only_fth {m : Nat} {a s : State} {β γ δ : Type} {p : β × γ × δ × State} {x : β} {y : γ} {z : δ} (e : p = (x, y, z, s))
    (h : Only m a p.2.2.2) : Only m a s := by
  subst e; exact h

theorem only_ite {m : Nat} {a s t : State} {c : Prop} [Decidable c] (h : Only m a s) (g : Only m a t) : Only m a (if c then s else t) := by
  split <;> assumption

theorem only_ite_snd {m : Nat} {a : State} {β : Type} {p q : β × State} {c : Prop} [Decidable c] (h : Only m a p.2) (g : Only m a q.2) :
    Only m a (if c then p else q).2 := by
  split <;> assumption

theorem only_ite_fst {m : Nat} {a : State} {β : Type} {p q : State × β} {c : Prop} [Decidable c] (h : Only m a p.1) (g : Only m a q.1) :
    Only m a (if c then p else q).1 := by
  split <;> assumption

theorem onlyR_ite {m : Nat} {a : State} {s t : Res} {c : Prop} [Decidable c] (h : OnlyR m a s) (g : OnlyR m a t) : OnlyR m a (if c then s else t) := by
  split <;> assumption

theorem onlyO_ite {m : Nat} {a : State} {s t : Option State} {c : Prop} [Decidable c] (h : OnlyO m a s) (g : OnlyO m a t) :
    OnlyO m a (if c then s else t) := by
  split <;> assumption

theorem only_foldl {m : Nat} {a s : State} {β : Type} {l : List β} {g : State → β → State} (hg : ∀ s x, Only m a s → Only m a (g s x))
    (h : Only m a s) : Only m a (l.foldl g s) := by
  induction l generalizing s with
  | nil => exact h
  | cons x t ih => exact ih (hg s x h)

theorem only_foldl_snd {m : Nat} {a : State} {β γ : Type} {l : List β} {g : γ × State → β → γ × State} {p : γ × State}
    (hg : ∀ c s x, Only m a s → Only m a (g (c, s) x).2) (h : Only m a p.2) : Only m a (l.foldl g p).2 := by
  induction l generalizing p with
  | nil => exact h
  | cons x t ih => exact ih (hg p.1 p.2 x h)

theorem only_foldl_fst {m : Nat} {a : State} {β γ : Type} {l : List β} {g : State × γ → β → State × γ} {p : State × γ}
    (hg : ∀ c s x, Only m a s → Only m a (g (s, c) x).1) (h : Only m a p.1) : Only m a (l.foldl g p).1 := by
  induction l generalizing p with
  | nil => exact h
  | cons x t ih => exact ih (hg p.2 p.1 x h)

theorem only_foldl_trd {m : Nat} {a : State} {β γ δ : Type} {l : List β} {g : γ × δ × State → β → γ × δ × State} {p : γ × δ × State}
    (hg : ∀ c d s x, Only m a s → Only m a (g (c, d, s) x).2.2) (h : Only m a p.2.2) : Only m a (l.foldl g p).2.2 := by
  induction l generalizing p with
  | nil => exact h
  | cons x t ih => exact ih (hg p.1 p.2.1 p.2.2 x h)

/-! ### The named operations -/

/-- Mask of a field's registers, of a counter, of what an event changes. -/
def fieldMask (f : Field) : Nat := 2 ^ (Part.reg f.info.block).idx
def ctrMask (c : Ctr) : Nat := 2 ^ (Part.ctr c.info.block).idx
def evMask (e : Ev) : Nat :=
  2 ^ Part.logRecs.idx ||| 2 ^ Part.hst.idx ||| fieldMask .GLB_EVT_WPTR ||| (match e.stat with
    | some f => fieldMask f
    | none => 0)

theorem bits_of {y m i : Nat} (g : y ||| m = m) (h : (List.range 19).all (fun k => y.testBit (i + k)) = true) :
    ∀ b : Block, m.testBit (i + b.ctorIdx) = true := by
  have hb : ∀ b : Block, b.ctorIdx < 19 := by intro b; cases b <;> decide
  intro b
  exact bit_of g (by
    rw [List.all_eq_true] at h
    exact h _ (List.mem_range.mpr (hb b)))

theorem mask_symL {x y m : Nat} (h : x ||| y ||| m = m) : x ||| m = m := by
  refine mask_trans ?_ h
  apply Nat.eq_of_testBit_eq; intro i
  simp only [Nat.testBit_or]; cases x.testBit i <;> cases y.testBit i <;> simp

theorem mask_symR {x y m : Nat} (h : x ||| y ||| m = m) : y ||| m = m := by
  refine mask_trans ?_ h
  apply Nat.eq_of_testBit_eq; intro i
  simp only [Nat.testBit_or]; cases x.testBit i <;> cases y.testBit i <;> simp

/-- All registers, all counters, and what any event may change. -/
def allRegs : Nat := 0x1ffffc00000000
def allCtrs : Nat := 0xffffe0000000000000
def allEv : Nat := 0x1ffffc10000080

theorem fieldMask_all (f : Field) : fieldMask f ||| allRegs = allRegs := by
  unfold fieldMask; cases f.info.block <;> decide

theorem ctrMask_all (c : Ctr) : ctrMask c ||| allCtrs = allCtrs := by
  unfold ctrMask; cases c.info.block <;> decide

theorem blockMask_all (b : Block) : 2 ^ (Part.ctr b).idx ||| allCtrs = allCtrs := by cases b <;> decide

theorem mask_or {x y m : Nat} (h : x ||| m = m) (g : y ||| m = m) : (x ||| y) ||| m = m := by
  apply Nat.eq_of_testBit_eq; intro i
  have h1 := congrArg (fun n => n.testBit i) h
  have h2 := congrArg (fun n => n.testBit i) g
  simp only [Nat.testBit_or] at *
  revert h1 h2; cases x.testBit i <;> cases y.testBit i <;> cases m.testBit i <;> simp

theorem evMask_all (e : Ev) : evMask e ||| allEv = allEv := by
  unfold evMask
  have hr : allRegs ||| allEv = allEv := by decide
  refine mask_or (mask_or (mask_or (by decide) (by decide)) (mask_trans (fieldMask_all _) hr)) ?_
  cases e.stat with
  | none => simp
  | some f => exact mask_trans (fieldMask_all f) hr

/-- Mask of a list of fields. -/
def fieldsMask : List Field → Nat
  | [] => 0
  | f :: l => fieldMask f ||| fieldsMask l

theorem fieldsMask_all (l : List Field) : fieldsMask l ||| allRegs = allRegs := by
  induction l with
  | nil => simp [fieldsMask]
  | cons f l ih => exact mask_or (fieldMask_all f) ih

theorem only_setReg {m : Nat} {a s : State} (f i v) (hm : fieldMask f ||| m = m) (h : Only m a s) : Only m a (s.setReg f i v) := by
  refine ⟨?_, keep_upd h.keep (by simp) (by simp) (by simp) (by simp)⟩
  intro p hp
  have hs := h.frame p hp
  cases p <;> simp only [Part.same] at * <;> first
    | exact hs
    | (rename_i b
       intro g j hg
       rw [← hs g j hg]
       refine State.reg_setReg_ne _ _ _ _ _ _ (Or.inl fun e => ?_)
       subst e; subst hg
       rw [bit_of hm (by unfold fieldMask; rw [Nat.testBit_two_pow]; simp)] at hp
       exact absurd hp (by decide))

theorem only_setN {m : Nat} {a s : State} (f i n) (hm : fieldMask f ||| m = m) (h : Only m a s) : Only m a (s.setN f i n) :=
  only_setReg f i _ hm h

theorem only_setB {m : Nat} {a s : State} (f i b) (hm : fieldMask f ||| m = m) (h : Only m a s) : Only m a (s.setB f i b) :=
  only_setReg f i _ hm h

theorem only_countF {m : Nat} {a s : State} (f i n) (hm : fieldMask f ||| m = m) (h : Only m a s) : Only m a (s.countF f i n) :=
  only_setReg f i _ hm h

theorem only_wrFields {m : Nat} {a s : State} (l i v) (hm : fieldsMask l ||| m = m) (h : Only m a s) : Only m a (s.wrFields l i v) := by
  unfold State.wrFields
  induction l generalizing s with
  | nil => exact h
  | cons f l ih => exact ih (mask_symR hm) (only_setN f i _ (mask_symL hm) h)

theorem only_bump {m : Nat} {a s : State} (c i n) (hm : ctrMask c ||| m = m) (h : Only m a s) : Only m a (s.bump c i n) := by
  refine ⟨?_, keep_upd h.keep (by simp) (by simp) (by simp) (by simp)⟩
  intro p hp
  have hs := h.frame p hp
  cases p <;> simp only [Part.same] at * <;> first
    | exact hs
    | (rename_i b
       intro d j hd
       rw [← hs d j hd, State.ctr_bump, if_neg]
       rintro ⟨rfl, rfl⟩
       subst hd
       rw [bit_of hm (by unfold ctrMask; rw [Nat.testBit_two_pow]; simp)] at hp
       exact absurd hp (by decide))

/-- Mask of a list of counters. -/
def ctrsMask : List Ctr → Nat
  | [] => 0
  | c :: l => ctrMask c ||| ctrsMask l

theorem ctrsMask_mem (l : List Ctr) (c : Ctr) (h : c ∈ l) : ctrMask c ||| ctrsMask l = ctrsMask l := by
  induction l with
  | nil => simp at h
  | cons d l ih =>
    unfold ctrsMask
    rcases List.mem_cons.mp h with h | h
    · subst h; apply Nat.eq_of_testBit_eq; intro i; simp only [Nat.testBit_or]
      cases (ctrMask c).testBit i <;> simp
    · have := ih h
      rw [← this]; apply Nat.eq_of_testBit_eq; intro i; simp only [Nat.testBit_or]
      cases (ctrMask c).testBit i <;> cases (ctrMask d).testBit i <;> simp

theorem State.ctr_clearCtrs (s : State) (l : List Ctr) (i : Nat) (d : Ctr) (j : Nat) :
    (s.clearCtrs l i).ctr d j = if d ∈ l ∧ j = i then 0#64 else s.ctr d j := by
  unfold State.clearCtrs State.ctr
  dsimp only
  have : ∀ (l : List Ctr) (mm : SMap (BitVec 64)), (l.foldl (fun m c => m.put 0#64 (ctrKey c i) 0#64) mm).get 0#64 (ctrKey d j) =
      if d ∈ l ∧ j = i then 0#64 else mm.get 0#64 (ctrKey d j) := by
    intro l
    induction l with
    | nil => intro mm; simp
    | cons c l ih =>
      intro mm
      rw [List.foldl_cons, ih, SMap.get_put]
      simp only [ctrKey_inj, List.mem_cons]
      by_cases h1 : d ∈ l <;> by_cases h2 : j = i <;> by_cases h3 : d = c <;> simp [h1, h2, h3]
  exact this l s.ctrs

theorem only_clearCtrs {m : Nat} {a s : State} (l i) (hm : ctrsMask l ||| m = m) (h : Only m a s) : Only m a (s.clearCtrs l i) := by
  refine ⟨?_, keep_upd h.keep (by simp) (by simp) (by simp) (by simp)⟩
  intro p hp
  have hs := h.frame p hp
  cases p <;> simp only [Part.same] at * <;> first
    | exact hs
    | (rename_i b
       intro d j hd
       rw [← hs d j hd, State.ctr_clearCtrs, if_neg]
       rintro ⟨hmem, -⟩
       subst hd
       rw [bit_of (mask_trans (ctrsMask_mem _ _ hmem) hm) (by unfold ctrMask; rw [Nat.testBit_two_pow]; simp)] at hp
       exact absurd hp (by decide))

theorem Ctr.ofBlock_block (b : Block) : ∀ c ∈ Ctr.ofBlock b, c.info.block = b := by cases b <;> decide

theorem only_clearBlockCtrs {m : Nat} {a s : State} (b) (hm : 2 ^ (Part.ctr b).idx ||| m = m) (h : Only m a s) :
    Only m a (s.clearBlockCtrs b) := by
  unfold State.clearBlockCtrs
  refine ⟨?_, keep_upd h.keep (by simp) (by simp) (by simp) (by simp)⟩
  intro p hp
  have hs := h.frame p hp
  cases p <;> simp only [Part.same] at * <;> first
    | exact hs
    | (rename_i b'
       intro d j hd
       rw [← hs d j hd]
       unfold State.ctr
       dsimp only
       rw [SMap.get_filter 0#64 s.ctrs (fun k => !(Ctr.ofBlock b).any fun c => c.ctorIdx == k % 1024), if_pos]
       have hlt := Ctr.ctorIdx_lt d
       have hk : ctrKey d j % 1024 = d.ctorIdx := by unfold ctrKey; omega
       rw [hk, Bool.not_eq_true', Bool.eq_false_iff]
       intro ha
       rw [List.any_eq_true] at ha
       obtain ⟨c, hc, he⟩ := ha
       have := Ctr.ctorIdx_inj c d (beq_iff_eq.mp he)
       subst this
       have hb := Ctr.ofBlock_block b c hc
       rw [hd] at hb; subst hb
       rw [bit_of hm (by rw [Nat.testBit_two_pow]; simp)] at hp
       exact absurd hp (by decide))

theorem only_draw {m : Nat} {a s : State} (hm : 2 ^ Part.freeCtr.idx ||| m = m) (h : Only m a s) : Only m a s.draw.2 := by
  refine ⟨?_, keep_upd h.keep (by simp) (by simp) (by simp) (by simp)⟩
  intro p hp
  have hs := h.frame p hp
  have hb : m.testBit Part.freeCtr.idx = true := bit_of hm (by rw [Nat.testBit_two_pow]; simp)
  cases p <;> simp only [Part.same] at * <;> first
    | exact hs
    | (rw [hb] at hp; exact absurd hp (by decide))

theorem only_signal {m : Nat} {a s : State} (x v) (hm : 2 ^ Part.hst.idx ||| m = m) (h : Only m a s) : Only m a (s.signal x v) := by
  refine ⟨?_, keep_upd h.keep (by simp) (by simp) (by simp) (by simp)⟩
  intro p hp
  have hs := h.frame p hp
  have hb : m.testBit Part.hst.idx = true := bit_of hm (by rw [Nat.testBit_two_pow]; simp)
  cases p <;> simp only [Part.same] at * <;> first
    | (simp only [State.signal_pwr, State.signal_mod, State.signal_boot, State.signal_img, State.signal_fus, State.signal_mon, State.signal_tim, State.signal_hbm, State.signal_pkts, State.signal_nextPkt, State.signal_prt, State.signal_par, State.signal_cls, State.signal_gaz, State.signal_tbl, State.signal_flw, State.signal_swc, State.signal_tmg, State.signal_tsk, State.signal_aut, State.signal_sau, State.signal_eng, State.signal_mmu, State.signal_pkm, State.signal_latch, State.signal_logRecs, State.signal_limits, State.signal_rdVal, State.signal_flash, State.signal_freeCtr, State.signal_pending, State.signal_reg, State.signal_ctr]; exact hs)
    | (rw [hb] at hp; exact absurd hp (by decide))

theorem only_signalEvt {m : Nat} {a s : State} (e x) (hm : 2 ^ Part.hst.idx ||| m = m) (h : Only m a s) : Only m a (s.signalEvt e x) := by
  unfold State.signalEvt; exact only_ite (only_signal _ _ hm h) h

theorem only_logEvt {m : Nat} {a s : State} (e a0 a1) (hm : 2 ^ Part.logRecs.idx ||| fieldMask .GLB_EVT_WPTR ||| m = m) (h : Only m a s) :
    Only m a (s.logEvt e a0 a1) := by
  unfold State.logEvt
  dsimp only
  refine only_setReg _ _ _ (mask_symR hm) ?_
  refine ⟨?_, keep_upd h.keep (by simp) (by simp) (by simp) (by simp)⟩
  intro p hp
  have hs := h.frame p hp
  have hb : m.testBit Part.logRecs.idx = true := bit_of (mask_symL hm) (by rw [Nat.testBit_two_pow]; simp)
  cases p <;> simp only [Part.same] at * <;> first
    | exact hs
    | (rw [hb] at hp; exact absurd hp (by decide))

theorem only_setStat {m : Nat} {a s : State} (e i) (hm : evMask e ||| m = m) (h : Only m a s) : Only m a (s.setStat e i) := by
  unfold State.setStat
  split
  · rename_i f hf
    refine only_setReg _ _ _ ?_ h
    unfold evMask at hm; rw [hf] at hm; exact mask_symR hm
  · exact h

theorem only_raise {m : Nat} {a s : State} (e a0 a1 i) (hm : evMask e ||| m = m) (h : Only m a s) : Only m a (s.raise e a0 a1 i) := by
  unfold State.raise
  dsimp only
  have h1 := hm
  unfold evMask at h1
  have hx := mask_symR (mask_symL (mask_symL h1))
  have hl := mask_symL (mask_symL (mask_symL h1))
  have hg := mask_symR (mask_symL h1)
  refine only_signalEvt _ _ hx (only_signalEvt _ _ hx (only_signalEvt _ _ hx (only_signalEvt _ _ hx (only_setStat _ _ hm (only_logEvt _ _ _ ?_ h)))))
  exact mask_or hl hg

theorem only_limits {m : Nat} {a s : State} (l) (hm : 2 ^ Part.limits.idx ||| m = m) (h : Only m a s) : Only m a { s with limits := l } := by
  refine ⟨?_, keep_upd h.keep (by simp) (by simp) (by simp) (by simp)⟩
  intro p hp
  have hs := h.frame p hp
  have hb : m.testBit Part.limits.idx = true := bit_of hm (by rw [Nat.testBit_two_pow]; simp)
  cases p <;> simp only [Part.same] at * <;> first
    | exact hs
    | (rw [hb] at hp; exact absurd hp (by decide))

theorem only_raiseLimited {m : Nat} {a s : State} (e key ns a0 a1 i) (hm : evMask e ||| 2 ^ Part.limits.idx ||| m = m) (h : Only m a s) :
    Only m a (s.raiseLimited e key ns a0 a1 i) := by
  unfold State.raiseLimited
  dsimp only
  have hr := only_raise e a0 a1 i (mask_symL hm) (only_limits (s.limits.set (e.code * 65536 + key) s.freeNs) (mask_symR hm) h)
  split
  · exact only_ite h hr
  · exact hr

/-- Mask of a refused guarded write, and of a write outside a partition. -/
def fencedMask : Nat := evMask .HST_E_FENCED ||| 2 ^ Part.limits.idx ||| fieldMask .HST_FENCED_CNT
def partMask : Nat := evMask .HST_E_PARTITION ||| 2 ^ Part.limits.idx ||| fieldMask .HST_PART_CNT

theorem only_fenced {m : Nat} {a s : State} (src) (hm : fencedMask ||| m = m) (h : Only m a s) : Only m a (s.fenced src) := by
  unfold fencedMask at hm
  cases src with
  | host x => exact only_raiseLimited _ _ _ _ _ _ (mask_symL hm) (only_countF _ _ _ (mask_symR hm) h)
  | steward => exact only_raiseLimited _ _ _ _ _ _ (mask_symL hm) h
  | engine x => exact h

theorem only_partitionErr {m : Nat} {a s : State} (src) (hm : partMask ||| m = m) (h : Only m a s) : Only m a (s.partitionErr src) := by
  unfold partMask at hm
  cases src with
  | host x => exact only_raiseLimited _ _ _ _ _ _ (mask_symL hm) (only_countF _ _ _ (mask_symR hm) h)
  | steward => exact only_raiseLimited _ _ _ _ _ _ (mask_symL hm) h
  | engine x => exact only_raiseLimited _ _ _ _ _ _ (mask_symL hm) h

end Sys2Proof.Machine
end

