-- ==== Sys2Proof/Laws/Only1.lean ====
section
/-! SUPPORT. What the operations of the machine may change and what they keep, one lemma each (part 1 of 8). -/

namespace Sys2Proof.Machine

open Sys2Proof

set_option linter.all false
set_option Elab.async false

theorem only_guarded {m : Nat} {a s : State} (x1 x2 x3) (h3 : ∀ s, Only m a s → Only m a (x3 s)) (hm : 0x10000430000080 ||| m = m) (h : Only m a s) : Only m a (State.guarded s x1 x2 x3) := by
  unfold State.guarded
  try dsimp only
  repeat' first
    | (with_reducible first
        | assumption | (intro _; try dsimp only) | apply h3 | apply only_fenced | apply only_ite
        | (split; all_goals try dsimp only))
    | exact mask_trans rfl hm

theorem only_held {m : Nat} {a s : State} (x1 x2) (h2 : ∀ s, Only m a s → Only m a (x2 s)) (hm : 0x10000430000080 ||| m = m) (h : Only m a s) : Only m a (State.held s x1 x2) := by
  unfold State.held
  try dsimp only
  repeat' first
    | (with_reducible first
        | assumption | (intro _; try dsimp only) | apply h2 | apply only_fenced | apply only_ite
        | (split; all_goals try dsimp only))
    | exact mask_trans rfl hm

theorem only_queueNeighbour {m : Nat} {a s : State} (x1 x2) (hm : 0x400008000430000180 ||| m = m) (h : Only m a s) : Only m a (State.queueNeighbour s x1 x2) := by
  unfold State.queueNeighbour
  try dsimp only
  repeat' first
    | (with_reducible first
        | exact wf_same rfl rfl rfl | exact wf_put _ _ rfl rfl rfl | exact fun _ => wf_nil rfl
        | exact wf_cut _ rfl rfl rfl)
    | with_reducible exact Or.inr rfl
    | (with_reducible first
        | assumption | (intro _; try dsimp only) | apply only_raiseLimited | apply only_bump | apply only_ite
        | (split; all_goals try dsimp only) | apply only_set_hbm | (apply only_mk (e33 := rfl)))
    | exact bit_of hm rfl | exact Or.inl (bit_of hm rfl)
    | (refine Or.inl ⟨bit_of hm rfl, ?_⟩; with_reducible first | exact wf_same rfl rfl rfl | exact wf_put _ _ rfl rfl rfl | exact fun _ => wf_nil rfl | exact wf_cut _ rfl rfl rfl)
    | exact Or.inr rfl | exact mask_trans rfl hm | exact mask_trans (evMask_all _) (mask_trans rfl hm)
    | exact mask_trans (ctrMask_all _) (mask_trans rfl hm) | apply mask_or

theorem only_activate {m : Nat} {a s : State} (x1) (hm : 0x400008000530000180 ||| m = m) (h : Only m a s) : Only m a (State.activate s x1) := by
  unfold State.activate
  try dsimp only
  repeat' first
    | (with_reducible first
        | assumption | (intro _; try dsimp only) | apply only_queueNeighbour | apply only_draw | apply only_ite
        | (apply only_ite_snd <;> try dsimp only) | (apply only_ite_fst <;> try dsimp only)
        | (apply only_foldl; intro s x hs; try dsimp only) | (apply only_foldl_snd; intro c s x hs; try dsimp only)
        | (apply only_foldl_fst; intro c s x hs; try dsimp only)
        | (apply only_foldl_trd; intro c d s x hs; try dsimp only) | refine only_snd ‹_ = (_, _)› ?_
        | refine only_fst ‹_ = (_, _)› ?_ | refine only_trd ‹_ = (_, _, _)› ?_ | refine only_fth ‹_ = (_, _, _, _)› ?_
        | (split; all_goals try dsimp only))
    | exact mask_trans rfl hm

theorem only_qualify {m : Nat} {a s : State} (x1) (hm : 0x8000410000180 ||| m = m) (h : Only m a s) : Only m a (State.qualify s x1) := by
  unfold State.qualify
  try dsimp only
  repeat' first
    | (with_reducible first
        | exact wf_same rfl rfl rfl | exact wf_put _ _ rfl rfl rfl | exact fun _ => wf_nil rfl
        | exact wf_cut _ rfl rfl rfl)
    | with_reducible exact Or.inr rfl
    | (with_reducible first
        | assumption | (intro _; try dsimp only) | apply only_raise | apply only_ite
        | (split; all_goals try dsimp only) | apply only_set_hbm | (apply only_mk (e33 := rfl)))
    | exact bit_of hm rfl | exact Or.inl (bit_of hm rfl)
    | (refine Or.inl ⟨bit_of hm rfl, ?_⟩; with_reducible first | exact wf_same rfl rfl rfl | exact wf_put _ _ rfl rfl rfl | exact fun _ => wf_nil rfl | exact wf_cut _ rfl rfl rfl)
    | exact Or.inr rfl | exact mask_trans rfl hm | exact mask_trans (evMask_all _) (mask_trans rfl hm) | apply mask_or

theorem only_trackRow {m : Nat} {a s : State} (x1) (hm : 0x8000410000180 ||| m = m) (h : Only m a s) : Only m a (State.trackRow s x1) := by
  unfold State.trackRow
  try dsimp only
  repeat' first
    | (with_reducible first
        | exact wf_same rfl rfl rfl | exact wf_put _ _ rfl rfl rfl | exact fun _ => wf_nil rfl
        | exact wf_cut _ rfl rfl rfl)
    | with_reducible exact Or.inr rfl
    | (with_reducible first
        | assumption | (intro _; try dsimp only) | apply only_qualify | apply only_ite
        | (split; all_goals try dsimp only) | apply only_set_hbm | (apply only_mk (e33 := rfl)))
    | exact bit_of hm rfl | exact Or.inl (bit_of hm rfl)
    | (refine Or.inl ⟨bit_of hm rfl, ?_⟩; with_reducible first | exact wf_same rfl rfl rfl | exact wf_put _ _ rfl rfl rfl | exact fun _ => wf_nil rfl | exact wf_cut _ rfl rfl rfl)
    | exact Or.inr rfl | exact mask_trans rfl hm

theorem only_corrected {m : Nat} {a s : State} (x1) (hm : 0x400008000430000180 ||| m = m) (h : Only m a s) : Only m a (State.corrected s x1) := by
  unfold State.corrected
  try dsimp only
  repeat' first
    | (with_reducible first
        | assumption | (intro _; try dsimp only) | apply only_trackRow | apply only_raiseLimited | apply only_countF
        | apply only_bump)
    | exact mask_trans rfl hm | exact mask_trans (evMask_all _) (mask_trans rfl hm)
    | exact mask_trans (fieldMask_all _) (mask_trans rfl hm) | exact mask_trans (ctrMask_all _) (mask_trans rfl hm)
    | apply mask_or

theorem only_settleWq {m : Nat} {a s : State} (x1) (hm : 0x100000100 ||| m = m) (h : Only m a s) : Only m a (State.settleWq s x1) := by
  unfold State.settleWq
  try dsimp only
  repeat' first
    | (with_reducible first
        | exact wf_same rfl rfl rfl | exact wf_put _ _ rfl rfl rfl | exact fun _ => wf_nil rfl
        | exact wf_cut _ rfl rfl rfl)
    | with_reducible exact Or.inr rfl
    | (with_reducible first
        | assumption | (intro _; try dsimp only) | apply only_draw | refine only_snd ‹_ = (_, _)› ?_
        | refine only_fst ‹_ = (_, _)› ?_ | refine only_trd ‹_ = (_, _, _)› ?_ | refine only_fth ‹_ = (_, _, _, _)› ?_
        | (split; all_goals try dsimp only) | apply only_set_hbm | (apply only_mk (e33 := rfl)))
    | exact bit_of hm rfl | exact Or.inl (bit_of hm rfl)
    | (refine Or.inl ⟨bit_of hm rfl, ?_⟩; with_reducible first | exact wf_same rfl rfl rfl | exact wf_put _ _ rfl rfl rfl | exact fun _ => wf_nil rfl | exact wf_cut _ rfl rfl rfl)
    | exact Or.inr rfl | exact mask_trans rfl hm

theorem only_queueWrite {m : Nat} {a s : State} (x1) (hm : 0x100000100 ||| m = m) (h : Only m a s) : Only m a (State.queueWrite s x1) := by
  unfold State.queueWrite
  try dsimp only
  repeat' first
    | (with_reducible first
        | exact wf_same rfl rfl rfl | exact wf_put _ _ rfl rfl rfl | exact fun _ => wf_nil rfl
        | exact wf_cut _ rfl rfl rfl)
    | with_reducible exact Or.inr rfl
    | (with_reducible first
        | assumption | (intro _; try dsimp only) | apply only_settleWq | apply only_ite
        | (split; all_goals try dsimp only) | apply only_set_hbm | (apply only_mk (e33 := rfl)))
    | exact bit_of hm rfl | exact Or.inl (bit_of hm rfl)
    | (refine Or.inl ⟨bit_of hm rfl, ?_⟩; with_reducible first | exact wf_same rfl rfl rfl | exact wf_put _ _ rfl rfl rfl | exact fun _ => wf_nil rfl | exact wf_cut _ rfl rfl rfl)
    | exact Or.inr rfl | exact mask_trans rfl hm

theorem only_logUncorr {m : Nat} {a s : State} (x1 x2) (hm : 0x8000000000100 ||| m = m) (h : Only m a s) : Only m a (State.logUncorr s x1 x2) := by
  unfold State.logUncorr
  try dsimp only
  repeat' first
    | (with_reducible first
        | exact wf_same rfl rfl rfl | exact wf_put _ _ rfl rfl rfl | exact fun _ => wf_nil rfl
        | exact wf_cut _ rfl rfl rfl)
    | with_reducible exact Or.inr rfl
    | (with_reducible first
        | assumption | (intro _; try dsimp only) | apply only_setN | apply only_setB | apply only_ite
        | (split; all_goals try dsimp only) | apply only_set_hbm | (apply only_mk (e33 := rfl)))
    | exact bit_of hm rfl | exact Or.inl (bit_of hm rfl)
    | (refine Or.inl ⟨bit_of hm rfl, ?_⟩; with_reducible first | exact wf_same rfl rfl rfl | exact wf_put _ _ rfl rfl rfl | exact fun _ => wf_nil rfl | exact wf_cut _ rfl rfl rfl)
    | exact Or.inr rfl | exact mask_trans rfl hm | exact mask_trans (fieldMask_all _) (mask_trans rfl hm)

theorem only_uncorrected {m : Nat} {a s : State} (x1 x2) (hm : 0x400008000430000180 ||| m = m) (h : Only m a s) : Only m a (State.uncorrected s x1 x2) := by
  unfold State.uncorrected
  try dsimp only
  repeat' first
    | (with_reducible first
        | assumption | (intro _; try dsimp only) | apply only_qualify | apply only_logUncorr | apply only_raiseLimited
        | apply only_countF | apply only_bump)
    | exact mask_trans rfl hm | exact mask_trans (evMask_all _) (mask_trans rfl hm)
    | exact mask_trans (fieldMask_all _) (mask_trans rfl hm) | exact mask_trans (ctrMask_all _) (mask_trans rfl hm)
    | apply mask_or

theorem only_hbmWrite {m : Nat} {a s : State} (x1 x2 x3) (hm : 0x400008000530000180 ||| m = m) (h : Only m a s) : Only m a (State.hbmWrite s x1 x2 x3).1 := by
  unfold State.hbmWrite
  try dsimp only
  repeat' first
    | (with_reducible first
        | exact wf_same rfl rfl rfl | exact wf_put _ _ rfl rfl rfl | exact fun _ => wf_nil rfl
        | exact wf_cut _ rfl rfl rfl)
    | with_reducible exact Or.inr rfl
    | (with_reducible first
        | assumption | (intro _; try dsimp only) | apply only_activate | apply only_uncorrected | apply only_corrected
        | apply only_queueWrite | apply only_bump | apply only_ite | (apply only_ite_snd <;> try dsimp only)
        | (apply only_ite_fst <;> try dsimp only) | (apply only_foldl; intro s x hs; try dsimp only)
        | (apply only_foldl_snd; intro c s x hs; try dsimp only)
        | (apply only_foldl_fst; intro c s x hs; try dsimp only)
        | (apply only_foldl_trd; intro c d s x hs; try dsimp only) | refine only_snd ‹_ = (_, _)› ?_
        | refine only_fst ‹_ = (_, _)› ?_ | refine only_trd ‹_ = (_, _, _)› ?_ | refine only_fth ‹_ = (_, _, _, _)› ?_
        | (split; all_goals try dsimp only) | apply only_set_hbm | (apply only_mk (e33 := rfl)))
    | exact bit_of hm rfl | exact Or.inl (bit_of hm rfl)
    | (refine Or.inl ⟨bit_of hm rfl, ?_⟩; with_reducible first | exact wf_same rfl rfl rfl | exact wf_put _ _ rfl rfl rfl | exact fun _ => wf_nil rfl | exact wf_cut _ rfl rfl rfl)
    | exact Or.inr rfl | exact mask_trans rfl hm | exact mask_trans (ctrMask_all _) (mask_trans rfl hm)

theorem only_hbmPut {m : Nat} {a s : State} (x1 x2) (hm : 0x400008000530000180 ||| m = m) (h : Only m a s) : Only m a (State.hbmPut s x1 x2) := by
  unfold State.hbmPut
  try dsimp only
  repeat' first
    | (with_reducible first
        | assumption | (intro _; try dsimp only) | apply only_hbmWrite)
    | exact mask_trans rfl hm

theorem only_readBlock {m : Nat} {a s : State} (x1) (hm : 0x400000000100000100 ||| m = m) (h : Only m a s) : Only m a (State.readBlock s x1) := by
  unfold State.readBlock
  try dsimp only
  repeat' first
    | (with_reducible first
        | assumption | (intro _; try dsimp only) | apply only_settleWq | apply only_bump | apply only_ite
        | (split; all_goals try dsimp only))
    | exact mask_trans rfl hm | exact mask_trans (ctrMask_all _) (mask_trans rfl hm)

theorem only_hbmRead {m : Nat} {a s : State} (x1 x2 x3) (hm : 0x400008000530000180 ||| m = m) (h : Only m a s) : Only m a (State.hbmRead s x1 x2 x3).2 := by
  unfold State.hbmRead
  try dsimp only
  repeat' first
    | (with_reducible first
        | assumption | (intro _; try dsimp only) | apply only_readBlock | apply only_activate | apply only_uncorrected
        | apply only_corrected | apply only_bump | apply only_ite | (apply only_ite_snd <;> try dsimp only)
        | (apply only_ite_fst <;> try dsimp only) | (apply only_foldl; intro s x hs; try dsimp only)
        | (apply only_foldl_snd; intro c s x hs; try dsimp only)
        | (apply only_foldl_fst; intro c s x hs; try dsimp only)
        | (apply only_foldl_trd; intro c d s x hs; try dsimp only) | refine only_snd ‹_ = (_, _)› ?_
        | refine only_fst ‹_ = (_, _)› ?_ | refine only_trd ‹_ = (_, _, _)› ?_ | refine only_fth ‹_ = (_, _, _, _)› ?_
        | (split; all_goals try dsimp only))
    | exact mask_trans rfl hm | exact mask_trans (ctrMask_all _) (mask_trans rfl hm)

theorem only_noRecords {m : Nat} {a s : State} (hm : 0x80000010000 ||| m = m) (h : Only m a s) : Only m a (State.noRecords s) := by
  unfold State.noRecords
  try dsimp only
  repeat' first
    | with_reducible exact Or.inr rfl
    | (with_reducible first
        | assumption | (intro _; try dsimp only) | apply only_setN | apply only_set_flw | (apply only_mk (e33 := rfl)))
    | exact bit_of hm rfl | exact Or.inl (bit_of hm rfl) | exact Or.inr rfl | exact mask_trans rfl hm
    | exact mask_trans (fieldMask_all _) (mask_trans rfl hm)

theorem only_engCorr {m : Nat} {a s : State} (x1 x2) (hm : 0x40000800410000080 ||| m = m) (h : Only m a s) : Only m a (State.engCorr s x1 x2) := by
  unfold State.engCorr
  try dsimp only
  repeat' first
    | (with_reducible first
        | assumption | (intro _; try dsimp only) | apply only_raise | apply only_bump | apply only_countF)
    | exact mask_trans rfl hm | exact mask_trans (evMask_all _) (mask_trans rfl hm)
    | exact mask_trans (fieldMask_all _) (mask_trans rfl hm) | exact mask_trans (ctrMask_all _) (mask_trans rfl hm)
    | apply mask_or

theorem only_engUncorr {m : Nat} {a s : State} (x1 x2) (hm : 0x40000800410000090 ||| m = m) (h : Only m a s) : Only m a (State.engUncorr s x1 x2) := by
  unfold State.engUncorr
  try dsimp only
  repeat' first
    | (with_reducible first
        | exact fuse_same rfl | exact fusesKept_put _ _ _ | exact fusesKept_flags _ _)
    | with_reducible exact Or.inr rfl
    | (with_reducible first
        | assumption | (intro _; try dsimp only) | apply only_raise | apply only_bump | apply only_countF
        | apply only_set_fus | (apply only_mk (e33 := rfl)))
    | exact bit_of hm rfl | exact Or.inl (bit_of hm rfl)
    | (refine Or.inl ⟨bit_of hm rfl, ?_⟩; with_reducible first | exact fuse_same rfl | exact fusesKept_put _ _ _ | exact fusesKept_flags _ _)
    | exact Or.inr rfl | exact mask_trans rfl hm | exact mask_trans (evMask_all _) (mask_trans rfl hm)
    | exact mask_trans (fieldMask_all _) (mask_trans rfl hm) | exact mask_trans (ctrMask_all _) (mask_trans rfl hm)
    | apply mask_or

theorem only_engCheck {m : Nat} {a s : State} (x1 x2) (hm : 0x40000800410400090 ||| m = m) (h : Only m a s) : Only m a (State.engCheck s x1 x2).2 := by
  unfold State.engCheck
  try dsimp only
  repeat' first
    | with_reducible exact Or.inr rfl
    | (with_reducible first
        | assumption | (intro _; try dsimp only) | apply only_engUncorr | apply only_engCorr
        | (apply only_foldl; intro s x hs; try dsimp only) | (apply only_foldl_snd; intro c s x hs; try dsimp only)
        | (apply only_foldl_fst; intro c s x hs; try dsimp only)
        | (apply only_foldl_trd; intro c d s x hs; try dsimp only) | refine only_snd ‹_ = (_, _)› ?_
        | refine only_fst ‹_ = (_, _)› ?_ | refine only_trd ‹_ = (_, _, _)› ?_ | refine only_fth ‹_ = (_, _, _, _)› ?_
        | (split; all_goals try dsimp only) | apply only_set_eng | (apply only_mk (e33 := rfl)))
    | exact bit_of hm rfl | exact Or.inl (bit_of hm rfl) | exact Or.inr rfl | exact mask_trans rfl hm

theorem only_memRead {m : Nat} {a s : State} (x1 x2 x3) (hm : 0x40000800410400090 ||| m = m) (h : Only m a s) : Only m a (State.memRead s x1 x2 x3).2 := by
  unfold State.memRead
  try dsimp only
  repeat' first
    | (with_reducible first
        | assumption | (intro _; try dsimp only) | apply only_engCheck | apply only_ite
        | (apply only_ite_snd <;> try dsimp only) | (apply only_ite_fst <;> try dsimp only)
        | refine only_snd ‹_ = (_, _)› ?_ | refine only_fst ‹_ = (_, _)› ?_ | refine only_trd ‹_ = (_, _, _)› ?_
        | refine only_fth ‹_ = (_, _, _, _)› ?_ | (split; all_goals try dsimp only))
    | exact mask_trans rfl hm

theorem only_setTlb {m : Nat} {a s : State} (x1 x2) (hm : 0x800000 ||| m = m) (h : Only m a s) : Only m a (State.setTlb s x1 x2) := by
  unfold State.setTlb
  try dsimp only
  repeat' first
    | with_reducible exact Or.inr rfl
    | (with_reducible first
        | assumption | (intro _; try dsimp only) | apply only_set_mmu | (apply only_mk (e33 := rfl)))
    | exact bit_of hm rfl | exact Or.inl (bit_of hm rfl) | exact Or.inr rfl | exact mask_trans rfl hm

theorem only_walkFrom {m : Nat} {a s : State} (x1 x2 x3) (hm : 0x400008000530000180 ||| m = m) (h : Only m a s) : Only m a (State.walkFrom s x1 x2 x3).2 := by
  induction x2 generalizing s x3 with
  | zero => rw [State.walkFrom]; exact h
  | succ n ih =>
    rw [State.walkFrom]
    repeat' first
      | (with_reducible first
          | assumption | (intro _; try dsimp only) | apply ih | apply only_hbmRead | apply only_ite
          | (apply only_ite_snd <;> try dsimp only) | (apply only_ite_fst <;> try dsimp only)
          | refine only_snd ‹_ = (_, _)› ?_ | refine only_fst ‹_ = (_, _)› ?_ | refine only_trd ‹_ = (_, _, _)› ?_
          | refine only_fth ‹_ = (_, _, _, _)› ?_ | (split; all_goals try dsimp only))
      | exact mask_trans rfl hm

theorem only_walk {m : Nat} {a s : State} (x1 x2) (hm : 0x500008000530000180 ||| m = m) (h : Only m a s) : Only m a (State.walk s x1 x2).2 := by
  unfold State.walk
  try dsimp only
  repeat' first
    | (with_reducible first
        | assumption | (intro _; try dsimp only) | apply only_walkFrom | apply only_raise | apply only_bump
        | apply only_ite | (apply only_ite_snd <;> try dsimp only) | (apply only_ite_fst <;> try dsimp only)
        | refine only_snd ‹_ = (_, _)› ?_ | refine only_fst ‹_ = (_, _)› ?_ | refine only_trd ‹_ = (_, _, _)› ?_
        | refine only_fth ‹_ = (_, _, _, _)› ?_ | (split; all_goals try dsimp only))
    | exact mask_trans rfl hm | exact mask_trans (evMask_all _) (mask_trans rfl hm)
    | exact mask_trans (ctrMask_all _) (mask_trans rfl hm) | apply mask_or

theorem only_leafOf {m : Nat} {a s : State} (x1 x2 x3) (hm : 0x50000a000530800180 ||| m = m) (h : Only m a s) : Only m a (State.leafOf s x1 x2 x3).2 := by
  unfold State.leafOf
  try dsimp only
  repeat' first
    | (with_reducible first
        | assumption | (intro _; try dsimp only) | apply only_setTlb | apply only_walk | apply only_countF
        | apply only_ite | (apply only_ite_snd <;> try dsimp only) | (apply only_ite_fst <;> try dsimp only)
        | refine only_snd ‹_ = (_, _)› ?_ | refine only_fst ‹_ = (_, _)› ?_ | refine only_trd ‹_ = (_, _, _)› ?_
        | refine only_fth ‹_ = (_, _, _, _)› ?_ | (split; all_goals try dsimp only))
    | exact mask_trans rfl hm | exact mask_trans (fieldMask_all _) (mask_trans rfl hm)

theorem only_translate {m : Nat} {a s : State} (x1 x2 x3 x4 x5) (hm : 0x50000a000530800180 ||| m = m) (h : Only m a s) : Only m a (State.translate s x1 x2 x3 x4 x5).2 := by
  unfold State.translate
  try dsimp only
  repeat' first
    | (with_reducible first
        | assumption | (intro _; try dsimp only) | apply only_leafOf | apply only_ite
        | (apply only_ite_snd <;> try dsimp only) | (apply only_ite_fst <;> try dsimp only)
        | refine only_snd ‹_ = (_, _)› ?_ | refine only_fst ‹_ = (_, _)› ?_ | refine only_trd ‹_ = (_, _, _)› ?_
        | refine only_fth ‹_ = (_, _, _, _)› ?_ | (split; all_goals try dsimp only))
    | exact mask_trans rfl hm

theorem only_ctxLoad {m : Nat} {a s : State} (x1 x2 x3 x4) (hm : 0x54000a800530c00190 ||| m = m) (h : Only m a s) : Only m a (State.ctxLoad s x1 x2 x3 x4).2 := by
  unfold State.ctxLoad
  try dsimp only
  repeat' first
    | (with_reducible first
        | assumption | (intro _; try dsimp only) | apply only_memRead | apply only_translate | apply only_hbmRead
        | refine only_snd ‹_ = (_, _)› ?_ | refine only_fst ‹_ = (_, _)› ?_ | refine only_trd ‹_ = (_, _, _)› ?_
        | refine only_fth ‹_ = (_, _, _, _)› ?_ | (split; all_goals try dsimp only))
    | exact mask_trans rfl hm

theorem only_memFill {m : Nat} {a s : State} (x1 x2 x3) (hm : 0x400000 ||| m = m) (h : Only m a s) : Only m a (State.memFill s x1 x2 x3) := by
  unfold State.memFill
  try dsimp only
  repeat' first
    | with_reducible exact Or.inr rfl
    | (with_reducible first
        | assumption | (intro _; try dsimp only) | apply only_ite | (split; all_goals try dsimp only)
        | apply only_set_eng | (apply only_mk (e33 := rfl)))
    | exact bit_of hm rfl | exact Or.inl (bit_of hm rfl) | exact Or.inr rfl | exact mask_trans rfl hm

theorem only_memWrite {m : Nat} {a s : State} (x1 x2 x3) (hm : 0x40000800410400090 ||| m = m) (h : Only m a s) : Only m a (State.memWrite s x1 x2 x3).2 := by
  unfold State.memWrite
  try dsimp only
  repeat' first
    | (with_reducible first
        | assumption | (intro _; try dsimp only) | apply only_engCheck | apply only_memFill | apply only_ite
        | (apply only_ite_snd <;> try dsimp only) | (apply only_ite_fst <;> try dsimp only)
        | refine only_snd ‹_ = (_, _)› ?_ | refine only_fst ‹_ = (_, _)› ?_ | refine only_trd ‹_ = (_, _, _)› ?_
        | refine only_fth ‹_ = (_, _, _, _)› ?_ | (split; all_goals try dsimp only))
    | exact mask_trans rfl hm

theorem only_ctxStore {m : Nat} {a s : State} (x1 x2 x3 x4) (hm : 0x54000a800530c00190 ||| m = m) (h : Only m a s) : Only m a (State.ctxStore s x1 x2 x3 x4).2 := by
  unfold State.ctxStore
  try dsimp only
  repeat' first
    | (with_reducible first
        | assumption | (intro _; try dsimp only) | apply only_memWrite | apply only_translate | apply only_hbmWrite
        | refine only_snd ‹_ = (_, _)› ?_ | refine only_fst ‹_ = (_, _)› ?_ | refine only_trd ‹_ = (_, _, _)› ?_
        | refine only_fth ‹_ = (_, _, _, _)› ?_ | (split; all_goals try dsimp only))
    | exact mask_trans rfl hm

theorem only_setCx {m : Nat} {a s : State} (x1 x2) (hm : 0x400000 ||| m = m) (h : Only m a s) : Only m a (State.setCx s x1 x2) := by
  unfold State.setCx
  try dsimp only
  repeat' first
    | with_reducible exact Or.inr rfl
    | (with_reducible first
        | assumption | (intro _; try dsimp only) | apply only_set_eng | (apply only_mk (e33 := rfl)))
    | exact bit_of hm rfl | exact Or.inl (bit_of hm rfl) | exact Or.inr rfl | exact mask_trans rfl hm

theorem only_setDom {m : Nat} {a s : State} (x1 x2) (hm : 0x800000000 ||| m = m) (h : Only m a s) : Only m a (State.setDom s x1 x2) := by
  unfold State.setDom
  try dsimp only
  repeat' first
    | (with_reducible first
        | assumption | (intro _; try dsimp only) | apply only_setN)
    | exact mask_trans rfl hm | exact mask_trans (fieldMask_all _) (mask_trans rfl hm)

theorem only_domOn {m : Nat} {a s : State} (x1) (hm : 0x800000000 ||| m = m) (h : Only m a s) : Only m a (State.domOn s x1) := by
  unfold State.domOn
  try dsimp only
  repeat' first
    | (with_reducible first
        | assumption | (intro _; try dsimp only) | apply only_setDom | apply only_countF | apply only_ite
        | (split; all_goals try dsimp only))
    | exact mask_trans rfl hm | exact mask_trans (fieldMask_all _) (mask_trans rfl hm)

theorem only_idleCluster {m : Nat} {a s : State} (x1) (hm : 0x800000000 ||| m = m) (h : Only m a s) : Only m a (State.idleCluster s x1) := by
  unfold State.idleCluster
  try dsimp only
  repeat' first
    | (with_reducible first
        | assumption | (intro _; try dsimp only) | apply only_setDom | apply only_ite
        | (split; all_goals try dsimp only))
    | exact mask_trans rfl hm

theorem only_retainFor {m : Nat} {a s : State} (x1) (hm : 0x800000000 ||| m = m) (h : Only m a s) : Only m a (State.retainFor s x1) := by
  unfold State.retainFor
  try dsimp only
  repeat' first
    | (with_reducible first
        | assumption | (intro _; try dsimp only) | apply only_domOn | apply only_ite
        | (split; all_goals try dsimp only))
    | exact mask_trans rfl hm

theorem only_wakeCluster {m : Nat} {a s : State} (x1) (hm : 0x800000001 ||| m = m) (h : Only m a s) : Only m a (State.wakeCluster s x1) := by
  unfold State.wakeCluster
  try dsimp only
  repeat' first
    | with_reducible exact Or.inr rfl
    | (with_reducible first
        | assumption | (intro _; try dsimp only) | apply only_domOn | apply only_ite
        | (split; all_goals try dsimp only) | apply only_set_pwr | (apply only_mk (e33 := rfl)))
    | exact bit_of hm rfl | exact Or.inl (bit_of hm rfl) | exact Or.inr rfl | exact mask_trans rfl hm

theorem only_touchCluster {m : Nat} {a s : State} (x1) (hm : 0x800000001 ||| m = m) (h : Only m a s) : Only m a (State.touchCluster s x1) := by
  unfold State.touchCluster
  try dsimp only
  repeat' first
    | (with_reducible first
        | assumption | (intro _; try dsimp only) | apply only_idleCluster | apply only_wakeCluster)
    | exact mask_trans rfl hm

theorem only_useDomain {m : Nat} {a s : State} (x1) (hm : 0x800000000 ||| m = m) (h : Only m a s) : Only m a (State.useDomain s x1) := by
  unfold State.useDomain
  try dsimp only
  repeat' first
    | (with_reducible first
        | assumption | (intro _; try dsimp only) | apply only_domOn | apply only_ite
        | (split; all_goals try dsimp only))
    | exact mask_trans rfl hm

theorem only_countGrant {m : Nat} {a s : State} (x1 x2 x3 x4) (hm : 0x10000000000000000 ||| m = m) (h : Only m a s) : Only m a (State.countGrant s x1 x2 x3 x4) := by
  unfold State.countGrant
  try dsimp only
  repeat' first
    | (with_reducible first
        | assumption | (intro _; try dsimp only) | apply only_bump | apply only_ite
        | (split; all_goals try dsimp only))
    | exact mask_trans rfl hm | exact mask_trans (ctrMask_all _) (mask_trans rfl hm)

theorem only_notePool {m : Nat} {a s : State} (x1) (hm : 0x200430020080 ||| m = m) (h : Only m a s) : Only m a (State.notePool s x1) := by
  unfold State.notePool
  try dsimp only
  repeat' first
    | with_reducible exact Or.inr rfl
    | (with_reducible first
        | assumption | (intro _; try dsimp only) | apply only_raiseLimited | apply only_ite
        | (split; all_goals try dsimp only) | apply only_set_swc | (apply only_mk (e33 := rfl)))
    | exact bit_of hm rfl | exact Or.inl (bit_of hm rfl) | exact Or.inr rfl | exact mask_trans rfl hm
    | exact mask_trans (evMask_all _) (mask_trans rfl hm) | apply mask_or

theorem only_freed {m : Nat} {a s : State} (x1) (hm : 0x200430020080 ||| m = m) (h : Only m a s) : Only m a (State.freed s x1) := by
  unfold State.freed
  try dsimp only
  repeat' first
    | with_reducible exact Or.inr rfl
    | (with_reducible first
        | assumption | (intro _; try dsimp only) | apply only_notePool | apply only_set_swc
        | (apply only_mk (e33 := rfl)))
    | exact bit_of hm rfl | exact Or.inl (bit_of hm rfl) | exact Or.inr rfl | exact mask_trans rfl hm

theorem only_ownErr {m : Nat} {a s : State} (x1 x2 x3) (hm : 0x10000200410020080 ||| m = m) (h : Only m a s) : Only m a (State.ownErr s x1 x2 x3) := by
  unfold State.ownErr
  try dsimp only
  repeat' first
    | with_reducible exact Or.inr rfl
    | (with_reducible first
        | assumption | (intro _; try dsimp only) | apply only_bump | apply only_countF | apply only_setN
        | apply only_setB | apply only_raise | apply only_ite | (split; all_goals try dsimp only) | apply only_set_swc
        | (apply only_mk (e33 := rfl)))
    | exact bit_of hm rfl | exact Or.inl (bit_of hm rfl) | exact Or.inr rfl | exact mask_trans rfl hm
    | exact mask_trans (evMask_all _) (mask_trans rfl hm) | exact mask_trans (fieldMask_all _) (mask_trans rfl hm)
    | exact mask_trans (ctrMask_all _) (mask_trans rfl hm) | apply mask_or

theorem only_setBuf {m : Nat} {a s : State} (x1 x2) (hm : 0x20000 ||| m = m) (h : Only m a s) : Only m a (State.setBuf s x1 x2) := by
  unfold State.setBuf
  try dsimp only
  repeat' first
    | with_reducible exact Or.inr rfl
    | (with_reducible first
        | assumption | (intro _; try dsimp only) | apply only_set_swc | (apply only_mk (e33 := rfl)))
    | exact bit_of hm rfl | exact Or.inl (bit_of hm rfl) | exact Or.inr rfl | exact mask_trans rfl hm

theorem only_freeBuf {m : Nat} {a s : State} (x1 x2 x3 x4) (hm : 0x10000200430020080 ||| m = m) (h : Only m a s) : Only m a (State.freeBuf s x1 x2 x3 x4).1 := by
  unfold State.freeBuf
  try dsimp only
  repeat' first
    | (with_reducible first
        | assumption | (intro _; try dsimp only) | apply only_freed | apply only_setBuf | apply only_ownErr
        | apply only_ite | (apply only_ite_snd <;> try dsimp only) | (apply only_ite_fst <;> try dsimp only)
        | refine only_snd ‹_ = (_, _)› ?_ | refine only_fst ‹_ = (_, _)› ?_ | refine only_trd ‹_ = (_, _, _)› ?_
        | refine only_fth ‹_ = (_, _, _, _)› ?_ | (split; all_goals try dsimp only))
    | exact mask_trans rfl hm

theorem only_grantAt {m : Nat} {a s : State} (x1 x2 x3 x4) (hm : 0x10000200800020000 ||| m = m) (h : Only m a s) : Only m a (State.grantAt s x1 x2 x3 x4) := by
  unfold State.grantAt
  try dsimp only
  repeat' first
    | with_reducible exact Or.inr rfl
    | (with_reducible first
        | assumption | (intro _; try dsimp only) | apply only_setBuf | apply only_useDomain | apply only_setB
        | apply only_bump | (apply only_foldl; intro s x hs; try dsimp only)
        | (apply only_foldl_snd; intro c s x hs; try dsimp only)
        | (apply only_foldl_fst; intro c s x hs; try dsimp only)
        | (apply only_foldl_trd; intro c d s x hs; try dsimp only) | apply only_set_swc | (apply only_mk (e33 := rfl)))
    | exact bit_of hm rfl | exact Or.inl (bit_of hm rfl) | exact Or.inr rfl | exact mask_trans rfl hm
    | exact mask_trans (fieldMask_all _) (mask_trans rfl hm) | exact mask_trans (ctrMask_all _) (mask_trans rfl hm)

theorem only_grantIn {m : Nat} {a s : State} (x1 x2 x3 x4 x5 x6) (hm : 0x10000200d30020080 ||| m = m) (h : Only m a s) : Only m a (State.grantIn s x1 x2 x3 x4 x5 x6).1 := by
  unfold State.grantIn
  try dsimp only
  repeat' first
    | (with_reducible first
        | assumption | (intro _; try dsimp only) | apply only_countGrant | apply only_grantAt | apply only_notePool
        | apply only_draw | refine only_snd ‹_ = (_, _)› ?_ | refine only_fst ‹_ = (_, _)› ?_
        | refine only_trd ‹_ = (_, _, _)› ?_ | refine only_fth ‹_ = (_, _, _, _)› ?_
        | (split; all_goals try dsimp only))
    | exact mask_trans rfl hm

theorem only_handover {m : Nat} {a s : State} (x1 x2 x3 x4 x5) (hm : 0x10000200410020080 ||| m = m) (h : Only m a s) : Only m a (State.handover s x1 x2 x3 x4 x5).1 := by
  unfold State.handover
  try dsimp only
  repeat' first
    | (with_reducible first
        | assumption | (intro _; try dsimp only) | apply only_setBuf | apply only_ownErr | apply only_ite
        | (apply only_ite_snd <;> try dsimp only) | (apply only_ite_fst <;> try dsimp only)
        | refine only_snd ‹_ = (_, _)› ?_ | refine only_fst ‹_ = (_, _)› ?_ | refine only_trd ‹_ = (_, _, _)› ?_
        | refine only_fth ‹_ = (_, _, _, _)› ?_ | (split; all_goals try dsimp only))
    | exact mask_trans rfl hm

theorem only_voidInsets {m : Nat} {a s : State} (x1) (hm : 0x200000040000 ||| m = m) (h : Only m a s) : Only m a (State.voidInsets s x1) := by
  unfold State.voidInsets
  try dsimp only
  repeat' first
    | with_reducible exact Or.inr rfl
    | (with_reducible first
        | assumption | (intro _; try dsimp only) | apply only_countF | apply only_ite
        | (apply only_foldl; intro s x hs; try dsimp only) | (apply only_foldl_snd; intro c s x hs; try dsimp only)
        | (apply only_foldl_fst; intro c s x hs; try dsimp only)
        | (apply only_foldl_trd; intro c d s x hs; try dsimp only) | refine only_snd ‹_ = (_, _)› ?_
        | refine only_fst ‹_ = (_, _)› ?_ | refine only_trd ‹_ = (_, _, _)› ?_ | refine only_fth ‹_ = (_, _, _, _)› ?_
        | (split; all_goals try dsimp only) | apply only_set_tmg | (apply only_mk (e33 := rfl)))
    | exact bit_of hm rfl | exact Or.inl (bit_of hm rfl) | exact Or.inr rfl | exact mask_trans rfl hm
    | exact mask_trans (fieldMask_all _) (mask_trans rfl hm)

theorem only_reclaim {m : Nat} {a s : State} (x1 x2 x3 x4 x5 x6) (hm : 0x10000200c30060080 ||| m = m) (h : Only m a s) : Only m a (State.reclaim s x1 x2 x3 x4 x5 x6).1 := by
  unfold State.reclaim
  try dsimp only
  repeat' first
    | (with_reducible first
        | assumption | (intro _; try dsimp only) | apply only_voidInsets | apply only_countGrant | apply only_grantAt
        | apply only_raiseLimited | apply only_bump | refine only_snd ‹_ = (_, _)› ?_
        | refine only_fst ‹_ = (_, _)› ?_ | refine only_trd ‹_ = (_, _, _)› ?_ | refine only_fth ‹_ = (_, _, _, _)› ?_
        | (split; all_goals try dsimp only))
    | exact mask_trans rfl hm | exact mask_trans (evMask_all _) (mask_trans rfl hm)
    | exact mask_trans (ctrMask_all _) (mask_trans rfl hm) | apply mask_or

theorem only_releaseBuf {m : Nat} {a s : State} (x1 x2 x3) (hm : 0x10000200430020080 ||| m = m) (h : Only m a s) : Only m a (State.releaseBuf s x1 x2 x3).1 := by
  unfold State.releaseBuf
  try dsimp only
  repeat' first
    | (with_reducible first
        | assumption | (intro _; try dsimp only) | apply only_freed | apply only_setBuf | apply only_ownErr
        | apply only_ite | (apply only_ite_snd <;> try dsimp only) | (apply only_ite_fst <;> try dsimp only)
        | refine only_snd ‹_ = (_, _)› ?_ | refine only_fst ‹_ = (_, _)› ?_ | refine only_trd ‹_ = (_, _, _)› ?_
        | refine only_fth ‹_ = (_, _, _, _)› ?_ | (split; all_goals try dsimp only))
    | exact mask_trans rfl hm

theorem only_request {m : Nat} {a s : State} (x1 x2 x3 x4 x5) (hm : 0x10000200d30060080 ||| m = m) (h : Only m a s) : Only m a (State.request s x1 x2 x3 x4 x5).1 := by
  unfold State.request
  try dsimp only
  repeat' first
    | (with_reducible first
        | assumption | (intro _; try dsimp only) | apply only_grantIn | apply only_reclaim | apply only_ite
        | (apply only_ite_snd <;> try dsimp only) | (apply only_ite_fst <;> try dsimp only)
        | refine only_snd ‹_ = (_, _)› ?_ | refine only_fst ‹_ = (_, _)› ?_ | refine only_trd ‹_ = (_, _, _)› ?_
        | refine only_fth ‹_ = (_, _, _, _)› ?_ | (split; all_goals try dsimp only))
    | exact mask_trans rfl hm

theorem only_addPkt {m : Nat} {a s : State} (x1) (hm : 0x600 ||| m = m) (h : Only m a s) : Only m a (State.addPkt s x1) := by
  unfold State.addPkt
  try dsimp only
  repeat' first
    | with_reducible exact Or.inr rfl
    | (with_reducible first
        | assumption | (intro _; try dsimp only) | (apply only_mk (e33 := rfl)))
    | exact bit_of hm rfl | exact Or.inl (bit_of hm rfl) | exact Or.inr rfl | exact mask_trans rfl hm

theorem only_setBank {m : Nat} {a s : State} (x1 x2) (hm : 0x2000 ||| m = m) (h : Only m a s) : Only m a (State.setBank s x1 x2) := by
  unfold State.setBank
  try dsimp only
  repeat' first
    | with_reducible exact Or.inr rfl
    | (with_reducible first
        | assumption | (intro _; try dsimp only) | apply only_ite | (split; all_goals try dsimp only)
        | apply only_set_cls | (apply only_mk (e33 := rfl)))
    | exact bit_of hm rfl | exact Or.inl (bit_of hm rfl) | exact Or.inr rfl | exact mask_trans rfl hm

theorem only_bankDrained {m : Nat} {a s : State} (x1) (hm : 0x20410002080 ||| m = m) (h : Only m a s) : Only m a (State.bankDrained s x1) := by
  unfold State.bankDrained
  try dsimp only
  repeat' first
    | with_reducible exact Or.inr rfl
    | (with_reducible first
        | assumption | (intro _; try dsimp only) | apply only_setBank | apply only_setN | apply only_raise
        | apply only_ite | (split; all_goals try dsimp only) | apply only_set_cls | (apply only_mk (e33 := rfl)))
    | exact bit_of hm rfl | exact Or.inl (bit_of hm rfl) | exact Or.inr rfl | exact mask_trans rfl hm
    | exact mask_trans (evMask_all _) (mask_trans rfl hm) | exact mask_trans (fieldMask_all _) (mask_trans rfl hm)
    | apply mask_or

theorem only_delPkt {m : Nat} {a s : State} (x1) (hm : 0x200 ||| m = m) (h : Only m a s) : Only m a (State.delPkt s x1) := by
  unfold State.delPkt
  try dsimp only
  repeat' first
    | with_reducible exact Or.inr rfl
    | (with_reducible first
        | assumption | (intro _; try dsimp only) | apply only_set_pkts | (apply only_mk (e33 := rfl)))
    | exact bit_of hm rfl | exact Or.inl (bit_of hm rfl) | exact Or.inr rfl | exact mask_trans rfl hm

theorem only_leaveBank {m : Nat} {a s : State} (x1) (hm : 0x20410002080 ||| m = m) (h : Only m a s) : Only m a (State.leaveBank s x1).1 := by
  unfold State.leaveBank
  try dsimp only
  repeat' first
    | (with_reducible first
        | assumption | (intro _; try dsimp only) | apply only_bankDrained | apply only_setBank | apply only_ite
        | (apply only_ite_snd <;> try dsimp only) | (apply only_ite_fst <;> try dsimp only)
        | refine only_snd ‹_ = (_, _)› ?_ | refine only_fst ‹_ = (_, _)› ?_ | refine only_trd ‹_ = (_, _, _)› ?_
        | refine only_fth ‹_ = (_, _, _, _)› ?_ | (split; all_goals try dsimp only))
    | exact mask_trans rfl hm

theorem only_detach {m : Nat} {a s : State} (x1) (hm : 0x1000020410002080 ||| m = m) (h : Only m a s) : Only m a (State.detach s x1).1 := by
  unfold State.detach
  try dsimp only
  repeat' first
    | (with_reducible first
        | assumption | (intro _; try dsimp only) | apply only_leaveBank | apply only_bump
        | refine only_snd ‹_ = (_, _)› ?_ | refine only_fst ‹_ = (_, _)› ?_ | refine only_trd ‹_ = (_, _, _)› ?_
        | refine only_fth ‹_ = (_, _, _, _)› ?_ | (split; all_goals try dsimp only))
    | exact mask_trans rfl hm | exact mask_trans (ctrMask_all _) (mask_trans rfl hm)

theorem only_dropPkt {m : Nat} {a s : State} (x1) (hm : 0x10000220430022a80 ||| m = m) (h : Only m a s) : Only m a (State.dropPkt s x1) := by
  unfold State.dropPkt
  try dsimp only
  repeat' first
    | with_reducible exact Or.inr rfl
    | (with_reducible first
        | assumption | (intro _; try dsimp only) | apply only_leaveBank | apply only_freeBuf | apply only_delPkt
        | refine only_snd ‹_ = (_, _)› ?_ | refine only_fst ‹_ = (_, _)› ?_ | refine only_trd ‹_ = (_, _, _)› ?_
        | refine only_fth ‹_ = (_, _, _, _)› ?_ | (split; all_goals try dsimp only) | apply only_set_prt
        | (apply only_mk (e33 := rfl)))
    | exact bit_of hm rfl | exact Or.inl (bit_of hm rfl) | exact Or.inr rfl | exact mask_trans rfl hm

theorem only_setPkt {m : Nat} {a s : State} (x1) (hm : 0x200 ||| m = m) (h : Only m a s) : Only m a (State.setPkt s x1) := by
  unfold State.setPkt
  try dsimp only
  repeat' first
    | with_reducible exact Or.inr rfl
    | (with_reducible first
        | assumption | (intro _; try dsimp only) | apply only_ite | (split; all_goals try dsimp only)
        | apply only_set_pkts | (apply only_mk (e33 := rfl)))
    | exact bit_of hm rfl | exact Or.inl (bit_of hm rfl) | exact Or.inr rfl | exact mask_trans rfl hm

theorem only_fbook {m : Nat} {a s : State} (x1 x2 x3 x4 x5 x6 x7) (hm : 0x1000410080080 ||| m = m) (h : Only m a s) : Only m a (State.fbook s x1 x2 x3 x4 x5 x6 x7) := by
  unfold State.fbook
  try dsimp only
  repeat' first
    | with_reducible exact Or.inr rfl
    | (with_reducible first
        | assumption | (intro _; try dsimp only) | apply only_raise | apply only_setB | apply only_setN
        | apply only_ite | (split; all_goals try dsimp only) | apply only_set_tsk | (apply only_mk (e33 := rfl)))
    | exact bit_of hm rfl | exact Or.inl (bit_of hm rfl) | exact Or.inr rfl | exact mask_trans rfl hm
    | exact mask_trans (evMask_all _) (mask_trans rfl hm) | exact mask_trans (fieldMask_all _) (mask_trans rfl hm)
    | apply mask_or

theorem only_markReady {m : Nat} {a s : State} (x1 x2 x3) (hm : 0x1000c10080081 ||| m = m) (h : Only m a s) : Only m a (State.markReady s x1 x2 x3) := by
  unfold State.markReady
  try dsimp only
  repeat' first
    | with_reducible exact Or.inr rfl
    | (with_reducible first
        | assumption | (intro _; try dsimp only) | apply only_wakeCluster | apply only_fbook | apply only_set_tsk
        | (apply only_mk (e33 := rfl)))
    | exact bit_of hm rfl | exact Or.inl (bit_of hm rfl) | exact Or.inr rfl | exact mask_trans rfl hm

theorem only_tookTok {m : Nat} {a s : State} (x1 x2) (hm : 0x80001000410080080 ||| m = m) (h : Only m a s) : Only m a (State.tookTok s x1 x2) := by
  unfold State.tookTok
  try dsimp only
  repeat' first
    | (with_reducible first
        | assumption | (intro _; try dsimp only) | apply only_fbook | apply only_bump)
    | exact mask_trans rfl hm | exact mask_trans (ctrMask_all _) (mask_trans rfl hm)

theorem only_accept {m : Nat} {a s : State} (x1 x2) (hm : 0x80001000c10080081 ||| m = m) (h : Only m a s) : Only m a (State.accept s x1 x2).2 := by
  unfold State.accept
  try dsimp only
  repeat' first
    | with_reducible exact Or.inr rfl
    | (with_reducible first
        | assumption | (intro _; try dsimp only) | apply only_tookTok | apply only_markReady | apply only_ite
        | (apply only_ite_snd <;> try dsimp only) | (apply only_ite_fst <;> try dsimp only)
        | refine only_snd ‹_ = (_, _)› ?_ | refine only_fst ‹_ = (_, _)› ?_ | refine only_trd ‹_ = (_, _, _)› ?_
        | refine only_fth ‹_ = (_, _, _, _)› ?_ | (split; all_goals try dsimp only) | apply only_set_tsk
        | (apply only_mk (e33 := rfl)))
    | exact bit_of hm rfl | exact Or.inl (bit_of hm rfl) | exact Or.inr rfl | exact mask_trans rfl hm

theorem only_settleTok {m : Nat} {a s : State} (x1) (hm : 0x10000220430022280 ||| m = m) (h : Only m a s) : Only m a (State.settleTok s x1) := by
  unfold State.settleTok
  try dsimp only
  repeat' first
    | (with_reducible first
        | assumption | (intro _; try dsimp only) | apply only_leaveBank | apply only_freed | apply only_delPkt
        | apply only_releaseBuf | apply only_ite | (apply only_ite_snd <;> try dsimp only)
        | (apply only_ite_fst <;> try dsimp only) | refine only_snd ‹_ = (_, _)› ?_ | refine only_fst ‹_ = (_, _)› ?_
        | refine only_trd ‹_ = (_, _, _)› ?_ | refine only_fth ‹_ = (_, _, _, _)› ?_
        | (split; all_goals try dsimp only))
    | exact mask_trans rfl hm

theorem only_loseTok {m : Nat} {a s : State} (x1) (hm : 0x10000320430022280 ||| m = m) (h : Only m a s) : Only m a (State.loseTok s x1) := by
  unfold State.loseTok
  try dsimp only
  repeat' first
    | (with_reducible first
        | assumption | (intro _; try dsimp only) | apply only_settleTok | apply only_setN | apply only_ite
        | (split; all_goals try dsimp only))
    | exact mask_trans rfl hm | exact mask_trans (fieldMask_all _) (mask_trans rfl hm)

theorem only_loseEnt {m : Nat} {a s : State} (x1 x2) (hm : 0x100003204300a2280 ||| m = m) (h : Only m a s) : Only m a (State.loseEnt s x1 x2) := by
  unfold State.loseEnt
  try dsimp only
  repeat' first
    | with_reducible exact Or.inr rfl
    | (with_reducible first
        | assumption | (intro _; try dsimp only) | apply only_loseTok
        | (apply only_foldl; intro s x hs; try dsimp only) | (apply only_foldl_snd; intro c s x hs; try dsimp only)
        | (apply only_foldl_fst; intro c s x hs; try dsimp only)
        | (apply only_foldl_trd; intro c d s x hs; try dsimp only) | apply only_set_tsk | (apply only_mk (e33 := rfl)))
    | exact bit_of hm rfl | exact Or.inl (bit_of hm rfl) | exact Or.inr rfl | exact mask_trans rfl hm

theorem only_disableTmpl {m : Nat} {a s : State} (x1) (hm : 0x100013204300a2280 ||| m = m) (h : Only m a s) : Only m a (State.disableTmpl s x1) := by
  unfold State.disableTmpl
  try dsimp only
  repeat' first
    | (with_reducible first
        | assumption | (intro _; try dsimp only) | apply only_loseEnt | apply only_setB
        | (apply only_foldl; intro s x hs; try dsimp only) | (apply only_foldl_snd; intro c s x hs; try dsimp only)
        | (apply only_foldl_fst; intro c s x hs; try dsimp only)
        | (apply only_foldl_trd; intro c d s x hs; try dsimp only))
    | exact mask_trans rfl hm | exact mask_trans (fieldMask_all _) (mask_trans rfl hm)

theorem only_sendTok {m : Nat} {a s : State} (x1 x2) (hm : 0x8001ffffc30080081 ||| m = m) (h : Only m a s) : Only m a (State.sendTok s x1 x2).2 := by
  unfold State.sendTok
  try dsimp only
  repeat' first
    | (with_reducible first
        | assumption | (intro _; try dsimp only) | apply only_accept | apply only_fbook | apply only_bump
        | apply only_raiseLimited | apply only_ite | (apply only_ite_snd <;> try dsimp only)
        | (apply only_ite_fst <;> try dsimp only) | refine only_snd ‹_ = (_, _)› ?_ | refine only_fst ‹_ = (_, _)› ?_
        | refine only_trd ‹_ = (_, _, _)› ?_ | refine only_fth ‹_ = (_, _, _, _)› ?_
        | (split; all_goals try dsimp only))
    | exact mask_trans rfl hm | exact mask_trans (evMask_all _) (mask_trans rfl hm)
    | exact mask_trans (ctrMask_all _) (mask_trans rfl hm) | apply mask_or

theorem only_fbCtx {m : Nat} {a s : State} (x1 x2 x3) (hm : 0x1000410080080 ||| m = m) (h : Only m a s) : Only m a (State.fbCtx s x1 x2 x3) := by
  unfold State.fbCtx
  try dsimp only
  repeat' first
    | (with_reducible first
        | assumption | (intro _; try dsimp only) | apply only_fbook)
    | exact mask_trans rfl hm

theorem only_runNext {m : Nat} {a s : State} (x1 x2) (hm : 0x40001000510480080 ||| m = m) (h : Only m a s) : Only m a (State.runNext s x1 x2) := by
  unfold State.runNext
  try dsimp only
  repeat' first
    | (with_reducible first
        | assumption | (intro _; try dsimp only) | apply only_fbCtx | apply only_setCx | apply only_draw
        | apply only_bump | apply only_ite | (apply only_ite_snd <;> try dsimp only)
        | (apply only_ite_fst <;> try dsimp only) | (apply only_foldl; intro s x hs; try dsimp only)
        | (apply only_foldl_snd; intro c s x hs; try dsimp only)
        | (apply only_foldl_fst; intro c s x hs; try dsimp only)
        | (apply only_foldl_trd; intro c d s x hs; try dsimp only) | refine only_snd ‹_ = (_, _)› ?_
        | refine only_fst ‹_ = (_, _)› ?_ | refine only_trd ‹_ = (_, _, _)› ?_ | refine only_fth ‹_ = (_, _, _, _)› ?_
        | (split; all_goals try dsimp only))
    | exact mask_trans rfl hm | exact mask_trans (ctrMask_all _) (mask_trans rfl hm)

theorem only_makeReady {m : Nat} {a s : State} (x1) (hm : 0x40001000d10480081 ||| m = m) (h : Only m a s) : Only m a (State.makeReady s x1) := by
  unfold State.makeReady
  try dsimp only
  repeat' first
    | (with_reducible first
        | assumption | (intro _; try dsimp only) | apply only_wakeCluster | apply only_runNext | apply only_setCx)
    | exact mask_trans rfl hm

theorem only_setDma {m : Nat} {a s : State} (x1) (hm : 0x800000 ||| m = m) (h : Only m a s) : Only m a (State.setDma s x1) := by
  unfold State.setDma
  try dsimp only
  repeat' first
    | with_reducible exact Or.inr rfl
    | (with_reducible first
        | assumption | (intro _; try dsimp only) | apply only_ite | (split; all_goals try dsimp only)
        | apply only_set_mmu | (apply only_mk (e33 := rfl)))
    | exact bit_of hm rfl | exact Or.inl (bit_of hm rfl) | exact Or.inr rfl | exact mask_trans rfl hm

theorem only_nextPage {m : Nat} {a s : State} (x1) (hm : 0x100000000000800000 ||| m = m) (h : Only m a s) : Only m a (State.nextPage s x1) := by
  unfold State.nextPage
  try dsimp only
  repeat' first
    | (with_reducible first
        | assumption | (intro _; try dsimp only) | apply only_setDma | apply only_bump | apply only_ite
        | (split; all_goals try dsimp only))
    | exact mask_trans rfl hm | exact mask_trans (ctrMask_all _) (mask_trans rfl hm)

theorem only_sendCont {m : Nat} {a s : State} (x1 x2 x3) (hm : 0x400000 ||| m = m) (h : Only m a s) : Only m a (State.sendCont s x1 x2 x3) := by
  unfold State.sendCont
  try dsimp only
  repeat' first
    | with_reducible exact Or.inr rfl
    | (with_reducible first
        | assumption | (intro _; try dsimp only) | apply only_set_eng | (apply only_mk (e33 := rfl)))
    | exact bit_of hm rfl | exact Or.inl (bit_of hm rfl) | exact Or.inr rfl | exact mask_trans rfl hm

theorem only_writeDesc {m : Nat} {a s : State} (x1 x2 x3 x4) (hm : 0x40000800410400090 ||| m = m) (h : Only m a s) : Only m a (State.writeDesc s x1 x2 x3 x4) := by
  unfold State.writeDesc
  try dsimp only
  repeat' first
    | (with_reducible first
        | assumption | (intro _; try dsimp only) | apply only_memWrite)
    | exact mask_trans rfl hm

theorem only_startDma {m : Nat} {a s : State} (x1) (hm : 0x40000800410c00090 ||| m = m) (h : Only m a s) : Only m a (State.startDma s x1) := by
  unfold State.startDma
  try dsimp only
  repeat' first
    | (with_reducible first
        | assumption | (intro _; try dsimp only) | apply only_writeDesc | apply only_setDma | apply only_ite
        | (split; all_goals try dsimp only))
    | exact mask_trans rfl hm

theorem only_dmaEnd {m : Nat} {a s : State} (x1 x2 x3) (hm : 0xffffe1800d10c80091 ||| m = m) (h : Only m a s) : Only m a (State.dmaEnd s x1 x2 x3) := by
  unfold State.dmaEnd
  try dsimp only
  repeat' first
    | with_reducible exact Or.inr rfl
    | (with_reducible first
        | assumption | (intro _; try dsimp only) | apply only_writeDesc | apply only_fbook | apply only_sendCont
        | apply only_makeReady | apply only_startDma | apply only_nextPage | apply only_bump | apply only_ite
        | (split; all_goals try dsimp only) | apply only_set_mmu | (apply only_mk (e33 := rfl)))
    | exact bit_of hm rfl | exact Or.inl (bit_of hm rfl) | exact Or.inr rfl | exact mask_trans rfl hm
    | exact mask_trans (ctrMask_all _) (mask_trans rfl hm)

theorem only_freeBytes {m : Nat} {a s : State} (x1) (hm : 0x100000000 ||| m = m) (h : Only m a s) : Only m a (State.freeBytes s x1).2 := by
  induction x1 generalizing s  with
  | zero => rw [State.freeBytes]; exact h
  | succ n ih =>
    rw [State.freeBytes]
    repeat' first
      | (with_reducible first
          | assumption | (intro _; try dsimp only) | apply ih | apply only_draw | apply only_ite
          | (apply only_ite_snd <;> try dsimp only) | (apply only_ite_fst <;> try dsimp only)
          | refine only_snd ‹_ = (_, _)› ?_ | refine only_fst ‹_ = (_, _)› ?_ | refine only_trd ‹_ = (_, _, _)› ?_
          | refine only_fth ‹_ = (_, _, _, _)› ?_ | (split; all_goals try dsimp only))
      | exact mask_trans rfl hm

theorem only_bufRead {m : Nat} {a s : State} (x1 x2 x3) (hm : 0x100000000 ||| m = m) (h : Only m a s) : Only m a (State.bufRead s x1 x2 x3).2 := by
  unfold State.bufRead
  try dsimp only
  repeat' first
    | (with_reducible first
        | assumption | (intro _; try dsimp only) | apply only_freeBytes | apply only_ite
        | (apply only_ite_snd <;> try dsimp only) | (apply only_ite_fst <;> try dsimp only)
        | refine only_snd ‹_ = (_, _)› ?_ | refine only_fst ‹_ = (_, _)› ?_ | refine only_trd ‹_ = (_, _, _)› ?_
        | refine only_fth ‹_ = (_, _, _, _)› ?_ | (split; all_goals try dsimp only))
    | exact mask_trans rfl hm

theorem only_dmaRead {m : Nat} {a s : State} (x1 x2 x3 x4 x5) (hm : 0x54000a800530c00190 ||| m = m) (h : Only m a s) : Only m a (State.dmaRead s x1 x2 x3 x4 x5).2.2.2 := by
  induction x4 generalizing s x3 x5 with
  | zero => rw [State.dmaRead]; exact h
  | succ n ih =>
    rw [State.dmaRead]
    repeat' first
      | (with_reducible first
          | assumption | (intro _; try dsimp only) | apply ih | apply only_memRead | apply only_bufRead
          | apply only_translate | apply only_hbmRead | apply only_draw | apply only_ite
          | (apply only_ite_snd <;> try dsimp only) | (apply only_ite_fst <;> try dsimp only)
          | refine only_snd ‹_ = (_, _)› ?_ | refine only_fst ‹_ = (_, _)› ?_ | refine only_trd ‹_ = (_, _, _)› ?_
          | refine only_fth ‹_ = (_, _, _, _)› ?_ | (split; all_goals try dsimp only))
      | exact mask_trans rfl hm

theorem only_bufWrite {m : Nat} {a s : State} (x1 x2 x3) (hm : 0x100020000 ||| m = m) (h : Only m a s) : Only m a (State.bufWrite s x1 x2 x3) := by
  unfold State.bufWrite
  try dsimp only
  repeat' first
    | (with_reducible first
        | assumption | (intro _; try dsimp only) | apply only_freeBytes | apply only_setBuf
        | refine only_snd ‹_ = (_, _)› ?_ | refine only_fst ‹_ = (_, _)› ?_ | refine only_trd ‹_ = (_, _, _)› ?_
        | refine only_fth ‹_ = (_, _, _, _)› ?_ | (split; all_goals try dsimp only))
    | exact mask_trans rfl hm

theorem only_dmaWrite {m : Nat} {a s : State} (x1 x2 x3 x4) (hm : 0x54000a800530c20190 ||| m = m) (h : Only m a s) : Only m a (State.dmaWrite s x1 x2 x3 x4).2 := by
  induction x4 generalizing s x3 with
  | nil => rw [State.dmaWrite]; exact h
  | cons z l ih =>
    rw [State.dmaWrite]
    repeat' first
      | with_reducible exact Or.inr rfl
      | (with_reducible first
          | assumption | (intro _; try dsimp only) | apply ih | apply only_memWrite | apply only_bufWrite
          | apply only_translate | apply only_hbmWrite | apply only_ite | (apply only_ite_snd <;> try dsimp only)
          | (apply only_ite_fst <;> try dsimp only) | refine only_snd ‹_ = (_, _)› ?_
          | refine only_fst ‹_ = (_, _)› ?_ | refine only_trd ‹_ = (_, _, _)› ?_
          | refine only_fth ‹_ = (_, _, _, _)› ?_ | (split; all_goals try dsimp only) | apply only_set_hst
          | (apply only_mk (e33 := rfl)))
      | exact bit_of hm rfl | exact Or.inl (bit_of hm rfl) | exact Or.inr rfl | exact mask_trans rfl hm

theorem only_dmaRun {m : Nat} {a s : State} (x1 x2 x3 x4) (hm : 0x54000a800530c20190 ||| m = m) (h : Only m a s) : Only m a (State.dmaRun s x1 x2 x3 x4).2.2 := by
  induction x3 generalizing s x1 x4 with
  | zero => rw [State.dmaRun]; exact h
  | succ n ih =>
    rw [State.dmaRun]
    repeat' first
      | (with_reducible first
          | assumption | (intro _; try dsimp only) | apply ih | apply only_dmaRead | apply only_dmaWrite
          | apply only_ite | (apply only_ite_snd <;> try dsimp only) | (apply only_ite_fst <;> try dsimp only)
          | refine only_snd ‹_ = (_, _)› ?_ | refine only_fst ‹_ = (_, _)› ?_ | refine only_trd ‹_ = (_, _, _)› ?_
          | refine only_fth ‹_ = (_, _, _, _)› ?_ | (split; all_goals try dsimp only))
      | exact mask_trans rfl hm

theorem only_dmaAbort {m : Nat} {a s : State} (x1 x2) (hm : 0xffffeb800d30ca0191 ||| m = m) (h : Only m a s) : Only m a (State.dmaAbort s x1 x2) := by
  unfold State.dmaAbort
  try dsimp only
  repeat' first
    | (with_reducible first
        | assumption | (intro _; try dsimp only) | apply only_dmaRun | apply only_dmaEnd | apply only_draw
        | apply only_ite | (apply only_ite_snd <;> try dsimp only) | (apply only_ite_fst <;> try dsimp only)
        | refine only_snd ‹_ = (_, _)› ?_ | refine only_fst ‹_ = (_, _)› ?_ | refine only_trd ‹_ = (_, _, _)› ?_
        | refine only_fth ‹_ = (_, _, _, _)› ?_ | (split; all_goals try dsimp only))
    | exact mask_trans rfl hm

theorem only_dmaAbortAll {m : Nat} {a s : State} (x1 x2) (hm : 0xffffeb800d30ca0191 ||| m = m) (h : Only m a s) : Only m a (State.dmaAbortAll s x1 x2) := by
  unfold State.dmaAbortAll
  try dsimp only
  repeat' first
    | (with_reducible first
        | assumption | (intro _; try dsimp only) | apply only_dmaAbort
        | (apply only_foldl; intro s x hs; try dsimp only) | (apply only_foldl_snd; intro c s x hs; try dsimp only)
        | (apply only_foldl_fst; intro c s x hs; try dsimp only)
        | (apply only_foldl_trd; intro c d s x hs; try dsimp only) | refine only_snd ‹_ = (_, _)› ?_
        | refine only_fst ‹_ = (_, _)› ?_ | refine only_trd ‹_ = (_, _, _)› ?_ | refine only_fth ‹_ = (_, _, _, _)› ?_
        | (split; all_goals try dsimp only))
    | exact mask_trans rfl hm

theorem only_freeCtx {m : Nat} {a s : State} (x1) (hm : 0x40001000d10480080 ||| m = m) (h : Only m a s) : Only m a (State.freeCtx s x1) := by
  unfold State.freeCtx
  try dsimp only
  repeat' first
    | (with_reducible first
        | assumption | (intro _; try dsimp only) | apply only_idleCluster | apply only_runNext | apply only_setCx)
    | exact mask_trans rfl hm

theorem only_orphanAuth {m : Nat} {a s : State} (x1) (hm : 0x100000 ||| m = m) (h : Only m a s) : Only m a (State.orphanAuth s x1) := by
  unfold State.orphanAuth
  try dsimp only
  repeat' first
    | with_reducible exact Or.inr rfl
    | (with_reducible first
        | assumption | (intro _; try dsimp only) | apply only_ite | (split; all_goals try dsimp only)
        | apply only_set_aut | (apply only_mk (e33 := rfl)))
    | exact bit_of hm rfl | exact Or.inl (bit_of hm rfl) | exact Or.inr rfl | exact mask_trans rfl hm

theorem only_settleBuf {m : Nat} {a s : State} (x1 x2) (hm : 0x10000200430020080 ||| m = m) (h : Only m a s) : Only m a (State.settleBuf s x1 x2).2 := by
  unfold State.settleBuf
  try dsimp only
  repeat' first
    | (with_reducible first
        | assumption | (intro _; try dsimp only) | apply only_freeBuf | apply only_releaseBuf | apply only_ite
        | (apply only_ite_snd <;> try dsimp only) | (apply only_ite_fst <;> try dsimp only)
        | refine only_snd ‹_ = (_, _)› ?_ | refine only_fst ‹_ = (_, _)› ?_ | refine only_trd ‹_ = (_, _, _)› ?_
        | refine only_fth ‹_ = (_, _, _, _)› ?_ | (split; all_goals try dsimp only))
    | exact mask_trans rfl hm

theorem only_settleBufs {m : Nat} {a s : State} (x1) (hm : 0x50000a00430020080 ||| m = m) (h : Only m a s) : Only m a (State.settleBufs s x1) := by
  unfold State.settleBufs
  try dsimp only
  repeat' first
    | (with_reducible first
        | assumption | (intro _; try dsimp only) | apply only_settleBuf | apply only_raiseLimited | apply only_bump
        | apply only_ite | (apply only_ite_snd <;> try dsimp only) | (apply only_ite_fst <;> try dsimp only)
        | (apply only_foldl; intro s x hs; try dsimp only) | (apply only_foldl_snd; intro c s x hs; try dsimp only)
        | (apply only_foldl_fst; intro c s x hs; try dsimp only)
        | (apply only_foldl_trd; intro c d s x hs; try dsimp only) | refine only_snd ‹_ = (_, _)› ?_
        | refine only_fst ‹_ = (_, _)› ?_ | refine only_trd ‹_ = (_, _, _)› ?_ | refine only_fth ‹_ = (_, _, _, _)› ?_
        | (split; all_goals try dsimp only))
    | exact mask_trans rfl hm | exact mask_trans (evMask_all _) (mask_trans rfl hm)
    | exact mask_trans (ctrMask_all _) (mask_trans rfl hm) | apply mask_or

theorem only_abortTask {m : Nat} {a s : State} (x1) (hm : 0xffffeba00d30da0191 ||| m = m) (h : Only m a s) : Only m a (State.abortTask s x1) := by
  unfold State.abortTask
  try dsimp only
  repeat' first
    | (with_reducible first
        | assumption | (intro _; try dsimp only) | apply only_dmaAbortAll | apply only_orphanAuth
        | apply only_settleBufs | apply only_fbCtx | apply only_freeCtx | apply only_bump | apply only_ite
        | (split; all_goals try dsimp only))
    | exact mask_trans rfl hm | exact mask_trans (ctrMask_all _) (mask_trans rfl hm)

theorem only_abortCluster {m : Nat} {a s : State} (x1) (hm : 0xffffeba00d30da0191 ||| m = m) (h : Only m a s) : Only m a (State.abortCluster s x1) := by
  unfold State.abortCluster
  try dsimp only
  repeat' first
    | (with_reducible first
        | assumption | (intro _; try dsimp only) | apply only_abortTask | apply only_ite
        | (apply only_foldl; intro s x hs; try dsimp only) | (apply only_foldl_snd; intro c s x hs; try dsimp only)
        | (apply only_foldl_fst; intro c s x hs; try dsimp only)
        | (apply only_foldl_trd; intro c d s x hs; try dsimp only) | refine only_snd ‹_ = (_, _)› ?_
        | refine only_fst ‹_ = (_, _)› ?_ | refine only_trd ‹_ = (_, _, _)› ?_ | refine only_fth ‹_ = (_, _, _, _)› ?_
        | (split; all_goals try dsimp only))
    | exact mask_trans rfl hm

theorem only_wakeCtx {m : Nat} {a s : State} (x1) (hm : 0x40001000d10480081 ||| m = m) (h : Only m a s) : Only m a (State.wakeCtx s x1) := by
  unfold State.wakeCtx
  try dsimp only
  repeat' first
    | (with_reducible first
        | assumption | (intro _; try dsimp only) | apply only_fbCtx | apply only_setCx | apply only_makeReady
        | apply only_ite | (split; all_goals try dsimp only))
    | exact mask_trans rfl hm

theorem only_deliverCont {m : Nat} {a s : State} (x1 x2 x3) (hm : 0x40001000d10480081 ||| m = m) (h : Only m a s) : Only m a (State.deliverCont s x1 x2 x3) := by
  unfold State.deliverCont
  try dsimp only
  repeat' first
    | (with_reducible first
        | assumption | (intro _; try dsimp only) | apply only_setCx | apply only_wakeCtx | apply only_bump
        | apply only_ite | (split; all_goals try dsimp only))
    | exact mask_trans rfl hm | exact mask_trans (ctrMask_all _) (mask_trans rfl hm)

theorem only_leaveEngine {m : Nat} {a s : State} (x1 x2) (hm : 0x40001000d10480080 ||| m = m) (h : Only m a s) : Only m a (State.leaveEngine s x1 x2) := by
  unfold State.leaveEngine
  try dsimp only
  repeat' first
    | (with_reducible first
        | assumption | (intro _; try dsimp only) | apply only_idleCluster | apply only_runNext | apply only_setCx)
    | exact mask_trans rfl hm

theorem only_dmaAbsent {m : Nat} {a s : State} (x1 x2 x3) (hm : 0x140001800d10c80090 ||| m = m) (h : Only m a s) : Only m a (State.dmaAbsent s x1 x2 x3) := by
  unfold State.dmaAbsent
  try dsimp only
  repeat' first
    | (with_reducible first
        | assumption | (intro _; try dsimp only) | apply only_writeDesc | apply only_setDma | apply only_fbook
        | apply only_leaveEngine | apply only_startDma | apply only_nextPage | apply only_ite
        | (split; all_goals try dsimp only))
    | exact mask_trans rfl hm

theorem only_ringWrite {m : Nat} {a s : State} (x1) (hm : 0x100002000430800080 ||| m = m) (h : Only m a s) : Only m a (State.ringWrite s x1).2 := by
  unfold State.ringWrite
  try dsimp only
  repeat' first
    | with_reducible exact Or.inr rfl
    | (with_reducible first
        | assumption | (intro _; try dsimp only) | apply only_raiseLimited | apply only_bump | apply only_setN
        | apply only_ite | (apply only_ite_snd <;> try dsimp only) | (apply only_ite_fst <;> try dsimp only)
        | refine only_snd ‹_ = (_, _)› ?_ | refine only_fst ‹_ = (_, _)› ?_ | refine only_trd ‹_ = (_, _, _)› ?_
        | refine only_fth ‹_ = (_, _, _, _)› ?_ | (split; all_goals try dsimp only) | apply only_set_mmu
        | (apply only_mk (e33 := rfl)))
    | exact bit_of hm rfl | exact Or.inl (bit_of hm rfl) | exact Or.inr rfl | exact mask_trans rfl hm
    | exact mask_trans (evMask_all _) (mask_trans rfl hm) | exact mask_trans (fieldMask_all _) (mask_trans rfl hm)
    | exact mask_trans (ctrMask_all _) (mask_trans rfl hm) | apply mask_or

theorem only_logViolation {m : Nat} {a s : State} (x1) (hm : 0x180003000430800080 ||| m = m) (h : Only m a s) : Only m a (State.logViolation s x1) := by
  unfold State.logViolation
  try dsimp only
  repeat' first
    | (with_reducible first
        | assumption | (intro _; try dsimp only) | apply only_ringWrite | apply only_raiseLimited | apply only_bump
        | apply only_countF | refine only_snd ‹_ = (_, _)› ?_ | refine only_fst ‹_ = (_, _)› ?_
        | refine only_trd ‹_ = (_, _, _)› ?_ | refine only_fth ‹_ = (_, _, _, _)› ?_
        | (split; all_goals try dsimp only))
    | exact mask_trans rfl hm | exact mask_trans (evMask_all _) (mask_trans rfl hm)
    | exact mask_trans (fieldMask_all _) (mask_trans rfl hm) | exact mask_trans (ctrMask_all _) (mask_trans rfl hm)
    | apply mask_or

theorem only_dmaViolation {m : Nat} {a s : State} (x1) (hm : 0xffffeba00d30da0191 ||| m = m) (h : Only m a s) : Only m a (State.dmaViolation s x1) := by
  unfold State.dmaViolation
  try dsimp only
  repeat' first
    | (with_reducible first
        | assumption | (intro _; try dsimp only) | apply only_logViolation | apply only_abortTask | apply only_ite
        | (split; all_goals try dsimp only))
    | exact mask_trans rfl hm

theorem only_dmaFault {m : Nat} {a s : State} (x1 x2 x3 x4) (hm : 0xffffeba00d30da0191 ||| m = m) (h : Only m a s) : Only m a (State.dmaFault s x1 x2 x3 x4) := by
  unfold State.dmaFault
  try dsimp only
  repeat' first
    | (with_reducible first
        | assumption | (intro _; try dsimp only) | apply only_dmaViolation | apply only_dmaEnd | apply only_ringWrite
        | apply only_fbook | apply only_writeDesc | apply only_setDma | apply only_leaveEngine | apply only_startDma
        | apply only_raiseLimited | apply only_bump | apply only_ite | (apply only_ite_snd <;> try dsimp only)
        | (apply only_ite_fst <;> try dsimp only) | refine only_snd ‹_ = (_, _)› ?_ | refine only_fst ‹_ = (_, _)› ?_
        | refine only_trd ‹_ = (_, _, _)› ?_ | refine only_fth ‹_ = (_, _, _, _)› ?_
        | (split; all_goals try dsimp only))
    | exact mask_trans rfl hm | exact mask_trans (evMask_all _) (mask_trans rfl hm)
    | exact mask_trans (ctrMask_all _) (mask_trans rfl hm) | apply mask_or

theorem only_dmaRefused {m : Nat} {a s : State} (x1 x2) (hm : 0xffffeba00d30da0191 ||| m = m) (h : Only m a s) : Only m a (State.dmaRefused s x1 x2) := by
  unfold State.dmaRefused
  try dsimp only
  repeat' first
    | (with_reducible first
        | assumption | (intro _; try dsimp only) | apply only_dmaEnd | apply only_ringWrite | apply only_dmaViolation
        | apply only_bump | apply only_ite | (apply only_ite_snd <;> try dsimp only)
        | (apply only_ite_fst <;> try dsimp only) | refine only_snd ‹_ = (_, _)› ?_ | refine only_fst ‹_ = (_, _)› ?_
        | refine only_trd ‹_ = (_, _, _)› ?_ | refine only_fth ‹_ = (_, _, _, _)› ?_
        | (split; all_goals try dsimp only))
    | exact mask_trans rfl hm | exact mask_trans (ctrMask_all _) (mask_trans rfl hm)

theorem only_holdExpired {m : Nat} {a s : State} (x1) (hm : 0xffffeba00d30da0191 ||| m = m) (h : Only m a s) : Only m a (State.holdExpired s x1) := by
  unfold State.holdExpired
  try dsimp only
  repeat' first
    | (with_reducible first
        | assumption | (intro _; try dsimp only) | apply only_abortTask | apply only_raiseLimited | apply only_bump)
    | exact mask_trans rfl hm | exact mask_trans (evMask_all _) (mask_trans rfl hm)
    | exact mask_trans (ctrMask_all _) (mask_trans rfl hm) | apply mask_or

theorem only_violation {m : Nat} {a s : State} (x1 x2 x3 x4 x5 x6) (hm : 0xffffeba00d30da0191 ||| m = m) (h : Only m a s) : Only m a (State.violation s x1 x2 x3 x4 x5 x6) := by
  unfold State.violation
  try dsimp only
  repeat' first
    | (with_reducible first
        | assumption | (intro _; try dsimp only) | apply only_abortTask | apply only_logViolation | apply only_ite
        | (split; all_goals try dsimp only))
    | exact mask_trans rfl hm

theorem only_xrec {m : Nat} {a s : State} (x1 x2 x3 x4) (hm : 0x800000400000 ||| m = m) (h : Only m a s) : Only m a (State.xrec s x1 x2 x3 x4) := by
  unfold State.xrec
  try dsimp only
  repeat' first
    | with_reducible exact Or.inr rfl
    | (with_reducible first
        | assumption | (intro _; try dsimp only) | apply only_setN | apply only_setB | apply only_ite
        | (split; all_goals try dsimp only) | apply only_set_eng | (apply only_mk (e33 := rfl)))
    | exact bit_of hm rfl | exact Or.inl (bit_of hm rfl) | exact Or.inr rfl | exact mask_trans rfl hm
    | exact mask_trans (fieldMask_all _) (mask_trans rfl hm)

theorem only_exception {m : Nat} {a s : State} (x1 x2 x3 x4 x5 x6) (hm : 0xffffeba00d30da0191 ||| m = m) (h : Only m a s) : Only m a (State.exception s x1 x2 x3 x4 x5 x6) := by
  unfold State.exception
  try dsimp only
  repeat' first
    | (with_reducible first
        | assumption | (intro _; try dsimp only) | apply only_xrec | apply only_setCx | apply only_orphanAuth
        | apply only_fbCtx | apply only_violation | apply only_ringWrite | apply only_abortTask
        | apply only_holdExpired | apply only_leaveEngine | apply only_raiseLimited | apply only_bump | apply only_ite
        | (apply only_ite_snd <;> try dsimp only) | (apply only_ite_fst <;> try dsimp only)
        | refine only_snd ‹_ = (_, _)› ?_ | refine only_fst ‹_ = (_, _)› ?_ | refine only_trd ‹_ = (_, _, _)› ?_
        | refine only_fth ‹_ = (_, _, _, _)› ?_ | (split; all_goals try dsimp only))
    | exact mask_trans rfl hm | exact mask_trans (evMask_all _) (mask_trans rfl hm)
    | exact mask_trans (ctrMask_all _) (mask_trans rfl hm) | apply mask_or

theorem only_preemptCtx {m : Nat} {a s : State} (x1 x2) (hm : 0xc0001000410580080 ||| m = m) (h : Only m a s) : Only m a (State.preemptCtx s x1 x2) := by
  unfold State.preemptCtx
  try dsimp only
  repeat' first
    | (with_reducible first
        | assumption | (intro _; try dsimp only) | apply only_setCx | apply only_orphanAuth | apply only_fbCtx
        | apply only_bump | (split; all_goals try dsimp only))
    | exact mask_trans rfl hm | exact mask_trans (ctrMask_all _) (mask_trans rfl hm)

theorem only_clearStaging {m : Nat} {a s : State} (hm : 0x4000000000000 ||| m = m) (h : Only m a s) : Only m a (State.clearStaging s) := by
  unfold State.clearStaging
  try dsimp only
  repeat' first
    | (with_reducible first
        | assumption | (intro _; try dsimp only) | apply only_setN | (apply only_foldl; intro s x hs; try dsimp only)
        | (apply only_foldl_snd; intro c s x hs; try dsimp only)
        | (apply only_foldl_fst; intro c s x hs; try dsimp only)
        | (apply only_foldl_trd; intro c d s x hs; try dsimp only))
    | exact mask_trans rfl hm | exact mask_trans (fieldMask_all _) (mask_trans rfl hm)

theorem only_keyRefused {m : Nat} {a s : State} (x1 x2 x3) (hm : 0x4000410000080 ||| m = m) (h : Only m a s) : Only m a (State.keyRefused s x1 x2 x3) := by
  unfold State.keyRefused
  try dsimp only
  repeat' first
    | (with_reducible first
        | assumption | (intro _; try dsimp only) | apply only_clearStaging | apply only_raise | apply only_setN
        | apply only_ite | (split; all_goals try dsimp only))
    | exact mask_trans rfl hm | exact mask_trans (evMask_all _) (mask_trans rfl hm)
    | exact mask_trans (fieldMask_all _) (mask_trans rfl hm) | apply mask_or

theorem only_keyCommand {m : Nat} {a s : State} (x1 x2 x3) (hm : 0x4000410100080 ||| m = m) (h : Only m a s) : Only m a (State.keyCommand s x1 x2 x3) := by
  unfold State.keyCommand
  try dsimp only
  repeat' first
    | with_reducible exact Or.inr rfl
    | (with_reducible first
        | assumption | (intro _; try dsimp only) | apply only_keyRefused | apply only_setN | apply only_ite
        | (split; all_goals try dsimp only) | apply only_set_aut | (apply only_mk (e33 := rfl)))
    | exact bit_of hm rfl | exact Or.inl (bit_of hm rfl) | exact Or.inr rfl | exact mask_trans rfl hm
    | exact mask_trans (fieldMask_all _) (mask_trans rfl hm)

theorem only_keyCommit {m : Nat} {a s : State} (hm : 0x200004000410100080 ||| m = m) (h : Only m a s) : Only m a (State.keyCommit s) := by
  unfold State.keyCommit
  try dsimp only
  repeat' first
    | with_reducible exact Or.inr rfl
    | (with_reducible first
        | assumption | (intro _; try dsimp only) | apply only_clearStaging | apply only_raise | apply only_bump
        | apply only_setN | (split; all_goals try dsimp only) | apply only_set_aut | (apply only_mk (e33 := rfl)))
    | exact bit_of hm rfl | exact Or.inl (bit_of hm rfl) | exact Or.inr rfl | exact mask_trans rfl hm
    | exact mask_trans (evMask_all _) (mask_trans rfl hm) | exact mask_trans (fieldMask_all _) (mask_trans rfl hm)
    | exact mask_trans (ctrMask_all _) (mask_trans rfl hm) | apply mask_or

theorem only_setSlot {m : Nat} {a s : State} (x1 x2) (hm : 0x100000 ||| m = m) (h : Only m a s) : Only m a (State.setSlot s x1 x2) := by
  unfold State.setSlot
  try dsimp only
  repeat' first
    | with_reducible exact Or.inr rfl
    | (with_reducible first
        | assumption | (intro _; try dsimp only) | apply only_set_aut | (apply only_mk (e33 := rfl)))
    | exact bit_of hm rfl | exact Or.inl (bit_of hm rfl) | exact Or.inr rfl | exact mask_trans rfl hm

theorem only_takeInv {m : Nat} {a s : State} (x1 x2) (hm : 0x4000430100080 ||| m = m) (h : Only m a s) : Only m a (State.takeInv s x1 x2).2 := by
  unfold State.takeInv
  try dsimp only
  repeat' first
    | (with_reducible first
        | assumption | (intro _; try dsimp only) | apply only_setSlot | apply only_raiseLimited | apply only_ite
        | (apply only_ite_snd <;> try dsimp only) | (apply only_ite_fst <;> try dsimp only)
        | refine only_snd ‹_ = (_, _)› ?_ | refine only_fst ‹_ = (_, _)› ?_ | refine only_trd ‹_ = (_, _, _)› ?_
        | refine only_fth ‹_ = (_, _, _, _)› ?_ | (split; all_goals try dsimp only))
    | exact mask_trans rfl hm | exact mask_trans (evMask_all _) (mask_trans rfl hm) | apply mask_or

theorem only_addEnts {m : Nat} {a s : State} (x1 x2) (hm : 0x400430040080 ||| m = m) (h : Only m a s) : Only m a (State.addEnts s x1 x2) := by
  unfold State.addEnts
  try dsimp only
  repeat' first
    | with_reducible exact Or.inr rfl
    | (with_reducible first
        | assumption | (intro _; try dsimp only) | apply only_raiseLimited | apply only_ite
        | (split; all_goals try dsimp only) | apply only_set_tmg | (apply only_mk (e33 := rfl)))
    | exact bit_of hm rfl | exact Or.inl (bit_of hm rfl) | exact Or.inr rfl | exact mask_trans rfl hm
    | exact mask_trans (evMask_all _) (mask_trans rfl hm) | apply mask_or

theorem only_place {m : Nat} {a s : State} (x1 x2) (hm : 0x40000 ||| m = m) (h : Only m a s) : Only m a (State.place s x1 x2) := by
  unfold State.place
  try dsimp only
  repeat' first
    | with_reducible exact Or.inr rfl
    | (with_reducible first
        | assumption | (intro _; try dsimp only) | apply only_ite | (split; all_goals try dsimp only)
        | apply only_set_tmg | (apply only_mk (e33 := rfl)))
    | exact bit_of hm rfl | exact Or.inl (bit_of hm rfl) | exact Or.inr rfl | exact mask_trans rfl hm

theorem only_setShaper {m : Nat} {a s : State} (x1 x2) (hm : 0x40000 ||| m = m) (h : Only m a s) : Only m a (State.setShaper s x1 x2) := by
  unfold State.setShaper
  try dsimp only
  repeat' first
    | with_reducible exact Or.inr rfl
    | (with_reducible first
        | assumption | (intro _; try dsimp only) | apply only_set_tmg | (apply only_mk (e33 := rfl)))
    | exact bit_of hm rfl | exact Or.inl (bit_of hm rfl) | exact Or.inr rfl | exact mask_trans rfl hm

theorem only_refill {m : Nat} {a s : State} (x1) (hm : 0x40000 ||| m = m) (h : Only m a s) : Only m a (State.refill s x1) := by
  unfold State.refill
  try dsimp only
  repeat' first
    | (with_reducible first
        | assumption | (intro _; try dsimp only) | apply only_setShaper | apply only_ite
        | (split; all_goals try dsimp only))
    | exact mask_trans rfl hm

theorem only_charge {m : Nat} {a s : State} (x1 x2) (hm : 0x40000 ||| m = m) (h : Only m a s) : Only m a (State.charge s x1 x2) := by
  unfold State.charge
  try dsimp only
  repeat' first
    | (with_reducible first
        | assumption | (intro _; try dsimp only) | apply only_refill | apply only_setShaper | apply only_place
        | apply only_ite | (split; all_goals try dsimp only))
    | exact mask_trans rfl hm

theorem only_endReplica {m : Nat} {a s : State} (x1 x2) (hm : 0x10000200430020080 ||| m = m) (h : Only m a s) : Only m a (State.endReplica s x1 x2) := by
  unfold State.endReplica
  try dsimp only
  repeat' first
    | (with_reducible first
        | assumption | (intro _; try dsimp only) | apply only_freeBuf | apply only_releaseBuf | apply only_ite
        | (apply only_ite_snd <;> try dsimp only) | (apply only_ite_fst <;> try dsimp only)
        | refine only_snd ‹_ = (_, _)› ?_ | refine only_fst ‹_ = (_, _)› ?_ | refine only_trd ‹_ = (_, _, _)› ?_
        | refine only_fth ‹_ = (_, _, _, _)› ?_ | (split; all_goals try dsimp only))
    | exact mask_trans rfl hm

theorem only_setQueue {m : Nat} {a s : State} (x1 x2) (hm : 0x40000 ||| m = m) (h : Only m a s) : Only m a (State.setQueue s x1 x2) := by
  unfold State.setQueue
  try dsimp only
  repeat' first
    | with_reducible exact Or.inr rfl
    | (with_reducible first
        | assumption | (intro _; try dsimp only) | apply only_set_tmg | (apply only_mk (e33 := rfl)))
    | exact bit_of hm rfl | exact Or.inl (bit_of hm rfl) | exact Or.inr rfl | exact mask_trans rfl hm

theorem only_push {m : Nat} {a s : State} (x1 x2 x3) (hm : 0x20000400430040080 ||| m = m) (h : Only m a s) : Only m a (State.push s x1 x2 x3) := by
  unfold State.push
  try dsimp only
  repeat' first
    | (with_reducible first
        | assumption | (intro _; try dsimp only) | apply only_addEnts | apply only_setQueue | apply only_bump
        | apply only_ite | (split; all_goals try dsimp only))
    | exact mask_trans rfl hm | exact mask_trans (ctrMask_all _) (mask_trans rfl hm)

theorem only_enqueue {m : Nat} {a s : State} (x1 x2 x3) (hm : 0x30000600430060080 ||| m = m) (h : Only m a s) : Only m a (State.enqueue s x1 x2 x3).1 := by
  unfold State.enqueue
  try dsimp only
  repeat' first
    | (with_reducible first
        | assumption | (intro _; try dsimp only) | apply only_endReplica | apply only_push | apply only_bump
        | apply only_countF | apply only_ite | (apply only_ite_snd <;> try dsimp only)
        | (apply only_ite_fst <;> try dsimp only) | refine only_snd ‹_ = (_, _)› ?_ | refine only_fst ‹_ = (_, _)› ?_
        | refine only_trd ‹_ = (_, _, _)› ?_ | refine only_fth ‹_ = (_, _, _, _)› ?_
        | (split; all_goals try dsimp only))
    | exact mask_trans rfl hm | exact mask_trans (fieldMask_all _) (mask_trans rfl hm)
    | exact mask_trans (ctrMask_all _) (mask_trans rfl hm)

theorem only_enqueueResv {m : Nat} {a s : State} (x1 x2) (hm : 0x20000400430040080 ||| m = m) (h : Only m a s) : Only m a (State.enqueueResv s x1 x2).1 := by
  unfold State.enqueueResv
  try dsimp only
  repeat' first
    | (with_reducible first
        | assumption | (intro _; try dsimp only) | apply only_push | apply only_bump | apply only_countF
        | apply only_ite | (apply only_ite_snd <;> try dsimp only) | (apply only_ite_fst <;> try dsimp only)
        | refine only_snd ‹_ = (_, _)› ?_ | refine only_fst ‹_ = (_, _)› ?_ | refine only_trd ‹_ = (_, _, _)› ?_
        | refine only_fth ‹_ = (_, _, _, _)› ?_ | (split; all_goals try dsimp only))
    | exact mask_trans rfl hm | exact mask_trans (fieldMask_all _) (mask_trans rfl hm)
    | exact mask_trans (ctrMask_all _) (mask_trans rfl hm)

theorem only_popHead {m : Nat} {a s : State} (x1 x2) (hm : 0x400430040080 ||| m = m) (h : Only m a s) : Only m a (State.popHead s x1 x2) := by
  unfold State.popHead
  try dsimp only
  repeat' first
    | (with_reducible first
        | assumption | (intro _; try dsimp only) | apply only_addEnts | apply only_setQueue | apply only_ite
        | (split; all_goals try dsimp only))
    | exact mask_trans rfl hm

theorem only_unplace {m : Nat} {a s : State} (x1) (hm : 0x40000 ||| m = m) (h : Only m a s) : Only m a (State.unplace s x1) := by
  unfold State.unplace
  try dsimp only
  repeat' first
    | with_reducible exact Or.inr rfl
    | (with_reducible first
        | assumption | (intro _; try dsimp only) | apply only_set_tmg | (apply only_mk (e33 := rfl)))
    | exact bit_of hm rfl | exact Or.inl (bit_of hm rfl) | exact Or.inr rfl | exact mask_trans rfl hm

theorem only_cutPort {m : Nat} {a s : State} (x1) (hm : 0x10000200430020880 ||| m = m) (h : Only m a s) : Only m a (State.cutPort s x1) := by
  unfold State.cutPort
  try dsimp only
  repeat' first
    | with_reducible exact Or.inr rfl
    | (with_reducible first
        | assumption | (intro _; try dsimp only) | apply only_endReplica | apply only_ite
        | (apply only_foldl; intro s x hs; try dsimp only) | (apply only_foldl_snd; intro c s x hs; try dsimp only)
        | (apply only_foldl_fst; intro c s x hs; try dsimp only)
        | (apply only_foldl_trd; intro c d s x hs; try dsimp only) | refine only_snd ‹_ = (_, _)› ?_
        | refine only_fst ‹_ = (_, _)› ?_ | refine only_trd ‹_ = (_, _, _)› ?_ | refine only_fth ‹_ = (_, _, _, _)› ?_
        | (split; all_goals try dsimp only) | apply only_set_prt | (apply only_mk (e33 := rfl)))
    | exact bit_of hm rfl | exact Or.inl (bit_of hm rfl) | exact Or.inr rfl | exact mask_trans rfl hm

theorem only_cutReplicas {m : Nat} {a s : State} (x1) (hm : 0x10400600430060880 ||| m = m) (h : Only m a s) : Only m a (State.cutReplicas s x1).1 := by
  unfold State.cutReplicas
  try dsimp only
  repeat' first
    | with_reducible exact Or.inr rfl
    | (with_reducible first
        | assumption | (intro _; try dsimp only) | apply only_endReplica | apply only_addEnts | apply only_bump
        | apply only_ite | (apply only_ite_snd <;> try dsimp only) | (apply only_ite_fst <;> try dsimp only)
        | (apply only_foldl; intro s x hs; try dsimp only) | (apply only_foldl_snd; intro c s x hs; try dsimp only)
        | (apply only_foldl_fst; intro c s x hs; try dsimp only)
        | (apply only_foldl_trd; intro c d s x hs; try dsimp only) | refine only_snd ‹_ = (_, _)› ?_
        | refine only_fst ‹_ = (_, _)› ?_ | refine only_trd ‹_ = (_, _, _)› ?_ | refine only_fth ‹_ = (_, _, _, _)› ?_
        | (split; all_goals try dsimp only) | apply only_set_prt | apply only_set_tmg | (apply only_mk (e33 := rfl)))
    | exact bit_of hm rfl | exact Or.inl (bit_of hm rfl) | exact Or.inr rfl | exact mask_trans rfl hm
    | exact mask_trans (ctrMask_all _) (mask_trans rfl hm)

theorem only_dropOffered {m : Nat} {a s : State} (x1 x2) (hm : 0x10400620430062a80 ||| m = m) (h : Only m a s) : Only m a (State.dropOffered s x1 x2).1 := by
  unfold State.dropOffered
  try dsimp only
  repeat' first
    | with_reducible exact Or.inr rfl
    | (with_reducible first
        | assumption | (intro _; try dsimp only) | apply only_cutReplicas | apply only_delPkt | apply only_dropPkt
        | apply only_ite | (apply only_ite_snd <;> try dsimp only) | (apply only_ite_fst <;> try dsimp only)
        | refine only_snd ‹_ = (_, _)› ?_ | refine only_fst ‹_ = (_, _)› ?_ | refine only_trd ‹_ = (_, _, _)› ?_
        | refine only_fth ‹_ = (_, _, _, _)› ?_ | (split; all_goals try dsimp only) | apply only_set_prt
        | (apply only_mk (e33 := rfl)))
    | exact bit_of hm rfl | exact Or.inl (bit_of hm rfl) | exact Or.inr rfl | exact mask_trans rfl hm

theorem only_setPre {m : Nat} {a s : State} (x1 x2) (hm : 0x8000000000 ||| m = m) (h : Only m a s) : Only m a (State.setPre s x1 x2) := by
  unfold State.setPre
  try dsimp only
  repeat' first
    | (with_reducible first
        | assumption | (intro _; try dsimp only) | apply only_setB | apply only_setN | apply only_ite
        | (split; all_goals try dsimp only))
    | exact mask_trans rfl hm | exact mask_trans (fieldMask_all _) (mask_trans rfl hm)

theorem only_linkDown {m : Nat} {a s : State} (x1) (hm : 0x10400628430062a80 ||| m = m) (h : Only m a s) : Only m a (State.linkDown s x1) := by
  unfold State.linkDown
  try dsimp only
  repeat' first
    | (with_reducible first
        | assumption | (intro _; try dsimp only) | apply only_dropOffered | apply only_cutPort | apply only_setPre
        | apply only_setB | apply only_raise | apply only_ite | (apply only_ite_snd <;> try dsimp only)
        | (apply only_ite_fst <;> try dsimp only) | refine only_snd ‹_ = (_, _)› ?_ | refine only_fst ‹_ = (_, _)› ?_
        | refine only_trd ‹_ = (_, _, _)› ?_ | refine only_fth ‹_ = (_, _, _, _)› ?_
        | (split; all_goals try dsimp only))
    | exact mask_trans rfl hm | exact mask_trans (evMask_all _) (mask_trans rfl hm)
    | exact mask_trans (fieldMask_all _) (mask_trans rfl hm) | apply mask_or

end Sys2Proof.Machine
end

