-- ==== Sys2Proof/Laws/Only2.lean ====
section
/-! SUPPORT. What the operations of the machine may change and what they keep, one lemma each (part 2 of 8). -/

namespace Sys2Proof.Machine

open Sys2Proof

set_option linter.all false
set_option Elab.async false

theorem only_portDomain {m : Nat} {a s : State} (x1) (hm : 0x800000000 ||| m = m) (h : Only m a s) : Only m a (State.portDomain s x1) := by
  unfold State.portDomain
  try dsimp only
  repeat' first
    | (with_reducible first
        | assumption | (intro _; try dsimp only) | apply only_domOn | apply only_setDom | apply only_ite
        | (split; all_goals try dsimp only))
    | exact mask_trans rfl hm

theorem only_prtCfgErr {m : Nat} {a s : State} (x1) (hm : 0x8410000080 ||| m = m) (h : Only m a s) : Only m a (State.prtCfgErr s x1) := by
  unfold State.prtCfgErr
  try dsimp only
  repeat' first
    | (with_reducible first
        | assumption | (intro _; try dsimp only) | apply only_raise | apply only_setB)
    | exact mask_trans rfl hm | exact mask_trans (evMask_all _) (mask_trans rfl hm)
    | exact mask_trans (fieldMask_all _) (mask_trans rfl hm) | apply mask_or

theorem only_prtMode {m : Nat} {a s : State} (x1 x2) (hm : 0x8000000000 ||| m = m) (h : Only m a s) : Only m a (State.prtMode s x1 x2) := by
  unfold State.prtMode
  try dsimp only
  repeat' first
    | (with_reducible first
        | assumption | (intro _; try dsimp only) | apply only_setN | apply only_setB)
    | exact mask_trans rfl hm | exact mask_trans (fieldMask_all _) (mask_trans rfl hm)

theorem only_prtFields {m : Nat} {a s : State} (x1 x2) (hm : 0xffffe0008000000000 ||| m = m) (h : Only m a s) : Only m a (State.prtFields s x1 x2) := by
  unfold State.prtFields
  try dsimp only
  repeat' first
    | (with_reducible first
        | assumption | (intro _; try dsimp only) | apply only_prtMode | apply only_setB | apply only_setN
        | apply only_clearCtrs | apply only_ite | (apply only_foldl; intro s x hs; try dsimp only)
        | (apply only_foldl_snd; intro c s x hs; try dsimp only)
        | (apply only_foldl_fst; intro c s x hs; try dsimp only)
        | (apply only_foldl_trd; intro c d s x hs; try dsimp only) | refine only_snd ‹_ = (_, _)› ?_
        | refine only_fst ‹_ = (_, _)› ?_ | refine only_trd ‹_ = (_, _, _)› ?_ | refine only_fth ‹_ = (_, _, _, _)› ?_
        | (split; all_goals try dsimp only))
    | exact mask_trans rfl hm | exact mask_trans (fieldMask_all _) (mask_trans rfl hm)

theorem only_startPre {m : Nat} {a s : State} (x1) (hm : 0x8410000880 ||| m = m) (h : Only m a s) : Only m a (State.startPre s x1) := by
  unfold State.startPre
  try dsimp only
  repeat' first
    | with_reducible exact Or.inr rfl
    | (with_reducible first
        | assumption | (intro _; try dsimp only) | apply only_setPre | apply only_raise | apply only_ite
        | (split; all_goals try dsimp only) | apply only_set_prt | (apply only_mk (e33 := rfl)))
    | exact bit_of hm rfl | exact Or.inl (bit_of hm rfl) | exact Or.inr rfl | exact mask_trans rfl hm
    | exact mask_trans (evMask_all _) (mask_trans rfl hm) | apply mask_or

theorem only_wrPreCfg {m : Nat} {a s : State} (x1 x2) (hm : 0x8410000880 ||| m = m) (h : Only m a s) : Only m a (State.wrPreCfg s x1 x2) := by
  unfold State.wrPreCfg
  try dsimp only
  repeat' first
    | (with_reducible first
        | assumption | (intro _; try dsimp only) | apply only_prtCfgErr | apply only_setPre | apply only_startPre
        | apply only_setN | apply only_setB | apply only_ite | (split; all_goals try dsimp only))
    | exact mask_trans rfl hm | exact mask_trans (fieldMask_all _) (mask_trans rfl hm)

theorem only_wrPrtCfg {m : Nat} {a s : State} (x1 x2) (hm : 0xffffe0628c30062a80 ||| m = m) (h : Only m a s) : Only m a (State.wrPrtCfg s x1 x2) := by
  unfold State.wrPrtCfg
  try dsimp only
  repeat' first
    | (with_reducible first
        | assumption | (intro _; try dsimp only) | apply only_prtCfgErr | apply only_portDomain | apply only_linkDown
        | apply only_prtFields | apply only_ite | (split; all_goals try dsimp only))
    | exact mask_trans rfl hm

theorem only_wrPrtCntClr {m : Nat} {a s : State} (x1 x2) (hm : 0xffffe0000000000000 ||| m = m) (h : Only m a s) : Only m a (State.wrPrtCntClr s x1 x2) := by
  unfold State.wrPrtCntClr
  try dsimp only
  repeat' first
    | (with_reducible first
        | assumption | (intro _; try dsimp only) | apply only_clearCtrs | apply only_ite
        | (split; all_goals try dsimp only))
    | exact mask_trans rfl hm

theorem only_wrRedCfg {m : Nat} {a s : State} (x1 x2) (hm : 0x8410000080 ||| m = m) (h : Only m a s) : Only m a (State.wrRedCfg s x1 x2) := by
  unfold State.wrRedCfg
  try dsimp only
  repeat' first
    | (with_reducible first
        | assumption | (intro _; try dsimp only) | apply only_prtCfgErr | apply only_setN | apply only_setB
        | apply only_ite | (split; all_goals try dsimp only))
    | exact mask_trans rfl hm | exact mask_trans (fieldMask_all _) (mask_trans rfl hm)

theorem only_setGaz {m : Nat} {a s : State} (x1 x2) (hm : 0x4000 ||| m = m) (h : Only m a s) : Only m a (State.setGaz s x1 x2) := by
  unfold State.setGaz
  try dsimp only
  repeat' first
    | with_reducible exact Or.inr rfl
    | (with_reducible first
        | assumption | (intro _; try dsimp only) | apply only_set_gaz | (apply only_mk (e33 := rfl)))
    | exact bit_of hm rfl | exact Or.inl (bit_of hm rfl) | exact Or.inr rfl | exact mask_trans rfl hm

theorem only_newGaz {m : Nat} {a s : State} (x1) (hm : 0x100004000 ||| m = m) (h : Only m a s) : Only m a (State.newGaz s x1).1 := by
  unfold State.newGaz
  try dsimp only
  repeat' first
    | (with_reducible first
        | assumption | (intro _; try dsimp only) | apply only_setGaz | apply only_draw
        | refine only_snd ‹_ = (_, _)› ?_ | refine only_fst ‹_ = (_, _)› ?_ | refine only_trd ‹_ = (_, _, _)› ?_
        | refine only_fth ‹_ = (_, _, _, _)› ?_ | (split; all_goals try dsimp only))
    | exact mask_trans rfl hm

theorem only_senderGaz {m : Nat} {a s : State} (x1 x2) (hm : 0x100004000 ||| m = m) (h : Only m a s) : Only m a (State.senderGaz s x1 x2).1 := by
  unfold State.senderGaz
  try dsimp only
  repeat' first
    | (with_reducible first
        | assumption | (intro _; try dsimp only) | apply only_newGaz | refine only_snd ‹_ = (_, _)› ?_
        | refine only_fst ‹_ = (_, _)› ?_ | refine only_trd ‹_ = (_, _, _)› ?_ | refine only_fth ‹_ = (_, _, _, _)› ?_
        | (split; all_goals try dsimp only))
    | exact mask_trans rfl hm

theorem only_redStep {m : Nat} {a s : State} (x1 x2) (hm : 0x400008510004080 ||| m = m) (h : Only m a s) : Only m a (State.redStep s x1 x2).state := by
  unfold State.redStep
  dsimp only
  repeat' first
    | (with_reducible first
        | assumption | apply only_senderGaz | apply only_setGaz | apply only_raise | apply only_bump
        | refine only_fst ‹_ = (_, _)› ?_ | (split; all_goals try dsimp only) | apply only_ite)
    | exact mask_trans rfl hm

theorem only_redSeq {m : Nat} {a s : State} (x1 x2 x3) (hm : 0x400008510004080 ||| m = m) (h : Only m a s) : Only m a (State.redSeq s x1 x2 x3).2 := by
  unfold State.redSeq
  try dsimp only
  repeat' first
    | (with_reducible first
        | assumption | (intro _; try dsimp only) | apply only_newGaz | apply only_setGaz | apply only_setN
        | apply only_bump | apply only_raise | apply only_ite | (apply only_ite_snd <;> try dsimp only)
        | (apply only_ite_fst <;> try dsimp only) | refine only_snd ‹_ = (_, _)› ?_ | refine only_fst ‹_ = (_, _)› ?_
        | refine only_trd ‹_ = (_, _, _)› ?_ | refine only_fth ‹_ = (_, _, _, _)› ?_
        | (split; all_goals try dsimp only))
    | exact mask_trans rfl hm | exact mask_trans (evMask_all _) (mask_trans rfl hm)
    | exact mask_trans (fieldMask_all _) (mask_trans rfl hm) | exact mask_trans (ctrMask_all _) (mask_trans rfl hm)
    | apply mask_or

theorem only_duplicate {m : Nat} {a s : State} (x1 x2) (hm : 0x400008510004080 ||| m = m) (h : Only m a s) : Only m a (State.duplicate s x1 x2).2 := by
  unfold State.duplicate
  try dsimp only
  repeat' first
    | (with_reducible first
        | assumption | (intro _; try dsimp only) | apply only_redSeq | apply only_ite
        | (apply only_ite_snd <;> try dsimp only) | (apply only_ite_fst <;> try dsimp only)
        | (apply only_foldl; intro s x hs; try dsimp only) | (apply only_foldl_snd; intro c s x hs; try dsimp only)
        | (apply only_foldl_fst; intro c s x hs; try dsimp only)
        | (apply only_foldl_trd; intro c d s x hs; try dsimp only) | refine only_snd ‹_ = (_, _)› ?_
        | refine only_fst ‹_ = (_, _)› ?_ | refine only_trd ‹_ = (_, _, _)› ?_ | refine only_fth ‹_ = (_, _, _, _)› ?_
        | (split; all_goals try dsimp only))
    | exact mask_trans rfl hm

theorem only_sauToken {m : Nat} {a s : State} (x1 x2 x3 x4 x5 x6) (hm : 0x8801ffffc30080081 ||| m = m) (h : Only m a s) : Only m a (State.sauToken s x1 x2 x3 x4 x5 x6) := by
  unfold State.sauToken
  try dsimp only
  repeat' first
    | (with_reducible first
        | assumption | (intro _; try dsimp only) | apply only_sendTok | apply only_raiseLimited | apply only_bump
        | apply only_countF | apply only_setN | apply only_ite | (apply only_ite_snd <;> try dsimp only)
        | (apply only_ite_fst <;> try dsimp only) | refine only_snd ‹_ = (_, _)› ?_ | refine only_fst ‹_ = (_, _)› ?_
        | refine only_trd ‹_ = (_, _, _)› ?_ | refine only_fth ‹_ = (_, _, _, _)› ?_
        | (split; all_goals try dsimp only))
    | exact mask_trans rfl hm | exact mask_trans (evMask_all _) (mask_trans rfl hm)
    | exact mask_trans (fieldMask_all _) (mask_trans rfl hm) | exact mask_trans (ctrMask_all _) (mask_trans rfl hm)
    | apply mask_or

theorem only_toClusters {m : Nat} {a s : State} (x1 x2 x3) (hm : 0x400000 ||| m = m) (h : Only m a s) : Only m a (State.toClusters s x1 x2 x3) := by
  unfold State.toClusters
  try dsimp only
  repeat' first
    | (with_reducible first
        | assumption | (intro _; try dsimp only) | apply only_memFill
        | (apply only_foldl; intro s x hs; try dsimp only) | (apply only_foldl_snd; intro c s x hs; try dsimp only)
        | (apply only_foldl_fst; intro c s x hs; try dsimp only)
        | (apply only_foldl_trd; intro c d s x hs; try dsimp only))
    | exact mask_trans rfl hm

theorem only_sendSlice {m : Nat} {a s : State} (x1 x2 x3 x4 x5) (hm : 0x8801ffffc30480081 ||| m = m) (h : Only m a s) : Only m a (State.sendSlice s x1 x2 x3 x4 x5) := by
  unfold State.sendSlice
  try dsimp only
  repeat' first
    | (with_reducible first
        | assumption | (intro _; try dsimp only) | apply only_toClusters | apply only_sauToken | apply only_bump)
    | exact mask_trans rfl hm | exact mask_trans (ctrMask_all _) (mask_trans rfl hm)

theorem only_setGrp {m : Nat} {a s : State} (x1 x2) (hm : 0x200000 ||| m = m) (h : Only m a s) : Only m a (State.setGrp s x1 x2) := by
  unfold State.setGrp
  try dsimp only
  repeat' first
    | with_reducible exact Or.inr rfl
    | (with_reducible first
        | assumption | (intro _; try dsimp only) | apply only_set_sau | (apply only_mk (e33 := rfl)))
    | exact bit_of hm rfl | exact Or.inl (bit_of hm rfl) | exact Or.inr rfl | exact mask_trans rfl hm

theorem only_deliverSlice {m : Nat} {a s : State} (x1 x2 x3 x4 x5) (hm : 0x8801ffffc30680081 ||| m = m) (h : Only m a s) : Only m a (State.deliverSlice s x1 x2 x3 x4 x5) := by
  unfold State.deliverSlice
  try dsimp only
  repeat' first
    | (with_reducible first
        | assumption | (intro _; try dsimp only) | apply only_setGrp | apply only_sendSlice | apply only_setN)
    | exact mask_trans rfl hm | exact mask_trans (fieldMask_all _) (mask_trans rfl hm)

theorem only_closeSlice {m : Nat} {a s : State} (x1 x2 x3) (hm : 0x8801ffffc30680081 ||| m = m) (h : Only m a s) : Only m a (State.closeSlice s x1 x2 x3) := by
  unfold State.closeSlice
  try dsimp only
  repeat' first
    | (with_reducible first
        | assumption | (intro _; try dsimp only) | apply only_setGrp | apply only_deliverSlice | apply only_countF
        | apply only_bump | apply only_ite | (split; all_goals try dsimp only))
    | exact mask_trans rfl hm | exact mask_trans (fieldMask_all _) (mask_trans rfl hm)
    | exact mask_trans (ctrMask_all _) (mask_trans rfl hm)

theorem only_discardSlices {m : Nat} {a s : State} (x1) (hm : 0x200000 ||| m = m) (h : Only m a s) : Only m a (State.discardSlices s x1) := by
  unfold State.discardSlices
  try dsimp only
  repeat' first
    | (with_reducible first
        | assumption | (intro _; try dsimp only) | apply only_setGrp)
    | exact mask_trans rfl hm

theorem only_gridReset {m : Nat} {a s : State} (hm : 0x8801ffffc30680081 ||| m = m) (h : Only m a s) : Only m a (State.gridReset s) := by
  unfold State.gridReset
  try dsimp only
  repeat' first
    | with_reducible exact Or.inr rfl
    | (with_reducible first
        | assumption | (intro _; try dsimp only) | apply only_closeSlice | apply only_setGrp | apply only_setN
        | apply only_raise | apply only_ite | (apply only_foldl; intro s x hs; try dsimp only)
        | (apply only_foldl_snd; intro c s x hs; try dsimp only)
        | (apply only_foldl_fst; intro c s x hs; try dsimp only)
        | (apply only_foldl_trd; intro c d s x hs; try dsimp only) | refine only_snd ‹_ = (_, _)› ?_
        | refine only_fst ‹_ = (_, _)› ?_ | refine only_trd ‹_ = (_, _, _)› ?_ | refine only_fth ‹_ = (_, _, _, _)› ?_
        | (split; all_goals try dsimp only) | apply only_set_sau | (apply only_mk (e33 := rfl)))
    | exact bit_of hm rfl | exact Or.inl (bit_of hm rfl) | exact Or.inr rfl | exact mask_trans rfl hm
    | exact mask_trans (evMask_all _) (mask_trans rfl hm) | exact mask_trans (fieldMask_all _) (mask_trans rfl hm)
    | apply mask_or

theorem only_lateSample {m : Nat} {a s : State} (x1 x2 x3 x4 x5 x6) (hm : 0x8801ffffc30680081 ||| m = m) (h : Only m a s) : Only m a (State.lateSample s x1 x2 x3 x4 x5 x6) := by
  unfold State.lateSample
  try dsimp only
  repeat' first
    | (with_reducible first
        | assumption | (intro _; try dsimp only) | apply only_setGrp | apply only_toClusters | apply only_sauToken
        | apply only_bump | apply only_countF | apply only_ite | (split; all_goals try dsimp only))
    | exact mask_trans rfl hm | exact mask_trans (fieldMask_all _) (mask_trans rfl hm)
    | exact mask_trans (ctrMask_all _) (mask_trans rfl hm)

theorem only_openSlice {m : Nat} {a s : State} (x1 x2 x3) (hm : 0x200000 ||| m = m) (h : Only m a s) : Only m a (State.openSlice s x1 x2 x3) := by
  unfold State.openSlice
  try dsimp only
  repeat' first
    | (with_reducible first
        | assumption | (intro _; try dsimp only) | apply only_setGrp)
    | exact mask_trans rfl hm

theorem only_startGrid {m : Nat} {a s : State} (x1) (hm : 0x200000 ||| m = m) (h : Only m a s) : Only m a (State.startGrid s x1) := by
  unfold State.startGrid
  try dsimp only
  repeat' first
    | (with_reducible first
        | assumption | (intro _; try dsimp only) | apply only_setGrp | apply only_ite
        | (split; all_goals try dsimp only))
    | exact mask_trans rfl hm

theorem only_joinGroup {m : Nat} {a s : State} (x1 x2 x3 x4 x5 x6) (hm : 0x8801ffffc30680081 ||| m = m) (h : Only m a s) : Only m a (State.joinGroup s x1 x2 x3 x4 x5 x6) := by
  unfold State.joinGroup
  try dsimp only
  repeat' first
    | (with_reducible first
        | assumption | (intro _; try dsimp only) | apply only_startGrid | apply only_lateSample
        | apply only_closeSlice | apply only_openSlice | apply only_setGrp | apply only_ite
        | (split; all_goals try dsimp only))
    | exact mask_trans rfl hm

theorem only_joinSample {m : Nat} {a s : State} (x1 x2 x3 x4) (hm : 0x8801ffffc30680081 ||| m = m) (h : Only m a s) : Only m a (State.joinSample s x1 x2 x3 x4) := by
  unfold State.joinSample
  try dsimp only
  repeat' first
    | (with_reducible first
        | assumption | (intro _; try dsimp only) | apply only_joinGroup | apply only_ite
        | (apply only_foldl; intro s x hs; try dsimp only) | (apply only_foldl_snd; intro c s x hs; try dsimp only)
        | (apply only_foldl_fst; intro c s x hs; try dsimp only)
        | (apply only_foldl_trd; intro c d s x hs; try dsimp only) | refine only_snd ‹_ = (_, _)› ?_
        | refine only_fst ‹_ = (_, _)› ?_ | refine only_trd ‹_ = (_, _, _)› ?_ | refine only_fth ‹_ = (_, _, _, _)› ?_
        | (split; all_goals try dsimp only))
    | exact mask_trans rfl hm

theorem only_setStrm {m : Nat} {a s : State} (x1 x2) (hm : 0x200000 ||| m = m) (h : Only m a s) : Only m a (State.setStrm s x1 x2) := by
  unfold State.setStrm
  try dsimp only
  repeat' first
    | with_reducible exact Or.inr rfl
    | (with_reducible first
        | assumption | (intro _; try dsimp only) | apply only_set_sau | (apply only_mk (e33 := rfl)))
    | exact bit_of hm rfl | exact Or.inl (bit_of hm rfl) | exact Or.inr rfl | exact mask_trans rfl hm

theorem only_setStream {m : Nat} {a s : State} (x1 x2) (hm : 0x8801ffffc30680081 ||| m = m) (h : Only m a s) : Only m a (State.setStream s x1 x2) := by
  unfold State.setStream
  try dsimp only
  repeat' first
    | (with_reducible first
        | assumption | (intro _; try dsimp only) | apply only_setStrm | apply only_closeSlice | apply only_setN
        | apply only_ite | (apply only_foldl; intro s x hs; try dsimp only)
        | (apply only_foldl_snd; intro c s x hs; try dsimp only)
        | (apply only_foldl_fst; intro c s x hs; try dsimp only)
        | (apply only_foldl_trd; intro c d s x hs; try dsimp only) | refine only_snd ‹_ = (_, _)› ?_
        | refine only_fst ‹_ = (_, _)› ?_ | refine only_trd ‹_ = (_, _, _)› ?_ | refine only_fth ‹_ = (_, _, _, _)› ?_
        | (split; all_goals try dsimp only))
    | exact mask_trans rfl hm | exact mask_trans (fieldMask_all _) (mask_trans rfl hm)

theorem only_sample {m : Nat} {a s : State} (x1 x2 x3 x4) (hm : 0x8801ffffc30680081 ||| m = m) (h : Only m a s) : Only m a (State.sample s x1 x2 x3 x4) := by
  unfold State.sample
  try dsimp only
  repeat' first
    | (with_reducible first
        | assumption | (intro _; try dsimp only) | apply only_setStrm | apply only_joinSample | apply only_setStream
        | apply only_countF | apply only_bump | apply only_setN | apply only_raiseLimited | apply only_ite
        | (split; all_goals try dsimp only))
    | exact mask_trans rfl hm | exact mask_trans (evMask_all _) (mask_trans rfl hm)
    | exact mask_trans (fieldMask_all _) (mask_trans rfl hm) | exact mask_trans (ctrMask_all _) (mask_trans rfl hm)
    | apply mask_or

theorem only_stopPubs {m : Nat} {a s : State} (hm : 0x100000040000 ||| m = m) (h : Only m a s) : Only m a (State.stopPubs s) := by
  unfold State.stopPubs
  try dsimp only
  repeat' first
    | with_reducible exact Or.inr rfl
    | (with_reducible first
        | assumption | (intro _; try dsimp only) | apply only_setN | (apply only_foldl; intro s x hs; try dsimp only)
        | (apply only_foldl_snd; intro c s x hs; try dsimp only)
        | (apply only_foldl_fst; intro c s x hs; try dsimp only)
        | (apply only_foldl_trd; intro c d s x hs; try dsimp only) | refine only_snd ‹_ = (_, _)› ?_
        | refine only_fst ‹_ = (_, _)› ?_ | refine only_trd ‹_ = (_, _, _)› ?_ | refine only_fth ‹_ = (_, _, _, _)› ?_
        | (split; all_goals try dsimp only) | apply only_set_tmg | (apply only_mk (e33 := rfl)))
    | exact bit_of hm rfl | exact Or.inl (bit_of hm rfl) | exact Or.inr rfl | exact mask_trans rfl hm
    | exact mask_trans (fieldMask_all _) (mask_trans rfl hm)

theorem only_sauDrain {m : Nat} {a s : State} (hm : 0x100000240000 ||| m = m) (h : Only m a s) : Only m a (State.sauDrain s) := by
  unfold State.sauDrain
  try dsimp only
  repeat' first
    | (with_reducible first
        | assumption | (intro _; try dsimp only) | apply only_stopPubs | apply only_setGrp
        | (apply only_foldl; intro s x hs; try dsimp only) | (apply only_foldl_snd; intro c s x hs; try dsimp only)
        | (apply only_foldl_fst; intro c s x hs; try dsimp only)
        | (apply only_foldl_trd; intro c d s x hs; try dsimp only))
    | exact mask_trans rfl hm

theorem only_pubEnqueue {m : Nat} {a s : State} (x1 x2) (hm : 0x30000600430060080 ||| m = m) (h : Only m a s) : Only m a (State.pubEnqueue s x1 x2) := by
  unfold State.pubEnqueue
  try dsimp only
  repeat' first
    | (with_reducible first
        | assumption | (intro _; try dsimp only) | apply only_enqueueResv | apply only_endReplica | apply only_bump
        | apply only_ite | (apply only_ite_snd <;> try dsimp only) | (apply only_ite_fst <;> try dsimp only)
        | refine only_snd ‹_ = (_, _)› ?_ | refine only_fst ‹_ = (_, _)› ?_ | refine only_trd ‹_ = (_, _, _)› ?_
        | refine only_fth ‹_ = (_, _, _, _)› ?_ | (split; all_goals try dsimp only))
    | exact mask_trans rfl hm | exact mask_trans (ctrMask_all _) (mask_trans rfl hm)

theorem only_pubSend {m : Nat} {a s : State} (x1 x2 x3 x4) (hm : 0xffffe0708530064080 ||| m = m) (h : Only m a s) : Only m a (State.pubSend s x1 x2 x3 x4) := by
  unfold State.pubSend
  try dsimp only
  repeat' first
    | (with_reducible first
        | assumption | (intro _; try dsimp only) | apply only_duplicate | apply only_freeBuf | apply only_setBuf
        | apply only_pubEnqueue | apply only_bump | apply only_countF | apply only_ite
        | (apply only_ite_snd <;> try dsimp only) | (apply only_ite_fst <;> try dsimp only)
        | (apply only_foldl; intro s x hs; try dsimp only) | (apply only_foldl_snd; intro c s x hs; try dsimp only)
        | (apply only_foldl_fst; intro c s x hs; try dsimp only)
        | (apply only_foldl_trd; intro c d s x hs; try dsimp only) | refine only_snd ‹_ = (_, _)› ?_
        | refine only_fst ‹_ = (_, _)› ?_ | refine only_trd ‹_ = (_, _, _)› ?_ | refine only_fth ‹_ = (_, _, _, _)› ?_
        | (split; all_goals try dsimp only))
    | exact mask_trans rfl hm | exact mask_trans (fieldMask_all _) (mask_trans rfl hm)
    | exact mask_trans (ctrMask_all _) (mask_trans rfl hm)

theorem only_signFrame {m : Nat} {a s : State} (x1 x2) (hm : 0x200004000430100080 ||| m = m) (h : Only m a s) : Only m a (State.signFrame s x1 x2).2 := by
  unfold State.signFrame
  try dsimp only
  repeat' first
    | (with_reducible first
        | assumption | (intro _; try dsimp only) | apply only_takeInv | apply only_bump | apply only_ite
        | (apply only_ite_snd <;> try dsimp only) | (apply only_ite_fst <;> try dsimp only)
        | refine only_snd ‹_ = (_, _)› ?_ | refine only_fst ‹_ = (_, _)› ?_ | refine only_trd ‹_ = (_, _, _)› ?_
        | refine only_fth ‹_ = (_, _, _, _)› ?_ | (split; all_goals try dsimp only))
    | exact mask_trans rfl hm | exact mask_trans (ctrMask_all _) (mask_trans rfl hm)

theorem only_pubTransmit {m : Nat} {a s : State} (x1 x2 x3) (hm : 0xffffe4708d30164080 ||| m = m) (h : Only m a s) : Only m a (State.pubTransmit s x1 x2 x3).2 := by
  unfold State.pubTransmit
  try dsimp only
  repeat' first
    | (with_reducible first
        | assumption | (intro _; try dsimp only) | apply only_request | apply only_signFrame | apply only_pubSend
        | apply only_freeBuf | apply only_raiseLimited | apply only_bump | apply only_ite
        | (apply only_ite_snd <;> try dsimp only) | (apply only_ite_fst <;> try dsimp only)
        | refine only_snd ‹_ = (_, _)› ?_ | refine only_fst ‹_ = (_, _)› ?_ | refine only_trd ‹_ = (_, _, _)› ?_
        | refine only_fth ‹_ = (_, _, _, _)› ?_ | (split; all_goals try dsimp only))
    | exact mask_trans rfl hm | exact mask_trans (evMask_all _) (mask_trans rfl hm)
    | exact mask_trans (ctrMask_all _) (mask_trans rfl hm) | apply mask_or

theorem only_resvFull {m : Nat} {a s : State} (x1 x2) (hm : 0x20400008510004080 ||| m = m) (h : Only m a s) : OnlyO m a (State.resvFull s x1 x2) := by
  unfold State.resvFull
  try dsimp only
  repeat' first
    | (with_reducible first
        | assumption | (intro _; try dsimp only) | apply only_duplicate | apply only_bump | apply only_ite
        | (apply only_ite_snd <;> try dsimp only) | (apply only_ite_fst <;> try dsimp only) | apply onlyO_ite
        | apply onlyO_none | apply onlyO_some | apply only_getD | (apply only_foldl; intro s x hs; try dsimp only)
        | (apply only_foldl_snd; intro c s x hs; try dsimp only)
        | (apply only_foldl_fst; intro c s x hs; try dsimp only)
        | (apply only_foldl_trd; intro c d s x hs; try dsimp only) | refine only_snd ‹_ = (_, _)› ?_
        | refine only_fst ‹_ = (_, _)› ?_ | refine only_trd ‹_ = (_, _, _)› ?_ | refine only_fth ‹_ = (_, _, _, _)› ?_
        | refine only_opt ‹_ = some _› ?_ | (split; all_goals try dsimp only))
    | exact mask_trans rfl hm | exact mask_trans (ctrMask_all _) (mask_trans rfl hm)

theorem only_setPub {m : Nat} {a s : State} (x1 x2) (hm : 0x200000 ||| m = m) (h : Only m a s) : Only m a (State.setPub s x1 x2) := by
  unfold State.setPub
  try dsimp only
  repeat' first
    | with_reducible exact Or.inr rfl
    | (with_reducible first
        | assumption | (intro _; try dsimp only) | apply only_set_sau | (apply only_mk (e33 := rfl)))
    | exact bit_of hm rfl | exact Or.inl (bit_of hm rfl) | exact Or.inr rfl | exact mask_trans rfl hm

theorem only_schedulePub {m : Nat} {a s : State} (x1) (hm : 0x100000240000 ||| m = m) (h : Only m a s) : Only m a (State.schedulePub s x1) := by
  unfold State.schedulePub
  try dsimp only
  repeat' first
    | (with_reducible first
        | assumption | (intro _; try dsimp only) | apply only_setPub | apply only_place | apply only_setN
        | apply only_ite | (split; all_goals try dsimp only))
    | exact mask_trans rfl hm | exact mask_trans (fieldMask_all _) (mask_trans rfl hm)

theorem only_skipRetx {m : Nat} {a s : State} (x1) (hm : 0x8000100430240080 ||| m = m) (h : Only m a s) : Only m a (State.skipRetx s x1) := by
  unfold State.skipRetx
  try dsimp only
  repeat' first
    | (with_reducible first
        | assumption | (intro _; try dsimp only) | apply only_schedulePub | apply only_raiseLimited | apply only_bump)
    | exact mask_trans rfl hm | exact mask_trans (evMask_all _) (mask_trans rfl hm)
    | exact mask_trans (ctrMask_all _) (mask_trans rfl hm) | apply mask_or

theorem only_retransmit {m : Nat} {a s : State} (x1) (hm : 0xffffe4708d30364080 ||| m = m) (h : Only m a s) : Only m a (State.retransmit s x1) := by
  unfold State.retransmit
  try dsimp only
  repeat' first
    | (with_reducible first
        | assumption | (intro _; try dsimp only) | apply only_resvFull | apply only_skipRetx | apply only_pubTransmit
        | apply only_schedulePub | apply only_setN | apply only_ite | (apply only_ite_snd <;> try dsimp only)
        | (apply only_ite_fst <;> try dsimp only) | apply onlyO_ite | apply onlyO_none | apply onlyO_some
        | apply only_getD | refine only_snd ‹_ = (_, _)› ?_ | refine only_fst ‹_ = (_, _)› ?_
        | refine only_trd ‹_ = (_, _, _)› ?_ | refine only_fth ‹_ = (_, _, _, _)› ?_ | refine only_opt ‹_ = some _› ?_
        | (split; all_goals try dsimp only))
    | exact mask_trans rfl hm | exact mask_trans (fieldMask_all _) (mask_trans rfl hm)

theorem only_stopPub {m : Nat} {a s : State} (x1) (hm : 0x100000040000 ||| m = m) (h : Only m a s) : Only m a (State.stopPub s x1) := by
  unfold State.stopPub
  try dsimp only
  repeat' first
    | with_reducible exact Or.inr rfl
    | (with_reducible first
        | assumption | (intro _; try dsimp only) | apply only_unplace | apply only_setN | apply only_set_tmg
        | (apply only_mk (e33 := rfl)))
    | exact bit_of hm rfl | exact Or.inl (bit_of hm rfl) | exact Or.inr rfl | exact mask_trans rfl hm
    | exact mask_trans (fieldMask_all _) (mask_trans rfl hm)

theorem only_stateChange {m : Nat} {a s : State} (x1 x2) (hm : 0xffffe4708d30364080 ||| m = m) (h : Only m a s) : Only m a (State.stateChange s x1 x2).1 := by
  unfold State.stateChange
  try dsimp only
  repeat' first
    | (with_reducible first
        | assumption | (intro _; try dsimp only) | apply only_setPub | apply only_stopPub | apply only_resvFull
        | apply only_pubTransmit | apply only_schedulePub | apply only_setN | apply only_ite
        | (apply only_ite_snd <;> try dsimp only) | (apply only_ite_fst <;> try dsimp only) | apply onlyO_ite
        | apply onlyO_none | apply onlyO_some | apply only_getD | refine only_snd ‹_ = (_, _)› ?_
        | refine only_fst ‹_ = (_, _)› ?_ | refine only_trd ‹_ = (_, _, _)› ?_ | refine only_fth ‹_ = (_, _, _, _)› ?_
        | refine only_opt ‹_ = some _› ?_ | (split; all_goals try dsimp only))
    | exact mask_trans rfl hm | exact mask_trans (fieldMask_all _) (mask_trans rfl hm)

theorem only_authAnswer {m : Nat} {a s : State} (x1 x2) (hm : 0x40000000000400000 ||| m = m) (h : Only m a s) : Only m a (State.authAnswer s x1 x2) := by
  unfold State.authAnswer
  try dsimp only
  repeat' first
    | (with_reducible first
        | assumption | (intro _; try dsimp only) | apply only_sendCont | apply only_setCx | apply only_bump
        | apply only_ite | (split; all_goals try dsimp only))
    | exact mask_trans rfl hm | exact mask_trans (ctrMask_all _) (mask_trans rfl hm)

theorem only_authEnd {m : Nat} {a s : State} (x1 x2 x3 x4) (hm : 0x40000000000500000 ||| m = m) (h : Only m a s) : Only m a (State.authEnd s x1 x2 x3 x4) := by
  unfold State.authEnd
  try dsimp only
  repeat' first
    | with_reducible exact Or.inr rfl
    | (with_reducible first
        | assumption | (intro _; try dsimp only) | apply only_authAnswer | apply only_set_aut
        | (apply only_mk (e33 := rfl)))
    | exact bit_of hm rfl | exact Or.inl (bit_of hm rfl) | exact Or.inr rfl | exact mask_trans rfl hm

theorem only_setSeat {m : Nat} {a s : State} (x1 x2) (hm : 0x100200 ||| m = m) (h : Only m a s) : Only m a (State.setSeat s x1 x2) := by
  unfold State.setSeat
  try dsimp only
  repeat' first
    | with_reducible exact Or.inr rfl
    | (with_reducible first
        | assumption | (intro _; try dsimp only) | apply only_ite | (split; all_goals try dsimp only)
        | (apply only_mk (e33 := rfl)))
    | exact bit_of hm rfl | exact Or.inl (bit_of hm rfl) | exact Or.inr rfl | exact mask_trans rfl hm

theorem only_startInline {m : Nat} {a s : State} (x1 x2 x3) (hm : 0x200 ||| m = m) (h : Only m a s) : Only m a (State.startInline s x1 x2 x3) := by
  unfold State.startInline
  try dsimp only
  repeat' first
    | (with_reducible first
        | assumption | (intro _; try dsimp only) | apply only_setPkt | (split; all_goals try dsimp only))
    | exact mask_trans rfl hm

theorem only_startOp {m : Nat} {a s : State} (x1 x2) (hm : 0x240004000430500080 ||| m = m) (h : Only m a s) : Only m a (State.startOp s x1 x2) := by
  unfold State.startOp
  try dsimp only
  repeat' first
    | with_reducible exact Or.inr rfl
    | (with_reducible first
        | assumption | (intro _; try dsimp only) | apply only_authEnd | apply only_takeInv | apply only_bump
        | apply only_ite | (apply only_ite_snd <;> try dsimp only) | (apply only_ite_fst <;> try dsimp only)
        | refine only_snd ‹_ = (_, _)› ?_ | refine only_fst ‹_ = (_, _)› ?_ | refine only_trd ‹_ = (_, _, _)› ?_
        | refine only_fth ‹_ = (_, _, _, _)› ?_ | (split; all_goals try dsimp only) | apply only_set_aut
        | (apply only_mk (e33 := rfl)))
    | exact bit_of hm rfl | exact Or.inl (bit_of hm rfl) | exact Or.inr rfl | exact mask_trans rfl hm
    | exact mask_trans (ctrMask_all _) (mask_trans rfl hm)

theorem only_giveLane {m : Nat} {a s : State} (x1 x2) (hm : 0x240004000430500280 ||| m = m) (h : Only m a s) : Only m a (State.giveLane s x1 x2) := by
  unfold State.giveLane
  try dsimp only
  repeat' first
    | (with_reducible first
        | assumption | (intro _; try dsimp only) | apply only_setSeat | apply only_startOp | apply only_startInline
        | apply only_ite | (split; all_goals try dsimp only))
    | exact mask_trans rfl hm

theorem only_fillFrom {m : Nat} {a s : State} (x0) (hm : 0x240004000430500280 ||| m = m) (h : Only m a s) : Only m a (State.fillFrom x0 s) := by
  induction x0 generalizing s  with
  | zero => rw [State.fillFrom]; exact h
  | succ n ih =>
    rw [State.fillFrom]
    repeat' first
      | (with_reducible first
          | assumption | (intro _; try dsimp only) | apply ih | apply only_giveLane | apply only_ite
          | (split; all_goals try dsimp only))
      | exact mask_trans rfl hm

theorem only_fillLanes {m : Nat} {a s : State} (hm : 0x240004000430500280 ||| m = m) (h : Only m a s) : Only m a (State.fillLanes s) := by
  unfold State.fillLanes
  try dsimp only
  repeat' first
    | (with_reducible first
        | assumption | (intro _; try dsimp only) | apply only_fillFrom)
    | exact mask_trans rfl hm

theorem only_newSeat {m : Nat} {a s : State} (x1) (hm : 0x100000 ||| m = m) (h : Only m a s) : Only m a (State.newSeat s x1).2 := by
  unfold State.newSeat
  try dsimp only
  repeat' first
    | with_reducible exact Or.inr rfl
    | (with_reducible first
        | assumption | (intro _; try dsimp only) | apply only_set_aut | (apply only_mk (e33 := rfl)))
    | exact bit_of hm rfl | exact Or.inl (bit_of hm rfl) | exact Or.inr rfl | exact mask_trans rfl hm

theorem only_stress {m : Nat} {a s : State} (x1) (hm : 0x40430000080 ||| m = m) (h : Only m a s) : Only m a (State.stress s x1) := by
  unfold State.stress
  try dsimp only
  repeat' first
    | (with_reducible first
        | assumption | (intro _; try dsimp only) | apply only_raiseLimited)
    | exact mask_trans rfl hm | exact mask_trans (evMask_all _) (mask_trans rfl hm) | apply mask_or

theorem only_checkStash {m : Nat} {a s : State} (hm : 0x40430000080 ||| m = m) (h : Only m a s) : Only m a (State.checkStash s) := by
  unfold State.checkStash
  try dsimp only
  repeat' first
    | (with_reducible first
        | assumption | (intro _; try dsimp only) | apply only_stress | apply only_ite
        | (split; all_goals try dsimp only))
    | exact mask_trans rfl hm

theorem only_putSlot {m : Nat} {a s : State} (x1 x2 x3) (hm : 0x400008000530000180 ||| m = m) (h : Only m a s) : Only m a (State.putSlot s x1 x2 x3) := by
  unfold State.putSlot
  try dsimp only
  repeat' first
    | (with_reducible first
        | assumption | (intro _; try dsimp only) | apply only_hbmPut)
    | exact mask_trans rfl hm

theorem only_refill238 {m : Nat} {a s : State} (x1 x2) (hm : 0x400008000530008180 ||| m = m) (h : Only m a s) : Only m a (State.refill238 s x1 x2) := by
  unfold State.refill238
  try dsimp only
  repeat' first
    | with_reducible exact Or.inr rfl
    | (with_reducible first
        | assumption | (intro _; try dsimp only) | apply only_putSlot | (split; all_goals try dsimp only)
        | apply only_set_tbl | (apply only_mk (e33 := rfl)))
    | exact bit_of hm rfl | exact Or.inl (bit_of hm rfl) | exact Or.inr rfl | exact mask_trans rfl hm

theorem only_clearLoc {m : Nat} {a s : State} (x1) (hm : 0x400008000530008180 ||| m = m) (h : Only m a s) : Only m a (State.clearLoc s x1) := by
  unfold State.clearLoc
  try dsimp only
  repeat' first
    | with_reducible exact Or.inr rfl
    | (with_reducible first
        | assumption | (intro _; try dsimp only) | apply only_refill238 | apply only_putSlot | apply only_ite
        | (split; all_goals try dsimp only) | apply only_set_tbl | (apply only_mk (e33 := rfl)))
    | exact bit_of hm rfl | exact Or.inl (bit_of hm rfl) | exact Or.inr rfl | exact mask_trans rfl hm

theorem only_dropL2 {m : Nat} {a s : State} (x1) (hm : 0x8000 ||| m = m) (h : Only m a s) : Only m a (State.dropL2 s x1) := by
  unfold State.dropL2
  try dsimp only
  repeat' first
    | with_reducible exact Or.inr rfl
    | (with_reducible first
        | assumption | (intro _; try dsimp only) | apply only_set_tbl | (apply only_mk (e33 := rfl)))
    | exact bit_of hm rfl | exact Or.inl (bit_of hm rfl) | exact Or.inr rfl | exact mask_trans rfl hm

theorem only_readBucket {m : Nat} {a s : State} (x1 x2) (hm : 0x400008000530000180 ||| m = m) (h : Only m a s) : Only m a (State.readBucket s x1 x2).2 := by
  unfold State.readBucket
  try dsimp only
  repeat' first
    | (with_reducible first
        | assumption | (intro _; try dsimp only) | apply only_hbmRead)
    | exact mask_trans rfl hm

theorem only_flowMatch {m : Nat} {a s : State} (x1 x2 x3) (hm : 0x400008000530000180 ||| m = m) (h : Only m a s) : Only m a (State.flowMatch s x1 x2 x3).2 := by
  unfold State.flowMatch
  try dsimp only
  repeat' first
    | (with_reducible first
        | assumption | (intro _; try dsimp only) | apply only_readBucket | apply only_ite
        | (apply only_ite_snd <;> try dsimp only) | (apply only_ite_fst <;> try dsimp only)
        | (apply only_foldl; intro s x hs; try dsimp only) | (apply only_foldl_snd; intro c s x hs; try dsimp only)
        | (apply only_foldl_fst; intro c s x hs; try dsimp only)
        | (apply only_foldl_trd; intro c d s x hs; try dsimp only) | refine only_snd ‹_ = (_, _)› ?_
        | refine only_fst ‹_ = (_, _)› ?_ | refine only_trd ‹_ = (_, _, _)› ?_ | refine only_fth ‹_ = (_, _, _, _)› ?_
        | (split; all_goals try dsimp only))
    | exact mask_trans rfl hm

theorem only_insFail {m : Nat} {a s : State} (x1) (hm : 0x2000040430008080 ||| m = m) (h : Only m a s) : Only m a (State.insFail s x1) := by
  unfold State.insFail
  try dsimp only
  repeat' first
    | with_reducible exact Or.inr rfl
    | (with_reducible first
        | assumption | (intro _; try dsimp only) | apply only_stress | apply only_bump | apply only_ite
        | (split; all_goals try dsimp only) | apply only_set_tbl | (apply only_mk (e33 := rfl)))
    | exact bit_of hm rfl | exact Or.inl (bit_of hm rfl) | exact Or.inr rfl | exact mask_trans rfl hm
    | exact mask_trans (ctrMask_all _) (mask_trans rfl hm)

theorem only_moveSlot {m : Nat} {a s : State} (x1 x2 x3) (hm : 0x400008000530008180 ||| m = m) (h : Only m a s) : Only m a (State.moveSlot s x1 x2 x3) := by
  unfold State.moveSlot
  try dsimp only
  repeat' first
    | with_reducible exact Or.inr rfl
    | (with_reducible first
        | assumption | (intro _; try dsimp only) | apply only_putSlot | apply only_ite
        | (split; all_goals try dsimp only) | apply only_set_tbl | (apply only_mk (e33 := rfl)))
    | exact bit_of hm rfl | exact Or.inl (bit_of hm rfl) | exact Or.inr rfl | exact mask_trans rfl hm

theorem only_moveClear {m : Nat} {a s : State} (x1) (hm : 0x400008000530008180 ||| m = m) (h : Only m a s) : Only m a (State.moveClear s x1) := by
  unfold State.moveClear
  try dsimp only
  repeat' first
    | with_reducible exact Or.inr rfl
    | (with_reducible first
        | assumption | (intro _; try dsimp only) | apply only_moveSlot | apply only_ite
        | (split; all_goals try dsimp only) | apply only_set_tbl | (apply only_mk (e33 := rfl)))
    | exact bit_of hm rfl | exact Or.inl (bit_of hm rfl) | exact Or.inr rfl | exact mask_trans rfl hm

theorem only_moveCopy {m : Nat} {a s : State} (x1) (hm : 0x400008000530008180 ||| m = m) (h : Only m a s) : Only m a (State.moveCopy s x1) := by
  unfold State.moveCopy
  try dsimp only
  repeat' first
    | with_reducible exact Or.inr rfl
    | (with_reducible first
        | assumption | (intro _; try dsimp only) | apply only_moveSlot | apply only_ite
        | (split; all_goals try dsimp only) | apply only_set_tbl | (apply only_mk (e33 := rfl)))
    | exact bit_of hm rfl | exact Or.inl (bit_of hm rfl) | exact Or.inr rfl | exact mask_trans rfl hm

theorem only_runMoves {m : Nat} {a s : State} (x1) (hm : 0x400008000530008180 ||| m = m) (h : Only m a s) : Only m a (State.runMoves s x1) := by
  unfold State.runMoves
  try dsimp only
  repeat' first
    | (with_reducible first
        | assumption | (intro _; try dsimp only) | apply only_moveClear | apply only_moveCopy
        | (apply only_foldl; intro s x hs; try dsimp only) | (apply only_foldl_snd; intro c s x hs; try dsimp only)
        | (apply only_foldl_fst; intro c s x hs; try dsimp only)
        | (apply only_foldl_trd; intro c d s x hs; try dsimp only))
    | exact mask_trans rfl hm

theorem only_flowPlace {m : Nat} {a s : State} (x1 x2 x3) (hm : 0x402008040530008180 ||| m = m) (h : Only m a s) : Only m a (State.flowPlace s x1 x2 x3).2 := by
  unfold State.flowPlace
  try dsimp only
  repeat' first
    | with_reducible exact Or.inr rfl
    | (with_reducible first
        | assumption | (intro _; try dsimp only) | apply only_putSlot | apply only_runMoves | apply only_insFail
        | apply only_checkStash | refine only_snd ‹_ = (_, _)› ?_ | refine only_fst ‹_ = (_, _)› ?_
        | refine only_trd ‹_ = (_, _, _)› ?_ | refine only_fth ‹_ = (_, _, _, _)› ?_
        | (split; all_goals try dsimp only) | apply only_set_tbl | (apply only_mk (e33 := rfl)))
    | exact bit_of hm rfl | exact Or.inl (bit_of hm rfl) | exact Or.inr rfl | exact mask_trans rfl hm

theorem only_flowPlan {m : Nat} {a s : State} (x1) (hm : 0x400008000530000180 ||| m = m) (h : Only m a s) : Only m a (State.flowPlan s x1).2 := by
  unfold State.flowPlan
  try dsimp only
  repeat' first
    | (with_reducible first
        | assumption | (intro _; try dsimp only) | apply only_hbmRead
        | (apply only_foldl; intro s x hs; try dsimp only) | (apply only_foldl_snd; intro c s x hs; try dsimp only)
        | (apply only_foldl_fst; intro c s x hs; try dsimp only)
        | (apply only_foldl_trd; intro c d s x hs; try dsimp only))
    | exact mask_trans rfl hm

theorem only_setL2 {m : Nat} {a s : State} (x1 x2) (hm : 0x8000 ||| m = m) (h : Only m a s) : Only m a (State.setL2 s x1 x2) := by
  unfold State.setL2
  try dsimp only
  repeat' first
    | with_reducible exact Or.inr rfl
    | (with_reducible first
        | assumption | (intro _; try dsimp only) | apply only_set_tbl | (apply only_mk (e33 := rfl)))
    | exact bit_of hm rfl | exact Or.inl (bit_of hm rfl) | exact Or.inr rfl | exact mask_trans rfl hm

theorem only_takeGen {m : Nat} {a s : State} (hm : 0x8000 ||| m = m) (h : Only m a s) : Only m a (State.takeGen s).2 := by
  unfold State.takeGen
  try dsimp only
  repeat' first
    | with_reducible exact Or.inr rfl
    | (with_reducible first
        | assumption | (intro _; try dsimp only) | apply only_set_tbl | (apply only_mk (e33 := rfl)))
    | exact bit_of hm rfl | exact Or.inl (bit_of hm rfl) | exact Or.inr rfl | exact mask_trans rfl hm

theorem only_l2Insert {m : Nat} {a s : State} (x1) (hm : 0x402008040530008180 ||| m = m) (h : Only m a s) : Only m a (State.l2Insert s x1).2 := by
  unfold State.l2Insert
  try dsimp only
  repeat' first
    | (with_reducible first
        | assumption | (intro _; try dsimp only) | apply only_takeGen | apply only_runMoves | apply only_setL2
        | apply only_insFail | refine only_snd ‹_ = (_, _)› ?_ | refine only_fst ‹_ = (_, _)› ?_
        | refine only_trd ‹_ = (_, _, _)› ?_ | refine only_fth ‹_ = (_, _, _, _)› ?_
        | (split; all_goals try dsimp only))
    | exact mask_trans rfl hm

theorem only_setCur {m : Nat} {a s : State} (x1 x2) (hm : 0x40000000000 ||| m = m) (h : Only m a s) : Only m a (State.setCur s x1 x2) := by
  unfold State.setCur
  try dsimp only
  repeat' first
    | (with_reducible first
        | assumption | (intro _; try dsimp only) | apply only_setN)
    | exact mask_trans rfl hm | exact mask_trans (fieldMask_all _) (mask_trans rfl hm)

theorem only_setLoc {m : Nat} {a s : State} (x1 x2) (hm : 0x400008000530008180 ||| m = m) (h : Only m a s) : Only m a (State.setLoc s x1 x2) := by
  unfold State.setLoc
  try dsimp only
  repeat' first
    | with_reducible exact Or.inr rfl
    | (with_reducible first
        | assumption | (intro _; try dsimp only) | apply only_putSlot | apply only_ite
        | (split; all_goals try dsimp only) | apply only_set_tbl | (apply only_mk (e33 := rfl)))
    | exact bit_of hm rfl | exact Or.inl (bit_of hm rfl) | exact Or.inr rfl | exact mask_trans rfl hm

theorem only_setWin {m : Nat} {a s : State} (x1 x2) (hm : 0x8000 ||| m = m) (h : Only m a s) : Only m a (State.setWin s x1 x2) := by
  unfold State.setWin
  try dsimp only
  repeat' first
    | with_reducible exact Or.inr rfl
    | (with_reducible first
        | assumption | (intro _; try dsimp only) | apply only_set_tbl | (apply only_mk (e33 := rfl)))
    | exact bit_of hm rfl | exact Or.inl (bit_of hm rfl) | exact Or.inr rfl | exact mask_trans rfl hm

theorem only_settleJournal {m : Nat} {a s : State} (hm : 0x400008040530008180 ||| m = m) (h : Only m a s) : Only m a (State.settleJournal s) := by
  unfold State.settleJournal
  try dsimp only
  repeat' first
    | with_reducible exact Or.inr rfl
    | (with_reducible first
        | assumption | (intro _; try dsimp only) | apply only_moveClear | apply only_raise | apply only_ite
        | (apply only_foldl; intro s x hs; try dsimp only) | (apply only_foldl_snd; intro c s x hs; try dsimp only)
        | (apply only_foldl_fst; intro c s x hs; try dsimp only)
        | (apply only_foldl_trd; intro c d s x hs; try dsimp only) | refine only_snd ‹_ = (_, _)› ?_
        | refine only_fst ‹_ = (_, _)› ?_ | refine only_trd ‹_ = (_, _, _)› ?_ | refine only_fth ‹_ = (_, _, _, _)› ?_
        | (split; all_goals try dsimp only) | apply only_set_tbl | (apply only_mk (e33 := rfl)))
    | exact bit_of hm rfl | exact Or.inl (bit_of hm rfl) | exact Or.inr rfl | exact mask_trans rfl hm
    | exact mask_trans (evMask_all _) (mask_trans rfl hm) | apply mask_or

theorem only_stopMoves {m : Nat} {a s : State} (x1 x2) (hm : 0x400008000530008180 ||| m = m) (h : Only m a s) : Only m a (State.stopMoves s x1 x2) := by
  unfold State.stopMoves
  try dsimp only
  repeat' first
    | with_reducible exact Or.inr rfl
    | (with_reducible first
        | assumption | (intro _; try dsimp only) | apply only_runMoves | apply only_moveCopy | apply only_ite
        | (split; all_goals try dsimp only) | apply only_set_tbl | (apply only_mk (e33 := rfl)))
    | exact bit_of hm rfl | exact Or.inl (bit_of hm rfl) | exact Or.inr rfl | exact mask_trans rfl hm

theorem only_tblCursor {m : Nat} {a s : State} (x1 x2 x3) (hm : 0x40000000000 ||| m = m) (h : Only m a s) : Only m a (State.tblCursor s x1 x2 x3) := by
  unfold State.tblCursor
  try dsimp only
  repeat' first
    | (with_reducible first
        | assumption | (intro _; try dsimp only) | apply only_setCur | apply only_setN | apply only_setB
        | apply only_ite | (split; all_goals try dsimp only))
    | exact mask_trans rfl hm | exact mask_trans (fieldMask_all _) (mask_trans rfl hm)

theorem only_tblNextTurn {m : Nat} {a s : State} (x1 x2 x3) (hm : 0x8000 ||| m = m) (h : Only m a s) : Only m a (State.tblNextTurn s x1 x2 x3) := by
  unfold State.tblNextTurn
  try dsimp only
  repeat' first
    | with_reducible exact Or.inr rfl
    | (with_reducible first
        | assumption | (intro _; try dsimp only) | apply only_ite | (split; all_goals try dsimp only)
        | apply only_set_tbl | (apply only_mk (e33 := rfl)))
    | exact bit_of hm rfl | exact Or.inl (bit_of hm rfl) | exact Or.inr rfl | exact mask_trans rfl hm

theorem only_tblOutcome {m : Nat} {a s : State} (x1 x2 x3 x4) (hm : 0x40000008000 ||| m = m) (h : Only m a s) : Only m a (State.tblOutcome s x1 x2 x3 x4) := by
  unfold State.tblOutcome
  try dsimp only
  repeat' first
    | (with_reducible first
        | assumption | (intro _; try dsimp only) | apply only_setWin | apply only_setN | apply only_ite
        | (split; all_goals try dsimp only))
    | exact mask_trans rfl hm | exact mask_trans (fieldMask_all _) (mask_trans rfl hm)

theorem only_tblEnd {m : Nat} {a s : State} (x1 x2 x3 x4) (hm : 0x1ffffc30008080 ||| m = m) (h : Only m a s) : Only m a (State.tblEnd s x1 x2 x3 x4) := by
  unfold State.tblEnd
  try dsimp only
  repeat' first
    | (with_reducible first
        | assumption | (intro _; try dsimp only) | apply only_tblNextTurn | apply only_tblCursor
        | apply only_tblOutcome | apply only_raiseLimited | (split; all_goals try dsimp only))
    | exact mask_trans rfl hm | exact mask_trans (evMask_all _) (mask_trans rfl hm) | apply mask_or

theorem only_putHot {m : Nat} {a s : State} (x1 x2) (hm : 0x400008000530000180 ||| m = m) (h : Only m a s) : Only m a (State.putHot s x1 x2) := by
  unfold State.putHot
  try dsimp only
  repeat' first
    | (with_reducible first
        | assumption | (intro _; try dsimp only) | apply only_hbmPut)
    | exact mask_trans rfl hm

theorem only_writeBack {m : Nat} {a s : State} (x1) (hm : 0x400008000530010180 ||| m = m) (h : Only m a s) : Only m a (State.writeBack s x1) := by
  unfold State.writeBack
  try dsimp only
  repeat' first
    | with_reducible exact Or.inr rfl
    | (with_reducible first
        | assumption | (intro _; try dsimp only) | apply only_putHot | apply only_ite
        | (split; all_goals try dsimp only) | apply only_set_flw | (apply only_mk (e33 := rfl)))
    | exact bit_of hm rfl | exact Or.inl (bit_of hm rfl) | exact Or.inr rfl | exact mask_trans rfl hm

theorem only_cacheIn {m : Nat} {a s : State} (x1 x2 x3) (hm : 0x400008000530010180 ||| m = m) (h : Only m a s) : Only m a (State.cacheIn s x1 x2 x3) := by
  unfold State.cacheIn
  try dsimp only
  repeat' first
    | with_reducible exact Or.inr rfl
    | (with_reducible first
        | assumption | (intro _; try dsimp only) | apply only_writeBack | apply only_ite
        | (apply only_foldl; intro s x hs; try dsimp only) | (apply only_foldl_snd; intro c s x hs; try dsimp only)
        | (apply only_foldl_fst; intro c s x hs; try dsimp only)
        | (apply only_foldl_trd; intro c d s x hs; try dsimp only) | refine only_snd ‹_ = (_, _)› ?_
        | refine only_fst ‹_ = (_, _)› ?_ | refine only_trd ‹_ = (_, _, _)› ?_ | refine only_fth ‹_ = (_, _, _, _)› ?_
        | (split; all_goals try dsimp only) | apply only_set_flw | (apply only_mk (e33 := rfl)))
    | exact bit_of hm rfl | exact Or.inl (bit_of hm rfl) | exact Or.inr rfl | exact mask_trans rfl hm

theorem only_cacheUse {m : Nat} {a s : State} (x1) (hm : 0x10000 ||| m = m) (h : Only m a s) : Only m a (State.cacheUse s x1) := by
  unfold State.cacheUse
  try dsimp only
  repeat' first
    | with_reducible exact Or.inr rfl
    | (with_reducible first
        | assumption | (intro _; try dsimp only) | (split; all_goals try dsimp only) | apply only_set_flw
        | (apply only_mk (e33 := rfl)))
    | exact bit_of hm rfl | exact Or.inl (bit_of hm rfl) | exact Or.inr rfl | exact mask_trans rfl hm

theorem only_clearFlows {m : Nat} {a s : State} (hm : 0x80000018100 ||| m = m) (h : Only m a s) : Only m a (State.clearFlows s) := by
  unfold State.clearFlows
  try dsimp only
  repeat' first
    | (with_reducible first
        | exact wf_same rfl rfl rfl | exact wf_put _ _ rfl rfl rfl | exact fun _ => wf_nil rfl
        | exact wf_cut _ rfl rfl rfl)
    | with_reducible exact Or.inr rfl
    | (with_reducible first
        | assumption | (intro _; try dsimp only) | apply only_setN | apply only_ite
        | (apply only_foldl; intro s x hs; try dsimp only) | (apply only_foldl_snd; intro c s x hs; try dsimp only)
        | (apply only_foldl_fst; intro c s x hs; try dsimp only)
        | (apply only_foldl_trd; intro c d s x hs; try dsimp only) | refine only_snd ‹_ = (_, _)› ?_
        | refine only_fst ‹_ = (_, _)› ?_ | refine only_trd ‹_ = (_, _, _)› ?_ | refine only_fth ‹_ = (_, _, _, _)› ?_
        | (split; all_goals try dsimp only) | (apply only_mk (e33 := rfl)))
    | exact bit_of hm rfl | exact Or.inl (bit_of hm rfl)
    | (refine Or.inl ⟨bit_of hm rfl, ?_⟩; with_reducible first | exact wf_same rfl rfl rfl | exact wf_put _ _ rfl rfl rfl | exact fun _ => wf_nil rfl | exact wf_cut _ rfl rfl rfl)
    | exact Or.inr rfl | exact mask_trans rfl hm | exact mask_trans (fieldMask_all _) (mask_trans rfl hm)

theorem only_freeRec {m : Nat} {a s : State} (x1) (hm : 0x80000010000 ||| m = m) (h : Only m a s) : Only m a (State.freeRec s x1) := by
  unfold State.freeRec
  try dsimp only
  repeat' first
    | with_reducible exact Or.inr rfl
    | (with_reducible first
        | assumption | (intro _; try dsimp only) | apply only_setN | apply only_ite
        | (split; all_goals try dsimp only) | apply only_set_flw | (apply only_mk (e33 := rfl)))
    | exact bit_of hm rfl | exact Or.inl (bit_of hm rfl) | exact Or.inr rfl | exact mask_trans rfl hm
    | exact mask_trans (fieldMask_all _) (mask_trans rfl hm)

theorem only_hitRoll {m : Nat} {a s : State} (hm : 0x80000010000 ||| m = m) (h : Only m a s) : Only m a (State.hitRoll s) := by
  unfold State.hitRoll
  try dsimp only
  repeat' first
    | with_reducible exact Or.inr rfl
    | (with_reducible first
        | assumption | (intro _; try dsimp only) | apply only_setN | apply only_ite
        | (split; all_goals try dsimp only) | apply only_set_flw | (apply only_mk (e33 := rfl)))
    | exact bit_of hm rfl | exact Or.inl (bit_of hm rfl) | exact Or.inr rfl | exact mask_trans rfl hm
    | exact mask_trans (fieldMask_all _) (mask_trans rfl hm)

theorem only_setHot {m : Nat} {a s : State} (x1 x2) (hm : 0x400008000530010180 ||| m = m) (h : Only m a s) : Only m a (State.setHot s x1 x2) := by
  unfold State.setHot
  try dsimp only
  repeat' first
    | with_reducible exact Or.inr rfl
    | (with_reducible first
        | assumption | (intro _; try dsimp only) | apply only_putHot | (split; all_goals try dsimp only)
        | apply only_set_flw | (apply only_mk (e33 := rfl)))
    | exact bit_of hm rfl | exact Or.inl (bit_of hm rfl) | exact Or.inr rfl | exact mask_trans rfl hm

theorem only_lateLen {m : Nat} {a s : State} (x1 x2) (hm : 0x400008000530018180 ||| m = m) (h : Only m a s) : Only m a (State.lateLen s x1 x2) := by
  unfold State.lateLen
  try dsimp only
  repeat' first
    | with_reducible exact Or.inr rfl
    | (with_reducible first
        | assumption | (intro _; try dsimp only) | apply only_flowMatch | apply only_setHot | apply only_ite
        | (apply only_ite_snd <;> try dsimp only) | (apply only_ite_fst <;> try dsimp only)
        | refine only_snd ‹_ = (_, _)› ?_ | refine only_fst ‹_ = (_, _)› ?_ | refine only_trd ‹_ = (_, _, _)› ?_
        | refine only_fth ‹_ = (_, _, _, _)› ?_ | (split; all_goals try dsimp only) | apply only_set_tbl
        | (apply only_mk (e33 := rfl)))
    | exact bit_of hm rfl | exact Or.inl (bit_of hm rfl) | exact Or.inr rfl | exact mask_trans rfl hm

theorem only_noteHit {m : Nat} {a s : State} (x1) (hm : 0x80000010000 ||| m = m) (h : Only m a s) : Only m a (State.noteHit s x1) := by
  unfold State.noteHit
  try dsimp only
  repeat' first
    | with_reducible exact Or.inr rfl
    | (with_reducible first
        | assumption | (intro _; try dsimp only) | apply only_hitRoll | apply only_ite
        | (split; all_goals try dsimp only) | apply only_set_flw | (apply only_mk (e33 := rfl)))
    | exact bit_of hm rfl | exact Or.inl (bit_of hm rfl) | exact Or.inr rfl | exact mask_trans rfl hm

theorem only_noteKind {m : Nat} {a s : State} (x1 x2) (hm : 0x10000 ||| m = m) (h : Only m a s) : Only m a (State.noteKind s x1 x2) := by
  unfold State.noteKind
  try dsimp only
  repeat' first
    | with_reducible exact Or.inr rfl
    | (with_reducible first
        | assumption | (intro _; try dsimp only) | apply only_set_flw | (apply only_mk (e33 := rfl)))
    | exact bit_of hm rfl | exact Or.inl (bit_of hm rfl) | exact Or.inr rfl | exact mask_trans rfl hm

theorem only_telExport {m : Nat} {a s : State} (x1 x2 x3 x4) (hm : 0x9401ffffd300e0081 ||| m = m) (h : Only m a s) : Only m a (State.telExport s x1 x2 x3 x4) := by
  unfold State.telExport
  try dsimp only
  repeat' first
    | (with_reducible first
        | assumption | (intro _; try dsimp only) | apply only_request | apply only_sendTok | apply only_freeBuf
        | apply only_raiseLimited | apply only_bump | apply only_ite | (apply only_ite_snd <;> try dsimp only)
        | (apply only_ite_fst <;> try dsimp only) | refine only_snd ‹_ = (_, _)› ?_ | refine only_fst ‹_ = (_, _)› ?_
        | refine only_trd ‹_ = (_, _, _)› ?_ | refine only_fth ‹_ = (_, _, _, _)› ?_
        | (split; all_goals try dsimp only))
    | exact mask_trans rfl hm | exact mask_trans (evMask_all _) (mask_trans rfl hm)
    | exact mask_trans (ctrMask_all _) (mask_trans rfl hm) | apply mask_or

theorem only_removeRec {m : Nat} {a s : State} (x1) (hm : 0x49401ffffd300f0181 ||| m = m) (h : Only m a s) : Only m a (State.removeRec s x1) := by
  unfold State.removeRec
  try dsimp only
  repeat' first
    | with_reducible exact Or.inr rfl
    | (with_reducible first
        | assumption | (intro _; try dsimp only) | apply only_writeBack | apply only_telExport | apply only_freeRec
        | apply only_putHot | apply only_set_flw | (apply only_mk (e33 := rfl)))
    | exact bit_of hm rfl | exact Or.inl (bit_of hm rfl) | exact Or.inr rfl | exact mask_trans rfl hm

theorem only_setCold {m : Nat} {a s : State} (x1 x2) (hm : 0x400008000530000180 ||| m = m) (h : Only m a s) : Only m a (State.setCold s x1 x2) := by
  unfold State.setCold
  try dsimp only
  repeat' first
    | (with_reducible first
        | assumption | (intro _; try dsimp only) | apply only_hbmPut)
    | exact mask_trans rfl hm

theorem only_setRecord {m : Nat} {a s : State} (x1 x2) (hm : 0x400008000530010180 ||| m = m) (h : Only m a s) : Only m a (State.setRecord s x1 x2) := by
  unfold State.setRecord
  try dsimp only
  repeat' first
    | (with_reducible first
        | assumption | (intro _; try dsimp only) | apply only_setCold | apply only_setHot)
    | exact mask_trans rfl hm

theorem only_takeRec {m : Nat} {a s : State} (hm : 0x80100010000 ||| m = m) (h : Only m a s) : Only m a (State.takeRec s).2 := by
  unfold State.takeRec
  try dsimp only
  repeat' first
    | with_reducible exact Or.inr rfl
    | (with_reducible first
        | assumption | (intro _; try dsimp only) | apply only_draw | apply only_setN | apply only_ite
        | (apply only_ite_snd <;> try dsimp only) | (apply only_ite_fst <;> try dsimp only)
        | refine only_snd ‹_ = (_, _)› ?_ | refine only_fst ‹_ = (_, _)› ?_ | refine only_trd ‹_ = (_, _, _)› ?_
        | refine only_fth ‹_ = (_, _, _, _)› ?_ | (split; all_goals try dsimp only) | apply only_set_flw
        | (apply only_mk (e33 := rfl)))
    | exact bit_of hm rfl | exact Or.inl (bit_of hm rfl) | exact Or.inr rfl | exact mask_trans rfl hm
    | exact mask_trans (fieldMask_all _) (mask_trans rfl hm)

theorem only_awaitTs {m : Nat} {a s : State} (x1 x2 x3) (hm : 0x80 ||| m = m) (h : Only m a s) : Only m a (State.awaitTs s x1 x2 x3) := by
  unfold State.awaitTs
  try dsimp only
  repeat' first
    | with_reducible exact Or.inr rfl
    | (with_reducible first
        | assumption | (intro _; try dsimp only) | apply only_set_hst | (apply only_mk (e33 := rfl)))
    | exact bit_of hm rfl | exact Or.inl (bit_of hm rfl) | exact Or.inr rfl | exact mask_trans rfl hm

theorem only_endPages {m : Nat} {a s : State} (x1 x2) (hm : 0xffffeba00d30da0191 ||| m = m) (h : Only m a s) : Only m a (State.endPages s x1 x2) := by
  unfold State.endPages
  try dsimp only
  repeat' first
    | (with_reducible first
        | assumption | (intro _; try dsimp only) | apply only_dmaRefused
        | (apply only_foldl; intro s x hs; try dsimp only) | (apply only_foldl_snd; intro c s x hs; try dsimp only)
        | (apply only_foldl_fst; intro c s x hs; try dsimp only)
        | (apply only_foldl_trd; intro c d s x hs; try dsimp only) | refine only_snd ‹_ = (_, _)› ?_
        | refine only_fst ‹_ = (_, _)› ?_ | refine only_trd ‹_ = (_, _, _)› ?_ | refine only_fth ‹_ = (_, _, _, _)› ?_
        | (split; all_goals try dsimp only))
    | exact mask_trans rfl hm

theorem only_hostDown {m : Nat} {a s : State} (x1) (hm : 0xfffffba00d30da0191 ||| m = m) (h : Only m a s) : Only m a (State.hostDown s x1) := by
  unfold State.hostDown
  try dsimp only
  repeat' first
    | (with_reducible first
        | assumption | (intro _; try dsimp only) | apply only_endPages | apply only_raise | apply only_setB
        | apply only_ite | (split; all_goals try dsimp only))
    | exact mask_trans rfl hm | exact mask_trans (evMask_all _) (mask_trans rfl hm)
    | exact mask_trans (fieldMask_all _) (mask_trans rfl hm) | apply mask_or

theorem only_hostWrite {m : Nat} {a s : State} (x1 x2 x3) (hm : 0x80 ||| m = m) (h : Only m a s) : Only m a (State.hostWrite s x1 x2 x3) := by
  unfold State.hostWrite
  try dsimp only
  repeat' first
    | with_reducible exact Or.inr rfl
    | (with_reducible first
        | assumption | (intro _; try dsimp only) | (apply only_foldl; intro s x hs; try dsimp only)
        | (apply only_foldl_snd; intro c s x hs; try dsimp only)
        | (apply only_foldl_fst; intro c s x hs; try dsimp only)
        | (apply only_foldl_trd; intro c d s x hs; try dsimp only) | apply only_set_hst | (apply only_mk (e33 := rfl)))
    | exact bit_of hm rfl | exact Or.inl (bit_of hm rfl) | exact Or.inr rfl | exact mask_trans rfl hm

theorem only_onStarted {m : Nat} {a s : State} (x1 x2) (hm : 0x100000400080 ||| m = m) (h : Only m a s) : Only m a (State.onStarted s x1 x2) := by
  unfold State.onStarted
  try dsimp only
  repeat' first
    | with_reducible exact Or.inr rfl
    | (with_reducible first
        | assumption | (intro _; try dsimp only) | apply only_sendCont | apply only_setN | apply only_ite
        | (split; all_goals try dsimp only) | apply only_set_hst | (apply only_mk (e33 := rfl)))
    | exact bit_of hm rfl | exact Or.inl (bit_of hm rfl) | exact Or.inr rfl | exact mask_trans rfl hm
    | exact mask_trans (fieldMask_all _) (mask_trans rfl hm)

theorem only_oweTx {m : Nat} {a s : State} (x1 x2 x3) (hm : 0x80 ||| m = m) (h : Only m a s) : Only m a (State.oweTx s x1 x2 x3) := by
  unfold State.oweTx
  try dsimp only
  repeat' first
    | with_reducible exact Or.inr rfl
    | (with_reducible first
        | assumption | (intro _; try dsimp only) | apply only_set_hst | (apply only_mk (e33 := rfl)))
    | exact bit_of hm rfl | exact Or.inl (bit_of hm rfl) | exact Or.inr rfl | exact mask_trans rfl hm

theorem only_rxNone {m : Nat} {a s : State} (x1) (hm : 0x800010000430000080 ||| m = m) (h : Only m a s) : Only m a (State.rxNone s x1) := by
  unfold State.rxNone
  try dsimp only
  repeat' first
    | (with_reducible first
        | assumption | (intro _; try dsimp only) | apply only_raiseLimited | apply only_bump | apply only_countF)
    | exact mask_trans rfl hm | exact mask_trans (evMask_all _) (mask_trans rfl hm)
    | exact mask_trans (fieldMask_all _) (mask_trans rfl hm) | exact mask_trans (ctrMask_all _) (mask_trans rfl hm)
    | apply mask_or

theorem only_parkToRing {m : Nat} {a s : State} (x1 x2 x3) (hm : 0x800010000430000080 ||| m = m) (h : Only m a s) : Only m a (State.parkToRing s x1 x2 x3).1 := by
  unfold State.parkToRing
  try dsimp only
  repeat' first
    | with_reducible exact Or.inr rfl
    | (with_reducible first
        | assumption | (intro _; try dsimp only) | apply only_rxNone | apply only_ite
        | (apply only_ite_snd <;> try dsimp only) | (apply only_ite_fst <;> try dsimp only)
        | refine only_snd ‹_ = (_, _)› ?_ | refine only_fst ‹_ = (_, _)› ?_ | refine only_trd ‹_ = (_, _, _)› ?_
        | refine only_fth ‹_ = (_, _, _, _)› ?_ | (split; all_goals try dsimp only) | apply only_set_hst
        | (apply only_mk (e33 := rfl)))
    | exact bit_of hm rfl | exact Or.inl (bit_of hm rfl) | exact Or.inr rfl | exact mask_trans rfl hm

theorem only_ringDone {m : Nat} {a s : State} (x1) (hm : 0x10000000000080 ||| m = m) (h : Only m a s) : Only m a (State.ringDone s x1) := by
  unfold State.ringDone
  try dsimp only
  repeat' first
    | with_reducible exact Or.inr rfl
    | (with_reducible first
        | assumption | (intro _; try dsimp only) | apply only_setN | apply only_signal | apply only_ite
        | (split; all_goals try dsimp only) | apply only_set_hst | (apply only_mk (e33 := rfl)))
    | exact bit_of hm rfl | exact Or.inl (bit_of hm rfl) | exact Or.inr rfl | exact mask_trans rfl hm
    | exact mask_trans (fieldMask_all _) (mask_trans rfl hm)

theorem only_rxWrite {m : Nat} {a s : State} (x1 x2 x3 x4 x5 x6 x7 x8 x9 x10 x11) (hm : 0x800010000000000080 ||| m = m) (h : Only m a s) : Only m a (State.rxWrite s x1 x2 x3 x4 x5 x6 x7 x8 x9 x10 x11) := by
  unfold State.rxWrite
  try dsimp only
  repeat' first
    | (with_reducible first
        | assumption | (intro _; try dsimp only) | apply only_hostWrite | apply only_ringDone | apply only_bump
        | apply only_ite | (split; all_goals try dsimp only))
    | exact mask_trans rfl hm | exact mask_trans (ctrMask_all _) (mask_trans rfl hm)

theorem only_lockIn {m : Nat} {a s : State} (x1 x2) (hm : 0x800000 ||| m = m) (h : Only m a s) : Only m a (State.lockIn s x1 x2) := by
  unfold State.lockIn
  try dsimp only
  repeat' first
    | (with_reducible first
        | assumption | (intro _; try dsimp only) | apply only_setTlb)
    | exact mask_trans rfl hm

theorem only_pinPages {m : Nat} {a s : State} (x1 x2 x3 x4) (hm : 0x500008000530000180 ||| m = m) (h : Only m a s) : Only m a (State.pinPages s x1 x2 x3 x4).2 := by
  induction x2 generalizing s x3 x4 with
  | zero => rw [State.pinPages]; exact h
  | succ n ih =>
    rw [State.pinPages]
    repeat' first
      | (with_reducible first
          | assumption | (intro _; try dsimp only) | apply ih | apply only_walk | apply only_ite
          | (apply only_ite_snd <;> try dsimp only) | (apply only_ite_fst <;> try dsimp only)
          | refine only_snd ‹_ = (_, _)› ?_ | refine only_fst ‹_ = (_, _)› ?_ | refine only_trd ‹_ = (_, _, _)› ?_
          | refine only_fth ‹_ = (_, _, _, _)› ?_ | (split; all_goals try dsimp only))
      | exact mask_trans rfl hm

theorem only_pinEnts {m : Nat} {a s : State} (x1) (hm : 0x500008000530000180 ||| m = m) (h : Only m a s) : Only m a (State.pinEnts s x1).2 := by
  unfold State.pinEnts
  try dsimp only
  repeat' first
    | (with_reducible first
        | assumption | (intro _; try dsimp only) | apply only_pinPages
        | (apply only_foldl; intro s x hs; try dsimp only) | (apply only_foldl_snd; intro c s x hs; try dsimp only)
        | (apply only_foldl_fst; intro c s x hs; try dsimp only)
        | (apply only_foldl_trd; intro c d s x hs; try dsimp only) | refine only_snd ‹_ = (_, _)› ?_
        | refine only_fst ‹_ = (_, _)› ?_ | refine only_trd ‹_ = (_, _, _)› ?_ | refine only_fth ‹_ = (_, _, _, _)› ?_
        | (split; all_goals try dsimp only))
    | exact mask_trans rfl hm

theorem only_lockPins {m : Nat} {a s : State} (x1) (hm : 0x500008000530800180 ||| m = m) (h : Only m a s) : Only m a (State.lockPins s x1).2 := by
  unfold State.lockPins
  try dsimp only
  repeat' first
    | (with_reducible first
        | assumption | (intro _; try dsimp only) | apply only_pinEnts | apply only_lockIn | apply only_ite
        | (apply only_ite_snd <;> try dsimp only) | (apply only_ite_fst <;> try dsimp only)
        | (apply only_foldl; intro s x hs; try dsimp only) | (apply only_foldl_snd; intro c s x hs; try dsimp only)
        | (apply only_foldl_fst; intro c s x hs; try dsimp only)
        | (apply only_foldl_trd; intro c d s x hs; try dsimp only) | refine only_snd ‹_ = (_, _)› ?_
        | refine only_fst ‹_ = (_, _)› ?_ | refine only_trd ‹_ = (_, _, _)› ?_ | refine only_fth ‹_ = (_, _, _, _)› ?_
        | (split; all_goals try dsimp only))
    | exact mask_trans rfl hm

theorem only_unlockPins {m : Nat} {a s : State} (x1) (hm : 0x800000 ||| m = m) (h : Only m a s) : Only m a (State.unlockPins s x1) := by
  unfold State.unlockPins
  try dsimp only
  repeat' first
    | (with_reducible first
        | assumption | (intro _; try dsimp only) | apply only_setTlb
        | (apply only_foldl; intro s x hs; try dsimp only) | (apply only_foldl_snd; intro c s x hs; try dsimp only)
        | (apply only_foldl_fst; intro c s x hs; try dsimp only)
        | (apply only_foldl_trd; intro c d s x hs; try dsimp only))
    | exact mask_trans rfl hm

theorem only_stopTmpl {m : Nat} {a s : State} (x1) (hm : 0x100013204308a2280 ||| m = m) (h : Only m a s) : Only m a (State.stopTmpl s x1) := by
  unfold State.stopTmpl
  try dsimp only
  repeat' first
    | (with_reducible first
        | assumption | (intro _; try dsimp only) | apply only_unlockPins | apply only_disableTmpl)
    | exact mask_trans rfl hm

theorem only_abortWhere {m : Nat} {a s : State} (x1) (hm : 0xffffeba00d30da0191 ||| m = m) (h : Only m a s) : Only m a (State.abortWhere s x1) := by
  unfold State.abortWhere
  try dsimp only
  repeat' first
    | (with_reducible first
        | assumption | (intro _; try dsimp only) | apply only_abortTask
        | (apply only_foldl; intro s x hs; try dsimp only) | (apply only_foldl_snd; intro c s x hs; try dsimp only)
        | (apply only_foldl_fst; intro c s x hs; try dsimp only)
        | (apply only_foldl_trd; intro c d s x hs; try dsimp only))
    | exact mask_trans rfl hm

theorem only_afterRestore {m : Nat} {a s : State} (hm : 0x50000b100530800180 ||| m = m) (h : Only m a s) : Only m a (State.afterRestore s) := by
  unfold State.afterRestore
  try dsimp only
  repeat' first
    | (with_reducible first
        | assumption | (intro _; try dsimp only) | apply only_lockPins | apply only_setN | apply only_raise
        | apply only_setB | apply only_ite | (apply only_ite_snd <;> try dsimp only)
        | (apply only_ite_fst <;> try dsimp only) | (apply only_foldl; intro s x hs; try dsimp only)
        | (apply only_foldl_snd; intro c s x hs; try dsimp only)
        | (apply only_foldl_fst; intro c s x hs; try dsimp only)
        | (apply only_foldl_trd; intro c d s x hs; try dsimp only) | refine only_snd ‹_ = (_, _)› ?_
        | refine only_fst ‹_ = (_, _)› ?_ | refine only_trd ‹_ = (_, _, _)› ?_ | refine only_fth ‹_ = (_, _, _, _)› ?_
        | (split; all_goals try dsimp only))
    | exact mask_trans rfl hm | exact mask_trans (evMask_all _) (mask_trans rfl hm)
    | exact mask_trans (fieldMask_all _) (mask_trans rfl hm) | apply mask_or

theorem only_afterRetired {m : Nat} {a s : State} (x1) (hm : 0x10001322c308a2281 ||| m = m) (h : Only m a s) : Only m a (State.afterRetired s x1) := by
  unfold State.afterRetired
  try dsimp only
  repeat' first
    | with_reducible exact Or.inr rfl
    | (with_reducible first
        | assumption | (intro _; try dsimp only) | apply only_stopTmpl | apply only_wakeCluster | apply only_raise
        | apply only_ite | (apply only_foldl; intro s x hs; try dsimp only)
        | (apply only_foldl_snd; intro c s x hs; try dsimp only)
        | (apply only_foldl_fst; intro c s x hs; try dsimp only)
        | (apply only_foldl_trd; intro c d s x hs; try dsimp only) | refine only_snd ‹_ = (_, _)› ?_
        | refine only_fst ‹_ = (_, _)› ?_ | refine only_trd ‹_ = (_, _, _)› ?_ | refine only_fth ‹_ = (_, _, _, _)› ?_
        | (split; all_goals try dsimp only) | apply only_set_tsk | (apply only_mk (e33 := rfl)))
    | exact bit_of hm rfl | exact Or.inl (bit_of hm rfl) | exact Or.inr rfl | exact mask_trans rfl hm
    | exact mask_trans (evMask_all _) (mask_trans rfl hm) | apply mask_or

theorem only_cutTx {m : Nat} {a s : State} (hm : 0x10000200430020880 ||| m = m) (h : Only m a s) : Only m a (State.cutTx s) := by
  unfold State.cutTx
  try dsimp only
  repeat' first
    | with_reducible exact Or.inr rfl
    | (with_reducible first
        | assumption | (intro _; try dsimp only) | apply only_endReplica
        | (apply only_foldl; intro s x hs; try dsimp only) | (apply only_foldl_snd; intro c s x hs; try dsimp only)
        | (apply only_foldl_fst; intro c s x hs; try dsimp only)
        | (apply only_foldl_trd; intro c d s x hs; try dsimp only) | apply only_set_prt | (apply only_mk (e33 := rfl)))
    | exact bit_of hm rfl | exact Or.inl (bit_of hm rfl) | exact Or.inr rfl | exact mask_trans rfl hm

theorem only_discardEnts {m : Nat} {a s : State} (x1) (hm : 0x900003204300a2280 ||| m = m) (h : Only m a s) : Only m a (State.discardEnts s x1) := by
  unfold State.discardEnts
  try dsimp only
  repeat' first
    | (with_reducible first
        | assumption | (intro _; try dsimp only) | apply only_loseEnt | apply only_bump
        | (apply only_foldl; intro s x hs; try dsimp only) | (apply only_foldl_snd; intro c s x hs; try dsimp only)
        | (apply only_foldl_fst; intro c s x hs; try dsimp only)
        | (apply only_foldl_trd; intro c d s x hs; try dsimp only))
    | exact mask_trans rfl hm | exact mask_trans (ctrMask_all _) (mask_trans rfl hm)

theorem only_discardPkt {m : Nat} {a s : State} (x1) (hm : 0x10400220430022a80 ||| m = m) (h : Only m a s) : Only m a (State.discardPkt s x1) := by
  unfold State.discardPkt
  try dsimp only
  repeat' first
    | (with_reducible first
        | assumption | (intro _; try dsimp only) | apply only_delPkt | apply only_leaveBank | apply only_freed
        | apply only_dropPkt | apply only_bump | apply only_ite | (apply only_ite_snd <;> try dsimp only)
        | (apply only_ite_fst <;> try dsimp only) | refine only_snd ‹_ = (_, _)› ?_ | refine only_fst ‹_ = (_, _)› ?_
        | refine only_trd ‹_ = (_, _, _)› ?_ | refine only_fth ‹_ = (_, _, _, _)› ?_
        | (split; all_goals try dsimp only))
    | exact mask_trans rfl hm | exact mask_trans (ctrMask_all _) (mask_trans rfl hm)

theorem only_loseBlock {m : Nat} {a s : State} (x1) (hm : 0xfffffffffc00000000 ||| m = m) (h : Only m a s) : Only m a (State.loseBlock s x1) := by
  unfold State.loseBlock
  try dsimp only
  repeat' first
    | with_reducible exact Or.inr rfl
    | (with_reducible first
        | assumption | (intro _; try dsimp only) | apply only_clearBlockCtrs | (apply only_mk (e33 := rfl)))
    | exact bit_of hm rfl | exact Or.inl (bit_of hm rfl) | exact Or.inl (bits_of hm rfl) | exact Or.inr rfl
    | exact mask_trans rfl hm | exact mask_trans (blockMask_all _) (mask_trans rfl hm)

theorem only_losePipe {m : Nat} {a s : State} (x1) (hm : 0x1ffffc00009004 ||| m = m) (h : Only m a s) : Only m a (State.losePipe s x1) := by
  unfold State.losePipe
  try dsimp only
  repeat' first
    | with_reducible exact Or.inr rfl
    | (with_reducible first
        | assumption | (intro _; try dsimp only) | (apply only_mk (e33 := rfl)))
    | exact bit_of hm rfl | exact Or.inl (bit_of hm rfl) | exact Or.inl (bits_of hm rfl) | exact Or.inr rfl
    | exact mask_trans rfl hm

theorem only_loseRetention {m : Nat} {a s : State} (x1) (hm : 0x400000 ||| m = m) (h : Only m a s) : Only m a (State.loseRetention s x1) := by
  unfold State.loseRetention
  try dsimp only
  repeat' first
    | with_reducible exact Or.inr rfl
    | (with_reducible first
        | assumption | (intro _; try dsimp only) | apply only_set_eng | (apply only_mk (e33 := rfl)))
    | exact bit_of hm rfl | exact Or.inl (bit_of hm rfl) | exact Or.inr rfl | exact mask_trans rfl hm

theorem only_domLost {m : Nat} {a s : State} (x1) (hm : 0xfffffffffd31ffb3d5 ||| m = m) (h : Only m a s) : Only m a (State.domLost s x1) := by
  unfold State.domLost
  try dsimp only
  repeat' first
    | (with_reducible first
        | exact wf_same rfl rfl rfl | exact wf_put _ _ rfl rfl rfl | exact fun _ => wf_nil rfl
        | exact wf_cut _ rfl rfl rfl)
    | with_reducible exact Or.inr rfl
    | (with_reducible first
        | assumption | (intro _; try dsimp only) | apply only_loseRetention | apply only_hostDown
        | apply only_losePipe | apply only_loseBlock | apply only_setB | apply only_setReg | apply only_ite
        | (split; all_goals try dsimp only) | apply only_set_tim | apply only_set_hst | apply only_set_cls
        | apply only_set_tbl | apply only_set_flw | apply only_set_tmg | apply only_set_tsk | apply only_set_aut
        | apply only_set_sau | apply only_set_mmu | apply only_set_pkm | (apply only_mk (e33 := rfl)))
    | exact bit_of hm rfl | exact Or.inl (bit_of hm rfl)
    | (refine Or.inl ⟨bit_of hm rfl, ?_⟩; with_reducible first | exact wf_same rfl rfl rfl | exact wf_put _ _ rfl rfl rfl | exact fun _ => wf_nil rfl | exact wf_cut _ rfl rfl rfl)
    | exact Or.inr rfl | exact mask_trans rfl hm | exact mask_trans (fieldMask_all _) (mask_trans rfl hm)

theorem only_drawSeed {m : Nat} {a s : State} (hm : 0x100000000 ||| m = m) (h : Only m a s) : Only m a (State.drawSeed s).2 := by
  unfold State.drawSeed
  try dsimp only
  repeat' first
    | (with_reducible first
        | assumption | (intro _; try dsimp only) | apply only_draw | refine only_snd ‹_ = (_, _)› ?_
        | refine only_fst ‹_ = (_, _)› ?_ | refine only_trd ‹_ = (_, _, _)› ?_ | refine only_fth ‹_ = (_, _, _, _)› ?_
        | (split; all_goals try dsimp only))
    | exact mask_trans rfl hm

theorem only_drawSeeds {m : Nat} {a s : State} (hm : 0xc010001a000 ||| m = m) (h : Only m a s) : Only m a (State.drawSeeds s) := by
  unfold State.drawSeeds
  try dsimp only
  repeat' first
    | with_reducible exact Or.inr rfl
    | (with_reducible first
        | assumption | (intro _; try dsimp only) | apply only_drawSeed | apply only_setB | apply only_ite
        | (apply only_ite_snd <;> try dsimp only) | (apply only_ite_fst <;> try dsimp only)
        | refine only_snd ‹_ = (_, _)› ?_ | refine only_fst ‹_ = (_, _)› ?_ | refine only_trd ‹_ = (_, _, _)› ?_
        | refine only_fth ‹_ = (_, _, _, _)› ?_ | (split; all_goals try dsimp only) | (apply only_mk (e33 := rfl)))
    | exact bit_of hm rfl | exact Or.inl (bit_of hm rfl) | exact Or.inr rfl | exact mask_trans rfl hm
    | exact mask_trans (fieldMask_all _) (mask_trans rfl hm)

theorem only_dropSaved {m : Nat} {a s : State} (hm : 0x1ffffc00aff004 ||| m = m) (h : Only m a s) : Only m a (State.dropSaved s) := by
  unfold State.dropSaved
  try dsimp only
  repeat' first
    | with_reducible exact Or.inr rfl
    | (with_reducible first
        | assumption | (intro _; try dsimp only) | (split; all_goals try dsimp only) | (apply only_mk (e33 := rfl)))
    | exact bit_of hm rfl | exact Or.inl (bit_of hm rfl) | exact Or.inl (bits_of hm rfl) | exact Or.inr rfl
    | exact mask_trans rfl hm

theorem only_dropUnsaved {m : Nat} {a s : State} (hm : 0xfffffffffd79ffbbd9 ||| m = m) (h : Only m a s) : Only m a (State.dropUnsaved s) := by
  unfold State.dropUnsaved
  apply only_mk (e33 := rfl)
  case h =>
    exact only_foldl (fun u x hu => only_hostDown x (mask_trans rfl hm) hu)
      (only_foldl (fun u x hu => only_linkDown x (mask_trans rfl hm) hu)
        (only_foldl (fun u x hu => only_freeRec _ (mask_trans rfl hm) hu)
          (only_foldl (fun u x hu => only_writeBack _ (mask_trans rfl hm) hu) h)))
  case e25 | e26 => exact Or.inl (bits_of hm rfl)
  case e0 | e3 | e6 | e7 | e9 | e11 | e12 | e13 | e15 | e16 | e17 | e18 | e19 | e20 | e21 | e22 | e23 | e24 | e27 | e30 => exact Or.inl (bit_of hm rfl)
  all_goals exact Or.inr rfl

theorem only_emptyQueues {m : Nat} {a s : State} (hm : 0x10000600430060080 ||| m = m) (h : Only m a s) : Only m a (State.emptyQueues s) := by
  unfold State.emptyQueues
  try dsimp only
  repeat' first
    | (with_reducible first
        | assumption | (intro _; try dsimp only) | apply only_popHead | apply only_endReplica | apply only_countF
        | (apply only_foldl; intro s x hs; try dsimp only) | (apply only_foldl_snd; intro c s x hs; try dsimp only)
        | (apply only_foldl_fst; intro c s x hs; try dsimp only)
        | (apply only_foldl_trd; intro c d s x hs; try dsimp only))
    | exact mask_trans rfl hm | exact mask_trans (fieldMask_all _) (mask_trans rfl hm)

end Sys2Proof.Machine
end

