-- ==== Sys2Proof/Laws/Only3.lean ====
section
/-! SUPPORT. What the operations of the machine may change and what they keep, one lemma each (part 3 of 8). -/

namespace Sys2Proof.Machine

open Sys2Proof

set_option linter.all false
set_option Elab.async false

theorem only_forceDrain {m : Nat} {a s : State} (hm : 0xfffffffffd30deab91 ||| m = m) (h : Only m a s) : Only m a (State.forceDrain s) := by
  unfold State.forceDrain
  try dsimp only
  repeat' first
    | (with_reducible first
        | assumption | (intro _; try dsimp only) | apply only_discardPkt | apply only_cutTx | apply only_emptyQueues
        | apply only_abortWhere | apply only_discardEnts | apply only_tblEnd
        | (apply only_foldl; intro s x hs; try dsimp only) | (apply only_foldl_snd; intro c s x hs; try dsimp only)
        | (apply only_foldl_fst; intro c s x hs; try dsimp only)
        | (apply only_foldl_trd; intro c d s x hs; try dsimp only) | refine only_snd ‹_ = (_, _)› ?_
        | refine only_fst ‹_ = (_, _)› ?_ | refine only_trd ‹_ = (_, _, _)› ?_ | refine only_fth ‹_ = (_, _, _, _)› ?_
        | (split; all_goals try dsimp only))
    | exact mask_trans rfl hm

theorem only_keepCursor {m : Nat} {a s₀ s : State} (w) (hm : 0x40000000000 ||| m = m) (h : Only m a s) : Only m a (State.keepCursor s₀ s w) := by
  unfold State.keepCursor
  split
  · exact only_ite (only_setN _ _ _ (mask_trans rfl hm) (only_setN _ _ _ (mask_trans rfl hm) (only_setB _ _ _ (mask_trans rfl hm) h))) h
  · exact h

theorem only_keepAlwaysOn {m : Nat} {a s t : State} (hm : 0xffffffffffffffffff ||| m = m) (h : Only m a s) (g : Only m a t) :
    Only m a (State.keepAlwaysOn s t) := by
  unfold State.keepAlwaysOn
  dsimp only
  refine only_setB _ _ _ (mask_trans rfl hm) ?_
  have k : ∀ u, Only m a u → Only m a ((List.range 5).foldl (State.keepCursor s) u) := fun u hu =>
    only_foldl (fun u x hu => only_keepCursor x (mask_trans rfl hm) hu) hu
  refine only_ite (k _ ?_) (only_setB _ _ _ (mask_trans rfl hm) (only_setB _ _ _ (mask_trans rfl hm) (k _ ?_))) <;>
    exact only_full hm ⟨g.keep.pending, g.keep.lease, fun x => h.keep.hbm x, g.keep.fuse⟩

theorem only_remapMargins {m : Nat} {a s : State} (hm : 0x8000000000000 ||| m = m) (h : Only m a s) : Only m a (State.remapMargins s) := by
  unfold State.remapMargins
  try dsimp only
  repeat' first
    | (with_reducible first
        | assumption | (intro _; try dsimp only) | apply only_setN | (apply only_foldl; intro s x hs; try dsimp only)
        | (apply only_foldl_snd; intro c s x hs; try dsimp only)
        | (apply only_foldl_fst; intro c s x hs; try dsimp only)
        | (apply only_foldl_trd; intro c d s x hs; try dsimp only))
    | exact mask_trans rfl hm | exact mask_trans (fieldMask_all _) (mask_trans rfl hm)

theorem only_setRemap {m : Nat} {a s : State} (x1 x2 x3 x4 x5 x6) (hm : 0x8000000000100 ||| m = m) (h : Only m a s) : Only m a (State.setRemap s x1 x2 x3 x4 x5 x6) := by
  unfold State.setRemap
  try dsimp only
  repeat' first
    | (with_reducible first
        | exact wf_same rfl rfl rfl | exact wf_put _ _ rfl rfl rfl | exact fun _ => wf_nil rfl
        | exact wf_cut _ rfl rfl rfl)
    | with_reducible exact Or.inr rfl
    | (with_reducible first
        | assumption | (intro _; try dsimp only) | apply only_setN | apply only_setB | apply only_set_hbm
        | (apply only_mk (e33 := rfl)))
    | exact bit_of hm rfl | exact Or.inl (bit_of hm rfl)
    | (refine Or.inl ⟨bit_of hm rfl, ?_⟩; with_reducible first | exact wf_same rfl rfl rfl | exact wf_put _ _ rfl rfl rfl | exact fun _ => wf_nil rfl | exact wf_cut _ rfl rfl rfl)
    | exact Or.inr rfl | exact mask_trans rfl hm | exact mask_trans (fieldMask_all _) (mask_trans rfl hm)

theorem only_loadRemap {m : Nat} {a s : State} (hm : 0x8000410000180 ||| m = m) (h : Only m a s) : Only m a (State.loadRemap s) := by
  unfold State.loadRemap
  try dsimp only
  repeat' first
    | (with_reducible first
        | assumption | (intro _; try dsimp only) | apply only_setRemap | apply only_remapMargins | apply only_raise
        | apply only_ite | (apply only_foldl; intro s x hs; try dsimp only)
        | (apply only_foldl_snd; intro c s x hs; try dsimp only)
        | (apply only_foldl_fst; intro c s x hs; try dsimp only)
        | (apply only_foldl_trd; intro c d s x hs; try dsimp only) | refine only_snd ‹_ = (_, _)› ?_
        | refine only_fst ‹_ = (_, _)› ?_ | refine only_trd ‹_ = (_, _, _)› ?_ | refine only_fth ‹_ = (_, _, _, _)› ?_
        | (split; all_goals try dsimp only))
    | exact mask_trans rfl hm | exact mask_trans (evMask_all _) (mask_trans rfl hm) | apply mask_or

theorem only_loseHbm {m : Nat} {a s : State} (hm : 0x80000010100 ||| m = m) (h : Only m a s) : Only m a (State.loseHbm s) := by
  unfold State.loseHbm
  try dsimp only
  repeat' first
    | (with_reducible first
        | exact wf_same rfl rfl rfl | exact wf_put _ _ rfl rfl rfl | exact fun _ => wf_nil rfl
        | exact wf_cut _ rfl rfl rfl)
    | with_reducible exact Or.inr rfl
    | (with_reducible first
        | assumption | (intro _; try dsimp only) | apply only_noRecords | apply only_set_hbm
        | (apply only_mk (e33 := rfl)))
    | exact bit_of hm rfl | exact Or.inl (bit_of hm rfl)
    | (refine Or.inl ⟨bit_of hm rfl, ?_⟩; with_reducible first | exact wf_same rfl rfl rfl | exact wf_put _ _ rfl rfl rfl | exact fun _ => wf_nil rfl | exact wf_cut _ rfl rfl rfl)
    | exact Or.inr rfl | exact mask_trans rfl hm

theorem only_loseSwitched {m : Nat} {a s : State} (hm : 0xffffffffffffffffff ||| m = m) (h : Only m a s) : Only m a (State.loseSwitched s) := by
  unfold State.loseSwitched
  have hu := only_setB .MEM_TRAINED 0 false (mask_trans rfl hm)
    (only_foldl (l := ((s.listed .PRT_LINK_UP).foldl (fun s p => s.linkDown p) s).listed .HST_LINK_UP)
      (fun u x hu => only_hostDown x (mask_trans rfl hm) hu)
      (only_foldl (l := s.listed .PRT_LINK_UP) (fun u x hu => only_linkDown x (mask_trans rfl hm) hu) h))
  exact only_keepAlwaysOn hm hu (only_full hm ⟨hu.keep.pending, hu.keep.lease, fun _ => rfl, hu.keep.fuse⟩)

theorem only_onClusterRetired {m : Nat} {a s : State} (x1) (hm : 0xffffeba00d30da0191 ||| m = m) (h : Only m a s) : Only m a (State.onClusterRetired s x1) := by
  unfold State.onClusterRetired
  try dsimp only
  repeat' first
    | (with_reducible first
        | assumption | (intro _; try dsimp only) | apply only_abortCluster | apply only_dmaAbort
        | (apply only_foldl; intro s x hs; try dsimp only) | (apply only_foldl_snd; intro c s x hs; try dsimp only)
        | (apply only_foldl_fst; intro c s x hs; try dsimp only)
        | (apply only_foldl_trd; intro c d s x hs; try dsimp only) | refine only_snd ‹_ = (_, _)› ?_
        | refine only_fst ‹_ = (_, _)› ?_ | refine only_trd ‹_ = (_, _, _)› ?_ | refine only_fth ‹_ = (_, _, _, _)› ?_
        | (split; all_goals try dsimp only))
    | exact mask_trans rfl hm

theorem only_onDrain {m : Nat} {a s : State} (hm : 0xffffebb20d30fe2391 ||| m = m) (h : Only m a s) : Only m a (State.onDrain s) := by
  unfold State.onDrain
  try dsimp only
  repeat' first
    | (with_reducible first
        | assumption | (intro _; try dsimp only) | apply only_abortWhere | apply only_sauDrain
        | apply only_discardEnts)
    | exact mask_trans rfl hm

theorem only_onLeaseEnd {m : Nat} {a s : State} (hm : 0x4000000000000 ||| m = m) (h : Only m a s) : Only m a (State.onLeaseEnd s) := by
  unfold State.onLeaseEnd
  try dsimp only
  repeat' first
    | (with_reducible first
        | assumption | (intro _; try dsimp only) | apply only_clearStaging)
    | exact mask_trans rfl hm

theorem only_onSafeHold {m : Nat} {a s : State} (hm : 0xffffebb20d30da2391 ||| m = m) (h : Only m a s) : Only m a (State.onSafeHold s) := by
  unfold State.onSafeHold
  try dsimp only
  repeat' first
    | (with_reducible first
        | assumption | (intro _; try dsimp only) | apply only_abortWhere | apply only_discardEnts)
    | exact mask_trans rfl hm

theorem only_onStep {m : Nat} {a s : State} (x1 x2) (hm : 0x8801ffffc30680081 ||| m = m) (h : Only m a s) : Only m a (State.onStep s x1 x2) := by
  unfold State.onStep
  try dsimp only
  repeat' first
    | (with_reducible first
        | assumption | (intro _; try dsimp only) | apply only_gridReset | apply only_ite
        | (split; all_goals try dsimp only))
    | exact mask_trans rfl hm

theorem only_queueWakes {m : Nat} {a s : State} (x1) (hm : 0x1 ||| m = m) (h : Only m a s) : Only m a (State.queueWakes s x1) := by
  unfold State.queueWakes
  try dsimp only
  repeat' first
    | with_reducible exact Or.inr rfl
    | (with_reducible first
        | assumption | (intro _; try dsimp only) | apply only_set_pwr | (apply only_mk (e33 := rfl)))
    | exact bit_of hm rfl | exact Or.inl (bit_of hm rfl) | exact Or.inr rfl | exact mask_trans rfl hm

theorem only_reseedLb {m : Nat} {a s : State} (hm : 0x80100018000 ||| m = m) (h : Only m a s) : Only m a (State.reseedLb s) := by
  unfold State.reseedLb
  try dsimp only
  repeat' first
    | with_reducible exact Or.inr rfl
    | (with_reducible first
        | assumption | (intro _; try dsimp only) | apply only_drawSeed | apply only_setB | apply only_setN
        | refine only_snd ‹_ = (_, _)› ?_ | refine only_fst ‹_ = (_, _)› ?_ | refine only_trd ‹_ = (_, _, _)› ?_
        | refine only_fth ‹_ = (_, _, _, _)› ?_ | (split; all_goals try dsimp only) | (apply only_mk (e33 := rfl)))
    | exact bit_of hm rfl | exact Or.inl (bit_of hm rfl) | exact Or.inr rfl | exact mask_trans rfl hm
    | exact mask_trans (fieldMask_all _) (mask_trans rfl hm)

theorem only_saveDone {m : Nat} {a s : State} (hm : 0xfffffffffd79ffbbdd ||| m = m) (h : Only m a s) : Only m a (State.saveDone s) := by
  have h1 : Only m a s.dropUnsaved := only_dropUnsaved (mask_trans rfl hm) h
  have h2 : Only m a s.dropUnsaved.draw.2 := only_draw (mask_trans rfl hm) h1
  unfold State.saveDone
  dsimp only
  generalize s.dropUnsaved = u at h2 ⊢
  generalize u.draw = d at h2 ⊢
  obtain ⟨_, t⟩ := d
  dsimp only at h2 ⊢
  refine only_setB _ _ _ (mask_trans rfl hm) (only_setB _ _ _ (mask_trans rfl hm) ?_)
  apply only_mk (e33 := rfl)
  case h => exact h2
  case e8 => exact Or.inl ⟨bit_of hm rfl, wf_saved _ _⟩
  all_goals first | with_reducible exact Or.inr rfl | exact Or.inl (bit_of hm rfl)

theorem only_toDom {m : Nat} {a s : State} (x1 x2) (hm : 0xfffffffffd31ffb3d5 ||| m = m) (h : Only m a s) : Only m a (State.toDom s x1 x2) := by
  unfold State.toDom
  try dsimp only
  repeat' first
    | (with_reducible first
        | assumption | (intro _; try dsimp only) | apply only_domOn | apply only_domLost | apply only_setDom
        | apply only_ite | (split; all_goals try dsimp only))
    | exact mask_trans rfl hm

theorem only_settleRetention {m : Nat} {a s : State} (x1) (hm : 0xfffffffffd31ffb3d5 ||| m = m) (h : Only m a s) : Only m a (State.settleRetention s x1) := by
  unfold State.settleRetention
  try dsimp only
  repeat' first
    | (with_reducible first
        | assumption | (intro _; try dsimp only) | apply only_toDom | apply only_ite
        | (split; all_goals try dsimp only))
    | exact mask_trans rfl hm

theorem only_settleDomain {m : Nat} {a s : State} (x1) (hm : 0xfffffffffd31ffb3d5 ||| m = m) (h : Only m a s) : Only m a (State.settleDomain s x1) := by
  unfold State.settleDomain
  try dsimp only
  repeat' first
    | (with_reducible first
        | assumption | (intro _; try dsimp only) | apply only_queueWakes | apply only_toDom
        | apply only_settleRetention | apply only_loseHbm | apply only_ite | (split; all_goals try dsimp only))
    | exact mask_trans rfl hm

theorem only_switchDom {m : Nat} {a s : State} (x1 x2) (hm : 0xfffffffffd31ffb3d5 ||| m = m) (h : Only m a s) : Only m a (State.switchDom s x1 x2) := by
  unfold State.switchDom
  try dsimp only
  repeat' first
    | (with_reducible first
        | assumption | (intro _; try dsimp only) | apply only_domOn | apply only_setDom | apply only_domLost
        | apply only_ite | (split; all_goals try dsimp only))
    | exact mask_trans rfl hm

theorem only_settleDomains {m : Nat} {a s : State} (x1) (hm : 0xfffffffffd31ffb3d5 ||| m = m) (h : Only m a s) : Only m a (State.settleDomains s x1) := by
  unfold State.settleDomains
  try dsimp only
  repeat' first
    | (with_reducible first
        | assumption | (intro _; try dsimp only) | apply only_queueWakes | apply only_toDom | apply only_switchDom
        | apply only_ite | (apply only_foldl; intro s x hs; try dsimp only)
        | (apply only_foldl_snd; intro c s x hs; try dsimp only)
        | (apply only_foldl_fst; intro c s x hs; try dsimp only)
        | (apply only_foldl_trd; intro c d s x hs; try dsimp only) | refine only_snd ‹_ = (_, _)› ?_
        | refine only_fst ‹_ = (_, _)› ?_ | refine only_trd ‹_ = (_, _, _)› ?_ | refine only_fth ‹_ = (_, _, _, _)› ?_
        | (split; all_goals try dsimp only))
    | exact mask_trans rfl hm

theorem only_wakeHbm {m : Nat} {a s : State} (hm : 0x8000000000000 ||| m = m) (h : Only m a s) : Only m a (State.wakeHbm s) := by
  unfold State.wakeHbm
  try dsimp only
  repeat' first
    | (with_reducible first
        | assumption | (intro _; try dsimp only) | apply only_setB)
    | exact mask_trans rfl hm | exact mask_trans (fieldMask_all _) (mask_trans rfl hm)

theorem only_readParts {m : Nat} {a s : State} (x1) (hm : 0x400008000530000180 ||| m = m) (h : Only m a s) : Only m a (State.readParts s x1).2 := by
  induction x1 generalizing s  with
  | nil => rw [State.readParts]; exact h
  | cons z l ih =>
    rw [State.readParts]
    repeat' first
      | (with_reducible first
          | assumption | (intro _; try dsimp only) | apply ih | apply only_hbmRead | apply only_ite
          | (apply only_ite_snd <;> try dsimp only) | (apply only_ite_fst <;> try dsimp only)
          | refine only_snd ‹_ = (_, _)› ?_ | refine only_fst ‹_ = (_, _)› ?_ | refine only_trd ‹_ = (_, _, _)› ?_
          | refine only_fth ‹_ = (_, _, _, _)› ?_ | (split; all_goals try dsimp only))
      | exact mask_trans rfl hm

theorem only_windowRead {m : Nat} {a s : State} (x1 x2 x3) (hm : 0x400008000530000180 ||| m = m) (h : Only m a s) : Only m a (State.windowRead s x1 x2 x3).2 := by
  unfold State.windowRead
  try dsimp only
  repeat' first
    | (with_reducible first
        | assumption | (intro _; try dsimp only) | apply only_readParts | apply only_ite
        | (apply only_ite_snd <;> try dsimp only) | (apply only_ite_fst <;> try dsimp only)
        | refine only_snd ‹_ = (_, _)› ?_ | refine only_fst ‹_ = (_, _)› ?_ | refine only_trd ‹_ = (_, _, _)› ?_
        | refine only_fth ‹_ = (_, _, _, _)› ?_ | (split; all_goals try dsimp only))
    | exact mask_trans rfl hm

theorem only_readImage {m : Nat} {a s : State} (x1 x2) (hm : 0x400008000530000180 ||| m = m) (h : Only m a s) : Only m a (State.readImage s x1 x2).2 := by
  unfold State.readImage
  try dsimp only
  repeat' first
    | (with_reducible first
        | assumption | (intro _; try dsimp only) | apply only_windowRead | apply only_ite
        | (apply only_ite_snd <;> try dsimp only) | (apply only_ite_fst <;> try dsimp only)
        | refine only_snd ‹_ = (_, _)› ?_ | refine only_fst ‹_ = (_, _)› ?_ | refine only_trd ‹_ = (_, _, _)› ?_
        | refine only_fth ‹_ = (_, _, _, _)› ?_ | (split; all_goals try dsimp only))
    | exact mask_trans rfl hm

theorem only_verify {m : Nat} {a s : State} (x1 x2 x3 x4) (hm : 0x400008000530000180 ||| m = m) (h : Only m a s) : Only m a (State.verify s x1 x2 x3 x4).2 := by
  unfold State.verify
  try dsimp only
  repeat' first
    | (with_reducible first
        | assumption | (intro _; try dsimp only) | apply only_readImage | apply only_ite
        | (apply only_ite_snd <;> try dsimp only) | (apply only_ite_fst <;> try dsimp only)
        | refine only_snd ‹_ = (_, _)› ?_ | refine only_fst ‹_ = (_, _)› ?_ | refine only_trd ‹_ = (_, _, _)› ?_
        | refine only_fth ‹_ = (_, _, _, _)› ?_ | (split; all_goals try dsimp only))
    | exact mask_trans rfl hm

theorem only_windowWrite {m : Nat} {a s : State} (x1 x2 x3) (hm : 0x400008000531000180 ||| m = m) (h : Only m a s) : Only m a (State.windowWrite s x1 x2 x3).1 := by
  unfold State.windowWrite
  try dsimp only
  repeat' first
    | with_reducible exact Or.inr rfl
    | (with_reducible first
        | assumption | (intro _; try dsimp only) | apply only_hbmWrite | apply only_ite
        | (apply only_ite_snd <;> try dsimp only) | (apply only_ite_fst <;> try dsimp only)
        | (apply only_foldl; intro s x hs; try dsimp only) | (apply only_foldl_snd; intro c s x hs; try dsimp only)
        | (apply only_foldl_fst; intro c s x hs; try dsimp only)
        | (apply only_foldl_trd; intro c d s x hs; try dsimp only) | refine only_snd ‹_ = (_, _)› ?_
        | refine only_fst ‹_ = (_, _)› ?_ | refine only_trd ‹_ = (_, _, _)› ?_ | refine only_fth ‹_ = (_, _, _, _)› ?_
        | (split; all_goals try dsimp only) | apply only_set_pkm | (apply only_mk (e33 := rfl)))
    | exact bit_of hm rfl | exact Or.inl (bit_of hm rfl) | exact Or.inr rfl | exact mask_trans rfl hm

theorem only_learnPush {m : Nat} {a s : State} (x1) (hm : 0x2000040430008080 ||| m = m) (h : Only m a s) : Only m a (State.learnPush s x1).1 := by
  unfold State.learnPush
  try dsimp only
  repeat' first
    | with_reducible exact Or.inr rfl
    | (with_reducible first
        | assumption | (intro _; try dsimp only) | apply only_raiseLimited | apply only_bump | apply only_ite
        | (apply only_ite_snd <;> try dsimp only) | (apply only_ite_fst <;> try dsimp only)
        | refine only_snd ‹_ = (_, _)› ?_ | refine only_fst ‹_ = (_, _)› ?_ | refine only_trd ‹_ = (_, _, _)› ?_
        | refine only_fth ‹_ = (_, _, _, _)› ?_ | (split; all_goals try dsimp only) | apply only_set_tbl
        | (apply only_mk (e33 := rfl)))
    | exact bit_of hm rfl | exact Or.inl (bit_of hm rfl) | exact Or.inr rfl | exact mask_trans rfl hm
    | exact mask_trans (evMask_all _) (mask_trans rfl hm) | exact mask_trans (ctrMask_all _) (mask_trans rfl hm)
    | apply mask_or

theorem only_stampSa {m : Nat} {a s : State} (x1 x2) (hm : 0x8000 ||| m = m) (h : Only m a s) : Only m a (State.stampSa s x1 x2) := by
  unfold State.stampSa
  try dsimp only
  repeat' first
    | (with_reducible first
        | assumption | (intro _; try dsimp only) | apply only_setL2 | apply only_ite
        | (split; all_goals try dsimp only))
    | exact mask_trans rfl hm

theorem only_learnStep {m : Nat} {a s : State} (x1) (hm : 0x2000040430008080 ||| m = m) (h : Only m a s) : Only m a (State.learnStep s x1) := by
  unfold State.learnStep
  try dsimp only
  repeat' first
    | (with_reducible first
        | assumption | (intro _; try dsimp only) | apply only_stampSa | apply only_learnPush | apply only_ite
        | (apply only_ite_snd <;> try dsimp only) | (apply only_ite_fst <;> try dsimp only)
        | refine only_snd ‹_ = (_, _)› ?_ | refine only_fst ‹_ = (_, _)› ?_ | refine only_trd ‹_ = (_, _, _)› ?_
        | refine only_fth ‹_ = (_, _, _, _)› ?_ | (split; all_goals try dsimp only))
    | exact mask_trans rfl hm

theorem only_learnOnce {m : Nat} {a s : State} (x1) (hm : 0x2000040430008080 ||| m = m) (h : Only m a s) : Only m a (State.learnOnce s x1).1 := by
  unfold State.learnOnce
  try dsimp only
  repeat' first
    | (with_reducible first
        | assumption | (intro _; try dsimp only) | apply only_learnStep | apply only_ite
        | (apply only_ite_snd <;> try dsimp only) | (apply only_ite_fst <;> try dsimp only)
        | refine only_snd ‹_ = (_, _)› ?_ | refine only_fst ‹_ = (_, _)› ?_ | refine only_trd ‹_ = (_, _, _)› ?_
        | refine only_fth ‹_ = (_, _, _, _)› ?_ | (split; all_goals try dsimp only))
    | exact mask_trans rfl hm

theorem only_noteOcc {m : Nat} {a s : State} (x1 x2) (hm : 0x10000001000 ||| m = m) (h : Only m a s) : Only m a (State.noteOcc s x1 x2) := by
  unfold State.noteOcc
  try dsimp only
  repeat' first
    | with_reducible exact Or.inr rfl
    | (with_reducible first
        | assumption | (intro _; try dsimp only) | apply only_setN | apply only_ite
        | (apply only_foldl; intro s x hs; try dsimp only) | (apply only_foldl_snd; intro c s x hs; try dsimp only)
        | (apply only_foldl_fst; intro c s x hs; try dsimp only)
        | (apply only_foldl_trd; intro c d s x hs; try dsimp only) | refine only_snd ‹_ = (_, _)› ?_
        | refine only_fst ‹_ = (_, _)› ?_ | refine only_trd ‹_ = (_, _, _)› ?_ | refine only_fth ‹_ = (_, _, _, _)› ?_
        | (split; all_goals try dsimp only) | apply only_set_par | (apply only_mk (e33 := rfl)))
    | exact bit_of hm rfl | exact Or.inl (bit_of hm rfl) | exact Or.inr rfl | exact mask_trans rfl hm
    | exact mask_trans (fieldMask_all _) (mask_trans rfl hm)

theorem only_endParse {m : Nat} {a s : State} (x1 x2) (hm : 0x12c0027043002ba80 ||| m = m) (h : Only m a s) : Only m a (State.endParse s x1 x2) := by
  unfold State.endParse
  try dsimp only
  repeat' first
    | (with_reducible first
        | assumption | (intro _; try dsimp only) | apply only_learnOnce | apply only_noteOcc | apply only_dropPkt
        | apply only_setPkt | apply only_bump | apply only_ite | (apply only_ite_snd <;> try dsimp only)
        | (apply only_ite_fst <;> try dsimp only) | (apply only_foldl; intro s x hs; try dsimp only)
        | (apply only_foldl_snd; intro c s x hs; try dsimp only)
        | (apply only_foldl_fst; intro c s x hs; try dsimp only)
        | (apply only_foldl_trd; intro c d s x hs; try dsimp only) | refine only_snd ‹_ = (_, _)› ?_
        | refine only_fst ‹_ = (_, _)› ?_ | refine only_trd ‹_ = (_, _, _)› ?_ | refine only_fth ‹_ = (_, _, _, _)› ?_
        | (split; all_goals try dsimp only))
    | exact mask_trans rfl hm | exact mask_trans (ctrMask_all _) (mask_trans rfl hm)

theorem only_limitEvent {m : Nat} {a s : State} (x1) (hm : 0x10430000080 ||| m = m) (h : Only m a s) : Only m a (State.limitEvent s x1) := by
  unfold State.limitEvent
  try dsimp only
  repeat' first
    | (with_reducible first
        | assumption | (intro _; try dsimp only) | apply only_raiseLimited)
    | exact mask_trans rfl hm | exact mask_trans (evMask_all _) (mask_trans rfl hm) | apply mask_or

theorem only_endCode {m : Nat} {a s : State} (x1 x2) (hm : 0x12c0027043002ba80 ||| m = m) (h : Only m a s) : Only m a (State.endCode s x1 x2) := by
  unfold State.endCode
  try dsimp only
  repeat' first
    | (with_reducible first
        | assumption | (intro _; try dsimp only) | apply only_endParse)
    | exact mask_trans rfl hm

theorem only_limitParse {m : Nat} {a s : State} (x1) (hm : 0x12c0027043002ba80 ||| m = m) (h : Only m a s) : Only m a (State.limitParse s x1) := by
  unfold State.limitParse
  try dsimp only
  repeat' first
    | (with_reducible first
        | assumption | (intro _; try dsimp only) | apply only_endCode | apply only_limitEvent)
    | exact mask_trans rfl hm

theorem only_proceed {m : Nat} {a s : State} (x1 x2 x3) (hm : 0x12c0027043002ba80 ||| m = m) (h : Only m a s) : Only m a (State.proceed s x1 x2 x3) := by
  unfold State.proceed
  try dsimp only
  repeat' first
    | (with_reducible first
        | assumption | (intro _; try dsimp only) | apply only_limitParse | apply only_learnOnce | apply only_endParse
        | apply only_limitEvent | apply only_setPkt | apply only_ite | (apply only_ite_snd <;> try dsimp only)
        | (apply only_ite_fst <;> try dsimp only) | refine only_snd ‹_ = (_, _)› ?_ | refine only_fst ‹_ = (_, _)› ?_
        | refine only_trd ‹_ = (_, _, _)› ?_ | refine only_fth ‹_ = (_, _, _, _)› ?_
        | (split; all_goals try dsimp only))
    | exact mask_trans rfl hm

theorem only_holdOrGo {m : Nat} {a s : State} (x1 x2 x3) (hm : 0x12c0027043002ba80 ||| m = m) (h : Only m a s) : Only m a (State.holdOrGo s x1 x2 x3) := by
  unfold State.holdOrGo
  try dsimp only
  repeat' first
    | (with_reducible first
        | assumption | (intro _; try dsimp only) | apply only_proceed | apply only_setPkt | apply only_ite
        | (split; all_goals try dsimp only))
    | exact mask_trans rfl hm

theorem only_stallParse {m : Nat} {a s : State} (x1) (hm : 0x200 ||| m = m) (h : Only m a s) : Only m a (State.stallParse s x1) := by
  unfold State.stallParse
  try dsimp only
  repeat' first
    | (with_reducible first
        | assumption | (intro _; try dsimp only) | apply only_setPkt)
    | exact mask_trans rfl hm

theorem only_actWord {m : Nat} {a s : State} (x1 x2 x3 x4 x5 x6 x7 x8) (hm : 0x12c0027043002ba80 ||| m = m) (h : Only m a s) : Only m a (State.actWord s x1 x2 x3 x4 x5 x6 x7 x8) := by
  unfold State.actWord
  try dsimp only
  repeat' first
    | (with_reducible first
        | assumption | (intro _; try dsimp only) | apply only_stallParse | apply only_proceed | apply only_holdOrGo
        | apply only_ite | (split; all_goals try dsimp only))
    | exact mask_trans rfl hm

theorem only_clearPar {m : Nat} {a s : State} (x1) (hm : 0xffffe0000000000000 ||| m = m) (h : Only m a s) : Only m a (State.clearPar s x1) := by
  unfold State.clearPar
  try dsimp only
  repeat' first
    | with_reducible exact Or.inr rfl
    | (with_reducible first
        | assumption | (intro _; try dsimp only) | (apply only_mk (e33 := rfl)))
    | exact bit_of hm rfl | exact Or.inl (bit_of hm rfl) | exact Or.inl (bits_of hm rfl) | exact Or.inr rfl
    | exact mask_trans rfl hm

theorem only_dropFind {m : Nat} {a s : State} (x1 x2) (hm : 0x12c0027043002ba80 ||| m = m) (h : Only m a s) : Only m a (State.dropFind s x1 x2) := by
  unfold State.dropFind
  try dsimp only
  repeat' first
    | (with_reducible first
        | assumption | (intro _; try dsimp only) | apply only_actWord)
    | exact mask_trans rfl hm

theorem only_startParse {m : Nat} {a s : State} (x1 x2) (hm : 0x200 ||| m = m) (h : Only m a s) : Only m a (State.startParse s x1 x2) := by
  unfold State.startParse
  try dsimp only
  repeat' first
    | (with_reducible first
        | assumption | (intro _; try dsimp only) | apply only_setPkt)
    | exact mask_trans rfl hm

theorem only_takeLane {m : Nat} {a s : State} (x1 x2) (hm : 0x3200 ||| m = m) (h : Only m a s) : Only m a (State.takeLane s x1 x2) := by
  unfold State.takeLane
  try dsimp only
  repeat' first
    | with_reducible exact Or.inr rfl
    | (with_reducible first
        | assumption | (intro _; try dsimp only) | apply only_startParse | apply only_setBank
        | (split; all_goals try dsimp only) | apply only_set_par | (apply only_mk (e33 := rfl)))
    | exact bit_of hm rfl | exact Or.inl (bit_of hm rfl) | exact Or.inr rfl | exact mask_trans rfl hm

theorem only_enterLane {m : Nat} {a s : State} (x1 x2) (hm : 0x800000000003200 ||| m = m) (h : Only m a s) : Only m a (State.enterLane s x1 x2) := by
  unfold State.enterLane
  try dsimp only
  repeat' first
    | (with_reducible first
        | assumption | (intro _; try dsimp only) | apply only_takeLane | apply only_bump)
    | exact mask_trans rfl hm | exact mask_trans (ctrMask_all _) (mask_trans rfl hm)

theorem only_markBad {m : Nat} {a s : State} (x1 x2 x3) (hm : 0x10430001080 ||| m = m) (h : Only m a s) : Only m a (State.markBad s x1 x2 x3) := by
  unfold State.markBad
  try dsimp only
  repeat' first
    | with_reducible exact Or.inr rfl
    | (with_reducible first
        | assumption | (intro _; try dsimp only) | apply only_setB | apply only_setN | apply only_raiseLimited
        | apply only_raise | apply only_ite | (split; all_goals try dsimp only) | apply only_set_par
        | (apply only_mk (e33 := rfl)))
    | exact bit_of hm rfl | exact Or.inl (bit_of hm rfl) | exact Or.inr rfl | exact mask_trans rfl hm
    | exact mask_trans (evMask_all _) (mask_trans rfl hm) | exact mask_trans (fieldMask_all _) (mask_trans rfl hm)
    | apply mask_or

theorem only_microword {m : Nat} {a s : State} (x1) (hm : 0x12c0027043002ba80 ||| m = m) (h : Only m a s) : Only m a (State.microword s x1) := by
  unfold State.microword
  try dsimp only
  repeat' first
    | (with_reducible first
        | assumption | (intro _; try dsimp only) | apply only_limitParse | apply only_endCode | apply only_markBad
        | apply only_holdOrGo | apply only_dropFind | apply only_stallParse | apply only_actWord
        | apply only_raiseLimited | apply only_ite | (split; all_goals try dsimp only))
    | exact mask_trans rfl hm | exact mask_trans (evMask_all _) (mask_trans rfl hm) | apply mask_or

theorem only_preempt {m : Nat} {a s : State} (x1) (hm : 0x800010430001280 ||| m = m) (h : Only m a s) : Only m a (State.preempt s x1) := by
  unfold State.preempt
  try dsimp only
  repeat' first
    | with_reducible exact Or.inr rfl
    | (with_reducible first
        | assumption | (intro _; try dsimp only) | apply only_setPkt | apply only_bump | apply only_raiseLimited
        | apply only_ite | (split; all_goals try dsimp only) | apply only_set_par | (apply only_mk (e33 := rfl)))
    | exact bit_of hm rfl | exact Or.inl (bit_of hm rfl) | exact Or.inr rfl | exact mask_trans rfl hm
    | exact mask_trans (evMask_all _) (mask_trans rfl hm) | exact mask_trans (ctrMask_all _) (mask_trans rfl hm)
    | apply mask_or

theorem only_execLaneAcquire {m : Nat} {a s : State} (x0 x1) (hm : 0x800010430003280 ||| m = m) (h : Only m a s) : OnlyR m a (execLaneAcquire x0 x1 s) := by
  unfold execLaneAcquire
  try dsimp only
  repeat' first
    | (with_reducible first
        | assumption | (intro _; try dsimp only) | apply onlyR_next | apply only_enterLane | apply only_preempt
        | apply only_raiseLimited | apply only_bump | apply only_ite | apply onlyR_ite
        | (apply only_foldl; intro s x hs; try dsimp only) | (apply only_foldl_snd; intro c s x hs; try dsimp only)
        | (apply only_foldl_fst; intro c s x hs; try dsimp only)
        | (apply only_foldl_trd; intro c d s x hs; try dsimp only) | refine only_snd ‹_ = (_, _)› ?_
        | refine only_fst ‹_ = (_, _)› ?_ | refine only_trd ‹_ = (_, _, _)› ?_ | refine only_fth ‹_ = (_, _, _, _)› ?_
        | (split; all_goals try dsimp only))
    | exact mask_trans rfl hm | exact mask_trans (evMask_all _) (mask_trans rfl hm)
    | exact mask_trans (ctrMask_all _) (mask_trans rfl hm) | apply mask_or

theorem only_execMicroword {m : Nat} {a s : State} (x0 x1) (hm : 0x12c0027043002ba80 ||| m = m) (h : Only m a s) : OnlyR m a (execMicroword x0 x1 s) := by
  unfold execMicroword
  try dsimp only
  repeat' first
    | (with_reducible first
        | assumption | (intro _; try dsimp only) | apply onlyR_next | apply only_microword
        | (split; all_goals try dsimp only))
    | exact mask_trans rfl hm

theorem only_execParCntClr {m : Nat} {a s : State} (x0 x1) (hm : 0xfffff0000430000080 ||| m = m) (h : Only m a s) : OnlyR m a (execParCntClr x0 x1 s) := by
  unfold execParCntClr
  try dsimp only
  repeat' first
    | (with_reducible first
        | assumption | (intro _; try dsimp only) | apply onlyR_next | apply only_guarded | apply only_clearPar)
    | exact mask_trans rfl hm

theorem only_execParCsScrub {m : Nat} {a s : State} (x0 x1 x2) (hm : 0x10430001080 ||| m = m) (h : Only m a s) : OnlyR m a (execParCsScrub x0 x1 x2 s) := by
  unfold execParCsScrub
  try dsimp only
  repeat' first
    | with_reducible exact Or.inr rfl
    | (with_reducible first
        | assumption | (intro _; try dsimp only) | apply onlyR_next | apply only_markBad | apply only_raise
        | apply only_countF | apply only_ite | apply onlyR_ite | (split; all_goals try dsimp only)
        | apply only_set_par | (apply only_mk (e33 := rfl)))
    | exact bit_of hm rfl | exact Or.inl (bit_of hm rfl) | exact Or.inr rfl | exact mask_trans rfl hm
    | exact mask_trans (evMask_all _) (mask_trans rfl hm) | exact mask_trans (fieldMask_all _) (mask_trans rfl hm)
    | apply mask_or

theorem only_execParseLimit {m : Nat} {a s : State} (x0 x1) (hm : 0x12c0027043002ba80 ||| m = m) (h : Only m a s) : OnlyR m a (execParseLimit x0 x1 s) := by
  unfold execParseLimit
  try dsimp only
  repeat' first
    | (with_reducible first
        | assumption | (intro _; try dsimp only) | apply onlyR_next | apply only_limitParse | apply only_ite
        | apply onlyR_ite | (split; all_goals try dsimp only))
    | exact mask_trans rfl hm

theorem only_execParseRestart {m : Nat} {a s : State} (x0 x1) (hm : 0x800000000001200 ||| m = m) (h : Only m a s) : OnlyR m a (execParseRestart x0 x1 s) := by
  unfold execParseRestart
  try dsimp only
  repeat' first
    | with_reducible exact Or.inr rfl
    | (with_reducible first
        | assumption | (intro _; try dsimp only) | apply onlyR_next | apply only_startParse | apply only_bump
        | apply only_ite | apply onlyR_ite | (split; all_goals try dsimp only) | apply only_set_par
        | (apply only_mk (e33 := rfl)))
    | exact bit_of hm rfl | exact Or.inl (bit_of hm rfl) | exact Or.inr rfl | exact mask_trans rfl hm
    | exact mask_trans (ctrMask_all _) (mask_trans rfl hm)

theorem only_execPatternScanDone {m : Nat} {a s : State} (x0 x1) (hm : 0x200 ||| m = m) (h : Only m a s) : OnlyR m a (execPatternScanDone x0 x1 s) := by
  unfold execPatternScanDone
  try dsimp only
  repeat' first
    | (with_reducible first
        | assumption | (intro _; try dsimp only) | apply onlyR_next | apply only_setPkt | apply only_ite
        | apply onlyR_ite | (split; all_goals try dsimp only))
    | exact mask_trans rfl hm

theorem only_execPipelineEntry {m : Nat} {a s : State} (x0 x1) (hm : 0x1200 ||| m = m) (h : Only m a s) : OnlyR m a (execPipelineEntry x0 x1 s) := by
  unfold execPipelineEntry
  try dsimp only
  repeat' first
    | with_reducible exact Or.inr rfl
    | (with_reducible first
        | assumption | (intro _; try dsimp only) | apply onlyR_next | apply only_setPkt | apply only_ite
        | apply onlyR_ite | (split; all_goals try dsimp only) | apply only_set_par | (apply only_mk (e33 := rfl)))
    | exact bit_of hm rfl | exact Or.inl (bit_of hm rfl) | exact Or.inr rfl | exact mask_trans rfl hm

theorem only_execWaitTimeout {m : Nat} {a s : State} (x0 x1) (hm : 0x12c0027043002ba80 ||| m = m) (h : Only m a s) : OnlyR m a (execWaitTimeout x0 x1 s) := by
  unfold execWaitTimeout
  try dsimp only
  repeat' first
    | (with_reducible first
        | assumption | (intro _; try dsimp only) | apply onlyR_next | apply only_proceed | apply only_dropFind
        | apply only_ite | apply onlyR_ite | (split; all_goals try dsimp only))
    | exact mask_trans rfl hm

theorem only_fragCreate {m : Nat} {a s : State} (x1 x2 x3 x4) (hm : 0x1000020430002080 ||| m = m) (h : Only m a s) : Only m a (State.fragCreate s x1 x2 x3 x4) := by
  unfold State.fragCreate
  try dsimp only
  repeat' first
    | with_reducible exact Or.inr rfl
    | (with_reducible first
        | assumption | (intro _; try dsimp only) | apply only_raiseLimited | apply only_bump
        | (split; all_goals try dsimp only) | apply only_set_cls | (apply only_mk (e33 := rfl)))
    | exact bit_of hm rfl | exact Or.inl (bit_of hm rfl) | exact Or.inr rfl | exact mask_trans rfl hm
    | exact mask_trans (evMask_all _) (mask_trans rfl hm) | exact mask_trans (ctrMask_all _) (mask_trans rfl hm)
    | apply mask_or

theorem only_ensureBuf {m : Nat} {a s : State} (x1) (hm : 0x10000200d30060080 ||| m = m) (h : Only m a s) : Only m a (State.ensureBuf s x1).1 := by
  unfold State.ensureBuf
  try dsimp only
  repeat' first
    | (with_reducible first
        | assumption | (intro _; try dsimp only) | apply only_request | apply only_ite
        | (apply only_ite_snd <;> try dsimp only) | (apply only_ite_fst <;> try dsimp only)
        | refine only_snd ‹_ = (_, _)› ?_ | refine only_fst ‹_ = (_, _)› ?_ | refine only_trd ‹_ = (_, _, _)› ?_
        | refine only_fth ‹_ = (_, _, _, _)› ?_ | (split; all_goals try dsimp only))
    | exact mask_trans rfl hm

theorem only_toDiscard {m : Nat} {a s : State} (x1) (hm : 0x10000220430022a80 ||| m = m) (h : Only m a s) : Only m a (State.toDiscard s x1) := by
  unfold State.toDiscard
  try dsimp only
  repeat' first
    | (with_reducible first
        | assumption | (intro _; try dsimp only) | apply only_dropPkt)
    | exact mask_trans rfl hm

theorem only_park {m : Nat} {a s : State} (x1 x2) (hm : 0x89101ffffd300e2a81 ||| m = m) (h : Only m a s) : Only m a (State.park s x1 x2) := by
  unfold State.park
  try dsimp only
  repeat' first
    | (with_reducible first
        | assumption | (intro _; try dsimp only) | apply only_ensureBuf | apply only_toDiscard | apply only_setPkt
        | apply only_sendTok | apply only_parkToRing | apply only_handover | apply only_raiseLimited | apply only_bump
        | apply only_ite | (apply only_ite_snd <;> try dsimp only) | (apply only_ite_fst <;> try dsimp only)
        | refine only_snd ‹_ = (_, _)› ?_ | refine only_fst ‹_ = (_, _)› ?_ | refine only_trd ‹_ = (_, _, _)› ?_
        | refine only_fth ‹_ = (_, _, _, _)› ?_ | (split; all_goals try dsimp only))
    | exact mask_trans rfl hm | exact mask_trans (evMask_all _) (mask_trans rfl hm)
    | exact mask_trans (ctrMask_all _) (mask_trans rfl hm) | apply mask_or

theorem only_recirc {m : Nat} {a s : State} (x1) (hm : 0x11000220430022a80 ||| m = m) (h : Only m a s) : Only m a (State.recirc s x1) := by
  unfold State.recirc
  try dsimp only
  repeat' first
    | (with_reducible first
        | assumption | (intro _; try dsimp only) | apply only_toDiscard | apply only_setPkt | apply only_raiseLimited
        | apply only_bump | apply only_ite | (split; all_goals try dsimp only))
    | exact mask_trans rfl hm | exact mask_trans (evMask_all _) (mask_trans rfl hm)
    | exact mask_trans (ctrMask_all _) (mask_trans rfl hm) | apply mask_or

theorem only_applyAct {m : Nat} {a s : State} (x1 x2 x3 x4 x5) (hm : 0x89101ffffd300e2a81 ||| m = m) (h : Only m a s) : Only m a (State.applyAct s x1 x2 x3 x4 x5) := by
  unfold State.applyAct
  try dsimp only
  repeat' first
    | (with_reducible first
        | assumption | (intro _; try dsimp only) | apply only_fragCreate | apply only_leaveBank | apply only_setPkt
        | apply only_toDiscard | apply only_recirc | apply only_park | apply only_bump | apply only_ite
        | (apply only_ite_snd <;> try dsimp only) | (apply only_ite_fst <;> try dsimp only)
        | refine only_snd ‹_ = (_, _)› ?_ | refine only_fst ‹_ = (_, _)› ?_ | refine only_trd ‹_ = (_, _, _)› ?_
        | refine only_fth ‹_ = (_, _, _, _)› ?_ | (split; all_goals try dsimp only))
    | exact mask_trans rfl hm | exact mask_trans (ctrMask_all _) (mask_trans rfl hm)

theorem only_countRule {m : Nat} {a s : State} (x1 x2) (hm : 0x1000000000002000 ||| m = m) (h : Only m a s) : Only m a (State.countRule s x1 x2) := by
  unfold State.countRule
  try dsimp only
  repeat' first
    | (with_reducible first
        | assumption | (intro _; try dsimp only) | apply only_setBank | apply only_bump
        | (split; all_goals try dsimp only))
    | exact mask_trans rfl hm | exact mask_trans (ctrMask_all _) (mask_trans rfl hm)

theorem only_classify {m : Nat} {a s : State} (x1) (hm : 0x89101ffffd300e2a81 ||| m = m) (h : Only m a s) : Only m a (State.classify s x1) := by
  unfold State.classify
  try dsimp only
  repeat' first
    | with_reducible exact Or.inr rfl
    | (with_reducible first
        | assumption | (intro _; try dsimp only) | apply only_toDiscard | apply only_countRule | apply only_applyAct
        | apply only_bump | apply only_ite | (split; all_goals try dsimp only) | apply only_set_cls
        | (apply only_mk (e33 := rfl)))
    | exact bit_of hm rfl | exact Or.inl (bit_of hm rfl) | exact Or.inr rfl | exact mask_trans rfl hm
    | exact mask_trans (ctrMask_all _) (mask_trans rfl hm)

theorem only_clsOut {m : Nat} {a s : State} (x1 x2) (hm : 0x20000000000 ||| m = m) (h : Only m a s) : Only m a (State.clsOut s x1 x2) := by
  unfold State.clsOut
  try dsimp only
  repeat' first
    | (with_reducible first
        | assumption | (intro _; try dsimp only) | apply only_setN)
    | exact mask_trans rfl hm | exact mask_trans (fieldMask_all _) (mask_trans rfl hm)

theorem only_clsAbort {m : Nat} {a s : State} (hm : 0x20000002000 ||| m = m) (h : Only m a s) : Only m a (State.clsAbort s) := by
  unfold State.clsAbort
  try dsimp only
  repeat' first
    | with_reducible exact Or.inr rfl
    | (with_reducible first
        | assumption | (intro _; try dsimp only) | apply only_clsOut | apply only_setN | apply only_ite
        | (split; all_goals try dsimp only) | apply only_set_cls | (apply only_mk (e33 := rfl)))
    | exact bit_of hm rfl | exact Or.inl (bit_of hm rfl) | exact Or.inr rfl | exact mask_trans rfl hm
    | exact mask_trans (fieldMask_all _) (mask_trans rfl hm)

theorem only_clsRefuse {m : Nat} {a s : State} (x1 x2) (hm : 0x1ffffc10000080 ||| m = m) (h : Only m a s) : Only m a (State.clsRefuse s x1 x2) := by
  unfold State.clsRefuse
  try dsimp only
  repeat' first
    | (with_reducible first
        | assumption | (intro _; try dsimp only) | apply only_raise | apply only_setN | apply only_ite
        | (split; all_goals try dsimp only))
    | exact mask_trans rfl hm | exact mask_trans (evMask_all _) (mask_trans rfl hm)
    | exact mask_trans (fieldMask_all _) (mask_trans rfl hm) | apply mask_or

theorem only_clsCommit {m : Nat} {a s : State} (x1) (hm : 0x1ffffc10002080 ||| m = m) (h : Only m a s) : Only m a (State.clsCommit s x1) := by
  unfold State.clsCommit
  try dsimp only
  repeat' first
    | with_reducible exact Or.inr rfl
    | (with_reducible first
        | assumption | (intro _; try dsimp only) | apply only_clsRefuse | apply only_clsOut | apply only_setN
        | apply only_ite | (split; all_goals try dsimp only) | apply only_set_cls | (apply only_mk (e33 := rfl)))
    | exact bit_of hm rfl | exact Or.inl (bit_of hm rfl) | exact Or.inr rfl | exact mask_trans rfl hm
    | exact mask_trans (fieldMask_all _) (mask_trans rfl hm)

theorem only_clsDiscard {m : Nat} {a s : State} (hm : 0x1ffffc10002080 ||| m = m) (h : Only m a s) : Only m a (State.clsDiscard s) := by
  unfold State.clsDiscard
  try dsimp only
  repeat' first
    | with_reducible exact Or.inr rfl
    | (with_reducible first
        | assumption | (intro _; try dsimp only) | apply only_clsRefuse | apply only_clsOut | apply only_setBank
        | apply only_ite | (split; all_goals try dsimp only) | apply only_set_cls | (apply only_mk (e33 := rfl)))
    | exact bit_of hm rfl | exact Or.inl (bit_of hm rfl) | exact Or.inr rfl | exact mask_trans rfl hm

theorem only_clsStage {m : Nat} {a s : State} (x1) (hm : 0x1ffffc10002080 ||| m = m) (h : Only m a s) : Only m a (State.clsStage s x1) := by
  unfold State.clsStage
  try dsimp only
  repeat' first
    | with_reducible exact Or.inr rfl
    | (with_reducible first
        | assumption | (intro _; try dsimp only) | apply only_clsRefuse | apply only_clsOut | apply only_ite
        | (split; all_goals try dsimp only) | apply only_set_cls | (apply only_mk (e33 := rfl)))
    | exact bit_of hm rfl | exact Or.inl (bit_of hm rfl) | exact Or.inr rfl | exact mask_trans rfl hm

theorem only_ruleErrAfter {m : Nat} {a s : State} (x1) (hm : 0x20000000000 ||| m = m) (h : Only m a s) : Only m a (State.ruleErrAfter s x1) := by
  unfold State.ruleErrAfter
  try dsimp only
  repeat' first
    | (with_reducible first
        | assumption | (intro _; try dsimp only) | apply only_setN | apply only_setB | apply only_ite
        | (split; all_goals try dsimp only))
    | exact mask_trans rfl hm | exact mask_trans (fieldMask_all _) (mask_trans rfl hm)

theorem only_switchBanks {m : Nat} {a s : State} (hm : 0x2000 ||| m = m) (h : Only m a s) : Only m a (State.switchBanks s) := by
  unfold State.switchBanks
  try dsimp only
  repeat' first
    | with_reducible exact Or.inr rfl
    | (with_reducible first
        | assumption | (intro _; try dsimp only) | apply only_setBank | (split; all_goals try dsimp only)
        | apply only_set_cls | (apply only_mk (e33 := rfl)))
    | exact bit_of hm rfl | exact Or.inl (bit_of hm rfl) | exact Or.inr rfl | exact mask_trans rfl hm

theorem only_switched {m : Nat} {a s : State} (x1) (hm : 0xa051001a080 ||| m = m) (h : Only m a s) : Only m a (State.switched s x1) := by
  unfold State.switched
  try dsimp only
  repeat' first
    | (with_reducible first
        | assumption | (intro _; try dsimp only) | apply only_reseedLb | apply only_switchBanks | apply only_clsOut
        | apply only_raise | apply only_setN | apply only_ite | (split; all_goals try dsimp only))
    | exact mask_trans rfl hm | exact mask_trans (evMask_all _) (mask_trans rfl hm)
    | exact mask_trans (fieldMask_all _) (mask_trans rfl hm) | apply mask_or

theorem only_wrClsCfg {m : Nat} {a s : State} (x1) (hm : 0x20410000080 ||| m = m) (h : Only m a s) : Only m a (State.wrClsCfg s x1) := by
  unfold State.wrClsCfg
  try dsimp only
  repeat' first
    | (with_reducible first
        | assumption | (intro _; try dsimp only) | apply only_raise | apply only_setB | apply only_setN
        | apply only_ite | (split; all_goals try dsimp only))
    | exact mask_trans rfl hm | exact mask_trans (evMask_all _) (mask_trans rfl hm)
    | exact mask_trans (fieldMask_all _) (mask_trans rfl hm) | apply mask_or

theorem only_execClassify {m : Nat} {a s : State} (x0 x1) (hm : 0x89101ffffd300e2a81 ||| m = m) (h : Only m a s) : OnlyR m a (execClassify x0 x1 s) := by
  unfold execClassify
  try dsimp only
  repeat' first
    | (with_reducible first
        | assumption | (intro _; try dsimp only) | apply onlyR_next | apply only_classify | apply only_ite
        | apply onlyR_ite | (split; all_goals try dsimp only))
    | exact mask_trans rfl hm

theorem only_execClsAbort {m : Nat} {a s : State} (x0) (hm : 0x10020430002080 ||| m = m) (h : Only m a s) : OnlyR m a (execClsAbort x0 s) := by
  unfold execClsAbort
  try dsimp only
  repeat' first
    | (with_reducible first
        | assumption | (intro _; try dsimp only) | apply onlyR_next | apply only_guarded | apply only_clsAbort)
    | exact mask_trans rfl hm

theorem only_execClsCfg {m : Nat} {a s : State} (x0 x1) (hm : 0x10020430000080 ||| m = m) (h : Only m a s) : OnlyR m a (execClsCfg x0 x1 s) := by
  unfold execClsCfg
  try dsimp only
  repeat' first
    | (with_reducible first
        | assumption | (intro _; try dsimp only) | apply onlyR_next | apply only_guarded | apply only_wrClsCfg)
    | exact mask_trans rfl hm

theorem only_execClsCntClr {m : Nat} {a s : State} (x0) (hm : 0x1010000430000080 ||| m = m) (h : Only m a s) : OnlyR m a (execClsCntClr x0 s) := by
  unfold execClsCntClr
  try dsimp only
  repeat' first
    | (with_reducible first
        | assumption | (intro _; try dsimp only) | apply onlyR_next | apply only_guarded | apply only_clearBlockCtrs)
    | exact mask_trans rfl hm | exact mask_trans (blockMask_all _) (mask_trans rfl hm)

theorem only_execClsCommit {m : Nat} {a s : State} (x0 x1) (hm : 0x1ffffc30002080 ||| m = m) (h : Only m a s) : OnlyR m a (execClsCommit x0 x1 s) := by
  unfold execClsCommit
  try dsimp only
  repeat' first
    | (with_reducible first
        | assumption | (intro _; try dsimp only) | apply onlyR_next | apply only_guarded | apply only_clsCommit)
    | exact mask_trans rfl hm

theorem only_execClsDiscard {m : Nat} {a s : State} (x0) (hm : 0x1ffffc30002080 ||| m = m) (h : Only m a s) : OnlyR m a (execClsDiscard x0 s) := by
  unfold execClsDiscard
  try dsimp only
  repeat' first
    | (with_reducible first
        | assumption | (intro _; try dsimp only) | apply onlyR_next | apply only_guarded | apply only_clsDiscard)
    | exact mask_trans rfl hm

theorem only_execClsStage {m : Nat} {a s : State} (x0) (hm : 0x1ffffc30002080 ||| m = m) (h : Only m a s) : OnlyR m a (execClsStage x0 s) := by
  unfold execClsStage
  try dsimp only
  repeat' first
    | (with_reducible first
        | assumption | (intro _; try dsimp only) | apply onlyR_next | apply only_guarded | apply only_clsStage)
    | exact mask_trans rfl hm

theorem only_execEditionDrainBound {m : Nat} {a s : State} (hm : 0x1000020430003280 ||| m = m) (h : Only m a s) : OnlyR m a (execEditionDrainBound s) := by
  unfold execEditionDrainBound
  try dsimp only
  repeat' first
    | with_reducible exact Or.inr rfl
    | (with_reducible first
        | assumption | (intro _; try dsimp only) | apply onlyR_next | apply only_setPkt | apply only_detach
        | apply only_takeLane | apply only_raiseLimited | apply only_bump | apply only_ite
        | (apply only_ite_snd <;> try dsimp only) | (apply only_ite_fst <;> try dsimp only) | apply onlyR_ite
        | (apply only_foldl; intro s x hs; try dsimp only) | (apply only_foldl_snd; intro c s x hs; try dsimp only)
        | (apply only_foldl_fst; intro c s x hs; try dsimp only)
        | (apply only_foldl_trd; intro c d s x hs; try dsimp only) | refine only_snd ‹_ = (_, _)› ?_
        | refine only_fst ‹_ = (_, _)› ?_ | refine only_trd ‹_ = (_, _, _)› ?_ | refine only_fth ‹_ = (_, _, _, _)› ?_
        | (split; all_goals try dsimp only) | apply only_set_par | (apply only_mk (e33 := rfl)))
    | exact bit_of hm rfl | exact Or.inl (bit_of hm rfl) | exact Or.inr rfl | exact mask_trans rfl hm
    | exact mask_trans (evMask_all _) (mask_trans rfl hm) | exact mask_trans (ctrMask_all _) (mask_trans rfl hm)
    | apply mask_or

theorem only_execEditionSwitch {m : Nat} {a s : State} (x0) (hm : 0xa051001a080 ||| m = m) (h : Only m a s) : OnlyR m a (execEditionSwitch x0 s) := by
  unfold execEditionSwitch
  try dsimp only
  repeat' first
    | (with_reducible first
        | assumption | (intro _; try dsimp only) | apply onlyR_next | apply only_bankDrained | apply only_switched
        | apply only_ite | apply onlyR_ite | (split; all_goals try dsimp only))
    | exact mask_trans rfl hm

theorem only_execFragmentTimeout {m : Nat} {a s : State} (x0) (hm : 0x1000000000002000 ||| m = m) (h : Only m a s) : OnlyR m a (execFragmentTimeout x0 s) := by
  unfold execFragmentTimeout
  try dsimp only
  repeat' first
    | with_reducible exact Or.inr rfl
    | (with_reducible first
        | assumption | (intro _; try dsimp only) | apply onlyR_next | apply only_bump
        | (split; all_goals try dsimp only) | apply only_set_cls | (apply only_mk (e33 := rfl)))
    | exact bit_of hm rfl | exact Or.inl (bit_of hm rfl) | exact Or.inr rfl | exact mask_trans rfl hm
    | exact mask_trans (ctrMask_all _) (mask_trans rfl hm)

theorem only_execInstallDone {m : Nat} {a s : State} (hm : 0x20410002080 ||| m = m) (h : Only m a s) : OnlyR m a (execInstallDone s) := by
  unfold execInstallDone
  try dsimp only
  repeat' first
    | (with_reducible first
        | assumption | (intro _; try dsimp only) | apply onlyR_next | apply only_setBank | apply only_raise
        | apply only_ite | apply onlyR_ite | (split; all_goals try dsimp only))
    | exact mask_trans rfl hm | exact mask_trans (evMask_all _) (mask_trans rfl hm) | apply mask_or

theorem only_execInstallStart {m : Nat} {a s : State} (hm : 0x20000002000 ||| m = m) (h : Only m a s) : OnlyR m a (execInstallStart s) := by
  unfold execInstallStart
  try dsimp only
  repeat' first
    | with_reducible exact Or.inr rfl
    | (with_reducible first
        | assumption | (intro _; try dsimp only) | apply onlyR_next | apply only_ruleErrAfter | apply only_setBank
        | apply only_ite | apply onlyR_ite | (split; all_goals try dsimp only) | apply only_set_cls
        | (apply only_mk (e33 := rfl)))
    | exact bit_of hm rfl | exact Or.inl (bit_of hm rfl) | exact Or.inr rfl | exact mask_trans rfl hm

theorem only_execParkDetach {m : Nat} {a s : State} (x0) (hm : 0x1000020410002280 ||| m = m) (h : Only m a s) : OnlyR m a (execParkDetach x0 s) := by
  unfold execParkDetach
  try dsimp only
  repeat' first
    | (with_reducible first
        | assumption | (intro _; try dsimp only) | apply onlyR_next | apply only_detach | apply only_setPkt
        | apply only_ite | (apply only_ite_snd <;> try dsimp only) | (apply only_ite_fst <;> try dsimp only)
        | apply onlyR_ite | refine only_snd ‹_ = (_, _)› ?_ | refine only_fst ‹_ = (_, _)› ?_
        | refine only_trd ‹_ = (_, _, _)› ?_ | refine only_fth ‹_ = (_, _, _, _)› ?_
        | (split; all_goals try dsimp only))
    | exact mask_trans rfl hm

theorem only_execRuleScrub {m : Nat} {a s : State} (x0 x1 x2) (hm : 0x20410002080 ||| m = m) (h : Only m a s) : OnlyR m a (execRuleScrub x0 x1 x2 s) := by
  unfold execRuleScrub
  try dsimp only
  repeat' first
    | (with_reducible first
        | assumption | (intro _; try dsimp only) | apply onlyR_next | apply only_setBank | apply only_raise
        | apply only_countF | apply only_setB | apply only_setN | apply only_ite | apply onlyR_ite
        | (split; all_goals try dsimp only))
    | exact mask_trans rfl hm | exact mask_trans (evMask_all _) (mask_trans rfl hm)
    | exact mask_trans (fieldMask_all _) (mask_trans rfl hm) | apply mask_or

theorem only_execStageComplete {m : Nat} {a s : State} (x0) (hm : 0x40001ffffd30002180 ||| m = m) (h : Only m a s) : OnlyR m a (execStageComplete x0 s) := by
  unfold execStageComplete
  try dsimp only
  repeat' first
    | with_reducible exact Or.inr rfl
    | (with_reducible first
        | assumption | (intro _; try dsimp only) | apply onlyR_next | apply only_clsOut | apply only_verify
        | apply only_hbmPut | apply only_setB | apply only_raise | apply only_setN | apply only_ite
        | (apply only_ite_snd <;> try dsimp only) | (apply only_ite_fst <;> try dsimp only) | apply onlyR_ite
        | refine only_snd ‹_ = (_, _)› ?_ | refine only_fst ‹_ = (_, _)› ?_ | refine only_trd ‹_ = (_, _, _)› ?_
        | refine only_fth ‹_ = (_, _, _, _)› ?_ | (split; all_goals try dsimp only) | apply only_set_cls
        | (apply only_mk (e33 := rfl)))
    | exact bit_of hm rfl | exact Or.inl (bit_of hm rfl) | exact Or.inr rfl | exact mask_trans rfl hm
    | exact mask_trans (evMask_all _) (mask_trans rfl hm) | exact mask_trans (fieldMask_all _) (mask_trans rfl hm)
    | apply mask_or

theorem only_evalFatal {m : Nat} {a s : State} (hm : 0x2000000004 ||| m = m) (h : Only m a s) : Only m a (State.evalFatal s) := by
  unfold State.evalFatal
  try dsimp only
  repeat' first
    | with_reducible exact Or.inr rfl
    | (with_reducible first
        | assumption | (intro _; try dsimp only) | apply only_setB | apply only_set_boot
        | (apply only_mk (e33 := rfl)))
    | exact bit_of hm rfl | exact Or.inl (bit_of hm rfl) | exact Or.inr rfl | exact mask_trans rfl hm
    | exact mask_trans (fieldMask_all _) (mask_trans rfl hm)

theorem only_evalReplace {m : Nat} {a s : State} (hm : 0x2410000080 ||| m = m) (h : Only m a s) : Only m a (State.evalReplace s) := by
  unfold State.evalReplace
  try dsimp only
  repeat' first
    | (with_reducible first
        | assumption | (intro _; try dsimp only) | apply only_setB | apply only_raise | apply only_ite
        | (split; all_goals try dsimp only))
    | exact mask_trans rfl hm | exact mask_trans (evMask_all _) (mask_trans rfl hm)
    | exact mask_trans (fieldMask_all _) (mask_trans rfl hm) | apply mask_or

theorem only_restate {m : Nat} {a s : State} (hm : 0x2410000080 ||| m = m) (h : Only m a s) : Only m a (State.restate s) := by
  unfold State.restate
  try dsimp only
  repeat' first
    | (with_reducible first
        | assumption | (intro _; try dsimp only) | apply only_setN | apply only_raise)
    | exact mask_trans rfl hm | exact mask_trans (evMask_all _) (mask_trans rfl hm)
    | exact mask_trans (fieldMask_all _) (mask_trans rfl hm) | apply mask_or

theorem only_loadHealth {m : Nat} {a s : State} (hm : 0x802c10000095 ||| m = m) (h : Only m a s) : Only m a (State.loadHealth s) := by
  unfold State.loadHealth
  try dsimp only
  repeat' first
    | (with_reducible first
        | exact fuse_same rfl | exact fusesKept_put _ _ _ | exact fusesKept_flags _ _)
    | with_reducible exact Or.inr rfl
    | (with_reducible first
        | assumption | (intro _; try dsimp only) | apply only_evalFatal | apply only_evalReplace | apply only_restate
        | apply only_setB | apply only_setN | apply only_ite | (apply only_foldl; intro s x hs; try dsimp only)
        | (apply only_foldl_snd; intro c s x hs; try dsimp only)
        | (apply only_foldl_fst; intro c s x hs; try dsimp only)
        | (apply only_foldl_trd; intro c d s x hs; try dsimp only) | refine only_snd ‹_ = (_, _)› ?_
        | refine only_fst ‹_ = (_, _)› ?_ | refine only_trd ‹_ = (_, _, _)› ?_ | refine only_fth ‹_ = (_, _, _, _)› ?_
        | (split; all_goals try dsimp only) | (apply only_mk (e33 := rfl)))
    | exact bit_of hm rfl | exact Or.inl (bit_of hm rfl)
    | (refine Or.inl ⟨bit_of hm rfl, ?_⟩; with_reducible first | exact fuse_same rfl | exact fusesKept_put _ _ _ | exact fusesKept_flags _ _)
    | exact Or.inr rfl | exact mask_trans rfl hm | exact mask_trans (fieldMask_all _) (mask_trans rfl hm)

theorem only_setRetired {m : Nat} {a s : State} (x1) (hm : 0x2410000090 ||| m = m) (h : Only m a s) : Only m a (State.setRetired s x1) := by
  unfold State.setRetired
  try dsimp only
  repeat' first
    | (with_reducible first
        | exact fuse_same rfl | exact fusesKept_put _ _ _ | exact fusesKept_flags _ _)
    | with_reducible exact Or.inr rfl
    | (with_reducible first
        | assumption | (intro _; try dsimp only) | apply only_evalReplace | apply only_restate | apply only_setB
        | apply only_set_fus | (apply only_mk (e33 := rfl)))
    | exact bit_of hm rfl | exact Or.inl (bit_of hm rfl)
    | (refine Or.inl ⟨bit_of hm rfl, ?_⟩; with_reducible first | exact fuse_same rfl | exact fusesKept_put _ _ _ | exact fusesKept_flags _ _)
    | exact Or.inr rfl | exact mask_trans rfl hm | exact mask_trans (fieldMask_all _) (mask_trans rfl hm)

theorem only_retireCluster {m : Nat} {a s : State} (x1) (hm : 0xfffffffffd31ffb3d5 ||| m = m) (h : Only m a s) : Only m a (State.retireCluster s x1) := by
  unfold State.retireCluster
  try dsimp only
  repeat' first
    | (with_reducible first
        | assumption | (intro _; try dsimp only) | apply only_onClusterRetired | apply only_toDom
        | apply only_afterRetired | apply only_settleRetention | apply only_setRetired | apply only_setReg
        | apply only_setB | apply only_raise | apply only_ite | (split; all_goals try dsimp only))
    | exact mask_trans rfl hm | exact mask_trans (evMask_all _) (mask_trans rfl hm)
    | exact mask_trans (fieldMask_all _) (mask_trans rfl hm) | apply mask_or

theorem only_retireDue {m : Nat} {a s : State} (x1) (hm : 0xfffffffffd31ffb3d5 ||| m = m) (h : Only m a s) : Only m a (State.retireDue s x1) := by
  unfold State.retireDue
  try dsimp only
  repeat' first
    | (with_reducible first
        | assumption | (intro _; try dsimp only) | apply only_retireCluster | apply only_ite
        | (split; all_goals try dsimp only))
    | exact mask_trans rfl hm

theorem only_retireLane {m : Nat} {a s : State} (x1) (hm : 0x1040062ac30062a90 ||| m = m) (h : Only m a s) : Only m a (State.retireLane s x1) := by
  unfold State.retireLane
  try dsimp only
  repeat' first
    | (with_reducible first
        | assumption | (intro _; try dsimp only) | apply only_linkDown | apply only_setRetired | apply only_setDom
        | apply only_setB | apply only_raise | apply only_ite | (apply only_foldl; intro s x hs; try dsimp only)
        | (apply only_foldl_snd; intro c s x hs; try dsimp only)
        | (apply only_foldl_fst; intro c s x hs; try dsimp only)
        | (apply only_foldl_trd; intro c d s x hs; try dsimp only) | refine only_snd ‹_ = (_, _)› ?_
        | refine only_fst ‹_ = (_, _)› ?_ | refine only_trd ‹_ = (_, _, _)› ?_ | refine only_fth ‹_ = (_, _, _, _)› ?_
        | (split; all_goals try dsimp only))
    | exact mask_trans rfl hm | exact mask_trans (evMask_all _) (mask_trans rfl hm)
    | exact mask_trans (fieldMask_all _) (mask_trans rfl hm) | apply mask_or

theorem only_flowFind {m : Nat} {a s : State} (x1) (hm : 0x400008000530000180 ||| m = m) (h : Only m a s) : Only m a (State.flowFind s x1).2 := by
  unfold State.flowFind
  try dsimp only
  repeat' first
    | (with_reducible first
        | assumption | (intro _; try dsimp only) | apply only_flowMatch | refine only_snd ‹_ = (_, _)› ?_
        | refine only_fst ‹_ = (_, _)› ?_ | refine only_trd ‹_ = (_, _, _)› ?_ | refine only_fth ‹_ = (_, _, _, _)› ?_
        | (split; all_goals try dsimp only))
    | exact mask_trans rfl hm

theorem only_routeLoc {m : Nat} {a s : State} (hm : 0x100000000 ||| m = m) (h : Only m a s) : Only m a (State.routeLoc s).2 := by
  unfold State.routeLoc
  try dsimp only
  repeat' first
    | (with_reducible first
        | assumption | (intro _; try dsimp only) | apply only_draw | refine only_snd ‹_ = (_, _)› ?_
        | refine only_fst ‹_ = (_, _)› ?_ | refine only_trd ‹_ = (_, _, _)› ?_ | refine only_fth ‹_ = (_, _, _, _)› ?_
        | (split; all_goals try dsimp only))
    | exact mask_trans rfl hm

theorem only_setRoutes {m : Nat} {a s : State} (x1 x2) (hm : 0x8000 ||| m = m) (h : Only m a s) : Only m a (State.setRoutes s x1 x2) := by
  unfold State.setRoutes
  try dsimp only
  repeat' first
    | with_reducible exact Or.inr rfl
    | (with_reducible first
        | assumption | (intro _; try dsimp only) | apply only_ite | (split; all_goals try dsimp only)
        | apply only_set_tbl | (apply only_mk (e33 := rfl)))
    | exact bit_of hm rfl | exact Or.inl (bit_of hm rfl) | exact Or.inr rfl | exact mask_trans rfl hm

theorem only_tblInsert {m : Nat} {a s : State} (x1 x2 x3 x4 x5) (hm : 0x49601ffffd300f8181 ||| m = m) (h : Only m a s) : Only m a (State.tblInsert s x1 x2 x3 x4 x5).2 := by
  unfold State.tblInsert
  try dsimp only
  repeat' first
    | with_reducible exact Or.inr rfl
    | (with_reducible first
        | assumption | (intro _; try dsimp only) | apply only_takeGen | apply only_setL2 | apply only_l2Insert
        | apply only_setHot | apply only_hbmPut | apply only_flowFind | apply only_removeRec | apply only_setLoc
        | apply only_flowMatch | apply only_flowPlan | apply only_flowPlace | apply only_routeLoc
        | apply only_setRoutes | apply only_ite | (apply only_ite_snd <;> try dsimp only)
        | (apply only_ite_fst <;> try dsimp only) | refine only_snd ‹_ = (_, _)› ?_ | refine only_fst ‹_ = (_, _)› ?_
        | refine only_trd ‹_ = (_, _, _)› ?_ | refine only_fth ‹_ = (_, _, _, _)› ?_
        | (split; all_goals try dsimp only) | apply only_set_tbl | (apply only_mk (e33 := rfl)))
    | exact bit_of hm rfl | exact Or.inl (bit_of hm rfl) | exact Or.inr rfl | exact mask_trans rfl hm

theorem only_applyRecs {m : Nat} {a s : State} (x1 x2) (hm : 0x49601ffffd300f8181 ||| m = m) (h : Only m a s) : Only m a (State.applyRecs s x1 x2).2 := by
  induction x2 generalizing s x1 with
  | nil => rw [State.applyRecs]; exact h
  | cons z l ih =>
    rw [State.applyRecs]
    repeat' first
      | (with_reducible first
          | assumption | (intro _; try dsimp only) | apply ih | apply only_tblInsert | apply only_ite
          | (apply only_ite_snd <;> try dsimp only) | (apply only_ite_fst <;> try dsimp only)
          | refine only_snd ‹_ = (_, _)› ?_ | refine only_fst ‹_ = (_, _)› ?_ | refine only_trd ‹_ = (_, _, _)› ?_
          | refine only_fth ‹_ = (_, _, _, _)› ?_ | (split; all_goals try dsimp only))
      | exact mask_trans rfl hm

theorem only_freeze {m : Nat} {a s : State} (hm : 0xc0000018100 ||| m = m) (h : Only m a s) : Only m a (State.freeze s) := by
  unfold State.freeze
  try dsimp only
  repeat' first
    | with_reducible exact Or.inr rfl
    | (with_reducible first
        | assumption | (intro _; try dsimp only) | apply only_clearFlows | apply only_setB | apply only_ite
        | (split; all_goals try dsimp only) | apply only_set_tbl | (apply only_mk (e33 := rfl)))
    | exact bit_of hm rfl | exact Or.inl (bit_of hm rfl) | exact Or.inr rfl | exact mask_trans rfl hm
    | exact mask_trans (fieldMask_all _) (mask_trans rfl hm)

theorem only_applyTable {m : Nat} {a s : State} (x1) (hm : 0x49601ffffd300f8181 ||| m = m) (h : Only m a s) : Only m a (State.applyTable s x1).1 := by
  unfold State.applyTable
  try dsimp only
  repeat' first
    | with_reducible exact Or.inr rfl
    | (with_reducible first
        | assumption | (intro _; try dsimp only) | apply only_freeze | apply only_applyRecs | apply only_raise
        | apply only_ite | (apply only_ite_snd <;> try dsimp only) | (apply only_ite_fst <;> try dsimp only)
        | refine only_snd ‹_ = (_, _)› ?_ | refine only_fst ‹_ = (_, _)› ?_ | refine only_trd ‹_ = (_, _, _)› ?_
        | refine only_fth ‹_ = (_, _, _, _)› ?_ | (split; all_goals try dsimp only) | apply only_set_tbl
        | (apply only_mk (e33 := rfl)))
    | exact bit_of hm rfl | exact Or.inl (bit_of hm rfl) | exact Or.inr rfl | exact mask_trans rfl hm
    | exact mask_trans (evMask_all _) (mask_trans rfl hm) | apply mask_or

theorem only_haltRoutine {m : Nat} {a s : State} (x1 x2) (hm : 0x402008000530008180 ||| m = m) (h : Only m a s) : Only m a (State.haltRoutine s x1 x2) := by
  unfold State.haltRoutine
  try dsimp only
  repeat' first
    | (with_reducible first
        | assumption | (intro _; try dsimp only) | apply only_stopMoves | apply only_bump | apply only_ite
        | (split; all_goals try dsimp only))
    | exact mask_trans rfl hm | exact mask_trans (ctrMask_all _) (mask_trans rfl hm)

theorem only_breakRoutine {m : Nat} {a s : State} (hm : 0x402008000530008180 ||| m = m) (h : Only m a s) : Only m a (State.breakRoutine s) := by
  unfold State.breakRoutine
  try dsimp only
  repeat' first
    | (with_reducible first
        | assumption | (intro _; try dsimp only) | apply only_haltRoutine | apply only_draw | apply only_ite
        | (apply only_ite_snd <;> try dsimp only) | (apply only_ite_fst <;> try dsimp only)
        | refine only_snd ‹_ = (_, _)› ?_ | refine only_fst ‹_ = (_, _)› ?_ | refine only_trd ‹_ = (_, _, _)› ?_
        | refine only_fth ‹_ = (_, _, _, _)› ?_ | (split; all_goals try dsimp only))
    | exact mask_trans rfl hm

theorem only_flushFlat {m : Nat} {a s : State} (x1) (hm : 0x8000 ||| m = m) (h : Only m a s) : Only m a (State.flushFlat s x1).2 := by
  unfold State.flushFlat
  try dsimp only
  repeat' first
    | with_reducible exact Or.inr rfl
    | (with_reducible first
        | assumption | (intro _; try dsimp only) | apply only_setRoutes | refine only_snd ‹_ = (_, _)› ?_
        | refine only_fst ‹_ = (_, _)› ?_ | refine only_trd ‹_ = (_, _, _)› ?_ | refine only_fth ‹_ = (_, _, _, _)› ?_
        | (split; all_goals try dsimp only) | apply only_set_tbl | (apply only_mk (e33 := rfl)))
    | exact bit_of hm rfl | exact Or.inl (bit_of hm rfl) | exact Or.inr rfl | exact mask_trans rfl hm

theorem only_noteWalked {m : Nat} {a s : State} (x1 x2 x3) (hm : 0x8000 ||| m = m) (h : Only m a s) : Only m a (State.noteWalked s x1 x2 x3) := by
  unfold State.noteWalked
  try dsimp only
  repeat' first
    | (with_reducible first
        | assumption | (intro _; try dsimp only) | apply only_setWin | apply only_ite
        | (split; all_goals try dsimp only))
    | exact mask_trans rfl hm

theorem only_oldFlow {m : Nat} {a s : State} (x1) (hm : 0x400008000530000180 ||| m = m) (h : Only m a s) : Only m a (State.oldFlow s x1).2 := by
  unfold State.oldFlow
  try dsimp only
  repeat' first
    | (with_reducible first
        | assumption | (intro _; try dsimp only) | apply only_readBucket | apply only_ite
        | (apply only_ite_snd <;> try dsimp only) | (apply only_ite_fst <;> try dsimp only)
        | refine only_snd ‹_ = (_, _)› ?_ | refine only_fst ‹_ = (_, _)› ?_ | refine only_trd ‹_ = (_, _, _)› ?_
        | refine only_fth ‹_ = (_, _, _, _)› ?_ | (split; all_goals try dsimp only))
    | exact mask_trans rfl hm

theorem only_rehashDone {m : Nat} {a s : State} (hm : 0x40410008080 ||| m = m) (h : Only m a s) : Only m a (State.rehashDone s) := by
  unfold State.rehashDone
  try dsimp only
  repeat' first
    | with_reducible exact Or.inr rfl
    | (with_reducible first
        | assumption | (intro _; try dsimp only) | apply only_setB | apply only_raise | apply only_setN
        | apply only_set_tbl | (apply only_mk (e33 := rfl)))
    | exact bit_of hm rfl | exact Or.inl (bit_of hm rfl) | exact Or.inr rfl | exact mask_trans rfl hm
    | exact mask_trans (evMask_all _) (mask_trans rfl hm) | exact mask_trans (fieldMask_all _) (mask_trans rfl hm)
    | apply mask_or

theorem only_rehashFlow {m : Nat} {a s : State} (x1) (hm : 0x402008040530008180 ||| m = m) (h : Only m a s) : Only m a (State.rehashFlow s x1).2 := by
  unfold State.rehashFlow
  try dsimp only
  repeat' first
    | with_reducible exact Or.inr rfl
    | (with_reducible first
        | assumption | (intro _; try dsimp only) | apply only_oldFlow | apply only_hbmRead | apply only_flowMatch
        | apply only_flowPlan | apply only_setLoc | apply only_insFail | apply only_flowPlace | apply only_putSlot
        | apply only_rehashDone | apply only_setN | apply only_ite | (apply only_ite_snd <;> try dsimp only)
        | (apply only_ite_fst <;> try dsimp only) | refine only_snd ‹_ = (_, _)› ?_ | refine only_fst ‹_ = (_, _)› ?_
        | refine only_trd ‹_ = (_, _, _)› ?_ | refine only_fth ‹_ = (_, _, _, _)› ?_
        | (split; all_goals try dsimp only) | apply only_set_tbl | (apply only_mk (e33 := rfl)))
    | exact bit_of hm rfl | exact Or.inl (bit_of hm rfl) | exact Or.inr rfl | exact mask_trans rfl hm
    | exact mask_trans (fieldMask_all _) (mask_trans rfl hm)

theorem only_rehashL2 {m : Nat} {a s : State} (x1) (hm : 0x402008040530008180 ||| m = m) (h : Only m a s) : Only m a (State.rehashL2 s x1).2 := by
  unfold State.rehashL2
  try dsimp only
  repeat' first
    | with_reducible exact Or.inr rfl
    | (with_reducible first
        | assumption | (intro _; try dsimp only) | apply only_insFail | apply only_dropL2 | apply only_setL2
        | apply only_runMoves | apply only_raise | apply only_setB | apply only_ite
        | (apply only_ite_snd <;> try dsimp only) | (apply only_ite_fst <;> try dsimp only)
        | refine only_snd ‹_ = (_, _)› ?_ | refine only_fst ‹_ = (_, _)› ?_ | refine only_trd ‹_ = (_, _, _)› ?_
        | refine only_fth ‹_ = (_, _, _, _)› ?_ | (split; all_goals try dsimp only) | apply only_set_tbl
        | (apply only_mk (e33 := rfl)))
    | exact bit_of hm rfl | exact Or.inl (bit_of hm rfl) | exact Or.inr rfl | exact mask_trans rfl hm
    | exact mask_trans (evMask_all _) (mask_trans rfl hm) | exact mask_trans (fieldMask_all _) (mask_trans rfl hm)
    | apply mask_or

theorem only_sweep {m : Nat} {a s : State} (x1) (hm : 0x49401ffffd300f8181 ||| m = m) (h : Only m a s) : Only m a (State.sweep s x1).2 := by
  unfold State.sweep
  try dsimp only
  repeat' first
    | (with_reducible first
        | assumption | (intro _; try dsimp only) | apply only_dropL2 | apply only_readBucket | apply only_removeRec
        | apply only_clearLoc | apply only_ite | (apply only_ite_snd <;> try dsimp only)
        | (apply only_ite_fst <;> try dsimp only) | (apply only_foldl; intro s x hs; try dsimp only)
        | (apply only_foldl_snd; intro c s x hs; try dsimp only)
        | (apply only_foldl_fst; intro c s x hs; try dsimp only)
        | (apply only_foldl_trd; intro c d s x hs; try dsimp only) | refine only_snd ‹_ = (_, _)› ?_
        | refine only_fst ‹_ = (_, _)› ?_ | refine only_trd ‹_ = (_, _, _)› ?_ | refine only_fth ‹_ = (_, _, _, _)› ?_
        | (split; all_goals try dsimp only))
    | exact mask_trans rfl hm

theorem only_tblDelete {m : Nat} {a s : State} (x1 x2 x3) (hm : 0x49401ffffd300f8181 ||| m = m) (h : Only m a s) : Only m a (State.tblDelete s x1 x2 x3).2 := by
  unfold State.tblDelete
  try dsimp only
  repeat' first
    | with_reducible exact Or.inr rfl
    | (with_reducible first
        | assumption | (intro _; try dsimp only) | apply only_dropL2 | apply only_flowFind | apply only_removeRec
        | apply only_clearLoc | apply only_setRoutes | apply only_ite | (apply only_ite_snd <;> try dsimp only)
        | (apply only_ite_fst <;> try dsimp only) | refine only_snd ‹_ = (_, _)› ?_ | refine only_fst ‹_ = (_, _)› ?_
        | refine only_trd ‹_ = (_, _, _)› ?_ | refine only_fth ‹_ = (_, _, _, _)› ?_
        | (split; all_goals try dsimp only) | apply only_set_tbl | (apply only_mk (e33 := rfl)))
    | exact bit_of hm rfl | exact Or.inl (bit_of hm rfl) | exact Or.inr rfl | exact mask_trans rfl hm

theorem only_tblNext {m : Nat} {a s : State} (x1 x2 x3) (hm : 0x400008000530000180 ||| m = m) (h : Only m a s) : Only m a (State.tblNext s x1 x2 x3).2 := by
  unfold State.tblNext
  try dsimp only
  repeat' first
    | (with_reducible first
        | assumption | (intro _; try dsimp only) | apply only_hbmRead | apply only_routeLoc | apply only_ite
        | (apply only_ite_snd <;> try dsimp only) | (apply only_ite_fst <;> try dsimp only)
        | refine only_snd ‹_ = (_, _)› ?_ | refine only_fst ‹_ = (_, _)› ?_ | refine only_trd ‹_ = (_, _, _)› ?_
        | refine only_fth ‹_ = (_, _, _, _)› ?_ | (split; all_goals try dsimp only))
    | exact mask_trans rfl hm

theorem only_tblSearch {m : Nat} {a s : State} (x1 x2) (hm : 0x400008000530000180 ||| m = m) (h : Only m a s) : Only m a (State.tblSearch s x1 x2).2 := by
  unfold State.tblSearch
  try dsimp only
  repeat' first
    | (with_reducible first
        | assumption | (intro _; try dsimp only) | apply only_flowFind | apply only_routeLoc | apply only_ite
        | (apply only_ite_snd <;> try dsimp only) | (apply only_ite_fst <;> try dsimp only)
        | refine only_snd ‹_ = (_, _)› ?_ | refine only_fst ‹_ = (_, _)› ?_ | refine only_trd ‹_ = (_, _, _)› ?_
        | refine only_fth ‹_ = (_, _, _, _)› ?_ | (split; all_goals try dsimp only))
    | exact mask_trans rfl hm

theorem only_routine {m : Nat} {a s : State} (x1 x2 x3) (hm : 0x49601ffffd310f8181 ||| m = m) (h : Only m a s) : Only m a (State.routine s x1 x2 x3).2 := by
  unfold State.routine
  try dsimp only
  repeat' first
    | (with_reducible first
        | assumption | (intro _; try dsimp only) | apply only_tblSearch | apply only_tblNext | apply only_noteWalked
        | apply only_windowWrite | apply only_tblInsert | apply only_tblDelete | apply only_sweep
        | apply only_flushFlat | apply only_rehashL2 | apply only_rehashFlow | apply only_setN | apply only_ite
        | (apply only_ite_snd <;> try dsimp only) | (apply only_ite_fst <;> try dsimp only)
        | (apply only_foldl; intro s x hs; try dsimp only) | (apply only_foldl_snd; intro c s x hs; try dsimp only)
        | (apply only_foldl_fst; intro c s x hs; try dsimp only)
        | (apply only_foldl_trd; intro c d s x hs; try dsimp only) | refine only_snd ‹_ = (_, _)› ?_
        | refine only_fst ‹_ = (_, _)› ?_ | refine only_trd ‹_ = (_, _, _)› ?_ | refine only_fth ‹_ = (_, _, _, _)› ?_
        | (split; all_goals try dsimp only))
    | exact mask_trans rfl hm | exact mask_trans (fieldMask_all _) (mask_trans rfl hm)

theorem only_leaseLost {m : Nat} {a s : State} (x1) (hm : 0x4000410000080 ||| m = m) (h : Only m a s) : Only m a (State.leaseLost s x1) := by
  unfold State.leaseLost
  try dsimp only
  repeat' first
    | (with_reducible first
        | assumption | (intro _; try dsimp only) | apply only_onLeaseEnd | apply only_raise
        | (split; all_goals try dsimp only))
    | exact mask_trans rfl hm | exact mask_trans (evMask_all _) (mask_trans rfl hm) | apply mask_or

theorem only_lostOnChip {m : Nat} {a s : State} (hm : 0xffffffffffffffffff ||| m = m) (h : Only m a s) : Only m a (State.lostOnChip s) := by
  unfold State.lostOnChip
  refine only_keepAlwaysOn hm h (only_foldl (fun u x hu => only_setReg _ _ _ (mask_trans (fieldMask_all _) (mask_trans rfl hm)) hu)
    (only_foldl (fun u x hu => only_ite (only_setB _ _ _ (mask_trans rfl hm) hu) hu) ?_))
  exact only_setB _ _ _ (mask_trans rfl hm) (only_setN _ _ _ (mask_trans rfl hm) (only_setN _ _ _ (mask_trans rfl hm)
    (only_full hm ⟨h.keep.pending, fun _ => leaseFits_reset, fun _ => rfl, h.keep.fuse⟩)))

theorem only_dormantStart {m : Nat} {a s : State} (hm : 0xffffffffffffffffff ||| m = m) (h : Only m a s) : Only m a (State.dormantStart s) := by
  unfold State.dormantStart
  try dsimp only
  repeat' first
    | (with_reducible first
        | exact lease_same rfl rfl | exact fun _ => leaseFits_none (by decide) | exact leaseFits_modEnd _
        | exact leaseFits_modGrant _ _ _ | exact fun _ => leaseFits_modEnter _ _)
    | with_reducible exact Or.inr rfl
    | (with_reducible first
        | assumption | (intro _; try dsimp only) | apply only_loseHbm | apply only_leaseLost | apply only_lostOnChip
        | apply only_setB | apply only_ite | (split; all_goals try dsimp only) | (apply only_mk (e33 := rfl)))
    | exact bit_of hm rfl | exact Or.inl (bit_of hm rfl)
    | (refine Or.inl ⟨bit_of hm rfl, ?_⟩; with_reducible first | exact lease_same rfl rfl | exact fun _ => leaseFits_none (by decide) | exact leaseFits_modEnd _ | exact leaseFits_modGrant _ _ _ | exact fun _ => leaseFits_modEnter _ _)
    | exact Or.inr rfl | exact mask_trans rfl hm | exact mask_trans (fieldMask_all _) (mask_trans rfl hm)

theorem only_modeChanged {m : Nat} {a s : State} (x1) (hm : 0xfffffffffd31ffb3d5 ||| m = m) (h : Only m a s) : Only m a (State.modeChanged s x1) := by
  unfold State.modeChanged
  try dsimp only
  repeat' first
    | (with_reducible first
        | assumption | (intro _; try dsimp only) | apply only_settleDomains | apply only_raise | apply only_ite
        | (split; all_goals try dsimp only))
    | exact mask_trans rfl hm | exact mask_trans (evMask_all _) (mask_trans rfl hm) | apply mask_or

theorem only_endLease {m : Nat} {a s : State} (x1) (hm : 0xfffffffffd31ffb3d7 ||| m = m) (h : Only m a s) : Only m a (State.endLease s x1) := by
  unfold State.endLease
  try dsimp only
  repeat' first
    | (with_reducible first
        | exact lease_same rfl rfl | exact fun _ => leaseFits_none (by decide) | exact leaseFits_modEnd _
        | exact leaseFits_modGrant _ _ _ | exact fun _ => leaseFits_modEnter _ _)
    | with_reducible exact Or.inr rfl
    | (with_reducible first
        | assumption | (intro _; try dsimp only) | apply only_modeChanged | apply only_onLeaseEnd | apply only_raise
        | (split; all_goals try dsimp only) | apply only_set_mod | (apply only_mk (e33 := rfl)))
    | exact bit_of hm rfl | exact Or.inl (bit_of hm rfl)
    | (refine Or.inl ⟨bit_of hm rfl, ?_⟩; with_reducible first | exact lease_same rfl rfl | exact fun _ => leaseFits_none (by decide) | exact leaseFits_modEnd _ | exact leaseFits_modGrant _ _ _ | exact fun _ => leaseFits_modEnter _ _)
    | exact Or.inr rfl | exact mask_trans rfl hm | exact mask_trans (evMask_all _) (mask_trans rfl hm) | apply mask_or

theorem only_leaseLeaves {m : Nat} {a s : State} (x1) (hm : 0x4000410000080 ||| m = m) (h : Only m a s) : Only m a (State.leaseLeaves s x1) := by
  unfold State.leaseLeaves
  try dsimp only
  repeat' first
    | (with_reducible first
        | assumption | (intro _; try dsimp only) | apply only_onLeaseEnd | apply only_raise | apply only_ite
        | (split; all_goals try dsimp only))
    | exact mask_trans rfl hm | exact mask_trans (evMask_all _) (mask_trans rfl hm) | apply mask_or

theorem only_onEnter {m : Nat} {a s : State} (x1 x2) (hm : 0xffffffffffffffffff ||| m = m) (h : Only m a s) : Only m a (State.onEnter s x1 x2) := by
  unfold State.onEnter
  try dsimp only
  repeat' first
    | with_reducible exact Or.inr rfl
    | (with_reducible first
        | assumption | (intro _; try dsimp only) | apply only_drawSeeds | apply only_loseSwitched | apply only_loseHbm
        | apply only_onDrain | apply only_onSafeHold | apply only_raise | apply only_setB | apply only_ite
        | (split; all_goals try dsimp only) | apply only_set_boot | apply only_set_mon | (apply only_mk (e33 := rfl)))
    | exact bit_of hm rfl | exact Or.inl (bit_of hm rfl) | exact Or.inr rfl | exact mask_trans rfl hm
    | exact mask_trans (evMask_all _) (mask_trans rfl hm) | exact mask_trans (fieldMask_all _) (mask_trans rfl hm)
    | apply mask_or

theorem only_enterMode {m : Nat} {a s : State} (x1) (hm : 0xffffffffffffffffff ||| m = m) (h : Only m a s) : Only m a (State.enterMode s x1) := by
  unfold State.enterMode
  try dsimp only
  repeat' first
    | (with_reducible first
        | exact lease_same rfl rfl | exact fun _ => leaseFits_none (by decide) | exact leaseFits_modEnd _
        | exact leaseFits_modGrant _ _ _ | exact fun _ => leaseFits_modEnter _ _)
    | with_reducible exact Or.inr rfl
    | (with_reducible first
        | assumption | (intro _; try dsimp only) | apply only_leaseLeaves | apply only_modeChanged
        | apply only_onEnter | apply only_set_mod | (apply only_mk (e33 := rfl)))
    | exact bit_of hm rfl | exact Or.inl (bit_of hm rfl)
    | (refine Or.inl ⟨bit_of hm rfl, ?_⟩; with_reducible first | exact lease_same rfl rfl | exact fun _ => leaseFits_none (by decide) | exact leaseFits_modEnd _ | exact leaseFits_modGrant _ _ _ | exact fun _ => leaseFits_modEnter _ _)
    | exact Or.inr rfl | exact mask_trans rfl hm

theorem only_fatalCleared {m : Nat} {a s : State} (hm : 0x2000000014 ||| m = m) (h : Only m a s) : Only m a (State.fatalCleared s) := by
  unfold State.fatalCleared
  try dsimp only
  repeat' first
    | (with_reducible first
        | exact fuse_same rfl | exact fusesKept_put _ _ _ | exact fusesKept_flags _ _)
    | with_reducible exact Or.inr rfl
    | (with_reducible first
        | assumption | (intro _; try dsimp only) | apply only_evalFatal | apply only_set_fus
        | (apply only_mk (e33 := rfl)))
    | exact bit_of hm rfl | exact Or.inl (bit_of hm rfl)
    | (refine Or.inl ⟨bit_of hm rfl, ?_⟩; with_reducible first | exact fuse_same rfl | exact fusesKept_put _ _ _ | exact fusesKept_flags _ _)
    | exact Or.inr rfl | exact mask_trans rfl hm

end Sys2Proof.Machine
end

