-- ==== Sys2Proof/Laws/Only4.lean ====
section
/-! SUPPORT. What the operations of the machine may change and what they keep, one lemma each (part 4 of 8). -/

namespace Sys2Proof.Machine

open Sys2Proof

set_option linter.all false
set_option Elab.async false

theorem only_grantLease {m : Nat} {a s : State} (x1 x2) (hm : 0xfffffffffd31ffb3d7 ||| m = m) (h : Only m a s) : Only m a (State.grantLease s x1 x2) := by
  unfold State.grantLease
  try dsimp only
  repeat' first
    | (with_reducible first
        | exact lease_same rfl rfl | exact fun _ => leaseFits_none (by decide) | exact leaseFits_modEnd _
        | exact leaseFits_modGrant _ _ _ | exact fun _ => leaseFits_modEnter _ _)
    | with_reducible exact Or.inr rfl
    | (with_reducible first
        | assumption | (intro _; try dsimp only) | apply only_modeChanged | apply only_setN | apply only_setReg
        | apply only_raise | apply only_set_mod | (apply only_mk (e33 := rfl)))
    | exact bit_of hm rfl | exact Or.inl (bit_of hm rfl)
    | (refine Or.inl ⟨bit_of hm rfl, ?_⟩; with_reducible first | exact lease_same rfl rfl | exact fun _ => leaseFits_none (by decide) | exact leaseFits_modEnd _ | exact leaseFits_modGrant _ _ _ | exact fun _ => leaseFits_modEnter _ _)
    | exact Or.inr rfl | exact mask_trans rfl hm | exact mask_trans (evMask_all _) (mask_trans rfl hm)
    | exact mask_trans (fieldMask_all _) (mask_trans rfl hm) | apply mask_or

theorem only_modeRefused {m : Nat} {a s : State} (hm : 0x410000080 ||| m = m) (h : Only m a s) : Only m a (State.modeRefused s) := by
  unfold State.modeRefused
  try dsimp only
  repeat' first
    | (with_reducible first
        | assumption | (intro _; try dsimp only) | apply only_raise)
    | exact mask_trans rfl hm | exact mask_trans (evMask_all _) (mask_trans rfl hm) | apply mask_or

theorem only_safeHoldCause {m : Nat} {a s : State} (hm : 0xffffffffffffffffff ||| m = m) (h : Only m a s) : Only m a (State.safeHoldCause s) := by
  unfold State.safeHoldCause
  try dsimp only
  repeat' first
    | (with_reducible first
        | assumption | (intro _; try dsimp only) | apply only_enterMode | apply only_ite
        | (split; all_goals try dsimp only))
    | exact mask_trans rfl hm

theorem only_warmStart {m : Nat} {a s : State} (x1) (hm : 0xffffffffffffffffff ||| m = m) (h : Only m a s) : Only m a (State.warmStart s x1) := by
  unfold State.warmStart
  try dsimp only
  repeat' first
    | (with_reducible first
        | exact lease_same rfl rfl | exact fun _ => leaseFits_none (by decide) | exact leaseFits_modEnd _
        | exact leaseFits_modGrant _ _ _ | exact fun _ => leaseFits_modEnter _ _)
    | with_reducible exact Or.inr rfl
    | (with_reducible first
        | assumption | (intro _; try dsimp only) | apply only_leaseLost | apply only_lostOnChip
        | apply only_breakRoutine | apply only_fatalCleared | apply only_ite | (split; all_goals try dsimp only)
        | (apply only_mk (e33 := rfl)))
    | exact bit_of hm rfl | exact Or.inl (bit_of hm rfl)
    | (refine Or.inl ⟨bit_of hm rfl, ?_⟩; with_reducible first | exact lease_same rfl rfl | exact fun _ => leaseFits_none (by decide) | exact leaseFits_modEnd _ | exact leaseFits_modGrant _ _ _ | exact fun _ => leaseFits_modEnter _ _)
    | exact Or.inr rfl | exact mask_trans rfl hm

theorem only_served {m : Nat} {a s : State} (x1) (hm : 0x8000 ||| m = m) (h : Only m a s) : Only m a (State.served s x1) := by
  unfold State.served
  try dsimp only
  repeat' first
    | with_reducible exact Or.inr rfl
    | (with_reducible first
        | assumption | (intro _; try dsimp only) | apply only_set_tbl | (apply only_mk (e33 := rfl)))
    | exact bit_of hm rfl | exact Or.inl (bit_of hm rfl) | exact Or.inr rfl | exact mask_trans rfl hm

theorem only_abandon {m : Nat} {a s : State} (x1 x2 x3) (hm : 0x402008040530008180 ||| m = m) (h : Only m a s) : Only m a (State.abandon s x1 x2 x3) := by
  unfold State.abandon
  try dsimp only
  repeat' first
    | (with_reducible first
        | assumption | (intro _; try dsimp only) | apply only_served | apply only_haltRoutine | apply only_setWin
        | apply only_bump | apply only_setB | apply only_ite | (split; all_goals try dsimp only))
    | exact mask_trans rfl hm | exact mask_trans (fieldMask_all _) (mask_trans rfl hm)
    | exact mask_trans (ctrMask_all _) (mask_trans rfl hm)

theorem only_ageDelete {m : Nat} {a s : State} (x1) (hm : 0x49601ffffd300f8181 ||| m = m) (h : Only m a s) : Only m a (State.ageDelete s x1) := by
  unfold State.ageDelete
  try dsimp only
  repeat' first
    | (with_reducible first
        | assumption | (intro _; try dsimp only) | apply only_dropL2 | apply only_removeRec | apply only_clearLoc
        | apply only_bump | apply only_ite | (split; all_goals try dsimp only))
    | exact mask_trans rfl hm | exact mask_trans (ctrMask_all _) (mask_trans rfl hm)

theorem only_bridge {m : Nat} {a s : State} (x1 x2) (hm : 0x2000000000000000 ||| m = m) (h : Only m a s) : Only m a (State.bridge s x1 x2).1 := by
  unfold State.bridge
  try dsimp only
  repeat' first
    | (with_reducible first
        | assumption | (intro _; try dsimp only) | apply only_bump | apply only_ite
        | (apply only_ite_snd <;> try dsimp only) | (apply only_ite_fst <;> try dsimp only)
        | refine only_snd ‹_ = (_, _)› ?_ | refine only_fst ‹_ = (_, _)› ?_ | refine only_trd ‹_ = (_, _, _)› ?_
        | refine only_fth ‹_ = (_, _, _, _)› ?_ | (split; all_goals try dsimp only))
    | exact mask_trans rfl hm | exact mask_trans (ctrMask_all _) (mask_trans rfl hm)

theorem only_commitRoutine {m : Nat} {a s : State} (x1 x2 x3) (hm : 0x49601ffffd310f8181 ||| m = m) (h : Only m a s) : Only m a (State.commitRoutine s x1 x2 x3) := by
  unfold State.commitRoutine
  try dsimp only
  repeat' first
    | (with_reducible first
        | assumption | (intro _; try dsimp only) | apply only_routine | apply only_served | apply only_setWin
        | apply only_tblEnd | apply only_setB | apply only_ite | (apply only_ite_snd <;> try dsimp only)
        | (apply only_ite_fst <;> try dsimp only) | refine only_snd ‹_ = (_, _)› ?_ | refine only_fst ‹_ = (_, _)› ?_
        | refine only_trd ‹_ = (_, _, _)› ?_ | refine only_fth ‹_ = (_, _, _, _)› ?_
        | (split; all_goals try dsimp only))
    | exact mask_trans rfl hm | exact mask_trans (fieldMask_all _) (mask_trans rfl hm)

theorem only_route {m : Nat} {a s : State} (x1 x2) (hm : 0x2000000000000000 ||| m = m) (h : Only m a s) : Only m a (State.route s x1 x2).1 := by
  unfold State.route
  try dsimp only
  repeat' first
    | (with_reducible first
        | assumption | (intro _; try dsimp only) | apply only_bump | apply only_ite
        | (apply only_ite_snd <;> try dsimp only) | (apply only_ite_fst <;> try dsimp only)
        | refine only_snd ‹_ = (_, _)› ?_ | refine only_fst ‹_ = (_, _)› ?_ | refine only_trd ‹_ = (_, _, _)› ?_
        | refine only_fth ‹_ = (_, _, _, _)› ?_ | (split; all_goals try dsimp only))
    | exact mask_trans rfl hm | exact mask_trans (ctrMask_all _) (mask_trans rfl hm)

theorem only_forward {m : Nat} {a s : State} (x1) (hm : 0x12000220430022a80 ||| m = m) (h : Only m a s) : Only m a (State.forward s x1) := by
  unfold State.forward
  try dsimp only
  repeat' first
    | (with_reducible first
        | assumption | (intro _; try dsimp only) | apply only_route | apply only_bridge | apply only_setPkt
        | apply only_toDiscard | apply only_bump | apply only_ite | (apply only_ite_snd <;> try dsimp only)
        | (apply only_ite_fst <;> try dsimp only) | refine only_snd ‹_ = (_, _)› ?_ | refine only_fst ‹_ = (_, _)› ?_
        | refine only_trd ‹_ = (_, _, _)› ?_ | refine only_fth ‹_ = (_, _, _, _)› ?_
        | (split; all_goals try dsimp only))
    | exact mask_trans rfl hm | exact mask_trans (ctrMask_all _) (mask_trans rfl hm)

theorem only_learnL2 {m : Nat} {a s : State} (x1 x2 x3 x4) (hm : 0x402008040530008180 ||| m = m) (h : Only m a s) : Only m a (State.learnL2 s x1 x2 x3 x4) := by
  unfold State.learnL2
  try dsimp only
  repeat' first
    | (with_reducible first
        | assumption | (intro _; try dsimp only) | apply only_takeGen | apply only_setL2 | apply only_l2Insert
        | apply only_bump | apply only_raiseLimited | apply only_ite | (apply only_ite_snd <;> try dsimp only)
        | (apply only_ite_fst <;> try dsimp only) | refine only_snd ‹_ = (_, _)› ?_ | refine only_fst ‹_ = (_, _)› ?_
        | refine only_trd ‹_ = (_, _, _)› ?_ | refine only_fth ‹_ = (_, _, _, _)› ?_
        | (split; all_goals try dsimp only))
    | exact mask_trans rfl hm | exact mask_trans (evMask_all _) (mask_trans rfl hm)
    | exact mask_trans (ctrMask_all _) (mask_trans rfl hm) | apply mask_or

theorem only_tblBegin {m : Nat} {a s : State} (x1 x2) (hm : 0x40000008000 ||| m = m) (h : Only m a s) : Only m a (State.tblBegin s x1 x2) := by
  unfold State.tblBegin
  try dsimp only
  repeat' first
    | (with_reducible first
        | assumption | (intro _; try dsimp only) | apply only_setWin | apply only_setN | apply only_ite
        | (split; all_goals try dsimp only))
    | exact mask_trans rfl hm | exact mask_trans (fieldMask_all _) (mask_trans rfl hm)

theorem only_startRehash {m : Nat} {a s : State} (x1 x2) (hm : 0x40100008000 ||| m = m) (h : Only m a s) : Only m a (State.startRehash s x1 x2) := by
  unfold State.startRehash
  try dsimp only
  repeat' first
    | with_reducible exact Or.inr rfl
    | (with_reducible first
        | assumption | (intro _; try dsimp only) | apply only_tblBegin | apply only_draw | apply only_setB
        | apply only_setN | apply only_ite | (apply only_ite_snd <;> try dsimp only)
        | (apply only_ite_fst <;> try dsimp only) | refine only_snd ‹_ = (_, _)› ?_ | refine only_fst ‹_ = (_, _)› ?_
        | refine only_trd ‹_ = (_, _, _)› ?_ | refine only_fth ‹_ = (_, _, _, _)› ?_
        | (split; all_goals try dsimp only) | apply only_set_tbl | (apply only_mk (e33 := rfl)))
    | exact bit_of hm rfl | exact Or.inl (bit_of hm rfl) | exact Or.inr rfl | exact mask_trans rfl hm
    | exact mask_trans (fieldMask_all _) (mask_trans rfl hm)

theorem only_tblAbort {m : Nat} {a s : State} (x1) (hm : 0x40201ffffd30008180 ||| m = m) (h : Only m a s) : Only m a (State.tblAbort s x1) := by
  unfold State.tblAbort
  try dsimp only
  repeat' first
    | (with_reducible first
        | assumption | (intro _; try dsimp only) | apply only_setWin | apply only_tblEnd | apply only_breakRoutine
        | apply only_ite | (split; all_goals try dsimp only))
    | exact mask_trans rfl hm

theorem only_tblResume {m : Nat} {a s : State} (x1 x2) (hm : 0x1ffffc30008080 ||| m = m) (h : Only m a s) : Only m a (State.tblResume s x1 x2) := by
  unfold State.tblResume
  try dsimp only
  repeat' first
    | (with_reducible first
        | assumption | (intro _; try dsimp only) | apply only_tblBegin | apply only_tblEnd | apply only_setN
        | apply only_ite | (split; all_goals try dsimp only))
    | exact mask_trans rfl hm | exact mask_trans (fieldMask_all _) (mask_trans rfl hm)

theorem only_tblRefuse {m : Nat} {a s : State} (x1 x2 x3 x4) (hm : 0x40000000000 ||| m = m) (h : Only m a s) : Only m a (State.tblRefuse s x1 x2 x3 x4) := by
  unfold State.tblRefuse
  try dsimp only
  repeat' first
    | (with_reducible first
        | assumption | (intro _; try dsimp only) | apply only_setN | apply only_ite
        | (split; all_goals try dsimp only))
    | exact mask_trans rfl hm | exact mask_trans (fieldMask_all _) (mask_trans rfl hm)

theorem only_tblTurnAway {m : Nat} {a s : State} (x1 x2 x3 x4) (hm : 0x1ffffc30000080 ||| m = m) (h : Only m a s) : Only m a (State.tblTurnAway s x1 x2 x3 x4) := by
  unfold State.tblTurnAway
  try dsimp only
  repeat' first
    | (with_reducible first
        | assumption | (intro _; try dsimp only) | apply only_tblRefuse | apply only_raiseLimited)
    | exact mask_trans rfl hm | exact mask_trans (evMask_all _) (mask_trans rfl hm) | apply mask_or

theorem only_tblAccept {m : Nat} {a s : State} (x1 x2 x3 x4) (hm : 0x1ffffd30018180 ||| m = m) (h : Only m a s) : Only m a (State.tblAccept s x1 x2 x3 x4) := by
  unfold State.tblAccept
  try dsimp only
  repeat' first
    | (with_reducible first
        | assumption | (intro _; try dsimp only) | apply only_freeze | apply only_tblTurnAway | apply only_startRehash
        | apply only_tblResume | apply only_tblBegin | apply only_ite | (split; all_goals try dsimp only))
    | exact mask_trans rfl hm

theorem only_tblFlags {m : Nat} {a s : State} (x1 x2) (hm : 0x40000000000 ||| m = m) (h : Only m a s) : Only m a (State.tblFlags s x1 x2) := by
  unfold State.tblFlags
  try dsimp only
  repeat' first
    | (with_reducible first
        | assumption | (intro _; try dsimp only) | apply only_setN | apply only_setB)
    | exact mask_trans rfl hm | exact mask_trans (fieldMask_all _) (mask_trans rfl hm)

theorem only_tblStart {m : Nat} {a s : State} (x1 x2 x3 x4) (hm : 0x40201ffffd30018180 ||| m = m) (h : Only m a s) : Only m a (State.tblStart s x1 x2 x3 x4) := by
  unfold State.tblStart
  try dsimp only
  repeat' first
    | (with_reducible first
        | assumption | (intro _; try dsimp only) | apply only_tblTurnAway | apply only_tblFlags | apply only_tblRefuse
        | apply only_tblAbort | apply only_freeze | apply only_tblAccept | apply only_fenced | apply only_raise
        | apply only_ite | (split; all_goals try dsimp only))
    | exact mask_trans rfl hm | exact mask_trans (evMask_all _) (mask_trans rfl hm) | apply mask_or

theorem only_visitFlow {m : Nat} {a s : State} (hm : 0x400008040530008180 ||| m = m) (h : Only m a s) : Only m a (State.visitFlow s) := by
  unfold State.visitFlow
  try dsimp only
  repeat' first
    | with_reducible exact Or.inr rfl
    | (with_reducible first
        | assumption | (intro _; try dsimp only) | apply only_readBucket | apply only_hbmPut | apply only_countF
        | apply only_ite | (apply only_ite_snd <;> try dsimp only) | (apply only_ite_fst <;> try dsimp only)
        | refine only_snd ‹_ = (_, _)› ?_ | refine only_fst ‹_ = (_, _)› ?_ | refine only_trd ‹_ = (_, _, _)› ?_
        | refine only_fth ‹_ = (_, _, _, _)› ?_ | (split; all_goals try dsimp only) | apply only_set_tbl
        | (apply only_mk (e33 := rfl)))
    | exact bit_of hm rfl | exact Or.inl (bit_of hm rfl) | exact Or.inr rfl | exact mask_trans rfl hm
    | exact mask_trans (fieldMask_all _) (mask_trans rfl hm)

theorem only_visitL2 {m : Nat} {a s : State} (hm : 0x8000 ||| m = m) (h : Only m a s) : Only m a (State.visitL2 s) := by
  unfold State.visitL2
  try dsimp only
  repeat' first
    | with_reducible exact Or.inr rfl
    | (with_reducible first
        | assumption | (intro _; try dsimp only) | apply only_set_tbl | (apply only_mk (e33 := rfl)))
    | exact bit_of hm rfl | exact Or.inl (bit_of hm rfl) | exact Or.inr rfl | exact mask_trans rfl hm

theorem only_wrSeed {m : Nat} {a s : State} (x1 x2 x3) (hm : 0x430008080 ||| m = m) (h : Only m a s) : Only m a (State.wrSeed s x1 x2 x3) := by
  unfold State.wrSeed
  try dsimp only
  repeat' first
    | with_reducible exact Or.inr rfl
    | (with_reducible first
        | assumption | (intro _; try dsimp only) | apply only_raiseLimited | apply only_ite
        | (split; all_goals try dsimp only) | apply only_set_tbl | (apply only_mk (e33 := rfl)))
    | exact bit_of hm rfl | exact Or.inl (bit_of hm rfl) | exact Or.inr rfl | exact mask_trans rfl hm
    | exact mask_trans (evMask_all _) (mask_trans rfl hm) | apply mask_or

theorem only_wrSeedNext {m : Nat} {a s : State} (x1 x2) (hm : 0x8000 ||| m = m) (h : Only m a s) : Only m a (State.wrSeedNext s x1 x2) := by
  unfold State.wrSeedNext
  try dsimp only
  repeat' first
    | with_reducible exact Or.inr rfl
    | (with_reducible first
        | assumption | (intro _; try dsimp only) | apply only_ite | (split; all_goals try dsimp only)
        | apply only_set_tbl | (apply only_mk (e33 := rfl)))
    | exact bit_of hm rfl | exact Or.inl (bit_of hm rfl) | exact Or.inr rfl | exact mask_trans rfl hm

theorem only_execAbort {m : Nat} {a s : State} (x0 x1 x2) (hm : 0x40201ffffd30018180 ||| m = m) (h : Only m a s) : OnlyR m a (execAbort x0 x1 x2 s) := by
  unfold execAbort
  try dsimp only
  repeat' first
    | (with_reducible first
        | assumption | (intro _; try dsimp only) | apply onlyR_next | apply only_tblStart)
    | exact mask_trans rfl hm

theorem only_execAgeDelete {m : Nat} {a s : State} (hm : 0x49601ffffd300f8181 ||| m = m) (h : Only m a s) : OnlyR m a (execAgeDelete s) := by
  unfold execAgeDelete
  try dsimp only
  repeat' first
    | with_reducible exact Or.inr rfl
    | (with_reducible first
        | assumption | (intro _; try dsimp only) | apply onlyR_next | apply only_ageDelete | apply only_ite
        | apply onlyR_ite | (split; all_goals try dsimp only) | apply only_set_tbl | (apply only_mk (e33 := rfl)))
    | exact bit_of hm rfl | exact Or.inl (bit_of hm rfl) | exact Or.inr rfl | exact mask_trans rfl hm

theorem only_execAgeScan {m : Nat} {a s : State} (x0 x1 x2) (hm : 0x40201ffffd30018180 ||| m = m) (h : Only m a s) : OnlyR m a (execAgeScan x0 x1 x2 s) := by
  unfold execAgeScan
  try dsimp only
  repeat' first
    | (with_reducible first
        | assumption | (intro _; try dsimp only) | apply onlyR_next | apply only_tblStart)
    | exact mask_trans rfl hm

theorem only_execAgeTick {m : Nat} {a s : State} (hm : 0x40430000080 ||| m = m) (h : Only m a s) : OnlyR m a (execAgeTick s) := by
  unfold execAgeTick
  try dsimp only
  repeat' first
    | (with_reducible first
        | assumption | (intro _; try dsimp only) | apply onlyR_next | apply only_checkStash | apply only_setN)
    | exact mask_trans rfl hm | exact mask_trans (fieldMask_all _) (mask_trans rfl hm)

theorem only_execAgeVisit {m : Nat} {a s : State} (x0) (hm : 0x400008040530008180 ||| m = m) (h : Only m a s) : OnlyR m a (execAgeVisit x0 s) := by
  unfold execAgeVisit
  try dsimp only
  repeat' first
    | (with_reducible first
        | assumption | (intro _; try dsimp only) | apply onlyR_next | apply only_checkStash | apply only_visitL2
        | apply only_visitFlow | apply only_ite | apply onlyR_ite | (split; all_goals try dsimp only))
    | exact mask_trans rfl hm

theorem only_execDelete {m : Nat} {a s : State} (x0 x1 x2) (hm : 0x40201ffffd30018180 ||| m = m) (h : Only m a s) : OnlyR m a (execDelete x0 x1 x2 s) := by
  unfold execDelete
  try dsimp only
  repeat' first
    | (with_reducible first
        | assumption | (intro _; try dsimp only) | apply onlyR_next | apply only_tblStart)
    | exact mask_trans rfl hm

theorem only_execFlowClearDone {m : Nat} {a s : State} (hm : 0x40410000080 ||| m = m) (h : Only m a s) : OnlyR m a (execFlowClearDone s) := by
  unfold execFlowClearDone
  try dsimp only
  repeat' first
    | (with_reducible first
        | assumption | (intro _; try dsimp only) | apply onlyR_next | apply only_raise | apply only_setB
        | apply only_ite | apply onlyR_ite | (split; all_goals try dsimp only))
    | exact mask_trans rfl hm | exact mask_trans (evMask_all _) (mask_trans rfl hm)
    | exact mask_trans (fieldMask_all _) (mask_trans rfl hm) | apply mask_or

theorem only_execFlushAll {m : Nat} {a s : State} (x0 x1 x2) (hm : 0x40201ffffd30018180 ||| m = m) (h : Only m a s) : OnlyR m a (execFlushAll x0 x1 x2 s) := by
  unfold execFlushAll
  try dsimp only
  repeat' first
    | (with_reducible first
        | assumption | (intro _; try dsimp only) | apply onlyR_next | apply only_tblStart)
    | exact mask_trans rfl hm

theorem only_execFlushPort {m : Nat} {a s : State} (x0 x1 x2) (hm : 0x40201ffffd30018180 ||| m = m) (h : Only m a s) : OnlyR m a (execFlushPort x0 x1 x2 s) := by
  unfold execFlushPort
  try dsimp only
  repeat' first
    | (with_reducible first
        | assumption | (intro _; try dsimp only) | apply onlyR_next | apply only_tblStart)
    | exact mask_trans rfl hm

theorem only_execForwardDecision {m : Nat} {a s : State} (x0) (hm : 0x12000220430022a80 ||| m = m) (h : Only m a s) : OnlyR m a (execForwardDecision x0 s) := by
  unfold execForwardDecision
  try dsimp only
  repeat' first
    | (with_reducible first
        | assumption | (intro _; try dsimp only) | apply onlyR_next | apply only_forward
        | (split; all_goals try dsimp only))
    | exact mask_trans rfl hm

theorem only_execInsert {m : Nat} {a s : State} (x0 x1 x2) (hm : 0x40201ffffd30018180 ||| m = m) (h : Only m a s) : OnlyR m a (execInsert x0 x1 x2 s) := by
  unfold execInsert
  try dsimp only
  repeat' first
    | (with_reducible first
        | assumption | (intro _; try dsimp only) | apply onlyR_next | apply only_tblStart)
    | exact mask_trans rfl hm

theorem only_execJournalSettle {m : Nat} {a s : State} (x0) (hm : 0xffffffffffffffffff ||| m = m) (h : Only m a s) : OnlyR m a (execJournalSettle x0 s) := by
  unfold execJournalSettle
  try dsimp only
  repeat' first
    | (with_reducible first
        | exact fuse_same rfl | exact fusesKept_put _ _ _ | exact fusesKept_flags _ _)
    | with_reducible exact Or.inr rfl
    | (with_reducible first
        | assumption | (intro _; try dsimp only) | apply onlyR_next | apply only_safeHoldCause | apply only_evalFatal
        | apply only_settleJournal | apply only_raise | apply only_ite | apply onlyR_ite
        | (split; all_goals try dsimp only) | apply only_set_fus | (apply only_mk (e33 := rfl)))
    | exact bit_of hm rfl | exact Or.inl (bit_of hm rfl)
    | (refine Or.inl ⟨bit_of hm rfl, ?_⟩; with_reducible first | exact fuse_same rfl | exact fusesKept_put _ _ _ | exact fusesKept_flags _ _)
    | exact Or.inr rfl | exact mask_trans rfl hm | exact mask_trans (evMask_all _) (mask_trans rfl hm) | apply mask_or

theorem only_execLearnApply {m : Nat} {a s : State} (hm : 0x4020080c0530018180 ||| m = m) (h : Only m a s) : OnlyR m a (execLearnApply s) := by
  unfold execLearnApply
  try dsimp only
  repeat' first
    | with_reducible exact Or.inr rfl
    | (with_reducible first
        | assumption | (intro _; try dsimp only) | apply onlyR_next | apply only_learnL2 | apply only_freeze
        | apply only_ite | apply onlyR_ite | (split; all_goals try dsimp only) | apply only_set_tbl
        | (apply only_mk (e33 := rfl)))
    | exact bit_of hm rfl | exact Or.inl (bit_of hm rfl) | exact Or.inr rfl | exact mask_trans rfl hm

theorem only_execNext {m : Nat} {a s : State} (x0 x1 x2) (hm : 0x40201ffffd30018180 ||| m = m) (h : Only m a s) : OnlyR m a (execNext x0 x1 x2 s) := by
  unfold execNext
  try dsimp only
  repeat' first
    | (with_reducible first
        | assumption | (intro _; try dsimp only) | apply onlyR_next | apply only_tblStart)
    | exact mask_trans rfl hm

theorem only_execRehash {m : Nat} {a s : State} (x0 x1 x2) (hm : 0x40201ffffd30018180 ||| m = m) (h : Only m a s) : OnlyR m a (execRehash x0 x1 x2 s) := by
  unfold execRehash
  try dsimp only
  repeat' first
    | (with_reducible first
        | assumption | (intro _; try dsimp only) | apply onlyR_next | apply only_tblStart)
    | exact mask_trans rfl hm

theorem only_execResume {m : Nat} {a s : State} (x0 x1 x2) (hm : 0x40201ffffd30018180 ||| m = m) (h : Only m a s) : OnlyR m a (execResume x0 x1 x2 s) := by
  unfold execResume
  try dsimp only
  repeat' first
    | (with_reducible first
        | assumption | (intro _; try dsimp only) | apply onlyR_next | apply only_tblStart)
    | exact mask_trans rfl hm

theorem only_execSearch {m : Nat} {a s : State} (x0 x1 x2) (hm : 0x40201ffffd30018180 ||| m = m) (h : Only m a s) : OnlyR m a (execSearch x0 x1 x2 s) := by
  unfold execSearch
  try dsimp only
  repeat' first
    | (with_reducible first
        | assumption | (intro _; try dsimp only) | apply onlyR_next | apply only_tblStart)
    | exact mask_trans rfl hm

theorem only_execTblCntClr {m : Nat} {a s : State} (x0) (hm : 0x2010000430000080 ||| m = m) (h : Only m a s) : OnlyR m a (execTblCntClr x0 s) := by
  unfold execTblCntClr
  try dsimp only
  repeat' first
    | (with_reducible first
        | assumption | (intro _; try dsimp only) | apply onlyR_next | apply only_guarded | apply only_clearBlockCtrs)
    | exact mask_trans rfl hm | exact mask_trans (blockMask_all _) (mask_trans rfl hm)

theorem only_execTblSeed {m : Nat} {a s : State} (x0 x1 x2 x3) (hm : 0x10000430008080 ||| m = m) (h : Only m a s) : OnlyR m a (execTblSeed x0 x1 x2 x3 s) := by
  unfold execTblSeed
  try dsimp only
  repeat' first
    | (with_reducible first
        | assumption | (intro _; try dsimp only) | apply onlyR_next | apply only_guarded | apply only_wrSeed)
    | exact mask_trans rfl hm

theorem only_execTblSeedNext {m : Nat} {a s : State} (x0 x1 x2) (hm : 0x10000430008080 ||| m = m) (h : Only m a s) : OnlyR m a (execTblSeedNext x0 x1 x2 s) := by
  unfold execTblSeedNext
  try dsimp only
  repeat' first
    | (with_reducible first
        | assumption | (intro _; try dsimp only) | apply onlyR_next | apply only_guarded | apply only_wrSeedNext)
    | exact mask_trans rfl hm

theorem only_execTmsRoutine {m : Nat} {a s : State} (x0 x1) (hm : 0x49601ffffd310f8181 ||| m = m) (h : Only m a s) : OnlyR m a (execTmsRoutine x0 x1 s) := by
  unfold execTmsRoutine
  try dsimp only
  repeat' first
    | (with_reducible first
        | assumption | (intro _; try dsimp only) | apply onlyR_next | apply only_checkStash | apply only_abandon
        | apply only_commitRoutine | apply only_ite | apply onlyR_ite | (split; all_goals try dsimp only))
    | exact mask_trans rfl hm

theorem only_flowDrop {m : Nat} {a s : State} (x1) (hm : 0x10000220430022a80 ||| m = m) (h : Only m a s) : Only m a (State.flowDrop s x1) := by
  unfold State.flowDrop
  try dsimp only
  repeat' first
    | (with_reducible first
        | assumption | (intro _; try dsimp only) | apply only_setPkt | apply only_toDiscard | apply only_ite
        | (split; all_goals try dsimp only))
    | exact mask_trans rfl hm

theorem only_actStep {m : Nat} {a s : State} (x1 x2 x3 x4 x5) (hm : 0x14000220430022a80 ||| m = m) (h : Only m a s) : Only m a (State.actStep s x1 x2 x3 x4 x5).2 := by
  unfold State.actStep
  try dsimp only
  repeat' first
    | (with_reducible first
        | assumption | (intro _; try dsimp only) | apply only_flowDrop | apply only_setPkt | apply only_bump
        | apply only_ite | (apply only_ite_snd <;> try dsimp only) | (apply only_ite_fst <;> try dsimp only)
        | refine only_snd ‹_ = (_, _)› ?_ | refine only_fst ‹_ = (_, _)› ?_ | refine only_trd ‹_ = (_, _, _)› ?_
        | refine only_fth ‹_ = (_, _, _, _)› ?_ | (split; all_goals try dsimp only))
    | exact mask_trans rfl hm | exact mask_trans (ctrMask_all _) (mask_trans rfl hm)

theorem only_firstExport {m : Nat} {a s : State} (x1) (hm : 0x49401ffffd300f0181 ||| m = m) (h : Only m a s) : Only m a (State.firstExport s x1) := by
  unfold State.firstExport
  try dsimp only
  repeat' first
    | (with_reducible first
        | assumption | (intro _; try dsimp only) | apply only_telExport | apply only_setHot | apply only_ite
        | (split; all_goals try dsimp only))
    | exact mask_trans rfl hm

theorem only_insFailed {m : Nat} {a s : State} (hm : 0x80430000080 ||| m = m) (h : Only m a s) : Only m a (State.insFailed s) := by
  unfold State.insFailed
  try dsimp only
  repeat' first
    | (with_reducible first
        | assumption | (intro _; try dsimp only) | apply only_raiseLimited)
    | exact mask_trans rfl hm | exact mask_trans (evMask_all _) (mask_trans rfl hm) | apply mask_or

theorem only_newFlow {m : Nat} {a s : State} (x1 x2) (hm : 0x14000220430022a80 ||| m = m) (h : Only m a s) : Only m a (State.newFlow s x1 x2) := by
  unfold State.newFlow
  try dsimp only
  repeat' first
    | (with_reducible first
        | assumption | (intro _; try dsimp only) | apply only_setPkt | apply only_toDiscard | apply only_bump
        | (split; all_goals try dsimp only))
    | exact mask_trans rfl hm | exact mask_trans (ctrMask_all _) (mask_trans rfl hm)

theorem only_insRefused {m : Nat} {a s : State} (x1 x2 x3) (hm : 0xffffe02a0430022a80 ||| m = m) (h : Only m a s) : Only m a (State.insRefused s x1 x2 x3) := by
  unfold State.insRefused
  try dsimp only
  repeat' first
    | (with_reducible first
        | assumption | (intro _; try dsimp only) | apply only_insFailed | apply only_newFlow | apply only_bump
        | apply only_ite | (split; all_goals try dsimp only))
    | exact mask_trans rfl hm | exact mask_trans (ctrMask_all _) (mask_trans rfl hm)

theorem only_recExhaust {m : Nat} {a s : State} (hm : 0x4000080430000080 ||| m = m) (h : Only m a s) : Only m a (State.recExhaust s) := by
  unfold State.recExhaust
  try dsimp only
  repeat' first
    | (with_reducible first
        | assumption | (intro _; try dsimp only) | apply only_raiseLimited | apply only_bump)
    | exact mask_trans rfl hm | exact mask_trans (evMask_all _) (mask_trans rfl hm)
    | exact mask_trans (ctrMask_all _) (mask_trans rfl hm) | apply mask_or

theorem only_applyFlow {m : Nat} {a s : State} (x1 x2 x3 x4) (hm : 0xfffffffffd300fab81 ||| m = m) (h : Only m a s) : Only m a (State.applyFlow s x1 x2 x3 x4) := by
  unfold State.applyFlow
  try dsimp only
  repeat' first
    | (with_reducible first
        | assumption | (intro _; try dsimp only) | apply only_flowFind | apply only_setHot | apply only_insRefused
        | apply only_takeRec | apply only_recExhaust | apply only_hbmPut | apply only_flowMatch | apply only_freeRec
        | apply only_flowPlan | apply only_flowPlace | apply only_takeGen | apply only_putHot | apply only_firstExport
        | apply only_noteKind | apply only_raiseLimited | apply only_bump | apply only_ite
        | (apply only_ite_snd <;> try dsimp only) | (apply only_ite_fst <;> try dsimp only)
        | refine only_snd ‹_ = (_, _)› ?_ | refine only_fst ‹_ = (_, _)› ?_ | refine only_trd ‹_ = (_, _, _)› ?_
        | refine only_fth ‹_ = (_, _, _, _)› ?_ | (split; all_goals try dsimp only))
    | exact mask_trans rfl hm | exact mask_trans (evMask_all _) (mask_trans rfl hm)
    | exact mask_trans (ctrMask_all _) (mask_trans rfl hm) | apply mask_or

theorem only_telStep {m : Nat} {a s : State} (x1 x2 x3) (hm : 0x9401ffffd300e0081 ||| m = m) (h : Only m a s) : Only m a (State.telStep s x1 x2 x3).2 := by
  unfold State.telStep
  try dsimp only
  repeat' first
    | (with_reducible first
        | assumption | (intro _; try dsimp only) | apply only_telExport | apply only_ite
        | (apply only_ite_snd <;> try dsimp only) | (apply only_ite_fst <;> try dsimp only)
        | refine only_snd ‹_ = (_, _)› ?_ | refine only_fst ‹_ = (_, _)› ?_ | refine only_trd ‹_ = (_, _, _)› ?_
        | refine only_fth ‹_ = (_, _, _, _)› ?_ | (split; all_goals try dsimp only))
    | exact mask_trans rfl hm

theorem only_step2 {m : Nat} {a s : State} (x1 x2 x3) (hm : 0x9401ffffd300e0081 ||| m = m) (h : Only m a s) : Only m a (State.step2 s x1 x2 x3).2 := by
  unfold State.step2
  try dsimp only
  repeat' first
    | (with_reducible first
        | assumption | (intro _; try dsimp only) | apply only_telStep)
    | exact mask_trans rfl hm

theorem only_writeHit {m : Nat} {a s : State} (x1 x2) (hm : 0x400008000530010180 ||| m = m) (h : Only m a s) : Only m a (State.writeHit s x1 x2) := by
  unfold State.writeHit
  try dsimp only
  repeat' first
    | (with_reducible first
        | assumption | (intro _; try dsimp only) | apply only_setHot | apply only_ite
        | (split; all_goals try dsimp only))
    | exact mask_trans rfl hm

theorem only_countFailed {m : Nat} {a s : State} (x1 x2 x3) (hm : 0x49401ffffd300f0181 ||| m = m) (h : Only m a s) : Only m a (State.countFailed s x1 x2 x3) := by
  unfold State.countFailed
  try dsimp only
  repeat' first
    | (with_reducible first
        | assumption | (intro _; try dsimp only) | apply only_step2 | apply only_writeHit
        | refine only_snd ‹_ = (_, _)› ?_ | refine only_fst ‹_ = (_, _)› ?_ | refine only_trd ‹_ = (_, _, _)› ?_
        | refine only_fth ‹_ = (_, _, _, _)› ?_ | (split; all_goals try dsimp only))
    | exact mask_trans rfl hm

theorem only_gooseStep {m : Nat} {a s : State} (x1 x2) (hm : 0x4000000000000000 ||| m = m) (h : Only m a s) : Only m a (State.gooseStep s x1 x2).2.2 := by
  unfold State.gooseStep
  try dsimp only
  repeat' first
    | (with_reducible first
        | assumption | (intro _; try dsimp only) | apply only_bump | apply only_ite
        | (apply only_ite_snd <;> try dsimp only) | (apply only_ite_fst <;> try dsimp only)
        | refine only_snd ‹_ = (_, _)› ?_ | refine only_fst ‹_ = (_, _)› ?_ | refine only_trd ‹_ = (_, _, _)› ?_
        | refine only_fth ‹_ = (_, _, _, _)› ?_ | (split; all_goals try dsimp only))
    | exact mask_trans rfl hm | exact mask_trans (ctrMask_all _) (mask_trans rfl hm)

theorem only_hitSteps {m : Nat} {a s : State} (x1 x2 x3 x4 x5) (hm : 0x9401ffffd300e2a81 ||| m = m) (h : Only m a s) : Only m a (State.hitSteps s x1 x2 x3 x4 x5).2 := by
  unfold State.hitSteps
  try dsimp only
  repeat' first
    | (with_reducible first
        | assumption | (intro _; try dsimp only) | apply only_gooseStep | apply only_step2 | apply only_actStep
        | apply only_ite | (apply only_ite_snd <;> try dsimp only) | (apply only_ite_fst <;> try dsimp only)
        | refine only_snd ‹_ = (_, _)› ?_ | refine only_fst ‹_ = (_, _)› ?_ | refine only_trd ‹_ = (_, _, _)› ?_
        | refine only_fth ‹_ = (_, _, _, _)› ?_ | (split; all_goals try dsimp only))
    | exact mask_trans rfl hm

theorem only_verifyFail {m : Nat} {a s : State} (x1 x2) (hm : 0x210004220430022a80 ||| m = m) (h : Only m a s) : Only m a (State.verifyFail s x1 x2) := by
  unfold State.verifyFail
  try dsimp only
  repeat' first
    | (with_reducible first
        | assumption | (intro _; try dsimp only) | apply only_toDiscard | apply only_raiseLimited | apply only_countF
        | apply only_bump)
    | exact mask_trans rfl hm | exact mask_trans (evMask_all _) (mask_trans rfl hm)
    | exact mask_trans (fieldMask_all _) (mask_trans rfl hm) | exact mask_trans (ctrMask_all _) (mask_trans rfl hm)
    | apply mask_or

theorem only_toVerify {m : Nat} {a s : State} (x1 x2 x3 x4) (hm : 0x6d401ffffd305f2b81 ||| m = m) (h : Only m a s) : Only m a (State.toVerify s x1 x2 x3 x4) := by
  unfold State.toVerify
  try dsimp only
  repeat' first
    | (with_reducible first
        | assumption | (intro _; try dsimp only) | apply only_ensureBuf | apply only_countFailed
        | apply only_toDiscard | apply only_setPkt | apply only_verifyFail | apply only_newSeat | apply only_fillLanes
        | apply only_raiseLimited | apply only_bump | apply only_ite | (apply only_ite_snd <;> try dsimp only)
        | (apply only_ite_fst <;> try dsimp only) | refine only_snd ‹_ = (_, _)› ?_ | refine only_fst ‹_ = (_, _)› ?_
        | refine only_trd ‹_ = (_, _, _)› ?_ | refine only_fth ‹_ = (_, _, _, _)› ?_
        | (split; all_goals try dsimp only))
    | exact mask_trans rfl hm | exact mask_trans (evMask_all _) (mask_trans rfl hm)
    | exact mask_trans (ctrMask_all _) (mask_trans rfl hm) | apply mask_or

theorem only_flowHit {m : Nat} {a s : State} (x1 x2 x3) (hm : 0x6d401ffffd305f2b81 ||| m = m) (h : Only m a s) : Only m a (State.flowHit s x1 x2 x3) := by
  unfold State.flowHit
  try dsimp only
  repeat' first
    | (with_reducible first
        | assumption | (intro _; try dsimp only) | apply only_toVerify | apply only_hitSteps | apply only_writeHit
        | apply only_ite | (apply only_ite_snd <;> try dsimp only) | (apply only_ite_fst <;> try dsimp only)
        | refine only_snd ‹_ = (_, _)› ?_ | refine only_fst ‹_ = (_, _)› ?_ | refine only_trd ‹_ = (_, _, _)› ?_
        | refine only_fth ‹_ = (_, _, _, _)› ?_ | (split; all_goals try dsimp only))
    | exact mask_trans rfl hm

theorem only_flowMiss {m : Nat} {a s : State} (x1 x2) (hm : 0x6d601ffffd305fab81 ||| m = m) (h : Only m a s) : Only m a (State.flowMiss s x1 x2) := by
  unfold State.flowMiss
  try dsimp only
  repeat' first
    | (with_reducible first
        | assumption | (intro _; try dsimp only) | apply only_newFlow | apply only_insFailed | apply only_recExhaust
        | apply only_learnPush | apply only_toVerify | apply only_hitSteps | apply only_raiseLimited | apply only_ite
        | (apply only_ite_snd <;> try dsimp only) | (apply only_ite_fst <;> try dsimp only)
        | refine only_snd ‹_ = (_, _)› ?_ | refine only_fst ‹_ = (_, _)› ?_ | refine only_trd ‹_ = (_, _, _)› ?_
        | refine only_fth ‹_ = (_, _, _, _)› ?_ | (split; all_goals try dsimp only))
    | exact mask_trans rfl hm | exact mask_trans (evMask_all _) (mask_trans rfl hm) | apply mask_or

theorem only_uncDrop {m : Nat} {a s : State} (x1) (hm : 0x410000220430022a80 ||| m = m) (h : Only m a s) : Only m a (State.uncDrop s x1) := by
  unfold State.uncDrop
  try dsimp only
  repeat' first
    | (with_reducible first
        | assumption | (intro _; try dsimp only) | apply only_toDiscard | apply only_bump)
    | exact mask_trans rfl hm | exact mask_trans (ctrMask_all _) (mask_trans rfl hm)

theorem only_flowLookup {m : Nat} {a s : State} (x1) (hm : 0x6d601ffffd305fab81 ||| m = m) (h : Only m a s) : Only m a (State.flowLookup s x1) := by
  unfold State.flowLookup
  try dsimp only
  repeat' first
    | (with_reducible first
        | assumption | (intro _; try dsimp only) | apply only_setPkt | apply only_flowMatch | apply only_uncDrop
        | apply only_flowMiss | apply only_noteHit | apply only_flowHit | apply only_cacheUse | apply only_hbmRead
        | apply only_cacheIn | apply only_bump | apply only_ite | (apply only_ite_snd <;> try dsimp only)
        | (apply only_ite_fst <;> try dsimp only) | refine only_snd ‹_ = (_, _)› ?_ | refine only_fst ‹_ = (_, _)› ?_
        | refine only_trd ‹_ = (_, _, _)› ?_ | refine only_fth ‹_ = (_, _, _, _)› ?_
        | (split; all_goals try dsimp only))
    | exact mask_trans rfl hm | exact mask_trans (ctrMask_all _) (mask_trans rfl hm)

theorem only_rcEnd {m : Nat} {a s : State} (x1 x2) (hm : 0x1ffffc10000080 ||| m = m) (h : Only m a s) : Only m a (State.rcEnd s x1 x2) := by
  unfold State.rcEnd
  try dsimp only
  repeat' first
    | (with_reducible first
        | assumption | (intro _; try dsimp only) | apply only_setN | apply only_setB | apply only_raise
        | apply only_ite | (split; all_goals try dsimp only))
    | exact mask_trans rfl hm | exact mask_trans (evMask_all _) (mask_trans rfl hm)
    | exact mask_trans (fieldMask_all _) (mask_trans rfl hm) | apply mask_or

theorem only_setData {m : Nat} {a s : State} (x1 x2 x3) (hm : 0x80000000000 ||| m = m) (h : Only m a s) : Only m a (State.setData s x1 x2 x3) := by
  unfold State.setData
  try dsimp only
  repeat' first
    | (with_reducible first
        | assumption | (intro _; try dsimp only) | apply only_setN | (apply only_foldl; intro s x hs; try dsimp only)
        | (apply only_foldl_snd; intro c s x hs; try dsimp only)
        | (apply only_foldl_fst; intro c s x hs; try dsimp only)
        | (apply only_foldl_trd; intro c d s x hs; try dsimp only))
    | exact mask_trans rfl hm | exact mask_trans (fieldMask_all _) (mask_trans rfl hm)

theorem only_gzRead {m : Nat} {a s : State} (x1) (hm : 0x1ffffc10000080 ||| m = m) (h : Only m a s) : Only m a (State.gzRead s x1) := by
  unfold State.gzRead
  try dsimp only
  repeat' first
    | (with_reducible first
        | assumption | (intro _; try dsimp only) | apply only_rcEnd | apply only_setData | apply only_ite
        | (split; all_goals try dsimp only))
    | exact mask_trans rfl hm

theorem only_gzWrite {m : Nat} {a s : State} (x1) (hm : 0x1ffffc10004080 ||| m = m) (h : Only m a s) : Only m a (State.gzWrite s x1) := by
  unfold State.gzWrite
  try dsimp only
  repeat' first
    | (with_reducible first
        | assumption | (intro _; try dsimp only) | apply only_rcEnd | apply only_setGaz | apply only_ite
        | (split; all_goals try dsimp only))
    | exact mask_trans rfl hm

theorem only_rcRefuse {m : Nat} {a s : State} (x1) (hm : 0x80410010080 ||| m = m) (h : Only m a s) : Only m a (State.rcRefuse s x1) := by
  unfold State.rcRefuse
  try dsimp only
  repeat' first
    | with_reducible exact Or.inr rfl
    | (with_reducible first
        | assumption | (intro _; try dsimp only) | apply only_setB | apply only_raise | apply only_set_flw
        | (apply only_mk (e33 := rfl)))
    | exact bit_of hm rfl | exact Or.inl (bit_of hm rfl) | exact Or.inr rfl | exact mask_trans rfl hm
    | exact mask_trans (evMask_all _) (mask_trans rfl hm) | exact mask_trans (fieldMask_all _) (mask_trans rfl hm)
    | apply mask_or

theorem only_rcShow {m : Nat} {a s : State} (x1 x2) (hm : 0x100010000 ||| m = m) (h : Only m a s) : Only m a (State.rcShow s x1 x2) := by
  unfold State.rcShow
  try dsimp only
  repeat' first
    | with_reducible exact Or.inr rfl
    | (with_reducible first
        | assumption | (intro _; try dsimp only) | apply only_draw | refine only_snd ‹_ = (_, _)› ?_
        | refine only_fst ‹_ = (_, _)› ?_ | refine only_trd ‹_ = (_, _, _)› ?_ | refine only_fth ‹_ = (_, _, _, _)› ?_
        | (split; all_goals try dsimp only) | apply only_set_flw | (apply only_mk (e33 := rfl)))
    | exact bit_of hm rfl | exact Or.inl (bit_of hm rfl) | exact Or.inr rfl | exact mask_trans rfl hm

theorem only_rcStart {m : Nat} {a s : State} (x1 x2 x3 x4 x5 x6 x7) (h7 : ∀ s, Only m a s → Only m a (x7 s)) (hm : 0x1ffffd30010080 ||| m = m) (h : Only m a s) : Only m a (State.rcStart s x1 x2 x3 x4 x5 x6 x7) := by
  unfold State.rcStart
  try dsimp only
  repeat' first
    | (with_reducible first
        | assumption | (intro _; try dsimp only) | apply h7 | apply only_rcRefuse | apply only_rcEnd
        | apply only_rcShow | apply only_setB | apply only_fenced | apply only_setN | apply only_ite
        | (split; all_goals try dsimp only))
    | exact mask_trans rfl hm | exact mask_trans (fieldMask_all _) (mask_trans rfl hm)

theorem only_rebuilt {m : Nat} {a s : State} (hm : 0x400008080530010180 ||| m = m) (h : Only m a s) : Only m a (State.rebuilt s) := by
  unfold State.rebuilt
  try dsimp only
  repeat' first
    | with_reducible exact Or.inr rfl
    | (with_reducible first
        | assumption | (intro _; try dsimp only) | apply only_hbmPut | apply only_raise | apply only_setB
        | apply only_setN | (apply only_foldl; intro s x hs; try dsimp only)
        | (apply only_foldl_snd; intro c s x hs; try dsimp only)
        | (apply only_foldl_fst; intro c s x hs; try dsimp only)
        | (apply only_foldl_trd; intro c d s x hs; try dsimp only) | apply only_set_flw | (apply only_mk (e33 := rfl)))
    | exact bit_of hm rfl | exact Or.inl (bit_of hm rfl) | exact Or.inr rfl | exact mask_trans rfl hm
    | exact mask_trans (evMask_all _) (mask_trans rfl hm) | exact mask_trans (fieldMask_all _) (mask_trans rfl hm)
    | apply mask_or

theorem only_recAlloc {m : Nat} {a s : State} (x1) (hm : 0x40001ffffd30010180 ||| m = m) (h : Only m a s) : Only m a (State.recAlloc s x1) := by
  unfold State.recAlloc
  try dsimp only
  repeat' first
    | (with_reducible first
        | assumption | (intro _; try dsimp only) | apply only_takeRec | apply only_rcEnd | apply only_hbmPut
        | apply only_setN | refine only_snd ‹_ = (_, _)› ?_ | refine only_fst ‹_ = (_, _)› ?_
        | refine only_trd ‹_ = (_, _, _)› ?_ | refine only_fth ‹_ = (_, _, _, _)› ?_
        | (split; all_goals try dsimp only))
    | exact mask_trans rfl hm | exact mask_trans (fieldMask_all _) (mask_trans rfl hm)

theorem only_recFreeCmd {m : Nat} {a s : State} (x1) (hm : 0x1ffffc10010080 ||| m = m) (h : Only m a s) : Only m a (State.recFreeCmd s x1) := by
  unfold State.recFreeCmd
  try dsimp only
  repeat' first
    | (with_reducible first
        | assumption | (intro _; try dsimp only) | apply only_rcEnd | apply only_freeRec | apply only_ite
        | (split; all_goals try dsimp only))
    | exact mask_trans rfl hm

theorem only_recRead {m : Nat} {a s : State} (x1) (hm : 0x40001ffffd30000180 ||| m = m) (h : Only m a s) : Only m a (State.recRead s x1) := by
  unfold State.recRead
  try dsimp only
  repeat' first
    | (with_reducible first
        | assumption | (intro _; try dsimp only) | apply only_rcEnd | apply only_hbmRead | apply only_setData
        | apply only_ite | (apply only_ite_snd <;> try dsimp only) | (apply only_ite_fst <;> try dsimp only)
        | refine only_snd ‹_ = (_, _)› ?_ | refine only_fst ‹_ = (_, _)› ?_ | refine only_trd ‹_ = (_, _, _)› ?_
        | refine only_fth ‹_ = (_, _, _, _)› ?_ | (split; all_goals try dsimp only))
    | exact mask_trans rfl hm

theorem only_recWrite {m : Nat} {a s : State} (x1) (hm : 0x40001ffffd30010180 ||| m = m) (h : Only m a s) : Only m a (State.recWrite s x1) := by
  unfold State.recWrite
  try dsimp only
  repeat' first
    | (with_reducible first
        | assumption | (intro _; try dsimp only) | apply only_rcEnd | apply only_noteKind | apply only_setRecord
        | apply only_ite | (split; all_goals try dsimp only))
    | exact mask_trans rfl hm

theorem only_talExpiry {m : Nat} {a s : State} (x1) (hm : 0x48401ffffd30094181 ||| m = m) (h : Only m a s) : Only m a (State.talExpiry s x1) := by
  unfold State.talExpiry
  try dsimp only
  repeat' first
    | (with_reducible first
        | assumption | (intro _; try dsimp only) | apply only_setHot | apply only_setGaz | apply only_sendTok
        | apply only_raise | apply only_bump | apply only_raiseLimited | apply only_ite
        | (apply only_ite_snd <;> try dsimp only) | (apply only_ite_fst <;> try dsimp only)
        | refine only_snd ‹_ = (_, _)› ?_ | refine only_fst ‹_ = (_, _)› ?_ | refine only_trd ‹_ = (_, _, _)› ?_
        | refine only_fth ‹_ = (_, _, _, _)› ?_ | (split; all_goals try dsimp only))
    | exact mask_trans rfl hm | exact mask_trans (evMask_all _) (mask_trans rfl hm)
    | exact mask_trans (ctrMask_all _) (mask_trans rfl hm) | apply mask_or

theorem only_wrKprof {m : Nat} {a s : State} (x1 x2 x3) (hm : 0x80410000080 ||| m = m) (h : Only m a s) : Only m a (State.wrKprof s x1 x2 x3) := by
  unfold State.wrKprof
  try dsimp only
  repeat' first
    | (with_reducible first
        | assumption | (intro _; try dsimp only) | apply only_setReg | apply only_raise | apply only_ite
        | (split; all_goals try dsimp only))
    | exact mask_trans rfl hm | exact mask_trans (evMask_all _) (mask_trans rfl hm)
    | exact mask_trans (fieldMask_all _) (mask_trans rfl hm) | apply mask_or

theorem only_wrLbg {m : Nat} {a s : State} (x1 x2 x3) (hm : 0x80000000000 ||| m = m) (h : Only m a s) : Only m a (State.wrLbg s x1 x2 x3) := by
  unfold State.wrLbg
  try dsimp only
  repeat' first
    | (with_reducible first
        | assumption | (intro _; try dsimp only) | apply only_setB | apply only_setN | apply only_setReg
        | apply only_ite | (split; all_goals try dsimp only))
    | exact mask_trans rfl hm | exact mask_trans (fieldMask_all _) (mask_trans rfl hm)

theorem only_execFlowInsertApply {m : Nat} {a s : State} (hm : 0xfffffffffd300fab81 ||| m = m) (h : Only m a s) : OnlyR m a (execFlowInsertApply s) := by
  unfold execFlowInsertApply
  try dsimp only
  repeat' first
    | with_reducible exact Or.inr rfl
    | (with_reducible first
        | assumption | (intro _; try dsimp only) | apply onlyR_next | apply only_applyFlow | apply only_freeze
        | apply only_ite | apply onlyR_ite | (split; all_goals try dsimp only) | apply only_set_tbl
        | (apply only_mk (e33 := rfl)))
    | exact bit_of hm rfl | exact Or.inl (bit_of hm rfl) | exact Or.inr rfl | exact mask_trans rfl hm

theorem only_execFlowLookup {m : Nat} {a s : State} (x0) (hm : 0x6d601ffffd305fab81 ||| m = m) (h : Only m a s) : OnlyR m a (execFlowLookup x0 s) := by
  unfold execFlowLookup
  try dsimp only
  repeat' first
    | (with_reducible first
        | assumption | (intro _; try dsimp only) | apply onlyR_next | apply only_flowLookup | apply only_ite
        | apply onlyR_ite | (split; all_goals try dsimp only))
    | exact mask_trans rfl hm

theorem only_execFlwCntClr {m : Nat} {a s : State} (x0) (hm : 0x4010000430000080 ||| m = m) (h : Only m a s) : OnlyR m a (execFlwCntClr x0 s) := by
  unfold execFlwCntClr
  try dsimp only
  repeat' first
    | (with_reducible first
        | assumption | (intro _; try dsimp only) | apply onlyR_next | apply only_guarded | apply only_clearBlockCtrs)
    | exact mask_trans rfl hm | exact mask_trans (blockMask_all _) (mask_trans rfl hm)

theorem only_execFlwKprof {m : Nat} {a s : State} (x0 x1 x2 x3) (hm : 0x10080430000080 ||| m = m) (h : Only m a s) : OnlyR m a (execFlwKprof x0 x1 x2 x3 s) := by
  unfold execFlwKprof
  try dsimp only
  repeat' first
    | (with_reducible first
        | assumption | (intro _; try dsimp only) | apply onlyR_next | apply only_guarded | apply only_wrKprof)
    | exact mask_trans rfl hm

theorem only_execFlwLbg {m : Nat} {a s : State} (x0 x1 x2 x3) (hm : 0x10080430000080 ||| m = m) (h : Only m a s) : OnlyR m a (execFlwLbg x0 x1 x2 x3 s) := by
  unfold execFlwLbg
  try dsimp only
  repeat' first
    | (with_reducible first
        | assumption | (intro _; try dsimp only) | apply onlyR_next | apply only_guarded | apply only_wrLbg)
    | exact mask_trans rfl hm

theorem only_execFreeListRebuildDone {m : Nat} {a s : State} (hm : 0x400008080530010180 ||| m = m) (h : Only m a s) : OnlyR m a (execFreeListRebuildDone s) := by
  unfold execFreeListRebuildDone
  try dsimp only
  repeat' first
    | (with_reducible first
        | assumption | (intro _; try dsimp only) | apply onlyR_next | apply only_rebuilt | apply only_ite
        | apply onlyR_ite | (split; all_goals try dsimp only))
    | exact mask_trans rfl hm

theorem only_execGooseTalExpiry {m : Nat} {a s : State} (x0) (hm : 0x48401ffffd30094181 ||| m = m) (h : Only m a s) : OnlyR m a (execGooseTalExpiry x0 s) := by
  unfold execGooseTalExpiry
  try dsimp only
  repeat' first
    | (with_reducible first
        | assumption | (intro _; try dsimp only) | apply onlyR_next | apply only_talExpiry | apply only_ite
        | apply onlyR_ite | (split; all_goals try dsimp only))
    | exact mask_trans rfl hm

theorem only_execGzRead {m : Nat} {a s : State} (x0 x1 x2) (hm : 0x1ffffd30010080 ||| m = m) (h : Only m a s) : OnlyR m a (execGzRead x0 x1 x2 s) := by
  unfold execGzRead
  try dsimp only
  repeat' first
    | (with_reducible first
        | assumption | (intro _; try dsimp only) | apply onlyR_next | apply only_rcStart | apply only_gzRead)
    | exact mask_trans rfl hm

theorem only_execGzWrite {m : Nat} {a s : State} (x0 x1 x2) (hm : 0x1ffffd30014080 ||| m = m) (h : Only m a s) : OnlyR m a (execGzWrite x0 x1 x2 s) := by
  unfold execGzWrite
  try dsimp only
  repeat' first
    | (with_reducible first
        | assumption | (intro _; try dsimp only) | apply onlyR_next | apply only_rcStart | apply only_gzWrite)
    | exact mask_trans rfl hm

theorem only_execRecAlloc {m : Nat} {a s : State} (x0 x1 x2) (hm : 0x40001ffffd30010180 ||| m = m) (h : Only m a s) : OnlyR m a (execRecAlloc x0 x1 x2 s) := by
  unfold execRecAlloc
  try dsimp only
  repeat' first
    | (with_reducible first
        | assumption | (intro _; try dsimp only) | apply onlyR_next | apply only_rcStart | apply only_recAlloc)
    | exact mask_trans rfl hm

theorem only_execRecFree {m : Nat} {a s : State} (x0 x1 x2) (hm : 0x1ffffd30010080 ||| m = m) (h : Only m a s) : OnlyR m a (execRecFree x0 x1 x2 s) := by
  unfold execRecFree
  try dsimp only
  repeat' first
    | (with_reducible first
        | assumption | (intro _; try dsimp only) | apply onlyR_next | apply only_rcStart | apply only_recFreeCmd)
    | exact mask_trans rfl hm

theorem only_execRecRead {m : Nat} {a s : State} (x0 x1 x2) (hm : 0x40001ffffd30010180 ||| m = m) (h : Only m a s) : OnlyR m a (execRecRead x0 x1 x2 s) := by
  unfold execRecRead
  try dsimp only
  repeat' first
    | (with_reducible first
        | assumption | (intro _; try dsimp only) | apply onlyR_next | apply only_rcStart | apply only_recRead)
    | exact mask_trans rfl hm

theorem only_execRecWrite {m : Nat} {a s : State} (x0 x1 x2) (hm : 0x40001ffffd30010180 ||| m = m) (h : Only m a s) : OnlyR m a (execRecWrite x0 x1 x2 s) := by
  unfold execRecWrite
  try dsimp only
  repeat' first
    | (with_reducible first
        | assumption | (intro _; try dsimp only) | apply onlyR_next | apply only_rcStart | apply only_recWrite)
    | exact mask_trans rfl hm

theorem only_execRecordQuarantineEnd {m : Nat} {a s : State} (x0) (hm : 0x10000 ||| m = m) (h : Only m a s) : OnlyR m a (execRecordQuarantineEnd x0 s) := by
  unfold execRecordQuarantineEnd
  try dsimp only
  repeat' first
    | with_reducible exact Or.inr rfl
    | (with_reducible first
        | assumption | (intro _; try dsimp only) | apply onlyR_next | apply only_set_flw
        | (apply only_mk (e33 := rfl)))
    | exact bit_of hm rfl | exact Or.inl (bit_of hm rfl) | exact Or.inr rfl | exact mask_trans rfl hm

theorem only_execWriteBack {m : Nat} {a s : State} (x0) (hm : 0x400008000530010180 ||| m = m) (h : Only m a s) : OnlyR m a (execWriteBack x0 s) := by
  unfold execWriteBack
  try dsimp only
  repeat' first
    | (with_reducible first
        | assumption | (intro _; try dsimp only) | apply onlyR_next | apply only_writeBack)
    | exact mask_trans rfl hm

theorem only_countVerify {m : Nat} {a s : State} (x1 x2) (hm : 0x49401ffffd300f0181 ||| m = m) (h : Only m a s) : Only m a (State.countVerify s x1 x2) := by
  unfold State.countVerify
  try dsimp only
  repeat' first
    | (with_reducible first
        | assumption | (intro _; try dsimp only) | apply only_countFailed | apply only_ite
        | (split; all_goals try dsimp only))
    | exact mask_trans rfl hm

theorem only_abortAuth {m : Nat} {a s : State} (hm : 0x6d401ffffd305f2b81 ||| m = m) (h : Only m a s) : Only m a (State.abortAuth s) := by
  unfold State.abortAuth
  try dsimp only
  repeat' first
    | (with_reducible first
        | assumption | (intro _; try dsimp only) | apply only_authEnd | apply only_verifyFail | apply only_countVerify
        | apply only_bump | (apply only_foldl; intro s x hs; try dsimp only)
        | (apply only_foldl_snd; intro c s x hs; try dsimp only)
        | (apply only_foldl_fst; intro c s x hs; try dsimp only)
        | (apply only_foldl_trd; intro c d s x hs; try dsimp only) | refine only_snd ‹_ = (_, _)› ?_
        | refine only_fst ‹_ = (_, _)› ?_ | refine only_trd ‹_ = (_, _, _)› ?_ | refine only_fth ‹_ = (_, _, _, _)› ?_
        | (split; all_goals try dsimp only))
    | exact mask_trans rfl hm | exact mask_trans (ctrMask_all _) (mask_trans rfl hm)

theorem only_authFail {m : Nat} {a s : State} (x1 x2 x3) (hm : 0x4001ffffc30500080 ||| m = m) (h : Only m a s) : Only m a (State.authFail s x1 x2 x3) := by
  unfold State.authFail
  try dsimp only
  repeat' first
    | (with_reducible first
        | assumption | (intro _; try dsimp only) | apply only_authEnd | apply only_raiseLimited | apply only_ite
        | (split; all_goals try dsimp only))
    | exact mask_trans rfl hm | exact mask_trans (evMask_all _) (mask_trans rfl hm) | apply mask_or

theorem only_authLine {m : Nat} {a s : State} (x1 x2 x3) (hm : 0x54000a800530c00190 ||| m = m) (h : Only m a s) : Only m a (State.authLine s x1 x2 x3).2 := by
  unfold State.authLine
  try dsimp only
  repeat' first
    | (with_reducible first
        | assumption | (intro _; try dsimp only) | apply only_memRead | apply only_translate | apply only_hbmRead
        | refine only_snd ‹_ = (_, _)› ?_ | refine only_fst ‹_ = (_, _)› ?_ | refine only_trd ‹_ = (_, _, _)› ?_
        | refine only_fth ‹_ = (_, _, _, _)› ?_ | (split; all_goals try dsimp only))
    | exact mask_trans rfl hm

theorem only_authPut {m : Nat} {a s : State} (x1 x2 x3) (hm : 0x54000a800530c00190 ||| m = m) (h : Only m a s) : Only m a (State.authPut s x1 x2 x3).2 := by
  unfold State.authPut
  try dsimp only
  repeat' first
    | (with_reducible first
        | assumption | (intro _; try dsimp only) | apply only_memWrite | apply only_translate | apply only_hbmWrite
        | refine only_snd ‹_ = (_, _)› ?_ | refine only_fst ‹_ = (_, _)› ?_ | refine only_trd ‹_ = (_, _, _)› ?_
        | refine only_fth ‹_ = (_, _, _, _)› ?_ | (split; all_goals try dsimp only))
    | exact mask_trans rfl hm

theorem only_authReadMem {m : Nat} {a s : State} (x1 x2 x3 x4 x5) (hm : 0x54000a800530c00190 ||| m = m) (h : Only m a s) : Only m a (State.authReadMem s x1 x2 x3 x4 x5).2 := by
  induction x2 generalizing s x3 x4 x5 with
  | zero => rw [State.authReadMem]; exact h
  | succ n ih =>
    rw [State.authReadMem]
    repeat' first
      | (with_reducible first
          | assumption | (intro _; try dsimp only) | apply ih | apply only_authLine | apply only_ite
          | (apply only_ite_snd <;> try dsimp only) | (apply only_ite_fst <;> try dsimp only)
          | refine only_snd ‹_ = (_, _)› ?_ | refine only_fst ‹_ = (_, _)› ?_ | refine only_trd ‹_ = (_, _, _)› ?_
          | refine only_fth ‹_ = (_, _, _, _)› ?_ | (split; all_goals try dsimp only))
      | exact mask_trans rfl hm

theorem only_authRead {m : Nat} {a s : State} (x1 x2) (hm : 0x54000a800530c00190 ||| m = m) (h : Only m a s) : Only m a (State.authRead s x1 x2).2 := by
  unfold State.authRead
  try dsimp only
  repeat' first
    | (with_reducible first
        | assumption | (intro _; try dsimp only) | apply only_bufRead | apply only_authReadMem | apply only_ite
        | (apply only_ite_snd <;> try dsimp only) | (apply only_ite_fst <;> try dsimp only)
        | refine only_snd ‹_ = (_, _)› ?_ | refine only_fst ‹_ = (_, _)› ?_ | refine only_trd ‹_ = (_, _, _)› ?_
        | refine only_fth ‹_ = (_, _, _, _)› ?_ | (split; all_goals try dsimp only))
    | exact mask_trans rfl hm

theorem only_authWriteMem {m : Nat} {a s : State} (x1 x2 x3 x4) (hm : 0x54000a800530c00190 ||| m = m) (h : Only m a s) : Only m a (State.authWriteMem s x1 x2 x3 x4).2 := by
  induction x2 generalizing s x3 x4 with
  | zero => rw [State.authWriteMem]; exact h
  | succ n ih =>
    rw [State.authWriteMem]
    repeat' first
      | (with_reducible first
          | assumption | (intro _; try dsimp only) | apply ih | apply only_authPut | apply only_ite
          | (apply only_ite_snd <;> try dsimp only) | (apply only_ite_fst <;> try dsimp only)
          | refine only_snd ‹_ = (_, _)› ?_ | refine only_fst ‹_ = (_, _)› ?_ | refine only_trd ‹_ = (_, _, _)› ?_
          | refine only_fth ‹_ = (_, _, _, _)› ?_ | (split; all_goals try dsimp only))
      | exact mask_trans rfl hm

theorem only_authWrite {m : Nat} {a s : State} (x1 x2) (hm : 0x54000a800530c20190 ||| m = m) (h : Only m a s) : Only m a (State.authWrite s x1 x2).2 := by
  unfold State.authWrite
  try dsimp only
  repeat' first
    | (with_reducible first
        | assumption | (intro _; try dsimp only) | apply only_bufWrite | apply only_authWriteMem | apply only_ite
        | (apply only_ite_snd <;> try dsimp only) | (apply only_ite_fst <;> try dsimp only)
        | refine only_snd ‹_ = (_, _)› ?_ | refine only_fst ‹_ = (_, _)› ?_ | refine only_trd ‹_ = (_, _, _)› ?_
        | refine only_fth ‹_ = (_, _, _, _)› ?_ | (split; all_goals try dsimp only))
    | exact mask_trans rfl hm

theorem only_authSign {m : Nat} {a s : State} (x1) (hm : 0x74001ffffd30d20190 ||| m = m) (h : Only m a s) : Only m a (State.authSign s x1) := by
  unfold State.authSign
  try dsimp only
  repeat' first
    | (with_reducible first
        | assumption | (intro _; try dsimp only) | apply only_authRead | apply only_authFail | apply only_authWrite
        | apply only_authEnd | apply only_bump | apply only_ite | (apply only_ite_snd <;> try dsimp only)
        | (apply only_ite_fst <;> try dsimp only) | refine only_snd ‹_ = (_, _)› ?_ | refine only_fst ‹_ = (_, _)› ?_
        | refine only_trd ‹_ = (_, _, _)› ?_ | refine only_fth ‹_ = (_, _, _, _)› ?_
        | (split; all_goals try dsimp only))
    | exact mask_trans rfl hm | exact mask_trans (ctrMask_all _) (mask_trans rfl hm)

theorem only_authVerify {m : Nat} {a s : State} (x1 x2) (hm : 0x74001ffffd30d20190 ||| m = m) (h : Only m a s) : Only m a (State.authVerify s x1 x2) := by
  unfold State.authVerify
  try dsimp only
  repeat' first
    | (with_reducible first
        | assumption | (intro _; try dsimp only) | apply only_authRead | apply only_authFail | apply only_authWrite
        | apply only_authEnd | apply only_bump | apply only_ite | (apply only_ite_snd <;> try dsimp only)
        | (apply only_ite_fst <;> try dsimp only) | refine only_snd ‹_ = (_, _)› ?_ | refine only_fst ‹_ = (_, _)› ?_
        | refine only_trd ‹_ = (_, _, _)› ?_ | refine only_fth ‹_ = (_, _, _, _)› ?_
        | (split; all_goals try dsimp only))
    | exact mask_trans rfl hm | exact mask_trans (ctrMask_all _) (mask_trans rfl hm)

theorem only_setRequest {m : Nat} {a s : State} (x1 x2) (hm : 0x8000 ||| m = m) (h : Only m a s) : Only m a (State.setRequest s x1 x2) := by
  unfold State.setRequest
  try dsimp only
  repeat' first
    | with_reducible exact Or.inr rfl
    | (with_reducible first
        | assumption | (intro _; try dsimp only) | apply only_ite | (split; all_goals try dsimp only)
        | apply only_set_tbl | (apply only_mk (e33 := rfl)))
    | exact bit_of hm rfl | exact Or.inl (bit_of hm rfl) | exact Or.inr rfl | exact mask_trans rfl hm

theorem only_firstPass {m : Nat} {a s : State} (x1 x2) (hm : 0x49401ffffd300fab81 ||| m = m) (h : Only m a s) : Only m a (State.firstPass s x1 x2) := by
  unfold State.firstPass
  try dsimp only
  repeat' first
    | (with_reducible first
        | assumption | (intro _; try dsimp only) | apply only_hitSteps | apply only_setRequest | apply only_flowFind
        | apply only_writeHit | refine only_snd ‹_ = (_, _)› ?_ | refine only_fst ‹_ = (_, _)› ?_
        | refine only_trd ‹_ = (_, _, _)› ?_ | refine only_fth ‹_ = (_, _, _, _)› ?_
        | (split; all_goals try dsimp only))
    | exact mask_trans rfl hm

theorem only_inlineFail {m : Nat} {a s : State} (x1 x2 x3) (hm : 0xfffffffffd300f2b81 ||| m = m) (h : Only m a s) : Only m a (State.inlineFail s x1 x2 x3) := by
  unfold State.inlineFail
  try dsimp only
  repeat' first
    | (with_reducible first
        | assumption | (intro _; try dsimp only) | apply only_countVerify | apply only_verifyFail | apply only_bump
        | apply only_ite | (split; all_goals try dsimp only))
    | exact mask_trans rfl hm | exact mask_trans (ctrMask_all _) (mask_trans rfl hm)

theorem only_inlinePass {m : Nat} {a s : State} (x1 x2) (hm : 0x69401ffffd300fab81 ||| m = m) (h : Only m a s) : Only m a (State.inlinePass s x1 x2) := by
  unfold State.inlinePass
  try dsimp only
  repeat' first
    | (with_reducible first
        | assumption | (intro _; try dsimp only) | apply only_hitSteps | apply only_writeHit | apply only_firstPass
        | apply only_bump | apply only_ite | (apply only_ite_snd <;> try dsimp only)
        | (apply only_ite_fst <;> try dsimp only) | refine only_snd ‹_ = (_, _)› ?_ | refine only_fst ‹_ = (_, _)› ?_
        | refine only_trd ‹_ = (_, _, _)› ?_ | refine only_fth ‹_ = (_, _, _, _)› ?_
        | (split; all_goals try dsimp only))
    | exact mask_trans rfl hm | exact mask_trans (ctrMask_all _) (mask_trans rfl hm)

theorem only_execAutCntClr {m : Nat} {a s : State} (x0) (hm : 0x200010000430000080 ||| m = m) (h : Only m a s) : OnlyR m a (execAutCntClr x0 s) := by
  unfold execAutCntClr
  try dsimp only
  repeat' first
    | (with_reducible first
        | assumption | (intro _; try dsimp only) | apply onlyR_next | apply only_held | apply only_clearBlockCtrs)
    | exact mask_trans rfl hm | exact mask_trans (blockMask_all _) (mask_trans rfl hm)

theorem only_execAuthComplete {m : Nat} {a s : State} (x0) (hm : 0xfffffffffd31ffb3d5 ||| m = m) (h : Only m a s) : OnlyR m a (execAuthComplete x0 s) := by
  unfold execAuthComplete
  try dsimp only
  repeat' first
    | (with_reducible first
        | assumption | (intro _; try dsimp only) | apply onlyR_next | apply only_fillLanes | apply only_setSeat
        | apply only_retireDue | apply only_authSign | apply only_authVerify | apply only_ite | apply onlyR_ite
        | (split; all_goals try dsimp only))
    | exact mask_trans rfl hm

theorem only_execInlineVerifyResult {m : Nat} {a s : State} (x0) (hm : 0xfffffffffd305fab81 ||| m = m) (h : Only m a s) : OnlyR m a (execInlineVerifyResult x0 s) := by
  unfold execInlineVerifyResult
  try dsimp only
  repeat' first
    | (with_reducible first
        | assumption | (intro _; try dsimp only) | apply onlyR_next | apply only_fillLanes | apply only_inlineFail
        | apply only_inlinePass | (split; all_goals try dsimp only))
    | exact mask_trans rfl hm

theorem only_execKeyCommit {m : Nat} {a s : State} (hm : 0x200004000410100080 ||| m = m) (h : Only m a s) : OnlyR m a (execKeyCommit s) := by
  unfold execKeyCommit
  try dsimp only
  repeat' first
    | (with_reducible first
        | assumption | (intro _; try dsimp only) | apply onlyR_next | apply only_keyCommit)
    | exact mask_trans rfl hm

theorem only_execKeyErase {m : Nat} {a s : State} (x0 x1) (hm : 0x14000430100080 ||| m = m) (h : Only m a s) : OnlyR m a (execKeyErase x0 x1 s) := by
  unfold execKeyErase
  try dsimp only
  repeat' first
    | (with_reducible first
        | assumption | (intro _; try dsimp only) | apply onlyR_next | apply only_held | apply only_keyCommand)
    | exact mask_trans rfl hm

theorem only_execKeyLoad {m : Nat} {a s : State} (x0 x1) (hm : 0x14000430100080 ||| m = m) (h : Only m a s) : OnlyR m a (execKeyLoad x0 x1 s) := by
  unfold execKeyLoad
  try dsimp only
  repeat' first
    | (with_reducible first
        | assumption | (intro _; try dsimp only) | apply onlyR_next | apply only_held | apply only_keyCommand)
    | exact mask_trans rfl hm

theorem only_checkShadow {m : Nat} {a s : State} (hm : 0x1410000080 ||| m = m) (h : Only m a s) : Only m a (State.checkShadow s) := by
  unfold State.checkShadow
  try dsimp only
  repeat' first
    | (with_reducible first
        | assumption | (intro _; try dsimp only) | apply only_raise | apply only_ite
        | (split; all_goals try dsimp only))
    | exact mask_trans rfl hm | exact mask_trans (evMask_all _) (mask_trans rfl hm) | apply mask_or

theorem only_derateCheck {m : Nat} {a s : State} (hm : 0xc10000080 ||| m = m) (h : Only m a s) : Only m a (State.derateCheck s) := by
  unfold State.derateCheck
  try dsimp only
  repeat' first
    | (with_reducible first
        | assumption | (intro _; try dsimp only) | apply only_raise | apply only_setB | apply only_ite
        | (split; all_goals try dsimp only))
    | exact mask_trans rfl hm | exact mask_trans (evMask_all _) (mask_trans rfl hm)
    | exact mask_trans (fieldMask_all _) (mask_trans rfl hm) | apply mask_or

theorem only_hotCheck {m : Nat} {a s : State} (hm : 0xc10000080 ||| m = m) (h : Only m a s) : Only m a (State.hotCheck s) := by
  unfold State.hotCheck
  try dsimp only
  repeat' first
    | (with_reducible first
        | assumption | (intro _; try dsimp only) | apply only_setB | apply only_raise | apply only_ite
        | (split; all_goals try dsimp only))
    | exact mask_trans rfl hm | exact mask_trans (evMask_all _) (mask_trans rfl hm)
    | exact mask_trans (fieldMask_all _) (mask_trans rfl hm) | apply mask_or

theorem only_loadShadow {m : Nat} {a s : State} (hm : 0x8803c10000195 ||| m = m) (h : Only m a s) : Only m a (State.loadShadow s) := by
  unfold State.loadShadow
  try dsimp only
  repeat' first
    | (with_reducible first
        | exact fuse_same rfl | exact fusesKept_put _ _ _ | exact fusesKept_flags _ _)
    | with_reducible exact Or.inr rfl
    | (with_reducible first
        | assumption | (intro _; try dsimp only) | apply only_loadHealth | apply only_loadRemap
        | apply only_checkShadow | apply only_set_fus | (apply only_mk (e33 := rfl)))
    | exact bit_of hm rfl | exact Or.inl (bit_of hm rfl)
    | (refine Or.inl ⟨bit_of hm rfl, ?_⟩; with_reducible first | exact fuse_same rfl | exact fusesKept_put _ _ _ | exact fusesKept_flags _ _)
    | exact Or.inr rfl | exact mask_trans rfl hm

theorem only_openSession {m : Nat} {a s : State} (hm : 0x4100000a0 ||| m = m) (h : Only m a s) : Only m a (State.openSession s) := by
  unfold State.openSession
  try dsimp only
  repeat' first
    | with_reducible exact Or.inr rfl
    | (with_reducible first
        | assumption | (intro _; try dsimp only) | apply only_raise | apply only_ite
        | (split; all_goals try dsimp only) | apply only_set_mon | (apply only_mk (e33 := rfl)))
    | exact bit_of hm rfl | exact Or.inl (bit_of hm rfl) | exact Or.inr rfl | exact mask_trans rfl hm
    | exact mask_trans (evMask_all _) (mask_trans rfl hm) | apply mask_or

theorem only_monReq {m : Nat} {a s : State} (hm : 0xffffffffffffffffff ||| m = m) (h : Only m a s) : Only m a (State.monReq s) := by
  unfold State.monReq
  try dsimp only
  repeat' first
    | (with_reducible first
        | assumption | (intro _; try dsimp only) | apply only_openSession | apply only_modeRefused
        | apply only_enterMode | apply only_ite | (split; all_goals try dsimp only))
    | exact mask_trans rfl hm

theorem only_overtempCheck {m : Nat} {a s : State} (hm : 0xffffffffffffffffff ||| m = m) (h : Only m a s) : Only m a (State.overtempCheck s) := by
  unfold State.overtempCheck
  try dsimp only
  repeat' first
    | with_reducible exact Or.inr rfl
    | (with_reducible first
        | assumption | (intro _; try dsimp only) | apply only_safeHoldCause | apply only_raise | apply only_ite
        | (split; all_goals try dsimp only) | apply only_set_boot | (apply only_mk (e33 := rfl)))
    | exact bit_of hm rfl | exact Or.inl (bit_of hm rfl) | exact Or.inr rfl | exact mask_trans rfl hm
    | exact mask_trans (evMask_all _) (mask_trans rfl hm) | apply mask_or

theorem only_powerOn {m : Nat} {a s : State} (hm : 0xffffffffffffffffff ||| m = m) (h : Only m a s) : Only m a (State.powerOn s) :=
  only_full hm ⟨h.keep.pending, fun _ => leaseFits_reset, fun _ => rfl, h.keep.fuse⟩

theorem only_supplyRead {m : Nat} {a s : State} (hm : 0x900000000 ||| m = m) (h : Only m a s) : Only m a (State.supplyRead s) := by
  unfold State.supplyRead
  try dsimp only
  repeat' first
    | (with_reducible first
        | assumption | (intro _; try dsimp only) | apply only_draw | apply only_setN | apply only_ite
        | (apply only_ite_snd <;> try dsimp only) | (apply only_ite_fst <;> try dsimp only)
        | refine only_snd ‹_ = (_, _)› ?_ | refine only_fst ‹_ = (_, _)› ?_ | refine only_trd ‹_ = (_, _, _)› ?_
        | refine only_fth ‹_ = (_, _, _, _)› ?_ | (split; all_goals try dsimp only))
    | exact mask_trans rfl hm | exact mask_trans (fieldMask_all _) (mask_trans rfl hm)

theorem only_tripCheck {m : Nat} {a s : State} (x1) (hm : 0xffffffffffffffffff ||| m = m) (h : Only m a s) : Only m a (State.tripCheck s x1) := by
  unfold State.tripCheck
  try dsimp only
  repeat' first
    | with_reducible exact Or.inr rfl
    | (with_reducible first
        | assumption | (intro _; try dsimp only) | apply only_dormantStart | apply only_raise | apply only_ite
        | (split; all_goals try dsimp only) | apply only_set_boot | (apply only_mk (e33 := rfl)))
    | exact bit_of hm rfl | exact Or.inl (bit_of hm rfl) | exact Or.inr rfl | exact mask_trans rfl hm
    | exact mask_trans (evMask_all _) (mask_trans rfl hm) | apply mask_or

end Sys2Proof.Machine
end

