-- ==== Sys2Proof/Laws/Only5.lean ====
section
/-! SUPPORT. What the operations of the machine may change and what they keep, one lemma each (part 5 of 8). -/

namespace Sys2Proof.Machine

open Sys2Proof

set_option linter.all false
set_option Elab.async false

theorem only_thermal {m : Nat} {a s : State} (x1) (hm : 0xffffffffffffffffff ||| m = m) (h : Only m a s) : Only m a (State.thermal s x1) := by
  unfold State.thermal
  try dsimp only
  repeat' first
    | (with_reducible first
        | assumption | (intro _; try dsimp only) | apply only_tripCheck | apply only_overtempCheck | apply only_ite
        | (split; all_goals try dsimp only))
    | exact mask_trans rfl hm

theorem only_warmPulse {m : Nat} {a s : State} (hm : 0xffffffffffffffffff ||| m = m) (h : Only m a s) : Only m a (State.warmPulse s) := by
  unfold State.warmPulse
  try dsimp only
  repeat' first
    | with_reducible exact Or.inr rfl
    | (with_reducible first
        | assumption | (intro _; try dsimp only) | apply only_warmStart | apply only_ite
        | (split; all_goals try dsimp only) | apply only_set_boot | (apply only_mk (e33 := rfl)))
    | exact bit_of hm rfl | exact Or.inl (bit_of hm rfl) | exact Or.inr rfl | exact mask_trans rfl hm

theorem only_wrCgOnly {m : Nat} {a s : State} (x1 x2) (hm : 0xc10000081 ||| m = m) (h : Only m a s) : Only m a (State.wrCgOnly s x1 x2) := by
  unfold State.wrCgOnly
  try dsimp only
  repeat' first
    | (with_reducible first
        | assumption | (intro _; try dsimp only) | apply only_wakeCluster | apply only_raise | apply only_setB
        | apply only_ite | (split; all_goals try dsimp only))
    | exact mask_trans rfl hm | exact mask_trans (evMask_all _) (mask_trans rfl hm)
    | exact mask_trans (fieldMask_all _) (mask_trans rfl hm) | apply mask_or

theorem only_wrDomReq {m : Nat} {a s : State} (x1 x2) (hm : 0xfffffffffd31ffb3d5 ||| m = m) (h : Only m a s) : Only m a (State.wrDomReq s x1 x2) := by
  unfold State.wrDomReq
  try dsimp only
  repeat' first
    | (with_reducible first
        | assumption | (intro _; try dsimp only) | apply only_settleDomain | apply only_raise | apply only_setN
        | apply only_ite | (split; all_goals try dsimp only))
    | exact mask_trans rfl hm | exact mask_trans (evMask_all _) (mask_trans rfl hm)
    | exact mask_trans (fieldMask_all _) (mask_trans rfl hm) | apply mask_or

theorem only_wrDomCtrl {m : Nat} {a s : State} (x1 x2) (hm : 0xfffffffffd31ffb3d5 ||| m = m) (h : Only m a s) : Only m a (State.wrDomCtrl s x1 x2) := by
  unfold State.wrDomCtrl
  try dsimp only
  repeat' first
    | (with_reducible first
        | assumption | (intro _; try dsimp only) | apply only_wrDomReq | apply only_wrCgOnly | apply only_ite
        | (split; all_goals try dsimp only))
    | exact mask_trans rfl hm

theorem only_wrEngClk {m : Nat} {a s : State} (x1 x2) (hm : 0xc10000080 ||| m = m) (h : Only m a s) : Only m a (State.wrEngClk s x1 x2) := by
  unfold State.wrEngClk
  try dsimp only
  repeat' first
    | (with_reducible first
        | assumption | (intro _; try dsimp only) | apply only_raise | apply only_setN | apply only_ite
        | (split; all_goals try dsimp only))
    | exact mask_trans rfl hm | exact mask_trans (evMask_all _) (mask_trans rfl hm)
    | exact mask_trans (fieldMask_all _) (mask_trans rfl hm) | apply mask_or

theorem only_execBootEntry {m : Nat} {a s : State} (x0) (hm : 0xffffffffffffffffff ||| m = m) (h : Only m a s) : OnlyR m a (execBootEntry x0 s) := by
  unfold execBootEntry
  try dsimp only
  repeat' first
    | with_reducible exact Or.inr rfl
    | (with_reducible first
        | assumption | (intro _; try dsimp only) | apply onlyR_next | apply only_enterMode | apply only_setN
        | apply only_setB | apply only_ite | apply onlyR_ite | (split; all_goals try dsimp only) | apply only_set_boot
        | (apply only_mk (e33 := rfl)))
    | exact bit_of hm rfl | exact Or.inl (bit_of hm rfl) | exact Or.inr rfl | exact mask_trans rfl hm
    | exact mask_trans (fieldMask_all _) (mask_trans rfl hm)

theorem only_execClusterPowerGate {m : Nat} {a s : State} (x0) (hm : 0xfffffffffd31ffb3d5 ||| m = m) (h : Only m a s) : OnlyR m a (execClusterPowerGate x0 s) := by
  unfold execClusterPowerGate
  try dsimp only
  repeat' first
    | (with_reducible first
        | assumption | (intro _; try dsimp only) | apply onlyR_next | apply only_toDom | apply only_ite
        | apply onlyR_ite | (split; all_goals try dsimp only))
    | exact mask_trans rfl hm

theorem only_execCurrentLimitRestore {m : Nat} {a s : State} (hm : 0x800000001 ||| m = m) (h : Only m a s) : OnlyR m a (execCurrentLimitRestore s) := by
  unfold execCurrentLimitRestore
  try dsimp only
  repeat' first
    | with_reducible exact Or.inr rfl
    | (with_reducible first
        | assumption | (intro _; try dsimp only) | apply onlyR_next | apply only_setB
        | (apply only_foldl; intro s x hs; try dsimp only) | (apply only_foldl_snd; intro c s x hs; try dsimp only)
        | (apply only_foldl_fst; intro c s x hs; try dsimp only)
        | (apply only_foldl_trd; intro c d s x hs; try dsimp only) | apply only_set_pwr | (apply only_mk (e33 := rfl)))
    | exact bit_of hm rfl | exact Or.inl (bit_of hm rfl) | exact Or.inr rfl | exact mask_trans rfl hm
    | exact mask_trans (fieldMask_all _) (mask_trans rfl hm)

theorem only_execCurrentLimitStep {m : Nat} {a s : State} (hm : 0xc10000081 ||| m = m) (h : Only m a s) : OnlyR m a (execCurrentLimitStep s) := by
  unfold execCurrentLimitStep
  try dsimp only
  repeat' first
    | with_reducible exact Or.inr rfl
    | (with_reducible first
        | assumption | (intro _; try dsimp only) | apply onlyR_next | apply only_raise | apply only_setB
        | apply only_ite | apply onlyR_ite | (apply only_foldl; intro s x hs; try dsimp only)
        | (apply only_foldl_snd; intro c s x hs; try dsimp only)
        | (apply only_foldl_fst; intro c s x hs; try dsimp only)
        | (apply only_foldl_trd; intro c d s x hs; try dsimp only) | refine only_snd ‹_ = (_, _)› ?_
        | refine only_fst ‹_ = (_, _)› ?_ | refine only_trd ‹_ = (_, _, _)› ?_ | refine only_fth ‹_ = (_, _, _, _)› ?_
        | (split; all_goals try dsimp only) | apply only_set_pwr | (apply only_mk (e33 := rfl)))
    | exact bit_of hm rfl | exact Or.inl (bit_of hm rfl) | exact Or.inr rfl | exact mask_trans rfl hm
    | exact mask_trans (evMask_all _) (mask_trans rfl hm) | exact mask_trans (fieldMask_all _) (mask_trans rfl hm)
    | apply mask_or

theorem only_execDieTempSample {m : Nat} {a s : State} (x0 x1 x2 x3) (hm : 0xffffffffffffffffff ||| m = m) (h : Only m a s) : OnlyR m a (execDieTempSample x0 x1 x2 x3 s) := by
  unfold execDieTempSample
  try dsimp only
  repeat' first
    | (with_reducible first
        | assumption | (intro _; try dsimp only) | apply onlyR_next | apply only_thermal | apply only_derateCheck
        | apply only_hotCheck | apply only_supplyRead | apply only_setN | apply only_ite | apply onlyR_ite
        | (split; all_goals try dsimp only))
    | exact mask_trans rfl hm | exact mask_trans (fieldMask_all _) (mask_trans rfl hm)

theorem only_execDomainWakeDone {m : Nat} {a s : State} (x0) (hm : 0x800000000 ||| m = m) (h : Only m a s) : OnlyR m a (execDomainWakeDone x0 s) := by
  unfold execDomainWakeDone
  try dsimp only
  repeat' first
    | (with_reducible first
        | assumption | (intro _; try dsimp only) | apply onlyR_next | apply only_setDom | apply only_countF
        | apply only_ite | apply onlyR_ite | (split; all_goals try dsimp only))
    | exact mask_trans rfl hm | exact mask_trans (fieldMask_all _) (mask_trans rfl hm)

theorem only_execMonReq {m : Nat} {a s : State} (x0) (hm : 0xffffffffffffffffff ||| m = m) (h : Only m a s) : OnlyR m a (execMonReq x0 s) := by
  unfold execMonReq
  try dsimp only
  repeat' first
    | (with_reducible first
        | assumption | (intro _; try dsimp only) | apply onlyR_next | apply only_monReq | apply only_draw
        | apply only_ite | (apply only_ite_snd <;> try dsimp only) | (apply only_ite_fst <;> try dsimp only)
        | apply onlyR_ite | refine only_snd ‹_ = (_, _)› ?_ | refine only_fst ‹_ = (_, _)› ?_
        | refine only_trd ‹_ = (_, _, _)› ?_ | refine only_fth ‹_ = (_, _, _, _)› ?_
        | (split; all_goals try dsimp only))
    | exact mask_trans rfl hm

theorem only_execPhaseFail {m : Nat} {a s : State} (x0) (hm : 0xffffffffffffffffff ||| m = m) (h : Only m a s) : OnlyR m a (execPhaseFail x0 s) := by
  unfold execPhaseFail
  try dsimp only
  repeat' first
    | with_reducible exact Or.inr rfl
    | (with_reducible first
        | assumption | (intro _; try dsimp only) | apply onlyR_next | apply only_setRetired | apply only_safeHoldCause
        | apply only_evalFatal | apply only_raise | apply only_ite | apply onlyR_ite
        | (split; all_goals try dsimp only) | apply only_set_pwr | apply only_set_boot | (apply only_mk (e33 := rfl)))
    | exact bit_of hm rfl | exact Or.inl (bit_of hm rfl) | exact Or.inr rfl | exact mask_trans rfl hm
    | exact mask_trans (evMask_all _) (mask_trans rfl hm) | apply mask_or

theorem only_execPllLock {m : Nat} {a s : State} (x0) (hm : 0x800000000 ||| m = m) (h : Only m a s) : OnlyR m a (execPllLock x0 s) := by
  unfold execPllLock
  try dsimp only
  repeat' first
    | (with_reducible first
        | assumption | (intro _; try dsimp only) | apply onlyR_next | apply only_setReg | apply only_ite
        | apply onlyR_ite | (split; all_goals try dsimp only))
    | exact mask_trans rfl hm | exact mask_trans (fieldMask_all _) (mask_trans rfl hm)

theorem only_execPorRelease {m : Nat} {a s : State} (x0) (hm : 0xffffffffffffffffff ||| m = m) (h : Only m a s) : OnlyR m a (execPorRelease x0 s) := by
  unfold execPorRelease
  try dsimp only
  repeat' first
    | with_reducible exact Or.inr rfl
    | (with_reducible first
        | assumption | (intro _; try dsimp only) | apply onlyR_next | apply only_loadShadow | apply only_enterMode
        | apply only_raise | apply only_ite | apply onlyR_ite | (split; all_goals try dsimp only)
        | apply only_set_boot | (apply only_mk (e33 := rfl)))
    | exact bit_of hm rfl | exact Or.inl (bit_of hm rfl) | exact Or.inr rfl | exact mask_trans rfl hm
    | exact mask_trans (evMask_all _) (mask_trans rfl hm) | apply mask_or

theorem only_execPowerOnReset {m : Nat} {a s : State} (x0 x1) (hm : 0xffffffffffffffffff ||| m = m) (h : Only m a s) : OnlyR m a (execPowerOnReset x0 x1 s) := by
  unfold execPowerOnReset
  try dsimp only
  repeat' first
    | (with_reducible first
        | assumption | (intro _; try dsimp only) | apply onlyR_next | apply only_powerOn | apply only_draw
        | apply only_ite | (apply only_ite_snd <;> try dsimp only) | (apply only_ite_fst <;> try dsimp only)
        | apply onlyR_ite | refine only_snd ‹_ = (_, _)› ?_ | refine only_fst ‹_ = (_, _)› ?_
        | refine only_trd ‹_ = (_, _, _)› ?_ | refine only_fth ‹_ = (_, _, _, _)› ?_
        | (split; all_goals try dsimp only))
    | exact mask_trans rfl hm

theorem only_execPwrDomCgOnly {m : Nat} {a s : State} (x0 x1 x2) (hm : 0x10000c30000081 ||| m = m) (h : Only m a s) : OnlyR m a (execPwrDomCgOnly x0 x1 x2 s) := by
  unfold execPwrDomCgOnly
  try dsimp only
  repeat' first
    | (with_reducible first
        | assumption | (intro _; try dsimp only) | apply onlyR_next | apply only_guarded | apply only_wrCgOnly)
    | exact mask_trans rfl hm

theorem only_execPwrDomReq {m : Nat} {a s : State} (x0 x1 x2) (hm : 0xfffffffffd31ffb3d5 ||| m = m) (h : Only m a s) : OnlyR m a (execPwrDomReq x0 x1 x2 s) := by
  unfold execPwrDomReq
  try dsimp only
  repeat' first
    | (with_reducible first
        | assumption | (intro _; try dsimp only) | apply onlyR_next | apply only_guarded | apply only_wrDomReq)
    | exact mask_trans rfl hm

theorem only_execPwrEngClkSet {m : Nat} {a s : State} (x0 x1 x2) (hm : 0x10000c30000080 ||| m = m) (h : Only m a s) : OnlyR m a (execPwrEngClkSet x0 x1 x2 s) := by
  unfold execPwrEngClkSet
  try dsimp only
  repeat' first
    | (with_reducible first
        | assumption | (intro _; try dsimp only) | apply onlyR_next | apply only_guarded | apply only_wrEngClk)
    | exact mask_trans rfl hm

theorem only_execSafeHoldExit {m : Nat} {a s : State} (hm : 0xffffffffffffffffff ||| m = m) (h : Only m a s) : OnlyR m a (execSafeHoldExit s) := by
  unfold execSafeHoldExit
  try dsimp only
  repeat' first
    | (with_reducible first
        | assumption | (intro _; try dsimp only) | apply onlyR_next | apply only_enterMode | apply only_warmStart
        | apply only_ite | apply onlyR_ite | (split; all_goals try dsimp only))
    | exact mask_trans rfl hm

theorem only_execSlowclkLost {m : Nat} {a s : State} (hm : 0xc10000081 ||| m = m) (h : Only m a s) : OnlyR m a (execSlowclkLost s) := by
  unfold execSlowclkLost
  try dsimp only
  repeat' first
    | with_reducible exact Or.inr rfl
    | (with_reducible first
        | assumption | (intro _; try dsimp only) | apply onlyR_next | apply only_raise | apply only_setB
        | apply only_ite | apply onlyR_ite | (split; all_goals try dsimp only) | apply only_set_pwr
        | (apply only_mk (e33 := rfl)))
    | exact bit_of hm rfl | exact Or.inl (bit_of hm rfl) | exact Or.inr rfl | exact mask_trans rfl hm
    | exact mask_trans (evMask_all _) (mask_trans rfl hm) | exact mask_trans (fieldMask_all _) (mask_trans rfl hm)
    | apply mask_or

theorem only_execSlowclkReturn {m : Nat} {a s : State} (hm : 0xc10000081 ||| m = m) (h : Only m a s) : OnlyR m a (execSlowclkReturn s) := by
  unfold execSlowclkReturn
  try dsimp only
  repeat' first
    | with_reducible exact Or.inr rfl
    | (with_reducible first
        | assumption | (intro _; try dsimp only) | apply onlyR_next | apply only_raise | apply only_setB
        | apply only_ite | apply onlyR_ite | (split; all_goals try dsimp only) | apply only_set_pwr
        | (apply only_mk (e33 := rfl)))
    | exact bit_of hm rfl | exact Or.inl (bit_of hm rfl) | exact Or.inr rfl | exact mask_trans rfl hm
    | exact mask_trans (evMask_all _) (mask_trans rfl hm) | exact mask_trans (fieldMask_all _) (mask_trans rfl hm)
    | apply mask_or

theorem only_execStewardWatchdog {m : Nat} {a s : State} (hm : 0xffffffffffffffffff ||| m = m) (h : Only m a s) : OnlyR m a (execStewardWatchdog s) := by
  unfold execStewardWatchdog
  try dsimp only
  repeat' first
    | (with_reducible first
        | assumption | (intro _; try dsimp only) | apply onlyR_next | apply only_warmStart)
    | exact mask_trans rfl hm

theorem only_execVinLowExcursion {m : Nat} {a s : State} (x0) (hm : 0xc10000080 ||| m = m) (h : Only m a s) : OnlyR m a (execVinLowExcursion x0 s) := by
  unfold execVinLowExcursion
  try dsimp only
  repeat' first
    | (with_reducible first
        | assumption | (intro _; try dsimp only) | apply onlyR_next | apply only_raise | apply only_setN
        | apply only_ite | apply onlyR_ite | (split; all_goals try dsimp only))
    | exact mask_trans rfl hm | exact mask_trans (evMask_all _) (mask_trans rfl hm)
    | exact mask_trans (fieldMask_all _) (mask_trans rfl hm) | apply mask_or

theorem only_execVinUndervoltage {m : Nat} {a s : State} (x0) (hm : 0xffffffffffffffffff ||| m = m) (h : Only m a s) : OnlyR m a (execVinUndervoltage x0 s) := by
  unfold execVinUndervoltage
  try dsimp only
  repeat' first
    | (with_reducible first
        | assumption | (intro _; try dsimp only) | apply onlyR_next | apply only_dormantStart | apply only_setN
        | apply only_setB | apply only_raise | apply only_ite | apply onlyR_ite | (split; all_goals try dsimp only))
    | exact mask_trans rfl hm | exact mask_trans (evMask_all _) (mask_trans rfl hm)
    | exact mask_trans (fieldMask_all _) (mask_trans rfl hm) | apply mask_or

theorem only_execWakeInterval {m : Nat} {a s : State} (hm : 0x800000001 ||| m = m) (h : Only m a s) : OnlyR m a (execWakeInterval s) := by
  unfold execWakeInterval
  try dsimp only
  repeat' first
    | with_reducible exact Or.inr rfl
    | (with_reducible first
        | assumption | (intro _; try dsimp only) | apply onlyR_next | apply only_retainFor | apply only_setDom
        | (apply only_foldl; intro s x hs; try dsimp only) | (apply only_foldl_snd; intro c s x hs; try dsimp only)
        | (apply only_foldl_fst; intro c s x hs; try dsimp only)
        | (apply only_foldl_trd; intro c d s x hs; try dsimp only) | apply only_set_pwr | (apply only_mk (e33 := rfl)))
    | exact bit_of hm rfl | exact Or.inl (bit_of hm rfl) | exact Or.inr rfl | exact mask_trans rfl hm

theorem only_execWarmReset {m : Nat} {a s : State} (x0) (hm : 0xffffffffffffffffff ||| m = m) (h : Only m a s) : OnlyR m a (execWarmReset x0 s) := by
  unfold execWarmReset
  try dsimp only
  repeat' first
    | (with_reducible first
        | assumption | (intro _; try dsimp only) | apply onlyR_next | apply only_warmPulse | apply only_draw
        | apply only_ite | (apply only_ite_snd <;> try dsimp only) | (apply only_ite_fst <;> try dsimp only)
        | apply onlyR_ite | refine only_snd ‹_ = (_, _)› ?_ | refine only_fst ‹_ = (_, _)› ?_
        | refine only_trd ‹_ = (_, _, _)› ?_ | refine only_fth ‹_ = (_, _, _, _)› ?_
        | (split; all_goals try dsimp only))
    | exact mask_trans rfl hm

theorem only_leaseRefuse {m : Nat} {a s : State} (x1 x2) (hm : 0x1ffffc10000080 ||| m = m) (h : Only m a s) : Only m a (State.leaseRefuse s x1 x2) := by
  unfold State.leaseRefuse
  try dsimp only
  repeat' first
    | (with_reducible first
        | assumption | (intro _; try dsimp only) | apply only_raise | apply only_setN)
    | exact mask_trans rfl hm | exact mask_trans (evMask_all _) (mask_trans rfl hm)
    | exact mask_trans (fieldMask_all _) (mask_trans rfl hm) | apply mask_or

theorem only_claimLose {m : Nat} {a s₀ s : State} (x1 x3) (hm : 0x1ffffc10000080 ||| m = m) (h : Only m a s) : Only m a (State.claimLose s₀ x1 s x3) := by
  unfold State.claimLose
  exact only_ite h (only_leaseRefuse _ _ (mask_trans rfl hm) h)

theorem only_drainEnd {m : Nat} {a s : State} (hm : 0xffffffffffffffffff ||| m = m) (h : Only m a s) : Only m a (State.drainEnd s) := by
  unfold State.drainEnd
  try dsimp only
  repeat' first
    | (with_reducible first
        | exact lease_same rfl rfl | exact fun _ => leaseFits_none (by decide) | exact leaseFits_modEnd _
        | exact leaseFits_modGrant _ _ _ | exact fun _ => leaseFits_modEnter _ _)
    | with_reducible exact Or.inr rfl
    | (with_reducible first
        | assumption | (intro _; try dsimp only) | apply only_dormantStart | apply only_enterMode
        | (split; all_goals try dsimp only) | apply only_set_mod | apply only_set_swc | (apply only_mk (e33 := rfl)))
    | exact bit_of hm rfl | exact Or.inl (bit_of hm rfl)
    | (refine Or.inl ⟨bit_of hm rfl, ?_⟩; with_reducible first | exact lease_same rfl rfl | exact fun _ => leaseFits_none (by decide) | exact leaseFits_modEnd _ | exact leaseFits_modGrant _ _ _ | exact fun _ => leaseFits_modEnter _ _)
    | exact Or.inr rfl | exact mask_trans rfl hm

theorem only_leaseFenced {m : Nat} {a s : State} (x1) (hm : 0x10000430000080 ||| m = m) (h : Only m a s) : Only m a (State.leaseFenced s x1) := by
  unfold State.leaseFenced
  try dsimp only
  repeat' first
    | (with_reducible first
        | assumption | (intro _; try dsimp only) | apply only_fenced | apply only_setN)
    | exact mask_trans rfl hm | exact mask_trans (fieldMask_all _) (mask_trans rfl hm)

theorem only_reqCancel {m : Nat} {a s : State} (hm : 0xffffffffffffffffff ||| m = m) (h : Only m a s) : Only m a (State.reqCancel s) := by
  unfold State.reqCancel
  try dsimp only
  repeat' first
    | (with_reducible first
        | assumption | (intro _; try dsimp only) | apply only_enterMode | apply only_modeRefused | apply only_ite
        | (split; all_goals try dsimp only))
    | exact mask_trans rfl hm

theorem only_startDrain {m : Nat} {a s : State} (x1) (hm : 0xffffffffffffffffff ||| m = m) (h : Only m a s) : Only m a (State.startDrain s x1) := by
  unfold State.startDrain
  try dsimp only
  repeat' first
    | (with_reducible first
        | exact lease_same rfl rfl | exact fun _ => leaseFits_none (by decide) | exact leaseFits_modEnd _
        | exact leaseFits_modGrant _ _ _ | exact fun _ => leaseFits_modEnter _ _)
    | with_reducible exact Or.inr rfl
    | (with_reducible first
        | assumption | (intro _; try dsimp only) | apply only_enterMode | apply only_set_mod | apply only_set_boot
        | (apply only_mk (e33 := rfl)))
    | exact bit_of hm rfl | exact Or.inl (bit_of hm rfl)
    | (refine Or.inl ⟨bit_of hm rfl, ?_⟩; with_reducible first | exact lease_same rfl rfl | exact fun _ => leaseFits_none (by decide) | exact leaseFits_modEnd _ | exact leaseFits_modGrant _ _ _ | exact fun _ => leaseFits_modEnter _ _)
    | exact Or.inr rfl | exact mask_trans rfl hm

theorem only_reqDrain {m : Nat} {a s : State} (x1 x2) (hm : 0xffffffffffffffffff ||| m = m) (h : Only m a s) : Only m a (State.reqDrain s x1 x2) := by
  unfold State.reqDrain
  try dsimp only
  repeat' first
    | (with_reducible first
        | assumption | (intro _; try dsimp only) | apply only_startDrain | apply only_modeRefused | apply only_ite
        | (split; all_goals try dsimp only))
    | exact mask_trans rfl hm

theorem only_reqRun {m : Nat} {a s : State} (hm : 0xffffffffffffffffff ||| m = m) (h : Only m a s) : Only m a (State.reqRun s) := by
  unfold State.reqRun
  try dsimp only
  repeat' first
    | (with_reducible first
        | assumption | (intro _; try dsimp only) | apply only_modeRefused | apply only_enterMode | apply only_raise
        | apply only_ite | (split; all_goals try dsimp only))
    | exact mask_trans rfl hm | exact mask_trans (evMask_all _) (mask_trans rfl hm) | apply mask_or

theorem only_reqStandby {m : Nat} {a s : State} (hm : 0x410000082 ||| m = m) (h : Only m a s) : Only m a (State.reqStandby s) := by
  unfold State.reqStandby
  try dsimp only
  repeat' first
    | (with_reducible first
        | exact lease_same rfl rfl | exact fun _ => leaseFits_none (by decide) | exact leaseFits_modEnd _
        | exact leaseFits_modGrant _ _ _ | exact fun _ => leaseFits_modEnter _ _)
    | with_reducible exact Or.inr rfl
    | (with_reducible first
        | assumption | (intro _; try dsimp only) | apply only_modeRefused | apply only_raise | apply only_ite
        | (split; all_goals try dsimp only) | apply only_set_mod | (apply only_mk (e33 := rfl)))
    | exact bit_of hm rfl | exact Or.inl (bit_of hm rfl)
    | (refine Or.inl ⟨bit_of hm rfl, ?_⟩; with_reducible first | exact lease_same rfl rfl | exact fun _ => leaseFits_none (by decide) | exact leaseFits_modEnd _ | exact leaseFits_modGrant _ _ _ | exact fun _ => leaseFits_modEnter _ _)
    | exact Or.inr rfl | exact mask_trans rfl hm | exact mask_trans (evMask_all _) (mask_trans rfl hm) | apply mask_or

theorem only_takeSfdp {m : Nat} {a s : State} (x1 x2) (hm : 0x510000084 ||| m = m) (h : Only m a s) : Only m a (State.takeSfdp s x1 x2) := by
  unfold State.takeSfdp
  try dsimp only
  repeat' first
    | with_reducible exact Or.inr rfl
    | (with_reducible first
        | assumption | (intro _; try dsimp only) | apply only_draw | apply only_raise | apply only_ite
        | (apply only_ite_snd <;> try dsimp only) | (apply only_ite_fst <;> try dsimp only)
        | refine only_snd ‹_ = (_, _)› ?_ | refine only_fst ‹_ = (_, _)› ?_ | refine only_trd ‹_ = (_, _, _)› ?_
        | refine only_fth ‹_ = (_, _, _, _)› ?_ | (split; all_goals try dsimp only) | apply only_set_boot
        | (apply only_mk (e33 := rfl)))
    | exact bit_of hm rfl | exact Or.inl (bit_of hm rfl) | exact Or.inr rfl | exact mask_trans rfl hm
    | exact mask_trans (evMask_all _) (mask_trans rfl hm) | apply mask_or

theorem only_wake {m : Nat} {a s : State} (hm : 0x2 ||| m = m) (h : Only m a s) : Only m a (State.wake s) := by
  unfold State.wake
  try dsimp only
  repeat' first
    | (with_reducible first
        | exact lease_same rfl rfl | exact fun _ => leaseFits_none (by decide) | exact leaseFits_modEnd _
        | exact leaseFits_modGrant _ _ _ | exact fun _ => leaseFits_modEnter _ _)
    | with_reducible exact Or.inr rfl
    | (with_reducible first
        | assumption | (intro _; try dsimp only) | apply only_ite | (split; all_goals try dsimp only)
        | apply only_set_mod | (apply only_mk (e33 := rfl)))
    | exact bit_of hm rfl | exact Or.inl (bit_of hm rfl)
    | (refine Or.inl ⟨bit_of hm rfl, ?_⟩; with_reducible first | exact lease_same rfl rfl | exact fun _ => leaseFits_none (by decide) | exact leaseFits_modEnd _ | exact leaseFits_modGrant _ _ _ | exact fun _ => leaseFits_modEnter _ _)
    | exact Or.inr rfl | exact mask_trans rfl hm

theorem only_wrTerm {m : Nat} {a s : State} (x1 x2) (hm : 0x400000000 ||| m = m) (h : Only m a s) : Only m a (State.wrTerm s x1 x2) := by
  unfold State.wrTerm
  try dsimp only
  repeat' first
    | (with_reducible first
        | assumption | (intro _; try dsimp only) | apply only_setN)
    | exact mask_trans rfl hm | exact mask_trans (fieldMask_all _) (mask_trans rfl hm)

theorem only_execBootStartupDone {m : Nat} {a s : State} (hm : 0xffffffffffffffffff ||| m = m) (h : Only m a s) : OnlyR m a (execBootStartupDone s) := by
  unfold execBootStartupDone
  try dsimp only
  repeat' first
    | with_reducible exact Or.inr rfl
    | (with_reducible first
        | assumption | (intro _; try dsimp only) | apply onlyR_next | apply only_enterMode | apply only_raise
        | apply only_ite | apply onlyR_ite | (split; all_goals try dsimp only) | apply only_set_boot
        | (apply only_mk (e33 := rfl)))
    | exact bit_of hm rfl | exact Or.inl (bit_of hm rfl) | exact Or.inr rfl | exact mask_trans rfl hm
    | exact mask_trans (evMask_all _) (mask_trans rfl hm) | apply mask_or

theorem only_execClaim {m : Nat} {a s : State} (x0 x1 x2) (hm : 0xfffffffffd31ffb3d7 ||| m = m) (h : Only m a s) : OnlyR m a (execClaim x0 x1 x2 s) := by
  unfold execClaim
  try dsimp only
  repeat' first
    | (with_reducible first
        | assumption | (intro _; try dsimp only) | apply onlyR_next | apply only_wrTerm | apply only_grantLease
        | apply only_claimLose | apply only_leaseRefuse | (apply only_foldl; intro s x hs; try dsimp only)
        | (apply only_foldl_snd; intro c s x hs; try dsimp only)
        | (apply only_foldl_fst; intro c s x hs; try dsimp only)
        | (apply only_foldl_trd; intro c d s x hs; try dsimp only) | refine only_snd ‹_ = (_, _)› ?_
        | refine only_fst ‹_ = (_, _)› ?_ | refine only_trd ‹_ = (_, _, _)› ?_ | refine only_fth ‹_ = (_, _, _, _)› ?_
        | (split; all_goals try dsimp only))
    | exact mask_trans rfl hm

theorem only_execDormantEntryComplete {m : Nat} {a s : State} (hm : 0xfffffffffd31ffb3d7 ||| m = m) (h : Only m a s) : OnlyR m a (execDormantEntryComplete s) := by
  unfold execDormantEntryComplete
  try dsimp only
  repeat' first
    | (with_reducible first
        | exact lease_same rfl rfl | exact fun _ => leaseFits_none (by decide) | exact leaseFits_modEnd _
        | exact leaseFits_modGrant _ _ _ | exact fun _ => leaseFits_modEnter _ _)
    | with_reducible exact Or.inr rfl
    | (with_reducible first
        | assumption | (intro _; try dsimp only) | apply onlyR_next | apply only_settleDomains | apply only_raise
        | apply only_ite | apply onlyR_ite | (split; all_goals try dsimp only) | apply only_set_mod
        | (apply only_mk (e33 := rfl)))
    | exact bit_of hm rfl | exact Or.inl (bit_of hm rfl)
    | (refine Or.inl ⟨bit_of hm rfl, ?_⟩; with_reducible first | exact lease_same rfl rfl | exact fun _ => leaseFits_none (by decide) | exact leaseFits_modEnd _ | exact leaseFits_modGrant _ _ _ | exact fun _ => leaseFits_modEnter _ _)
    | exact Or.inr rfl | exact mask_trans rfl hm | exact mask_trans (evMask_all _) (mask_trans rfl hm) | apply mask_or

theorem only_execDrainCancel {m : Nat} {a s : State} (x0) (hm : 0xffffffffffffffffff ||| m = m) (h : Only m a s) : OnlyR m a (execDrainCancel x0 s) := by
  unfold execDrainCancel
  try dsimp only
  repeat' first
    | (with_reducible first
        | assumption | (intro _; try dsimp only) | apply onlyR_next | apply only_held | apply only_reqCancel)
    | exact mask_trans rfl hm

theorem only_execDrainComplete {m : Nat} {a s : State} (hm : 0xffffffffffffffffff ||| m = m) (h : Only m a s) : OnlyR m a (execDrainComplete s) := by
  unfold execDrainComplete
  try dsimp only
  repeat' first
    | (with_reducible first
        | assumption | (intro _; try dsimp only) | apply onlyR_next | apply only_drainEnd | apply only_ite
        | apply onlyR_ite | (split; all_goals try dsimp only))
    | exact mask_trans rfl hm

theorem only_execDrainForced {m : Nat} {a s : State} (hm : 0xffffffffffffffffff ||| m = m) (h : Only m a s) : OnlyR m a (execDrainForced s) := by
  unfold execDrainForced
  try dsimp only
  repeat' first
    | (with_reducible first
        | assumption | (intro _; try dsimp only) | apply onlyR_next | apply only_drainEnd | apply only_forceDrain
        | apply only_raise | apply only_ite | apply onlyR_ite | (split; all_goals try dsimp only))
    | exact mask_trans rfl hm | exact mask_trans (evMask_all _) (mask_trans rfl hm) | apply mask_or

theorem only_execDrainRequest {m : Nat} {a s : State} (x0 x1) (hm : 0xffffffffffffffffff ||| m = m) (h : Only m a s) : OnlyR m a (execDrainRequest x0 x1 s) := by
  unfold execDrainRequest
  try dsimp only
  repeat' first
    | (with_reducible first
        | assumption | (intro _; try dsimp only) | apply onlyR_next | apply only_held | apply only_reqDrain
        | apply only_setN)
    | exact mask_trans rfl hm | exact mask_trans (fieldMask_all _) (mask_trans rfl hm)

theorem only_execGlbResetGo {m : Nat} {a s : State} (x0 x1) (hm : 0xffffffffffffffffff ||| m = m) (h : Only m a s) : OnlyR m a (execGlbResetGo x0 x1 s) := by
  unfold execGlbResetGo
  try dsimp only
  repeat' first
    | (with_reducible first
        | assumption | (intro _; try dsimp only) | apply onlyR_next | apply only_held | apply only_warmStart
        | apply only_ite | apply onlyR_ite | (split; all_goals try dsimp only))
    | exact mask_trans rfl hm

theorem only_execLeaseLapse {m : Nat} {a s : State} (hm : 0xfffffffffd31ffb3d7 ||| m = m) (h : Only m a s) : OnlyR m a (execLeaseLapse s) := by
  unfold execLeaseLapse
  try dsimp only
  repeat' first
    | (with_reducible first
        | assumption | (intro _; try dsimp only) | apply onlyR_next | apply only_endLease)
    | exact mask_trans rfl hm

theorem only_execLeaseRelease {m : Nat} {a s : State} (x0) (hm : 0xfffffffffd31ffb3d7 ||| m = m) (h : Only m a s) : OnlyR m a (execLeaseRelease x0 s) := by
  unfold execLeaseRelease
  try dsimp only
  repeat' first
    | (with_reducible first
        | assumption | (intro _; try dsimp only) | apply onlyR_next | apply only_endLease | apply only_leaseFenced
        | apply only_setN | apply only_ite | apply onlyR_ite | (split; all_goals try dsimp only))
    | exact mask_trans rfl hm | exact mask_trans (fieldMask_all _) (mask_trans rfl hm)

theorem only_execRenew {m : Nat} {a s : State} (x0 x1) (hm : 0x10000430000082 ||| m = m) (h : Only m a s) : OnlyR m a (execRenew x0 x1 s) := by
  unfold execRenew
  try dsimp only
  repeat' first
    | (with_reducible first
        | exact lease_same rfl rfl | exact fun _ => leaseFits_none (by decide) | exact leaseFits_modEnd _
        | exact leaseFits_modGrant _ _ _ | exact fun _ => leaseFits_modEnter _ _)
    | with_reducible exact Or.inr rfl
    | (with_reducible first
        | assumption | (intro _; try dsimp only) | apply onlyR_next | apply only_wrTerm | apply only_leaseFenced
        | apply only_setN | apply only_ite | apply onlyR_ite | (split; all_goals try dsimp only) | apply only_set_mod
        | (apply only_mk (e33 := rfl)))
    | exact bit_of hm rfl | exact Or.inl (bit_of hm rfl)
    | (refine Or.inl ⟨bit_of hm rfl, ?_⟩; with_reducible first | exact lease_same rfl rfl | exact fun _ => leaseFits_none (by decide) | exact leaseFits_modEnd _ | exact leaseFits_modGrant _ _ _ | exact fun _ => leaseFits_modEnter _ _)
    | exact Or.inr rfl | exact mask_trans rfl hm | exact mask_trans (fieldMask_all _) (mask_trans rfl hm)

theorem only_execRunRequest {m : Nat} {a s : State} (x0) (hm : 0xffffffffffffffffff ||| m = m) (h : Only m a s) : OnlyR m a (execRunRequest x0 s) := by
  unfold execRunRequest
  try dsimp only
  repeat' first
    | (with_reducible first
        | assumption | (intro _; try dsimp only) | apply onlyR_next | apply only_held | apply only_reqRun)
    | exact mask_trans rfl hm

theorem only_execSfdpDiscoveryDone {m : Nat} {a s : State} (x0 x1) (hm : 0x510000084 ||| m = m) (h : Only m a s) : OnlyR m a (execSfdpDiscoveryDone x0 x1 s) := by
  unfold execSfdpDiscoveryDone
  try dsimp only
  repeat' first
    | with_reducible exact Or.inr rfl
    | (with_reducible first
        | assumption | (intro _; try dsimp only) | apply onlyR_next | apply only_takeSfdp | apply only_ite
        | apply onlyR_ite | (split; all_goals try dsimp only) | apply only_set_boot | (apply only_mk (e33 := rfl)))
    | exact bit_of hm rfl | exact Or.inl (bit_of hm rfl) | exact Or.inr rfl | exact mask_trans rfl hm

theorem only_execStandbyRequest {m : Nat} {a s : State} (x0) (hm : 0x10000430000082 ||| m = m) (h : Only m a s) : OnlyR m a (execStandbyRequest x0 s) := by
  unfold execStandbyRequest
  try dsimp only
  repeat' first
    | (with_reducible first
        | assumption | (intro _; try dsimp only) | apply onlyR_next | apply only_held | apply only_reqStandby)
    | exact mask_trans rfl hm

theorem only_execStandbyRestoreDone {m : Nat} {a s : State} (x0) (hm : 0xffffffffffffffffff ||| m = m) (h : Only m a s) : OnlyR m a (execStandbyRestoreDone x0 s) := by
  unfold execStandbyRestoreDone
  try dsimp only
  repeat' first
    | with_reducible exact Or.inr rfl
    | (with_reducible first
        | assumption | (intro _; try dsimp only) | apply onlyR_next | apply only_wakeHbm | apply only_afterRestore
        | apply only_enterMode | apply only_dropSaved | apply only_raise | apply only_ite | apply onlyR_ite
        | (split; all_goals try dsimp only) | apply only_set_boot | (apply only_mk (e33 := rfl)))
    | exact bit_of hm rfl | exact Or.inl (bit_of hm rfl) | exact Or.inr rfl | exact mask_trans rfl hm
    | exact mask_trans (evMask_all _) (mask_trans rfl hm) | apply mask_or

theorem only_execStandbySaveDone {m : Nat} {a s : State} (hm : 0xffffffffffffffffff ||| m = m) (h : Only m a s) : OnlyR m a (execStandbySaveDone s) := by
  unfold execStandbySaveDone
  try dsimp only
  repeat' first
    | (with_reducible first
        | assumption | (intro _; try dsimp only) | apply onlyR_next | apply only_enterMode | apply only_saveDone
        | apply only_ite | apply onlyR_ite | (split; all_goals try dsimp only))
    | exact mask_trans rfl hm

theorem only_execStandbyWakeSideband {m : Nat} {a s : State} (x0) (hm : 0x2 ||| m = m) (h : Only m a s) : OnlyR m a (execStandbyWakeSideband x0 s) := by
  unfold execStandbyWakeSideband
  try dsimp only
  repeat' first
    | (with_reducible first
        | assumption | (intro _; try dsimp only) | apply onlyR_next | apply only_wake | apply only_ite
        | apply onlyR_ite | (split; all_goals try dsimp only))
    | exact mask_trans rfl hm

theorem only_execStandbyWakeTime {m : Nat} {a s : State} (hm : 0x2 ||| m = m) (h : Only m a s) : OnlyR m a (execStandbyWakeTime s) := by
  unfold execStandbyWakeTime
  try dsimp only
  repeat' first
    | (with_reducible first
        | assumption | (intro _; try dsimp only) | apply onlyR_next | apply only_wake | apply only_ite
        | apply onlyR_ite | (split; all_goals try dsimp only))
    | exact mask_trans rfl hm

theorem only_execStewardLoadDone {m : Nat} {a s : State} (hm : 0xffffffffffffffffff ||| m = m) (h : Only m a s) : OnlyR m a (execStewardLoadDone s) := by
  unfold execStewardLoadDone
  try dsimp only
  repeat' first
    | with_reducible exact Or.inr rfl
    | (with_reducible first
        | assumption | (intro _; try dsimp only) | apply onlyR_next | apply only_enterMode | apply only_ite
        | apply onlyR_ite | (split; all_goals try dsimp only) | apply only_set_boot | (apply only_mk (e33 := rfl)))
    | exact bit_of hm rfl | exact Or.inl (bit_of hm rfl) | exact Or.inr rfl | exact mask_trans rfl hm

theorem only_execWarmResetComplete {m : Nat} {a s : State} (hm : 0xfffffffffd31ffb3d7 ||| m = m) (h : Only m a s) : OnlyR m a (execWarmResetComplete s) := by
  unfold execWarmResetComplete
  try dsimp only
  repeat' first
    | (with_reducible first
        | exact lease_same rfl rfl | exact fun _ => leaseFits_none (by decide) | exact leaseFits_modEnd _
        | exact leaseFits_modGrant _ _ _ | exact fun _ => leaseFits_modEnter _ _)
    | with_reducible exact Or.inr rfl
    | (with_reducible first
        | assumption | (intro _; try dsimp only) | apply onlyR_next | apply only_settleDomains | apply only_setN
        | apply only_raise | apply only_ite | apply onlyR_ite | (split; all_goals try dsimp only) | apply only_set_mod
        | (apply only_mk (e33 := rfl)))
    | exact bit_of hm rfl | exact Or.inl (bit_of hm rfl)
    | (refine Or.inl ⟨bit_of hm rfl, ?_⟩; with_reducible first | exact lease_same rfl rfl | exact fun _ => leaseFits_none (by decide) | exact leaseFits_modEnd _ | exact leaseFits_modGrant _ _ _ | exact fun _ => leaseFits_modEnter _ _)
    | exact Or.inr rfl | exact mask_trans rfl hm | exact mask_trans (evMask_all _) (mask_trans rfl hm)
    | exact mask_trans (fieldMask_all _) (mask_trans rfl hm) | apply mask_or

theorem only_burnEntry {m : Nat} {a s : State} (x1 x2) (hm : 0x8000000000010 ||| m = m) (h : Only m a s) : Only m a (State.burnEntry s x1 x2).1 := by
  unfold State.burnEntry
  refine only_ite_fst h ?_
  split
  · exact h
  · rename_i w hw
    have h0 := List.find?_some hw
    exact only_set_fus (s := s.setB .MEM_RMP_FUSE x2 true) (bit_of hm rfl) (fusesKept_free _ _ _ (beq_iff_eq.mp h0)) (only_setB _ _ _ (mask_trans rfl hm) h)

theorem only_burnRemap {m : Nat} {a s : State} (hm : 0x8000000000010 ||| m = m) (h : Only m a s) : Only m a (State.burnRemap s).1 := by
  unfold State.burnRemap
  try dsimp only
  repeat' first
    | (with_reducible first
        | assumption | (intro _; try dsimp only) | apply only_burnEntry
        | (apply only_foldl; intro s x hs; try dsimp only) | (apply only_foldl_snd; intro c s x hs; try dsimp only)
        | (apply only_foldl_fst; intro c s x hs; try dsimp only)
        | (apply only_foldl_trd; intro c d s x hs; try dsimp only))
    | exact mask_trans rfl hm

theorem only_memRefuse {m : Nat} {a s : State} (x1) (hm : 0x1ffffc10000080 ||| m = m) (h : Only m a s) : Only m a (State.memRefuse s x1) := by
  unfold State.memRefuse
  try dsimp only
  repeat' first
    | (with_reducible first
        | assumption | (intro _; try dsimp only) | apply only_raise | apply only_setN | apply only_ite
        | (split; all_goals try dsimp only))
    | exact mask_trans rfl hm | exact mask_trans (evMask_all _) (mask_trans rfl hm)
    | exact mask_trans (fieldMask_all _) (mask_trans rfl hm) | apply mask_or

theorem only_checker {m : Nat} {a s : State} (x1) (h1 : ∀ s, Only m a s → Only m a (x1 s)) (hm : 0x1ffffc10000080 ||| m = m) (h : Only m a s) : Only m a (State.checker s x1) := by
  unfold State.checker
  try dsimp only
  repeat' first
    | (with_reducible first
        | assumption | (intro _; try dsimp only) | apply h1 | apply only_memRefuse | apply only_setN | apply only_ite
        | (split; all_goals try dsimp only))
    | exact mask_trans rfl hm | exact mask_trans (fieldMask_all _) (mask_trans rfl hm)

theorem only_chkComputed {m : Nat} {a s : State} (hm : 0x100 ||| m = m) (h : Only m a s) : Only m a (State.chkComputed s) := by
  unfold State.chkComputed
  try dsimp only
  repeat' first
    | (with_reducible first
        | exact wf_same rfl rfl rfl | exact wf_put _ _ rfl rfl rfl | exact fun _ => wf_nil rfl
        | exact wf_cut _ rfl rfl rfl)
    | with_reducible exact Or.inr rfl
    | (with_reducible first
        | assumption | (intro _; try dsimp only) | apply only_set_hbm | (apply only_mk (e33 := rfl)))
    | exact bit_of hm rfl | exact Or.inl (bit_of hm rfl)
    | (refine Or.inl ⟨bit_of hm rfl, ?_⟩; with_reducible first | exact wf_same rfl rfl rfl | exact wf_put _ _ rfl rfl rfl | exact fun _ => wf_nil rfl | exact wf_cut _ rfl rfl rfl)
    | exact Or.inr rfl | exact mask_trans rfl hm

theorem only_chkRaw {m : Nat} {a s : State} (hm : 0x100 ||| m = m) (h : Only m a s) : Only m a (State.chkRaw s) := by
  unfold State.chkRaw
  try dsimp only
  repeat' first
    | (with_reducible first
        | exact wf_same rfl rfl rfl | exact wf_put _ _ rfl rfl rfl | exact fun _ => wf_nil rfl
        | exact wf_cut _ rfl rfl rfl)
    | with_reducible exact Or.inr rfl
    | (with_reducible first
        | assumption | (intro _; try dsimp only) | apply only_set_hbm | (apply only_mk (e33 := rfl)))
    | exact bit_of hm rfl | exact Or.inl (bit_of hm rfl)
    | (refine Or.inl ⟨bit_of hm rfl, ?_⟩; with_reducible first | exact wf_same rfl rfl rfl | exact wf_put _ _ rfl rfl rfl | exact fun _ => wf_nil rfl | exact wf_cut _ rfl rfl rfl)
    | exact Or.inr rfl | exact mask_trans rfl hm

theorem only_chkRead {m : Nat} {a s : State} (hm : 0x8000000000000 ||| m = m) (h : Only m a s) : Only m a (State.chkRead s) := by
  unfold State.chkRead
  try dsimp only
  repeat' first
    | (with_reducible first
        | assumption | (intro _; try dsimp only) | apply only_setReg)
    | exact mask_trans rfl hm | exact mask_trans (fieldMask_all _) (mask_trans rfl hm)

theorem only_copyRow {m : Nat} {a s : State} (x1) (hm : 0x100 ||| m = m) (h : Only m a s) : Only m a (State.copyRow s x1) := by
  unfold State.copyRow
  try dsimp only
  repeat' first
    | (with_reducible first
        | exact wf_same rfl rfl rfl | exact wf_put _ _ rfl rfl rfl | exact fun _ => wf_nil rfl
        | exact wf_cut _ rfl rfl rfl)
    | with_reducible exact Or.inr rfl
    | (with_reducible first
        | assumption | (intro _; try dsimp only) | apply only_set_hbm | (apply only_mk (e33 := rfl)))
    | exact bit_of hm rfl | exact Or.inl (bit_of hm rfl)
    | (refine Or.inl ⟨bit_of hm rfl, ?_⟩; with_reducible first | exact wf_same rfl rfl rfl | exact wf_put _ _ rfl rfl rfl | exact fun _ => wf_nil rfl | exact wf_cut _ rfl rfl rfl)
    | exact Or.inr rfl | exact mask_trans rfl hm

theorem only_endRepair {m : Nat} {a s : State} (hm : 0x8000410000180 ||| m = m) (h : Only m a s) : Only m a (State.endRepair s) := by
  unfold State.endRepair
  try dsimp only
  repeat' first
    | (with_reducible first
        | exact wf_same rfl rfl rfl | exact wf_put _ _ rfl rfl rfl | exact fun _ => wf_nil rfl
        | exact wf_cut _ rfl rfl rfl)
    | with_reducible exact Or.inr rfl
    | (with_reducible first
        | assumption | (intro _; try dsimp only) | apply only_raise | apply only_setN | apply only_set_hbm
        | (apply only_mk (e33 := rfl)))
    | exact bit_of hm rfl | exact Or.inl (bit_of hm rfl)
    | (refine Or.inl ⟨bit_of hm rfl, ?_⟩; with_reducible first | exact wf_same rfl rfl rfl | exact wf_put _ _ rfl rfl rfl | exact fun _ => wf_nil rfl | exact wf_cut _ rfl rfl rfl)
    | exact Or.inr rfl | exact mask_trans rfl hm | exact mask_trans (evMask_all _) (mask_trans rfl hm)
    | exact mask_trans (fieldMask_all _) (mask_trans rfl hm) | apply mask_or

theorem only_hotInsert {m : Nat} {a s : State} (x1) (hm : 0x8000410000080 ||| m = m) (h : Only m a s) : Only m a (State.hotInsert s x1) := by
  unfold State.hotInsert
  try dsimp only
  repeat' first
    | (with_reducible first
        | assumption | (intro _; try dsimp only) | apply only_raise | apply only_setB | apply only_ite
        | (split; all_goals try dsimp only))
    | exact mask_trans rfl hm | exact mask_trans (evMask_all _) (mask_trans rfl hm)
    | exact mask_trans (fieldMask_all _) (mask_trans rfl hm) | apply mask_or

theorem only_markSpares {m : Nat} {a s : State} (x1) (hm : 0x100 ||| m = m) (h : Only m a s) : Only m a (State.markSpares s x1) := by
  unfold State.markSpares
  try dsimp only
  repeat' first
    | (with_reducible first
        | exact wf_same rfl rfl rfl | exact wf_put _ _ rfl rfl rfl | exact fun _ => wf_nil rfl
        | exact wf_cut _ rfl rfl rfl)
    | with_reducible exact Or.inr rfl
    | (with_reducible first
        | assumption | (intro _; try dsimp only) | (apply only_foldl; intro s x hs; try dsimp only)
        | (apply only_foldl_snd; intro c s x hs; try dsimp only)
        | (apply only_foldl_fst; intro c s x hs; try dsimp only)
        | (apply only_foldl_trd; intro c d s x hs; try dsimp only) | apply only_set_hbm | (apply only_mk (e33 := rfl)))
    | exact bit_of hm rfl | exact Or.inl (bit_of hm rfl)
    | (refine Or.inl ⟨bit_of hm rfl, ?_⟩; with_reducible first | exact wf_same rfl rfl rfl | exact wf_put _ _ rfl rfl rfl | exact fun _ => wf_nil rfl | exact wf_cut _ rfl rfl rfl)
    | exact Or.inr rfl | exact mask_trans rfl hm

theorem only_refreshRequest {m : Nat} {a s : State} (x1) (hm : 0x4000000100 ||| m = m) (h : Only m a s) : Only m a (State.refreshRequest s x1) := by
  unfold State.refreshRequest
  try dsimp only
  repeat' first
    | (with_reducible first
        | exact wf_same rfl rfl rfl | exact wf_put _ _ rfl rfl rfl | exact fun _ => wf_nil rfl
        | exact wf_cut _ rfl rfl rfl)
    | with_reducible exact Or.inr rfl
    | (with_reducible first
        | assumption | (intro _; try dsimp only) | apply only_setB | apply only_ite
        | (split; all_goals try dsimp only) | apply only_set_hbm | (apply only_mk (e33 := rfl)))
    | exact bit_of hm rfl | exact Or.inl (bit_of hm rfl)
    | (refine Or.inl ⟨bit_of hm rfl, ?_⟩; with_reducible first | exact wf_same rfl rfl rfl | exact wf_put _ _ rfl rfl rfl | exact fun _ => wf_nil rfl | exact wf_cut _ rfl rfl rfl)
    | exact Or.inr rfl | exact mask_trans rfl hm | exact mask_trans (fieldMask_all _) (mask_trans rfl hm)

theorem only_remapRow {m : Nat} {a s : State} (x1) (hm : 0x8002410000180 ||| m = m) (h : Only m a s) : OnlyO m a (State.remapRow s x1) := by
  unfold State.remapRow
  try dsimp only
  repeat' first
    | (with_reducible first
        | assumption | (intro _; try dsimp only) | apply only_evalReplace | apply only_restate
        | apply only_remapMargins | apply only_setRemap | apply onlyO_ite | apply onlyO_none | apply onlyO_some
        | apply only_getD | refine only_opt ‹_ = some _› ?_ | (split; all_goals try dsimp only))
    | exact mask_trans rfl hm

theorem only_rowStays {m : Nat} {a s : State} (x1) (hm : 0x8000410000180 ||| m = m) (h : Only m a s) : Only m a (State.rowStays s x1) := by
  unfold State.rowStays
  try dsimp only
  repeat' first
    | (with_reducible first
        | exact wf_same rfl rfl rfl | exact wf_put _ _ rfl rfl rfl | exact fun _ => wf_nil rfl
        | exact wf_cut _ rfl rfl rfl)
    | with_reducible exact Or.inr rfl
    | (with_reducible first
        | assumption | (intro _; try dsimp only) | apply only_raise | apply only_ite
        | (split; all_goals try dsimp only) | apply only_set_hbm | (apply only_mk (e33 := rfl)))
    | exact bit_of hm rfl | exact Or.inl (bit_of hm rfl)
    | (refine Or.inl ⟨bit_of hm rfl, ?_⟩; with_reducible first | exact wf_same rfl rfl rfl | exact wf_put _ _ rfl rfl rfl | exact fun _ => wf_nil rfl | exact wf_cut _ rfl rfl rfl)
    | exact Or.inr rfl | exact mask_trans rfl hm | exact mask_trans (evMask_all _) (mask_trans rfl hm) | apply mask_or

theorem only_rowFailed {m : Nat} {a s : State} (x1) (hm : 0x8002410000180 ||| m = m) (h : Only m a s) : Only m a (State.rowFailed s x1) := by
  unfold State.rowFailed
  try dsimp only
  repeat' first
    | (with_reducible first
        | assumption | (intro _; try dsimp only) | apply only_remapRow | apply only_rowStays | apply only_raise
        | apply onlyO_ite | apply onlyO_none | apply onlyO_some | apply only_getD | refine only_opt ‹_ = some _› ?_
        | (split; all_goals try dsimp only))
    | exact mask_trans rfl hm | exact mask_trans (evMask_all _) (mask_trans rfl hm) | apply mask_or

theorem only_rowsBurned {m : Nat} {a s : State} (hm : 0x8000410000090 ||| m = m) (h : Only m a s) : Only m a (State.rowsBurned s) := by
  unfold State.rowsBurned
  try dsimp only
  repeat' first
    | (with_reducible first
        | assumption | (intro _; try dsimp only) | apply only_burnRemap | apply only_remapMargins | apply only_raise
        | apply only_ite | (apply only_ite_snd <;> try dsimp only) | (apply only_ite_fst <;> try dsimp only)
        | refine only_snd ‹_ = (_, _)› ?_ | refine only_fst ‹_ = (_, _)› ?_ | refine only_trd ‹_ = (_, _, _)› ?_
        | refine only_fth ‹_ = (_, _, _, _)› ?_ | (split; all_goals try dsimp only))
    | exact mask_trans rfl hm | exact mask_trans (evMask_all _) (mask_trans rfl hm) | apply mask_or

theorem only_rowsTested {m : Nat} {a s : State} (x1 x2) (hm : 0x8082410010180 ||| m = m) (h : Only m a s) : Only m a (State.rowsTested s x1 x2) := by
  unfold State.rowsTested
  try dsimp only
  repeat' first
    | (with_reducible first
        | assumption | (intro _; try dsimp only) | apply only_rowFailed | apply only_remapMargins
        | apply only_markSpares | apply only_loseHbm | apply only_setN
        | (apply only_foldl; intro s x hs; try dsimp only) | (apply only_foldl_snd; intro c s x hs; try dsimp only)
        | (apply only_foldl_fst; intro c s x hs; try dsimp only)
        | (apply only_foldl_trd; intro c d s x hs; try dsimp only))
    | exact mask_trans rfl hm | exact mask_trans (fieldMask_all _) (mask_trans rfl hm)

theorem only_scrubbed {m : Nat} {a s : State} (x1) (hm : 0x8000000000100 ||| m = m) (h : Only m a s) : Only m a (State.scrubbed s x1) := by
  unfold State.scrubbed
  try dsimp only
  repeat' first
    | (with_reducible first
        | exact wf_same rfl rfl rfl | exact wf_put _ _ rfl rfl rfl | exact fun _ => wf_nil rfl
        | exact wf_cut _ rfl rfl rfl)
    | with_reducible exact Or.inr rfl
    | (with_reducible first
        | assumption | (intro _; try dsimp only) | apply only_setN | apply only_countF | apply only_ite
        | (split; all_goals try dsimp only) | apply only_set_hbm | (apply only_mk (e33 := rfl)))
    | exact bit_of hm rfl | exact Or.inl (bit_of hm rfl)
    | (refine Or.inl ⟨bit_of hm rfl, ?_⟩; with_reducible first | exact wf_same rfl rfl rfl | exact wf_put _ _ rfl rfl rfl | exact fun _ => wf_nil rfl | exact wf_cut _ rfl rfl rfl)
    | exact Or.inr rfl | exact mask_trans rfl hm | exact mask_trans (fieldMask_all _) (mask_trans rfl hm)

theorem only_stackHotEvent {m : Nat} {a s : State} (hm : 0x2410000080 ||| m = m) (h : Only m a s) : Only m a (State.stackHotEvent s) := by
  unfold State.stackHotEvent
  try dsimp only
  repeat' first
    | (with_reducible first
        | assumption | (intro _; try dsimp only) | apply only_setB | apply only_raise | apply only_ite
        | (split; all_goals try dsimp only))
    | exact mask_trans rfl hm | exact mask_trans (evMask_all _) (mask_trans rfl hm)
    | exact mask_trans (fieldMask_all _) (mask_trans rfl hm) | apply mask_or

theorem only_stackLimit {m : Nat} {a s : State} (x1) (hm : 0xffffffffffffffffff ||| m = m) (h : Only m a s) : Only m a (State.stackLimit s x1) := by
  unfold State.stackLimit
  try dsimp only
  repeat' first
    | (with_reducible first
        | exact fuse_same rfl | exact fusesKept_put _ _ _ | exact fusesKept_flags _ _)
    | with_reducible exact Or.inr rfl
    | (with_reducible first
        | assumption | (intro _; try dsimp only) | apply only_safeHoldCause | apply only_evalFatal
        | apply only_stackHotEvent | apply only_ite | (split; all_goals try dsimp only) | apply only_set_fus
        | (apply only_mk (e33 := rfl)))
    | exact bit_of hm rfl | exact Or.inl (bit_of hm rfl)
    | (refine Or.inl ⟨bit_of hm rfl, ?_⟩; with_reducible first | exact fuse_same rfl | exact fusesKept_put _ _ _ | exact fusesKept_flags _ _)
    | exact Or.inr rfl | exact mask_trans rfl hm

theorem only_startRepair {m : Nat} {a s : State} (x1) (hm : 0x1ffffc10000180 ||| m = m) (h : Only m a s) : Only m a (State.startRepair s x1) := by
  unfold State.startRepair
  try dsimp only
  repeat' first
    | (with_reducible first
        | exact wf_same rfl rfl rfl | exact wf_put _ _ rfl rfl rfl | exact fun _ => wf_nil rfl
        | exact wf_cut _ rfl rfl rfl)
    | with_reducible exact Or.inr rfl
    | (with_reducible first
        | assumption | (intro _; try dsimp only) | apply only_memRefuse | apply only_setN | apply only_ite
        | (split; all_goals try dsimp only) | apply only_set_hbm | (apply only_mk (e33 := rfl)))
    | exact bit_of hm rfl | exact Or.inl (bit_of hm rfl)
    | (refine Or.inl ⟨bit_of hm rfl, ?_⟩; with_reducible first | exact wf_same rfl rfl rfl | exact wf_put _ _ rfl rfl rfl | exact fun _ => wf_nil rfl | exact wf_cut _ rfl rfl rfl)
    | exact Or.inr rfl | exact mask_trans rfl hm | exact mask_trans (fieldMask_all _) (mask_trans rfl hm)

theorem only_execBurn {m : Nat} {a s : State} (x0) (hm : 0x1ffffc30000180 ||| m = m) (h : Only m a s) : OnlyR m a (execBurn x0 s) := by
  unfold execBurn
  try dsimp only
  repeat' first
    | (with_reducible first
        | assumption | (intro _; try dsimp only) | apply onlyR_next | apply only_guarded | apply only_startRepair)
    | exact mask_trans rfl hm

theorem only_execHbmPassDone {m : Nat} {a s : State} (hm : 0x8080410010184 ||| m = m) (h : Only m a s) : OnlyR m a (execHbmPassDone s) := by
  unfold execHbmPassDone
  try dsimp only
  repeat' first
    | (with_reducible first
        | exact wf_same rfl rfl rfl | exact wf_put _ _ rfl rfl rfl | exact fun _ => wf_nil rfl
        | exact wf_cut _ rfl rfl rfl)
    | with_reducible exact Or.inr rfl
    | (with_reducible first
        | assumption | (intro _; try dsimp only) | apply onlyR_next | apply only_noRecords | apply only_raise
        | apply only_setN | apply only_setB | apply only_ite | apply onlyR_ite | (split; all_goals try dsimp only)
        | (apply only_mk (e33 := rfl)))
    | exact bit_of hm rfl | exact Or.inl (bit_of hm rfl)
    | (refine Or.inl ⟨bit_of hm rfl, ?_⟩; with_reducible first | exact wf_same rfl rfl rfl | exact wf_put _ _ rfl rfl rfl | exact fun _ => wf_nil rfl | exact wf_cut _ rfl rfl rfl)
    | exact Or.inr rfl | exact mask_trans rfl hm | exact mask_trans (evMask_all _) (mask_trans rfl hm)
    | exact mask_trans (fieldMask_all _) (mask_trans rfl hm) | apply mask_or

theorem only_execHbmTrainDone {m : Nat} {a s : State} (x0) (hm : 0x8000510000184 ||| m = m) (h : Only m a s) : OnlyR m a (execHbmTrainDone x0 s) := by
  unfold execHbmTrainDone
  try dsimp only
  repeat' first
    | (with_reducible first
        | exact wf_same rfl rfl rfl | exact wf_put _ _ rfl rfl rfl | exact fun _ => wf_nil rfl
        | exact wf_cut _ rfl rfl rfl)
    | with_reducible exact Or.inr rfl
    | (with_reducible first
        | assumption | (intro _; try dsimp only) | apply onlyR_next | apply only_raise | apply only_setB
        | apply only_draw | apply only_setN | apply only_ite | (apply only_ite_snd <;> try dsimp only)
        | (apply only_ite_fst <;> try dsimp only) | apply onlyR_ite | refine only_snd ‹_ = (_, _)› ?_
        | refine only_fst ‹_ = (_, _)› ?_ | refine only_trd ‹_ = (_, _, _)› ?_ | refine only_fth ‹_ = (_, _, _, _)› ?_
        | (split; all_goals try dsimp only) | (apply only_mk (e33 := rfl)))
    | exact bit_of hm rfl | exact Or.inl (bit_of hm rfl)
    | (refine Or.inl ⟨bit_of hm rfl, ?_⟩; with_reducible first | exact wf_same rfl rfl rfl | exact wf_put _ _ rfl rfl rfl | exact fun _ => wf_nil rfl | exact wf_cut _ rfl rfl rfl)
    | exact Or.inr rfl | exact mask_trans rfl hm | exact mask_trans (evMask_all _) (mask_trans rfl hm)
    | exact mask_trans (fieldMask_all _) (mask_trans rfl hm) | apply mask_or

theorem only_execMemCntClr {m : Nat} {a s : State} (x0) (hm : 0x400010000430000080 ||| m = m) (h : Only m a s) : OnlyR m a (execMemCntClr x0 s) := by
  unfold execMemCntClr
  try dsimp only
  repeat' first
    | (with_reducible first
        | assumption | (intro _; try dsimp only) | apply onlyR_next | apply only_guarded | apply only_clearBlockCtrs)
    | exact mask_trans rfl hm | exact mask_trans (blockMask_all _) (mask_trans rfl hm)

theorem only_execMemScrub {m : Nat} {a s : State} (x0 x1) (hm : 0x400008000530000180 ||| m = m) (h : Only m a s) : OnlyR m a (execMemScrub x0 x1 s) := by
  unfold execMemScrub
  try dsimp only
  repeat' first
    | (with_reducible first
        | exact wf_same rfl rfl rfl | exact wf_put _ _ rfl rfl rfl | exact fun _ => wf_nil rfl
        | exact wf_cut _ rfl rfl rfl)
    | with_reducible exact Or.inr rfl
    | (with_reducible first
        | assumption | (intro _; try dsimp only) | apply onlyR_next | apply only_scrubbed | apply only_hbmRead
        | apply only_ite | (apply only_ite_snd <;> try dsimp only) | (apply only_ite_fst <;> try dsimp only)
        | apply onlyR_ite | refine only_snd ‹_ = (_, _)› ?_ | refine only_fst ‹_ = (_, _)› ?_
        | refine only_trd ‹_ = (_, _, _)› ?_ | refine only_fth ‹_ = (_, _, _, _)› ?_
        | (split; all_goals try dsimp only) | apply only_set_hbm | (apply only_mk (e33 := rfl)))
    | exact bit_of hm rfl | exact Or.inl (bit_of hm rfl)
    | (refine Or.inl ⟨bit_of hm rfl, ?_⟩; with_reducible first | exact wf_same rfl rfl rfl | exact wf_put _ _ rfl rfl rfl | exact fun _ => wf_nil rfl | exact wf_cut _ rfl rfl rfl)
    | exact Or.inr rfl | exact mask_trans rfl hm

theorem only_execMemTempSample {m : Nat} {a s : State} (x0) (hm : 0xffffffffffffffffff ||| m = m) (h : Only m a s) : OnlyR m a (execMemTempSample x0 s) := by
  unfold execMemTempSample
  try dsimp only
  repeat' first
    | (with_reducible first
        | assumption | (intro _; try dsimp only) | apply onlyR_next | apply only_stackLimit | apply only_hotInsert
        | apply only_refreshRequest | apply only_setN | apply only_ite | apply onlyR_ite
        | (split; all_goals try dsimp only))
    | exact mask_trans rfl hm | exact mask_trans (fieldMask_all _) (mask_trans rfl hm)

theorem only_execReadRaw {m : Nat} {a s : State} (x0) (hm : 0x1ffffc30000080 ||| m = m) (h : Only m a s) : OnlyR m a (execReadRaw x0 s) := by
  unfold execReadRaw
  try dsimp only
  repeat' first
    | (with_reducible first
        | assumption | (intro _; try dsimp only) | apply onlyR_next | apply only_guarded | apply only_checker
        | apply only_chkRead)
    | exact mask_trans rfl hm

theorem only_execRefreshWindow {m : Nat} {a s : State} (hm : 0x400000000000000140 ||| m = m) (h : Only m a s) : OnlyR m a (execRefreshWindow s) := by
  unfold execRefreshWindow
  try dsimp only
  repeat' first
    | (with_reducible first
        | exact wf_same rfl rfl rfl | exact wf_put _ _ rfl rfl rfl | exact fun _ => wf_nil rfl
        | exact wf_cut _ rfl rfl rfl)
    | with_reducible exact Or.inr rfl
    | (with_reducible first
        | assumption | (intro _; try dsimp only) | apply onlyR_next | apply only_bump | apply only_ite
        | apply onlyR_ite | (apply only_foldl; intro s x hs; try dsimp only)
        | (apply only_foldl_snd; intro c s x hs; try dsimp only)
        | (apply only_foldl_fst; intro c s x hs; try dsimp only)
        | (apply only_foldl_trd; intro c d s x hs; try dsimp only) | refine only_snd ‹_ = (_, _)› ?_
        | refine only_fst ‹_ = (_, _)› ?_ | refine only_trd ‹_ = (_, _, _)› ?_ | refine only_fth ‹_ = (_, _, _, _)› ?_
        | (split; all_goals try dsimp only) | (apply only_mk (e33 := rfl)))
    | exact bit_of hm rfl | exact Or.inl (bit_of hm rfl)
    | (refine Or.inl ⟨bit_of hm rfl, ?_⟩; with_reducible first | exact wf_same rfl rfl rfl | exact wf_put _ _ rfl rfl rfl | exact fun _ => wf_nil rfl | exact wf_cut _ rfl rfl rfl)
    | exact Or.inr rfl | exact mask_trans rfl hm | exact mask_trans (ctrMask_all _) (mask_trans rfl hm)

theorem only_execRefwRateChange {m : Nat} {a s : State} (hm : 0x8004410000080 ||| m = m) (h : Only m a s) : OnlyR m a (execRefwRateChange s) := by
  unfold execRefwRateChange
  try dsimp only
  repeat' first
    | (with_reducible first
        | assumption | (intro _; try dsimp only) | apply onlyR_next | apply only_raise | apply only_setB
        | apply only_setReg | apply only_ite | apply onlyR_ite | (split; all_goals try dsimp only))
    | exact mask_trans rfl hm | exact mask_trans (evMask_all _) (mask_trans rfl hm)
    | exact mask_trans (fieldMask_all _) (mask_trans rfl hm) | apply mask_or

theorem only_execRemap {m : Nat} {a s : State} (hm : 0x400008002410000180 ||| m = m) (h : Only m a s) : OnlyR m a (execRemap s) := by
  unfold execRemap
  try dsimp only
  repeat' first
    | (with_reducible first
        | exact wf_same rfl rfl rfl | exact wf_put _ _ rfl rfl rfl | exact fun _ => wf_nil rfl
        | exact wf_cut _ rfl rfl rfl)
    | with_reducible exact Or.inr rfl
    | (with_reducible first
        | assumption | (intro _; try dsimp only) | apply onlyR_next | apply only_remapRow | apply only_copyRow
        | apply only_rowStays | apply only_raise | apply only_bump | apply onlyO_ite | apply onlyO_none
        | apply onlyO_some | apply only_getD | refine only_opt ‹_ = some _› ?_ | (split; all_goals try dsimp only)
        | apply only_set_hbm | (apply only_mk (e33 := rfl)))
    | exact bit_of hm rfl | exact Or.inl (bit_of hm rfl)
    | (refine Or.inl ⟨bit_of hm rfl, ?_⟩; with_reducible first | exact wf_same rfl rfl rfl | exact wf_put _ _ rfl rfl rfl | exact fun _ => wf_nil rfl | exact wf_cut _ rfl rfl rfl)
    | exact Or.inr rfl | exact mask_trans rfl hm | exact mask_trans (evMask_all _) (mask_trans rfl hm)
    | exact mask_trans (ctrMask_all _) (mask_trans rfl hm) | apply mask_or

theorem only_execRepairDone {m : Nat} {a s : State} (x0 x1) (hm : 0x8082410010190 ||| m = m) (h : Only m a s) : OnlyR m a (execRepairDone x0 x1 s) := by
  unfold execRepairDone
  try dsimp only
  repeat' first
    | (with_reducible first
        | assumption | (intro _; try dsimp only) | apply onlyR_next | apply only_endRepair | apply only_rowsTested
        | apply only_rowsBurned | apply only_ite | apply onlyR_ite | (split; all_goals try dsimp only))
    | exact mask_trans rfl hm

theorem only_execTestAll {m : Nat} {a s : State} (x0) (hm : 0x1ffffc30000180 ||| m = m) (h : Only m a s) : OnlyR m a (execTestAll x0 s) := by
  unfold execTestAll
  try dsimp only
  repeat' first
    | (with_reducible first
        | assumption | (intro _; try dsimp only) | apply onlyR_next | apply only_guarded | apply only_startRepair)
    | exact mask_trans rfl hm

theorem only_execWriteComputed {m : Nat} {a s : State} (x0) (hm : 0x1ffffc30000180 ||| m = m) (h : Only m a s) : OnlyR m a (execWriteComputed x0 s) := by
  unfold execWriteComputed
  try dsimp only
  repeat' first
    | (with_reducible first
        | assumption | (intro _; try dsimp only) | apply onlyR_next | apply only_guarded | apply only_checker
        | apply only_chkComputed)
    | exact mask_trans rfl hm

theorem only_execWriteRaw {m : Nat} {a s : State} (x0) (hm : 0x1ffffc30000180 ||| m = m) (h : Only m a s) : OnlyR m a (execWriteRaw x0 s) := by
  unfold execWriteRaw
  try dsimp only
  repeat' first
    | (with_reducible first
        | assumption | (intro _; try dsimp only) | apply onlyR_next | apply only_guarded | apply only_checker
        | apply only_chkRaw)
    | exact mask_trans rfl hm

theorem only_fetch {m : Nat} {a s : State} (x1 x2) (hm : 0x40000800410400090 ||| m = m) (h : Only m a s) : Only m a (State.fetch s x1 x2).2 := by
  unfold State.fetch
  try dsimp only
  repeat' first
    | (with_reducible first
        | assumption | (intro _; try dsimp only) | apply only_engCheck | apply only_ite
        | (apply only_ite_snd <;> try dsimp only) | (apply only_ite_fst <;> try dsimp only)
        | refine only_snd ‹_ = (_, _)› ?_ | refine only_fst ‹_ = (_, _)› ?_ | refine only_trd ‹_ = (_, _, _)› ?_
        | refine only_fth ‹_ = (_, _, _, _)› ?_ | (split; all_goals try dsimp only))
    | exact mask_trans rfl hm

theorem only_issueWhen {m : Nat} {a s : State} (x1 x2 x3) (h3 : ∀ y0 s y2, Only m a s → Only m a (x3 y0 s y2)) (hm : 0xfffffffffd31ffb3d5 ||| m = m) (h : Only m a s) : Only m a (State.issueWhen s x1 x2 x3) := by
  unfold State.issueWhen
  try dsimp only
  repeat' first
    | (with_reducible first
        | assumption | (intro _; try dsimp only) | apply h3 | apply only_exception | apply only_fetch
        | apply only_retireDue | apply only_ite | (apply only_ite_snd <;> try dsimp only)
        | (apply only_ite_fst <;> try dsimp only) | refine only_snd ‹_ = (_, _)› ?_ | refine only_fst ‹_ = (_, _)› ?_
        | refine only_trd ‹_ = (_, _, _)› ?_ | refine only_fth ‹_ = (_, _, _, _)› ?_
        | (split; all_goals try dsimp only))
    | exact mask_trans rfl hm

theorem only_issue {m : Nat} {a s : State} (x1 x2 x3 x4 x5) (h5 : ∀ s y1, Only m a s → Only m a (x5 s y1)) (hm : 0xfffffffffd31ffb3d5 ||| m = m) (h : Only m a s) : Only m a (State.issue s x1 x2 x3 x4 x5) := by
  unfold State.issue
  try dsimp only
  repeat' first
    | (with_reducible first
        | assumption | (intro _; try dsimp only) | apply h5 | apply only_issueWhen | apply only_exception
        | apply only_ite | (split; all_goals try dsimp only))
    | exact mask_trans rfl hm

theorem only_retire {m : Nat} {a s : State} (x1 x2 x3) (hm : 0x40000000000400000 ||| m = m) (h : Only m a s) : Only m a (State.retire s x1 x2 x3) := by
  unfold State.retire
  try dsimp only
  repeat' first
    | (with_reducible first
        | assumption | (intro _; try dsimp only) | apply only_setCx | apply only_bump)
    | exact mask_trans rfl hm | exact mask_trans (ctrMask_all _) (mask_trans rfl hm)

theorem only_retireRd {m : Nat} {a s : State} (x1 x2 x3) (hm : 0x40000000000400000 ||| m = m) (h : Only m a s) : Only m a (State.retireRd s x1 x2 x3) := by
  unfold State.retireRd
  try dsimp only
  repeat' first
    | (with_reducible first
        | assumption | (intro _; try dsimp only) | apply only_retire)
    | exact mask_trans rfl hm

theorem only_stallAt {m : Nat} {a s : State} (x1) (hm : 0x400000 ||| m = m) (h : Only m a s) : Only m a (State.stallAt s x1) := by
  unfold State.stallAt
  try dsimp only
  repeat' first
    | (with_reducible first
        | assumption | (intro _; try dsimp only) | apply only_setCx)
    | exact mask_trans rfl hm

theorem only_trapAt {m : Nat} {a s : State} (x1 x2 x3 x4 x5) (hm : 0xffffeba00d30da0191 ||| m = m) (h : Only m a s) : Only m a (State.trapAt s x1 x2 x3 x4 x5) := by
  unfold State.trapAt
  try dsimp only
  repeat' first
    | (with_reducible first
        | assumption | (intro _; try dsimp only) | apply only_exception)
    | exact mask_trans rfl hm

theorem only_consumeTok {m : Nat} {a s : State} (x1 x2) (hm : 0x100000020000 ||| m = m) (h : Only m a s) : Only m a (State.consumeTok s x1 x2) := by
  unfold State.consumeTok
  try dsimp only
  repeat' first
    | (with_reducible first
        | assumption | (intro _; try dsimp only) | apply only_setBuf | apply only_setN | apply only_ite
        | (split; all_goals try dsimp only))
    | exact mask_trans rfl hm | exact mask_trans (fieldMask_all _) (mask_trans rfl hm)

theorem only_ctxResume {m : Nat} {a s : State} (x1) (hm : 0x40001000d10480081 ||| m = m) (h : Only m a s) : Only m a (State.ctxResume s x1) := by
  unfold State.ctxResume
  try dsimp only
  repeat' first
    | (with_reducible first
        | assumption | (intro _; try dsimp only) | apply only_fbCtx | apply only_makeReady | apply only_setCx
        | apply only_ite | (split; all_goals try dsimp only))
    | exact mask_trans rfl hm

theorem only_dmaResume {m : Nat} {a s : State} (x1) (hm : 0x40001800410c80090 ||| m = m) (h : Only m a s) : Only m a (State.dmaResume s x1) := by
  unfold State.dmaResume
  try dsimp only
  repeat' first
    | (with_reducible first
        | assumption | (intro _; try dsimp only) | apply only_writeDesc | apply only_setDma | apply only_fbook)
    | exact mask_trans rfl hm

theorem only_fireEnt {m : Nat} {a s : State} (x1 x2 x3 x4) (hm : 0xc00011005105a0080 ||| m = m) (h : Only m a s) : Only m a (State.fireEnt s x1 x2 x3 x4) := by
  unfold State.fireEnt
  try dsimp only
  repeat' first
    | with_reducible exact Or.inr rfl
    | (with_reducible first
        | assumption | (intro _; try dsimp only) | apply only_preemptCtx | apply only_consumeTok | apply only_setCx
        | apply only_fbCtx | apply only_draw | apply only_bump | apply only_ite
        | (apply only_ite_snd <;> try dsimp only) | (apply only_ite_fst <;> try dsimp only)
        | (apply only_foldl; intro s x hs; try dsimp only) | (apply only_foldl_snd; intro c s x hs; try dsimp only)
        | (apply only_foldl_fst; intro c s x hs; try dsimp only)
        | (apply only_foldl_trd; intro c d s x hs; try dsimp only) | refine only_snd ‹_ = (_, _)› ?_
        | refine only_fst ‹_ = (_, _)› ?_ | refine only_trd ‹_ = (_, _, _)› ?_ | refine only_fth ‹_ = (_, _, _, _)› ?_
        | (split; all_goals try dsimp only) | apply only_set_tsk | (apply only_mk (e33 := rfl)))
    | exact bit_of hm rfl | exact Or.inl (bit_of hm rfl) | exact Or.inr rfl | exact mask_trans rfl hm
    | exact mask_trans (ctrMask_all _) (mask_trans rfl hm)

theorem only_guardedHere {m : Nat} {a s : State} (x1 x2 x3) (h3 : ∀ s, Only m a s → Only m a (x3 s)) (hm : 0x10000430000080 ||| m = m) (h : Only m a s) : Only m a (State.guardedHere s x1 x2 x3) := by
  unfold State.guardedHere
  try dsimp only
  repeat' first
    | (with_reducible first
        | assumption | (intro _; try dsimp only) | apply h3 | apply only_guarded | (split; all_goals try dsimp only))
    | exact mask_trans rfl hm

theorem only_startTmpl {m : Nat} {a s : State} (x1) (hm : 0x50000b000530800180 ||| m = m) (h : Only m a s) : Only m a (State.startTmpl s x1) := by
  unfold State.startTmpl
  try dsimp only
  repeat' first
    | (with_reducible first
        | assumption | (intro _; try dsimp only) | apply only_lockPins | apply only_raise | apply only_setB
        | apply only_ite | (apply only_ite_snd <;> try dsimp only) | (apply only_ite_fst <;> try dsimp only)
        | refine only_snd ‹_ = (_, _)› ?_ | refine only_fst ‹_ = (_, _)› ?_ | refine only_trd ‹_ = (_, _, _)› ?_
        | refine only_fth ‹_ = (_, _, _, _)› ?_ | (split; all_goals try dsimp only))
    | exact mask_trans rfl hm | exact mask_trans (evMask_all _) (mask_trans rfl hm)
    | exact mask_trans (fieldMask_all _) (mask_trans rfl hm) | apply mask_or

theorem only_tcEnd {m : Nat} {a s : State} (x1 x2) (hm : 0x1000410000080 ||| m = m) (h : Only m a s) : Only m a (State.tcEnd s x1 x2) := by
  unfold State.tcEnd
  try dsimp only
  repeat' first
    | (with_reducible first
        | assumption | (intro _; try dsimp only) | apply only_setN | apply only_raise | apply only_ite
        | (split; all_goals try dsimp only))
    | exact mask_trans rfl hm | exact mask_trans (evMask_all _) (mask_trans rfl hm)
    | exact mask_trans (fieldMask_all _) (mask_trans rfl hm) | apply mask_or

theorem only_tcFenced {m : Nat} {a s : State} (x1 x2) (hm : 0x11000430000080 ||| m = m) (h : Only m a s) : Only m a (State.tcFenced s x1 x2) := by
  unfold State.tcFenced
  try dsimp only
  repeat' first
    | (with_reducible first
        | assumption | (intro _; try dsimp only) | apply only_tcEnd | apply only_fenced)
    | exact mask_trans rfl hm

theorem only_tcAbort {m : Nat} {a s : State} (x1 x2) (hm : 0xfffffba00d30da0191 ||| m = m) (h : Only m a s) : Only m a (State.tcAbort s x1 x2) := by
  unfold State.tcAbort
  try dsimp only
  repeat' first
    | (with_reducible first
        | assumption | (intro _; try dsimp only) | apply only_tcFenced | apply only_tcEnd | apply only_abortTask
        | apply only_fbCtx | apply only_ite | (split; all_goals try dsimp only))
    | exact mask_trans rfl hm

theorem only_tcDmaAbort {m : Nat} {a s : State} (x1 x2) (hm : 0xfffffb800d30ca0191 ||| m = m) (h : Only m a s) : Only m a (State.tcDmaAbort s x1 x2) := by
  unfold State.tcDmaAbort
  try dsimp only
  repeat' first
    | (with_reducible first
        | assumption | (intro _; try dsimp only) | apply only_tcFenced | apply only_tcEnd | apply only_dmaAbort
        | apply only_fbCtx | apply only_ite | (split; all_goals try dsimp only))
    | exact mask_trans rfl hm

theorem only_tcDmaResume {m : Nat} {a s : State} (x1 x2) (hm : 0x40011800430c80090 ||| m = m) (h : Only m a s) : Only m a (State.tcDmaResume s x1 x2) := by
  unfold State.tcDmaResume
  try dsimp only
  repeat' first
    | (with_reducible first
        | assumption | (intro _; try dsimp only) | apply only_tcFenced | apply only_tcEnd | apply only_dmaResume
        | apply only_fbCtx | apply only_ite | (split; all_goals try dsimp only))
    | exact mask_trans rfl hm

theorem only_tcInject {m : Nat} {a s : State} (x1 x2) (hm : 0x8001ffffc30080081 ||| m = m) (h : Only m a s) : Only m a (State.tcInject s x1 x2) := by
  unfold State.tcInject
  try dsimp only
  repeat' first
    | (with_reducible first
        | assumption | (intro _; try dsimp only) | apply only_tcFenced | apply only_sendTok | apply only_tcEnd
        | apply only_ite | (apply only_ite_snd <;> try dsimp only) | (apply only_ite_fst <;> try dsimp only)
        | refine only_snd ‹_ = (_, _)› ?_ | refine only_fst ‹_ = (_, _)› ?_ | refine only_trd ‹_ = (_, _, _)› ?_
        | refine only_fth ‹_ = (_, _, _, _)› ?_ | (split; all_goals try dsimp only))
    | exact mask_trans rfl hm

theorem only_tcRefuse {m : Nat} {a s : State} (x1) (hm : 0x1000410080080 ||| m = m) (h : Only m a s) : Only m a (State.tcRefuse s x1) := by
  unfold State.tcRefuse
  try dsimp only
  repeat' first
    | with_reducible exact Or.inr rfl
    | (with_reducible first
        | assumption | (intro _; try dsimp only) | apply only_raise | apply only_set_tsk
        | (apply only_mk (e33 := rfl)))
    | exact bit_of hm rfl | exact Or.inl (bit_of hm rfl) | exact Or.inr rfl | exact mask_trans rfl hm
    | exact mask_trans (evMask_all _) (mask_trans rfl hm) | apply mask_or

theorem only_tcResume {m : Nat} {a s : State} (x1 x2) (hm : 0x40011000d30480081 ||| m = m) (h : Only m a s) : Only m a (State.tcResume s x1 x2) := by
  unfold State.tcResume
  try dsimp only
  repeat' first
    | (with_reducible first
        | assumption | (intro _; try dsimp only) | apply only_tcFenced | apply only_tcEnd | apply only_ctxResume
        | apply only_ite | (split; all_goals try dsimp only))
    | exact mask_trans rfl hm

theorem only_tcShow {m : Nat} {a s : State} (x1) (hm : 0x100080000 ||| m = m) (h : Only m a s) : Only m a (State.tcShow s x1) := by
  unfold State.tcShow
  try dsimp only
  repeat' first
    | with_reducible exact Or.inr rfl
    | (with_reducible first
        | assumption | (intro _; try dsimp only) | apply only_draw | refine only_snd ‹_ = (_, _)› ?_
        | refine only_fst ‹_ = (_, _)› ?_ | refine only_trd ‹_ = (_, _, _)› ?_ | refine only_fth ‹_ = (_, _, _, _)› ?_
        | (split; all_goals try dsimp only) | apply only_set_tsk | (apply only_mk (e33 := rfl)))
    | exact bit_of hm rfl | exact Or.inl (bit_of hm rfl) | exact Or.inr rfl | exact mask_trans rfl hm

theorem only_tcStart {m : Nat} {a s : State} (x1 x2 x3 x4) (h4 : ∀ s, Only m a s → Only m a (x4 s)) (hm : 0x1000510080080 ||| m = m) (h : Only m a s) : Only m a (State.tcStart s x1 x2 x3 x4) := by
  unfold State.tcStart
  try dsimp only
  repeat' first
    | (with_reducible first
        | assumption | (intro _; try dsimp only) | apply h4 | apply only_tcRefuse | apply only_tcShow
        | apply only_setN | apply only_ite | (split; all_goals try dsimp only))
    | exact mask_trans rfl hm | exact mask_trans (fieldMask_all _) (mask_trans rfl hm)

theorem only_wrFbCfg {m : Nat} {a s : State} (x1) (hm : 0x1000000080000 ||| m = m) (h : Only m a s) : Only m a (State.wrFbCfg s x1) := by
  unfold State.wrFbCfg
  try dsimp only
  repeat' first
    | with_reducible exact Or.inr rfl
    | (with_reducible first
        | assumption | (intro _; try dsimp only) | apply only_setB | apply only_setN | apply only_wrFields
        | apply only_ite | (split; all_goals try dsimp only) | apply only_set_tsk | (apply only_mk (e33 := rfl)))
    | exact bit_of hm rfl | exact Or.inl (bit_of hm rfl) | exact Or.inr rfl | exact mask_trans rfl hm
    | exact mask_trans (fieldMask_all _) (mask_trans rfl hm) | exact mask_trans (fieldsMask_all _) (mask_trans rfl hm)

theorem only_execBudgetExhausted {m : Nat} {a s : State} (x0) (hm : 0xffffeba00d30da0191 ||| m = m) (h : Only m a s) : OnlyR m a (execBudgetExhausted x0 s) := by
  unfold execBudgetExhausted
  try dsimp only
  repeat' first
    | (with_reducible first
        | assumption | (intro _; try dsimp only) | apply onlyR_next | apply only_exception | apply only_ite
        | apply onlyR_ite | (split; all_goals try dsimp only))
    | exact mask_trans rfl hm

theorem only_execCtxAbort {m : Nat} {a s : State} (x0 x1 x2) (hm : 0xfffffba00d30da0191 ||| m = m) (h : Only m a s) : OnlyR m a (execCtxAbort x0 x1 x2 s) := by
  unfold execCtxAbort
  try dsimp only
  repeat' first
    | (with_reducible first
        | assumption | (intro _; try dsimp only) | apply onlyR_next | apply only_tcStart | apply only_tcAbort)
    | exact mask_trans rfl hm

theorem only_execCtxResume {m : Nat} {a s : State} (x0 x1 x2) (hm : 0x40011000d30480081 ||| m = m) (h : Only m a s) : OnlyR m a (execCtxResume x0 x1 x2 s) := by
  unfold execCtxResume
  try dsimp only
  repeat' first
    | (with_reducible first
        | assumption | (intro _; try dsimp only) | apply onlyR_next | apply only_tcStart | apply only_tcResume)
    | exact mask_trans rfl hm

theorem only_execDispatch {m : Nat} {a s : State} (x0) (hm : 0xc0001100d105a0081 ||| m = m) (h : Only m a s) : OnlyR m a (execDispatch x0 s) := by
  unfold execDispatch
  try dsimp only
  repeat' first
    | (with_reducible first
        | assumption | (intro _; try dsimp only) | apply onlyR_next | apply only_wakeCluster | apply only_fireEnt
        | apply only_ite | apply onlyR_ite | (split; all_goals try dsimp only))
    | exact mask_trans rfl hm

theorem only_execDmaAbort {m : Nat} {a s : State} (x0 x1 x2) (hm : 0xfffffb800d30ca0191 ||| m = m) (h : Only m a s) : OnlyR m a (execDmaAbort x0 x1 x2 s) := by
  unfold execDmaAbort
  try dsimp only
  repeat' first
    | (with_reducible first
        | assumption | (intro _; try dsimp only) | apply onlyR_next | apply only_tcStart | apply only_tcDmaAbort)
    | exact mask_trans rfl hm

theorem only_execDmaResume {m : Nat} {a s : State} (x0 x1 x2) (hm : 0x40011800530c80090 ||| m = m) (h : Only m a s) : OnlyR m a (execDmaResume x0 x1 x2 s) := by
  unfold execDmaResume
  try dsimp only
  repeat' first
    | (with_reducible first
        | assumption | (intro _; try dsimp only) | apply onlyR_next | apply only_tcStart | apply only_tcDmaResume)
    | exact mask_trans rfl hm

theorem only_execFaultHoldTimeout {m : Nat} {a s : State} (x0 x1) (hm : 0xffffeba00d30da0191 ||| m = m) (h : Only m a s) : OnlyR m a (execFaultHoldTimeout x0 x1 s) := by
  unfold execFaultHoldTimeout
  try dsimp only
  repeat' first
    | (with_reducible first
        | assumption | (intro _; try dsimp only) | apply onlyR_next | apply only_holdExpired | apply only_dmaEnd
        | apply only_raiseLimited | apply only_bump | apply only_ite | apply onlyR_ite
        | (split; all_goals try dsimp only))
    | exact mask_trans rfl hm | exact mask_trans (evMask_all _) (mask_trans rfl hm)
    | exact mask_trans (ctrMask_all _) (mask_trans rfl hm) | apply mask_or

theorem only_execInject {m : Nat} {a s : State} (x0 x1 x2) (hm : 0x8001ffffd30080081 ||| m = m) (h : Only m a s) : OnlyR m a (execInject x0 x1 x2 s) := by
  unfold execInject
  try dsimp only
  repeat' first
    | (with_reducible first
        | assumption | (intro _; try dsimp only) | apply onlyR_next | apply only_tcStart | apply only_tcInject)
    | exact mask_trans rfl hm

end Sys2Proof.Machine
end

