-- ==== Sys2Proof/Laws/Only6.lean ====
section
/-! SUPPORT. What the operations of the machine may change and what they keep, one lemma each (part 6 of 8). -/

namespace Sys2Proof.Machine

open Sys2Proof

set_option linter.all false
set_option Elab.async false

theorem only_execMatchTimeout {m : Nat} {a s : State} (x0) (hm : 0x900013204300a2280 ||| m = m) (h : Only m a s) : OnlyR m a (execMatchTimeout x0 s) := by
  unfold execMatchTimeout
  try dsimp only
  repeat' first
    | (with_reducible first
        | assumption | (intro _; try dsimp only) | apply onlyR_next | apply only_loseEnt | apply only_fbook
        | apply only_bump | apply only_raiseLimited | apply only_ite | apply onlyR_ite
        | (split; all_goals try dsimp only))
    | exact mask_trans rfl hm | exact mask_trans (evMask_all _) (mask_trans rfl hm)
    | exact mask_trans (ctrMask_all _) (mask_trans rfl hm) | apply mask_or

theorem only_execTokenArrival {m : Nat} {a s : State} (x0 x1 x2 x3 x4 x5) (hm : 0x8001ffffc30080081 ||| m = m) (h : Only m a s) : OnlyR m a (execTokenArrival x0 x1 x2 x3 x4 x5 s) := by
  unfold execTokenArrival
  try dsimp only
  repeat' first
    | (with_reducible first
        | assumption | (intro _; try dsimp only) | apply onlyR_next | apply only_sendTok)
    | exact mask_trans rfl hm

theorem only_execTskCntClr {m : Nat} {a s : State} (x0) (hm : 0x80010000430000080 ||| m = m) (h : Only m a s) : OnlyR m a (execTskCntClr x0 s) := by
  unfold execTskCntClr
  try dsimp only
  repeat' first
    | (with_reducible first
        | assumption | (intro _; try dsimp only) | apply onlyR_next | apply only_guardedHere
        | apply only_clearBlockCtrs)
    | exact mask_trans rfl hm | exact mask_trans (blockMask_all _) (mask_trans rfl hm)

theorem only_execTskFbEn {m : Nat} {a s : State} (x0 x1) (hm : 0x11000430080080 ||| m = m) (h : Only m a s) : OnlyR m a (execTskFbEn x0 x1 s) := by
  unfold execTskFbEn
  try dsimp only
  repeat' first
    | (with_reducible first
        | assumption | (intro _; try dsimp only) | apply onlyR_next | apply only_guardedHere | apply only_wrFbCfg)
    | exact mask_trans rfl hm

theorem only_execTskTtEn {m : Nat} {a s : State} (x0 x1 x2) (hm : 0x51001b3205308a2380 ||| m = m) (h : Only m a s) : OnlyR m a (execTskTtEn x0 x1 x2 s) := by
  unfold execTskTtEn
  try dsimp only
  repeat' first
    | (with_reducible first
        | assumption | (intro _; try dsimp only) | apply onlyR_next | apply only_guarded | apply only_startTmpl
        | apply only_stopTmpl | apply only_ite | apply onlyR_ite | (split; all_goals try dsimp only))
    | exact mask_trans rfl hm

theorem only_dmaStep {m : Nat} {a s : State} (x1 x2 x3) (hm : 0xffffeba00d30da0191 ||| m = m) (h : Only m a s) : Only m a (State.dmaStep s x1 x2 x3).2 := by
  unfold State.dmaStep
  try dsimp only
  repeat' first
    | (with_reducible first
        | assumption | (intro _; try dsimp only) | apply only_dmaRun | apply only_dmaEnd | apply only_dmaRefused
        | apply only_dmaFault | apply only_dmaAbsent | refine only_snd ‹_ = (_, _)› ?_
        | refine only_fst ‹_ = (_, _)› ?_ | refine only_trd ‹_ = (_, _, _)› ?_ | refine only_fth ‹_ = (_, _, _, _)› ?_
        | (split; all_goals try dsimp only))
    | exact mask_trans rfl hm

theorem only_startInv {m : Nat} {a s : State} (x1 x2) (hm : 0x2000410800080 ||| m = m) (h : Only m a s) : Only m a (State.startInv s x1 x2) := by
  unfold State.startInv
  try dsimp only
  repeat' first
    | with_reducible exact Or.inr rfl
    | (with_reducible first
        | assumption | (intro _; try dsimp only) | apply only_raise | apply only_setN | apply only_ite
        | (split; all_goals try dsimp only) | apply only_set_mmu | (apply only_mk (e33 := rfl)))
    | exact bit_of hm rfl | exact Or.inl (bit_of hm rfl) | exact Or.inr rfl | exact mask_trans rfl hm
    | exact mask_trans (evMask_all _) (mask_trans rfl hm) | exact mask_trans (fieldMask_all _) (mask_trans rfl hm)
    | apply mask_or

theorem only_wrRoot {m : Nat} {a s : State} (x1 x2 x3) (hm : 0x1ffffc10000080 ||| m = m) (h : Only m a s) : Only m a (State.wrRoot s x1 x2 x3) := by
  unfold State.wrRoot
  try dsimp only
  repeat' first
    | (with_reducible first
        | assumption | (intro _; try dsimp only) | apply only_raise | apply only_wrFields | apply only_ite
        | (split; all_goals try dsimp only))
    | exact mask_trans rfl hm | exact mask_trans (evMask_all _) (mask_trans rfl hm)
    | exact mask_trans (fieldsMask_all _) (mask_trans rfl hm) | apply mask_or

theorem only_execDmaOutcome {m : Nat} {a s : State} (x0 x1 x2) (hm : 0xfffffffffd31ffb3d5 ||| m = m) (h : Only m a s) : OnlyR m a (execDmaOutcome x0 x1 x2 s) := by
  unfold execDmaOutcome
  try dsimp only
  repeat' first
    | (with_reducible first
        | assumption | (intro _; try dsimp only) | apply onlyR_next | apply only_retireDue | apply only_dmaStep
        | apply only_ite | (apply only_ite_snd <;> try dsimp only) | (apply only_ite_fst <;> try dsimp only)
        | apply onlyR_ite | refine only_snd ‹_ = (_, _)› ?_ | refine only_fst ‹_ = (_, _)› ?_
        | refine only_trd ‹_ = (_, _, _)› ?_ | refine only_fth ‹_ = (_, _, _, _)› ?_
        | (split; all_goals try dsimp only))
    | exact mask_trans rfl hm

theorem only_execDmaSuspend {m : Nat} {a s : State} (x0 x1 x2 x3) (hm : 0xfffffffffd31ffb3d5 ||| m = m) (h : Only m a s) : OnlyR m a (execDmaSuspend x0 x1 x2 x3 s) := by
  unfold execDmaSuspend
  try dsimp only
  repeat' first
    | (with_reducible first
        | assumption | (intro _; try dsimp only) | apply onlyR_next | apply only_dmaStep | apply only_retireDue
        | apply only_ite | (apply only_ite_snd <;> try dsimp only) | (apply only_ite_fst <;> try dsimp only)
        | apply onlyR_ite | refine only_snd ‹_ = (_, _)› ?_ | refine only_fst ‹_ = (_, _)› ?_
        | refine only_trd ‹_ = (_, _, _)› ?_ | refine only_fth ‹_ = (_, _, _, _)› ?_
        | (split; all_goals try dsimp only))
    | exact mask_trans rfl hm

theorem only_execInvalidateAll {m : Nat} {a s : State} (x0 x1) (hm : 0x12000430800080 ||| m = m) (h : Only m a s) : OnlyR m a (execInvalidateAll x0 x1 s) := by
  unfold execInvalidateAll
  try dsimp only
  repeat' first
    | (with_reducible first
        | assumption | (intro _; try dsimp only) | apply onlyR_next | apply only_guardedHere | apply only_startInv)
    | exact mask_trans rfl hm

theorem only_execInvalidateAsid {m : Nat} {a s : State} (x0 x1) (hm : 0x12000430800080 ||| m = m) (h : Only m a s) : OnlyR m a (execInvalidateAsid x0 x1 s) := by
  unfold execInvalidateAsid
  try dsimp only
  repeat' first
    | (with_reducible first
        | assumption | (intro _; try dsimp only) | apply onlyR_next | apply only_guarded | apply only_startInv
        | apply only_ite | apply onlyR_ite | (split; all_goals try dsimp only))
    | exact mask_trans rfl hm

theorem only_execInvalidateRange {m : Nat} {a s : State} (x0 x1) (hm : 0x12000430800080 ||| m = m) (h : Only m a s) : OnlyR m a (execInvalidateRange x0 x1 s) := by
  unfold execInvalidateRange
  try dsimp only
  repeat' first
    | (with_reducible first
        | assumption | (intro _; try dsimp only) | apply onlyR_next | apply only_guarded | apply only_startInv
        | apply only_ite | apply onlyR_ite | (split; all_goals try dsimp only))
    | exact mask_trans rfl hm

theorem only_execInvalidationDone {m : Nat} {a s : State} (hm : 0x2000410800080 ||| m = m) (h : Only m a s) : OnlyR m a (execInvalidationDone s) := by
  unfold execInvalidationDone
  try dsimp only
  repeat' first
    | with_reducible exact Or.inr rfl
    | (with_reducible first
        | assumption | (intro _; try dsimp only) | apply onlyR_next | apply only_setTlb | apply only_raise
        | (apply only_foldl; intro s x hs; try dsimp only) | (apply only_foldl_snd; intro c s x hs; try dsimp only)
        | (apply only_foldl_fst; intro c s x hs; try dsimp only)
        | (apply only_foldl_trd; intro c d s x hs; try dsimp only) | refine only_snd ‹_ = (_, _)› ?_
        | refine only_fst ‹_ = (_, _)› ?_ | refine only_trd ‹_ = (_, _, _)› ?_ | refine only_fth ‹_ = (_, _, _, _)› ?_
        | (split; all_goals try dsimp only) | apply only_set_mmu | (apply only_mk (e33 := rfl)))
    | exact bit_of hm rfl | exact Or.inl (bit_of hm rfl) | exact Or.inr rfl | exact mask_trans rfl hm
    | exact mask_trans (evMask_all _) (mask_trans rfl hm) | apply mask_or

theorem only_execMmuCntClr {m : Nat} {a s : State} (x0) (hm : 0x100010000430000080 ||| m = m) (h : Only m a s) : OnlyR m a (execMmuCntClr x0 s) := by
  unfold execMmuCntClr
  try dsimp only
  repeat' first
    | (with_reducible first
        | assumption | (intro _; try dsimp only) | apply onlyR_next | apply only_guardedHere
        | apply only_clearBlockCtrs)
    | exact mask_trans rfl hm | exact mask_trans (blockMask_all _) (mask_trans rfl hm)

theorem only_execMmuRoot {m : Nat} {a s : State} (x0 x1 x2 x3) (hm : 0x1ffffc30000080 ||| m = m) (h : Only m a s) : OnlyR m a (execMmuRoot x0 x1 x2 x3 s) := by
  unfold execMmuRoot
  try dsimp only
  repeat' first
    | (with_reducible first
        | assumption | (intro _; try dsimp only) | apply onlyR_next | apply only_guarded | apply only_wrRoot
        | apply only_ite | apply onlyR_ite | (split; all_goals try dsimp only))
    | exact mask_trans rfl hm

theorem only_execPriResponse {m : Nat} {a s : State} (x0 x1 x2) (hm : 0xfffffba00d30da0191 ||| m = m) (h : Only m a s) : OnlyR m a (execPriResponse x0 x1 x2 s) := by
  unfold execPriResponse
  try dsimp only
  repeat' first
    | (with_reducible first
        | assumption | (intro _; try dsimp only) | apply onlyR_next | apply only_nextPage | apply only_dmaResume
        | apply only_dmaRefused | apply only_endPages | apply only_raise | apply only_setB | apply only_ite
        | apply onlyR_ite | (split; all_goals try dsimp only))
    | exact mask_trans rfl hm | exact mask_trans (evMask_all _) (mask_trans rfl hm)
    | exact mask_trans (fieldMask_all _) (mask_trans rfl hm) | apply mask_or

theorem only_execPriTimeout {m : Nat} {a s : State} (x0 x1) (hm : 0xffffeba00d30da0191 ||| m = m) (h : Only m a s) : OnlyR m a (execPriTimeout x0 x1 s) := by
  unfold execPriTimeout
  try dsimp only
  repeat' first
    | (with_reducible first
        | assumption | (intro _; try dsimp only) | apply onlyR_next | apply only_dmaRefused | apply only_raiseLimited
        | apply only_ite | apply onlyR_ite | (split; all_goals try dsimp only))
    | exact mask_trans rfl hm | exact mask_trans (evMask_all _) (mask_trans rfl hm) | apply mask_or

theorem only_firstPart {m : Nat} {a s : State} (x1) (hm : 0x100000000 ||| m = m) (h : Only m a s) : Only m a (State.firstPart s x1).2 := by
  unfold State.firstPart
  try dsimp only
  repeat' first
    | (with_reducible first
        | assumption | (intro _; try dsimp only) | apply only_draw | apply only_ite
        | (apply only_ite_snd <;> try dsimp only) | (apply only_ite_fst <;> try dsimp only)
        | refine only_snd ‹_ = (_, _)› ?_ | refine only_fst ‹_ = (_, _)› ?_ | refine only_trd ‹_ = (_, _, _)› ?_
        | refine only_fth ‹_ = (_, _, _, _)› ?_ | (split; all_goals try dsimp only))
    | exact mask_trans rfl hm

theorem only_stampNs {m : Nat} {a s : State} (x1 x2) (hm : 0x100000000 ||| m = m) (h : Only m a s) : Only m a (State.stampNs s x1 x2).2 := by
  unfold State.stampNs
  try dsimp only
  repeat' first
    | (with_reducible first
        | assumption | (intro _; try dsimp only) | apply only_draw | refine only_snd ‹_ = (_, _)› ?_
        | refine only_fst ‹_ = (_, _)› ?_ | refine only_trd ‹_ = (_, _, _)› ?_ | refine only_fth ‹_ = (_, _, _, _)› ?_
        | (split; all_goals try dsimp only))
    | exact mask_trans rfl hm

theorem only_linePkt {m : Nat} {a s : State} (x1 x2 x3 x4 x5 x6) (hm : 0x100000600 ||| m = m) (h : Only m a s) : Only m a (State.linePkt s x1 x2 x3 x4 x5 x6) := by
  unfold State.linePkt
  try dsimp only
  repeat' first
    | (with_reducible first
        | assumption | (intro _; try dsimp only) | apply only_firstPart | apply only_stampNs | apply only_addPkt
        | apply only_ite | (apply only_ite_snd <;> try dsimp only) | (apply only_ite_fst <;> try dsimp only)
        | refine only_snd ‹_ = (_, _)› ?_ | refine only_fst ‹_ = (_, _)› ?_ | refine only_trd ‹_ = (_, _, _)› ?_
        | refine only_fth ‹_ = (_, _, _, _)› ?_ | (split; all_goals try dsimp only))
    | exact mask_trans rfl hm

theorem only_ringCopy {m : Nat} {a s : State} (x1 x2) (hm : 0x600 ||| m = m) (h : Only m a s) : Only m a (State.ringCopy s x1 x2) := by
  unfold State.ringCopy
  try dsimp only
  repeat' first
    | (with_reducible first
        | assumption | (intro _; try dsimp only) | apply only_addPkt | apply only_ite
        | (split; all_goals try dsimp only))
    | exact mask_trans rfl hm

theorem only_arrive {m : Nat} {a s : State} (x1 x2 x3) (hm : 0x10400008510004680 ||| m = m) (h : Only m a s) : Only m a (State.arrive s x1 x2 x3) := by
  unfold State.arrive
  try dsimp only
  repeat' first
    | (with_reducible first
        | assumption | (intro _; try dsimp only) | apply only_redStep | apply only_ringCopy | apply only_linePkt
        | apply only_bump | apply only_draw | apply only_ite | (apply only_ite_snd <;> try dsimp only)
        | (apply only_ite_fst <;> try dsimp only) | refine only_snd ‹_ = (_, _)› ?_ | refine only_fst ‹_ = (_, _)› ?_
        | refine only_trd ‹_ = (_, _, _)› ?_ | refine only_fth ‹_ = (_, _, _, _)› ?_
        | (split; all_goals try dsimp only))
    | exact mask_trans rfl hm | exact mask_trans (ctrMask_all _) (mask_trans rfl hm)

theorem only_badOffered {m : Nat} {a s : State} (x1 x2 x3) (hm : 0xffffe0620430062a80 ||| m = m) (h : Only m a s) : Only m a (State.badOffered s x1 x2 x3) := by
  unfold State.badOffered
  try dsimp only
  repeat' first
    | (with_reducible first
        | assumption | (intro _; try dsimp only) | apply only_dropOffered | apply only_bump | apply only_ite
        | (apply only_ite_snd <;> try dsimp only) | (apply only_ite_fst <;> try dsimp only)
        | refine only_snd ‹_ = (_, _)› ?_ | refine only_fst ‹_ = (_, _)› ?_ | refine only_trd ‹_ = (_, _, _)› ?_
        | refine only_fth ‹_ = (_, _, _, _)› ?_ | (split; all_goals try dsimp only))
    | exact mask_trans rfl hm | exact mask_trans (ctrMask_all _) (mask_trans rfl hm)

theorem only_bufEcc {m : Nat} {a s : State} (x1 x2) (hm : 0x10000200430000080 ||| m = m) (h : Only m a s) : Only m a (State.bufEcc s x1 x2) := by
  unfold State.bufEcc
  try dsimp only
  repeat' first
    | (with_reducible first
        | assumption | (intro _; try dsimp only) | apply only_raiseLimited | apply only_bump | apply only_ite
        | (split; all_goals try dsimp only))
    | exact mask_trans rfl hm | exact mask_trans (evMask_all _) (mask_trans rfl hm)
    | exact mask_trans (ctrMask_all _) (mask_trans rfl hm) | apply mask_or

theorem only_endOffered {m : Nat} {a s : State} (x1 x2 x3 x4) (hm : 0x41040862053007ab80 ||| m = m) (h : Only m a s) : Only m a (State.endOffered s x1 x2 x3 x4) := by
  unfold State.endOffered
  try dsimp only
  repeat' first
    | with_reducible exact Or.inr rfl
    | (with_reducible first
        | assumption | (intro _; try dsimp only) | apply only_lateLen | apply only_setPkt | apply only_cutReplicas
        | apply only_delPkt | apply only_dropPkt | apply only_setBuf | apply only_bump | apply only_ite
        | (apply only_ite_snd <;> try dsimp only) | (apply only_ite_fst <;> try dsimp only)
        | refine only_snd ‹_ = (_, _)› ?_ | refine only_fst ‹_ = (_, _)› ?_ | refine only_trd ‹_ = (_, _, _)› ?_
        | refine only_fth ‹_ = (_, _, _, _)› ?_ | (split; all_goals try dsimp only) | apply only_set_prt
        | (apply only_mk (e33 := rfl)))
    | exact bit_of hm rfl | exact Or.inl (bit_of hm rfl) | exact Or.inr rfl | exact mask_trans rfl hm
    | exact mask_trans (ctrMask_all _) (mask_trans rfl hm)

theorem only_doneOffered {m : Nat} {a s : State} (x1 x2 x3) (hm : 0x41040862853007ef80 ||| m = m) (h : Only m a s) : Only m a (State.doneOffered s x1 x2 x3) := by
  unfold State.doneOffered
  try dsimp only
  repeat' first
    | (with_reducible first
        | assumption | (intro _; try dsimp only) | apply only_redStep | apply only_ringCopy | apply only_dropOffered
        | apply only_endOffered | apply only_ite | (apply only_ite_snd <;> try dsimp only)
        | (apply only_ite_fst <;> try dsimp only) | refine only_snd ‹_ = (_, _)› ?_ | refine only_fst ‹_ = (_, _)› ?_
        | refine only_trd ‹_ = (_, _, _)› ?_ | refine only_fth ‹_ = (_, _, _, _)› ?_
        | (split; all_goals try dsimp only))
    | exact mask_trans rfl hm

theorem only_frameSent {m : Nat} {a s : State} (x1 x2 x3 x4) (hm : 0x800 ||| m = m) (h : Only m a s) : Only m a (State.frameSent s x1 x2 x3 x4) := by
  unfold State.frameSent
  try dsimp only
  repeat' first
    | with_reducible exact Or.inr rfl
    | (with_reducible first
        | assumption | (intro _; try dsimp only) | apply only_ite | (split; all_goals try dsimp only)
        | apply only_set_prt | (apply only_mk (e33 := rfl)))
    | exact bit_of hm rfl | exact Or.inl (bit_of hm rfl) | exact Or.inr rfl | exact mask_trans rfl hm

theorem only_execAutonegComplete {m : Nat} {a s : State} (x0 x1) (hm : 0x10400628430062a80 ||| m = m) (h : Only m a s) : OnlyR m a (execAutonegComplete x0 x1 s) := by
  unfold execAutonegComplete
  try dsimp only
  repeat' first
    | with_reducible exact Or.inr rfl
    | (with_reducible first
        | assumption | (intro _; try dsimp only) | apply onlyR_next | apply only_linkDown | apply only_raise
        | apply only_setB | apply only_ite | apply onlyR_ite | (split; all_goals try dsimp only) | apply only_set_prt
        | (apply only_mk (e33 := rfl)))
    | exact bit_of hm rfl | exact Or.inl (bit_of hm rfl) | exact Or.inr rfl | exact mask_trans rfl hm
    | exact mask_trans (evMask_all _) (mask_trans rfl hm) | exact mask_trans (fieldMask_all _) (mask_trans rfl hm)
    | apply mask_or

theorem only_execExpressOffer {m : Nat} {a s : State} (x0 x1) (hm : 0x100000e00 ||| m = m) (h : Only m a s) : OnlyR m a (execExpressOffer x0 x1 s) := by
  unfold execExpressOffer
  try dsimp only
  repeat' first
    | with_reducible exact Or.inr rfl
    | (with_reducible first
        | assumption | (intro _; try dsimp only) | apply onlyR_next | apply only_linePkt | apply only_ite
        | apply onlyR_ite | (split; all_goals try dsimp only) | apply only_set_prt | (apply only_mk (e33 := rfl)))
    | exact bit_of hm rfl | exact Or.inl (bit_of hm rfl) | exact Or.inr rfl | exact mask_trans rfl hm

theorem only_execFrameReceive {m : Nat} {a s : State} (x0 x1 x2 x3 x4 x5) (hm : 0xffffe862853007ef80 ||| m = m) (h : Only m a s) : OnlyR m a (execFrameReceive x0 x1 x2 x3 x4 x5 s) := by
  unfold execFrameReceive
  try dsimp only
  repeat' first
    | (with_reducible first
        | assumption | (intro _; try dsimp only) | apply onlyR_next | apply only_badOffered | apply only_doneOffered
        | apply only_arrive | apply only_bump | apply only_ite | apply onlyR_ite | (split; all_goals try dsimp only))
    | exact mask_trans rfl hm | exact mask_trans (ctrMask_all _) (mask_trans rfl hm)

theorem only_execLanLoss {m : Nat} {a s : State} (x0) (hm : 0x8410004080 ||| m = m) (h : Only m a s) : OnlyR m a (execLanLoss x0 s) := by
  unfold execLanLoss
  try dsimp only
  repeat' first
    | (with_reducible first
        | assumption | (intro _; try dsimp only) | apply onlyR_next | apply only_setGaz | apply only_raise
        | apply only_ite | apply onlyR_ite | (split; all_goals try dsimp only))
    | exact mask_trans rfl hm | exact mask_trans (evMask_all _) (mask_trans rfl hm) | apply mask_or

theorem only_execLinkBringupFail {m : Nat} {a s : State} (x0) (hm : 0x1040062ac30062a90 ||| m = m) (h : Only m a s) : OnlyR m a (execLinkBringupFail x0 s) := by
  unfold execLinkBringupFail
  try dsimp only
  repeat' first
    | (with_reducible first
        | exact fuse_same rfl | exact fusesKept_put _ _ _ | exact fusesKept_flags _ _)
    | with_reducible exact Or.inr rfl
    | (with_reducible first
        | assumption | (intro _; try dsimp only) | apply onlyR_next | apply only_retireLane | apply only_ite
        | apply onlyR_ite | (split; all_goals try dsimp only) | apply only_set_fus | (apply only_mk (e33 := rfl)))
    | exact bit_of hm rfl | exact Or.inl (bit_of hm rfl)
    | (refine Or.inl ⟨bit_of hm rfl, ?_⟩; with_reducible first | exact fuse_same rfl | exact fusesKept_put _ _ _ | exact fusesKept_flags _ _)
    | exact Or.inr rfl | exact mask_trans rfl hm

theorem only_execLinkDown {m : Nat} {a s : State} (x0) (hm : 0x10400628430062a80 ||| m = m) (h : Only m a s) : OnlyR m a (execLinkDown x0 s) := by
  unfold execLinkDown
  try dsimp only
  repeat' first
    | (with_reducible first
        | assumption | (intro _; try dsimp only) | apply onlyR_next | apply only_linkDown)
    | exact mask_trans rfl hm

theorem only_execLinkUp {m : Nat} {a s : State} (x0) (hm : 0x8410000890 ||| m = m) (h : Only m a s) : OnlyR m a (execLinkUp x0 s) := by
  unfold execLinkUp
  try dsimp only
  repeat' first
    | (with_reducible first
        | exact fuse_same rfl | exact fusesKept_put _ _ _ | exact fusesKept_flags _ _)
    | with_reducible exact Or.inr rfl
    | (with_reducible first
        | assumption | (intro _; try dsimp only) | apply onlyR_next | apply only_startPre | apply only_setB
        | apply only_raise | apply only_ite | apply onlyR_ite | (split; all_goals try dsimp only) | apply only_set_fus
        | (apply only_mk (e33 := rfl)))
    | exact bit_of hm rfl | exact Or.inl (bit_of hm rfl)
    | (refine Or.inl ⟨bit_of hm rfl, ?_⟩; with_reducible first | exact fuse_same rfl | exact fusesKept_put _ _ _ | exact fusesKept_flags _ _)
    | exact Or.inr rfl | exact mask_trans rfl hm | exact mask_trans (evMask_all _) (mask_trans rfl hm)
    | exact mask_trans (fieldMask_all _) (mask_trans rfl hm) | apply mask_or

theorem only_execPartnerEntryExpire {m : Nat} {a s : State} (x0) (hm : 0x4000 ||| m = m) (h : Only m a s) : OnlyR m a (execPartnerEntryExpire x0 s) := by
  unfold execPartnerEntryExpire
  try dsimp only
  repeat' first
    | (with_reducible first
        | assumption | (intro _; try dsimp only) | apply onlyR_next | apply only_setGaz | apply only_ite
        | apply onlyR_ite | (split; all_goals try dsimp only))
    | exact mask_trans rfl hm

theorem only_execPreempt {m : Nat} {a s : State} (x0 x1) (hm : 0x400000000000800 ||| m = m) (h : Only m a s) : OnlyR m a (execPreempt x0 x1 s) := by
  unfold execPreempt
  try dsimp only
  repeat' first
    | with_reducible exact Or.inr rfl
    | (with_reducible first
        | assumption | (intro _; try dsimp only) | apply onlyR_next | apply only_bump | apply only_ite
        | apply onlyR_ite | (split; all_goals try dsimp only) | apply only_set_prt | (apply only_mk (e33 := rfl)))
    | exact bit_of hm rfl | exact Or.inl (bit_of hm rfl) | exact Or.inr rfl | exact mask_trans rfl hm
    | exact mask_trans (ctrMask_all _) (mask_trans rfl hm)

theorem only_execPrtCfg {m : Nat} {a s : State} (x0 x1 x2) (hm : 0xfffff0628c30062a80 ||| m = m) (h : Only m a s) : OnlyR m a (execPrtCfg x0 x1 x2 s) := by
  unfold execPrtCfg
  try dsimp only
  repeat' first
    | (with_reducible first
        | assumption | (intro _; try dsimp only) | apply onlyR_next | apply only_guarded | apply only_wrPrtCfg)
    | exact mask_trans rfl hm

theorem only_execPrtCntClr {m : Nat} {a s : State} (x0 x1) (hm : 0xffffe0000000000000 ||| m = m) (h : Only m a s) : OnlyR m a (execPrtCntClr x0 x1 s) := by
  unfold execPrtCntClr
  try dsimp only
  repeat' first
    | (with_reducible first
        | assumption | (intro _; try dsimp only) | apply onlyR_next | apply only_wrPrtCntClr)
    | exact mask_trans rfl hm

theorem only_execPrtPreCfg {m : Nat} {a s : State} (x0 x1 x2) (hm : 0x10008430000880 ||| m = m) (h : Only m a s) : OnlyR m a (execPrtPreCfg x0 x1 x2 s) := by
  unfold execPrtPreCfg
  try dsimp only
  repeat' first
    | (with_reducible first
        | assumption | (intro _; try dsimp only) | apply onlyR_next | apply only_guarded | apply only_wrPreCfg)
    | exact mask_trans rfl hm

theorem only_execPrtRedCfg {m : Nat} {a s : State} (x0 x1 x2) (hm : 0x10008430000080 ||| m = m) (h : Only m a s) : OnlyR m a (execPrtRedCfg x0 x1 x2 s) := by
  unfold execPrtRedCfg
  try dsimp only
  repeat' first
    | (with_reducible first
        | assumption | (intro _; try dsimp only) | apply onlyR_next | apply only_guarded | apply only_wrRedCfg)
    | exact mask_trans rfl hm

theorem only_execReplicaTransmitted {m : Nat} {a s : State} (x0 x1) (hm : 0x10400204430020880 ||| m = m) (h : Only m a s) : OnlyR m a (execReplicaTransmitted x0 x1 s) := by
  unfold execReplicaTransmitted
  try dsimp only
  repeat' first
    | (with_reducible first
        | assumption | (intro _; try dsimp only) | apply onlyR_next | apply only_frameSent | apply only_bufEcc
        | apply only_endReplica | apply only_raise | apply only_bump | apply only_ite | apply onlyR_ite
        | (split; all_goals try dsimp only))
    | exact mask_trans rfl hm | exact mask_trans (evMask_all _) (mask_trans rfl hm)
    | exact mask_trans (ctrMask_all _) (mask_trans rfl hm) | apply mask_or

theorem only_execVerifyFail {m : Nat} {a s : State} (x0) (hm : 0x8410000080 ||| m = m) (h : Only m a s) : OnlyR m a (execVerifyFail x0 s) := by
  unfold execVerifyFail
  try dsimp only
  repeat' first
    | (with_reducible first
        | assumption | (intro _; try dsimp only) | apply onlyR_next | apply only_setPre | apply only_raise
        | apply only_ite | apply onlyR_ite | (split; all_goals try dsimp only))
    | exact mask_trans rfl hm | exact mask_trans (evMask_all _) (mask_trans rfl hm) | apply mask_or

theorem only_execVerifyResponse {m : Nat} {a s : State} (x0) (hm : 0x8410000080 ||| m = m) (h : Only m a s) : OnlyR m a (execVerifyResponse x0 s) := by
  unfold execVerifyResponse
  try dsimp only
  repeat' first
    | (with_reducible first
        | assumption | (intro _; try dsimp only) | apply onlyR_next | apply only_setPre | apply only_raise
        | apply only_ite | apply onlyR_ite | (split; all_goals try dsimp only))
    | exact mask_trans rfl hm | exact mask_trans (evMask_all _) (mask_trans rfl hm) | apply mask_or

theorem only_execVerifySend {m : Nat} {a s : State} (x0) (hm : 0x800 ||| m = m) (h : Only m a s) : OnlyR m a (execVerifySend x0 s) := by
  unfold execVerifySend
  try dsimp only
  repeat' first
    | with_reducible exact Or.inr rfl
    | (with_reducible first
        | assumption | (intro _; try dsimp only) | apply onlyR_next | apply only_ite | apply onlyR_ite
        | (split; all_goals try dsimp only) | apply only_set_prt | (apply only_mk (e33 := rfl)))
    | exact bit_of hm rfl | exact Or.inl (bit_of hm rfl) | exact Or.inr rfl | exact mask_trans rfl hm

theorem only_execWindowForget {m : Nat} {a s : State} (x0) (hm : 0x4000 ||| m = m) (h : Only m a s) : OnlyR m a (execWindowForget x0 s) := by
  unfold execWindowForget
  try dsimp only
  repeat' first
    | (with_reducible first
        | assumption | (intro _; try dsimp only) | apply onlyR_next | apply only_setGaz | apply only_ite
        | apply onlyR_ite | (split; all_goals try dsimp only))
    | exact mask_trans rfl hm

theorem only_discardParked {m : Nat} {a s : State} (x1 x2) (hm : 0x10000220430022a80 ||| m = m) (h : Only m a s) : Only m a (State.discardParked s x1 x2).1 := by
  unfold State.discardParked
  try dsimp only
  repeat' first
    | with_reducible exact Or.inr rfl
    | (with_reducible first
        | assumption | (intro _; try dsimp only) | apply only_freeBuf | apply only_leaveBank | apply only_delPkt
        | refine only_snd ‹_ = (_, _)› ?_ | refine only_fst ‹_ = (_, _)› ?_ | refine only_trd ‹_ = (_, _, _)› ?_
        | refine only_fth ‹_ = (_, _, _, _)› ?_ | (split; all_goals try dsimp only) | apply only_set_prt
        | (apply only_mk (e33 := rfl)))
    | exact bit_of hm rfl | exact Or.inl (bit_of hm rfl) | exact Or.inr rfl | exact mask_trans rfl hm

theorem only_injected {m : Nat} {a s : State} (x1 x2 x3 x4 x5 x6 x7 x8) (hm : 0x100020600 ||| m = m) (h : Only m a s) : Only m a (State.injected s x1 x2 x3 x4 x5 x6 x7 x8) := by
  unfold State.injected
  try dsimp only
  repeat' first
    | (with_reducible first
        | assumption | (intro _; try dsimp only) | apply only_bufRead | apply only_setBuf | apply only_addPkt
        | refine only_snd ‹_ = (_, _)› ?_ | refine only_fst ‹_ = (_, _)› ?_ | refine only_trd ‹_ = (_, _, _)› ?_
        | refine only_fth ‹_ = (_, _, _, _)› ?_ | (split; all_goals try dsimp only))
    | exact mask_trans rfl hm

theorem only_resumeParked {m : Nat} {a s : State} (x1 x2 x3 x4) (hm : 0x10000200410020280 ||| m = m) (h : Only m a s) : Only m a (State.resumeParked s x1 x2 x3 x4).1 := by
  unfold State.resumeParked
  try dsimp only
  repeat' first
    | with_reducible exact Or.inr rfl
    | (with_reducible first
        | assumption | (intro _; try dsimp only) | apply only_handover | refine only_snd ‹_ = (_, _)› ?_
        | refine only_fst ‹_ = (_, _)› ?_ | refine only_trd ‹_ = (_, _, _)› ?_ | refine only_fth ‹_ = (_, _, _, _)› ?_
        | (split; all_goals try dsimp only) | apply only_set_pkts | (apply only_mk (e33 := rfl)))
    | exact bit_of hm rfl | exact Or.inl (bit_of hm rfl) | exact Or.inr rfl | exact mask_trans rfl hm

theorem only_authAccept {m : Nat} {a s : State} (x1 x2 x3 x4 x5) (hm : 0x100000 ||| m = m) (h : Only m a s) : Only m a (State.authAccept s x1 x2 x3 x4 x5) := by
  unfold State.authAccept
  try dsimp only
  repeat' first
    | with_reducible exact Or.inr rfl
    | (with_reducible first
        | assumption | (intro _; try dsimp only) | apply only_newSeat | refine only_snd ‹_ = (_, _)› ?_
        | refine only_fst ‹_ = (_, _)› ?_ | refine only_trd ‹_ = (_, _, _)› ?_ | refine only_fth ‹_ = (_, _, _, _)› ?_
        | (split; all_goals try dsimp only) | apply only_set_aut | (apply only_mk (e33 := rfl)))
    | exact bit_of hm rfl | exact Or.inl (bit_of hm rfl) | exact Or.inr rfl | exact mask_trans rfl hm

theorem only_authPages {m : Nat} {a s : State} (x1 x2 x3 x4 x5) (hm : 0x50000a000530800180 ||| m = m) (h : Only m a s) : Only m a (State.authPages s x1 x2 x3 x4 x5).2 := by
  induction x4 generalizing s x5 with
  | zero => rw [State.authPages]; exact h
  | succ n ih =>
    rw [State.authPages]
    repeat' first
      | (with_reducible first
          | assumption | (intro _; try dsimp only) | apply ih | apply only_translate | apply only_ite
          | (apply only_ite_snd <;> try dsimp only) | (apply only_ite_fst <;> try dsimp only)
          | refine only_snd ‹_ = (_, _)› ?_ | refine only_fst ‹_ = (_, _)› ?_ | refine only_trd ‹_ = (_, _, _)› ?_
          | refine only_fth ‹_ = (_, _, _, _)› ?_ | (split; all_goals try dsimp only))
      | exact mask_trans rfl hm

theorem only_authRange {m : Nat} {a s : State} (x1 x2 x3 x4 x5) (hm : 0x50000a000530800180 ||| m = m) (h : Only m a s) : Only m a (State.authRange s x1 x2 x3 x4 x5).2 := by
  unfold State.authRange
  try dsimp only
  repeat' first
    | (with_reducible first
        | assumption | (intro _; try dsimp only) | apply only_authPages | apply only_ite
        | (apply only_ite_snd <;> try dsimp only) | (apply only_ite_fst <;> try dsimp only)
        | refine only_snd ‹_ = (_, _)› ?_ | refine only_fst ‹_ = (_, _)› ?_ | refine only_trd ‹_ = (_, _, _)› ?_
        | refine only_fth ‹_ = (_, _, _, _)› ?_ | (split; all_goals try dsimp only))
    | exact mask_trans rfl hm

theorem only_authStart {m : Nat} {a s : State} (x1 x2) (hm : 0x50000a000530800180 ||| m = m) (h : Only m a s) : Only m a (State.authStart s x1 x2).2 := by
  unfold State.authStart
  try dsimp only
  repeat' first
    | (with_reducible first
        | assumption | (intro _; try dsimp only) | apply only_authRange | apply only_ite
        | (apply only_ite_snd <;> try dsimp only) | (apply only_ite_fst <;> try dsimp only)
        | refine only_snd ‹_ = (_, _)› ?_ | refine only_fst ‹_ = (_, _)› ?_ | refine only_trd ‹_ = (_, _, _)› ?_
        | refine only_fth ‹_ = (_, _, _, _)› ?_ | (split; all_goals try dsimp only))
    | exact mask_trans rfl hm

theorem only_unlistBuf {m : Nat} {a s : State} (x1 x2) (hm : 0x400000 ||| m = m) (h : Only m a s) : Only m a (State.unlistBuf s x1 x2) := by
  unfold State.unlistBuf
  try dsimp only
  repeat' first
    | (with_reducible first
        | assumption | (intro _; try dsimp only) | apply only_setCx)
    | exact mask_trans rfl hm

theorem only_bufDone {m : Nat} {a : State} {r : State × Bool} (x1 x2 x3) (hm : 0xffffeba00d30da0191 ||| m = m) (h : Only m a r.1) :
    Only m a (State.bufDone r x1 x2 x3) := by
  unfold State.bufDone
  exact only_ite (only_retireRd _ _ _ (mask_trans rfl hm) (only_unlistBuf _ _ (mask_trans rfl hm) h))
    (only_trapAt _ _ _ _ _ (mask_trans rfl hm) h)

theorem only_copyBuf {m : Nat} {a s : State} (x1 x2 x3) (hm : 0xffffeba00d30da0191 ||| m = m) (h : Only m a s) : Only m a (State.copyBuf s x1 x2 x3) := by
  unfold State.copyBuf
  try dsimp only
  repeat' first
    | (with_reducible first
        | assumption | (intro _; try dsimp only) | apply only_retireRd | apply only_trapAt | apply only_memRead
        | apply only_bufWrite | apply only_bufRead | apply only_memWrite | apply only_ite
        | (apply only_ite_snd <;> try dsimp only) | (apply only_ite_fst <;> try dsimp only)
        | refine only_snd ‹_ = (_, _)› ?_ | refine only_fst ‹_ = (_, _)› ?_ | refine only_trd ‹_ = (_, _, _)› ?_
        | refine only_fth ‹_ = (_, _, _, _)› ?_ | (split; all_goals try dsimp only))
    | exact mask_trans rfl hm

theorem only_drawStall {m : Nat} {a s : State} (x1) (hm : 0x100400000 ||| m = m) (h : Only m a s) : Only m a (State.drawStall s x1) := by
  unfold State.drawStall
  try dsimp only
  repeat' first
    | (with_reducible first
        | assumption | (intro _; try dsimp only) | apply only_setCx | apply only_draw | apply only_ite
        | (apply only_ite_snd <;> try dsimp only) | (apply only_ite_fst <;> try dsimp only)
        | refine only_snd ‹_ = (_, _)› ?_ | refine only_fst ‹_ = (_, _)› ?_ | refine only_trd ‹_ = (_, _, _)› ?_
        | refine only_fth ‹_ = (_, _, _, _)› ?_ | (split; all_goals try dsimp only))
    | exact mask_trans rfl hm

theorem only_sendDest {m : Nat} {a s : State} (x1 x2 x3 x4) (hm : 0xc001ffffc30480081 ||| m = m) (h : Only m a s) : Only m a (State.sendDest s x1 x2 x3 x4).2 := by
  unfold State.sendDest
  try dsimp only
  repeat' first
    | (with_reducible first
        | assumption | (intro _; try dsimp only) | apply only_sendCont | apply only_sendTok | apply only_bump
        | apply only_ite | (apply only_ite_snd <;> try dsimp only) | (apply only_ite_fst <;> try dsimp only)
        | refine only_snd ‹_ = (_, _)› ?_ | refine only_fst ‹_ = (_, _)› ?_ | refine only_trd ‹_ = (_, _, _)› ?_
        | refine only_fth ‹_ = (_, _, _, _)› ?_ | (split; all_goals try dsimp only))
    | exact mask_trans rfl hm | exact mask_trans (ctrMask_all _) (mask_trans rfl hm)

theorem only_emitNow {m : Nat} {a s : State} (x1 x2 x3 x4) (hm : 0xc001ffffc30480081 ||| m = m) (h : Only m a s) : Only m a (State.emitNow s x1 x2 x3 x4).2 := by
  unfold State.emitNow
  try dsimp only
  repeat' first
    | (with_reducible first
        | assumption | (intro _; try dsimp only) | apply only_sendDest | apply only_bump
        | refine only_snd ‹_ = (_, _)› ?_ | refine only_fst ‹_ = (_, _)› ?_ | refine only_trd ‹_ = (_, _, _)› ?_
        | refine only_fth ‹_ = (_, _, _, _)› ?_ | (split; all_goals try dsimp only))
    | exact mask_trans rfl hm | exact mask_trans (ctrMask_all _) (mask_trans rfl hm)

theorem only_emitRef {m : Nat} {a s : State} (x1) (hm : 0x40000800430000080 ||| m = m) (h : Only m a s) : Only m a (State.emitRef s x1) := by
  unfold State.emitRef
  try dsimp only
  repeat' first
    | (with_reducible first
        | assumption | (intro _; try dsimp only) | apply only_raiseLimited | apply only_bump)
    | exact mask_trans rfl hm | exact mask_trans (evMask_all _) (mask_trans rfl hm)
    | exact mask_trans (ctrMask_all _) (mask_trans rfl hm) | apply mask_or

theorem only_listBuf {m : Nat} {a s : State} (x1 x2) (hm : 0x400000 ||| m = m) (h : Only m a s) : Only m a (State.listBuf s x1 x2) := by
  unfold State.listBuf
  try dsimp only
  repeat' first
    | (with_reducible first
        | assumption | (intro _; try dsimp only) | apply only_setCx)
    | exact mask_trans rfl hm

theorem only_sendHeld {m : Nat} {a s : State} (x1 x2) (hm : 0xc001ffffc30480081 ||| m = m) (h : Only m a s) : Only m a (State.sendHeld s x1 x2) := by
  induction x2 generalizing s  with
  | nil => rw [State.sendHeld]; exact h
  | cons z l ih =>
    rw [State.sendHeld]
    repeat' first
      | (with_reducible first
          | assumption | (intro _; try dsimp only) | apply ih | apply only_emitNow | apply only_emitRef
          | apply only_ite | (apply only_ite_snd <;> try dsimp only) | (apply only_ite_fst <;> try dsimp only)
          | refine only_snd ‹_ = (_, _)› ?_ | refine only_fst ‹_ = (_, _)› ?_ | refine only_trd ‹_ = (_, _, _)› ?_
          | refine only_fth ‹_ = (_, _, _, _)› ?_ | (split; all_goals try dsimp only))
      | exact mask_trans rfl hm

theorem only_execAuth {m : Nat} {a s : State} (x0 x1) (hm : 0xfffffffffd31ffb3d5 ||| m = m) (h : Only m a s) : OnlyR m a (execAuth x0 x1 s) := by
  unfold execAuth
  try dsimp only
  repeat' first
    | (with_reducible first
        | assumption | (intro _; try dsimp only) | apply onlyR_next | apply only_issue | apply only_trapAt
        | apply only_memRead | apply only_retireRd | apply only_authStart | apply only_violation | apply only_sendCont
        | apply only_authAccept | apply only_fillLanes | apply only_setCx | apply only_bump | apply only_ite
        | (apply only_ite_snd <;> try dsimp only) | (apply only_ite_fst <;> try dsimp only) | apply onlyR_ite
        | refine only_snd ‹_ = (_, _)› ?_ | refine only_fst ‹_ = (_, _)› ?_ | refine only_trd ‹_ = (_, _, _)› ?_
        | refine only_fth ‹_ = (_, _, _, _)› ?_ | (split; all_goals try dsimp only))
    | exact mask_trans rfl hm | exact mask_trans (ctrMask_all _) (mask_trans rfl hm)

theorem only_execAwait {m : Nat} {a s : State} (x0 x1) (hm : 0xfffffffffd31ffb3d5 ||| m = m) (h : Only m a s) : OnlyR m a (execAwait x0 x1 s) := by
  unfold execAwait
  try dsimp only
  repeat' first
    | (with_reducible first
        | assumption | (intro _; try dsimp only) | apply onlyR_next | apply only_issue | apply only_abortTask
        | apply only_retire | apply only_fbCtx | apply only_setCx | apply only_leaveEngine | apply only_ite
        | apply onlyR_ite | (split; all_goals try dsimp only))
    | exact mask_trans rfl hm

theorem only_execBfree {m : Nat} {a s : State} (x0 x1) (hm : 0xfffffffffd31ffb3d5 ||| m = m) (h : Only m a s) : OnlyR m a (execBfree x0 x1 s) := by
  unfold execBfree
  try dsimp only
  repeat' first
    | (with_reducible first
        | assumption | (intro _; try dsimp only) | apply onlyR_next | apply only_issue | apply only_bufDone
        | apply only_freeBuf)
    | exact mask_trans rfl hm

theorem only_execBrel {m : Nat} {a s : State} (x0 x1) (hm : 0xfffffffffd31ffb3d5 ||| m = m) (h : Only m a s) : OnlyR m a (execBrel x0 x1 s) := by
  unfold execBrel
  try dsimp only
  repeat' first
    | (with_reducible first
        | assumption | (intro _; try dsimp only) | apply onlyR_next | apply only_issue | apply only_bufDone
        | apply only_releaseBuf)
    | exact mask_trans rfl hm

theorem only_execCommit {m : Nat} {a s : State} (x0 x1) (hm : 0xfffffffffd31ffb3d5 ||| m = m) (h : Only m a s) : OnlyR m a (execCommit x0 x1 s) := by
  unfold execCommit
  try dsimp only
  repeat' first
    | (with_reducible first
        | assumption | (intro _; try dsimp only) | apply onlyR_next | apply only_issue | apply only_sendHeld
        | apply only_settleBufs | apply only_freeCtx | apply only_fbCtx | apply only_bump | apply only_ite
        | apply onlyR_ite | (split; all_goals try dsimp only))
    | exact mask_trans rfl hm | exact mask_trans (ctrMask_all _) (mask_trans rfl hm)

theorem only_execDmaq {m : Nat} {a s : State} (x0 x1) (hm : 0xfffffffffd31ffb3d5 ||| m = m) (h : Only m a s) : OnlyR m a (execDmaq x0 x1 s) := by
  unfold execDmaq
  try dsimp only
  repeat' first
    | with_reducible exact Or.inr rfl
    | (with_reducible first
        | assumption | (intro _; try dsimp only) | apply onlyR_next | apply only_issue | apply only_trapAt
        | apply only_memRead | apply only_retireRd | apply only_startDma | apply only_writeDesc | apply only_ite
        | (apply only_ite_snd <;> try dsimp only) | (apply only_ite_fst <;> try dsimp only) | apply onlyR_ite
        | refine only_snd ‹_ = (_, _)› ?_ | refine only_fst ‹_ = (_, _)› ?_ | refine only_trd ‹_ = (_, _, _)› ?_
        | refine only_fth ‹_ = (_, _, _, _)› ?_ | (split; all_goals try dsimp only) | apply only_set_mmu
        | (apply only_mk (e33 := rfl)))
    | exact bit_of hm rfl | exact Or.inl (bit_of hm rfl) | exact Or.inr rfl | exact mask_trans rfl hm

theorem only_execDmaw {m : Nat} {a s : State} (x0 x1) (hm : 0xfffffffffd31ffb3d5 ||| m = m) (h : Only m a s) : OnlyR m a (execDmaw x0 x1 s) := by
  unfold execDmaw
  try dsimp only
  repeat' first
    | (with_reducible first
        | assumption | (intro _; try dsimp only) | apply onlyR_next | apply only_issue | apply only_setCx
        | apply only_leaveEngine | apply only_retireRd | apply only_ite | apply onlyR_ite
        | (split; all_goals try dsimp only))
    | exact mask_trans rfl hm

theorem only_execEmit {m : Nat} {a s : State} (x0 x1) (hm : 0xfffffffffd31ffb3d5 ||| m = m) (h : Only m a s) : OnlyR m a (execEmit x0 x1 s) := by
  unfold execEmit
  try dsimp only
  repeat' first
    | (with_reducible first
        | assumption | (intro _; try dsimp only) | apply onlyR_next | apply only_issue | apply only_emitNow
        | apply only_retireRd | apply only_retire | apply only_ite | (apply only_ite_snd <;> try dsimp only)
        | (apply only_ite_fst <;> try dsimp only) | apply onlyR_ite | refine only_snd ‹_ = (_, _)› ?_
        | refine only_fst ‹_ = (_, _)› ?_ | refine only_trd ‹_ = (_, _, _)› ?_ | refine only_fth ‹_ = (_, _, _, _)› ?_
        | (split; all_goals try dsimp only))
    | exact mask_trans rfl hm

theorem only_execFence {m : Nat} {a s : State} (x0 x1) (hm : 0xfffffffffd31ffb3d5 ||| m = m) (h : Only m a s) : OnlyR m a (execFence x0 x1 s) := by
  unfold execFence
  try dsimp only
  repeat' first
    | (with_reducible first
        | assumption | (intro _; try dsimp only) | apply onlyR_next | apply only_issue | apply only_retire)
    | exact mask_trans rfl hm

theorem only_execGpub {m : Nat} {a s : State} (x0 x1) (hm : 0xfffffffffd31fff3d5 ||| m = m) (h : Only m a s) : OnlyR m a (execGpub x0 x1 s) := by
  unfold execGpub
  try dsimp only
  repeat' first
    | (with_reducible first
        | assumption | (intro _; try dsimp only) | apply onlyR_next | apply only_issue | apply only_trapAt
        | apply only_memRead | apply only_retireRd | apply only_stateChange | apply only_stallAt | apply only_raise
        | apply only_ite | (apply only_ite_snd <;> try dsimp only) | (apply only_ite_fst <;> try dsimp only)
        | apply onlyR_ite | refine only_snd ‹_ = (_, _)› ?_ | refine only_fst ‹_ = (_, _)› ?_
        | refine only_trd ‹_ = (_, _, _)› ?_ | refine only_fth ‹_ = (_, _, _, _)› ?_
        | (split; all_goals try dsimp only))
    | exact mask_trans rfl hm | exact mask_trans (evMask_all _) (mask_trans rfl hm) | apply mask_or

theorem only_execMfs {m : Nat} {a s : State} (x0 x1) (hm : 0xfffffffffd31ffb3d5 ||| m = m) (h : Only m a s) : OnlyR m a (execMfs x0 x1 s) := by
  unfold execMfs
  try dsimp only
  repeat' first
    | (with_reducible first
        | assumption | (intro _; try dsimp only) | apply onlyR_next | apply only_issue | apply only_drawStall
        | apply only_retireRd | apply only_ite | apply onlyR_ite | (split; all_goals try dsimp only))
    | exact mask_trans rfl hm

theorem only_execPkalloc {m : Nat} {a s : State} (x0 x1) (hm : 0xfffffffffd31ffb3d5 ||| m = m) (h : Only m a s) : OnlyR m a (execPkalloc x0 x1 s) := by
  unfold execPkalloc
  try dsimp only
  repeat' first
    | (with_reducible first
        | assumption | (intro _; try dsimp only) | apply onlyR_next | apply only_issue | apply only_retireRd
        | apply only_trapAt | apply only_request | apply only_listBuf | apply only_stallAt | apply only_ite
        | (apply only_ite_snd <;> try dsimp only) | (apply only_ite_fst <;> try dsimp only) | apply onlyR_ite
        | refine only_snd ‹_ = (_, _)› ?_ | refine only_fst ‹_ = (_, _)› ?_ | refine only_trd ‹_ = (_, _, _)› ?_
        | refine only_fth ‹_ = (_, _, _, _)› ?_ | (split; all_goals try dsimp only))
    | exact mask_trans rfl hm

theorem only_execPkdisc {m : Nat} {a s : State} (x0 x1) (hm : 0xfffffffffd31ffbbd5 ||| m = m) (h : Only m a s) : OnlyR m a (execPkdisc x0 x1 s) := by
  unfold execPkdisc
  try dsimp only
  repeat' first
    | (with_reducible first
        | assumption | (intro _; try dsimp only) | apply onlyR_next | apply only_issue | apply only_bufDone
        | apply only_discardParked)
    | exact mask_trans rfl hm

theorem only_execPkrd {m : Nat} {a s : State} (x0 x1) (hm : 0xfffffffffd31ffb3d5 ||| m = m) (h : Only m a s) : OnlyR m a (execPkrd x0 x1 s) := by
  unfold execPkrd
  try dsimp only
  repeat' first
    | (with_reducible first
        | assumption | (intro _; try dsimp only) | apply onlyR_next | apply only_issue | apply only_copyBuf)
    | exact mask_trans rfl hm

theorem only_execPkres {m : Nat} {a s : State} (x0 x1) (hm : 0xfffffffffd31ffb3d5 ||| m = m) (h : Only m a s) : OnlyR m a (execPkres x0 x1 s) := by
  unfold execPkres
  try dsimp only
  repeat' first
    | (with_reducible first
        | assumption | (intro _; try dsimp only) | apply onlyR_next | apply only_issue | apply only_stallAt
        | apply only_bufDone | apply only_resumeParked | apply only_ite | (apply only_ite_snd <;> try dsimp only)
        | (apply only_ite_fst <;> try dsimp only) | apply onlyR_ite | refine only_snd ‹_ = (_, _)› ?_
        | refine only_fst ‹_ = (_, _)› ?_ | refine only_trd ‹_ = (_, _, _)› ?_ | refine only_fth ‹_ = (_, _, _, _)› ?_
        | (split; all_goals try dsimp only))
    | exact mask_trans rfl hm

theorem only_execPksend {m : Nat} {a s : State} (x0 x1) (hm : 0xfffffffffd31ffb7d5 ||| m = m) (h : Only m a s) : OnlyR m a (execPksend x0 x1 s) := by
  unfold execPksend
  try dsimp only
  repeat' first
    | (with_reducible first
        | assumption | (intro _; try dsimp only) | apply onlyR_next | apply only_issue | apply only_trapAt
        | apply only_handover | apply only_retireRd | apply only_stallAt | apply only_unlistBuf | apply only_injected
        | apply only_awaitTs | apply only_bump | apply only_ite | (apply only_ite_snd <;> try dsimp only)
        | (apply only_ite_fst <;> try dsimp only) | apply onlyR_ite | refine only_snd ‹_ = (_, _)› ?_
        | refine only_fst ‹_ = (_, _)› ?_ | refine only_trd ‹_ = (_, _, _)› ?_ | refine only_fth ‹_ = (_, _, _, _)› ?_
        | (split; all_goals try dsimp only))
    | exact mask_trans rfl hm | exact mask_trans (ctrMask_all _) (mask_trans rfl hm)

theorem only_execPkwr {m : Nat} {a s : State} (x0 x1) (hm : 0xfffffffffd31ffb3d5 ||| m = m) (h : Only m a s) : OnlyR m a (execPkwr x0 x1 s) := by
  unfold execPkwr
  try dsimp only
  repeat' first
    | (with_reducible first
        | assumption | (intro _; try dsimp only) | apply onlyR_next | apply only_issue | apply only_copyBuf)
    | exact mask_trans rfl hm

theorem only_execTmcan {m : Nat} {a s : State} (x0 x1) (hm : 0xfffffffffd31ffb3d5 ||| m = m) (h : Only m a s) : OnlyR m a (execTmcan x0 x1 s) := by
  unfold execTmcan
  try dsimp only
  repeat' first
    | with_reducible exact Or.inr rfl
    | (with_reducible first
        | assumption | (intro _; try dsimp only) | apply onlyR_next | apply only_issue | apply only_retireRd
        | apply only_ite | apply onlyR_ite | (split; all_goals try dsimp only) | apply only_set_eng
        | (apply only_mk (e33 := rfl)))
    | exact bit_of hm rfl | exact Or.inl (bit_of hm rfl) | exact Or.inr rfl | exact mask_trans rfl hm

theorem only_execTmset {m : Nat} {a s : State} (x0 x1) (hm : 0xfffffffffd31ffb3d5 ||| m = m) (h : Only m a s) : OnlyR m a (execTmset x0 x1 s) := by
  unfold execTmset
  try dsimp only
  repeat' first
    | with_reducible exact Or.inr rfl
    | (with_reducible first
        | assumption | (intro _; try dsimp only) | apply onlyR_next | apply only_issue | apply only_retireRd
        | apply only_draw | apply only_ite | (apply only_ite_snd <;> try dsimp only)
        | (apply only_ite_fst <;> try dsimp only) | apply onlyR_ite | refine only_snd ‹_ = (_, _)› ?_
        | refine only_fst ‹_ = (_, _)› ?_ | refine only_trd ‹_ = (_, _, _)› ?_ | refine only_fth ‹_ = (_, _, _, _)› ?_
        | (split; all_goals try dsimp only) | apply only_set_eng | (apply only_mk (e33 := rfl)))
    | exact bit_of hm rfl | exact Or.inl (bit_of hm rfl) | exact Or.inr rfl | exact mask_trans rfl hm

theorem only_execTrap {m : Nat} {a s : State} (x0 x1) (hm : 0xfffffffffd31ffb3d5 ||| m = m) (h : Only m a s) : OnlyR m a (execTrap x0 x1 s) := by
  unfold execTrap
  try dsimp only
  repeat' first
    | (with_reducible first
        | assumption | (intro _; try dsimp only) | apply onlyR_next | apply only_issueWhen | apply only_exception
        | apply only_bump | apply only_ite | apply onlyR_ite | (split; all_goals try dsimp only))
    | exact mask_trans rfl hm | exact mask_trans (ctrMask_all _) (mask_trans rfl hm)

theorem only_atomic {m : Nat} {a s : State} (x1 x2 x3 x4) (hm : 0xfffffffffd31ffb3d5 ||| m = m) (h : Only m a s) : Only m a (State.atomic s x1 x2 x3 x4) := by
  unfold State.atomic
  try dsimp only
  repeat' first
    | (with_reducible first
        | assumption | (intro _; try dsimp only) | apply only_issue | apply only_trapAt | apply only_memRead
        | apply only_memFill | apply only_retireRd | apply only_ite | (apply only_ite_snd <;> try dsimp only)
        | (apply only_ite_fst <;> try dsimp only) | refine only_snd ‹_ = (_, _)› ?_ | refine only_fst ‹_ = (_, _)› ?_
        | refine only_trd ‹_ = (_, _, _)› ?_ | refine only_fth ‹_ = (_, _, _, _)› ?_
        | (split; all_goals try dsimp only))
    | exact mask_trans rfl hm

theorem only_loadAt {m : Nat} {a s : State} (x1 x2 x3 x4) (h4 : ∀ s y1, Only m a s → Only m a (x4 s y1)) (hm : 0xffffeba00d30da0191 ||| m = m) (h : Only m a s) : Only m a (State.loadAt s x1 x2 x3 x4) := by
  unfold State.loadAt
  try dsimp only
  repeat' first
    | (with_reducible first
        | assumption | (intro _; try dsimp only) | apply h4 | apply only_trapAt | apply only_ctxLoad | apply only_ite
        | (apply only_ite_snd <;> try dsimp only) | (apply only_ite_fst <;> try dsimp only)
        | refine only_snd ‹_ = (_, _)› ?_ | refine only_fst ‹_ = (_, _)› ?_ | refine only_trd ‹_ = (_, _, _)› ?_
        | refine only_fth ‹_ = (_, _, _, _)› ?_ | (split; all_goals try dsimp only))
    | exact mask_trans rfl hm

theorem only_load {m : Nat} {a s : State} (x1 x2 x3 x4 x5) (hm : 0xfffffffffd31ffb3d5 ||| m = m) (h : Only m a s) : Only m a (State.load s x1 x2 x3 x4 x5) := by
  unfold State.load
  try dsimp only
  repeat' first
    | (with_reducible first
        | assumption | (intro _; try dsimp only) | apply only_issue | apply only_loadAt | apply only_retireRd
        | apply only_ite | (split; all_goals try dsimp only))
    | exact mask_trans rfl hm

theorem only_storeAt {m : Nat} {a s : State} (x1 x2 x3) (hm : 0xffffeba00d30da0191 ||| m = m) (h : Only m a s) : Only m a (State.storeAt s x1 x2 x3) := by
  unfold State.storeAt
  try dsimp only
  repeat' first
    | (with_reducible first
        | assumption | (intro _; try dsimp only) | apply only_trapAt | apply only_ctxStore | apply only_retire
        | apply only_ite | (apply only_ite_snd <;> try dsimp only) | (apply only_ite_fst <;> try dsimp only)
        | refine only_snd ‹_ = (_, _)› ?_ | refine only_fst ‹_ = (_, _)› ?_ | refine only_trd ‹_ = (_, _, _)› ?_
        | refine only_fth ‹_ = (_, _, _, _)› ?_ | (split; all_goals try dsimp only))
    | exact mask_trans rfl hm

theorem only_store {m : Nat} {a s : State} (x1 x2 x3 x4) (hm : 0xfffffffffd31ffb3d5 ||| m = m) (h : Only m a s) : Only m a (State.store s x1 x2 x3 x4) := by
  unfold State.store
  try dsimp only
  repeat' first
    | (with_reducible first
        | assumption | (intro _; try dsimp only) | apply only_issue | apply only_storeAt)
    | exact mask_trans rfl hm

theorem only_execCas {m : Nat} {a s : State} (x0 x1) (hm : 0xfffffffffd31ffb3d5 ||| m = m) (h : Only m a s) : OnlyR m a (execCas x0 x1 s) := by
  unfold execCas
  try dsimp only
  repeat' first
    | (with_reducible first
        | assumption | (intro _; try dsimp only) | apply onlyR_next | apply only_atomic | apply only_ite
        | apply onlyR_ite | (split; all_goals try dsimp only))
    | exact mask_trans rfl hm

theorem only_execLdb {m : Nat} {a s : State} (x0 x1) (hm : 0xfffffffffd31ffb3d5 ||| m = m) (h : Only m a s) : OnlyR m a (execLdb x0 x1 s) := by
  unfold execLdb
  try dsimp only
  repeat' first
    | (with_reducible first
        | assumption | (intro _; try dsimp only) | apply onlyR_next | apply only_load)
    | exact mask_trans rfl hm

theorem only_execLdbu {m : Nat} {a s : State} (x0 x1) (hm : 0xfffffffffd31ffb3d5 ||| m = m) (h : Only m a s) : OnlyR m a (execLdbu x0 x1 s) := by
  unfold execLdbu
  try dsimp only
  repeat' first
    | (with_reducible first
        | assumption | (intro _; try dsimp only) | apply onlyR_next | apply only_load)
    | exact mask_trans rfl hm

theorem only_execLdd {m : Nat} {a s : State} (x0 x1) (hm : 0xfffffffffd31ffb3d5 ||| m = m) (h : Only m a s) : OnlyR m a (execLdd x0 x1 s) := by
  unfold execLdd
  try dsimp only
  repeat' first
    | (with_reducible first
        | assumption | (intro _; try dsimp only) | apply onlyR_next | apply only_load)
    | exact mask_trans rfl hm

theorem only_execLdh {m : Nat} {a s : State} (x0 x1) (hm : 0xfffffffffd31ffb3d5 ||| m = m) (h : Only m a s) : OnlyR m a (execLdh x0 x1 s) := by
  unfold execLdh
  try dsimp only
  repeat' first
    | (with_reducible first
        | assumption | (intro _; try dsimp only) | apply onlyR_next | apply only_load)
    | exact mask_trans rfl hm

theorem only_execLdhu {m : Nat} {a s : State} (x0 x1) (hm : 0xfffffffffd31ffb3d5 ||| m = m) (h : Only m a s) : OnlyR m a (execLdhu x0 x1 s) := by
  unfold execLdhu
  try dsimp only
  repeat' first
    | (with_reducible first
        | assumption | (intro _; try dsimp only) | apply onlyR_next | apply only_load)
    | exact mask_trans rfl hm

theorem only_execLdw {m : Nat} {a s : State} (x0 x1) (hm : 0xfffffffffd31ffb3d5 ||| m = m) (h : Only m a s) : OnlyR m a (execLdw x0 x1 s) := by
  unfold execLdw
  try dsimp only
  repeat' first
    | (with_reducible first
        | assumption | (intro _; try dsimp only) | apply onlyR_next | apply only_load)
    | exact mask_trans rfl hm

theorem only_execLdwu {m : Nat} {a s : State} (x0 x1) (hm : 0xfffffffffd31ffb3d5 ||| m = m) (h : Only m a s) : OnlyR m a (execLdwu x0 x1 s) := by
  unfold execLdwu
  try dsimp only
  repeat' first
    | (with_reducible first
        | assumption | (intro _; try dsimp only) | apply onlyR_next | apply only_load)
    | exact mask_trans rfl hm

theorem only_execStb {m : Nat} {a s : State} (x0 x1) (hm : 0xfffffffffd31ffb3d5 ||| m = m) (h : Only m a s) : OnlyR m a (execStb x0 x1 s) := by
  unfold execStb
  try dsimp only
  repeat' first
    | (with_reducible first
        | assumption | (intro _; try dsimp only) | apply onlyR_next | apply only_store)
    | exact mask_trans rfl hm

theorem only_execStd {m : Nat} {a s : State} (x0 x1) (hm : 0xfffffffffd31ffb3d5 ||| m = m) (h : Only m a s) : OnlyR m a (execStd x0 x1 s) := by
  unfold execStd
  try dsimp only
  repeat' first
    | (with_reducible first
        | assumption | (intro _; try dsimp only) | apply onlyR_next | apply only_store)
    | exact mask_trans rfl hm

theorem only_execSth {m : Nat} {a s : State} (x0 x1) (hm : 0xfffffffffd31ffb3d5 ||| m = m) (h : Only m a s) : OnlyR m a (execSth x0 x1 s) := by
  unfold execSth
  try dsimp only
  repeat' first
    | (with_reducible first
        | assumption | (intro _; try dsimp only) | apply onlyR_next | apply only_store)
    | exact mask_trans rfl hm

theorem only_execStw {m : Nat} {a s : State} (x0 x1) (hm : 0xfffffffffd31ffb3d5 ||| m = m) (h : Only m a s) : OnlyR m a (execStw x0 x1 s) := by
  unfold execStw
  try dsimp only
  repeat' first
    | (with_reducible first
        | assumption | (intro _; try dsimp only) | apply onlyR_next | apply only_store)
    | exact mask_trans rfl hm

theorem only_execVld {m : Nat} {a s : State} (x0 x1) (hm : 0xfffffffffd31ffb3d5 ||| m = m) (h : Only m a s) : OnlyR m a (execVld x0 x1 s) := by
  unfold execVld
  try dsimp only
  repeat' first
    | (with_reducible first
        | assumption | (intro _; try dsimp only) | apply onlyR_next | apply only_issue | apply only_loadAt
        | apply only_retire)
    | exact mask_trans rfl hm

theorem only_execVst {m : Nat} {a s : State} (x0 x1) (hm : 0xfffffffffd31ffb3d5 ||| m = m) (h : Only m a s) : OnlyR m a (execVst x0 x1 s) := by
  unfold execVst
  try dsimp only
  repeat' first
    | (with_reducible first
        | assumption | (intro _; try dsimp only) | apply onlyR_next | apply only_issue | apply only_storeAt)
    | exact mask_trans rfl hm

theorem only_execXadd {m : Nat} {a s : State} (x0 x1) (hm : 0xfffffffffd31ffb3d5 ||| m = m) (h : Only m a s) : OnlyR m a (execXadd x0 x1 s) := by
  unfold execXadd
  try dsimp only
  repeat' first
    | (with_reducible first
        | assumption | (intro _; try dsimp only) | apply onlyR_next | apply only_atomic)
    | exact mask_trans rfl hm

theorem only_timerFire {m : Nat} {a s : State} (x1 x2 x3) (hm : 0xc001ffffc30480081 ||| m = m) (h : Only m a s) : Only m a (State.timerFire s x1 x2 x3) := by
  unfold State.timerFire
  try dsimp only
  repeat' first
    | with_reducible exact Or.inr rfl
    | (with_reducible first
        | assumption | (intro _; try dsimp only) | apply only_sendDest | apply only_emitRef | apply only_bump
        | apply only_ite | (apply only_ite_snd <;> try dsimp only) | (apply only_ite_fst <;> try dsimp only)
        | refine only_snd ‹_ = (_, _)› ?_ | refine only_fst ‹_ = (_, _)› ?_ | refine only_trd ‹_ = (_, _, _)› ?_
        | refine only_fth ‹_ = (_, _, _, _)› ?_ | (split; all_goals try dsimp only) | apply only_set_eng
        | (apply only_mk (e33 := rfl)))
    | exact bit_of hm rfl | exact Or.inl (bit_of hm rfl) | exact Or.inr rfl | exact mask_trans rfl hm
    | exact mask_trans (ctrMask_all _) (mask_trans rfl hm)

theorem only_execContinuationDelivery {m : Nat} {a s : State} (x0) (hm : 0x40001000d10480081 ||| m = m) (h : Only m a s) : OnlyR m a (execContinuationDelivery x0 s) := by
  unfold execContinuationDelivery
  try dsimp only
  repeat' first
    | with_reducible exact Or.inr rfl
    | (with_reducible first
        | assumption | (intro _; try dsimp only) | apply onlyR_next | apply only_deliverCont
        | (split; all_goals try dsimp only) | apply only_set_eng | (apply only_mk (e33 := rfl)))
    | exact bit_of hm rfl | exact Or.inl (bit_of hm rfl) | exact Or.inr rfl | exact mask_trans rfl hm

theorem only_execEngCntClr {m : Nat} {a s : State} (x0) (hm : 0x40010000430000080 ||| m = m) (h : Only m a s) : OnlyR m a (execEngCntClr x0 s) := by
  unfold execEngCntClr
  try dsimp only
  repeat' first
    | (with_reducible first
        | assumption | (intro _; try dsimp only) | apply onlyR_next | apply only_guarded | apply only_clearBlockCtrs)
    | exact mask_trans rfl hm | exact mask_trans (blockMask_all _) (mask_trans rfl hm)

theorem only_execEngMemScrub {m : Nat} {a s : State} (x0 x1 x2) (hm : 0xfffffffffd31ffb3d5 ||| m = m) (h : Only m a s) : OnlyR m a (execEngMemScrub x0 x1 x2 s) := by
  unfold execEngMemScrub
  try dsimp only
  repeat' first
    | with_reducible exact Or.inr rfl
    | (with_reducible first
        | assumption | (intro _; try dsimp only) | apply onlyR_next | apply only_engCheck | apply only_retireDue
        | apply only_ite | (apply only_ite_snd <;> try dsimp only) | (apply only_ite_fst <;> try dsimp only)
        | apply onlyR_ite | refine only_snd ‹_ = (_, _)› ?_ | refine only_fst ‹_ = (_, _)› ?_
        | refine only_trd ‹_ = (_, _, _)› ?_ | refine only_fth ‹_ = (_, _, _, _)› ?_
        | (split; all_goals try dsimp only) | apply only_set_eng | (apply only_mk (e33 := rfl)))
    | exact bit_of hm rfl | exact Or.inl (bit_of hm rfl) | exact Or.inr rfl | exact mask_trans rfl hm

theorem only_execTimerFire {m : Nat} {a s : State} (x0 x1) (hm : 0xc001ffffc30480081 ||| m = m) (h : Only m a s) : OnlyR m a (execTimerFire x0 x1 s) := by
  unfold execTimerFire
  try dsimp only
  repeat' first
    | (with_reducible first
        | assumption | (intro _; try dsimp only) | apply onlyR_next | apply only_timerFire | apply only_ite
        | apply onlyR_ite | (split; all_goals try dsimp only))
    | exact mask_trans rfl hm

theorem only_bar4 {m : Nat} {a s : State} (x1 x2) (hm : 0x80 ||| m = m) (h : Only m a s) : Only m a (State.bar4 s x1 x2) := by
  unfold State.bar4
  try dsimp only
  repeat' first
    | with_reducible exact Or.inr rfl
    | (with_reducible first
        | assumption | (intro _; try dsimp only) | apply only_set_hst | (apply only_mk (e33 := rfl)))
    | exact bit_of hm rfl | exact Or.inl (bit_of hm rfl) | exact Or.inr rfl | exact mask_trans rfl hm

theorem only_bar4None {m : Nat} {a s : State} (x1 x2 x3) (hm : 0x10000430000080 ||| m = m) (h : Only m a s) : Only m a (State.bar4None s x1 x2 x3) := by
  unfold State.bar4None
  try dsimp only
  repeat' first
    | (with_reducible first
        | assumption | (intro _; try dsimp only) | apply only_bar4 | apply only_partitionErr | apply only_ite
        | (split; all_goals try dsimp only))
    | exact mask_trans rfl hm

theorem only_ringErr {m : Nat} {a s : State} (x1) (hm : 0x10000410000080 ||| m = m) (h : Only m a s) : Only m a (State.ringErr s x1) := by
  unfold State.ringErr
  try dsimp only
  repeat' first
    | (with_reducible first
        | assumption | (intro _; try dsimp only) | apply only_raise | apply only_setN)
    | exact mask_trans rfl hm | exact mask_trans (evMask_all _) (mask_trans rfl hm)
    | exact mask_trans (fieldMask_all _) (mask_trans rfl hm) | apply mask_or

theorem only_rxParked {m : Nat} {a s : State} (x1 x2 x3) (hm : 0x800010000000000080 ||| m = m) (h : Only m a s) : Only m a (State.rxParked s x1 x2 x3) := by
  unfold State.rxParked
  try dsimp only
  repeat' first
    | with_reducible exact Or.inr rfl
    | (with_reducible first
        | assumption | (intro _; try dsimp only) | apply only_rxWrite | apply only_set_hst
        | (apply only_mk (e33 := rfl)))
    | exact bit_of hm rfl | exact Or.inl (bit_of hm rfl) | exact Or.inr rfl | exact mask_trans rfl hm

theorem only_rxReplica {m : Nat} {a s : State} (x1 x2 x3 x4) (hm : 0x810010200430020880 ||| m = m) (h : Only m a s) : Only m a (State.rxReplica s x1 x2 x3 x4) := by
  unfold State.rxReplica
  try dsimp only
  repeat' first
    | with_reducible exact Or.inr rfl
    | (with_reducible first
        | assumption | (intro _; try dsimp only) | apply only_rxWrite | apply only_rxNone | apply only_endReplica
        | apply only_ite | (split; all_goals try dsimp only) | apply only_set_prt | (apply only_mk (e33 := rfl)))
    | exact bit_of hm rfl | exact Or.inl (bit_of hm rfl) | exact Or.inr rfl | exact mask_trans rfl hm

theorem only_txSend {m : Nat} {a s : State} (x1 x2 x3 x4) (hm : 0x10010200d30060680 ||| m = m) (h : Only m a s) : Only m a (State.txSend s x1 x2 x3 x4) := by
  unfold State.txSend
  try dsimp only
  repeat' first
    | (with_reducible first
        | assumption | (intro _; try dsimp only) | apply only_request | apply only_oweTx | apply only_freeBuf
        | apply only_injected | apply only_handover | apply only_awaitTs | apply only_raise | apply only_ite
        | (apply only_ite_snd <;> try dsimp only) | (apply only_ite_fst <;> try dsimp only)
        | refine only_snd ‹_ = (_, _)› ?_ | refine only_fst ‹_ = (_, _)› ?_ | refine only_trd ‹_ = (_, _, _)› ?_
        | refine only_fth ‹_ = (_, _, _, _)› ?_ | (split; all_goals try dsimp only))
    | exact mask_trans rfl hm | exact mask_trans (evMask_all _) (mask_trans rfl hm) | apply mask_or

theorem only_wrGrant {m : Nat} {a s : State} (x1 x2 x3) (hm : 0x1ffffc10000080 ||| m = m) (h : Only m a s) : Only m a (State.wrGrant s x1 x2 x3) := by
  unfold State.wrGrant
  try dsimp only
  repeat' first
    | (with_reducible first
        | assumption | (intro _; try dsimp only) | apply only_wrFields | apply only_raise | apply only_ite
        | (split; all_goals try dsimp only))
    | exact mask_trans rfl hm | exact mask_trans (evMask_all _) (mask_trans rfl hm)
    | exact mask_trans (fieldsMask_all _) (mask_trans rfl hm) | apply mask_or

theorem only_wrRingCfg {m : Nat} {a s : State} (x1 x2 x3) (hm : 0x1ffffc10000080 ||| m = m) (h : Only m a s) : Only m a (State.wrRingCfg s x1 x2 x3) := by
  unfold State.wrRingCfg
  try dsimp only
  repeat' first
    | (with_reducible first
        | assumption | (intro _; try dsimp only) | apply only_ringErr | apply only_wrFields | apply only_ite
        | (split; all_goals try dsimp only))
    | exact mask_trans rfl hm | exact mask_trans (fieldsMask_all _) (mask_trans rfl hm)

theorem only_wrRingEn {m : Nat} {a s : State} (x1 x2) (hm : 0x10000410000080 ||| m = m) (h : Only m a s) : Only m a (State.wrRingEn s x1 x2) := by
  unfold State.wrRingEn
  try dsimp only
  repeat' first
    | with_reducible exact Or.inr rfl
    | (with_reducible first
        | assumption | (intro _; try dsimp only) | apply only_ringErr | apply only_setN | apply only_ite
        | (split; all_goals try dsimp only) | apply only_set_hst | (apply only_mk (e33 := rfl)))
    | exact bit_of hm rfl | exact Or.inl (bit_of hm rfl) | exact Or.inr rfl | exact mask_trans rfl hm
    | exact mask_trans (fieldMask_all _) (mask_trans rfl hm)

theorem only_execAtsInvalidate {m : Nat} {a s : State} (x0) (hm : 0x800000000000000000 ||| m = m) (h : Only m a s) : OnlyR m a (execAtsInvalidate x0 s) := by
  unfold execAtsInvalidate
  try dsimp only
  repeat' first
    | (with_reducible first
        | assumption | (intro _; try dsimp only) | apply onlyR_next | apply only_bump)
    | exact mask_trans rfl hm | exact mask_trans (ctrMask_all _) (mask_trans rfl hm)

theorem only_execBar4Access {m : Nat} {a s : State} (x0 x1 x2 x3 x4) (hm : 0x400018000531000180 ||| m = m) (h : Only m a s) : OnlyR m a (execBar4Access x0 x1 x2 x3 x4 s) := by
  unfold execBar4Access
  try dsimp only
  repeat' first
    | with_reducible exact Or.inr rfl
    | (with_reducible first
        | assumption | (intro _; try dsimp only) | apply onlyR_next | apply only_bar4 | apply only_bar4None
        | apply only_hbmWrite | apply only_hbmRead | apply only_freeBytes | apply only_raise | apply only_ite
        | (apply only_ite_snd <;> try dsimp only) | (apply only_ite_fst <;> try dsimp only) | apply onlyR_ite
        | refine only_snd ‹_ = (_, _)› ?_ | refine only_fst ‹_ = (_, _)› ?_ | refine only_trd ‹_ = (_, _, _)› ?_
        | refine only_fth ‹_ = (_, _, _, _)› ?_ | (split; all_goals try dsimp only) | apply only_set_pkm
        | (apply only_mk (e33 := rfl)))
    | exact bit_of hm rfl | exact Or.inl (bit_of hm rfl) | exact Or.inr rfl | exact mask_trans rfl hm
    | exact mask_trans (evMask_all _) (mask_trans rfl hm) | apply mask_or

theorem only_execDoorbell {m : Nat} {a s : State} (x0 x1 x2) (hm : 0x10000430000080 ||| m = m) (h : Only m a s) : OnlyR m a (execDoorbell x0 x1 x2 s) := by
  unfold execDoorbell
  try dsimp only
  repeat' first
    | (with_reducible first
        | assumption | (intro _; try dsimp only) | apply onlyR_next | apply only_ringErr | apply only_partitionErr
        | apply only_setN | apply only_ite | apply onlyR_ite | (split; all_goals try dsimp only))
    | exact mask_trans rfl hm | exact mask_trans (fieldMask_all _) (mask_trans rfl hm)

theorem only_execFlr {m : Nat} {a s : State} (x0) (hm : 0xfffffffffd31ffb3d7 ||| m = m) (h : Only m a s) : OnlyR m a (execFlr x0 s) := by
  unfold execFlr
  try dsimp only
  repeat' first
    | with_reducible exact Or.inr rfl
    | (with_reducible first
        | assumption | (intro _; try dsimp only) | apply onlyR_next | apply only_endLease | apply only_setB
        | apply only_setReg | apply only_raise | apply only_ite | apply onlyR_ite
        | (apply only_foldl; intro s x hs; try dsimp only) | (apply only_foldl_snd; intro c s x hs; try dsimp only)
        | (apply only_foldl_fst; intro c s x hs; try dsimp only)
        | (apply only_foldl_trd; intro c d s x hs; try dsimp only) | refine only_snd ‹_ = (_, _)› ?_
        | refine only_fst ‹_ = (_, _)› ?_ | refine only_trd ‹_ = (_, _, _)› ?_ | refine only_fth ‹_ = (_, _, _, _)› ?_
        | (split; all_goals try dsimp only) | apply only_set_hst | (apply only_mk (e33 := rfl)))
    | exact bit_of hm rfl | exact Or.inl (bit_of hm rfl) | exact Or.inr rfl | exact mask_trans rfl hm
    | exact mask_trans (evMask_all _) (mask_trans rfl hm) | exact mask_trans (fieldMask_all _) (mask_trans rfl hm)
    | apply mask_or

theorem only_execHostLinkDown {m : Nat} {a s : State} (x0) (hm : 0xfffffba00d30da0191 ||| m = m) (h : Only m a s) : OnlyR m a (execHostLinkDown x0 s) := by
  unfold execHostLinkDown
  try dsimp only
  repeat' first
    | (with_reducible first
        | assumption | (intro _; try dsimp only) | apply onlyR_next | apply only_hostDown)
    | exact mask_trans rfl hm

theorem only_execHostLinkUp {m : Nat} {a s : State} (x0 x1) (hm : 0x10000410000080 ||| m = m) (h : Only m a s) : OnlyR m a (execHostLinkUp x0 x1 s) := by
  unfold execHostLinkUp
  try dsimp only
  repeat' first
    | (with_reducible first
        | assumption | (intro _; try dsimp only) | apply onlyR_next | apply only_raise | apply only_setB
        | apply only_ite | apply onlyR_ite | (split; all_goals try dsimp only))
    | exact mask_trans rfl hm | exact mask_trans (evMask_all _) (mask_trans rfl hm)
    | exact mask_trans (fieldMask_all _) (mask_trans rfl hm) | apply mask_or

theorem only_execHstCntClr {m : Nat} {a s : State} (x0) (hm : 0x800010000430000080 ||| m = m) (h : Only m a s) : OnlyR m a (execHstCntClr x0 s) := by
  unfold execHstCntClr
  try dsimp only
  repeat' first
    | (with_reducible first
        | assumption | (intro _; try dsimp only) | apply onlyR_next | apply only_held | apply only_clearBlockCtrs)
    | exact mask_trans rfl hm | exact mask_trans (blockMask_all _) (mask_trans rfl hm)

theorem only_execHstGr {m : Nat} {a s : State} (x0 x1 x2 x3 x4) (hm : 0x1ffffc30000080 ||| m = m) (h : Only m a s) : OnlyR m a (execHstGr x0 x1 x2 x3 x4 s) := by
  unfold execHstGr
  try dsimp only
  repeat' first
    | (with_reducible first
        | assumption | (intro _; try dsimp only) | apply onlyR_next | apply only_held | apply only_wrGrant)
    | exact mask_trans rfl hm

theorem only_execHstRgCfg {m : Nat} {a s : State} (x0 x1 x2 x3) (hm : 0x1ffffc30000080 ||| m = m) (h : Only m a s) : OnlyR m a (execHstRgCfg x0 x1 x2 x3 s) := by
  unfold execHstRgCfg
  try dsimp only
  repeat' first
    | (with_reducible first
        | assumption | (intro _; try dsimp only) | apply onlyR_next | apply only_wrRingCfg | apply only_partitionErr
        | apply only_ite | apply onlyR_ite | (split; all_goals try dsimp only))
    | exact mask_trans rfl hm

theorem only_execHstRgEn {m : Nat} {a s : State} (x0 x1 x2) (hm : 0x10000430000080 ||| m = m) (h : Only m a s) : OnlyR m a (execHstRgEn x0 x1 x2 s) := by
  unfold execHstRgEn
  try dsimp only
  repeat' first
    | (with_reducible first
        | assumption | (intro _; try dsimp only) | apply onlyR_next | apply only_wrRingEn | apply only_partitionErr
        | apply only_ite | apply onlyR_ite | (split; all_goals try dsimp only))
    | exact mask_trans rfl hm

theorem only_execInterruptHoldoff {m : Nat} {a s : State} (x0) (hm : 0x80 ||| m = m) (h : Only m a s) : OnlyR m a (execInterruptHoldoff x0 s) := by
  unfold execInterruptHoldoff
  try dsimp only
  repeat' first
    | with_reducible exact Or.inr rfl
    | (with_reducible first
        | assumption | (intro _; try dsimp only) | apply onlyR_next | apply only_signal | apply only_ite
        | apply onlyR_ite | (split; all_goals try dsimp only) | apply only_set_hst | (apply only_mk (e33 := rfl)))
    | exact bit_of hm rfl | exact Or.inl (bit_of hm rfl) | exact Or.inr rfl | exact mask_trans rfl hm

end Sys2Proof.Machine
end

