-- ==== Sys2Proof/Laws/Only7.lean ====
section
/-! SUPPORT. What the operations of the machine may change and what they keep, one lemma each (part 7 of 8). -/

namespace Sys2Proof.Machine

open Sys2Proof

set_option linter.all false
set_option Elab.async false

theorem only_execLinkStateRequest {m : Nat} {a s : State} (x0 x1) (hm : 0x0 ||| m = m) (h : Only m a s) : OnlyR m a (execLinkStateRequest x0 x1 s) := by
  unfold execLinkStateRequest
  try dsimp only
  repeat' first
    | (with_reducible first
        | assumption | (intro _; try dsimp only) | apply onlyR_next)
    | exact mask_trans rfl hm

theorem only_execPcieConfigWrite {m : Nat} {a s : State} (x0 x1 x2 x3) (hm : 0xfffffba00d30da0191 ||| m = m) (h : Only m a s) : OnlyR m a (execPcieConfigWrite x0 x1 x2 x3 s) := by
  unfold execPcieConfigWrite
  try dsimp only
  repeat' first
    | (with_reducible first
        | assumption | (intro _; try dsimp only) | apply onlyR_next | apply only_endPages | apply only_setB
        | apply only_ite | apply onlyR_ite | (split; all_goals try dsimp only))
    | exact mask_trans rfl hm | exact mask_trans (fieldMask_all _) (mask_trans rfl hm)

theorem only_execRxDelivery {m : Nat} {a s : State} (x0 x1 x2) (hm : 0x810010200430020880 ||| m = m) (h : Only m a s) : OnlyR m a (execRxDelivery x0 x1 x2 s) := by
  unfold execRxDelivery
  try dsimp only
  repeat' first
    | (with_reducible first
        | assumption | (intro _; try dsimp only) | apply onlyR_next | apply only_rxParked | apply only_rxReplica
        | apply only_ite | apply onlyR_ite | (split; all_goals try dsimp only))
    | exact mask_trans rfl hm

theorem only_execTxCompletion {m : Nat} {a s : State} (x0) (hm : 0x800010000000000080 ||| m = m) (h : Only m a s) : OnlyR m a (execTxCompletion x0 s) := by
  unfold execTxCompletion
  try dsimp only
  repeat' first
    | with_reducible exact Or.inr rfl
    | (with_reducible first
        | assumption | (intro _; try dsimp only) | apply onlyR_next | apply only_hostWrite | apply only_ringDone
        | apply only_bump | apply only_setN | apply only_ite | apply onlyR_ite | (split; all_goals try dsimp only)
        | apply only_set_hst | (apply only_mk (e33 := rfl)))
    | exact bit_of hm rfl | exact Or.inl (bit_of hm rfl) | exact Or.inr rfl | exact mask_trans rfl hm
    | exact mask_trans (fieldMask_all _) (mask_trans rfl hm) | exact mask_trans (ctrMask_all _) (mask_trans rfl hm)

theorem only_execTxDiscard {m : Nat} {a s : State} (x0 x1) (hm : 0x10000220430022a80 ||| m = m) (h : Only m a s) : OnlyR m a (execTxDiscard x0 x1 s) := by
  unfold execTxDiscard
  try dsimp only
  repeat' first
    | (with_reducible first
        | assumption | (intro _; try dsimp only) | apply onlyR_next | apply only_oweTx | apply only_discardParked
        | apply only_ite | (apply only_ite_snd <;> try dsimp only) | (apply only_ite_fst <;> try dsimp only)
        | apply onlyR_ite | refine only_snd ‹_ = (_, _)› ?_ | refine only_fst ‹_ = (_, _)› ?_
        | refine only_trd ‹_ = (_, _, _)› ?_ | refine only_fth ‹_ = (_, _, _, _)› ?_
        | (split; all_goals try dsimp only))
    | exact mask_trans rfl hm

theorem only_execTxResume {m : Nat} {a s : State} (x0 x1) (hm : 0x10000200410020280 ||| m = m) (h : Only m a s) : OnlyR m a (execTxResume x0 x1 s) := by
  unfold execTxResume
  try dsimp only
  repeat' first
    | (with_reducible first
        | assumption | (intro _; try dsimp only) | apply onlyR_next | apply only_oweTx | apply only_resumeParked
        | apply only_ite | (apply only_ite_snd <;> try dsimp only) | (apply only_ite_fst <;> try dsimp only)
        | apply onlyR_ite | refine only_snd ‹_ = (_, _)› ?_ | refine only_fst ‹_ = (_, _)› ?_
        | refine only_trd ‹_ = (_, _, _)› ?_ | refine only_fth ‹_ = (_, _, _, _)› ?_
        | (split; all_goals try dsimp only))
    | exact mask_trans rfl hm

theorem only_execTxSend {m : Nat} {a s : State} (x0 x1 x2 x3) (hm : 0x10010200d30060680 ||| m = m) (h : Only m a s) : OnlyR m a (execTxSend x0 x1 x2 x3 s) := by
  unfold execTxSend
  try dsimp only
  repeat' first
    | (with_reducible first
        | assumption | (intro _; try dsimp only) | apply onlyR_next | apply only_oweTx | apply only_txSend
        | apply only_ite | apply onlyR_ite | (split; all_goals try dsimp only))
    | exact mask_trans rfl hm

theorem only_asdus {m : Nat} {a s : State} (x1 x2 x3 x4) (hm : 0x8801ffffc30680081 ||| m = m) (h : Only m a s) : Only m a (State.asdus s x1 x2 x3 x4) := by
  unfold State.asdus
  try dsimp only
  repeat' first
    | (with_reducible first
        | assumption | (intro _; try dsimp only) | apply only_sample
        | (apply only_foldl; intro s x hs; try dsimp only) | (apply only_foldl_snd; intro c s x hs; try dsimp only)
        | (apply only_foldl_fst; intro c s x hs; try dsimp only)
        | (apply only_foldl_trd; intro c d s x hs; try dsimp only))
    | exact mask_trans rfl hm

theorem only_frameFault {m : Nat} {a s : State} (x1 x2) (hm : 0x8801ffffc30680081 ||| m = m) (h : Only m a s) : Only m a (State.frameFault s x1 x2) := by
  unfold State.frameFault
  try dsimp only
  repeat' first
    | (with_reducible first
        | assumption | (intro _; try dsimp only) | apply only_setStream | apply only_setN | apply only_countF
        | apply only_raiseLimited | apply only_ite | (split; all_goals try dsimp only))
    | exact mask_trans rfl hm | exact mask_trans (evMask_all _) (mask_trans rfl hm)
    | exact mask_trans (fieldMask_all _) (mask_trans rfl hm) | apply mask_or

theorem only_svFrame {m : Nat} {a s : State} (x1 x2 x3) (hm : 0x8801ffffc30680081 ||| m = m) (h : Only m a s) : Only m a (State.svFrame s x1 x2 x3) := by
  unfold State.svFrame
  try dsimp only
  repeat' first
    | (with_reducible first
        | assumption | (intro _; try dsimp only) | apply only_frameFault | apply only_setStream | apply only_asdus
        | apply only_bump | apply only_ite | (split; all_goals try dsimp only))
    | exact mask_trans rfl hm | exact mask_trans (ctrMask_all _) (mask_trans rfl hm)

theorem only_wrJg {m : Nat} {a s : State} (x1 x2 x3 x4) (hm : 0x1ffffc10200080 ||| m = m) (h : Only m a s) : Only m a (State.wrJg s x1 x2 x3 x4) := by
  unfold State.wrJg
  try dsimp only
  repeat' first
    | (with_reducible first
        | assumption | (intro _; try dsimp only) | apply only_setGrp | apply only_wrFields | apply only_raise
        | apply only_setN | apply only_ite | (split; all_goals try dsimp only))
    | exact mask_trans rfl hm | exact mask_trans (evMask_all _) (mask_trans rfl hm)
    | exact mask_trans (fieldMask_all _) (mask_trans rfl hm) | exact mask_trans (fieldsMask_all _) (mask_trans rfl hm)
    | apply mask_or

theorem only_wrPubEn {m : Nat} {a s : State} (x1 x2) (hm : 0x1ffffc10240080 ||| m = m) (h : Only m a s) : Only m a (State.wrPubEn s x1 x2) := by
  unfold State.wrPubEn
  try dsimp only
  repeat' first
    | (with_reducible first
        | assumption | (intro _; try dsimp only) | apply only_stopPub | apply only_setPub | apply only_raise
        | apply only_setB | apply only_wrFields | apply only_ite | (split; all_goals try dsimp only))
    | exact mask_trans rfl hm | exact mask_trans (evMask_all _) (mask_trans rfl hm)
    | exact mask_trans (fieldMask_all _) (mask_trans rfl hm) | exact mask_trans (fieldsMask_all _) (mask_trans rfl hm)
    | apply mask_or

theorem only_wrPub {m : Nat} {a s : State} (x1 x2 x3) (hm : 0x1ffffc10240080 ||| m = m) (h : Only m a s) : Only m a (State.wrPub s x1 x2 x3) := by
  unfold State.wrPub
  try dsimp only
  repeat' first
    | (with_reducible first
        | assumption | (intro _; try dsimp only) | apply only_wrPubEn | apply only_raise | apply only_wrFields
        | apply only_setN | apply only_ite | (split; all_goals try dsimp only))
    | exact mask_trans rfl hm | exact mask_trans (evMask_all _) (mask_trans rfl hm)
    | exact mask_trans (fieldMask_all _) (mask_trans rfl hm) | exact mask_trans (fieldsMask_all _) (mask_trans rfl hm)
    | apply mask_or

theorem only_wrSauCfg {m : Nat} {a s : State} (x1) (hm : 0x100410000080 ||| m = m) (h : Only m a s) : Only m a (State.wrSauCfg s x1) := by
  unfold State.wrSauCfg
  try dsimp only
  repeat' first
    | (with_reducible first
        | assumption | (intro _; try dsimp only) | apply only_raise | apply only_wrFields | apply only_ite
        | (split; all_goals try dsimp only))
    | exact mask_trans rfl hm | exact mask_trans (evMask_all _) (mask_trans rfl hm)
    | exact mask_trans (fieldsMask_all _) (mask_trans rfl hm) | apply mask_or

theorem only_wrStEn {m : Nat} {a s : State} (x1 x2) (hm : 0x8801ffffc30680081 ||| m = m) (h : Only m a s) : Only m a (State.wrStEn s x1 x2) := by
  unfold State.wrStEn
  try dsimp only
  repeat' first
    | (with_reducible first
        | assumption | (intro _; try dsimp only) | apply only_setStream | apply only_setStrm | apply only_raise
        | apply only_setB | apply only_wrFields | apply only_ite | (split; all_goals try dsimp only))
    | exact mask_trans rfl hm | exact mask_trans (evMask_all _) (mask_trans rfl hm)
    | exact mask_trans (fieldMask_all _) (mask_trans rfl hm) | exact mask_trans (fieldsMask_all _) (mask_trans rfl hm)
    | apply mask_or

theorem only_wrSt {m : Nat} {a s : State} (x1 x2 x3) (hm : 0x8801ffffc30680081 ||| m = m) (h : Only m a s) : Only m a (State.wrSt s x1 x2 x3) := by
  unfold State.wrSt
  try dsimp only
  repeat' first
    | (with_reducible first
        | assumption | (intro _; try dsimp only) | apply only_wrStEn | apply only_raise | apply only_wrFields
        | apply only_setReg | apply only_setN | apply only_ite | (split; all_goals try dsimp only))
    | exact mask_trans rfl hm | exact mask_trans (evMask_all _) (mask_trans rfl hm)
    | exact mask_trans (fieldMask_all _) (mask_trans rfl hm) | exact mask_trans (fieldsMask_all _) (mask_trans rfl hm)
    | apply mask_or

theorem only_execGooseRetransmit {m : Nat} {a s : State} (hm : 0xffffe4708d30364080 ||| m = m) (h : Only m a s) : OnlyR m a (execGooseRetransmit s) := by
  unfold execGooseRetransmit
  try dsimp only
  repeat' first
    | with_reducible exact Or.inr rfl
    | (with_reducible first
        | assumption | (intro _; try dsimp only) | apply onlyR_next | apply only_retransmit | apply only_ite
        | apply onlyR_ite | (split; all_goals try dsimp only) | apply only_set_tmg | (apply only_mk (e33 := rfl)))
    | exact bit_of hm rfl | exact Or.inl (bit_of hm rfl) | exact Or.inr rfl | exact mask_trans rfl hm

theorem only_execSampleDelivery {m : Nat} {a s : State} (x0) (hm : 0x8801ffffc30680281 ||| m = m) (h : Only m a s) : OnlyR m a (execSampleDelivery x0 s) := by
  unfold execSampleDelivery
  try dsimp only
  repeat' first
    | (with_reducible first
        | assumption | (intro _; try dsimp only) | apply onlyR_next | apply only_setPkt | apply only_svFrame
        | (split; all_goals try dsimp only))
    | exact mask_trans rfl hm

theorem only_execSauCfg {m : Nat} {a s : State} (x0 x1) (hm : 0x10100430000080 ||| m = m) (h : Only m a s) : OnlyR m a (execSauCfg x0 x1 s) := by
  unfold execSauCfg
  try dsimp only
  repeat' first
    | (with_reducible first
        | assumption | (intro _; try dsimp only) | apply onlyR_next | apply only_guarded | apply only_wrSauCfg)
    | exact mask_trans rfl hm

theorem only_execSauCntClr {m : Nat} {a s : State} (x0) (hm : 0x8010000430000080 ||| m = m) (h : Only m a s) : OnlyR m a (execSauCntClr x0 s) := by
  unfold execSauCntClr
  try dsimp only
  repeat' first
    | (with_reducible first
        | assumption | (intro _; try dsimp only) | apply onlyR_next | apply only_guarded | apply only_clearBlockCtrs)
    | exact mask_trans rfl hm | exact mask_trans (blockMask_all _) (mask_trans rfl hm)

theorem only_execSauJgEn {m : Nat} {a s : State} (x0 x1 x2 x3) (hm : 0x1ffffc30200080 ||| m = m) (h : Only m a s) : OnlyR m a (execSauJgEn x0 x1 x2 x3 s) := by
  unfold execSauJgEn
  try dsimp only
  repeat' first
    | (with_reducible first
        | assumption | (intro _; try dsimp only) | apply onlyR_next | apply only_guarded | apply only_wrJg
        | apply only_ite | apply onlyR_ite | (split; all_goals try dsimp only))
    | exact mask_trans rfl hm

theorem only_execSauPubCfg {m : Nat} {a s : State} (x0 x1 x2 x3) (hm : 0x1ffffc30240080 ||| m = m) (h : Only m a s) : OnlyR m a (execSauPubCfg x0 x1 x2 x3 s) := by
  unfold execSauPubCfg
  try dsimp only
  repeat' first
    | (with_reducible first
        | assumption | (intro _; try dsimp only) | apply onlyR_next | apply only_guarded | apply only_wrPub
        | apply only_ite | apply onlyR_ite | (split; all_goals try dsimp only))
    | exact mask_trans rfl hm

theorem only_execSauStCfg {m : Nat} {a s : State} (x0 x1 x2 x3) (hm : 0x8801ffffc30680081 ||| m = m) (h : Only m a s) : OnlyR m a (execSauStCfg x0 x1 x2 x3 s) := by
  unfold execSauStCfg
  try dsimp only
  repeat' first
    | (with_reducible first
        | assumption | (intro _; try dsimp only) | apply onlyR_next | apply only_guarded | apply only_wrSt
        | apply only_ite | apply onlyR_ite | (split; all_goals try dsimp only))
    | exact mask_trans rfl hm

theorem only_execSliceDeadline {m : Nat} {a s : State} (x0) (hm : 0x8801ffffc30680081 ||| m = m) (h : Only m a s) : OnlyR m a (execSliceDeadline x0 s) := by
  unfold execSliceDeadline
  try dsimp only
  repeat' first
    | (with_reducible first
        | assumption | (intro _; try dsimp only) | apply onlyR_next | apply only_closeSlice | apply only_ite
        | apply onlyR_ite | (split; all_goals try dsimp only))
    | exact mask_trans rfl hm

theorem only_execSliceOpen {m : Nat} {a s : State} (x0) (hm : 0x200000 ||| m = m) (h : Only m a s) : OnlyR m a (execSliceOpen x0 s) := by
  unfold execSliceOpen
  try dsimp only
  repeat' first
    | (with_reducible first
        | assumption | (intro _; try dsimp only) | apply onlyR_next | apply only_startGrid | apply only_setGrp
        | apply only_openSlice | apply only_ite | apply onlyR_ite | (split; all_goals try dsimp only))
    | exact mask_trans rfl hm

theorem only_execStreamLoss {m : Nat} {a s : State} (x0) (hm : 0x8801ffffc30680081 ||| m = m) (h : Only m a s) : OnlyR m a (execStreamLoss x0 s) := by
  unfold execStreamLoss
  try dsimp only
  repeat' first
    | (with_reducible first
        | assumption | (intro _; try dsimp only) | apply onlyR_next | apply only_setStream | apply only_raiseLimited
        | apply only_ite | apply onlyR_ite | (split; all_goals try dsimp only))
    | exact mask_trans rfl hm | exact mask_trans (evMask_all _) (mask_trans rfl hm) | apply mask_or

theorem only_clearRc {m : Nat} {a s : State} (x1 x2) (hm : 0x1ffffc00420100 ||| m = m) (h : Only m a s) : Only m a (State.clearRc s x1 x2) := by
  unfold State.clearRc
  try dsimp only
  repeat' first
    | (with_reducible first
        | exact wf_same rfl rfl rfl | exact wf_put _ _ rfl rfl rfl | exact fun _ => wf_nil rfl
        | exact wf_cut _ rfl rfl rfl)
    | with_reducible exact Or.inr rfl
    | (with_reducible first
        | assumption | (intro _; try dsimp only) | apply only_setReg | apply only_ite
        | (split; all_goals try dsimp only) | apply only_set_hbm | apply only_set_swc | apply only_set_eng
        | (apply only_mk (e33 := rfl)))
    | exact bit_of hm rfl | exact Or.inl (bit_of hm rfl)
    | (refine Or.inl ⟨bit_of hm rfl, ?_⟩; with_reducible first | exact wf_same rfl rfl rfl | exact wf_put _ _ rfl rfl rfl | exact fun _ => wf_nil rfl | exact wf_cut _ rfl rfl rfl)
    | exact Or.inr rfl | exact mask_trans rfl hm | exact mask_trans (fieldMask_all _) (mask_trans rfl hm)

theorem only_afterRead {m : Nat} {a s : State} (x1 x2) (hm : 0x1ffffc00420100 ||| m = m) (h : Only m a s) : Only m a (State.afterRead s x1 x2) := by
  unfold State.afterRead
  try dsimp only
  repeat' first
    | (with_reducible first
        | exact wf_same rfl rfl rfl | exact wf_put _ _ rfl rfl rfl | exact fun _ => wf_nil rfl
        | exact wf_cut _ rfl rfl rfl)
    | with_reducible exact Or.inr rfl
    | (with_reducible first
        | assumption | (intro _; try dsimp only) | apply only_clearRc | apply only_ite
        | (apply only_foldl; intro s x hs; try dsimp only) | (apply only_foldl_snd; intro c s x hs; try dsimp only)
        | (apply only_foldl_fst; intro c s x hs; try dsimp only)
        | (apply only_foldl_trd; intro c d s x hs; try dsimp only) | refine only_snd ‹_ = (_, _)› ?_
        | refine only_fst ‹_ = (_, _)› ?_ | refine only_trd ‹_ = (_, _, _)› ?_ | refine only_fth ‹_ = (_, _, _, _)› ?_
        | (split; all_goals try dsimp only) | apply only_set_hbm | apply only_set_swc | apply only_set_eng
        | (apply only_mk (e33 := rfl)))
    | exact bit_of hm rfl | exact Or.inl (bit_of hm rfl)
    | (refine Or.inl ⟨bit_of hm rfl, ?_⟩; with_reducible first | exact wf_same rfl rfl rfl | exact wf_put _ _ rfl rfl rfl | exact fun _ => wf_nil rfl | exact wf_cut _ rfl rfl rfl)
    | exact Or.inr rfl | exact mask_trans rfl hm

theorem only_useRegs {m : Nat} {a s : State} (x1 x2) (hm : 0x800000001 ||| m = m) (h : Only m a s) : Only m a (State.useRegs s x1 x2) := by
  unfold State.useRegs
  try dsimp only
  repeat' first
    | (with_reducible first
        | assumption | (intro _; try dsimp only) | apply only_useDomain | apply only_touchCluster | apply only_ite
        | (apply only_foldl; intro s x hs; try dsimp only) | (apply only_foldl_snd; intro c s x hs; try dsimp only)
        | (apply only_foldl_fst; intro c s x hs; try dsimp only)
        | (apply only_foldl_trd; intro c d s x hs; try dsimp only) | refine only_snd ‹_ = (_, _)› ?_
        | refine only_fst ‹_ = (_, _)› ?_ | refine only_trd ‹_ = (_, _, _)› ?_ | refine only_fth ‹_ = (_, _, _, _)› ?_
        | (split; all_goals try dsimp only))
    | exact mask_trans rfl hm

theorem only_regRead {m : Nat} {a s : State} (x1 x2) (hm : 0x1ffffd08430101 ||| m = m) (h : Only m a s) : Only m a (State.regRead s x1 x2).2 := by
  unfold State.regRead
  try dsimp only
  repeat' first
    | with_reducible exact Or.inr rfl
    | (with_reducible first
        | assumption | (intro _; try dsimp only) | apply only_hitRoll | apply only_useRegs | apply only_afterRead
        | apply only_draw | apply only_setN | apply only_ite | (apply only_ite_snd <;> try dsimp only)
        | (apply only_ite_fst <;> try dsimp only) | (apply only_foldl; intro s x hs; try dsimp only)
        | (apply only_foldl_snd; intro c s x hs; try dsimp only)
        | (apply only_foldl_fst; intro c s x hs; try dsimp only)
        | (apply only_foldl_trd; intro c d s x hs; try dsimp only) | refine only_snd ‹_ = (_, _)› ?_
        | refine only_fst ‹_ = (_, _)› ?_ | refine only_trd ‹_ = (_, _, _)› ?_ | refine only_fth ‹_ = (_, _, _, _)› ?_
        | (split; all_goals try dsimp only) | apply only_set_latch | (apply only_mk (e33 := rfl)))
    | exact bit_of hm rfl | exact Or.inl (bit_of hm rfl) | exact Or.inr rfl | exact mask_trans rfl hm
    | exact mask_trans (fieldMask_all _) (mask_trans rfl hm)

theorem only_execLatchRead {m : Nat} {a s : State} (x0 x1) (hm : 0x1ffffd48430101 ||| m = m) (h : Only m a s) : OnlyR m a (execLatchRead x0 x1 s) := by
  unfold execLatchRead
  try dsimp only
  repeat' first
    | with_reducible exact Or.inr rfl
    | (with_reducible first
        | assumption | (intro _; try dsimp only) | apply onlyR_next | apply only_regRead
        | refine only_snd ‹_ = (_, _)› ?_ | refine only_fst ‹_ = (_, _)› ?_ | refine only_trd ‹_ = (_, _, _)› ?_
        | refine only_fth ‹_ = (_, _, _, _)› ?_ | (split; all_goals try dsimp only) | apply only_set_rdVal
        | (apply only_mk (e33 := rfl)))
    | exact bit_of hm rfl | exact Or.inl (bit_of hm rfl) | exact Or.inr rfl | exact mask_trans rfl hm

theorem only_execReadClear {m : Nat} {a s : State} (x0 x1) (hm : 0x1ffffd48430101 ||| m = m) (h : Only m a s) : OnlyR m a (execReadClear x0 x1 s) := by
  unfold execReadClear
  try dsimp only
  repeat' first
    | with_reducible exact Or.inr rfl
    | (with_reducible first
        | assumption | (intro _; try dsimp only) | apply onlyR_next | apply only_regRead
        | refine only_snd ‹_ = (_, _)› ?_ | refine only_fst ‹_ = (_, _)› ?_ | refine only_trd ‹_ = (_, _, _)› ?_
        | refine only_fth ‹_ = (_, _, _, _)› ?_ | (split; all_goals try dsimp only) | apply only_set_rdVal
        | (apply only_mk (e33 := rfl)))
    | exact bit_of hm rfl | exact Or.inl (bit_of hm rfl) | exact Or.inr rfl | exact mask_trans rfl hm

theorem only_imgEnd {m : Nat} {a s : State} (x1) (hm : 0x400000008 ||| m = m) (h : Only m a s) : Only m a (State.imgEnd s x1) := by
  unfold State.imgEnd
  try dsimp only
  repeat' first
    | with_reducible exact Or.inr rfl
    | (with_reducible first
        | assumption | (intro _; try dsimp only) | apply only_setN | apply only_ite
        | (split; all_goals try dsimp only) | apply only_set_img | (apply only_mk (e33 := rfl)))
    | exact bit_of hm rfl | exact Or.inl (bit_of hm rfl) | exact Or.inr rfl | exact mask_trans rfl hm
    | exact mask_trans (fieldMask_all _) (mask_trans rfl hm)

theorem only_parLoadedRegs {m : Nat} {a s : State} (x1) (hm : 0x10000000000 ||| m = m) (h : Only m a s) : Only m a (State.parLoadedRegs s x1) := by
  unfold State.parLoadedRegs
  try dsimp only
  repeat' first
    | (with_reducible first
        | assumption | (intro _; try dsimp only) | apply only_setN | apply only_setB)
    | exact mask_trans rfl hm | exact mask_trans (fieldMask_all _) (mask_trans rfl hm)

theorem only_loadParser {m : Nat} {a s : State} (x1) (hm : 0x10410001084 ||| m = m) (h : Only m a s) : OnlyO m a (State.loadParser s x1) := by
  unfold State.loadParser
  try dsimp only
  repeat' first
    | with_reducible exact Or.inr rfl
    | (with_reducible first
        | assumption | (intro _; try dsimp only) | apply only_parLoadedRegs | apply only_raise | apply only_ite
        | apply onlyO_ite | apply onlyO_none | apply onlyO_some | apply only_getD
        | (apply only_foldl; intro s x hs; try dsimp only) | (apply only_foldl_snd; intro c s x hs; try dsimp only)
        | (apply only_foldl_fst; intro c s x hs; try dsimp only)
        | (apply only_foldl_trd; intro c d s x hs; try dsimp only) | refine only_snd ‹_ = (_, _)› ?_
        | refine only_fst ‹_ = (_, _)› ?_ | refine only_trd ‹_ = (_, _, _)› ?_ | refine only_fth ‹_ = (_, _, _, _)› ?_
        | refine only_opt ‹_ = some _› ?_ | (split; all_goals try dsimp only) | (apply only_mk (e33 := rfl)))
    | exact bit_of hm rfl | exact Or.inl (bit_of hm rfl) | exact Or.inr rfl | exact mask_trans rfl hm
    | exact mask_trans (evMask_all _) (mask_trans rfl hm) | apply mask_or

theorem only_putImem {m : Nat} {a s : State} (x1 x2 x3) (hm : 0x400000 ||| m = m) (h : Only m a s) : Only m a (State.putImem s x1 x2 x3) := by
  unfold State.putImem
  try dsimp only
  repeat' first
    | with_reducible exact Or.inr rfl
    | (with_reducible first
        | assumption | (intro _; try dsimp only) | apply only_set_eng | (apply only_mk (e33 := rfl)))
    | exact bit_of hm rfl | exact Or.inl (bit_of hm rfl) | exact Or.inr rfl | exact mask_trans rfl hm

theorem only_putSection {m : Nat} {a s : State} (x1 x2 x3) (hm : 0x400000 ||| m = m) (h : Only m a s) : Only m a (State.putSection s x1 x2 x3) := by
  unfold State.putSection
  try dsimp only
  repeat' first
    | (with_reducible first
        | assumption | (intro _; try dsimp only) | apply only_putImem | apply only_memFill
        | (apply only_foldl; intro s x hs; try dsimp only) | (apply only_foldl_snd; intro c s x hs; try dsimp only)
        | (apply only_foldl_fst; intro c s x hs; try dsimp only)
        | (apply only_foldl_trd; intro c d s x hs; try dsimp only) | refine only_snd ‹_ = (_, _)› ?_
        | refine only_fst ‹_ = (_, _)› ?_ | refine only_trd ‹_ = (_, _, _)› ?_ | refine only_fth ‹_ = (_, _, _, _)› ?_
        | (split; all_goals try dsimp only))
    | exact mask_trans rfl hm

theorem only_loadProgram {m : Nat} {a s : State} (x1 x2) (hm : 0x1ffffc10480080 ||| m = m) (h : Only m a s) : Only m a (State.loadProgram s x1 x2).2 := by
  unfold State.loadProgram
  try dsimp only
  repeat' first
    | with_reducible exact Or.inr rfl
    | (with_reducible first
        | assumption | (intro _; try dsimp only) | apply only_putSection | apply only_raise | apply only_setB
        | apply only_setN | apply only_ite | (apply only_ite_snd <;> try dsimp only)
        | (apply only_ite_fst <;> try dsimp only) | (apply only_foldl; intro s x hs; try dsimp only)
        | (apply only_foldl_snd; intro c s x hs; try dsimp only)
        | (apply only_foldl_fst; intro c s x hs; try dsimp only)
        | (apply only_foldl_trd; intro c d s x hs; try dsimp only) | refine only_snd ‹_ = (_, _)› ?_
        | refine only_fst ‹_ = (_, _)› ?_ | refine only_trd ‹_ = (_, _, _)› ?_ | refine only_fth ‹_ = (_, _, _, _)› ?_
        | apply only_id | (split; all_goals try dsimp only) | apply only_set_tsk | apply only_set_eng
        | (apply only_mk (e33 := rfl)))
    | exact bit_of hm rfl | exact Or.inl (bit_of hm rfl) | exact Or.inr rfl | exact mask_trans rfl hm
    | exact mask_trans (evMask_all _) (mask_trans rfl hm) | exact mask_trans (fieldMask_all _) (mask_trans rfl hm)
    | apply mask_or

theorem only_useImage {m : Nat} {a s : State} (x1) (hm : 0x800000001 ||| m = m) (h : Only m a s) : Only m a (State.useImage s x1) := by
  unfold State.useImage
  try dsimp only
  repeat' first
    | (with_reducible first
        | assumption | (intro _; try dsimp only) | apply only_useDomain | apply only_touchCluster | apply only_ite
        | (apply only_foldl; intro s x hs; try dsimp only) | (apply only_foldl_snd; intro c s x hs; try dsimp only)
        | (apply only_foldl_fst; intro c s x hs; try dsimp only)
        | (apply only_foldl_trd; intro c d s x hs; try dsimp only) | refine only_snd ‹_ = (_, _)› ?_
        | refine only_fst ‹_ = (_, _)› ?_ | refine only_trd ‹_ = (_, _, _)› ?_ | refine only_fth ‹_ = (_, _, _, _)› ?_
        | (split; all_goals try dsimp only))
    | exact mask_trans rfl hm

theorem only_applyImage {m : Nat} {a s : State} (x1 x2) (hm : 0x49601ffffd304f918d ||| m = m) (h : Only m a s) : Only m a (State.applyImage s x1 x2) := by
  unfold State.applyImage
  try dsimp only
  repeat' first
    | with_reducible exact Or.inr rfl
    | (with_reducible first
        | assumption | (intro _; try dsimp only) | apply only_imgEnd | apply only_useImage | apply only_loadParser
        | apply only_loadProgram | apply only_applyTable | apply only_raise | apply only_ite
        | (apply only_ite_snd <;> try dsimp only) | (apply only_ite_fst <;> try dsimp only) | apply onlyO_ite
        | apply onlyO_none | apply onlyO_some | apply only_getD | refine only_snd ‹_ = (_, _)› ?_
        | refine only_fst ‹_ = (_, _)› ?_ | refine only_trd ‹_ = (_, _, _)› ?_ | refine only_fth ‹_ = (_, _, _, _)› ?_
        | refine only_opt ‹_ = some _› ?_ | (split; all_goals try dsimp only) | apply only_set_boot
        | apply only_set_img | (apply only_mk (e33 := rfl)))
    | exact bit_of hm rfl | exact Or.inl (bit_of hm rfl) | exact Or.inr rfl | exact mask_trans rfl hm
    | exact mask_trans (evMask_all _) (mask_trans rfl hm) | apply mask_or

theorem only_imgRefuse {m : Nat} {a s : State} (hm : 0x410000080 ||| m = m) (h : Only m a s) : Only m a (State.imgRefuse s) := by
  unfold State.imgRefuse
  try dsimp only
  repeat' first
    | (with_reducible first
        | assumption | (intro _; try dsimp only) | apply only_setN | apply only_raise | apply only_ite
        | (split; all_goals try dsimp only))
    | exact mask_trans rfl hm | exact mask_trans (evMask_all _) (mask_trans rfl hm)
    | exact mask_trans (fieldMask_all _) (mask_trans rfl hm) | apply mask_or

theorem only_imgStart {m : Nat} {a s : State} (x1) (hm : 0x41100008c ||| m = m) (h : Only m a s) : Only m a (State.imgStart s x1) := by
  unfold State.imgStart
  try dsimp only
  repeat' first
    | with_reducible exact Or.inr rfl
    | (with_reducible first
        | assumption | (intro _; try dsimp only) | apply only_setN | apply only_raise | apply only_ite
        | (split; all_goals try dsimp only) | apply only_set_img | (apply only_mk (e33 := rfl)))
    | exact bit_of hm rfl | exact Or.inl (bit_of hm rfl) | exact Or.inr rfl | exact mask_trans rfl hm
    | exact mask_trans (evMask_all _) (mask_trans rfl hm) | exact mask_trans (fieldMask_all _) (mask_trans rfl hm)
    | apply mask_or

theorem only_manifestAt {m : Nat} {a s : State} (x1) (hm : 0x1ffffc10000080 ||| m = m) (h : Only m a s) : Only m a (State.manifestAt s x1).2 := by
  unfold State.manifestAt
  try dsimp only
  repeat' first
    | (with_reducible first
        | assumption | (intro _; try dsimp only) | apply only_raise | refine only_snd ‹_ = (_, _)› ?_
        | refine only_fst ‹_ = (_, _)› ?_ | refine only_trd ‹_ = (_, _, _)› ?_ | refine only_fth ‹_ = (_, _, _, _)› ?_
        | (split; all_goals try dsimp only))
    | exact mask_trans rfl hm | exact mask_trans (evMask_all _) (mask_trans rfl hm) | apply mask_or

theorem only_readManifest {m : Nat} {a s : State} (hm : 0x1ffffc10000080 ||| m = m) (h : Only m a s) : Only m a (State.readManifest s).2 := by
  unfold State.readManifest
  try dsimp only
  repeat' first
    | (with_reducible first
        | assumption | (intro _; try dsimp only) | apply only_manifestAt | refine only_snd ‹_ = (_, _)› ?_
        | refine only_fst ‹_ = (_, _)› ?_ | refine only_trd ‹_ = (_, _, _)› ?_ | refine only_fth ‹_ = (_, _, _, _)› ?_
        | (split; all_goals try dsimp only))
    | exact mask_trans rfl hm

theorem only_resetCluster {m : Nat} {a s : State} (x1) (hm : 0xffffeba00d30da0191 ||| m = m) (h : Only m a s) : Only m a (State.resetCluster s x1) := by
  unfold State.resetCluster
  try dsimp only
  repeat' first
    | with_reducible exact Or.inr rfl
    | (with_reducible first
        | assumption | (intro _; try dsimp only) | apply only_abortCluster | apply only_set_eng
        | (apply only_mk (e33 := rfl)))
    | exact bit_of hm rfl | exact Or.inl (bit_of hm rfl) | exact Or.inr rfl | exact mask_trans rfl hm

theorem only_resetGraticule {m : Nat} {a s : State} (hm : 0x100000240000 ||| m = m) (h : Only m a s) : Only m a (State.resetGraticule s) := by
  unfold State.resetGraticule
  try dsimp only
  repeat' first
    | with_reducible exact Or.inr rfl
    | (with_reducible first
        | assumption | (intro _; try dsimp only) | apply only_discardSlices | apply only_stopPubs | apply only_setN
        | apply only_ite | (apply only_foldl; intro s x hs; try dsimp only)
        | (apply only_foldl_snd; intro c s x hs; try dsimp only)
        | (apply only_foldl_fst; intro c s x hs; try dsimp only)
        | (apply only_foldl_trd; intro c d s x hs; try dsimp only) | refine only_snd ‹_ = (_, _)› ?_
        | refine only_fst ‹_ = (_, _)› ?_ | refine only_trd ‹_ = (_, _, _)› ?_ | refine only_fth ‹_ = (_, _, _, _)› ?_
        | (split; all_goals try dsimp only) | apply only_set_sau | (apply only_mk (e33 := rfl)))
    | exact bit_of hm rfl | exact Or.inl (bit_of hm rfl) | exact Or.inr rfl | exact mask_trans rfl hm
    | exact mask_trans (fieldMask_all _) (mask_trans rfl hm)

theorem only_resetPort {m : Nat} {a s : State} (x1) (hm : 0xffffe0628430062a80 ||| m = m) (h : Only m a s) : Only m a (State.resetPort s x1) := by
  unfold State.resetPort
  try dsimp only
  repeat' first
    | with_reducible exact Or.inr rfl
    | (with_reducible first
        | assumption | (intro _; try dsimp only) | apply only_linkDown | apply only_endReplica | apply only_clearCtrs
        | apply only_ite | (apply only_foldl; intro s x hs; try dsimp only)
        | (apply only_foldl_snd; intro c s x hs; try dsimp only)
        | (apply only_foldl_fst; intro c s x hs; try dsimp only)
        | (apply only_foldl_trd; intro c d s x hs; try dsimp only) | refine only_snd ‹_ = (_, _)› ?_
        | refine only_fst ‹_ = (_, _)› ?_ | refine only_trd ‹_ = (_, _, _)› ?_ | refine only_fth ‹_ = (_, _, _, _)› ?_
        | (split; all_goals try dsimp only) | apply only_set_prt | (apply only_mk (e33 := rfl)))
    | exact bit_of hm rfl | exact Or.inl (bit_of hm rfl) | exact Or.inr rfl | exact mask_trans rfl hm

theorem only_resetTms {m : Nat} {a s : State} (hm : 0x40001ffffd30008180 ||| m = m) (h : Only m a s) : Only m a (State.resetTms s) := by
  unfold State.resetTms
  try dsimp only
  repeat' first
    | (with_reducible first
        | assumption | (intro _; try dsimp only) | apply only_settleJournal | apply only_tblEnd
        | (apply only_foldl; intro s x hs; try dsimp only) | (apply only_foldl_snd; intro c s x hs; try dsimp only)
        | (apply only_foldl_fst; intro c s x hs; try dsimp only)
        | (apply only_foldl_trd; intro c d s x hs; try dsimp only) | refine only_snd ‹_ = (_, _)› ?_
        | refine only_fst ‹_ = (_, _)› ?_ | refine only_trd ‹_ = (_, _, _)› ?_ | refine only_fth ‹_ = (_, _, _, _)› ?_
        | (split; all_goals try dsimp only))
    | exact mask_trans rfl hm

theorem only_subReset {m : Nat} {a s : State} (x1 x2 x3 x4) (h4 : ∀ s, Only m a s → Only m a (x4 s)) (hm : 0x410000084 ||| m = m) (h : Only m a s) : Only m a (State.subReset s x1 x2 x3 x4) := by
  unfold State.subReset
  try dsimp only
  repeat' first
    | with_reducible exact Or.inr rfl
    | (with_reducible first
        | assumption | (intro _; try dsimp only) | apply h4 | apply only_modeRefused | apply only_setN
        | apply only_ite | (split; all_goals try dsimp only) | apply only_set_boot | (apply only_mk (e33 := rfl)))
    | exact bit_of hm rfl | exact Or.inl (bit_of hm rfl) | exact Or.inr rfl | exact mask_trans rfl hm
    | exact mask_trans (fieldMask_all _) (mask_trans rfl hm)

theorem only_takeFirmware {m : Nat} {a s : State} (x1) (hm : 0x1ffffc10000084 ||| m = m) (h : Only m a s) : Only m a (State.takeFirmware s x1) := by
  unfold State.takeFirmware
  try dsimp only
  repeat' first
    | with_reducible exact Or.inr rfl
    | (with_reducible first
        | assumption | (intro _; try dsimp only) | apply only_raise | (split; all_goals try dsimp only)
        | apply only_set_boot | (apply only_mk (e33 := rfl)))
    | exact bit_of hm rfl | exact Or.inl (bit_of hm rfl) | exact Or.inr rfl | exact mask_trans rfl hm
    | exact mask_trans (evMask_all _) (mask_trans rfl hm) | apply mask_or

theorem only_takeManifest {m : Nat} {a s : State} (x1 x2) (hm : 0x1ffffc10000084 ||| m = m) (h : Only m a s) : Only m a (State.takeManifest s x1 x2) := by
  unfold State.takeManifest
  try dsimp only
  repeat' first
    | with_reducible exact Or.inr rfl
    | (with_reducible first
        | assumption | (intro _; try dsimp only) | apply only_takeFirmware | apply only_ite
        | (apply only_foldl; intro s x hs; try dsimp only) | (apply only_foldl_snd; intro c s x hs; try dsimp only)
        | (apply only_foldl_fst; intro c s x hs; try dsimp only)
        | (apply only_foldl_trd; intro c d s x hs; try dsimp only) | refine only_snd ‹_ = (_, _)› ?_
        | refine only_fst ‹_ = (_, _)› ?_ | refine only_trd ‹_ = (_, _, _)› ?_ | refine only_fth ‹_ = (_, _, _, _)› ?_
        | (split; all_goals try dsimp only) | apply only_set_boot | (apply only_mk (e33 := rfl)))
    | exact bit_of hm rfl | exact Or.inl (bit_of hm rfl) | exact Or.inr rfl | exact mask_trans rfl hm

theorem only_execImageLoad {m : Nat} {a s : State} (x0 x1) (hm : 0x1000043100008c ||| m = m) (h : Only m a s) : OnlyR m a (execImageLoad x0 x1 s) := by
  unfold execImageLoad
  try dsimp only
  repeat' first
    | (with_reducible first
        | assumption | (intro _; try dsimp only) | apply onlyR_next | apply only_guarded | apply only_imgRefuse
        | apply only_imgStart | apply only_ite | apply onlyR_ite | (split; all_goals try dsimp only))
    | exact mask_trans rfl hm

theorem only_execImageLoadDone {m : Nat} {a s : State} (hm : 0x49601ffffd304f918d ||| m = m) (h : Only m a s) : OnlyR m a (execImageLoadDone s) := by
  unfold execImageLoadDone
  try dsimp only
  repeat' first
    | (with_reducible first
        | assumption | (intro _; try dsimp only) | apply onlyR_next | apply only_useDomain | apply only_verify
        | apply only_imgEnd | apply only_applyImage | apply only_raise | apply only_ite
        | (apply only_ite_snd <;> try dsimp only) | (apply only_ite_fst <;> try dsimp only) | apply onlyR_ite
        | refine only_snd ‹_ = (_, _)› ?_ | refine only_fst ‹_ = (_, _)› ?_ | refine only_trd ‹_ = (_, _, _)› ?_
        | refine only_fth ‹_ = (_, _, _, _)› ?_ | (split; all_goals try dsimp only))
    | exact mask_trans rfl hm | exact mask_trans (evMask_all _) (mask_trans rfl hm) | apply mask_or

theorem only_execManifestReadDone {m : Nat} {a s : State} (hm : 0xffffffffffffffffff ||| m = m) (h : Only m a s) : OnlyR m a (execManifestReadDone s) := by
  unfold execManifestReadDone
  try dsimp only
  repeat' first
    | (with_reducible first
        | assumption | (intro _; try dsimp only) | apply onlyR_next | apply only_readManifest | apply only_enterMode
        | apply only_takeManifest | apply only_raise | apply only_ite | (apply only_ite_snd <;> try dsimp only)
        | (apply only_ite_fst <;> try dsimp only) | apply onlyR_ite | refine only_snd ‹_ = (_, _)› ?_
        | refine only_fst ‹_ = (_, _)› ?_ | refine only_trd ‹_ = (_, _, _)› ?_ | refine only_fth ‹_ = (_, _, _, _)› ?_
        | (split; all_goals try dsimp only))
    | exact mask_trans rfl hm | exact mask_trans (evMask_all _) (mask_trans rfl hm) | apply mask_or

theorem only_execSubsysResetAuth {m : Nat} {a s : State} (x0) (hm : 0x6d401ffffd305f2b85 ||| m = m) (h : Only m a s) : OnlyR m a (execSubsysResetAuth x0 s) := by
  unfold execSubsysResetAuth
  try dsimp only
  repeat' first
    | (with_reducible first
        | assumption | (intro _; try dsimp only) | apply onlyR_next | apply only_held | apply only_subReset
        | apply only_abortAuth)
    | exact mask_trans rfl hm

theorem only_execSubsysResetCluster {m : Nat} {a s : State} (x0 x1) (hm : 0xfffffba00d30da0195 ||| m = m) (h : Only m a s) : OnlyR m a (execSubsysResetCluster x0 x1 s) := by
  unfold execSubsysResetCluster
  try dsimp only
  repeat' first
    | (with_reducible first
        | assumption | (intro _; try dsimp only) | apply onlyR_next | apply only_held | apply only_subReset
        | apply only_resetCluster)
    | exact mask_trans rfl hm

theorem only_execSubsysResetDone {m : Nat} {a s : State} (hm : 0x4 ||| m = m) (h : Only m a s) : OnlyR m a (execSubsysResetDone s) := by
  unfold execSubsysResetDone
  try dsimp only
  repeat' first
    | with_reducible exact Or.inr rfl
    | (with_reducible first
        | assumption | (intro _; try dsimp only) | apply onlyR_next | apply only_set_boot
        | (apply only_mk (e33 := rfl)))
    | exact bit_of hm rfl | exact Or.inl (bit_of hm rfl) | exact Or.inr rfl | exact mask_trans rfl hm

theorem only_execSubsysResetGraticule {m : Nat} {a s : State} (x0) (hm : 0x10100430240084 ||| m = m) (h : Only m a s) : OnlyR m a (execSubsysResetGraticule x0 s) := by
  unfold execSubsysResetGraticule
  try dsimp only
  repeat' first
    | (with_reducible first
        | assumption | (intro _; try dsimp only) | apply onlyR_next | apply only_held | apply only_subReset
        | apply only_resetGraticule)
    | exact mask_trans rfl hm

theorem only_execSubsysResetPort {m : Nat} {a s : State} (x0 x1) (hm : 0xfffff0628430062a84 ||| m = m) (h : Only m a s) : OnlyR m a (execSubsysResetPort x0 x1 s) := by
  unfold execSubsysResetPort
  try dsimp only
  repeat' first
    | (with_reducible first
        | assumption | (intro _; try dsimp only) | apply onlyR_next | apply only_held | apply only_subReset
        | apply only_resetPort)
    | exact mask_trans rfl hm

theorem only_execSubsysResetTms {m : Nat} {a s : State} (x0) (hm : 0x40001ffffd30008184 ||| m = m) (h : Only m a s) : OnlyR m a (execSubsysResetTms x0 s) := by
  unfold execSubsysResetTms
  try dsimp only
  repeat' first
    | (with_reducible first
        | assumption | (intro _; try dsimp only) | apply onlyR_next | apply only_held | apply only_subReset
        | apply only_resetTms)
    | exact mask_trans rfl hm

theorem only_clearSwc {m : Nat} {a s : State} (hm : 0x1001ffffc00000000 ||| m = m) (h : Only m a s) : Only m a (State.clearSwc s) := by
  unfold State.clearSwc
  try dsimp only
  repeat' first
    | with_reducible exact Or.inr rfl
    | (with_reducible first
        | assumption | (intro _; try dsimp only) | apply only_clearBlockCtrs | (apply only_mk (e33 := rfl)))
    | exact bit_of hm rfl | exact Or.inl (bit_of hm rfl) | exact Or.inl (bits_of hm rfl) | exact Or.inr rfl
    | exact mask_trans rfl hm | exact mask_trans (blockMask_all _) (mask_trans rfl hm)

theorem only_countHand {m : Nat} {a s : State} (x1 x2) (hm : 0x4000080430000080 ||| m = m) (h : Only m a s) : Only m a (State.countHand s x1 x2) := by
  unfold State.countHand
  try dsimp only
  repeat' first
    | (with_reducible first
        | assumption | (intro _; try dsimp only) | apply only_bump | apply only_raiseLimited | apply only_ite
        | (split; all_goals try dsimp only))
    | exact mask_trans rfl hm | exact mask_trans (evMask_all _) (mask_trans rfl hm)
    | exact mask_trans (ctrMask_all _) (mask_trans rfl hm) | apply mask_or

theorem only_handAway {m : Nat} {a s : State} (x1 x2 x3) (hm : 0x9401ffffc300a2a81 ||| m = m) (h : Only m a s) : Only m a (State.handAway s x1 x2 x3) := by
  unfold State.handAway
  try dsimp only
  repeat' first
    | (with_reducible first
        | assumption | (intro _; try dsimp only) | apply only_setBuf | apply only_sendTok | apply only_countHand
        | apply only_toDiscard | apply only_delPkt | apply only_ite | (apply only_ite_snd <;> try dsimp only)
        | (apply only_ite_fst <;> try dsimp only) | refine only_snd ‹_ = (_, _)› ?_ | refine only_fst ‹_ = (_, _)› ?_
        | refine only_trd ‹_ = (_, _, _)› ?_ | refine only_fth ‹_ = (_, _, _, _)› ?_
        | (split; all_goals try dsimp only))
    | exact mask_trans rfl hm

theorem only_layoutApply {m : Nat} {a s : State} (hm : 0x200410020080 ||| m = m) (h : Only m a s) : Only m a (State.layoutApply s) := by
  unfold State.layoutApply
  try dsimp only
  repeat' first
    | with_reducible exact Or.inr rfl
    | (with_reducible first
        | assumption | (intro _; try dsimp only) | apply only_raise | apply only_ite
        | (split; all_goals try dsimp only) | apply only_set_swc | (apply only_mk (e33 := rfl)))
    | exact bit_of hm rfl | exact Or.inl (bit_of hm rfl) | exact Or.inr rfl | exact mask_trans rfl hm
    | exact mask_trans (evMask_all _) (mask_trans rfl hm) | apply mask_or

theorem only_poolRefused {m : Nat} {a s : State} (x1 x2) (hm : 0xffffe0220430022a80 ||| m = m) (h : Only m a s) : Only m a (State.poolRefused s x1 x2) := by
  unfold State.poolRefused
  try dsimp only
  repeat' first
    | (with_reducible first
        | assumption | (intro _; try dsimp only) | apply only_setPkt | apply only_toDiscard | apply only_bump
        | apply only_ite | (split; all_goals try dsimp only))
    | exact mask_trans rfl hm | exact mask_trans (ctrMask_all _) (mask_trans rfl hm)

theorem only_poolTurn {m : Nat} {a s : State} (x1) (hm : 0xffffe0220d30062a80 ||| m = m) (h : Only m a s) : Only m a (State.poolTurn s x1) := by
  unfold State.poolTurn
  try dsimp only
  repeat' first
    | (with_reducible first
        | assumption | (intro _; try dsimp only) | apply only_toDiscard | apply only_poolRefused | apply only_setPkt
        | apply only_request | apply only_bump | apply only_ite | (apply only_ite_snd <;> try dsimp only)
        | (apply only_ite_fst <;> try dsimp only) | refine only_snd ‹_ = (_, _)› ?_ | refine only_fst ‹_ = (_, _)› ?_
        | refine only_trd ‹_ = (_, _, _)› ?_ | refine only_fth ‹_ = (_, _, _, _)› ?_
        | (split; all_goals try dsimp only))
    | exact mask_trans rfl hm | exact mask_trans (ctrMask_all _) (mask_trans rfl hm)

theorem only_replicate {m : Nat} {a s : State} (x1 x2) (hm : 0xb441ffffd300e6a81 ||| m = m) (h : Only m a s) : Only m a (State.replicate s x1 x2) := by
  unfold State.replicate
  try dsimp only
  repeat' first
    | (with_reducible first
        | assumption | (intro _; try dsimp only) | apply only_duplicate | apply only_setBuf | apply only_enqueue
        | apply only_sendTok | apply only_countHand | apply only_releaseBuf | apply only_toDiscard | apply only_delPkt
        | apply only_handAway | apply only_setPkt | apply only_bump | apply only_countF | apply only_ite
        | (apply only_ite_snd <;> try dsimp only) | (apply only_ite_fst <;> try dsimp only)
        | (apply only_foldl; intro s x hs; try dsimp only) | (apply only_foldl_snd; intro c s x hs; try dsimp only)
        | (apply only_foldl_fst; intro c s x hs; try dsimp only)
        | (apply only_foldl_trd; intro c d s x hs; try dsimp only) | refine only_snd ‹_ = (_, _)› ?_
        | refine only_fst ‹_ = (_, _)› ?_ | refine only_trd ‹_ = (_, _, _)› ?_ | refine only_fth ‹_ = (_, _, _, _)› ?_
        | (split; all_goals try dsimp only))
    | exact mask_trans rfl hm | exact mask_trans (fieldMask_all _) (mask_trans rfl hm)
    | exact mask_trans (ctrMask_all _) (mask_trans rfl hm)

theorem only_wrRgHigh {m : Nat} {a s : State} (x1 x2) (hm : 0x200000020000 ||| m = m) (h : Only m a s) : Only m a (State.wrRgHigh s x1 x2) := by
  unfold State.wrRgHigh
  try dsimp only
  repeat' first
    | with_reducible exact Or.inr rfl
    | (with_reducible first
        | assumption | (intro _; try dsimp only) | apply only_setN | apply only_setB | apply only_set_swc
        | (apply only_mk (e33 := rfl)))
    | exact bit_of hm rfl | exact Or.inl (bit_of hm rfl) | exact Or.inr rfl | exact mask_trans rfl hm
    | exact mask_trans (fieldMask_all _) (mask_trans rfl hm)

theorem only_execPoolRequest {m : Nat} {a s : State} (hm : 0xffffe0220d30062a80 ||| m = m) (h : Only m a s) : OnlyR m a (execPoolRequest s) := by
  unfold execPoolRequest
  try dsimp only
  repeat' first
    | with_reducible exact Or.inr rfl
    | (with_reducible first
        | assumption | (intro _; try dsimp only) | apply onlyR_next | apply only_poolTurn | apply only_ite
        | apply onlyR_ite | (split; all_goals try dsimp only) | apply only_set_swc | (apply only_mk (e33 := rfl)))
    | exact bit_of hm rfl | exact Or.inl (bit_of hm rfl) | exact Or.inr rfl | exact mask_trans rfl hm

theorem only_execProtectedHoldExpiry {m : Nat} {a s : State} (x0) (hm : 0xffffe0220430022a80 ||| m = m) (h : Only m a s) : OnlyR m a (execProtectedHoldExpiry x0 s) := by
  unfold execProtectedHoldExpiry
  try dsimp only
  repeat' first
    | (with_reducible first
        | assumption | (intro _; try dsimp only) | apply onlyR_next | apply only_toDiscard | apply only_raiseLimited
        | apply only_bump | apply only_ite | apply onlyR_ite | (split; all_goals try dsimp only))
    | exact mask_trans rfl hm | exact mask_trans (evMask_all _) (mask_trans rfl hm)
    | exact mask_trans (ctrMask_all _) (mask_trans rfl hm) | apply mask_or

theorem only_execReplicate {m : Nat} {a s : State} (x0) (hm : 0xb441ffffd300e6a81 ||| m = m) (h : Only m a s) : OnlyR m a (execReplicate x0 s) := by
  unfold execReplicate
  try dsimp only
  repeat' first
    | (with_reducible first
        | assumption | (intro _; try dsimp only) | apply onlyR_next | apply only_replicate | apply only_ite
        | apply onlyR_ite | (split; all_goals try dsimp only))
    | exact mask_trans rfl hm

theorem only_execSwcCntClr {m : Nat} {a s : State} (x0) (hm : 0x1001ffffc30000080 ||| m = m) (h : Only m a s) : OnlyR m a (execSwcCntClr x0 s) := by
  unfold execSwcCntClr
  try dsimp only
  repeat' first
    | (with_reducible first
        | assumption | (intro _; try dsimp only) | apply onlyR_next | apply only_guarded | apply only_clearSwc)
    | exact mask_trans rfl hm

theorem only_execSwcLayoutApply {m : Nat} {a s : State} (x0) (hm : 0x10200430020080 ||| m = m) (h : Only m a s) : OnlyR m a (execSwcLayoutApply x0 s) := by
  unfold execSwcLayoutApply
  try dsimp only
  repeat' first
    | (with_reducible first
        | assumption | (intro _; try dsimp only) | apply onlyR_next | apply only_guarded | apply only_layoutApply)
    | exact mask_trans rfl hm

theorem only_execSwcRgMaskH {m : Nat} {a s : State} (x0 x1 x2) (hm : 0x10200430020080 ||| m = m) (h : Only m a s) : OnlyR m a (execSwcRgMaskH x0 x1 x2 s) := by
  unfold execSwcRgMaskH
  try dsimp only
  repeat' first
    | (with_reducible first
        | assumption | (intro _; try dsimp only) | apply onlyR_next | apply only_guarded | apply only_wrRgHigh)
    | exact mask_trans rfl hm

theorem only_applyAdj {m : Nat} {a s : State} (hm : 0x4000000000 ||| m = m) (h : Only m a s) : Only m a (State.applyAdj s) := by
  unfold State.applyAdj
  try dsimp only
  repeat' first
    | (with_reducible first
        | assumption | (intro _; try dsimp only) | apply only_setReg | apply only_ite
        | (split; all_goals try dsimp only))
    | exact mask_trans rfl hm | exact mask_trans (fieldMask_all _) (mask_trans rfl hm)

theorem only_ppsOutRise {m : Nat} {a s : State} (hm : 0x40 ||| m = m) (h : Only m a s) : Only m a (State.ppsOutRise s) := by
  unfold State.ppsOutRise
  try dsimp only
  repeat' first
    | with_reducible exact Or.inr rfl
    | (with_reducible first
        | assumption | (intro _; try dsimp only) | apply only_ite | (split; all_goals try dsimp only)
        | apply only_set_tim | (apply only_mk (e33 := rfl)))
    | exact bit_of hm rfl | exact Or.inl (bit_of hm rfl) | exact Or.inr rfl | exact mask_trans rfl hm

theorem only_setNow {m : Nat} {a s : State} (x1) (hm : 0x40 ||| m = m) (h : Only m a s) : Only m a (State.setNow s x1) := by
  unfold State.setNow
  try dsimp only
  repeat' first
    | with_reducible exact Or.inr rfl
    | (with_reducible first
        | assumption | (intro _; try dsimp only) | apply only_set_tim | (apply only_mk (e33 := rfl)))
    | exact bit_of hm rfl | exact Or.inl (bit_of hm rfl) | exact Or.inr rfl | exact mask_trans rfl hm

theorem only_setQual {m : Nat} {a s : State} (x1) (hm : 0x4000000000 ||| m = m) (h : Only m a s) : Only m a (State.setQual s x1) := by
  unfold State.setQual
  try dsimp only
  repeat' first
    | (with_reducible first
        | assumption | (intro _; try dsimp only) | apply only_setN | apply only_setB | apply only_ite
        | (split; all_goals try dsimp only))
    | exact mask_trans rfl hm | exact mask_trans (fieldMask_all _) (mask_trans rfl hm)

theorem only_moveTime {m : Nat} {a s : State} (x1 x2) (hm : 0x8801ffffc306800c1 ||| m = m) (h : Only m a s) : Only m a (State.moveTime s x1 x2) := by
  unfold State.moveTime
  try dsimp only
  repeat' first
    | (with_reducible first
        | assumption | (intro _; try dsimp only) | apply only_setNow | apply only_setQual | apply only_onStep
        | apply only_ppsOutRise | apply only_raise | apply only_ite | (split; all_goals try dsimp only))
    | exact mask_trans rfl hm | exact mask_trans (evMask_all _) (mask_trans rfl hm) | apply mask_or

theorem only_setFreq {m : Nat} {a s : State} (x1) (hm : 0x4000000000 ||| m = m) (h : Only m a s) : Only m a (State.setFreq s x1) := by
  unfold State.setFreq
  try dsimp only
  repeat' first
    | (with_reducible first
        | assumption | (intro _; try dsimp only) | apply only_setN)
    | exact mask_trans rfl hm | exact mask_trans (fieldMask_all _) (mask_trans rfl hm)

theorem only_servo {m : Nat} {a s : State} (x1) (hm : 0x8801ffffc306800c1 ||| m = m) (h : Only m a s) : Only m a (State.servo s x1) := by
  unfold State.servo
  try dsimp only
  repeat' first
    | with_reducible exact Or.inr rfl
    | (with_reducible first
        | assumption | (intro _; try dsimp only) | apply only_moveTime | apply only_setFreq | apply only_setQual
        | apply only_raise | apply only_ite | (split; all_goals try dsimp only) | apply only_set_tim
        | (apply only_mk (e33 := rfl)))
    | exact bit_of hm rfl | exact Or.inl (bit_of hm rfl) | exact Or.inr rfl | exact mask_trans rfl hm
    | exact mask_trans (evMask_all _) (mask_trans rfl hm) | apply mask_or

theorem only_ppsAccept {m : Nat} {a s : State} (x1) (hm : 0x8801ffffc306800c1 ||| m = m) (h : Only m a s) : Only m a (State.ppsAccept s x1) := by
  unfold State.ppsAccept
  try dsimp only
  repeat' first
    | with_reducible exact Or.inr rfl
    | (with_reducible first
        | assumption | (intro _; try dsimp only) | apply only_moveTime | apply only_servo | apply only_setN
        | apply only_setB | apply only_ite | (split; all_goals try dsimp only) | apply only_set_tim
        | (apply only_mk (e33 := rfl)))
    | exact bit_of hm rfl | exact Or.inl (bit_of hm rfl) | exact Or.inr rfl | exact mask_trans rfl hm
    | exact mask_trans (fieldMask_all _) (mask_trans rfl hm)

theorem only_ppsCapture {m : Nat} {a s : State} (x1) (hm : 0x4000000000 ||| m = m) (h : Only m a s) : Only m a (State.ppsCapture s x1) := by
  unfold State.ppsCapture
  try dsimp only
  repeat' first
    | (with_reducible first
        | assumption | (intro _; try dsimp only) | apply only_setN)
    | exact mask_trans rfl hm | exact mask_trans (fieldMask_all _) (mask_trans rfl hm)

theorem only_ptpLocked {m : Nat} {a s : State} (hm : 0x4410000080 ||| m = m) (h : Only m a s) : Only m a (State.ptpLocked s) := by
  unfold State.ptpLocked
  try dsimp only
  repeat' first
    | (with_reducible first
        | assumption | (intro _; try dsimp only) | apply only_setQual | apply only_applyAdj | apply only_raise
        | apply only_ite | (split; all_goals try dsimp only))
    | exact mask_trans rfl hm | exact mask_trans (evMask_all _) (mask_trans rfl hm) | apply mask_or

theorem only_tick {m : Nat} {a s : State} (hm : 0x4000000042 ||| m = m) (h : Only m a s) : Only m a (State.tick s) := by
  unfold State.tick
  try dsimp only
  repeat' first
    | (with_reducible first
        | exact lease_same rfl rfl | exact fun _ => leaseFits_none (by decide) | exact leaseFits_modEnd _
        | exact leaseFits_modGrant _ _ _ | exact fun _ => leaseFits_modEnter _ _)
    | with_reducible exact Or.inr rfl
    | (with_reducible first
        | assumption | (intro _; try dsimp only) | apply only_setN | apply only_ite
        | (split; all_goals try dsimp only) | (apply only_mk (e33 := rfl)))
    | exact bit_of hm rfl | exact Or.inl (bit_of hm rfl)
    | (refine Or.inl ⟨bit_of hm rfl, ?_⟩; with_reducible first | exact lease_same rfl rfl | exact fun _ => leaseFits_none (by decide) | exact leaseFits_modEnd _ | exact leaseFits_modGrant _ _ _ | exact fun _ => leaseFits_modEnter _ _)
    | exact Or.inr rfl | exact mask_trans rfl hm | exact mask_trans (fieldMask_all _) (mask_trans rfl hm)

theorem only_timCmd {m : Nat} {a s : State} (x1) (hm : 0x4100000c0 ||| m = m) (h : Only m a s) : Only m a (State.timCmd s x1) := by
  unfold State.timCmd
  try dsimp only
  repeat' first
    | with_reducible exact Or.inr rfl
    | (with_reducible first
        | assumption | (intro _; try dsimp only) | apply only_raise | apply only_ite
        | (split; all_goals try dsimp only) | apply only_set_tim | (apply only_mk (e33 := rfl)))
    | exact bit_of hm rfl | exact Or.inl (bit_of hm rfl) | exact Or.inr rfl | exact mask_trans rfl hm
    | exact mask_trans (evMask_all _) (mask_trans rfl hm) | apply mask_or

theorem only_toHoldover {m : Nat} {a s : State} (hm : 0x4000000040 ||| m = m) (h : Only m a s) : Only m a (State.toHoldover s) := by
  unfold State.toHoldover
  try dsimp only
  repeat' first
    | with_reducible exact Or.inr rfl
    | (with_reducible first
        | assumption | (intro _; try dsimp only) | apply only_setFreq | apply only_applyAdj | apply only_setQual
        | apply only_setN | apply only_ite | (split; all_goals try dsimp only) | apply only_set_tim
        | (apply only_mk (e33 := rfl)))
    | exact bit_of hm rfl | exact Or.inl (bit_of hm rfl) | exact Or.inr rfl | exact mask_trans rfl hm
    | exact mask_trans (fieldMask_all _) (mask_trans rfl hm)

theorem only_wrAdjFreq {m : Nat} {a s : State} (x1) (hm : 0x44100000c0 ||| m = m) (h : Only m a s) : Only m a (State.wrAdjFreq s x1) := by
  unfold State.wrAdjFreq
  try dsimp only
  repeat' first
    | with_reducible exact Or.inr rfl
    | (with_reducible first
        | assumption | (intro _; try dsimp only) | apply only_raise | apply only_setReg | apply only_ite
        | (split; all_goals try dsimp only) | apply only_set_tim | (apply only_mk (e33 := rfl)))
    | exact bit_of hm rfl | exact Or.inl (bit_of hm rfl) | exact Or.inr rfl | exact mask_trans rfl hm
    | exact mask_trans (evMask_all _) (mask_trans rfl hm) | exact mask_trans (fieldMask_all _) (mask_trans rfl hm)
    | apply mask_or

theorem only_wrPtpLock {m : Nat} {a s : State} (x1) (hm : 0x44100000c0 ||| m = m) (h : Only m a s) : Only m a (State.wrPtpLock s x1) := by
  unfold State.wrPtpLock
  try dsimp only
  repeat' first
    | (with_reducible first
        | assumption | (intro _; try dsimp only) | apply only_ptpLocked | apply only_toHoldover | apply only_setB
        | apply only_ite | (split; all_goals try dsimp only))
    | exact mask_trans rfl hm | exact mask_trans (fieldMask_all _) (mask_trans rfl hm)

theorem only_wrTimSrc {m : Nat} {a s : State} (x1) (hm : 0x44100000c0 ||| m = m) (h : Only m a s) : Only m a (State.wrTimSrc s x1) := by
  unfold State.wrTimSrc
  try dsimp only
  repeat' first
    | (with_reducible first
        | assumption | (intro _; try dsimp only) | apply only_toHoldover | apply only_ptpLocked | apply only_applyAdj
        | apply only_setN | apply only_ite | (split; all_goals try dsimp only))
    | exact mask_trans rfl hm | exact mask_trans (fieldMask_all _) (mask_trans rfl hm)

theorem only_execHoldoverEnd {m : Nat} {a s : State} (hm : 0x4410000080 ||| m = m) (h : Only m a s) : OnlyR m a (execHoldoverEnd s) := by
  unfold execHoldoverEnd
  try dsimp only
  repeat' first
    | (with_reducible first
        | assumption | (intro _; try dsimp only) | apply onlyR_next | apply only_applyAdj | apply only_setQual
        | apply only_raise | apply only_setReg | apply only_ite | apply onlyR_ite | (split; all_goals try dsimp only))
    | exact mask_trans rfl hm | exact mask_trans (evMask_all _) (mask_trans rfl hm)
    | exact mask_trans (fieldMask_all _) (mask_trans rfl hm) | apply mask_or

theorem only_execPpsEdge {m : Nat} {a s : State} (x0) (hm : 0x8801ffffc306800c1 ||| m = m) (h : Only m a s) : OnlyR m a (execPpsEdge x0 s) := by
  unfold execPpsEdge
  try dsimp only
  repeat' first
    | (with_reducible first
        | assumption | (intro _; try dsimp only) | apply onlyR_next | apply only_ppsCapture | apply only_ppsAccept
        | apply only_raise | apply only_countF | apply only_ite | apply onlyR_ite | (split; all_goals try dsimp only))
    | exact mask_trans rfl hm | exact mask_trans (evMask_all _) (mask_trans rfl hm)
    | exact mask_trans (fieldMask_all _) (mask_trans rfl hm) | apply mask_or

theorem only_execPpsLost {m : Nat} {a s : State} (hm : 0x44100000c0 ||| m = m) (h : Only m a s) : OnlyR m a (execPpsLost s) := by
  unfold execPpsLost
  try dsimp only
  repeat' first
    | with_reducible exact Or.inr rfl
    | (with_reducible first
        | assumption | (intro _; try dsimp only) | apply onlyR_next | apply only_toHoldover | apply only_raise
        | apply only_setB | apply only_ite | apply onlyR_ite | (split; all_goals try dsimp only) | apply only_set_tim
        | (apply only_mk (e33 := rfl)))
    | exact bit_of hm rfl | exact Or.inl (bit_of hm rfl) | exact Or.inr rfl | exact mask_trans rfl hm
    | exact mask_trans (evMask_all _) (mask_trans rfl hm) | exact mask_trans (fieldMask_all _) (mask_trans rfl hm)
    | apply mask_or

theorem only_execPpsOutFall {m : Nat} {a s : State} (hm : 0x40 ||| m = m) (h : Only m a s) : OnlyR m a (execPpsOutFall s) := by
  unfold execPpsOutFall
  try dsimp only
  repeat' first
    | with_reducible exact Or.inr rfl
    | (with_reducible first
        | assumption | (intro _; try dsimp only) | apply onlyR_next | apply only_ite | apply onlyR_ite
        | (split; all_goals try dsimp only) | apply only_set_tim | (apply only_mk (e33 := rfl)))
    | exact bit_of hm rfl | exact Or.inl (bit_of hm rfl) | exact Or.inr rfl | exact mask_trans rfl hm

theorem only_execPpsOutRise {m : Nat} {a s : State} (hm : 0x40 ||| m = m) (h : Only m a s) : OnlyR m a (execPpsOutRise s) := by
  unfold execPpsOutRise
  try dsimp only
  repeat' first
    | (with_reducible first
        | assumption | (intro _; try dsimp only) | apply onlyR_next | apply only_ppsOutRise)
    | exact mask_trans rfl hm

theorem only_execSet {m : Nat} {a s : State} (x0) (hm : 0x100004300000c0 ||| m = m) (h : Only m a s) : OnlyR m a (execSet x0 s) := by
  unfold execSet
  try dsimp only
  repeat' first
    | (with_reducible first
        | assumption | (intro _; try dsimp only) | apply onlyR_next | apply only_guarded | apply only_timCmd)
    | exact mask_trans rfl hm

theorem only_execSetAtPps {m : Nat} {a s : State} (x0) (hm : 0x100004300000c0 ||| m = m) (h : Only m a s) : OnlyR m a (execSetAtPps x0 s) := by
  unfold execSetAtPps
  try dsimp only
  repeat' first
    | (with_reducible first
        | assumption | (intro _; try dsimp only) | apply onlyR_next | apply only_guarded | apply only_timCmd)
    | exact mask_trans rfl hm

theorem only_execStep {m : Nat} {a s : State} (x0) (hm : 0x100004300000c0 ||| m = m) (h : Only m a s) : OnlyR m a (execStep x0 s) := by
  unfold execStep
  try dsimp only
  repeat' first
    | (with_reducible first
        | assumption | (intro _; try dsimp only) | apply onlyR_next | apply only_guarded | apply only_timCmd)
    | exact mask_trans rfl hm

theorem only_execTimAdjFreq {m : Nat} {a s : State} (x0 x1) (hm : 0x100044300000c0 ||| m = m) (h : Only m a s) : OnlyR m a (execTimAdjFreq x0 x1 s) := by
  unfold execTimAdjFreq
  try dsimp only
  repeat' first
    | (with_reducible first
        | assumption | (intro _; try dsimp only) | apply onlyR_next | apply only_guarded | apply only_wrAdjFreq)
    | exact mask_trans rfl hm

theorem only_execTimCommandEffect {m : Nat} {a s : State} (hm : 0x8801ffffc306800c1 ||| m = m) (h : Only m a s) : OnlyR m a (execTimCommandEffect s) := by
  unfold execTimCommandEffect
  try dsimp only
  repeat' first
    | with_reducible exact Or.inr rfl
    | (with_reducible first
        | assumption | (intro _; try dsimp only) | apply onlyR_next | apply only_moveTime | apply only_ite
        | apply onlyR_ite | (split; all_goals try dsimp only) | apply only_set_tim | (apply only_mk (e33 := rfl)))
    | exact bit_of hm rfl | exact Or.inl (bit_of hm rfl) | exact Or.inr rfl | exact mask_trans rfl hm

theorem only_execTimPtpLock {m : Nat} {a s : State} (x0 x1) (hm : 0x100044300000c0 ||| m = m) (h : Only m a s) : OnlyR m a (execTimPtpLock x0 x1 s) := by
  unfold execTimPtpLock
  try dsimp only
  repeat' first
    | (with_reducible first
        | assumption | (intro _; try dsimp only) | apply onlyR_next | apply only_guarded | apply only_wrPtpLock)
    | exact mask_trans rfl hm

theorem only_execTimSrc {m : Nat} {a s : State} (x0 x1) (hm : 0x100044300000c0 ||| m = m) (h : Only m a s) : OnlyR m a (execTimSrc x0 x1 s) := by
  unfold execTimSrc
  try dsimp only
  repeat' first
    | (with_reducible first
        | assumption | (intro _; try dsimp only) | apply onlyR_next | apply only_guarded | apply only_wrTimSrc)
    | exact mask_trans rfl hm

theorem only_execTimebaseChangeover {m : Nat} {a s : State} (hm : 0x44100000c0 ||| m = m) (h : Only m a s) : OnlyR m a (execTimebaseChangeover s) := by
  unfold execTimebaseChangeover
  try dsimp only
  repeat' first
    | with_reducible exact Or.inr rfl
    | (with_reducible first
        | assumption | (intro _; try dsimp only) | apply onlyR_next | apply only_toHoldover | apply only_raise
        | apply only_setB | apply only_ite | apply onlyR_ite | (split; all_goals try dsimp only) | apply only_set_tim
        | (apply only_mk (e33 := rfl)))
    | exact bit_of hm rfl | exact Or.inl (bit_of hm rfl) | exact Or.inr rfl | exact mask_trans rfl hm
    | exact mask_trans (evMask_all _) (mask_trans rfl hm) | exact mask_trans (fieldMask_all _) (mask_trans rfl hm)
    | apply mask_or

theorem only_beginTx {m : Nat} {a s : State} (x1 x2 x3 x4) (hm : 0x100100400880 ||| m = m) (h : Only m a s) : Only m a (State.beginTx s x1 x2 x3 x4) := by
  unfold State.beginTx
  try dsimp only
  repeat' first
    | with_reducible exact Or.inr rfl
    | (with_reducible first
        | assumption | (intro _; try dsimp only) | apply only_stampNs | apply only_onStarted | apply only_ite
        | (apply only_ite_snd <;> try dsimp only) | (apply only_ite_fst <;> try dsimp only)
        | refine only_snd ‹_ = (_, _)› ?_ | refine only_fst ‹_ = (_, _)› ?_ | refine only_trd ‹_ = (_, _, _)› ?_
        | refine only_fth ‹_ = (_, _, _, _)› ?_ | (split; all_goals try dsimp only) | apply only_set_prt
        | (apply only_mk (e33 := rfl)))
    | exact bit_of hm rfl | exact Or.inl (bit_of hm rfl) | exact Or.inr rfl | exact mask_trans rfl hm

theorem only_fire {m : Nat} {a s : State} (x1) (hm : 0x40000 ||| m = m) (h : Only m a s) : Only m a (State.fire s x1) := by
  unfold State.fire
  try dsimp only
  repeat' first
    | with_reducible exact Or.inr rfl
    | (with_reducible first
        | assumption | (intro _; try dsimp only) | apply only_refill | apply only_place | apply only_ite
        | (split; all_goals try dsimp only) | apply only_set_tmg | (apply only_mk (e33 := rfl)))
    | exact bit_of hm rfl | exact Or.inl (bit_of hm rfl) | exact Or.inr rfl | exact mask_trans rfl hm

theorem only_payShapers {m : Nat} {a s : State} (x1 x2 x3) (hm : 0x40000 ||| m = m) (h : Only m a s) : Only m a (State.payShapers s x1 x2 x3) := by
  unfold State.payShapers
  try dsimp only
  repeat' first
    | (with_reducible first
        | assumption | (intro _; try dsimp only) | apply only_charge | apply only_ite
        | (split; all_goals try dsimp only))
    | exact mask_trans rfl hm

theorem only_turnVirtual {m : Nat} {a s : State} (x1 x2) (hm : 0x40000 ||| m = m) (h : Only m a s) : Only m a (State.turnVirtual s x1 x2) := by
  unfold State.turnVirtual
  try dsimp only
  repeat' first
    | with_reducible exact Or.inr rfl
    | (with_reducible first
        | assumption | (intro _; try dsimp only) | apply only_ite | (split; all_goals try dsimp only)
        | apply only_set_tmg | (apply only_mk (e33 := rfl)))
    | exact bit_of hm rfl | exact Or.inl (bit_of hm rfl) | exact Or.inr rfl | exact mask_trans rfl hm

theorem only_sendHead {m : Nat} {a s : State} (x1 x2 x3 x4) (hm : 0x20000500530440880 ||| m = m) (h : Only m a s) : Only m a (State.sendHead s x1 x2 x3 x4) := by
  unfold State.sendHead
  try dsimp only
  repeat' first
    | (with_reducible first
        | assumption | (intro _; try dsimp only) | apply only_beginTx | apply only_payShapers | apply only_popHead
        | apply only_turnVirtual | apply only_bump | (split; all_goals try dsimp only))
    | exact mask_trans rfl hm | exact mask_trans (ctrMask_all _) (mask_trans rfl hm)

theorem only_tmgErr {m : Nat} {a s : State} (x1) (hm : 0x400430000080 ||| m = m) (h : Only m a s) : Only m a (State.tmgErr s x1) := by
  unfold State.tmgErr
  try dsimp only
  repeat' first
    | (with_reducible first
        | assumption | (intro _; try dsimp only) | apply only_raiseLimited)
    | exact mask_trans rfl hm | exact mask_trans (evMask_all _) (mask_trans rfl hm) | apply mask_or

theorem only_wrCg {m : Nat} {a s : State} (x1 x2 x3) (hm : 0x400430000080 ||| m = m) (h : Only m a s) : Only m a (State.wrCg s x1 x2 x3) := by
  unfold State.wrCg
  try dsimp only
  repeat' first
    | (with_reducible first
        | assumption | (intro _; try dsimp only) | apply only_tmgErr | apply only_setN | apply only_setB
        | apply only_ite | (split; all_goals try dsimp only))
    | exact mask_trans rfl hm | exact mask_trans (fieldMask_all _) (mask_trans rfl hm)

theorem only_wrQCfg {m : Nat} {a s : State} (x1 x2 x3 x4) (hm : 0x400430000080 ||| m = m) (h : Only m a s) : Only m a (State.wrQCfg s x1 x2 x3 x4) := by
  unfold State.wrQCfg
  try dsimp only
  repeat' first
    | (with_reducible first
        | assumption | (intro _; try dsimp only) | apply only_tmgErr | apply only_setN | apply only_setB
        | apply only_ite | (split; all_goals try dsimp only))
    | exact mask_trans rfl hm | exact mask_trans (fieldMask_all _) (mask_trans rfl hm)

theorem only_wrShaper {m : Nat} {a s : State} (x1 x2 x3 x4 x5) (hm : 0x1ffffc30040080 ||| m = m) (h : Only m a s) : Only m a (State.wrShaper s x1 x2 x3 x4 x5) := by
  unfold State.wrShaper
  try dsimp only
  repeat' first
    | (with_reducible first
        | assumption | (intro _; try dsimp only) | apply only_tmgErr | apply only_unplace | apply only_setShaper
        | apply only_setN | apply only_setB | apply only_ite | (split; all_goals try dsimp only))
    | exact mask_trans rfl hm | exact mask_trans (fieldMask_all _) (mask_trans rfl hm)

theorem only_execFineWheelSlot {m : Nat} {a s : State} (hm : 0x20000400430040080 ||| m = m) (h : Only m a s) : OnlyR m a (execFineWheelSlot s) := by
  unfold execFineWheelSlot
  try dsimp only
  repeat' first
    | with_reducible exact Or.inr rfl
    | (with_reducible first
        | assumption | (intro _; try dsimp only) | apply onlyR_next | apply only_fire | apply only_bump
        | apply only_setN | apply only_raiseLimited | apply only_ite | apply onlyR_ite
        | (apply only_foldl; intro s x hs; try dsimp only) | (apply only_foldl_snd; intro c s x hs; try dsimp only)
        | (apply only_foldl_fst; intro c s x hs; try dsimp only)
        | (apply only_foldl_trd; intro c d s x hs; try dsimp only) | refine only_snd ‹_ = (_, _)› ?_
        | refine only_fst ‹_ = (_, _)› ?_ | refine only_trd ‹_ = (_, _, _)› ?_ | refine only_fth ‹_ = (_, _, _, _)› ?_
        | (split; all_goals try dsimp only) | apply only_set_tmg | (apply only_mk (e33 := rfl)))
    | exact bit_of hm rfl | exact Or.inl (bit_of hm rfl) | exact Or.inr rfl | exact mask_trans rfl hm
    | exact mask_trans (evMask_all _) (mask_trans rfl hm) | exact mask_trans (fieldMask_all _) (mask_trans rfl hm)
    | exact mask_trans (ctrMask_all _) (mask_trans rfl hm) | apply mask_or

theorem only_execHeadDiscard {m : Nat} {a s : State} (x0) (hm : 0x30000600430060080 ||| m = m) (h : Only m a s) : OnlyR m a (execHeadDiscard x0 s) := by
  unfold execHeadDiscard
  try dsimp only
  repeat' first
    | (with_reducible first
        | assumption | (intro _; try dsimp only) | apply onlyR_next | apply only_popHead | apply only_endReplica
        | apply only_bump | apply only_ite | apply onlyR_ite | (split; all_goals try dsimp only))
    | exact mask_trans rfl hm | exact mask_trans (ctrMask_all _) (mask_trans rfl hm)

theorem only_execOverflowWheelSlot {m : Nat} {a s : State} (hm : 0x400000040000 ||| m = m) (h : Only m a s) : OnlyR m a (execOverflowWheelSlot s) := by
  unfold execOverflowWheelSlot
  try dsimp only
  repeat' first
    | with_reducible exact Or.inr rfl
    | (with_reducible first
        | assumption | (intro _; try dsimp only) | apply onlyR_next | apply only_setReg | apply only_set_tmg
        | (apply only_mk (e33 := rfl)))
    | exact bit_of hm rfl | exact Or.inl (bit_of hm rfl) | exact Or.inr rfl | exact mask_trans rfl hm
    | exact mask_trans (fieldMask_all _) (mask_trans rfl hm)

theorem only_execQueueSelect {m : Nat} {a s : State} (x0 x1) (hm : 0x20000500530440880 ||| m = m) (h : Only m a s) : OnlyR m a (execQueueSelect x0 x1 s) := by
  unfold execQueueSelect
  try dsimp only
  repeat' first
    | (with_reducible first
        | assumption | (intro _; try dsimp only) | apply onlyR_next | apply only_sendHead | apply only_ite
        | apply onlyR_ite | (split; all_goals try dsimp only))
    | exact mask_trans rfl hm

theorem only_execShaperConfig {m : Nat} {a s : State} (x0 x1 x2 x3 x4) (hm : 0x1ffffc30040080 ||| m = m) (h : Only m a s) : OnlyR m a (execShaperConfig x0 x1 x2 x3 x4 s) := by
  unfold execShaperConfig
  try dsimp only
  repeat' first
    | (with_reducible first
        | assumption | (intro _; try dsimp only) | apply onlyR_next | apply only_guarded | apply only_wrShaper)
    | exact mask_trans rfl hm

theorem only_execTagSweep {m : Nat} {a s : State} (hm : 0x40000 ||| m = m) (h : Only m a s) : OnlyR m a (execTagSweep s) := by
  unfold execTagSweep
  try dsimp only
  repeat' first
    | with_reducible exact Or.inr rfl
    | (with_reducible first
        | assumption | (intro _; try dsimp only) | apply onlyR_next | apply only_ite | apply onlyR_ite
        | (split; all_goals try dsimp only) | apply only_set_tmg | (apply only_mk (e33 := rfl)))
    | exact bit_of hm rfl | exact Or.inl (bit_of hm rfl) | exact Or.inr rfl | exact mask_trans rfl hm

theorem only_execTmgCg {m : Nat} {a s : State} (x0 x1 x2 x3) (hm : 0x10400430000080 ||| m = m) (h : Only m a s) : OnlyR m a (execTmgCg x0 x1 x2 x3 s) := by
  unfold execTmgCg
  try dsimp only
  repeat' first
    | (with_reducible first
        | assumption | (intro _; try dsimp only) | apply onlyR_next | apply only_guarded | apply only_wrCg)
    | exact mask_trans rfl hm

theorem only_execTmgCntClr {m : Nat} {a s : State} (x0) (hm : 0x20010000430000080 ||| m = m) (h : Only m a s) : OnlyR m a (execTmgCntClr x0 s) := by
  unfold execTmgCntClr
  try dsimp only
  repeat' first
    | (with_reducible first
        | assumption | (intro _; try dsimp only) | apply onlyR_next | apply only_guarded | apply only_clearBlockCtrs)
    | exact mask_trans rfl hm | exact mask_trans (blockMask_all _) (mask_trans rfl hm)

theorem only_execTmgQCfg {m : Nat} {a s : State} (x0 x1 x2 x3) (hm : 0x10400430000080 ||| m = m) (h : Only m a s) : OnlyR m a (execTmgQCfg x0 x1 x2 x3 s) := by
  unfold execTmgQCfg
  try dsimp only
  repeat' first
    | (with_reducible first
        | assumption | (intro _; try dsimp only) | apply onlyR_next | apply only_guarded | apply only_wrQCfg)
    | exact mask_trans rfl hm

theorem only_burnWord {m : Nat} {a s : State} (x1 x2 x3) (hm : 0x10 ||| m = m) (h : Only m a s) : Only m a (State.burnWord s x1 x2 x3) := by
  unfold State.burnWord
  try dsimp only
  repeat' first
    | (with_reducible first
        | exact fuse_same rfl | exact fusesKept_put _ _ _ | exact fusesKept_flags _ _)
    | with_reducible exact Or.inr rfl
    | (with_reducible first
        | assumption | (intro _; try dsimp only) | apply only_set_fus | (apply only_mk (e33 := rfl)))
    | exact bit_of hm rfl | exact Or.inl (bit_of hm rfl)
    | (refine Or.inl ⟨bit_of hm rfl, ?_⟩; with_reducible first | exact fuse_same rfl | exact fusesKept_put _ _ _ | exact fusesKept_flags _ _)
    | exact Or.inr rfl | exact mask_trans rfl hm

theorem only_cfgStop {m : Nat} {a s : State} (x1 x2) (hm : 0x410000088 ||| m = m) (h : Only m a s) : Only m a (State.cfgStop s x1 x2) := by
  unfold State.cfgStop
  try dsimp only
  repeat' first
    | with_reducible exact Or.inr rfl
    | (with_reducible first
        | assumption | (intro _; try dsimp only) | apply only_raise | apply only_setN | apply only_set_img
        | (apply only_mk (e33 := rfl)))
    | exact bit_of hm rfl | exact Or.inl (bit_of hm rfl) | exact Or.inr rfl | exact mask_trans rfl hm
    | exact mask_trans (evMask_all _) (mask_trans rfl hm) | exact mask_trans (fieldMask_all _) (mask_trans rfl hm)
    | apply mask_or

theorem only_clear1 {m : Nat} {a s : State} (x1 x2 x3) (hm : 0x1ffffc00000000 ||| m = m) (h : Only m a s) : Only m a (State.clear1 s x1 x2 x3) := by
  unfold State.clear1
  try dsimp only
  repeat' first
    | (with_reducible first
        | assumption | (intro _; try dsimp only) | apply only_setB | apply only_ite
        | (apply only_foldl; intro s x hs; try dsimp only) | (apply only_foldl_snd; intro c s x hs; try dsimp only)
        | (apply only_foldl_fst; intro c s x hs; try dsimp only)
        | (apply only_foldl_trd; intro c d s x hs; try dsimp only) | refine only_snd ‹_ = (_, _)› ?_
        | refine only_fst ‹_ = (_, _)› ?_ | refine only_trd ‹_ = (_, _, _)› ?_ | refine only_fth ‹_ = (_, _, _, _)› ?_
        | (split; all_goals try dsimp only))
    | exact mask_trans rfl hm | exact mask_trans (fieldMask_all _) (mask_trans rfl hm)

theorem only_w1c {m : Nat} {a s : State} (x1 x2 x3 x4) (hm : 0x1ffffc30000080 ||| m = m) (h : Only m a s) : Only m a (State.w1c s x1 x2 x3 x4) := by
  unfold State.w1c
  try dsimp only
  repeat' first
    | (with_reducible first
        | assumption | (intro _; try dsimp only) | apply only_clear1 | apply only_guarded | apply only_held
        | apply only_fenced | apply only_ite | (split; all_goals try dsimp only))
    | exact mask_trans rfl hm

theorem only_storeWord {m : Nat} {a s : State} (x1 x2 x3) (hm : 0x1ffffc00000000 ||| m = m) (h : Only m a s) : Only m a (State.storeWord s x1 x2 x3) := by
  unfold State.storeWord
  try dsimp only
  repeat' first
    | (with_reducible first
        | assumption | (intro _; try dsimp only) | apply only_setN | (apply only_foldl; intro s x hs; try dsimp only)
        | (apply only_foldl_snd; intro c s x hs; try dsimp only)
        | (apply only_foldl_fst; intro c s x hs; try dsimp only)
        | (apply only_foldl_trd; intro c d s x hs; try dsimp only))
    | exact mask_trans rfl hm | exact mask_trans (fieldMask_all _) (mask_trans rfl hm)

theorem only_clrWord {m : Nat} {a s : State} (x0 x1 x2 x4) (h4 : ∀ s, Only m a s → OnlyR m a (x4 s)) (hm : 0x10000430000080 ||| m = m) (h : Only m a s) : OnlyR m a (clrWord x0 x1 x2 s x4) := by
  unfold clrWord
  try dsimp only
  repeat' first
    | (with_reducible first
        | assumption | (intro _; try dsimp only) | apply h4 | apply onlyR_next | apply only_held | apply only_guarded
        | apply only_guardedHere | apply only_fenced | apply only_ite | apply onlyR_ite | apply only_id
        | (split; all_goals try dsimp only))
    | exact mask_trans rfl hm

end Sys2Proof.Machine
end

