-- ==== Sys2Proof/Laws/Only8.lean ====
section
/-! SUPPORT. What the operations of the machine may change and what they keep, one lemma each (part 8 of 8). -/

namespace Sys2Proof.Machine

open Sys2Proof

set_option linter.all false
set_option Elab.async false

theorem only_wrAut {m : Nat} {a s : State} (x1 x2 x3) (hm : 0x20001ffffc30100080 ||| m = m) (h : Only m a s) : OnlyR m a (State.wrAut s x1 x2 x3) := by
  unfold State.wrAut
  try dsimp only
  repeat' first
    | (with_reducible first
        | assumption | (intro _; try dsimp only) | apply onlyR_next | apply only_clrWord | apply only_execAutCntClr
        | apply only_execKeyLoad | apply only_execKeyErase | apply only_held | apply only_storeWord | apply only_setN
        | apply only_ite | apply onlyR_ite | refine only_res ‹_ = Host.Outcome.next _› ?_
        | (split; all_goals try dsimp only))
    | exact mask_trans rfl hm | exact mask_trans (fieldMask_all _) (mask_trans rfl hm)

theorem only_plain {m : Nat} {a s : State} (x1 x2 x3 x4) (hm : 0x1ffffc30000080 ||| m = m) (h : Only m a s) : OnlyR m a (State.plain s x1 x2 x3 x4) := by
  unfold State.plain
  try dsimp only
  repeat' first
    | (with_reducible first
        | assumption | (intro _; try dsimp only) | apply onlyR_next | apply only_guardedHere | apply only_storeWord
        | apply only_ite | apply onlyR_ite | (split; all_goals try dsimp only))
    | exact mask_trans rfl hm

theorem only_wrCls {m : Nat} {a s : State} (x1 x2 x3) (hm : 0x101ffffc30002080 ||| m = m) (h : Only m a s) : OnlyR m a (State.wrCls s x1 x2 x3) := by
  unfold State.wrCls
  try dsimp only
  repeat' first
    | (with_reducible first
        | assumption | (intro _; try dsimp only) | apply onlyR_next | apply only_execClsCfg | apply only_guarded
        | apply only_clsStage | apply only_clsCommit | apply only_clsAbort | apply only_clsDiscard
        | apply only_clrWord | apply only_execClsCntClr | apply only_plain | apply only_setN
        | refine only_res ‹_ = Host.Outcome.next _› ?_ | (split; all_goals try dsimp only))
    | exact mask_trans rfl hm | exact mask_trans (fieldMask_all _) (mask_trans rfl hm)

theorem only_wrWindow {m : Nat} {a s : State} (x1 x2 x3 x4 x5) (hm : 0x1ffffc00000000 ||| m = m) (h : Only m a s) : OnlyR m a (State.wrWindow s x1 x2 x3 x4 x5) := by
  unfold State.wrWindow
  try dsimp only
  repeat' first
    | (with_reducible first
        | assumption | (intro _; try dsimp only) | apply onlyR_next | apply only_storeWord | apply only_ite
        | apply onlyR_ite | (split; all_goals try dsimp only))
    | exact mask_trans rfl hm

theorem only_wrFlw {m : Nat} {a s : State} (x1 x2 x3) (hm : 0x40401ffffd30014180 ||| m = m) (h : Only m a s) : OnlyR m a (State.wrFlw s x1 x2 x3) := by
  unfold State.wrFlw
  try dsimp only
  repeat' first
    | (with_reducible first
        | assumption | (intro _; try dsimp only) | apply onlyR_next | apply only_clrWord | apply only_execFlwCntClr
        | apply only_execFlwKprof | apply only_execRecRead | apply only_execRecWrite | apply only_execRecAlloc
        | apply only_execRecFree | apply only_execGzRead | apply only_execGzWrite | apply only_wrWindow
        | apply only_rcStart | apply only_rcEnd | apply only_execFlwLbg | apply only_plain | apply only_ite
        | apply onlyR_ite | refine only_res ‹_ = Host.Outcome.next _› ?_ | (split; all_goals try dsimp only))
    | exact mask_trans rfl hm

theorem only_fuseRefused {m : Nat} {a s : State} (x1) (hm : 0x1ffffc10000080 ||| m = m) (h : Only m a s) : Only m a (State.fuseRefused s x1) := by
  unfold State.fuseRefused
  try dsimp only
  repeat' first
    | (with_reducible first
        | assumption | (intro _; try dsimp only) | apply only_raise | apply only_setN)
    | exact mask_trans rfl hm | exact mask_trans (evMask_all _) (mask_trans rfl hm)
    | exact mask_trans (fieldMask_all _) (mask_trans rfl hm) | apply mask_or

theorem only_fuseProgram {m : Nat} {a s : State} (x1 x2 x3) (hm : 0x1ffffc10000090 ||| m = m) (h : Only m a s) : Only m a (State.fuseProgram s x1 x2 x3) := by
  unfold State.fuseProgram
  try dsimp only
  repeat' first
    | (with_reducible first
        | assumption | (intro _; try dsimp only) | apply only_fuseRefused | apply only_burnWord | apply only_setReg
        | apply only_setN | apply only_ite | (split; all_goals try dsimp only))
    | exact mask_trans rfl hm | exact mask_trans (fieldMask_all _) (mask_trans rfl hm)

theorem only_fuseSeal {m : Nat} {a s : State} (x1) (hm : 0x1ffffc10000090 ||| m = m) (h : Only m a s) : Only m a (State.fuseSeal s x1) := by
  unfold State.fuseSeal
  try dsimp only
  repeat' first
    | (with_reducible first
        | assumption | (intro _; try dsimp only) | apply only_fuseRefused | apply only_burnWord | apply only_raise
        | apply only_setN | apply only_ite | (split; all_goals try dsimp only))
    | exact mask_trans rfl hm | exact mask_trans (evMask_all _) (mask_trans rfl hm)
    | exact mask_trans (fieldMask_all _) (mask_trans rfl hm) | apply mask_or

theorem only_wrFus {m : Nat} {a s : State} (x1 x2 x3) (hm : 0x1ffffd10000090 ||| m = m) (h : Only m a s) : OnlyR m a (State.wrFus s x1 x2 x3) := by
  unfold State.wrFus
  try dsimp only
  repeat' first
    | (with_reducible first
        | assumption | (intro _; try dsimp only) | apply onlyR_next | apply only_fuseProgram | apply only_fuseSeal
        | apply only_setN | apply only_draw | apply only_setReg | apply only_ite
        | (apply only_ite_snd <;> try dsimp only) | (apply only_ite_fst <;> try dsimp only) | apply onlyR_ite
        | refine only_snd ‹_ = (_, _)› ?_ | refine only_fst ‹_ = (_, _)› ?_ | refine only_trd ‹_ = (_, _, _)› ?_
        | refine only_fth ‹_ = (_, _, _, _)› ?_ | (split; all_goals try dsimp only))
    | exact mask_trans rfl hm | exact mask_trans (fieldMask_all _) (mask_trans rfl hm)

theorem only_wrGlb {m : Nat} {a s : State} (x1 x2 x3) (hm : 0xffffffffffffffffff ||| m = m) (h : Only m a s) : OnlyR m a (State.wrGlb s x1 x2 x3) := by
  unfold State.wrGlb
  try dsimp only
  repeat' first
    | (with_reducible first
        | assumption | (intro _; try dsimp only) | apply onlyR_next | apply only_held | apply only_reqRun
        | apply only_reqStandby | apply only_reqDrain | apply only_reqCancel | apply only_modeRefused
        | apply only_execGlbResetGo | apply only_execSubsysResetPort | apply only_execSubsysResetCluster
        | apply only_execSubsysResetGraticule | apply only_execSubsysResetTms | apply only_execSubsysResetAuth
        | apply only_execImageLoad | apply only_guarded | apply only_execClaim | apply only_execRenew
        | apply only_execLeaseRelease | apply only_wrTerm | apply only_setN | apply only_setReg | apply only_ite
        | apply onlyR_ite | (apply only_foldl; intro s x hs; try dsimp only)
        | (apply only_foldl_snd; intro c s x hs; try dsimp only)
        | (apply only_foldl_fst; intro c s x hs; try dsimp only)
        | (apply only_foldl_trd; intro c d s x hs; try dsimp only) | refine only_snd ‹_ = (_, _)› ?_
        | refine only_fst ‹_ = (_, _)› ?_ | refine only_trd ‹_ = (_, _, _)› ?_ | refine only_fth ‹_ = (_, _, _, _)› ?_
        | refine only_res ‹_ = Host.Outcome.next _› ?_ | (split; all_goals try dsimp only))
    | exact mask_trans rfl hm | exact mask_trans (fieldMask_all _) (mask_trans rfl hm)

theorem only_wrHea {m : Nat} {a s : State} (x1 x2 x3) (hm : 0x1ffffc30000080 ||| m = m) (h : Only m a s) : OnlyR m a (State.wrHea s x1 x2 x3) := by
  unfold State.wrHea
  try dsimp only
  repeat' first
    | (with_reducible first
        | assumption | (intro _; try dsimp only) | apply onlyR_next | apply only_evalReplace | apply only_storeWord
        | apply only_fenced | apply only_ite | apply onlyR_ite | (split; all_goals try dsimp only))
    | exact mask_trans rfl hm

theorem only_putMsix {m : Nat} {a s : State} (x1 x2 x3) (hm : 0x80 ||| m = m) (h : Only m a s) : Only m a (State.putMsix s x1 x2 x3) := by
  unfold State.putMsix
  try dsimp only
  repeat' first
    | with_reducible exact Or.inr rfl
    | (with_reducible first
        | assumption | (intro _; try dsimp only) | apply only_ite | (split; all_goals try dsimp only)
        | apply only_set_hst | (apply only_mk (e33 := rfl)))
    | exact bit_of hm rfl | exact Or.inl (bit_of hm rfl) | exact Or.inr rfl | exact mask_trans rfl hm

theorem only_wrMsix {m : Nat} {a s : State} (x1 x2 x3) (hm : 0x80 ||| m = m) (h : Only m a s) : Only m a (State.wrMsix s x1 x2 x3) := by
  unfold State.wrMsix
  try dsimp only
  repeat' first
    | (with_reducible first
        | assumption | (intro _; try dsimp only) | apply only_putMsix | (split; all_goals try dsimp only))
    | exact mask_trans rfl hm

theorem only_wrHst {m : Nat} {a s : State} (x1 x2 x3) (hm : 0x80001ffffc30000080 ||| m = m) (h : Only m a s) : OnlyR m a (State.wrHst s x1 x2 x3) := by
  unfold State.wrHst
  try dsimp only
  repeat' first
    | (with_reducible first
        | assumption | (intro _; try dsimp only) | apply onlyR_next | apply only_wrMsix | apply only_clrWord
        | apply only_execHstCntClr | apply only_execHstGr | apply only_storeWord | apply only_execHstRgEn
        | apply only_execHstRgCfg | apply only_partitionErr | apply only_ite | apply onlyR_ite
        | refine only_res ‹_ = Host.Outcome.next _› ?_ | (split; all_goals try dsimp only))
    | exact mask_trans rfl hm

theorem only_wrMem {m : Nat} {a s : State} (x1 x2 x3) (hm : 0x40001ffffc30000180 ||| m = m) (h : Only m a s) : OnlyR m a (State.wrMem s x1 x2 x3) := by
  unfold State.wrMem
  try dsimp only
  repeat' first
    | (with_reducible first
        | assumption | (intro _; try dsimp only) | apply onlyR_next | apply only_guarded | apply only_execTestAll
        | apply only_execBurn | apply only_memRefuse | apply only_clrWord | apply only_execMemCntClr
        | apply only_execWriteComputed | apply only_execWriteRaw | apply only_execReadRaw | apply only_storeWord
        | apply only_fenced | apply only_setN | apply only_wrFields | apply only_ite | apply onlyR_ite
        | refine only_res ‹_ = Host.Outcome.next _› ?_ | apply only_id | (split; all_goals try dsimp only))
    | exact mask_trans rfl hm | exact mask_trans (fieldMask_all _) (mask_trans rfl hm)
    | exact mask_trans (fieldsMask_all _) (mask_trans rfl hm)

theorem only_wrMmu {m : Nat} {a s : State} (x1 x2 x3) (hm : 0x10001ffffc30800080 ||| m = m) (h : Only m a s) : OnlyR m a (State.wrMmu s x1 x2 x3) := by
  unfold State.wrMmu
  try dsimp only
  repeat' first
    | (with_reducible first
        | assumption | (intro _; try dsimp only) | apply onlyR_next | apply only_guardedHere
        | apply only_execInvalidateAsid | apply only_execInvalidateRange | apply only_execInvalidateAll
        | apply only_guarded | apply only_storeWord | apply only_clrWord | apply only_execMmuCntClr
        | apply only_execMmuRoot | apply only_plain | apply only_setN | apply only_ite | apply onlyR_ite
        | refine only_res ‹_ = Host.Outcome.next _› ?_ | (split; all_goals try dsimp only))
    | exact mask_trans rfl hm | exact mask_trans (fieldMask_all _) (mask_trans rfl hm)

theorem only_wrPar {m : Nat} {a s : State} (x1 x2 x3) (hm : 0xfffffffffc30000080 ||| m = m) (h : Only m a s) : OnlyR m a (State.wrPar s x1 x2 x3) := by
  unfold State.wrPar
  try dsimp only
  repeat' first
    | (with_reducible first
        | assumption | (intro _; try dsimp only) | apply onlyR_next | apply only_guarded | apply only_clrWord
        | apply only_execParCntClr | apply only_plain | apply only_setN | apply only_setB
        | refine only_res ‹_ = Host.Outcome.next _› ?_ | (split; all_goals try dsimp only))
    | exact mask_trans rfl hm | exact mask_trans (fieldMask_all _) (mask_trans rfl hm)

theorem only_wrPrt {m : Nat} {a s : State} (x1 x2 x3) (hm : 0xfffff0628c30062a80 ||| m = m) (h : Only m a s) : OnlyR m a (State.wrPrt s x1 x2 x3) := by
  unfold State.wrPrt
  try dsimp only
  repeat' first
    | (with_reducible first
        | assumption | (intro _; try dsimp only) | apply onlyR_next | apply only_execPrtCfg | apply only_execPrtPreCfg
        | apply only_execPrtRedCfg | apply only_clrWord | apply only_execPrtCntClr | apply only_ite | apply onlyR_ite
        | refine only_res ‹_ = Host.Outcome.next _› ?_ | (split; all_goals try dsimp only))
    | exact mask_trans rfl hm

theorem only_wrPwr {m : Nat} {a s : State} (x1 x2 x3) (hm : 0xfffffffffd31ffb3d5 ||| m = m) (h : Only m a s) : OnlyR m a (State.wrPwr s x1 x2 x3) := by
  unfold State.wrPwr
  try dsimp only
  repeat' first
    | (with_reducible first
        | assumption | (intro _; try dsimp only) | apply onlyR_next | apply only_guarded | apply only_execPwrEngClkSet
        | apply only_wrDomCtrl | apply only_setN | apply only_ite | apply onlyR_ite
        | refine only_res ‹_ = Host.Outcome.next _› ?_ | (split; all_goals try dsimp only))
    | exact mask_trans rfl hm | exact mask_trans (fieldMask_all _) (mask_trans rfl hm)

theorem only_wrSau {m : Nat} {a s : State} (x1 x2 x3) (hm : 0x8801ffffc306c0081 ||| m = m) (h : Only m a s) : OnlyR m a (State.wrSau s x1 x2 x3) := by
  unfold State.wrSau
  try dsimp only
  repeat' first
    | (with_reducible first
        | assumption | (intro _; try dsimp only) | apply onlyR_next | apply only_execSauCfg | apply only_clrWord
        | apply only_execSauCntClr | apply only_execSauStCfg | apply only_execSauJgEn | apply only_execSauPubCfg
        | apply only_plain | apply only_ite | apply onlyR_ite | refine only_res ‹_ = Host.Outcome.next _› ?_
        | (split; all_goals try dsimp only))
    | exact mask_trans rfl hm

theorem only_wrSwc {m : Nat} {a s : State} (x1 x2 x3) (hm : 0x1001ffffc30020080 ||| m = m) (h : Only m a s) : OnlyR m a (State.wrSwc s x1 x2 x3) := by
  unfold State.wrSwc
  try dsimp only
  repeat' first
    | (with_reducible first
        | assumption | (intro _; try dsimp only) | apply onlyR_next | apply only_execSwcLayoutApply
        | apply only_guarded | apply only_clrWord | apply only_execSwcCntClr | apply only_storeWord
        | apply only_execSwcRgMaskH | apply only_plain | apply only_setN | apply only_ite | apply onlyR_ite
        | refine only_res ‹_ = Host.Outcome.next _› ?_ | apply only_id | (split; all_goals try dsimp only))
    | exact mask_trans rfl hm | exact mask_trans (fieldMask_all _) (mask_trans rfl hm)

theorem only_wrTbl {m : Nat} {a s : State} (x1 x2 x3) (hm : 0x40201ffffd30018180 ||| m = m) (h : Only m a s) : OnlyR m a (State.wrTbl s x1 x2 x3) := by
  unfold State.wrTbl
  try dsimp only
  repeat' first
    | (with_reducible first
        | assumption | (intro _; try dsimp only) | apply onlyR_next | apply only_guarded | apply only_clrWord
        | apply only_execTblCntClr | apply only_execTblSeedNext | apply only_execTblSeed | apply only_wrWindow
        | apply only_tblStart | apply only_plain | apply only_setN | apply only_ite | apply onlyR_ite
        | refine only_res ‹_ = Host.Outcome.next _› ?_ | (split; all_goals try dsimp only))
    | exact mask_trans rfl hm | exact mask_trans (fieldMask_all _) (mask_trans rfl hm)

theorem only_wrTim {m : Nat} {a s : State} (x1 x2 x3) (hm : 0x1ffffc300000c0 ||| m = m) (h : Only m a s) : OnlyR m a (State.wrTim s x1 x2 x3) := by
  unfold State.wrTim
  try dsimp only
  repeat' first
    | with_reducible exact Or.inr rfl
    | (with_reducible first
        | assumption | (intro _; try dsimp only) | apply onlyR_next | apply only_guarded | apply only_wrPtpLock
        | apply only_wrTimSrc | apply only_timCmd | apply only_execTimAdjFreq | apply only_storeWord
        | apply only_wrFields | apply only_ite | apply onlyR_ite | refine only_res ‹_ = Host.Outcome.next _› ?_
        | (split; all_goals try dsimp only) | apply only_set_tim | (apply only_mk (e33 := rfl)))
    | exact bit_of hm rfl | exact Or.inl (bit_of hm rfl) | exact Or.inr rfl | exact mask_trans rfl hm
    | exact mask_trans (fieldsMask_all _) (mask_trans rfl hm)

theorem only_wrTmg {m : Nat} {a s : State} (x1 x2 x3) (hm : 0x2001ffffc30040080 ||| m = m) (h : Only m a s) : OnlyR m a (State.wrTmg s x1 x2 x3) := by
  unfold State.wrTmg
  try dsimp only
  repeat' first
    | (with_reducible first
        | assumption | (intro _; try dsimp only) | apply onlyR_next | apply only_clrWord | apply only_execTmgCntClr
        | apply only_execTmgCg | apply only_execShaperConfig | apply only_execTmgQCfg | apply only_ite
        | apply onlyR_ite | refine only_res ‹_ = Host.Outcome.next _› ?_ | (split; all_goals try dsimp only))
    | exact mask_trans rfl hm

theorem only_wrTsk {m : Nat} {a s : State} (x1 x2 x3) (hm : 0xfffffffffd30da2391 ||| m = m) (h : Only m a s) : OnlyR m a (State.wrTsk s x1 x2 x3) := by
  unfold State.wrTsk
  try dsimp only
  repeat' first
    | (with_reducible first
        | assumption | (intro _; try dsimp only) | apply onlyR_next | apply only_guardedHere | apply only_clrWord
        | apply only_execTskCntClr | apply only_execTskFbEn | apply only_execInject | apply only_execCtxResume
        | apply only_execCtxAbort | apply only_execDmaResume | apply only_execDmaAbort | apply only_wrWindow
        | apply only_tcStart | apply only_tcEnd | apply only_execTskTtEn | apply only_plain | apply only_setN
        | apply only_ite | apply onlyR_ite | refine only_res ‹_ = Host.Outcome.next _› ?_
        | (split; all_goals try dsimp only))
    | exact mask_trans rfl hm | exact mask_trans (fieldMask_all _) (mask_trans rfl hm)

theorem only_regWrite {m : Nat} {a s : State} (x1 x2 x3) (hm : 0xffffffffffffffffff ||| m = m) (h : Only m a s) : OnlyR m a (State.regWrite s x1 x2 x3) := by
  unfold State.regWrite
  try dsimp only
  repeat' first
    | (with_reducible first
        | assumption | (intro _; try dsimp only) | apply onlyR_next | apply only_useRegs | apply only_w1c
        | apply only_wrGlb | apply only_wrPwr | apply only_wrTim | apply only_wrPrt | apply only_wrPar
        | apply only_wrCls | apply only_wrTbl | apply only_wrFlw | apply only_wrSau | apply only_wrSwc
        | apply only_wrTmg | apply only_clrWord | apply only_execEngCntClr | apply only_wrTsk | apply only_wrMmu
        | apply only_wrAut | apply only_wrMem | apply only_wrHst | apply only_wrFus | apply only_wrHea
        | apply only_ite | apply onlyR_ite | refine only_res ‹_ = Host.Outcome.next _› ?_
        | (split; all_goals try dsimp only))
    | exact mask_trans rfl hm

theorem only_cfgNext {m : Nat} {a s : State} (hm : 0xffffffffffffffffff ||| m = m) (h : Only m a s) : OnlyR m a (State.cfgNext s) := by
  unfold State.cfgNext
  try dsimp only
  repeat' first
    | with_reducible exact Or.inr rfl
    | (with_reducible first
        | assumption | (intro _; try dsimp only) | apply onlyR_next | apply only_imgEnd | apply only_regWrite
        | apply only_cfgStop | apply only_ite | apply onlyR_ite | refine only_res ‹_ = Host.Outcome.next _› ?_
        | (split; all_goals try dsimp only) | apply only_set_img | (apply only_mk (e33 := rfl)))
    | exact bit_of hm rfl | exact Or.inl (bit_of hm rfl) | exact Or.inr rfl | exact mask_trans rfl hm

theorem only_execConfigRecord {m : Nat} {a s : State} (hm : 0xffffffffffffffffff ||| m = m) (h : Only m a s) : OnlyR m a (execConfigRecord s) := by
  unfold execConfigRecord
  try dsimp only
  repeat' first
    | with_reducible exact Or.inr rfl
    | (with_reducible first
        | assumption | (intro _; try dsimp only) | apply onlyR_next | apply only_cfgNext | apply only_cfgStop
        | apply only_ite | apply onlyR_ite | refine only_res ‹_ = Host.Outcome.next _› ?_
        | (split; all_goals try dsimp only) | apply only_set_img | (apply only_mk (e33 := rfl)))
    | exact bit_of hm rfl | exact Or.inl (bit_of hm rfl) | exact Or.inr rfl | exact mask_trans rfl hm

theorem only_execRegisterWrite {m : Nat} {a s : State} (x0 x1 x2) (hm : 0xffffffffffffffffff ||| m = m) (h : Only m a s) : OnlyR m a (execRegisterWrite x0 x1 x2 s) := by
  unfold execRegisterWrite
  try dsimp only
  repeat' first
    | (with_reducible first
        | assumption | (intro _; try dsimp only) | apply onlyR_next | apply only_regWrite)
    | exact mask_trans rfl hm

theorem only_execWriteOneClear {m : Nat} {a s : State} (x0 x1 x2) (hm : 0x1ffffc30000081 ||| m = m) (h : Only m a s) : OnlyR m a (execWriteOneClear x0 x1 x2 s) := by
  unfold execWriteOneClear
  try dsimp only
  repeat' first
    | (with_reducible first
        | assumption | (intro _; try dsimp only) | apply onlyR_next | apply only_w1c | apply only_useRegs
        | apply only_ite | apply onlyR_ite | (split; all_goals try dsimp only))
    | exact mask_trans rfl hm

theorem only_answer {m : Nat} {a s : State} (x1 x2) (hm : 0x20 ||| m = m) (h : Only m a s) : Only m a (State.answer s x1 x2) := by
  unfold State.answer
  try dsimp only
  repeat' first
    | with_reducible exact Or.inr rfl
    | (with_reducible first
        | assumption | (intro _; try dsimp only) | apply only_set_mon | (apply only_mk (e33 := rfl)))
    | exact bit_of hm rfl | exact Or.inl (bit_of hm rfl) | exact Or.inr rfl | exact mask_trans rfl hm

theorem only_answerEr {m : Nat} {a s : State} (x1) (hm : 0x20 ||| m = m) (h : Only m a s) : Only m a (State.answerEr s x1) := by
  unfold State.answerEr
  try dsimp only
  repeat' first
    | (with_reducible first
        | assumption | (intro _; try dsimp only) | apply only_answer)
    | exact mask_trans rfl hm

theorem only_burnCause {m : Nat} {a s : State} (hm : 0x2410000080 ||| m = m) (h : Only m a s) : Only m a (State.burnCause s) := by
  unfold State.burnCause
  try dsimp only
  repeat' first
    | (with_reducible first
        | assumption | (intro _; try dsimp only) | apply only_raise | apply only_setB | apply only_ite
        | (split; all_goals try dsimp only))
    | exact mask_trans rfl hm | exact mask_trans (evMask_all _) (mask_trans rfl hm)
    | exact mask_trans (fieldMask_all _) (mask_trans rfl hm) | apply mask_or

theorem only_closeSession {m : Nat} {a s : State} (hm : 0x4100000a0 ||| m = m) (h : Only m a s) : Only m a (State.closeSession s) := by
  unfold State.closeSession
  try dsimp only
  repeat' first
    | with_reducible exact Or.inr rfl
    | (with_reducible first
        | assumption | (intro _; try dsimp only) | apply only_raise | apply only_set_mon
        | (apply only_mk (e33 := rfl)))
    | exact bit_of hm rfl | exact Or.inl (bit_of hm rfl) | exact Or.inr rfl | exact mask_trans rfl hm
    | exact mask_trans (evMask_all _) (mask_trans rfl hm) | apply mask_or

theorem only_fuseAnswer {m : Nat} {a s : State} (hm : 0x20 ||| m = m) (h : Only m a s) : Only m a (State.fuseAnswer s) := by
  unfold State.fuseAnswer
  try dsimp only
  repeat' first
    | (with_reducible first
        | assumption | (intro _; try dsimp only) | apply only_answer | apply only_ite
        | (split; all_goals try dsimp only))
    | exact mask_trans rfl hm

theorem only_monMode {m : Nat} {a s : State} (x1 x2) (hm : 0xffffffffffffffffff ||| m = m) (h : Only m a s) : Only m a (State.monMode s x1 x2) := by
  unfold State.monMode
  try dsimp only
  repeat' first
    | (with_reducible first
        | assumption | (intro _; try dsimp only) | apply only_answerEr | apply only_modeRefused | apply only_answer
        | apply only_startDrain | apply only_enterMode | apply only_ite | (split; all_goals try dsimp only))
    | exact mask_trans rfl hm

theorem only_monRepair {m : Nat} {a s : State} (x1) (hm : 0x1ffffc100001a0 ||| m = m) (h : Only m a s) : Only m a (State.monRepair s x1) := by
  unfold State.monRepair
  try dsimp only
  repeat' first
    | (with_reducible first
        | assumption | (intro _; try dsimp only) | apply only_answerEr | apply only_startRepair | apply only_answer
        | apply only_ite | (split; all_goals try dsimp only))
    | exact mask_trans rfl hm

theorem only_monitor {m : Nat} {a s : State} (x1 x2 x3) (h3 : ∀ s, Only m a s → Only m a (x3 s)) (hm : 0x20 ||| m = m) (h : Only m a s) : OnlyR m a (State.monitor s x1 x2 x3) := by
  unfold State.monitor
  try dsimp only
  repeat' first
    | (with_reducible first
        | assumption | (intro _; try dsimp only) | apply h3 | apply onlyR_next | apply only_answerEr | apply only_ite
        | apply onlyR_ite | (split; all_goals try dsimp only))
    | exact mask_trans rfl hm

theorem only_readRegs {m : Nat} {a s : State} (x1 x2) (hm : 0x1ffffd08430101 ||| m = m) (h : Only m a s) : Only m a (State.readRegs s x1 x2).2 := by
  induction x2 generalizing s x1 with
  | zero => rw [State.readRegs]; exact h
  | succ n ih =>
    rw [State.readRegs]
    repeat' first
      | (with_reducible first
          | assumption | (intro _; try dsimp only) | apply ih | apply only_regRead | apply only_ite
          | (apply only_ite_snd <;> try dsimp only) | (apply only_ite_fst <;> try dsimp only)
          | refine only_snd ‹_ = (_, _)› ?_ | refine only_fst ‹_ = (_, _)› ?_ | refine only_trd ‹_ = (_, _, _)› ?_
          | refine only_fth ‹_ = (_, _, _, _)› ?_ | (split; all_goals try dsimp only))
      | exact mask_trans rfl hm

theorem only_execAutobaudCharacter {m : Nat} {a s : State} (x0) (hm : 0x100000020 ||| m = m) (h : Only m a s) : OnlyR m a (execAutobaudCharacter x0 s) := by
  unfold execAutobaudCharacter
  try dsimp only
  repeat' first
    | with_reducible exact Or.inr rfl
    | (with_reducible first
        | assumption | (intro _; try dsimp only) | apply onlyR_next | apply only_draw | apply only_ite
        | (apply only_ite_snd <;> try dsimp only) | (apply only_ite_fst <;> try dsimp only) | apply onlyR_ite
        | refine only_snd ‹_ = (_, _)› ?_ | refine only_fst ‹_ = (_, _)› ?_ | refine only_trd ‹_ = (_, _, _)› ?_
        | refine only_fth ‹_ = (_, _, _, _)› ?_ | (split; all_goals try dsimp only) | apply only_set_mon
        | (apply only_mk (e33 := rfl)))
    | exact bit_of hm rfl | exact Or.inl (bit_of hm rfl) | exact Or.inr rfl | exact mask_trans rfl hm

theorem only_execBaud {m : Nat} {a s : State} (x0) (hm : 0x20 ||| m = m) (h : Only m a s) : OnlyR m a (execBaud x0 s) := by
  unfold execBaud
  try dsimp only
  repeat' first
    | with_reducible exact Or.inr rfl
    | (with_reducible first
        | assumption | (intro _; try dsimp only) | apply onlyR_next | apply only_monitor | apply only_answerEr
        | apply only_answer | apply only_ite | apply onlyR_ite | refine only_res ‹_ = Host.Outcome.next _› ?_
        | (split; all_goals try dsimp only) | apply only_set_mon | (apply only_mk (e33 := rfl)))
    | exact bit_of hm rfl | exact Or.inl (bit_of hm rfl) | exact Or.inr rfl | exact mask_trans rfl hm

theorem only_execBaudAuto {m : Nat} {a s : State} (hm : 0x20 ||| m = m) (h : Only m a s) : OnlyR m a (execBaudAuto s) := by
  unfold execBaudAuto
  try dsimp only
  repeat' first
    | with_reducible exact Or.inr rfl
    | (with_reducible first
        | assumption | (intro _; try dsimp only) | apply onlyR_next | apply only_monitor | apply only_answer
        | apply only_set_mon | (apply only_mk (e33 := rfl)))
    | exact bit_of hm rfl | exact Or.inl (bit_of hm rfl) | exact Or.inr rfl | exact mask_trans rfl hm

theorem only_execBaudAutoTimeout {m : Nat} {a s : State} (hm : 0x20 ||| m = m) (h : Only m a s) : OnlyR m a (execBaudAutoTimeout s) := by
  unfold execBaudAutoTimeout
  try dsimp only
  repeat' first
    | with_reducible exact Or.inr rfl
    | (with_reducible first
        | assumption | (intro _; try dsimp only) | apply onlyR_next | apply only_ite | apply onlyR_ite
        | (split; all_goals try dsimp only) | apply only_set_mon | (apply only_mk (e33 := rfl)))
    | exact bit_of hm rfl | exact Or.inl (bit_of hm rfl) | exact Or.inr rfl | exact mask_trans rfl hm

theorem only_execCap {m : Nat} {a s : State} (hm : 0x20 ||| m = m) (h : Only m a s) : OnlyR m a (execCap s) := by
  unfold execCap
  try dsimp only
  repeat' first
    | (with_reducible first
        | assumption | (intro _; try dsimp only) | apply onlyR_next | apply only_monitor | apply only_answer)
    | exact mask_trans rfl hm

theorem only_execEvt {m : Nat} {a s : State} (x0) (hm : 0x20 ||| m = m) (h : Only m a s) : OnlyR m a (execEvt x0 s) := by
  unfold execEvt
  try dsimp only
  repeat' first
    | (with_reducible first
        | assumption | (intro _; try dsimp only) | apply onlyR_next | apply only_monitor | apply only_answerEr
        | apply only_answer | apply only_ite | apply onlyR_ite | refine only_res ‹_ = Host.Outcome.next _› ?_
        | (split; all_goals try dsimp only))
    | exact mask_trans rfl hm

theorem only_execExit {m : Nat} {a s : State} (hm : 0x4100000a0 ||| m = m) (h : Only m a s) : OnlyR m a (execExit s) := by
  unfold execExit
  try dsimp only
  repeat' first
    | (with_reducible first
        | assumption | (intro _; try dsimp only) | apply onlyR_next | apply only_monitor | apply only_closeSession
        | apply only_answer)
    | exact mask_trans rfl hm

theorem only_execFlashEr {m : Nat} {a s : State} (x0) (hm : 0x80000020 ||| m = m) (h : Only m a s) : OnlyR m a (execFlashEr x0 s) := by
  unfold execFlashEr
  try dsimp only
  repeat' first
    | with_reducible exact Or.inr rfl
    | (with_reducible first
        | assumption | (intro _; try dsimp only) | apply onlyR_next | apply only_monitor | apply only_answer
        | apply only_set_flash | (apply only_mk (e33 := rfl)))
    | exact bit_of hm rfl | exact Or.inl (bit_of hm rfl) | exact Or.inr rfl | exact mask_trans rfl hm

theorem only_execFlashRd {m : Nat} {a s : State} (x0 x1) (hm : 0x20 ||| m = m) (h : Only m a s) : OnlyR m a (execFlashRd x0 x1 s) := by
  unfold execFlashRd
  try dsimp only
  repeat' first
    | (with_reducible first
        | assumption | (intro _; try dsimp only) | apply onlyR_next | apply only_monitor | apply only_answerEr
        | apply only_answer | apply only_ite | apply onlyR_ite | refine only_res ‹_ = Host.Outcome.next _› ?_
        | (split; all_goals try dsimp only))
    | exact mask_trans rfl hm

theorem only_execFlashWr {m : Nat} {a s : State} (x0 x1) (hm : 0x80000020 ||| m = m) (h : Only m a s) : OnlyR m a (execFlashWr x0 x1 s) := by
  unfold execFlashWr
  try dsimp only
  repeat' first
    | with_reducible exact Or.inr rfl
    | (with_reducible first
        | assumption | (intro _; try dsimp only) | apply onlyR_next | apply only_monitor | apply only_answer
        | apply only_set_flash | (apply only_mk (e33 := rfl)))
    | exact bit_of hm rfl | exact Or.inl (bit_of hm rfl) | exact Or.inr rfl | exact mask_trans rfl hm

theorem only_execFuseRd {m : Nat} {a s : State} (x0 x1) (hm : 0x20 ||| m = m) (h : Only m a s) : OnlyR m a (execFuseRd x0 x1 s) := by
  unfold execFuseRd
  try dsimp only
  repeat' first
    | (with_reducible first
        | assumption | (intro _; try dsimp only) | apply onlyR_next | apply only_monitor | apply only_answerEr
        | apply only_answer | apply only_ite | apply onlyR_ite | refine only_res ‹_ = Host.Outcome.next _› ?_
        | (split; all_goals try dsimp only))
    | exact mask_trans rfl hm

theorem only_execFuseSeal {m : Nat} {a s : State} (x0) (hm : 0x1ffffc100000b0 ||| m = m) (h : Only m a s) : OnlyR m a (execFuseSeal x0 s) := by
  unfold execFuseSeal
  try dsimp only
  repeat' first
    | (with_reducible first
        | assumption | (intro _; try dsimp only) | apply onlyR_next | apply only_monitor | apply only_fuseAnswer
        | apply only_fuseSeal)
    | exact mask_trans rfl hm

theorem only_execFuseWr {m : Nat} {a s : State} (x0 x1 x2) (hm : 0x1ffffc100000b0 ||| m = m) (h : Only m a s) : OnlyR m a (execFuseWr x0 x1 x2 s) := by
  unfold execFuseWr
  try dsimp only
  repeat' first
    | (with_reducible first
        | assumption | (intro _; try dsimp only) | apply onlyR_next | apply only_monitor | apply only_fuseAnswer
        | apply only_fuseProgram)
    | exact mask_trans rfl hm

theorem only_execHbmBurn {m : Nat} {a s : State} (hm : 0x1ffffc100001a0 ||| m = m) (h : Only m a s) : OnlyR m a (execHbmBurn s) := by
  unfold execHbmBurn
  try dsimp only
  repeat' first
    | (with_reducible first
        | assumption | (intro _; try dsimp only) | apply onlyR_next | apply only_monitor | apply only_monRepair)
    | exact mask_trans rfl hm

theorem only_execHbmTest {m : Nat} {a s : State} (hm : 0x1ffffc100001a0 ||| m = m) (h : Only m a s) : OnlyR m a (execHbmTest s) := by
  unfold execHbmTest
  try dsimp only
  repeat' first
    | (with_reducible first
        | assumption | (intro _; try dsimp only) | apply onlyR_next | apply only_monitor | apply only_monRepair)
    | exact mask_trans rfl hm

theorem only_execHealth {m : Nat} {a s : State} (hm : 0x20 ||| m = m) (h : Only m a s) : OnlyR m a (execHealth s) := by
  unfold execHealth
  try dsimp only
  repeat' first
    | (with_reducible first
        | assumption | (intro _; try dsimp only) | apply onlyR_next | apply only_monitor | apply only_answer
        | apply only_ite | apply onlyR_ite | (apply only_foldl; intro s x hs; try dsimp only)
        | (apply only_foldl_snd; intro c s x hs; try dsimp only)
        | (apply only_foldl_fst; intro c s x hs; try dsimp only)
        | (apply only_foldl_trd; intro c d s x hs; try dsimp only) | refine only_snd ‹_ = (_, _)› ?_
        | refine only_fst ‹_ = (_, _)› ?_ | refine only_trd ‹_ = (_, _, _)› ?_ | refine only_fth ‹_ = (_, _, _, _)› ?_
        | refine only_res ‹_ = Host.Outcome.next _› ?_ | (split; all_goals try dsimp only))
    | exact mask_trans rfl hm

theorem only_execHealthBurn {m : Nat} {a s : State} (x0) (hm : 0x2410000090 ||| m = m) (h : Only m a s) : OnlyR m a (execHealthBurn x0 s) := by
  unfold execHealthBurn
  try dsimp only
  repeat' first
    | (with_reducible first
        | exact fuse_same rfl | exact fusesKept_put _ _ _ | exact fusesKept_flags _ _)
    | with_reducible exact Or.inr rfl
    | (with_reducible first
        | assumption | (intro _; try dsimp only) | apply onlyR_next | apply only_burnCause | apply only_setB
        | apply only_ite | apply onlyR_ite | (apply only_foldl; intro s x hs; try dsimp only)
        | (apply only_foldl_snd; intro c s x hs; try dsimp only)
        | (apply only_foldl_fst; intro c s x hs; try dsimp only)
        | (apply only_foldl_trd; intro c d s x hs; try dsimp only) | refine only_snd ‹_ = (_, _)› ?_
        | refine only_fst ‹_ = (_, _)› ?_ | refine only_trd ‹_ = (_, _, _)› ?_ | refine only_fth ‹_ = (_, _, _, _)› ?_
        | (split; all_goals try dsimp only) | apply only_set_fus | (apply only_mk (e33 := rfl)))
    | exact bit_of hm rfl | exact Or.inl (bit_of hm rfl)
    | (refine Or.inl ⟨bit_of hm rfl, ?_⟩; with_reducible first | exact fuse_same rfl | exact fusesKept_put _ _ _ | exact fusesKept_flags _ _)
    | exact Or.inr rfl | exact mask_trans rfl hm | exact mask_trans (fieldMask_all _) (mask_trans rfl hm)

theorem only_execId {m : Nat} {a s : State} (hm : 0x20 ||| m = m) (h : Only m a s) : OnlyR m a (execId s) := by
  unfold execId
  try dsimp only
  repeat' first
    | (with_reducible first
        | assumption | (intro _; try dsimp only) | apply onlyR_next | apply only_monitor | apply only_answer)
    | exact mask_trans rfl hm

theorem only_execJtagInstruction {m : Nat} {a s : State} (x0) (hm : 0x20 ||| m = m) (h : Only m a s) : OnlyR m a (execJtagInstruction x0 s) := by
  unfold execJtagInstruction
  try dsimp only
  repeat' first
    | with_reducible exact Or.inr rfl
    | (with_reducible first
        | assumption | (intro _; try dsimp only) | apply onlyR_next | apply only_ite | apply onlyR_ite
        | (split; all_goals try dsimp only) | apply only_set_mon | (apply only_mk (e33 := rfl)))
    | exact bit_of hm rfl | exact Or.inl (bit_of hm rfl) | exact Or.inr rfl | exact mask_trans rfl hm

theorem only_execMode {m : Nat} {a s : State} (x0 x1) (hm : 0xffffffffffffffffff ||| m = m) (h : Only m a s) : OnlyR m a (execMode x0 x1 s) := by
  unfold execMode
  try dsimp only
  repeat' first
    | (with_reducible first
        | assumption | (intro _; try dsimp only) | apply onlyR_next | apply only_monitor | apply only_answer
        | apply only_monMode | refine only_res ‹_ = Host.Outcome.next _› ?_ | (split; all_goals try dsimp only))
    | exact mask_trans rfl hm

theorem only_execMonitorLine {m : Nat} {a s : State} (x0 x1) (hm : 0x4100000a0 ||| m = m) (h : Only m a s) : OnlyR m a (execMonitorLine x0 x1 s) := by
  unfold execMonitorLine
  try dsimp only
  repeat' first
    | with_reducible exact Or.inr rfl
    | (with_reducible first
        | assumption | (intro _; try dsimp only) | apply onlyR_next | apply only_answerEr | apply only_raise
        | apply only_ite | apply onlyR_ite | (split; all_goals try dsimp only) | apply only_set_mon
        | (apply only_mk (e33 := rfl)))
    | exact bit_of hm rfl | exact Or.inl (bit_of hm rfl) | exact Or.inr rfl | exact mask_trans rfl hm
    | exact mask_trans (evMask_all _) (mask_trans rfl hm) | apply mask_or

theorem only_execMonitorLoad {m : Nat} {a s : State} (x0 x1) (hm : 0xffffffffffffffffff ||| m = m) (h : Only m a s) : OnlyR m a (execMonitorLoad x0 x1 s) := by
  unfold execMonitorLoad
  try dsimp only
  repeat' first
    | (with_reducible first
        | assumption | (intro _; try dsimp only) | apply onlyR_next | apply only_monitor | apply only_readManifest
        | apply only_takeSfdp | apply only_answerEr | apply only_answer | apply only_enterMode
        | apply only_takeManifest | apply only_raise | refine only_snd ‹_ = (_, _)› ?_
        | refine only_fst ‹_ = (_, _)› ?_ | refine only_trd ‹_ = (_, _, _)› ?_ | refine only_fth ‹_ = (_, _, _, _)› ?_
        | refine only_res ‹_ = Host.Outcome.next _› ?_ | (split; all_goals try dsimp only))
    | exact mask_trans rfl hm | exact mask_trans (evMask_all _) (mask_trans rfl hm) | apply mask_or

theorem only_execMonitorSessionTimeout {m : Nat} {a s : State} (hm : 0x4100000a0 ||| m = m) (h : Only m a s) : OnlyR m a (execMonitorSessionTimeout s) := by
  unfold execMonitorSessionTimeout
  try dsimp only
  repeat' first
    | (with_reducible first
        | assumption | (intro _; try dsimp only) | apply onlyR_next | apply only_closeSession | apply only_ite
        | apply onlyR_ite | (split; all_goals try dsimp only))
    | exact mask_trans rfl hm

theorem only_execRd {m : Nat} {a s : State} (x0 x1) (hm : 0x1ffffd08430121 ||| m = m) (h : Only m a s) : OnlyR m a (execRd x0 x1 s) := by
  unfold execRd
  try dsimp only
  repeat' first
    | (with_reducible first
        | assumption | (intro _; try dsimp only) | apply onlyR_next | apply only_monitor | apply only_answerEr
        | apply only_readRegs | apply only_answer | apply only_ite | (apply only_ite_snd <;> try dsimp only)
        | (apply only_ite_fst <;> try dsimp only) | apply onlyR_ite | refine only_snd ‹_ = (_, _)› ?_
        | refine only_fst ‹_ = (_, _)› ?_ | refine only_trd ‹_ = (_, _, _)› ?_ | refine only_fth ‹_ = (_, _, _, _)› ?_
        | refine only_res ‹_ = Host.Outcome.next _› ?_ | (split; all_goals try dsimp only))
    | exact mask_trans rfl hm

theorem only_execReset {m : Nat} {a s : State} (hm : 0xffffffffffffffffff ||| m = m) (h : Only m a s) : OnlyR m a (execReset s) := by
  unfold execReset
  try dsimp only
  repeat' first
    | (with_reducible first
        | assumption | (intro _; try dsimp only) | apply onlyR_next | apply only_monitor | apply only_warmStart
        | apply only_answer)
    | exact mask_trans rfl hm

theorem only_execWr {m : Nat} {a s : State} (x0 x1) (hm : 0xffffffffffffffffff ||| m = m) (h : Only m a s) : OnlyR m a (execWr x0 x1 s) := by
  unfold execWr
  try dsimp only
  repeat' first
    | (with_reducible first
        | assumption | (intro _; try dsimp only) | apply onlyR_next | apply only_monitor | apply only_answerEr
        | apply only_regWrite | apply only_answer | apply only_ite | apply onlyR_ite
        | refine only_res ‹_ = Host.Outcome.next _› ?_ | (split; all_goals try dsimp only))
    | exact mask_trans rfl hm

theorem only_execRgrd {m : Nat} {a s : State} (x0 x1) (hm : 0xfffffffffd39ffb3d5 ||| m = m) (h : Only m a s) : OnlyR m a (execRgrd x0 x1 s) := by
  unfold execRgrd
  try dsimp only
  repeat' first
    | (with_reducible first
        | assumption | (intro _; try dsimp only) | apply onlyR_next | apply only_issue | apply only_trapAt
        | apply only_regRead | apply only_retireRd | apply only_ite | (apply only_ite_snd <;> try dsimp only)
        | (apply only_ite_fst <;> try dsimp only) | apply onlyR_ite | refine only_snd ‹_ = (_, _)› ?_
        | refine only_fst ‹_ = (_, _)› ?_ | refine only_trd ‹_ = (_, _, _)› ?_ | refine only_fth ‹_ = (_, _, _, _)› ?_
        | (split; all_goals try dsimp only))
    | exact mask_trans rfl hm

theorem only_execRgwr {m : Nat} {a s : State} (x0 x1) (hm : 0xffffffffffffffffff ||| m = m) (h : Only m a s) : OnlyR m a (execRgwr x0 x1 s) := by
  unfold execRgwr
  try dsimp only
  repeat' first
    | (with_reducible first
        | assumption | (intro _; try dsimp only) | apply onlyR_next | apply only_issue | apply only_regWrite
        | apply only_retireRd | apply only_trapAt | apply only_ite | apply onlyR_ite
        | refine only_res ‹_ = Host.Outcome.next _› ?_ | (split; all_goals try dsimp only))
    | exact mask_trans rfl hm

theorem only_aluA {m : Nat} {a s : State} (x1 x2 x3 x4) (hm : 0xfffffffffd31ffb3d5 ||| m = m) (h : Only m a s) : Only m a (State.aluA s x1 x2 x3 x4) := by
  unfold State.aluA
  try dsimp only
  repeat' first
    | (with_reducible first
        | assumption | (intro _; try dsimp only) | apply only_issue | apply only_retireRd)
    | exact mask_trans rfl hm

theorem only_aluB {m : Nat} {a s : State} (x1 x2 x3 x4 x5) (hm : 0xfffffffffd31ffb3d5 ||| m = m) (h : Only m a s) : Only m a (State.aluB s x1 x2 x3 x4 x5) := by
  unfold State.aluB
  try dsimp only
  repeat' first
    | (with_reducible first
        | assumption | (intro _; try dsimp only) | apply only_issue | apply only_retireRd)
    | exact mask_trans rfl hm

theorem only_aluU {m : Nat} {a s : State} (x1 x2 x3 x4 x5) (hm : 0xfffffffffd31ffb3d5 ||| m = m) (h : Only m a s) : Only m a (State.aluU s x1 x2 x3 x4 x5) := by
  unfold State.aluU
  try dsimp only
  repeat' first
    | (with_reducible first
        | assumption | (intro _; try dsimp only) | apply only_issue | apply only_retireRd)
    | exact mask_trans rfl hm

theorem only_branch {m : Nat} {a s : State} (x1 x2 x3 x4) (hm : 0xfffffffffd31ffb3d5 ||| m = m) (h : Only m a s) : Only m a (State.branch s x1 x2 x3 x4) := by
  unfold State.branch
  try dsimp only
  repeat' first
    | (with_reducible first
        | assumption | (intro _; try dsimp only) | apply only_issue | apply only_retire | apply only_ite
        | (split; all_goals try dsimp only))
    | exact mask_trans rfl hm

theorem only_execAdd {m : Nat} {a s : State} (x0 x1) (hm : 0xfffffffffd31ffb3d5 ||| m = m) (h : Only m a s) : OnlyR m a (execAdd x0 x1 s) := by
  unfold execAdd
  try dsimp only
  repeat' first
    | (with_reducible first
        | assumption | (intro _; try dsimp only) | apply onlyR_next | apply only_aluA)
    | exact mask_trans rfl hm

theorem only_execAddi {m : Nat} {a s : State} (x0 x1) (hm : 0xfffffffffd31ffb3d5 ||| m = m) (h : Only m a s) : OnlyR m a (execAddi x0 x1 s) := by
  unfold execAddi
  try dsimp only
  repeat' first
    | (with_reducible first
        | assumption | (intro _; try dsimp only) | apply onlyR_next | apply only_aluB)
    | exact mask_trans rfl hm

theorem only_execAnd {m : Nat} {a s : State} (x0 x1) (hm : 0xfffffffffd31ffb3d5 ||| m = m) (h : Only m a s) : OnlyR m a (execAnd x0 x1 s) := by
  unfold execAnd
  try dsimp only
  repeat' first
    | (with_reducible first
        | assumption | (intro _; try dsimp only) | apply onlyR_next | apply only_aluA)
    | exact mask_trans rfl hm

theorem only_execAndi {m : Nat} {a s : State} (x0 x1) (hm : 0xfffffffffd31ffb3d5 ||| m = m) (h : Only m a s) : OnlyR m a (execAndi x0 x1 s) := by
  unfold execAndi
  try dsimp only
  repeat' first
    | (with_reducible first
        | assumption | (intro _; try dsimp only) | apply onlyR_next | apply only_aluB)
    | exact mask_trans rfl hm

theorem only_execBreq {m : Nat} {a s : State} (x0 x1) (hm : 0xfffffffffd31ffb3d5 ||| m = m) (h : Only m a s) : OnlyR m a (execBreq x0 x1 s) := by
  unfold execBreq
  try dsimp only
  repeat' first
    | (with_reducible first
        | assumption | (intro _; try dsimp only) | apply onlyR_next | apply only_branch)
    | exact mask_trans rfl hm

theorem only_execBrge {m : Nat} {a s : State} (x0 x1) (hm : 0xfffffffffd31ffb3d5 ||| m = m) (h : Only m a s) : OnlyR m a (execBrge x0 x1 s) := by
  unfold execBrge
  try dsimp only
  repeat' first
    | (with_reducible first
        | assumption | (intro _; try dsimp only) | apply onlyR_next | apply only_branch)
    | exact mask_trans rfl hm

theorem only_execBrgeu {m : Nat} {a s : State} (x0 x1) (hm : 0xfffffffffd31ffb3d5 ||| m = m) (h : Only m a s) : OnlyR m a (execBrgeu x0 x1 s) := by
  unfold execBrgeu
  try dsimp only
  repeat' first
    | (with_reducible first
        | assumption | (intro _; try dsimp only) | apply onlyR_next | apply only_branch)
    | exact mask_trans rfl hm

theorem only_execBrl {m : Nat} {a s : State} (x0 x1) (hm : 0xfffffffffd31ffb3d5 ||| m = m) (h : Only m a s) : OnlyR m a (execBrl x0 x1 s) := by
  unfold execBrl
  try dsimp only
  repeat' first
    | (with_reducible first
        | assumption | (intro _; try dsimp only) | apply onlyR_next | apply only_issue | apply only_retire)
    | exact mask_trans rfl hm

theorem only_execBrlt {m : Nat} {a s : State} (x0 x1) (hm : 0xfffffffffd31ffb3d5 ||| m = m) (h : Only m a s) : OnlyR m a (execBrlt x0 x1 s) := by
  unfold execBrlt
  try dsimp only
  repeat' first
    | (with_reducible first
        | assumption | (intro _; try dsimp only) | apply onlyR_next | apply only_branch)
    | exact mask_trans rfl hm

theorem only_execBrltu {m : Nat} {a s : State} (x0 x1) (hm : 0xfffffffffd31ffb3d5 ||| m = m) (h : Only m a s) : OnlyR m a (execBrltu x0 x1 s) := by
  unfold execBrltu
  try dsimp only
  repeat' first
    | (with_reducible first
        | assumption | (intro _; try dsimp only) | apply onlyR_next | apply only_branch)
    | exact mask_trans rfl hm

theorem only_execBrne {m : Nat} {a s : State} (x0 x1) (hm : 0xfffffffffd31ffb3d5 ||| m = m) (h : Only m a s) : OnlyR m a (execBrne x0 x1 s) := by
  unfold execBrne
  try dsimp only
  repeat' first
    | (with_reducible first
        | assumption | (intro _; try dsimp only) | apply onlyR_next | apply only_branch)
    | exact mask_trans rfl hm

theorem only_execBswap {m : Nat} {a s : State} (x0 x1) (hm : 0xfffffffffd31ffb3d5 ||| m = m) (h : Only m a s) : OnlyR m a (execBswap x0 x1 s) := by
  unfold execBswap
  try dsimp only
  repeat' first
    | (with_reducible first
        | assumption | (intro _; try dsimp only) | apply onlyR_next | apply only_aluU | apply only_ite
        | apply onlyR_ite | (split; all_goals try dsimp only))
    | exact mask_trans rfl hm

theorem only_execClz {m : Nat} {a s : State} (x0 x1) (hm : 0xfffffffffd31ffb3d5 ||| m = m) (h : Only m a s) : OnlyR m a (execClz x0 x1 s) := by
  unfold execClz
  try dsimp only
  repeat' first
    | (with_reducible first
        | assumption | (intro _; try dsimp only) | apply onlyR_next | apply only_aluU)
    | exact mask_trans rfl hm

theorem only_execCmplt {m : Nat} {a s : State} (x0 x1) (hm : 0xfffffffffd31ffb3d5 ||| m = m) (h : Only m a s) : OnlyR m a (execCmplt x0 x1 s) := by
  unfold execCmplt
  try dsimp only
  repeat' first
    | (with_reducible first
        | assumption | (intro _; try dsimp only) | apply onlyR_next | apply only_aluA | apply only_ite
        | apply onlyR_ite | (split; all_goals try dsimp only))
    | exact mask_trans rfl hm

theorem only_execCmplti {m : Nat} {a s : State} (x0 x1) (hm : 0xfffffffffd31ffb3d5 ||| m = m) (h : Only m a s) : OnlyR m a (execCmplti x0 x1 s) := by
  unfold execCmplti
  try dsimp only
  repeat' first
    | (with_reducible first
        | assumption | (intro _; try dsimp only) | apply onlyR_next | apply only_aluB | apply only_ite
        | apply onlyR_ite | (split; all_goals try dsimp only))
    | exact mask_trans rfl hm

theorem only_execCmpltu {m : Nat} {a s : State} (x0 x1) (hm : 0xfffffffffd31ffb3d5 ||| m = m) (h : Only m a s) : OnlyR m a (execCmpltu x0 x1 s) := by
  unfold execCmpltu
  try dsimp only
  repeat' first
    | (with_reducible first
        | assumption | (intro _; try dsimp only) | apply onlyR_next | apply only_aluA | apply only_ite
        | apply onlyR_ite | (split; all_goals try dsimp only))
    | exact mask_trans rfl hm

theorem only_execDiv {m : Nat} {a s : State} (x0 x1) (hm : 0xfffffffffd31ffb3d5 ||| m = m) (h : Only m a s) : OnlyR m a (execDiv x0 x1 s) := by
  unfold execDiv
  try dsimp only
  repeat' first
    | (with_reducible first
        | assumption | (intro _; try dsimp only) | apply onlyR_next | apply only_aluA)
    | exact mask_trans rfl hm

theorem only_execDivu {m : Nat} {a s : State} (x0 x1) (hm : 0xfffffffffd31ffb3d5 ||| m = m) (h : Only m a s) : OnlyR m a (execDivu x0 x1 s) := by
  unfold execDivu
  try dsimp only
  repeat' first
    | (with_reducible first
        | assumption | (intro _; try dsimp only) | apply onlyR_next | apply only_aluA)
    | exact mask_trans rfl hm

theorem only_execImmh {m : Nat} {a s : State} (x0 x1) (hm : 0xfffffffffd31ffb3d5 ||| m = m) (h : Only m a s) : OnlyR m a (execImmh x0 x1 s) := by
  unfold execImmh
  try dsimp only
  repeat' first
    | (with_reducible first
        | assumption | (intro _; try dsimp only) | apply onlyR_next | apply only_issue | apply only_retireRd)
    | exact mask_trans rfl hm

theorem only_execJrl {m : Nat} {a s : State} (x0 x1) (hm : 0xfffffffffd31ffb3d5 ||| m = m) (h : Only m a s) : OnlyR m a (execJrl x0 x1 s) := by
  unfold execJrl
  try dsimp only
  repeat' first
    | (with_reducible first
        | assumption | (intro _; try dsimp only) | apply onlyR_next | apply only_issue | apply only_trapAt
        | apply only_retire | apply only_ite | apply onlyR_ite | (split; all_goals try dsimp only))
    | exact mask_trans rfl hm

theorem only_execMax {m : Nat} {a s : State} (x0 x1) (hm : 0xfffffffffd31ffb3d5 ||| m = m) (h : Only m a s) : OnlyR m a (execMax x0 x1 s) := by
  unfold execMax
  try dsimp only
  repeat' first
    | (with_reducible first
        | assumption | (intro _; try dsimp only) | apply onlyR_next | apply only_aluA | apply only_ite
        | apply onlyR_ite | (split; all_goals try dsimp only))
    | exact mask_trans rfl hm

theorem only_execMaxu {m : Nat} {a s : State} (x0 x1) (hm : 0xfffffffffd31ffb3d5 ||| m = m) (h : Only m a s) : OnlyR m a (execMaxu x0 x1 s) := by
  unfold execMaxu
  try dsimp only
  repeat' first
    | (with_reducible first
        | assumption | (intro _; try dsimp only) | apply onlyR_next | apply only_aluA | apply only_ite
        | apply onlyR_ite | (split; all_goals try dsimp only))
    | exact mask_trans rfl hm

theorem only_execMin {m : Nat} {a s : State} (x0 x1) (hm : 0xfffffffffd31ffb3d5 ||| m = m) (h : Only m a s) : OnlyR m a (execMin x0 x1 s) := by
  unfold execMin
  try dsimp only
  repeat' first
    | (with_reducible first
        | assumption | (intro _; try dsimp only) | apply onlyR_next | apply only_aluA | apply only_ite
        | apply onlyR_ite | (split; all_goals try dsimp only))
    | exact mask_trans rfl hm

theorem only_execMinu {m : Nat} {a s : State} (x0 x1) (hm : 0xfffffffffd31ffb3d5 ||| m = m) (h : Only m a s) : OnlyR m a (execMinu x0 x1 s) := by
  unfold execMinu
  try dsimp only
  repeat' first
    | (with_reducible first
        | assumption | (intro _; try dsimp only) | apply onlyR_next | apply only_aluA | apply only_ite
        | apply onlyR_ite | (split; all_goals try dsimp only))
    | exact mask_trans rfl hm

theorem only_execMul {m : Nat} {a s : State} (x0 x1) (hm : 0xfffffffffd31ffb3d5 ||| m = m) (h : Only m a s) : OnlyR m a (execMul x0 x1 s) := by
  unfold execMul
  try dsimp only
  repeat' first
    | (with_reducible first
        | assumption | (intro _; try dsimp only) | apply onlyR_next | apply only_aluA)
    | exact mask_trans rfl hm

theorem only_execMulh {m : Nat} {a s : State} (x0 x1) (hm : 0xfffffffffd31ffb3d5 ||| m = m) (h : Only m a s) : OnlyR m a (execMulh x0 x1 s) := by
  unfold execMulh
  try dsimp only
  repeat' first
    | (with_reducible first
        | assumption | (intro _; try dsimp only) | apply onlyR_next | apply only_aluA)
    | exact mask_trans rfl hm

theorem only_execMulhu {m : Nat} {a s : State} (x0 x1) (hm : 0xfffffffffd31ffb3d5 ||| m = m) (h : Only m a s) : OnlyR m a (execMulhu x0 x1 s) := by
  unfold execMulhu
  try dsimp only
  repeat' first
    | (with_reducible first
        | assumption | (intro _; try dsimp only) | apply onlyR_next | apply only_aluA)
    | exact mask_trans rfl hm

theorem only_execOr {m : Nat} {a s : State} (x0 x1) (hm : 0xfffffffffd31ffb3d5 ||| m = m) (h : Only m a s) : OnlyR m a (execOr x0 x1 s) := by
  unfold execOr
  try dsimp only
  repeat' first
    | (with_reducible first
        | assumption | (intro _; try dsimp only) | apply onlyR_next | apply only_aluA)
    | exact mask_trans rfl hm

theorem only_execOri {m : Nat} {a s : State} (x0 x1) (hm : 0xfffffffffd31ffb3d5 ||| m = m) (h : Only m a s) : OnlyR m a (execOri x0 x1 s) := by
  unfold execOri
  try dsimp only
  repeat' first
    | (with_reducible first
        | assumption | (intro _; try dsimp only) | apply onlyR_next | apply only_aluB)
    | exact mask_trans rfl hm

theorem only_execPopc {m : Nat} {a s : State} (x0 x1) (hm : 0xfffffffffd31ffb3d5 ||| m = m) (h : Only m a s) : OnlyR m a (execPopc x0 x1 s) := by
  unfold execPopc
  try dsimp only
  repeat' first
    | (with_reducible first
        | assumption | (intro _; try dsimp only) | apply onlyR_next | apply only_aluU)
    | exact mask_trans rfl hm

theorem only_execRem {m : Nat} {a s : State} (x0 x1) (hm : 0xfffffffffd31ffb3d5 ||| m = m) (h : Only m a s) : OnlyR m a (execRem x0 x1 s) := by
  unfold execRem
  try dsimp only
  repeat' first
    | (with_reducible first
        | assumption | (intro _; try dsimp only) | apply onlyR_next | apply only_aluA)
    | exact mask_trans rfl hm

theorem only_execRemu {m : Nat} {a s : State} (x0 x1) (hm : 0xfffffffffd31ffb3d5 ||| m = m) (h : Only m a s) : OnlyR m a (execRemu x0 x1 s) := by
  unfold execRemu
  try dsimp only
  repeat' first
    | (with_reducible first
        | assumption | (intro _; try dsimp only) | apply onlyR_next | apply only_aluA)
    | exact mask_trans rfl hm

theorem only_execSll {m : Nat} {a s : State} (x0 x1) (hm : 0xfffffffffd31ffb3d5 ||| m = m) (h : Only m a s) : OnlyR m a (execSll x0 x1 s) := by
  unfold execSll
  try dsimp only
  repeat' first
    | (with_reducible first
        | assumption | (intro _; try dsimp only) | apply onlyR_next | apply only_aluA)
    | exact mask_trans rfl hm

theorem only_execSlli {m : Nat} {a s : State} (x0 x1) (hm : 0xfffffffffd31ffb3d5 ||| m = m) (h : Only m a s) : OnlyR m a (execSlli x0 x1 s) := by
  unfold execSlli
  try dsimp only
  repeat' first
    | (with_reducible first
        | assumption | (intro _; try dsimp only) | apply onlyR_next | apply only_aluB)
    | exact mask_trans rfl hm

theorem only_execSra {m : Nat} {a s : State} (x0 x1) (hm : 0xfffffffffd31ffb3d5 ||| m = m) (h : Only m a s) : OnlyR m a (execSra x0 x1 s) := by
  unfold execSra
  try dsimp only
  repeat' first
    | (with_reducible first
        | assumption | (intro _; try dsimp only) | apply onlyR_next | apply only_aluA)
    | exact mask_trans rfl hm

theorem only_execSrai {m : Nat} {a s : State} (x0 x1) (hm : 0xfffffffffd31ffb3d5 ||| m = m) (h : Only m a s) : OnlyR m a (execSrai x0 x1 s) := by
  unfold execSrai
  try dsimp only
  repeat' first
    | (with_reducible first
        | assumption | (intro _; try dsimp only) | apply onlyR_next | apply only_aluB)
    | exact mask_trans rfl hm

theorem only_execSrl {m : Nat} {a s : State} (x0 x1) (hm : 0xfffffffffd31ffb3d5 ||| m = m) (h : Only m a s) : OnlyR m a (execSrl x0 x1 s) := by
  unfold execSrl
  try dsimp only
  repeat' first
    | (with_reducible first
        | assumption | (intro _; try dsimp only) | apply onlyR_next | apply only_aluA)
    | exact mask_trans rfl hm

theorem only_execSrli {m : Nat} {a s : State} (x0 x1) (hm : 0xfffffffffd31ffb3d5 ||| m = m) (h : Only m a s) : OnlyR m a (execSrli x0 x1 s) := by
  unfold execSrli
  try dsimp only
  repeat' first
    | (with_reducible first
        | assumption | (intro _; try dsimp only) | apply onlyR_next | apply only_aluB)
    | exact mask_trans rfl hm

theorem only_execSub {m : Nat} {a s : State} (x0 x1) (hm : 0xfffffffffd31ffb3d5 ||| m = m) (h : Only m a s) : OnlyR m a (execSub x0 x1 s) := by
  unfold execSub
  try dsimp only
  repeat' first
    | (with_reducible first
        | assumption | (intro _; try dsimp only) | apply onlyR_next | apply only_aluA)
    | exact mask_trans rfl hm

theorem only_execXor {m : Nat} {a s : State} (x0 x1) (hm : 0xfffffffffd31ffb3d5 ||| m = m) (h : Only m a s) : OnlyR m a (execXor x0 x1 s) := by
  unfold execXor
  try dsimp only
  repeat' first
    | (with_reducible first
        | assumption | (intro _; try dsimp only) | apply onlyR_next | apply only_aluA)
    | exact mask_trans rfl hm

theorem only_execXori {m : Nat} {a s : State} (x0 x1) (hm : 0xfffffffffd31ffb3d5 ||| m = m) (h : Only m a s) : OnlyR m a (execXori x0 x1 s) := by
  unfold execXori
  try dsimp only
  repeat' first
    | (with_reducible first
        | assumption | (intro _; try dsimp only) | apply onlyR_next | apply only_aluB)
    | exact mask_trans rfl hm

theorem only_vec {m : Nat} {a s : State} (x1 x2 x3 x4 x5) (hm : 0xfffffffffd31ffb3d5 ||| m = m) (h : Only m a s) : Only m a (State.vec s x1 x2 x3 x4 x5) := by
  unfold State.vec
  try dsimp only
  repeat' first
    | (with_reducible first
        | assumption | (intro _; try dsimp only) | apply only_issue | apply only_retire)
    | exact mask_trans rfl hm

theorem only_execVadd {m : Nat} {a s : State} (x0 x1) (hm : 0xfffffffffd31ffb3d5 ||| m = m) (h : Only m a s) : OnlyR m a (execVadd x0 x1 s) := by
  unfold execVadd
  try dsimp only
  repeat' first
    | (with_reducible first
        | assumption | (intro _; try dsimp only) | apply onlyR_next | apply only_vec)
    | exact mask_trans rfl hm

theorem only_execVcmac {m : Nat} {a s : State} (x0 x1) (hm : 0xfffffffffd31ffb3d5 ||| m = m) (h : Only m a s) : OnlyR m a (execVcmac x0 x1 s) := by
  unfold execVcmac
  try dsimp only
  repeat' first
    | (with_reducible first
        | assumption | (intro _; try dsimp only) | apply onlyR_next | apply only_vec)
    | exact mask_trans rfl hm

theorem only_execVcmul {m : Nat} {a s : State} (x0 x1) (hm : 0xfffffffffd31ffb3d5 ||| m = m) (h : Only m a s) : OnlyR m a (execVcmul x0 x1 s) := by
  unfold execVcmul
  try dsimp only
  repeat' first
    | (with_reducible first
        | assumption | (intro _; try dsimp only) | apply onlyR_next | apply only_vec)
    | exact mask_trans rfl hm

theorem only_execVcvt {m : Nat} {a s : State} (x0 x1) (hm : 0xfffffffffd31ffb3d5 ||| m = m) (h : Only m a s) : OnlyR m a (execVcvt x0 x1 s) := by
  unfold execVcvt
  try dsimp only
  repeat' first
    | (with_reducible first
        | assumption | (intro _; try dsimp only) | apply onlyR_next | apply only_vec)
    | exact mask_trans rfl hm

theorem only_execVdfta {m : Nat} {a s : State} (x0 x1) (hm : 0xfffffffffd31ffb3d5 ||| m = m) (h : Only m a s) : OnlyR m a (execVdfta x0 x1 s) := by
  unfold execVdfta
  try dsimp only
  repeat' first
    | (with_reducible first
        | assumption | (intro _; try dsimp only) | apply onlyR_next | apply only_vec)
    | exact mask_trans rfl hm

theorem only_execVdfts {m : Nat} {a s : State} (x0 x1) (hm : 0xfffffffffd31ffb3d5 ||| m = m) (h : Only m a s) : OnlyR m a (execVdfts x0 x1 s) := by
  unfold execVdfts
  try dsimp only
  repeat' first
    | (with_reducible first
        | assumption | (intro _; try dsimp only) | apply onlyR_next | apply only_vec)
    | exact mask_trans rfl hm

theorem only_execVmac {m : Nat} {a s : State} (x0 x1) (hm : 0xfffffffffd31ffb3d5 ||| m = m) (h : Only m a s) : OnlyR m a (execVmac x0 x1 s) := by
  unfold execVmac
  try dsimp only
  repeat' first
    | (with_reducible first
        | assumption | (intro _; try dsimp only) | apply onlyR_next | apply only_vec)
    | exact mask_trans rfl hm

theorem only_execVmag2 {m : Nat} {a s : State} (x0 x1) (hm : 0xfffffffffd31ffb3d5 ||| m = m) (h : Only m a s) : OnlyR m a (execVmag2 x0 x1 s) := by
  unfold execVmag2
  try dsimp only
  repeat' first
    | (with_reducible first
        | assumption | (intro _; try dsimp only) | apply onlyR_next | apply only_vec)
    | exact mask_trans rfl hm

theorem only_execVmovg {m : Nat} {a s : State} (x0 x1) (hm : 0xfffffffffd31ffb3d5 ||| m = m) (h : Only m a s) : OnlyR m a (execVmovg x0 x1 s) := by
  unfold execVmovg
  try dsimp only
  repeat' first
    | (with_reducible first
        | assumption | (intro _; try dsimp only) | apply onlyR_next | apply only_issue | apply only_retireRd)
    | exact mask_trans rfl hm

theorem only_execVmul {m : Nat} {a s : State} (x0 x1) (hm : 0xfffffffffd31ffb3d5 ||| m = m) (h : Only m a s) : OnlyR m a (execVmul x0 x1 s) := by
  unfold execVmul
  try dsimp only
  repeat' first
    | (with_reducible first
        | assumption | (intro _; try dsimp only) | apply onlyR_next | apply only_vec)
    | exact mask_trans rfl hm

theorem only_execVred {m : Nat} {a s : State} (x0 x1) (hm : 0xfffffffffd31ffb3d5 ||| m = m) (h : Only m a s) : OnlyR m a (execVred x0 x1 s) := by
  unfold execVred
  try dsimp only
  repeat' first
    | (with_reducible first
        | assumption | (intro _; try dsimp only) | apply onlyR_next | apply only_issue | apply only_retireRd)
    | exact mask_trans rfl hm

theorem only_execVsplat {m : Nat} {a s : State} (x0 x1) (hm : 0xfffffffffd31ffb3d5 ||| m = m) (h : Only m a s) : OnlyR m a (execVsplat x0 x1 s) := by
  unfold execVsplat
  try dsimp only
  repeat' first
    | (with_reducible first
        | assumption | (intro _; try dsimp only) | apply onlyR_next | apply only_issue | apply only_retire)
    | exact mask_trans rfl hm

theorem only_execVsub {m : Nat} {a s : State} (x0 x1) (hm : 0xfffffffffd31ffb3d5 ||| m = m) (h : Only m a s) : OnlyR m a (execVsub x0 x1 s) := by
  unfold execVsub
  try dsimp only
  repeat' first
    | (with_reducible first
        | assumption | (intro _; try dsimp only) | apply onlyR_next | apply only_vec)
    | exact mask_trans rfl hm

end Sys2Proof.Machine
end

