-- ==== Sys2Proof/Laws/Modes.lean ====
section
/-! SUPPORT. What the operations on the lease and the mode do to the mode and to the lease. -/

namespace Sys2Proof.Machine

open Sys2Proof

set_option Elab.async false

/-- Every part but the one whose bit is `i`. -/
def allBut (i : Nat) : Nat := (2 ^ 72 - 1).xor (2 ^ i)

theorem State.modeChanged_mod (s : State) (old : Mode) : (s.modeChanged old).mod = s.mod :=
  (only_modeChanged (m := allBut 1) old (by decide) (Only.refl _ s)).frame .mod (by decide)

theorem State.onLeaseEnd_mod (s : State) : s.onLeaseEnd.mod = s.mod :=
  (only_onLeaseEnd (m := allBut 1) (by decide) (Only.refl _ s)).frame .mod (by decide)

theorem State.leaseLeaves_mod (s : State) (m : Mode) : (s.leaseLeaves m).mod = s.mod :=
  (only_leaseLeaves (m := allBut 1) m (by decide) (Only.refl _ s)).frame .mod (by decide)

theorem State.loseHbm_mod (s : State) : s.loseHbm.mod = s.mod :=
  (only_loseHbm (m := allBut 1) (by decide) (Only.refl _ s)).frame .mod (by decide)

/-- What the fresh state of a reset takes over of the old one: these parts, and no other. -/
def keepMask : Nat := 0x8040000078100

theorem keepAlwaysOn_frame (s t : State) (p : Part) (hp : keepMask.testBit p.idx = false) : p.same t (State.keepAlwaysOn s t) := by
  have hm : keepMask ||| keepMask = keepMask := by decide
  have base : Only keepMask { t with hbm := s.hbm.controllerOff }
      { t with
        hbm := s.hbm.controllerOff
        tbl := { t.tbl with keptFlow := s.tbl.keptFlow, newFlow := s.tbl.newFlow, seedFlow := s.tbl.keptFlow,
                            journal := s.tbl.journal.filter (fun m => !m.l2), jReset := s.tbl.journal.any fun m => !m.l2 }
        flw := { t.flw with alloc := s.flw.alloc, quar := [], goose := s.flw.goose }
        swc := { t.swc with layout := s.swc.layout }
        tmg := { t.tmg with slot := s.tmg.slot } } := by
    apply only_mk (Only.refl _ _) rfl <;> first | with_reducible exact Or.inr rfl | exact Or.inl (by decide)
  have k := only_foldl (l := List.range 5) (fun u x hu => only_keepCursor x (s₀ := s) (mask_trans rfl hm) hu) base
  have h : Only keepMask { t with hbm := s.hbm.controllerOff } (State.keepAlwaysOn s t) := by
    unfold State.keepAlwaysOn
    dsimp only
    exact only_setB _ _ _ (mask_trans rfl hm)
      (only_ite k (only_setB _ _ _ (mask_trans rfl hm) (only_setB _ _ _ (mask_trans rfl hm) k)))
  have := h.frame p hp
  cases p <;> first
    | exact this
    | exact absurd hp (by decide)

theorem keepAlwaysOn_mod (s t : State) : (State.keepAlwaysOn s t).mod = t.mod := keepAlwaysOn_frame s t .mod (by decide)

/-- What every step of a fold keeps, the fold keeps. -/
theorem foldl_inv {α β : Type} (f : State → α → State) (g : State → β) (h : ∀ s x, g (f s x) = g s) (l : List α) (s : State) : g (l.foldl f s) = g s := by
  induction l generalizing s with
  | nil => rfl
  | cons x l ih => rw [List.foldl_cons, ih, h]

theorem State.hostDown_mod (s : State) (x : Nat) : (s.hostDown x).mod = s.mod :=
  (only_hostDown (m := allBut 1) x (by decide) (Only.refl _ s)).frame .mod (by decide)

theorem State.linkDown_mod (s : State) (x : Nat) : (s.linkDown x).mod = s.mod :=
  (only_linkDown (m := allBut 1) x (by decide) (Only.refl _ s)).frame .mod (by decide)

theorem State.loseSwitched_mod (s : State) : s.loseSwitched.mod = s.mod := by
  unfold State.loseSwitched
  rw [keepAlwaysOn_mod]
  dsimp only
  rw [State.setB_mod, foldl_inv _ State.mod State.hostDown_mod, foldl_inv _ State.mod State.linkDown_mod]

theorem State.onEnter_mod (s : State) (old m : Mode) : (s.onEnter old m).mod = s.mod := by
  cases m <;> dsimp only [State.onEnter]
  case load =>
    split
    · exact (only_drawSeeds (m := allBut 1) (by decide) (Only.refl _ s)).frame .mod (by decide)
    · rfl
  case monitor => rw [State.raise_mod]; dsimp only; rw [State.loseSwitched_mod]
  case test => rw [State.loseHbm_mod, State.setB_mod, State.loseSwitched_mod]
  case repair => rw [State.loseHbm_mod, State.setB_mod, State.loseSwitched_mod]
  case drain => exact (only_onDrain (m := allBut 1) (by decide) (Only.refl _ s)).frame .mod (by decide)
  case safeHold => exact (only_onSafeHold (m := allBut 1) (by decide) (Only.refl _ _)).frame .mod (by decide)

/-- Entering a mode: the mode and the lease afterwards (R54, R55). -/
theorem State.enterMode_mod (s : State) (m : Mode) : (s.enterMode m).mod = modEnter s.mod m := by
  unfold State.enterMode
  dsimp only
  rw [State.modeChanged_mod, State.onEnter_mod]
  exact congrArg (fun d => modEnter d m) (State.leaseLeaves_mod s m)

/-- The end of a lease and a grant: the mode and the lease afterwards (R55, R472, R473). -/
theorem State.endLease_mod (s : State) (e : Ev) : (s.endLease e).mod = modEnd s.mod := by
  unfold State.endLease
  cases h : s.mod.holder with
  | none => simp [modEnd, h]
  | some x => dsimp only; rw [State.modeChanged_mod, State.raise_mod, State.onLeaseEnd_mod]

theorem State.grantLease_mod (s : State) (h : Fin 4) (n : Nat) : (s.grantLease h n).mod = modGrant s.mod h n := by
  unfold State.grantLease; dsimp only; rw [State.modeChanged_mod, State.raise_mod]; rfl

end Sys2Proof.Machine
end

