-- ==== Sys2Proof/Laws/Resets.lean ====
section
/-! SUPPORT. What a release of the power-on reset, a warm reset and an entry to DORMANT keep: fuses, flash, stack content and the queue; and what the domains of a mode leave untouched. -/

namespace Sys2Proof.Machine

open Sys2Proof

set_option Elab.async false

theorem sameHbm_of {s t : State} (h : t.hbm = s.hbm) : sameHbm s t := by intro a; simp [State.hbmByte, h]

theorem loadHealth_array (s : State) : s.loadHealth.fus.array = s.fus.array := by
  have e1 (u : State) : u.restate.fus = u.fus := (only_restate (m := allBut 4) (by decide) (Only.refl _ u)).frame .fus (by decide)
  have e2 (u : State) : u.evalReplace.fus = u.fus := (only_evalReplace (m := allBut 4) (by decide) (Only.refl _ u)).frame .fus (by decide)
  unfold State.loadHealth; dsimp only
  have e3 (u : State) : u.evalFatal.fus = u.fus := (only_evalFatal (m := allBut 4) (by decide) (Only.refl _ u)).frame .fus (by decide)
  rw [e3, e2, e1, State.setN_fus, foldl_inv _ State.fus]
  intro s x; split <;> simp

/-- The shadow's load leaves the fuse array, the mode and the lease (R484). -/
theorem loadShadow_array (s : State) : s.loadShadow.fus.array = s.fus.array := by
  have e1 (u : State) : u.loadRemap.fus = u.fus := (only_loadRemap (m := allBut 4) (by decide) (Only.refl _ u)).frame .fus (by decide)
  have e2 (u : State) : u.checkShadow.fus = u.fus := (only_checkShadow (m := allBut 4) (by decide) (Only.refl _ u)).frame .fus (by decide)
  unfold State.loadShadow
  rw [loadHealth_array, e1, e2]

theorem loadShadow_mod (s : State) : s.loadShadow.mod = s.mod :=
  (only_loadShadow (m := allBut 1) (by decide) (Only.refl _ s)).frame .mod (by decide)

theorem modEnter_mode (d : Mod) (m : Mode) (h : m ≠ .run) : (modEnter d m).mode = m := by
  cases m <;> simp_all [modEnter]

theorem modEnd_holder (d : Mod) : (modEnd d).holder = none := by
  unfold modEnd; split <;> simp_all

theorem modEnter_holder (d : Mod) (m : Mode) (h : leasable m = false) : (modEnter d m).holder = none := by
  unfold modEnter; simp only [h]; exact modEnd_holder d

/-- What the loss of the on-chip state leaves (R66): fuses, flash, the queue, the bytes of the stack. -/
theorem lostOnChip_parts (s : State) : s.lostOnChip.fus = s.fus ∧ s.lostOnChip.flash = s.flash ∧ s.lostOnChip.pending = s.pending ∧
    s.lostOnChip.hbm.bytes = s.hbm.bytes ∧ s.lostOnChip.boot.needWarm = s.boot.needWarm := by
  have hb (u : State) : (State.keepAlwaysOn s u).hbm.bytes = s.hbm.bytes := by
    have k (x : Nat) (v : State) : (State.keepCursor s v x).hbm = v.hbm :=
      (only_keepCursor (m := allBut 8) x (by decide) (Only.refl _ v)).frame .hbm (by decide)
    unfold State.keepAlwaysOn; dsimp only
    rw [State.setB_hbm]; split <;> (try rw [State.setB_hbm, State.setB_hbm]) <;> rw [foldl_inv _ State.hbm (fun v x => k x v)] <;> rfl
  have hr {β : Type} (g : State → β) (hg : ∀ u f i v, g (State.setReg u f i v) = g u) (l : List Field) (k : List Nat) (u : State) :
      g (l.foldl (fun t f => t.setReg f 0 (s.reg f)) (k.foldl (fun t d => if s.domRetired d then t.setB .PWR_DOM_RETIRED d true else t) u)) = g u := by
    rw [foldl_inv _ g (fun u f => hg u f 0 _), foldl_inv _ g]
    intro u x; split
    · exact hg u _ _ _
    · rfl
  unfold State.lostOnChip; dsimp only
  refine ⟨?_, ?_, ?_, hb _, ?_⟩
  · exact (keepAlwaysOn_frame _ _ .fus (by decide)).trans (hr State.fus (fun _ _ _ _ => rfl) _ _ _)
  · exact (keepAlwaysOn_frame _ _ .flash (by decide)).trans (hr State.flash (fun _ _ _ _ => rfl) _ _ _)
  · exact (keepAlwaysOn_frame _ _ .pending (by decide)).trans (hr State.pending (fun _ _ _ _ => rfl) _ _ _)
  · exact (congrArg Boot.needWarm (keepAlwaysOn_frame _ _ .boot (by decide))).trans (hr (fun u => u.boot.needWarm) (fun _ _ _ _ => rfl) _ _ _)

/-- What a warm reset does to the mode, the lease and the boot bookkeeping, and what it keeps (R66, R502). -/
theorem warmStart_does (s : State) (n : Nat) (h1 : s.mod.mode ≠ .off) (h2 : s.mod.mode ≠ .dormant) (h3 : s.mod.trans = none) :
    let t := s.warmStart n
    t.mod.mode = .boot ∧ t.mod.holder = none ∧ t.mod.trans = some .warmReset ∧
      t.mod.epoch = (if s.mod.holder = none then s.mod.epoch else nextEpoch s.mod.epoch) ∧
      t.boot.warmCause = n ∧ t.modeRead = modeCode s.mod.mode ∧ t.fus.array = s.fus.array ∧ t.flash = s.flash ∧ t.pending = s.pending := by
  obtain ⟨a, b, c, -, -⟩ := lostOnChip_parts s.breakRoutine
  have br := only_breakRoutine (m := allBut 4 &&& allBut 31 &&& allBut 33) (by decide) (Only.refl _ s)
  have ll (u : State) := only_leaseLost (m := allBut 4 &&& allBut 31 &&& allBut 33) (a := u) s.mod.holder (by decide) (Only.refl _ u)
  have fc (u : State) := only_fatalCleared (m := allBut 1 &&& allBut 31 &&& allBut 33) (a := u) (by decide) (Only.refl _ u)
  unfold State.warmStart
  rw [if_neg (by simpa using ⟨h1, h2⟩)]
  dsimp only
  have hn : (s.mod.trans == some Trans.warmReset) = false := by rw [h3]; rfl
  have m1 (u : State) : u.fatalCleared.mod = u.mod := (fc u).frame .mod (by decide)
  refine ⟨by rw [m1], by rw [m1], by rw [m1], ?_, ?_, ?_, ?_, ?_, ?_⟩
  · rw [m1]; dsimp only; unfold modEnd; cases s.mod.holder <;> rfl
  · simp [State.fatalCleared, State.evalFatal, hn]
  · simp [State.modeRead, m1]; simp [State.fatalCleared, State.evalFatal, h3]
  · refine Eq.trans (b := (s.breakRoutine.lostOnChip.leaseLost s.mod.holder).fus.array) (by simp [State.fatalCleared, State.evalFatal]) ?_
    rw [(ll _).frame .fus (by decide), a, br.frame .fus (by decide)]
  · refine ((fc _).frame .flash (by decide)).trans (((ll _).frame .flash (by decide)).trans (b.trans (br.frame .flash (by decide))))
  · refine ((fc _).frame .pending (by decide)).trans (((ll _).frame .pending (by decide)).trans (c.trans (br.frame .pending (by decide))))

theorem settleDomains_mod (s : State) (m : Mode) : (s.settleDomains m).mod = s.mod :=
  (only_settleDomains (m := allBut 1) m (by decide) (Only.refl _ s)).frame .mod (by decide)

end Sys2Proof.Machine
end

