-- ==== Sys2Proof/Laws/Stack.lean ====
section
/-! SUPPORT. What a read and a write of the HBM stack answer and leave (spec/16 R431-R440), whatever the free values drawn in between: the content the reads find again, and the byte-wise law of writes. The flow table's lookups rest on the first. -/

namespace Sys2Proof.Machine

open Sys2Proof

set_option Elab.async false

/-- What the reads of the stack depend on: the bytes listed, what an unlisted one reads as, and the words in error. -/
def Hbm.content (h : Hbm) : SMap Byte × Bool × Option Nat × Nat × SMap Bool := (h.bytes, h.filled, h.save, h.gen, h.marks)

theorem Hbm.byteAt_of {g h : Hbm} (e : g.content = h.content) (a : Nat) : g.byteAt a = h.byteAt a := by
  simp only [Hbm.content, Prod.mk.injEq] at e
  simp [Hbm.byteAt, Hbm.unlisted, Hbm.saved, e]

theorem hbmBytes_of {s t : State} (e : t.hbm.content = s.hbm.content) (a n : Nat) : t.hbmBytes a n = s.hbmBytes a n := by
  induction n generalizing a with
  | zero => rfl
  | succ n ih => simp only [State.hbmBytes, ih, State.hbmByte, Hbm.byteAt_of e]

theorem marksIn_of {s t : State} (e : t.hbm.content = s.hbm.content) (w n : Nat) : t.marksIn w n = s.marksIn w n := by
  simp only [Hbm.content, Prod.mk.injEq] at e
  simp [State.marksIn, e]

/-! ### What leaves the content -/

@[simp] theorem content_qualify (s : State) (r : Nat) : (s.qualify r).hbm.content = s.hbm.content := by
  unfold State.qualify; split
  · rfl
  · split
    · rfl
    · rw [State.raise_hbm]; rfl

@[simp] theorem content_trackRow (s : State) (r : Nat) : (s.trackRow r).hbm.content = s.hbm.content := by
  unfold State.trackRow; dsimp only
  split
  · exact content_qualify _ _
  · rfl

@[simp] theorem content_corrected (s : State) (w : Nat) : (s.corrected w).hbm.content = s.hbm.content := by
  unfold State.corrected; dsimp only
  rw [content_trackRow, State.raiseLimited_hbm, State.countF_hbm, State.bump_hbm]

@[simp] theorem content_uncorrected (s : State) (w r : Nat) : (s.uncorrected w r).hbm.content = s.hbm.content := by
  unfold State.uncorrected State.logUncorr; dsimp only
  rw [content_qualify]
  split <;> simp [Hbm.content]

@[simp] theorem content_activate (s : State) (a : Nat) : (s.activate a).hbm.content = s.hbm.content := by
  unfold State.activate; dsimp only
  split
  · rfl
  · split
    · rfl
    · refine foldl_inv _ (fun u => u.hbm.content) (fun u x => ?_) _ _
      unfold State.queueNeighbour; dsimp only
      split
      · rw [State.raiseLimited_hbm, State.bump_hbm]
      · rfl

@[simp] theorem content_settleWq (s : State) (pc : Nat) : (s.settleWq pc).hbm.content = s.hbm.content := rfl

@[simp] theorem content_readBlock (s : State) (b : Nat) : (s.readBlock b).hbm.content = s.hbm.content := by
  unfold State.readBlock; dsimp only
  split
  · rw [State.bump_hbm]; rfl
  · rfl

@[simp] theorem content_queueWrite (s : State) (b : Nat) : (s.queueWrite b).hbm.content = s.hbm.content := rfl

/-- What is noted of the words in error that an access meets. -/
theorem content_noted (l : List (Nat × Bool)) (r : Nat) (s : State) :
    (l.foldl (fun s e => if e.2 then s.uncorrected e.1 r else s.corrected e.1) s).hbm.content = s.hbm.content :=
  foldl_inv _ (fun u => u.hbm.content) (fun u x => by split <;> simp) l s

/-! ### A read -/

/-- A read leaves what the next one finds. -/
@[simp] theorem content_hbmRead (s : State) (a n r : Nat) : (s.hbmRead a n r).2.hbm.content = s.hbm.content := by
  unfold State.hbmRead; dsimp only
  rw [content_noted, foldl_inv _ (fun u : State => u.hbm.content) (fun u x => content_readBlock u x), content_activate, State.bump_hbm]

/-- A read answers the bytes, unless a word of them is uncorrectable. -/
theorem hbmRead_fst (s : State) (a n r : Nat) :
    (s.hbmRead a n r).1 = if (s.marksIn (a / 8) (wordsOf a n)).any (·.2) then none else some (s.hbmBytes a n) := by
  have e : ((blocksIn a n).foldl State.readBlock ((s.bump .MEM_CNT_READ 0 (blocksOf a n)).activate a)).hbm.content = s.hbm.content := by
    rw [foldl_inv _ (fun u : State => u.hbm.content) (fun u x => content_readBlock u x), content_activate, State.bump_hbm]
  unfold State.hbmRead; dsimp only
  rw [marksIn_of e, hbmBytes_of ((content_noted _ _ _).trans e)]

/-! ### A write -/

/-- A byte of the stack after a write of consecutive ones. -/
theorem byteAt_putBytes (l : List Byte) (h : Hbm) (a x : Nat) :
    (h.putBytes a l).byteAt x = if a ≤ x ∧ x < a + l.length then l.getD (x - a) 0#8 else h.byteAt x := by
  induction l generalizing h a with
  | nil => rw [if_neg (by simp)]; rfl
  | cons b t ih =>
    rw [Hbm.putBytes, ih, Hbm.byteAt_putByte]
    simp only [List.length_cons]
    by_cases hx : x = a
    · subst hx; rw [if_neg (by omega), if_pos rfl, if_pos (by omega)]; simp
    · by_cases h1 : a + 1 ≤ x ∧ x < a + 1 + t.length
      · rw [if_pos h1, if_pos (by omega)]
        obtain ⟨k, rfl⟩ : ∃ k, x = a + 1 + k := ⟨x - (a + 1), by omega⟩
        rw [show a + 1 + k - (a + 1) = k by omega, show a + 1 + k - a = k + 1 by omega]; rfl
      · rw [if_neg h1, if_neg hx, if_neg (by omega)]

/-- A write that is done stores its bytes and changes no other; one that is not leaves every byte. -/
theorem hbmByte_hbmWrite (s t : State) (a r : Nat) (l : List Byte) (ok : Bool) (h : s.hbmWrite a l r = (t, ok)) (x : Nat) :
    t.hbmByte x = if ok = true ∧ a ≤ x ∧ x < a + l.length then l.getD (x - a) 0#8 else s.hbmByte x := by
  unfold State.hbmWrite at h
  dsimp only at h
  generalize List.eraseDups (α := Nat) _ = p at h
  have hu : (if p.isEmpty = true then (s.bump .MEM_CNT_WRITE 0 (blocksOf a l.length)).activate a else
      ((s.bump .MEM_CNT_WRITE 0 (blocksOf a l.length)).activate a).bump .MEM_CNT_RMW 0 p.length).hbm.content = s.hbm.content := by
    split <;> simp
  generalize (if p.isEmpty = true then _ else _) = u at h hu
  split at h
  · obtain ⟨rfl, rfl⟩ := Prod.mk.inj h
    rw [if_neg (by simp)]
    exact Hbm.byteAt_of ((content_noted _ _ _).trans hu) x
  · obtain ⟨rfl, rfl⟩ := Prod.mk.inj h
    have e (q : List (Nat × Bool)) (b : List Nat) :
        (b.foldl State.queueWrite (q.foldl (fun s e => if e.2 then s.uncorrected e.1 r else s.corrected e.1) u)).hbm.content = s.hbm.content :=
      (foldl_inv _ (fun u : State => u.hbm.content) (fun u y => content_queueWrite u y) _ _).trans ((content_noted _ _ _).trans hu)
    have k (g g' : Hbm) (hg : g.content = s.hbm.content) (e1 : g'.bytes = (g.putBytes a l).bytes) (e2 : g'.filled = (g.putBytes a l).filled)
        (e3 : g'.save = (g.putBytes a l).save) (e4 : g'.gen = (g.putBytes a l).gen) :
        g'.byteAt x = if a ≤ x ∧ x < a + l.length then l.getD (x - a) 0#8 else s.hbm.byteAt x := by
      rw [show g'.byteAt x = (g.putBytes a l).byteAt x by simp [Hbm.byteAt, Hbm.unlisted, Hbm.saved, e1, e2, e3, e4], byteAt_putBytes,
        Hbm.byteAt_of hg]
    simp only [true_and]
    exact k _ _ (e _ _) rfl rfl rfl rfl

/-- A write that meets no word in error is done. -/
theorem hbmWrite_clean (s : State) (a r : Nat) (l : List Byte) (h : s.marksIn (a / 8) (wordsOf a l.length) = []) : (s.hbmWrite a l r).2 = true := by
  unfold State.hbmWrite
  dsimp only
  generalize List.eraseDups (α := Nat) _ = p
  have e : (if p.isEmpty = true then (s.bump .MEM_CNT_WRITE 0 (blocksOf a l.length)).activate a else
      ((s.bump .MEM_CNT_WRITE 0 (blocksOf a l.length)).activate a).bump .MEM_CNT_RMW 0 p.length).hbm.content = s.hbm.content := by
    split <;> simp
  rw [marksIn_of e, h]
  rfl

/-! ### The flow table -/

theorem peekBucket_of {s t : State} (e : t.hbm.content = s.hbm.content) (b : Nat) : t.peekBucket b = s.peekBucket b := by
  unfold State.peekBucket; dsimp only
  simp only [marksIn_of e, State.hbmNat, hbmBytes_of e]

/-- What of a bucket's entries matches a probe. -/
def bucketHits (q : Bool × Nat × Nat) (v : List (Option FSlot)) : List (Nat × FSlot) :=
  ((List.range 8).zip v).filterMap fun e => match e.2 with
    | some f => if f.sig == q.2.1 && f.phase == q.1 then some (q.2.2 * 8 + e.1, f) else none
    | none => none

/-- The entries of a key's buckets, in order, as a lookup finds them. -/
def State.flowHits (s : State) (strict : Bool) : List (Bool × Nat × Nat) → List (Nat × FSlot) → Option (List (Nat × FSlot))
  | [], l => some l
  | q :: t, l =>
    match s.peekBucket q.2.2 with
    | some v => s.flowHits strict t (l ++ bucketHits q v)
    | none => if strict then none else s.flowHits strict t l

theorem flowHits_none {u : State} {strict : Bool} {q : Bool × Nat × Nat} {t : List (Bool × Nat × Nat)} {l : List (Nat × FSlot)}
    (h : u.peekBucket q.2.2 = none) : u.flowHits strict (q :: t) l = if strict then none else u.flowHits strict t l := by
  rw [State.flowHits, h]

theorem flowHits_some {u : State} {strict : Bool} {q : Bool × Nat × Nat} {t : List (Bool × Nat × Nat)} {l : List (Nat × FSlot)}
    {v : List (Option FSlot)} (h : u.peekBucket q.2.2 = some v) : u.flowHits strict (q :: t) l = u.flowHits strict t (l ++ bucketHits q v) := by
  rw [State.flowHits, h]

theorem flowHits_of {s t : State} (e : t.hbm.content = s.hbm.content) (strict : Bool) (qs : List (Bool × Nat × Nat)) (l : List (Nat × FSlot)) :
    t.flowHits strict qs l = s.flowHits strict qs l := by
  induction qs generalizing l with
  | nil => rfl
  | cons q r ih => unfold State.flowHits; simp only [peekBucket_of e, ih]

theorem foldl_hits (r : Nat) (strict : Bool) (one : Option (List (Nat × FSlot)) × State → Bool × Nat × Nat → Option (List (Nat × FSlot)) × State)
    (h0 : ∀ u q, one (none, u) q = (none, u))
    (h1 : ∀ l u q, one (some l, u) q = (u.flowHits strict [q] l, (u.hbmRead (bucketAddr q.2.2) 64 r).2))
    (qs : List (Bool × Nat × Nat)) (l : List (Nat × FSlot)) (u : State) :
    (qs.foldl one (some l, u)).1 = u.flowHits strict qs l ∧ (qs.foldl one (some l, u)).2.hbm.content = u.hbm.content := by
  induction qs generalizing l u with
  | nil => exact ⟨rfl, rfl⟩
  | cons q t ih =>
    rw [List.foldl_cons, h1]
    have hn : ∀ (t : List (Bool × Nat × Nat)) (v : State), t.foldl one (none, v) = (none, v) := by
      intro t v
      induction t with
      | nil => rfl
      | cons q t ih => rw [List.foldl_cons, h0, ih]
    have hc := content_hbmRead u (bucketAddr q.2.2) 64 r
    cases hp : u.peekBucket q.2.2 with
    | none =>
      rw [flowHits_none hp, flowHits_none hp]
      split
      · rw [hn]; exact ⟨rfl, hc⟩
      · exact (ih l _).imp (·.trans (flowHits_of hc _ _ _)) (·.trans hc)
    | some v =>
      rw [flowHits_some hp, flowHits_some hp]
      exact (ih _ _).imp (·.trans (flowHits_of hc _ _ _)) (·.trans hc)

/-- What a lookup of a key finds: the hits in its buckets, then those of the stash. -/
def State.flowSeen (s : State) (key : List Byte) (strict : Bool) : Option (List (Nat × FSlot)) :=
  let cs := s.flowSeeds.map fun sd => (sd.1, candOf flBits sd.2 key)
  (s.flowHits strict (cs.flatMap fun c => [(c.1, c.2.1, c.2.2.1), (c.1, c.2.1, c.2.2.2)]) []).map
    (· ++ cs.flatMap fun c => s.tbl.stash.filterMap fun e =>
      if e.2.sig == c.2.1 && e.2.phase == c.1 && e.2.i0 == c.2.2.1 then some (stashLoc e.1, e.2) else none)

/-- A lookup in the flow table answers what stands there and leaves the content (R240). -/
theorem flowMatch_does (s : State) (key : List Byte) (r : Nat) (strict : Bool) :
    (s.flowMatch key r strict).1 = s.flowSeen key strict ∧ (s.flowMatch key r strict).2.hbm.content = s.hbm.content := by
  unfold State.flowMatch State.flowSeen
  dsimp only
  generalize (s.flowSeeds.map fun sd => (sd.1, candOf flBits sd.2 key)) = cs
  generalize hone : (fun (acc : Option (List (Nat × FSlot)) × State) (q : Bool × Nat × Nat) => _) = one
  have k := foldl_hits r strict one (by intro u q; subst hone; rfl) (by
    intro l u q; subst hone
    unfold State.readBucket
    cases hp : u.peekBucket q.2.2 with
    | none => rw [flowHits_none hp]; dsimp only; rw [hp]; cases strict <;> rfl
    | some v => rw [flowHits_some hp]; dsimp only; rw [hp]; rfl) (cs.flatMap fun c => [(c.1, c.2.1, c.2.2.1), (c.1, c.2.1, c.2.2.2)]) [] s
  obtain ⟨a, b⟩ := k
  rw [← a]
  generalize List.foldl one _ _ = z at b ⊢
  obtain ⟨o, u⟩ := z
  cases o <;> exact ⟨rfl, b⟩

/-- The entry a lookup settles on: the first seen whose record holds the key. -/
theorem flowFind_fst (s : State) (key : List Byte) :
    (s.flowFind key).1 = (s.flowSeen key false).bind fun l => l.find? fun e => s.sameKey (s.recordOf e.2.rcd) key := by
  obtain ⟨a, b⟩ := flowMatch_does s key 2 false
  have o : Only 0x400008000530000180 s (s.flowMatch key 2 false).2 := only_flowMatch key 2 false (by decide) (Only.refl _ s)
  have hf : (s.flowMatch key 2 false).2.flw = s.flw := o.frame .flw (by decide)
  have hk : ∀ j, (s.flowMatch key 2 false).2.kprof j = s.kprof j := fun j => by
    have hr := fun i => o.frame (.reg .FLW) (by decide) .FLW_KPROF i rfl
    simp only [State.kprof, State.rn, hr]
  unfold State.flowFind
  rw [← a]
  generalize s.flowMatch key 2 false = z at b hf hk ⊢
  obtain ⟨l, u⟩ := z
  cases l with
  | none => rfl
  | some l =>
    dsimp only at hf hk b
    simp only [State.sameKey, State.packKey, State.unpackKey, hk, State.recordOf, State.hotOf, hf, hbmBytes_of b, Option.bind_some]; rfl

end Sys2Proof.Machine
end

