-- ==== Sys2Proof/WellFormed.lean ====
section
/-! DEFINITION. Which commands their senders can form: bounds on operands whose type is wider than what the wire, the pin or the window carries. The meanings in Machine/ are total and do not rely on it. -/

namespace Sys2Proof

/-- A command its sender can form. An express offer carries the first 64 bytes of its frame (R129); auto-negotiation ends at a rate of SGMII
(R108); the health burn names flags of the 512 of a copy (R489); a BAR4 write carries its length and stays in the 4 GB window, as a BAR4 read does
(R456); a flash write stays in the 32-bit flash space (R495); a 0x55 character has a rate (R493); a repair names each row and each spare once (R446). -/
def Instr.wf : Instr → Bool
  | .expressOffer _ first => first.length == 64
  | .autonegComplete _ mbps => mbps == 10 || mbps == 100 || mbps == 1000
  | .healthBurn bad => bad.all (· < 512)
  | .bar4Access _ write off len data => (!write || data.length == len) && off.toNat + len ≤ 2 ^ 32
  | .flashWr a data => a.toNat + data.length ≤ 2 ^ 32
  | .autobaudCharacter n => 0 < n
  | .repairDone rows spares => rows.eraseDups.length == rows.length && spares.eraseDups.length == spares.length
  | .frameReceive _ frame _ _ _ _ => !frame.isEmpty
  | _ => true

end Sys2Proof
end

