-- ==== Sys2Proof/Tests/Slice0.lean ====
section
/-! SUPPORT. The smoke test of WellFormed, and for every statement with hypotheses the states and operands that meet them, clause by clause. -/

set_option Elab.async false
set_option maxRecDepth 20000
set_option linter.all false
set_option synthInstance.maxSize 2000
namespace Sys2Proof.Tests

open Sys2Proof Sys2Proof.Machine

/-! ### Ill-formed commands are refused, well-formed ones are not -/

theorem test_wf_express_63 : (Instr.expressOffer 3 (List.replicate 63 0#8)).wf = false := by decide
theorem test_wf_express_64 : (Instr.expressOffer 3 (List.replicate 64 0#8)).wf = true := by decide
theorem test_wf_autoneg : (Instr.autonegComplete 3 25).wf = false ∧ (Instr.autonegComplete 3 100).wf = true := by decide
theorem test_wf_burn : (Instr.healthBurn [511, 512]).wf = false ∧ (Instr.healthBurn [511]).wf = true := by decide
theorem test_wf_bar4_length : (Instr.bar4Access 0 true 16#32 4 [1#8]).wf = false ∧ (Instr.bar4Access 0 true 16#32 1 [1#8]).wf = true := by decide
theorem test_wf_bar4_window : (Instr.bar4Access 0 false 0xFFFFFFFF#32 2 []).wf = false ∧ (Instr.bar4Access 0 false 0xFFFFFFFF#32 1 []).wf = true := by decide
theorem test_wf_flash : (Instr.flashWr 0xFFFFFFFF#32 [1#8, 2#8]).wf = false ∧ (Instr.flashWr 0xFFFFFFFE#32 [1#8, 2#8]).wf = true := by decide
theorem test_wf_autobaud : (Instr.autobaudCharacter 0).wf = false ∧ (Instr.autobaudCharacter 9600).wf = true := by decide
theorem test_wf_repair_rows : (Instr.repairDone [(0, 0, 5), (0, 0, 5)] []).wf = false ∧ (Instr.repairDone [(0, 0, 5), (0, 1, 5)] []).wf = true := by decide
theorem test_wf_repair_spares : (Instr.repairDone [] [(0, 0, 1), (0, 0, 1)]).wf = false := by decide
theorem test_wf_frame : (Instr.frameReceive 3 [] true 0 0 0).wf = false ∧ (Instr.frameReceive 3 [1#8] true 0 0 0).wf = true := by decide

/-- No row of the table gives bits, so no word spells a command. -/
theorem test_decode_none : decodeTableWord 32 0 = none ∧ decodeTableWord 0 7 = none := by decide

/-! ### Witnesses of the statements -/

abbrev R : State := State.reset
def own (m : Mode) : State := { R with mod := { mode := m, holder := some 0, epoch := 7, left := 1000, trans := none } }.setReg .GLB_LU_EPOCH 0 7#32
def inMode (m : Mode) (tr : Option Trans := none) : State := { R with mod := { mode := m, holder := none, epoch := 7, left := 0, trans := tr } }
/-- The outcome is a next state where a test of it says so. -/
theorem next_of {o : Host.Outcome State Fault Refusal} {d : State}
    (h : (match o with | .next _ => true | _ => false) = true) : o = .next (match o with | .next u => u | _ => d) := by
  cases o with
  | next u => rfl
  | fault f => cases h
  | refused r => cases h
/-- A pool whose buffers are all FREE grants one, whatever the free value. -/
theorem pickFrom_some {n st : Nat} {ok : Nat → Bool} (hn : 0 < n) (h : ∀ k, ok k = true) : ∃ k, pickFrom n st ok = some k := by
  have hl : st % n < n := Nat.mod_lt _ hn
  obtain ⟨m, hm⟩ : ∃ m, n - st % n = m + 1 := ⟨n - st % n - 1, by omega⟩
  exact ⟨st % n, by simp [pickFrom, hm, List.range', h]⟩
theorem grantIn_some (s : State) (i i0 owner : Nat) (prot : Bool) (bytes : List Byte) (pkt : Option Packet)
    (hn : 0 < s.poolCount i) (h : ∀ k, (s.buf k).isNone = true) :
    ∃ (t : State) (b : Nat), s.grantIn i i0 owner prot bytes pkt = (t, some b) := by
  obtain ⟨k, hk⟩ := pickFrom_some (st := (Config.free s.freeCtr).toNat) hn (fun k => h (i * 2 ^ 18 + k))
  unfold State.grantIn State.draw
  simp only [State.poolCount, State.buf] at hk ⊢
  simp only [hk]
  exact ⟨_, _, rfl⟩
def tm0 : Tmpl := { cls := 1, nopnd := 0, entry := 0, clmask := 1, engmask := 255, asid := 0, perm := 0, tmo := 0, budget := 0, pins := [] }

namespace W1

/-- A queue with nothing in it, with either timebase (EmptyQueueTicks). -/
theorem witness_EmptyQueueTicks :
    (R.pending = [] ∧ R.rb Field.TIM_FAST = false) ∧
    ((R.setB Field.TIM_FAST 0 true).pending = [] ∧ (R.setB Field.TIM_FAST 0 true).rb Field.TIM_FAST = true ∧ (R.setB Field.TIM_FAST 0 true).freqEff = 0) := by decide

/-- A command that answers a next state (CommandsKeepQueue). -/
theorem witness_CommandsKeepQueue : ∃ t, exec (.drainForced) (own Mode.run) = Host.Outcome.next t := ⟨_, rfl⟩

/-- A state within the invariant, under a lease, whose step answers a next state (EveryStepKeepsInvariant, NoStepClearsFuse). -/
theorem witness_EveryStepKeepsInvariant : ((own Mode.run).mod.leaseFits ∧ (own Mode.run).hbm.wf = true) ∧ ∃ t, step (own Mode.run) = Host.Outcome.next t :=
  ⟨⟨by unfold Mod.leaseFits; decide, by decide⟩, ⟨_, rfl⟩⟩

/-- A guarded command from each kind of source that is not admitted (FencedWritesHaveNoEffect). -/
theorem witness_FencedWritesHaveNoEffect :
    (guardBlock (.tblCntClr (.host 0)) = some (.host 0, .TBL) ∧ R.guard (.host 0) .TBL = false) ∧
    (guardBlock (.tblCntClr .steward) = some (.steward, .TBL) ∧ R.guard .steward .TBL = false) ∧
    (guardBlock (.tblCntClr (.engine 9)) = some (.engine 9, .TBL) ∧ R.guard (.engine 9) .TBL = false) := by decide

/-- A command only the holder gives, from each kind of source that is not the holder (OnlyTheHolderCommands). -/
theorem witness_OnlyTheHolderCommands :
    (leaseSrc (.autCntClr (.host 1)) = some (.host 1) ∧ ¬ (∃ h : Fin 4, Src.host 1 = .host h ∧ (own Mode.run).mod.holder = some h ∧ (own Mode.run).reg .GLB_LU_EPOCH h.val = (own Mode.run).mod.epoch)) ∧
    (leaseSrc (.autCntClr .steward) = some .steward ∧ ¬ (∃ h : Fin 4, Src.steward = .host h ∧ (own Mode.run).mod.holder = some h ∧ (own Mode.run).reg .GLB_LU_EPOCH h.val = (own Mode.run).mod.epoch)) ∧
    (guardBlock (.tblCntClr (.host 0)) = some (.host 0, .TBL) ∧ ¬ (∃ h : Fin 4, Src.host 0 = .host h ∧ ((own Mode.run).setReg .GLB_LU_EPOCH 0 6#32).mod.holder = some h ∧
      ((own Mode.run).setReg .GLB_LU_EPOCH 0 6#32).reg .GLB_LU_EPOCH h.val = (own Mode.run).mod.epoch)) := by decide

/-- Sources whose counter clears are admitted, and sources that are not (CounterClears). -/
theorem witness_CounterClears :
    ((Instr.tblCntClr (.host 0), Block.TBL) ∈ [(Instr.clsCntClr (.host 0), Block.CLS), (.tblCntClr (.host 0), .TBL)] ∧ (own Mode.run).guard (.host 0) .TBL = true) ∧
    ((own Mode.run).guard (.host 0) .TSK = true ∧ (∀ k : Fin 1536, Src.host 0 ≠ Src.engine k)) ∧
    ((own Mode.run).isHolder (.host 0) = true) ∧ ((own Mode.run).guard (.host 0) .SWC = true) ∧ ((own Mode.run).guard (.host 0) .PAR = true) ∧
    (R.inPartition .steward (fun h => R.holdsPort h 5) = true) ∧ (R.inPartition (.host 2) (fun h => R.holdsPort h 5) = false) :=
  ⟨⟨by simp, by decide⟩, ⟨by decide, fun k h => by cases h⟩, by decide, by decide, by decide, by decide, by decide⟩

end W1

namespace W2

def sh (o : Mode) : State := { inMode .safeHold with boot := { R.boot with safeOrigin := o } }
def x2_1 := { inMode .dormant with boot := { R.boot with needWarm := true } }
def x2_2 := { inMode .safeHold with boot := { R.boot with safeRail := true } }

/-- States and operands that meet the hypotheses of the clauses of PowerOnReset. -/
theorem witness_PowerOnReset :
    ((true = true ∨ 10000 ≤ 0)) ∧
    (0 < 50 ∧ 50 < 10000) ∧
    (R.mod.mode = Mode.off) ∧
    ((own Mode.run).mod.mode ≠ Mode.off) := by decide

/-- States and operands that meet the hypotheses of the clauses of WarmResetStarts. -/
theorem witness_WarmResetStarts :
    (((∃ (n : Nat), 1000 ≤ n ∧ Instr.warmReset 1000 = Instr.warmReset n ∧ 2 = 2) ∨ (∃ (src : Src), (own Mode.run).isHolder src = true ∧ Instr.warmReset 1000 = Instr.glbResetGo src 42330#16 ∧ 2 = 3) ∨ (own Mode.run).mon.isOpen = true ∧ Instr.warmReset 1000 = Instr.reset ∧ 2 = 4 ∨ Instr.warmReset 1000 = Instr.stewardWatchdog ∧ 2 = 5) ∧ (own Mode.run).mod.mode ≠ Mode.off ∧ (own Mode.run).mod.mode ≠ Mode.dormant ∧ (own Mode.run).mod.trans = none) :=
  ⟨by simp, by decide⟩

/-- States and operands that meet the hypotheses of the clauses of ResetEntries. -/
theorem witness_ResetEntries :
    ((inMode Mode.boot (some Trans.warmReset)).mod.trans = some Trans.warmReset) ∧
    ((inMode Mode.dormant (some Trans.toDormant)).mod.trans = some Trans.toDormant) ∧
    (5#16 ≠ 42330#16 ∧ (own Mode.run).isHolder (Src.host 0) = true) ∧
    (100 ≤ 100) := by decide

/-- States and operands that meet the hypotheses of the clauses of SupplyAndDormant. -/
theorem witness_SupplyAndDormant :
    (2400 < 2500 ∧ (own Mode.run).mod.mode ≠ Mode.off ∧ (own Mode.run).mod.mode ≠ Mode.dormant) ∧
    (2400 < 2500 ∧ (inMode Mode.dormant).mod.mode = Mode.dormant) ∧
    (2500 ≤ 2600 ∧ 2600 < 2700 ∧ (own Mode.run).mod.mode ≠ Mode.off) ∧
    ((inMode Mode.dormant).mod.mode = Mode.dormant ∧ (inMode Mode.dormant).mod.trans = none ∧ 2600 ≤ 2600 ∧ (inMode Mode.dormant).tdie < 480 ∧ (inMode Mode.dormant).boot.needWarm = false ∧ ((inMode Mode.dormant).boot.tripped = true → (inMode Mode.dormant).tdie < 440)) ∧
    (x2_1.mod.mode = Mode.dormant ∧ 2600 ≤ 2600 ∧ x2_1.boot.needWarm = true) := by decide

/-- States and operands that meet the hypotheses of the clauses of Clocks. -/
theorem witness_Clocks :
    ((own Mode.run).rb Field.PWR_SLOWCLK_INT = false) ∧
    (((own Mode.run).setB Field.PWR_SLOWCLK_INT 0 true).rb Field.PWR_SLOWCLK_INT = true) ∧
    (((own Mode.run).setN Field.PWR_DOM_STATE 67 1).dom (66 + 1) = dsOn) ∧
    (fastTime (((own Mode.run).setN Field.PWR_DOM_STATE 65 1).setN Field.PWR_DOM_STATE 66 1).mod.mode = true ∧ (((own Mode.run).setN Field.PWR_DOM_STATE 65 1).setN Field.PWR_DOM_STATE 66 1).dom 65 = dsOn ∧ (((own Mode.run).setN Field.PWR_DOM_STATE 65 1).setN Field.PWR_DOM_STATE 66 1).dom 66 = dsOn ∧ (((own Mode.run).setN Field.PWR_DOM_STATE 65 1).setN Field.PWR_DOM_STATE 66 1).rb Field.TIM_FAST = false) ∧
    (fastTime (((inMode Mode.standby).setB Field.TIM_FAST 0 true).setN Field.TIM_QUAL 0 2).mod.mode = false ∧ (((inMode Mode.standby).setB Field.TIM_FAST 0 true).setN Field.TIM_QUAL 0 2).rb Field.TIM_FAST = true) := by decide

/-- States and operands that meet the hypotheses of the clauses of ThermalAndRails. -/
theorem witness_ThermalAndRails :
    (((own Mode.run).setN Field.PWR_HOT_THRESH 0 472).mod.mode ≠ Mode.off ∧ signed 16 (480#16).toNat < 500) ∧
    ((own Mode.run).mod.mode ≠ Mode.off ∧ (own Mode.run).mod.mode ≠ Mode.dormant ∧ 520 ≤ signed 16 (520#16).toNat ∧ (own Mode.run).mod.trans = none) ∧
    (500 ≤ signed 16 (500#16).toNat ∧ signed 16 (500#16).toNat < 520 ∧ safeHoldFrom (own Mode.run).mod.mode = true ∧ (own Mode.run).mod.trans = none) ∧
    ((own Mode.run).pwr.phases.getLsbD 23 = false ∧ railFault ((own Mode.run).pwr.phases ||| 1#24 <<< 23) = true ∧ safeHoldFrom (own Mode.run).mod.mode = true ∧ (own Mode.run).mod.trans = none) ∧
    ((own Mode.run).pwr.phases.getLsbD 2 = false ∧ railFault ((own Mode.run).pwr.phases ||| 1#24 <<< 2) = false) ∧
    ((sh Mode.run).mod.mode = Mode.safeHold ∧ (sh Mode.run).mod.trans = none ∧ (sh Mode.run).boot.safeOvertemp = false ∧ (sh Mode.run).boot.safeRail = false ∧ (sh Mode.run).boot.safeHealth = false) ∧
    (x2_2.mod.mode = Mode.safeHold ∧ (x2_2.boot.safeOvertemp = true ∨ x2_2.boot.safeRail = true ∨ x2_2.boot.safeHealth = true)) := by decide

end W2

namespace W3

def ret3 : State := { own .run with fus := { R.fus with retired := [(3, true)] } }
def ready (m : Mode) : State := { own m with boot := { R.boot with tmsLoaded := true, parLoaded := 3 }, cls := { R.cls with live := some false } }.setB .MEM_INIT_FLAG 0 true
def drn (tg : Mode) : State := { own .drain with mod := { (own .drain).mod with trans := some .drain }, boot := { R.boot with drainTarget := tg } }
def x3_2 := {own .load with mod := {(own .load).mod with trans := some .standbySave}}
def x3_3 := { (inMode .standby).setN .GLB_WAKE_SEC 0 9 with tim := { R.tim with now := 9 * tickSec } }
def wk : State := { inMode .standby (some .standbyWake) with boot := { R.boot with saved := true }, hbm := { R.hbm with save := some 3 } }
def bt (st : BitVec 4) (p : Nat) : State := { inMode .boot with boot := { R.boot with straps := st, bootPhase := p } }
def cond4 : State := { ready .load with mod := (inMode .load).mod, boot := { (ready .load).boot with stewardLoad := true } }
def x3_5 := {own .load with boot := {R.boot with hbmPass := true}}
def x3_6 := { inMode .boot with boot := { R.boot with bootPhase := 2, straps := 2 } }

/-- States and operands that meet the hypotheses of the clauses of PowerDomains (PowerWrites). -/
theorem witness_PowerDomains_PowerWrites :
    ((own Mode.run).guard (Src.host 0) Block.PWR = true ∧ (own Mode.run).clRetired 5 = false ∧ 10 ≤ 20 ∧ 20 ≤ 30) ∧
    ((own Mode.run).guard (Src.host 0) Block.PWR = true ∧ (own Mode.run).clRetired 5 = false ∧ (9 < 10 ∨ 30 < 9)) ∧
    (((own Mode.run).setN Field.PWR_DOM_REQ 24 1).guard (Src.host 0) Block.PWR = true ∧ ((own Mode.run).setN Field.PWR_DOM_REQ 24 1).domRetired 24 = false ∧ 0 < 3 ∧ (0#2 = 0#2 → ((own Mode.run).setN Field.PWR_DOM_REQ 24 1).offBusy 24 = false)) ∧
    ((own Mode.run).guard (Src.host 0) Block.PWR = true ∧ (own Mode.run).domRetired 50 = false ∧ (own Mode.run).mod.mode = Mode.run ∧ (1#2 = 1#2 ∧ 24 ≤ 50 ∨ 1#2 = 0#2 ∧ 50 < 36 ∧ (own Mode.run).offBusy 50 = false)) ∧
    ((own Mode.run).guard (Src.host 0) Block.PWR = true ∧ (own Mode.run).domRetired 50 = false ∧ (own Mode.run).offBusy 50 = true) ∧
    (ret3.guard (Src.host 0) Block.PWR = true ∧ ret3.domRetired 3 = true) ∧
    ((((own Mode.run).setN Field.PWR_DOM_STATE 4 3).setN Field.PWR_DOM_REQ 4 2).guard (Src.host 0) Block.PWR = true ∧ (((own Mode.run).setN Field.PWR_DOM_STATE 4 3).setN Field.PWR_DOM_REQ 4 2).clRetired 4 = false) := by decide

/-- States and operands that meet the hypotheses of the clauses of PowerDomains (DomainGating). -/
theorem witness_PowerDomains_DomainGating :
    ((((own Mode.run).setN Field.PWR_DOM_STATE 4 2).setN Field.PWR_DOM_REQ 4 2).dom 4 = dsGated ∧ (((own Mode.run).setN Field.PWR_DOM_STATE 4 2).setN Field.PWR_DOM_REQ 4 2).clusterLive 4 = false ∧ (((own Mode.run).setN Field.PWR_DOM_STATE 4 2).setN Field.PWR_DOM_REQ 4 2).rb Field.PWR_DOM_CG_ONLY 4 = false ∧ (((own Mode.run).setN Field.PWR_DOM_STATE 4 2).setN Field.PWR_DOM_REQ 4 2).rn Field.PWR_DOM_REQ 4 = 2) ∧
    (((own Mode.run).setN Field.PWR_DOM_STATE 4 4).dom 4 = dsWaking) ∧
    ((inMode Mode.run).dom 3 ≠ dsWaking) := by decide

/-- States and operands that meet the hypotheses of the clauses of ModeRequests. -/
theorem witness_ModeRequests_1 :
    ((ready Mode.load).isHolder (Src.host 0) = true ∧ (ready Mode.load).mod.mode = Mode.load ∧ (ready Mode.load).mod.trans = none ∧ (ready Mode.load).startOk = true) ∧
    ((own Mode.load).isHolder (Src.host 0) = true ∧ (own Mode.load).mod.mode = Mode.load ∧ (own Mode.load).mod.trans = none ∧ (own Mode.load).startOk = false) ∧
    ((ready Mode.load).isHolder (Src.host 0) = true ∧ (ready Mode.load).mod.mode = Mode.load ∧ (ready Mode.load).mod.trans = none ∧ (ready Mode.load).rb Field.MEM_INIT_FLAG = true) ∧
    ((own Mode.load).isHolder (Src.host 0) = true ∧ (own Mode.load).mod.mode = Mode.load ∧ (own Mode.load).mod.trans = none ∧ (own Mode.load).rb Field.MEM_INIT_FLAG = false) ∧
    ((own Mode.run).isHolder (Src.host 0) = true ∧ drainTargetOf 5 = some Mode.standby ∧ (own Mode.run).mod.mode = Mode.run ∧ (own Mode.run).mod.trans = none) ∧
    ((drn Mode.load).isHolder (Src.host 0) = true ∧ (drn Mode.load).mod.mode = Mode.drain ∧ (drn Mode.load).mod.trans = some Trans.drain) := by decide

/-- States and operands that meet the hypotheses of the clauses of ModeRequests. -/
theorem witness_ModeRequests_2 :
    ((Instr.runRequest (Src.host 0) = Instr.runRequest (Src.host 0) ∨ Instr.runRequest (Src.host 0) = Instr.standbyRequest (Src.host 0)) ∧ (own Mode.run).isHolder (Src.host 0) = true ∧ ((own Mode.run).mod.mode ≠ Mode.load ∨ (own Mode.run).mod.trans ≠ none)) :=
  ⟨by simp, by decide⟩

/-- States and operands that meet the hypotheses of the clauses of DrainAndStandby. -/
theorem witness_DrainAndStandby_1 :
    (x3_2.mod.trans = some Trans.standbySave) ∧
    (((inMode Mode.standby).part 0).eligible = true ∧ (inMode Mode.standby).mod.mode = Mode.standby ∧ (inMode Mode.standby).mod.trans = none) ∧
    (x3_3.rb Field.GLB_WAKE_SEC = true ∧ x3_3.sec % 2 ^ 32 = x3_3.rn Field.GLB_WAKE_SEC ∧ x3_3.mod.mode = Mode.standby ∧ x3_3.mod.trans = none) ∧
    (wk.mod.mode = Mode.standby ∧ wk.mod.trans = some Trans.standbyWake ∧ wk.boot.saved = true ∧ wk.hbm.saveIntact = true) ∧
    (wk.mod.mode = Mode.standby ∧ wk.mod.trans = some Trans.standbyWake ∧ (false = false ∨ wk.boot.saved = false ∨ wk.hbm.saveIntact = false)) ∧
    (((inMode Mode.standby).rb Field.GLB_WAKE_SEC = false ∨ (inMode Mode.standby).sec % 2 ^ 32 ≠ (inMode Mode.standby).rn Field.GLB_WAKE_SEC)) := by decide

/-- States and operands that meet the hypotheses of the clauses of DrainAndStandby. -/
theorem witness_DrainAndStandby_2 :
    ((Instr.drainComplete = Instr.drainComplete ∧ (drn Mode.load).drained = true ∨ Instr.drainComplete = Instr.drainForced) ∧ (drn Mode.load).mod.mode = Mode.drain ∧ (drn Mode.load).mod.trans = some Trans.drain) :=
  ⟨by simp; decide, by decide⟩

/-- States and operands that meet the hypotheses of the clauses of BootAndHbmPass. -/
theorem witness_BootAndHbmPass :
    ((bt (0#4) 0).mod.mode = Mode.boot ∧ (bt (0#4) 0).mod.trans = none ∧ (bt (0#4) 0).boot.bootPhase = 0) ∧
    ((bt (6#4) 1).mod.mode = Mode.boot ∧ (bt (6#4) 1).mod.trans = none ∧ (bt (6#4) 1).boot.bootPhase = 1) ∧
    (cond4.stewardConducts = true ∧ cond4.mod.trans = none ∧ cond4.startOk = true) ∧
    ((own Mode.load).mod.mode = Mode.load ∧ (own Mode.load).rb Field.MEM_TRAINED = false ∧ (own Mode.load).rb Field.MEM_INIT_FLAG = false) ∧
    ((ready Mode.load).mod.mode = Mode.load ∧ (ready Mode.load).rb Field.MEM_TRAINED = false ∧ (ready Mode.load).rb Field.MEM_INIT_FLAG = true) ∧
    (x3_5.boot.hbmPass = true) ∧
    (x3_6.mod.mode = Mode.boot ∧ x3_6.mod.trans = none ∧ x3_6.boot.bootPhase = 2) := by decide

/-- States and operands that meet the hypotheses of the clauses of ControlLease (LeaseClaims). -/
theorem witness_ControlLease_LeaseClaims :
    ((inMode Mode.isolated).claimTest 0 = none ∧ (inMode Mode.isolated).mod.mode ≠ Mode.run) ∧
    ((inMode Mode.load).claimTest 1 = some Ev.GLB_E_LEASE_ELIG) ∧
    ((inMode Mode.load).claimTest 0 = none ∧ (inMode Mode.load).mod.mode ≠ Mode.run) := by decide

/-- States and operands that meet the hypotheses of the clauses of ControlLease (LeaseKeepsAndEnds). -/
theorem witness_ControlLease_LeaseKeepsAndEnds :
    ((own Mode.run).isHolder (Src.host 0) = true) ∧
    ((own Mode.run).isHolder (Src.host 1) = false) ∧
    ((own Mode.run).mod.holder ≠ none) ∧
    ((own Mode.load).mod.holder = some 0 ∧ (own Mode.load).mod.mode ≠ Mode.run) ∧
    ((inMode Mode.load).mod.holder = none) := by decide

end W3

namespace W4

def busyCl : State := { own .run with eng := { R.eng with ctx := [(64, { Ctx.none with st := .running })], dmem := [(8*131072+5, 7)], shm := [(2097152+9,1),(5,1)] } }
def srb : State := { own .run with boot := { R.boot with srUnit := 1 } }
def imgB (c : List (Nat × BitVec 32)) (w : Option Nat) : State := { own .load with img := { busy := true, src := .host 0, addr := 0, kinds := [2, 8], cfg := c, cfgNo := 3, wait := w } }
def imgU : State := (match (imgB [(0x10020, 450), (0x10020, 451)] none).regWrite (.host 0) 0x10020 450 with | .next u => u | _ => R)
def imgK : State := ((imgB [] (some (Block.AUT.base + 0x40))).setN .AUT_KEY_OUT 0 3).setN .AUT_KEY_ERR 0 0xF05

/-- States and operands that meet the hypotheses of the clauses of SubsystemResets. -/
theorem witness_SubsystemResets :
    (((own Mode.run).setB Field.PRT_LINK_UP 5 true).isHolder (Src.host 0) = true ∧ ((own Mode.run).setB Field.PRT_LINK_UP 5 true).boot.srUnit = 0 ∧ 5 < 48) ∧
    (srb.isHolder (Src.host 0) = true ∧ srb.boot.srUnit ≠ 0) ∧
    (busyCl.isHolder (Src.host 0) = true ∧ busyCl.boot.srUnit = 0 ∧ 1 < 24 ∧ busyCl.clusterHasPT 1 = false) ∧
    ((own Mode.run).isHolder (Src.host 0) = true ∧ (own Mode.run).boot.srUnit = 0 ∧ (own Mode.run).groupsOn = []) ∧
    ((own Mode.run).isHolder (Src.host 0) = true ∧ ((own Mode.run).clusterHasPT 25 = true ∨ 24 ≤ 25)) := by decide

/-- States and operands that meet the hypotheses of the clauses of ImageLoads. -/
theorem witness_ImageLoads_1 :
    ((own Mode.load).leaseOk 0 = true ∧ (own Mode.load).img.busy = false) ∧
    ((own Mode.load).leaseOk 0 = true ∧ (2 ≤ 2 ∨ 2#2 = 1#2 ∧ (own Mode.load).img.busy = true)) ∧
    ((imgB [] (some 131072)).img.busy = true ∧ (imgB [] (some 131072)).img.cfg = [] ∧ (imgB [] (some 131072)).img.wait = some 131072 ∧ (imgB [] (some 131072)).cfgWaits (imgB [] (some 131072)).img.src 131072 = false ∧ (imgB [] (some 131072)).cfgOutcome (imgB [] (some 131072)).img.src 131072 = none) ∧
    ((imgB [] none).img.busy = true ∧ (imgB [] none).img.cfg = [] ∧ (imgB [] none).img.wait = none) ∧
    (imgK.img.busy = true ∧ imgK.img.wait = some (Block.AUT.base + 64) ∧ imgK.cfgWaits imgK.img.src (Block.AUT.base + 64) = false ∧ imgK.cfgOutcome imgK.img.src (Block.AUT.base + 64) = some 3845) := by decide

/-- States and operands that meet the hypotheses of the clauses of ImageLoads. -/
theorem witness_ImageLoads_2 :
    ((imgB [(65568, 450#32), (65568, 451#32)] none).regWrite (imgB [(65568, 450#32), (65568, 451#32)] none).img.src 65568 450#32 = Host.Outcome.next imgU ∧ NoEvent (imgB [(65568, 450#32), (65568, 451#32)] none) imgU ∧ imgU.img = (imgB [(65568, 450#32), (65568, 451#32)] none).img ∧ (imgB [(65568, 450#32), (65568, 451#32)] none).img.busy = true ∧ (imgB [(65568, 450#32), (65568, 451#32)] none).img.cfg = [(65568, 450#32), (65568, 451#32)] ∧ [(65568, 451#32)] ≠ [] ∧ (imgB [(65568, 450#32), (65568, 451#32)] none).img.wait = none ∧ imgU.cfgWaits (imgB [(65568, 450#32), (65568, 451#32)] none).img.src 65568 = false) :=
  ⟨rfl, by unfold NoEvent; decide, rfl, by decide⟩

end W4

namespace W5

def fst : State := ((own .run).setB .TIM_FAST 0 true).setN .PWR_DOM_STATE 65 1
def tc (n : Nat) : State := { fst with tim := { R.tim with cmd := n, now := 5 * tickSec + 17 * tickNs } }
def x5_1 := {tc 0 with tim := {(tc 0).tim with lastPps := some 0}}
def trn : State := ((tc 0).setB .MEM_TRAINED 0 true).setB .MEM_INIT_FLAG 0 true
def x5_2 := {trn with hbm := {R.hbm with neigh := [(0,[5,6,7]),(3,[1])]}}
def scr : State := { (trn.setB .MEM_SCRUB_EN 0 true).setB .MEM_NR_EN 0 false with hbm := { R.hbm with filled := true, marks := [(99, true)] } }
def x5_4 := {scr with hbm := {scr.hbm with qual := [9*16*32768+5, 3]}}
def rp : State := inMode .repair
def ck : State := (((inMode .test).setN .MEM_CHK_ADDR_LO 0 7).setN .MEM_CHK_DATA_LO 0 0x12345678).setN .MEM_CHK_CB 0 0x99
def x5_5 := { ck with hbm := {R.hbm with bytes := [(57,3)], check := [(7,5)]}}
def rpd (n : Nat) : State := { (rp.setN .MEM_RPR_OUT 0 1).setB .MEM_RMP_VALID 2 true with hbm := { R.hbm with rprOp := n } }
def kst : State := ((own .run).setN .AUT_KA_ALG 0 1).setN .AUT_KA_TAGLEN 0 16 |>.setB .AUT_KA_SIGN 0 true
def own1 : State := { R with mod := { mode := .run, holder := some 1, epoch := 7, left := 1000, trans := none } }.setReg .GLB_LU_EPOCH 1 7#32
def x5_6 := { kst with aut := { R.aut with cmd := some ⟨5, kst.stagedKey⟩ } }
def ppr (n : Nat) : State := { own .run with tim := { R.tim with ppsHigh := true, ppsRise := some n } }
def x5_7 := { ppr 0 with tim := { (ppr 0).tim with stepFree := tickSec } }

/-- States and operands that meet the hypotheses of the clauses of TimeCommands. -/
theorem witness_TimeCommands :
    (fst.guard (Src.host 0) Block.TIM = true ∧ fst.tim.cmd = 0 ∧ fst.rn Field.TIM_NOW_NS ≤ 999999999) ∧
    (fst.guard (Src.host 0) Block.TIM = true ∧ fst.tim.cmd = 0 ∧ -999999999 ≤ fst.stepNs ∧ fst.stepNs ≤ 999999999) ∧
    ((tc 1).guard (Src.host 0) Block.TIM = true ∧ (tc 1).tim.cmd ≠ 0) ∧
    ((((tc 1).setN Field.TIM_NOW_NS 0 77).setN Field.TIM_NOW_SEC_LO 0 9).rb Field.TIM_FAST = true ∧ (((tc 1).setN Field.TIM_NOW_NS 0 77).setN Field.TIM_NOW_SEC_LO 0 9).tim.cmd = 1) ∧
    ((((tc 2).setN Field.TIM_STEP_NS 0 77).setN Field.TIM_QUAL 0 2).rb Field.TIM_FAST = true ∧ (((tc 2).setN Field.TIM_STEP_NS 0 77).setN Field.TIM_QUAL 0 2).tim.cmd = 2) ∧
    (((own Mode.run).setB Field.TIM_FAST 0 false).rb Field.TIM_FAST = false) := by decide

/-- States and operands that meet the hypotheses of the clauses of TimeServo (PulsePerSecond). -/
theorem witness_TimeServo_PulsePerSecond :
    (((tc 0).setN Field.TIM_QUAL 0 2).dom 65 = dsOn ∧ ((tc 0).setN Field.TIM_QUAL 0 2).rb Field.TIM_FAST = true ∧ ((tc 0).setN Field.TIM_QUAL 0 2).ppsAdmits (((tc 0).setN Field.TIM_QUAL 0 2).ppsErrorAt (((tc 0).setN Field.TIM_QUAL 0 2).tim.now + 3 * 2 ^ 32 / 10)) = true ∧ ((tc 0).setN Field.TIM_QUAL 0 2).tim.cmd ≠ 3 ∧ (((tc 0).setN Field.TIM_QUAL 0 2).servoSrc = false ∨ ((tc 0).setN Field.TIM_QUAL 0 2).tim.cmd ≠ 0)) ∧
    (x5_1.dom 65 = dsOn ∧ x5_1.rb Field.TIM_FAST = true ∧ x5_1.ppsAdmits (x5_1.ppsErrorAt (x5_1.tim.now + 3 * 2 ^ 32 / 10)) = false) ∧
    ((((((tc 0).setN Field.TIM_SRC 0 1).setN Field.TIM_SERVO_KI 0 5).setN Field.TIM_SERVO_KP 0 15).setB Field.TIM_STEP_EN 0 false).dom 65 = dsOn ∧ (((((tc 0).setN Field.TIM_SRC 0 1).setN Field.TIM_SERVO_KI 0 5).setN Field.TIM_SERVO_KP 0 15).setB Field.TIM_STEP_EN 0 false).rb Field.TIM_FAST = true ∧ (((((tc 0).setN Field.TIM_SRC 0 1).setN Field.TIM_SERVO_KI 0 5).setN Field.TIM_SERVO_KP 0 15).setB Field.TIM_STEP_EN 0 false).ppsAdmits ((((((tc 0).setN Field.TIM_SRC 0 1).setN Field.TIM_SERVO_KI 0 5).setN Field.TIM_SERVO_KP 0 15).setB Field.TIM_STEP_EN 0 false).ppsErrorAt ((((((tc 0).setN Field.TIM_SRC 0 1).setN Field.TIM_SERVO_KI 0 5).setN Field.TIM_SERVO_KP 0 15).setB Field.TIM_STEP_EN 0 false).tim.now + 3 * 2 ^ 32 / 10)) = true ∧ (((((tc 0).setN Field.TIM_SRC 0 1).setN Field.TIM_SERVO_KI 0 5).setN Field.TIM_SERVO_KP 0 15).setB Field.TIM_STEP_EN 0 false).tim.cmd = 0 ∧ (((((tc 0).setN Field.TIM_SRC 0 1).setN Field.TIM_SERVO_KI 0 5).setN Field.TIM_SERVO_KP 0 15).setB Field.TIM_STEP_EN 0 false).servoSrc = true ∧ (((((tc 0).setN Field.TIM_SRC 0 1).setN Field.TIM_SERVO_KI 0 5).setN Field.TIM_SERVO_KP 0 15).setB Field.TIM_STEP_EN 0 false).rb Field.TIM_STEP_EN = false) ∧
    (((tc 3).setN Field.TIM_NOW_SEC_LO 0 9).dom 65 = dsOn ∧ ((tc 3).setN Field.TIM_NOW_SEC_LO 0 9).rb Field.TIM_FAST = true ∧ ((tc 3).setN Field.TIM_NOW_SEC_LO 0 9).ppsAdmits (((tc 3).setN Field.TIM_NOW_SEC_LO 0 9).ppsErrorAt (((tc 3).setN Field.TIM_NOW_SEC_LO 0 9).tim.now + 3 * 2 ^ 32 / 10)) = true ∧ ((tc 3).setN Field.TIM_NOW_SEC_LO 0 9).tim.cmd = 3) ∧
    ((tc 0).dom 65 = dsOn ∧ (tc 0).rb Field.TIM_FAST = true ∧ (tc 0).tim.lostRaised = false ∧ (tc 0).servoSrc = false) ∧
    ((((tc 0).setN Field.TIM_SRC 0 1).setN Field.TIM_QUAL 0 2).dom 65 = dsOn ∧ (((tc 0).setN Field.TIM_SRC 0 1).setN Field.TIM_QUAL 0 2).rb Field.TIM_FAST = true ∧ (((tc 0).setN Field.TIM_SRC 0 1).setN Field.TIM_QUAL 0 2).tim.lostRaised = false ∧ (((tc 0).setN Field.TIM_SRC 0 1).setN Field.TIM_QUAL 0 2).servoSrc = true ∧ (((tc 0).setN Field.TIM_SRC 0 1).setN Field.TIM_QUAL 0 2).rn Field.TIM_QUAL = 2) := by decide

/-- States and operands that meet the hypotheses of the clauses of TimeServo (TimeQuality). -/
theorem witness_TimeServo_TimeQuality :
    (((tc 0).setN Field.TIM_QUAL 0 2).guard (Src.host 0) Block.TIM = true ∧ 2 ≠ ((tc 0).setN Field.TIM_QUAL 0 2).rn Field.TIM_SRC) ∧
    ((tc 0).guard (Src.host 0) Block.TIM = true ∧ (tc 0).rn Field.TIM_SRC ≠ 2) ∧
    ((((tc 0).setN Field.TIM_QUAL 0 1).setN Field.TIM_SRC 0 2).guard (Src.host 0) Block.TIM = true ∧ (((tc 0).setN Field.TIM_QUAL 0 1).setN Field.TIM_SRC 0 2).rn Field.TIM_SRC = 2 ∧ ((((tc 0).setN Field.TIM_QUAL 0 1).setN Field.TIM_SRC 0 2).rn Field.TIM_QUAL = 1 ∨ (((tc 0).setN Field.TIM_QUAL 0 1).setN Field.TIM_SRC 0 2).rn Field.TIM_QUAL = 3)) ∧
    ((((tc 0).setN Field.TIM_QUAL 0 2).setN Field.TIM_SRC 0 2).guard (Src.host 0) Block.TIM = true ∧ (((tc 0).setN Field.TIM_QUAL 0 2).setN Field.TIM_SRC 0 2).rn Field.TIM_SRC = 2 ∧ (((tc 0).setN Field.TIM_QUAL 0 2).setN Field.TIM_SRC 0 2).rn Field.TIM_QUAL = 2) ∧
    ((tc 0).guard (Src.host 0) Block.TIM = true ∧ (tc 0).servoSrc = false) ∧
    (((tc 0).setN Field.TIM_SRC 0 1).guard (Src.host 0) Block.TIM = true ∧ ((tc 0).setN Field.TIM_SRC 0 1).servoSrc = true) ∧
    ((((tc 0).setN Field.TIM_QUAL 0 3).setN Field.TIM_HOLD_SEC 0 60).rn Field.TIM_QUAL = 3) ∧
    (((tc 0).setB Field.TIM_PPSOUT_EN 0 true).rb Field.TIM_PPSOUT_EN = true ∧ ((tc 0).setB Field.TIM_PPSOUT_EN 0 true).rb Field.TIM_FAST = true ∧ Option.all (fun (t : Nat) => decide (t + tickSec / 2 ≤ ((tc 0).setB Field.TIM_PPSOUT_EN 0 true).tim.stepFree)) ((tc 0).setB Field.TIM_PPSOUT_EN 0 true).tim.ppsRise = true) ∧
    ((own Mode.run).rn Field.TIM_QUAL ≠ 3) ∧
    ((((own Mode.run).setB Field.TIM_FAST 0 false).rb Field.TIM_PPSOUT_EN = false ∨ ((own Mode.run).setB Field.TIM_FAST 0 false).rb Field.TIM_FAST = false)) ∧
    (Option.all (fun (t : Nat) => decide (t + max 1 ((ppr 0).rn Field.TIM_PPSOUT_MS) * 1000000 * tickNs ≤ (ppr 0).tim.stepFree)) (ppr 0).tim.ppsRise = false) ∧
    (Option.all (fun (t : Nat) => decide (t + max 1 (x5_7.rn Field.TIM_PPSOUT_MS) * 1000000 * tickNs ≤ x5_7.tim.stepFree)) x5_7.tim.ppsRise = true) := by decide

/-- States and operands that meet the hypotheses of the clauses of Refresh. -/
theorem witness_Refresh :
    (((tc 0).setB Field.TIM_REFW_NEXT 0 true).reg Field.TIM_REFW_NEXT ≠ ((tc 0).setB Field.TIM_REFW_NEXT 0 true).reg Field.TIM_REFW_INT) ∧
    (x5_2.rb Field.MEM_SELF_REF = false ∧ x5_2.rb Field.MEM_TRAINED = true) ∧
    (((trn.setN Field.MEM_REF_UP_C 0 80).setN Field.MEM_REF_DN_C 0 70).mod.mode ≠ Mode.off ∧ ((trn.setN Field.MEM_REF_UP_C 0 80).setN Field.MEM_REF_DN_C 0 70).mod.mode ≠ Mode.dormant ∧ signed 16 350 < 420) ∧
    (420 ≤ signed 16 420 ∧ safeHoldFrom trn.mod.mode = true ∧ trn.mod.trans = none) := by decide

/-- States and operands that meet the hypotheses of the clauses of ScrubAndRemap. -/
theorem witness_ScrubAndRemap :
    (scr.rb Field.MEM_SCRUB_EN = true ∧ scr.rb Field.MEM_INIT_FLAG = true ∧ scr.rb Field.MEM_SELF_REF = false ∧ scr.rb Field.MEM_NR_EN = false ∧ (∀ (e : Nat × Bool), e ∈ scr.hbm.marks → e.fst / 8 ≠ 268435455)) ∧
    (scr.rb Field.MEM_SCRUB_EN = true ∧ scr.rb Field.MEM_INIT_FLAG = true ∧ scr.rb Field.MEM_SELF_REF = false ∧ scr.rb Field.MEM_NR_EN = false ∧ (∀ (e : Nat × Bool), e ∈ scr.hbm.marks → e.fst / 8 ≠ 5)) ∧
    (x5_4.hbm.qual = [9 * 16 * 32768 + 5, 3] ∧ 9 * 16 * 32768 + 5 < 2 ^ 24 ∧ x5_4.freeSpare ((9 * 16 * 32768 + 5) / 32768) = some 0 ∧ x5_4.freeRemap = some 0) := by decide

/-- States and operands that meet the hypotheses of the clauses of RepairAndChecker. -/
theorem witness_RepairAndChecker :
    (rp.guard Src.steward Block.MEM = true ∧ rp.mod.mode = Mode.repair ∧ rp.rn Field.MEM_RPR_OUT ≠ 1) ∧
    ((inMode Mode.test).guard Src.steward Block.MEM = true ∧ ((inMode Mode.test).mod.mode ≠ Mode.repair ∨ (inMode Mode.test).rn Field.MEM_RPR_OUT = 1)) ∧
    (ck.guard Src.steward Block.MEM = true ∧ (ck.mod.mode = Mode.test ∨ ck.mod.mode = Mode.repair) ∧ ck.rn Field.MEM_CHK_OUT ≠ 1) ∧
    (x5_5.guard Src.steward Block.MEM = true ∧ (x5_5.mod.mode = Mode.test ∨ x5_5.mod.mode = Mode.repair) ∧ x5_5.rn Field.MEM_CHK_OUT ≠ 1) ∧
    ((ck.setN Field.MEM_CHK_OUT 0 1).guard Src.steward Block.MEM = true ∧ ((ck.setN Field.MEM_CHK_OUT 0 1).mod.mode ≠ Mode.test ∧ (ck.setN Field.MEM_CHK_OUT 0 1).mod.mode ≠ Mode.repair ∨ (ck.setN Field.MEM_CHK_OUT 0 1).rn Field.MEM_CHK_OUT = 1)) ∧
    ((rpd 1).hbm.rprOp = 1) ∧
    ((rpd 2).hbm.rprOp = 2) ∧
    (rp.hbm.rprOp = 0) := by decide

/-- States and operands that meet the hypotheses of the clauses of KeyCommands. -/
theorem witness_KeyCommands :
    (kst.leaseOk 0 = true ∧ kst.aut.cmd = none ∧ kst.holdsSlot 0 5 = true ∧ (kst.stagedKey = some { alg := kst.rn Field.AUT_KA_ALG, key := List.take (if kst.rn Field.AUT_KA_ALG = 1 then 16 else if kst.rn Field.AUT_KA_ALG = 2 then 32 else kst.rn Field.AUT_KA_KEYLEN) (List.flatMap (fun (i : Nat) => leBytes 4 (kst.rn Field.AUT_KEY_DATA i)) (List.range 16)), salt := if kst.rn Field.AUT_KA_ALG = 3 then 0 else kst.rn Field.AUT_KEY_SALT, ctr := 0, tagLen := kst.rn Field.AUT_KA_TAGLEN, sign := kst.rb Field.AUT_KA_SIGN, verify := kst.rb Field.AUT_KA_VERIFY, locked := false, warned := false : KeySlot })) ∧
    ((own Mode.run).leaseOk 0 = true ∧ (own Mode.run).aut.cmd = none ∧ (own Mode.run).holdsSlot 0 5 = true ∧ (own Mode.run).stagedKey = none) ∧
    (own1.leaseOk 1 = true ∧ own1.aut.cmd = none ∧ own1.holdsSlot 1 5 = false) ∧
    (x5_6.aut.cmd = some { slot := 5, new := kst.stagedKey : KeyCmd }) := by decide

end W5

namespace W6

def up (m : Mode) : State := ((own m).setB .PRT_LINK_UP 3 true).setN .PRT_MAX_FRAME 3 1518
def fr (n : Nat) : List Byte := List.replicate n 5#8
def upx : State := ((up .run).setB .PAR_EXPR_EN 0 true).setN .PAR_EXPR_ETYPE 0 0x0505
def pc : State := own .load
def lk : State := (((own .run).setB .PRT_EN 3 true).setN .PRT_MODE 3 4).setN .PWR_DOM_STATE 24 1
def an : State := (((own .run).setB .PRT_EN 3 true).setN .PRT_MODE 3 2).setB .PRT_AN_EN 3 true
def vf (n : Nat) : State := { lk.setN .PRT_PRE_STATE 3 1 with prt := { R.prt with attempts := [(3, n)] } }
def gz : State := { own .run with gaz := [(7, { Gaz.none with valid := true, learned := true, winValid := true, pair := 3 })] }
def QE : QEnt := { buf := 5, len := 300, tc := 3, dp := 0, rw := Rewrite.none, owner := true, inset := none, trunc := 0, vport := 3, void := false, red := none, pub := none, raw := false, pkt := 0 }
def TXX : Tx := { ent := QE, q := 9, tsFree := 0, tsNow := 0, sent := 0, frags := 0 }
def BF : Buf := { owner := 3, st := .held, count := 0, insets := 0, bytes := fr 64, order := 0, pkt := none }
def txs : State := { (own .run).setN .PRT_PRE_STATE 3 2 with prt := { R.prt with txE := [(3, TXX)], txP := [(3, TXX)] }, swc := { R.swc with bufs := [(5, BF)] } }
def txs2 : State := { txs with swc := { R.swc with bufs := [(5, { BF with bytes := fr 400 })] } }
def pk (st : Stage) : Packet := { Packet.offered 4 3 0 0 (fr 64) with stage := st, dest := .ports 4 }
def ps (st : Stage) (b : Option Nat) (he : Option Nat) : State := { own .run with pkts := [{ pk st with buf := b, holdEnd := he }], swc := { R.swc with bufs := if b.isSome then [(5, { BF with owner := ownPipe 0 })] else [] } }
def rpl : State := (((ps .repl (some 5) none).setB .TMG_CG_EN 16 true).setN .TMG_CG_BASE 16 100).setN .TMG_Q_MAX 100 50
def qs : State := { (((up .run).setB .TMG_CG_EN 27 true).setN .TMG_CG_BASE 27 100) with tmg := { R.tmg with queues := [(100, { ents := [QE, QE], s := 0, f := 5, fLast := 0 }), (101, {Queue.none with f := 3})], ents := 2 } }
def x6_1 := { qs with tmg := { qs.tmg with queues := [(100, { ents := [{QE with void := true}, QE], s := 0, f := 5, fLast := 0 })] } }
def x6_3 := { qs with tmg := { qs.tmg with wheel := [(1, .pub 4)] } }
def gz0 : State := { own .run with gaz := [(7, { Gaz.none with valid := true, pair := 3 })] }

/-- States and operands that meet the hypotheses of the clauses of LineFrames. -/
theorem witness_LineFrames :
    ((up Mode.run).rb Field.PRT_LINK_UP 3 = true ∧ receives (up Mode.run).mod.mode = true ∧ (up Mode.run).prt.inc.find 3 = none ∧ (Ctr.PRT_CNT_SIZE_ERR = Ctr.PRT_CNT_SIZE_ERR ∧ ((fr 59).length + 4 < 64 ∨ (up Mode.run).rn Field.PRT_MAX_FRAME 3 < (fr 59).length + 4) ∨ Ctr.PRT_CNT_SIZE_ERR = Ctr.PRT_CNT_FCS_ERR ∧ 64 ≤ (fr 59).length + 4 ∧ (fr 59).length + 4 ≤ (up Mode.run).rn Field.PRT_MAX_FRAME 3 ∧ true = false)) ∧
    ((up Mode.load).rb Field.PRT_LINK_UP 3 = true ∧ 64 ≤ (fr 60).length + 4 ∧ (fr 60).length + 4 ≤ (up Mode.load).rn Field.PRT_MAX_FRAME 3 ∧ (up Mode.load).prt.inc.find 3 = none ∧ beAt (fr 60) 12 2 ≠ 34824 ∧ ((up Mode.load).mod.mode = Mode.load ∨ (up Mode.load).mod.mode = Mode.drain ∨ (up Mode.load).mod.mode = Mode.test)) ∧
    ((up Mode.run).rb Field.PRT_LINK_UP 3 = true ∧ 64 ≤ (fr 60).length + 4 ∧ (fr 60).length + 4 ≤ (up Mode.run).rn Field.PRT_MAX_FRAME 3 ∧ (up Mode.run).prt.inc.find 3 = none ∧ beAt (fr 60) 12 2 ≠ 34824 ∧ forwards (up Mode.run).mod.mode = true ∧ (fr 60).length + 4 ≤ (up Mode.run).poolSize 3 ∧ (up Mode.run).redMode 3 = 0 ∧ ((up Mode.run).pkts.any fun (x : Packet) => x.src == 3 && x.stage == Stage.fifo) = false) ∧
    (upx.rb Field.PRT_LINK_UP 3 = true ∧ forwards upx.mod.mode = true ∧ (fr 64).length = 64 ∧ upx.isExpress (pipeOf 3) (fr 64) = true ∧ upx.prt.inc.find 3 = none ∧ upx.redMode 3 = 0 ∧ beAt (fr 64) 12 2 ≠ 34824) := by decide

/-- States and operands that meet the hypotheses of the clauses of PortConfiguration. -/
theorem witness_PortConfiguration :
    (pc.guard (Src.host 0) Block.PRT = true ∧ pc.isMember 3 = false ∧ pc.prtCfgBad 3 (397934600#32).toNat = false) ∧
    (pc.guard (Src.host 0) Block.PRT = true ∧ pc.isMember 33 = false ∧ pc.prtCfgBad 33 (397934604#32).toNat = true) ∧
    ((pc.setN Field.PRT_MODE 0 6).guard (Src.host 0) Block.PRT = true ∧ (pc.setN Field.PRT_MODE 0 6).isMember 3 = true) ∧
    (pc.guard (Src.host 0) Block.PRT = true ∧ pc.rb Field.PRT_LINK_UP 3 = false ∧ (bitOf (287440905#32).toNat 0 = false ∨ pc.rn Field.PRT_MODE 3 ≠ 5 ∧ pc.rn Field.PRT_MODE 3 ≠ 6)) ∧
    ((pc.setN Field.PRT_MODE 0 6).guard (Src.host 0) Block.PRT = true ∧ bitOf (287440905#32).toNat 0 = true ∧ ((pc.setN Field.PRT_MODE 0 6).rn Field.PRT_MODE = 5 ∨ (pc.setN Field.PRT_MODE 0 6).rn Field.PRT_MODE = 6)) ∧
    (pc.guard (Src.host 0) Block.PRT = true ∧ (bitsOf (287440923#32).toNat 1 0 = 0 ∨ bitsOf (287440923#32).toNat 1 0 = 3) ∧ (34 % 2 = 0 ∨ 34 < 32)) ∧
    (pc.guard (Src.host 0) Block.PRT = true ∧ (bitsOf (287440905#32).toNat 1 0 = 1 ∨ bitsOf (287440905#32).toNat 1 0 = 2) ∧ 3 < 32) := by decide

/-- States and operands that meet the hypotheses of the clauses of PortLinks. -/
theorem witness_PortLinks :
    (lk.rb Field.PRT_LINK_UP 3 = false ∧ lk.rb Field.PRT_EN 3 = true ∧ lk.rn Field.PRT_MODE 3 ≠ 0 ∧ lk.rn Field.PRT_MODE 3 ≠ 2 ∧ lk.dom (portDom 3) = dsOn ∧ receives lk.mod.mode = true ∧ lk.boot.srUnit ≠ 1 ∧ lk.rb Field.PRT_PRE_EN 3 = false) ∧
    ((up Mode.run).rb Field.PRT_LINK_UP 3 = true ∧ (up Mode.run).prt.inc.find 3 = none ∧ (up Mode.run).prt.txE.find 3 = none ∧ (up Mode.run).prt.txP.find 3 = none) ∧
    (an.rb Field.PRT_EN 3 = true ∧ an.rb Field.PRT_AN_EN 3 = true ∧ an.rn Field.PRT_MODE 3 = 2 ∧ 1000 ≠ 10 ∧ 1000 ≠ 100) ∧
    (an.rb Field.PRT_EN 3 = true ∧ an.rb Field.PRT_AN_EN 3 = true ∧ an.rn Field.PRT_MODE 3 = 2 ∧ (10 = 10 ∨ 10 = 100)) ∧
    ((lk.setN Field.HEA_LANE_CAL_TH 0 2).rb Field.PRT_EN 3 = true ∧ (lk.setN Field.HEA_LANE_CAL_TH 0 2).rb Field.PRT_LINK_UP 3 = false ∧ ((lk.setN Field.HEA_LANE_CAL_TH 0 2).rn Field.HEA_LANE_CAL_TH = 0 ∨ SMap.get 0 (lk.setN Field.HEA_LANE_CAL_TH 0 2).fus.calFails 3 + 1 < (lk.setN Field.HEA_LANE_CAL_TH 0 2).rn Field.HEA_LANE_CAL_TH)) ∧
    ((lk.setN Field.HEA_LANE_CAL_TH 0 1).rb Field.PRT_EN 3 = true ∧ (lk.setN Field.HEA_LANE_CAL_TH 0 1).rb Field.PRT_LINK_UP 3 = false ∧ (lk.setN Field.HEA_LANE_CAL_TH 0 1).rn Field.HEA_LANE_CAL_TH ≠ 0 ∧ (lk.setN Field.HEA_LANE_CAL_TH 0 1).rn Field.HEA_LANE_CAL_TH ≤ SMap.get 0 (lk.setN Field.HEA_LANE_CAL_TH 0 1).fus.calFails 3 + 1) ∧
    ((lk.setN Field.PRT_PRE_STATE 3 1).rn Field.PRT_PRE_STATE 3 = 1 ∧ SMap.get 0 (lk.setN Field.PRT_PRE_STATE 3 1).prt.attempts 3 < 3) ∧
    ((vf 1).rn Field.PRT_PRE_STATE 3 = 1 ∧ SMap.get 0 (vf 1).prt.attempts 3 ≠ 0) ∧
    ((vf 3).rn Field.PRT_PRE_STATE 3 = 1 ∧ SMap.get 0 (vf 3).prt.attempts 3 = 3) ∧
    ((own Mode.run).rb Field.PRT_LINK_UP 3 = false) := by decide

/-- States and operands that meet the hypotheses of the clauses of RedundancyAndTransmission. -/
theorem witness_RedundancyAndTransmission :
    ((gz.gazAt 7).valid = true ∧ (gz.gazAt 7).learned = true) ∧
    ((gz.gazAt 7).valid = true ∧ (gz.gazAt 7).lanLoss = false) ∧
    (txs2.prt.txP.find 3 = some TXX ∧ txs2.rn Field.PRT_PRE_STATE 3 = 2 ∧ 60 + 64 * txs2.rn Field.PRT_PRE_FRAG 3 ≤ 60 ∧ TXX.sent + 60 + 64 ≤ txs2.wireLen 3 TXX) ∧
    (3 < 48 ∧ txs.prt.txE.find 3 = some TXX ∧ TXX.ent.pkt = 0) ∧
    ((gz0.gazAt 7).valid = true ∧ (gz0.gazAt 7).learned = false) := by decide

/-- States and operands that meet the hypotheses of the clauses of BuffersAndReplicas. -/
theorem witness_BuffersAndReplicas_1 :
    ((own Mode.run).nextAt 0 Stage.pool = none ∧ (own Mode.run).nextAt 1 Stage.pool = none) :=
  by decide

/-- States and operands that meet the hypotheses of the clauses of BuffersAndReplicas. -/
theorem witness_BuffersAndReplicas_2 :
    ((ps Stage.pool none none).nextAt 0 Stage.pool =   some     (have __src := pk Stage.pool;     { id := __src.id, src := __src.src, kind := __src.kind, pipe := __src.pipe, bytes := __src.bytes, whole := __src.whole, express := __src.express, tsSec := __src.tsSec, tsNs := __src.tsNs, rxFree := __src.rxFree, redTag := __src.redTag, tcHint := __src.tcHint, sender := __src.sender, egReq := __src.egReq, origin := __src.origin, buf := none, stage := __src.stage, tag := __src.tag, counted := __src.counted, pass := __src.pass, detached := __src.detached, due := __src.due, resumed := __src.resumed, entered := __src.entered, restarts := __src.restarts, preempts := __src.preempts, guarded := __src.guarded, parse := __src.parse, act := __src.act, fragPorts := __src.fragPorts, frag := __src.frag, tc := __src.tc, dp := __src.dp, dest := __src.dest, prune := __src.prune, rw := __src.rw, insets := __src.insets, hand := __src.hand, raw := __src.raw, slice := __src.slice, pin := __src.pin, verify := __src.verify, before := __src.before, lenDue := __src.lenDue, holdEnd := none, parkOwner := __src.parkOwner, parkedAt := __src.parkedAt : Packet }) ∧ (ps Stage.pool none none).nextAt 1 Stage.pool = none ∧ nothingLeft     (have __src := pk Stage.pool;     { id := __src.id, src := __src.src, kind := __src.kind, pipe := __src.pipe, bytes := __src.bytes, whole := __src.whole, express := __src.express, tsSec := __src.tsSec, tsNs := __src.tsNs, rxFree := __src.rxFree, redTag := __src.redTag, tcHint := __src.tcHint, sender := __src.sender, egReq := __src.egReq, origin := __src.origin, buf := none, stage := __src.stage, tag := __src.tag, counted := __src.counted, pass := __src.pass, detached := __src.detached, due := __src.due, resumed := __src.resumed, entered := __src.entered, restarts := __src.restarts, preempts := __src.preempts, guarded := __src.guarded, parse := __src.parse, act := __src.act, fragPorts := __src.fragPorts, frag := __src.frag, tc := __src.tc, dp := __src.dp, dest := __src.dest, prune := __src.prune, rw := __src.rw, insets := __src.insets, hand := __src.hand, raw := __src.raw, slice := __src.slice, pin := __src.pin, verify := __src.verify, before := __src.before, lenDue := __src.lenDue, holdEnd := none, parkOwner := __src.parkOwner, parkedAt := __src.parkedAt : Packet }) =   false ∧ (ps Stage.pool none none).replLevel 0 < 512 ∧ (have __src := pk Stage.pool;     { id := __src.id, src := __src.src, kind := __src.kind, pipe := __src.pipe, bytes := __src.bytes, whole := __src.whole, express := __src.express, tsSec := __src.tsSec, tsNs := __src.tsNs, rxFree := __src.rxFree, redTag := __src.redTag, tcHint := __src.tcHint, sender := __src.sender, egReq := __src.egReq, origin := __src.origin, buf := none, stage := __src.stage, tag := __src.tag, counted := __src.counted, pass := __src.pass, detached := __src.detached, due := __src.due, resumed := __src.resumed, entered := __src.entered, restarts := __src.restarts, preempts := __src.preempts, guarded := __src.guarded, parse := __src.parse, act := __src.act, fragPorts := __src.fragPorts, frag := __src.frag, tc := __src.tc, dp := __src.dp, dest := __src.dest, prune := __src.prune, rw := __src.rw, insets := __src.insets, hand := __src.hand, raw := __src.raw, slice := __src.slice, pin := __src.pin, verify := __src.verify, before := __src.before, lenDue := __src.lenDue, holdEnd := none, parkOwner := __src.parkOwner, parkedAt := __src.parkedAt : Packet }).buf =   none ∧ (have __src := pk Stage.pool;     { id := __src.id, src := __src.src, kind := __src.kind, pipe := __src.pipe, bytes := __src.bytes, whole := __src.whole, express := __src.express, tsSec := __src.tsSec, tsNs := __src.tsNs, rxFree := __src.rxFree, redTag := __src.redTag, tcHint := __src.tcHint, sender := __src.sender, egReq := __src.egReq, origin := __src.origin, buf := none, stage := __src.stage, tag := __src.tag, counted := __src.counted, pass := __src.pass, detached := __src.detached, due := __src.due, resumed := __src.resumed, entered := __src.entered, restarts := __src.restarts, preempts := __src.preempts, guarded := __src.guarded, parse := __src.parse, act := __src.act, fragPorts := __src.fragPorts, frag := __src.frag, tc := __src.tc, dp := __src.dp, dest := __src.dest, prune := __src.prune, rw := __src.rw, insets := __src.insets, hand := __src.hand, raw := __src.raw, slice := __src.slice, pin := __src.pin, verify := __src.verify, before := __src.before, lenDue := __src.lenDue, holdEnd := none, parkOwner := __src.parkOwner, parkedAt := __src.parkedAt : Packet }).whole =   true ∧ (have __src := pk Stage.pool;         { id := __src.id, src := __src.src, kind := __src.kind, pipe := __src.pipe, bytes := __src.bytes, whole := __src.whole, express := __src.express, tsSec := __src.tsSec, tsNs := __src.tsNs, rxFree := __src.rxFree, redTag := __src.redTag, tcHint := __src.tcHint, sender := __src.sender, egReq := __src.egReq, origin := __src.origin, buf := none, stage := __src.stage, tag := __src.tag, counted := __src.counted, pass := __src.pass, detached := __src.detached, due := __src.due, resumed := __src.resumed, entered := __src.entered, restarts := __src.restarts, preempts := __src.preempts, guarded := __src.guarded, parse := __src.parse, act := __src.act, fragPorts := __src.fragPorts, frag := __src.frag, tc := __src.tc, dp := __src.dp, dest := __src.dest, prune := __src.prune, rw := __src.rw, insets := __src.insets, hand := __src.hand, raw := __src.raw, slice := __src.slice, pin := __src.pin, verify := __src.verify, before := __src.before, lenDue := __src.lenDue, holdEnd := none, parkOwner := __src.parkOwner, parkedAt := __src.parkedAt : Packet }).bytes.length +     4 ≤   (ps Stage.pool none none).poolSize 0 ∧ (ps Stage.pool none none).poolSize 0 ≤ (ps Stage.pool none none).poolSize 3 ∧ (ps Stage.pool none none).poolCount 0 ≤ 131072 ∧ escOf 0 + (ps Stage.pool none none).rn Field.SWC_WM_DROP < (ps Stage.pool none none).phi 0) :=
  by decide

/-- States and operands that meet the hypotheses of the clauses of BuffersAndReplicas. -/
theorem witness_BuffersAndReplicas_3 :
    ((ps Stage.pool none (some 3)).nextAt 0 Stage.pool =   some     (have __src := pk Stage.pool;     { id := __src.id, src := __src.src, kind := __src.kind, pipe := __src.pipe, bytes := __src.bytes, whole := __src.whole, express := __src.express, tsSec := __src.tsSec, tsNs := __src.tsNs, rxFree := __src.rxFree, redTag := __src.redTag, tcHint := __src.tcHint, sender := __src.sender, egReq := __src.egReq, origin := __src.origin, buf := none, stage := __src.stage, tag := __src.tag, counted := __src.counted, pass := __src.pass, detached := __src.detached, due := __src.due, resumed := __src.resumed, entered := __src.entered, restarts := __src.restarts, preempts := __src.preempts, guarded := __src.guarded, parse := __src.parse, act := __src.act, fragPorts := __src.fragPorts, frag := __src.frag, tc := __src.tc, dp := __src.dp, dest := __src.dest, prune := __src.prune, rw := __src.rw, insets := __src.insets, hand := __src.hand, raw := __src.raw, slice := __src.slice, pin := __src.pin, verify := __src.verify, before := __src.before, lenDue := __src.lenDue, holdEnd := some 3, parkOwner := __src.parkOwner, parkedAt := __src.parkedAt : Packet }) ∧ (have __src := pk Stage.pool;       { id := __src.id, src := __src.src, kind := __src.kind, pipe := __src.pipe, bytes := __src.bytes, whole := __src.whole, express := __src.express, tsSec := __src.tsSec, tsNs := __src.tsNs, rxFree := __src.rxFree, redTag := __src.redTag, tcHint := __src.tcHint, sender := __src.sender, egReq := __src.egReq, origin := __src.origin, buf := none, stage := __src.stage, tag := __src.tag, counted := __src.counted, pass := __src.pass, detached := __src.detached, due := __src.due, resumed := __src.resumed, entered := __src.entered, restarts := __src.restarts, preempts := __src.preempts, guarded := __src.guarded, parse := __src.parse, act := __src.act, fragPorts := __src.fragPorts, frag := __src.frag, tc := __src.tc, dp := __src.dp, dest := __src.dest, prune := __src.prune, rw := __src.rw, insets := __src.insets, hand := __src.hand, raw := __src.raw, slice := __src.slice, pin := __src.pin, verify := __src.verify, before := __src.before, lenDue := __src.lenDue, holdEnd := some 3, parkOwner := __src.parkOwner, parkedAt := __src.parkedAt : Packet }).holdEnd.isSome =   true ∧ (ps Stage.pool none (some 3)).replLevel 0 < 512) :=
  by decide

/-- States and operands that meet the hypotheses of the clauses of BuffersAndReplicas. -/
theorem witness_BuffersAndReplicas_4 :
    (rpl.nextAt 0 Stage.repl =   some     (have __src := pk Stage.repl;     { id := __src.id, src := __src.src, kind := __src.kind, pipe := __src.pipe, bytes := __src.bytes, whole := __src.whole, express := __src.express, tsSec := __src.tsSec, tsNs := __src.tsNs, rxFree := __src.rxFree, redTag := __src.redTag, tcHint := __src.tcHint, sender := __src.sender, egReq := __src.egReq, origin := __src.origin, buf := some 5, stage := __src.stage, tag := __src.tag, counted := __src.counted, pass := __src.pass, detached := __src.detached, due := __src.due, resumed := __src.resumed, entered := __src.entered, restarts := __src.restarts, preempts := __src.preempts, guarded := __src.guarded, parse := __src.parse, act := __src.act, fragPorts := __src.fragPorts, frag := __src.frag, tc := __src.tc, dp := __src.dp, dest := __src.dest, prune := __src.prune, rw := __src.rw, insets := __src.insets, hand := __src.hand, raw := __src.raw, slice := __src.slice, pin := __src.pin, verify := __src.verify, before := __src.before, lenDue := __src.lenDue, holdEnd := none, parkOwner := __src.parkOwner, parkedAt := __src.parkedAt : Packet }) ∧ (have __src := pk Stage.repl;     { id := __src.id, src := __src.src, kind := __src.kind, pipe := __src.pipe, bytes := __src.bytes, whole := __src.whole, express := __src.express, tsSec := __src.tsSec, tsNs := __src.tsNs, rxFree := __src.rxFree, redTag := __src.redTag, tcHint := __src.tcHint, sender := __src.sender, egReq := __src.egReq, origin := __src.origin, buf := some 5, stage := __src.stage, tag := __src.tag, counted := __src.counted, pass := __src.pass, detached := __src.detached, due := __src.due, resumed := __src.resumed, entered := __src.entered, restarts := __src.restarts, preempts := __src.preempts, guarded := __src.guarded, parse := __src.parse, act := __src.act, fragPorts := __src.fragPorts, frag := __src.frag, tc := __src.tc, dp := __src.dp, dest := __src.dest, prune := __src.prune, rw := __src.rw, insets := __src.insets, hand := __src.hand, raw := __src.raw, slice := __src.slice, pin := __src.pin, verify := __src.verify, before := __src.before, lenDue := __src.lenDue, holdEnd := none, parkOwner := __src.parkOwner, parkedAt := __src.parkedAt : Packet }).buf =   some 5 ∧ rpl.buf 5 =   some     (have __src := BF;     { owner := ownPipe 0, st := __src.st, count := __src.count, insets := __src.insets, bytes := __src.bytes, order := __src.order, pkt := __src.pkt : Buf }) ∧ (have __src := pk Stage.repl;     { id := __src.id, src := __src.src, kind := __src.kind, pipe := __src.pipe, bytes := __src.bytes, whole := __src.whole, express := __src.express, tsSec := __src.tsSec, tsNs := __src.tsNs, rxFree := __src.rxFree, redTag := __src.redTag, tcHint := __src.tcHint, sender := __src.sender, egReq := __src.egReq, origin := __src.origin, buf := some 5, stage := __src.stage, tag := __src.tag, counted := __src.counted, pass := __src.pass, detached := __src.detached, due := __src.due, resumed := __src.resumed, entered := __src.entered, restarts := __src.restarts, preempts := __src.preempts, guarded := __src.guarded, parse := __src.parse, act := __src.act, fragPorts := __src.fragPorts, frag := __src.frag, tc := __src.tc, dp := __src.dp, dest := __src.dest, prune := __src.prune, rw := __src.rw, insets := __src.insets, hand := __src.hand, raw := __src.raw, slice := __src.slice, pin := __src.pin, verify := __src.verify, before := __src.before, lenDue := __src.lenDue, holdEnd := none, parkOwner := __src.parkOwner, parkedAt := __src.parkedAt : Packet }).slice =   none ∧ (have __src := pk Stage.repl;     { id := __src.id, src := __src.src, kind := __src.kind, pipe := __src.pipe, bytes := __src.bytes, whole := __src.whole, express := __src.express, tsSec := __src.tsSec, tsNs := __src.tsNs, rxFree := __src.rxFree, redTag := __src.redTag, tcHint := __src.tcHint, sender := __src.sender, egReq := __src.egReq, origin := __src.origin, buf := some 5, stage := __src.stage, tag := __src.tag, counted := __src.counted, pass := __src.pass, detached := __src.detached, due := __src.due, resumed := __src.resumed, entered := __src.entered, restarts := __src.restarts, preempts := __src.preempts, guarded := __src.guarded, parse := __src.parse, act := __src.act, fragPorts := __src.fragPorts, frag := __src.frag, tc := __src.tc, dp := __src.dp, dest := __src.dest, prune := __src.prune, rw := __src.rw, insets := __src.insets, hand := __src.hand, raw := __src.raw, slice := __src.slice, pin := __src.pin, verify := __src.verify, before := __src.before, lenDue := __src.lenDue, holdEnd := none, parkOwner := __src.parkOwner, parkedAt := __src.parkedAt : Packet }).hand =   none ∧ (have __src := pk Stage.repl;     { id := __src.id, src := __src.src, kind := __src.kind, pipe := __src.pipe, bytes := __src.bytes, whole := __src.whole, express := __src.express, tsSec := __src.tsSec, tsNs := __src.tsNs, rxFree := __src.rxFree, redTag := __src.redTag, tcHint := __src.tcHint, sender := __src.sender, egReq := __src.egReq, origin := __src.origin, buf := some 5, stage := __src.stage, tag := __src.tag, counted := __src.counted, pass := __src.pass, detached := __src.detached, due := __src.due, resumed := __src.resumed, entered := __src.entered, restarts := __src.restarts, preempts := __src.preempts, guarded := __src.guarded, parse := __src.parse, act := __src.act, fragPorts := __src.fragPorts, frag := __src.frag, tc := __src.tc, dp := __src.dp, dest := __src.dest, prune := __src.prune, rw := __src.rw, insets := __src.insets, hand := __src.hand, raw := __src.raw, slice := __src.slice, pin := __src.pin, verify := __src.verify, before := __src.before, lenDue := __src.lenDue, holdEnd := none, parkOwner := __src.parkOwner, parkedAt := __src.parkedAt : Packet }).whole =   true ∧ (have __src := pk Stage.repl;     { id := __src.id, src := __src.src, kind := __src.kind, pipe := __src.pipe, bytes := __src.bytes, whole := __src.whole, express := __src.express, tsSec := __src.tsSec, tsNs := __src.tsNs, rxFree := __src.rxFree, redTag := __src.redTag, tcHint := __src.tcHint, sender := __src.sender, egReq := __src.egReq, origin := __src.origin, buf := some 5, stage := __src.stage, tag := __src.tag, counted := __src.counted, pass := __src.pass, detached := __src.detached, due := __src.due, resumed := __src.resumed, entered := __src.entered, restarts := __src.restarts, preempts := __src.preempts, guarded := __src.guarded, parse := __src.parse, act := __src.act, fragPorts := __src.fragPorts, frag := __src.frag, tc := __src.tc, dp := __src.dp, dest := __src.dest, prune := __src.prune, rw := __src.rw, insets := __src.insets, hand := __src.hand, raw := __src.raw, slice := __src.slice, pin := __src.pin, verify := __src.verify, before := __src.before, lenDue := __src.lenDue, holdEnd := none, parkOwner := __src.parkOwner, parkedAt := __src.parkedAt : Packet }).dest =   Dest.ports (2 ^ 2) ∧ 2 < 32 ∧ (have __src := pk Stage.repl;     { id := __src.id, src := __src.src, kind := __src.kind, pipe := __src.pipe, bytes := __src.bytes, whole := __src.whole, express := __src.express, tsSec := __src.tsSec, tsNs := __src.tsNs, rxFree := __src.rxFree, redTag := __src.redTag, tcHint := __src.tcHint, sender := __src.sender, egReq := __src.egReq, origin := __src.origin, buf := some 5, stage := __src.stage, tag := __src.tag, counted := __src.counted, pass := __src.pass, detached := __src.detached, due := __src.due, resumed := __src.resumed, entered := __src.entered, restarts := __src.restarts, preempts := __src.preempts, guarded := __src.guarded, parse := __src.parse, act := __src.act, fragPorts := __src.fragPorts, frag := __src.frag, tc := __src.tc, dp := __src.dp, dest := __src.dest, prune := __src.prune, rw := __src.rw, insets := __src.insets, hand := __src.hand, raw := __src.raw, slice := __src.slice, pin := __src.pin, verify := __src.verify, before := __src.before, lenDue := __src.lenDue, holdEnd := none, parkOwner := __src.parkOwner, parkedAt := __src.parkedAt : Packet }).prune =   none ∧ (have __src := pk Stage.repl;     { id := __src.id, src := __src.src, kind := __src.kind, pipe := __src.pipe, bytes := __src.bytes, whole := __src.whole, express := __src.express, tsSec := __src.tsSec, tsNs := __src.tsNs, rxFree := __src.rxFree, redTag := __src.redTag, tcHint := __src.tcHint, sender := __src.sender, egReq := __src.egReq, origin := __src.origin, buf := some 5, stage := __src.stage, tag := __src.tag, counted := __src.counted, pass := __src.pass, detached := __src.detached, due := __src.due, resumed := __src.resumed, entered := __src.entered, restarts := __src.restarts, preempts := __src.preempts, guarded := __src.guarded, parse := __src.parse, act := __src.act, fragPorts := __src.fragPorts, frag := __src.frag, tc := __src.tc, dp := __src.dp, dest := __src.dest, prune := __src.prune, rw := __src.rw, insets := __src.insets, hand := __src.hand, raw := __src.raw, slice := __src.slice, pin := __src.pin, verify := __src.verify, before := __src.before, lenDue := __src.lenDue, holdEnd := none, parkOwner := __src.parkOwner, parkedAt := __src.parkedAt : Packet }).insets =   0 ∧ (∀ (i : Nat), i < 8 → rpl.rb Field.SWC_INS_EN i = false) ∧ (have __src := pk Stage.repl;     { id := __src.id, src := __src.src, kind := __src.kind, pipe := __src.pipe, bytes := __src.bytes, whole := __src.whole, express := __src.express, tsSec := __src.tsSec, tsNs := __src.tsNs, rxFree := __src.rxFree, redTag := __src.redTag, tcHint := __src.tcHint, sender := __src.sender, egReq := __src.egReq, origin := __src.origin, buf := some 5, stage := __src.stage, tag := __src.tag, counted := __src.counted, pass := __src.pass, detached := __src.detached, due := __src.due, resumed := __src.resumed, entered := __src.entered, restarts := __src.restarts, preempts := __src.preempts, guarded := __src.guarded, parse := __src.parse, act := __src.act, fragPorts := __src.fragPorts, frag := __src.frag, tc := __src.tc, dp := __src.dp, dest := __src.dest, prune := __src.prune, rw := __src.rw, insets := __src.insets, hand := __src.hand, raw := __src.raw, slice := __src.slice, pin := __src.pin, verify := __src.verify, before := __src.before, lenDue := __src.lenDue, holdEnd := none, parkOwner := __src.parkOwner, parkedAt := __src.parkedAt : Packet }).dp =   0 ∧ rpl.queueFor 2     (have __src := pk Stage.repl;       { id := __src.id, src := __src.src, kind := __src.kind, pipe := __src.pipe, bytes := __src.bytes, whole := __src.whole, express := __src.express, tsSec := __src.tsSec, tsNs := __src.tsNs, rxFree := __src.rxFree, redTag := __src.redTag, tcHint := __src.tcHint, sender := __src.sender, egReq := __src.egReq, origin := __src.origin, buf := some 5, stage := __src.stage, tag := __src.tag, counted := __src.counted, pass := __src.pass, detached := __src.detached, due := __src.due, resumed := __src.resumed, entered := __src.entered, restarts := __src.restarts, preempts := __src.preempts, guarded := __src.guarded, parse := __src.parse, act := __src.act, fragPorts := __src.fragPorts, frag := __src.frag, tc := __src.tc, dp := __src.dp, dest := __src.dest, prune := __src.prune, rw := __src.rw, insets := __src.insets, hand := __src.hand, raw := __src.raw, slice := __src.slice, pin := __src.pin, verify := __src.verify, before := __src.before, lenDue := __src.lenDue, holdEnd := none, parkOwner := __src.parkOwner, parkedAt := __src.parkedAt : Packet }).tc     (have __src := pk Stage.repl;       { id := __src.id, src := __src.src, kind := __src.kind, pipe := __src.pipe, bytes := __src.bytes, whole := __src.whole, express := __src.express, tsSec := __src.tsSec, tsNs := __src.tsNs, rxFree := __src.rxFree, redTag := __src.redTag, tcHint := __src.tcHint, sender := __src.sender, egReq := __src.egReq, origin := __src.origin, buf := some 5, stage := __src.stage, tag := __src.tag, counted := __src.counted, pass := __src.pass, detached := __src.detached, due := __src.due, resumed := __src.resumed, entered := __src.entered, restarts := __src.restarts, preempts := __src.preempts, guarded := __src.guarded, parse := __src.parse, act := __src.act, fragPorts := __src.fragPorts, frag := __src.frag, tc := __src.tc, dp := __src.dp, dest := __src.dest, prune := __src.prune, rw := __src.rw, insets := __src.insets, hand := __src.hand, raw := __src.raw, slice := __src.slice, pin := __src.pin, verify := __src.verify, before := __src.before, lenDue := __src.lenDue, holdEnd := none, parkOwner := __src.parkOwner, parkedAt := __src.parkedAt : Packet }).pin =   some 100 ∧ 16384 < rpl.entFree ∧ (rpl.queue 100).depth +     units       ((have __src := pk Stage.repl;             { id := __src.id, src := __src.src, kind := __src.kind, pipe := __src.pipe, bytes := __src.bytes, whole := __src.whole, express := __src.express, tsSec := __src.tsSec, tsNs := __src.tsNs, rxFree := __src.rxFree, redTag := __src.redTag, tcHint := __src.tcHint, sender := __src.sender, egReq := __src.egReq, origin := __src.origin, buf := some 5, stage := __src.stage, tag := __src.tag, counted := __src.counted, pass := __src.pass, detached := __src.detached, due := __src.due, resumed := __src.resumed, entered := __src.entered, restarts := __src.restarts, preempts := __src.preempts, guarded := __src.guarded, parse := __src.parse, act := __src.act, fragPorts := __src.fragPorts, frag := __src.frag, tc := __src.tc, dp := __src.dp, dest := __src.dest, prune := __src.prune, rw := __src.rw, insets := __src.insets, hand := __src.hand, raw := __src.raw, slice := __src.slice, pin := __src.pin, verify := __src.verify, before := __src.before, lenDue := __src.lenDue, holdEnd := none, parkOwner := __src.parkOwner, parkedAt := __src.parkedAt : Packet }).bytes.length +         4) ≤   rpl.rn Field.TMG_Q_MAX 100) :=
  by decide

/-- States and operands that meet the hypotheses of the clauses of BuffersAndReplicas. -/
theorem witness_BuffersAndReplicas_5 :
    ((((own Mode.load).setN Field.SWC_POOL_SZ 0 3).setN Field.SWC_POOL_SZ 1 10).guard (Src.host 0) Block.SWC = true ∧ (((own Mode.load).setN Field.SWC_POOL_SZ 0 3).setN Field.SWC_POOL_SZ 1 10).mod.mode = Mode.load ∧ (((own Mode.load).setN Field.SWC_POOL_SZ 0 3).setN Field.SWC_POOL_SZ 1 10).rb Field.SWC_LAYOUT_LOCKED = false ∧ layoutOk (((own Mode.load).setN Field.SWC_POOL_SZ 0 3).setN Field.SWC_POOL_SZ 1 10).layoutRegs = true) ∧
    ((own Mode.run).guard (Src.host 0) Block.SWC = true ∧ ((own Mode.run).mod.mode ≠ Mode.load ∨ (own Mode.run).rb Field.SWC_LAYOUT_LOCKED = true ∨ layoutOk (own Mode.run).layoutRegs = false)) ∧
    (((own Mode.run).setN Field.SWC_RG_MASK_L 9 77).guard (Src.host 0) Block.SWC = true) := by decide

/-- States and operands that meet the hypotheses of the clauses of QueuesAndShapers. -/
theorem witness_QueuesAndShapers :
    (isEgress 3 = true ∧ qs.portUp 3 = true ∧ qs.selection 3 false = some (100, 3) ∧ (qs.queue 100).ents = [QE, QE]) ∧
    ((x6_1.queue 100).ents =   [have __src := QE;     { buf := __src.buf, len := __src.len, tc := __src.tc, dp := __src.dp, rw := __src.rw, owner := __src.owner, inset := __src.inset, trunc := __src.trunc, vport := __src.vport, void := true, red := __src.red, pub := __src.pub, raw := __src.raw, pkt := __src.pkt : QEnt },     QE] ∧ x6_1.cgOf 100 = some 27 ∧ (have __src := QE;     { buf := __src.buf, len := __src.len, tc := __src.tc, dp := __src.dp, rw := __src.rw, owner := __src.owner, inset := __src.inset, trunc := __src.trunc, vport := __src.vport, void := true, red := __src.red, pub := __src.pub, raw := __src.raw, pkt := __src.pkt : QEnt }).void =   true) ∧
    (((qs.setB Field.PRT_LINK_UP 3 false).queue 100).ents = [QE, QE] ∧ (qs.setB Field.PRT_LINK_UP 3 false).cgOf 100 = some 27 ∧ QE.void = false ∧ (qs.setB Field.PRT_LINK_UP 3 false).portUp (27 / 8) = false) ∧
    (qs.tmg.carried = [] ∧ (∀ (e : Nat × WheelItem), e ∈ qs.tmg.wheel → qs.tmg.slot + 1 < e.fst)) ∧
    (x6_3.tmg.carried = [] ∧ x6_3.tmg.wheel = [(x6_3.tmg.slot + 1, WheelItem.pub 4)]) ∧
    (qs.guard (Src.host 0) Block.TMG = true ∧ isEgress 3 = true ∧ (3 < 48 → qs.rb Field.PRT_EN 3 = true → qs.mod.mode = Mode.load) ∧ bitsOf 196864 19 16 ≤ 8 ∧ bitsOf 196864 14 0 + 2 ^ bitsOf 196864 19 16 ≤ 32704 ∧ (196864#32).getLsbD 31 = false) ∧
    (qs.guard (Src.host 0) Block.TMG = true ∧ qs.queueOk 200 = true) ∧
    (qs.guard (Src.host 0) Block.TMG = true ∧ qs.namers 200 = [] ∧ (2147680512#32).getLsbD 31 = true) ∧
    ((qs.setB Field.TMG_QS_EN 200 true).guard (Src.host 0) Block.TMG = true ∧ (qs.setB Field.TMG_QS_EN 200 true).namers 200 = [] ∧ (qs.setB Field.TMG_QS_EN 200 true).rb Field.TMG_QS_EN 200 = true) ∧
    ((isEgress 4 = false ∨ qs.portUp 4 = false ∨ qs.selection 4 true = none)) ∧
    ((qs.queue 100).ents = [QE, QE] ∧ qs.cgOf 100 = some 27 ∧ QE.void = false ∧ qs.portUp (27 / 8) = true) := by decide

end W6

namespace W7

def mon : State := { (inMode .monitor) with mon := { R.mon with isOpen := true } }
def pc (s : State) : State := (s.setB .PWR_VIN_OK 0 true).setN .PWR_TDIE_MAX 0 100
def x7_1 := {own .run with mon := mon.mon}
def mau : State := { mon with mon := { mon.mon with auto := true } }
def lk (m : Mode) (v : BitVec 32) : State := { (inMode m) with mon := mon.mon, fus := { R.fus with shadow := [(72, v)] } }
def x7_2 := {inMode .isolated with mon := mon.mon}
def evs : State := (mon.raise .MON_I_OPEN 1 2).raise .MON_I_CLOSE 3 4
def mn := mon
def x7_3 := {mn with flash := [(3,4),(5000,6)]}
def x7_4 := {inMode .repair with mon := mon.mon}
def okw : State := { pc mn with fus := { R.fus with array := [(64, 1), (81, 0x80000000)] } }
def x7_5 := {pc mn with fus := { R.fus with burn := [70] }}
def cts : State := { own .run with ctrs := (own .run).ctrs }.setN .HST_FENCED_CNT 2 77 |>.setN .HST_PART_CNT 2 9
def ct2 : State := cts.bump .FLW_CNT_HIT 0 0x500000007
def wh (m : Mode) : State := (((own m).setB .FLW_EVT_GOOSE 0 true).setB .FLW_EVT_CMD 0 true)
def mns : State := { mn with boot := { mn.boot with straps := 2 }, flash := [(3, 4), (5000, 6)] }

/-- States and operands that meet the hypotheses of the clauses of MonitorSessionsAndLines (MonitorSessions). -/
theorem witness_MonitorSessionsAndLines_MonitorSessions :
    (1000000 ≤ 1000000 ∧ (own Mode.run).mod.mode ∈ [Mode.run, Mode.isolated, Mode.drain] ∧ (own Mode.run).mon.isOpen = false) ∧
    (1000000 ≤ 1000000 ∧ x7_1.mod.mode ∈ [Mode.run, Mode.isolated, Mode.drain] ∧ x7_1.mon.isOpen = true) ∧
    (1000000 ≤ 1000000 ∧ ((inMode Mode.boot).mod.mode = Mode.boot ∨ (inMode Mode.boot).mod.mode ∈ [Mode.dormant, Mode.standby, Mode.safeHold] ∧ (inMode Mode.boot).rb Field.PWR_VIN_OK = true) ∧ (inMode Mode.boot).mod.trans = none) ∧
    (1000000 ≤ 1000000 ∧ (((inMode Mode.load).setB Field.PWR_VIN_OK 0 true).mod.mode ∈ [Mode.load, Mode.test, Mode.repair, Mode.monitor] ∨ ((inMode Mode.load).setB Field.PWR_VIN_OK 0 true).mod.mode = Mode.boot ∧ ((inMode Mode.load).setB Field.PWR_VIN_OK 0 true).mod.trans.isSome = true)) ∧
    (x7_1.mon.isOpen = true ∧ x7_1.mod.mode ≠ Mode.monitor) ∧
    (mon.mod.mode = Mode.monitor) ∧
    (mon.mon.isOpen = true ∧ 9600 ≤ 9600 ∧ 9600 ≤ 3000000) ∧
    (mau.mon.isOpen = true ∧ mau.mon.auto = true ∧ 9600 ≤ 9655 ∧ 9655 ≤ 3000000) ∧
    (mon.mon.auto = false) := by decide

/-- States and operands that meet the hypotheses of the clauses of MonitorSessionsAndLines (MonitorLines). -/
theorem witness_MonitorSessionsAndLines_MonitorLines :
    (mon.mon.isOpen = true ∧ 256 < 257) ∧
    (mon.mon.isOpen = true ∧ 256 ≤ 256 ∧ (250 < (List.filter (fun (x : BitVec 8) => x != 10#8) [73#8, 31#8]).length ∨ ∃ (b : Byte), b ∈ [73#8, 31#8] ∧ b ≠ 10#8 ∧ (BitVec.toNat b < 32 ∨ 126 < BitVec.toNat b))) ∧
    (mon.mon.isOpen = true ∧ 256 ≤ 256 ∧ (∀ (b : Byte), b ∈ [73#8, 68#8] → 32 ≤ BitVec.toNat b ∧ BitVec.toNat b ≤ 126) ∧ [73#8, 68#8].length ≤ 250 ∧ (∀ (b : Byte), b ∈ [73#8, 68#8] → b ≠ 42#8)) ∧
    (mon.mon.isOpen = true ∧ 256 ≤ 256 ∧ (∀ (x : Byte), x ∈ [73#8, 68#8] → 32 ≤ BitVec.toNat x ∧ BitVec.toNat x ≤ 126) ∧ ([73#8, 68#8] ++ [42#8, hexDigit 1, hexDigit 2, hexDigit 3, hexDigit 4]).length ≤ 250) := by decide

/-- States and operands that meet the hypotheses of the clauses of MonitorRefusals. -/
theorem witness_MonitorRefusals_1 :
    (mon.mod.mode = Mode.monitor ∧ mon.mon.isOpen = true) :=
  by decide

/-- States and operands that meet the hypotheses of the clauses of MonitorRefusals. -/
theorem witness_MonitorRefusals_2 :
    (((∃ (m : Option (BitVec 4)), ∃ (t : BitVec 4), Instr.wr 1#24 2#32 = Instr.mode m t) ∨ (∃ (o : BitVec 24), ∃ (v : BitVec 32), Instr.wr 1#24 2#32 = Instr.wr o v) ∨ (∃ (h : Bool), ∃ (d : Nat), Instr.wr 1#24 2#32 = Instr.monitorLoad h d) ∨ (∃ (a : BitVec 32), ∃ (n : BitVec 13), Instr.wr 1#24 2#32 = Instr.flashRd a n) ∨ (∃ (a : BitVec 32), Instr.wr 1#24 2#32 = Instr.flashEr a) ∨ (∃ (a : BitVec 32), ∃ (d : List (BitVec 8)), Instr.wr 1#24 2#32 = Instr.flashWr a d) ∨ (∃ (w : BitVec 8), ∃ (v : BitVec 32), ∃ (b : BitVec 32), Instr.wr 1#24 2#32 = Instr.fuseWr w v b) ∨ (∃ (b : BitVec 32), Instr.wr 1#24 2#32 = Instr.fuseSeal b) ∨ Instr.wr 1#24 2#32 = Instr.hbmTest ∨ Instr.wr 1#24 2#32 = Instr.hbmBurn) ∧ (lk Mode.monitor 4#32).mon.isOpen = true ∧ (lk Mode.monitor 4#32).monLock = true) ∧
    ((Instr.id ∈ [Instr.id, Instr.reset, Instr.cap, Instr.health, Instr.hbmTest, Instr.hbmBurn, Instr.baudAuto, Instr.exit] ∨ (∃ (m : Option (BitVec 4)), ∃ (t : BitVec 4), Instr.id = Instr.mode m t) ∨ (∃ (o : BitVec 24), ∃ (n : BitVec 8), Instr.id = Instr.rd o n) ∨ (∃ (o : BitVec 24), ∃ (v : BitVec 32), Instr.id = Instr.wr o v) ∨ (∃ (n : BitVec 8), Instr.id = Instr.evt n) ∨ (∃ (w : BitVec 8), ∃ (n : BitVec 8), Instr.id = Instr.fuseRd w n) ∨ (∃ (n : Nat), Instr.id = Instr.baud n) ∨ (∃ (l : List (BitVec 8)), ∃ (n : Nat), Instr.id = Instr.monitorLine l n) ∨ ∃ (a : BitVec 32), ∃ (d : List (BitVec 8)), Instr.id = Instr.flashWr a d) ∧ (own Mode.run).mon.isOpen = false) ∧
    (((∃ (h : Bool), ∃ (d : Nat), Instr.flashRd 1#32 2#13 = Instr.monitorLoad h d) ∨ (∃ (a : BitVec 32), ∃ (n : BitVec 13), Instr.flashRd 1#32 2#13 = Instr.flashRd a n) ∨ (∃ (a : BitVec 32), Instr.flashRd 1#32 2#13 = Instr.flashEr a) ∨ (∃ (a : BitVec 32), ∃ (d : List (BitVec 8)), Instr.flashRd 1#32 2#13 = Instr.flashWr a d) ∨ (∃ (w : BitVec 8), ∃ (v : BitVec 32), ∃ (b : BitVec 32), Instr.flashRd 1#32 2#13 = Instr.fuseWr w v b) ∨ ∃ (b : BitVec 32), Instr.flashRd 1#32 2#13 = Instr.fuseSeal b) ∧ x7_2.mod.mode ≠ Mode.monitor ∧ x7_2.mon.isOpen = true ∧ x7_2.monLock = false) ∧
    ((Instr.hbmTest = Instr.hbmTest ∨ Instr.hbmTest = Instr.hbmBurn) ∧ mon.mod.mode ≠ Mode.repair ∧ mon.mon.isOpen = true ∧ mon.monLock = false) :=
  ⟨⟨by simp, by decide⟩,
   ⟨by simp, by decide⟩,
   ⟨by simp, by decide⟩,
   ⟨by simp, by decide⟩⟩

/-- States and operands that meet the hypotheses of the clauses of MonitorReads. -/
theorem witness_MonitorReads :
    (mon.mon.isOpen = true ∧ mon.monLock = false) ∧
    (mon.mon.isOpen = true ∧ 65568 % 4 = 0) ∧
    (mon.mon.isOpen = true ∧ (65570 % 4 ≠ 0 ∨ 64 < 1)) ∧
    (evs.mon.isOpen = true ∧ 10 ≤ 4096 ∧ evs.mod.mode = Mode.monitor ∧ evs.monLock = false) ∧
    (evs.mon.isOpen = true ∧ 20 ≤ 64 ∧ 10 + 20 ≤ 256) ∧
    (evs.mon.isOpen = true ∧ 2 ≤ 64 ∧ 2 ≤ List.length evs.logRecs) := by decide

/-- States and operands that meet the hypotheses of the clauses of MonitorActs. -/
theorem witness_MonitorActs :
    ((lk Mode.monitor 2#32).mon.isOpen = true ∧ (lk Mode.monitor 2#32).monLock = false ∧ (lk Mode.monitor 2#32).mod.mode = Mode.monitor ∧ (lk Mode.monitor 2#32).mod.trans = none ∧ (lk Mode.monitor 2#32).dbgLock = true) ∧
    (mn.mon.isOpen = true ∧ mn.monLock = false ∧ mn.mod.mode = Mode.monitor ∧ mn.mod.trans = none ∧ mn.dbgLock = false) ∧
    (x7_1.mon.isOpen = true ∧ x7_1.monLock = false ∧ x7_1.mod.mode ≠ Mode.monitor ∧ 4#4 ≠ 8#4) ∧
    (x7_2.mon.isOpen = true ∧ x7_2.monLock = false ∧ x7_2.mod.mode = Mode.isolated ∧ x7_2.mod.trans = none ∧ drainTargetOf 5 = some Mode.standby) ∧
    (mn.mon.isOpen = true ∧ mn.monLock = false ∧ 65568 % 4 = 0) ∧
    (x7_3.mon.isOpen = true ∧ x7_3.monLock = false ∧ x7_3.mod.mode = Mode.monitor) ∧
    (x7_4.mon.isOpen = true ∧ x7_4.monLock = false ∧ x7_4.mod.mode = Mode.repair ∧ x7_4.rn Field.MEM_RPR_OUT ≠ 1) ∧
    ((x7_4.setN Field.MEM_RPR_OUT 0 1).mon.isOpen = true ∧ (x7_4.setN Field.MEM_RPR_OUT 0 1).monLock = false ∧ (x7_4.setN Field.MEM_RPR_OUT 0 1).mod.mode = Mode.repair ∧ (x7_4.setN Field.MEM_RPR_OUT 0 1).rn Field.MEM_RPR_OUT = 1) ∧
    (mns.mon.isOpen = true ∧ mns.monLock = false ∧ mns.mod.mode = Mode.monitor ∧ mns.mod.trans = none) := by decide

/-- States and operands that meet the hypotheses of the clauses of FusesAndJtag. -/
theorem witness_FusesAndJtag_1 :
    ((lk Mode.monitor 2#32).dbgLock = true ∧ Jtag.other 3 ≠ Jtag.bypass ∧ Jtag.other 3 ≠ Jtag.idcode) ∧
    (mn.mon.isOpen = true ∧ mn.monLock = false ∧ mn.mod.mode = Mode.monitor ∧ mn.progCond = false) ∧
    ((pc mn).mon.isOpen = true ∧ (pc mn).monLock = false ∧ (pc mn).mod.mode = Mode.monitor ∧ (pc mn).progCond = true ∧ (7 < 64 ∨ 128 ≤ 7)) ∧
    ((pc mn).mon.isOpen = true ∧ (pc mn).monLock = false ∧ (pc mn).mod.mode = Mode.monitor ∧ (pc mn).progCond = true ∧ 64 ≤ 70 ∧ 70 < 128 ∧ ownerSealed (pc mn).fus.array = false ∧ 5#32 &&& 2#32 = 0#32) ∧
    ((pc mn).mon.isOpen = true ∧ (pc mn).monLock = false ∧ (pc mn).mod.mode = Mode.monitor ∧ (pc mn).progCond = true ∧ 64 ≤ 70 ∧ 70 < 128 ∧ ownerSealed (pc mn).fus.array = false ∧ 5#32 &&& 4#32 &&& ~~~SMap.get (0#32) (pc mn).fus.array 70 ≠ 0#32) ∧
    (70 < 512 ∧ x7_5.progCond = true ∧ x7_5.fus.burn = [70]) ∧
    ((x7_5.setB Field.HEA_C_BURN 0 true).progCond = true ∧ 70 ∈ (x7_5.setB Field.HEA_C_BURN 0 true).fus.burn ∧ 70 ∈ [70]) ∧
    (((pc mn).progCond = false ∨ (pc mn).fus.burn = [])) ∧
    (((pc mn).dbgLock = false ∨ Jtag.idcode = Jtag.bypass ∨ Jtag.idcode = Jtag.idcode)) := by decide

/-- States and operands that meet the hypotheses of the clauses of FusesAndJtag. -/
theorem witness_FusesAndJtag_2 :
    (ownerValid (pc mn).fus.array = false ∧ (pc mn).mon.isOpen = true ∧ (pc mn).monLock = false ∧ (pc mn).mod.mode = Mode.monitor ∧ (pc mn).progCond = true) ∧
    (ownerValid okw.fus.array = true ∧ okw.mon.isOpen = true ∧ okw.monLock = false ∧ okw.mod.mode = Mode.monitor ∧ okw.progCond = true ∧ SMap.get (0#32) okw.fus.array 127 = 0#32 ∧ SMap.get (0#32) okw.fus.array 126 = 0#32) :=
  ⟨⟨by decide +kernel, by decide⟩,
   ⟨by decide +kernel, by decide⟩⟩

/-- States and operands that meet the hypotheses of the clauses of RegisterReads. -/
theorem witness_RegisterReads :
    ((Instr.latchRead (Src.host 0) = Instr.latchRead (Src.host 0) ∨ Instr.latchRead (Src.host 0) = Instr.readClear (Src.host 0))) ∧
    ((Instr.readClear Src.steward = Instr.latchRead Src.steward ∨ Instr.readClear Src.steward = Instr.readClear Src.steward)) ∧
    ((Instr.readClear (Src.host 1) = Instr.latchRead (Src.host 1) ∨ Instr.readClear (Src.host 1) = Instr.readClear (Src.host 1)) ∧ blockAt (4 * (BitVec.ofNat 22 ((Block.FLW.base + Ctr.FLW_CNT_HIT.info.off) / 4)).toNat) = some (Block.FLW, Ctr.FLW_CNT_HIT.info.off) ∧ Block.FLW ≠ Block.TIM ∧ Block.FLW ≠ Block.HEA ∧ Block.FLW ≠ Block.PAR ∧ Block.FLW ≠ Block.AUT ∧ ct2.wide Block.FLW Ctr.FLW_CNT_HIT.info.off = some (ct2.ctr Ctr.FLW_CNT_HIT ((if Ctr.FLW_CNT_HIT.info.s1 = 0 then 0 else (Ctr.FLW_CNT_HIT.info.off - Ctr.FLW_CNT_HIT.info.off) / Ctr.FLW_CNT_HIT.info.s1) * Ctr.FLW_CNT_HIT.info.n2 + (Ctr.FLW_CNT_HIT.info.off - Ctr.FLW_CNT_HIT.info.off - (if Ctr.FLW_CNT_HIT.info.s1 = 0 then 0 else (Ctr.FLW_CNT_HIT.info.off - Ctr.FLW_CNT_HIT.info.off) / Ctr.FLW_CNT_HIT.info.s1) * Ctr.FLW_CNT_HIT.info.s1) / 8))) ∧
    ((Instr.readClear (Src.host 1) = Instr.latchRead (Src.host 1) ∨ Instr.readClear (Src.host 1) = Instr.readClear (Src.host 1)) ∧ blockAt (4 * 4194303) = none) :=
  ⟨by simp,
   by simp,
   ⟨by simp, by decide⟩,
   ⟨by simp, by decide⟩⟩

/-- States and operands that meet the hypotheses of the clauses of RegisterWrites. -/
theorem witness_RegisterWrites_1 :
    (blockAt (4 * 4194303) = none) ∧
    ((own Mode.run).guard (Src.host 0) Block.PWR = true) ∧
    ((own Mode.run).guard (Src.host 0) Block.TBL = true) ∧
    ((own Mode.run).guard (Src.host 0) Block.CLS = true ∧ 2644 % 8 = 4) ∧
    ((own Mode.run).mod.mode ≠ Mode.monitor ∧ blockAt (4 * 32769) = some (Block.FUS, 4) ∧ isW1C Block.FUS 4 = false) := by decide

/-- States and operands that meet the hypotheses of the clauses of RegisterWrites. -/
theorem witness_RegisterWrites_2 :
    ((Instr.writeOneClear (Src.host 0) 655364#22 9#32 = Instr.writeOneClear (Src.host 0) 655364#22 9#32 ∨ Instr.writeOneClear (Src.host 0) 655364#22 9#32 = Instr.registerWrite (Src.host 0) 655364#22 9#32) ∧ blockAt (4 * 655364) = some (Block.FLW, 16) ∧ isW1C Block.FLW 16 = true ∧ (wh Mode.run).isHolder (Src.host 0) = true ∧ Block.FLW ≠ Block.PRT) ∧
    ((∀ (b : Block) (o : Nat), blockAt (4 * 4194303) = some (b, o) → isW1C b o = false)) :=
  ⟨⟨by simp, by decide⟩,
   by intro b o h; rw [show blockAt (4 * 4194303) = none by decide] at h; cases h⟩

end W7

namespace W8

def SEA (asy : Bool) (lane : Option Nat := some 8) : Seat := { arr := if asy then 3 else 4, lane := lane.map (· + if asy then 0 else 1), parked := false, left := 10 }
def KS (alg : Nat) : KeySlot := { alg := alg, key := [1,2,3], salt := 0, ctr := 5, tagLen := 16, sign := true, verify := true, locked := false, warned := false }
def hm (t : State) : State := ({ t with hbm := { t.hbm with filled := true } }.setB .MEM_INIT_FLAG 0 true).setB .MEM_NR_EN 0 false
def AO (code : Nat) (asy : Bool) : AuthOp := { ctx := 9, gen := 2, async := asy, tag := 77, rd := 4, orphan := false, code := code, slot := 3, key := KS 3, inv := 5, seat := SEA asy, src := 5, dst := 6, srcBuf := true, dstBuf := true, len := 10, rcd := tm0 }
def bfn (n : Nat) : Buf := { owner := 0, st := .held, count := 0, insets := 0, bytes := List.replicate n 7#8, order := 0, pkt := none }
def aus (code : Nat) (asy : Bool) (good : Bool := false) : State := { own .run with
  aut := { R.aut with ops := [AO 2 true, AO code asy], slots := [(3, KS 3)] },
  eng := { R.eng with ctx := [(9, { Ctx.none with st := .stalled, gen := 2, auth := true, pc := 8 })] }, 
  swc := { R.swc with bufs := [(5, { bfn 26 with bytes := List.replicate 10 7#8 ++ (if good then (KS 3).mac 0 (List.replicate 10 7#8) else List.replicate 16 1#8) }), (6, bfn 40)] } }
def AW (code : Nat) (al : Nat) : State := { own .run with aut := { R.aut with ops := [{ AO code true with seat := SEA true none }], slots := [(3, KS al)] } }
def x8_1 := { AO 2 true with seat := SEA true none }
def oy : AuthOp := { AO 2 true with key := KS 3, seat := { (SEA true) with left := 5000 }, rcd := { tm0 with cls := 3 } }
def oz (n : Nat) : AuthOp := { AO 2 true with ctx := 10, key := KS 3, seat := { arr := 20 + n, lane := some (8 + n), parked := false, left := 100 } }
def ow : AuthOp := { AO 2 true with ctx := 11, key := KS 3, seat := { arr := 30, lane := none, parked := false, left := 100 }, rcd := { tm0 with cls := 1 } }
def AY : State := { own .run with aut := { R.aut with ops := [oy, oz 1, oz 2, oz 3, ow], slots := [(3, KS 3)] } }
def iv (vf : Verify) : Packet := { Packet.offered 4 3 0 0 (List.replicate 64 5#8) with stage := .verify, verify := some vf }
def VF (fl : Option Nat) (b : Option KeySlot) (rcd : Option Nat := none) : Verify := { key := List.replicate 66 0#8, rcd := rcd, hot := List.replicate 64 0#8, slot := 3, seat := SEA true (if b.isSome then some 8 else none), bound := b, fail := fl }
def ivs (v : Verify) : State := { own .run with pkts := [iv v], aut := { R.aut with slots := [(3, KS 3)] }, flw := { R.flw with alloc := [(7, true)] } }
def ivn : Packet := { iv (VF none none) with whole := false }
def x8_3 := { ivs (VF none none) with pkts := [ivn] }
def tb (m : Mode) : State := hm ((own m).setB .TBL_SEED_FROZEN 0 true)
def TC (op tgt fl : Nat) : TCmd := { op := op, last := op, tgt := tgt, fl := fl, arg := 0, addr := 0, pos := 0, cnt := 0, key := [4,0] ++ List.replicate 78 0#8, data := List.replicate 32 0#8 }
def tbw (c : TCmd) (lst : Option TCmd := none) (prot := false) : State := { tb .run with tbl := { (tb .run).tbl with wins := [(0, { Win.none with cmd := some c, last := lst, prot := prot })] }, boot := { R.boot with tmsLoaded := true } }
def tbl' (c : TCmd) : State := { (tb .run).setB .TBL_REHASH_CUR_VALID 0 true with tbl := { (tb .run).tbl with l2Live := some (0, 5), wins := [(0, { Win.none with last := some c })] } }
def tba (c : TCmd) (w : BitVec 64 := 0) : State := { tbw c with tbl := { (tbw c).tbl with appid := if w = 0 then [(9, 7)] else [(4, w), (9, 7)] } }
def L2X : L2Ent := { gen := 9, static := false, grp := false, origin := 0, dst := 3, age0 := 0, age1 := 0, mac := 0x112233445566, fid := 2, fresh := false, copies := 1 }
def lloc : Nat := (candOf l2Bits R.tbl.seedL2 (l2Key L2X.mac L2X.fid)).2.1 * 4
def le (ent : List (Nat × L2Ent)) (l : List Learn) : State := { tb .run with tbl := { (tb .run).tbl with l2 := ent, learn := l } }
def ag : State := let s := (((le [(0, {L2X with age0 := 10}), (4, L2X)] []).setB .TBL_AGE_EN 0 true).setN .TBL_AGE_NOW 0 100).setN .TBL_AGE_LIM_L2 0 5; s
def ex (st : Nat) : State := { ag with tbl := { ag.tbl with expired := [{ l2 := true, loc := 0, stamp := st, sig := 9 }] } }
def x8_5 := {L2X with age0 := 10}
def jn (c : Bool) : State := { ag with tbl := { ag.tbl with journal := [{ l2 := true, srcB := 1, srcS := 0, dstB := 3, dstS := 2, copied := c, mig := none }] } }
def fwp (st : Stage) (et vid da : Nat) (ap : BitVec 64 := 0) (e : Option L2Ent := none) (r : Option Route := none) : Packet := let p := { Packet.offered 4 3 0 0 (List.replicate 64 5#8) with stage := st }; { p with parse := { Parse.fresh 0 0 with sealed := [(1, beBytes 6 da ++ beBytes 6 7 ++ beBytes 2 vid), (2, [0,0] ++ beBytes 2 et ++ beBytes 2 0x33), (3, 4#8 :: List.replicate 40 0#8)], look := { (Parse.fresh 0 0).look with appid := ap, da := e, route := r } } }
def fws (p : Packet) : State := { tb .run with pkts := [p] }
def rts (p : Packet) (n : BitVec 128) : State := let s := ((fws p).setB .TBL_VLAN_ROUTE 5 true).setN .TBL_RMAC_L 0 9; { s with tbl := { s.tbl with nh := [(3, n)] } }
def PR (r : Option Route) := fwp .forward 0x800 5 9 0 none r
def RT (d : Bool) : Route := { pfx := 0, len := 0, nh := 3, drop := d }
def P2 (e : Option L2Ent) := fwp .forward 0x800 5 0x112233445566 0 e
def vl (e : Option L2Ent) : State := ((fws (P2 e)).setB .TBL_VLAN_VALID 5 true).setN .TBL_VLAN_MEMB_L 5 8
def fl : State := { tb .run with pkts := [fwp .flow 0x800 5 9] }
def P3 := fwp .flow 0x800 5 9
def fl2 : State := fl.setB .FLW_CL_LOOKUP 0 true
def P4 : Packet := { P3 with act := 0x0040000000000000 }
def x8_6 := {fl2 with pkts := [P4]}
def HT (d : Bool) (b : List Byte := List.replicate 64 3#8) : Hot := { digest := 0, bytes := b, dirty := d, used := 0 }
def fc (h : Hot) (goose : Bool := false) : State := { tb .run with flw := { R.flw with cache := [(50, h)], goose := if goose then [(50, true)] else [] } }
def x8_8 := { (tb .run).setB .FLW_REBUILD 0 true with flw := { R.flw with quar := [(4,true),(50,true)] } }
def gb (exp fl : Nat) : List Byte := fset (fset (List.replicate 64 0#8) 18 1 fl) 48 4 exp
def kk : List Byte := List.replicate 66 0#8
def ins (h : Hot) : State := let s := tb .run
  let c := candOf flBits s.tbl.seedFlow kk
  { s with hbm := s.hbm.putBytes (bucketAddr c.2.1) (leBytes 8 { sig := c.1, phase := false, rcd := 50, i0 := c.2.1 : FSlot }.word), tbl := { s.tbl with learn := [.flow kk (List.replicate 128 1#8) 4 0] }, flw := { R.flw with cache := [(50, h)], alloc := [(50, true)] } }
def insU : State := { ins (HT false) with tbl := { (ins (HT false)).tbl with learn := [] } }
def rc (i : Nat) (a : SMap Bool := []) : State := { (tb .run).setN .FLW_RC_IDX 0 i with flw := { R.flw with alloc := a } }
def x8_9 := { rc 5 with flw := { R.flw with rcBusy := [(0, 2 ^ 60, 0)] } }
def x8_10 := {rc 5 with gaz := [(5, {Gaz.none with mac := 0x123456789A, valid := true, pair := 5})]}
def rcl : State := { rc 5 [(5, true)] with flw := { (rc 5 [(5, true)]).flw with cache := [(5, HT false (fset kk 18 1 128))] } }
def rcw : State := (List.range 32).foldl (fun s i => s.setN .FLW_RC_DATA i (if i = 5 then 0x00000001 else if i = 4 then 0x11FC1111 else 0x11111111)) (rc 5 [(5, true)])
def rcf : State := rc 5 (List.replicate (2 ^ 26) (0, true))

theorem rcf_alloc : rcf.flw.alloc = List.replicate (2 ^ 26) (0, true) := rfl
theorem rcf_len : rcf.flw.alloc.length = 2 ^ 26 := (congrArg List.length rcf_alloc).trans List.length_replicate
theorem recFree_full (s : State) (h : s.flw.alloc.length = 2 ^ 26) : s.recFree = 0 := by unfold State.recFree; omega
theorem rcf_free : rcf.recFree = 0 := recFree_full rcf rcf_len

/-- States and operands that meet the hypotheses of the clauses of Authentication. -/
theorem witness_Authentication_1 :
    ((aus 2 false).nextLane = none ∧ (∀ (o : AuthOp), (aus 2 false).aut.ops[7]? = some o → o.seat.lane = none ∨ o.seat.parked = true)) ∧
    ((AW 2 3).aut.ops = [x8_1] ∧ (AW 2 3).pkts = [] ∧ x8_1.seat.lane = none ∧ (AW 2 3).slotCheck x8_1.slot x8_1.code x8_1.key.tagLen x8_1.len = Sum.inl (KS 3)) ∧
    ((own Mode.run).nextLane = none ∧ (∀ (p : Packet), p ∈ (own Mode.run).pkts → p.pipe = 1 → p.stage ≠ Stage.verify)) := by decide

/-- States and operands that meet the hypotheses of the clauses of Authentication. -/
theorem witness_Authentication_2 :
    (AY.seatsApart ∧ AY.nextLane = none ∧ AY.aut.ops[0]? = some oy ∧ oy.seat.lane = some 8 ∧ oy.seat.parked = false ∧ AY.yields { urg := 3 + oy.rcd.cls, gmac := oy.key.gmac, seat := oy.seat : LaneWork } 8 = true) ∧
    ((aus 2 false).allSeated ∧ (aus 2 false).calm (clOf (AO 2 false).ctx) ∧ (aus 2 false).aut.ops[1]? = some (AO 2 false) ∧ (AO 2 false).code = 2 ∧ (aus 2 false).authRead (AO 2 false) ((AO 2 false).len + (AO 2 false).key.trailer) = (AuthAcc.ok (List.replicate 10 7#8 ++ List.replicate 16 1#8), aus 2 false)) ∧
    ((aus 3 true true).allSeated ∧ (aus 3 true true).calm (clOf (AO 3 true).ctx) ∧ (aus 3 true true).aut.ops[1]? = some (AO 3 true) ∧ (AO 3 true).code = 3 ∧ (AO 3 true).async = true ∧ (AO 3 true).dstBuf = true ∧ (aus 3 true true).authRead (AO 3 true) ((AO 3 true).len + (AO 3 true).key.trailer) = (AuthAcc.ok (List.replicate 10 7#8 ++ (KS 3).mac 0 (List.replicate 10 7#8)), aus 3 true true) ∧ (aus 3 true true).buf ((AO 3 true).dst % 2 ^ 20) = some (bfn 40) ∧ bitsOf (AO 3 true).dst 33 20 ≤ (bfn 40).bytes.length) ∧
    ((aus 1 true).allSeated ∧ (aus 1 true).calm (clOf (AO 1 true).ctx) ∧ (aus 1 true).aut.ops[1]? = some (AO 1 true) ∧ (AO 1 true).code = 1 ∧ (AO 1 true).async = true ∧ (AO 1 true).dstBuf = true ∧ (aus 1 true).authRead (AO 1 true) (AO 1 true).len = (AuthAcc.ok (List.replicate 10 7#8), aus 1 true) ∧ (aus 1 true).buf ((AO 1 true).dst % 2 ^ 20) = some (bfn 40) ∧ bitsOf (AO 1 true).dst 33 20 ≤ (bfn 40).bytes.length) ∧
    ((ivs (VF (some 3) none)).allSeated ∧ List.find? (fun (p : Packet) => p.pipe == 0 && p.stage == Stage.verify) (ivs (VF (some 3) none)).pkts = some (iv (VF (some 3) none)) ∧ (iv (VF (some 3) none)).verify = some (VF (some 3) none) ∧ (VF (some 3) none).fail.isSome = true) ∧
    ((ivs (VF none (some (KS 3)))).allSeated ∧ List.find? (fun (p : Packet) => p.pipe == 0 && p.stage == Stage.verify) (ivs (VF none (some (KS 3)))).pkts = some (iv (VF none (some (KS 3)))) ∧ (iv (VF none (some (KS 3)))).verify = some (VF none (some (KS 3))) ∧ (VF none (some (KS 3))).fail = none ∧ (VF none (some (KS 3))).bound = some (KS 3)) ∧
    (x8_3.allSeated ∧ List.find? (fun (p : Packet) => p.pipe == 0 && p.stage == Stage.verify) x8_3.pkts = some ivn ∧ ivn.verify = some (VF none none) ∧ (VF none none).fail = none ∧ (VF none none).bound = none) :=
  ⟨⟨by unfold State.seatsApart; decide, by decide⟩,
   ⟨by unfold State.allSeated; decide, by unfold State.calm; decide, by decide⟩,
   ⟨by unfold State.allSeated; decide, by unfold State.calm; decide, by decide⟩,
   ⟨by unfold State.allSeated; decide, by unfold State.calm; decide, by decide⟩,
   ⟨by unfold State.allSeated; decide, by decide⟩,
   ⟨by unfold State.allSeated; decide, by decide⟩,
   ⟨by unfold State.allSeated; decide, by decide⟩⟩

/-- States and operands that meet the hypotheses of the clauses of TableCommands. -/
theorem witness_TableCommands :
    (winOf (Src.host 0) = some 0 ∧ (tb Mode.run).rb Field.TBL_SEED_FROZEN = true ∧ ((tb Mode.run).win 0).cmd = none ∧ (3 ≤ 2 ∨ (tb Mode.run).guard (Src.host 0) Block.TBL = true) ∧ tblRow 3 (bitsOf 66051 11 8) (bitsOf 66051 19 16) = true ∧ (tb Mode.run).tblEarly 3 (bitsOf 66051 11 8) = false) ∧
    (winOf (Src.host 0) = some 0 ∧ (tb Mode.run).rb Field.TBL_SEED_FROZEN = true ∧ ((tb Mode.run).win 0).cmd = none ∧ (1 ≤ 2 ∨ (tb Mode.run).guard (Src.host 0) Block.TBL = true) ∧ tblRow 1 (bitsOf 66051 11 8) (bitsOf 66051 19 16) = false) ∧
    (winOf (Src.host 0) = some 0 ∧ ((tbw (TC 3 2 0)).win 0).cmd ≠ none) ∧
    (winOf (Src.host 0) = some 0 ∧ Src.steward ≠ Src.host 0) ∧
    (winOf (Src.host 0) = some 0 ∧ (tb Mode.load).rb Field.TBL_SEED_FROZEN = true ∧ ((tb Mode.load).win 0).cmd = none ∧ (3 ≤ 2 ∨ (tb Mode.load).guard (Src.host 0) Block.TBL = true) ∧ tblRow 3 (bitsOf 66051 11 8) (bitsOf 66051 19 16) = true ∧ (tb Mode.load).tblEarly 3 (bitsOf 66051 11 8) = true) ∧
    (winOf (Src.host 0) = some 0 ∧ (tb Mode.run).guard (Src.host 0) Block.TBL = true ∧ (tb Mode.run).rb Field.TBL_SEED_FROZEN = true ∧ ((tb Mode.run).win 0).cmd = none ∧ (1 = 1 ∨ 1 = 6) ∧ bitsOf 524544 11 8 = 1 ∧ bitsOf 524544 19 16 = 8 ∧ (tb Mode.run).tblEarly 8 1 = false ∧ (tb Mode.run).rb Field.TBL_REHASH_LIVE = false) ∧
    (winOf (Src.host 0) = some 0 ∧ ((tb Mode.run).setB Field.TBL_REHASH_LIVE 0 true).guard (Src.host 0) Block.TBL = true ∧ ((tb Mode.run).setB Field.TBL_REHASH_LIVE 0 true).rb Field.TBL_SEED_FROZEN = true ∧ (((tb Mode.run).setB Field.TBL_REHASH_LIVE 0 true).win 0).cmd = none ∧ bitsOf 524544 11 8 = 1 ∧ bitsOf 524544 19 16 = 8 ∧ ((tb Mode.run).setB Field.TBL_REHASH_LIVE 0 true).tblEarly 8 1 = false ∧ ((tb Mode.run).setB Field.TBL_REHASH_LIVE 0 true).rb Field.TBL_REHASH_LIVE = true) ∧
    (winOf (Src.host 0) = some 0 ∧ (tbl' (TC 8 1 0)).guard (Src.host 0) Block.TBL = true ∧ (tbl' (TC 8 1 0)).rb Field.TBL_SEED_FROZEN = true ∧ ((tbl' (TC 8 1 0)).win 0).cmd = none ∧ ((tbl' (TC 8 1 0)).win 0).last = some (TC 8 1 0) ∧ (TC 8 1 0).tgt = bitsOf 256 11 8 ∧ ((TC 8 1 0).tgt = 1 ∨ (TC 8 1 0).tgt = 6) ∧ bitsOf 256 19 16 = 0 ∧ (tbl' (TC 8 1 0)).tblEarly 9 (TC 8 1 0).tgt = false ∧ ((TC 8 1 0).op ≠ 8 ∨ (TC 8 1 0).tgt = 1 ∧ Option.any (fun (l : Nat × Nat) => l.fst == 0) (tbl' (TC 8 1 0)).tbl.l2Live = true)) ∧
    (winOf (Src.host 0) = some 0 ∧ (tbl' (TC 8 6 0)).guard (Src.host 0) Block.TBL = true ∧ (tbl' (TC 8 6 0)).rb Field.TBL_SEED_FROZEN = true ∧ ((tbl' (TC 8 6 0)).win 0).cmd = none ∧ ((tbl' (TC 8 6 0)).win 0).last = some (TC 8 6 0) ∧ (TC 8 6 0).tgt = bitsOf 1536 11 8 ∧ ((TC 8 6 0).tgt = 1 ∨ (TC 8 6 0).tgt = 6) ∧ bitsOf 1536 19 16 = 0 ∧ (tbl' (TC 8 6 0)).tblEarly 9 (TC 8 6 0).tgt = false ∧ (TC 8 6 0).op = 8 ∧ (TC 8 6 0).tgt = 6 ∧ (tbl' (TC 8 6 0)).flowLive = true ∧ (tbl' (TC 8 6 0)).flowRuns 8 = false) ∧
    (winOf (Src.host 0) = some 0 ∧ (tb Mode.run).guard (Src.host 0) Block.TBL = true ∧ (tb Mode.run).rb Field.TBL_SEED_FROZEN = true ∧ ((tb Mode.run).win 0).cmd = none ∧ ((tb Mode.run).win 0).last = none ∧ bitsOf 256 11 8 = 1 ∧ bitsOf 256 19 16 = 0 ∧ (tb Mode.run).tblEarly 9 1 = false) ∧
    (winOf (Src.host 0) = some 0 ∧ ((tb Mode.run).setB Field.TBL_SEED_FROZEN 0 false).guard (Src.host 0) Block.TBL = true ∧ ((tb Mode.run).setB Field.TBL_SEED_FROZEN 0 false).rb Field.TBL_SEED_FROZEN = false ∧ (((tb Mode.run).setB Field.TBL_SEED_FROZEN 0 false).win 0).cmd = none) ∧
    (winOf (Src.host 0) = some 0 ∧ (tbw (TC 8 1 0)).guard (Src.host 0) Block.TBL = true ∧ ((tbw (TC 8 1 0)).win 0).cmd = some (TC 8 1 0) ∧ ((tbw (TC 8 1 0)).win 0).prot = false) ∧
    (winOf (Src.host 0) = some 0 ∧ (tbw (TC 8 1 0) none true).guard (Src.host 0) Block.TBL = true ∧ ((tbw (TC 8 1 0) none true).win 0).cmd = some (TC 8 1 0) ∧ ((tbw (TC 8 1 0) none true).win 0).prot = true) := by decide

/-- States and operands that meet the hypotheses of the clauses of TableRoutines. -/
theorem witness_TableRoutines :
    (0 < 5 ∧ (tba (TC 6 2 0) 0#64).curWin = some (0, TC 6 2 0) ∧ (tba (TC 6 2 0) 0#64).tmsRuns (TC 6 2 0) = true ∧ (tba (TC 6 2 0) 0#64).tbl.learn = [] ∧ (tba (TC 6 2 0) 0#64).tbl.expired = [] ∧ List.length (tba (TC 6 2 0) 0#64).tbl.stash ≤ 48 ∧ (TC 6 2 0).op = 6 ∧ (TC 6 2 0).tgt = 2 ∧ ((tba (TC 6 2 0) 0#64).win 0).abort = false) ∧
    (0 < 5 ∧ (tba (TC 3 2 1) 0#64).curWin = some (0, TC 3 2 1) ∧ (tba (TC 3 2 1) 0#64).tmsRuns (TC 3 2 1) = true ∧ (tba (TC 3 2 1) 0#64).tbl.learn = [] ∧ (tba (TC 3 2 1) 0#64).tbl.expired = [] ∧ List.length (tba (TC 3 2 1) 0#64).tbl.stash ≤ 48 ∧ (TC 3 2 1).tgt = 2 ∧ keyOk 2 (TC 3 2 1).key = true ∧ ((tba (TC 3 2 1) 0#64).win 0).abort = false ∧ (TC 3 2 1).op = 3 ∧ dataOk 2 (TC 3 2 1).data = true ∧ bitOf (TC 3 2 1).fl 0 = true) ∧
    (0 < 5 ∧ (tba (TC 1 2 0) 9223372058329612295#64).curWin = some (0, TC 1 2 0) ∧ (tba (TC 1 2 0) 9223372058329612295#64).tmsRuns (TC 1 2 0) = true ∧ (tba (TC 1 2 0) 9223372058329612295#64).tbl.learn = [] ∧ (tba (TC 1 2 0) 9223372058329612295#64).tbl.expired = [] ∧ List.length (tba (TC 1 2 0) 9223372058329612295#64).tbl.stash ≤ 48 ∧ (TC 1 2 0).tgt = 2 ∧ keyOk 2 (TC 1 2 0).key = true ∧ ((tba (TC 1 2 0) 9223372058329612295#64).win 0).abort = false ∧ (TC 1 2 0).op = 1 ∧ (SMap.get (0#64) (tba (TC 1 2 0) 9223372058329612295#64).tbl.appid (fget (TC 1 2 0).key 0 2)).getLsbD 63 = true) ∧
    (0 < 5 ∧ (tba (TC 4 2 0) 0#64).curWin = some (0, TC 4 2 0) ∧ (tba (TC 4 2 0) 0#64).tmsRuns (TC 4 2 0) = true ∧ (tba (TC 4 2 0) 0#64).tbl.learn = [] ∧ (tba (TC 4 2 0) 0#64).tbl.expired = [] ∧ List.length (tba (TC 4 2 0) 0#64).tbl.stash ≤ 48 ∧ (TC 4 2 0).tgt = 2 ∧ keyOk 2 (TC 4 2 0).key = true ∧ ((tba (TC 4 2 0) 0#64).win 0).abort = false ∧ ((TC 4 2 0).op = 1 ∨ (TC 4 2 0).op = 4) ∧ (SMap.get (0#64) (tba (TC 4 2 0) 0#64).tbl.appid (fget (TC 4 2 0).key 0 2)).getLsbD 63 = false) ∧
    (0 < 5 ∧ (tba (TC 4 2 0) 9223372058329612295#64).curWin = some (0, TC 4 2 0) ∧ (tba (TC 4 2 0) 9223372058329612295#64).tmsRuns (TC 4 2 0) = true ∧ (tba (TC 4 2 0) 9223372058329612295#64).tbl.learn = [] ∧ (tba (TC 4 2 0) 9223372058329612295#64).tbl.expired = [] ∧ List.length (tba (TC 4 2 0) 9223372058329612295#64).tbl.stash ≤ 48 ∧ (TC 4 2 0).tgt = 2 ∧ keyOk 2 (TC 4 2 0).key = true ∧ ((tba (TC 4 2 0) 9223372058329612295#64).win 0).abort = false ∧ (TC 4 2 0).op = 4 ∧ (SMap.get (0#64) (tba (TC 4 2 0) 9223372058329612295#64).tbl.appid (fget (TC 4 2 0).key 0 2)).getLsbD 63 = true) := by decide

/-- States and operands that meet the hypotheses of the clauses of TableUpkeep. -/
theorem witness_TableUpkeep :
    ((le [(lloc, L2X)] [Learn.l2 L2X.mac L2X.fid 7 1]).tbl.learn = [Learn.l2 L2X.mac L2X.fid 7 1] ∧ (le [(lloc, L2X)] [Learn.l2 L2X.mac L2X.fid 7 1]).rb Field.TBL_SEED_FROZEN = true ∧ (le [(lloc, L2X)] [Learn.l2 L2X.mac L2X.fid 7 1]).learnerFree = true ∧ (le [(lloc, L2X)] [Learn.l2 L2X.mac L2X.fid 7 1]).l2Find L2X.mac L2X.fid = some (lloc, L2X) ∧ L2X.static = false ∧ (L2X.grp = true ∨ L2X.dst ≠ 7)) ∧
    ((le [(lloc, L2X)] [Learn.l2 L2X.mac L2X.fid 3 1]).tbl.learn = [Learn.l2 L2X.mac L2X.fid 3 1] ∧ (le [(lloc, L2X)] [Learn.l2 L2X.mac L2X.fid 3 1]).rb Field.TBL_SEED_FROZEN = true ∧ (le [(lloc, L2X)] [Learn.l2 L2X.mac L2X.fid 3 1]).learnerFree = true ∧ (le [(lloc, L2X)] [Learn.l2 L2X.mac L2X.fid 3 1]).l2Find L2X.mac L2X.fid = some (lloc, L2X) ∧ (L2X.static = true ∨ L2X.grp = false ∧ L2X.dst = 3)) ∧
    ((le [] [Learn.l2 L2X.mac L2X.fid 3 1]).tbl.learn = [Learn.l2 L2X.mac L2X.fid 3 1] ∧ (le [] [Learn.l2 L2X.mac L2X.fid 3 1]).rb Field.TBL_SEED_FROZEN = true ∧ (le [] [Learn.l2 L2X.mac L2X.fid 3 1]).learnerFree = true ∧ (le [] [Learn.l2 L2X.mac L2X.fid 3 1]).l2Find L2X.mac L2X.fid = none ∧ (le [] [Learn.l2 L2X.mac L2X.fid 3 1]).l2Plan L2X.mac L2X.fid = some ([], lloc / 4, 0)) ∧
    (List.length ag.tbl.stash ≤ 48 ∧ ag.rb Field.TBL_AGE_EN = true) ∧
    (List.length (tb Mode.run).tbl.stash ≤ 48 ∧ (tb Mode.run).rb Field.TBL_AGE_EN = false) ∧
    ((ex 10).tbl.expired = [{ l2 := true, loc := 0, stamp := 10, sig := 9 : Expired }] ∧ (ex 10).learnerFree = true ∧ (ex 10).tbl.learn = [] ∧ (ex 10).routineDue = false ∧ { l2 := true, loc := 0, stamp := 10, sig := 9 : Expired }.l2 = true ∧ (ex 10).tbl.l2.find { l2 := true, loc := 0, stamp := 10, sig := 9 : Expired }.loc = some x8_5 ∧ x8_5.gen = { l2 := true, loc := 0, stamp := 10, sig := 9 : Expired }.sig ∧ x8_5.static = false ∧ (ex 10).l2Stamp x8_5 = { l2 := true, loc := 0, stamp := 10, sig := 9 : Expired }.stamp) ∧
    ((ex 11).tbl.expired = [{ l2 := true, loc := 0, stamp := 11, sig := 9 : Expired }] ∧ (ex 11).learnerFree = true ∧ (ex 11).tbl.learn = [] ∧ (ex 11).routineDue = false ∧ { l2 := true, loc := 0, stamp := 11, sig := 9 : Expired }.l2 = true ∧ (ex 11).tbl.l2.find { l2 := true, loc := 0, stamp := 11, sig := 9 : Expired }.loc = some x8_5 ∧ x8_5.gen = { l2 := true, loc := 0, stamp := 11, sig := 9 : Expired }.sig ∧ x8_5.static = false ∧ (ex 11).l2Stamp x8_5 ≠ { l2 := true, loc := 0, stamp := 11, sig := 9 : Expired }.stamp) ∧
    ((jn true).tbl.journal = [{ l2 := true, srcB := 1, srcS := 0, dstB := 3, dstS := 2, copied := true, mig := none : Move }] ∧ { l2 := true, srcB := 1, srcS := 0, dstB := 3, dstS := 2, copied := true, mig := none : Move }.l2 = true) ∧
    (safeHoldFrom (jn false).mod.mode = true ∧ (jn false).mod.trans = none) ∧
    ((ag.setB Field.TBL_FLOW_CLEARING 0 true).rb Field.TBL_FLOW_CLEARING = true) ∧
    ((own Mode.run).guard (Src.host 0) Block.TBL = true ∧ (own Mode.run).rb Field.TBL_SEED_FROZEN = false) ∧
    ((tb Mode.run).guard (Src.host 0) Block.TBL = true ∧ (tb Mode.run).rb Field.TBL_SEED_FROZEN = true) ∧
    ((tb Mode.run).guard (Src.host 0) Block.TBL = true ∧ (tb Mode.run).rb Field.TBL_REHASH_LIVE = false) ∧
    (((tb Mode.run).setB Field.TBL_REHASH_LIVE 0 true).guard (Src.host 0) Block.TBL = true ∧ ((tb Mode.run).setB Field.TBL_REHASH_LIVE 0 true).rb Field.TBL_REHASH_LIVE = true) := by decide

/-- States and operands that meet the hypotheses of the clauses of ForwardDecisions. -/
theorem witness_ForwardDecisions_1 :
    ((tb Mode.run).nextAt 0 Stage.forward = none) ∧
    ((fws (fwp Stage.forward 35000 5 9 13835058055282163712#64)).nextAt 0 Stage.forward = some (fwp Stage.forward 35000 5 9 13835058055282163712#64) ∧ (fwp Stage.forward 35000 5 9 13835058055282163712#64).parse.look.appid = 13835058055282163712#64 ∧ beAt ((fwp Stage.forward 35000 5 9 13835058055282163712#64).parse.slot 2) 2 2 = 35000 ∧ beAt ((fwp Stage.forward 35000 5 9 13835058055282163712#64).parse.slot 1) 12 2 % 4096 = 5 ∧ beAt ((fwp Stage.forward 35000 5 9 13835058055282163712#64).parse.slot 1) 0 6 = 9 ∧ (35000 = 35002 ∨ 35000 = 35000) ∧ (13835058055282163712#64).getLsbD 63 = true ∧ (13835058055282163712#64).getLsbD 62 = true) ∧
    ((fws (fwp Stage.forward 35000 5 9 11817445422220181589#64)).nextAt 0 Stage.forward = some (fwp Stage.forward 35000 5 9 11817445422220181589#64) ∧ (fwp Stage.forward 35000 5 9 11817445422220181589#64).parse.look.appid = 11817445422220181589#64 ∧ beAt ((fwp Stage.forward 35000 5 9 11817445422220181589#64).parse.slot 2) 2 2 = 35000 ∧ beAt ((fwp Stage.forward 35000 5 9 11817445422220181589#64).parse.slot 1) 12 2 % 4096 = 5 ∧ beAt ((fwp Stage.forward 35000 5 9 11817445422220181589#64).parse.slot 1) 0 6 = 9 ∧ (35000 = 35002 ∨ 35000 = 35000) ∧ (11817445422220181589#64).getLsbD 63 = true ∧ (11817445422220181589#64).getLsbD 62 = false) ∧
    ((rts (PR none) 0#128).nextAt 0 Stage.forward = some (PR none) ∧ (PR none).parse.look.appid = 0#64 ∧ beAt ((PR none).parse.slot 2) 2 2 = 2048 ∧ beAt ((PR none).parse.slot 1) 12 2 % 4096 = 5 ∧ beAt ((PR none).parse.slot 1) 0 6 = 9 ∧ (2048 ≠ 35002 ∧ 2048 ≠ 35000 ∨ (0#64).getLsbD 63 = false) ∧ (rts (PR none) 0#128).rb Field.TBL_VLAN_ROUTE 5 = true ∧ 9 = (rts (PR none) 0#128).rn Field.TBL_RMAC_H * 2 ^ 32 + (rts (PR none) 0#128).rn Field.TBL_RMAC_L ∧ beAt ((PR none).parse.slot 3) 0 1 ≠ 0 ∧ (PR none).parse.look.route = none) ∧
    ((rts (PR (some (RT true))) 0#128).nextAt 0 Stage.forward = some (PR (some (RT true))) ∧ (PR (some (RT true))).parse.look.appid = 0#64 ∧ beAt ((PR (some (RT true))).parse.slot 2) 2 2 = 2048 ∧ beAt ((PR (some (RT true))).parse.slot 1) 12 2 % 4096 = 5 ∧ beAt ((PR (some (RT true))).parse.slot 1) 0 6 = 9 ∧ (2048 ≠ 35002 ∧ 2048 ≠ 35000 ∨ (0#64).getLsbD 63 = false) ∧ (rts (PR (some (RT true))) 0#128).rb Field.TBL_VLAN_ROUTE 5 = true ∧ 9 = (rts (PR (some (RT true))) 0#128).rn Field.TBL_RMAC_H * 2 ^ 32 + (rts (PR (some (RT true))) 0#128).rn Field.TBL_RMAC_L ∧ beAt ((PR (some (RT true))).parse.slot 3) 0 1 ≠ 0 ∧ (PR (some (RT true))).parse.look.route = some (RT true) ∧ SMap.get (0#128) (rts (PR (some (RT true))) 0#128).tbl.nh (RT true).nh = 0#128 ∧ ((RT true).drop = true ∨ (0#128).getLsbD 127 = false)) ∧
    ((rts (PR (some (RT false))) (3894618806474358030754781547855872#128 ||| 1#128 <<< 127 ||| 1#128 <<< 114)).nextAt 0 Stage.forward = some (PR (some (RT false))) ∧ (PR (some (RT false))).parse.look.appid = 0#64 ∧ beAt ((PR (some (RT false))).parse.slot 2) 2 2 = 2048 ∧ beAt ((PR (some (RT false))).parse.slot 1) 12 2 % 4096 = 5 ∧ beAt ((PR (some (RT false))).parse.slot 1) 0 6 = 9 ∧ (2048 ≠ 35002 ∧ 2048 ≠ 35000 ∨ (0#64).getLsbD 63 = false) ∧ (rts (PR (some (RT false))) (3894618806474358030754781547855872#128 ||| 1#128 <<< 127 ||| 1#128 <<< 114)).rb Field.TBL_VLAN_ROUTE 5 = true ∧ 9 = (rts (PR (some (RT false))) (3894618806474358030754781547855872#128 ||| 1#128 <<< 127 ||| 1#128 <<< 114)).rn Field.TBL_RMAC_H * 2 ^ 32 + (rts (PR (some (RT false))) (3894618806474358030754781547855872#128 ||| 1#128 <<< 127 ||| 1#128 <<< 114)).rn Field.TBL_RMAC_L ∧ beAt ((PR (some (RT false))).parse.slot 3) 0 1 ≠ 0 ∧ (PR (some (RT false))).parse.look.route = some (RT false) ∧ SMap.get (0#128) (rts (PR (some (RT false))) (3894618806474358030754781547855872#128 ||| 1#128 <<< 127 ||| 1#128 <<< 114)).tbl.nh (RT false).nh = 3894618806474358030754781547855872#128 ||| 1#128 <<< 127 ||| 1#128 <<< 114 ∧ (RT false).drop = false ∧ (3894618806474358030754781547855872#128 ||| 1#128 <<< 127 ||| 1#128 <<< 114).getLsbD 127 = true ∧ (3894618806474358030754781547855872#128 ||| 1#128 <<< 127 ||| 1#128 <<< 114).getLsbD 101 = false) := by decide

/-- States and operands that meet the hypotheses of the clauses of ForwardDecisions. -/
theorem witness_ForwardDecisions_2 :
    ((fws (P2 none)).nextAt 0 Stage.forward = some (P2 none) ∧ (P2 none).parse.look.appid = 0#64 ∧ beAt ((P2 none).parse.slot 2) 2 2 = 2048 ∧ beAt ((P2 none).parse.slot 1) 12 2 % 4096 = 5 ∧ beAt ((P2 none).parse.slot 1) 0 6 = 18838586676582 ∧ (2048 ≠ 35002 ∧ 2048 ≠ 35000 ∨ (0#64).getLsbD 63 = false) ∧ (fws (P2 none)).rb Field.TBL_VLAN_ROUTE 5 = false ∧ ((fws (P2 none)).rb Field.TBL_VLAN_VALID 5 = false ∨ (fws (P2 none)).vlanHas 5 (P2 none).port = false)) ∧
    ((vl (some L2X)).nextAt 0 Stage.forward = some (P2 (some L2X)) ∧ (P2 (some L2X)).parse.look.appid = 0#64 ∧ beAt ((P2 (some L2X)).parse.slot 2) 2 2 = 2048 ∧ beAt ((P2 (some L2X)).parse.slot 1) 12 2 % 4096 = 5 ∧ beAt ((P2 (some L2X)).parse.slot 1) 0 6 = 18838586676582 ∧ (2048 ≠ 35002 ∧ 2048 ≠ 35000 ∨ (0#64).getLsbD 63 = false) ∧ (vl (some L2X)).rb Field.TBL_VLAN_ROUTE 5 = false ∧ (vl (some L2X)).rb Field.TBL_VLAN_VALID 5 = true ∧ (vl (some L2X)).vlanHas 5 (P2 (some L2X)).port = true ∧ 18838586676582 ≠ 2 ^ 48 - 1 ∧ (P2 (some L2X)).parse.look.da = some L2X) ∧
    ((vl none).nextAt 0 Stage.forward = some (P2 none) ∧ (P2 none).parse.look.appid = 0#64 ∧ beAt ((P2 none).parse.slot 2) 2 2 = 2048 ∧ beAt ((P2 none).parse.slot 1) 12 2 % 4096 = 5 ∧ beAt ((P2 none).parse.slot 1) 0 6 = 18838586676582 ∧ (2048 ≠ 35002 ∧ 2048 ≠ 35000 ∨ (0#64).getLsbD 63 = false) ∧ (vl none).rb Field.TBL_VLAN_ROUTE 5 = false ∧ (vl none).rb Field.TBL_VLAN_VALID 5 = true ∧ (vl none).vlanHas 5 (P2 none).port = true ∧ (18838586676582 = 2 ^ 48 - 1 ∨ (P2 none).parse.look.da = none) ∧ (vl none).rb Field.TBL_VLAN_FLOOD 5 = false) := by decide

/-- States and operands that meet the hypotheses of the clauses of FlowRecords. -/
theorem witness_FlowRecords_1 :
    (fl.nextAt 0 Stage.flow = some P3 ∧ fl.rb Field.FLW_CL_LOOKUP P3.parse.cls = false) ∧
    ((fl2.setB Field.FLW_REBUILD 0 true).nextAt 0 Stage.flow = some P3 ∧ (fl2.setB Field.FLW_REBUILD 0 true).rb Field.FLW_CL_LOOKUP P3.parse.cls = true ∧ (fl2.setB Field.FLW_REBUILD 0 true).rb Field.FLW_REBUILD = true) ∧
    ((fc (HT true)).flw.cache.find 50 = some (HT true) ∧ (HT true).dirty = true ∧ (HT true).bytes.length = 64 ∧ (fc (HT true)).marksIn (16 * 50) 8 = []) ∧
    ((fc (HT false)).flw.cache.find 50 = some (HT false) ∧ (HT false).dirty = false) ∧
    (x8_8.rb Field.FLW_REBUILD = true ∧ x8_8.flowSlots = [] ∧ x8_8.flw.alloc = []) ∧
    ((fc (HT false (gb 5 66)) true).flw.cache.find 50 = some (HT false (gb 5 66)) ∧ SMap.get false (fc (HT false (gb 5 66)) true).flw.goose 50 = true ∧ (HT false (gb 5 66)).bytes.length = 64 ∧ (bitOf (fget (HT false (gb 5 66)).bytes 18 1) 6 = true ∨ 2 ^ 31 ≤ ((fc (HT false (gb 5 66)) true).rn Field.TMG_WHEEL_CNT + 2 ^ 32 - fget (HT false (gb 5 66)).bytes 48 4) % 2 ^ 32)) ∧
    (((fc (HT false (gb 5 2)) true).setN Field.TMG_WHEEL_CNT 0 6).flw.cache.find 50 = some (HT false (gb 5 2)) ∧ SMap.get false ((fc (HT false (gb 5 2)) true).setN Field.TMG_WHEEL_CNT 0 6).flw.goose 50 = true ∧ (HT false (gb 5 2)).bytes.length = 64 ∧ bitOf (fget (HT false (gb 5 2)).bytes 18 1) 6 = false ∧ (((fc (HT false (gb 5 2)) true).setN Field.TMG_WHEEL_CNT 0 6).rn Field.TMG_WHEEL_CNT + 2 ^ 32 - fget (HT false (gb 5 2)).bytes 48 4) % 2 ^ 32 < 2 ^ 31 ∧ flAct (HT false (gb 5 2)).bytes 24 24 = 0) ∧
    ((((tb Mode.run).setB Field.FLW_REBUILD 0 true).rb Field.FLW_REBUILD = true ∨ ((tb Mode.run).setB Field.FLW_REBUILD 0 true).learnerFree = false)) ∧
    ((tb Mode.run).rb Field.FLW_REBUILD = false) := by decide

/-- States and operands that meet the hypotheses of the clauses of FlowRecords. -/
theorem witness_FlowRecords_2 :
    (((fl2.bump Ctr.FLW_CNT_LOOKUP).flowMatch (fl2.pktKey P3) 1 true).fst = some [] ∧ fl2.nextAt 0 Stage.flow = some P3 ∧ fl2.rb Field.FLW_CL_LOOKUP P3.parse.cls = true ∧ fl2.rb Field.FLW_REBUILD = false ∧ actBits P3.act 56 56 = 0 ∧ actBits P3.act 55 54 = 0) ∧
    (((x8_6.bump Ctr.FLW_CNT_LOOKUP).flowMatch (x8_6.pktKey P4) 1 true).fst = some [] ∧ x8_6.nextAt 0 Stage.flow = some P4 ∧ x8_6.rb Field.FLW_CL_LOOKUP P4.parse.cls = true ∧ x8_6.rb Field.FLW_REBUILD = false ∧ actBits P4.act 56 56 = 0 ∧ actBits P4.act 55 54 = 1) ∧
    (insU = { ins (HT false) with tbl := { (ins (HT false)).tbl with learn := [] } } ∧ (insU.flowFind kk).fst = some ((candOf flBits (tb Mode.run).tbl.seedFlow kk).snd.fst * 8, { sig := (candOf flBits (tb Mode.run).tbl.seedFlow kk).fst, phase := false, rcd := 50, i0 := (candOf flBits (tb Mode.run).tbl.seedFlow kk).snd.fst : FSlot }) ∧ (ins (HT false)).tbl.learn = [Learn.flow kk (List.replicate 128 1#8) 4 0] ∧ (ins (HT false)).learnerFree = true ∧ (ins (HT false)).rb Field.FLW_REBUILD = false ∧ (ins (HT false)).rb Field.TBL_SEED_FROZEN = true ∧ (ins (HT false)).flw.cache.find { sig := (candOf flBits (tb Mode.run).tbl.seedFlow kk).fst, phase := false, rcd := 50, i0 := (candOf flBits (tb Mode.run).tbl.seedFlow kk).snd.fst : FSlot }.rcd = some (HT false) ∧ (HT false).bytes.length = 64) :=
  ⟨⟨by rw [(flowMatch_does _ _ _ _).1]; decide, by decide⟩,
   ⟨by rw [(flowMatch_does _ _ _ _).1]; decide, by decide⟩,
   ⟨rfl, by rw [flowFind_fst]; decide, by decide⟩⟩

/-- States and operands that meet the hypotheses of the clauses of FlowCommands. -/
theorem witness_FlowCommands_1 :
    (winOf (Src.host 0) ≠ some 1) ∧
    (winOf (Src.host 0) = some 0 ∧ x8_9.rcBusy 0 = true) ∧
    (winOf (Src.host 0) = some 0 ∧ (own Mode.load).rcBusy 0 = false ∧ (own Mode.load).rcEarly = true) ∧
    (winOf (Src.host 0) = some 0 ∧ (rc 5).rcBusy 0 = false ∧ (rc 5).rcEarly = false ∧ (rc 5).rn Field.FLW_RC_IDX < 2 ^ 26 ∧ (rc 5).allocated ((rc 5).rn Field.FLW_RC_IDX) = false) ∧
    (winOf (Src.host 0) = some 0 ∧ x8_10.rcBusy 0 = false ∧ x8_10.rn Field.FLW_RC_IDX < 16384) ∧
    (winOf (Src.host 0) = some 0 ∧ (rc 5).rcBusy 0 = false ∧ (rc 5).rcEarly = false ∧ (rc 5).guard (Src.host 0) Block.FLW = true ∧ (rc 5).flw.alloc = [] ∧ (rc 5).flw.quar = []) ∧
    (winOf (Src.host 0) = some 0 ∧ (rc 5 [(5, true)]).rcBusy 0 = false ∧ (rc 5 [(5, true)]).rcEarly = false ∧ (rc 5 [(5, true)]).guard (Src.host 0) Block.FLW = true ∧ (rc 5 [(5, true)]).rn Field.FLW_RC_IDX < 2 ^ 26 ∧ (rc 5 [(5, true)]).allocated ((rc 5 [(5, true)]).rn Field.FLW_RC_IDX) = true ∧ bitOf (fget ((rc 5 [(5, true)]).hotOf ((rc 5 [(5, true)]).rn Field.FLW_RC_IDX)) 18 1) 7 = false) ∧
    (winOf (Src.host 0) = some 0 ∧ rcl.rcBusy 0 = false ∧ rcl.rcEarly = false ∧ rcl.guard (Src.host 0) Block.FLW = true ∧ rcl.rn Field.FLW_RC_IDX < 2 ^ 26 ∧ rcl.allocated (rcl.rn Field.FLW_RC_IDX) = true ∧ bitOf (fget (rcl.hotOf (rcl.rn Field.FLW_RC_IDX)) 18 1) 7 = true) ∧
    (winOf (Src.host 0) = some 0 ∧ rcw.rcBusy 0 = false ∧ rcw.rcEarly = false ∧ rcw.guard (Src.host 0) Block.FLW = true ∧ rcw.rn Field.FLW_RC_IDX < 2 ^ 26 ∧ rcw.allocated (rcw.rn Field.FLW_RC_IDX) = true ∧ flValid (rcw.regBytes Field.FLW_RC_DATA (0 * 32) 32) = true ∧ flKind (rcw.regBytes Field.FLW_RC_DATA (0 * 32) 32) ≠ 2 ∧ bitOf (fget (rcw.recordOf (rcw.rn Field.FLW_RC_IDX)) 18 1) 7 = false ∧ (2#32).getLsbD 8 = false ∧ rcw.marksIn (16 * rcw.rn Field.FLW_RC_IDX) 16 = [] ∧ rcw.flw.cache.find (rcw.rn Field.FLW_RC_IDX) = none) ∧
    (winOf (Src.host 0) = some 0 ∧ (rcw.setN Field.FLW_RC_DATA 6 0).rcBusy 0 = false ∧ (rcw.setN Field.FLW_RC_DATA 6 0).rcEarly = false ∧ (rcw.setN Field.FLW_RC_DATA 6 0).guard (Src.host 0) Block.FLW = true ∧ (rcw.setN Field.FLW_RC_DATA 6 0).rn Field.FLW_RC_IDX < 16384 ∧ (Gaz.unpack (leNat ((rcw.setN Field.FLW_RC_DATA 6 0).regBytes Field.FLW_RC_DATA (0 * 32) 8))).valid = false) ∧
    ((tb Mode.run).guard (Src.host 0) Block.FLW = true ∧ ((tb Mode.run).rn Field.FLW_REC_USED = 0 ∧ ones64 (((tb Mode.run).setReg Field.FLW_KPROF (2 * 3 + 1) 65535#32).kprof 3) ≤ 48)) ∧
    (((tb Mode.run).setN Field.FLW_REC_USED 0 1).guard (Src.host 0) Block.FLW = true ∧ ((tb Mode.run).setN Field.FLW_REC_USED 0 1).rn Field.FLW_REC_USED ≠ 0) := by decide

/-- States and operands that meet the hypotheses of the clauses of FlowCommands. -/
theorem witness_FlowCommands_2 :
    (rcf.recFree = 0 ∧ winOf (Src.host 0) = some 0 ∧ rcf.rcBusy 0 = false ∧ rcf.rcEarly = false ∧ rcf.guard (Src.host 0) Block.FLW = true) :=
  ⟨rcf_free, by decide⟩

/-- A learn entry of a flow not in the table with every record taken (FlowRecords, FLW_E_REC_EXHAUST). -/
def exh : State := { tb .run with tbl := { (tb .run).tbl with learn := [.flow kk (List.replicate 128 1#8) 4 0] }, flw := { R.flw with alloc := List.replicate (2 ^ 26) (0, true) } }
theorem exh_alloc : exh.flw.alloc = List.replicate (2 ^ 26) (0, true) := rfl
theorem exh_len : exh.flw.alloc.length = 2 ^ 26 := (congrArg List.length exh_alloc).trans List.length_replicate
theorem exh_free : exh.recFree = 0 := recFree_full exh exh_len
theorem exh_find (u : State) (h : u = { exh with tbl := { exh.tbl with learn := [] } }) : (u.flowFind kk).1 = none := by subst h; rw [flowFind_fst]; decide
theorem witness_FlowRecords_exhaust :
    (exh.learnerFree = true ∧ exh.rb Field.FLW_REBUILD = false ∧ exh.rb Field.TBL_SEED_FROZEN = true ∧ flKind (List.replicate 128 1#8) ≠ 2) ∧
    (∀ u : State, u = { exh with tbl := { exh.tbl with learn := [] } } → (u.flowFind kk).1 = none) ∧ exh.recFree = 0 :=
  ⟨by decide, exh_find, exh_free⟩


end W8

namespace W9

def pk (id src : Nat) (st : Stage) (n := 64) : Packet := { Packet.offered id src 0 0 (List.replicate n 5#8) with id := id, stage := st, whole := true }
def ps (l : List Packet) : State := { own .run with pkts := l }
def A1 := pk 1 3 .fifo
def A2 := pk 1 60 .fifo
def A3 := pk 1 3 .entry
def lv (s : State) : State := { s with cls := { s.cls with live := some true } }
def fullL : List Packet := (List.range 64).map fun i => {pk (i + 10) 3 (.lane i) 8 with entered := i}
def A4 := { A3 with express := true, entered := 0 }
def x9_1 := {pk 73 3 (.lane 63) 8 with entered := 63}
def A5 := pk 1 3 .restart
def rst : State := { ps [A5] with par := { R.par with restartQ := [(0, [1, 2])] } }
def B1 : Packet := { pk 1 3 (.lane 4) with parse := { Parse.fresh 0 0 with upc := 9, limit := 500, codes := [3] } }
def enc (d : Nat) : BitVec 184 := BitVec.ofNat 184 (d + hamCheck d * 2 ^ 176)
def ms (p : Packet) (w : BitVec 184) (bad := false) : State := { ps [p] with par := { R.par with cs := [(9, w)], bad := if bad then [(9, true)] else [] } }
def x9_2 := { B1 with parse := { B1.parse with committed := true, post := 64 } }
def B2 : Packet := { B1 with parse := { B1.parse with wait := some (9, 5), scan := some 0 } }

/-- States and operands that meet the hypotheses of the clauses of ParseSequencers (PipelineEntryAndLanes). -/
theorem witness_ParseSequencers_PipelineEntryAndLanes :
    ((List.find? (fun (x : Packet) => x.express) ((ps [A1]).waitingAt 0 3)).or ((ps [A1]).waitingAt 0 3).head? = some A1 ∧ entersIn (ps [A1]).mod.mode = true ∧ ((ps [A1]).pkts.any fun (q : Packet) => q.stage == Stage.entry && q.pipe == 0 && q.express == A1.express) = false ∧ 3 < 48 ∧ ((ps [A1]).internalTurn 0 = none ∨ SMap.get 0 (ps [A1]).par.lineRun 0 < 15)) ∧
    ((List.find? (fun (x : Packet) => x.express) ((ps [A2]).waitingAt 0 60)).or ((ps [A2]).waitingAt 0 60).head? = some A2 ∧ entersIn (ps [A2]).mod.mode = true ∧ ((ps [A2]).pkts.any fun (q : Packet) => q.stage == Stage.entry && q.pipe == 0 && q.express == A2.express) = false ∧ 48 ≤ 60 ∧ (ps [A2]).internalTurn 0 = some 60 ∧ ((∀ (q : Packet), q ∈ (ps [A2]).pkts → q.stage = Stage.fifo → q.pipe = 0 → 48 ≤ q.port) ∨ 15 ≤ SMap.get 0 (ps [A2]).par.lineRun 0)) ∧
    ((List.find? (fun (x : Packet) => x.express) (List.filter (fun (q : Packet) => q.stage == Stage.entry && q.pipe == 0) (lv (ps [A3])).pkts)).or (List.filter (fun (q : Packet) => q.stage == Stage.entry && q.pipe == 0) (lv (ps [A3])).pkts).head? = some A3 ∧ (A3.express = true ∨ SMap.get [] (lv (ps [A3])).par.restartQ 0 = []) ∧ 0 < (lv (ps [A3])).freeLanes 0 ∧ (lv (ps [A3])).inLane 0 4 = none) ∧
    ((List.find? (fun (x : Packet) => x.express) (List.filter (fun (q : Packet) => q.stage == Stage.entry && q.pipe == 0) (ps (A3 :: fullL)).pkts)).or (List.filter (fun (q : Packet) => q.stage == Stage.entry && q.pipe == 0) (ps (A3 :: fullL)).pkts).head? = some A3 ∧ A3.express = false ∧ (ps (A3 :: fullL)).freeLanes 0 = 0) ∧
    ((List.find? (fun (x : Packet) => x.express) (List.filter (fun (q : Packet) => q.stage == Stage.entry && q.pipe == 0) (ps (A4 :: fullL)).pkts)).or (List.filter (fun (q : Packet) => q.stage == Stage.entry && q.pipe == 0) (ps (A4 :: fullL)).pkts).head? = some A4 ∧ A4.express = true ∧ (ps (A4 :: fullL)).freeLanes 0 = 0 ∧ x9_1 ∈ (ps (A4 :: fullL)).pkts ∧ x9_1.pipe = 0 ∧ x9_1.stage = Stage.lane 63 ∧ x9_1.express = false ∧ x9_1.guarded = false ∧ x9_1.parse.committed = false ∧ (∀ (w : Packet), w ∈ (ps (A4 :: fullL)).pkts → w = x9_1 ∨ w.entered < x9_1.entered)) ∧
    (SMap.get [] rst.par.restartQ 0 = [A5.id, 2] ∧ rst.inLane 0 4 = none ∧ rst.pkt A5.id = some A5 ∧ A5.stage = Stage.restart ∧ A5.pipe = 0) := by decide

/-- States and operands that meet the hypotheses of the clauses of ParseSequencers (Microwords). -/
theorem witness_ParseSequencers_Microwords :
    ((ps []).inLane 0 4 = none) ∧
    ((ms x9_2 0#184).inLane 0 4 = some x9_2 ∧ (x9_2.parse.limit ≤ x9_2.parse.clk ∨ x9_2.parse.committed = true ∧ 64 ≤ x9_2.parse.post)) ∧
    ((ms B1 (0#184) true).inLane 0 4 = some B1 ∧ B1.parse.clk < B1.parse.limit ∧ (B1.parse.committed = false ∨ B1.parse.post < 64) ∧ (SMap.get false (ms B1 (0#184) true).par.bad (0 * 4096 + B1.parse.upc) = true ∨ hamFix (SMap.get (0#184) (ms B1 (0#184) true).par.cs (0 * 4096 + B1.parse.upc)) = none)) ∧
    ((ms B1 (enc (163 * 2 ^ 164))).inLane 0 4 = some B1 ∧ B1.parse.clk < B1.parse.limit ∧ (B1.parse.committed = false ∨ B1.parse.post < 64) ∧ SMap.get false (ms B1 (enc (163 * 2 ^ 164))).par.bad (0 * 4096 + B1.parse.upc) = false ∧ B1.parse.wait = none ∧ (B1.parse.committed = false ∨ B1.parse.learned = true) ∧ hamFix (SMap.get (0#184) (ms B1 (enc (163 * 2 ^ 164))).par.cs (0 * 4096 + B1.parse.upc)) = some (163 * 2 ^ 164, false)) ∧
    ((ms B1 (enc 16 ^^^ 2#184)).inLane 0 4 = some B1 ∧ B1.parse.clk < B1.parse.limit ∧ (B1.parse.committed = false ∨ B1.parse.post < 64) ∧ SMap.get false (ms B1 (enc 16 ^^^ 2#184)).par.bad (0 * 4096 + B1.parse.upc) = false ∧ B1.parse.wait = none ∧ ((ms B1 (enc 16 ^^^ 2#184)).mod.mode ≠ Mode.safeHold ∨ 6 ≤ B1.parse.tc) ∧ hamFix (SMap.get (0#184) (ms B1 (enc 16 ^^^ 2#184)).par.cs (0 * 4096 + B1.parse.upc)) = some (16, true)) ∧
    ((ms B2 (enc (20 * 2 ^ 124 + 16))).inLane 0 4 = some B2 ∧ B2.parse.wait = some (9, 5) ∧ ((ms B2 (enc (20 * 2 ^ 124 + 16))).mod.mode ≠ Mode.safeHold ∨ 6 ≤ B2.parse.tc) ∧ hamFix (SMap.get (0#184) (ms B2 (enc (20 * 2 ^ 124 + 16))).par.cs (0 * 4096 + B2.parse.upc)) = some (20 * 2 ^ 124 + 16, false) ∧ (15 = if bitOf B2.parse.opnd 0 = true then 1 else 20 - 5) ∧ B2.parse.clk + 15 ≤ B2.parse.limit ∧ (B2.parse.committed = false ∨ B2.parse.post + 15 ≤ 64)) ∧
    ((ms B2 0#184).inLane 0 4 = some B2 ∧ B2.parse.scan = some 0 ∧ (B2.whole = true ∨ 0 + 1024 ≤ B2.bytes.length)) ∧
    (hamFix (SMap.get (0#184) (ms B2 (enc 16)).par.cs (0 * 4096 + 9) ^^^ 0#184) = some (16, false)) ∧
    (hamFix (SMap.get (0#184) (ms B2 (enc 16)).par.cs (0 * 4096 + 9) ^^^ 2#184) = some (16, true)) ∧
    (hamFix (SMap.get (0#184) (ms B2 (enc 16)).par.cs (0 * 4096 + 9) ^^^ 13#184 * 2#184 ^ 180) = none ∧ SMap.get false (ms B2 (enc 16)).par.bad (0 * 4096 + 9) = false) ∧
    ((ms B1 0#184).inLane 0 4 = some B1 ∧ B1.parse.clk < B1.parse.limit ∧ (B1.parse.committed = false ∨ B1.parse.post < 64)) := by decide

end W9

namespace W10

def cp (id : Nat) (st : Stage) : Packet := { Packet.offered id 3 0 0 (List.replicate 64 5#8) with stage := st, whole := true, tag := some (true, 5), counted := true }
def ED (n : Nat) (a : Nat) (rs : List Rule := []) : Edition := { Edition.none with num := n, dflt := BitVec.ofNat 64 (a * 2^61), rules := rs }
def BK (st : BankSt) (n : Nat) (a := 0) (rs : List Rule := []) (i := 1) : Bank := { Bank.none with st := st, ed := ED n a rs, inflight := i }
def cs (m : Mode) (a b : Bank) (live : Option Bool) (l : List Packet := []) : State := { own m with pkts := l, cls := { R.cls with a := a, b := b, live := live } }
def c1 := cs .run Bank.none (BK .live 5) (some true) [cp 1 .classify]
def RU (a : BitVec 64) : Rule := { value := 0, mask := 0, act := a }
def c4 := cs .run Bank.none (BK .draining 5 1 [RU 0x1000000000000000]) (some false) [cp 1 .parked]
def FR : Frag := { key := [], bankB := false, num := 5, rule := none, act := 0, ports := [], time := 0 }
def x10_1 := {c4 with cls := {c4.cls with frags := [(5, FR)]}}
def e0 := cs .load Bank.none Bank.none none
def e1 := cs .run (BK .live 5) Bank.none (some false)
def e2 : State := { e1 with cls := { e1.cls with waitPack := some (ED 6 0) } }
def e3 : State := { e1 with cls := { e1.cls with pend := true, b := BK .staged 6 } }
def e4 : State := { e1 with cls := { e1.cls with stage := some (.host 0, 4, true) } }
def x10_2 := {e3 with cls := {e3.cls with pend := false}}
def x10_3 := {e1 with cls := {e1.cls with b := BK .installing 6}}

/-- States and operands that meet the hypotheses of the clauses of ClassificationAndEditions (Classification). -/
theorem witness_ClassificationAndEditions_Classification :
    (List.find? (fun (p : Packet) => p.pipe == 1 && p.stage == Stage.classify && p.express == false && c1.mayLeave p) c1.pkts = none) ∧
    (List.find? (fun (p : Packet) => p.pipe == 0 && p.stage == Stage.classify && p.express == false && c1.mayLeave p) c1.pkts = some (cp 1 Stage.classify) ∧ ((cp 1 Stage.classify).parse.scan = none ∨ (cp 1 Stage.classify).whole = true) ∧ (cp 1 Stage.classify).tag = some (true, 5) ∧ bitOf (beAt ((cp 1 Stage.classify).parse.slot 5) 57 1) 0 = false ∧ winner (c1.bank true) (c1.clsKey (cp 1 Stage.classify) (c1.bank true) ((cp 1 Stage.classify).parse.slot 5) 0) = none ∧ (Option.map (fun (x : Nat × BitVec 64) => x.snd) none).getD (c1.bank true).ed.dflt = 0#64 ∧ actBits (0#64) 63 61 < 2) ∧
    (c4.pkt 1 = some (cp 1 Stage.parked) ∧ (cp 1 Stage.parked).stage = Stage.parked ∧ (cp 1 Stage.parked).due = false) ∧
    (x10_1.cls.frags.find 5 = some FR) ∧
    (0 < (c4.bank true).ed.rules.length ∧ 2 ≤ 2 ∧ SMap.get false (c4.bank true).off 0 = false) ∧
    (c4.cls.frags.find 5 = none) := by decide

/-- States and operands that meet the hypotheses of the clauses of ClassificationAndEditions (Editions). -/
theorem witness_ClassificationAndEditions_Editions :
    (e0.guard (Src.host 0) Block.CLS = true ∧ ((261#32).getLsbD 8 = e0.rb Field.CLS_CAP_MODE ∨ e0.mod.mode = Mode.load ∧ e0.cls.a.st = BankSt.empty ∧ e0.cls.b.st = BankSt.empty)) ∧
    (e1.guard (Src.host 0) Block.CLS = true ∧ (261#32).getLsbD 8 ≠ e1.rb Field.CLS_CAP_MODE ∧ (e1.mod.mode ≠ Mode.load ∨ e1.cls.a.st ≠ BankSt.empty ∨ e1.cls.b.st ≠ BankSt.empty)) ∧
    (e1.guard (Src.host 0) Block.CLS = true ∧ e1.clsBusy = false ∧ e1.cls.waitPack = none ∧ (e1.bank e1.otherBank).st ≠ BankSt.installing ∧ (e1.bank e1.otherBank).st ≠ BankSt.staged) ∧
    (e2.guard (Src.host 0) Block.CLS = true ∧ e2.clsBusy = false ∧ e2.commitPack = some (ED 6 0) ∧ (ED 6 0).num = 6 ∧ (∀ (b : Bool), (e2.bank b).st = BankSt.live ∨ (e2.bank b).st = BankSt.draining → (e2.bank b).ed.num ≠ 6)) ∧
    (e1.guard (Src.host 0) Block.CLS = true ∧ e1.clsBusy = false ∧ e1.commitPack = none) ∧
    (e2.guard (Src.host 0) Block.CLS = true ∧ e2.clsBusy = false ∧ e2.commitPack = some (ED 6 0) ∧ (ED 6 0).num ≠ 7) ∧
    ((e2.setN Field.CLS_CMD_OUT 0 1).guard (Src.host 0) Block.CLS = true ∧ (e2.setN Field.CLS_CMD_OUT 0 1).clsBusy = true) ∧
    (e3.guard (Src.host 0) Block.CLS = true ∧ e3.cls.pend = true) ∧
    (e4.guard (Src.host 0) Block.CLS = true ∧ e4.cls.pend = false ∧ e4.cls.stage ≠ none) ∧
    (e2.guard (Src.host 0) Block.CLS = true ∧ e2.clsBusy = false ∧ e2.cls.pend = false ∧ e2.cls.waitPack ≠ none) ∧
    (x10_2.guard (Src.host 0) Block.CLS = true ∧ x10_2.clsBusy = false ∧ x10_2.cls.pend = false ∧ x10_2.cls.waitPack = none ∧ ((x10_2.bank x10_2.otherBank).st = BankSt.installing ∨ (x10_2.bank x10_2.otherBank).st = BankSt.staged)) ∧
    (e2.cls.waitPack = some (ED 6 0) ∧ (e2.bank e2.otherBank).st = BankSt.empty) ∧
    ((x10_3.bank x10_3.otherBank).st = BankSt.installing) ∧
    (e3.cls.pend = true ∧ (e3.bank e3.otherBank).st = BankSt.staged) ∧
    ((c4.bank true).st = BankSt.draining ∧ (c4.bank !true).st ≠ BankSt.draining ∧ c4.pkts = [cp 1 Stage.parked] ∧ (cp 1 Stage.parked).counted = true ∧ (cp 1 Stage.parked).tag = some (true, 5) ∧ (cp 1 Stage.parked).due = false) ∧
    (e4.cls.stage = some (Src.host 0, 4, true)) ∧
    (e1.guard (Src.host 0) Block.CLS = true ∧ e1.cls.pend = false ∧ e1.cls.stage = none) ∧
    ((e1.cls.waitPack = none ∨ (e1.bank e1.otherBank).st ≠ BankSt.empty)) ∧
    (e1.cls.a.st ≠ BankSt.draining ∧ e1.cls.b.st ≠ BankSt.draining) := by decide

end W10

namespace W11

def ds (n cnt off len : Nat) (sync := 2) (conf := 3) : List Byte := beBytes 2 cnt ++ beBytes 1 sync ++ beBytes 1 n ++ beBytes 4 conf ++ List.replicate 12 0#8 ++ beBytes 2 off ++ beBytes 2 len
def sp (d : List Byte) : Packet := { Packet.offered 4 3 0 0 (List.replicate 100 5#8) with stage := .repl, slice := some (9, d), buf := some 5, tsSec := 1, tsNs := 1000 }
def ss (d : List Byte) (en : Bool) : State := let s := { own .run with pkts := [sp d] }
  (((((((((s.setB .SAU_ST_EN 9 en).setN .SAU_ST_NCH 9 2).setN .SAU_ST_CONFREV 9 3).setN .SAU_ST_RATE 9 4000).setN .SAU_ST_STRIDE 9 16).setN .SAU_ST_AGE_MAX_US 9 500000).setN .SAU_ACQ_N 0 8).setN .SAU_ST_STATE 9 1)).setN .TIM_QUAL 0 2
def tt (s : State) : State := { s with tim := { s.tim with now := 2 * tickSec } }
def gs (x : List Slice) (now : Nat) (emp : Bool := false) : State := let s := { own .run with sau := { R.sau with grp := [(7, { Grp.none with front := some (3, 5), opens := x })] }, tim := { R.tim with now := now } }
  (((((s.setB .SAU_JG_EN 7 true).setN .SAU_JG_RATE 7 4000).setB .TIM_FAST 0 true).setN .TIM_QUAL 0 2).setB .SAU_JG_EMPTY 7 emp).setN .SAU_JG_DL_NS 7 1000
def SL (a : List (Nat × List Byte)) : Slice := { sec := 2, n := 5, areas := a }
abbrev g0 := own .run
def g1 := gs [SL []] 0
def p1 : State := { (own .run).setB .SAU_PUB_EN 9 true with tmg := { R.tmg with pubDue := [4, 9] } }
def p2 : State := { p1 with tmg := { p1.tmg with pubDue := [9] } }
def gk : State := { (((((g0.setN .SAU_JG_PATCH_DEPTH_L2 7 1).setN .SAU_JG_PATCH_BASE 7 65536).setB .SAU_JG_M_EN 448 true).setN .SAU_JG_M_STREAM 448 9).setN .SAU_JG_TMPL 7 5).setN .SAU_JG_CLMASK 7 1 with tsk := { R.tsk with tmpls := [(5, { tm0 with clmask := 1 })] } }

/-- States and operands that meet the hypotheses of the clauses of SubstationSampling (Sampling). -/
theorem witness_SubstationSampling_Sampling :
    ((own Mode.run).nextSample 1 = none) ∧
    ((ss (ds 1 0 10 16) false).nextSample 0 = some (sp (ds 1 0 10 16)) ∧ (sp (ds 1 0 10 16)).slice = some (9, ds 1 0 10 16) ∧ (sp (ds 1 0 10 16)).buf ≠ none ∧ (ss (ds 1 0 10 16) false).rb Field.SAU_ST_EN 9 = false) ∧
    ((ss (ds 0 0 10 16) true).nextSample 0 = some (sp (ds 0 0 10 16)) ∧ (sp (ds 0 0 10 16)).slice = some (9, ds 0 0 10 16) ∧ (sp (ds 0 0 10 16)).buf ≠ none ∧ (ss (ds 0 0 10 16) true).rb Field.SAU_ST_EN 9 = true ∧ (ss (ds 0 0 10 16) true).frameCheck 9 (ds 0 0 10 16) (sp (ds 0 0 10 16)).bytes.length ≠ 0) ∧
    ((tt (ss (ds 1 0 10 16) true)).nextSample 0 = some (sp (ds 1 0 10 16)) ∧ (sp (ds 1 0 10 16)).slice = some (9, ds 1 0 10 16) ∧ (sp (ds 1 0 10 16)).buf ≠ none ∧ (tt (ss (ds 1 0 10 16) true)).rb Field.SAU_ST_EN 9 = true ∧ (tt (ss (ds 1 0 10 16) true)).frameCheck 9 (ds 1 0 10 16) (sp (ds 1 0 10 16)).bytes.length = 0 ∧ d6 (ds 1 0 10 16) 3 1 = 1 ∧ (tt (ss (ds 1 0 10 16) true)).rn Field.SAU_ST_RATE 9 = 4000 ∧ (tt (ss (ds 1 0 10 16) true)).rn Field.SAU_ST_STATE 9 = 1 ∧ ((tt (ss (ds 1 0 10 16) true)).strm 9).latest = none ∧ ((tt (ss (ds 1 0 10 16) true)).strm 9).run + 1 < (tt (ss (ds 1 0 10 16) true)).rn Field.SAU_ACQ_N ∧ (tt (ss (ds 1 0 10 16) true)).fullSec (sp (ds 1 0 10 16)).tsSec = ↑1 ∧ (1 * 1000000000 + (sp (ds 1 0 10 16)).tsNs) * 4000 = 1 * 1000000000 * 4000 + d6 (ds 1 0 10 16) 0 2 * 1000000000 + 4000000 ∧ 4000000 + (tt (ss (ds 1 0 10 16) true)).rn Field.SAU_EARLY_US * 1000 * 4000 < 1000000000 * 4000 ∧ 4000000 ≤ (tt (ss (ds 1 0 10 16) true)).rn Field.SAU_ST_AGE_MAX_US 9 * 1000 * 4000) ∧
    ((gs [] 0).gridRun = true ∧ (gs [] 0).rb Field.SAU_JG_EN 7 = true ∧ (gs [] 0).mod.mode ≠ Mode.drain ∧ ((gs [] 0).grp 7).front = some (3, 5) ∧ (gs [] 0).reached 7 3 5 0 = false) ∧
    ((gs [] (10 * tickSec)).gridRun = true ∧ (gs [] (10 * tickSec)).rb Field.SAU_JG_EN 7 = true ∧ (gs [] (10 * tickSec)).mod.mode ≠ Mode.drain ∧ ((gs [] (10 * tickSec)).grp 7).front = some (3, 5) ∧ (gs [] (10 * tickSec)).reached 7 3 5 0 = true ∧ (∀ (x : Slice), x ∈ ((gs [] (10 * tickSec)).grp 7).opens → (x.sec, x.n) ≠ (3, 5)) ∧ (∀ (e : Nat × Nat × Nat), e ∈ ((gs [] (10 * tickSec)).grp 7).done → (e.fst, e.snd.fst) ≠ (3, 5))) ∧
    (((gs [] (10 * tickSec)).gridRun = false ∨ (gs [] (10 * tickSec)).rb Field.SAU_JG_EN 8 = false ∨ (gs [] (10 * tickSec)).mod.mode = Mode.drain)) ∧
    ((gs [] (10 * tickSec)).oldestOpen 7 = none) ∧
    ((gs [SL []] (1 * tickSec)).oldestOpen 7 = some (SL []) ∧ (gs [SL []] (1 * tickSec)).reached 7 (SL []).sec (SL []).n ((gs [SL []] (1 * tickSec)).rn Field.SAU_JG_DL_NS 7) = false) ∧
    ((gs [SL []] (10 * tickSec)).oldestOpen 7 = some (SL []) ∧ (gs [SL []] (10 * tickSec)).reached 7 (SL []).sec (SL []).n ((gs [SL []] (10 * tickSec)).rn Field.SAU_JG_DL_NS 7) = true ∧ (SL []).areas = [] ∧ (gs [SL []] (10 * tickSec)).rb Field.SAU_JG_EMPTY 7 = false) ∧
    ((gs [SL []] (10 * tickSec) true).oldestOpen 7 = some (SL []) ∧ (gs [SL []] (10 * tickSec) true).reached 7 (SL []).sec (SL []).n ((gs [SL []] (10 * tickSec) true).rn Field.SAU_JG_DL_NS 7) = true ∧ ((SL []).areas ≠ [] ∨ (gs [SL []] (10 * tickSec) true).rb Field.SAU_JG_EMPTY 7 = true)) ∧
    ((ss [] true).rn Field.SAU_ST_STATE 9 ≠ 2) ∧
    (((ss [] true).setN Field.SAU_ST_STATE 9 2).rn Field.SAU_ST_STATE 9 = 2) := by decide

/-- States and operands that meet the hypotheses of the clauses of SubstationSampling (SamplingConfiguration). -/
theorem witness_SubstationSampling_SamplingConfiguration :
    (g0.guard (Src.host 0) Block.SAU = true ∧ g0.rb Field.SAU_JG_EN 7 = false ∧ (66 ≠ 0 ∨ (2147483939#32).getLsbD 31 = false)) ∧
    (g0.guard (Src.host 0) Block.SAU = true ∧ g0.rb Field.SAU_JG_EN 7 = false ∧ (2147483939#32).getLsbD 31 = true ∧ (g0.wrFields (jgFields 0) 7 2147483939#32).jgRefusal (Src.host 0) 7 = some Ev.SAU_E_JG_CFG) ∧
    (g1.guard (Src.host 0) Block.SAU = true ∧ g1.rb Field.SAU_JG_EN 7 = true ∧ g1.sameFields (List.filter (fun (x : Field) => x != Field.SAU_JG_EN) (jgFields 1)) (jgElem 7 1) 2147483939#32 = false) ∧
    (g1.guard (Src.host 0) Block.SAU = true ∧ g1.rb Field.SAU_JG_EN 7 = true ∧ g1.sameFields (List.filter (fun (x : Field) => x != Field.SAU_JG_EN) (jgFields 0)) (jgElem 7 0) 2101152#32 = true ∧ 0 = 0 ∧ (2101152#32).getLsbD 31 = false) ∧
    (g0.guard (Src.host 0) Block.SAU = true ∧ g0.rb Field.SAU_ST_EN 9 = false ∧ (2147488308#32).getLsbD 31 = true ∧ g0.rn Field.SAU_ST_STATE 9 ≠ 2) ∧
    ((ss [] true).guard (Src.host 0) Block.SAU = true ∧ 0 < 2 ∧ (ss [] true).rb Field.SAU_ST_EN 9 = true ∧ (ss [] true).sameFields (if 0 = 0 then [Field.SAU_ST_SYNC_EXACT, Field.SAU_ST_NCH, Field.SAU_ST_STRIDE, Field.SAU_ST_RATE] else [Field.SAU_ST_SYNC_VAL, Field.SAU_ST_LOSS_US]) 9 2147488308#32 = false) ∧
    (g0.guard (Src.host 0) Block.SAU = true ∧ g0.rb Field.SAU_PUB_EN 9 = false ∧ (2147488308#32).getLsbD 31 = true) ∧
    (p1.guard (Src.host 0) Block.SAU = true ∧ p1.rb Field.SAU_PUB_EN 9 = true ∧ p1.sameFields [Field.SAU_PUB_T_AUTO, Field.SAU_PUB_TAL_AUTO, Field.SAU_PUB_AUTH, Field.SAU_PUB_KEY, Field.SAU_PUB_TMPL] 9 1073741824#32 = true ∧ (1073741824#32).getLsbD 31 = false) ∧
    (p1.guard (Src.host 0) Block.SAU = true ∧ (p1.groupsOn = [] ∨ p1.sameFields [Field.SAU_EARLY_US] 0 74565#32 = true)) ∧
    (g1.guard (Src.host 0) Block.SAU = true ∧ g1.groupsOn ≠ [] ∧ g1.sameFields [Field.SAU_EARLY_US] 0 74565#32 = false) ∧
    (p1.tmg.pubDue = [4, 9] ∧ (p1.rb Field.SAU_PUB_EN 4 = false ∨ p1.mod.mode = Mode.drain)) ∧
    (p2.tmg.pubDue = [9] ∧ p2.rb Field.SAU_PUB_EN 9 = true ∧ p2.mod.mode ≠ Mode.drain) ∧
    (gk.guard (Src.host 0) Block.SAU = true ∧ gk.rb Field.SAU_JG_EN 7 = false ∧ (2149584800#32).getLsbD 31 = true ∧ (gk.wrFields (jgFields 0) 7 2149584800#32).jgRefusal (Src.host 0) 7 = none) ∧
    (g0.tmg.pubDue = []) ∧
    (jgFields 9 = []) ∧
    (3 ≤ 3) ∧
    (4 ≤ 4) := by decide

end W11

namespace W12

def wA (rd r1 r2 fn : Nat) : BitVec 25 := BitVec.ofNat 25 (rd * 2^20 + r1 * 2^15 + r2 * 2^10 + fn)
def wB (rd r1 imm : Nat) : BitVec 25 := BitVec.ofNat 25 (rd * 2^20 + r1 * 2^15 + imm)
def eg (op : Nat) (w : BitVec 25) (g : List (Nat × BitVec 64)) (cls := 1) (perm := 63) : State :=
  { own .run with eng := { R.eng with imem := [(9 / 8 * 16384 + 2, BitVec.ofNat 32 (op * 2^25 + w.toNat))], dmem := [(131072 + 16, 0x81), (131072 + 17, 0x92), (131072+24,1)], ctx := [(9, { Ctx.none with st := .running, gen := 2, pc := 8, cls := cls, rcd := { tm0 with perm := perm, cls := cls }, g := g })] } }
def gg : List (Nat × BitVec 64) := [(2, 0x8000000000000000), (3, 0xFFFFFFFFFFFFFFFF), (4, 7), (5, 16)]
def hm (t : State) : State := ({ t with hbm := { t.hbm with filled := true } }.setB .MEM_INIT_FLAG 0 true).setB .MEM_NR_EN 0 false
def gd : List (Nat × BitVec 64) := [(5, 0x1000010)]
def tls : State := let s := hm (eg 0x34 (wB 6 5 0) gd)
  { s with mmu := { s.mmu with tlb := [(0, [{ asid := 0, big := false, page := 256, pte := 0x10000000 + 7, locked := false }])] } }
def tr := tls.translate (clOf 9) (tls.cx 9).rcd 0x1000010 false true
def rd := tr.2.hbmRead 0x10000010 4 4
def ts2 : State := let s := hm (eg 0x3A (wB 6 5 0) gd)
  { s with mmu := { s.mmu with tlb := [(0, [{ asid := 0, big := false, page := 256, pte := 0x10000000 + 7, locked := false }])] } }
def tr2 := ts2.translate (clOf 9) (ts2.cx 9).rcd 0x1000010 true true
def wr2 := tr2.2.hbmWrite 0x10000010 [0,0,0,0] 4
def ts3 : State := hm (eg 0x34 (wB 6 5 0) gd)
def tr3 := ts3.translate (clOf 9) (ts3.cx 9).rcd 0x1000010 false true

/-- States and operands that meet the hypotheses of the clauses of ScalarInstructions. -/
theorem witness_ScalarInstructions_1 :
    (0 < 32 ∧ 4 < 32) :=
  by decide

/-- States and operands that meet the hypotheses of the clauses of ScalarInstructions. -/
theorem witness_ScalarInstructions_2 :
    ((eg 22 (wA 6 2 0 0) gg).issues 9 (22 * 2 ^ 25 + (wA 6 2 0 0).toNat) ∧ 0 ≤ 64 ∧ (((eg 22 (wA 6 2 0 0) gg).cx 9).rg (rs1Of (wA 6 2 0 0))).toNat < 2 ^ (64 - 0) ∧ (0 < 64 → 2 ^ (63 - 0) ≤ (((eg 22 (wA 6 2 0 0) gg).cx 9).rg (rs1Of (wA 6 2 0 0))).toNat) ∧ fnOf10 (wA 6 2 0 0) = 0 ∧ rs2Of (wA 6 2 0 0) = 0) ∧
    ((eg 23 (wA 6 2 0 0) gg).issues 9 (23 * 2 ^ 25 + (wA 6 2 0 0).toNat) ∧ fnOf10 (wA 6 2 0 0) = 0 ∧ rs2Of (wA 6 2 0 0) = 0) ∧
    ((eg 24 (wA 6 7 0 0) [(2, 9223372036854775808#64), (3, 18446744073709551615#64), (4, 7#64), (5, 16#64), (7, 81985529216486895#64)]).issues 9 (24 * 2 ^ 25 + (wA 6 7 0 0).toNat) ∧ ((eg 24 (wA 6 7 0 0) [(2, 9223372036854775808#64), (3, 18446744073709551615#64), (4, 7#64), (5, 16#64), (7, 81985529216486895#64)]).cx 9).rg (rs1Of (wA 6 7 0 0)) = 81985529216486895#64 ∧ (fnOf10 (wA 6 7 0 0), 8) ∈ [(0, 8), (1, 4), (2, 2)] ∧ (∀ (i : Nat), i < 8 → BitVec.extractLsb' (8 * i) 8 17279655951921914625#64 = if i < 8 then BitVec.extractLsb' (8 * (8 - 1 - i)) 8 81985529216486895#64 else 0#8) ∧ rs2Of (wA 6 7 0 0) = 0) ∧
    ((eg 40 (wB 6 31 3) gg).issues 9 (40 * 2 ^ 25 + (wB 6 31 3).toNat)) :=
  ⟨⟨by simp only [State.issues, State.calm]; decide, by decide⟩,
   ⟨by simp only [State.issues, State.calm]; decide, by decide⟩,
   ⟨by simp only [State.issues, State.calm]; decide, by decide⟩,
   by simp only [State.issues, State.calm]; decide⟩

/-- States and operands that meet the hypotheses of the clauses of LoadsStoresBranches. -/
theorem witness_LoadsStoresBranches_1 :
    ((eg 48 (wB 6 5 0) gg).issues 9 ((48, 1, true).fst * 2 ^ 25 + (wB 6 5 0).toNat) ∧ (eg 48 (wB 6 5 0) gg).clean (Mem.dmem 1) 16 (48, 1, true).snd.fst ∧ (((eg 48 (wB 6 5 0) gg).cx 9).ea (wB 6 5 0)).toNat % (48, 1, true).snd.fst = 0 ∧ regionOf (engOf 9) (((eg 48 (wB 6 5 0) gg).cx 9).ea (wB 6 5 0)).toNat (48, 1, true).snd.fst = Region.loc (Mem.dmem 1) 16 ∧ (∀ (i : Nat), i < (48, 1, true).snd.fst → BitVec.extractLsb' (8 * i) 8 129#8 = (eg 48 (wB 6 5 0) gg).memByte (Mem.dmem 1) (16 + i))) ∧
    ((eg 48 (wB 6 2 0) gg).issues 9 ((48, 1, true).fst * 2 ^ 25 + (wB 6 2 0).toNat) ∧ (eg 48 (wB 6 2 0) gg).serviced 9 3 ∧ (((eg 48 (wB 6 2 0) gg).cx 9).ea (wB 6 2 0)).toNat % (48, 1, true).snd.fst = 0 ∧ regionOf (engOf 9) (((eg 48 (wB 6 2 0) gg).cx 9).ea (wB 6 2 0)).toNat (48, 1, true).snd.fst = Region.none) ∧
    ((eg 50 (wB 6 4 0) gg).issues 9 ((50, 2, true).fst * 2 ^ 25 + (wB 6 4 0).toNat) ∧ (eg 50 (wB 6 4 0) gg).serviced 9 2 ∧ (((eg 50 (wB 6 4 0) gg).cx 9).ea (wB 6 4 0)).toNat % (50, 2, true).snd.fst ≠ 0) ∧
    ((eg 56 (wB 3 5 0) gg).issues 9 ((56, 1).fst * 2 ^ 25 + (wB 3 5 0).toNat) ∧ (eg 56 (wB 3 5 0) gg).clean (Mem.dmem 1) 16 (56, 1).snd ∧ (((eg 56 (wB 3 5 0) gg).cx 9).ea (wB 3 5 0)).toNat % (56, 1).snd = 0 ∧ regionOf (engOf 9) (((eg 56 (wB 3 5 0) gg).cx 9).ea (wB 3 5 0)).toNat (56, 1).snd = Region.loc (Mem.dmem 1) 16 ∧ [255#8].length = (56, 1).snd ∧ (∀ (i : Nat), i < (56, 1).snd → [255#8].getD i 0#8 = BitVec.extractLsb' (8 * i) 8 (((eg 56 (wB 3 5 0) gg).cx 9).rg (rdOf (wB 3 5 0))))) ∧
    ((eg 56 (wB 3 2 0) gg).issues 9 ((56, 1).fst * 2 ^ 25 + (wB 3 2 0).toNat) ∧ (eg 56 (wB 3 2 0) gg).serviced 9 3 ∧ (((eg 56 (wB 3 2 0) gg).cx 9).ea (wB 3 2 0)).toNat % (56, 1).snd = 0 ∧ regionOf (engOf 9) (((eg 56 (wB 3 2 0) gg).cx 9).ea (wB 3 2 0)).toNat (56, 1).snd = Region.none) ∧
    ((eg 57 (wB 3 4 0) gg).issues 9 ((57, 2).fst * 2 ^ 25 + (wB 3 4 0).toNat) ∧ (eg 57 (wB 3 4 0) gg).serviced 9 2 ∧ (((eg 57 (wB 3 4 0) gg).cx 9).ea (wB 3 4 0)).toNat % (57, 2).snd ≠ 0) ∧
    ((eg 60 (wA 6 5 4 0) gg).clean (Mem.dmem 1) 16 8 ∧ (eg 60 (wA 6 5 4 0) gg).issues 9 (60 * 2 ^ 25 + (wA 6 5 4 0).toNat) ∧ fnOf10 (wA 6 5 4 0) = 0 ∧ (((eg 60 (wA 6 5 4 0) gg).cx 9).rg (rs1Of (wA 6 5 4 0))).toNat % 8 = 0 ∧ regionOf (engOf 9) (((eg 60 (wA 6 5 4 0) gg).cx 9).rg (rs1Of (wA 6 5 4 0))).toNat 8 = Region.loc (Mem.dmem 1) 16 ∧ (∀ (i : Nat), i < 8 → BitVec.extractLsb' (8 * i) 8 37505#64 = (eg 60 (wA 6 5 4 0) gg).memByte (Mem.dmem 1) (16 + i)) ∧ ([136#8, 146#8] ++ List.replicate 6 0#8).length = 8 ∧ (∀ (i : Nat), i < 8 → ([136#8, 146#8] ++ List.replicate 6 0#8).getD i 0#8 = BitVec.extractLsb' (8 * i) 8 (37505#64 + ((eg 60 (wA 6 5 4 0) gg).cx 9).rg (rs2Of (wA 6 5 4 0))))) ∧
    ((eg 61 (wA 4 5 3 0) gg).clean (Mem.dmem 1) 16 8 ∧ (eg 61 (wA 4 5 3 0) gg).issues 9 (61 * 2 ^ 25 + (wA 4 5 3 0).toNat) ∧ fnOf10 (wA 4 5 3 0) = 0 ∧ (((eg 61 (wA 4 5 3 0) gg).cx 9).rg (rs1Of (wA 4 5 3 0))).toNat % 8 = 0 ∧ regionOf (engOf 9) (((eg 61 (wA 4 5 3 0) gg).cx 9).rg (rs1Of (wA 4 5 3 0))).toNat 8 = Region.loc (Mem.dmem 1) 16 ∧ (∀ (i : Nat), i < 8 → BitVec.extractLsb' (8 * i) 8 37505#64 = (eg 61 (wA 4 5 3 0) gg).memByte (Mem.dmem 1) (16 + i)) ∧ ([129#8, 146#8] ++ List.replicate 6 0#8).length = 8 ∧ (∀ (i : Nat), i < 8 → ([129#8, 146#8] ++ List.replicate 6 0#8).getD i 0#8 = BitVec.extractLsb' (8 * i) 8 (if 37505#64 = ((eg 61 (wA 4 5 3 0) gg).cx 9).rg (rdOf (wA 4 5 3 0)) then ((eg 61 (wA 4 5 3 0) gg).cx 9).rg (rs2Of (wA 4 5 3 0)) else 37505#64))) ∧
    ((eg 60 (wA 6 5 3 0) [(5, 16777216#64), (6, 37505#64), (3, 85#64)]).issues 9 (60 * 2 ^ 25 + (wA 6 5 3 0).toNat) ∧ (eg 60 (wA 6 5 3 0) [(5, 16777216#64), (6, 37505#64), (3, 85#64)]).serviced 9 3 ∧ fnOf10 (wA 6 5 3 0) = 0 ∧ (((eg 60 (wA 6 5 3 0) [(5, 16777216#64), (6, 37505#64), (3, 85#64)]).cx 9).rg (rs1Of (wA 6 5 3 0))).toNat % 8 = 0 ∧ regionOf (engOf 9) (((eg 60 (wA 6 5 3 0) [(5, 16777216#64), (6, 37505#64), (3, 85#64)]).cx 9).rg (rs1Of (wA 6 5 3 0))).toNat 8 = Region.dev) ∧
    ((eg 41 (wB 6 31 32767) gg).issues 9 (41 * 2 ^ 25 + (wB 6 31 32767).toNat)) ∧
    ((eg 42 (wB 6 5 32764) gg).issues 9 (42 * 2 ^ 25 + (wB 6 5 32764).toNat) ∧ (((eg 42 (wB 6 5 32764) gg).cx 9).rg (rs1Of (wB 6 5 32764)) + imm15 (wB 6 5 32764)).toNat % 4 = 0) ∧
    ((eg 42 (wB 6 4 32764) gg).issues 9 (42 * 2 ^ 25 + (wB 6 4 32764).toNat) ∧ (eg 42 (wB 6 4 32764) gg).serviced 9 2 ∧ (((eg 42 (wB 6 4 32764) gg).cx 9).rg (rs1Of (wB 6 4 32764)) + imm15 (wB 6 4 32764)).toNat % 4 ≠ 0) :=
  ⟨⟨by simp only [State.issues, State.calm]; decide, by unfold State.clean; decide, by decide⟩,
   ⟨by simp only [State.issues, State.calm]; decide, by unfold State.serviced; decide, by decide⟩,
   ⟨by simp only [State.issues, State.calm]; decide, by unfold State.serviced; decide, by decide⟩,
   ⟨by simp only [State.issues, State.calm]; decide, by unfold State.clean; decide, by decide⟩,
   ⟨by simp only [State.issues, State.calm]; decide, by unfold State.serviced; decide, by decide⟩,
   ⟨by simp only [State.issues, State.calm]; decide, by unfold State.serviced; decide, by decide⟩,
   ⟨by unfold State.clean; decide, by simp only [State.issues, State.calm]; decide, by decide⟩,
   ⟨by unfold State.clean; decide, by simp only [State.issues, State.calm]; decide, by decide⟩,
   ⟨by simp only [State.issues, State.calm]; decide, by unfold State.serviced; decide, by decide⟩,
   by simp only [State.issues, State.calm]; decide,
   ⟨by simp only [State.issues, State.calm]; decide, by decide⟩,
   ⟨by simp only [State.issues, State.calm]; decide, by unfold State.serviced; decide, by decide⟩⟩

/-- States and operands that meet the hypotheses of the clauses of LoadsStoresBranches. -/
theorem witness_LoadsStoresBranches_2 :
    (tls.issues 9 ((52, 4, true).fst * 2 ^ 25 + (wB 6 5 0).toNat) ∧ tr.snd.hbmRead 268435472 (52, 4, true).snd.fst 4 = (some [0#8, 0#8, 0#8, 0#8], rd.snd) ∧ tls.fus = rd.snd.fus ∧ ((tls.cx 9).ea (wB 6 5 0)).toNat % (52, 4, true).snd.fst = 0 ∧ regionOf (engOf 9) ((tls.cx 9).ea (wB 6 5 0)).toNat (52, 4, true).snd.fst = Region.dev ∧ tls.translate (clOf 9) (tls.cx 9).rcd ((tls.cx 9).ea (wB 6 5 0)).toNat false true = (Xlat.dev 268435472, tr.snd) ∧ (∀ (i : Nat), i < (52, 4, true).snd.fst → BitVec.extractLsb' (8 * i) 8 0#32 = [0#8, 0#8, 0#8, 0#8].getD i 0#8)) ∧
    (ts2.issues 9 ((58, 4).fst * 2 ^ 25 + (wB 6 5 0).toNat) ∧ tr2.snd.hbmWrite 268435472 [0#8, 0#8, 0#8, 0#8] = (wr2.fst, true) ∧ ts2.fus = wr2.fst.fus ∧ ((ts2.cx 9).ea (wB 6 5 0)).toNat % (58, 4).snd = 0 ∧ regionOf (engOf 9) ((ts2.cx 9).ea (wB 6 5 0)).toNat (58, 4).snd = Region.dev ∧ ts2.translate (clOf 9) (ts2.cx 9).rcd ((ts2.cx 9).ea (wB 6 5 0)).toNat true true = (Xlat.dev 268435472, tr2.snd) ∧ [0#8, 0#8, 0#8, 0#8].length = (58, 4).snd ∧ (∀ (i : Nat), i < (58, 4).snd → [0#8, 0#8, 0#8, 0#8].getD i 0#8 = BitVec.extractLsb' (8 * i) 8 ((ts2.cx 9).rg (rdOf (wB 6 5 0))))) ∧
    (ts3.issues 9 ((52, 4, true).fst * 2 ^ 25 + (wB 6 5 0).toNat) ∧ ts3.serviced 9 4 ∧ ((ts3.cx 9).ea (wB 6 5 0)).toNat % (52, 4, true).snd.fst = 0 ∧ regionOf (engOf 9) ((ts3.cx 9).ea (wB 6 5 0)).toNat (52, 4, true).snd.fst = Region.dev ∧ ts3.translate (clOf 9) (ts3.cx 9).rcd ((ts3.cx 9).ea (wB 6 5 0)).toNat false true = (Xlat.fault 1, tr3.snd) ∧ ts3.fus = tr3.snd.fus) :=
  ⟨⟨by simp only [State.issues, State.calm]; decide, Prod.ext ((hbmRead_fst _ _ _ _).trans (by decide)) rfl, ((only_hbmRead (m := allBut 4) _ _ _ (by decide) (Only.refl _ _)).frame .fus (by decide)).symm, by decide⟩,
   ⟨by simp only [State.issues, State.calm]; decide, Prod.ext rfl (hbmWrite_clean _ _ _ _ (by decide)), ((only_hbmWrite (m := allBut 4) _ _ _ (by decide) (Only.refl _ _)).frame .fus (by decide)).symm, by decide⟩,
   ⟨by simp only [State.issues, State.calm]; decide, by unfold State.serviced; decide, by decide⟩⟩

end W12

namespace W13

def eg (op : Nat) (w : BitVec 25) (g : List (Nat × BitVec 64)) (cls := 1) (perm := 63) : State :=
  { own .run with eng := { R.eng with imem := [(9 / 8 * 16384 + 2, BitVec.ofNat 32 (op * 2^25 + w.toNat))], dmem := [(131072 + 16, 0x81), (131072 + 17, 0x92), (131072+24,1)], ctx := [(9, { Ctx.none with st := .running, gen := 2, pc := 8, cls := cls, rcd := { tm0 with perm := perm, cls := cls }, g := g })] } }
def wE (vd va vb rs fn : Nat) : BitVec 25 := BitVec.ofNat 25 (vd * 2^21 + va * 2^17 + vb * 2^13 + rs * 2^8 + fn)
def fl (l : List Nat) : BitVec 256 := BitVec.ofNat 256 (l.foldr (fun x r => r * 2^32 + x) 0)
def va : BitVec 256 := fl [0x3F800000, 0xC0490FDB, 0x7F7FFFFF, 0x00800000, 0x80000001, 0x7F800000, 0x42F6E979, 0xFFFF0000]
def vb : BitVec 256 := fl [0x40000000, 0x3DCCCCCD, 0x7F7FFFFF, 0x80800001, 0x3F800000, 0xFF800000, 0xC2F6E979, 0x12345678]
def vd : BitVec 256 := fl [0x41200000, 0x3DCCCCCD, 0xFF7FFFFF, 0x3F800000, 0x3F800000, 0x00000000, 0x42F6E979, 0x12345678]
def ev (op : Nat) (w : BitVec 25) : State := let s := eg op w [(5,32),(4,7),(6,0xFEDCBA9876543210)]
  { s with eng := { s.eng with ctx := [(9, { s.cx 9 with v := [(1, vd), (2, va), (3, vb)] })], dmem := [(131072 + 32, 0x81), (131072 + 63, 0x92)] } }

/-- States and operands that meet the hypotheses of the clauses of VectorInstructions. -/
theorem witness_VectorInstructions :
    ((ev 85 (wE 1 2 3 0 1)).issues 9 (85 * 2 ^ 25 + (wE 1 2 3 0 1).toNat) ∧ formE (wE 1 2 3 0 1) true true true false = true ∧ fnE (wE 1 2 3 0 1) = 1) ∧
    ((ev 90 (wE 1 2 0 0 0)).issues 9 (90 * 2 ^ 25 + (wE 1 2 0 0 0).toNat) ∧ formE (wE 1 2 0 0 0) true true false false = true ∧ fnE (wE 1 2 0 0 0) % 4 < 3) ∧
    ((ev 90 (wE 1 2 0 0 3)).issues 9 (90 * 2 ^ 25 + (wE 1 2 0 0 3).toNat) ∧ (ev 90 (wE 1 2 0 0 3)).serviced 9 1 ∧ formE (wE 1 2 0 0 3) true true false false = true ∧ fnE (wE 1 2 0 0 3) % 4 = 3) ∧
    ((ev 92 (wE 1 2 0 0 0)).issues 9 (92 * 2 ^ 25 + (wE 1 2 0 0 0).toNat) ∧ formE (wE 1 2 0 0 0) true true false false = true ∧ fnE (wE 1 2 0 0 0) = 0) ∧
    ((ev 91 (wE 0 2 0 7 0)).issues 9 (91 * 2 ^ 25 + (wE 0 2 0 7 0).toNat) ∧ formE (wE 0 2 0 7 0) false true false true = true ∧ (fnE (wE 0 2 0 7 0) = 0 ∧ BitVec.ofInt 64 (List.map (fun (i : Nat) => (BitVec.extractLsb' (32 * i) 32 va).toInt) (List.range 8)).sum = BitVec.ofInt 64 (List.map (fun (i : Nat) => (BitVec.extractLsb' (32 * i) 32 (((ev 91 (wE 0 2 0 7 0)).cx 9).rv (vaOf (wE 0 2 0 7 0)))).toInt) (List.range 8)).sum ∨ fnE (wE 0 2 0 7 0) = 3 ∧ BitVec.ofInt 64 (List.map (fun (i : Nat) => (BitVec.extractLsb' (32 * i) 32 va).toInt) (List.range 8)).sum = BitVec.ofInt 64 (List.map (fun (i : Nat) => (BitVec.extractLsb' (16 * i) 16 (((ev 91 (wE 0 2 0 7 0)).cx 9).rv (vaOf (wE 0 2 0 7 0)))).toInt) (List.range 16)).sum ∨ fnE (wE 0 2 0 7 0) = 1 ∧ (BitVec.ofInt 64 (List.map (fun (i : Nat) => (BitVec.extractLsb' (32 * i) 32 va).toInt) (List.range 8)).sum).toNat = (sumF (List.map (fun (i : Nat) => elF (((ev 91 (wE 0 2 0 7 0)).cx 9).rv (vaOf (wE 0 2 0 7 0))) i) (List.range 8))).bits ∨ fnE (wE 0 2 0 7 0) = 2 ∧ (BitVec.ofInt 64 (List.map (fun (i : Nat) => (BitVec.extractLsb' (32 * i) 32 va).toInt) (List.range 8)).sum).toNat = (sumF (List.map (fun (i : Nat) => elF (((ev 91 (wE 0 2 0 7 0)).cx 9).rv (vaOf (wE 0 2 0 7 0))) (2 * i)) (List.range 4))).bits + (sumF (List.map (fun (i : Nat) => elF (((ev 91 (wE 0 2 0 7 0)).cx 9).rv (vaOf (wE 0 2 0 7 0))) (2 * i + 1)) (List.range 4))).bits * 2 ^ 32)) ∧
    ((ev 93 (wE 1 0 0 6 0)).issues 9 (93 * 2 ^ 25 + (wE 1 0 0 6 0).toNat) ∧ formE (wE 1 0 0 6 0) true false false true = true ∧ fnE (wE 1 0 0 6 0) < 4) ∧
    ((ev 94 (wE 0 2 0 6 112)).issues 9 (94 * 2 ^ 25 + (wE 0 2 0 6 112).toNat) ∧ formE (wE 0 2 0 6 112) false true false true = true ∧ (7 < 8 ∧ fnE (wE 0 2 0 6 112) = 16 * 7 ∧ BitVec.signExtend 64 (BitVec.extractLsb' (32 * 7) 32 va) = BitVec.signExtend 64 (BitVec.extractLsb' (32 * 7) 32 (((ev 94 (wE 0 2 0 6 112)).cx 9).rv (vaOf (wE 0 2 0 6 112)))) ∨ 7 < 8 ∧ fnE (wE 0 2 0 6 112) = 16 * 7 + 1 ∧ BitVec.signExtend 64 (BitVec.extractLsb' (32 * 7) 32 va) = BitVec.setWidth 64 (BitVec.extractLsb' (32 * 7) 32 (((ev 94 (wE 0 2 0 6 112)).cx 9).rv (vaOf (wE 0 2 0 6 112)))) ∨ 7 < 4 ∧ fnE (wE 0 2 0 6 112) = 16 * 7 + 2 ∧ BitVec.signExtend 64 (BitVec.extractLsb' (32 * 7) 32 va) = BitVec.extractLsb' (64 * 7) 64 (((ev 94 (wE 0 2 0 6 112)).cx 9).rv (vaOf (wE 0 2 0 6 112))) ∨ 7 < 16 ∧ fnE (wE 0 2 0 6 112) = 16 * 7 + 3 ∧ BitVec.signExtend 64 (BitVec.extractLsb' (32 * 7) 32 va) = BitVec.signExtend 64 (BitVec.extractLsb' (16 * 7) 16 (((ev 94 (wE 0 2 0 6 112)).cx 9).rv (vaOf (wE 0 2 0 6 112)))))) ∧
    ((ev 80 (wE 1 0 0 5 0)).clean (Mem.dmem 1) 32 32 ∧ (ev 80 (wE 1 0 0 5 0)).issues 9 (80 * 2 ^ 25 + (wE 1 0 0 5 0).toNat) ∧ formE (wE 1 0 0 5 0) true false false true = true ∧ (((ev 80 (wE 1 0 0 5 0)).cx 9).rg (rsE (wE 1 0 0 5 0)) + BitVec.ofNat 64 (32 * fnE (wE 1 0 0 5 0))).toNat % 32 = 0 ∧ regionOf (engOf 9) (((ev 80 (wE 1 0 0 5 0)).cx 9).rg (rsE (wE 1 0 0 5 0)) + BitVec.ofNat 64 (32 * fnE (wE 1 0 0 5 0))).toNat 32 = Region.loc (Mem.dmem 1) 32) ∧
    ((ev 81 (wE 2 0 0 0 1)).clean (Mem.dmem 1) 32 32 ∧ (ev 81 (wE 2 0 0 0 1)).issues 9 (81 * 2 ^ 25 + (wE 2 0 0 0 1).toNat) ∧ formE (wE 2 0 0 0 1) true false false true = true ∧ (((ev 81 (wE 2 0 0 0 1)).cx 9).rg (rsE (wE 2 0 0 0 1)) + BitVec.ofNat 64 (32 * fnE (wE 2 0 0 0 1))).toNat % 32 = 0 ∧ regionOf (engOf 9) (((ev 81 (wE 2 0 0 0 1)).cx 9).rg (rsE (wE 2 0 0 0 1)) + BitVec.ofNat 64 (32 * fnE (wE 2 0 0 0 1))).toNat 32 = Region.loc (Mem.dmem 1) 32 ∧ (leBytes 32 va.toNat).length = 32 ∧ (∀ (i : Nat), i < 32 → (leBytes 32 va.toNat).getD i 0#8 = BitVec.extractLsb' (8 * i) 8 (((ev 81 (wE 2 0 0 0 1)).cx 9).rv (vdOf (wE 2 0 0 0 1))))) :=
  ⟨⟨by simp only [State.issues, State.calm]; decide, by decide⟩,
   ⟨by simp only [State.issues, State.calm]; decide, by decide⟩,
   ⟨by simp only [State.issues, State.calm]; decide, by unfold State.serviced; decide, by decide⟩,
   ⟨by simp only [State.issues, State.calm]; decide, by decide⟩,
   ⟨by simp only [State.issues, State.calm]; decide, by decide⟩,
   ⟨by simp only [State.issues, State.calm]; decide, by decide⟩,
   ⟨by simp only [State.issues, State.calm]; decide, by decide⟩,
   ⟨by unfold State.clean; decide, by simp only [State.issues, State.calm]; decide, by decide⟩,
   ⟨by unfold State.clean; decide, by simp only [State.issues, State.calm]; decide, by decide⟩⟩

end W13

namespace W14

def eg (op : Nat) (w : BitVec 25) (g : List (Nat × BitVec 64)) (cls := 1) (perm := 63) : State :=
  { own .run with eng := { R.eng with imem := [(9 / 8 * 16384 + 2, BitVec.ofNat 32 (op * 2^25 + w.toNat))], dmem := [(131072 + 16, 0x81), (131072 + 17, 0x92), (131072+24,1)], ctx := [(9, { Ctx.none with st := .running, gen := 2, pc := 8, cls := cls, rcd := { tm0 with perm := perm, cls := cls }, g := g })] } }
def wF (rd r1 r2 sub fl : Nat) : BitVec 25 := BitVec.ofNat 25 (rd * 2^20 + r1 * 2^15 + r2 * 2^10 + sub * 2^5 + fl)
def hd (n : Nat) : List HeldTok := List.replicate n { dest := 5, cont := true, value := 6 }
def ex (op : Nat) (w : BitVec 25) (g : List (Nat × BitVec 64)) (f : Ctx → Ctx := id) (h : State → State := id) (cls := 1) : State := let s := eg op w g cls
  h { s with eng := { s.eng with ctx := [(9, f (s.cx 9)), (12, { Ctx.none with st := .awaiting, gen := 3, rcd := tm0 })] } }
def x14_1 : Ctx → Ctx := (fun x => {x with held := hd 16})
def x14_2 : State → State := (fun s => {s with eng := {s.eng with conts := List.replicate 8 (196620, 1, 2)}})
def x14_3 : Ctx → Ctx := (fun x => {x with rcd := {x.rcd with perm := 255}})
def x14_4 : State → State := (fun s => ({s with tsk := {s.tsk with tmpls := [(33, {tm0 with clmask := 1})]}}).setB .TSK_TT_EN 33 true |>.setB .TSK_FB_EN 0 false)
def x14_5 := {tm0 with clmask := 1}
def x14_6 : Ctx → Ctx := (fun x => {x with cont := [(5,6),(7,8)]})
def x14_7 : State → State := (fun s => {s with mod := {s.mod with mode := .drain}})
def x14_8 : Ctx → Ctx := (fun x => {x with held := [{dest := 0x0055000000030000+12, cont := true, value := 6}]})
def x14_9 : State → State := (fun s => {s with eng := {s.eng with tmr := (List.range 64).map fun n => (n, {dest := 0, cont := false, absolute := false, due := 1, period := 0, cls := 0, any := true})}})
def x14_11 : Ctx → Ctx := (fun x => {x with rcd := {x.rcd with perm := 32}})
def x14_12 : Ctx → Ctx := (fun x => {x with bufs := List.range 32})
def x14_14 : State → State := (fun s => {s with swc := {s.swc with bufs := [(5, { owner := ownCtx 9, st := .held, count := 0, insets := 0, bytes := List.replicate 100 7#8, order := 0, pkt := none })]}})
def x14_15 : State → State := (fun s => {s with swc := {s.swc with bufs := [(5, { owner := ownHost 1, st := .held, count := 0, insets := 0, bytes := List.replicate 100 7#8, order := 0, pkt := none })]}})
def x14_16 : Ctx → Ctx := (fun x => {x with bufs := [3,5]})
def x14_17 : State → State := (fun s => (fun s => {s with pkts := (List.range 64).map fun i => Packet.offered i 60 3 1 []}) ((fun s => {s with swc := {s.swc with bufs := [(5, { owner := ownCtx 9, st := .held, count := 0, insets := 0, bytes := List.replicate 100 7#8, order := 0, pkt := none })]}}) s))
def x14_18 : State → State := (fun s => (fun s => {s with pkts := [Packet.offered 30 3 0 0 [], { Packet.offered 31 3 0 0 [] with stage := .parked, buf := some 5, counted := true, tag := some (true, 4) }]}) ((fun s => {s with swc := {s.swc with bufs := [(5, { owner := ownSlow, st := .held, count := 0, insets := 0, bytes := List.replicate 100 7#8, order := 0, pkt := none })]}}) s))
def x14_19 := { Packet.offered 31 3 0 0 [] with stage := .parked, buf := some 5, counted := true, tag := some (true, 4) }
def x14_20 : State → State := (fun s => {s with swc := {s.swc with bufs := [(5, { owner := ownCtx 9, st := .shared, count := 2, insets := 0, bytes := List.replicate 100 7#8, order := 0, pkt := none })]}})

/-- States and operands that meet the hypotheses of the clauses of DeviceInstructions (TokenInstructions). -/
theorem witness_DeviceInstructions_TokenInstructions_1 :
    ((ex 96 (wF 6 3 4 0 0) [(3, 5#64), (4, 77#64)]).issues 9 (96 * 2 ^ 25 + (wF 6 3 4 0 0).toNat) ∧ formF (wF 6 3 4 0 0) true true true 0 3 = true ∧ flOf (wF 6 3 4 0 0) % 2 = 0 ∧ ((ex 96 (wF 6 3 4 0 0) [(3, 5#64), (4, 77#64)]).cx 9).held.length < 16) ∧
    ((ex 96 (wF 6 3 4 0 0) [(3, 5#64), (4, 77#64)] x14_1).issues 9 (96 * 2 ^ 25 + (wF 6 3 4 0 0).toNat) ∧ formF (wF 6 3 4 0 0) true true true 0 3 = true ∧ flOf (wF 6 3 4 0 0) % 2 = 0 ∧ 16 ≤ ((ex 96 (wF 6 3 4 0 0) [(3, 5#64), (4, 77#64)] x14_1).cx 9).held.length) ∧
    ((ex 96 (wF 6 3 4 0 3) [(3, 23925373020602368#64 + 12#64), (4, 77#64)]).issues 9 (96 * 2 ^ 25 + (wF 6 3 4 0 3).toNat) ∧ formF (wF 6 3 4 0 3) true true true 0 3 = true ∧ flOf (wF 6 3 4 0 3) = 3 ∧ (((ex 96 (wF 6 3 4 0 3) [(3, 23925373020602368#64 + 12#64), (4, 77#64)]).cx 9).rg (rs1Of (wF 6 3 4 0 3))).toNat % 2 ^ 32 = 196620 ∧ (ex 96 (wF 6 3 4 0 3) [(3, 23925373020602368#64 + 12#64), (4, 77#64)]).caddrFresh 196620 = true ∧ (ex 96 (wF 6 3 4 0 3) [(3, 23925373020602368#64 + 12#64), (4, 77#64)]).contLoad (caddrCtx 196620) < 8) ∧
    ((ex 96 (wF 6 3 4 0 3) [(3, 23925373020602368#64 + 12#64), (4, 77#64)] id x14_2).issues 9 (96 * 2 ^ 25 + (wF 6 3 4 0 3).toNat) ∧ formF (wF 6 3 4 0 3) true true true 0 3 = true ∧ flOf (wF 6 3 4 0 3) = 3 ∧ (((ex 96 (wF 6 3 4 0 3) [(3, 23925373020602368#64 + 12#64), (4, 77#64)] id x14_2).cx 9).rg (rs1Of (wF 6 3 4 0 3))).toNat % 2 ^ 32 = 196620 ∧ (ex 96 (wF 6 3 4 0 3) [(3, 23925373020602368#64 + 12#64), (4, 77#64)] id x14_2).caddrFresh 196620 = true ∧ 8 ≤ (ex 96 (wF 6 3 4 0 3) [(3, 23925373020602368#64 + 12#64), (4, 77#64)] id x14_2).contLoad (caddrCtx 196620)) ∧
    ((ex 96 (wF 6 3 4 0 1) [(3, 292057776161#64), (4, 77#64)] x14_3 x14_4).issues 9 (96 * 2 ^ 25 + (wF 6 3 4 0 1).toNat) ∧ formF (wF 6 3 4 0 1) true true true 0 3 = true ∧ flOf (wF 6 3 4 0 1) = 1 ∧ (ex 96 (wF 6 3 4 0 1) [(3, 292057776161#64), (4, 77#64)] x14_3 x14_4).tsk.tmpls.find ((((ex 96 (wF 6 3 4 0 1) [(3, 292057776161#64), (4, 77#64)] x14_3 x14_4).cx 9).rg (rs1Of (wF 6 3 4 0 1))).toNat % 16384) = some x14_5 ∧ (ex 96 (wF 6 3 4 0 1) [(3, 292057776161#64), (4, 77#64)] x14_3 x14_4).rb Field.TSK_TT_EN ((((ex 96 (wF 6 3 4 0 1) [(3, 292057776161#64), (4, 77#64)] x14_3 x14_4).cx 9).rg (rs1Of (wF 6 3 4 0 1))).toNat % 16384) = true ∧ (ex 96 (wF 6 3 4 0 1) [(3, 292057776161#64), (4, 77#64)] x14_3 x14_4).mod.mode = Mode.run ∧ (ex 96 (wF 6 3 4 0 1) [(3, 292057776161#64), (4, 77#64)] x14_3 x14_4).boot.srUnit = 0 ∧ emitOk (some ((ex 96 (wF 6 3 4 0 1) [(3, 292057776161#64), (4, 77#64)] x14_3 x14_4).emitterOf 9)) x14_5 = true ∧ x14_5.nopnd ≤ 1 ∧ (ex 96 (wF 6 3 4 0 1) [(3, 292057776161#64), (4, 77#64)] x14_3 x14_4).entryFree x14_5.cls false = true ∧ (ex 96 (wF 6 3 4 0 1) [(3, 292057776161#64), (4, 77#64)] x14_3 x14_4).rb Field.TSK_FB_EN = false) ∧
    ((ex 97 (wF 6 0 0 0 0) [] x14_6).issues 9 (97 * 2 ^ 25 + (wF 6 0 0 0 0).toNat) ∧ rdOf (wF 6 0 0 0 0) % 2 = 0 ∧ (wF 6 0 0 0 0).toNat % 2 ^ 20 = 0 ∧ (ex 97 (wF 6 0 0 0 0) [] x14_6).mod.mode ≠ Mode.drain ∧ ((ex 97 (wF 6 0 0 0 0) [] x14_6).cx 9).cont = [(5, 6#64), (7, 8#64)]) ∧
    ((ex 97 (wF 6 0 0 0 0) [] id fun (s : State) => s.setB Field.TSK_FB_EN 0 false).issues 9 (97 * 2 ^ 25 + (wF 6 0 0 0 0).toNat) ∧ rdOf (wF 6 0 0 0 0) % 2 = 0 ∧ (wF 6 0 0 0 0).toNat % 2 ^ 20 = 0 ∧ (ex 97 (wF 6 0 0 0 0) [] id fun (s : State) => s.setB Field.TSK_FB_EN 0 false).mod.mode ≠ Mode.drain ∧ ((ex 97 (wF 6 0 0 0 0) [] id fun (s : State) => s.setB Field.TSK_FB_EN 0 false).cx 9).cont = [] ∧ (ex 97 (wF 6 0 0 0 0) [] id fun (s : State) => s.setB Field.TSK_FB_EN 0 false).rb Field.TSK_FB_EN = false) ∧
    ((ex 97 (wF 6 0 0 0 0) [] id x14_7).issues 9 (97 * 2 ^ 25 + (wF 6 0 0 0 0).toNat) ∧ (ex 97 (wF 6 0 0 0 0) [] id x14_7).noTransfer 9 ∧ rdOf (wF 6 0 0 0 0) % 2 = 0 ∧ (wF 6 0 0 0 0).toNat % 2 ^ 20 = 0 ∧ (ex 97 (wF 6 0 0 0 0) [] id x14_7).mod.mode = Mode.drain) ∧
    ((ex 98 0#25 [] x14_6).issues 9 (98 * 2 ^ 25 + 0) ∧ 0#25 = 0#25 ∧ ((ex 98 0#25 [] x14_6).mod.mode = Mode.drain ∨ ((ex 98 0#25 [] x14_6).cx 9).held = [])) ∧
    ((ex 98 0#25 [] x14_8).issues 9 (98 * 2 ^ 25 + 0) ∧ 0#25 = 0#25 ∧ (ex 98 0#25 [] x14_8).mod.mode ≠ Mode.drain ∧ ((ex 98 0#25 [] x14_8).cx 9).held = [{ dest := 23925373020602368#64 + 12#64, cont := true, value := 6#64 : HeldTok }] ∧ { dest := 23925373020602368#64 + 12#64, cont := true, value := 6#64 : HeldTok }.cont = true ∧ (ex 98 0#25 [] x14_8).contLoad (caddrCtx ({ dest := 23925373020602368#64 + 12#64, cont := true, value := 6#64 : HeldTok }.dest.toNat % 2 ^ 32)) < 8) :=
  ⟨⟨by simp only [State.issues, State.calm]; decide, by decide⟩,
   ⟨by simp only [State.issues, State.calm]; decide, by decide⟩,
   ⟨by simp only [State.issues, State.calm]; decide, by decide⟩,
   ⟨by simp only [State.issues, State.calm]; decide, by decide⟩,
   ⟨by simp only [State.issues, State.calm]; decide, by decide⟩,
   ⟨by simp only [State.issues, State.calm]; decide, by decide⟩,
   ⟨by simp only [State.issues, State.calm]; decide, by decide⟩,
   ⟨by simp only [State.issues, State.calm]; decide, by simp only [State.noTransfer, State.calm]; decide, by decide⟩,
   ⟨by simp only [State.issues, State.calm]; decide, by decide⟩,
   ⟨by simp only [State.issues, State.calm]; decide, by decide⟩⟩

/-- States and operands that meet the hypotheses of the clauses of DeviceInstructions (TokenInstructions). -/
theorem witness_DeviceInstructions_TokenInstructions_2 :
    ((ex 109 (wF 6 3 4 0 2) [(3, 5#64), (4, 77#64)]).issues 9 (109 * 2 ^ 25 + (wF 6 3 4 0 2).toNat) ∧ formF (wF 6 3 4 0 2) true true true 2 2 = true ∧ (subOf (wF 6 3 4 0 2) = 1 ∨ 0 < (((ex 109 (wF 6 3 4 0 2) [(3, 5#64), (4, 77#64)]).cx 9).rg (rs1Of (wF 6 3 4 0 2))).toNat ∧ (((ex 109 (wF 6 3 4 0 2) [(3, 5#64), (4, 77#64)]).cx 9).rg (rs1Of (wF 6 3 4 0 2))).toNat ≤ 2 ^ 40) ∧ (∃ (n : Nat), n < 64 ∧ (ex 109 (wF 6 3 4 0 2) [(3, 5#64), (4, 77#64)]).eng.tmr.find (clOf 9 * 64 + n) = none)) ∧
    ((ex 109 (wF 6 0 4 2 0) [(3, 5#64), (4, 77#64)]).issues 9 (109 * 2 ^ 25 + (wF 6 0 4 2 0).toNat) ∧ formF (wF 6 0 4 2 0) true true true 2 2 = true ∧ subOf (wF 6 0 4 2 0) ≠ 1 ∧ (((ex 109 (wF 6 0 4 2 0) [(3, 5#64), (4, 77#64)]).cx 9).rg (rs1Of (wF 6 0 4 2 0)) = 0#64 ∨ 2 ^ 40 < (((ex 109 (wF 6 0 4 2 0) [(3, 5#64), (4, 77#64)]).cx 9).rg (rs1Of (wF 6 0 4 2 0))).toNat)) ∧
    ((ex 109 (wF 6 3 4 1 0) [(3, 5#64), (4, 77#64)] id x14_9).issues 9 (109 * 2 ^ 25 + (wF 6 3 4 1 0).toNat) ∧ formF (wF 6 3 4 1 0) true true true 2 2 = true ∧ subOf (wF 6 3 4 1 0) = 1 ∧ (∀ (n : Nat), n < 64 → (ex 109 (wF 6 3 4 1 0) [(3, 5#64), (4, 77#64)] id x14_9).eng.tmr.find (clOf 9 * 64 + n) ≠ none)) ∧
    ((ex 110 (wF 6 3 0 0 0) [(3, 5#64), (4, 77#64)] id x14_9).issues 9 (110 * 2 ^ 25 + (wF 6 3 0 0 0).toNat) ∧ formF (wF 6 3 0 0 0) true true false 0 0 = true) ∧
    ((ex 115 (wF 6 0 0 0 0) []).issues 9 (115 * 2 ^ 25 + (wF 6 0 0 0 0).toNat) ∧ formF (wF 6 0 0 0 0) true false false 7 0 = true ∧ (subOf (wF 6 0 0 0 0), 9) ∈ [(0, 9), (1, (ex 115 (wF 6 0 0 0 0) []).nowNs), (4, 9 + ((ex 115 (wF 6 0 0 0 0) []).cx 9).gen * 65536), (5, (ex 115 (wF 6 0 0 0 0) []).refNext), (6, (ex 115 (wF 6 0 0 0 0) []).engClkEff (clOf 9)), (7, ((ex 115 (wF 6 0 0 0 0) []).cx 9).rcd.asid)]) ∧
    ((ex 115 (wF 6 0 0 2 0) []).issues 9 (115 * 2 ^ 25 + (wF 6 0 0 2 0).toNat) ∧ formF (wF 6 0 0 2 0) true false false 7 0 = true ∧ (subOf (wF 6 0 0 2 0) = 2 ∨ subOf (wF 6 0 0 2 0) = 3)) ∧
    ((ex 115 (wF 6 0 0 8 0) []).issues 9 (115 * 2 ^ 25 + (wF 6 0 0 8 0).toNat) ∧ (ex 115 (wF 6 0 0 8 0) []).serviced 9 1 ∧ 8 ≤ subOf (wF 6 0 0 8 0)) ∧
    ((ex 116 0#25 []).issues 9 (116 * 2 ^ 25 + 0) ∧ 0#25 = 0#25) ∧
    ((ex 117 (wF 0 0 0 31 0) []).issues 9 (117 * 2 ^ 25 + (wF 0 0 0 31 0).toNat) ∧ (ex 117 (wF 0 0 0 31 0) []).serviced 9 9 ∧ formF (wF 0 0 0 31 0) false false false 31 0 = true) ∧
    ((ex 0 0#25 []).issues 9 0 ∧ (ex 0 0#25 []).serviced 9 1 ∧ opDefined (0 / 2 ^ 25) = false) :=
  ⟨⟨by simp only [State.issues, State.calm]; decide, by decide⟩,
   ⟨by simp only [State.issues, State.calm]; decide, by decide⟩,
   ⟨by simp only [State.issues, State.calm]; decide, by decide⟩,
   ⟨by simp only [State.issues, State.calm]; decide, by decide⟩,
   ⟨by simp only [State.issues, State.calm]; decide, by decide⟩,
   ⟨by simp only [State.issues, State.calm]; decide, by decide⟩,
   ⟨by simp only [State.issues, State.calm]; decide, by unfold State.serviced; decide, by decide⟩,
   ⟨by simp only [State.issues, State.calm]; decide, by decide⟩,
   ⟨by simp only [State.issues, State.calm]; decide, by unfold State.serviced; decide, by decide⟩,
   ⟨by simp only [State.issues, State.calm]; decide, by unfold State.serviced; decide, by decide⟩⟩

/-- States and operands that meet the hypotheses of the clauses of DeviceInstructions (BufferInstructions). -/
theorem witness_DeviceInstructions_BufferInstructions_1 :
    ((ex 99 (wF 6 3 0 0 0) []).issues 9 (99 * 2 ^ 25 + (wF 6 3 0 0 0).toNat) ∧ (((ex 99 (wF 6 3 0 0 0) []).cx 9).rg (rs1Of (wF 6 3 0 0 0))).toNat % 2 ^ 20 = 0 ∧ formF (wF 6 3 0 0 0) true true false 7 1 = true ∧ ((((ex 99 (wF 6 3 0 0 0) []).cx 9).rg (rs1Of (wF 6 3 0 0 0))).toNat % 2 ^ 14 = 0 ∨ (ex 99 (wF 6 3 0 0 0) []).poolSize 3 < (((ex 99 (wF 6 3 0 0 0) []).cx 9).rg (rs1Of (wF 6 3 0 0 0))).toNat % 2 ^ 14)) ∧
    ((ex 99 (wF 6 3 0 7 0) [(3, 100#64)] x14_11).issues 9 (99 * 2 ^ 25 + (wF 6 3 0 7 0).toNat) ∧ (ex 99 (wF 6 3 0 7 0) [(3, 100#64)] x14_11).serviced 9 5 ∧ (((ex 99 (wF 6 3 0 7 0) [(3, 100#64)] x14_11).cx 9).rg (rs1Of (wF 6 3 0 7 0))).toNat % 2 ^ 20 = 100 ∧ formF (wF 6 3 0 7 0) true true false 7 1 = true ∧ 0 < (((ex 99 (wF 6 3 0 7 0) [(3, 100#64)] x14_11).cx 9).rg (rs1Of (wF 6 3 0 7 0))).toNat % 2 ^ 14 ∧ (((ex 99 (wF 6 3 0 7 0) [(3, 100#64)] x14_11).cx 9).rg (rs1Of (wF 6 3 0 7 0))).toNat % 2 ^ 14 ≤ (ex 99 (wF 6 3 0 7 0) [(3, 100#64)] x14_11).poolSize 3 ∧ 6 ≤ subOf (wF 6 3 0 7 0) ∧ bitOf ((ex 99 (wF 6 3 0 7 0) [(3, 100#64)] x14_11).cx 9).rcd.perm 0 = false) ∧
    ((ex 99 (wF 6 3 0 7 0) [(3, 100#64)] x14_12).issues 9 (99 * 2 ^ 25 + (wF 6 3 0 7 0).toNat) ∧ (((ex 99 (wF 6 3 0 7 0) [(3, 100#64)] x14_12).cx 9).rg (rs1Of (wF 6 3 0 7 0))).toNat % 2 ^ 20 = 100 ∧ formF (wF 6 3 0 7 0) true true false 7 1 = true ∧ 0 < (((ex 99 (wF 6 3 0 7 0) [(3, 100#64)] x14_12).cx 9).rg (rs1Of (wF 6 3 0 7 0))).toNat % 2 ^ 14 ∧ (((ex 99 (wF 6 3 0 7 0) [(3, 100#64)] x14_12).cx 9).rg (rs1Of (wF 6 3 0 7 0))).toNat % 2 ^ 14 ≤ (ex 99 (wF 6 3 0 7 0) [(3, 100#64)] x14_12).poolSize 3 ∧ (subOf (wF 6 3 0 7 0) < 6 ∨ bitOf ((ex 99 (wF 6 3 0 7 0) [(3, 100#64)] x14_12).cx 9).rcd.perm 0 = true) ∧ 32 ≤ ((ex 99 (wF 6 3 0 7 0) [(3, 100#64)] x14_12).cx 9).bufs.length) ∧
    ((ex 99 (wF 6 3 0 7 0) [(3, 100#64)]).issues 9 (99 * 2 ^ 25 + (wF 6 3 0 7 0).toNat) ∧ (((ex 99 (wF 6 3 0 7 0) [(3, 100#64)]).cx 9).rg (rs1Of (wF 6 3 0 7 0))).toNat % 2 ^ 20 = 100 ∧ formF (wF 6 3 0 7 0) true true false 7 1 = true ∧ 0 < (((ex 99 (wF 6 3 0 7 0) [(3, 100#64)]).cx 9).rg (rs1Of (wF 6 3 0 7 0))).toNat % 2 ^ 14 ∧ (((ex 99 (wF 6 3 0 7 0) [(3, 100#64)]).cx 9).rg (rs1Of (wF 6 3 0 7 0))).toNat % 2 ^ 14 ≤ (ex 99 (wF 6 3 0 7 0) [(3, 100#64)]).poolSize 3 ∧ (subOf (wF 6 3 0 7 0) < 6 ∨ bitOf ((ex 99 (wF 6 3 0 7 0) [(3, 100#64)]).cx 9).rcd.perm 0 = true) ∧ ((ex 99 (wF 6 3 0 7 0) [(3, 100#64)]).cx 9).bufs.length < 32) ∧
    ((ex 100 (wF 6 3 4 0 0) [(3, 5#64 + 3#64 * 2#64 ^ 20 + 10#64 * 2#64 ^ 34), (4, 20#64)] id x14_14).clean (Mem.dmem 1) 20 10 ∧ (ex 100 (wF 6 3 4 0 0) [(3, 5#64 + 3#64 * 2#64 ^ 20 + 10#64 * 2#64 ^ 34), (4, 20#64)] id x14_14).issues 9 (100 * 2 ^ 25 + (wF 6 3 4 0 0).toNat) ∧ (((ex 100 (wF 6 3 4 0 0) [(3, 5#64 + 3#64 * 2#64 ^ 20 + 10#64 * 2#64 ^ 34), (4, 20#64)] id x14_14).cx 9).rg (rs1Of (wF 6 3 4 0 0))).toNat % 2 ^ 20 = 5 ∧ formF (wF 6 3 4 0 0) true true true 0 0 = true ∧ bitsOf (((ex 100 (wF 6 3 4 0 0) [(3, 5#64 + 3#64 * 2#64 ^ 20 + 10#64 * 2#64 ^ 34), (4, 20#64)] id x14_14).cx 9).rg (rs1Of (wF 6 3 4 0 0))).toNat 33 20 = 3 ∧ bitsOf (((ex 100 (wF 6 3 4 0 0) [(3, 5#64 + 3#64 * 2#64 ^ 20 + 10#64 * 2#64 ^ 34), (4, 20#64)] id x14_14).cx 9).rg (rs1Of (wF 6 3 4 0 0))).toNat 47 34 = 10 ∧ 0 < 10 ∧ regionOf (engOf 9) (((ex 100 (wF 6 3 4 0 0) [(3, 5#64 + 3#64 * 2#64 ^ 20 + 10#64 * 2#64 ^ 34), (4, 20#64)] id x14_14).cx 9).rg (rs2Of (wF 6 3 4 0 0))).toNat 10 = Region.loc (Mem.dmem 1) 20 ∧ 3 + 10 ≤ (ex 100 (wF 6 3 4 0 0) [(3, 5#64 + 3#64 * 2#64 ^ 20 + 10#64 * 2#64 ^ 34), (4, 20#64)] id x14_14).poolSize (poolOf 5) ∧ (ex 100 (wF 6 3 4 0 0) [(3, 5#64 + 3#64 * 2#64 ^ 20 + 10#64 * 2#64 ^ 34), (4, 20#64)] id x14_14).buf 5 = some { owner := ownCtx 9, st := BufSt.held, count := 0, insets := 0, bytes := List.replicate 100 7#8, order := 0, pkt := none : Buf } ∧ (ex 100 (wF 6 3 4 0 0) [(3, 5#64 + 3#64 * 2#64 ^ 20 + 10#64 * 2#64 ^ 34), (4, 20#64)] id x14_14).heldBy 9 5 = true ∧ 3 + 10 ≤ { owner := ownCtx 9, st := BufSt.held, count := 0, insets := 0, bytes := List.replicate 100 7#8, order := 0, pkt := none : Buf }.bytes.length) :=
  ⟨⟨by simp only [State.issues, State.calm]; decide, by decide⟩,
   ⟨by simp only [State.issues, State.calm]; decide, by unfold State.serviced; decide, by decide⟩,
   ⟨by simp only [State.issues, State.calm]; decide, by decide⟩,
   ⟨by simp only [State.issues, State.calm]; decide, by decide⟩,
   ⟨by unfold State.clean; decide, by simp only [State.issues, State.calm]; decide, by decide⟩⟩

/-- States and operands that meet the hypotheses of the clauses of DeviceInstructions (BufferInstructions). -/
theorem witness_DeviceInstructions_BufferInstructions_2 :
    ((ex 101 (wF 6 3 4 0 0) [(3, 5#64 + 3#64 * 2#64 ^ 20 + 10#64 * 2#64 ^ 34), (4, 20#64)] id x14_14).clean (Mem.dmem 1) 20 10 ∧ (ex 101 (wF 6 3 4 0 0) [(3, 5#64 + 3#64 * 2#64 ^ 20 + 10#64 * 2#64 ^ 34), (4, 20#64)] id x14_14).issues 9 (101 * 2 ^ 25 + (wF 6 3 4 0 0).toNat) ∧ (((ex 101 (wF 6 3 4 0 0) [(3, 5#64 + 3#64 * 2#64 ^ 20 + 10#64 * 2#64 ^ 34), (4, 20#64)] id x14_14).cx 9).rg (rs1Of (wF 6 3 4 0 0))).toNat % 2 ^ 20 = 5 ∧ formF (wF 6 3 4 0 0) true true true 0 0 = true ∧ bitsOf (((ex 101 (wF 6 3 4 0 0) [(3, 5#64 + 3#64 * 2#64 ^ 20 + 10#64 * 2#64 ^ 34), (4, 20#64)] id x14_14).cx 9).rg (rs1Of (wF 6 3 4 0 0))).toNat 33 20 = 3 ∧ bitsOf (((ex 101 (wF 6 3 4 0 0) [(3, 5#64 + 3#64 * 2#64 ^ 20 + 10#64 * 2#64 ^ 34), (4, 20#64)] id x14_14).cx 9).rg (rs1Of (wF 6 3 4 0 0))).toNat 47 34 = 10 ∧ 0 < 10 ∧ regionOf (engOf 9) (((ex 101 (wF 6 3 4 0 0) [(3, 5#64 + 3#64 * 2#64 ^ 20 + 10#64 * 2#64 ^ 34), (4, 20#64)] id x14_14).cx 9).rg (rs2Of (wF 6 3 4 0 0))).toNat 10 = Region.loc (Mem.dmem 1) 20 ∧ 3 + 10 ≤ (ex 101 (wF 6 3 4 0 0) [(3, 5#64 + 3#64 * 2#64 ^ 20 + 10#64 * 2#64 ^ 34), (4, 20#64)] id x14_14).poolSize (poolOf 5) ∧ (ex 101 (wF 6 3 4 0 0) [(3, 5#64 + 3#64 * 2#64 ^ 20 + 10#64 * 2#64 ^ 34), (4, 20#64)] id x14_14).buf 5 = some { owner := ownCtx 9, st := BufSt.held, count := 0, insets := 0, bytes := List.replicate 100 7#8, order := 0, pkt := none : Buf } ∧ (ex 101 (wF 6 3 4 0 0) [(3, 5#64 + 3#64 * 2#64 ^ 20 + 10#64 * 2#64 ^ 34), (4, 20#64)] id x14_14).heldBy 9 5 = true ∧ 3 ≤ { owner := ownCtx 9, st := BufSt.held, count := 0, insets := 0, bytes := List.replicate 100 7#8, order := 0, pkt := none : Buf }.bytes.length) ∧
    ((ex 100 (wF 6 3 4 0 0) [(3, 5#64 + 3#64 * 2#64 ^ 20 + 10#64 * 2#64 ^ 34), (4, 20#64)] id x14_15).serviced 9 6 ∧ (ex 100 (wF 6 3 4 0 0) [(3, 5#64 + 3#64 * 2#64 ^ 20 + 10#64 * 2#64 ^ 34), (4, 20#64)] id x14_15).issues 9 (100 * 2 ^ 25 + (wF 6 3 4 0 0).toNat) ∧ (((ex 100 (wF 6 3 4 0 0) [(3, 5#64 + 3#64 * 2#64 ^ 20 + 10#64 * 2#64 ^ 34), (4, 20#64)] id x14_15).cx 9).rg (rs1Of (wF 6 3 4 0 0))).toNat % 2 ^ 20 = 5 ∧ formF (wF 6 3 4 0 0) true true true 0 0 = true ∧ bitsOf (((ex 100 (wF 6 3 4 0 0) [(3, 5#64 + 3#64 * 2#64 ^ 20 + 10#64 * 2#64 ^ 34), (4, 20#64)] id x14_15).cx 9).rg (rs1Of (wF 6 3 4 0 0))).toNat 33 20 = 3 ∧ bitsOf (((ex 100 (wF 6 3 4 0 0) [(3, 5#64 + 3#64 * 2#64 ^ 20 + 10#64 * 2#64 ^ 34), (4, 20#64)] id x14_15).cx 9).rg (rs1Of (wF 6 3 4 0 0))).toNat 47 34 = 10 ∧ 0 < 10 ∧ regionOf (engOf 9) (((ex 100 (wF 6 3 4 0 0) [(3, 5#64 + 3#64 * 2#64 ^ 20 + 10#64 * 2#64 ^ 34), (4, 20#64)] id x14_15).cx 9).rg (rs2Of (wF 6 3 4 0 0))).toNat 10 = Region.loc (Mem.dmem 1) 20 ∧ 3 + 10 ≤ (ex 100 (wF 6 3 4 0 0) [(3, 5#64 + 3#64 * 2#64 ^ 20 + 10#64 * 2#64 ^ 34), (4, 20#64)] id x14_15).poolSize (poolOf 5) ∧ (ex 100 (wF 6 3 4 0 0) [(3, 5#64 + 3#64 * 2#64 ^ 20 + 10#64 * 2#64 ^ 34), (4, 20#64)] id x14_15).buf 5 = some { owner := ownHost 1, st := BufSt.held, count := 0, insets := 0, bytes := List.replicate 100 7#8, order := 0, pkt := none : Buf } ∧ (ex 100 (wF 6 3 4 0 0) [(3, 5#64 + 3#64 * 2#64 ^ 20 + 10#64 * 2#64 ^ 34), (4, 20#64)] id x14_15).heldBy 9 5 = false ∧ ¬5 ∈ ((ex 100 (wF 6 3 4 0 0) [(3, 5#64 + 3#64 * 2#64 ^ 20 + 10#64 * 2#64 ^ 34), (4, 20#64)] id x14_15).cx 9).bufs) :=
  ⟨⟨by unfold State.clean; decide, by simp only [State.issues, State.calm]; decide, by decide⟩,
   ⟨by unfold State.serviced; decide, by simp only [State.issues, State.calm]; decide, by decide⟩⟩

/-- States and operands that meet the hypotheses of the clauses of DeviceInstructions (BufferInstructions). -/
theorem witness_DeviceInstructions_BufferInstructions_3 :
    ((ex 102 (wF 6 3 4 0 0) [(3, 5#64 + 10#64 * 2#64 ^ 20 + 1#64 * 2#64 ^ 34 + 3#64 * 2#64 ^ 35)] id x14_14).issues 9 (102 * 2 ^ 25 + (wF 6 3 4 0 0).toNat) ∧ (((ex 102 (wF 6 3 4 0 0) [(3, 5#64 + 10#64 * 2#64 ^ 20 + 1#64 * 2#64 ^ 34 + 3#64 * 2#64 ^ 35)] id x14_14).cx 9).rg (rs1Of (wF 6 3 4 0 0))).toNat % 2 ^ 20 = 5 ∧ formF (wF 6 3 4 0 0) true true true 0 0 = true ∧ bitsOf (((ex 102 (wF 6 3 4 0 0) [(3, 5#64 + 10#64 * 2#64 ^ 20 + 1#64 * 2#64 ^ 34 + 3#64 * 2#64 ^ 35)] id x14_14).cx 9).rg (rs1Of (wF 6 3 4 0 0))).toNat 33 20 = 10 ∧ bitsOf (((ex 102 (wF 6 3 4 0 0) [(3, 5#64 + 10#64 * 2#64 ^ 20 + 1#64 * 2#64 ^ 34 + 3#64 * 2#64 ^ 35)] id x14_14).cx 9).rg (rs1Of (wF 6 3 4 0 0))).toNat 34 34 = 1 ∧ (ex 102 (wF 6 3 4 0 0) [(3, 5#64 + 10#64 * 2#64 ^ 20 + 1#64 * 2#64 ^ 34 + 3#64 * 2#64 ^ 35)] id x14_14).heldBy 9 5 = true ∧ (ex 102 (wF 6 3 4 0 0) [(3, 5#64 + 10#64 * 2#64 ^ 20 + 1#64 * 2#64 ^ 34 + 3#64 * 2#64 ^ 35)] id x14_14).buf 5 = some { owner := ownCtx 9, st := BufSt.held, count := 0, insets := 0, bytes := List.replicate 100 7#8, order := 0, pkt := none : Buf } ∧ (bitsOf (((ex 102 (wF 6 3 4 0 0) [(3, 5#64 + 10#64 * 2#64 ^ 20 + 1#64 * 2#64 ^ 34 + 3#64 * 2#64 ^ 35)] id x14_14).cx 9).rg (rs1Of (wF 6 3 4 0 0))).toNat 37 35 < 6 ∨ bitOf ((ex 102 (wF 6 3 4 0 0) [(3, 5#64 + 10#64 * 2#64 ^ 20 + 1#64 * 2#64 ^ 34 + 3#64 * 2#64 ^ 35)] id x14_14).cx 9).rcd.perm 0 = true) ∧ (10 < 60 ∨ (ex 102 (wF 6 3 4 0 0) [(3, 5#64 + 10#64 * 2#64 ^ 20 + 1#64 * 2#64 ^ 34 + 3#64 * 2#64 ^ 35)] id x14_14).poolSize (poolOf 5) < 10)) ∧
    ((ex 102 (wF 6 3 4 0 0) [(3, 5#64 + 64#64 * 2#64 ^ 20 + 1#64 * 2#64 ^ 34 + 3#64 * 2#64 ^ 35)] x14_16 x14_14).issues 9 (102 * 2 ^ 25 + (wF 6 3 4 0 0).toNat) ∧ (((ex 102 (wF 6 3 4 0 0) [(3, 5#64 + 64#64 * 2#64 ^ 20 + 1#64 * 2#64 ^ 34 + 3#64 * 2#64 ^ 35)] x14_16 x14_14).cx 9).rg (rs1Of (wF 6 3 4 0 0))).toNat % 2 ^ 20 = 5 ∧ formF (wF 6 3 4 0 0) true true true 0 0 = true ∧ bitsOf (((ex 102 (wF 6 3 4 0 0) [(3, 5#64 + 64#64 * 2#64 ^ 20 + 1#64 * 2#64 ^ 34 + 3#64 * 2#64 ^ 35)] x14_16 x14_14).cx 9).rg (rs1Of (wF 6 3 4 0 0))).toNat 33 20 = 64 ∧ bitsOf (((ex 102 (wF 6 3 4 0 0) [(3, 5#64 + 64#64 * 2#64 ^ 20 + 1#64 * 2#64 ^ 34 + 3#64 * 2#64 ^ 35)] x14_16 x14_14).cx 9).rg (rs1Of (wF 6 3 4 0 0))).toNat 34 34 = 1 ∧ (ex 102 (wF 6 3 4 0 0) [(3, 5#64 + 64#64 * 2#64 ^ 20 + 1#64 * 2#64 ^ 34 + 3#64 * 2#64 ^ 35)] x14_16 x14_14).heldBy 9 5 = true ∧ (ex 102 (wF 6 3 4 0 0) [(3, 5#64 + 64#64 * 2#64 ^ 20 + 1#64 * 2#64 ^ 34 + 3#64 * 2#64 ^ 35)] x14_16 x14_14).buf 5 = some { owner := ownCtx 9, st := BufSt.held, count := 0, insets := 0, bytes := List.replicate 100 7#8, order := 0, pkt := none : Buf } ∧ (bitsOf (((ex 102 (wF 6 3 4 0 0) [(3, 5#64 + 64#64 * 2#64 ^ 20 + 1#64 * 2#64 ^ 34 + 3#64 * 2#64 ^ 35)] x14_16 x14_14).cx 9).rg (rs1Of (wF 6 3 4 0 0))).toNat 37 35 < 6 ∨ bitOf ((ex 102 (wF 6 3 4 0 0) [(3, 5#64 + 64#64 * 2#64 ^ 20 + 1#64 * 2#64 ^ 34 + 3#64 * 2#64 ^ 35)] x14_16 x14_14).cx 9).rcd.perm 0 = true) ∧ 60 ≤ 64 ∧ 64 ≤ (ex 102 (wF 6 3 4 0 0) [(3, 5#64 + 64#64 * 2#64 ^ 20 + 1#64 * 2#64 ^ 34 + 3#64 * 2#64 ^ 35)] x14_16 x14_14).poolSize (poolOf 5) ∧ (ex 102 (wF 6 3 4 0 0) [(3, 5#64 + 64#64 * 2#64 ^ 20 + 1#64 * 2#64 ^ 34 + 3#64 * 2#64 ^ 35)] x14_16 x14_14).queuedAt 60 1 < 64 ∧ 64 ≤ { owner := ownCtx 9, st := BufSt.held, count := 0, insets := 0, bytes := List.replicate 100 7#8, order := 0, pkt := none : Buf }.bytes.length ∧ bitOf (((ex 102 (wF 6 3 4 0 0) [(3, 5#64 + 64#64 * 2#64 ^ 20 + 1#64 * 2#64 ^ 34 + 3#64 * 2#64 ^ 35)] x14_16 x14_14).cx 9).rg (rs1Of (wF 6 3 4 0 0))).toNat 39 = false) :=
  ⟨⟨by simp only [State.issues, State.calm]; decide, by decide⟩,
   ⟨by simp only [State.issues, State.calm]; decide, by decide⟩⟩

/-- States and operands that meet the hypotheses of the clauses of DeviceInstructions (BufferInstructions). -/
theorem witness_DeviceInstructions_BufferInstructions_4 :
    ((ex 102 (wF 6 3 4 0 0) [(3, 5#64 + 64#64 * 2#64 ^ 20 + 1#64 * 2#64 ^ 34 + 3#64 * 2#64 ^ 35)] id x14_17).issues 9 (102 * 2 ^ 25 + (wF 6 3 4 0 0).toNat) ∧ (((ex 102 (wF 6 3 4 0 0) [(3, 5#64 + 64#64 * 2#64 ^ 20 + 1#64 * 2#64 ^ 34 + 3#64 * 2#64 ^ 35)] id x14_17).cx 9).rg (rs1Of (wF 6 3 4 0 0))).toNat % 2 ^ 20 = 5 ∧ formF (wF 6 3 4 0 0) true true true 0 0 = true ∧ bitsOf (((ex 102 (wF 6 3 4 0 0) [(3, 5#64 + 64#64 * 2#64 ^ 20 + 1#64 * 2#64 ^ 34 + 3#64 * 2#64 ^ 35)] id x14_17).cx 9).rg (rs1Of (wF 6 3 4 0 0))).toNat 33 20 = 64 ∧ bitsOf (((ex 102 (wF 6 3 4 0 0) [(3, 5#64 + 64#64 * 2#64 ^ 20 + 1#64 * 2#64 ^ 34 + 3#64 * 2#64 ^ 35)] id x14_17).cx 9).rg (rs1Of (wF 6 3 4 0 0))).toNat 34 34 = 1 ∧ (ex 102 (wF 6 3 4 0 0) [(3, 5#64 + 64#64 * 2#64 ^ 20 + 1#64 * 2#64 ^ 34 + 3#64 * 2#64 ^ 35)] id x14_17).heldBy 9 5 = true ∧ (ex 102 (wF 6 3 4 0 0) [(3, 5#64 + 64#64 * 2#64 ^ 20 + 1#64 * 2#64 ^ 34 + 3#64 * 2#64 ^ 35)] id x14_17).buf 5 = some { owner := ownCtx 9, st := BufSt.held, count := 0, insets := 0, bytes := List.replicate 100 7#8, order := 0, pkt := none : Buf } ∧ (bitsOf (((ex 102 (wF 6 3 4 0 0) [(3, 5#64 + 64#64 * 2#64 ^ 20 + 1#64 * 2#64 ^ 34 + 3#64 * 2#64 ^ 35)] id x14_17).cx 9).rg (rs1Of (wF 6 3 4 0 0))).toNat 37 35 < 6 ∨ bitOf ((ex 102 (wF 6 3 4 0 0) [(3, 5#64 + 64#64 * 2#64 ^ 20 + 1#64 * 2#64 ^ 34 + 3#64 * 2#64 ^ 35)] id x14_17).cx 9).rcd.perm 0 = true) ∧ 60 ≤ 64 ∧ 64 ≤ (ex 102 (wF 6 3 4 0 0) [(3, 5#64 + 64#64 * 2#64 ^ 20 + 1#64 * 2#64 ^ 34 + 3#64 * 2#64 ^ 35)] id x14_17).poolSize (poolOf 5) ∧ 64 ≤ (ex 102 (wF 6 3 4 0 0) [(3, 5#64 + 64#64 * 2#64 ^ 20 + 1#64 * 2#64 ^ 34 + 3#64 * 2#64 ^ 35)] id x14_17).queuedAt 60 1) ∧
    ((ex 102 (wF 6 3 4 0 0) [(3, 5#64 + 64#64 * 2#64 ^ 20 + 1#64 * 2#64 ^ 34 + 3#64 * 2#64 ^ 35)] id x14_15).issues 9 (102 * 2 ^ 25 + (wF 6 3 4 0 0).toNat) ∧ (ex 102 (wF 6 3 4 0 0) [(3, 5#64 + 64#64 * 2#64 ^ 20 + 1#64 * 2#64 ^ 34 + 3#64 * 2#64 ^ 35)] id x14_15).serviced 9 6 ∧ (((ex 102 (wF 6 3 4 0 0) [(3, 5#64 + 64#64 * 2#64 ^ 20 + 1#64 * 2#64 ^ 34 + 3#64 * 2#64 ^ 35)] id x14_15).cx 9).rg (rs1Of (wF 6 3 4 0 0))).toNat % 2 ^ 20 = 5 ∧ formF (wF 6 3 4 0 0) true true true 0 0 = true ∧ bitsOf (((ex 102 (wF 6 3 4 0 0) [(3, 5#64 + 64#64 * 2#64 ^ 20 + 1#64 * 2#64 ^ 34 + 3#64 * 2#64 ^ 35)] id x14_15).cx 9).rg (rs1Of (wF 6 3 4 0 0))).toNat 33 20 = 64 ∧ bitsOf (((ex 102 (wF 6 3 4 0 0) [(3, 5#64 + 64#64 * 2#64 ^ 20 + 1#64 * 2#64 ^ 34 + 3#64 * 2#64 ^ 35)] id x14_15).cx 9).rg (rs1Of (wF 6 3 4 0 0))).toNat 34 34 = 1 ∧ (ex 102 (wF 6 3 4 0 0) [(3, 5#64 + 64#64 * 2#64 ^ 20 + 1#64 * 2#64 ^ 34 + 3#64 * 2#64 ^ 35)] id x14_15).heldBy 9 5 = false) ∧
    ((ex 102 (wF 6 3 4 0 0) [(3, 5#64 + 64#64 * 2#64 ^ 20 + 1#64 * 2#64 ^ 34 + 7#64 * 2#64 ^ 35)] x14_11 x14_14).issues 9 (102 * 2 ^ 25 + (wF 6 3 4 0 0).toNat) ∧ (ex 102 (wF 6 3 4 0 0) [(3, 5#64 + 64#64 * 2#64 ^ 20 + 1#64 * 2#64 ^ 34 + 7#64 * 2#64 ^ 35)] x14_11 x14_14).serviced 9 5 ∧ (((ex 102 (wF 6 3 4 0 0) [(3, 5#64 + 64#64 * 2#64 ^ 20 + 1#64 * 2#64 ^ 34 + 7#64 * 2#64 ^ 35)] x14_11 x14_14).cx 9).rg (rs1Of (wF 6 3 4 0 0))).toNat % 2 ^ 20 = 5 ∧ formF (wF 6 3 4 0 0) true true true 0 0 = true ∧ bitsOf (((ex 102 (wF 6 3 4 0 0) [(3, 5#64 + 64#64 * 2#64 ^ 20 + 1#64 * 2#64 ^ 34 + 7#64 * 2#64 ^ 35)] x14_11 x14_14).cx 9).rg (rs1Of (wF 6 3 4 0 0))).toNat 33 20 = 64 ∧ bitsOf (((ex 102 (wF 6 3 4 0 0) [(3, 5#64 + 64#64 * 2#64 ^ 20 + 1#64 * 2#64 ^ 34 + 7#64 * 2#64 ^ 35)] x14_11 x14_14).cx 9).rg (rs1Of (wF 6 3 4 0 0))).toNat 34 34 = 1 ∧ (ex 102 (wF 6 3 4 0 0) [(3, 5#64 + 64#64 * 2#64 ^ 20 + 1#64 * 2#64 ^ 34 + 7#64 * 2#64 ^ 35)] x14_11 x14_14).heldBy 9 5 = true ∧ 6 ≤ bitsOf (((ex 102 (wF 6 3 4 0 0) [(3, 5#64 + 64#64 * 2#64 ^ 20 + 1#64 * 2#64 ^ 34 + 7#64 * 2#64 ^ 35)] x14_11 x14_14).cx 9).rg (rs1Of (wF 6 3 4 0 0))).toNat 37 35 ∧ bitOf ((ex 102 (wF 6 3 4 0 0) [(3, 5#64 + 64#64 * 2#64 ^ 20 + 1#64 * 2#64 ^ 34 + 7#64 * 2#64 ^ 35)] x14_11 x14_14).cx 9).rcd.perm 0 = false) :=
  ⟨⟨by simp only [State.issues, State.calm]; decide, by decide⟩,
   ⟨by simp only [State.issues, State.calm]; decide, by unfold State.serviced; decide, by decide⟩,
   ⟨by simp only [State.issues, State.calm]; decide, by unfold State.serviced; decide, by decide⟩⟩

/-- States and operands that meet the hypotheses of the clauses of DeviceInstructions (BufferInstructions). -/
theorem witness_DeviceInstructions_BufferInstructions_5 :
    ((ex 103 (wF 6 3 0 0 0) [(3, 1048581#64)] id x14_18).issues 9 (103 * 2 ^ 25 + (wF 6 3 0 0 0).toNat) ∧ (((ex 103 (wF 6 3 0 0 0) [(3, 1048581#64)] id x14_18).cx 9).rg (rs1Of (wF 6 3 0 0 0))).toNat % 2 ^ 20 = 5 ∧ formF (wF 6 3 0 0 0) true true false 0 0 = true ∧ (ex 103 (wF 6 3 0 0 0) [(3, 1048581#64)] id x14_18).buf 5 = some { owner := ownSlow, st := BufSt.held, count := 0, insets := 0, bytes := List.replicate 100 7#8, order := 0, pkt := none : Buf } ∧ { owner := ownSlow, st := BufSt.held, count := 0, insets := 0, bytes := List.replicate 100 7#8, order := 0, pkt := none : Buf }.st = BufSt.held ∧ { owner := ownSlow, st := BufSt.held, count := 0, insets := 0, bytes := List.replicate 100 7#8, order := 0, pkt := none : Buf }.owner = ownSlow ∧ (ex 103 (wF 6 3 0 0 0) [(3, 1048581#64)] id x14_18).parkedPkt 5 = some x14_19 ∧ (ex 103 (wF 6 3 0 0 0) [(3, 1048581#64)] id x14_18).queuedAt 60 (bitsOf (((ex 103 (wF 6 3 0 0 0) [(3, 1048581#64)] id x14_18).cx 9).rg (rs1Of (wF 6 3 0 0 0))).toNat 20 20) < 64) ∧
    ((ex 104 (wF 6 3 0 0 0) [(3, 1048581#64)] id x14_18).issues 9 (104 * 2 ^ 25 + (wF 6 3 0 0 0).toNat) ∧ (((ex 104 (wF 6 3 0 0 0) [(3, 1048581#64)] id x14_18).cx 9).rg (rs1Of (wF 6 3 0 0 0))).toNat % 2 ^ 20 = 5 ∧ formF (wF 6 3 0 0 0) true true false 0 0 = true ∧ (ex 104 (wF 6 3 0 0 0) [(3, 1048581#64)] id x14_18).buf 5 = some { owner := ownSlow, st := BufSt.held, count := 0, insets := 0, bytes := List.replicate 100 7#8, order := 0, pkt := none : Buf } ∧ { owner := ownSlow, st := BufSt.held, count := 0, insets := 0, bytes := List.replicate 100 7#8, order := 0, pkt := none : Buf }.st = BufSt.held ∧ { owner := ownSlow, st := BufSt.held, count := 0, insets := 0, bytes := List.replicate 100 7#8, order := 0, pkt := none : Buf }.owner = ownSlow ∧ (ex 104 (wF 6 3 0 0 0) [(3, 1048581#64)] id x14_18).parkedPkt 5 = some x14_19) ∧
    ((ex 105 (wF 6 3 0 0 0) [(3, 1048581#64)] id x14_14).issues 9 (105 * 2 ^ 25 + (wF 6 3 0 0 0).toNat) ∧ (((ex 105 (wF 6 3 0 0 0) [(3, 1048581#64)] id x14_14).cx 9).rg (rs1Of (wF 6 3 0 0 0))).toNat % 2 ^ 20 = 5 ∧ formF (wF 6 3 0 0 0) true true false 0 0 = true ∧ (ex 105 (wF 6 3 0 0 0) [(3, 1048581#64)] id x14_14).buf 5 = some { owner := ownCtx 9, st := BufSt.held, count := 0, insets := 0, bytes := List.replicate 100 7#8, order := 0, pkt := none : Buf } ∧ { owner := ownCtx 9, st := BufSt.held, count := 0, insets := 0, bytes := List.replicate 100 7#8, order := 0, pkt := none : Buf }.owner = ownCtx 9 ∧ { owner := ownCtx 9, st := BufSt.held, count := 0, insets := 0, bytes := List.replicate 100 7#8, order := 0, pkt := none : Buf }.st = BufSt.held) ∧
    ((ex 106 (wF 6 3 0 0 0) [(3, 1048581#64)] id x14_20).issues 9 (106 * 2 ^ 25 + (wF 6 3 0 0 0).toNat) ∧ (((ex 106 (wF 6 3 0 0 0) [(3, 1048581#64)] id x14_20).cx 9).rg (rs1Of (wF 6 3 0 0 0))).toNat % 2 ^ 20 = 5 ∧ formF (wF 6 3 0 0 0) true true false 0 0 = true ∧ (ex 106 (wF 6 3 0 0 0) [(3, 1048581#64)] id x14_20).buf 5 = some { owner := ownCtx 9, st := BufSt.shared, count := 2, insets := 0, bytes := List.replicate 100 7#8, order := 0, pkt := none : Buf } ∧ { owner := ownCtx 9, st := BufSt.shared, count := 2, insets := 0, bytes := List.replicate 100 7#8, order := 0, pkt := none : Buf }.st ≠ BufSt.held ∧ 0 < { owner := ownCtx 9, st := BufSt.shared, count := 2, insets := 0, bytes := List.replicate 100 7#8, order := 0, pkt := none : Buf }.count) ∧
    ((ex 103 (wF 6 3 0 0 0) [(3, 1048581#64)]).serviced 9 6 ∧ (ex 103 (wF 6 3 0 0 0) [(3, 1048581#64)]).issues 9 (103 * 2 ^ 25 + (wF 6 3 0 0 0).toNat) ∧ (((ex 103 (wF 6 3 0 0 0) [(3, 1048581#64)]).cx 9).rg (rs1Of (wF 6 3 0 0 0))).toNat % 2 ^ 20 = 5 ∧ formF (wF 6 3 0 0 0) true true false 0 0 = true ∧ (ex 103 (wF 6 3 0 0 0) [(3, 1048581#64)]).buf 5 = none ∧ (ex 103 (wF 6 3 0 0 0) [(3, 1048581#64)]).queuedAt 60 (bitsOf (((ex 103 (wF 6 3 0 0 0) [(3, 1048581#64)]).cx 9).rg (rs1Of (wF 6 3 0 0 0))).toNat 20 20) < 64) :=
  ⟨⟨by simp only [State.issues, State.calm]; decide, by decide⟩,
   ⟨by simp only [State.issues, State.calm]; decide, by decide⟩,
   ⟨by simp only [State.issues, State.calm]; decide, by decide⟩,
   ⟨by simp only [State.issues, State.calm]; decide, by decide⟩,
   ⟨by unfold State.serviced; decide, by simp only [State.issues, State.calm]; decide, by decide⟩⟩

end W14

namespace W15

def eg (op : Nat) (w : BitVec 25) (g : List (Nat × BitVec 64)) (cls := 1) (perm := 63) : State :=
  { own .run with eng := { R.eng with imem := [(9 / 8 * 16384 + 2, BitVec.ofNat 32 (op * 2^25 + w.toNat))], dmem := [(131072 + 16, 0x81), (131072 + 17, 0x92), (131072+24,1)], ctx := [(9, { Ctx.none with st := .running, gen := 2, pc := 8, cls := cls, rcd := { tm0 with perm := perm, cls := cls }, g := g })] } }
def wF (rd r1 r2 sub fl : Nat) : BitVec 25 := BitVec.ofNat 25 (rd * 2^20 + r1 * 2^15 + r2 * 2^10 + sub * 2^5 + fl)
def ex (op : Nat) (w : BitVec 25) (g : List (Nat × BitVec 64)) (f : Ctx → Ctx := id) (h : State → State := id) (cls := 1) : State := let s := eg op w g cls
  h { s with eng := { s.eng with ctx := [(9, f (s.cx 9)), (12, { Ctx.none with st := .awaiting, gen := 3, rcd := tm0 })] } }
def KS (alg : Nat) : KeySlot := { alg := alg, key := [1,2,3], salt := 0, ctr := 5, tagLen := 16, sign := true, verify := true, locked := false, warned := false }
def x15_1 : State → State := (fun s => {s with aut := {s.aut with slots := [(3, KS 3)]}, eng := {s.eng with dmem := [(131072+64,2),(131072+66,3),(131072+68,16),(131072+70,77),(131072+73,1),(131072+88,20),(131072+92,1)]}})
def x15_2 : State → State := (fun s => {s with aut := {s.aut with slots := [(3, KS 3)]}, eng := {s.eng with dmem := [(131072+64,2),(131072+66,9),(131072+68,16),(131072+70,77),(131072+73,1),(131072+88,20)]}})
def x15_3 : State → State := (fun s => {s with aut := {s.aut with slots := [(3, KS 3)]}, eng := {s.eng with dmem := [(131072+64,2),(131072+66,3),(131072+68,16),(131072+70,77),(131072+73,1),(131072+88,20)]}})
def x15_5 : Ctx → Ctx := (fun x => {x with cls := 0})
def x15_6 : State → State := (fun s => (fun s => {s with aut := {s.aut with slots := [(3, KS 3)]}, eng := {s.eng with dmem := [(131072+76,136),(131072+77,184),(131072+79,1),(131072+81,31),(131072+86,97),(131072+87,130),(131072+89,19),(131072+90,129),(131072+91,1),(131072+92,10),(131072+93,132),(131072+94,8),(131072+103,133),(131072+104,1),(131072+105,1),(131072+106,134),(131072+107,1)]}}) (s.setB .SAU_PUB_EN 5 true))
def x15_8 : State → State := (fun s => {s with aut := {s.aut with slots := [(3, KS 3)]}, eng := {s.eng with dmem := [(131072+64,1),(131072+68,100),(131072+73,2),(131072+81,4),(131072+82,32)]}})
def x15_9 := { tm0 with perm := 63, cls := 1 }
def x15_10 : State → State := (fun s => (fun s => {s with mmu := {s.mmu with dmas := List.replicate 64 { tmpl := 0, ttag := 0, cl := 0, seq := 0, ctx := 9, gen := 2, cls := 1, rcd := { tm0 with perm := 63, cls := 1 }, desc := 64, op := 1, notify := false, order := false, tag := 0, len := 100, src := 0x200, dst := 0x200400, sk := 0, dk := 0, done := 0, st := .queued, va := 0, cause := 0, port := 0 }}}) ((fun s => {s with aut := {s.aut with slots := [(3, KS 3)]}, eng := {s.eng with dmem := [(131072+64,1),(131072+68,100),(131072+73,2),(131072+81,4),(131072+82,32)]}}) s))
def x15_11 : State → State := (fun s => {s with mmu := {s.mmu with dmas := List.replicate 64 { tmpl := 0, ttag := 0, cl := 0, seq := 0, ctx := 9, gen := 2, cls := 1, rcd := { tm0 with perm := 63, cls := 1 }, desc := 64, op := 1, notify := false, order := false, tag := 0, len := 100, src := 0x200, dst := 0x200400, sk := 0, dk := 0, done := 0, st := .queued, va := 0, cause := 0, port := 0 }}})
def x15_12 : State → State := (fun s => {s with mmu := {s.mmu with dmas := [{ tmpl := 0, ttag := 0, cl := 0, seq := 0, ctx := 9, gen := 2, cls := 1, rcd := { tm0 with perm := 63, cls := 1 }, desc := 64, op := 1, notify := false, order := false, tag := 0, len := 100, src := 0x200, dst := 0x200400, sk := 0, dk := 0, done := 0, st := .fault, va := 0, cause := 0, port := 0 }]}})
def x15_13 : State → State := (fun s => {s with mmu := {s.mmu with outs := [(0,[(7,3,100)])]}})
def x15_14 : Ctx → Ctx := (fun x => {x with rcd := {x.rcd with perm := 32}})
def RW := (match ((ex 114 (wF 6 3 4 0 0) [(3,262164),(4,9)] (fun x => {x with rcd := {x.rcd with perm := 255}}) (id) 1)).regWrite (.engine 9) 262164 9 with | .next u => u | _ => (ex 114 (wF 6 3 4 0 0) [(3,262164),(4,9)] (fun x => {x with rcd := {x.rcd with perm := 255}}) (id) 1))
def x15_15 : Ctx → Ctx := (fun x => {x with rcd := {x.rcd with perm := 255}})
def x15_16 : Ctx → Ctx := (fun x => {x with rcd := {x.rcd with perm := 8}})

/-- States and operands that meet the hypotheses of the clauses of DeviceInstructions (UnitInstructions). -/
theorem witness_DeviceInstructions_UnitInstructions_1 :
    ((ex 107 (wF 6 3 0 0 0) [(3, 67#64), (4, 0#64)]).issues 9 (107 * 2 ^ 25 + (wF 6 3 0 0 0).toNat) ∧ (ex 107 (wF 6 3 0 0 0) [(3, 67#64), (4, 0#64)]).serviced 9 2 ∧ (((ex 107 (wF 6 3 0 0 0) [(3, 67#64), (4, 0#64)]).cx 9).rg (rs1Of (wF 6 3 0 0 0))).toNat = 67 ∧ formF (wF 6 3 0 0 0) true true false 0 1 = true ∧ 67 % 8 ≠ 0) ∧
    ((ex 107 (wF 6 3 0 0 0) [(3, 131072#64), (4, 0#64)]).issues 9 (107 * 2 ^ 25 + (wF 6 3 0 0 0).toNat) ∧ (ex 107 (wF 6 3 0 0 0) [(3, 131072#64), (4, 0#64)]).serviced 9 3 ∧ (((ex 107 (wF 6 3 0 0 0) [(3, 131072#64), (4, 0#64)]).cx 9).rg (rs1Of (wF 6 3 0 0 0))).toNat = 131072 ∧ formF (wF 6 3 0 0 0) true true false 0 1 = true ∧ 131072 % 8 = 0 ∧ 131072 < 131072 + 32) ∧
    ((ex 107 (wF 6 3 0 0 0) [(3, 64#64), (4, 0#64)] id x15_1).issues 9 (107 * 2 ^ 25 + (wF 6 3 0 0 0).toNat) ∧ (ex 107 (wF 6 3 0 0 0) [(3, 64#64), (4, 0#64)] id x15_1).clean (Mem.dmem (engOf 9)) 64 32 ∧ (((ex 107 (wF 6 3 0 0 0) [(3, 64#64), (4, 0#64)] id x15_1).cx 9).rg (rs1Of (wF 6 3 0 0 0))).toNat = 64 ∧ formF (wF 6 3 0 0 0) true true false 0 1 = true ∧ 64 % 8 = 0 ∧ 64 + 32 ≤ 131072 ∧ ([2#8, 0#8, 3#8, 0#8, 16#8, 0#8, 77#8, 0#8, 0#8, 1#8] ++ List.replicate 14 0#8 ++ [20#8, 0#8, 0#8, 0#8, 1#8, 0#8, 0#8, 0#8]).length = 32 ∧ (∀ (i : Nat), i < 32 → ([2#8, 0#8, 3#8, 0#8, 16#8, 0#8, 77#8, 0#8, 0#8, 1#8] ++ List.replicate 14 0#8 ++ [20#8, 0#8, 0#8, 0#8, 1#8, 0#8, 0#8, 0#8]).getD i 0#8 = (ex 107 (wF 6 3 0 0 0) [(3, 64#64), (4, 0#64)] id x15_1).memByte (Mem.dmem (engOf 9)) (64 + i)) ∧ (leNat (List.take 3 (List.drop 28 ([2#8, 0#8, 3#8, 0#8, 16#8, 0#8, 77#8, 0#8, 0#8, 1#8] ++ List.replicate 14 0#8 ++ [20#8, 0#8, 0#8, 0#8, 1#8, 0#8, 0#8, 0#8]))) ≠ 0 ∨ 4 ≤ leNat (List.take 1 (List.drop 31 ([2#8, 0#8, 3#8, 0#8, 16#8, 0#8, 77#8, 0#8, 0#8, 1#8] ++ List.replicate 14 0#8 ++ [20#8, 0#8, 0#8, 0#8, 1#8, 0#8, 0#8, 0#8]))))) ∧
    ((ex 107 (wF 6 3 0 0 0) [(3, 64#64), (4, 0#64)] id x15_2).issues 9 (107 * 2 ^ 25 + (wF 6 3 0 0 0).toNat) ∧ (ex 107 (wF 6 3 0 0 0) [(3, 64#64), (4, 0#64)] id x15_2).clean (Mem.dmem (engOf 9)) 64 32 ∧ (((ex 107 (wF 6 3 0 0 0) [(3, 64#64), (4, 0#64)] id x15_2).cx 9).rg (rs1Of (wF 6 3 0 0 0))).toNat = 64 ∧ formF (wF 6 3 0 0 0) true true false 0 1 = true ∧ 64 % 8 = 0 ∧ 64 + 32 ≤ 131072 ∧ ([2#8, 0#8, 9#8, 0#8, 16#8, 0#8, 77#8, 0#8, 0#8, 1#8] ++ List.replicate 14 0#8 ++ [20#8] ++ List.replicate 7 0#8).length = 32 ∧ (∀ (i : Nat), i < 32 → ([2#8, 0#8, 9#8, 0#8, 16#8, 0#8, 77#8, 0#8, 0#8, 1#8] ++ List.replicate 14 0#8 ++ [20#8] ++ List.replicate 7 0#8).getD i 0#8 = (ex 107 (wF 6 3 0 0 0) [(3, 64#64), (4, 0#64)] id x15_2).memByte (Mem.dmem (engOf 9)) (64 + i)) ∧ leNat (List.take 3 (List.drop 28 ([2#8, 0#8, 9#8, 0#8, 16#8, 0#8, 77#8, 0#8, 0#8, 1#8] ++ List.replicate 14 0#8 ++ [20#8] ++ List.replicate 7 0#8))) = 0 ∧ leNat (List.take 1 (List.drop 31 ([2#8, 0#8, 9#8, 0#8, 16#8, 0#8, 77#8, 0#8, 0#8, 1#8] ++ List.replicate 14 0#8 ++ [20#8] ++ List.replicate 7 0#8))) < 4 ∧ ((ex 107 (wF 6 3 0 0 0) [(3, 64#64), (4, 0#64)] id x15_2).authStart 9 ([2#8, 0#8, 9#8, 0#8, 16#8, 0#8, 77#8, 0#8, 0#8, 1#8] ++ List.replicate 14 0#8 ++ [20#8] ++ List.replicate 7 0#8)).fst =   Sum.inr     (match ((ex 107 (wF 6 3 0 0 0) [(3, 64#64), (4, 0#64)] id x15_2).authStart 9 ([2#8, 0#8, 9#8, 0#8, 16#8, 0#8, 77#8, 0#8, 0#8, 1#8] ++ List.replicate 14 0#8 ++ [20#8] ++ List.replicate 7 0#8)).fst with       | Sum.inl val => Ev.GLB_I_MODE       | Sum.inr (e, c) => e,       0) ∧ 0 ≠ 8) :=
  ⟨⟨by simp only [State.issues, State.calm]; decide, by unfold State.serviced; decide, by decide⟩,
   ⟨by simp only [State.issues, State.calm]; decide, by unfold State.serviced; decide, by decide⟩,
   ⟨by simp only [State.issues, State.calm]; decide, by unfold State.clean; decide, by decide⟩,
   ⟨by simp only [State.issues, State.calm]; decide, by unfold State.clean; decide, by decide⟩⟩

/-- States and operands that meet the hypotheses of the clauses of DeviceInstructions (UnitInstructions). -/
theorem witness_DeviceInstructions_UnitInstructions_2 :
    ((ex 107 (wF 6 3 0 0 0) [(3, 64#64), (4, 0#64)] id x15_3).issues 9 (107 * 2 ^ 25 + (wF 6 3 0 0 0).toNat) ∧ (ex 107 (wF 6 3 0 0 0) [(3, 64#64), (4, 0#64)] id x15_3).clean (Mem.dmem (engOf 9)) 64 32 ∧ (((ex 107 (wF 6 3 0 0 0) [(3, 64#64), (4, 0#64)] id x15_3).cx 9).rg (rs1Of (wF 6 3 0 0 0))).toNat = 64 ∧ formF (wF 6 3 0 0 0) true true false 0 1 = true ∧ 64 % 8 = 0 ∧ 64 + 32 ≤ 131072 ∧ ([2#8, 0#8, 3#8, 0#8, 16#8, 0#8, 77#8, 0#8, 0#8, 1#8] ++ List.replicate 14 0#8 ++ [20#8] ++ List.replicate 7 0#8).length = 32 ∧ (∀ (i : Nat), i < 32 → ([2#8, 0#8, 3#8, 0#8, 16#8, 0#8, 77#8, 0#8, 0#8, 1#8] ++ List.replicate 14 0#8 ++ [20#8] ++ List.replicate 7 0#8).getD i 0#8 = (ex 107 (wF 6 3 0 0 0) [(3, 64#64), (4, 0#64)] id x15_3).memByte (Mem.dmem (engOf 9)) (64 + i)) ∧ leNat (List.take 3 (List.drop 28 ([2#8, 0#8, 3#8, 0#8, 16#8, 0#8, 77#8, 0#8, 0#8, 1#8] ++ List.replicate 14 0#8 ++ [20#8] ++ List.replicate 7 0#8))) = 0 ∧ leNat (List.take 1 (List.drop 31 ([2#8, 0#8, 3#8, 0#8, 16#8, 0#8, 77#8, 0#8, 0#8, 1#8] ++ List.replicate 14 0#8 ++ [20#8] ++ List.replicate 7 0#8))) < 4 ∧ ((ex 107 (wF 6 3 0 0 0) [(3, 64#64), (4, 0#64)] id x15_3).authStart 9 ([2#8, 0#8, 3#8, 0#8, 16#8, 0#8, 77#8, 0#8, 0#8, 1#8] ++ List.replicate 14 0#8 ++ [20#8] ++ List.replicate 7 0#8)).fst = Sum.inl (KS 3) ∧ (ex 107 (wF 6 3 0 0 0) [(3, 64#64), (4, 0#64)] id x15_3).nextLane = none) ∧
    ((ex 108 (wF 6 3 4 0 0) [(3, 262149#64), (4, 64#64)]).issues 9 (108 * 2 ^ 25 + (wF 6 3 4 0 0).toNat) ∧ (ex 108 (wF 6 3 4 0 0) [(3, 262149#64), (4, 64#64)]).clean (Mem.dmem 1) 64 (bitsOf 262149 25 16) ∧ (((ex 108 (wF 6 3 4 0 0) [(3, 262149#64), (4, 64#64)]).cx 9).rg (rs1Of (wF 6 3 4 0 0))).toNat = 262149 ∧ formF (wF 6 3 4 0 0) true true true 0 0 = true ∧ (((ex 108 (wF 6 3 4 0 0) [(3, 262149#64), (4, 64#64)]).cx 9).rg (rs2Of (wF 6 3 4 0 0))).toNat % 8 = 0 ∧ regionOf (engOf 9) (((ex 108 (wF 6 3 4 0 0) [(3, 262149#64), (4, 64#64)]).cx 9).rg (rs2Of (wF 6 3 4 0 0))).toNat (bitsOf 262149 25 16) = Region.loc (Mem.dmem 1) 64 ∧ [0#8, 0#8, 0#8, 0#8].length = bitsOf 262149 25 16 ∧ (∀ (i : Nat), i < [0#8, 0#8, 0#8, 0#8].length → [0#8, 0#8, 0#8, 0#8].getD i 0#8 = (ex 108 (wF 6 3 4 0 0) [(3, 262149#64), (4, 64#64)]).memByte (Mem.dmem 1) (64 + i)) ∧ (ex 108 (wF 6 3 4 0 0) [(3, 262149#64), (4, 64#64)]).pubCause (262149 % 1024) ((ex 108 (wF 6 3 4 0 0) [(3, 262149#64), (4, 64#64)]).cx 9).tmpl ((ex 108 (wF 6 3 4 0 0) [(3, 262149#64), (4, 64#64)]).cx 9).cls [0#8, 0#8, 0#8, 0#8] ≠ 0) ∧
    ((ex 108 (wF 6 3 4 0 0) [(3, 2949125#64), (4, 64#64)] x15_5 x15_6).issues 9 (108 * 2 ^ 25 + (wF 6 3 4 0 0).toNat) ∧ (ex 108 (wF 6 3 4 0 0) [(3, 2949125#64), (4, 64#64)] x15_5 x15_6).clean (Mem.dmem 1) 64 (bitsOf 2949125 25 16) ∧ (((ex 108 (wF 6 3 4 0 0) [(3, 2949125#64), (4, 64#64)] x15_5 x15_6).cx 9).rg (rs1Of (wF 6 3 4 0 0))).toNat = 2949125 ∧ formF (wF 6 3 4 0 0) true true true 0 0 = true ∧ (((ex 108 (wF 6 3 4 0 0) [(3, 2949125#64), (4, 64#64)] x15_5 x15_6).cx 9).rg (rs2Of (wF 6 3 4 0 0))).toNat % 8 = 0 ∧ regionOf (engOf 9) (((ex 108 (wF 6 3 4 0 0) [(3, 2949125#64), (4, 64#64)] x15_5 x15_6).cx 9).rg (rs2Of (wF 6 3 4 0 0))).toNat (bitsOf 2949125 25 16) = Region.loc (Mem.dmem 1) 64 ∧ (List.replicate 12 0#8 ++ [136#8, 184#8, 0#8, 1#8, 0#8, 31#8, 0#8, 0#8, 0#8, 0#8, 97#8, 130#8, 0#8, 19#8, 129#8, 1#8, 10#8, 132#8, 8#8] ++ List.replicate 8 0#8 ++ [133#8, 1#8, 1#8, 134#8, 1#8, 0#8]).length = bitsOf 2949125 25 16 ∧ (∀ (i : Nat), i < (List.replicate 12 0#8 ++ [136#8, 184#8, 0#8, 1#8, 0#8, 31#8, 0#8, 0#8, 0#8, 0#8, 97#8, 130#8, 0#8, 19#8, 129#8, 1#8, 10#8, 132#8, 8#8] ++ List.replicate 8 0#8 ++ [133#8, 1#8, 1#8, 134#8, 1#8, 0#8]).length → (List.replicate 12 0#8 ++ [136#8, 184#8, 0#8, 1#8, 0#8, 31#8, 0#8, 0#8, 0#8, 0#8, 97#8, 130#8, 0#8, 19#8, 129#8, 1#8, 10#8, 132#8, 8#8] ++ List.replicate 8 0#8 ++ [133#8, 1#8, 1#8, 134#8, 1#8, 0#8]).getD i 0#8 = (ex 108 (wF 6 3 4 0 0) [(3, 2949125#64), (4, 64#64)] x15_5 x15_6).memByte (Mem.dmem 1) (64 + i)) ∧ (ex 108 (wF 6 3 4 0 0) [(3, 2949125#64), (4, 64#64)] x15_5 x15_6).pubCause (2949125 % 1024) ((ex 108 (wF 6 3 4 0 0) [(3, 2949125#64), (4, 64#64)] x15_5 x15_6).cx 9).tmpl ((ex 108 (wF 6 3 4 0 0) [(3, 2949125#64), (4, 64#64)] x15_5 x15_6).cx 9).cls (List.replicate 12 0#8 ++ [136#8, 184#8, 0#8, 1#8, 0#8, 31#8, 0#8, 0#8, 0#8, 0#8, 97#8, 130#8, 0#8, 19#8, 129#8, 1#8, 10#8, 132#8, 8#8] ++ List.replicate 8 0#8 ++ [133#8, 1#8, 1#8, 134#8, 1#8, 0#8]) = 0) :=
  ⟨⟨by simp only [State.issues, State.calm]; decide, by unfold State.clean; decide, by decide⟩,
   ⟨by simp only [State.issues, State.calm]; decide, by unfold State.clean; decide, by decide⟩,
   ⟨by simp only [State.issues, State.calm]; decide, by unfold State.clean; decide, by decide⟩⟩

/-- States and operands that meet the hypotheses of the clauses of DeviceInstructions (UnitInstructions). -/
theorem witness_DeviceInstructions_UnitInstructions_3 :
    ((ex 108 (wF 6 3 4 0 0) [(3, 5#64), (4, 63#64)]).issues 9 (108 * 2 ^ 25 + (wF 6 3 4 0 0).toNat) ∧ (ex 108 (wF 6 3 4 0 0) [(3, 5#64), (4, 63#64)]).serviced 9 2 ∧ (((ex 108 (wF 6 3 4 0 0) [(3, 5#64), (4, 63#64)]).cx 9).rg (rs1Of (wF 6 3 4 0 0))).toNat = 5 ∧ formF (wF 6 3 4 0 0) true true true 0 0 = true ∧ (((ex 108 (wF 6 3 4 0 0) [(3, 5#64), (4, 63#64)]).cx 9).rg (rs2Of (wF 6 3 4 0 0))).toNat % 8 ≠ 0) ∧
    ((ex 111 (wF 6 3 0 0 0) [(3, 63#64), (4, 0#64)]).issues 9 (111 * 2 ^ 25 + (wF 6 3 0 0 0).toNat) ∧ (ex 111 (wF 6 3 0 0 0) [(3, 63#64), (4, 0#64)]).serviced 9 2 ∧ (((ex 111 (wF 6 3 0 0 0) [(3, 63#64), (4, 0#64)]).cx 9).rg (rs1Of (wF 6 3 0 0 0))).toNat = 63 ∧ formF (wF 6 3 0 0 0) true true false 0 0 = true ∧ 63 % 8 ≠ 0) ∧
    ((ex 111 (wF 6 3 0 0 0) [(3, 64#64), (4, 0#64)]).issues 9 (111 * 2 ^ 25 + (wF 6 3 0 0 0).toNat) ∧ (ex 111 (wF 6 3 0 0 0) [(3, 64#64), (4, 0#64)]).clean (Mem.dmem (engOf 9)) 64 64 ∧ (((ex 111 (wF 6 3 0 0 0) [(3, 64#64), (4, 0#64)]).cx 9).rg (rs1Of (wF 6 3 0 0 0))).toNat = 64 ∧ formF (wF 6 3 0 0 0) true true false 0 0 = true ∧ 64 % 8 = 0 ∧ 64 + 64 ≤ 131072 ∧ (List.replicate 64 0#8).length = 64 ∧ (∀ (i : Nat), i < 64 → (List.replicate 64 0#8).getD i 0#8 = (ex 111 (wF 6 3 0 0 0) [(3, 64#64), (4, 0#64)]).memByte (Mem.dmem (engOf 9)) (64 + i)) ∧ (ex 111 (wF 6 3 0 0 0) [(3, 64#64), (4, 0#64)]).readDesc 9 64 (List.replicate 64 0#8) = none) ∧
    ((ex 111 (wF 6 3 0 0 0) [(3, 64#64), (4, 0#64)] id x15_8).issues 9 (111 * 2 ^ 25 + (wF 6 3 0 0 0).toNat) ∧ (ex 111 (wF 6 3 0 0 0) [(3, 64#64), (4, 0#64)] id x15_8).clean (Mem.dmem (engOf 9)) 64 64 ∧ (((ex 111 (wF 6 3 0 0 0) [(3, 64#64), (4, 0#64)] id x15_8).cx 9).rg (rs1Of (wF 6 3 0 0 0))).toNat = 64 ∧ formF (wF 6 3 0 0 0) true true false 0 0 = true ∧ 64 % 8 = 0 ∧ 64 + 64 ≤ 131072 ∧ ([1#8, 0#8, 0#8, 0#8, 100#8, 0#8, 0#8, 0#8, 0#8, 2#8] ++ List.replicate 7 0#8 ++ [4#8, 32#8] ++ List.replicate 45 0#8).length = 64 ∧ (∀ (i : Nat), i < 64 → ([1#8, 0#8, 0#8, 0#8, 100#8, 0#8, 0#8, 0#8, 0#8, 2#8] ++ List.replicate 7 0#8 ++ [4#8, 32#8] ++ List.replicate 45 0#8).getD i 0#8 = (ex 111 (wF 6 3 0 0 0) [(3, 64#64), (4, 0#64)] id x15_8).memByte (Mem.dmem (engOf 9)) (64 + i)) ∧ (ex 111 (wF 6 3 0 0 0) [(3, 64#64), (4, 0#64)] id x15_8).readDesc 9 64 ([1#8, 0#8, 0#8, 0#8, 100#8, 0#8, 0#8, 0#8, 0#8, 2#8] ++ List.replicate 7 0#8 ++ [4#8, 32#8] ++ List.replicate 45 0#8) = some { cl := 0, seq := 0, ctx := 9, gen := 2, cls := 1, rcd := x15_9, tmpl := 0, ttag := 0, desc := 64, op := 1, notify := false, order := false, tag := 0, len := 100, src := 512, dst := 2098176, sk := 0, dk := 0, done := 0, st := DmaSt.queued, va := 0, cause := 0, port := 0 : Dma } ∧ ({ cl := 0, seq := 0, ctx := 9, gen := 2, cls := 1, rcd := x15_9, tmpl := 0, ttag := 0, desc := 64, op := 1, notify := false, order := false, tag := 0, len := 100, src := 512, dst := 2098176, sk := 0, dk := 0, done := 0, st := DmaSt.queued, va := 0, cause := 0, port := 0 : Dma }.sk = 2 → (ex 111 (wF 6 3 0 0 0) [(3, 64#64), (4, 0#64)] id x15_8).heldBy 9 ({ cl := 0, seq := 0, ctx := 9, gen := 2, cls := 1, rcd := x15_9, tmpl := 0, ttag := 0, desc := 64, op := 1, notify := false, order := false, tag := 0, len := 100, src := 512, dst := 2098176, sk := 0, dk := 0, done := 0, st := DmaSt.queued, va := 0, cause := 0, port := 0 : Dma }.src % 2 ^ 20) = true) ∧ ({ cl := 0, seq := 0, ctx := 9, gen := 2, cls := 1, rcd := x15_9, tmpl := 0, ttag := 0, desc := 64, op := 1, notify := false, order := false, tag := 0, len := 100, src := 512, dst := 2098176, sk := 0, dk := 0, done := 0, st := DmaSt.queued, va := 0, cause := 0, port := 0 : Dma }.dk = 2 → (ex 111 (wF 6 3 0 0 0) [(3, 64#64), (4, 0#64)] id x15_8).heldBy 9 ({ cl := 0, seq := 0, ctx := 9, gen := 2, cls := 1, rcd := x15_9, tmpl := 0, ttag := 0, desc := 64, op := 1, notify := false, order := false, tag := 0, len := 100, src := 512, dst := 2098176, sk := 0, dk := 0, done := 0, st := DmaSt.queued, va := 0, cause := 0, port := 0 : Dma }.dst % 2 ^ 20) = true) ∧ (List.filter (fun (y : Dma) => y.cl == clOf 9 && (y.st == DmaSt.queued || y.st == DmaSt.running)) (ex 111 (wF 6 3 0 0 0) [(3, 64#64), (4, 0#64)] id x15_8).mmu.dmas).length < 64) :=
  ⟨⟨by simp only [State.issues, State.calm]; decide, by unfold State.serviced; decide, by decide⟩,
   ⟨by simp only [State.issues, State.calm]; decide, by unfold State.serviced; decide, by decide⟩,
   ⟨by simp only [State.issues, State.calm]; decide, by unfold State.clean; decide, by decide⟩,
   ⟨by simp only [State.issues, State.calm]; decide, by unfold State.clean; decide, by decide⟩⟩

/-- States and operands that meet the hypotheses of the clauses of DeviceInstructions (UnitInstructions). -/
theorem witness_DeviceInstructions_UnitInstructions_4 :
    ((ex 111 (wF 6 3 0 0 0) [(3, 64#64), (4, 0#64)] id x15_10).issues 9 (111 * 2 ^ 25 + (wF 6 3 0 0 0).toNat) ∧ (ex 111 (wF 6 3 0 0 0) [(3, 64#64), (4, 0#64)] id x15_10).clean (Mem.dmem (engOf 9)) 64 64 ∧ (((ex 111 (wF 6 3 0 0 0) [(3, 64#64), (4, 0#64)] id x15_10).cx 9).rg (rs1Of (wF 6 3 0 0 0))).toNat = 64 ∧ formF (wF 6 3 0 0 0) true true false 0 0 = true ∧ 64 % 8 = 0 ∧ 64 + 64 ≤ 131072 ∧ ([1#8, 0#8, 0#8, 0#8, 100#8, 0#8, 0#8, 0#8, 0#8, 2#8] ++ List.replicate 7 0#8 ++ [4#8, 32#8] ++ List.replicate 45 0#8).length = 64 ∧ (∀ (i : Nat), i < 64 → ([1#8, 0#8, 0#8, 0#8, 100#8, 0#8, 0#8, 0#8, 0#8, 2#8] ++ List.replicate 7 0#8 ++ [4#8, 32#8] ++ List.replicate 45 0#8).getD i 0#8 = (ex 111 (wF 6 3 0 0 0) [(3, 64#64), (4, 0#64)] id x15_10).memByte (Mem.dmem (engOf 9)) (64 + i)) ∧ (ex 111 (wF 6 3 0 0 0) [(3, 64#64), (4, 0#64)] id x15_10).readDesc 9 64 ([1#8, 0#8, 0#8, 0#8, 100#8, 0#8, 0#8, 0#8, 0#8, 2#8] ++ List.replicate 7 0#8 ++ [4#8, 32#8] ++ List.replicate 45 0#8) = some { cl := 0, seq := 0, ctx := 9, gen := 2, cls := 1, rcd := x15_9, tmpl := 0, ttag := 0, desc := 64, op := 1, notify := false, order := false, tag := 0, len := 100, src := 512, dst := 2098176, sk := 0, dk := 0, done := 0, st := DmaSt.queued, va := 0, cause := 0, port := 0 : Dma } ∧ ({ cl := 0, seq := 0, ctx := 9, gen := 2, cls := 1, rcd := x15_9, tmpl := 0, ttag := 0, desc := 64, op := 1, notify := false, order := false, tag := 0, len := 100, src := 512, dst := 2098176, sk := 0, dk := 0, done := 0, st := DmaSt.queued, va := 0, cause := 0, port := 0 : Dma }.sk = 2 → (ex 111 (wF 6 3 0 0 0) [(3, 64#64), (4, 0#64)] id x15_10).heldBy 9 ({ cl := 0, seq := 0, ctx := 9, gen := 2, cls := 1, rcd := x15_9, tmpl := 0, ttag := 0, desc := 64, op := 1, notify := false, order := false, tag := 0, len := 100, src := 512, dst := 2098176, sk := 0, dk := 0, done := 0, st := DmaSt.queued, va := 0, cause := 0, port := 0 : Dma }.src % 2 ^ 20) = true) ∧ ({ cl := 0, seq := 0, ctx := 9, gen := 2, cls := 1, rcd := x15_9, tmpl := 0, ttag := 0, desc := 64, op := 1, notify := false, order := false, tag := 0, len := 100, src := 512, dst := 2098176, sk := 0, dk := 0, done := 0, st := DmaSt.queued, va := 0, cause := 0, port := 0 : Dma }.dk = 2 → (ex 111 (wF 6 3 0 0 0) [(3, 64#64), (4, 0#64)] id x15_10).heldBy 9 ({ cl := 0, seq := 0, ctx := 9, gen := 2, cls := 1, rcd := x15_9, tmpl := 0, ttag := 0, desc := 64, op := 1, notify := false, order := false, tag := 0, len := 100, src := 512, dst := 2098176, sk := 0, dk := 0, done := 0, st := DmaSt.queued, va := 0, cause := 0, port := 0 : Dma }.dst % 2 ^ 20) = true) ∧ 64 ≤ (List.filter (fun (y : Dma) => y.cl == clOf 9 && (y.st == DmaSt.queued || y.st == DmaSt.running)) (ex 111 (wF 6 3 0 0 0) [(3, 64#64), (4, 0#64)] id x15_10).mmu.dmas).length) ∧
    ((ex 112 (wF 6 3 0 0 0) [(3, 0#64), (4, 0#64)] id x15_11).issues 9 (112 * 2 ^ 25 + (wF 6 3 0 0 0).toNat) ∧ (((ex 112 (wF 6 3 0 0 0) [(3, 0#64), (4, 0#64)] id x15_11).cx 9).rg (rs1Of (wF 6 3 0 0 0))).toNat = 0 ∧ formF (wF 6 3 0 0 0) true true false 0 0 = true ∧ 0 % 2 ^ 32 = 0 ∧ (ex 112 (wF 6 3 0 0 0) [(3, 0#64), (4, 0#64)] id x15_11).dmaOf (clOf 9) 0 = some { cl := 0, seq := 0, ctx := 9, gen := 2, cls := 1, rcd := x15_9, tmpl := 0, ttag := 0, desc := 64, op := 1, notify := false, order := false, tag := 0, len := 100, src := 512, dst := 2098176, sk := 0, dk := 0, done := 0, st := DmaSt.queued, va := 0, cause := 0, port := 0 : Dma } ∧ ({ cl := 0, seq := 0, ctx := 9, gen := 2, cls := 1, rcd := x15_9, tmpl := 0, ttag := 0, desc := 64, op := 1, notify := false, order := false, tag := 0, len := 100, src := 512, dst := 2098176, sk := 0, dk := 0, done := 0, st := DmaSt.queued, va := 0, cause := 0, port := 0 : Dma }.st = DmaSt.queued ∨ { cl := 0, seq := 0, ctx := 9, gen := 2, cls := 1, rcd := x15_9, tmpl := 0, ttag := 0, desc := 64, op := 1, notify := false, order := false, tag := 0, len := 100, src := 512, dst := 2098176, sk := 0, dk := 0, done := 0, st := DmaSt.queued, va := 0, cause := 0, port := 0 : Dma }.st = DmaSt.running)) :=
  ⟨⟨by simp only [State.issues, State.calm]; decide, by unfold State.clean; decide, by decide⟩,
   ⟨by simp only [State.issues, State.calm]; decide, by decide⟩⟩

/-- States and operands that meet the hypotheses of the clauses of DeviceInstructions (UnitInstructions). -/
theorem witness_DeviceInstructions_UnitInstructions_5 :
    ((ex 112 (wF 6 3 0 0 0) [(3, 0#64), (4, 0#64)] id x15_12).issues 9 (112 * 2 ^ 25 + (wF 6 3 0 0 0).toNat) ∧ (((ex 112 (wF 6 3 0 0 0) [(3, 0#64), (4, 0#64)] id x15_12).cx 9).rg (rs1Of (wF 6 3 0 0 0))).toNat = 0 ∧ formF (wF 6 3 0 0 0) true true false 0 0 = true ∧ 0 % 2 ^ 32 = 0 ∧ (ex 112 (wF 6 3 0 0 0) [(3, 0#64), (4, 0#64)] id x15_12).dmaOf (clOf 9) 0 = some { cl := 0, seq := 0, ctx := 9, gen := 2, cls := 1, rcd := x15_9, tmpl := 0, ttag := 0, desc := 64, op := 1, notify := false, order := false, tag := 0, len := 100, src := 512, dst := 2098176, sk := 0, dk := 0, done := 0, st := DmaSt.fault, va := 0, cause := 0, port := 0 : Dma } ∧ { cl := 0, seq := 0, ctx := 9, gen := 2, cls := 1, rcd := x15_9, tmpl := 0, ttag := 0, desc := 64, op := 1, notify := false, order := false, tag := 0, len := 100, src := 512, dst := 2098176, sk := 0, dk := 0, done := 0, st := DmaSt.fault, va := 0, cause := 0, port := 0 : Dma }.st ≠ DmaSt.queued ∧ { cl := 0, seq := 0, ctx := 9, gen := 2, cls := 1, rcd := x15_9, tmpl := 0, ttag := 0, desc := 64, op := 1, notify := false, order := false, tag := 0, len := 100, src := 512, dst := 2098176, sk := 0, dk := 0, done := 0, st := DmaSt.fault, va := 0, cause := 0, port := 0 : Dma }.st ≠ DmaSt.running) ∧
    ((ex 112 (wF 6 3 0 0 0) [(3, 7#64), (4, 0#64)] id x15_13).issues 9 (112 * 2 ^ 25 + (wF 6 3 0 0 0).toNat) ∧ (((ex 112 (wF 6 3 0 0 0) [(3, 7#64), (4, 0#64)] id x15_13).cx 9).rg (rs1Of (wF 6 3 0 0 0))).toNat = 7 ∧ formF (wF 6 3 0 0 0) true true false 0 0 = true ∧ 7 % 2 ^ 32 = 7 ∧ (ex 112 (wF 6 3 0 0 0) [(3, 7#64), (4, 0#64)] id x15_13).dmaOf (clOf 9) 7 = none ∧ List.find? (fun (o : Nat × Nat × Nat) => o.fst == 7) (SMap.get [] (ex 112 (wF 6 3 0 0 0) [(3, 7#64), (4, 0#64)] id x15_13).mmu.outs (clOf 9)) = some (7, 3, 100)) ∧
    ((ex 112 (wF 6 3 0 0 0) [(3, 8#64), (4, 0#64)] id x15_13).issues 9 (112 * 2 ^ 25 + (wF 6 3 0 0 0).toNat) ∧ (((ex 112 (wF 6 3 0 0 0) [(3, 8#64), (4, 0#64)] id x15_13).cx 9).rg (rs1Of (wF 6 3 0 0 0))).toNat = 8 ∧ formF (wF 6 3 0 0 0) true true false 0 0 = true ∧ 8 % 2 ^ 32 = 8 ∧ (ex 112 (wF 6 3 0 0 0) [(3, 8#64), (4, 0#64)] id x15_13).dmaOf (clOf 9) 8 = none ∧ List.find? (fun (o : Nat × Nat × Nat) => o.fst == 8) (SMap.get [] (ex 112 (wF 6 3 0 0 0) [(3, 8#64), (4, 0#64)] id x15_13).mmu.outs (clOf 9)) = none) ∧
    ((ex 113 (wF 6 3 0 0 0) [(3, 0#64), (4, 0#64)]).issues 9 (113 * 2 ^ 25 + (wF 6 3 0 0 0).toNat) ∧ (((ex 113 (wF 6 3 0 0 0) [(3, 0#64), (4, 0#64)]).cx 9).rg (rs1Of (wF 6 3 0 0 0))).toNat = 0 ∧ formF (wF 6 3 0 0 0) true true false 0 0 = true ∧ 0 % 4 = 0 ∧ bitOf ((ex 113 (wF 6 3 0 0 0) [(3, 0#64), (4, 0#64)]).cx 9).rcd.perm 2 = true) ∧
    ((ex 113 (wF 6 3 0 0 0) [(3, 2#64), (4, 0#64)]).issues 9 (113 * 2 ^ 25 + (wF 6 3 0 0 0).toNat) ∧ (ex 113 (wF 6 3 0 0 0) [(3, 2#64), (4, 0#64)]).serviced 9 2 ∧ (((ex 113 (wF 6 3 0 0 0) [(3, 2#64), (4, 0#64)]).cx 9).rg (rs1Of (wF 6 3 0 0 0))).toNat = 2 ∧ formF (wF 6 3 0 0 0) true true false 0 0 = true ∧ 2 % 4 ≠ 0) ∧
    ((ex 113 (wF 6 3 0 0 0) [(3, 0#64), (4, 0#64)] x15_14).issues 9 (113 * 2 ^ 25 + (wF 6 3 0 0 0).toNat) ∧ (ex 113 (wF 6 3 0 0 0) [(3, 0#64), (4, 0#64)] x15_14).serviced 9 5 ∧ (((ex 113 (wF 6 3 0 0 0) [(3, 0#64), (4, 0#64)] x15_14).cx 9).rg (rs1Of (wF 6 3 0 0 0))).toNat = 0 ∧ formF (wF 6 3 0 0 0) true true false 0 0 = true ∧ 0 % 4 = 0 ∧ bitOf ((ex 113 (wF 6 3 0 0 0) [(3, 0#64), (4, 0#64)] x15_14).cx 9).rcd.perm 2 = false) ∧
    ((ex 114 (wF 6 3 4 0 0) [(3, 2#64), (4, 0#64)]).issues 9 (114 * 2 ^ 25 + (wF 6 3 4 0 0).toNat) ∧ (ex 114 (wF 6 3 4 0 0) [(3, 2#64), (4, 0#64)]).serviced 9 2 ∧ (((ex 114 (wF 6 3 4 0 0) [(3, 2#64), (4, 0#64)]).cx 9).rg (rs1Of (wF 6 3 4 0 0))).toNat = 2 ∧ formF (wF 6 3 4 0 0) true true true 0 0 = true ∧ 2 % 4 ≠ 0) ∧
    ((ex 114 (wF 6 3 4 0 0) [(3, 0#64), (4, 0#64)]).issues 9 (114 * 2 ^ 25 + (wF 6 3 4 0 0).toNat) ∧ (ex 114 (wF 6 3 4 0 0) [(3, 0#64), (4, 0#64)]).serviced 9 5 ∧ (((ex 114 (wF 6 3 4 0 0) [(3, 0#64), (4, 0#64)]).cx 9).rg (rs1Of (wF 6 3 4 0 0))).toNat = 0 ∧ formF (wF 6 3 4 0 0) true true true 0 0 = true ∧ 0 % 4 = 0 ∧ (bitOf ((ex 114 (wF 6 3 4 0 0) [(3, 0#64), (4, 0#64)]).cx 9).rcd.perm 3 = false ∨ isTim (0 % 2 ^ 24) = false ∧ (ex 114 (wF 6 3 4 0 0) [(3, 0#64), (4, 0#64)]).rgwrOwn (Src.engine 9) (0 % 2 ^ 24) (BitVec.setWidth 32 (((ex 114 (wF 6 3 4 0 0) [(3, 0#64), (4, 0#64)]).cx 9).rg (rs2Of (wF 6 3 4 0 0)))) = false)) :=
  ⟨⟨by simp only [State.issues, State.calm]; decide, by decide⟩,
   ⟨by simp only [State.issues, State.calm]; decide, by decide⟩,
   ⟨by simp only [State.issues, State.calm]; decide, by decide⟩,
   ⟨by simp only [State.issues, State.calm]; decide, by decide⟩,
   ⟨by simp only [State.issues, State.calm]; decide, by unfold State.serviced; decide, by decide⟩,
   ⟨by simp only [State.issues, State.calm]; decide, by unfold State.serviced; decide, by decide⟩,
   ⟨by simp only [State.issues, State.calm]; decide, by unfold State.serviced; decide, by decide⟩,
   ⟨by simp only [State.issues, State.calm]; decide, by unfold State.serviced; decide, by decide⟩⟩

/-- States and operands that meet the hypotheses of the clauses of DeviceInstructions (UnitInstructions). -/
theorem witness_DeviceInstructions_UnitInstructions_6 :
    ((ex 114 (wF 6 3 4 0 0) [(3, 262164#64), (4, 9#64)] x15_15).issues 9 (114 * 2 ^ 25 + (wF 6 3 4 0 0).toNat) ∧ (ex 114 (wF 6 3 4 0 0) [(3, 262164#64), (4, 9#64)] x15_15).regWrite (Src.engine 9) (262164 % 2 ^ 24) (BitVec.setWidth 32 (((ex 114 (wF 6 3 4 0 0) [(3, 262164#64), (4, 9#64)] x15_15).cx 9).rg (rs2Of (wF 6 3 4 0 0)))) = Host.Outcome.next RW ∧ RW.calm (clOf 9) ∧ (((ex 114 (wF 6 3 4 0 0) [(3, 262164#64), (4, 9#64)] x15_15).cx 9).rg (rs1Of (wF 6 3 4 0 0))).toNat = 262164 ∧ formF (wF 6 3 4 0 0) true true true 0 0 = true ∧ 262164 % 4 = 0 ∧ bitOf ((ex 114 (wF 6 3 4 0 0) [(3, 262164#64), (4, 9#64)] x15_15).cx 9).rcd.perm 3 = true ∧ (if isTim (262164 % 2 ^ 24) = true then (ex 114 (wF 6 3 4 0 0) [(3, 262164#64), (4, 9#64)] x15_15).timTakes (Src.engine 9) (262164 % 2 ^ 24) else (ex 114 (wF 6 3 4 0 0) [(3, 262164#64), (4, 9#64)] x15_15).rgwrOwn (Src.engine 9) (262164 % 2 ^ 24) (BitVec.setWidth 32 (((ex 114 (wF 6 3 4 0 0) [(3, 262164#64), (4, 9#64)] x15_15).cx 9).rg (rs2Of (wF 6 3 4 0 0))))) = true) ∧
    ((ex 114 (wF 6 3 4 0 0) [(3, 262164#64), (4, 9#64)] x15_16).issues 9 (114 * 2 ^ 25 + (wF 6 3 4 0 0).toNat) ∧ (((ex 114 (wF 6 3 4 0 0) [(3, 262164#64), (4, 9#64)] x15_16).cx 9).rg (rs1Of (wF 6 3 4 0 0))).toNat = 262164 ∧ formF (wF 6 3 4 0 0) true true true 0 0 = true ∧ 262164 % 4 = 0 ∧ bitOf ((ex 114 (wF 6 3 4 0 0) [(3, 262164#64), (4, 9#64)] x15_16).cx 9).rcd.perm 3 = true ∧ isTim (262164 % 2 ^ 24) = true ∧ (ex 114 (wF 6 3 4 0 0) [(3, 262164#64), (4, 9#64)] x15_16).timTakes (Src.engine 9) (262164 % 2 ^ 24) = false) :=
  ⟨⟨by simp only [State.issues, State.calm]; decide, next_of (d := ex 114 (wF 6 3 4 0 0) [(3, 262164#64), (4, 9#64)] x15_15) (by decide), by unfold State.calm; decide, by decide⟩,
   ⟨by simp only [State.issues, State.calm]; decide, by decide⟩⟩

end W15

namespace W16

def tmA (n : Nat) (pins : List (Nat × Nat) := []) : Tmpl := { tm0 with nopnd := n, clmask := 1, pins := pins }
def CX (st : CtxSt) : Ctx := { Ctx.none with st := st, gen := 3, pc := 8, cls := 1, rcd := tmA 1, g := [(2, 5)] }
def b0 : State := ((own .run).setB .TSK_FB_EN 0 false)
def ec (cs : List (Nat × Ctx)) (conts : List (Nat × Nat × BitVec 64) := []) : State := { b0 with eng := { R.eng with ctx := cs, conts := conts } }
def ca := 9 + 3 * 65536
def CT : List (Nat × Nat × BitVec 64) := [(ca + 1, 1, 2), (ca, 55, 66), (ca, 1, 2)]
def x16_1 := {CX .running with cont := List.replicate 8 (1,2)}
def x16_2 := {CX .running with cont := List.replicate 7 (1,2)}
def x16_3 := {CX .awaiting with cls := 0}
def TMR (due per : Nat) : Timer := { dest := BitVec.ofNat 64 (ca + 7 * 2^48), cont := true, absolute := false, due := due, period := per, cls := 1, any := true }
def et (due per : Nat) : State := { ec [(9, CX .awaiting)] with eng := { R.eng with ctx := [(9, CX .awaiting)], tmr := [(64+5, TMR due per), (64+6, TMR 1 1)] } }
def tk (n : Nat) (l : List (Nat × MEnt) := []) : State := { (b0.setB .TSK_TT_EN 33 true) with tsk := { R.tsk with tmpls := [(33, tmA n)], ents := l, nextEnt := 7 } }
def TK : Token := { tmpl := 33, pos := 0, tag := 5, value := 99, isBuf := false, pin := 31, grat := none }
def ME (r : Bool) : MEnt := { tmpl := 33, tag := 5, toks := [TK, {TK with pos := 1, value := 98}], ready := r, cluster := 0, order := 0 }
def dp : State := (tk 2 [(4, ME true)]).setDom 0 dsOn
def bx (x : Ctx) : State := ec [(9, x), (12, CX .running)]
def x16_5 := {CX .running with rcd := {tmA 1 with budget := 5}}
def x16_6 := {CX .faulted with svc := true}
def x16_7 := {CX .faulted with svc := false}
def DD (st : DmaSt) : Dma := { tmpl := 0, ttag := 0, cl := 0, seq := 4, ctx := 9, gen := 3, cls := 1, rcd := tm0, desc := 64, op := 1, notify := false, order := false, tag := 0, len := 100, src := 0x200, dst := 0x200400, sk := 0, dk := 0, done := 64, st := st, va := 0, cause := 2, port := 0 }
def dm (st : DmaSt) : State := { bx (CX .running) with mmu := { R.mmu with dmas := [DD st, {DD .queued with seq := 5}] } }
def V : BitVec 32 := 0x80000010
def h0 : Src := .host 0
def tq (m : Tmpl) : State := { b0 with tsk := { R.tsk with tmpls := [(33, m)], nextEnt := 7 } }
def x16_8 := {tmA 1 with clmask := 0}
def sv (x : Ctx) : State := ((bx x).setN .TSK_CMD_TGT 0 9).setN .TSK_CMD_AUX 0 3
def x16_9 := {CX .faulted with svc := true, code := 9}
def x16_10 := {CX .faulted with svc := true, code := 4}
def sd : State := ((dm .fault).setN .TSK_CMD_TGT 0 0).setN .TSK_CMD_AUX 0 4
def ij : State := (((tk 1).setN .TSK_CMD_TGT 0 33).setN .TSK_CMD_AUX 0 77).setN .TSK_CMD_VAL_LO 0 5
def x16_12 := { ij with mod := R.mod }
def shNone : SMap (BitVec 32) := [(126, 0xA5A5)]
def tqn : State := { b0 with fus := { R.fus with shadow := shNone }, tsk := { R.tsk with tmpls := [(33, tmA 1)] }, eng := { R.eng with ctx := [(9, { CX .running with rcd := { tmA 1 with perm := 8 } })] } }
def bz : State := { b0 with tsk := { b0.tsk with busy := [(0, (2 ^ 60, 0))] } }

/-- States and operands that meet the hypotheses of the clauses of TaskEngine (EngineEvents). -/
theorem witness_TaskEngine_EngineEvents_1 :
    ((∀ (e : Nat × Nat × BitVec 64), e ∈ b0.eng.conts → caddrCtx e.fst ≠ 5)) ∧
    (List.find? (fun (e : Nat × Nat × BitVec 64) => caddrCtx e.fst == 9) (ec [] CT).eng.conts = some (ca, 55, 66#64) ∧ (ec [] CT).caddrFresh ca = false) ∧
    (List.find? (fun (e : Nat × Nat × BitVec 64) => caddrCtx e.fst == 9) (ec [(9, x16_1)] CT).eng.conts = some (ca, 55, 66#64) ∧ (ec [(9, x16_1)] CT).caddrFresh ca = true ∧ 8 ≤ ((ec [(9, x16_1)] CT).cx 9).cont.length) ∧
    (List.find? (fun (e : Nat × Nat × BitVec 64) => caddrCtx e.fst == 9) (ec [(9, x16_2)] CT).eng.conts = some (ca, 55, 66#64) ∧ (ec [(9, x16_2)] CT).caddrFresh ca = true ∧ ((ec [(9, x16_2)] CT).cx 9).cont.length < 8 ∧ ((ec [(9, x16_2)] CT).cx 9).st ≠ CtxSt.awaiting) ∧
    (List.find? (fun (e : Nat × Nat × BitVec 64) => caddrCtx e.fst == 9) (ec [(9, x16_3)] CT).eng.conts = some (ca, 55, 66#64) ∧ (ec [(9, x16_3)] CT).caddrFresh ca = true ∧ ((ec [(9, x16_3)] CT).cx 9).cont.length < 8 ∧ ((ec [(9, x16_3)] CT).cx 9).st = CtxSt.awaiting ∧ ((ec [(9, x16_3)] CT).cx 9).dmaw = none) ∧
    (b0.eng.tmr.find (1 * 64 + 5) = none) ∧
    ((et 51 0).eng.tmr.find (1 * 64 + 5) = some (TMR 51 0) ∧ (if (TMR 51 0).absolute = true then (et 51 0).nowNs else (et 51 0).freeNs) + 50 < (TMR 51 0).due) ∧
    ((et 50 0).eng.tmr.find (1 * 64 + 5) = some (TMR 50 0) ∧ (TMR 50 0).due ≤ (if (TMR 50 0).absolute = true then (et 50 0).nowNs else (et 50 0).freeNs) + 50 ∧ (TMR 50 0).cont = true ∧ (et 50 0).contLoad (caddrCtx ((TMR 50 0).dest.toNat % 2 ^ 32)) < 8) ∧
    (200000 < memWords 1 ∧ 200000 / (memWords 1 / 24) = 1 ∧ (b0.setN Field.HEA_CL_UNC_TH 0 0).eng.bad.find (badKey 1 200000) = none ∧ 2 ≤ 3 ∧ (b0.setN Field.HEA_CL_UNC_TH 0 0).rn Field.HEA_CL_UNC_TH = 0) ∧
    (memWords 0 ≤ 1572864) ∧
    ((b0.tsk.tmpls.find 33 = none ∨ b0.rb Field.TSK_TT_EN 33 = false) ∧ b0.rb Field.TSK_FB_EN = false) ∧
    ((tk 1).tsk.tmpls.find 33 = some (tmA 1) ∧ (tk 1).rb Field.TSK_TT_EN 33 = true ∧ (tk 1).boot.srUnit = 0 ∧ (tk 1).mod.mode = Mode.run ∧ (tk 1).entryFree (tmA 1).cls false = true ∧ (tk 1).rb Field.TSK_FB_EN = false ∧ (tmA 1).nopnd ≤ 1) ∧
    ((tk 2).tsk.tmpls.find 33 = some (tmA 2) ∧ (tk 2).rb Field.TSK_TT_EN 33 = true ∧ (tk 2).boot.srUnit = 0 ∧ (tk 2).mod.mode = Mode.run ∧ (tk 2).entryFree (tmA 2).cls false = true ∧ (tk 2).rb Field.TSK_FB_EN = false ∧ 2 ≤ (tmA 2).nopnd ∧ (∀ (e : Nat × MEnt), e ∈ (tk 2).tsk.ents → e.snd.tmpl ≠ 33 ∨ e.snd.tag ≠ 5)) ∧
    ((tk 2).tsk.ents.find 4 = none) ∧
    ((tk 2 [(4, ME true)]).tsk.ents.find 4 = some (ME true) ∧ (ME true).ready = true) ∧
    ((tk 2 [(4, ME false)]).tsk.ents.find 4 = some (ME false) ∧ (ME false).ready = false ∧ (tk 2 [(4, ME false)]).rb Field.TSK_FB_EN = false) ∧
    (((tk 2 [(4, ME false)]).rb Field.ENG_CL_FENCED = true ∨ (tk 2 [(4, ME false)]).clusterReset 0 = true ∨ (tk 2 [(4, ME false)]).nextFire 0 = none)) ∧
    (dp.rb Field.ENG_CL_FENCED = false ∧ dp.clusterReset 0 = false ∧ dp.nextFire 0 = some (4, ME true, tmA 2, 0) ∧ dp.dom 0 = dsOn ∧ dp.occupant 0 = none ∧ (∀ (x : Token), x ∈ (ME true).toks → x.isBuf = false ∧ x.grat = none) ∧ dp.rb Field.TSK_FB_EN = false) ∧
    (((bx (CX CtxSt.running)).cx 9).rcd.budget = 0) ∧
    (((bx x16_7).cx 9).svc = false) ∧
    ((dm DmaSt.fault).dmaOf (clOf 9) 4 = some (DD DmaSt.fault) ∧ (DD DmaSt.fault).st = DmaSt.fault) := by decide

/-- States and operands that meet the hypotheses of the clauses of TaskEngine (EngineEvents). -/
theorem witness_TaskEngine_EngineEvents_2 :
    (b0.calm 1 ∧ 200000 < memWords 1 ∧ 200000 / (memWords 1 / 24) = 1 ∧ b0.eng.bad.find (badKey 1 200000) = none ∧ 0#2 = 0#2) ∧
    (b0.calm 1 ∧ 200000 < memWords 1 ∧ 200000 / (memWords 1 / 24) = 1 ∧ b0.eng.bad.find (badKey 1 200000) = none ∧ 1#2 = 1#2) ∧
    ((bx x16_5).noTransfer 9 ∧ ((bx x16_5).cx 9).rcd.budget ≠ 0 ∧ ((bx x16_5).cx 9).st = CtxSt.running ∧ ((bx x16_5).cx 9).cls ≠ 0) ∧
    ((bx x16_6).noTransfer 9 ∧ ((bx x16_6).cx 9).st = CtxSt.faulted ∧ ((bx x16_6).cx 9).svc = true) :=
  ⟨⟨by unfold State.calm; decide, by decide⟩,
   ⟨by unfold State.calm; decide, by decide⟩,
   ⟨by simp only [State.noTransfer, State.calm]; decide, by decide⟩,
   ⟨by simp only [State.noTransfer, State.calm]; decide, by decide⟩⟩

/-- States and operands that meet the hypotheses of the clauses of TaskEngine (TaskCommands). -/
theorem witness_TaskEngine_TaskCommands_1 :
    (b0.guard h0 Block.TSK = true ∧ b0.tmplOwn h0 33 = true ∧ V.getLsbD 31 = true ∧ b0.rb Field.TSK_TT_EN 33 = false ∧ b0.tsk.tmpls.find 33 = none) ∧
    ((tq x16_8).guard h0 Block.TSK = true ∧ (tq x16_8).tmplOwn h0 33 = true ∧ V.getLsbD 31 = true ∧ (tq x16_8).rb Field.TSK_TT_EN 33 = false ∧ (tq x16_8).tsk.tmpls.find 33 = some x16_8 ∧ (tq x16_8).clusterSet x16_8 = []) ∧
    ((tq (tmA 1)).guard h0 Block.TSK = true ∧ (tq (tmA 1)).tmplOwn h0 33 = true ∧ V.getLsbD 31 = true ∧ (tq (tmA 1)).rb Field.TSK_TT_EN 33 = false ∧ (tq (tmA 1)).tsk.tmpls.find 33 = some (tmA 1) ∧ (tq (tmA 1)).clusterSet (tmA 1) ≠ [] ∧ (tmA 1).pins = []) ∧
    ((tk 2 [(4, ME false)]).guard h0 Block.TSK = true ∧ (tk 2 [(4, ME false)]).tmplOwn h0 33 = true ∧ (0#32).getLsbD 31 = false) ∧
    (winOf h0 = some 0 ∧ (inMode Mode.run).tcBusy 0 = false ∧ (inMode Mode.run).mayServe h0 = false) ∧
    (winOf h0 = some 0 ∧ b0.tcBusy 0 = false ∧ b0.mayServe h0 = true ∧ b0.tcCtx h0 0 = none) ∧
    (winOf h0 = some 0 ∧ (sv x16_9).tcBusy 0 = false ∧ (sv x16_9).mayServe h0 = true ∧ (sv x16_9).tcCtx h0 0 = some 9 ∧ ((sv x16_9).cx 9).st = CtxSt.faulted ∧ ((sv x16_9).cx 9).svc = true) ∧
    (winOf h0 = some 0 ∧ sd.tcBusy 0 = false ∧ sd.mayServe h0 = true ∧ sd.tcDma h0 0 = some (DD DmaSt.fault) ∧ (DD DmaSt.fault).st = DmaSt.fault ∧ sd.rb Field.TSK_FB_EN = false) ∧
    (winOf h0 = some 0 ∧ x16_12.tcBusy 0 = false ∧ x16_12.tmplCls (x16_12.rn Field.TSK_CMD_TGT) ≤ 1 ∧ x16_12.mayServe h0 = false) ∧
    (winOf h0 = some 0 ∧ ij.tcBusy 0 = false ∧ ij.mayServe h0 = true ∧ ij.tsk.tmpls.find (ij.rn Field.TSK_CMD_TGT) = some (tmA 1) ∧ ij.mayAddress h0 (tmA 1) = true ∧ ij.rb Field.TSK_TT_EN (ij.rn Field.TSK_CMD_TGT) = true ∧ ij.boot.srUnit = 0 ∧ ij.mod.mode = Mode.run ∧ (tmA 1).nopnd ≤ 1 ∧ ij.entryFree (tmA 1).cls false = true) ∧
    (winOf h0 ≠ some 1) ∧
    ((∀ (k : Fin 1536), h0 ≠ Src.engine k) ∧ b0.guard h0 Block.TSK = true) ∧
    (tqn.tmplOwn (Src.engine 9) 33 = false ∧ tqn.guard (Src.engine 9) Block.TSK = true) ∧
    (winOf h0 = some 0 ∧ bz.tcBusy 0 = true) := by decide

/-- States and operands that meet the hypotheses of the clauses of TaskEngine (TaskCommands). -/
theorem witness_TaskEngine_TaskCommands_2 :
    ((sv x16_10).noTransfer 9 ∧ winOf h0 = some 0 ∧ (sv x16_10).tcBusy 0 = false ∧ (sv x16_10).mayServe h0 = true ∧ (sv x16_10).tcCtx h0 0 = some 9) :=
  ⟨by simp only [State.noTransfer, State.calm]; decide, by decide⟩

end W16

namespace W17

def h0 : Src := .host 0
def b0 : State := ((own .run).setB .TSK_FB_EN 0 false)
def te (lk : Bool) (as pg : Nat) (pte : Nat := 0) : TlbEnt := { asid := as, big := false, page := pg, pte := pte, locked := lk }
def ti (inv : Option (Nat × Nat × Nat × Nat)) (l : List TlbEnt) : State := { b0 with mmu := { R.mmu with inv := inv, tlb := [(3, l)] } }
def tp (pins : List (Nat × Nat)) : State := { (b0.setB .TSK_TT_EN 33 true) with tsk := { R.tsk with tmpls := [(33, {tm0 with asid := 5, pins := pins})] } }
def DD (st : DmaSt) : Dma := { tmpl := 0, ttag := 0, cl := 0, seq := 4, ctx := 9, gen := 3, cls := 1, rcd := {tm0 with perm := 32}, desc := 64, op := 1, notify := false, order := false, tag := 0, len := 100, src := 0x201, dst := 0x200403, sk := 0, dk := 0, done := 61, st := st, va := 0, cause := 2, port := 0 }
def CX (st : CtxSt) : Ctx := { Ctx.none with st := st, gen := 3, pc := 8, cls := 1, rcd := tm0 }
def dm (d : Dma) (dw : Option Nat := none) (o : List Dma := []) : State := { b0 with eng := { R.eng with ctx := [(9, {CX .stalled with dmaw := dw}), (10, CX .ready)], dmem := (List.range 100).map fun i => (131072 + 0x201 + i, BitVec.ofNat 8 (i+1)) }, mmu := { R.mmu with dmas := o ++ [d, {DD .queued with seq := 5}], tlb := [(0, [te false 0 0x200 (0x10011 + 2 + 4)])] } }
def DV : Dma := { DD .running with sk := 1, src := 0x4000000 }
def DH : Dma := { DD .running with sk := 1, src := 0x2000000 }
def hp (s : State) : State := (((s.setB .HST_LINK_UP 0 true).setB .HST_ATS_EN 0 true).setB .HST_PRI_EN 0 true)
def uu (s : State) : State := (s.translate 0 DH.rcd (DH.src + DH.done) false false).2
def shNone : SMap (BitVec 32) := [(126, 0xA5A5)]
def an : State := { b0 with fus := { R.fus with shadow := shNone }, tsk := { R.tsk with tmpls := [(33, { tm0 with asid := 5 })] }, eng := { R.eng with ctx := [(9, { CX .running with rcd := { tm0 with perm := 8 } })] } }

/-- States and operands that meet the hypotheses of the clauses of Translation. -/
theorem witness_Translation_1 :
    ((ti (some (1, 2, 3, 4)) []).guard h0 Block.MMU = true ∧ (ti (some (1, 2, 3, 4)) []).asidOwn h0 5 = true ∧ (ti (some (1, 2, 3, 4)) []).mmu.inv ≠ none) ∧
    ((ti none [te true 5 0]).guard h0 Block.MMU = true ∧ (ti none [te true 5 0]).asidOwn h0 5 = true ∧ (ti none [te true 5 0]).mmu.inv = none ∧ (∃ (c : Nat), c < 24 ∧ ∃ (x : TlbEnt), x ∈ (ti none [te true 5 0]).tlbOf c ∧ x.locked = true ∧ x.hit 1 5 ((ti none [te true 5 0]).rn Field.MMU_INV_VA) (max 1 ((ti none [te true 5 0]).rn Field.MMU_INV_PAGES)) = true)) ∧
    ((ti none [te false 5 0, te true 4 0]).guard h0 Block.MMU = true ∧ (ti none [te false 5 0, te true 4 0]).asidOwn h0 5 = true ∧ (ti none [te false 5 0, te true 4 0]).mmu.inv = none ∧ (∀ (c : Nat), c < 24 → ∀ (x : TlbEnt), x ∈ (ti none [te false 5 0, te true 4 0]).tlbOf c → x.locked = true → x.hit 1 5 ((ti none [te false 5 0, te true 4 0]).rn Field.MMU_INV_VA) (max 1 ((ti none [te false 5 0, te true 4 0]).rn Field.MMU_INV_PAGES)) = false)) ∧
    ((∀ (k : Fin 1536), h0 ≠ Src.engine k) ∧ (ti (some (1, 2, 3, 4)) []).guard h0 Block.MMU = true ∧ (ti (some (1, 2, 3, 4)) []).mmu.inv ≠ none) ∧
    ((∀ (k : Fin 1536), h0 ≠ Src.engine k) ∧ (ti none [te true 4 9]).guard h0 Block.MMU = true ∧ (ti none [te true 4 9]).mmu.inv = none ∧ (∃ (c : Nat), c < 24 ∧ ∃ (x : TlbEnt), x ∈ (ti none [te true 4 9]).tlbOf c ∧ x.locked = true)) ∧
    ((∀ (k : Fin 1536), h0 ≠ Src.engine k) ∧ (ti none [te false 4 9]).guard h0 Block.MMU = true ∧ (ti none [te false 4 9]).mmu.inv = none ∧ (∀ (c : Nat), c < 24 → ∀ (x : TlbEnt), x ∈ (ti none [te false 4 9]).tlbOf c → x.locked = false)) ∧
    ((ti (some (1, 4, 3, 4)) [te false 4 9, te true 4 7, te false 5 9]).mmu.inv = some (1, 4, 3, 4)) ∧
    ((tp [(1, 2)]).guard h0 Block.MMU = true ∧ (tp [(1, 2)]).asidOwn h0 5 = true ∧ (∃ (x : Nat × Tmpl), x ∈ (tp [(1, 2)]).tsk.tmpls ∧ (tp [(1, 2)]).rb Field.TSK_TT_EN x.fst = true ∧ x.snd.asid = 5 ∧ x.snd.pins ≠ [])) ∧
    ((tp []).guard h0 Block.MMU = true ∧ (tp []).asidOwn h0 5 = true ∧ (∀ (x : Nat × Tmpl), x ∈ (tp []).tsk.tmpls → (tp []).rb Field.TSK_TT_EN x.fst = true → x.snd.asid = 5 → x.snd.pins = [])) ∧
    (b0.dmaOf 0 4 = none) ∧
    ((dm (DD DmaSt.queued)).dmaOf 0 4 = some (DD DmaSt.queued) ∧ (DD DmaSt.queued).st ≠ DmaSt.running) ∧
    ((dm (DD DmaSt.running)).dmaOf 0 4 = some (DD DmaSt.running) ∧ (DD DmaSt.running).st ≠ DmaSt.page) ∧
    ((dm (DD DmaSt.page)).dmaOf 0 4 = some (DD DmaSt.page) ∧ (DD DmaSt.page).st = DmaSt.page ∧ (dm (DD DmaSt.page)).rb Field.TSK_FB_EN = false) ∧
    ((dm (DD DmaSt.page)).dmaOf 0 4 = some (DD DmaSt.page) ∧ (DD DmaSt.page).st = DmaSt.page ∧ (DD DmaSt.page).cls ≠ 0) ∧
    ((hp (dm (DD DmaSt.page))).dmaOf 0 4 = some (DD DmaSt.page) ∧ (DD DmaSt.page).st = DmaSt.page ∧ (DD DmaSt.page).cls ≠ 0 ∧ (∀ (y : Dma), y ∈ (hp (dm (DD DmaSt.page))).mmu.dmas → y.st ≠ DmaSt.pageWait)) ∧
    (an.guard (Src.engine 9) Block.MMU = true ∧ an.asidOwn (Src.engine 9) 5 = false) := by decide

/-- States and operands that meet the hypotheses of the clauses of Translation. -/
theorem witness_Translation_2 :
    ((dm (DD DmaSt.running)).calm 0 ∧ (dm (DD DmaSt.running)).dmaOf 0 4 = some (DD DmaSt.running) ∧ (DD DmaSt.running).st = DmaSt.running ∧ (DD DmaSt.running).op = 1 ∧ (DD DmaSt.running).sk = 0 ∧ (DD DmaSt.running).dk = 0 ∧ regionOf (engOf (DD DmaSt.running).ctx) (DD DmaSt.running).src (DD DmaSt.running).len = Region.loc (Mem.dmem (engOf (DD DmaSt.running).ctx)) 513 ∧ regionOf (engOf (DD DmaSt.running).ctx) (DD DmaSt.running).dst (DD DmaSt.running).len = Region.loc (Mem.shm 0) 1027 ∧ Mem.shm 0 = Mem.shm (engOf (DD DmaSt.running).ctx / 8) ∧ (DD DmaSt.running).done ≤ (DD DmaSt.running).len ∧ (dm (DD DmaSt.running)).eng.bad = []) ∧
    ((dm DV).calm 0 ∧ (dm DV).dmaOf 0 4 = some DV ∧ DV.st = DmaSt.running ∧ DV.op = 1 ∧ DV.sk = 1 ∧ DV.done < DV.len ∧ DV.cls ≠ 0 ∧ bitOf DV.rcd.perm 5 = true ∧ (dm DV).ringLevel < 256 ∧ (dm DV).eng.bad = [] ∧ (dm DV).rb Field.TSK_FB_EN = false ∧ (∀ (x : TlbEnt), x ∈ (dm DV).tlbOf 0 → x.covers DV.rcd.asid (DV.src + DV.done) = false) ∧ (dm DV).rb Field.MMU_ROOT_V DV.rcd.asid = false) ∧
    ((hp (dm DH)).calm 0 ∧ (hp (dm DH)).dmaOf 0 4 = some DH ∧ DH.st = DmaSt.running ∧ DH.op = 1 ∧ DH.sk = 1 ∧ DH.done < DH.len ∧ (hp (dm DH)).translate 0 DH.rcd (DH.src + DH.done) false false = (Xlat.host 0 65597, uu (hp (dm DH))) ∧ (hp (dm DH)).hostReach 0 = true ∧ some 61 = some DH.done ∧ (hp (dm DH)).eng.bad = [] ∧ (hp (dm DH)).rb Field.TSK_FB_EN = false ∧ (∀ (y : Dma), y ∈ (hp (dm DH)).mmu.dmas → y.cl = 0 → y.seq ≠ 4 → y.st = DmaSt.queued ∨ y.st = DmaSt.fault)) :=
  ⟨⟨by unfold State.calm; decide, by decide⟩,
   ⟨by unfold State.calm; decide, by decide⟩,
   ⟨by unfold State.calm; decide, by decide⟩⟩

end W17

namespace W18

def h0 : Src := .host 0
def b0 : State := ((own .run).setB .TSK_FB_EN 0 false)
def rg (en : Bool) (kind n cons prod : Nat) (r := 5) : State := ((((((b0.setB .HST_RG_EN r en).setN .HST_RG_KIND r kind).setN .HST_RG_LOG2N r n).setN .HST_RG_CONS r cons).setN .HST_RG_PROD r prod).setB .HST_LINK_UP 0 true).setN .HST_RG_BASE_L r 0x40
def us (m : BitVec 32) : State := let s := rg true 0 6 0 3; { s with hst := { s.hst with unsig := [(5, 3)], msix := [(3, m)] } }
def tx : State := rg true 0 6 0 3
def td (op len flags hnd : Nat) (x := 0) : BitVec 256 := BitVec.ofNat 256 (len * 2^64 + op * 2^80 + flags * 2^88 + hnd * 2^96 + x * 2^192)
def nx : State := { tx with swc := { tx.swc with layout := [(3,0),(10,0),(32,0),(152,0)] } }
def bf (o : Nat) : Buf := { st := .held, owner := o, count := 0, insets := 0, bytes := List.replicate 70 7, pkt := none, order := 2 }
def pk (o : Nat) : State := { tx with swc := { tx.swc with bufs := [(9, bf o)] }, pkts := [{ Packet.offered 0 3 2 0 (List.replicate 70 7) with id := 5, stage := .fifo }, { Packet.offered 0 3 2 0 (List.replicate 70 7) with id := 6, stage := .parked, buf := some 9 }] }
def sb : State := { pk ownSlow with pkts := [{ Packet.offered 0 56 1 0 (List.replicate 70 7) with id := 5, stage := .fifo, pipe := 1 }] ++ (pk ownSlow).pkts }
def TC (st : Nat) (w : Option (Nat × Nat)) (idx : Nat) (ts : Option (Nat × Nat)) : TxC := { ring := 5, idx := idx, addr := 0x1000, status := st, wait := w, ts := ts }
def tc (c : TxC) (up := true) : State := { tx with hst := { tx.hst with txc := [{c with ring := 6}, c, {c with idx := 9}], ts := [{buf := 9, order := 2, ctx := none, ring := 5}] }, swc := { tx.swc with bufs := [(9, bf 4)] }, pkts := [{ Packet.offered 0 3 2 0 [] with buf := some 9 }] }.setB .HST_LINK_UP 0 up
def XP : RxP := { ring := 6, handle := 9, sec := 5, ns := 7, port := 3, pipe := 1, ctx := 77, tc := 6 }
def rxp (up := true) : State := ({ (pk ownSlow) with hst := { tx.hst with rxp := [{XP with ring := 1024}, XP, {XP with sec := 9}] } }.setB .HST_LINK_UP 0 up).setN .HST_RG_BASE_L 6 0x800
def QE : QEnt := { buf := 9, len := 304, tc := 3, dp := 0, rw := Rewrite.none, owner := true, inset := none, trunc := 0, vport := 3, void := false, red := none, pub := none, raw := false, pkt := 0 }
def TXX : Tx := { ent := QE, q := 9, tsFree := 0, tsNow := 0, sent := 0, frags := 0 }
def rp (rdy : Bool) (n : Nat := 70) : State := (let s := { (rg rdy 1 6 0 3 7) with swc := { tx.swc with bufs := [(9, {bf 56 with pkt := some { Packet.offered 0 3 2 0 [] with pin := 65 }})] } }; { s with prt := { s.prt with txE := [(56, TXX)] } }).setN .HST_RXMAP_RING 1 7
def ld (m : Mode) (h : Option (Fin 4) := some 0) : State := ({ R with mod := { mode := m, holder := h, epoch := 7, left := 1000, trans := none } }.setReg .GLB_LU_EPOCH 0 7#32)
def x18_1 := {ld .load with pkm := [(0x11, 6), (0x14, 9)]}
def gr (s : State) (ro : Bool) : State := ((((s.setB .HST_GR_EN 3 true).setB .HST_GR_RO 3 ro).setN .HST_GR_WIN 3 2).setN .HST_GR_LEN 3 1).setN .HST_GR_DEV 3 0x22100
def mk (s : State) : State := { s with hbm := { s.hbm with marks := [(0x221000010 / 8, true)] } }

/-- States and operands that meet the hypotheses of the clauses of HostRings (RingRegisters). -/
theorem witness_HostRings_RingRegisters :
    (ownsRing (Src.host 1) 5 = false ∧ (rg true 0 6 3 3).limits.find (Ev.HST_E_PARTITION.code * 65536 + fnOf (Src.host 1)) = none) ∧
    (ownsRing h0 5 = true ∧ (rg false 0 6 3 3).rb Field.HST_RG_EN 5 = false) ∧
    (ownsRing h0 5 = true ∧ (rg true 0 6 65530 3).rb Field.HST_RG_EN 5 = true ∧ 2 ^ (rg true 0 6 65530 3).rn Field.HST_RG_LOG2N 5 < (100 % 65536 + 65536 - (rg true 0 6 65530 3).rn Field.HST_RG_CONS 5) % 65536) ∧
    (ownsRing h0 5 = true ∧ (rg true 0 6 65530 3).rb Field.HST_RG_EN 5 = true ∧ (458802 % 65536 + 65536 - (rg true 0 6 65530 3).rn Field.HST_RG_CONS 5) % 65536 ≤ 2 ^ (rg true 0 6 65530 3).rn Field.HST_RG_LOG2N 5) ∧
    (ownsRing h0 5 = true ∧ (bitsOf 2152726578 24 20 < 6 ∨ 15 < bitsOf 2152726578 24 20)) ∧
    (ownsRing h0 5 = true ∧ 6 ≤ bitsOf 2154823730 24 20 ∧ bitsOf 2154823730 24 20 ≤ 15 ∧ (rg true 0 6 65530 3).rb Field.HST_RG_EN 5 = true ∧ (bitsOf 2154823730 24 20 ≠ (rg true 0 6 65530 3).rn Field.HST_RG_LOG2N 5 ∨ bitsOf 2154823730 30 30 ≠ (rg true 0 6 65530 3).rn Field.HST_RG_KIND 5)) ∧
    (ownsRing h0 5 = true ∧ 6 ≤ bitsOf 2153775154 24 20 ∧ bitsOf 2153775154 24 20 ≤ 15 ∧ ((rg true 0 6 65530 3).rb Field.HST_RG_EN 5 = false ∨ bitsOf 2153775154 24 20 = (rg true 0 6 65530 3).rn Field.HST_RG_LOG2N 5 ∧ bitsOf 2153775154 30 30 = (rg true 0 6 65530 3).rn Field.HST_RG_KIND 5)) ∧
    (ownsRing h0 5 = true ∧ 1 ≠ 2 ∧ (rg true 0 6 65530 3).rb Field.HST_RG_EN 5 = true) ∧
    (ownsRing h0 5 = true ∧ (1 = 0 ∧ [Field.HST_RG_BASE_H] = [Field.HST_RG_BASE_L] ∧ (rg false 0 6 65530 3).rb Field.HST_RG_EN 5 = false ∨ 1 = 1 ∧ [Field.HST_RG_BASE_H] = [Field.HST_RG_BASE_H] ∧ (rg false 0 6 65530 3).rb Field.HST_RG_EN 5 = false ∨ 1 = 2 ∧ [Field.HST_RG_BASE_H] = [Field.HST_RG_MOD_US, Field.HST_RG_MOD_CNT])) ∧
    (SMap.get 0 (rg true 0 6 65530 3).hst.unsig 5 = 0) ∧
    (SMap.get 0 (us 0#32).hst.unsig 5 ≠ 0) := by decide

/-- States and operands that meet the hypotheses of the clauses of HostRings (Descriptors). -/
theorem witness_HostRings_Descriptors_1 :
    (0 = 5 / 1024 ∧ (rg true 1 6 0 3).txReady 5 = false) ∧
    (0 = 5 / 1024 ∧ (txd (td 3 60 0 0) 10 1 = 2 ∨ txd (td 3 60 0 0) 10 1 = 3)) ∧
    (0 = 5 / 1024 ∧ txd (td 3 60 0 0) 10 1 ≠ 2) ∧
    (0 = 5 / 1024 ∧ txd (td 2 60 0 0) 10 1 ≠ 3) ∧
    (0 = 5 / 1024 ∧ tx.txReady 5 = true ∧ txd (td 4 60 0 0) 10 1 ≠ 2 ∧ txd (td 4 60 0 0) 10 1 ≠ 3 ∧ (txd (td 4 60 0 0) 10 1 ≠ 1 ∨ txBad (td 4 60 0 0) = true ∨ txd (td 4 60 0 0) 8 2 < 60 ∨ min (tx.poolSize 3) 9600 < txd (td 4 60 0 0) 8 2)) ∧
    (0 = 5 / 1024 ∧ (((((inMode Mode.run).setB Field.HST_RG_EN 5 true).setN Field.HST_RG_LOG2N 5 6).setB Field.HST_LINK_UP 0 true).setN Field.HST_RG_PROD 5 3).txReady 5 = true ∧ txd (td 1 60 12 0) 10 1 = 1 ∧ txBad (td 1 60 12 0) = false ∧ 60 ≤ txd (td 1 60 12 0) 8 2 ∧ txd (td 1 60 12 0) 8 2 ≤ min ((((((inMode Mode.run).setB Field.HST_RG_EN 5 true).setN Field.HST_RG_LOG2N 5 6).setB Field.HST_LINK_UP 0 true).setN Field.HST_RG_PROD 5 3).poolSize 3) 9600 ∧ 6 ≤ bitsOf (txd (td 1 60 12 0) 11 1) 3 1 ∧ (((((inMode Mode.run).setB Field.HST_RG_EN 5 true).setN Field.HST_RG_LOG2N 5 6).setB Field.HST_LINK_UP 0 true).setN Field.HST_RG_PROD 5 3).leaseOk 0 = false) ∧
    (0 = 5 / 1024 ∧ nx.txReady 5 = true ∧ txd (td 1 80 35 0) 10 1 = 1 ∧ txBad (td 1 80 35 0) = false ∧ 60 ≤ txd (td 1 80 35 0) 8 2 ∧ txd (td 1 80 35 0) 8 2 ≤ min (nx.poolSize 3) 9600 ∧ (bitsOf (txd (td 1 80 35 0) 11 1) 3 1 < 6 ∨ nx.leaseOk 0 = true) ∧ nx.hostSlotBusy 0 (bitsOf (txd (td 1 80 35 0) 11 1) 0 0) = false ∧ nx.request (decide (6 ≤ bitsOf (txd (td 1 80 35 0) 11 1) 3 1)) (some (txd (td 1 80 35 0) 8 2 + 4)) (ownHost 0) (List.take (txd (td 1 80 35 0) 8 2) ([1#8, 2#8, 3#8] ++ List.replicate (txd (td 1 80 35 0) 8 2) 0#8)) none = (nx, none)) ∧
    (0 = 5 / 1024 ∧ tx.txReady 5 = true ∧ txd (td 2 0 64 0) 10 1 = 2 ∧ txBad (td 2 0 64 0) = true) ∧
    (0 = 5 / 1024 ∧ tx.txReady 5 = true ∧ txd (td 3 0 64 0) 10 1 = 3 ∧ txBad (td 3 0 64 0) = true) ∧
    (0 = 5 / 1024 ∧ (pk ownSlow).txReady 5 = true ∧ txBad (td 2 0 1 9) = false ∧ (pk ownSlow).buf (txd (td 2 0 1 9) 12 4 % 2 ^ 20) = some (bf ownSlow) ∧ (bf ownSlow).st = BufSt.held ∧ (bf ownSlow).owner = ownSlow ∧ txd (td 2 0 1 9) 10 1 = 2 ∧ (pk ownSlow).hostSlotBusy 0 (txd (td 2 0 1 9) 11 1 % 2) = false) ∧
    (0 = 5 / 1024 ∧ (pk ownSlow).txReady 5 = true ∧ txBad (td 3 0 1 9) = false ∧ (pk ownSlow).buf (txd (td 3 0 1 9) 12 4 % 2 ^ 20) = some (bf ownSlow) ∧ (bf ownSlow).st = BufSt.held ∧ (bf ownSlow).owner = ownSlow ∧ txd (td 3 0 1 9) 10 1 = 3) ∧
    (0 = 5 / 1024 ∧ (pk 4).txReady 5 = true ∧ txBad (td 2 0 1 9) = false ∧ (∀ (x : Buf), (pk 4).buf (txd (td 2 0 1 9) 12 4 % 2 ^ 20) = some x → x.owner ≠ ownSlow) ∧ txd (td 2 0 1 9) 10 1 = 2 ∧ (pk 4).hostSlotBusy 0 (txd (td 2 0 1 9) 11 1 % 2) = false) ∧
    (0 = 5 / 1024 ∧ (pk 4).txReady 5 = true ∧ txBad (td 3 0 1 9) = false ∧ (∀ (x : Buf), (pk 4).buf (txd (td 3 0 1 9) 12 4 % 2 ^ 20) = some x → x.owner ≠ ownSlow) ∧ txd (td 3 0 1 9) 10 1 = 3) ∧
    (0 = 5 / 1024 ∧ sb.txReady 5 = true ∧ txd (td 1 80 1 0) 10 1 = 1 ∧ txBad (td 1 80 1 0) = false ∧ 60 ≤ txd (td 1 80 1 0) 8 2 ∧ txd (td 1 80 1 0) 8 2 ≤ min (sb.poolSize 3) 9600 ∧ (bitsOf (txd (td 1 80 1 0) 11 1) 3 1 < 6 ∨ sb.leaseOk 0 = true) ∧ sb.hostSlotBusy 0 (bitsOf (txd (td 1 80 1 0) 11 1) 0 0) = true) ∧
    (0 = 5 / 1024 ∧ sb.txReady 5 = true ∧ txBad (td 2 0 1 9) = false ∧ txd (td 2 0 1 9) 10 1 = 2 ∧ sb.hostSlotBusy 0 (txd (td 2 0 1 9) 11 1 % 2) = true) ∧
    (0 = 5 / 1024 ∧ (∀ (c : TxC), c ∈ tx.hst.txc → c.ring ≠ 5)) ∧
    (0 = 5 / 1024 ∧ List.find? (fun (c : TxC) => c.ring == 5) (tc (TC 0 none 0 none) false).hst.txc = some (TC 0 none 0 none) ∧ (tc (TC 0 none 0 none) false).rb Field.HST_LINK_UP = false) ∧
    (0 = 5 / 1024 ∧ List.find? (fun (c : TxC) => c.ring == 5) (tc (TC 0 (some (9, 2)) 0 none)).hst.txc = some (TC 0 (some (9, 2)) 0 none) ∧ (TC 0 (some (9, 2)) 0 none).wait = some (9, 2) ∧ (∃ (x : TsReq), x ∈ (tc (TC 0 (some (9, 2)) 0 none)).hst.ts ∧ x.buf = 9 ∧ x.order = 2) ∧ (tc (TC 0 (some (9, 2)) 0 none)).mayStart 9 2 = true) ∧
    (0 = 5 / 1024 ∧ List.find? (fun (c : TxC) => c.ring == 5) (tc (TC 0 none 0 none)).hst.txc = some (TC 0 none 0 none) ∧ (tc (TC 0 none 0 none)).rb Field.HST_LINK_UP = true ∧ (TC 0 none 0 none).wait = none) ∧
    (0 = 5 / 1024 ∧ (∀ (x : RxP), x ∈ tx.hst.rxp → ringHost x.ring ≠ 0) ∧ tx.prt.txE.find (56 + 0) = none) ∧
    (0 = 5 / 1024 ∧ List.find? (fun (x : RxP) => ringHost x.ring == 0) (rxp false).hst.rxp = some XP ∧ (rxp false).rb Field.HST_LINK_UP = false) ∧
    (0 = 5 / 1024 ∧ List.find? (fun (x : RxP) => ringHost x.ring == 0) rxp.hst.rxp = some XP ∧ rxp.rb Field.HST_LINK_UP = true) := by decide

/-- States and operands that meet the hypotheses of the clauses of HostRings (Descriptors). -/
theorem witness_HostRings_Descriptors_2 :
    (0 = 5 / 1024 ∧ (∀ (y : RxP), y ∈ (rp true).hst.rxp → ringHost y.ring ≠ 0) ∧ (rp true).prt.txE.find (56 + 0) = some TXX ∧ TXX.ent.pkt = 0 ∧ (rp true).rb Field.HST_LINK_UP = true ∧ 7 = 1024 * 0 + (rp true).rn Field.HST_RXMAP_RING (0 * 64 + (Option.map (fun (x : Packet) => x.pin) (((rp true).buf TXX.ent.buf).bind fun (x : Buf) => x.pkt)).getD 0 % 64) ∧ 7 / 1024 = 0) :=
  by decide

/-- States and operands that meet the hypotheses of the clauses of HostRings (Descriptors). -/
theorem witness_HostRings_Descriptors_3 :
    ((∃ (t : State) (b : Nat), tx.request (decide (6 ≤ bitsOf (txd (td 1 60 12 0) 11 1) 3 1)) (some (txd (td 1 60 12 0) 8 2 + 4)) (ownHost 0) (List.take (txd (td 1 60 12 0) 8 2) ([1#8, 2#8, 3#8] ++ List.replicate (txd (td 1 60 12 0) 8 2) 0#8)) none = (t, some b)) ∧ 0 = 5 / 1024 ∧ tx.txReady 5 = true ∧ txd (td 1 60 12 0) 10 1 = 1 ∧ txBad (td 1 60 12 0) = false ∧ 60 ≤ txd (td 1 60 12 0) 8 2 ∧ txd (td 1 60 12 0) 8 2 ≤ min (tx.poolSize 3) 9600 ∧ (bitsOf (txd (td 1 60 12 0) 11 1) 3 1 < 6 ∨ tx.leaseOk 0 = true) ∧ tx.hostSlotBusy 0 (bitsOf (txd (td 1 60 12 0) 11 1) 0 0) = false) ∧
    ((∃ (t : State) (b : Nat), tx.request (decide (6 ≤ bitsOf (txd (td 1 60 13 0) 11 1) 3 1)) (some (txd (td 1 60 13 0) 8 2 + 4)) (ownHost 0) (List.take (txd (td 1 60 13 0) 8 2) ([1#8, 2#8, 3#8] ++ List.replicate (txd (td 1 60 13 0) 8 2) 0#8)) none = (t, some b)) ∧ 0 = 5 / 1024 ∧ tx.txReady 5 = true ∧ txd (td 1 60 13 0) 10 1 = 1 ∧ txBad (td 1 60 13 0) = false ∧ 60 ≤ txd (td 1 60 13 0) 8 2 ∧ txd (td 1 60 13 0) 8 2 ≤ min (tx.poolSize 3) 9600 ∧ (bitsOf (txd (td 1 60 13 0) 11 1) 3 1 < 6 ∨ tx.leaseOk 0 = true) ∧ tx.hostSlotBusy 0 (bitsOf (txd (td 1 60 13 0) 11 1) 0 0) = false) :=
  ⟨⟨grantIn_some tx 0 0 _ _ _ _ (by decide) (fun _ => rfl), by decide⟩,
   ⟨grantIn_some tx 0 0 _ _ _ _ (by decide) (fun _ => rfl), by decide⟩⟩

/-- States and operands that meet the hypotheses of the clauses of HostFunctions (DeviceMemoryWindow). -/
theorem witness_HostFunctions_DeviceMemoryWindow :
    (4261412864 ≤ 4261412880 ∧ (ld Mode.load).mod.mode = Mode.load ∧ (ld Mode.load).rb Field.SWC_LAYOUT_LOCKED = false ∧ (ld Mode.load).leaseOk 0 = true ∧ 4261412880 + 3 ≤ 2 ^ 32) ∧
    (4261412864 ≤ 4261412880 ∧ x18_1.mod.mode = Mode.load ∧ x18_1.rb Field.SWC_LAYOUT_LOCKED = false ∧ x18_1.leaseOk 0 = true ∧ 4261412880 + [1#8, 0#8, 3#8].length ≤ 2 ^ 32) ∧
    ((3 = if false = true then [1#8, 0#8, 3#8].length else 3) ∧ (4261412864 ≤ 4261412880 → 4261412880 + 3 ≤ 2 ^ 32 → (ld Mode.run).apertureOpen 0 = false) ∧ (4261412864 < 4261412880 + 3 ∨ (ld Mode.run).grantOf 0 4261412880 3 = none ∨ false = true ∧ ∃ (g : Nat), (ld Mode.run).grantOf 0 4261412880 3 = some g ∧ (ld Mode.run).rb Field.HST_GR_RO g = true) ∧ (ld Mode.run).limits.find (Ev.HST_E_PARTITION.code * 65536 + 0) = none) ∧
    ((3 = if false = true then [1#8, 0#8, 3#8].length else 3) ∧ (4261412864 ≤ 131088 → 131088 + 3 ≤ 2 ^ 32 → (gr (ld Mode.load) true).apertureOpen 0 = false) ∧ 131088 + 3 ≤ 4261412864 ∧ 131088 < 4261412864 ∧ (gr (ld Mode.load) true).grantOf 0 131088 3 = some 3 ∧ (false = true → (gr (ld Mode.load) true).rb Field.HST_GR_RO 3 = false) ∧ (gr (ld Mode.load) true).mod.mode = Mode.load ∧ (gr (ld Mode.load) true).rb Field.MEM_INIT_FLAG = false) ∧
    ((3 = if false = true then [1#8, 0#8, 3#8].length else 3) ∧ (4261412864 ≤ 131088 → 131088 + 3 ≤ 2 ^ 32 → (gr (ld Mode.run) true).apertureOpen 0 = false) ∧ 131088 + 3 ≤ 4261412864 ∧ 131088 < 4261412864 ∧ (gr (ld Mode.run) true).grantOf 0 131088 3 = some 3 ∧ (false = true → (gr (ld Mode.run) true).rb Field.HST_GR_RO 3 = false) ∧ ((gr (ld Mode.run) true).mod.mode ≠ Mode.load ∨ (gr (ld Mode.run) true).rb Field.MEM_INIT_FLAG = true) ∧ (gr (ld Mode.run) true).marksIn ((gr (ld Mode.run) true).grantAddr 3 131088 / 8) (wordsOf ((gr (ld Mode.run) true).grantAddr 3 131088) 3) = []) ∧
    ((3 = if false = true then [1#8, 0#8, 3#8].length else 3) ∧ (4261412864 ≤ 131088 → 131088 + 3 ≤ 2 ^ 32 → (mk (gr (ld Mode.run) true)).apertureOpen 0 = false) ∧ 131088 + 3 ≤ 4261412864 ∧ 131088 < 4261412864 ∧ (mk (gr (ld Mode.run) true)).grantOf 0 131088 3 = some 3 ∧ (false = true → (mk (gr (ld Mode.run) true)).rb Field.HST_GR_RO 3 = false) ∧ ((mk (gr (ld Mode.run) true)).mod.mode ≠ Mode.load ∨ (mk (gr (ld Mode.run) true)).rb Field.MEM_INIT_FLAG = true) ∧ (∃ (e : Nat × Bool), e ∈ (mk (gr (ld Mode.run) true)).marksIn ((mk (gr (ld Mode.run) true)).grantAddr 3 131088 / 8) (wordsOf ((mk (gr (ld Mode.run) true)).grantAddr 3 131088) 3) ∧ e.snd = true)) ∧
    ((3 = if true = true then [1#8, 0#8, 3#8].length else 9) ∧ (4261412864 ≤ 131088 → 131088 + 3 ≤ 2 ^ 32 → (gr (ld Mode.run) false).apertureOpen 0 = false) ∧ 131088 + 3 ≤ 4261412864 ∧ 131088 < 4261412864 ∧ (gr (ld Mode.run) false).grantOf 0 131088 3 = some 3 ∧ (true = true → (gr (ld Mode.run) false).rb Field.HST_GR_RO 3 = false) ∧ ((gr (ld Mode.run) false).mod.mode ≠ Mode.load ∨ (gr (ld Mode.run) false).rb Field.MEM_INIT_FLAG = true) ∧ (gr (ld Mode.run) false).marksIn ((gr (ld Mode.run) false).grantAddr 3 131088 / 8) (wordsOf ((gr (ld Mode.run) false).grantAddr 3 131088) 3) = []) := by decide

end W18

namespace W19

def h0 : Src := .host 0
def b0 : State := ((own .run).setB .TSK_FB_EN 0 false)
def gr (s : State) (en ro : Bool) (m w l : Nat) : State := ((((s.setB .HST_GR_EN m en).setB .HST_GR_RO m ro).setN .HST_GR_WIN m w).setN .HST_GR_LEN m l).setN .HST_GR_DEV m 0x22100
def tm0' : Tmpl := {tm0 with perm := 32}
def DD (st : DmaSt) : Dma := { tmpl := 0, ttag := 0, cl := 0, seq := 4, ctx := 9, gen := 3, cls := 1, rcd := tm0', desc := 64, op := 1, notify := false, order := false, tag := 0, len := 100, src := 0x201, dst := 0x200403, sk := 1, dk := 0, done := 61, st := st, va := 0, cause := 2, port := 2 }
def CX (st : CtxSt) : Ctx := { Ctx.none with st := st, gen := 3, pc := 8, cls := 1, rcd := tm0' }
def dm (d : Dma) (dw : Option Nat := none) : State := { (b0.setB .HST_LINK_UP 2 true) with eng := { R.eng with ctx := [(9, {CX .awaiting with dmaw := dw}), (10, CX .running)] }, mmu := { R.mmu with dmas := [{DD .page with port := 1, seq := 3}, d, {DD .queued with seq := 5}] } }

/-- States and operands that meet the hypotheses of the clauses of HostFunctions (HostFunctions). -/
theorem witness_HostFunctions_1 :
    ((gr b0 false false 3 2 1).isHolder h0 = true ∧ ((if 0 = 0 then (2147622976#32).getLsbD 31 else (gr b0 false false 3 2 1).rb Field.HST_GR_EN (0 * 16 + 3)) = false ∨ 9130999808 ≤ (if 0 = 0 then bitsOf 2147622976 Field.HST_GR_DEV.info.msb Field.HST_GR_DEV.info.lsb else (gr b0 false false 3 2 1).rn Field.HST_GR_DEV (0 * 16 + 3)) * 65536 ∧ ((if 0 = 0 then bitsOf 2147622976 Field.HST_GR_DEV.info.msb Field.HST_GR_DEV.info.lsb else (gr b0 false false 3 2 1).rn Field.HST_GR_DEV (0 * 16 + 3)) + if 0 = 2 then bitsOf 2147622976 Field.HST_GR_LEN.info.msb Field.HST_GR_LEN.info.lsb else (gr b0 false false 3 2 1).rn Field.HST_GR_LEN (0 * 16 + 3)) * 65536 ≤ 17112760320 ∧ ((if 0 = 1 then bitsOf 2147622976 Field.HST_GR_WIN.info.msb Field.HST_GR_WIN.info.lsb else (gr b0 false false 3 2 1).rn Field.HST_GR_WIN (0 * 16 + 3)) + if 0 = 2 then bitsOf 2147622976 Field.HST_GR_LEN.info.msb Field.HST_GR_LEN.info.lsb else (gr b0 false false 3 2 1).rn Field.HST_GR_LEN (0 * 16 + 3)) ≤ 65024 ∧ (if 0 = 2 then bitsOf 2147622976 Field.HST_GR_LEN.info.msb Field.HST_GR_LEN.info.lsb else (gr b0 false false 3 2 1).rn Field.HST_GR_LEN (0 * 16 + 3)) ≠ 0 ∧ ∀ (i : Nat), i < 16 → i ≠ 3 → (gr b0 false false 3 2 1).rb Field.HST_GR_EN (0 * 16 + i) = true → ((if 0 = 1 then bitsOf 2147622976 Field.HST_GR_WIN.info.msb Field.HST_GR_WIN.info.lsb else (gr b0 false false 3 2 1).rn Field.HST_GR_WIN (0 * 16 + 3)) + if 0 = 2 then bitsOf 2147622976 Field.HST_GR_LEN.info.msb Field.HST_GR_LEN.info.lsb else (gr b0 false false 3 2 1).rn Field.HST_GR_LEN (0 * 16 + 3)) ≤ (gr b0 false false 3 2 1).rn Field.HST_GR_WIN (0 * 16 + i) ∨ (gr b0 false false 3 2 1).rn Field.HST_GR_WIN (0 * 16 + i) + (gr b0 false false 3 2 1).rn Field.HST_GR_LEN (0 * 16 + i) ≤ if 0 = 1 then bitsOf 2147622976 Field.HST_GR_WIN.info.msb Field.HST_GR_WIN.info.lsb else (gr b0 false false 3 2 1).rn Field.HST_GR_WIN (0 * 16 + 3))) ∧
    ((gr b0 false false 3 2 1).isHolder h0 = true ∧ ((if 0 = 0 then (2147622960#32).getLsbD 31 else (gr b0 false false 3 2 1).rb Field.HST_GR_EN (0 * 16 + 3)) = true ∧ ((if 0 = 0 then bitsOf 2147622960 Field.HST_GR_DEV.info.msb Field.HST_GR_DEV.info.lsb else (gr b0 false false 3 2 1).rn Field.HST_GR_DEV (0 * 16 + 3)) * 65536 < 9130999808 ∨ 17112760320 < ((if 0 = 0 then bitsOf 2147622960 Field.HST_GR_DEV.info.msb Field.HST_GR_DEV.info.lsb else (gr b0 false false 3 2 1).rn Field.HST_GR_DEV (0 * 16 + 3)) + if 0 = 2 then bitsOf 2147622960 Field.HST_GR_LEN.info.msb Field.HST_GR_LEN.info.lsb else (gr b0 false false 3 2 1).rn Field.HST_GR_LEN (0 * 16 + 3)) * 65536 ∨ (65024 < (if 0 = 1 then bitsOf 2147622960 Field.HST_GR_WIN.info.msb Field.HST_GR_WIN.info.lsb else (gr b0 false false 3 2 1).rn Field.HST_GR_WIN (0 * 16 + 3)) + if 0 = 2 then bitsOf 2147622960 Field.HST_GR_LEN.info.msb Field.HST_GR_LEN.info.lsb else (gr b0 false false 3 2 1).rn Field.HST_GR_LEN (0 * 16 + 3)) ∨ (if 0 = 2 then bitsOf 2147622960 Field.HST_GR_LEN.info.msb Field.HST_GR_LEN.info.lsb else (gr b0 false false 3 2 1).rn Field.HST_GR_LEN (0 * 16 + 3)) = 0) ∨ (if 0 = 0 then (2147622960#32).getLsbD 31 else (gr b0 false false 3 2 1).rb Field.HST_GR_EN (0 * 16 + 3)) = true ∧ ∃ (i : Nat), i < 16 ∧ i ≠ 3 ∧ (gr b0 false false 3 2 1).rb Field.HST_GR_EN (0 * 16 + i) = true ∧ (if 0 = 1 then bitsOf 2147622960 Field.HST_GR_WIN.info.msb Field.HST_GR_WIN.info.lsb else (gr b0 false false 3 2 1).rn Field.HST_GR_WIN (0 * 16 + 3)) < (gr b0 false false 3 2 1).rn Field.HST_GR_WIN (0 * 16 + i) + (gr b0 false false 3 2 1).rn Field.HST_GR_LEN (0 * 16 + i) ∧ (gr b0 false false 3 2 1).rn Field.HST_GR_WIN (0 * 16 + i) < (if 0 = 1 then bitsOf 2147622960 Field.HST_GR_WIN.info.msb Field.HST_GR_WIN.info.lsb else (gr b0 false false 3 2 1).rn Field.HST_GR_WIN (0 * 16 + 3)) + if 0 = 2 then bitsOf 2147622960 Field.HST_GR_LEN.info.msb Field.HST_GR_LEN.info.lsb else (gr b0 false false 3 2 1).rn Field.HST_GR_LEN (0 * 16 + 3))) ∧
    (((b0.setB Field.HST_LINK_UP 2 true).rb Field.HST_LINK_UP 2 = true ∨ (b0.setB Field.HST_LINK_UP 2 true).dom (36 + 2) ≠ dsOn)) ∧
    ((b0.setDom 38 dsOn).rb Field.HST_LINK_UP 2 = false ∧ (b0.setDom 38 dsOn).dom (36 + 2) = dsOn) ∧
    (b0.rb Field.HST_LINK_UP 2 = false) ∧
    ((b0.setB Field.HST_LINK_UP 2 true).rb Field.HST_LINK_UP 2 = true ∧ (∀ (d : Dma), d ∈ (b0.setB Field.HST_LINK_UP 2 true).mmu.dmas → d.st = DmaSt.page ∨ d.st = DmaSt.pageWait → d.port ≠ 2)) := by decide

/-- States and operands that meet the hypotheses of the clauses of HostFunctions (HostFunctions). -/
theorem witness_HostFunctions_2 :
    (List.filter (fun (y : Dma) => (y.st == DmaSt.page || y.st == DmaSt.pageWait) && y.port == 2) (dm (DD DmaSt.page)).mmu.dmas = [DD DmaSt.page] ∧ (DD DmaSt.page).cls ≠ 0 ∧ (dm (DD DmaSt.page)).dmaOf (DD DmaSt.page).cl (DD DmaSt.page).seq = some (DD DmaSt.page) ∧ (dm (DD DmaSt.page)).rb Field.HST_LINK_UP 2 = true) ∧
    (List.filter (fun (y : Dma) => (y.st == DmaSt.page || y.st == DmaSt.pageWait) && y.port == 2) (dm (DD DmaSt.page)).mmu.dmas = [DD DmaSt.page] ∧ (DD DmaSt.page).cls ≠ 0 ∧ (dm (DD DmaSt.page)).dmaOf (DD DmaSt.page).cl (DD DmaSt.page).seq = some (DD DmaSt.page) ∧ (true = false ∨ false = false)) ∧
    ((true = true ∧ true = true ∨ ∀ (d : Dma), d ∈ (dm (DD DmaSt.page)).mmu.dmas → d.st = DmaSt.page ∨ d.st = DmaSt.pageWait → d.port ≠ 2)) := by decide

end W19

end Sys2Proof.Tests
end

section
/-! PROOFS. The lease guard turned away (spec/17 R470): a fenced command is the fence alone, and what the fence does by its source. -/

namespace Sys2Proof.Machine

open Sys2Proof

/-! ### Rate-limited events -/

/-- An event whose key is within its interval is not raised. -/
theorem State.raiseLimited_of_recent {s : State} {e : Ev} {key ns t : Nat} (a0 a1 i : Nat)
    (hf : s.limits.find (e.code * 65536 + key) = some t) (ht : s.freeNs < t + ns) : s.raiseLimited e key ns a0 a1 i = s := by
  unfold State.raiseLimited
  simp only [hf, ht, if_true]

/-- An event whose key has no instant within its interval is noted and raised. -/
theorem State.raiseLimited_of_due {s : State} {e : Ev} {key ns : Nat} (a0 a1 i : Nat)
    (hd : ∀ t, s.limits.find (e.code * 65536 + key) = some t → t + ns ≤ s.freeNs) :
    s.raiseLimited e key ns a0 a1 i = { s with limits := s.limits.set (e.code * 65536 + key) s.freeNs }.raise e a0 a1 i := by
  unfold State.raiseLimited
  cases hf : s.limits.find (e.code * 65536 + key) with
  | none => simp only [hf]
  | some t => simp only [hf, if_neg (Nat.not_lt.mpr (hd t hf))]

/-- The fence event of function `n`, raised on a state with the same log, clock and limits. -/
theorem fenceEvent_raiseLimited {s u : State} (n : Nat) (hl : u.limits = s.limits) (ht : u.tim = s.tim)
    (hw : u.reg .GLB_EVT_WPTR 0 = s.reg .GLB_EVT_WPTR 0) (hr : u.logRecs = s.logRecs) :
    FenceEvent n s (u.raiseLimited .HST_E_FENCED n ms1 n) := by
  have hn : u.freeNs = s.freeNs := by unfold State.freeNs; rw [ht]
  refine ⟨fun t hf hlt => ?_, fun hd => ?_⟩
  · rw [State.raiseLimited_of_recent (t := t) _ _ _ (by rw [hl]; exact hf) (by rw [hn]; exact hlt)]
    exact ⟨hw, hr⟩
  · rw [State.raiseLimited_of_due _ _ _ fun t hf => by rw [hn]; exact hd t (hl ▸ hf)]
    exact raised_raise _ _ _ _ hw hr (congrArg Tim.now ht)

/-! ### What the fence does -/

/-- The parts a fenced command may change. -/
theorem fenced_changesOnly (s : State) (src : Src) : changesOnly [.hst, .logRecs, .limits, .reg .GLB, .reg .HST] s (s.fenced src) :=
  changesOnly_of rfl (only_fenced (m := pmask [.hst, .logRecs, .limits, .reg .GLB, .reg .HST]) src rfl (Only.refl _ _))

/-- A host's fence is counted, changes no other register but those of the event, and raises the event where it is due. -/
theorem fenced_host (s : State) (h : Fin 4) :
    (s.fenced (.host h)).rn .HST_FENCED_CNT h.val = satAdd (fieldMax .HST_FENCED_CNT) (s.rn .HST_FENCED_CNT h.val) 1 ∧
    regsOnly ((.HST_FENCED_CNT, h.val) :: evRegs .HST_E_FENCED 0) s (s.fenced (.host h)) ∧ FenceEvent h.val s (s.fenced (.host h)) := by
  refine ⟨fenced_count s h, ?_, ?_⟩
  · exact regsOnly.raiseLimited _ _ _ _ _ _ (fun x hx => List.mem_cons_of_mem _ hx)
      (regsOnly.countF _ _ _ (List.mem_cons_self ..) (regsOnly.refl _ s))
  · exact fenceEvent_raiseLimited h.val (by simp [State.countF]) (by simp [State.countF])
      (by rw [State.reg_countF, if_neg (by simp)]) (by simp [State.countF])

/-- The steward's fence raises the event where it is due, and changes no register but those of the event. -/
theorem fenced_steward (s : State) :
    regsOnly (evRegs .HST_E_FENCED 0) s (s.fenced .steward) ∧ FenceEvent (fnOf .steward) s (s.fenced .steward) :=
  ⟨regsOnly.raiseLimited _ _ _ _ _ _ (fun _ hx => hx) (regsOnly.refl _ s), fenceEvent_raiseLimited _ rfl rfl rfl rfl⟩

/-! ### Which commands fence -/

/-- A host passes the guard of a block, and is the holder, just when it holds the lease and presents the current epoch. -/
theorem State.leaseOk_iff (s : State) (h : Fin 4) :
    s.leaseOk h = true ↔ s.mod.holder = some h ∧ s.reg .GLB_LU_EPOCH h.val = s.mod.epoch := by
  simp [State.leaseOk]

/-- A source that is no host with the lease and the current epoch is not the holder. -/
theorem State.isHolder_eq_false {s : State} {src : Src}
    (hn : ¬ ∃ h : Fin 4, src = .host h ∧ s.mod.holder = some h ∧ s.reg .GLB_LU_EPOCH h.val = s.mod.epoch) : s.isHolder src = false := by
  cases src with
  | host h =>
    rw [← Bool.not_eq_true]
    exact fun hl => hn ⟨h, rfl, (s.leaseOk_iff h).mp hl⟩
  | steward => rfl
  | engine k => rfl

/-- A write turned away by the guard of a register that no engine context writes. -/
theorem State.guardedHere_not {s : State} {src : Src} {b : Block} (f : State → State) (h : s.guard src b = false) :
    s.guardedHere src b f = s.fenced src := by
  cases src with
  | host x => exact State.guarded_not f h
  | steward => exact State.guarded_not f h
  | engine k => rfl

/-- A command that only the holder gives is fenced from any other source. -/
theorem exec_eq_fenced_of_leaseSrc {c : Instr} {s : State} {src : Src} (hc : leaseSrc c = some src) (hh : s.isHolder src = false) :
    exec c s = .next (s.fenced src) := by
  unfold leaseSrc at hc
  split at hc <;> cases hc <;> exact congrArg Host.Outcome.next (State.held_not _ hh)

/-- A guarded command is fenced from a source that its guard turns away. -/
theorem exec_eq_fenced_of_guardBlock {c : Instr} {s : State} {src : Src} {b : Block} (hc : guardBlock c = some (src, b))
    (hg : s.guard src b = false) : exec c s = .next (s.fenced src) := by
  cases c with
  | sauJgEn | sauStCfg | sauPubCfg =>
    obtain ⟨hw, hc⟩ := Option.ite_none_left_eq_some.mp hc
    cases hc
    exact congrArg Host.Outcome.next ((if_neg hw).trans (State.guarded_not _ hg))
  | tskFbEn | tskCntClr | invalidateAll | mmuCntClr =>
    cases hc
    exact congrArg Host.Outcome.next (State.guardedHere_not _ hg)
  | pwrEngClkSet | pwrDomReq | pwrDomCgOnly | set | step | setAtPps | timSrc | timPtpLock | timAdjFreq | prtCfg | prtPreCfg | prtRedCfg
  | parCntClr | clsCfg | clsStage | clsCommit | clsAbort | clsDiscard | clsCntClr | tblSeed | tblSeedNext | tblCntClr | flwKprof | flwLbg
  | flwCntClr | sauCfg | sauCntClr | swcLayoutApply | swcRgMaskH | swcCntClr | tmgCg | tmgQCfg | shaperConfig | tmgCntClr | engCntClr
  | tskTtEn | invalidateAsid | invalidateRange | mmuRoot | testAll | burn | writeComputed | writeRaw | readRaw | memCntClr | imageLoad =>
    cases hc
    exact congrArg Host.Outcome.next (State.guarded_not _ hg)
  | _ => cases hc

/-- Settles O9: the command is the fence alone, whose effect the source decides. -/
theorem onlyTheHolderCommands : Obligations.OnlyTheHolderCommands := by
  intro c s src hc hn
  have hh : s.isHolder src = false := State.isHolder_eq_false hn
  have he : exec c s = .next (s.fenced src) := by
    rcases hc with hc | ⟨b, h, hc, rfl⟩
    · exact exec_eq_fenced_of_leaseSrc hc hh
    · exact exec_eq_fenced_of_guardBlock hc hh
  refine ⟨_, he, fenced_changesOnly s src, ?_⟩
  cases src with
  | host h => exact fenced_host s h
  | steward => exact fenced_steward s
  | engine k => rfl

end Sys2Proof.Machine
end

section
/-! PROOFS. The checked buffer operations (spec/11 R302): what a failed check leaves, and what a handover and a free do by the descriptor they meet. -/

namespace Sys2Proof.Machine

open Sys2Proof

/-! ### A failed check -/

/-- The record of a failed check (R302). -/
def State.ownErrRecord (s : State) (op st holder id h : Nat) : State :=
  let t := ((s.setB .SWC_OWN_ERR_VALID 0 true).setN .SWC_OWN_ERR_OP 0 op).setN .SWC_OWN_ERR_STATE 0 st
  let t := ((t.setN .SWC_OWN_ERR_HOLDER 0 holder).setN .SWC_OWN_ERR_ID 0 id).setN .SWC_OWN_ERR_BUF 0 h
  { t with swc := { t.swc with ownRead := false } }

/-- A failed check counted. -/
def State.ownErrCount (s : State) (id : Nat) : State := (s.countF .SWC_OWN_CNT id).bump .SWC_CNT_OWN_ERR

/-- A failed check counted, and recorded where no record stands. -/
def State.ownErrNoted (s : State) (op id h : Nat) : State :=
  if (s.ownErrCount id).rb .SWC_OWN_ERR_VALID then s.ownErrCount id
  else (s.ownErrCount id).ownErrRecord op (bufCode (s.buf h)) (((s.buf h).map (·.owner)).getD 0) id h

/-- A failed check is counted and recorded, and raises the event of its cause. -/
theorem State.ownErr_eq (s : State) (op id h : Nat) : s.ownErr op id h =
    (s.ownErrNoted op id h).raise (if s.poolCount (poolOf h) ≤ idxOf h then .SWC_E_BUF_RANGE else .SWC_E_OWNER) id
      (h + op * 2 ^ 20 + bufCode (s.buf h) * 2 ^ 24) := by
  rw [apply_ite fun e => (s.ownErrNoted op id h).raise e id (h + op * 2 ^ 20 + bufCode (s.buf h) * 2 ^ 24)]
  rfl

theorem State.ownErrNoted_hst (s : State) (op id h : Nat) : (s.ownErrNoted op id h).hst = s.hst := by
  unfold State.ownErrNoted
  split <;> simp [State.ownErrRecord, State.ownErrCount]

@[simp] theorem State.ownErr_bufs (s : State) (op id h : Nat) : (s.ownErr op id h).swc.bufs = s.swc.bufs := by
  rw [State.ownErr_eq, State.raise_swc]
  unfold State.ownErrNoted
  split <;> simp [State.ownErrRecord, State.ownErrCount]

@[simp] theorem State.ownErr_layout (s : State) (op id h : Nat) : (s.ownErr op id h).swc.layout = s.swc.layout := by
  rw [State.ownErr_eq, State.raise_swc]
  unfold State.ownErrNoted
  split <;> simp [State.ownErrRecord, State.ownErrCount]

theorem State.ownErr_ctr (s : State) (op id h : Nat) :
    (s.ownErr op id h).ctr .SWC_CNT_OWN_ERR = s.ctr .SWC_CNT_OWN_ERR + 1#64 := by
  have hc : (s.ownErrCount id).ctr .SWC_CNT_OWN_ERR = s.ctr .SWC_CNT_OWN_ERR + 1#64 := State.ctr_bump_self ..
  rw [State.ownErr_eq, State.raise_ctr, ← hc]
  unfold State.ownErrNoted
  split <;> simp [State.ownErrRecord]

/-! ### A check that passes -/

@[simp] theorem State.notePool_bufs (s : State) (i : Nat) : (s.notePool i).swc.bufs = s.swc.bufs := by
  unfold State.notePool
  dsimp only
  split
  · rw [State.raiseLimited_swc]
  · split <;> rfl

/-- A freed buffer is FREE. -/
@[simp] theorem State.freed_buf (s : State) (h : Nat) : (s.freed h).buf h = none := by
  unfold State.freed State.buf
  rw [State.notePool_bufs]
  exact SMap.find_erase_self _ _

@[simp] theorem State.setBuf_buf (s : State) (h : Nat) (b : Buf) : (s.setBuf h b).buf h = some b := SMap.find_set_self ..

/-! ### HANDOVER and FREE by the descriptor -/

theorem State.handover_of_held {s : State} {h id : Nat} {b : Buf} (dest op charge : Nat) (hb : s.buf h = some b) (hs : b.st = .held)
    (ho : b.owner = id) : s.handover h id dest op charge = (s.setBuf h { b with owner := dest }, true) := by
  simp [State.handover, hb, hs, ho]

theorem State.handover_of_foreign {s : State} {h id : Nat} (dest op charge : Nat) (hf : ∀ b, s.buf h = some b → b.owner ≠ id) :
    s.handover h id dest op charge = (s.ownErr op charge h, false) := by
  unfold State.handover
  cases hb : s.buf h with
  | none => rfl
  | some b => simp [hf b hb]

theorem State.freeBuf_of_held {s : State} {h id : Nat} {b : Buf} (op charge : Nat) (hb : s.buf h = some b) (hs : b.st = .held)
    (ho : b.owner = id) : s.freeBuf h id op charge = (s.freed h, true) := by
  simp [State.freeBuf, hb, hs, ho]

theorem State.freeBuf_of_foreign {s : State} {h id : Nat} (op charge : Nat) (hf : ∀ b, s.buf h = some b → b.owner ≠ id) :
    s.freeBuf h id op charge = (s.ownErr op charge h, false) := by
  unfold State.freeBuf
  cases hb : s.buf h with
  | none => rfl
  | some b => simp [hf b hb]

end Sys2Proof.Machine
end

section
/-! PROOFS. The operations under a host command that reach a host by signals alone: messages sent and pending bits (spec/17 R465, R476). -/

namespace Sys2Proof.Machine

open Sys2Proof

/-- From `s` to `t` the host attachment differs in nothing but the messages sent and the pending bits. -/
structure SignalsOnly (s t : State) : Prop where
  msix : t.hst.msix = s.hst.msix
  mem : t.hst.mem = s.hst.mem
  fetch : t.hst.fetch = s.hst.fetch
  txc : t.hst.txc = s.hst.txc
  ts : t.hst.ts = s.hst.ts
  rxp : t.hst.rxp = s.hst.rxp
  unsig : t.hst.unsig = s.hst.unsig
  rdata : t.hst.rdata = s.hst.rdata
  poison : t.hst.poison = s.hst.poison

namespace SignalsOnly

variable {a s t : State}

theorem refl (s : State) : SignalsOnly s s := ⟨rfl, rfl, rfl, rfl, rfl, rfl, rfl, rfl, rfl⟩

/-- An operation that leaves the host attachment. -/
theorem keep (h : SignalsOnly a s) (e : t.hst = s.hst) : SignalsOnly a t := by
  obtain ⟨h1, h2, h3, h4, h5, h6, h7, h8, h9⟩ := h
  constructor <;> rw [e] <;> assumption

theorem trans {b : State} (h : SignalsOnly a s) (g : SignalsOnly s b) : SignalsOnly a b :=
  ⟨g.msix.trans h.msix, g.mem.trans h.mem, g.fetch.trans h.fetch, g.txc.trans h.txc, g.ts.trans h.ts, g.rxp.trans h.rxp,
    g.unsig.trans h.unsig, g.rdata.trans h.rdata, g.poison.trans h.poison⟩

theorem signal (h : SignalsOnly a s) (x v : Nat) : SignalsOnly a (s.signal x v) := by
  refine h.trans ?_
  unfold State.signal
  split <;> exact ⟨rfl, rfl, rfl, rfl, rfl, rfl, rfl, rfl, rfl⟩

theorem signalEvt (h : SignalsOnly a s) (e : Ev) (x : Nat) : SignalsOnly a (s.signalEvt e x) := by
  unfold State.signalEvt
  split
  · exact h.signal _ _
  · exact h

theorem raise (h : SignalsOnly a s) (e : Ev) (a0 a1 i : Nat) : SignalsOnly a (s.raise e a0 a1 i) := by
  unfold State.raise
  refine signalEvt (signalEvt (signalEvt (signalEvt ?_ _ _) _ _) _ _) _ _
  exact h.keep (by simp)

theorem raiseLimited (h : SignalsOnly a s) (e : Ev) (key ns a0 a1 i : Nat) : SignalsOnly a (s.raiseLimited e key ns a0 a1 i) := by
  have hr : SignalsOnly a ({ s with limits := s.limits.set (e.code * 65536 + key) s.freeNs }.raise e a0 a1 i) := by
    refine raise ?_ _ _ _ _
    exact h.keep rfl
  unfold State.raiseLimited
  dsimp only
  split
  · split
    · exact h
    · exact hr
  · exact hr

theorem partitionErr (h : SignalsOnly a s) (src : Src) : SignalsOnly a (s.partitionErr src) := by
  cases src with
  | host x => refine raiseLimited ?_ _ _ _ _ _ _; exact h.keep rfl
  | steward => exact h.raiseLimited _ _ _ _ _ _
  | engine k => exact h.raiseLimited _ _ _ _ _ _

/-! ### Buffers (spec/11) -/

theorem notePool (h : SignalsOnly a s) (i : Nat) : SignalsOnly a (s.notePool i) := by
  unfold State.notePool
  dsimp only
  split
  · refine raiseLimited ?_ _ _ _ _ _ _; exact h.keep rfl
  · split <;> exact h.keep rfl

theorem freed (h : SignalsOnly a s) (b : Nat) : SignalsOnly a (s.freed b) := by
  refine notePool ?_ _
  exact h.keep rfl

theorem ownErr (h : SignalsOnly a s) (op id b : Nat) : SignalsOnly a (s.ownErr op id b) := by
  rw [State.ownErr_eq]
  exact raise (h.keep (State.ownErrNoted_hst ..)) _ _ _ _

theorem handover (h : SignalsOnly a s) (b id dest op charge : Nat) : SignalsOnly a (s.handover b id dest op charge).1 := by
  unfold State.handover
  split
  · split
    · exact h.keep rfl
    · exact h.ownErr _ _ _
  · exact h.ownErr _ _ _

theorem freeBuf (h : SignalsOnly a s) (b id op charge : Nat) : SignalsOnly a (s.freeBuf b id op charge).1 := by
  unfold State.freeBuf
  split
  · split
    · exact h.freed _
    · split
      · dsimp only
        split
        · exact h.freed _
        · exact h.keep rfl
      · exact h.ownErr _ _ _
  · exact h.ownErr _ _ _

theorem releaseBuf (h : SignalsOnly a s) (b id : Nat) (inset : Bool) : SignalsOnly a (s.releaseBuf b id inset).1 := by
  unfold State.releaseBuf
  split
  · split
    · dsimp only
      split
      · exact h.freed _
      · exact h.keep rfl
    · exact h.ownErr _ _ _
  · exact h.ownErr _ _ _

theorem endReplica (h : SignalsOnly a s) (p : Nat) (e : QEnt) : SignalsOnly a (s.endReplica p e) := by
  unfold State.endReplica
  split
  · exact h
  · split
    · exact h.freeBuf _ _ _ _
    · split
      · exact h.releaseBuf _ _ _
      · exact h.releaseBuf _ _ _

theorem grantAt (h : SignalsOnly a s) (b owner : Nat) (bytes : List Byte) (pkt : Option Packet) :
    SignalsOnly a (s.grantAt b owner bytes pkt) :=
  h.keep ((only_grantAt (m := 0x10000200800020000) b owner bytes pkt rfl (Only.refl _ s)).frame .hst rfl)

theorem countGrant (h : SignalsOnly a s) (i i0 : Nat) (prot low : Bool) : SignalsOnly a (s.countGrant i i0 prot low) :=
  h.keep ((only_countGrant (m := 0x10000000000000000) i i0 prot low rfl (Only.refl _ s)).frame .hst rfl)

theorem voidInsets (h : SignalsOnly a s) (b : Nat) : SignalsOnly a (s.voidInsets b) :=
  h.keep ((only_voidInsets (m := 0x200000040000) b rfl (Only.refl _ s)).frame .hst rfl)

theorem grantIn (h : SignalsOnly a s) (i i0 owner : Nat) (prot : Bool) (bytes : List Byte) (pkt : Option Packet) :
    SignalsOnly a (s.grantIn i i0 owner prot bytes pkt).1 := by
  have hd : SignalsOnly a s.draw.2 := h.keep rfl
  unfold State.grantIn
  dsimp only
  split
  · exact hd
  · exact ((hd.grantAt _ _ _ _).countGrant _ _ _ _).notePool _

theorem reclaim (h : SignalsOnly a s) (i i0 owner : Nat) (prot : Bool) (bytes : List Byte) (pkt : Option Packet) :
    SignalsOnly a (s.reclaim i i0 owner prot bytes pkt).1 := by
  unfold State.reclaim
  split
  · exact h
  · refine countGrant (grantAt (raiseLimited ?_ _ _ _ _ _ _) _ _ _ _) _ _ _ _
    exact (h.voidInsets _).keep rfl

theorem request (h : SignalsOnly a s) (prot : Bool) (len : Option Nat) (owner : Nat) (bytes : List Byte) (pkt : Option Packet) :
    SignalsOnly a (s.request prot len owner bytes pkt).1 := by
  unfold State.request
  dsimp only
  split
  · exact h
  · split
    · exact h.grantIn _ _ _ _ _ _
    · split
      · exact h.grantIn _ _ _ _ _ _
      · split
        · exact h.reclaim _ _ _ _ _ _
        · exact h

/-! ### Packets (spec/07) -/

theorem setBank (h : SignalsOnly a s) (b : Bool) (k : Bank) : SignalsOnly a (s.setBank b k) :=
  h.keep ((only_setBank (m := 0x2000) b k rfl (Only.refl _ s)).frame .hst rfl)

theorem bankDrained (h : SignalsOnly a s) (b : Bool) : SignalsOnly a (s.bankDrained b) := by
  unfold State.bankDrained
  dsimp only
  split
  · refine raise ?_ _ _ _ _
    exact (h.setBank b { s.bank b with st := .empty, ed := Edition.none }).keep rfl
  · exact h

theorem leaveBank (h : SignalsOnly a s) (p : Packet) : SignalsOnly a (s.leaveBank p).1 := by
  unfold State.leaveBank
  split
  · split
    · exact (h.setBank _ _).bankDrained _
    · exact h
  · exact h

end SignalsOnly

end Sys2Proof.Machine
end

section
/-! PROOFS. Memory of a host as the device writes it (spec/17 R462, R463): the bytes a write leaves, and what it leaves alone. -/

namespace Sys2Proof.Machine

open Sys2Proof

/-- Induction on a list from its end: host memory is written byte after byte. -/
theorem list_snoc_induction {α : Type} {P : List α → Prop} (nil : P []) (snoc : ∀ l b, P l → P (l ++ [b])) (l : List α) : P l := by
  have hr (m : List α) : P m.reverse := by
    induction m with
    | nil => exact nil
    | cons b m ih => exact List.reverse_cons .. ▸ snoc _ b ih
  exact l.reverse_reverse ▸ hr l.reverse

theorem list_getD_append_left {α : Type} {l₁ : List α} {i : Nat} (l₂ : List α) (x : α) (hi : i < l₁.length) : (l₁ ++ l₂).getD i x = l₁.getD i x := by
  rw [List.getD_eq_getElem?_getD, List.getD_eq_getElem?_getD, List.getElem?_append_left hi]

theorem list_getD_append_right {α : Type} {l₁ : List α} {i : Nat} (l₂ : List α) (x : α) (hi : l₁.length ≤ i) :
    (l₁ ++ l₂).getD i x = l₂.getD (i - l₁.length) x := by
  rw [List.getD_eq_getElem?_getD, List.getD_eq_getElem?_getD, List.getElem?_append_right hi]

@[simp] theorem State.hostWrite_regs (s : State) (h a : Nat) (l : List Byte) : (s.hostWrite h a l).regs = s.regs := rfl

@[simp] theorem State.hostWrite_ctr (s : State) (h a : Nat) (l : List Byte) (c : Ctr) (i : Nat) : (s.hostWrite h a l).ctr c i = s.ctr c i := rfl

@[simp] theorem State.hostWrite_txc (s : State) (h a : Nat) (l : List Byte) : (s.hostWrite h a l).hst.txc = s.hst.txc := rfl

@[simp] theorem State.hostWrite_rxp (s : State) (h a : Nat) (l : List Byte) : (s.hostWrite h a l).hst.rxp = s.hst.rxp := rfl

/-- A write of bytes one after another is the write of all. -/
theorem State.hostWrite_concat (s : State) (h a : Nat) (l : List Byte) (b : Byte) :
    s.hostWrite h a (l ++ [b]) = (s.hostWrite h a l).hostWrite h (a + l.length) [b] := by
  have hz : (List.range (l ++ [b]).length).zip (l ++ [b]) = (List.range l.length).zip l ++ [(l.length, b)] := by
    rw [List.length_append, List.length_singleton, List.range_succ, List.zip_append (List.length_range ..)]
    rfl
  unfold State.hostWrite
  dsimp only
  rw [hz, List.foldl_append]
  rfl

/-- Two writes of adjoining bytes are one. -/
theorem State.hostWrite_append (s : State) (h a : Nat) (l₁ l₂ : List Byte) :
    (s.hostWrite h a l₁).hostWrite h (a + l₁.length) l₂ = s.hostWrite h a (l₁ ++ l₂) := by
  induction l₂ using list_snoc_induction with
  | nil => rw [List.append_nil]; rfl
  | snoc l b ih =>
    rw [State.hostWrite_concat, ih, ← List.append_assoc, State.hostWrite_concat, List.length_append, Nat.add_assoc]

/-- A byte of host memory after one byte is written. -/
theorem State.hostByte_hostWrite_singleton (s : State) (h a x : Nat) (b : Byte) :
    (s.hostWrite h a [b]).hostByte h x = if x % 2 ^ 64 = a % 2 ^ 64 then b else s.hostByte h x := by
  show SMap.get 0#8 (SMap.set s.hst.mem (h * 2 ^ 64 + (a + 0) % 2 ^ 64) b) (h * 2 ^ 64 + x % 2 ^ 64) = _
  simp only [SMap.get_set, Nat.add_left_cancel_iff]
  rfl

/-- A byte at no written address is as before. -/
theorem State.hostByte_hostWrite_of_ne {h a x : Nat} (s : State) (l : List Byte) (hn : ∀ i, i < l.length → x % 2 ^ 64 ≠ (a + i) % 2 ^ 64) :
    (s.hostWrite h a l).hostByte h x = s.hostByte h x := by
  induction l using list_snoc_induction with
  | nil => rfl
  | snoc l b ih =>
    rw [List.length_append, List.length_singleton] at hn
    rw [State.hostWrite_concat, State.hostByte_hostWrite_singleton, if_neg (hn _ (Nat.lt_succ_self _))]
    exact ih fun i hi => hn i (Nat.lt_succ_of_lt hi)

/-- A written byte reads as written. -/
theorem State.hostByte_hostWrite_of_lt {l : List Byte} {i : Nat} (s : State) (h a : Nat) (hl : l.length ≤ 2 ^ 64) (hi : i < l.length) :
    (s.hostWrite h a l).hostByte h (a + i) = l.getD i 0#8 := by
  induction l using list_snoc_induction with
  | nil => exact absurd hi (Nat.not_lt_zero _)
  | snoc l b ih =>
    rw [List.length_append, List.length_singleton] at hl hi
    rw [State.hostWrite_concat, State.hostByte_hostWrite_singleton]
    rcases Nat.lt_succ_iff_lt_or_eq.mp hi with hi | rfl
    · rw [if_neg (by omega), ih (by omega) hi, list_getD_append_left _ _ hi]
    · rw [if_pos rfl, list_getD_append_right _ _ (Nat.le_refl _), Nat.sub_self]
      rfl

/-- A record written in two parts, the second part first. -/
theorem State.hostByte_hostWrite_parts {l₁ l₂ : List Byte} {i : Nat} (s : State) (h a : Nat) (hl : l₁.length + l₂.length ≤ 2 ^ 64)
    (hi : i < l₁.length + l₂.length) :
    ((s.hostWrite h (a + l₁.length) l₂).hostWrite h a l₁).hostByte h (a + i) = (l₁ ++ l₂).getD i 0#8 := by
  rcases Nat.lt_or_ge i l₁.length with h1 | h1
  · rw [State.hostByte_hostWrite_of_lt _ _ _ (by omega) h1, list_getD_append_left _ _ h1]
  · rw [State.hostByte_hostWrite_of_ne _ _ fun j hj => by omega, list_getD_append_right _ _ h1,
      ← State.hostByte_hostWrite_of_lt s h (a + l₁.length) (by omega) (by omega : i - l₁.length < l₂.length)]
    congr 1
    omega

@[simp] theorem leBytes_length (n v : Nat) : (leBytes n v).length = n := by
  induction n generalizing v with
  | zero => rfl
  | succ n ih => exact congrArg Nat.succ (ih _)

end Sys2Proof.Machine
end

section
/-! PROOFS. Doorbells and the words of a ring's registers, their refusals, and the held-off interrupt (spec/17 R459, R460, R465). -/

namespace Sys2Proof.Machine

open Sys2Proof

/-! ### Fields written from words -/

theorem bitsOf_lt (v : BitVec 32) (hi lo : Nat) : bitsOf v.toNat hi lo < 2 ^ 32 :=
  Nat.lt_of_le_of_lt (Nat.le_trans (Nat.mod_le _ _) (Nat.div_le_self _ _)) v.isLt

theorem State.rn_setN (s : State) (f g : Field) (i j n : Nat) :
    (s.setN f i n).rn g j = if g = f ∧ j = i then n % 2 ^ 32 else s.rn g j := by
  unfold State.rn
  rw [State.reg_setN]
  split
  · exact BitVec.toNat_ofNat ..
  · rfl

/-- A number that fits reads as written. -/
theorem State.rn_setN_self {n : Nat} (s : State) (f : Field) (i : Nat) (hn : n < 2 ^ 32) : (s.setN f i n).rn f i = n := by
  rw [State.rn_setN, if_pos ⟨rfl, rfl⟩, Nat.mod_eq_of_lt hn]

/-- A word's fields written change no other register. -/
theorem State.wrFields_regsOnly (s : State) (l : List Field) (i : Nat) (v : BitVec 32) :
    regsOnly (l.map fun f => (f, i)) s (s.wrFields l i v) := by
  induction l generalizing s with
  | nil => exact regsOnly.refl _ s
  | cons g l ih =>
    intro f j hn
    rw [List.map_cons, List.mem_cons, not_or] at hn
    obtain ⟨hg, hn⟩ := hn
    refine (ih _ f j hn).trans ?_
    rw [State.reg_setN, if_neg]
    rintro ⟨rfl, rfl⟩
    exact hg rfl

/-- The fields of a word, without one twice, read as the word has them. -/
theorem State.rn_wrFields {l : List Field} {f : Field} (s : State) (i : Nat) (v : BitVec 32) (hl : l.Nodup) (hf : f ∈ l) :
    (s.wrFields l i v).rn f i = bitsOf v.toNat f.info.msb f.info.lsb := by
  induction l generalizing s with
  | nil => cases hf
  | cons g l ih =>
    obtain ⟨hg, hl⟩ := List.nodup_cons.mp hl
    rcases List.mem_cons.mp hf with rfl | hf
    · have hk (u : State) : (u.wrFields l i v).rn f i = u.rn f i := congrArg BitVec.toNat (State.wrFields_regsOnly u l i v f i (by simpa using hg))
      exact (hk _).trans (State.rn_setN_self _ _ _ (bitsOf_lt ..))
    · exact ih _ hl hf

/-! ### A source that is not the ring's host -/

/-- Every ring command of a source that is not the ring's host is a partition error. -/
theorem exec_eq_partitionErr {s : State} {src : Src} {r : Fin 4096} {v : BitVec 32} (ho : ownsRing src r.val = false) :
    ∀ c ∈ [Instr.doorbell src r v, .hstRgEn src r v, .hstRgCfg src r 0 v, .hstRgCfg src r 1 v, .hstRgCfg src r 2 v],
      exec c s = .next (s.partitionErr src) := by
  have hd : exec (.doorbell src r v) s = .next (s.partitionErr src) := if_pos (by rw [ho]; rfl)
  have he : exec (.hstRgEn src r v) s = .next (s.partitionErr src) := congrArg _ (if_neg (by rw [ho]; decide))
  have hc (w : Fin 3) : exec (.hstRgCfg src r w v) s = .next (s.partitionErr src) := congrArg _ (if_neg (by rw [ho]; decide))
  simp only [List.mem_cons, List.not_mem_nil, or_false]
  rintro c (rfl | rfl | rfl | rfl | rfl)
  · exact hd
  · exact he
  all_goals exact hc _

theorem partitionErr_changesOnly (s : State) (src : Src) : changesOnly (.limits :: evParts .HST) s (s.partitionErr src) :=
  changesOnly_of rfl (only_partitionErr (m := pmask (.limits :: evParts .HST)) src rfl (Only.refl _ s))

/-- A partition error that no limit holds back is raised last. -/
theorem partitionErr_lastEvent {s : State} {src : Src} (hl : s.limits.find (Ev.code .HST_E_PARTITION * 65536 + fnOf src) = none) :
    LastEvent .HST_E_PARTITION (fnOf src) 0 (s.partitionErr src) := by
  have hr (u : State) (hu : u.limits = s.limits) :
      LastEvent .HST_E_PARTITION (fnOf src) 0 (u.raiseLimited .HST_E_PARTITION (fnOf src) ms1 (fnOf src)) := by
    rw [State.raiseLimited_of_due _ _ _ fun t ht => by rw [hu, hl] at ht; cases ht]
    exact lastEvent_raise ..
  cases src with
  | host h => exact hr _ rfl
  | steward => exact hr _ rfl
  | engine k => exact hr _ rfl

/-- A partition error changes no register but the count of the host, and those of its event. -/
theorem partitionErr_reg (s : State) (src : Src) {f : Field} (i : Nat) (h1 : f ≠ .HST_PART_CNT) (h2 : f ≠ .GLB_EVT_WPTR)
    (h3 : f ≠ .HST_EVT_PART) : (s.partitionErr src).reg f i = s.reg f i := by
  have h3' : Ev.stat .HST_E_PARTITION ≠ some f := fun e => h3 (Option.some.inj (show some Field.HST_EVT_PART = some f from e)).symm
  have hr (u : State) (hu : u.reg f i = s.reg f i) (k : Nat) : (u.raiseLimited .HST_E_PARTITION k ms1 k).reg f i = s.reg f i := by
    rw [State.reg_raiseLimited_ne _ _ _ _ _ _ _ _ _ (Or.inl h2) (Or.inl h3'), hu]
  cases src with
  | host h => exact hr _ (by rw [State.reg_countF, if_neg fun e => h1 e.1]) _
  | steward => exact hr _ rfl _
  | engine k => exact hr _ rfl _

/-! ### A refused write -/

theorem ringErr_changesOnly (s : State) (r : Nat) : changesOnly (evParts .HST) s (s.ringErr r) :=
  changesOnly_of rfl (only_ringErr (m := pmask (evParts .HST)) r rfl (Only.refl _ s))

theorem ringErr_raised (s : State) (r : Nat) : Raised .HST_E_RING_CFG r 0 s (s.ringErr r) :=
  raised_raise _ _ _ _ (by rw [State.reg_setN, if_neg (by simp)]) rfl rfl

theorem ringErr_regsOnly (s : State) (r : Nat) : regsOnly ((.HST_RG_ERR, r) :: evRegs .HST_E_RING_CFG 0) s (s.ringErr r) :=
  regsOnly.raise _ _ _ _ (fun _ hx => List.mem_cons_of_mem _ hx) (regsOnly.setN _ _ _ (List.mem_cons_self ..) (regsOnly.refl _ s))

theorem evRegs_ringCfg : evRegs .HST_E_RING_CFG 0 = [(.GLB_EVT_WPTR, 0), (.HST_EVT_PART, 0)] := rfl

/-- A refused write shows its code in the ring. -/
theorem ringErr_code (s : State) (r : Nat) : (s.ringErr r).rn .HST_RG_ERR r = Ev.code .HST_E_RING_CFG := by
  unfold State.ringErr State.rn
  rw [State.reg_raise_ne _ _ _ _ _ _ _ (Or.inl (by decide)) (Or.inl (by decide)), State.reg_setN_self]
  rfl

/-- A refused write leaves every other field of the ring. -/
theorem ringErr_rn (s : State) (r : Nat) {f : Field} (i : Nat) (h1 : f ≠ .HST_RG_ERR) (h2 : f ≠ .GLB_EVT_WPTR) (h3 : f ≠ .HST_EVT_PART) :
    (s.ringErr r).rn f i = s.rn f i :=
  congrArg BitVec.toNat (ringErr_regsOnly s r f i (by simp [evRegs_ringCfg, h1, h2, h3]))

/-! ### Doorbells -/

section
variable {s : State} {src : Src} {r : Fin 4096} {v : BitVec 32} (ho : ownsRing src r.val = true)
include ho

/-- A doorbell of the ring's host: nothing while the ring is off, an error beyond the ring, else the producer index. -/
theorem exec_doorbell_of_owner : exec (.doorbell src r v) s = .next (if s.rb .HST_RG_EN r.val = false then s
    else if 2 ^ s.rn .HST_RG_LOG2N r.val < (v.toNat % 65536 + 65536 - s.rn .HST_RG_CONS r.val) % 65536 then s.ringErr r.val
    else s.setN .HST_RG_PROD r.val (v.toNat % 65536)) := by
  show execDoorbell src r v s = _
  unfold execDoorbell
  simp only [ho, Bool.not_true, Bool.false_eq_true, if_false, Bool.not_eq_true']
  split
  · rfl
  · split <;> rfl

theorem exec_hstRgEn_of_owner : exec (.hstRgEn src r v) s = .next (s.wrRingEn r.val v) := congrArg _ (if_pos ho)

theorem exec_hstRgCfg_of_owner (w : Fin 3) : exec (.hstRgCfg src r w v) s = .next (s.wrRingCfg r.val w.val v) := congrArg _ (if_pos ho)

end

/-! ### The enable word -/

/-- Vector and enable of the enable word. -/
def State.takeRingEnable (s : State) (r : Nat) (v : BitVec 32) : State :=
  (s.setN .HST_RG_VEC r (bitsOf v.toNat 10 0)).setN .HST_RG_EN r (bitsOf v.toNat 31 31)

/-- The indices of a ring reset. -/
def State.resetRing (s : State) (r : Nat) : State :=
  let s := (s.setN .HST_RG_CONS r 0).setN .HST_RG_PROD r 0
  { s with hst := { s.hst with fetch := s.hst.fetch.put 0 r 0, unsig := s.hst.unsig.put 0 r 0 } }

/-- The rest of the enable word once its size is in range: vector and enable taken, and with an enable the indices reset (R460). -/
def State.takeRingWord (s : State) (r : Nat) (v : BitVec 32) : State :=
  if bitOf v.toNat 31 then (s.takeRingEnable r v).resetRing r else s.takeRingEnable r v

theorem wrRingEn_of_badSize {s : State} {r : Nat} {v : BitVec 32} (hn : bitsOf v.toNat 24 20 < 6 ∨ 15 < bitsOf v.toNat 24 20) :
    s.wrRingEn r v = s.ringErr r := if_pos (by simpa using hn)

/-- Size and kind of the enable word once its size is in range: taken while the ring is off, and refused to an enabled ring that has others (R460). -/
def State.takeRingMode (s : State) (r : Nat) (v : BitVec 32) : State :=
  if !s.rb .HST_RG_EN r then (s.setN .HST_RG_KIND r (bitsOf v.toNat 30 30)).setN .HST_RG_LOG2N r (bitsOf v.toNat 24 20)
  else if bitsOf v.toNat 24 20 ≠ s.rn .HST_RG_LOG2N r || bitsOf v.toNat 30 30 ≠ s.rn .HST_RG_KIND r then s.ringErr r
  else s

theorem wrRingEn_of_size {s : State} {r : Nat} {v : BitVec 32} (h6 : 6 ≤ bitsOf v.toNat 24 20) (h15 : bitsOf v.toNat 24 20 ≤ 15) :
    s.wrRingEn r v = (s.takeRingMode r v).takeRingWord r v :=
  if_neg (by simp only [Bool.or_eq_true, decide_eq_true_eq]; omega)

theorem takeRingMode_of_off {s : State} {r : Nat} (v : BitVec 32) (he : s.rb .HST_RG_EN r = false) : s.takeRingMode r v =
    (s.setN .HST_RG_KIND r (bitsOf v.toNat 30 30)).setN .HST_RG_LOG2N r (bitsOf v.toNat 24 20) := if_pos (by rw [he]; rfl)

theorem takeRingMode_of_same {s : State} {r : Nat} {v : BitVec 32} (he : s.rb .HST_RG_EN r = true)
    (hn : bitsOf v.toNat 24 20 = s.rn .HST_RG_LOG2N r) (hk : bitsOf v.toNat 30 30 = s.rn .HST_RG_KIND r) : s.takeRingMode r v = s := by
  simp [State.takeRingMode, he, hn, hk]

theorem takeRingMode_of_changed {s : State} {r : Nat} {v : BitVec 32} (he : s.rb .HST_RG_EN r = true)
    (hc : bitsOf v.toNat 24 20 ≠ s.rn .HST_RG_LOG2N r ∨ bitsOf v.toNat 30 30 ≠ s.rn .HST_RG_KIND r) : s.takeRingMode r v = s.ringErr r := by
  have hc' : (decide (bitsOf v.toNat 24 20 ≠ s.rn .HST_RG_LOG2N r) || decide (bitsOf v.toNat 30 30 ≠ s.rn .HST_RG_KIND r)) = true := by
    simpa only [Bool.or_eq_true, decide_eq_true_eq] using hc
  unfold State.takeRingMode
  rw [he, if_neg (by decide), if_pos hc']

/-- Size and kind where they are taken: written, and nothing else of the ring or the host. -/
theorem takeRingMode_taken {s : State} {r : Nat} {v : BitVec 32}
    (ha : s.rb .HST_RG_EN r = false ∨ (bitsOf v.toNat 24 20 = s.rn .HST_RG_LOG2N r ∧ bitsOf v.toNat 30 30 = s.rn .HST_RG_KIND r)) :
    (s.takeRingMode r v).rn .HST_RG_LOG2N r = bitsOf v.toNat 24 20 ∧ (s.takeRingMode r v).rn .HST_RG_KIND r = bitsOf v.toNat 30 30 ∧
    (s.takeRingMode r v).hst = s.hst ∧ regsOnly [(.HST_RG_LOG2N, r), (.HST_RG_KIND, r)] s (s.takeRingMode r v) ∧
    Only (pmask [.hst, .reg .HST]) s (s.takeRingMode r v) := by
  cases he : s.rb .HST_RG_EN r with
  | false =>
    rw [takeRingMode_of_off v he]
    refine ⟨State.rn_setN_self _ _ _ (bitsOf_lt ..), ?_, rfl, ?_, only_setN _ _ _ rfl (only_setN _ _ _ rfl (Only.refl _ s))⟩
    · rw [State.rn_setN, if_neg (by simp), State.rn_setN_self _ _ _ (bitsOf_lt ..)]
    · exact regsOnly.setN _ _ _ (by simp) (regsOnly.setN _ _ _ (by simp) (regsOnly.refl _ s))
  | true =>
    obtain ⟨hn, hk⟩ := ha.resolve_left (by rw [he]; decide)
    rw [takeRingMode_of_same he hn hk]
    exact ⟨hn.symm, hk.symm, rfl, regsOnly.refl _ s, Only.refl _ s⟩

/-- A one-bit field written from a word reads as the bit. -/
theorem State.rb_setN_bit (s : State) (f : Field) (i : Nat) (n hi : Nat) : (s.setN f i (bitsOf n hi hi)).rb f i = bitOf n hi := by
  have h1 : hi + 1 - hi = 1 := by omega
  unfold State.rb bitsOf bitOf
  rw [State.reg_setN_self, h1]
  rcases Nat.mod_two_eq_zero_or_one (n / 2 ^ hi) with h | h <;> simp [h]

section
variable (s : State) (r : Nat) (v : BitVec 32)

/-- Vector and enable change no other register. -/
theorem takeRingEnable_regsOnly : regsOnly [(.HST_RG_VEC, r), (.HST_RG_EN, r)] s (s.takeRingEnable r v) :=
  regsOnly.setN _ _ _ (by simp) (regsOnly.setN _ _ _ (by simp) (regsOnly.refl _ s))

theorem takeRingEnable_vec : (s.takeRingEnable r v).rn .HST_RG_VEC r = bitsOf v.toNat 10 0 := by
  unfold State.takeRingEnable
  rw [State.rn_setN, if_neg (by simp), State.rn_setN_self _ _ _ (bitsOf_lt ..)]

theorem takeRingEnable_en : (s.takeRingEnable r v).rb .HST_RG_EN r = bitOf v.toNat 31 := State.rb_setN_bit ..

/-- The indices reset change no other register. -/
theorem resetRing_regsOnly : regsOnly [(.HST_RG_CONS, r), (.HST_RG_PROD, r)] s (s.resetRing r) := by
  have hw : regsOnly [(.HST_RG_CONS, r), (.HST_RG_PROD, r)] s ((s.setN .HST_RG_CONS r 0).setN .HST_RG_PROD r 0) :=
    regsOnly.setN _ _ _ (by simp) (regsOnly.setN _ _ _ (by simp) (regsOnly.refl _ s))
  exact regsOnly.of_regs rfl hw

/-- Producer, consumer and fetch index of a ring after their reset. -/
theorem resetRing_indices : (s.resetRing r).rn .HST_RG_CONS r = 0 ∧ (s.resetRing r).rn .HST_RG_PROD r = 0 ∧ (s.resetRing r).fetchAt r = 0 := by
  refine ⟨?_, ?_, ?_⟩
  · show ((s.setN .HST_RG_CONS r 0).setN .HST_RG_PROD r 0).rn .HST_RG_CONS r = 0
    simp [State.rn_setN]
  · show ((s.setN .HST_RG_CONS r 0).setN .HST_RG_PROD r 0).rn .HST_RG_PROD r = 0
    simp [State.rn_setN]
  · exact SMap.get_put_self 0 s.hst.fetch r 0

theorem only_takeRingWord {m : Nat} {a : State} (hm : pmask [.hst, .reg .HST] ||| m = m) (h : Only m a s) :
    Only m a (s.takeRingWord r v) := by
  have hf (f : Field) (hf : fieldMask f ||| pmask [.hst, .reg .HST] = pmask [.hst, .reg .HST]) : fieldMask f ||| m = m := mask_trans hf hm
  have he : Only m a (s.takeRingEnable r v) := only_setN _ _ _ (hf _ rfl) (only_setN _ _ _ (hf _ rfl) h)
  unfold State.takeRingWord
  split
  · exact only_set_hst (bit_of hm rfl) (only_setN _ _ _ (hf _ rfl) (only_setN _ _ _ (hf _ rfl) he))
  · exact he

/-- What the rest of the word leaves: vector, enable bit, and with an enable the indices at 0. -/
theorem takeRingWord_fields : (s.takeRingWord r v).rn .HST_RG_VEC r = bitsOf v.toNat 10 0 ∧
    (s.takeRingWord r v).rb .HST_RG_EN r = bitOf v.toNat 31 ∧
    (bitOf v.toNat 31 = true → (s.takeRingWord r v).rn .HST_RG_CONS r = 0 ∧ (s.takeRingWord r v).rn .HST_RG_PROD r = 0 ∧ (s.takeRingWord r v).fetchAt r = 0) := by
  have hk {f : Field} (h1 : f ≠ .HST_RG_CONS) (h2 : f ≠ .HST_RG_PROD) :
      ((s.takeRingEnable r v).resetRing r).reg f r = (s.takeRingEnable r v).reg f r :=
    resetRing_regsOnly _ r f r (by simp [h1, h2])
  unfold State.takeRingWord
  split
  · refine ⟨?_, ?_, fun _ => resetRing_indices ..⟩
    · exact (congrArg BitVec.toNat (hk (by decide) (by decide))).trans (takeRingEnable_vec s r v)
    · exact (congrArg (· != 0#32) (hk (by decide) (by decide))).trans (takeRingEnable_en s r v)
  · exact ⟨takeRingEnable_vec s r v, takeRingEnable_en s r v, fun h => absurd h ‹_›⟩

/-- The rest of the word changes no register but these of the ring. -/
theorem takeRingWord_regsOnly :
    regsOnly [(.HST_RG_VEC, r), (.HST_RG_EN, r), (.HST_RG_CONS, r), (.HST_RG_PROD, r)] s (s.takeRingWord r v) := by
  intro f i hn
  simp only [List.mem_cons, List.not_mem_nil, or_false, not_or] at hn
  obtain ⟨h1, h2, h3, h4⟩ := hn
  have he : (s.takeRingEnable r v).reg f i = s.reg f i := takeRingEnable_regsOnly s r v f i (by simp [h1, h2])
  unfold State.takeRingWord
  split
  · exact (resetRing_regsOnly _ r f i (by simp [h3, h4])).trans he
  · exact he

/-- The rest of the word raises no event. -/
theorem takeRingWord_logRecs : (s.takeRingWord r v).logRecs = s.logRecs := by
  unfold State.takeRingWord
  split <;> simp [State.resetRing, State.takeRingEnable]

end

/-! ### The clauses -/

section
variable {s : State} {src : Src} {r : Fin 4096} {v : BitVec 32}

/-- R459, R460: a source that is not the ring's host raises HST_E_PARTITION and changes nothing of the ring. -/
theorem foreignRingCommand (ho : ownsRing src r.val = false) (hl : s.limits.find (Ev.code .HST_E_PARTITION * 65536 + fnOf src) = none) :
    ∀ c ∈ [Instr.doorbell src r v, .hstRgEn src r v, .hstRgCfg src r 0 v, .hstRgCfg src r 1 v, .hstRgCfg src r 2 v],
    Does c s (.limits :: evParts .HST) fun t => LastEvent .HST_E_PARTITION (fnOf src) 0 t ∧ t.hst.fetch = s.hst.fetch ∧
      ∀ f ∈ [Field.HST_RG_EN, .HST_RG_KIND, .HST_RG_LOG2N, .HST_RG_VEC, .HST_RG_PROD, .HST_RG_CONS, .HST_RG_BASE_L, .HST_RG_BASE_H, .HST_RG_MOD_US, .HST_RG_MOD_CNT],
        t.reg f r.val = s.reg f r.val := by
  intro c hc
  refine ⟨_, exec_eq_partitionErr ho c hc, partitionErr_changesOnly s src, partitionErr_lastEvent hl,
    ((SignalsOnly.refl s).partitionErr src).fetch, fun f hf => ?_⟩
  have hd : ∀ f ∈ [Field.HST_RG_EN, .HST_RG_KIND, .HST_RG_LOG2N, .HST_RG_VEC, .HST_RG_PROD, .HST_RG_CONS, .HST_RG_BASE_L, .HST_RG_BASE_H,
      .HST_RG_MOD_US, .HST_RG_MOD_CNT], f ≠ .HST_PART_CNT ∧ f ≠ .GLB_EVT_WPTR ∧ f ≠ .HST_EVT_PART := by decide
  obtain ⟨h1, h2, h3⟩ := hd f hf
  exact partitionErr_reg s src _ h1 h2 h3

section
variable (ho : ownsRing src r.val = true)
include ho

/-- R459: a doorbell beyond the ring is refused. -/
theorem doorbell_beyond (he : s.rb .HST_RG_EN r.val = true)
    (hp : 2 ^ s.rn .HST_RG_LOG2N r.val < (v.toNat % 65536 + 65536 - s.rn .HST_RG_CONS r.val) % 65536) :
    Does (.doorbell src r v) s (evParts .HST) fun t =>
      Raised .HST_E_RING_CFG r.val 0 s t ∧ t.rn .HST_RG_PROD r.val = s.rn .HST_RG_PROD r.val ∧ t.rn .HST_RG_ERR r.val = Ev.code .HST_E_RING_CFG := by
  refine ⟨s.ringErr r.val, ?_, ringErr_changesOnly s r.val, ringErr_raised s r.val,
    ringErr_rn s r.val r.val (by decide) (by decide) (by decide), ringErr_code s r.val⟩
  rw [exec_doorbell_of_owner ho, if_neg (by rw [he]; decide), if_pos hp]

/-- R459: a doorbell within the ring is its producer index. -/
theorem doorbell_within (he : s.rb .HST_RG_EN r.val = true)
    (hp : (v.toNat % 65536 + 65536 - s.rn .HST_RG_CONS r.val) % 65536 ≤ 2 ^ s.rn .HST_RG_LOG2N r.val) :
    Does (.doorbell src r v) s [.reg .HST] fun t => t.rn .HST_RG_PROD r.val = v.toNat % 65536 ∧ regsOnly [(.HST_RG_PROD, r.val)] s t := by
  refine ⟨s.setN .HST_RG_PROD r.val (v.toNat % 65536), ?_, ?_, State.rn_setN_self _ _ _ (by omega), ?_⟩
  · rw [exec_doorbell_of_owner ho, if_neg (by rw [he]; decide), if_neg (Nat.not_lt.mpr hp)]
  · exact changesOnly_of rfl (only_setN (m := pmask [.reg .HST]) _ _ _ rfl (Only.refl _ s))
  · exact regsOnly.setN _ _ _ (List.mem_singleton_self _) (regsOnly.refl _ s)

/-- R460: an enable word with a size out of range is refused. -/
theorem hstRgEn_badSize (hn : bitsOf v.toNat 24 20 < 6 ∨ 15 < bitsOf v.toNat 24 20) :
    Does (.hstRgEn src r v) s (evParts .HST) fun t => Raised .HST_E_RING_CFG r.val 0 s t ∧ regsOnly ((.HST_RG_ERR, r.val) :: evRegs .HST_E_RING_CFG 0) s t := by
  refine ⟨s.ringErr r.val, ?_, ringErr_changesOnly s r.val, ringErr_raised s r.val, ringErr_regsOnly s r.val⟩
  rw [exec_hstRgEn_of_owner ho, wrRingEn_of_badSize hn]

/-- R460: an enabled ring refuses another size or kind and keeps its own. -/
theorem hstRgEn_changed (h6 : 6 ≤ bitsOf v.toNat 24 20) (h15 : bitsOf v.toNat 24 20 ≤ 15) (he : s.rb .HST_RG_EN r.val = true)
    (hc : bitsOf v.toNat 24 20 ≠ s.rn .HST_RG_LOG2N r.val ∨ bitsOf v.toNat 30 30 ≠ s.rn .HST_RG_KIND r.val) :
    Does (.hstRgEn src r v) s (evParts .HST) fun t => Raised .HST_E_RING_CFG r.val 0 s t ∧
      t.rn .HST_RG_LOG2N r.val = s.rn .HST_RG_LOG2N r.val ∧ t.rn .HST_RG_KIND r.val = s.rn .HST_RG_KIND r.val := by
  have hk {f : Field} (h1 : f ∉ [Field.HST_RG_VEC, .HST_RG_EN, .HST_RG_CONS, .HST_RG_PROD, .HST_RG_ERR, .GLB_EVT_WPTR, .HST_EVT_PART]) :
      ((s.ringErr r.val).takeRingWord r.val v).rn f r.val = s.rn f r.val := by
    simp only [List.mem_cons, List.not_mem_nil, or_false, not_or] at h1
    obtain ⟨h1, h2, h3, h4, h5, h6, h7⟩ := h1
    exact (congrArg BitVec.toNat (takeRingWord_regsOnly _ _ _ f r.val (by simp [h1, h2, h3, h4]))).trans (ringErr_rn s r.val r.val h5 h6 h7)
  refine ⟨(s.ringErr r.val).takeRingWord r.val v, ?_, ?_, ?_, hk (by decide), hk (by decide)⟩
  · rw [exec_hstRgEn_of_owner ho, wrRingEn_of_size h6 h15, takeRingMode_of_changed he hc]
  · exact changesOnly_of rfl (only_takeRingWord _ _ _ (m := pmask (evParts .HST)) rfl (only_ringErr r.val rfl (Only.refl _ s)))
  · exact (ringErr_raised s r.val).keep (takeRingWord_regsOnly _ _ _ _ _ (by simp)) (takeRingWord_logRecs ..)

/-- R460: a ring that is off takes the word, and an enabled one the word with its own size and kind. -/
theorem hstRgEn_taken (h6 : 6 ≤ bitsOf v.toNat 24 20) (h15 : bitsOf v.toNat 24 20 ≤ 15)
    (ha : s.rb .HST_RG_EN r.val = false ∨ (bitsOf v.toNat 24 20 = s.rn .HST_RG_LOG2N r.val ∧ bitsOf v.toNat 30 30 = s.rn .HST_RG_KIND r.val)) :
    Does (.hstRgEn src r v) s [.hst, .reg .HST] fun t =>
      t.rn .HST_RG_LOG2N r.val = bitsOf v.toNat 24 20 ∧ t.rn .HST_RG_KIND r.val = bitsOf v.toNat 30 30 ∧ t.rn .HST_RG_VEC r.val = bitsOf v.toNat 10 0 ∧
      t.rb .HST_RG_EN r.val = bitOf v.toNat 31 ∧ (bitOf v.toNat 31 = true → t.rn .HST_RG_CONS r.val = 0 ∧ t.rn .HST_RG_PROD r.val = 0 ∧ t.fetchAt r.val = 0) ∧
      (bitOf v.toNat 31 = false → t.hst = s.hst ∧ regsOnly [(.HST_RG_LOG2N, r.val), (.HST_RG_KIND, r.val), (.HST_RG_VEC, r.val), (.HST_RG_EN, r.val)] s t) := by
  obtain ⟨hn, hk, hh, hr, ho'⟩ := takeRingMode_taken ha
  obtain ⟨hv, he, hi⟩ := takeRingWord_fields (s.takeRingMode r.val v) r.val v
  have hw {f : Field} (h1 : f ∉ [Field.HST_RG_VEC, .HST_RG_EN, .HST_RG_CONS, .HST_RG_PROD]) :
      ((s.takeRingMode r.val v).takeRingWord r.val v).rn f r.val = (s.takeRingMode r.val v).rn f r.val := by
    simp only [List.mem_cons, List.not_mem_nil, or_false, not_or] at h1
    obtain ⟨h1, h2, h3, h4⟩ := h1
    exact congrArg BitVec.toNat (takeRingWord_regsOnly _ _ _ f r.val (by simp [h1, h2, h3, h4]))
  refine ⟨(s.takeRingMode r.val v).takeRingWord r.val v, ?_, ?_, (hw (by decide)).trans hn, (hw (by decide)).trans hk, hv, he, hi, fun hb => ?_⟩
  · rw [exec_hstRgEn_of_owner ho, wrRingEn_of_size h6 h15]
  · exact changesOnly_of rfl (only_takeRingWord _ _ _ (m := pmask [.hst, .reg .HST]) rfl ho')
  · have ht : (s.takeRingMode r.val v).takeRingWord r.val v = (s.takeRingMode r.val v).takeRingEnable r.val v := if_neg (by rw [hb]; decide)
    rw [ht]
    refine ⟨hh, fun f i hn => ?_⟩
    simp only [List.mem_cons, List.not_mem_nil, or_false, not_or] at hn
    obtain ⟨h1, h2, h3, h4⟩ := hn
    exact (takeRingEnable_regsOnly _ _ _ f i (by simp [h3, h4])).trans (hr f i (by simp [h1, h2]))

/-- R460: the base of an enabled ring is refused. -/
theorem hstRgCfg_refused {w : Fin 3} (hw : w.val ≠ 2) (he : s.rb .HST_RG_EN r.val = true) :
    Does (.hstRgCfg src r w v) s (evParts .HST) fun t => Raised .HST_E_RING_CFG r.val 0 s t ∧
      regsOnly ((.HST_RG_ERR, r.val) :: evRegs .HST_E_RING_CFG 0) s t := by
  refine ⟨s.ringErr r.val, ?_, ringErr_changesOnly s r.val, ringErr_raised s r.val, ringErr_regsOnly s r.val⟩
  rw [exec_hstRgCfg_of_owner ho]
  exact congrArg _ ((if_neg hw).trans (if_pos he))

/-- R460, R465: the base of a ring that is off, and the moderation of any ring, are written as the word has them. -/
theorem hstRgCfg_taken {w : Fin 3} {l : List Field} (hw : (w.val = 0 ∧ l = [.HST_RG_BASE_L] ∧ s.rb .HST_RG_EN r.val = false) ∨
      (w.val = 1 ∧ l = [.HST_RG_BASE_H] ∧ s.rb .HST_RG_EN r.val = false) ∨ (w.val = 2 ∧ l = [.HST_RG_MOD_US, .HST_RG_MOD_CNT])) :
    Does (.hstRgCfg src r w v) s [.reg .HST] fun t =>
      (∀ f ∈ l, t.rn f r.val = bitsOf v.toNat f.info.msb f.info.lsb) ∧ regsOnly (l.map fun f => (f, r.val)) s t := by
  have he : exec (.hstRgCfg src r w v) s = .next (s.wrFields l r.val v) := by
    rw [exec_hstRgCfg_of_owner ho]
    rcases hw with ⟨hw, rfl, he⟩ | ⟨hw, rfl, he⟩ | ⟨hw, rfl⟩ <;> simp [State.wrRingCfg, *]
  have hl : l.Nodup ∧ fieldsMask l ||| pmask [.reg .HST] = pmask [.reg .HST] := by
    rcases hw with ⟨-, rfl, -⟩ | ⟨-, rfl, -⟩ | ⟨-, rfl⟩ <;> decide
  exact ⟨_, he, changesOnly_of rfl (only_wrFields l r.val v hl.2 (Only.refl _ s)),
    fun f hf => State.rn_wrFields s r.val v hl.1 hf, State.wrFields_regsOnly s l r.val v⟩

end

/-- No completion of the ring is left unsignalled. -/
def State.clearUnsig (s : State) (r : Nat) : State := { s with hst := { s.hst with unsig := s.hst.unsig.put 0 r 0 } }

/-- A vector signalled is signalled once, and nothing else of the hosts changes. -/
theorem signalled_signal (s : State) (h v : Nat) : Signalled s (s.signal h v) h v ∧
    (s.signal h v).hst = { s.hst with msi := (s.signal h v).hst.msi, pba := (s.signal h v).hst.pba } := by
  unfold State.signal Signalled
  cases hm : (s.hst.msix.get 1#32 (msixCtl h v)).getLsbD 0 <;> simp [SMap.get_upd]

/-- R465: with completions not yet signalled the ring's vector is signalled once, and none is left. -/
theorem interruptHoldoff_due (hu : s.hst.unsig.get 0 r.val ≠ 0) : Does (.interruptHoldoff r) s [.hst] fun t =>
    t.hst.unsig.get 0 r.val = 0 ∧ Signalled s t (r.val / 1024) (s.rn .HST_RG_VEC r.val) ∧
    t.hst = { s.hst with unsig := t.hst.unsig, msi := t.hst.msi, pba := t.hst.pba } := by
  have he : exec (.interruptHoldoff r) s = .next ((s.clearUnsig r.val).signal (r.val / 1024) (s.rn .HST_RG_VEC r.val)) := if_neg hu
  obtain ⟨hs, hh⟩ := signalled_signal (s.clearUnsig r.val) (r.val / 1024) (s.rn .HST_RG_VEC r.val)
  refine ⟨_, he, ?_, ?_, hs, ?_⟩
  · exact changesOnly_of rfl (only_signal (m := pmask [.hst]) _ _ rfl (only_set_hst rfl (Only.refl _ s)))
  · rw [hh]
    exact SMap.get_put_self 0 s.hst.unsig r.val 0
  · rw [hh]
    rfl

end

end Sys2Proof.Machine
end

section
/-! PROOFS. TX descriptors: each is acted on once and owes one completion with its status (spec/17 R461, R462, spec/11 R302). -/

namespace Sys2Proof.Machine

open Sys2Proof

/-! ### What a descriptor acted on owes -/

/-- The registers of the host block stand as before. -/
def HstRegsKept (s t : State) : Prop := ∀ (f : Field) (i : Nat), f.info.block = .HST → t.reg f i = s.reg f i

theorem HstRegsKept.of_only {m : Nat} {s t : State} (h : Only m s t) (hm : m.testBit (Part.reg .HST).idx = false) : HstRegsKept s t :=
  fun f i hf => h.frame (.reg .HST) hm f i hf

theorem HstRegsKept.trans {s t u : State} (h : HstRegsKept s t) (g : HstRegsKept t u) : HstRegsKept s u :=
  fun f i hf => (g f i hf).trans (h f i hf)

theorem HstRegsKept.rn {s t : State} (h : HstRegsKept s t) (f : Field) (i : Nat) (hf : f.info.block = .HST) : t.rn f i = s.rn f i :=
  congrArg BitVec.toNat (h f i hf)

/-- From `s` to `u` the ring reads as before: its base and size, the completions owed and its next descriptor. -/
structure RingKept (r : Nat) (s u : State) : Prop where
  baseL : u.rn .HST_RG_BASE_L r = s.rn .HST_RG_BASE_L r
  baseH : u.rn .HST_RG_BASE_H r = s.rn .HST_RG_BASE_H r
  log2n : u.rn .HST_RG_LOG2N r = s.rn .HST_RG_LOG2N r
  txc : u.hst.txc = s.hst.txc
  fetch : u.hst.fetch = s.hst.fetch

theorem RingKept.refl (r : Nat) (s : State) : RingKept r s s := ⟨rfl, rfl, rfl, rfl, rfl⟩

/-- An operation that leaves the registers of the host block and reaches the hosts by signals alone. -/
theorem RingKept.of_regs {s u : State} (r : Nat) (h : HstRegsKept s u) (g : SignalsOnly s u) : RingKept r s u :=
  ⟨h.rn _ _ rfl, h.rn _ _ rfl, h.rn _ _ rfl, g.txc, g.fetch⟩

theorem RingKept.fetchAt {r : Nat} {s u : State} (h : RingKept r s u) : u.fetchAt r = s.fetchAt r := congrArg (SMap.get 0 · r) h.fetch

theorem RingKept.descAddr {r : Nat} {s u : State} (h : RingKept r s u) (i : Nat) : u.descAddr r i = s.descAddr r i := by
  unfold State.descAddr
  rw [h.baseL, h.baseH, h.log2n]

/-- The next descriptor acted on owes its completion to the ring as it was before. -/
theorem owes_oweTx {r : Nat} {s u : State} (st : Nat) (w : Option (Nat × Nat)) (h : RingKept r s u) : Owes s (u.oweTx r st w) r st w := by
  constructor
  · show u.hst.txc ++ [_] = _
    rw [h.txc, h.fetchAt, h.descAddr]
  · show (SMap.put 0 u.hst.fetch r ((u.fetchAt r + 1) % 65536)).get 0 r = _
    rw [SMap.get_put_self, h.fetchAt]

theorem State.oweTx_nextPkt (s : State) (r st : Nat) (w : Option (Nat × Nat)) : (s.oweTx r st w).nextPkt = s.nextPkt := rfl

theorem lastEvent_oweTx {s : State} {e : Ev} {a0 a1 : Nat} (r st : Nat) (w : Option (Nat × Nat)) (h : LastEvent e a0 a1 s) :
    LastEvent e a0 a1 (s.oweTx r st w) := h.keep rfl rfl rfl

theorem oweTx_changesOnly (s : State) (r st : Nat) (w : Option (Nat × Nat)) : changesOnly [.hst] s (s.oweTx r st w) :=
  changesOnly_of rfl (only_oweTx (m := pmask [.hst]) r st w rfl (Only.refl _ s))

/-! ### The descriptor's meaning by its state and its fields -/

section
variable {s : State} {r : Fin 4096} {d : BitVec 256} {l : List (BitVec 8)} {err : Bool} {h : Fin 4}

/-- A ring that fetches nothing acts on no descriptor. -/
theorem exec_tx_of_idle (hr : s.txReady r.val = false) :
    ∀ c ∈ [Instr.txSend r d l err, .txResume r d, .txDiscard r d], exec c s = .next s := by
  have h1 : execTxSend r d l err s = .next s := by simp [execTxSend, hr]
  have h2 : execTxResume r d s = .next s := by simp [execTxResume, hr]
  have h3 : execTxDiscard r d s = .next s := by simp [execTxDiscard, hr]
  simp only [List.mem_cons, List.not_mem_nil, or_false]
  rintro c (rfl | rfl | rfl)
  · exact h1
  · exact h2
  · exact h3

theorem exec_txSend_of_other (ho : txd d 10 1 = 2 ∨ txd d 10 1 = 3) : exec (.txSend r d l err) s = .next s := by
  show execTxSend r d l err s = _
  rcases ho with ho | ho <;> simp [execTxSend, ho]

theorem exec_txResume_of_other (ho : txd d 10 1 ≠ 2) : exec (.txResume r d) s = .next s := by
  show execTxResume r d s = _
  simp [execTxResume, ho]

theorem exec_txDiscard_of_other (ho : txd d 10 1 ≠ 3) : exec (.txDiscard r d) s = .next s := by
  show execTxDiscard r d s = _
  simp [execTxDiscard, ho]

section
variable (hr : s.txReady r.val = true)
include hr

/-- A descriptor of no defined operation, or a SEND whose fields are out of order. -/
theorem exec_txSend_of_bad (h2 : txd d 10 1 ≠ 2) (h3 : txd d 10 1 ≠ 3)
    (hb : txd d 10 1 ≠ 1 ∨ txBad d = true ∨ txd d 8 2 < 60 ∨ min (s.poolSize 3) 9600 < txd d 8 2) :
    exec (.txSend r d l err) s = .next (s.oweTx r.val (Ev.code .HST_E_DESC) none) := by
  have hb' : (decide (txd d 10 1 ≠ 1) || txBad d || decide (txd d 8 2 < 60) || decide (min (s.poolSize 3) 9600 < txd d 8 2)) = true := by
    simpa only [Bool.or_eq_true, decide_eq_true_eq, or_assoc] using hb
  show execTxSend r d l err s = _
  unfold execTxSend
  simp only [hr, h2, h3]
  exact if_pos hb'

/-- A SEND whose fields are in order: refused without the lease where its class is protected, else sent. -/
theorem exec_txSend_of_good (hh : h.val = r.val / 1024) (h1 : txd d 10 1 = 1) (hb : txBad d = false) (h60 : 60 ≤ txd d 8 2)
    (hm : txd d 8 2 ≤ min (s.poolSize 3) 9600) : exec (.txSend r d l err) s =
      if 6 ≤ bitsOf (txd d 11 1) 3 1 ∧ s.leaseOk h = false then .next (s.oweTx r.val (Ev.code .HST_E_FENCED) none)
      else .next (s.txSend r.val d l err) := by
  have hl : (⟨ringHost r.val % 4, Nat.mod_lt _ (by decide)⟩ : Fin 4) = h := Fin.ext (by
    show r.val / 1024 % 4 = h.val
    omega)
  have h60' : ¬ txd d 8 2 < 60 := Nat.not_lt.mpr h60
  have hm' : ¬ min (s.poolSize 3) 9600 < txd d 8 2 := Nat.not_lt.mpr hm
  show execTxSend r d l err s = _
  unfold execTxSend
  simp only [hr, h1, hb, h60', hm', hl, Bool.not_true, ne_eq, not_true_eq_false, decide_false, Bool.false_eq_true,
    if_false, Bool.and_eq_true, decide_eq_true_eq, Bool.not_eq_true', (by decide : ¬ (1 = 2)), (by decide : ¬ (1 = 3)), Bool.or_self]

theorem exec_txResume_of_bad (h2 : txd d 10 1 = 2) (hb : txBad d = true) :
    exec (.txResume r d) s = .next (s.oweTx r.val (Ev.code .HST_E_DESC) none) := by
  show execTxResume r d s = _
  simp [execTxResume, hr, h2, hb]

theorem exec_txDiscard_of_bad (h3 : txd d 10 1 = 3) (hb : txBad d = true) :
    exec (.txDiscard r d) s = .next (s.oweTx r.val (Ev.code .HST_E_DESC) none) := by
  show execTxDiscard r d s = _
  simp [execTxDiscard, hr, h3, hb]

theorem exec_txResume_of_busy (hh : h.val = r.val / 1024) (hb : txBad d = false) (h2 : txd d 10 1 = 2)
    (hq : s.hostSlotBusy h.val (txd d 11 1 % 2) = true) : exec (.txResume r d) s = .next s := by
  rw [hh] at hq
  show execTxResume r d s = _
  simp [execTxResume, hr, h2, hb, ringHost, hq]

/-- A RESUME that finds its slot free acts on the parked packet. -/
theorem exec_txResume_of_free (hh : h.val = r.val / 1024) (hb : txBad d = false) (h2 : txd d 10 1 = 2)
    (hq : s.hostSlotBusy h.val (txd d 11 1 % 2) = false) {u : State} {ok : Bool}
    (hu : s.resumeParked (txd d 12 4 % 2 ^ 20) (txd d 11 1 % 2) (56 + h.val) (ownHost h.val) = (u, ok)) :
    exec (.txResume r d) s = .next (u.oweTx r.val (u.parkStatus ok (txd d 12 4 % 2 ^ 20)) none) := by
  rw [hh] at hq hu
  show execTxResume r d s = _
  simp only [execTxResume, hr, h2, hb, ringHost, hq, hu, Bool.not_true, ne_eq, not_true_eq_false, decide_false, Bool.or_self,
    Bool.false_eq_true, if_false]

theorem exec_txDiscard_of_good (hh : h.val = r.val / 1024) (hb : txBad d = false) (h3 : txd d 10 1 = 3) {u : State} {ok : Bool}
    (hu : s.discardParked (txd d 12 4 % 2 ^ 20) (ownHost h.val) = (u, ok)) :
    exec (.txDiscard r d) s = .next (u.oweTx r.val (u.parkStatus ok (txd d 12 4 % 2 ^ 20)) none) := by
  rw [hh] at hu
  show execTxDiscard r d s = _
  simp only [execTxDiscard, hr, h3, hb, ringHost, hu, Bool.not_true, ne_eq, not_true_eq_false, decide_false, Bool.or_self,
    Bool.false_eq_true, if_false]

end
end

/-! ### SEND by what its buffer request gets -/

/-- The buffer request of a SEND of host `h` (R461). -/
def State.txRequest (s : State) (h : Nat) (d : BitVec 256) (l : List Byte) : State × Option Nat :=
  s.request (decide (6 ≤ bitsOf (txd d 11 1) 3 1)) (some (txd d 8 2 + 4)) (ownHost h)
    ((l ++ List.replicate (txd d 8 2) 0#8).take (txd d 8 2)) none

/-- The packet of a SEND of host `h` in its buffer `b`, handed to the pipeline. -/
def State.txInjected (u : State) (h : Nat) (d : BitVec 256) (b : Nat) : State :=
  (u.handover b (ownHost h) (ownPipe (bitsOf (txd d 11 1) 0 0))).1.injected (56 + h) (bitsOf (txd d 11 1) 0 0) b (txd d 8 2)
    (bitsOf (txd d 11 1) 3 1) (ownHost h) (bitOf (txd d 11 1) 4) (bitOf (txd d 11 1) 5)

section
variable {s u : State} {r : Nat} {d : BitVec 256} {l : List Byte} {err : Bool} {b : Nat}

theorem txSend_of_busy (hq : s.hostSlotBusy (ringHost r) (bitsOf (txd d 11 1) 0 0) = true) : s.txSend r d l err = s := if_pos hq

section
variable (hq : s.hostSlotBusy (ringHost r) (bitsOf (txd d 11 1) 0 0) = false)
include hq

/-- A SEND that gets no buffer stays in the ring. -/
theorem txSend_of_refused (hu : s.txRequest (ringHost r) d l = (u, none)) : s.txSend r d l err = u := by
  unfold State.txRequest at hu
  unfold State.txSend
  simp only [hq, hu, Bool.false_eq_true, if_false]

/-- A SEND whose bytes could not be read gives its buffer back. -/
theorem txSend_of_failed (hu : s.txRequest (ringHost r) d l = (u, some b)) :
    s.txSend r d l true = ((u.freeBuf b (ownHost (ringHost r))).1.raise .HST_E_DMA r).oweTx r (Ev.code .HST_E_DMA) none := by
  unfold State.txRequest at hu
  unfold State.txSend
  simp only [hq, hu, Bool.false_eq_true, if_false, if_true]

/-- A SEND with its buffer is a packet, and waits for its timestamp where it asks for one. -/
theorem txSend_of_granted (hu : s.txRequest (ringHost r) d l = (u, some b)) : s.txSend r d l false =
    if bitOf (txd d 11 1) 5 = true then
      ((u.txInjected (ringHost r) d b).awaitTs b none r).oweTx r 0 (some (b, (u.txInjected (ringHost r) d b).grantNo b))
    else (u.txInjected (ringHost r) d b).oweTx r 0 none := by
  unfold State.txRequest at hu
  unfold State.txSend
  simp only [hq, hu, Bool.false_eq_true, if_false]
  rfl

end
end

/-! ### A packet injected -/

section
variable (s : State) (port pipe h len tc sender : Nat) (origin egReq : Bool)

/-- A packet injected is the last of the frame path, numbered next, with its buffer and the metadata of its sender. -/
theorem injected_last : (s.injected port pipe h len tc sender origin egReq).nextPkt = s.nextPkt + 1 ∧
    ((s.injected port pipe h len tc sender origin egReq).pkts.getLast?.map fun p => (p.id, p.src, p.pipe, p.buf, p.tcHint, p.sender, p.stage)) =
      some (s.nextPkt, port, pipe, some h, tc, sender, .fifo) := by
  have hn : (s.bufRead h 0 len).2.nextPkt = s.nextPkt :=
    (only_bufRead (m := 0x100000000) h 0 len rfl (Only.refl _ s)).frame .nextPkt rfl
  unfold State.injected
  generalize s.bufRead h 0 len = x at hn ⊢
  obtain ⟨l, u⟩ := x
  dsimp only at hn ⊢
  cases u.buf h <;> simp [State.addPkt, State.setBuf, Packet.offered, hn]

/-- The packet of a SEND is the last of the frame path (R461). -/
theorem txInjected_last (u : State) (h : Nat) (d : BitVec 256) (b : Nat) : (u.txInjected h d b).nextPkt = u.nextPkt + 1 ∧
    ((u.txInjected h d b).pkts.getLast?.map fun p => (p.id, p.src, p.pipe, p.buf, p.tcHint, p.sender, p.stage)) =
      some (u.nextPkt, 56 + h, bitsOf (txd d 11 1) 0 0, some b, bitsOf (txd d 11 1) 3 1, ownHost h, .fifo) := by
  have hn : (u.handover b (ownHost h) (ownPipe (bitsOf (txd d 11 1) 0 0))).1.nextPkt = u.nextPkt :=
    (only_handover (m := 0x10000200410020080) _ _ _ _ _ rfl (Only.refl _ u)).frame .nextPkt rfl
  rw [← hn]
  exact injected_last ..

/-- A packet injected leaves the registers of the host block and the hosts. -/
theorem injected_ringKept (r : Nat) : RingKept r s (s.injected port pipe h len tc sender origin egReq) := by
  have ho : Only 0x100020600 s (s.injected port pipe h len tc sender origin egReq) := only_injected _ _ _ _ _ _ _ _ rfl (Only.refl _ s)
  exact .of_regs r (.of_only ho rfl) ((SignalsOnly.refl s).keep (ho.frame .hst rfl))

end

/-! ### Operations under a SEND, a RESUME and a DISCARD leave the ring -/

theorem RingKept.trans {r : Nat} {s t u : State} (h : RingKept r s t) (g : RingKept r t u) : RingKept r s u :=
  ⟨g.baseL.trans h.baseL, g.baseH.trans h.baseH, g.log2n.trans h.log2n, g.txc.trans h.txc, g.fetch.trans h.fetch⟩

theorem handover_ringKept (s : State) (r h id dest op charge : Nat) : RingKept r s (s.handover h id dest op charge).1 :=
  .of_regs r (.of_only (only_handover (m := 0x10000200410020080) _ _ _ _ _ rfl (Only.refl _ s)) rfl) ((SignalsOnly.refl s).handover ..)

theorem freeBuf_ringKept (s : State) (r h id op charge : Nat) : RingKept r s (s.freeBuf h id op charge).1 :=
  .of_regs r (.of_only (only_freeBuf (m := 0x10000200430020080) _ _ _ _ rfl (Only.refl _ s)) rfl) ((SignalsOnly.refl s).freeBuf ..)

theorem request_ringKept (s : State) (r : Nat) (prot : Bool) (len : Option Nat) (owner : Nat) (bytes : List Byte) (pkt : Option Packet) :
    RingKept r s (s.request prot len owner bytes pkt).1 :=
  .of_regs r (.of_only (only_request (m := 0x10000200d30060080) _ _ _ _ _ rfl (Only.refl _ s)) rfl) ((SignalsOnly.refl s).request ..)

theorem leaveBank_ringKept (s : State) (r : Nat) (p : Packet) : RingKept r s (s.leaveBank p).1 :=
  .of_regs r (.of_only (only_leaveBank (m := 0x20410002080) _ rfl (Only.refl _ s)) rfl) ((SignalsOnly.refl s).leaveBank p)

/-- A descriptor that awaits its packet's timestamp owes a completion that waits for it. -/
theorem owes_awaited {s v : State} {r : Nat} (b : Nat) (hk : RingKept r s v) :
    Owes s ((v.awaitTs b none r).oweTx r 0 (some (b, v.grantNo b))) r 0
      (some (b, ((v.awaitTs b none r).oweTx r 0 (some (b, v.grantNo b))).grantNo b)) :=
  owes_oweTx _ _ (hk.trans ⟨rfl, rfl, rfl, rfl, rfl⟩)

/-- HST_E_DMA shows in no register of a ring. -/
theorem raiseDma_ringKept (s : State) (r a0 : Nat) : RingKept r s (s.raise .HST_E_DMA a0) := by
  have hk (f : Field) (h1 : f ≠ .GLB_EVT_WPTR) (h2 : Ev.stat .HST_E_DMA ≠ some f) : (s.raise .HST_E_DMA a0).rn f r = s.rn f r :=
    congrArg BitVec.toNat (State.reg_raise_ne _ _ _ _ _ _ _ (Or.inl h1) (Or.inl h2))
  have hs := (SignalsOnly.refl s).raise .HST_E_DMA a0 0 0
  exact ⟨hk _ (by decide) (by decide), hk _ (by decide) (by decide), hk _ (by decide) (by decide), hs.txc, hs.fetch⟩

/-! ### A parked packet resumed or discarded -/

section
variable {s : State} {b : Nat} {x : Buf} (r : Nat)

/-- A resume of a held buffer of the slow path: it is the pipeline's, and its parked packet re-enters last. -/
theorem resumeParked_of_held (pipe port charge : Nat) (hb : s.buf b = some x) (hs : x.st = .held) (ho : x.owner = ownSlow) :
    ∃ u, s.resumeParked b pipe port charge = (u, true) ∧ RingKept r s u ∧ u.buf b = some { x with owner := ownPipe pipe } ∧
      ∀ p, s.parkedPkt b = some p → u.pkts = (s.pkts.filter fun y => y.id != p.id) ++ [resumedAt p port pipe] := by
  have hk : RingKept r s (s.setBuf b { x with owner := ownPipe pipe }) := ⟨rfl, rfl, rfl, rfl, rfl⟩
  have hp : (s.setBuf b { x with owner := ownPipe pipe }).parkedPkt b = s.parkedPkt b := rfl
  unfold State.resumeParked
  rw [State.handover_of_held _ _ _ hb hs ho]
  dsimp only
  rw [hp]
  cases hq : s.parkedPkt b with
  | none => exact ⟨_, rfl, hk, State.setBuf_buf .., fun p h => nomatch h⟩
  | some q =>
    refine ⟨_, rfl, hk.trans ⟨rfl, rfl, rfl, rfl, rfl⟩, State.setBuf_buf .., fun p h => ?_⟩
    cases h
    rfl

/-- A discard of a held buffer of the slow path: it is FREE, and its parked packet is gone. -/
theorem discardParked_of_held (charge : Nat) (hb : s.buf b = some x) (hs : x.st = .held) (ho : x.owner = ownSlow) :
    ∃ u, s.discardParked b charge = (u, true) ∧ RingKept r s u ∧ u.buf b = none ∧
      ∀ p, s.parkedPkt b = some p → u.pkts = s.pkts.filter fun y => y.id != p.id := by
  have hf := State.freeBuf_of_held 4 charge hb hs ho
  have hk : RingKept r s (s.freed b) := by simpa only [hf] using freeBuf_ringKept s r b ownSlow 4 charge
  have hpk : (s.freed b).pkts = s.pkts := (only_freed (m := 0x200430020080) b rfl (Only.refl _ s)).frame .pkts rfl
  have hp : (s.freed b).parkedPkt b = s.parkedPkt b := congrArg (List.find? _) hpk
  unfold State.discardParked
  rw [hf]
  dsimp only
  rw [hp]
  cases hq : s.parkedPkt b with
  | none => exact ⟨_, rfl, hk, State.freed_buf .., fun p h => nomatch h⟩
  | some q =>
    have hl := only_leaveBank (m := 0x20410002080) q rfl (Only.refl _ (s.freed b))
    refine ⟨_, rfl, (hk.trans (leaveBank_ringKept _ r q)).trans ⟨rfl, rfl, rfl, rfl, rfl⟩, ?_, fun p h => ?_⟩
    · have hw : ((s.freed b).leaveBank q).1.swc = (s.freed b).swc := hl.frame .swc rfl
      show SMap.find ((s.freed b).leaveBank q).1.swc.bufs b = none
      rw [hw]
      exact State.freed_buf ..
    · cases h
      exact congrArg (List.filter _) ((hl.frame .pkts rfl).trans hpk)

/-- A resume or discard of a buffer that is not the slow path's fails its check, which is counted and recorded. -/
theorem parked_of_foreign (pipe port charge : Nat) (hf : ∀ x, s.buf b = some x → x.owner ≠ ownSlow) :
    s.resumeParked b pipe port charge = (s.ownErr 4 charge b, false) ∧ s.discardParked b charge = (s.ownErr 4 charge b, false) := by
  unfold State.resumeParked State.discardParked
  rw [State.handover_of_foreign _ _ _ hf, State.freeBuf_of_foreign _ _ hf]
  exact ⟨rfl, rfl⟩

end

/-! ### The clauses -/

section
variable {s : State} {r : Fin 4096} {d : BitVec 256} {l : List (BitVec 8)} {h : Fin 4}

/-- R461: a descriptor out of order owes HST_E_DESC. -/
theorem owes_bad {c : Instr} {st : Nat} (he : exec c s = .next (s.oweTx r.val st none)) : Does c s [.hst] fun t => Owes s t r.val st none :=
  ⟨_, he, oweTx_changesOnly s r.val st none, owes_oweTx _ _ (.refl ..)⟩

section
variable (hr : s.txReady r.val = true) (hh : h.val = r.val / 1024) (h1 : txd d 10 1 = 1) (hb : txBad d = false) (h60 : 60 ≤ txd d 8 2)
  (hm : txd d 8 2 ≤ min (s.poolSize 3) 9600)
include hr hh h1 hb h60 hm

/-- R461, R470: a SEND of a protected class without the lease owes HST_E_FENCED. -/
theorem txSend_fenced {err : Bool} (h6 : 6 ≤ bitsOf (txd d 11 1) 3 1) (hl : s.leaseOk h = false) :
    Does (.txSend r d l err) s [.hst] fun t => Owes s t r.val (Ev.code .HST_E_FENCED) none :=
  owes_bad ((exec_txSend_of_good hr hh h1 hb h60 hm).trans (if_pos ⟨h6, hl⟩))

section
variable (ha : bitsOf (txd d 11 1) 3 1 < 6 ∨ s.leaseOk h = true)
include ha

/-- A SEND that the lease admits is sent. -/
theorem exec_txSend_of_admitted {err : Bool} : exec (.txSend r d l err) s = .next (s.txSend r.val d l err) := by
  refine (exec_txSend_of_good hr hh h1 hb h60 hm).trans (if_neg ?_)
  rintro ⟨h6, hl⟩
  rcases ha with ha | ha
  · omega
  · rw [hl] at ha
    exact absurd ha (by decide)

/-- R29: a SEND waits in the ring while its host's slot is held. -/
theorem txSend_waits {err : Bool} (hq : s.hostSlotBusy h.val (bitsOf (txd d 11 1) 0 0) = true) : exec (.txSend r d l err) s = .next s := by
  rw [hh] at hq
  rw [exec_txSend_of_admitted hr hh h1 hb h60 hm ha, txSend_of_busy hq]

section
variable (hq : s.hostSlotBusy h.val (bitsOf (txd d 11 1) 0 0) = false) {u : State} {ob : Option Nat}
  (hu : s.txRequest h.val d l = (u, ob))
include hq hu

/-- R461: a SEND that gets no buffer owes nothing yet and is not yet acted on. -/
theorem txSend_refused {err : Bool} (ho : ob = none) : Completes (.txSend r d l err) s fun t =>
    t.hst.txc = s.hst.txc ∧ t.fetchAt r.val = s.fetchAt r.val ∧ t.pkts = s.pkts := by
  subst ho
  have hk : RingKept r.val s (s.txRequest h.val d l).1 := request_ringKept ..
  have hp : (s.txRequest h.val d l).1.pkts = s.pkts :=
    (only_request (m := 0x10000200d30060080) _ _ _ _ _ rfl (Only.refl _ s)).frame .pkts rfl
  rw [hu] at hk hp
  rw [hh] at hq hu
  refine ⟨u, ?_, hk.txc, hk.fetchAt, hp⟩
  rw [exec_txSend_of_admitted hr hh h1 hb h60 hm ha, txSend_of_refused hq hu]

/-- R461: a SEND whose bytes could not be read is no packet and owes HST_E_DMA. -/
theorem txSend_failed {b : Nat} (ho : ob = some b) : Completes (.txSend r d l true) s fun t =>
    Owes s t r.val (Ev.code .HST_E_DMA) none ∧ t.nextPkt = s.nextPkt ∧ LastEvent .HST_E_DMA r.val 0 t := by
  subst ho
  have hk : RingKept r.val s (s.txRequest h.val d l).1 := request_ringKept ..
  have hn : (s.txRequest h.val d l).1.nextPkt = s.nextPkt :=
    (only_request (m := 0x10000200d30060080) _ _ _ _ _ rfl (Only.refl _ s)).frame .nextPkt rfl
  rw [hu] at hk hn
  have hf : (u.freeBuf b (ownHost (ringHost r.val))).1.nextPkt = u.nextPkt :=
    (only_freeBuf (m := 0x10000200430020080) _ _ _ _ rfl (Only.refl _ u)).frame .nextPkt rfl
  rw [hh] at hq hu
  refine ⟨_, by rw [exec_txSend_of_admitted hr hh h1 hb h60 hm ha, txSend_of_failed hq hu], owes_oweTx _ _ ?_, ?_, ?_⟩
  · exact (hk.trans (freeBuf_ringKept ..)).trans (raiseDma_ringKept ..)
  · rw [State.oweTx_nextPkt, State.raise_nextPkt, hf, hn]
  · exact lastEvent_oweTx _ _ _ (lastEvent_raise ..)

/-- R461, R462: a SEND with its buffer is the last packet of the frame path, and owes a completion that waits where a timestamp is asked for. -/
theorem txSend_sent {b : Nat} (ho : ob = some b) : Completes (.txSend r d l false) s fun t => t.nextPkt = u.nextPkt + 1 ∧
    (t.pkts.getLast?.map fun p => (p.id, p.src, p.pipe, p.buf, p.tcHint, p.sender, p.stage)) =
      some (u.nextPkt, 56 + h.val, bitsOf (txd d 11 1) 0 0, some b, bitsOf (txd d 11 1) 3 1, ownHost h.val, .fifo) ∧
    (bitOf (txd d 11 1) 5 = false → Owes s t r.val 0 none) ∧ (bitOf (txd d 11 1) 5 = true → Owes s t r.val 0 (some (b, t.grantNo b))) := by
  subst ho
  have hk : RingKept r.val s (s.txRequest h.val d l).1 := request_ringKept ..
  rw [hu] at hk
  have hi : RingKept r.val s (u.txInjected h.val d b) := (hk.trans (handover_ringKept ..)).trans (injected_ringKept ..)
  obtain ⟨hp, hl⟩ := txInjected_last u h.val d b
  have he : exec (.txSend r d l false) s = .next (s.txSend r.val d l false) := exec_txSend_of_admitted hr hh h1 hb h60 hm ha
  have hg : ringHost r.val = h.val := hh.symm
  rw [txSend_of_granted (by rw [hg]; exact hq) (by rw [hg]; exact hu), hg] at he
  generalize u.txInjected h.val d b = v at he hi hp hl
  cases ht : bitOf (txd d 11 1) 5 with
  | false =>
    rw [ht, if_neg (by decide)] at he
    exact ⟨_, he, hp, hl, fun _ => owes_oweTx _ _ hi, fun h => nomatch h⟩
  | true =>
    rw [ht, if_pos rfl] at he
    exact ⟨_, he, hp, hl, fun h => (nomatch h), fun _ => owes_awaited b hi⟩

end
end
end

section
variable (hr : s.txReady r.val = true) (hh : h.val = r.val / 1024) (hb : txBad d = false)
include hr hh hb

/-- R172, R462: a parked packet is resumed into the pipeline, and its completion owes status 0. -/
theorem txResume_held (h2 : txd d 10 1 = 2) (hq : s.hostSlotBusy h.val (txd d 11 1 % 2) = false) {x : Buf}
    (hx : s.buf (txd d 12 4 % 2 ^ 20) = some x) (hs : x.st = .held) (ho : x.owner = ownSlow) :
    Completes (.txResume r d) s fun t => Owes s t r.val 0 none ∧ t.buf (txd d 12 4 % 2 ^ 20) = some { x with owner := ownPipe (txd d 11 1 % 2) } ∧
      ∀ p, s.parkedPkt (txd d 12 4 % 2 ^ 20) = some p →
        t.pkts = (s.pkts.filter fun y => y.id != p.id) ++ [resumedAt p (56 + h.val) (txd d 11 1 % 2)] := by
  obtain ⟨u, hu, hk, hb', hp⟩ := resumeParked_of_held r.val (txd d 11 1 % 2) (56 + h.val) (ownHost h.val) hx hs ho
  exact ⟨_, exec_txResume_of_free hr hh hb h2 hq hu, owes_oweTx _ _ hk, hb', hp⟩

/-- R173, R462: a parked packet is discarded with its buffer, and its completion owes status 0. -/
theorem txDiscard_held (h3 : txd d 10 1 = 3) {x : Buf} (hx : s.buf (txd d 12 4 % 2 ^ 20) = some x) (hs : x.st = .held) (ho : x.owner = ownSlow) :
    Completes (.txDiscard r d) s fun t => Owes s t r.val 0 none ∧ t.buf (txd d 12 4 % 2 ^ 20) = none ∧
      ∀ p, s.parkedPkt (txd d 12 4 % 2 ^ 20) = some p → t.pkts = s.pkts.filter fun y => y.id != p.id := by
  obtain ⟨u, hu, hk, hb', hp⟩ := discardParked_of_held r.val (ownHost h.val) hx hs ho
  exact ⟨_, exec_txDiscard_of_good hr hh hb h3 hu, owes_oweTx _ _ hk, hb', hp⟩

end

/-- R302: a check that failed owes its code, and nothing but its count and its record tells of it. -/
theorem owes_ownErr {c : Instr} {b own st : Nat}
    (he : exec c s = .next ((s.ownErr 4 own b).oweTx r.val ((s.ownErr 4 own b).parkStatus false b) none))
    (hst : st = if s.poolCount (poolOf b) ≤ idxOf b then Ev.code .SWC_E_BUF_RANGE else Ev.code .SWC_E_OWNER) :
    Completes c s fun t => Owes s t r.val st none ∧ t.pkts = s.pkts ∧ t.swc.bufs = s.swc.bufs ∧ t.ctr .SWC_CNT_OWN_ERR = s.ctr .SWC_CNT_OWN_ERR + 1#64 := by
  have ho := only_ownErr (m := 0x10000200410020080) 4 own b rfl (Only.refl _ s)
  have hc : (s.ownErr 4 own b).parkStatus false b = st := by
    have hp : (s.ownErr 4 own b).poolCount (poolOf b) = s.poolCount (poolOf b) := by
      unfold State.poolCount
      rw [State.ownErr_layout]
    rw [hst, ← hp]
    rfl
  rw [hc] at he
  exact ⟨_, he, owes_oweTx _ _ (.of_regs r.val (.of_only ho rfl) ((SignalsOnly.refl s).ownErr ..)), ho.frame .pkts rfl, State.ownErr_bufs ..,
    State.ownErr_ctr ..⟩

end

end Sys2Proof.Machine
end

section
/-! PROOFS. TX completions: what waits, and what a completion written leaves (spec/17 R462, R465, Table 17.3). -/

namespace Sys2Proof.Machine

open Sys2Proof

/-! ### A completion written -/

/-- The consumer index of a ring moved on, with `n` completions not yet signalled. -/
def State.completed (s : State) (r n : Nat) : State :=
  let s := s.setN .HST_RG_CONS r ((s.rn .HST_RG_CONS r + 1) % 65536)
  { s with hst := { s.hst with unsig := s.hst.unsig.put 0 r n } }

/-- A completion moves the consumer index on, and is signalled or left for the holdoff (R465). -/
theorem ringDone_cases (s : State) (r : Nat) :
    (∃ v, s.ringDone r = (s.completed r 0).signal (ringHost r) v) ∨ ∃ n, s.ringDone r = s.completed r n := by
  unfold State.ringDone
  dsimp only
  split
  · exact Or.inl ⟨_, rfl⟩
  · exact Or.inr ⟨_, rfl⟩

/-- A completion moves the consumer index on, and writes no other register. -/
theorem ringDone_reg (s : State) (r : Nat) (f : Field) (i : Nat) :
    (s.ringDone r).reg f i = (s.setN .HST_RG_CONS r ((s.rn .HST_RG_CONS r + 1) % 65536)).reg f i := by
  rcases ringDone_cases s r with ⟨v, he⟩ | ⟨n, he⟩ <;> rw [he]
  · rw [State.signal_reg]
    rfl
  · rfl

theorem ringDone_cons (s : State) (r : Nat) : (s.ringDone r).rn .HST_RG_CONS r = (s.rn .HST_RG_CONS r + 1) % 65536 :=
  (congrArg BitVec.toNat (ringDone_reg s r _ r)).trans (State.rn_setN_self _ _ _ (by omega))

/-- A completion writes no register of a ring but its consumer index. -/
theorem ringDone_rn (s : State) (r : Nat) {f : Field} (i : Nat) (hf : f ≠ .HST_RG_CONS) : (s.ringDone r).rn f i = s.rn f i := by
  unfold State.rn
  rw [ringDone_reg, State.reg_setN, if_neg fun h => hf h.1]

theorem ringDone_ctr (s : State) (r : Nat) (c : Ctr) (i : Nat) : (s.ringDone r).ctr c i = s.ctr c i := by
  rcases ringDone_cases s r with ⟨v, he⟩ | ⟨n, he⟩ <;> rw [he]
  · rw [State.signal_ctr]
    rfl
  · rfl

/-- A completion leaves the host's memory, the completions owed and the frames parked. -/
theorem ringDone_hst (s : State) (r : Nat) :
    (s.ringDone r).hst.mem = s.hst.mem ∧ (s.ringDone r).hst.txc = s.hst.txc ∧ (s.ringDone r).hst.rxp = s.hst.rxp := by
  rcases ringDone_cases s r with ⟨v, he⟩ | ⟨n, he⟩ <;> rw [he]
  · have h := (SignalsOnly.refl (s.completed r 0)).signal (ringHost r) v
    exact ⟨h.mem, h.txc, h.rxp⟩
  · exact ⟨rfl, rfl, rfl⟩

theorem ringDone_hostByte (s : State) (r h a : Nat) : (s.ringDone r).hostByte h a = s.hostByte h a :=
  congrArg (SMap.get 0#8 · (h * 2 ^ 64 + a % 2 ^ 64)) (ringDone_hst s r).1

/-! ### TX completions -/

/-- The 16 bytes of a TX completion (Table 17.3). -/
def TxC.record (c : TxC) : List Byte :=
  leBytes 4 (c.ts.getD (0, 0)).2 ++ leBytes 4 (c.ts.getD (0, 0)).1 ++ leBytes 2 c.status ++ leBytes 1 (1 + (if c.ts.isSome then 2 else 0)) ++ leBytes 5 0

/-- A completion taken off those owed. -/
def State.txTaken (s : State) (c : TxC) : State := { s with hst := { s.hst with txc := s.hst.txc.erase c } }

/-- A completion of ring `r` that waits for nothing, taken off those owed, written and counted. -/
def State.txWritten (s : State) (r : Nat) (c : TxC) : State :=
  ((s.txTaken c).hostWrite (ringHost r) c.addr c.record).bump .HST_CNT_TX_DESC (ringHost r)

/-- A status other than 0 is counted and shown in the ring. -/
def State.txNote (s : State) (r status : Nat) : State :=
  if status = 0 then s else (s.bump .HST_CNT_TX_ERR (ringHost r)).setN .HST_RG_ERR r status

/-- A completion at the consumer index moves it on. -/
def State.txRetire (s : State) (r idx : Nat) : State := if idx = s.rn .HST_RG_CONS r then s.ringDone r else s

section
variable {s : State} {r : Fin 4096} {h : Fin 4} {c : TxC}

theorem exec_txCompletion_of_none (hn : ∀ c ∈ s.hst.txc, c.ring ≠ r.val) : exec (.txCompletion r) s = .next s := by
  have hf : (s.hst.txc.find? fun c => c.ring == r.val) = none := List.find?_eq_none.mpr fun c hc => by simpa using hn c hc
  show execTxCompletion r s = _
  simp only [execTxCompletion, hf]

section
variable (hf : (s.hst.txc.find? fun c => c.ring == r.val) = some c)
include hf

theorem exec_txCompletion_of_down (hh : h.val = r.val / 1024) (hl : s.rb .HST_LINK_UP h.val = false) : exec (.txCompletion r) s = .next s := by
  rw [hh] at hl
  show execTxCompletion r s = _
  simp only [execTxCompletion, hf, ringHost, hl, Bool.not_false, Bool.or_true, if_true]

/-- R462: the oldest completion waits while its packet may still start and its timestamp is awaited. -/
theorem exec_txCompletion_of_waiting {b o : Nat} (hw : c.wait = some (b, o)) (ht : ∃ x ∈ s.hst.ts, x.buf = b ∧ x.order = o)
    (hm : s.mayStart b o = true) : exec (.txCompletion r) s = .next s := by
  have ha : (s.hst.ts.any fun t => t.buf == b && t.order == o) = true := by
    obtain ⟨x, hx, rfl, rfl⟩ := ht
    exact List.any_eq_true.mpr ⟨x, hx, by simp⟩
  show execTxCompletion r s = _
  simp only [execTxCompletion, hf, hw, ha, hm, Bool.and_self, Bool.true_or, if_true]

/-- R462: a completion that waits for nothing is written to a host that is up. -/
theorem exec_txCompletion_of_free (hh : h.val = r.val / 1024) (hl : s.rb .HST_LINK_UP h.val = true) (hw : c.wait = none) :
    exec (.txCompletion r) s = .next (((s.txWritten r.val c).txNote r.val c.status).txRetire r.val c.idx) := by
  have hr : ∀ u : State, (u.hostWrite (ringHost r.val) c.addr (leBytes 4 (c.ts.getD (0, 0)).2 ++ leBytes 4 (c.ts.getD (0, 0)).1)).hostWrite
      (ringHost r.val) (c.addr + 8) (leBytes 2 c.status ++ leBytes 1 (1 + (if c.ts.isSome then 2 else 0)) ++ leBytes 5 0) =
      u.hostWrite (ringHost r.val) c.addr c.record := by
    intro u
    have ha := State.hostWrite_append u (ringHost r.val) c.addr (leBytes 4 (c.ts.getD (0, 0)).2 ++ leBytes 4 (c.ts.getD (0, 0)).1)
      (leBytes 2 c.status ++ leBytes 1 (1 + (if c.ts.isSome then 2 else 0)) ++ leBytes 5 0)
    rw [List.length_append, leBytes_length, leBytes_length] at ha
    rw [ha, TxC.record]
    simp only [List.append_assoc]
  have hl' : s.rb .HST_LINK_UP (ringHost r.val) = true := by
    rw [hh] at hl
    exact hl
  show execTxCompletion r s = _
  unfold execTxCompletion
  simp only [hf, hw, hl', Bool.not_true, Bool.or_self, Bool.false_eq_true, if_false, hr]
  rfl

end
end

theorem TxC.record_length (c : TxC) : c.record.length = 16 := by simp [TxC.record]

/-- Where the status is counted and shown. -/
theorem txNote_status (s : State) (r : Nat) {status : Nat} (hs : status ≠ 0) :
    (s.txNote r status).ctr .HST_CNT_TX_ERR (ringHost r) = s.ctr .HST_CNT_TX_ERR (ringHost r) + 1#64 ∧
    (s.txNote r status).rn .HST_RG_ERR r = status % 2 ^ 32 := by
  unfold State.txNote
  rw [if_neg hs]
  refine ⟨?_, ?_⟩
  · rw [State.setN_ctr, State.ctr_bump_self]
  · rw [State.rn_setN, if_pos ⟨rfl, rfl⟩]

/-- A status noted leaves the hosts, the completions counted and the consumer index. -/
theorem txNote_kept (s : State) (r status : Nat) : (s.txNote r status).hst = s.hst ∧
    (s.txNote r status).ctr .HST_CNT_TX_DESC (ringHost r) = s.ctr .HST_CNT_TX_DESC (ringHost r) ∧
    (s.txNote r status).rn .HST_RG_CONS r = s.rn .HST_RG_CONS r := by
  unfold State.txNote
  split
  · exact ⟨rfl, rfl, rfl⟩
  · refine ⟨by simp, ?_, ?_⟩
    · rw [State.setN_ctr, State.ctr_bump, if_neg (by simp)]
    · rw [State.rn_setN, if_neg (by simp)]
      rfl

theorem State.hostByte_of_hst {s t : State} (h a : Nat) (e : t.hst = s.hst) : t.hostByte h a = s.hostByte h a := by
  unfold State.hostByte
  rw [e]

theorem State.rn_of_regs {s t : State} (f : Field) (i : Nat) (e : t.regs = s.regs) : t.rn f i = s.rn f i :=
  congrArg BitVec.toNat (reg_of_regs e f i)

/-- The completion written: it is off those owed, its bytes stand over its descriptor, it is counted, and no register has changed. -/
theorem txWritten_effect (s : State) (r : Nat) (c : TxC) : (s.txWritten r c).hst.txc = s.hst.txc.erase c ∧
    (∀ i, i < 16 → (s.txWritten r c).hostByte (ringHost r) (c.addr + i) = c.record.getD i 0#8) ∧
    (s.txWritten r c).ctr .HST_CNT_TX_DESC (ringHost r) = s.ctr .HST_CNT_TX_DESC (ringHost r) + 1#64 ∧
    (s.txWritten r c).ctr .HST_CNT_TX_ERR (ringHost r) = s.ctr .HST_CNT_TX_ERR (ringHost r) ∧
    (s.txWritten r c).rn .HST_RG_CONS r = s.rn .HST_RG_CONS r := by
  unfold State.txWritten
  refine ⟨?_, fun i hi => ?_, ?_, ?_, ?_⟩
  · rw [State.bump_hst, State.hostWrite_txc]
    rfl
  · rw [State.hostByte_of_hst _ _ (State.bump_hst ..)]
    exact State.hostByte_hostWrite_of_lt _ _ _ (by rw [c.record_length]; decide) (by rw [c.record_length]; exact hi)
  · rw [State.ctr_bump_self, State.hostWrite_ctr]
    rfl
  · rw [State.ctr_bump, if_neg (by simp), State.hostWrite_ctr]
    rfl
  · refine State.rn_of_regs _ _ ?_
    rw [State.bump_regs, State.hostWrite_regs]
    rfl

/-- A completion retired leaves the host's memory, the completions owed, the counters and the error of the ring. -/
theorem txRetire_kept (s : State) (r idx : Nat) : (s.txRetire r idx).hst.txc = s.hst.txc ∧
    (∀ h a, (s.txRetire r idx).hostByte h a = s.hostByte h a) ∧ (∀ c i, (s.txRetire r idx).ctr c i = s.ctr c i) ∧
    (s.txRetire r idx).rn .HST_RG_ERR r = s.rn .HST_RG_ERR r := by
  unfold State.txRetire
  split
  · exact ⟨(ringDone_hst s r).2.1, ringDone_hostByte s r, ringDone_ctr s r, ringDone_rn s r r (by decide)⟩
  · exact ⟨rfl, fun _ _ => rfl, fun _ _ => rfl, rfl⟩

/-- R462: the completion that waits for nothing: taken, written over its descriptor, counted with its status, and retired at the consumer index. -/
theorem txCompletion_written {s : State} {r : Fin 4096} {h : Fin 4} {c : TxC} (hh : h.val = r.val / 1024)
    (hf : (s.hst.txc.find? fun c => c.ring == r.val) = some c) (hl : s.rb .HST_LINK_UP h.val = true) (hw : c.wait = none) :
    Does (.txCompletion r) s [.hst, .reg .HST, .ctr .HST] fun t => t.hst.txc = s.hst.txc.erase c ∧
      (∀ i, i < 16 → t.hostByte h.val (c.addr + i) = c.record.getD i 0#8) ∧
      t.ctr .HST_CNT_TX_DESC h.val = s.ctr .HST_CNT_TX_DESC h.val + 1#64 ∧
      (c.status ≠ 0 → t.ctr .HST_CNT_TX_ERR h.val = s.ctr .HST_CNT_TX_ERR h.val + 1#64 ∧ t.rn .HST_RG_ERR r.val = c.status % 2 ^ 32) ∧
      (c.idx = s.rn .HST_RG_CONS r.val → t.rn .HST_RG_CONS r.val = (c.idx + 1) % 65536) := by
  have he := exec_txCompletion_of_free hf hh hl hw
  have hg : h.val = ringHost r.val := hh
  obtain ⟨htxc, hbyte, hctr, herr⟩ := txRetire_kept ((s.txWritten r.val c).txNote r.val c.status) r.val c.idx
  obtain ⟨hhst, hdesc, hcons⟩ := txNote_kept (s.txWritten r.val c) r.val c.status
  obtain ⟨wtxc, wbyte, wdesc, werr, wcons⟩ := txWritten_effect s r.val c
  rw [hg]
  refine ⟨_, he, ?_, ?_, fun i hi => ?_, ?_, fun hs => ?_, fun hi => ?_⟩
  · exact changesOnly_of rfl (only_res he (only_execTxCompletion (m := pmask [.hst, .reg .HST, .ctr .HST]) r rfl (Only.refl _ s)))
  · rw [htxc, hhst, wtxc]
  · rw [hbyte, State.hostByte_of_hst _ _ hhst, wbyte i hi]
  · rw [hctr, hdesc, wdesc]
  · obtain ⟨he1, he2⟩ := txNote_status (s.txWritten r.val c) r.val hs
    exact ⟨by rw [hctr, he1, werr], by rw [herr, he2]⟩
  · unfold State.txRetire
    rw [hcons, wcons, if_pos hi, ringDone_cons, hcons, wcons, hi]

end Sys2Proof.Machine
end

section
/-! PROOFS. RX frames: a parked frame or an egress replica written to a posted descriptor of its host's ring, or dropped (spec/17 R463, Table 17.4). -/

namespace Sys2Proof.Machine

open Sys2Proof

/-! ### A frame and its completion written -/

/-- Bytes 0 to 11 of an RX completion (Table 17.4). -/
def rxHead (sec ns n flags port : Nat) : List Byte := leBytes 4 ns ++ leBytes 4 (sec % 2 ^ 32) ++ leBytes 2 n ++ leBytes 1 flags ++ leBytes 1 (port % 64)

/-- Bytes 12 to 31 of an RX completion (Table 17.4). -/
def rxRest (hw ctx tc : Nat) : List Byte := leBytes 4 hw ++ leBytes 2 ctx ++ leBytes 1 tc ++ List.replicate 13 0#8

theorem rxHead_length (sec ns n flags port : Nat) : (rxHead sec ns n flags port).length = 12 := by simp [rxHead]

theorem rxRest_length (hw ctx tc : Nat) : (rxRest hw ctx tc).length = 20 := by simp [rxRest]

/-- A frame and its completion in the memory of host `h`, the completion at `d`. -/
def State.rxBytes (s : State) (h d addr : Nat) (out head rest : List Byte) : State :=
  ((s.hostWrite h addr out).hostWrite h (d + 12) rest).hostWrite h d head

/-- A frame written is counted, and one cut short as well. -/
def State.rxCount (s : State) (h : Nat) (cut : Prop) [Decidable cut] : State :=
  (if cut then s.bump .HST_CNT_RX_TRUNC h else s).bump .HST_CNT_RX_FRAMES h

theorem rxCount_effect (s : State) (h : Nat) (cut : Prop) [Decidable cut] : (s.rxCount h cut).hst = s.hst ∧ (s.rxCount h cut).regs = s.regs ∧
    (s.rxCount h cut).ctr .HST_CNT_RX_FRAMES h = s.ctr .HST_CNT_RX_FRAMES h + 1#64 := by
  unfold State.rxCount
  split
  · exact ⟨by simp, by simp, by rw [State.ctr_bump_self, State.ctr_bump, if_neg (by simp)]⟩
  · exact ⟨by simp, by simp, State.ctr_bump_self ..⟩

section
variable (s : State) (r addr buflen : Nat) (l : List Byte) (sec ns : Nat) (parked : Bool) (port hw ctx tc : Nat)

/-- The flags of an RX completion: done, parked, cut short (Table 17.4). -/
def rxFlags : Nat := 1 + (if parked then 2 else 0) + (if (l.take buflen).length < l.length then 4 else 0)

theorem rxWrite_eq : s.rxWrite r addr buflen l sec ns parked port hw ctx tc =
    ((s.rxBytes (ringHost r) (s.descAddr r (s.rn .HST_RG_CONS r)) addr (l.take buflen)
      (rxHead sec ns (l.take buflen).length (rxFlags buflen l parked) port) (rxRest hw ctx tc)).rxCount (ringHost r)
        ((l.take buflen).length < l.length)).ringDone r := rfl

/-- A frame written: counted, its ring's consumer index moved on, the parked frames left, and its bytes and its completion in memory. -/
theorem rxWrite_effect : (s.rxWrite r addr buflen l sec ns parked port hw ctx tc).ctr .HST_CNT_RX_FRAMES (ringHost r) =
      s.ctr .HST_CNT_RX_FRAMES (ringHost r) + 1#64 ∧
    (s.rxWrite r addr buflen l sec ns parked port hw ctx tc).rn .HST_RG_CONS r = (s.rn .HST_RG_CONS r + 1) % 65536 ∧
    (s.rxWrite r addr buflen l sec ns parked port hw ctx tc).hst.rxp = s.hst.rxp ∧
    ∀ a, (s.rxWrite r addr buflen l sec ns parked port hw ctx tc).hostByte (ringHost r) a =
      (s.rxBytes (ringHost r) (s.descAddr r (s.rn .HST_RG_CONS r)) addr (l.take buflen)
        (rxHead sec ns (l.take buflen).length (rxFlags buflen l parked) port) (rxRest hw ctx tc)).hostByte (ringHost r) a := by
  rw [rxWrite_eq]
  generalize hu : s.rxBytes (ringHost r) (s.descAddr r (s.rn .HST_RG_CONS r)) addr (l.take buflen)
    (rxHead sec ns (l.take buflen).length (rxFlags buflen l parked) port) (rxRest hw ctx tc) = u
  have hc : u.ctr .HST_CNT_RX_FRAMES (ringHost r) = s.ctr .HST_CNT_RX_FRAMES (ringHost r) := by simp [← hu, State.rxBytes]
  have hn : u.rn .HST_RG_CONS r = s.rn .HST_RG_CONS r := State.rn_of_regs _ _ (by simp [← hu, State.rxBytes])
  have hp : u.hst.rxp = s.hst.rxp := by simp [← hu, State.rxBytes]
  obtain ⟨chst, cregs, cctr⟩ := rxCount_effect u (ringHost r) ((l.take buflen).length < l.length)
  refine ⟨?_, ?_, ?_, fun a => ?_⟩
  · rw [ringDone_ctr, cctr, hc]
  · rw [ringDone_cons, State.rn_of_regs _ _ cregs, hn]
  · rw [(ringDone_hst _ r).2.2, chst, hp]
  · rw [ringDone_hostByte, State.hostByte_of_hst _ _ chst]

end

section
variable {out head rest : List Byte} (s : State) (h d addr : Nat) (hh : head.length = 12) (hr : rest.length = 20)
include hh hr

/-- The completion stands over the descriptor. -/
theorem rxBytes_completion {i : Nat} (hi : i < 32) : (s.rxBytes h d addr out head rest).hostByte h (d + i) = (head ++ rest).getD i 0#8 := by
  unfold State.rxBytes
  rw [← hh]
  exact State.hostByte_hostWrite_parts _ _ _ (by omega) (by omega)

/-- The frame stands in its buffer, where the completion does not. -/
theorem rxBytes_frame {i : Nat} (ho : out.length ≤ 2 ^ 64) (hi : i < out.length) (hd : ∀ j, j < 32 → (addr + i) % 2 ^ 64 ≠ (d + j) % 2 ^ 64) :
    (s.rxBytes h d addr out head rest).hostByte h (addr + i) = out.getD i 0#8 := by
  unfold State.rxBytes
  rw [State.hostByte_hostWrite_of_ne _ head fun j hj => hd j (by omega),
    State.hostByte_hostWrite_of_ne _ rest fun j hj => Nat.add_assoc d 12 j ▸ hd (12 + j) (by omega)]
  exact State.hostByte_hostWrite_of_lt _ _ _ ho hi

end

/-! ### A parked frame -/

/-- A parked frame taken off those to be written. -/
def State.rxTaken (s : State) (x : RxP) : State := { s with hst := { s.hst with rxp := s.hst.rxp.erase x } }

section
variable {s : State} {h : Fin 4} {a : BitVec 64} {n : BitVec 16}

theorem exec_rxDelivery_of_none (hn : ∀ x ∈ s.hst.rxp, ringHost x.ring ≠ h.val) (ht : s.prt.txE.find (56 + h.val) = none) :
    exec (.rxDelivery h a n) s = .next s := by
  have hf : (s.hst.rxp.find? fun x => ringHost x.ring == h.val) = none := List.find?_eq_none.mpr fun x hx => by simpa using hn x hx
  show execRxDelivery h a n s = _
  simp only [execRxDelivery, hf, ht]

section
variable {x : RxP} (hf : (s.hst.rxp.find? fun x => ringHost x.ring == h.val) = some x)
include hf

theorem exec_rxDelivery_of_down (hl : s.rb .HST_LINK_UP h.val = false) : exec (.rxDelivery h a n) s = .next s := by
  show execRxDelivery h a n s = _
  simp only [execRxDelivery, hf, hl, Bool.false_eq_true, if_false]

theorem exec_rxDelivery_of_parked (hl : s.rb .HST_LINK_UP h.val = true) :
    exec (.rxDelivery h a n) s = .next (s.rxParked x a.toNat n.toNat) := by
  show execRxDelivery h a n s = _
  simp only [execRxDelivery, hf, hl, if_true]

/-- R171, R463: the next parked frame is written with its completion to the descriptor it has taken. -/
theorem rxDelivery_parked (hl : s.rb .HST_LINK_UP h.val = true) {f out : List Byte} {D : Nat}
    (hb : f = ((s.parkedPkt x.handle).map (·.bytes)).getD []) (ho : out = f.take n.toNat) (hd : D = s.descAddr x.ring (s.rn .HST_RG_CONS x.ring)) :
    Does (.rxDelivery h a n) s [.hst, .reg .HST, .ctr .HST] fun t => t.hst.rxp = s.hst.rxp.erase x ∧
      t.ctr .HST_CNT_RX_FRAMES h.val = s.ctr .HST_CNT_RX_FRAMES h.val + 1#64 ∧ t.rn .HST_RG_CONS x.ring = (s.rn .HST_RG_CONS x.ring + 1) % 65536 ∧
      (∀ i, i < 32 → t.hostByte h.val (D + i) =
        (rxHead x.sec x.ns out.length (3 + (if out.length < f.length then 4 else 0)) x.port ++ rxRest (x.handle + x.pipe * 2 ^ 20) x.ctx x.tc).getD i 0#8) ∧
      (∀ i, i < out.length → (∀ j, j < 32 → (a.toNat + i) % 2 ^ 64 ≠ (D + j) % 2 ^ 64) → t.hostByte h.val (a.toNat + i) = out.getD i 0#8) := by
  have he := exec_rxDelivery_of_parked (a := a) (n := n) hf hl
  have hg : ringHost x.ring = h.val := by simpa using List.find?_some hf
  have hw : s.rxParked x a.toNat n.toNat = (s.rxTaken x).rxWrite x.ring a.toNat n.toNat f x.sec x.ns true x.port (x.handle + x.pipe * 2 ^ 20) x.ctx x.tc := by
    rw [hb]
    rfl
  obtain ⟨wctr, wcons, wrxp, wbyte⟩ := rxWrite_effect (s.rxTaken x) x.ring a.toNat n.toNat f x.sec x.ns true x.port (x.handle + x.pipe * 2 ^ 20) x.ctx x.tc
  have hD : (s.rxTaken x).descAddr x.ring ((s.rxTaken x).rn .HST_RG_CONS x.ring) = D := hd.symm
  have hlen : out.length ≤ 2 ^ 64 := by
    have := n.isLt
    rw [ho, List.length_take]
    omega
  have hfl : rxFlags n.toNat f true = 3 + (if out.length < f.length then 4 else 0) := by
    rw [ho]
    rfl
  rw [← hw, hg] at wctr wbyte
  rw [← hw] at wcons wrxp
  rw [hD, ← ho, hfl] at wbyte
  refine ⟨_, he, ?_, wrxp, wctr, wcons, fun i hi => ?_, fun i hi hn => ?_⟩
  · exact changesOnly_of rfl (only_rxParked (m := pmask [.hst, .reg .HST, .ctr .HST]) _ _ _ rfl (Only.refl _ s))
  · rw [wbyte]
    exact rxBytes_completion _ _ _ _ (rxHead_length ..) (rxRest_length ..) hi
  · rw [wbyte]
    exact rxBytes_frame _ _ _ _ (rxHead_length ..) (rxRest_length ..) hlen hi hn

end

/-! ### An egress replica -/

/-- The transmission of port `p` over. -/
def State.txEnded (s : State) (p : Nat) : State := { s with prt := { s.prt with txE := s.prt.txE.erase p } }

/-- The RX ring of host `h` for the packet that a transmission sends (R464). -/
def State.rxRing (s : State) (h : Nat) (x : Tx) : Nat :=
  1024 * h + s.rn .HST_RXMAP_RING (h * 64 + ((((s.buf x.ent.buf).bind (·.pkt)).map (·.pin)).getD 0) % 64)

/-- The frame of a transmission to host `h`. -/
def State.rxFrame (s : State) (h : Nat) (x : Tx) : List Byte := (s.frameOut (56 + h) x (((s.buf x.ent.buf).map (·.bytes)).getD [])).1

/-- A replica for a host that is up: its transmission is over, its frame is written to its ring or finds no descriptor, and its reference ends. -/
theorem exec_rxDelivery_of_replica {x : Tx} (hn : ∀ y ∈ s.hst.rxp, ringHost y.ring ≠ h.val) (hx : s.prt.txE.find (56 + h.val) = some x)
    (hp : x.ent.pkt = 0) (hl : s.rb .HST_LINK_UP h.val = true) : ∃ sec ns port, exec (.rxDelivery h a n) s = .next
      ((if s.rxReady (s.rxRing h.val x) = true then
        (s.txEnded (56 + h.val)).rxWrite (s.rxRing h.val x) a.toNat n.toNat (s.rxFrame h.val x) sec ns false port 0 0 x.ent.tc
      else (s.txEnded (56 + h.val)).rxNone (s.rxRing h.val x)).endReplica (56 + h.val) x.ent) := by
  have hf : (s.hst.rxp.find? fun x => ringHost x.ring == h.val) = none := List.find?_eq_none.mpr fun x hx => by simpa using hn x hx
  have hl' : (s.txEnded (56 + h.val)).rb .HST_LINK_UP h.val = true := hl
  have he : exec (.rxDelivery h a n) s = .next (s.rxReplica h.val x a.toNat n.toNat) := by
    show execRxDelivery h a n s = _
    simp only [execRxDelivery, hf, hx, hp, ne_eq, not_true_eq_false, if_false]
  refine ⟨(((s.buf x.ent.buf).bind (·.pkt)).map (·.tsSec)).getD 0, (((s.buf x.ent.buf).bind (·.pkt)).map (·.tsNs)).getD 0,
    (((s.buf x.ent.buf).bind (·.pkt)).map (·.src)).getD 0, he.trans (congrArg (fun u => Host.Outcome.next (State.endReplica u _ _)) ?_)⟩
  have hc : ¬ (!(s.txEnded (56 + h.val)).rb .HST_LINK_UP h.val) = true := by
    rw [hl']
    decide
  exact if_neg hc

/-- The end of a replica leaves the ports, the registers and counters of the host block, and the hosts' memory. -/
theorem endReplica_kept (s : State) (p : Nat) (e : QEnt) : (s.endReplica p e).prt = s.prt ∧
    (∀ f i, f.info.block = .HST → (s.endReplica p e).rn f i = s.rn f i) ∧
    (∀ c i, c.info.block = .HST → (s.endReplica p e).ctr c i = s.ctr c i) ∧ (s.endReplica p e).hst.mem = s.hst.mem := by
  have ho := only_endReplica (m := 0x10000200430020080) p e rfl (Only.refl _ s)
  exact ⟨ho.frame .prt rfl, (HstRegsKept.of_only ho rfl).rn, ho.frame (.ctr .HST) rfl, ((SignalsOnly.refl s).endReplica p e).mem⟩

/-- A frame without a descriptor is counted, and moves nothing of its ring. -/
theorem rxNone_effect (s : State) (r : Nat) : (s.rxNone r).rn .HST_RG_CONS r = s.rn .HST_RG_CONS r ∧
    (s.rxNone r).ctr .HST_CNT_RX_NODESC (ringHost r) = s.ctr .HST_CNT_RX_NODESC (ringHost r) + 1#64 ∧ (s.rxNone r).hst.mem = s.hst.mem := by
  have hu : (s.countF .HST_RG_DROPS r).hst = s.hst ∧ (s.countF .HST_RG_DROPS r).ctr .HST_CNT_RX_NODESC (ringHost r) = s.ctr .HST_CNT_RX_NODESC (ringHost r) ∧
      (s.countF .HST_RG_DROPS r).reg .HST_RG_CONS r = s.reg .HST_RG_CONS r :=
    ⟨rfl, rfl, (State.reg_countF ..).trans (if_neg (by simp))⟩
  unfold State.rxNone
  generalize s.countF .HST_RG_DROPS r = u at hu
  obtain ⟨uhst, uctr, ucons⟩ := hu
  have hs : SignalsOnly s (u.bump .HST_CNT_RX_NODESC (ringHost r)) := (SignalsOnly.refl s).keep (by rw [State.bump_hst, uhst])
  refine ⟨congrArg BitVec.toNat ?_, ?_, (hs.raiseLimited ..).mem⟩
  · rw [State.reg_raiseLimited_ne _ _ _ _ _ _ _ _ _ (Or.inl (by decide)) (Or.inl (by decide)), reg_of_regs (State.bump_regs ..), ucons]
  · rw [State.raiseLimited_ctr, State.ctr_bump_self, uctr]

/-- R463: the replica that a host's port transmits is written to a posted descriptor, or dropped and counted. -/
theorem rxDelivery_replica {x : Tx} {ring : Nat} {f : List Byte} (hn : ∀ y ∈ s.hst.rxp, ringHost y.ring ≠ h.val)
    (hx : s.prt.txE.find (56 + h.val) = some x) (hp : x.ent.pkt = 0) (hl : s.rb .HST_LINK_UP h.val = true) (hr : ring = s.rxRing h.val x)
    (hg : ring / 1024 = h.val) (hf : f = s.rxFrame h.val x) :
    Completes (.rxDelivery h a n) s fun t => t.prt.txE.find (56 + h.val) = none ∧
      (s.rxReady ring = false → t.rn .HST_RG_CONS ring = s.rn .HST_RG_CONS ring ∧
        t.ctr .HST_CNT_RX_NODESC h.val = s.ctr .HST_CNT_RX_NODESC h.val + 1#64 ∧ t.hst.mem = s.hst.mem) ∧
      (s.rxReady ring = true → t.ctr .HST_CNT_RX_FRAMES h.val = s.ctr .HST_CNT_RX_FRAMES h.val + 1#64 ∧ t.rn .HST_RG_CONS ring = (s.rn .HST_RG_CONS ring + 1) % 65536 ∧
        ∀ i, i < min f.length n.toNat → (∀ j, j < 32 → (a.toNat + i) % 2 ^ 64 ≠ (s.descAddr ring (s.rn .HST_RG_CONS ring) + j) % 2 ^ 64) →
          t.hostByte h.val (a.toNat + i) = f.getD i 0#8) := by
  obtain ⟨sec, ns, port, he⟩ := exec_rxDelivery_of_replica (a := a) (n := n) hn hx hp hl
  have hg' : ringHost ring = h.val := hg
  have hend : (s.txEnded (56 + h.val)).prt.txE.find (56 + h.val) = none := SMap.find_erase_self ..
  rw [← hr, ← hf] at he
  cases hy : s.rxReady ring with
  | false =>
    rw [hy, if_neg (by decide)] at he
    obtain ⟨ncons, nctr, nmem⟩ := rxNone_effect (s.txEnded (56 + h.val)) ring
    obtain ⟨eprt, ern, ectr, emem⟩ := endReplica_kept ((s.txEnded (56 + h.val)).rxNone ring) (56 + h.val) x.ent
    have nprt : ((s.txEnded (56 + h.val)).rxNone ring).prt = (s.txEnded (56 + h.val)).prt :=
      (only_rxNone (m := 0x800010000430000080) ring rfl (Only.refl _ _)).frame .prt rfl
    rw [hg'] at nctr
    refine ⟨_, he, by rw [eprt, nprt, hend], fun _ => ⟨?_, ?_, ?_⟩, fun h => nomatch h⟩
    · rw [ern _ _ rfl, ncons]
      rfl
    · rw [ectr _ _ rfl, nctr]
      rfl
    · rw [emem, nmem]
      rfl
  | true =>
    rw [hy, if_pos rfl] at he
    obtain ⟨wctr, wcons, -, wbyte⟩ := rxWrite_effect (s.txEnded (56 + h.val)) ring a.toNat n.toNat f sec ns false port 0 0 x.ent.tc
    have wprt : ((s.txEnded (56 + h.val)).rxWrite ring a.toNat n.toNat f sec ns false port 0 0 x.ent.tc).prt = (s.txEnded (56 + h.val)).prt :=
      (only_rxWrite (m := 0x800010000000000080) _ _ _ _ _ _ _ _ _ _ _ rfl (Only.refl _ _)).frame .prt rfl
    generalize (s.txEnded (56 + h.val)).rxWrite ring a.toNat n.toNat f sec ns false port 0 0 x.ent.tc = u at he wctr wcons wbyte wprt
    obtain ⟨eprt, ern, ectr, emem⟩ := endReplica_kept u (56 + h.val) x.ent
    rw [hg'] at wctr wbyte
    refine ⟨_, he, by rw [eprt, wprt, hend], fun h => (nomatch h), fun _ => ⟨?_, ?_, fun i hi hd => ?_⟩⟩
    · rw [ectr _ _ rfl, wctr]
      rfl
    · rw [ern _ _ rfl, wcons]
      rfl
    · have hl : i < (f.take n.toNat).length := by
        rw [List.length_take]
        omega
      have hlen : (f.take n.toNat).length ≤ 2 ^ 64 := by
        have := n.isLt
        rw [List.length_take]
        omega
      have hb : (u.endReplica (56 + h.val) x.ent).hostByte h.val (a.toNat + i) = u.hostByte h.val (a.toNat + i) :=
        congrArg (SMap.get 0#8 · (h.val * 2 ^ 64 + (a.toNat + i) % 2 ^ 64)) emem
      rw [hb, wbyte]
      refine (rxBytes_frame _ _ _ _ (rxHead_length ..) (rxRest_length ..) hlen hl hd).trans ?_
      rw [List.getD_eq_getElem?_getD, List.getElem?_take_of_lt (by omega), List.getD_eq_getElem?_getD]

end

end Sys2Proof.Machine
end

section
/-! PROOFS. Rings of the hosts (spec/17 R459 to R465): the clauses put together. -/

namespace Sys2Proof.Machine

open Sys2Proof

/-- Settles O59: each clause is the rule of its command, from the doorbell to the completion and the RX frame. -/
theorem hostRings : Obligations.HostRings := by
  unfold Obligations.HostRings
  refine ⟨fun s src r v => ⟨foreignRingCommand, fun ho => ⟨?off, ?beyond, ?within, ?badSize, ?enable, ?base, ?word⟩,
      fun hu => if_pos hu, interruptHoldoff_due⟩,
    fun s r d l err h hh => ⟨exec_tx_of_idle, exec_txSend_of_other, exec_txResume_of_other, exec_txDiscard_of_other,
      fun hr => ⟨?bad, ?send, ?resumeBad, ?discardBad, ?busy, fun hb => ⟨?held, ?foreign⟩⟩, exec_txCompletion_of_none, ?completion,
      fun a n => ⟨exec_rxDelivery_of_none, ?parked, ?replica⟩⟩⟩
  case off => exact fun he => (exec_doorbell_of_owner ho).trans (congrArg _ (if_pos he))
  case beyond => exact doorbell_beyond ho
  case within => exact doorbell_within ho
  case badSize => exact hstRgEn_badSize ho
  case enable => exact fun h6 h15 => ⟨hstRgEn_changed ho h6 h15, hstRgEn_taken ho h6 h15⟩
  case base => exact fun _ => hstRgCfg_refused ho
  case word => exact fun _ _ => hstRgCfg_taken ho
  case bad => exact fun h2 h3 hb => owes_bad (exec_txSend_of_bad hr h2 h3 hb)
  case send =>
    intro h1 hb h60 hm
    refine ⟨txSend_fenced hr hh h1 hb h60 hm, fun ha => txSend_waits hr hh h1 hb h60 hm ha,
      fun ha hq u ob hu => ⟨txSend_refused hr hh h1 hb h60 hm ha hq hu, ?_, ?_⟩⟩
    · rintro b ho rfl
      exact txSend_failed hr hh h1 hb h60 hm ha hq hu ho
    · rintro b ho rfl
      exact txSend_sent hr hh h1 hb h60 hm ha hq hu ho
  case resumeBad => exact fun h2 hb => owes_bad (exec_txResume_of_bad hr h2 hb)
  case discardBad => exact fun h3 hb => owes_bad (exec_txDiscard_of_bad hr h3 hb)
  case busy => exact exec_txResume_of_busy hr hh
  case held => exact fun x hx hs ho => ⟨fun h2 hq => txResume_held hr hh hb h2 hq hx hs ho, fun h3 => txDiscard_held hr hh hb h3 hx hs ho⟩
  case foreign =>
    intro hf st hst
    refine ⟨fun h2 hq => ?_, fun h3 => ?_⟩
    · exact owes_ownErr (exec_txResume_of_free hr hh hb h2 hq (parked_of_foreign _ _ _ hf).1) hst
    · exact owes_ownErr (exec_txDiscard_of_good hr hh hb h3 (parked_of_foreign 0 0 _ hf).2) hst
  case completion =>
    exact fun c hf => ⟨exec_txCompletion_of_down hf hh, fun b o => exec_txCompletion_of_waiting hf, txCompletion_written hh hf⟩
  case parked =>
    refine fun x hf => ⟨exec_rxDelivery_of_down hf, fun f out D hl hb ho hd => ?_⟩
    simpa only [rxHead, rxRest, ← List.append_assoc] using rxDelivery_parked hf hl hb ho hd
  case replica => exact fun x ring f => rxDelivery_replica

end Sys2Proof.Machine
end

section
/-! PROOFS. Fuses (spec/18 R483 to R489): no command breaks what Keep lists, the fuse array among it, and so no step clears a programmed bit. -/

namespace Sys2Proof.Machine

open Sys2Proof

/-- Each arm of the dispatch by the law of its meaning. The mask admits every part: what is left of the law is Keep. -/
theorem only_exec {a s : State} (c : Instr) (h : Only 0xFFFFFFFFFFFFFFFFFF a s) : OnlyR 0xFFFFFFFFFFFFFFFFFF a (exec c s) := by
  cases c with
  | powerOnReset => exact only_execPowerOnReset _ _ rfl h
  | porRelease => exact only_execPorRelease _ rfl h
  | vinUndervoltage => exact only_execVinUndervoltage _ rfl h
  | vinLowExcursion => exact only_execVinLowExcursion _ rfl h
  | bootEntry => exact only_execBootEntry _ rfl h
  | warmReset => exact only_execWarmReset _ rfl h
  | stewardWatchdog => exact only_execStewardWatchdog rfl h
  | monReq => exact only_execMonReq _ rfl h
  | slowclkLost => exact only_execSlowclkLost rfl h
  | slowclkReturn => exact only_execSlowclkReturn rfl h
  | timebaseChangeover => exact only_execTimebaseChangeover rfl h
  | dieTempSample => exact only_execDieTempSample _ _ _ _ rfl h
  | safeHoldExit => exact only_execSafeHoldExit rfl h
  | currentLimitStep => exact only_execCurrentLimitStep rfl h
  | currentLimitRestore => exact only_execCurrentLimitRestore rfl h
  | phaseFail => exact only_execPhaseFail _ rfl h
  | pllLock => exact only_execPllLock _ rfl h
  | pwrEngClkSet => exact only_execPwrEngClkSet _ _ _ rfl h
  | pwrDomReq => exact only_execPwrDomReq _ _ _ rfl h
  | pwrDomCgOnly => exact only_execPwrDomCgOnly _ _ _ rfl h
  | clusterPowerGate => exact only_execClusterPowerGate _ rfl h
  | wakeInterval => exact only_execWakeInterval rfl h
  | domainWakeDone => exact only_execDomainWakeDone _ rfl h
  | runRequest => exact only_execRunRequest _ rfl h
  | standbyRequest => exact only_execStandbyRequest _ rfl h
  | drainRequest => exact only_execDrainRequest _ _ rfl h
  | drainCancel => exact only_execDrainCancel _ rfl h
  | drainComplete => exact only_execDrainComplete rfl h
  | drainForced => exact only_execDrainForced rfl h
  | standbySaveDone => exact only_execStandbySaveDone rfl h
  | standbyWakeSideband => exact only_execStandbyWakeSideband _ rfl h
  | standbyWakeTime => exact only_execStandbyWakeTime rfl h
  | standbyRestoreDone => exact only_execStandbyRestoreDone _ rfl h
  | bootStartupDone => exact only_execBootStartupDone rfl h
  | sfdpDiscoveryDone => exact only_execSfdpDiscoveryDone _ _ rfl h
  | manifestReadDone => exact only_execManifestReadDone rfl h
  | stewardLoadDone => exact only_execStewardLoadDone rfl h
  | hbmTrainDone => exact only_execHbmTrainDone _ rfl h
  | hbmPassDone => exact only_execHbmPassDone rfl h
  | glbResetGo => exact only_execGlbResetGo _ _ rfl h
  | subsysResetPort => exact only_execSubsysResetPort _ _ rfl h
  | subsysResetCluster => exact only_execSubsysResetCluster _ _ rfl h
  | subsysResetGraticule => exact only_execSubsysResetGraticule _ rfl h
  | subsysResetTms => exact only_execSubsysResetTms _ rfl h
  | subsysResetAuth => exact only_execSubsysResetAuth _ rfl h
  | subsysResetDone => exact only_execSubsysResetDone rfl h
  | imageLoad => exact only_execImageLoad _ _ rfl h
  | imageLoadDone => exact only_execImageLoadDone rfl h
  | configRecord => exact only_execConfigRecord rfl h
  | set => exact only_execSet _ rfl h
  | step => exact only_execStep _ rfl h
  | setAtPps => exact only_execSetAtPps _ rfl h
  | timCommandEffect => exact only_execTimCommandEffect rfl h
  | ppsEdge => exact only_execPpsEdge _ rfl h
  | ppsLost => exact only_execPpsLost rfl h
  | holdoverEnd => exact only_execHoldoverEnd rfl h
  | timSrc => exact only_execTimSrc _ _ rfl h
  | timPtpLock => exact only_execTimPtpLock _ _ rfl h
  | timAdjFreq => exact only_execTimAdjFreq _ _ rfl h
  | ppsOutRise => exact only_execPpsOutRise rfl h
  | ppsOutFall => exact only_execPpsOutFall rfl h
  | refwRateChange => exact only_execRefwRateChange rfl h
  | refreshWindow => exact only_execRefreshWindow rfl h
  | memTempSample => exact only_execMemTempSample _ rfl h
  | frameReceive => exact only_execFrameReceive _ _ _ _ _ _ rfl h
  | expressOffer => exact only_execExpressOffer _ _ rfl h
  | prtCfg => exact only_execPrtCfg _ _ _ rfl h
  | prtPreCfg => exact only_execPrtPreCfg _ _ _ rfl h
  | prtRedCfg => exact only_execPrtRedCfg _ _ _ rfl h
  | prtCntClr => exact only_execPrtCntClr _ _ rfl h
  | linkUp => exact only_execLinkUp _ rfl h
  | linkDown => exact only_execLinkDown _ rfl h
  | autonegComplete => exact only_execAutonegComplete _ _ rfl h
  | linkBringupFail => exact only_execLinkBringupFail _ rfl h
  | verifySend => exact only_execVerifySend _ rfl h
  | verifyResponse => exact only_execVerifyResponse _ rfl h
  | verifyFail => exact only_execVerifyFail _ rfl h
  | windowForget => exact only_execWindowForget _ rfl h
  | partnerEntryExpire => exact only_execPartnerEntryExpire _ rfl h
  | lanLoss => exact only_execLanLoss _ rfl h
  | preempt => exact only_execPreempt _ _ rfl h
  | replicaTransmitted => exact only_execReplicaTransmitted _ _ rfl h
  | pipelineEntry => exact only_execPipelineEntry _ _ rfl h
  | laneAcquire => exact only_execLaneAcquire _ _ rfl h
  | parseRestart => exact only_execParseRestart _ _ rfl h
  | microword => exact only_execMicroword _ _ rfl h
  | waitTimeout => exact only_execWaitTimeout _ _ rfl h
  | parseLimit => exact only_execParseLimit _ _ rfl h
  | patternScanDone => exact only_execPatternScanDone _ _ rfl h
  | parCsScrub => exact only_execParCsScrub _ _ _ rfl h
  | parCntClr => exact only_execParCntClr _ _ rfl h
  | classify => exact only_execClassify _ _ rfl h
  | parkDetach => exact only_execParkDetach _ rfl h
  | fragmentTimeout => exact only_execFragmentTimeout _ rfl h
  | ruleScrub => exact only_execRuleScrub _ _ _ rfl h
  | clsCfg => exact only_execClsCfg _ _ rfl h
  | clsStage => exact only_execClsStage _ rfl h
  | clsCommit => exact only_execClsCommit _ _ rfl h
  | clsAbort => exact only_execClsAbort _ rfl h
  | clsDiscard => exact only_execClsDiscard _ rfl h
  | stageComplete => exact only_execStageComplete _ rfl h
  | installStart => exact only_execInstallStart rfl h
  | installDone => exact only_execInstallDone rfl h
  | editionSwitch => exact only_execEditionSwitch _ rfl h
  | editionDrainBound => exact only_execEditionDrainBound rfl h
  | clsCntClr => exact only_execClsCntClr _ rfl h
  | forwardDecision => exact only_execForwardDecision _ rfl h
  | learnApply => exact only_execLearnApply rfl h
  | search => exact only_execSearch _ _ _ rfl h
  | next => exact only_execNext _ _ _ rfl h
  | insert => exact only_execInsert _ _ _ rfl h
  | delete => exact only_execDelete _ _ _ rfl h
  | flushPort => exact only_execFlushPort _ _ _ rfl h
  | flushAll => exact only_execFlushAll _ _ _ rfl h
  | ageScan => exact only_execAgeScan _ _ _ rfl h
  | rehash => exact only_execRehash _ _ _ rfl h
  | resume => exact only_execResume _ _ _ rfl h
  | abort => exact only_execAbort _ _ _ rfl h
  | tmsRoutine => exact only_execTmsRoutine _ _ rfl h
  | journalSettle => exact only_execJournalSettle _ rfl h
  | tblSeed => exact only_execTblSeed _ _ _ _ rfl h
  | tblSeedNext => exact only_execTblSeedNext _ _ _ rfl h
  | flowClearDone => exact only_execFlowClearDone rfl h
  | ageTick => exact only_execAgeTick rfl h
  | ageVisit => exact only_execAgeVisit _ rfl h
  | ageDelete => exact only_execAgeDelete rfl h
  | tblCntClr => exact only_execTblCntClr _ rfl h
  | flowLookup => exact only_execFlowLookup _ rfl h
  | flowInsertApply => exact only_execFlowInsertApply rfl h
  | writeBack => exact only_execWriteBack _ rfl h
  | recordQuarantineEnd => exact only_execRecordQuarantineEnd _ rfl h
  | freeListRebuildDone => exact only_execFreeListRebuildDone rfl h
  | gooseTalExpiry => exact only_execGooseTalExpiry _ rfl h
  | recRead => exact only_execRecRead _ _ _ rfl h
  | recWrite => exact only_execRecWrite _ _ _ rfl h
  | recAlloc => exact only_execRecAlloc _ _ _ rfl h
  | recFree => exact only_execRecFree _ _ _ rfl h
  | gzRead => exact only_execGzRead _ _ _ rfl h
  | gzWrite => exact only_execGzWrite _ _ _ rfl h
  | flwKprof => exact only_execFlwKprof _ _ _ _ rfl h
  | flwLbg => exact only_execFlwLbg _ _ _ _ rfl h
  | flwCntClr => exact only_execFlwCntClr _ rfl h
  | sampleDelivery => exact only_execSampleDelivery _ rfl h
  | sliceOpen => exact only_execSliceOpen _ rfl h
  | sliceDeadline => exact only_execSliceDeadline _ rfl h
  | streamLoss => exact only_execStreamLoss _ rfl h
  | sauJgEn => exact only_execSauJgEn _ _ _ _ rfl h
  | sauStCfg => exact only_execSauStCfg _ _ _ _ rfl h
  | sauPubCfg => exact only_execSauPubCfg _ _ _ _ rfl h
  | sauCfg => exact only_execSauCfg _ _ rfl h
  | sauCntClr => exact only_execSauCntClr _ rfl h
  | gooseRetransmit => exact only_execGooseRetransmit rfl h
  | poolRequest => exact only_execPoolRequest rfl h
  | protectedHoldExpiry => exact only_execProtectedHoldExpiry _ rfl h
  | replicate => exact only_execReplicate _ rfl h
  | swcLayoutApply => exact only_execSwcLayoutApply _ rfl h
  | swcRgMaskH => exact only_execSwcRgMaskH _ _ _ rfl h
  | swcCntClr => exact only_execSwcCntClr _ rfl h
  | queueSelect => exact only_execQueueSelect _ _ rfl h
  | headDiscard => exact only_execHeadDiscard _ rfl h
  | tmgCg => exact only_execTmgCg _ _ _ _ rfl h
  | tmgQCfg => exact only_execTmgQCfg _ _ _ _ rfl h
  | shaperConfig => exact only_execShaperConfig _ _ _ _ _ rfl h
  | fineWheelSlot => exact only_execFineWheelSlot rfl h
  | overflowWheelSlot => exact only_execOverflowWheelSlot rfl h
  | tagSweep => exact only_execTagSweep rfl h
  | tmgCntClr => exact only_execTmgCntClr _ rfl h
  | add => exact only_execAdd _ _ rfl h
  | sub => exact only_execSub _ _ rfl h
  | and => exact only_execAnd _ _ rfl h
  | or => exact only_execOr _ _ rfl h
  | xor => exact only_execXor _ _ rfl h
  | sll => exact only_execSll _ _ rfl h
  | srl => exact only_execSrl _ _ rfl h
  | sra => exact only_execSra _ _ rfl h
  | cmplt => exact only_execCmplt _ _ rfl h
  | cmpltu => exact only_execCmpltu _ _ rfl h
  | min => exact only_execMin _ _ rfl h
  | max => exact only_execMax _ _ rfl h
  | minu => exact only_execMinu _ _ rfl h
  | maxu => exact only_execMaxu _ _ rfl h
  | mul => exact only_execMul _ _ rfl h
  | mulh => exact only_execMulh _ _ rfl h
  | mulhu => exact only_execMulhu _ _ rfl h
  | div => exact only_execDiv _ _ rfl h
  | divu => exact only_execDivu _ _ rfl h
  | rem => exact only_execRem _ _ rfl h
  | remu => exact only_execRemu _ _ rfl h
  | clz => exact only_execClz _ _ rfl h
  | popc => exact only_execPopc _ _ rfl h
  | bswap => exact only_execBswap _ _ rfl h
  | addi => exact only_execAddi _ _ rfl h
  | andi => exact only_execAndi _ _ rfl h
  | ori => exact only_execOri _ _ rfl h
  | xori => exact only_execXori _ _ rfl h
  | slli => exact only_execSlli _ _ rfl h
  | srli => exact only_execSrli _ _ rfl h
  | srai => exact only_execSrai _ _ rfl h
  | cmplti => exact only_execCmplti _ _ rfl h
  | immh => exact only_execImmh _ _ rfl h
  | brl => exact only_execBrl _ _ rfl h
  | jrl => exact only_execJrl _ _ rfl h
  | ldb => exact only_execLdb _ _ rfl h
  | ldbu => exact only_execLdbu _ _ rfl h
  | ldh => exact only_execLdh _ _ rfl h
  | ldhu => exact only_execLdhu _ _ rfl h
  | ldw => exact only_execLdw _ _ rfl h
  | ldwu => exact only_execLdwu _ _ rfl h
  | ldd => exact only_execLdd _ _ rfl h
  | stb => exact only_execStb _ _ rfl h
  | sth => exact only_execSth _ _ rfl h
  | stw => exact only_execStw _ _ rfl h
  | std => exact only_execStd _ _ rfl h
  | xadd => exact only_execXadd _ _ rfl h
  | cas => exact only_execCas _ _ rfl h
  | breq => exact only_execBreq _ _ rfl h
  | brne => exact only_execBrne _ _ rfl h
  | brlt => exact only_execBrlt _ _ rfl h
  | brge => exact only_execBrge _ _ rfl h
  | brltu => exact only_execBrltu _ _ rfl h
  | brgeu => exact only_execBrgeu _ _ rfl h
  | vld => exact only_execVld _ _ rfl h
  | vst => exact only_execVst _ _ rfl h
  | vadd => exact only_execVadd _ _ rfl h
  | vsub => exact only_execVsub _ _ rfl h
  | vmul => exact only_execVmul _ _ rfl h
  | vmac => exact only_execVmac _ _ rfl h
  | vcmul => exact only_execVcmul _ _ rfl h
  | vcmac => exact only_execVcmac _ _ rfl h
  | vdfts => exact only_execVdfts _ _ rfl h
  | vdfta => exact only_execVdfta _ _ rfl h
  | vcvt => exact only_execVcvt _ _ rfl h
  | vred => exact only_execVred _ _ rfl h
  | vmag2 => exact only_execVmag2 _ _ rfl h
  | vsplat => exact only_execVsplat _ _ rfl h
  | vmovg => exact only_execVmovg _ _ rfl h
  | emit => exact only_execEmit _ _ rfl h
  | await => exact only_execAwait _ _ rfl h
  | commit => exact only_execCommit _ _ rfl h
  | pkalloc => exact only_execPkalloc _ _ rfl h
  | pkrd => exact only_execPkrd _ _ rfl h
  | pkwr => exact only_execPkwr _ _ rfl h
  | pksend => exact only_execPksend _ _ rfl h
  | pkres => exact only_execPkres _ _ rfl h
  | pkdisc => exact only_execPkdisc _ _ rfl h
  | bfree => exact only_execBfree _ _ rfl h
  | brel => exact only_execBrel _ _ rfl h
  | auth => exact only_execAuth _ _ rfl h
  | gpub => exact only_execGpub _ _ rfl h
  | tmset => exact only_execTmset _ _ rfl h
  | tmcan => exact only_execTmcan _ _ rfl h
  | dmaq => exact only_execDmaq _ _ rfl h
  | dmaw => exact only_execDmaw _ _ rfl h
  | rgrd => exact only_execRgrd _ _ rfl h
  | rgwr => exact only_execRgwr _ _ rfl h
  | mfs => exact only_execMfs _ _ rfl h
  | fence => exact only_execFence _ _ rfl h
  | trap => exact only_execTrap _ _ rfl h
  | continuationDelivery => exact only_execContinuationDelivery _ rfl h
  | timerFire => exact only_execTimerFire _ _ rfl h
  | engMemScrub => exact only_execEngMemScrub _ _ _ rfl h
  | engCntClr => exact only_execEngCntClr _ rfl h
  | tokenArrival => exact only_execTokenArrival _ _ _ _ _ _ rfl h
  | dispatch => exact only_execDispatch _ rfl h
  | matchTimeout => exact only_execMatchTimeout _ rfl h
  | budgetExhausted => exact only_execBudgetExhausted _ rfl h
  | tskTtEn => exact only_execTskTtEn _ _ _ rfl h
  | inject => exact only_execInject _ _ _ rfl h
  | ctxResume => exact only_execCtxResume _ _ _ rfl h
  | ctxAbort => exact only_execCtxAbort _ _ _ rfl h
  | dmaResume => exact only_execDmaResume _ _ _ rfl h
  | dmaAbort => exact only_execDmaAbort _ _ _ rfl h
  | tskFbEn => exact only_execTskFbEn _ _ rfl h
  | tskCntClr => exact only_execTskCntClr _ rfl h
  | invalidateAsid => exact only_execInvalidateAsid _ _ rfl h
  | invalidateRange => exact only_execInvalidateRange _ _ rfl h
  | invalidateAll => exact only_execInvalidateAll _ _ rfl h
  | invalidationDone => exact only_execInvalidationDone rfl h
  | mmuRoot => exact only_execMmuRoot _ _ _ _ rfl h
  | mmuCntClr => exact only_execMmuCntClr _ rfl h
  | dmaSuspend => exact only_execDmaSuspend _ _ _ _ rfl h
  | dmaOutcome => exact only_execDmaOutcome _ _ _ rfl h
  | priResponse => exact only_execPriResponse _ _ _ rfl h
  | priTimeout => exact only_execPriTimeout _ _ rfl h
  | faultHoldTimeout => exact only_execFaultHoldTimeout _ _ rfl h
  | keyLoad => exact only_execKeyLoad _ _ rfl h
  | keyErase => exact only_execKeyErase _ _ rfl h
  | keyCommit => exact only_execKeyCommit rfl h
  | authComplete => exact only_execAuthComplete _ rfl h
  | inlineVerifyResult => exact only_execInlineVerifyResult _ rfl h
  | autCntClr => exact only_execAutCntClr _ rfl h
  | memScrub => exact only_execMemScrub _ _ rfl h
  | remap => exact only_execRemap rfl h
  | testAll => exact only_execTestAll _ rfl h
  | burn => exact only_execBurn _ rfl h
  | repairDone => exact only_execRepairDone _ _ rfl h
  | writeComputed => exact only_execWriteComputed _ rfl h
  | writeRaw => exact only_execWriteRaw _ rfl h
  | readRaw => exact only_execReadRaw _ rfl h
  | memCntClr => exact only_execMemCntClr _ rfl h
  | claim => exact only_execClaim _ _ _ rfl h
  | renew => exact only_execRenew _ _ rfl h
  | leaseRelease => exact only_execLeaseRelease _ rfl h
  | leaseLapse => exact only_execLeaseLapse rfl h
  | doorbell => exact only_execDoorbell _ _ _ rfl h
  | hstRgEn => exact only_execHstRgEn _ _ _ rfl h
  | hstRgCfg => exact only_execHstRgCfg _ _ _ _ rfl h
  | hstGr => exact only_execHstGr _ _ _ _ _ rfl h
  | bar4Access => exact only_execBar4Access _ _ _ _ _ rfl h
  | txSend => exact only_execTxSend _ _ _ _ rfl h
  | txResume => exact only_execTxResume _ _ rfl h
  | txDiscard => exact only_execTxDiscard _ _ rfl h
  | txCompletion => exact only_execTxCompletion _ rfl h
  | rxDelivery => exact only_execRxDelivery _ _ _ rfl h
  | interruptHoldoff => exact only_execInterruptHoldoff _ rfl h
  | flr => exact only_execFlr _ rfl h
  | hostLinkUp => exact only_execHostLinkUp _ _ rfl h
  | hostLinkDown => exact only_execHostLinkDown _ rfl h
  | atsInvalidate => exact only_execAtsInvalidate _ rfl h
  | hstCntClr => exact only_execHstCntClr _ rfl h
  | healthBurn => exact only_execHealthBurn _ rfl h
  | monitorLine => exact only_execMonitorLine _ _ rfl h
  | id => exact only_execId rfl h
  | mode => exact only_execMode _ _ rfl h
  | reset => exact only_execReset rfl h
  | rd => exact only_execRd _ _ rfl h
  | wr => exact only_execWr _ _ rfl h
  | evt => exact only_execEvt _ rfl h
  | cap => exact only_execCap rfl h
  | health => exact only_execHealth rfl h
  | monitorLoad => exact only_execMonitorLoad _ _ rfl h
  | flashRd => exact only_execFlashRd _ _ rfl h
  | flashEr => exact only_execFlashEr _ rfl h
  | flashWr => exact only_execFlashWr _ _ rfl h
  | fuseRd => exact only_execFuseRd _ _ rfl h
  | fuseWr => exact only_execFuseWr _ _ _ rfl h
  | fuseSeal => exact only_execFuseSeal _ rfl h
  | hbmTest => exact only_execHbmTest rfl h
  | hbmBurn => exact only_execHbmBurn rfl h
  | baud => exact only_execBaud _ rfl h
  | baudAuto => exact only_execBaudAuto rfl h
  | baudAutoTimeout => exact only_execBaudAutoTimeout rfl h
  | exit => exact only_execExit rfl h
  | monitorSessionTimeout => exact only_execMonitorSessionTimeout rfl h
  | latchRead => exact only_execLatchRead _ _ rfl h
  | readClear => exact only_execReadClear _ _ rfl h
  | writeOneClear => exact only_execWriteOneClear _ _ _ rfl h
  | registerWrite => exact only_execRegisterWrite _ _ _ rfl h
  | warmResetComplete => exact only_execWarmResetComplete rfl h
  | dormantEntryComplete => exact only_execDormantEntryComplete rfl h
  | autobaudCharacter => exact only_execAutobaudCharacter _ rfl h
  | pcieConfigWrite => exact only_execPcieConfigWrite _ _ _ _ rfl h
  | jtagInstruction => exact only_execJtagInstruction _ rfl h
  | linkStateRequest host cl => exact only_execLinkStateRequest host cl rfl h

theorem keep_of_exec {c : Instr} {s t : State} (h : exec c s = .next t) : Keep s t :=
  (only_exec c (Only.refl _ s) t h).keep

/-- On an empty queue the tick leaves the fuse unit alone; else the command acts on a state that differs in its queue only. -/
theorem fusesKept_of_step {s t : State} (h : step s = .next t) : fusesKept s t := by
  unfold step at h
  split at h
  case h_1 =>
    cases h
    exact (only_tick (m := 0x4000000042) rfl (Only.refl _ s)).keep.fuse
  case h_2 =>
    exact (keep_of_exec h).fuse

/-- Settles O6: the tick and the meaning of every command keep each programmed bit. -/
theorem noStepClearsFuse : Obligations.NoStepClearsFuse := fun _ _ => fusesKept_of_step

end Sys2Proof.Machine
end
